-- ==== Sys2Proof/Word.lean ====
section
/-! DEFINITION. The word types, and the small closed types an instruction's operands are made of
(spec/03_encoding.md, R55-R72). Everything that reads or computes with them stands under Sys2Proof/Machine/
or in Sys2Proof/Decode.lean. -/

namespace Sys2Proof

/-- One 64-bit scalar value. -/
abbrev Word := BitVec 64
/-- One byte of memory (R6). -/
abbrev Byte := BitVec 8
/-- One instruction word (R55). -/
abbrev IWord := BitVec 32
/-- A scalar register s0 to s31 (Table 3.2). -/
abbrev SReg := BitVec 5
/-- A vector register v0 to v31 (Table 3.2). -/
abbrev VReg := BitVec 5
/-- A mask register m0 to m7 (R28, R60). -/
abbrev MReg := BitVec 3
/-- A sparse register sv0 to sv7 (R60). -/
abbrev SvReg := BitVec 3
/-- An accumulator acc0 to acc7 (R60). -/
abbrev AccReg := BitVec 3
/-- A scalar pair sB, sB + 1 by its pair number: sB is twice it, from 2 to 30 (R60). -/
abbrev PairReg := BitVec 4
/-- A CSR number (R113). -/
abbrev CsrNum := BitVec 12

/-- The b operand of a row that lists "vB or sB" (R69): f[9] set makes it a scalar register. -/
inductive VOperand where
  | vec (r : VReg)
  | sca (r : SReg)
  deriving DecidableEq, Repr

namespace VOperand
/-- The register number in the b field. -/
def reg : VOperand → BitVec 5
  | vec r => r
  | sca r => r
/-- f[9]: set for a scalar. -/
def flag : VOperand → Bool
  | vec _ => false
  | sca _ => true
end VOperand

/-- The type T of the scalar floating-point instructions (R66). -/
inductive FTy where
  | f32 | f64 | f16 | bf16
  deriving DecidableEq, Repr

namespace FTy
def ofCode (n : Nat) : FTy := match n with | 0 => .f32 | 1 => .f64 | 2 => .f16 | _ => .bf16
def code : FTy → Nat | .f32 => 0 | .f64 => 1 | .f16 => 2 | .bf16 => 3
end FTy

/-- The integer types of `fcvt` (R119). -/
inductive ITy where
  | i64 | ui64 | i32 | ui32
  deriving DecidableEq, Repr

namespace ITy
def ofCode (n : Nat) : ITy := match n with | 0 => .i64 | 1 => .ui64 | 2 => .i32 | _ => .ui32
def code : ITy → Nat | .i64 => 0 | .ui64 => 1 | .i32 => 2 | .ui32 => 3
end ITy

/-- The order modifier of an AMO (R68). -/
inductive AmoOrder where
  | rlx | acq | rel | sc
  deriving DecidableEq, Repr

namespace AmoOrder
def ofCode (n : Nat) : AmoOrder := match n with | 0 => .rlx | 1 => .acq | 2 => .rel | _ => .sc
def code : AmoOrder → Nat | .rlx => 0 | .acq => 1 | .rel => 2 | .sc => 3
end AmoOrder

/-- The sizes of `amo.swap` and `amo.cas` (Table 3.8). -/
inductive AmoSize where
  | w | d | f32 | bf16
  deriving DecidableEq, Repr

namespace AmoSize
def ofCode (n : Nat) : AmoSize := match n with | 0 => .w | 1 => .d | 2 => .f32 | _ => .bf16
def code : AmoSize → Nat | .w => 0 | .d => 1 | .f32 => 2 | .bf16 => 3
end AmoSize

/-- The sizes of the integer AMOs (Table 3.8). -/
inductive IntSize where
  | w | d
  deriving DecidableEq, Repr

namespace IntSize
def ofCode (n : Nat) : IntSize := match n with | 0 => .w | _ => .d
def code : IntSize → Nat | .w => 0 | .d => 1
def toAmo : IntSize → AmoSize | .w => .w | .d => .d
end IntSize

/-- The sizes of `amo.fadd` (Table 3.8). -/
inductive FpSize where
  | f32 | bf16
  deriving DecidableEq, Repr

namespace FpSize
def ofCode (n : Nat) : FpSize := match n with | 0 => .f32 | _ => .bf16
def code : FpSize → Nat | .f32 => 0 | .bf16 => 1
def toAmo : FpSize → AmoSize | .f32 => .f32 | .bf16 => .bf16
end FpSize

/-- The scopes of Table 12.1, in their code order. -/
inductive Scope where
  | strand | cluster | octet | die | device | system
  deriving DecidableEq, Repr

namespace Scope
def ofCode (n : Nat) : Scope :=
  match n with | 0 => .strand | 1 => .cluster | 2 => .octet | 3 => .die | 4 => .device | _ => .system
def code : Scope → Nat | .strand => 0 | .cluster => 1 | .octet => 2 | .die => 3 | .device => 4 | .system => 5
end Scope

/-- A WID level or a `cpdim` level, 0 to 5 (R20, R71). -/
inductive Level where
  | l0 | l1 | l2 | l3 | l4 | l5
  deriving DecidableEq, Repr

namespace Level
def ofCode (n : Nat) : Level :=
  match n with | 0 => .l0 | 1 => .l1 | 2 => .l2 | 3 => .l3 | 4 => .l4 | _ => .l5
def code : Level → Nat | .l0 => 0 | .l1 => 1 | .l2 => 2 | .l3 => 3 | .l4 => 4 | .l5 => 5
end Level

/-- The four forms of a CSR instruction (R113). -/
inductive CsrOp where
  | read | write | set | clear
  deriving DecidableEq, Repr

/-- The kinds of a fence (Table 12.6). -/
inductive FenceKind where
  | acq | rel | ar | sc
  deriving DecidableEq, Repr

/-- A strand of the device: the management core, a strand of the task whose record number is `tid`
(`e` is set for the E strand of a decoupled pair), or one of the thaw threads of a cluster. -/
inductive StrandId where
  | mgmt
  | task (tid : Nat) (e : Bool)
  | thaw (cluster thread : Nat)
  deriving DecidableEq, Repr

/-- The two host ports (R408). -/
inductive Port where
  | hpa | hpb
  deriving DecidableEq, Repr

/-- A message of the remote transports (Table 15.2), as the hub sends and receives it. -/
structure RMsg where
  ty    : Nat
  seq   : BitVec 32
  sdev  : BitVec 16
  ddev  : BitVec 16
  sten  : BitVec 5
  win   : BitVec 4
  off   : Nat
  ecnt  : BitVec 16
  stat  : BitVec 8
  ver   : BitVec 4
  /-- payload bytes (PLEN of them) -/
  data  : List Byte
  /-- the addition format of a `vscadd` element or the operation of an atomic request; 0 for a write; the number of a
  restart (log entry 34) -/
  op    : Nat
  /-- the size in bytes of an element, of an atomic or of a stamp -/
  size  : Nat
  deriving DecidableEq, Repr

/-- Where an uncorrectable or corrected error is detected (R434, R435). -/
inductive ErrPlace where
  | corrected
  /-- the aligned 8 bytes of device memory at `pa`, in HBM or BKM or an L1's line of them -/
  | mem (pa : Nat)
  /-- the aligned 8 bytes of an L1's line of host memory -/
  | host (pa : Nat)
  /-- the aligned 8 bytes of a task's scratchpad at `off` -/
  | spad (tid off : Nat)
  | sreg (t : StrandId) (r : BitVec 5)
  /-- element group `g` of a vector register -/
  | vreg (t : StrandId) (r : BitVec 5) (g : BitVec 3)
  | mreg (t : StrandId) (r : BitVec 3)
  /-- element group `g` of a sparse register -/
  | svreg (t : StrandId) (r : BitVec 3) (g : BitVec 4)
  /-- row `row` of a task's accumulator tile -/
  | acc (tid : Nat) (tile : BitVec 3) (row : BitVec 6)
  deriving DecidableEq, Repr

/-- The internal state an uncorrectable error strikes (Table 23.5). -/
inductive IntErr where
  /-- a task's record; `frameToo`: and the copy of its FRAME (R354) -/
  | taskRecord (tid : Nat) (frameToo : Bool)
  | graphNode (tenant gid idx : Nat)
  | divEntry (cluster id : Nat)
  | mergeBuffer (t : StrandId)
  | edgeEntry (die tenant group eid : Nat)
  | frame (tid : Nat)
  deriving DecidableEq, Repr

end Sys2Proof
end

