-- ==== Sys2Proof/Syntax.lean ====
section
/-! DEFINITION. The instructions and events of the Ngadun: one constructor per row of spec/opcode_table.json, in the
order of the table but that the operand-carrying rows of majors 0x01 to 0x32 come first. A row with an encoding has its operand fields as arguments; a row without one is an event of the part
(chapters 05 to 23), and its arguments say which strand, engine, tenant or message it is about. -/

namespace Sys2Proof

/-- An instruction, or an event, of the machine. -/
inductive Instr where
  /-- R135: Sets MR from the 25-bit image; an image that R29 rejects raises ILL. -/
  | mode (i : BitVec 25)
  /-- R136: Completes with its end check, then traps with cause SYS and TVAL = code. -/
  | trap (c : BitVec 10)
  /-- R136: Traps with cause BRK without completing, with TEPC = its own address. -/
  | brk (c : BitVec 10)
  /-- R415: Starts removal of the stage-1 translations of one ASID whose page holds the address. -/
  | tlbinvVa (d : SReg) (a : SReg)
  /-- R415: Starts removal of every non-global translation of one ASID. -/
  | tlbinvAsid (d : SReg)
  /-- R415: At H level, starts removal of translations of a VMID by IPA page or wholly. -/
  | tlbinvIpa (d : SReg) (a : SReg)
  /-- R420: Waits for earlier writes to reach system scope, then sends or marks pending the tenant's MSI-X vector.
      -/
  | intr (p : BitVec 1) (v : BitVec 6)
  /-- R108: Writes a + b. -/
  | add (d : SReg) (a : SReg) (b : SReg) (w : Bool)
  /-- R108: Writes a − b. -/
  | sub (d : SReg) (a : SReg) (b : SReg) (w : Bool)
  /-- R108: Writes the low w bits of a × b. -/
  | mul (d : SReg) (a : SReg) (b : SReg) (w : Bool)
  /-- R108: Writes the high half of the signed product. -/
  | mulh (d : SReg) (a : SReg) (b : SReg) (w : Bool)
  /-- R108: Writes the high half of the unsigned product. -/
  | mulhu (d : SReg) (a : SReg) (b : SReg) (w : Bool)
  /-- R108: Writes the signed quotient, saturating on division by zero. -/
  | div (d : SReg) (a : SReg) (b : SReg) (w : Bool)
  /-- R108: Writes the unsigned quotient, all ones on division by zero. -/
  | divu (d : SReg) (a : SReg) (b : SReg) (w : Bool)
  /-- R108: Writes the signed remainder, the dividend on division by zero. -/
  | rem (d : SReg) (a : SReg) (b : SReg) (w : Bool)
  /-- R108: Writes the unsigned remainder, the dividend on division by zero. -/
  | remu (d : SReg) (a : SReg) (b : SReg) (w : Bool)
  /-- R108: Writes a AND b. -/
  | and (d : SReg) (a : SReg) (b : SReg) (w : Bool)
  /-- R108: Writes a OR b. -/
  | or (d : SReg) (a : SReg) (b : SReg) (w : Bool)
  /-- R108: Writes a XOR b. -/
  | xor (d : SReg) (a : SReg) (b : SReg) (w : Bool)
  /-- R108: Writes a shifted left by the amount in b. -/
  | sll (d : SReg) (a : SReg) (b : SReg) (w : Bool)
  /-- R108: Writes a shifted right logically by the amount in b. -/
  | srl (d : SReg) (a : SReg) (b : SReg) (w : Bool)
  /-- R108: Writes a shifted right arithmetically by the amount in b. -/
  | sra (d : SReg) (a : SReg) (b : SReg) (w : Bool)
  /-- R108: Writes 1 if a < b signed, else 0. -/
  | slt (d : SReg) (a : SReg) (b : SReg) (w : Bool)
  /-- R108: Writes 1 if a < b unsigned, else 0. -/
  | sltu (d : SReg) (a : SReg) (b : SReg) (w : Bool)
  /-- R108: Writes the signed minimum. -/
  | min (d : SReg) (a : SReg) (b : SReg) (w : Bool)
  /-- R108: Writes the signed maximum. -/
  | max (d : SReg) (a : SReg) (b : SReg) (w : Bool)
  /-- R108: Writes the unsigned minimum. -/
  | minu (d : SReg) (a : SReg) (b : SReg) (w : Bool)
  /-- R108: Writes the unsigned maximum. -/
  | maxu (d : SReg) (a : SReg) (b : SReg) (w : Bool)
  /-- R110: Writes a plus the sign-extended immediate. -/
  | addi (d : SReg) (a : SReg) (i : BitVec 15)
  /-- R110: Writes a AND the sign-extended immediate. -/
  | andi (d : SReg) (a : SReg) (i : BitVec 15)
  /-- R110: Writes a OR the zero-extended immediate. -/
  | ori (d : SReg) (a : SReg) (i : BitVec 15)
  /-- R110: Writes a XOR the zero-extended immediate. -/
  | xori (d : SReg) (a : SReg) (i : BitVec 15)
  /-- R111: Shifts a left by the immediate amount. -/
  | slli (d : SReg) (a : SReg) (w : Bool) (n : BitVec 6)
  /-- R111: Shifts a right logically by the immediate amount. -/
  | srli (d : SReg) (a : SReg) (w : Bool) (n : BitVec 6)
  /-- R111: Shifts a right arithmetically by the immediate amount. -/
  | srai (d : SReg) (a : SReg) (w : Bool) (n : BitVec 6)
  /-- R110: Writes 1 if a is below the signed immediate. -/
  | slti (d : SReg) (a : SReg) (i : BitVec 15)
  /-- R110: Writes 1 if a is below the sign-extended immediate, compared unsigned. -/
  | sltiu (d : SReg) (a : SReg) (i : BitVec 15)
  /-- R110: Writes the immediate shifted left by 12, sign-extended from 32 bits. -/
  | lih (d : SReg) (i : BitVec 20)
  /-- R110: Shifts d left by 20 and ORs in the immediate. -/
  | lix (d : SReg) (i : BitVec 20)
  /-- R109: Writes a if c is nonzero, else b. -/
  | sel (d : SReg) (a : SReg) (b : SReg) (c : SReg)
  /-- R112: Counts leading zero bits. -/
  | clz (d : SReg) (a : SReg) (w : Bool)
  /-- R112: Counts trailing zero bits. -/
  | ctz (d : SReg) (a : SReg) (w : Bool)
  /-- R112: Counts one bits. -/
  | popc (d : SReg) (a : SReg) (w : Bool)
  /-- R112: Extracts the field that b describes. -/
  | bext (d : SReg) (a : SReg) (b : SReg) (w : Bool)
  /-- R112: Inserts the low bits of a into the field of d that b describes. -/
  | bins (d : SReg) (a : SReg) (b : SReg) (w : Bool)
  /-- R112: Reverses the bytes. -/
  | bswap (d : SReg) (a : SReg) (w : Bool)
  /-- R113: Reads a CSR into d after the access checks. -/
  | csrr (d : SReg) (n : CsrNum)
  /-- R113: Writes a CSR with the value of a and returns its old value; the general row for writes to registers
      without a row of their own. -/
  | csrw (d : SReg) (a : SReg) (n : CsrNum)
  /-- R113: Sets the CSR bits that are set in a, writing back the others as read. -/
  | csrs (d : SReg) (a : SReg) (n : CsrNum)
  /-- R113: Clears the CSR bits that are set in a, writing back the others as read. -/
  | csrc (d : SReg) (a : SReg) (n : CsrNum)
  /-- R117: Scalar floating-point add, rounded in MR.RM. -/
  | fadd (d : SReg) (a : SReg) (b : SReg) (t : FTy)
  /-- R117: Scalar floating-point subtract. -/
  | fsub (d : SReg) (a : SReg) (b : SReg) (t : FTy)
  /-- R117: Scalar floating-point multiply. -/
  | fmul (d : SReg) (a : SReg) (b : SReg) (t : FTy)
  /-- R117: Scalar floating-point divide. -/
  | fdiv (d : SReg) (a : SReg) (b : SReg) (t : FTy)
  /-- R117: Scalar floating-point square root. -/
  | fsqrt (d : SReg) (a : SReg) (t : FTy)
  /-- R117: Scalar floating-point minimum under R96. -/
  | fmin (d : SReg) (a : SReg) (b : SReg) (t : FTy)
  /-- R117: Scalar floating-point maximum under R96. -/
  | fmax (d : SReg) (a : SReg) (b : SReg) (t : FTy)
  /-- R117: Writes 1 if the operands are equal. -/
  | feq (d : SReg) (a : SReg) (b : SReg) (t : FTy)
  /-- R117: Writes 1 if a is less than b. -/
  | flt (d : SReg) (a : SReg) (b : SReg) (t : FTy)
  /-- R117: Writes 1 if a is at most b. -/
  | fle (d : SReg) (a : SReg) (b : SReg) (t : FTy)
  /-- R118: Writes the class word of the operand. -/
  | fclass (d : SReg) (a : SReg) (t : FTy)
  /-- R119: Converts between float types; S equal to T raises ILL. -/
  | fcvtFF (d : SReg) (a : SReg) (t : FTy) (s : FTy)
  /-- R119: Converts an integer to float type T. -/
  | fcvtFI (d : SReg) (a : SReg) (t : FTy) (s : ITy)
  /-- R119: Converts float type T to an integer under R94. -/
  | fcvtIF (d : SReg) (a : SReg) (t : FTy) (s : ITy)
  /-- R117: Gives a the sign of b. -/
  | fsgnj (d : SReg) (a : SReg) (b : SReg) (t : FTy)
  /-- R117: Gives a the inverted sign of b. -/
  | fsgnjN (d : SReg) (a : SReg) (b : SReg) (t : FTy)
  /-- R117: Gives a the XOR of both signs. -/
  | fsgnjX (d : SReg) (a : SReg) (b : SReg) (t : FTy)
  /-- R120: Computes x × y + z with one rounding. -/
  | ffma (d : SReg) (a : SReg) (b : SReg) (c : SReg) (t : FTy)
  /-- R120: Computes x × y − z with one rounding. -/
  | ffms (d : SReg) (a : SReg) (b : SReg) (c : SReg) (t : FTy)
  /-- R120: Computes −(x × y) + z with one rounding. -/
  | ffnma (d : SReg) (a : SReg) (b : SReg) (c : SReg) (t : FTy)
  /-- R120: Computes −(x × y) − z with one rounding. -/
  | ffnms (d : SReg) (a : SReg) (b : SReg) (c : SReg) (t : FTy)
  /-- R121: Branches if a == b, ending any loop it leaves. -/
  | beq (a : SReg) (b : SReg) (o : BitVec 15)
  /-- R121: Branches if a ≠ b. -/
  | bne (a : SReg) (b : SReg) (o : BitVec 15)
  /-- R121: Branches if a < b signed. -/
  | blt (a : SReg) (b : SReg) (o : BitVec 15)
  /-- R121: Branches if a ≥ b signed. -/
  | bge (a : SReg) (b : SReg) (o : BitVec 15)
  /-- R121: Branches if a < b unsigned. -/
  | bltu (a : SReg) (b : SReg) (o : BitVec 15)
  /-- R121: Branches if a ≥ b unsigned. -/
  | bgeu (a : SReg) (b : SReg) (o : BitVec 15)
  /-- R122: Jumps PC-relative and links s31. -/
  | jal (o : BitVec 25)
  /-- R122: Jumps to a + imm and links d; a misaligned target raises ALN. -/
  | jalr (d : SReg) (a : SReg) (i : BitVec 15)
  /-- R124: Starts hardware loop N with a count from a register. -/
  | loop (n : BitVec 1) (a : SReg) (e : BitVec 15)
  /-- R124: Starts hardware loop N with an immediate count. -/
  | loopi (n : BitVec 1) (c : BitVec 12) (e : BitVec 8)
  /-- R144: Starts a strip-mined loop over an element count. -/
  | vloop (n : BitVec 1) (a : SReg) (e : BitVec 15)
  /-- R128: Clears the count, start and end of loop N. -/
  | lpclr (n : BitVec 1)
  /-- R130: Pushes one outcome bit onto bq from the A strand. -/
  | bqput (a : SReg)
  /-- R130: Pops one bit from bq in the E strand and branches if it is 1. -/
  | bqb (o : BitVec 15)
  /-- R131: Loads a sign-extended byte. -/
  | ldB (d : SReg) (a : SReg) (o : BitVec 12)
  /-- R131: Loads a sign-extended halfword. -/
  | ldH (d : SReg) (a : SReg) (o : BitVec 12)
  /-- R131: Loads a sign-extended word. -/
  | ldW (d : SReg) (a : SReg) (o : BitVec 12)
  /-- R131: Loads a doubleword. -/
  | ldD (d : SReg) (a : SReg) (o : BitVec 12)
  /-- R131: Loads a zero-extended byte. -/
  | ldBu (d : SReg) (a : SReg) (o : BitVec 12)
  /-- R131: Loads a zero-extended halfword. -/
  | ldHu (d : SReg) (a : SReg) (o : BitVec 12)
  /-- R131: Loads a zero-extended word. -/
  | ldWu (d : SReg) (a : SReg) (o : BitVec 12)
  /-- R131: Stores the low byte of d. -/
  | stB (d : SReg) (a : SReg) (o : BitVec 12)
  /-- R131: Stores the low halfword of d. -/
  | stH (d : SReg) (a : SReg) (o : BitVec 12)
  /-- R131: Stores the low word of d. -/
  | stW (d : SReg) (a : SReg) (o : BitVec 12)
  /-- R131: Stores the doubleword d. -/
  | stD (d : SReg) (a : SReg) (o : BitVec 12)
  /-- R134: Asks for a line in L1; may be dropped and never traps. -/
  | prefR (a : SReg) (o : BitVec 12)
  /-- R134: Asks for a line in L1 with ownership. -/
  | prefW (a : SReg) (o : BitVec 12)
  /-- R134: Asks the home slice to fetch a line from HBM. -/
  | prefS (a : SReg) (o : BitVec 12)
  /-- R257: Atomically adds b to memory and returns the old value. -/
  | amoAdd (d : SReg) (a : SReg) (b : SReg) (o : AmoOrder) (s : IntSize)
  /-- R257: Atomic AND. -/
  | amoAnd (d : SReg) (a : SReg) (b : SReg) (o : AmoOrder) (s : IntSize)
  /-- R257: Atomic OR. -/
  | amoOr (d : SReg) (a : SReg) (b : SReg) (o : AmoOrder) (s : IntSize)
  /-- R257: Atomic XOR. -/
  | amoXor (d : SReg) (a : SReg) (b : SReg) (o : AmoOrder) (s : IntSize)
  /-- R257: Atomic signed minimum. -/
  | amoMin (d : SReg) (a : SReg) (b : SReg) (o : AmoOrder) (s : IntSize)
  /-- R257: Atomic signed maximum. -/
  | amoMax (d : SReg) (a : SReg) (b : SReg) (o : AmoOrder) (s : IntSize)
  /-- R257: Atomic unsigned minimum. -/
  | amoMinu (d : SReg) (a : SReg) (b : SReg) (o : AmoOrder) (s : IntSize)
  /-- R257: Atomic unsigned maximum. -/
  | amoMaxu (d : SReg) (a : SReg) (b : SReg) (o : AmoOrder) (s : IntSize)
  /-- R257: Atomic swap. -/
  | amoSwap (d : SReg) (a : SReg) (b : SReg) (o : AmoOrder) (z : AmoSize)
  /-- R257: Atomic compare-and-swap of bit patterns, with the expected value in d. -/
  | amoCas (d : SReg) (a : SReg) (b : SReg) (o : AmoOrder) (z : AmoSize)
  /-- R257: Atomic floating-point add in RNE. -/
  | amoFadd (d : SReg) (a : SReg) (b : SReg) (o : AmoOrder) (z : FpSize)
  /-- R259: Acquire fence at a scope. -/
  | fenceAcq (s : Scope)
  /-- R259: Release fence at a scope. -/
  | fenceRel (s : Scope)
  /-- R259: Acquire-release fence at a scope. -/
  | fenceAr (s : Scope)
  /-- R259: Sequentially consistent fence that also draws a ticket. -/
  | fenceSc (s : Scope)
  /-- R260: Waits until earlier vector memory instructions have performed at the scope. -/
  | vdrain (s : Scope)
  /-- R261: Arms the strand's monitor on an 8-byte word. -/
  | mmon (a : SReg)
  /-- R262: Waits until the monitored word is at least a, then writes the observed value. -/
  | mwait (d : SReg) (a : SReg)
  /-- R263: Arrives at the barrier of the level-L group. -/
  | bar (l : Level)
  /-- R143: Sets VL to the grant for the request in a. -/
  | setvl (d : SReg) (a : SReg)
  /-- R143: Sets VL to the grant for an immediate request. -/
  | setvli (d : SReg) (i : BitVec 14)
  /-- R147: Element-wise add. -/
  | vadd (d : VReg) (a : VReg) (b : VOperand)
  /-- R147: Element-wise subtract. -/
  | vsub (d : VReg) (a : VReg) (b : VOperand)
  /-- R147: Element-wise multiply. -/
  | vmul (d : VReg) (a : VReg) (b : VOperand)
  /-- R147: Element-wise high half of the integer product. -/
  | vmulh (d : VReg) (a : VReg) (b : VOperand)
  /-- R147: Element-wise divide. -/
  | vdiv (d : VReg) (a : VReg) (b : VOperand)
  /-- R147: Element-wise minimum. -/
  | vmin (d : VReg) (a : VReg) (b : VOperand)
  /-- R147: Element-wise maximum. -/
  | vmax (d : VReg) (a : VReg) (b : VOperand)
  /-- R147: Element-wise absolute value. -/
  | vabs (d : VReg) (a : VReg)
  /-- R147: Element-wise negation. -/
  | vneg (d : VReg) (a : VReg)
  /-- R147: Element-wise AND. -/
  | vand (d : VReg) (a : VReg) (b : VOperand)
  /-- R147: Element-wise OR. -/
  | vor (d : VReg) (a : VReg) (b : VOperand)
  /-- R147: Element-wise XOR. -/
  | vxor (d : VReg) (a : VReg) (b : VOperand)
  /-- R147: Element-wise complement. -/
  | vnot (d : VReg) (a : VReg)
  /-- R147: Element-wise shift left. -/
  | vsll (d : VReg) (a : VReg) (b : VOperand)
  /-- R147: Element-wise logical shift right. -/
  | vsrl (d : VReg) (a : VReg) (b : VOperand)
  /-- R147: Element-wise arithmetic shift right. -/
  | vsra (d : VReg) (a : VReg) (b : VOperand)
  /-- R148: Accumulates four-element 8-bit dot products into INT32 elements. -/
  | vdot4 (d : VReg) (a : VReg) (b : VOperand)
  /-- R149: Adds a narrow a to a wide b. -/
  | vaddw (d : VReg) (a : VReg) (b : VOperand)
  /-- R150: Writes the class word of each element. -/
  | vclass (d : VReg) (a : VReg)
  /-- R147: Gives each element of a the sign of b. -/
  | vsgnj (d : VReg) (a : VReg) (b : VOperand)
  /-- R147: Gives each element of a the inverted sign of b. -/
  | vsgnjN (d : VReg) (a : VReg) (b : VOperand)
  /-- R147: Gives each element of a the XOR of both signs. -/
  | vsgnjX (d : VReg) (a : VReg) (b : VOperand)
  /-- R151: Element-wise x × y + z with one rounding. -/
  | vfma (d : VReg) (a : VReg) (b : VReg) (c : VReg)
  /-- R151: Element-wise x × y − z. -/
  | vfms (d : VReg) (a : VReg) (b : VReg) (c : VReg)
  /-- R151: Element-wise −(x × y) + z. -/
  | vfnma (d : VReg) (a : VReg) (b : VReg) (c : VReg)
  /-- R151: Element-wise −(x × y) − z. -/
  | vfnms (d : VReg) (a : VReg) (b : VReg) (c : VReg)
  /-- R152: Sets mask bits where the elements are equal. -/
  | vcmpEq (d : MReg) (a : VReg) (b : VOperand)
  /-- R152: Sets mask bits where the elements are not equal. -/
  | vcmpNe (d : MReg) (a : VReg) (b : VOperand)
  /-- R152: Sets mask bits where a < b. -/
  | vcmpLt (d : MReg) (a : VReg) (b : VOperand)
  /-- R152: Sets mask bits where a ≤ b. -/
  | vcmpLe (d : MReg) (a : VReg) (b : VOperand)
  /-- R152: Sets mask bits where a > b. -/
  | vcmpGt (d : MReg) (a : VReg) (b : VOperand)
  /-- R152: Sets mask bits where a ≥ b. -/
  | vcmpGe (d : MReg) (a : VReg) (b : VOperand)
  /-- R152: Sets mask bits where either operand is a NaN. -/
  | vcmpUn (d : MReg) (a : VReg) (b : VOperand)
  /-- R152: Sets mask bits where neither operand is a NaN. -/
  | vcmpOrd (d : MReg) (a : VReg) (b : VOperand)
  /-- R153: Selects a or b per element by a mask. -/
  | vsel (d : VReg) (a : VReg) (b : VReg) (c : MReg)
  /-- R192: Correctly rounded e^x per element. -/
  | vexp (d : VReg) (a : VReg)
  /-- R192: Correctly rounded 2^x per element. -/
  | vexp2 (d : VReg) (a : VReg)
  /-- R192: Correctly rounded ln x per element. -/
  | vlog (d : VReg) (a : VReg)
  /-- R192: Correctly rounded log2 x per element. -/
  | vlog2 (d : VReg) (a : VReg)
  /-- R192: Correctly rounded sin x per element. -/
  | vsin (d : VReg) (a : VReg)
  /-- R192: Correctly rounded cos x per element. -/
  | vcos (d : VReg) (a : VReg)
  /-- R192: Correctly rounded tanh x per element. -/
  | vtanh (d : VReg) (a : VReg)
  /-- R192: Correctly rounded logistic sigmoid per element. -/
  | vsigm (d : VReg) (a : VReg)
  /-- R192: Correctly rounded reciprocal per element. -/
  | vrcp (d : VReg) (a : VReg)
  /-- R192: Correctly rounded square root per element. -/
  | vsqrt (d : VReg) (a : VReg)
  /-- R192: Correctly rounded reciprocal square root per element. -/
  | vrsqrt (d : VReg) (a : VReg)
  /-- R192: Correctly rounded erf x per element. -/
  | verf (d : VReg) (a : VReg)
  /-- R196: Applies a user polynomial from the thaw table, diverting elements outside its range. -/
  | vapply (d : VReg) (a : VReg) (b : SReg)
  /-- R154: Converts each element from vA's tag to MR.ET. -/
  | vcvt (d : VReg) (a : VReg)
  /-- R155: Quantises to a scaled format and computes its scales. -/
  | vquant (d : VReg) (a : VReg)
  /-- R156: Performs one Hadamard butterfly stage at distance 2^k. -/
  | vhad (d : VReg) (a : VReg) (k : BitVec 5)
  /-- R158: Copies vA's sidecars into the elements of vD. -/
  | vsclget (d : VReg) (a : VReg)
  /-- R158: Copies bytes of vA into vD's sidecars and sets its tag. -/
  | vsclset (d : VReg) (a : VReg)
  /-- R159: Permutes elements by an index vector. -/
  | vperm (d : VReg) (a : VReg) (b : VReg)
  /-- R159: Slides elements up by a scalar amount. -/
  | vslideup (d : VReg) (a : VReg) (b : SReg)
  /-- R159: Slides elements down by a scalar amount. -/
  | vslidedn (d : VReg) (a : VReg) (b : SReg)
  /-- R159: Packs the elements a mask selects. -/
  | vcompress (d : VReg) (a : VReg) (b : MReg)
  /-- R159: Spreads elements to the positions a mask selects. -/
  | vexpand (d : VReg) (a : VReg) (b : MReg)
  /-- R159: Interleaves two vectors. -/
  | vzip (d : VReg) (a : VReg) (b : VReg)
  /-- R159: Takes the even elements of two concatenated vectors. -/
  | vunzip (d : VReg) (a : VReg) (b : VReg)
  /-- R159: Broadcasts a scalar into every active element. -/
  | vbcast (d : VReg) (a : SReg)
  /-- R159: Writes each element's index. -/
  | vid (d : VReg)
  /-- R161: Extracts one element to a scalar register. -/
  | vext (d : SReg) (a : VReg) (b : SReg)
  /-- R161: Inserts a scalar into one element. -/
  | vins (d : VReg) (a : SReg) (b : SReg)
  /-- R161: Copies a whole vector register with its tag, sidecars and presence map. -/
  | vmv (d : VReg) (a : VReg)
  /-- R162: Tree sum into element 0. -/
  | vredSum (d : VReg) (a : VReg)
  /-- R162: Tree minimum into element 0. -/
  | vredMin (d : VReg) (a : VReg)
  /-- R162: Tree maximum into element 0. -/
  | vredMax (d : VReg) (a : VReg)
  /-- R162: Tree AND into element 0. -/
  | vredAnd (d : VReg) (a : VReg)
  /-- R162: Tree OR into element 0. -/
  | vredOr (d : VReg) (a : VReg)
  /-- R162: Tree XOR into element 0. -/
  | vredXor (d : VReg) (a : VReg)
  /-- R162: Inclusive sum scan. -/
  | vscanSum (d : VReg) (a : VReg)
  /-- R162: Inclusive minimum scan. -/
  | vscanMin (d : VReg) (a : VReg)
  /-- R162: Inclusive maximum scan. -/
  | vscanMax (d : VReg) (a : VReg)
  /-- R162: Inclusive AND scan. -/
  | vscanAnd (d : VReg) (a : VReg)
  /-- R162: Inclusive OR scan. -/
  | vscanOr (d : VReg) (a : VReg)
  /-- R162: Inclusive XOR scan. -/
  | vscanXor (d : VReg) (a : VReg)
  /-- R163: Mask AND. -/
  | mand (d : MReg) (a : MReg) (b : MReg)
  /-- R163: Mask OR. -/
  | mor (d : MReg) (a : MReg) (b : MReg)
  /-- R163: Mask XOR. -/
  | mxor (d : MReg) (a : MReg) (b : MReg)
  /-- R163: Mask complement. -/
  | mnot (d : MReg) (a : MReg)
  /-- R163: Counts the set mask bits below nb. -/
  | mpop (d : SReg) (a : MReg)
  /-- R163: Finds the lowest set mask bit below nb. -/
  | mfirst (d : SReg) (a : MReg)
  /-- R163: Sets the first s mask bits and clears the rest. -/
  | mset (d : MReg) (a : SReg)
  /-- R163: Copies a mask register. -/
  | mmv (d : MReg) (a : MReg)
  /-- R187: Waits for every element of vA to be filled and traps HLF if one is FAULTED. -/
  | settle (a : VReg)
  /-- R187: Waits for vA to be filled and writes m7 with its FAULTED elements. -/
  | settleNf (a : VReg)
  /-- R188: Samples presence states of vA into a mask without waiting for holes. -/
  | vpres (d : MReg) (a : VReg)
  /-- R191: Fills the served element, accrues flags, frees the entry and ends the thaw handler. -/
  | vfill (a : SReg)
  /-- R165: Loads a register at unit stride, completing before its data lands. -/
  | vld (d : VReg) (a : SReg) (w : Bool)
  /-- R165: Loads a register at a scalar stride. -/
  | vlds (d : VReg) (a : SReg) (b : SReg) (w : Bool)
  /-- R168: Waits until all landed bits of vD are set. -/
  | vwait (d : VReg)
  /-- R169: Stores a register at unit stride as a store train. -/
  | vst (d : VReg) (a : SReg) (u : Bool)
  /-- R169: Stores a register at a scalar stride. -/
  | vsts (d : VReg) (a : SReg) (b : SReg) (u : Bool)
  /-- R265: Gathers elements from indexed addresses. -/
  | vgat (d : VReg) (a : SReg) (b : VReg) (s : Bool)
  /-- R266: Scatters elements to indexed addresses. -/
  | vsct (d : VReg) (a : SReg) (b : VReg) (u : Bool)
  /-- R267: Adds elements into indexed memory locations atomically. -/
  | vscadd (d : VReg) (a : SReg) (b : VReg) (u : Bool)
  /-- R268: Advances one word by the active elements and returns exclusive prefixes. -/
  | vfas (d : VReg) (a : SReg) (b : VReg)
  /-- R269: Sets mask bits for indexed addresses that would pass every load check. -/
  | vprobe (d : MReg) (a : SReg) (b : VReg) (s : Bool)
  /-- R270: Loads elements one by one, each drawing an SC ticket. -/
  | vldSc (d : VReg) (a : SReg)
  /-- R270: Stores elements one by one, each drawing an SC ticket. -/
  | vstSc (d : VReg) (a : SReg)
  /-- R207: Multiplies register rows by a dense scratchpad tile into an accumulator. -/
  | mma (d : AccReg) (a : VReg) (b : PairReg) (z : Bool) (g : BitVec 2)
  /-- R207: Multiplies two scratchpad tiles into an accumulator. -/
  | mmas (d : AccReg) (a : PairReg) (b : PairReg) (z : Bool)
  /-- R207: Multiplies register rows by a vector-wise sparse tile. -/
  | mmasp (d : AccReg) (a : VReg) (b : PairReg) (z : Bool) (g : BitVec 2)
  /-- R214: Zeroes an accumulator tile and sets kind ZERO. -/
  | maccZ (d : AccReg)
  /-- R215: Reads one accumulator row into a vector register. -/
  | maccRd (d : VReg) (a : AccReg) (b : SReg)
  /-- R215: Writes one accumulator row from a vector register. -/
  | maccWr (d : AccReg) (a : VReg) (b : SReg)
  /-- R217: Drains accumulator rows to strided memory through the vector store unit. -/
  | maccSt (d : AccReg) (a : SReg) (b : SReg)
  /-- R219: Drains accumulator rows to per-row addresses from a vector. -/
  | maccStX (d : AccReg) (a : SReg) (b : VReg)
  /-- R204: Checks a proposed tile word pair and writes it or a failure pair. -/
  | mtd (d : PairReg) (a : SReg) (b : SReg)
  /-- R226: Loads a sparse image into a sparse register. -/
  | svld (d : SvReg) (a : SReg)
  /-- R226: Stores a sparse register as a sparse image. -/
  | svst (d : SvReg) (a : SReg)
  /-- R227: Forms the union of two sparse registers, adding shared coordinates. -/
  | svadd (d : SvReg) (a : SvReg) (b : SvReg)
  /-- R227: Forms the intersection of two sparse registers, multiplying values. -/
  | svmul (d : SvReg) (a : SvReg) (b : SvReg)
  /-- R228: Multiplies every value of a sparse register by a scalar. -/
  | svscale (d : SvReg) (a : SvReg) (b : SReg)
  /-- R229: Compresses a dense vector into a sparse register. -/
  | svcomp (d : SvReg) (a : VReg)
  /-- R230: Expands a sparse register into a dense vector. -/
  | svexp (d : VReg) (a : SvReg)
  /-- R231: Writes a sparse register's status word. -/
  | svlen (d : SReg) (a : SvReg)
  /-- R136: Completes with no effect, followed by the loop-end check. -/
  | nop
  /-- R427: Returns from a trap to TEPC and restores the level and IE from TSTATUS. -/
  | tret
  /-- R136: Stops management-core fetch until an interrupt is pending at M or a reset occurs. -/
  | halt
  /-- R136: Stops the strand issuing until an interrupt for its tenant and level is pending. -/
  | wfi
  /-- R415: Starts removal of every translation of the tenant's VMID. -/
  | tlbinvVmid
  /-- R416: Waits until every earlier tlbinv of the strand has taken full effect. -/
  | tlbsync
  /-- R416: A waiting tlbsync completes once removed entries, their users and their pins are gone. -/
  | tlbsyncComplete (t : StrandId)
  /-- R29: A CSR write to MR acts as mode with the written image. -/
  | mrWrite (v : Word)
  /-- R98: A CSR access to FFLAGS waits for earlier element groups and fills, then reads or writes. -/
  | fflagsAccess (t : StrandId)
  /-- R179: An element-group micro-operation issues once its operands are ready and enough diversion entries are
      free. -/
  | microOpIssue (t : StrandId)
  /-- R187: Waits over every vector register and traps HLF on a FAULTED element. -/
  | settleAll
  /-- R187: Waits over every vector register and writes m7 with registers holding FAULTED elements. -/
  | settleNfAll
  /-- R187: A waiting settle ends once every element it waits on is PRESENT or FAULTED. -/
  | settleComplete (t : StrandId)
  /-- R180: An idle thaw thread takes the oldest ready diversion entry and starts its handler. -/
  | thawTake (c : Nat) (k : Nat)
  /-- R182: A thaw handler running 2^20 cycles faults its entry with TMO. -/
  | thawTimeout (c : Nat) (k : Nat)
  /-- R239: Reads a merge context and waits to bind the octet's merge network. -/
  | mgopen (d : SReg) (a : SReg)
  /-- R239: Moves a bound context to a new spill area. -/
  | mgopenCont (d : SReg) (a : SReg)
  /-- R239: A waiting mgopen is granted the freed network and binds its context. -/
  | mgopenGrant (o : Nat)
  /-- R237: Pushes a sparse register's pairs as one batch into a stream, accepted or rejected whole. -/
  | mgpush (d : SReg) (a : SvReg) (b : SReg) (s : BitVec 4)
  /-- R240: Seals an open merge context for the final merge. -/
  | mgflush (d : SReg)
  /-- R241: Emits merged rows up to L into CSR arrays. -/
  | mgpull (d : SReg) (a : SReg)
  /-- R241: Emits up to 256 merged keys of one row into a sparse register. -/
  | mgpullSv (d : SvReg) (a : SReg)
  /-- R242: Writes the context's result fields and frees the network. -/
  | mgclose
  /-- R243: Returns the number of runs written. -/
  | mgstatRuns (d : SReg)
  /-- R243: Returns the number of entries in the buffer. -/
  | mgstatEntries (d : SReg)
  /-- R243: Returns STAT, STATE and the row position. -/
  | mgstatStatus (d : SReg)
  /-- R244: An uncorrectable merge-buffer error fails the context with MGE and discards its entries. -/
  | mergeBufferError (t : StrandId)
  /-- R294: Sets extent and strides of dimension register L. -/
  | cpdim (d : SReg) (a : SReg) (b : SReg) (l : Level)
  /-- R300: Validates a copy record, probes and pins pages, and queues a copy on the tile-walk engine. -/
  | cpgo (d : SReg) (a : SReg)
  /-- R313: Starts a stream gather of table rows into scratchpad by the ISEs. -/
  | cpgat (d : SReg) (a : SReg)
  /-- R301: Starts a multicast copy into a slot of several clusters of the octet. -/
  | cpmc (d : SReg) (a : SReg) (b : SReg)
  /-- R302: Registers a slot and adds permits to it. -/
  | permit (a : SReg) (b : SReg)
  /-- R309: Returns the status word of a copy id. -/
  | cpstat (d : SReg) (a : SReg)
  /-- R300: A copy instruction blocked on a full engine queue joins it once room frees. -/
  | copyQueueAdmit (t : StrandId)
  /-- R300: The tile-walk engine starts the next copy of its queue. -/
  | copyStart (c : Nat)
  /-- R303: A slot copy takes a permit at every target once one is available. -/
  | slotPermitTake (u : Nat)
  /-- R296: The engine reads, converts and writes one transfer of a copy. -/
  | transfer (u : Nat) (n : Nat)
  /-- R313: An ISE copies one surviving table row into scratchpad. -/
  | gatherRow (u : Nat) (e : Nat)
  /-- R307: Once every transfer has entered, writes the copy's stamp as an atomic maximum. -/
  | copyStamp (u : Nat)
  /-- R308: A copy fails on ECC, a slot breach, a task end or a held remote stamp, and writes no stamp. -/
  | copyFail (u : Nat) (cause : Nat) (n : Nat)
  /-- R337: Validates a launch header, assigns a launch id and starts the pin pass and enumeration. -/
  | launch (d : SReg) (a : SReg)
  /-- R337: A launch waiting on the tenant's 4,096 outstanding launches proceeds once one completes. -/
  | launchAdmit (t : StrandId)
  /-- R340: Once RESUME reaches 1, the pin pass runs again. -/
  | pinPassResume (tn : Nat) (lid : Nat)
  /-- R345: Validates a graph and submits it, releasing nodes with no predecessors. -/
  | gsub (d : SReg) (a : SReg)
  /-- R345: A gsub waiting for COUNT free record entries proceeds once they free. -/
  | gsubAdmit (t : StrandId)
  /-- R351: Pushes an entry onto the strand's steal list. -/
  | spawn (a : SReg) (b : SReg)
  /-- R353: Removes its own spawn entry or waits for the stolen body's frame word. -/
  | join (d : SReg) (a : SReg)
  /-- R353: A waiting join completes once the frame's dword reaches 1. -/
  | joinWake (t : StrandId)
  /-- R349: Saves the context and requeues the task at the tail. -/
  | yield
  /-- R350: Saves masked registers and parks the task on a word until it meets a value. -/
  | park (d : SReg) (a : SReg) (b : SReg)
  /-- R348: Begins ending the task: settles, waits for copies and remote work, and releases. -/
  | tend
  /-- R348: After its waits, tend closes contexts, materialises spawns, frees resources and ends the task. -/
  | tendComplete (t : StrandId)
  /-- R357: Sets the task's current priority. -/
  | prio (a : SReg)
  /-- R358: Writes field L of the work identifier. -/
  | wid (d : SReg) (l : Level)
  /-- R338: Creates the next task record of a launch when a record entry is free. -/
  | taskEnumerate (tn : Nat) (lid : Nat)
  /-- R339: A waiting gang group becomes RUNNING once all members fit at once. -/
  | gangAdmit (tn : Nat) (lid : Nat) (g : Nat)
  /-- R355: A freed strand context is given to the oldest eligible ready task of the winning queue. -/
  | taskDispatch (c : Nat)
  /-- R356: Pre-empts a lower-priority task of the same tenant for a ready task that finds no context. -/
  | preempt (tid : Nat)
  /-- R352: A cluster with a free context materialises a victim's oldest steal-list entry as a task. -/
  | steal (c : Nat) (t : StrandId)
  /-- R350: A parked task becomes READY once its word meets its value. -/
  | parkWake (tid : Nat)
  /-- R342: When all tasks of a launch have ended, writes its completion record and stamp. -/
  | launchComplete (tn : Nat) (lid : Nat)
  /-- R346: A node finishes and decrements its successors, releasing those that reach zero. -/
  | nodeFinish (tn : Nat) (gid : Nat) (i : Nat)
  /-- R346: A failed node cancels every node reachable from it. -/
  | nodeFail (tn : Nat) (gid : Nat) (i : Nat)
  /-- R371: Reads edge records and waits to arm them in one indivisible step. -/
  | vaneArm (d : SReg) (a : SReg) (b : SReg)
  /-- R371: Once no new edge's unpointed end is firing, arms the edges or reports a status. -/
  | vaneArmCommit (t : StrandId)
  /-- R367: Ends a firing: settles, releases, requeues and flips every held edge. -/
  | vret
  /-- R369: Ends a firing as vret does and counts it idle. -/
  | lull
  /-- R369: Sets the pending idle count and acts as lull. -/
  | lullN (a : SReg)
  /-- R375: Returns a snapshot of an edge word or the caller's member word. -/
  | vaneRd (d : SReg) (a : SReg)
  /-- R372: Disarms a range of edge ids of a group. -/
  | vaneDrop (a : SReg) (b : SReg)
  /-- R368: A flip arrives at a neighbour across dies and re-evaluates whether it is clear. -/
  | flipMessage (k : Nat)
  /-- R370: A clear member with pending idle count passes its turn without dispatch, flipping its edges. -/
  | idlePass (tid : Nat)
  /-- R374: An uncorrectable error in an edge entry freezes its group. -/
  | edgeStoreError (die : Nat) (tn : Nat) (g : Nat) (eid : Nat)
  /-- R326: Waits for earlier remote instructions and traps on a recorded refusal or timeout. -/
  | rfence
  /-- R323: Opens or begins closing a receive window as a window record describes. -/
  | rwin (d : SReg) (a : SReg)
  /-- R323: A closing window unpins its pages once begun trains are acknowledged. -/
  | rwinCloseComplete (t : StrandId)
  /-- R58: A word that fails decoding raises ILL with no other effect. -/
  | illegalInstruction (w : IWord)
  /-- R18: Both strands blocked on each other's queues for 2^24 cycles trap E with QDL. -/
  | queueDeadlock (tid : Nat)
  /-- R431: The root task takes a pending enabled tenant interrupt at an instruction boundary. -/
  | interrupt (tn : Nat)
  /-- R136: A waiting wfi completes when an interrupt for its tenant and level is pending. -/
  | wfiWake (t : StrandId)
  /-- R136: The halted management core resumes when an interrupt is pending at M. -/
  | haltWake
  /-- R277: A read's value is fixed from the store buffer, own train or latest visible write. -/
  | read (t : StrandId) (p : Nat) (k : Nat)
  /-- R278: A checked scalar store moves from the program-order buffer to the scalar store buffer. -/
  | push (t : StrandId)
  /-- R280: The head scalar store enters coherence order with strand visibility. -/
  | enterScalar (t : StrandId)
  /-- R281: A train element's value becomes known. -/
  | supply (t : StrandId) (tr : Nat) (n : Nat)
  /-- R281: A train element enters coherence order, in order for ordered trains. -/
  | enterTrain (t : StrandId) (tr : Nat) (n : Nat)
  /-- R276: A write's visibility widens to the next scope. -/
  | widen (k : Nat)
  /-- R283: An AMO, vscadd addition or vfas reads and writes in one step at its executing unit. -/
  | atomic (t : StrandId) (tr : Nat) (n : Nat)
  /-- R282: Sets a load group's landed bit once all its reads have performed. -/
  | land (t : StrandId) (p : Nat) (g : Nat)
  /-- R284: A fence, vdrain, mwait, bar or rfence entry completes once its conditions hold. -/
  | complete (t : StrandId)
  /-- R285: One SC element draws a ticket and reads or writes. -/
  | scAccess (t : StrandId)
  /-- R286: A pending mwait re-reads its word and completes if the value meets the test. -/
  | monitorRead (t : StrandId)
  /-- R287: A member's barrier arrival counts once its earlier accesses have device visibility. -/
  | barArrive (t : StrandId)
  /-- R288: Sets a chunk's bit in the copy's mask register once its writes are visible. -/
  | chunkDone (u : Nat) (j : Nat)
  /-- R290: A remote element enters the receiver's memory at an open window. -/
  | remoteEnter (sdev : Nat) (win : Nat) (sten : Nat) (off : Nat) (data : List Byte)
  /-- R290: A remote train is acknowledged after its tail has entered. -/
  | ack (sdev : Nat) (win : Nat) (sten : Nat)
  /-- R324: A received data message's elements are checked against the window and entered or refused. -/
  | dataMessage (m : RMsg)
  /-- R324: A received tail ends a train and is answered by an ack or nack. -/
  | tailMessage (m : RMsg)
  /-- R325: A received ack completes the sender's train. -/
  | ackMessage (m : RMsg)
  /-- R325: A received nack records a refusal, or with RESYNC restarts the stream. -/
  | nackMessage (m : RMsg)
  /-- R321: A received atomic request executes at the receiver's unit and is answered. -/
  | atomicRequest (m : RMsg)
  /-- R321: A received atomic response completes the sender's AMO or raises PRM or ECC. -/
  | atomicResponse (m : RMsg)
  /-- R328: A received stamp message is written at the receiver as an atomic maximum. -/
  | stampMessage (m : RMsg)
  /-- R318: A received restart discards the stream's unfinished trains and is acknowledged. -/
  | restartMessage (m : RMsg)
  /-- R318: 20 µs without an acknowledgement resends from the oldest unacknowledged message. -/
  | resendTimeout (ddev : Nat) (win : Nat) (sten : Nat)
  /-- R318: A stream without progress for 50 ms fails its trains with TMO. -/
  | streamTimeout (ddev : Nat) (win : Nat) (sten : Nat)
  /-- R379: A write of the voltage-domain map switches every cluster whose code changes. -/
  | vdmapWrite (n : Nat) (v : Word)
  /-- R380: A cluster drains, moves to its new regulator and resumes issuing. -/
  | domainSwitch (c : Nat)
  /-- R381: A cluster's clock setting takes effect. -/
  | clockChange (c : Nat)
  /-- R390: Writes the firmware throttle request for the selected cluster. -/
  | tctlWrite (c : Nat) (v : Word)
  /-- R390: A written TCTL request takes effect on its cluster. -/
  | tctlApply (c : Nat)
  /-- R386: Each 1 µs, a control held by the slew limiter moves one step toward less throttling. -/
  | slewStep (c : Nat)
  /-- R387: Each 100 µs, the budget controller adds or removes one throttle step for a tenant. -/
  | budgetInterval (tn : Nat)
  /-- R387: At the end of each 1 ms window, PMEAS takes the tenant's mean power. -/
  | pmeasWindow (tn watts : Nat)
  /-- R387: Sets or withdraws a tenant's power budget. -/
  | pbudWrite (tn : Nat) (watts : Nat)
  /-- R388: A regulator over 1,100 A for 1 µs imposes the CUR request on its clusters. -/
  | overcurrentTrip (vr : Nat)
  /-- R388: The CUR request ends after 100 µs at or below 900 A. -/
  | overcurrentClear (vr : Nat)
  /-- R391: Every 100 µs a sensor is sampled, updating TSENS, TAP and the junction trip. -/
  | sensorSample (k : Nat) (temp : BitVec 16)
  /-- R390: Restarts the 10 ms watchdog and clears the warning bit. -/
  | wdogWrite
  /-- R390: 8 ms after the last WDOG write, sets MIP bit 2. -/
  | watchdogWarning
  /-- R389: The watchdog expires and the safe grant comes into force. -/
  | watchdogExpire
  /-- R390: A tick period elapses and sets MIP bit 1. -/
  | mtickTick
  /-- R389: Setting UPD brings the safe grant into force until it is cleared. -/
  | pctlWrite (v : Word)
  /-- R392: The management core takes a pending enabled M interrupt. -/
  | mInterrupt
  /-- R394: Writes the tenant's power status word after a change, coalescing within 10 µs. -/
  | pswWrite (tn : Nat)
  /-- R394: Sets the power status word address and restarts SEQ. -/
  | pswaWrite (tn : Nat) (v : Word)
  /-- R395: Each 10 µs, metered cluster energy is shared among the strands resident in the window. -/
  | energyWindow (vr : Nat) (nj : Nat)
  /-- R410: A host-port read of HSEM acquires it if free or already owned. -/
  | hsemRead (p : Port)
  /-- R410: The owner writes REL to release HSEM. -/
  | hsemRelease (p : Port)
  /-- R410: HSEM ownership lapses when REM reaches zero. -/
  | hsemLapse
  /-- R404: A host access to BAR 0 reaches an H-level CSR, subject to size and HSEM ownership. -/
  | hostCsrAccess (p : Port) (off : Nat) (size : Nat) (wr : Option Word)
  /-- R405: TCFG.EN from 0 to 1 creates the tenant and dispatches its root task. -/
  | tenantCreate (tn : Nat) (vmid : Nat)
  /-- R440: TCFG.EN from 1 to 0 ends all the tenant's work, closes windows and clears private memory. -/
  | tenantReset (tn : Nat)
  /-- R406: Writes a tenant memory window, discarded if it would create a forbidden overlap. -/
  | memoryWindowWrite (tn : Nat) (k : Nat) (len : Bool) (v : Word)
  /-- R416: A host requests stage-2 invalidation by VMID and IPA. -/
  | hinvWrite (v : Word)
  /-- R416: HINVS.BUSY clears once every earlier HINV has fully taken effect. -/
  | hinvDone
  /-- R419: Writing RTBASE makes the hub read the route table. -/
  | rtbaseWrite (v : Word)
  /-- R413: A walk waiting on a MIG leaf re-reads it every 1 µs and fails after 64 µs. -/
  | migRetry (t : StrandId)
  /-- R408: A host agent reads or writes device memory over CXL.mem. -/
  | cxlMemAccess (p : Port) (hpa : Nat) (len : Nat) (data : Option (List Byte))
  /-- R422: Answers the SPDM GET_VERSION request. -/
  | spdmGetVersion (p : Port)
  /-- R422: Answers the SPDM GET_CAPABILITIES request. -/
  | spdmGetCapabilities (p : Port)
  /-- R422: Answers NEGOTIATE_ALGORITHMS with ML-DSA-65 and SHAKE256. -/
  | spdmNegotiateAlgorithms (p : Port)
  /-- R422: Answers the SPDM GET_DIGESTS request. -/
  | spdmGetDigests (p : Port)
  /-- R422: Returns the certificate chain of slot 0. -/
  | spdmGetCertificate (p : Port) (slot : Nat) (off : Nat) (len : Nat)
  /-- R422: Signs a challenge with the device identity key. -/
  | spdmChallenge (p : Port) (slot : Nat) (nonce : Nat)
  /-- R422: Returns the boot measurements 1 to 4. -/
  | spdmGetMeasurements (p : Port) (idx : Nat)
  /-- R422: Answers any other SPDM request with ERROR UnsupportedRequest. -/
  | spdmUnsupportedRequest (p : Port) (code : Nat)
  /-- R434: A detected two-bit error poisons its word; a corrected one increments ECCC. -/
  | uncorrectableError (e : ErrPlace)
  /-- R436: An uncorrectable error in scheduler or engine state loses a task, restarts a root task or kills a graph.
      -/
  | internalStateError (e : IntErr)
  /-- R440: A CRST write ends every task resident on the cluster. -/
  | clusterReset (c : Nat)
  /-- R440: A cluster reset completes and a resident root task restarts. -/
  | clusterResetComplete (c : Nat)
  /-- R440: A DRST write of 0x5752 resets every tenant and CSR and reruns the boot path. -/
  | warmReset
  /-- R440: Power-on or PERST# on both ports resets everything. -/
  | coldReset
  /-- R439: A DUMPC write starts copying task records to the dump buffer. -/
  | stateDump (v : Word)
  /-- R439: The dump copy completes and RSTS bit 33 clears. -/
  | stateDumpComplete
  /-- R440: A tenant reset completes: its work is ended, windows closed, private memory zeroed, and RSTS bit t
      clears. -/
  | tenantResetComplete (tn : Nat)
  /-- R420: A host write to a port's MSI-X table programs or unmasks a tenant's entry, sending a message whose
      pending bit was set. -/
  | msixTableWrite (p : Port) (n : Nat) (addr : Word) (data : BitVec 32) (mask : Bool)
  deriving DecidableEq, Repr

end Sys2Proof
end

