-- ==== Sys2Proof/Machine/Late.lean ====
section
/-! DEFINITION. The rows of majors 0x33 to 0x37 and the events, once more, as a type of their own.

Lean's runtime numbers a constructor that has fields in eight bits, and so it cannot build a value of `Instr` whose
constructor stands beyond the 245th place. This type holds those rows with the same names and the same operands; `Late.instr`
says which instruction or event each is. The machine decodes and runs these rows through this type, so that it can be
evaluated; every meaning is that of `Instr`'s row. -/

namespace Sys2Proof

/-- A row of majors 0x33 to 0x37, or an event. -/
inductive Late where
  | tlbsyncComplete (t : StrandId)
  | mrWrite (v : Word)
  | fflagsAccess (t : StrandId)
  | microOpIssue (t : StrandId)
  | settleComplete (t : StrandId)
  | thawTake (c : Nat) (k : Nat)
  | thawTimeout (c : Nat) (k : Nat)
  | mgopen (d : SReg) (a : SReg)
  | mgopenCont (d : SReg) (a : SReg)
  | mgopenGrant (o : Nat)
  | mgpush (d : SReg) (a : SvReg) (b : SReg) (s : BitVec 4)
  | mgflush (d : SReg)
  | mgpull (d : SReg) (a : SReg)
  | mgpullSv (d : SvReg) (a : SReg)
  | mgclose
  | mgstatRuns (d : SReg)
  | mgstatEntries (d : SReg)
  | mgstatStatus (d : SReg)
  | mergeBufferError (t : StrandId)
  | cpdim (d : SReg) (a : SReg) (b : SReg) (l : Level)
  | cpgo (d : SReg) (a : SReg)
  | cpgat (d : SReg) (a : SReg)
  | cpmc (d : SReg) (a : SReg) (b : SReg)
  | permit (a : SReg) (b : SReg)
  | cpstat (d : SReg) (a : SReg)
  | copyQueueAdmit (t : StrandId)
  | copyStart (c : Nat)
  | slotPermitTake (u : Nat)
  | transfer (u : Nat) (n : Nat)
  | gatherRow (u : Nat) (e : Nat)
  | copyStamp (u : Nat)
  | copyFail (u : Nat) (cause : Nat) (n : Nat)
  | launch (d : SReg) (a : SReg)
  | launchAdmit (t : StrandId)
  | pinPassResume (tn : Nat) (lid : Nat)
  | gsub (d : SReg) (a : SReg)
  | gsubAdmit (t : StrandId)
  | spawn (a : SReg) (b : SReg)
  | join (d : SReg) (a : SReg)
  | joinWake (t : StrandId)
  | yield
  | park (d : SReg) (a : SReg) (b : SReg)
  | tend
  | tendComplete (t : StrandId)
  | prio (a : SReg)
  | wid (d : SReg) (l : Level)
  | taskEnumerate (tn : Nat) (lid : Nat)
  | gangAdmit (tn : Nat) (lid : Nat) (g : Nat)
  | taskDispatch (c : Nat)
  | preempt (tid : Nat)
  | steal (c : Nat) (t : StrandId)
  | parkWake (tid : Nat)
  | launchComplete (tn : Nat) (lid : Nat)
  | nodeFinish (tn : Nat) (gid : Nat) (i : Nat)
  | nodeFail (tn : Nat) (gid : Nat) (i : Nat)
  | vaneArm (d : SReg) (a : SReg) (b : SReg)
  | vaneArmCommit (t : StrandId)
  | vret
  | lull
  | lullN (a : SReg)
  | vaneRd (d : SReg) (a : SReg)
  | vaneDrop (a : SReg) (b : SReg)
  | flipMessage (k : Nat)
  | idlePass (tid : Nat)
  | edgeStoreError (die : Nat) (tn : Nat) (g : Nat) (eid : Nat)
  | rfence
  | rwin (d : SReg) (a : SReg)
  | rwinCloseComplete (t : StrandId)
  | illegalInstruction (w : IWord)
  | queueDeadlock (tid : Nat)
  | interrupt (tn : Nat)
  | wfiWake (t : StrandId)
  | haltWake
  | read (t : StrandId) (p : Nat) (k : Nat)
  | push (t : StrandId)
  | enterScalar (t : StrandId)
  | supply (t : StrandId) (tr : Nat) (n : Nat)
  | enterTrain (t : StrandId) (tr : Nat) (n : Nat)
  | widen (k : Nat)
  | atomic (t : StrandId) (tr : Nat) (n : Nat)
  | land (t : StrandId) (p : Nat) (g : Nat)
  | complete (t : StrandId)
  | scAccess (t : StrandId)
  | monitorRead (t : StrandId)
  | barArrive (t : StrandId)
  | chunkDone (u : Nat) (j : Nat)
  | remoteEnter (sdev : Nat) (win : Nat) (sten : Nat) (off : Nat) (data : List Byte)
  | ack (sdev : Nat) (win : Nat) (sten : Nat)
  | dataMessage (m : RMsg)
  | tailMessage (m : RMsg)
  | ackMessage (m : RMsg)
  | nackMessage (m : RMsg)
  | atomicRequest (m : RMsg)
  | atomicResponse (m : RMsg)
  | stampMessage (m : RMsg)
  | restartMessage (m : RMsg)
  | resendTimeout (ddev : Nat) (win : Nat) (sten : Nat)
  | streamTimeout (ddev : Nat) (win : Nat) (sten : Nat)
  | vdmapWrite (n : Nat) (v : Word)
  | domainSwitch (c : Nat)
  | clockChange (c : Nat)
  | tctlWrite (c : Nat) (v : Word)
  | tctlApply (c : Nat)
  | slewStep (c : Nat)
  | budgetInterval (tn : Nat)
  | pmeasWindow (tn watts : Nat)
  | pbudWrite (tn : Nat) (watts : Nat)
  | overcurrentTrip (vr : Nat)
  | overcurrentClear (vr : Nat)
  | sensorSample (k : Nat) (temp : BitVec 16)
  | wdogWrite
  | watchdogWarning
  | watchdogExpire
  | mtickTick
  | pctlWrite (v : Word)
  | mInterrupt
  | pswWrite (tn : Nat)
  | pswaWrite (tn : Nat) (v : Word)
  | energyWindow (vr : Nat) (nj : Nat)
  | hsemRead (p : Port)
  | hsemRelease (p : Port)
  | hsemLapse
  | hostCsrAccess (p : Port) (off : Nat) (size : Nat) (wr : Option Word)
  | tenantCreate (tn : Nat) (vmid : Nat)
  | tenantReset (tn : Nat)
  | memoryWindowWrite (tn : Nat) (k : Nat) (len : Bool) (v : Word)
  | hinvWrite (v : Word)
  | hinvDone
  | rtbaseWrite (v : Word)
  | migRetry (t : StrandId)
  | cxlMemAccess (p : Port) (hpa : Nat) (len : Nat) (data : Option (List Byte))
  | spdmGetVersion (p : Port)
  | spdmGetCapabilities (p : Port)
  | spdmNegotiateAlgorithms (p : Port)
  | spdmGetDigests (p : Port)
  | spdmGetCertificate (p : Port) (slot : Nat) (off : Nat) (len : Nat)
  | spdmChallenge (p : Port) (slot : Nat) (nonce : Nat)
  | spdmGetMeasurements (p : Port) (idx : Nat)
  | spdmUnsupportedRequest (p : Port) (code : Nat)
  | uncorrectableError (e : ErrPlace)
  | internalStateError (e : IntErr)
  | clusterReset (c : Nat)
  | clusterResetComplete (c : Nat)
  | warmReset
  | coldReset
  | stateDump (v : Word)
  | stateDumpComplete
  | tenantResetComplete (tn : Nat)
  | msixTableWrite (p : Port) (n : Nat) (addr : Word) (data : BitVec 32) (mask : Bool)
  deriving DecidableEq, Repr

/-- The instruction or event that a late row is. -/
noncomputable def Late.instr : Late → Instr
  | .tlbsyncComplete t => .tlbsyncComplete t
  | .mrWrite v => .mrWrite v
  | .fflagsAccess t => .fflagsAccess t
  | .microOpIssue t => .microOpIssue t
  | .settleComplete t => .settleComplete t
  | .thawTake c k => .thawTake c k
  | .thawTimeout c k => .thawTimeout c k
  | .mgopen d a => .mgopen d a
  | .mgopenCont d a => .mgopenCont d a
  | .mgopenGrant o => .mgopenGrant o
  | .mgpush d a b s => .mgpush d a b s
  | .mgflush d => .mgflush d
  | .mgpull d a => .mgpull d a
  | .mgpullSv d a => .mgpullSv d a
  | .mgclose => .mgclose
  | .mgstatRuns d => .mgstatRuns d
  | .mgstatEntries d => .mgstatEntries d
  | .mgstatStatus d => .mgstatStatus d
  | .mergeBufferError t => .mergeBufferError t
  | .cpdim d a b l => .cpdim d a b l
  | .cpgo d a => .cpgo d a
  | .cpgat d a => .cpgat d a
  | .cpmc d a b => .cpmc d a b
  | .permit a b => .permit a b
  | .cpstat d a => .cpstat d a
  | .copyQueueAdmit t => .copyQueueAdmit t
  | .copyStart c => .copyStart c
  | .slotPermitTake u => .slotPermitTake u
  | .transfer u n => .transfer u n
  | .gatherRow u e => .gatherRow u e
  | .copyStamp u => .copyStamp u
  | .copyFail u cause n => .copyFail u cause n
  | .launch d a => .launch d a
  | .launchAdmit t => .launchAdmit t
  | .pinPassResume tn lid => .pinPassResume tn lid
  | .gsub d a => .gsub d a
  | .gsubAdmit t => .gsubAdmit t
  | .spawn a b => .spawn a b
  | .join d a => .join d a
  | .joinWake t => .joinWake t
  | .yield => .yield
  | .park d a b => .park d a b
  | .tend => .tend
  | .tendComplete t => .tendComplete t
  | .prio a => .prio a
  | .wid d l => .wid d l
  | .taskEnumerate tn lid => .taskEnumerate tn lid
  | .gangAdmit tn lid g => .gangAdmit tn lid g
  | .taskDispatch c => .taskDispatch c
  | .preempt tid => .preempt tid
  | .steal c t => .steal c t
  | .parkWake tid => .parkWake tid
  | .launchComplete tn lid => .launchComplete tn lid
  | .nodeFinish tn gid i => .nodeFinish tn gid i
  | .nodeFail tn gid i => .nodeFail tn gid i
  | .vaneArm d a b => .vaneArm d a b
  | .vaneArmCommit t => .vaneArmCommit t
  | .vret => .vret
  | .lull => .lull
  | .lullN a => .lullN a
  | .vaneRd d a => .vaneRd d a
  | .vaneDrop a b => .vaneDrop a b
  | .flipMessage k => .flipMessage k
  | .idlePass tid => .idlePass tid
  | .edgeStoreError die tn g eid => .edgeStoreError die tn g eid
  | .rfence => .rfence
  | .rwin d a => .rwin d a
  | .rwinCloseComplete t => .rwinCloseComplete t
  | .illegalInstruction w => .illegalInstruction w
  | .queueDeadlock tid => .queueDeadlock tid
  | .interrupt tn => .interrupt tn
  | .wfiWake t => .wfiWake t
  | .haltWake => .haltWake
  | .read t p k => .read t p k
  | .push t => .push t
  | .enterScalar t => .enterScalar t
  | .supply t tr n => .supply t tr n
  | .enterTrain t tr n => .enterTrain t tr n
  | .widen k => .widen k
  | .atomic t tr n => .atomic t tr n
  | .land t p g => .land t p g
  | .complete t => .complete t
  | .scAccess t => .scAccess t
  | .monitorRead t => .monitorRead t
  | .barArrive t => .barArrive t
  | .chunkDone u j => .chunkDone u j
  | .remoteEnter sdev win sten off data => .remoteEnter sdev win sten off data
  | .ack sdev win sten => .ack sdev win sten
  | .dataMessage m => .dataMessage m
  | .tailMessage m => .tailMessage m
  | .ackMessage m => .ackMessage m
  | .nackMessage m => .nackMessage m
  | .atomicRequest m => .atomicRequest m
  | .atomicResponse m => .atomicResponse m
  | .stampMessage m => .stampMessage m
  | .restartMessage m => .restartMessage m
  | .resendTimeout ddev win sten => .resendTimeout ddev win sten
  | .streamTimeout ddev win sten => .streamTimeout ddev win sten
  | .vdmapWrite n v => .vdmapWrite n v
  | .domainSwitch c => .domainSwitch c
  | .clockChange c => .clockChange c
  | .tctlWrite c v => .tctlWrite c v
  | .tctlApply c => .tctlApply c
  | .slewStep c => .slewStep c
  | .budgetInterval tn => .budgetInterval tn
  | .pmeasWindow tn watts => .pmeasWindow tn watts
  | .pbudWrite tn watts => .pbudWrite tn watts
  | .overcurrentTrip vr => .overcurrentTrip vr
  | .overcurrentClear vr => .overcurrentClear vr
  | .sensorSample k temp => .sensorSample k temp
  | .wdogWrite => .wdogWrite
  | .watchdogWarning => .watchdogWarning
  | .watchdogExpire => .watchdogExpire
  | .mtickTick => .mtickTick
  | .pctlWrite v => .pctlWrite v
  | .mInterrupt => .mInterrupt
  | .pswWrite tn => .pswWrite tn
  | .pswaWrite tn v => .pswaWrite tn v
  | .energyWindow vr nj => .energyWindow vr nj
  | .hsemRead p => .hsemRead p
  | .hsemRelease p => .hsemRelease p
  | .hsemLapse => .hsemLapse
  | .hostCsrAccess p off size wr => .hostCsrAccess p off size wr
  | .tenantCreate tn vmid => .tenantCreate tn vmid
  | .tenantReset tn => .tenantReset tn
  | .memoryWindowWrite tn k len v => .memoryWindowWrite tn k len v
  | .hinvWrite v => .hinvWrite v
  | .hinvDone => .hinvDone
  | .rtbaseWrite v => .rtbaseWrite v
  | .migRetry t => .migRetry t
  | .cxlMemAccess p pa len data => .cxlMemAccess p pa len data
  | .spdmGetVersion p => .spdmGetVersion p
  | .spdmGetCapabilities p => .spdmGetCapabilities p
  | .spdmNegotiateAlgorithms p => .spdmNegotiateAlgorithms p
  | .spdmGetDigests p => .spdmGetDigests p
  | .spdmGetCertificate p slot off len => .spdmGetCertificate p slot off len
  | .spdmChallenge p slot nonce => .spdmChallenge p slot nonce
  | .spdmGetMeasurements p idx => .spdmGetMeasurements p idx
  | .spdmUnsupportedRequest p code => .spdmUnsupportedRequest p code
  | .uncorrectableError e => .uncorrectableError e
  | .internalStateError e => .internalStateError e
  | .clusterReset c => .clusterReset c
  | .clusterResetComplete c => .clusterResetComplete c
  | .warmReset => .warmReset
  | .coldReset => .coldReset
  | .stateDump v => .stateDump v
  | .stateDumpComplete => .stateDumpComplete
  | .tenantResetComplete tn => .tenantResetComplete tn
  | .msixTableWrite p n addr data mask => .msixTableWrite p n addr data mask

/-- Whether the row has an encoding (majors 0x33 to 0x37). -/
def Late.encoded : Late → Bool
  | .tlbsyncComplete _ => false
  | .mrWrite _ => false
  | .fflagsAccess _ => false
  | .microOpIssue _ => false
  | .settleComplete _ => false
  | .thawTake _ _ => false
  | .thawTimeout _ _ => false
  | .mgopen _ _ => true
  | .mgopenCont _ _ => true
  | .mgopenGrant _ => false
  | .mgpush _ _ _ _ => true
  | .mgflush _ => true
  | .mgpull _ _ => true
  | .mgpullSv _ _ => true
  | .mgclose => true
  | .mgstatRuns _ => true
  | .mgstatEntries _ => true
  | .mgstatStatus _ => true
  | .mergeBufferError _ => false
  | .cpdim _ _ _ _ => true
  | .cpgo _ _ => true
  | .cpgat _ _ => true
  | .cpmc _ _ _ => true
  | .permit _ _ => true
  | .cpstat _ _ => true
  | .copyQueueAdmit _ => false
  | .copyStart _ => false
  | .slotPermitTake _ => false
  | .transfer _ _ => false
  | .gatherRow _ _ => false
  | .copyStamp _ => false
  | .copyFail _ _ _ => false
  | .launch _ _ => true
  | .launchAdmit _ => false
  | .pinPassResume _ _ => false
  | .gsub _ _ => true
  | .gsubAdmit _ => false
  | .spawn _ _ => true
  | .join _ _ => true
  | .joinWake _ => false
  | .yield => true
  | .park _ _ _ => true
  | .tend => true
  | .tendComplete _ => false
  | .prio _ => true
  | .wid _ _ => true
  | .taskEnumerate _ _ => false
  | .gangAdmit _ _ _ => false
  | .taskDispatch _ => false
  | .preempt _ => false
  | .steal _ _ => false
  | .parkWake _ => false
  | .launchComplete _ _ => false
  | .nodeFinish _ _ _ => false
  | .nodeFail _ _ _ => false
  | .vaneArm _ _ _ => true
  | .vaneArmCommit _ => false
  | .vret => true
  | .lull => true
  | .lullN _ => true
  | .vaneRd _ _ => true
  | .vaneDrop _ _ => true
  | .flipMessage _ => false
  | .idlePass _ => false
  | .edgeStoreError _ _ _ _ => false
  | .rfence => true
  | .rwin _ _ => true
  | .rwinCloseComplete _ => false
  | .illegalInstruction _ => false
  | .queueDeadlock _ => false
  | .interrupt _ => false
  | .wfiWake _ => false
  | .haltWake => false
  | .read _ _ _ => false
  | .push _ => false
  | .enterScalar _ => false
  | .supply _ _ _ => false
  | .enterTrain _ _ _ => false
  | .widen _ => false
  | .atomic _ _ _ => false
  | .land _ _ _ => false
  | .complete _ => false
  | .scAccess _ => false
  | .monitorRead _ => false
  | .barArrive _ => false
  | .chunkDone _ _ => false
  | .remoteEnter _ _ _ _ _ => false
  | .ack _ _ _ => false
  | .dataMessage _ => false
  | .tailMessage _ => false
  | .ackMessage _ => false
  | .nackMessage _ => false
  | .atomicRequest _ => false
  | .atomicResponse _ => false
  | .stampMessage _ => false
  | .restartMessage _ => false
  | .resendTimeout _ _ _ => false
  | .streamTimeout _ _ _ => false
  | .vdmapWrite _ _ => false
  | .domainSwitch _ => false
  | .clockChange _ => false
  | .tctlWrite _ _ => false
  | .tctlApply _ => false
  | .slewStep _ => false
  | .budgetInterval _ => false
  | .pmeasWindow _ _ => false
  | .pbudWrite _ _ => false
  | .overcurrentTrip _ => false
  | .overcurrentClear _ => false
  | .sensorSample _ _ => false
  | .wdogWrite => false
  | .watchdogWarning => false
  | .watchdogExpire => false
  | .mtickTick => false
  | .pctlWrite _ => false
  | .mInterrupt => false
  | .pswWrite _ => false
  | .pswaWrite _ _ => false
  | .energyWindow _ _ => false
  | .hsemRead _ => false
  | .hsemRelease _ => false
  | .hsemLapse => false
  | .hostCsrAccess _ _ _ _ => false
  | .tenantCreate _ _ => false
  | .tenantReset _ => false
  | .memoryWindowWrite _ _ _ _ => false
  | .hinvWrite _ => false
  | .hinvDone => false
  | .rtbaseWrite _ => false
  | .migRetry _ => false
  | .cxlMemAccess _ _ _ _ => false
  | .spdmGetVersion _ => false
  | .spdmGetCapabilities _ => false
  | .spdmNegotiateAlgorithms _ => false
  | .spdmGetDigests _ => false
  | .spdmGetCertificate _ _ _ _ => false
  | .spdmChallenge _ _ _ => false
  | .spdmGetMeasurements _ _ => false
  | .spdmUnsupportedRequest _ _ => false
  | .uncorrectableError _ => false
  | .internalStateError _ => false
  | .clusterReset _ => false
  | .clusterResetComplete _ => false
  | .warmReset => false
  | .coldReset => false
  | .stateDump _ => false
  | .stateDumpComplete => false
  | .tenantResetComplete _ => false
  | .msixTableWrite _ _ _ _ _ => false

/-- The word of a late row with an encoding, as a number (the encoder of Decode.lean says the same of its instruction). -/
def Late.word : Late → Nat
  | .tlbsyncComplete _ => 0
  | .mrWrite _ => 0
  | .fflagsAccess _ => 0
  | .microOpIssue _ => 0
  | .settleComplete _ => 0
  | .thawTake _ _ => 0
  | .thawTimeout _ _ => 0
  | .mgopen d a => 0x66000000 + d.toNat * 1048576 + a.toNat * 32768
  | .mgopenCont d a => 0x66000008 + d.toNat * 1048576 + a.toNat * 32768
  | .mgopenGrant _ => 0
  | .mgpush d a b s => 0x66000001 + d.toNat * 1048576 + a.toNat * 32768 + b.toNat * 1024 + s.toNat * 16
  | .mgflush d => 0x66000002 + d.toNat * 1048576
  | .mgpull d a => 0x66000003 + d.toNat * 1048576 + a.toNat * 32768
  | .mgpullSv d a => 0x6600000B + d.toNat * 1048576 + a.toNat * 32768
  | .mgclose => 0x66000004
  | .mgstatRuns d => 0x66000005 + d.toNat * 1048576
  | .mgstatEntries d => 0x66000105 + d.toNat * 1048576
  | .mgstatStatus d => 0x66000205 + d.toNat * 1048576
  | .mergeBufferError _ => 0
  | .cpdim d a b l => 0x68000000 + d.toNat * 1048576 + a.toNat * 32768 + b.toNat * 1024 + l.code * 16
  | .cpgo d a => 0x68000001 + d.toNat * 1048576 + a.toNat * 32768
  | .cpgat d a => 0x68000002 + d.toNat * 1048576 + a.toNat * 32768
  | .cpmc d a b => 0x68000003 + d.toNat * 1048576 + a.toNat * 32768 + b.toNat * 1024
  | .permit a b => 0x68000004 + a.toNat * 32768 + b.toNat * 1024
  | .cpstat d a => 0x68000005 + d.toNat * 1048576 + a.toNat * 32768
  | .copyQueueAdmit _ => 0
  | .copyStart _ => 0
  | .slotPermitTake _ => 0
  | .transfer _ _ => 0
  | .gatherRow _ _ => 0
  | .copyStamp _ => 0
  | .copyFail _ _ _ => 0
  | .launch d a => 0x6A000000 + d.toNat * 1048576 + a.toNat * 32768
  | .launchAdmit _ => 0
  | .pinPassResume _ _ => 0
  | .gsub d a => 0x6A000001 + d.toNat * 1048576 + a.toNat * 32768
  | .gsubAdmit _ => 0
  | .spawn a b => 0x6A000002 + a.toNat * 32768 + b.toNat * 1024
  | .join d a => 0x6A000003 + d.toNat * 1048576 + a.toNat * 32768
  | .joinWake _ => 0
  | .yield => 0x6A000004
  | .park d a b => 0x6A000005 + d.toNat * 1048576 + a.toNat * 32768 + b.toNat * 1024
  | .tend => 0x6A000006
  | .tendComplete _ => 0
  | .prio a => 0x6A000007 + a.toNat * 32768
  | .wid d l => 0x6A000008 + d.toNat * 1048576 + l.code * 16
  | .taskEnumerate _ _ => 0
  | .gangAdmit _ _ _ => 0
  | .taskDispatch _ => 0
  | .preempt _ => 0
  | .steal _ _ => 0
  | .parkWake _ => 0
  | .launchComplete _ _ => 0
  | .nodeFinish _ _ _ => 0
  | .nodeFail _ _ _ => 0
  | .vaneArm d a b => 0x6C000000 + d.toNat * 1048576 + a.toNat * 32768 + b.toNat * 1024
  | .vaneArmCommit _ => 0
  | .vret => 0x6C000001
  | .lull => 0x6C000002
  | .lullN a => 0x6C00000A + a.toNat * 32768
  | .vaneRd d a => 0x6C000003 + d.toNat * 1048576 + a.toNat * 32768
  | .vaneDrop a b => 0x6C000004 + a.toNat * 32768 + b.toNat * 1024
  | .flipMessage _ => 0
  | .idlePass _ => 0
  | .edgeStoreError _ _ _ _ => 0
  | .rfence => 0x6E000000
  | .rwin d a => 0x6E000001 + d.toNat * 1048576 + a.toNat * 32768
  | .rwinCloseComplete _ => 0
  | .illegalInstruction _ => 0
  | .queueDeadlock _ => 0
  | .interrupt _ => 0
  | .wfiWake _ => 0
  | .haltWake => 0
  | .read _ _ _ => 0
  | .push _ => 0
  | .enterScalar _ => 0
  | .supply _ _ _ => 0
  | .enterTrain _ _ _ => 0
  | .widen _ => 0
  | .atomic _ _ _ => 0
  | .land _ _ _ => 0
  | .complete _ => 0
  | .scAccess _ => 0
  | .monitorRead _ => 0
  | .barArrive _ => 0
  | .chunkDone _ _ => 0
  | .remoteEnter _ _ _ _ _ => 0
  | .ack _ _ _ => 0
  | .dataMessage _ => 0
  | .tailMessage _ => 0
  | .ackMessage _ => 0
  | .nackMessage _ => 0
  | .atomicRequest _ => 0
  | .atomicResponse _ => 0
  | .stampMessage _ => 0
  | .restartMessage _ => 0
  | .resendTimeout _ _ _ => 0
  | .streamTimeout _ _ _ => 0
  | .vdmapWrite _ _ => 0
  | .domainSwitch _ => 0
  | .clockChange _ => 0
  | .tctlWrite _ _ => 0
  | .tctlApply _ => 0
  | .slewStep _ => 0
  | .budgetInterval _ => 0
  | .pmeasWindow _ _ => 0
  | .pbudWrite _ _ => 0
  | .overcurrentTrip _ => 0
  | .overcurrentClear _ => 0
  | .sensorSample _ _ => 0
  | .wdogWrite => 0
  | .watchdogWarning => 0
  | .watchdogExpire => 0
  | .mtickTick => 0
  | .pctlWrite _ => 0
  | .mInterrupt => 0
  | .pswWrite _ => 0
  | .pswaWrite _ _ => 0
  | .energyWindow _ _ => 0
  | .hsemRead _ => 0
  | .hsemRelease _ => 0
  | .hsemLapse => 0
  | .hostCsrAccess _ _ _ _ => 0
  | .tenantCreate _ _ => 0
  | .tenantReset _ => 0
  | .memoryWindowWrite _ _ _ _ => 0
  | .hinvWrite _ => 0
  | .hinvDone => 0
  | .rtbaseWrite _ => 0
  | .migRetry _ => 0
  | .cxlMemAccess _ _ _ _ => 0
  | .spdmGetVersion _ => 0
  | .spdmGetCapabilities _ => 0
  | .spdmNegotiateAlgorithms _ => 0
  | .spdmGetDigests _ => 0
  | .spdmGetCertificate _ _ _ _ => 0
  | .spdmChallenge _ _ _ => 0
  | .spdmGetMeasurements _ _ => 0
  | .spdmUnsupportedRequest _ _ => 0
  | .uncorrectableError _ => 0
  | .internalStateError _ => 0
  | .clusterReset _ => 0
  | .clusterResetComplete _ => 0
  | .warmReset => 0
  | .coldReset => 0
  | .stateDump _ => 0
  | .stateDumpComplete => 0
  | .tenantResetComplete _ => 0
  | .msixTableWrite _ _ _ _ _ => 0

end Sys2Proof
end

