-- ==== Sys2Proof/WellFormed.lean ====
section
/-! DEFINITION. The limits of an instruction's fields that its operand types do not already say. Every other limit of
spec/03_encoding.md (register numbers, scopes, levels, sizes) is in the types of Sys2Proof/Word.lean. -/

namespace Sys2Proof

/-- The field limits of R60, R65 to R70 and Table 3.7: shift amounts under W, loop end offsets, `fcvt` types, `vhad` k,
scalar pairs from 2 to 30, and vector groups that end at or below v31. -/
def WellFormed : Instr → Bool
  | .mode _ => true
  | .nop => true
  | .trap _ => true
  | .tret => true
  | .brk _ => true
  | .halt => true
  | .wfi => true
  | .tlbinvVa _ _ => true
  | .tlbinvAsid _ => true
  | .tlbinvVmid => true
  | .tlbinvIpa _ _ => true
  | .tlbsync => true
  | .tlbsyncComplete _ => true
  | .intr _ _ => true
  | .add _ _ _ _ => true
  | .sub _ _ _ _ => true
  | .mul _ _ _ _ => true
  | .mulh _ _ _ _ => true
  | .mulhu _ _ _ _ => true
  | .div _ _ _ _ => true
  | .divu _ _ _ _ => true
  | .rem _ _ _ _ => true
  | .remu _ _ _ _ => true
  | .and _ _ _ _ => true
  | .or _ _ _ _ => true
  | .xor _ _ _ _ => true
  | .sll _ _ _ _ => true
  | .srl _ _ _ _ => true
  | .sra _ _ _ _ => true
  | .slt _ _ _ _ => true
  | .sltu _ _ _ _ => true
  | .min _ _ _ _ => true
  | .max _ _ _ _ => true
  | .minu _ _ _ _ => true
  | .maxu _ _ _ _ => true
  | .addi _ _ _ => true
  | .andi _ _ _ => true
  | .ori _ _ _ => true
  | .xori _ _ _ => true
  | .slli _ _ w n => decide (w = false ∨ n.toNat < 32)
  | .srli _ _ w n => decide (w = false ∨ n.toNat < 32)
  | .srai _ _ w n => decide (w = false ∨ n.toNat < 32)
  | .slti _ _ _ => true
  | .sltiu _ _ _ => true
  | .lih _ _ => true
  | .lix _ _ => true
  | .sel _ _ _ _ => true
  | .clz _ _ _ => true
  | .ctz _ _ _ => true
  | .popc _ _ _ => true
  | .bext _ _ _ _ => true
  | .bins _ _ _ _ => true
  | .bswap _ _ _ => true
  | .csrr _ _ => true
  | .csrw _ _ _ => true
  | .csrs _ _ _ => true
  | .csrc _ _ _ => true
  | .mrWrite _ => true
  | .fflagsAccess _ => true
  | .fadd _ _ _ _ => true
  | .fsub _ _ _ _ => true
  | .fmul _ _ _ _ => true
  | .fdiv _ _ _ _ => true
  | .fsqrt _ _ _ => true
  | .fmin _ _ _ _ => true
  | .fmax _ _ _ _ => true
  | .feq _ _ _ _ => true
  | .flt _ _ _ _ => true
  | .fle _ _ _ _ => true
  | .fclass _ _ _ => true
  | .fcvtFF _ _ t s => decide (t ≠ s)
  | .fcvtFI _ _ _ _ => true
  | .fcvtIF _ _ _ _ => true
  | .fsgnj _ _ _ _ => true
  | .fsgnjN _ _ _ _ => true
  | .fsgnjX _ _ _ _ => true
  | .ffma _ _ _ _ _ => true
  | .ffms _ _ _ _ _ => true
  | .ffnma _ _ _ _ _ => true
  | .ffnms _ _ _ _ _ => true
  | .beq _ _ _ => true
  | .bne _ _ _ => true
  | .blt _ _ _ => true
  | .bge _ _ _ => true
  | .bltu _ _ _ => true
  | .bgeu _ _ _ => true
  | .jal _ => true
  | .jalr _ _ _ => true
  | .loop _ _ e => decide (e ≠ 0)
  | .loopi _ _ e => decide (e ≠ 0)
  | .vloop _ _ e => decide (e ≠ 0)
  | .lpclr _ => true
  | .bqput _ => true
  | .bqb _ => true
  | .ldB _ _ _ => true
  | .ldH _ _ _ => true
  | .ldW _ _ _ => true
  | .ldD _ _ _ => true
  | .ldBu _ _ _ => true
  | .ldHu _ _ _ => true
  | .ldWu _ _ _ => true
  | .stB _ _ _ => true
  | .stH _ _ _ => true
  | .stW _ _ _ => true
  | .stD _ _ _ => true
  | .prefR _ _ => true
  | .prefW _ _ => true
  | .prefS _ _ => true
  | .amoAdd _ _ _ _ _ => true
  | .amoAnd _ _ _ _ _ => true
  | .amoOr _ _ _ _ _ => true
  | .amoXor _ _ _ _ _ => true
  | .amoMin _ _ _ _ _ => true
  | .amoMax _ _ _ _ _ => true
  | .amoMinu _ _ _ _ _ => true
  | .amoMaxu _ _ _ _ _ => true
  | .amoSwap _ _ _ _ _ => true
  | .amoCas _ _ _ _ _ => true
  | .amoFadd _ _ _ _ _ => true
  | .fenceAcq _ => true
  | .fenceRel _ => true
  | .fenceAr _ => true
  | .fenceSc _ => true
  | .vdrain _ => true
  | .mmon _ => true
  | .mwait _ _ => true
  | .bar _ => true
  | .setvl _ _ => true
  | .setvli _ _ => true
  | .microOpIssue _ => true
  | .vadd _ _ _ => true
  | .vsub _ _ _ => true
  | .vmul _ _ _ => true
  | .vmulh _ _ _ => true
  | .vdiv _ _ _ => true
  | .vmin _ _ _ => true
  | .vmax _ _ _ => true
  | .vabs _ _ => true
  | .vneg _ _ => true
  | .vand _ _ _ => true
  | .vor _ _ _ => true
  | .vxor _ _ _ => true
  | .vnot _ _ => true
  | .vsll _ _ _ => true
  | .vsrl _ _ _ => true
  | .vsra _ _ _ => true
  | .vdot4 _ _ _ => true
  | .vaddw _ _ _ => true
  | .vclass _ _ => true
  | .vsgnj _ _ _ => true
  | .vsgnjN _ _ _ => true
  | .vsgnjX _ _ _ => true
  | .vfma _ _ _ _ => true
  | .vfms _ _ _ _ => true
  | .vfnma _ _ _ _ => true
  | .vfnms _ _ _ _ => true
  | .vcmpEq _ _ _ => true
  | .vcmpNe _ _ _ => true
  | .vcmpLt _ _ _ => true
  | .vcmpLe _ _ _ => true
  | .vcmpGt _ _ _ => true
  | .vcmpGe _ _ _ => true
  | .vcmpUn _ _ _ => true
  | .vcmpOrd _ _ _ => true
  | .vsel _ _ _ _ => true
  | .vexp _ _ => true
  | .vexp2 _ _ => true
  | .vlog _ _ => true
  | .vlog2 _ _ => true
  | .vsin _ _ => true
  | .vcos _ _ => true
  | .vtanh _ _ => true
  | .vsigm _ _ => true
  | .vrcp _ _ => true
  | .vsqrt _ _ => true
  | .vrsqrt _ _ => true
  | .verf _ _ => true
  | .vapply _ _ _ => true
  | .vcvt _ _ => true
  | .vquant _ _ => true
  | .vhad _ _ k => decide (k.toNat ≤ 10)
  | .vsclget _ _ => true
  | .vsclset _ _ => true
  | .vperm _ _ _ => true
  | .vslideup _ _ _ => true
  | .vslidedn _ _ _ => true
  | .vcompress _ _ _ => true
  | .vexpand _ _ _ => true
  | .vzip _ _ _ => true
  | .vunzip _ _ _ => true
  | .vbcast _ _ => true
  | .vid _ => true
  | .vext _ _ _ => true
  | .vins _ _ _ => true
  | .vmv _ _ => true
  | .vredSum _ _ => true
  | .vredMin _ _ => true
  | .vredMax _ _ => true
  | .vredAnd _ _ => true
  | .vredOr _ _ => true
  | .vredXor _ _ => true
  | .vscanSum _ _ => true
  | .vscanMin _ _ => true
  | .vscanMax _ _ => true
  | .vscanAnd _ _ => true
  | .vscanOr _ _ => true
  | .vscanXor _ _ => true
  | .mand _ _ _ => true
  | .mor _ _ _ => true
  | .mxor _ _ _ => true
  | .mnot _ _ => true
  | .mpop _ _ => true
  | .mfirst _ _ => true
  | .mset _ _ => true
  | .mmv _ _ => true
  | .settle _ => true
  | .settleNf _ => true
  | .settleAll => true
  | .settleNfAll => true
  | .settleComplete _ => true
  | .vpres _ _ => true
  | .vfill _ => true
  | .thawTake _ _ => true
  | .thawTimeout _ _ => true
  | .vld _ _ _ => true
  | .vlds _ _ _ _ => true
  | .vwait _ => true
  | .vst _ _ _ => true
  | .vsts _ _ _ _ => true
  | .vgat _ _ _ _ => true
  | .vsct _ _ _ _ => true
  | .vscadd _ _ _ _ => true
  | .vfas _ _ _ => true
  | .vprobe _ _ _ _ => true
  | .vldSc _ _ => true
  | .vstSc _ _ => true
  | .mma _ a b _ g => decide (b ≠ 0 ∧ a.toNat + 2 ^ g.toNat ≤ 32)
  | .mmas _ a b _ => decide (a ≠ 0 ∧ b ≠ 0)
  | .mmasp _ a b _ g => decide (b ≠ 0 ∧ a.toNat + 2 ^ g.toNat ≤ 32)
  | .maccZ _ => true
  | .maccRd _ _ _ => true
  | .maccWr _ _ _ => true
  | .maccSt _ _ _ => true
  | .maccStX _ _ _ => true
  | .mtd d _ _ => decide (d ≠ 0)
  | .svld _ _ => true
  | .svst _ _ => true
  | .svadd _ _ _ => true
  | .svmul _ _ _ => true
  | .svscale _ _ _ => true
  | .svcomp _ _ => true
  | .svexp _ _ => true
  | .svlen _ _ => true
  | .mgopen _ _ => true
  | .mgopenCont _ _ => true
  | .mgopenGrant _ => true
  | .mgpush _ _ _ _ => true
  | .mgflush _ => true
  | .mgpull _ _ => true
  | .mgpullSv _ _ => true
  | .mgclose => true
  | .mgstatRuns _ => true
  | .mgstatEntries _ => true
  | .mgstatStatus _ => true
  | .mergeBufferError _ => true
  | .cpdim _ _ _ _ => true
  | .cpgo _ _ => true
  | .cpgat _ _ => true
  | .cpmc _ _ _ => true
  | .permit _ _ => true
  | .cpstat _ _ => true
  | .copyQueueAdmit _ => true
  | .copyStart _ => true
  | .slotPermitTake _ => true
  | .transfer _ _ => true
  | .gatherRow _ _ => true
  | .copyStamp _ => true
  | .copyFail _ _ _ => true
  | .launch _ _ => true
  | .launchAdmit _ => true
  | .pinPassResume _ _ => true
  | .gsub _ _ => true
  | .gsubAdmit _ => true
  | .spawn _ _ => true
  | .join _ _ => true
  | .joinWake _ => true
  | .yield => true
  | .park _ _ _ => true
  | .tend => true
  | .tendComplete _ => true
  | .prio _ => true
  | .wid _ _ => true
  | .taskEnumerate _ _ => true
  | .gangAdmit _ _ _ => true
  | .taskDispatch _ => true
  | .preempt _ => true
  | .steal _ _ => true
  | .parkWake _ => true
  | .launchComplete _ _ => true
  | .nodeFinish _ _ _ => true
  | .nodeFail _ _ _ => true
  | .vaneArm _ _ _ => true
  | .vaneArmCommit _ => true
  | .vret => true
  | .lull => true
  | .lullN _ => true
  | .vaneRd _ _ => true
  | .vaneDrop _ _ => true
  | .flipMessage _ => true
  | .idlePass _ => true
  | .edgeStoreError _ _ _ _ => true
  | .rfence => true
  | .rwin _ _ => true
  | .rwinCloseComplete _ => true
  | .illegalInstruction _ => true
  | .queueDeadlock _ => true
  | .interrupt _ => true
  | .wfiWake _ => true
  | .haltWake => true
  | .read _ _ _ => true
  | .push _ => true
  | .enterScalar _ => true
  | .supply _ _ _ => true
  | .enterTrain _ _ _ => true
  | .widen _ => true
  | .atomic _ _ _ => true
  | .land _ _ _ => true
  | .complete _ => true
  | .scAccess _ => true
  | .monitorRead _ => true
  | .barArrive _ => true
  | .chunkDone _ _ => true
  | .remoteEnter _ _ _ _ _ => true
  | .ack _ _ _ => true
  | .dataMessage _ => true
  | .tailMessage _ => true
  | .ackMessage _ => true
  | .nackMessage _ => true
  | .atomicRequest _ => true
  | .atomicResponse _ => true
  | .stampMessage _ => true
  | .restartMessage _ => true
  | .resendTimeout _ _ _ => true
  | .streamTimeout _ _ _ => true
  | .vdmapWrite _ _ => true
  | .domainSwitch _ => true
  | .clockChange _ => true
  | .tctlWrite _ _ => true
  | .tctlApply _ => true
  | .slewStep _ => true
  | .budgetInterval _ => true
  | .pmeasWindow _ _ => true
  | .pbudWrite _ _ => true
  | .overcurrentTrip _ => true
  | .overcurrentClear _ => true
  | .sensorSample _ _ => true
  | .wdogWrite => true
  | .watchdogWarning => true
  | .watchdogExpire => true
  | .mtickTick => true
  | .pctlWrite _ => true
  | .mInterrupt => true
  | .pswWrite _ => true
  | .pswaWrite _ _ => true
  | .energyWindow _ _ => true
  | .hsemRead _ => true
  | .hsemRelease _ => true
  | .hsemLapse => true
  | .hostCsrAccess _ _ _ _ => true
  | .tenantCreate _ _ => true
  | .tenantReset _ => true
  | .memoryWindowWrite _ _ _ _ => true
  | .hinvWrite _ => true
  | .hinvDone => true
  | .rtbaseWrite _ => true
  | .migRetry _ => true
  | .cxlMemAccess _ _ _ _ => true
  | .spdmGetVersion _ => true
  | .spdmGetCapabilities _ => true
  | .spdmNegotiateAlgorithms _ => true
  | .spdmGetDigests _ => true
  | .spdmGetCertificate _ _ _ _ => true
  | .spdmChallenge _ _ _ => true
  | .spdmGetMeasurements _ _ => true
  | .spdmUnsupportedRequest _ _ => true
  | .uncorrectableError _ => true
  | .internalStateError _ => true
  | .clusterReset _ => true
  | .clusterResetComplete _ => true
  | .warmReset => true
  | .coldReset => true
  | .stateDump _ => true
  | .stateDumpComplete => true
  | .tenantResetComplete _ => true
  | .msixTableWrite _ _ _ _ _ => true

end Sys2Proof
end

