-- ==== Sys2Proof/Decode.lean ====
section
/-! DEFINITION. The decoder (R57 to R72, Tables 3.1 to 3.11) and, after it, the encoder from the same tables. -/

namespace Sys2Proof

/-- Why a word is no instruction: the step of R57 that fails. Each raises ILL (R58). -/
inductive DecodeError where
  /-- major 0x00 or 0x38 to 0x7F -/
  | badMajor
  /-- an unassigned function value -/
  | badFunc
  /-- a modifier value marked ILL -/
  | badModifier
  /-- a bit the row leaves unused is 1 (R59) -/
  | reservedBit
  /-- a register field breaks R60 -/
  | badRegister
  deriving DecidableEq, Repr

/-- Bits hi to lo of a word, as a number (R6). -/
def fld (w : IWord) (hi lo : Nat) : Nat := w.toNat / 2 ^ lo % 2 ^ (hi + 1 - lo)

/-- The n bits from bit lo up, as a bit vector. -/
def fldBv (n : Nat) (w : IWord) (lo : Nat) : BitVec n := BitVec.ofNat n (w.toNat / 2 ^ lo)

/-- One bit of a word. -/
def bit (w : IWord) (i : Nat) : Bool := decide (w.toNat / 2 ^ i % 2 = 1)

/-- The b field with f[9] as its file selector (R69). -/
def vOperand (w : IWord) : VOperand := if bit w 9 then .sca (fldBv 5 w 10) else .vec (fldBv 5 w 10)

/-- A field that names a mask, sparse or accumulator register: its two high bits are zero (R60). -/
def low3 (w : IWord) (lo : Nat) : Bool := decide (fld w (lo + 4) (lo + 3) = 0)

/-- A pair field is even and from 2 to 30 (R60). -/
def pairOk (w : IWord) (lo : Nat) : Bool := decide (fld w lo lo = 0 ∧ fld w (lo + 4) (lo + 1) ≠ 0)

/-- The vector group vA to vA + G - 1 ends at or below v31 (R60). -/
def grp (w : IWord) : Bool := decide (fld w 19 15 + 2 ^ fld w 4 3 ≤ 32)

/-- The last steps of R57 before the level check: modifiers, reserved bits, register fields, in this order. -/
def chk {α : Type} (w : IWord) (modifier : Bool) (zeros : List (Nat × Nat)) (regs : List Bool) (i : α) :
    Except DecodeError α :=
  if modifier = false then .error .badModifier
  else if zeros.any (fun p => fld w p.1 p.2 != 0) then .error .reservedBit
  else if regs.any (fun b => !b) then .error .badRegister
  else .ok i

/-- Major 0x01. -/
def decodeMode (w : IWord) : Except DecodeError Instr :=
  chk w true [] [] (.mode (fldBv 25 w 0))

/-- Major 0x02. -/
def decodeSys (w : IWord) : Except DecodeError Instr :=
  match fld w 14 10 with
  | 0 => chk w true [(24, 15), (9, 0)] [] .nop
  | 1 => chk w true [(24, 15)] [] (.trap (fldBv 10 w 0))
  | 2 => chk w true [(24, 15), (9, 0)] [] .tret
  | 3 => chk w true [(24, 15)] [] (.brk (fldBv 10 w 0))
  | 4 => chk w true [(24, 15), (9, 0)] [] .halt
  | 5 => chk w true [(24, 15), (9, 0)] [] .wfi
  | 6 =>
    match fld w 9 0 with
    | 0 => chk w true [] [] (.tlbinvVa (fldBv 5 w 20) (fldBv 5 w 15))
    | 1 => chk w true [(19, 15)] [] (.tlbinvAsid (fldBv 5 w 20))
    | 2 => chk w true [(24, 15)] [] .tlbinvVmid
    | 3 => chk w true [] [] (.tlbinvIpa (fldBv 5 w 20) (fldBv 5 w 15))
    | _ => .error .badModifier
  | 7 => chk w true [(24, 15), (9, 0)] [] .tlbsync
  | 8 => chk w true [(24, 15), (9, 7)] [] (.intr (fldBv 1 w 6) (fldBv 6 w 0))
  | _ => .error .badFunc

/-- Major 0x03. -/
def decodeAlu (w : IWord) : Except DecodeError Instr :=
  match fld w 4 0 with
  | 0 => chk w true [(8, 5)] [] (.add (fldBv 5 w 20) (fldBv 5 w 15) (fldBv 5 w 10) (bit w 9))
  | 1 => chk w true [(8, 5)] [] (.sub (fldBv 5 w 20) (fldBv 5 w 15) (fldBv 5 w 10) (bit w 9))
  | 2 => chk w true [(8, 5)] [] (.mul (fldBv 5 w 20) (fldBv 5 w 15) (fldBv 5 w 10) (bit w 9))
  | 3 => chk w true [(8, 5)] [] (.mulh (fldBv 5 w 20) (fldBv 5 w 15) (fldBv 5 w 10) (bit w 9))
  | 4 => chk w true [(8, 5)] [] (.mulhu (fldBv 5 w 20) (fldBv 5 w 15) (fldBv 5 w 10) (bit w 9))
  | 5 => chk w true [(8, 5)] [] (.div (fldBv 5 w 20) (fldBv 5 w 15) (fldBv 5 w 10) (bit w 9))
  | 6 => chk w true [(8, 5)] [] (.divu (fldBv 5 w 20) (fldBv 5 w 15) (fldBv 5 w 10) (bit w 9))
  | 7 => chk w true [(8, 5)] [] (.rem (fldBv 5 w 20) (fldBv 5 w 15) (fldBv 5 w 10) (bit w 9))
  | 8 => chk w true [(8, 5)] [] (.remu (fldBv 5 w 20) (fldBv 5 w 15) (fldBv 5 w 10) (bit w 9))
  | 9 => chk w true [(8, 5)] [] (.and (fldBv 5 w 20) (fldBv 5 w 15) (fldBv 5 w 10) (bit w 9))
  | 10 => chk w true [(8, 5)] [] (.or (fldBv 5 w 20) (fldBv 5 w 15) (fldBv 5 w 10) (bit w 9))
  | 11 => chk w true [(8, 5)] [] (.xor (fldBv 5 w 20) (fldBv 5 w 15) (fldBv 5 w 10) (bit w 9))
  | 12 => chk w true [(8, 5)] [] (.sll (fldBv 5 w 20) (fldBv 5 w 15) (fldBv 5 w 10) (bit w 9))
  | 13 => chk w true [(8, 5)] [] (.srl (fldBv 5 w 20) (fldBv 5 w 15) (fldBv 5 w 10) (bit w 9))
  | 14 => chk w true [(8, 5)] [] (.sra (fldBv 5 w 20) (fldBv 5 w 15) (fldBv 5 w 10) (bit w 9))
  | 15 => chk w true [(8, 5)] [] (.slt (fldBv 5 w 20) (fldBv 5 w 15) (fldBv 5 w 10) (bit w 9))
  | 16 => chk w true [(8, 5)] [] (.sltu (fldBv 5 w 20) (fldBv 5 w 15) (fldBv 5 w 10) (bit w 9))
  | 17 => chk w true [(8, 5)] [] (.min (fldBv 5 w 20) (fldBv 5 w 15) (fldBv 5 w 10) (bit w 9))
  | 18 => chk w true [(8, 5)] [] (.max (fldBv 5 w 20) (fldBv 5 w 15) (fldBv 5 w 10) (bit w 9))
  | 19 => chk w true [(8, 5)] [] (.minu (fldBv 5 w 20) (fldBv 5 w 15) (fldBv 5 w 10) (bit w 9))
  | 20 => chk w true [(8, 5)] [] (.maxu (fldBv 5 w 20) (fldBv 5 w 15) (fldBv 5 w 10) (bit w 9))
  | _ => .error .badFunc

/-- Major 0x04. -/
def decodeAddi (w : IWord) : Except DecodeError Instr :=
  chk w true [] [] (.addi (fldBv 5 w 20) (fldBv 5 w 15) (fldBv 15 w 0))

/-- Major 0x05. -/
def decodeAndi (w : IWord) : Except DecodeError Instr :=
  chk w true [] [] (.andi (fldBv 5 w 20) (fldBv 5 w 15) (fldBv 15 w 0))

/-- Major 0x06. -/
def decodeOri (w : IWord) : Except DecodeError Instr :=
  chk w true [] [] (.ori (fldBv 5 w 20) (fldBv 5 w 15) (fldBv 15 w 0))

/-- Major 0x07. -/
def decodeXori (w : IWord) : Except DecodeError Instr :=
  chk w true [] [] (.xori (fldBv 5 w 20) (fldBv 5 w 15) (fldBv 15 w 0))

/-- Major 0x08. -/
def decodeShifti (w : IWord) : Except DecodeError Instr :=
  match fld w 14 13 with
  | 0 => chk w (decide ((fld w 12 12 = 0 ∨ fld w 5 5 = 0))) [(11, 6)] [] (.slli (fldBv 5 w 20) (fldBv 5 w 15) (bit w 12) (fldBv 6 w 0))
  | 1 => chk w (decide ((fld w 12 12 = 0 ∨ fld w 5 5 = 0))) [(11, 6)] [] (.srli (fldBv 5 w 20) (fldBv 5 w 15) (bit w 12) (fldBv 6 w 0))
  | 2 => chk w (decide ((fld w 12 12 = 0 ∨ fld w 5 5 = 0))) [(11, 6)] [] (.srai (fldBv 5 w 20) (fldBv 5 w 15) (bit w 12) (fldBv 6 w 0))
  | _ => .error .badFunc

/-- Major 0x09. -/
def decodeSlti (w : IWord) : Except DecodeError Instr :=
  chk w true [] [] (.slti (fldBv 5 w 20) (fldBv 5 w 15) (fldBv 15 w 0))

/-- Major 0x0A. -/
def decodeSltiu (w : IWord) : Except DecodeError Instr :=
  chk w true [] [] (.sltiu (fldBv 5 w 20) (fldBv 5 w 15) (fldBv 15 w 0))

/-- Major 0x0B. -/
def decodeLih (w : IWord) : Except DecodeError Instr :=
  chk w true [] [] (.lih (fldBv 5 w 20) (fldBv 20 w 0))

/-- Major 0x0C. -/
def decodeLix (w : IWord) : Except DecodeError Instr :=
  chk w true [] [] (.lix (fldBv 5 w 20) (fldBv 20 w 0))

/-- Major 0x0D. -/
def decodeSel (w : IWord) : Except DecodeError Instr :=
  chk w true [(4, 0)] [] (.sel (fldBv 5 w 20) (fldBv 5 w 15) (fldBv 5 w 10) (fldBv 5 w 5))

/-- Major 0x0E. -/
def decodeBits (w : IWord) : Except DecodeError Instr :=
  match fld w 2 0 with
  | 0 => chk w true [(14, 10), (8, 3)] [] (.clz (fldBv 5 w 20) (fldBv 5 w 15) (bit w 9))
  | 1 => chk w true [(14, 10), (8, 3)] [] (.ctz (fldBv 5 w 20) (fldBv 5 w 15) (bit w 9))
  | 2 => chk w true [(14, 10), (8, 3)] [] (.popc (fldBv 5 w 20) (fldBv 5 w 15) (bit w 9))
  | 3 => chk w true [(8, 3)] [] (.bext (fldBv 5 w 20) (fldBv 5 w 15) (fldBv 5 w 10) (bit w 9))
  | 4 => chk w true [(8, 3)] [] (.bins (fldBv 5 w 20) (fldBv 5 w 15) (fldBv 5 w 10) (bit w 9))
  | 5 => chk w true [(14, 10), (8, 3)] [] (.bswap (fldBv 5 w 20) (fldBv 5 w 15) (bit w 9))
  | _ => .error .badFunc

/-- Major 0x0F. -/
def decodeCsr (w : IWord) : Except DecodeError Instr :=
  match fld w 14 12 with
  | 0 => chk w true [(19, 15)] [] (.csrr (fldBv 5 w 20) (fldBv 12 w 0))
  | 1 => chk w true [] [] (.csrw (fldBv 5 w 20) (fldBv 5 w 15) (fldBv 12 w 0))
  | 2 => chk w true [] [] (.csrs (fldBv 5 w 20) (fldBv 5 w 15) (fldBv 12 w 0))
  | 3 => chk w true [] [] (.csrc (fldBv 5 w 20) (fldBv 5 w 15) (fldBv 12 w 0))
  | _ => .error .badFunc

/-- Major 0x10. -/
def decodeFpu (w : IWord) : Except DecodeError Instr :=
  match fld w 7 4 with
  | 0 => chk w true [(3, 0)] [] (.fadd (fldBv 5 w 20) (fldBv 5 w 15) (fldBv 5 w 10) (FTy.ofCode (fld w 9 8)))
  | 1 => chk w true [(3, 0)] [] (.fsub (fldBv 5 w 20) (fldBv 5 w 15) (fldBv 5 w 10) (FTy.ofCode (fld w 9 8)))
  | 2 => chk w true [(3, 0)] [] (.fmul (fldBv 5 w 20) (fldBv 5 w 15) (fldBv 5 w 10) (FTy.ofCode (fld w 9 8)))
  | 3 => chk w true [(3, 0)] [] (.fdiv (fldBv 5 w 20) (fldBv 5 w 15) (fldBv 5 w 10) (FTy.ofCode (fld w 9 8)))
  | 4 => chk w true [(14, 10), (3, 0)] [] (.fsqrt (fldBv 5 w 20) (fldBv 5 w 15) (FTy.ofCode (fld w 9 8)))
  | 5 => chk w true [(3, 0)] [] (.fmin (fldBv 5 w 20) (fldBv 5 w 15) (fldBv 5 w 10) (FTy.ofCode (fld w 9 8)))
  | 6 => chk w true [(3, 0)] [] (.fmax (fldBv 5 w 20) (fldBv 5 w 15) (fldBv 5 w 10) (FTy.ofCode (fld w 9 8)))
  | 7 => chk w true [(3, 0)] [] (.feq (fldBv 5 w 20) (fldBv 5 w 15) (fldBv 5 w 10) (FTy.ofCode (fld w 9 8)))
  | 8 => chk w true [(3, 0)] [] (.flt (fldBv 5 w 20) (fldBv 5 w 15) (fldBv 5 w 10) (FTy.ofCode (fld w 9 8)))
  | 9 => chk w true [(3, 0)] [] (.fle (fldBv 5 w 20) (fldBv 5 w 15) (fldBv 5 w 10) (FTy.ofCode (fld w 9 8)))
  | 10 => chk w true [(14, 10), (3, 0)] [] (.fclass (fldBv 5 w 20) (fldBv 5 w 15) (FTy.ofCode (fld w 9 8)))
  | 11 =>
    match fld w 3 2 with
    | 0 => chk w (decide (fld w 9 8 ≠ fld w 1 0)) [(14, 10)] [] (.fcvtFF (fldBv 5 w 20) (fldBv 5 w 15) (FTy.ofCode (fld w 9 8)) (FTy.ofCode (fld w 1 0)))
    | 1 => chk w true [(14, 10)] [] (.fcvtFI (fldBv 5 w 20) (fldBv 5 w 15) (FTy.ofCode (fld w 9 8)) (ITy.ofCode (fld w 1 0)))
    | 2 => chk w true [(14, 10)] [] (.fcvtIF (fldBv 5 w 20) (fldBv 5 w 15) (FTy.ofCode (fld w 9 8)) (ITy.ofCode (fld w 1 0)))
    | _ => .error .badModifier
  | 12 =>
    match fld w 3 0 with
    | 0 => chk w true [] [] (.fsgnj (fldBv 5 w 20) (fldBv 5 w 15) (fldBv 5 w 10) (FTy.ofCode (fld w 9 8)))
    | 1 => chk w true [] [] (.fsgnjN (fldBv 5 w 20) (fldBv 5 w 15) (fldBv 5 w 10) (FTy.ofCode (fld w 9 8)))
    | 2 => chk w true [] [] (.fsgnjX (fldBv 5 w 20) (fldBv 5 w 15) (fldBv 5 w 10) (FTy.ofCode (fld w 9 8)))
    | _ => .error .badModifier
  | _ => .error .badFunc

/-- Major 0x11. -/
def decodeFfma (w : IWord) : Except DecodeError Instr :=
  match fld w 1 0 with
  | 0 => chk w true [(4, 4)] [] (.ffma (fldBv 5 w 20) (fldBv 5 w 15) (fldBv 5 w 10) (fldBv 5 w 5) (FTy.ofCode (fld w 3 2)))
  | 1 => chk w true [(4, 4)] [] (.ffms (fldBv 5 w 20) (fldBv 5 w 15) (fldBv 5 w 10) (fldBv 5 w 5) (FTy.ofCode (fld w 3 2)))
  | 2 => chk w true [(4, 4)] [] (.ffnma (fldBv 5 w 20) (fldBv 5 w 15) (fldBv 5 w 10) (fldBv 5 w 5) (FTy.ofCode (fld w 3 2)))
  | 3 => chk w true [(4, 4)] [] (.ffnms (fldBv 5 w 20) (fldBv 5 w 15) (fldBv 5 w 10) (fldBv 5 w 5) (FTy.ofCode (fld w 3 2)))
  | _ => .error .badFunc

/-- Major 0x12. -/
def decodeBeq (w : IWord) : Except DecodeError Instr :=
  chk w true [] [] (.beq (fldBv 5 w 20) (fldBv 5 w 15) (fldBv 15 w 0))

/-- Major 0x13. -/
def decodeBne (w : IWord) : Except DecodeError Instr :=
  chk w true [] [] (.bne (fldBv 5 w 20) (fldBv 5 w 15) (fldBv 15 w 0))

/-- Major 0x14. -/
def decodeBlt (w : IWord) : Except DecodeError Instr :=
  chk w true [] [] (.blt (fldBv 5 w 20) (fldBv 5 w 15) (fldBv 15 w 0))

/-- Major 0x15. -/
def decodeBge (w : IWord) : Except DecodeError Instr :=
  chk w true [] [] (.bge (fldBv 5 w 20) (fldBv 5 w 15) (fldBv 15 w 0))

/-- Major 0x16. -/
def decodeBltu (w : IWord) : Except DecodeError Instr :=
  chk w true [] [] (.bltu (fldBv 5 w 20) (fldBv 5 w 15) (fldBv 15 w 0))

/-- Major 0x17. -/
def decodeBgeu (w : IWord) : Except DecodeError Instr :=
  chk w true [] [] (.bgeu (fldBv 5 w 20) (fldBv 5 w 15) (fldBv 15 w 0))

/-- Major 0x18. -/
def decodeJal (w : IWord) : Except DecodeError Instr :=
  chk w true [] [] (.jal (fldBv 25 w 0))

/-- Major 0x19. -/
def decodeJalr (w : IWord) : Except DecodeError Instr :=
  chk w true [] [] (.jalr (fldBv 5 w 20) (fldBv 5 w 15) (fldBv 15 w 0))

/-- Major 0x1A. -/
def decodeLoop (w : IWord) : Except DecodeError Instr :=
  match fld w 23 20 with
  | 0 => chk w (decide (fld w 14 0 ≠ 0)) [] [] (.loop (fldBv 1 w 24) (fldBv 5 w 15) (fldBv 15 w 0))
  | 1 => chk w (decide (fld w 7 0 ≠ 0)) [] [] (.loopi (fldBv 1 w 24) (fldBv 12 w 8) (fldBv 8 w 0))
  | 2 => chk w (decide (fld w 14 0 ≠ 0)) [] [] (.vloop (fldBv 1 w 24) (fldBv 5 w 15) (fldBv 15 w 0))
  | 3 => chk w true [(19, 0)] [] (.lpclr (fldBv 1 w 24))
  | _ => .error .badFunc

/-- Major 0x1B. -/
def decodeQbr (w : IWord) : Except DecodeError Instr :=
  match fld w 24 20 with
  | 0 => chk w true [(14, 0)] [] (.bqput (fldBv 5 w 15))
  | 1 => chk w true [(19, 15)] [] (.bqb (fldBv 15 w 0))
  | _ => .error .badFunc

/-- Major 0x1C. -/
def decodeLd (w : IWord) : Except DecodeError Instr :=
  match fld w 14 12 with
  | 0 => chk w true [] [] (.ldB (fldBv 5 w 20) (fldBv 5 w 15) (fldBv 12 w 0))
  | 1 => chk w true [] [] (.ldH (fldBv 5 w 20) (fldBv 5 w 15) (fldBv 12 w 0))
  | 2 => chk w true [] [] (.ldW (fldBv 5 w 20) (fldBv 5 w 15) (fldBv 12 w 0))
  | 3 => chk w true [] [] (.ldD (fldBv 5 w 20) (fldBv 5 w 15) (fldBv 12 w 0))
  | 4 => chk w true [] [] (.ldBu (fldBv 5 w 20) (fldBv 5 w 15) (fldBv 12 w 0))
  | 5 => chk w true [] [] (.ldHu (fldBv 5 w 20) (fldBv 5 w 15) (fldBv 12 w 0))
  | 6 => chk w true [] [] (.ldWu (fldBv 5 w 20) (fldBv 5 w 15) (fldBv 12 w 0))
  | _ => .error .badFunc

/-- Major 0x1D. -/
def decodeSt (w : IWord) : Except DecodeError Instr :=
  match fld w 14 12 with
  | 0 => chk w true [] [] (.stB (fldBv 5 w 20) (fldBv 5 w 15) (fldBv 12 w 0))
  | 1 => chk w true [] [] (.stH (fldBv 5 w 20) (fldBv 5 w 15) (fldBv 12 w 0))
  | 2 => chk w true [] [] (.stW (fldBv 5 w 20) (fldBv 5 w 15) (fldBv 12 w 0))
  | 3 => chk w true [] [] (.stD (fldBv 5 w 20) (fldBv 5 w 15) (fldBv 12 w 0))
  | _ => .error .badFunc

/-- Major 0x1E. -/
def decodePref (w : IWord) : Except DecodeError Instr :=
  match fld w 24 20 with
  | 0 => chk w true [(14, 12)] [] (.prefR (fldBv 5 w 15) (fldBv 12 w 0))
  | 1 => chk w true [(14, 12)] [] (.prefW (fldBv 5 w 15) (fldBv 12 w 0))
  | 2 => chk w true [(14, 12)] [] (.prefS (fldBv 5 w 15) (fldBv 12 w 0))
  | _ => .error .badFunc

/-- Major 0x1F. -/
def decodeAmo (w : IWord) : Except DecodeError Instr :=
  match fld w 5 0 with
  | 0 => chk w true [(7, 7)] [] (.amoAdd (fldBv 5 w 20) (fldBv 5 w 15) (fldBv 5 w 10) (AmoOrder.ofCode (fld w 9 8)) (IntSize.ofCode (fld w 6 6)))
  | 1 => chk w true [(7, 7)] [] (.amoAnd (fldBv 5 w 20) (fldBv 5 w 15) (fldBv 5 w 10) (AmoOrder.ofCode (fld w 9 8)) (IntSize.ofCode (fld w 6 6)))
  | 2 => chk w true [(7, 7)] [] (.amoOr (fldBv 5 w 20) (fldBv 5 w 15) (fldBv 5 w 10) (AmoOrder.ofCode (fld w 9 8)) (IntSize.ofCode (fld w 6 6)))
  | 3 => chk w true [(7, 7)] [] (.amoXor (fldBv 5 w 20) (fldBv 5 w 15) (fldBv 5 w 10) (AmoOrder.ofCode (fld w 9 8)) (IntSize.ofCode (fld w 6 6)))
  | 4 => chk w true [(7, 7)] [] (.amoMin (fldBv 5 w 20) (fldBv 5 w 15) (fldBv 5 w 10) (AmoOrder.ofCode (fld w 9 8)) (IntSize.ofCode (fld w 6 6)))
  | 5 => chk w true [(7, 7)] [] (.amoMax (fldBv 5 w 20) (fldBv 5 w 15) (fldBv 5 w 10) (AmoOrder.ofCode (fld w 9 8)) (IntSize.ofCode (fld w 6 6)))
  | 6 => chk w true [(7, 7)] [] (.amoMinu (fldBv 5 w 20) (fldBv 5 w 15) (fldBv 5 w 10) (AmoOrder.ofCode (fld w 9 8)) (IntSize.ofCode (fld w 6 6)))
  | 7 => chk w true [(7, 7)] [] (.amoMaxu (fldBv 5 w 20) (fldBv 5 w 15) (fldBv 5 w 10) (AmoOrder.ofCode (fld w 9 8)) (IntSize.ofCode (fld w 6 6)))
  | 8 => chk w true [] [] (.amoSwap (fldBv 5 w 20) (fldBv 5 w 15) (fldBv 5 w 10) (AmoOrder.ofCode (fld w 9 8)) (AmoSize.ofCode (fld w 7 6)))
  | 9 => chk w true [] [] (.amoCas (fldBv 5 w 20) (fldBv 5 w 15) (fldBv 5 w 10) (AmoOrder.ofCode (fld w 9 8)) (AmoSize.ofCode (fld w 7 6)))
  | 10 => if fld w 7 7 = 1 then chk w true [] [] (.amoFadd (fldBv 5 w 20) (fldBv 5 w 15) (fldBv 5 w 10) (AmoOrder.ofCode (fld w 9 8)) (FpSize.ofCode (fld w 6 6))) else .error .badModifier
  | _ => .error .badFunc

/-- Major 0x20. -/
def decodeSync (w : IWord) : Except DecodeError Instr :=
  match fld w 3 0 with
  | 0 =>
    match fld w 9 7 with
    | 0 => chk w (decide (fld w 6 4 < 6)) [(24, 10)] [] (.fenceAcq (Scope.ofCode (fld w 6 4)))
    | 1 => chk w (decide (fld w 6 4 < 6)) [(24, 10)] [] (.fenceRel (Scope.ofCode (fld w 6 4)))
    | 2 => chk w (decide (fld w 6 4 < 6)) [(24, 10)] [] (.fenceAr (Scope.ofCode (fld w 6 4)))
    | 3 => chk w (decide (fld w 6 4 < 6)) [(24, 10)] [] (.fenceSc (Scope.ofCode (fld w 6 4)))
    | _ => .error .badModifier
  | 1 => chk w (decide (fld w 6 4 < 6)) [(24, 7)] [] (.vdrain (Scope.ofCode (fld w 6 4)))
  | 2 => chk w true [(24, 20), (14, 4)] [] (.mmon (fldBv 5 w 15))
  | 3 => chk w true [(14, 4)] [] (.mwait (fldBv 5 w 20) (fldBv 5 w 15))
  | 4 => chk w (decide (fld w 6 4 < 6)) [(24, 7)] [] (.bar (Level.ofCode (fld w 6 4)))
  | _ => .error .badFunc

/-- Major 0x21. -/
def decodeSetvl (w : IWord) : Except DecodeError Instr :=
  match fld w 14 14 with
  | 0 => chk w true [(13, 0)] [] (.setvl (fldBv 5 w 20) (fldBv 5 w 15))
  | 1 => chk w true [(19, 15)] [] (.setvli (fldBv 5 w 20) (fldBv 14 w 0))
  | _ => .error .badFunc

/-- Major 0x22. -/
def decodeVarith (w : IWord) : Except DecodeError Instr :=
  match fld w 4 0 with
  | 0 => chk w true [(8, 5)] [] (.vadd (fldBv 5 w 20) (fldBv 5 w 15) (vOperand w))
  | 1 => chk w true [(8, 5)] [] (.vsub (fldBv 5 w 20) (fldBv 5 w 15) (vOperand w))
  | 2 => chk w true [(8, 5)] [] (.vmul (fldBv 5 w 20) (fldBv 5 w 15) (vOperand w))
  | 3 => chk w true [(8, 5)] [] (.vmulh (fldBv 5 w 20) (fldBv 5 w 15) (vOperand w))
  | 4 => chk w true [(8, 5)] [] (.vdiv (fldBv 5 w 20) (fldBv 5 w 15) (vOperand w))
  | 5 => chk w true [(8, 5)] [] (.vmin (fldBv 5 w 20) (fldBv 5 w 15) (vOperand w))
  | 6 => chk w true [(8, 5)] [] (.vmax (fldBv 5 w 20) (fldBv 5 w 15) (vOperand w))
  | 7 => chk w true [(14, 5)] [] (.vabs (fldBv 5 w 20) (fldBv 5 w 15))
  | 8 => chk w true [(14, 5)] [] (.vneg (fldBv 5 w 20) (fldBv 5 w 15))
  | 9 => chk w true [(8, 5)] [] (.vand (fldBv 5 w 20) (fldBv 5 w 15) (vOperand w))
  | 10 => chk w true [(8, 5)] [] (.vor (fldBv 5 w 20) (fldBv 5 w 15) (vOperand w))
  | 11 => chk w true [(8, 5)] [] (.vxor (fldBv 5 w 20) (fldBv 5 w 15) (vOperand w))
  | 12 => chk w true [(14, 5)] [] (.vnot (fldBv 5 w 20) (fldBv 5 w 15))
  | 13 => chk w true [(8, 5)] [] (.vsll (fldBv 5 w 20) (fldBv 5 w 15) (vOperand w))
  | 14 => chk w true [(8, 5)] [] (.vsrl (fldBv 5 w 20) (fldBv 5 w 15) (vOperand w))
  | 15 => chk w true [(8, 5)] [] (.vsra (fldBv 5 w 20) (fldBv 5 w 15) (vOperand w))
  | 16 => chk w true [(8, 5)] [] (.vdot4 (fldBv 5 w 20) (fldBv 5 w 15) (vOperand w))
  | 17 => chk w true [(8, 5)] [] (.vaddw (fldBv 5 w 20) (fldBv 5 w 15) (vOperand w))
  | 18 => chk w true [(14, 5)] [] (.vclass (fldBv 5 w 20) (fldBv 5 w 15))
  | 19 =>
    match fld w 6 5 with
    | 0 => chk w true [(8, 7)] [] (.vsgnj (fldBv 5 w 20) (fldBv 5 w 15) (vOperand w))
    | 1 => chk w true [(8, 7)] [] (.vsgnjN (fldBv 5 w 20) (fldBv 5 w 15) (vOperand w))
    | 2 => chk w true [(8, 7)] [] (.vsgnjX (fldBv 5 w 20) (fldBv 5 w 15) (vOperand w))
    | _ => .error .badModifier
  | _ => .error .badFunc

/-- Major 0x23. -/
def decodeVfma (w : IWord) : Except DecodeError Instr :=
  match fld w 1 0 with
  | 0 => chk w true [(4, 2)] [] (.vfma (fldBv 5 w 20) (fldBv 5 w 15) (fldBv 5 w 10) (fldBv 5 w 5))
  | 1 => chk w true [(4, 2)] [] (.vfms (fldBv 5 w 20) (fldBv 5 w 15) (fldBv 5 w 10) (fldBv 5 w 5))
  | 2 => chk w true [(4, 2)] [] (.vfnma (fldBv 5 w 20) (fldBv 5 w 15) (fldBv 5 w 10) (fldBv 5 w 5))
  | 3 => chk w true [(4, 2)] [] (.vfnms (fldBv 5 w 20) (fldBv 5 w 15) (fldBv 5 w 10) (fldBv 5 w 5))
  | _ => .error .badFunc

/-- Major 0x24. -/
def decodeVcmp (w : IWord) : Except DecodeError Instr :=
  match fld w 2 0 with
  | 0 => chk w true [(8, 3)] [low3 w 20] (.vcmpEq (fldBv 3 w 20) (fldBv 5 w 15) (vOperand w))
  | 1 => chk w true [(8, 3)] [low3 w 20] (.vcmpNe (fldBv 3 w 20) (fldBv 5 w 15) (vOperand w))
  | 2 => chk w true [(8, 3)] [low3 w 20] (.vcmpLt (fldBv 3 w 20) (fldBv 5 w 15) (vOperand w))
  | 3 => chk w true [(8, 3)] [low3 w 20] (.vcmpLe (fldBv 3 w 20) (fldBv 5 w 15) (vOperand w))
  | 4 => chk w true [(8, 3)] [low3 w 20] (.vcmpGt (fldBv 3 w 20) (fldBv 5 w 15) (vOperand w))
  | 5 => chk w true [(8, 3)] [low3 w 20] (.vcmpGe (fldBv 3 w 20) (fldBv 5 w 15) (vOperand w))
  | 6 => chk w true [(8, 3)] [low3 w 20] (.vcmpUn (fldBv 3 w 20) (fldBv 5 w 15) (vOperand w))
  | 7 => chk w true [(8, 3)] [low3 w 20] (.vcmpOrd (fldBv 3 w 20) (fldBv 5 w 15) (vOperand w))
  | _ => .error .badFunc

/-- Major 0x25. -/
def decodeVsel (w : IWord) : Except DecodeError Instr :=
  chk w true [(4, 0)] [low3 w 5] (.vsel (fldBv 5 w 20) (fldBv 5 w 15) (fldBv 5 w 10) (fldBv 3 w 5))

/-- Major 0x26. -/
def decodeVfunc (w : IWord) : Except DecodeError Instr :=
  match fld w 3 0 with
  | 0 => chk w true [(14, 4)] [] (.vexp (fldBv 5 w 20) (fldBv 5 w 15))
  | 1 => chk w true [(14, 4)] [] (.vexp2 (fldBv 5 w 20) (fldBv 5 w 15))
  | 2 => chk w true [(14, 4)] [] (.vlog (fldBv 5 w 20) (fldBv 5 w 15))
  | 3 => chk w true [(14, 4)] [] (.vlog2 (fldBv 5 w 20) (fldBv 5 w 15))
  | 4 => chk w true [(14, 4)] [] (.vsin (fldBv 5 w 20) (fldBv 5 w 15))
  | 5 => chk w true [(14, 4)] [] (.vcos (fldBv 5 w 20) (fldBv 5 w 15))
  | 6 => chk w true [(14, 4)] [] (.vtanh (fldBv 5 w 20) (fldBv 5 w 15))
  | 7 => chk w true [(14, 4)] [] (.vsigm (fldBv 5 w 20) (fldBv 5 w 15))
  | 8 => chk w true [(14, 4)] [] (.vrcp (fldBv 5 w 20) (fldBv 5 w 15))
  | 9 => chk w true [(14, 4)] [] (.vsqrt (fldBv 5 w 20) (fldBv 5 w 15))
  | 10 => chk w true [(14, 4)] [] (.vrsqrt (fldBv 5 w 20) (fldBv 5 w 15))
  | 11 => chk w true [(14, 4)] [] (.verf (fldBv 5 w 20) (fldBv 5 w 15))
  | 12 => chk w true [(9, 4)] [] (.vapply (fldBv 5 w 20) (fldBv 5 w 15) (fldBv 5 w 10))
  | _ => .error .badFunc

/-- Major 0x27. -/
def decodeVcvt (w : IWord) : Except DecodeError Instr :=
  match fld w 2 0 with
  | 0 => chk w true [(14, 3)] [] (.vcvt (fldBv 5 w 20) (fldBv 5 w 15))
  | 1 => chk w true [(14, 3)] [] (.vquant (fldBv 5 w 20) (fldBv 5 w 15))
  | 2 => chk w (decide (fld w 9 5 ≤ 10)) [(14, 10), (4, 3)] [] (.vhad (fldBv 5 w 20) (fldBv 5 w 15) (fldBv 5 w 5))
  | 3 => chk w true [(14, 3)] [] (.vsclget (fldBv 5 w 20) (fldBv 5 w 15))
  | 4 => chk w true [(14, 3)] [] (.vsclset (fldBv 5 w 20) (fldBv 5 w 15))
  | _ => .error .badFunc

/-- Major 0x28. -/
def decodeVperm (w : IWord) : Except DecodeError Instr :=
  match fld w 3 0 with
  | 0 => chk w true [(9, 4)] [] (.vperm (fldBv 5 w 20) (fldBv 5 w 15) (fldBv 5 w 10))
  | 1 => chk w true [(9, 4)] [] (.vslideup (fldBv 5 w 20) (fldBv 5 w 15) (fldBv 5 w 10))
  | 2 => chk w true [(9, 4)] [] (.vslidedn (fldBv 5 w 20) (fldBv 5 w 15) (fldBv 5 w 10))
  | 3 => chk w true [(9, 4)] [low3 w 10] (.vcompress (fldBv 5 w 20) (fldBv 5 w 15) (fldBv 3 w 10))
  | 4 => chk w true [(9, 4)] [low3 w 10] (.vexpand (fldBv 5 w 20) (fldBv 5 w 15) (fldBv 3 w 10))
  | 5 => chk w true [(9, 4)] [] (.vzip (fldBv 5 w 20) (fldBv 5 w 15) (fldBv 5 w 10))
  | 6 => chk w true [(9, 4)] [] (.vunzip (fldBv 5 w 20) (fldBv 5 w 15) (fldBv 5 w 10))
  | 7 => chk w true [(14, 4)] [] (.vbcast (fldBv 5 w 20) (fldBv 5 w 15))
  | 8 => chk w true [(19, 4)] [] (.vid (fldBv 5 w 20))
  | 9 => chk w true [(9, 4)] [] (.vext (fldBv 5 w 20) (fldBv 5 w 15) (fldBv 5 w 10))
  | 10 => chk w true [(9, 4)] [] (.vins (fldBv 5 w 20) (fldBv 5 w 15) (fldBv 5 w 10))
  | 11 => chk w true [(14, 4)] [] (.vmv (fldBv 5 w 20) (fldBv 5 w 15))
  | _ => .error .badFunc

/-- Major 0x29. -/
def decodeVred (w : IWord) : Except DecodeError Instr :=
  match fld w 3 0 with
  | 0 =>
    match fld w 7 4 with
    | 0 => chk w true [(14, 8)] [] (.vredSum (fldBv 5 w 20) (fldBv 5 w 15))
    | 1 => chk w true [(14, 8)] [] (.vredMin (fldBv 5 w 20) (fldBv 5 w 15))
    | 2 => chk w true [(14, 8)] [] (.vredMax (fldBv 5 w 20) (fldBv 5 w 15))
    | 3 => chk w true [(14, 8)] [] (.vredAnd (fldBv 5 w 20) (fldBv 5 w 15))
    | 4 => chk w true [(14, 8)] [] (.vredOr (fldBv 5 w 20) (fldBv 5 w 15))
    | 5 => chk w true [(14, 8)] [] (.vredXor (fldBv 5 w 20) (fldBv 5 w 15))
    | _ => .error .badModifier
  | 1 =>
    match fld w 7 4 with
    | 0 => chk w true [(14, 8)] [] (.vscanSum (fldBv 5 w 20) (fldBv 5 w 15))
    | 1 => chk w true [(14, 8)] [] (.vscanMin (fldBv 5 w 20) (fldBv 5 w 15))
    | 2 => chk w true [(14, 8)] [] (.vscanMax (fldBv 5 w 20) (fldBv 5 w 15))
    | 3 => chk w true [(14, 8)] [] (.vscanAnd (fldBv 5 w 20) (fldBv 5 w 15))
    | 4 => chk w true [(14, 8)] [] (.vscanOr (fldBv 5 w 20) (fldBv 5 w 15))
    | 5 => chk w true [(14, 8)] [] (.vscanXor (fldBv 5 w 20) (fldBv 5 w 15))
    | _ => .error .badModifier
  | _ => .error .badFunc

/-- Major 0x2A. -/
def decodeMask (w : IWord) : Except DecodeError Instr :=
  match fld w 2 0 with
  | 0 => chk w true [(9, 3)] [low3 w 20, low3 w 15, low3 w 10] (.mand (fldBv 3 w 20) (fldBv 3 w 15) (fldBv 3 w 10))
  | 1 => chk w true [(9, 3)] [low3 w 20, low3 w 15, low3 w 10] (.mor (fldBv 3 w 20) (fldBv 3 w 15) (fldBv 3 w 10))
  | 2 => chk w true [(9, 3)] [low3 w 20, low3 w 15, low3 w 10] (.mxor (fldBv 3 w 20) (fldBv 3 w 15) (fldBv 3 w 10))
  | 3 => chk w true [(14, 3)] [low3 w 20, low3 w 15] (.mnot (fldBv 3 w 20) (fldBv 3 w 15))
  | 4 => chk w true [(14, 3)] [low3 w 15] (.mpop (fldBv 5 w 20) (fldBv 3 w 15))
  | 5 => chk w true [(14, 3)] [low3 w 15] (.mfirst (fldBv 5 w 20) (fldBv 3 w 15))
  | 6 => chk w true [(14, 3)] [low3 w 20] (.mset (fldBv 3 w 20) (fldBv 5 w 15))
  | 7 => chk w true [(14, 3)] [low3 w 20, low3 w 15] (.mmv (fldBv 3 w 20) (fldBv 3 w 15))
  | _ => .error .badFunc

/-- Major 0x2B. -/
def decodePres (w : IWord) : Except DecodeError Instr :=
  match fld w 1 0 with
  | 0 =>
    match fld w 9 9, fld w 2 2 with
    | 0, 0 => chk w true [(24, 20), (14, 10), (8, 3)] [] (.settle (fldBv 5 w 15))
    | 1, 0 => chk w true [(24, 20), (14, 10), (8, 3)] [] (.settleNf (fldBv 5 w 15))
    | 0, 1 => chk w true [(24, 10), (8, 3)] [] .settleAll
    | 1, 1 => chk w true [(24, 10), (8, 3)] [] .settleNfAll
    | _, _ => .error .badModifier
  | 1 => chk w true [(14, 2)] [low3 w 20] (.vpres (fldBv 3 w 20) (fldBv 5 w 15))
  | 2 => chk w true [(24, 20), (14, 2)] [] (.vfill (fldBv 5 w 15))
  | _ => .error .badFunc

/-- Major 0x2C. -/
def decodeVld (w : IWord) : Except DecodeError Instr :=
  match fld w 1 0 with
  | 0 => chk w true [(14, 10), (8, 2)] [] (.vld (fldBv 5 w 20) (fldBv 5 w 15) (bit w 9))
  | 1 => chk w true [(8, 2)] [] (.vlds (fldBv 5 w 20) (fldBv 5 w 15) (fldBv 5 w 10) (bit w 9))
  | 2 => chk w true [(19, 2)] [] (.vwait (fldBv 5 w 20))
  | _ => .error .badFunc

/-- Major 0x2D. -/
def decodeVst (w : IWord) : Except DecodeError Instr :=
  match fld w 0 0 with
  | 0 => chk w true [(14, 9), (7, 1)] [] (.vst (fldBv 5 w 20) (fldBv 5 w 15) (bit w 8))
  | 1 => chk w true [(9, 9), (7, 1)] [] (.vsts (fldBv 5 w 20) (fldBv 5 w 15) (fldBv 5 w 10) (bit w 8))
  | _ => .error .badFunc

/-- Major 0x2E. -/
def decodeVgs (w : IWord) : Except DecodeError Instr :=
  match fld w 2 0 with
  | 0 => chk w true [(8, 3)] [] (.vgat (fldBv 5 w 20) (fldBv 5 w 15) (fldBv 5 w 10) (bit w 9))
  | 1 => chk w true [(9, 9), (7, 3)] [] (.vsct (fldBv 5 w 20) (fldBv 5 w 15) (fldBv 5 w 10) (bit w 8))
  | 2 => chk w true [(9, 9), (7, 3)] [] (.vscadd (fldBv 5 w 20) (fldBv 5 w 15) (fldBv 5 w 10) (bit w 8))
  | 3 => chk w true [(9, 3)] [] (.vfas (fldBv 5 w 20) (fldBv 5 w 15) (fldBv 5 w 10))
  | 4 => chk w true [(8, 3)] [low3 w 20] (.vprobe (fldBv 3 w 20) (fldBv 5 w 15) (fldBv 5 w 10) (bit w 9))
  | _ => .error .badFunc

/-- Major 0x2F. -/
def decodeVsc (w : IWord) : Except DecodeError Instr :=
  match fld w 0 0 with
  | 0 => chk w true [(14, 1)] [] (.vldSc (fldBv 5 w 20) (fldBv 5 w 15))
  | 1 => chk w true [(14, 1)] [] (.vstSc (fldBv 5 w 20) (fldBv 5 w 15))
  | _ => .error .badFunc

/-- Major 0x30. -/
def decodeMma (w : IWord) : Except DecodeError Instr :=
  match fld w 2 0 with
  | 0 => chk w true [(9, 6)] [low3 w 20, pairOk w 10, grp w] (.mma (fldBv 3 w 20) (fldBv 5 w 15) (fldBv 4 w 11) (bit w 5) (fldBv 2 w 3))
  | 1 => chk w true [(9, 6), (4, 3)] [low3 w 20, pairOk w 15, pairOk w 10] (.mmas (fldBv 3 w 20) (fldBv 4 w 16) (fldBv 4 w 11) (bit w 5))
  | 2 => chk w true [(9, 6)] [low3 w 20, pairOk w 10, grp w] (.mmasp (fldBv 3 w 20) (fldBv 5 w 15) (fldBv 4 w 11) (bit w 5) (fldBv 2 w 3))
  | _ => .error .badFunc

/-- Major 0x31. -/
def decodeMacc (w : IWord) : Except DecodeError Instr :=
  match fld w 2 0 with
  | 0 => chk w true [(19, 3)] [low3 w 20] (.maccZ (fldBv 3 w 20))
  | 1 => chk w true [(9, 3)] [low3 w 15] (.maccRd (fldBv 5 w 20) (fldBv 3 w 15) (fldBv 5 w 10))
  | 2 => chk w true [(9, 3)] [low3 w 20] (.maccWr (fldBv 3 w 20) (fldBv 5 w 15) (fldBv 5 w 10))
  | 3 =>
    match fld w 3 3 with
    | 0 => chk w true [(9, 4)] [low3 w 20] (.maccSt (fldBv 3 w 20) (fldBv 5 w 15) (fldBv 5 w 10))
    | 1 => chk w true [(9, 4)] [low3 w 20] (.maccStX (fldBv 3 w 20) (fldBv 5 w 15) (fldBv 5 w 10))
    | _ => .error .badModifier
  | 4 => chk w true [(9, 3)] [pairOk w 20] (.mtd (fldBv 4 w 21) (fldBv 5 w 15) (fldBv 5 w 10))
  | _ => .error .badFunc

/-- Major 0x32. -/
def decodeSvec (w : IWord) : Except DecodeError Instr :=
  match fld w 2 0 with
  | 0 => chk w true [(14, 3)] [low3 w 20] (.svld (fldBv 3 w 20) (fldBv 5 w 15))
  | 1 => chk w true [(14, 3)] [low3 w 20] (.svst (fldBv 3 w 20) (fldBv 5 w 15))
  | 2 => chk w true [(9, 3)] [low3 w 20, low3 w 15, low3 w 10] (.svadd (fldBv 3 w 20) (fldBv 3 w 15) (fldBv 3 w 10))
  | 3 => chk w true [(9, 3)] [low3 w 20, low3 w 15, low3 w 10] (.svmul (fldBv 3 w 20) (fldBv 3 w 15) (fldBv 3 w 10))
  | 4 => chk w true [(9, 3)] [low3 w 20, low3 w 15] (.svscale (fldBv 3 w 20) (fldBv 3 w 15) (fldBv 5 w 10))
  | 5 => chk w true [(14, 3)] [low3 w 20] (.svcomp (fldBv 3 w 20) (fldBv 5 w 15))
  | 6 => chk w true [(14, 3)] [low3 w 15] (.svexp (fldBv 5 w 20) (fldBv 3 w 15))
  | 7 => chk w true [(14, 3)] [low3 w 15] (.svlen (fldBv 5 w 20) (fldBv 3 w 15))
  | _ => .error .badFunc

/-- Major 0x33. -/
def decodeMerge (w : IWord) : Except DecodeError Late :=
  match fld w 2 0 with
  | 0 =>
    match fld w 3 3 with
    | 0 => chk w true [(14, 4)] [] (.mgopen (fldBv 5 w 20) (fldBv 5 w 15))
    | 1 => chk w true [(14, 4)] [] (.mgopenCont (fldBv 5 w 20) (fldBv 5 w 15))
    | _ => .error .badModifier
  | 1 => chk w true [(9, 8), (3, 3)] [low3 w 15] (.mgpush (fldBv 5 w 20) (fldBv 3 w 15) (fldBv 5 w 10) (fldBv 4 w 4))
  | 2 => chk w true [(19, 3)] [] (.mgflush (fldBv 5 w 20))
  | 3 =>
    match fld w 3 3 with
    | 0 => chk w true [(14, 4)] [] (.mgpull (fldBv 5 w 20) (fldBv 5 w 15))
    | 1 => chk w true [(14, 4)] [low3 w 20] (.mgpullSv (fldBv 3 w 20) (fldBv 5 w 15))
    | _ => .error .badModifier
  | 4 => chk w true [(24, 3)] [] .mgclose
  | 5 =>
    match fld w 9 8 with
    | 0 => chk w true [(19, 10), (7, 3)] [] (.mgstatRuns (fldBv 5 w 20))
    | 1 => chk w true [(19, 10), (7, 3)] [] (.mgstatEntries (fldBv 5 w 20))
    | 2 => chk w true [(19, 10), (7, 3)] [] (.mgstatStatus (fldBv 5 w 20))
    | _ => .error .badModifier
  | _ => .error .badFunc

/-- Major 0x34. -/
def decodeCopy (w : IWord) : Except DecodeError Late :=
  match fld w 2 0 with
  | 0 => chk w (decide (fld w 6 4 < 6)) [(9, 7), (3, 3)] [] (.cpdim (fldBv 5 w 20) (fldBv 5 w 15) (fldBv 5 w 10) (Level.ofCode (fld w 6 4)))
  | 1 => chk w true [(14, 3)] [] (.cpgo (fldBv 5 w 20) (fldBv 5 w 15))
  | 2 => chk w true [(14, 3)] [] (.cpgat (fldBv 5 w 20) (fldBv 5 w 15))
  | 3 => chk w true [(9, 3)] [] (.cpmc (fldBv 5 w 20) (fldBv 5 w 15) (fldBv 5 w 10))
  | 4 => chk w true [(24, 20), (9, 3)] [] (.permit (fldBv 5 w 15) (fldBv 5 w 10))
  | 5 => chk w true [(14, 3)] [] (.cpstat (fldBv 5 w 20) (fldBv 5 w 15))
  | _ => .error .badFunc

/-- Major 0x35. -/
def decodeTask (w : IWord) : Except DecodeError Late :=
  match fld w 3 0 with
  | 0 => chk w true [(14, 4)] [] (.launch (fldBv 5 w 20) (fldBv 5 w 15))
  | 1 => chk w true [(14, 4)] [] (.gsub (fldBv 5 w 20) (fldBv 5 w 15))
  | 2 => chk w true [(24, 20), (9, 4)] [] (.spawn (fldBv 5 w 15) (fldBv 5 w 10))
  | 3 => chk w true [(14, 4)] [] (.join (fldBv 5 w 20) (fldBv 5 w 15))
  | 4 => chk w true [(24, 4)] [] .yield
  | 5 => chk w true [(9, 4)] [] (.park (fldBv 5 w 20) (fldBv 5 w 15) (fldBv 5 w 10))
  | 6 => chk w true [(24, 4)] [] .tend
  | 7 => chk w true [(24, 20), (14, 4)] [] (.prio (fldBv 5 w 15))
  | 8 => chk w (decide (fld w 6 4 < 6)) [(19, 7)] [] (.wid (fldBv 5 w 20) (Level.ofCode (fld w 6 4)))
  | _ => .error .badFunc

/-- Major 0x36. -/
def decodeVane (w : IWord) : Except DecodeError Late :=
  match fld w 2 0 with
  | 0 => chk w true [(9, 3)] [] (.vaneArm (fldBv 5 w 20) (fldBv 5 w 15) (fldBv 5 w 10))
  | 1 => chk w true [(24, 3)] [] .vret
  | 2 =>
    match fld w 3 3 with
    | 0 => chk w true [(24, 4)] [] .lull
    | 1 => chk w true [(24, 20), (14, 4)] [] (.lullN (fldBv 5 w 15))
    | _ => .error .badModifier
  | 3 => chk w true [(14, 3)] [] (.vaneRd (fldBv 5 w 20) (fldBv 5 w 15))
  | 4 => chk w true [(24, 20), (9, 3)] [] (.vaneDrop (fldBv 5 w 15) (fldBv 5 w 10))
  | _ => .error .badFunc

/-- Major 0x37. -/
def decodeRemote (w : IWord) : Except DecodeError Late :=
  match fld w 2 0 with
  | 0 => chk w true [(24, 3)] [] .rfence
  | 1 => chk w true [(14, 3)] [] (.rwin (fldBv 5 w 20) (fldBv 5 w 15))
  | _ => .error .badFunc

/-- R57 up to its register-field step, for majors 0x01 to 0x32. -/
def decodeLow (w : IWord) : Except DecodeError Instr :=
  match fld w 31 25 with
  | 0x01 => decodeMode w
  | 0x02 => decodeSys w
  | 0x03 => decodeAlu w
  | 0x04 => decodeAddi w
  | 0x05 => decodeAndi w
  | 0x06 => decodeOri w
  | 0x07 => decodeXori w
  | 0x08 => decodeShifti w
  | 0x09 => decodeSlti w
  | 0x0A => decodeSltiu w
  | 0x0B => decodeLih w
  | 0x0C => decodeLix w
  | 0x0D => decodeSel w
  | 0x0E => decodeBits w
  | 0x0F => decodeCsr w
  | 0x10 => decodeFpu w
  | 0x11 => decodeFfma w
  | 0x12 => decodeBeq w
  | 0x13 => decodeBne w
  | 0x14 => decodeBlt w
  | 0x15 => decodeBge w
  | 0x16 => decodeBltu w
  | 0x17 => decodeBgeu w
  | 0x18 => decodeJal w
  | 0x19 => decodeJalr w
  | 0x1A => decodeLoop w
  | 0x1B => decodeQbr w
  | 0x1C => decodeLd w
  | 0x1D => decodeSt w
  | 0x1E => decodePref w
  | 0x1F => decodeAmo w
  | 0x20 => decodeSync w
  | 0x21 => decodeSetvl w
  | 0x22 => decodeVarith w
  | 0x23 => decodeVfma w
  | 0x24 => decodeVcmp w
  | 0x25 => decodeVsel w
  | 0x26 => decodeVfunc w
  | 0x27 => decodeVcvt w
  | 0x28 => decodeVperm w
  | 0x29 => decodeVred w
  | 0x2A => decodeMask w
  | 0x2B => decodePres w
  | 0x2C => decodeVld w
  | 0x2D => decodeVst w
  | 0x2E => decodeVgs w
  | 0x2F => decodeVsc w
  | 0x30 => decodeMma w
  | 0x31 => decodeMacc w
  | 0x32 => decodeSvec w
  | _ => .error .badMajor

/-- R57 up to its register-field step, for majors 0x33 to 0x37. -/
def decodeLate (w : IWord) : Except DecodeError Late :=
  match fld w 31 25 with
  | 0x33 => decodeMerge w
  | 0x34 => decodeCopy w
  | 0x35 => decodeTask w
  | 0x36 => decodeVane w
  | 0x37 => decodeRemote w
  | _ => .error .badMajor

/-- Majors 0x33 to 0x37. -/
def isLate (w : IWord) : Bool := decide (0x33 ≤ fld w 31 25 ∧ fld w 31 25 ≤ 0x37)

/-- The decoder: R57, up to and including its register-field step, total on every word. The level and context step reads
the strand and stands with the meanings (Table 3.12). -/
noncomputable def decode (w : IWord) : Except DecodeError Instr :=
  if isLate w then (decodeLate w).map Late.instr else decodeLow w

/-- Whether the row has an encoding (it is an instruction and no event). -/
def Instr.encoded : Instr → Bool
  | .mode _ => true
  | .nop => true
  | .trap _ => true
  | .tret => true
  | .brk _ => true
  | .halt => true
  | .wfi => true
  | .tlbinvVa _ _ => true
  | .tlbinvAsid _ => true
  | .tlbinvVmid => true
  | .tlbinvIpa _ _ => true
  | .tlbsync => true
  | .tlbsyncComplete _ => false
  | .intr _ _ => true
  | .add _ _ _ _ => true
  | .sub _ _ _ _ => true
  | .mul _ _ _ _ => true
  | .mulh _ _ _ _ => true
  | .mulhu _ _ _ _ => true
  | .div _ _ _ _ => true
  | .divu _ _ _ _ => true
  | .rem _ _ _ _ => true
  | .remu _ _ _ _ => true
  | .and _ _ _ _ => true
  | .or _ _ _ _ => true
  | .xor _ _ _ _ => true
  | .sll _ _ _ _ => true
  | .srl _ _ _ _ => true
  | .sra _ _ _ _ => true
  | .slt _ _ _ _ => true
  | .sltu _ _ _ _ => true
  | .min _ _ _ _ => true
  | .max _ _ _ _ => true
  | .minu _ _ _ _ => true
  | .maxu _ _ _ _ => true
  | .addi _ _ _ => true
  | .andi _ _ _ => true
  | .ori _ _ _ => true
  | .xori _ _ _ => true
  | .slli _ _ _ _ => true
  | .srli _ _ _ _ => true
  | .srai _ _ _ _ => true
  | .slti _ _ _ => true
  | .sltiu _ _ _ => true
  | .lih _ _ => true
  | .lix _ _ => true
  | .sel _ _ _ _ => true
  | .clz _ _ _ => true
  | .ctz _ _ _ => true
  | .popc _ _ _ => true
  | .bext _ _ _ _ => true
  | .bins _ _ _ _ => true
  | .bswap _ _ _ => true
  | .csrr _ _ => true
  | .csrw _ _ _ => true
  | .csrs _ _ _ => true
  | .csrc _ _ _ => true
  | .mrWrite _ => false
  | .fflagsAccess _ => false
  | .fadd _ _ _ _ => true
  | .fsub _ _ _ _ => true
  | .fmul _ _ _ _ => true
  | .fdiv _ _ _ _ => true
  | .fsqrt _ _ _ => true
  | .fmin _ _ _ _ => true
  | .fmax _ _ _ _ => true
  | .feq _ _ _ _ => true
  | .flt _ _ _ _ => true
  | .fle _ _ _ _ => true
  | .fclass _ _ _ => true
  | .fcvtFF _ _ _ _ => true
  | .fcvtFI _ _ _ _ => true
  | .fcvtIF _ _ _ _ => true
  | .fsgnj _ _ _ _ => true
  | .fsgnjN _ _ _ _ => true
  | .fsgnjX _ _ _ _ => true
  | .ffma _ _ _ _ _ => true
  | .ffms _ _ _ _ _ => true
  | .ffnma _ _ _ _ _ => true
  | .ffnms _ _ _ _ _ => true
  | .beq _ _ _ => true
  | .bne _ _ _ => true
  | .blt _ _ _ => true
  | .bge _ _ _ => true
  | .bltu _ _ _ => true
  | .bgeu _ _ _ => true
  | .jal _ => true
  | .jalr _ _ _ => true
  | .loop _ _ _ => true
  | .loopi _ _ _ => true
  | .vloop _ _ _ => true
  | .lpclr _ => true
  | .bqput _ => true
  | .bqb _ => true
  | .ldB _ _ _ => true
  | .ldH _ _ _ => true
  | .ldW _ _ _ => true
  | .ldD _ _ _ => true
  | .ldBu _ _ _ => true
  | .ldHu _ _ _ => true
  | .ldWu _ _ _ => true
  | .stB _ _ _ => true
  | .stH _ _ _ => true
  | .stW _ _ _ => true
  | .stD _ _ _ => true
  | .prefR _ _ => true
  | .prefW _ _ => true
  | .prefS _ _ => true
  | .amoAdd _ _ _ _ _ => true
  | .amoAnd _ _ _ _ _ => true
  | .amoOr _ _ _ _ _ => true
  | .amoXor _ _ _ _ _ => true
  | .amoMin _ _ _ _ _ => true
  | .amoMax _ _ _ _ _ => true
  | .amoMinu _ _ _ _ _ => true
  | .amoMaxu _ _ _ _ _ => true
  | .amoSwap _ _ _ _ _ => true
  | .amoCas _ _ _ _ _ => true
  | .amoFadd _ _ _ _ _ => true
  | .fenceAcq _ => true
  | .fenceRel _ => true
  | .fenceAr _ => true
  | .fenceSc _ => true
  | .vdrain _ => true
  | .mmon _ => true
  | .mwait _ _ => true
  | .bar _ => true
  | .setvl _ _ => true
  | .setvli _ _ => true
  | .microOpIssue _ => false
  | .vadd _ _ _ => true
  | .vsub _ _ _ => true
  | .vmul _ _ _ => true
  | .vmulh _ _ _ => true
  | .vdiv _ _ _ => true
  | .vmin _ _ _ => true
  | .vmax _ _ _ => true
  | .vabs _ _ => true
  | .vneg _ _ => true
  | .vand _ _ _ => true
  | .vor _ _ _ => true
  | .vxor _ _ _ => true
  | .vnot _ _ => true
  | .vsll _ _ _ => true
  | .vsrl _ _ _ => true
  | .vsra _ _ _ => true
  | .vdot4 _ _ _ => true
  | .vaddw _ _ _ => true
  | .vclass _ _ => true
  | .vsgnj _ _ _ => true
  | .vsgnjN _ _ _ => true
  | .vsgnjX _ _ _ => true
  | .vfma _ _ _ _ => true
  | .vfms _ _ _ _ => true
  | .vfnma _ _ _ _ => true
  | .vfnms _ _ _ _ => true
  | .vcmpEq _ _ _ => true
  | .vcmpNe _ _ _ => true
  | .vcmpLt _ _ _ => true
  | .vcmpLe _ _ _ => true
  | .vcmpGt _ _ _ => true
  | .vcmpGe _ _ _ => true
  | .vcmpUn _ _ _ => true
  | .vcmpOrd _ _ _ => true
  | .vsel _ _ _ _ => true
  | .vexp _ _ => true
  | .vexp2 _ _ => true
  | .vlog _ _ => true
  | .vlog2 _ _ => true
  | .vsin _ _ => true
  | .vcos _ _ => true
  | .vtanh _ _ => true
  | .vsigm _ _ => true
  | .vrcp _ _ => true
  | .vsqrt _ _ => true
  | .vrsqrt _ _ => true
  | .verf _ _ => true
  | .vapply _ _ _ => true
  | .vcvt _ _ => true
  | .vquant _ _ => true
  | .vhad _ _ _ => true
  | .vsclget _ _ => true
  | .vsclset _ _ => true
  | .vperm _ _ _ => true
  | .vslideup _ _ _ => true
  | .vslidedn _ _ _ => true
  | .vcompress _ _ _ => true
  | .vexpand _ _ _ => true
  | .vzip _ _ _ => true
  | .vunzip _ _ _ => true
  | .vbcast _ _ => true
  | .vid _ => true
  | .vext _ _ _ => true
  | .vins _ _ _ => true
  | .vmv _ _ => true
  | .vredSum _ _ => true
  | .vredMin _ _ => true
  | .vredMax _ _ => true
  | .vredAnd _ _ => true
  | .vredOr _ _ => true
  | .vredXor _ _ => true
  | .vscanSum _ _ => true
  | .vscanMin _ _ => true
  | .vscanMax _ _ => true
  | .vscanAnd _ _ => true
  | .vscanOr _ _ => true
  | .vscanXor _ _ => true
  | .mand _ _ _ => true
  | .mor _ _ _ => true
  | .mxor _ _ _ => true
  | .mnot _ _ => true
  | .mpop _ _ => true
  | .mfirst _ _ => true
  | .mset _ _ => true
  | .mmv _ _ => true
  | .settle _ => true
  | .settleNf _ => true
  | .settleAll => true
  | .settleNfAll => true
  | .settleComplete _ => false
  | .vpres _ _ => true
  | .vfill _ => true
  | .thawTake _ _ => false
  | .thawTimeout _ _ => false
  | .vld _ _ _ => true
  | .vlds _ _ _ _ => true
  | .vwait _ => true
  | .vst _ _ _ => true
  | .vsts _ _ _ _ => true
  | .vgat _ _ _ _ => true
  | .vsct _ _ _ _ => true
  | .vscadd _ _ _ _ => true
  | .vfas _ _ _ => true
  | .vprobe _ _ _ _ => true
  | .vldSc _ _ => true
  | .vstSc _ _ => true
  | .mma _ _ _ _ _ => true
  | .mmas _ _ _ _ => true
  | .mmasp _ _ _ _ _ => true
  | .maccZ _ => true
  | .maccRd _ _ _ => true
  | .maccWr _ _ _ => true
  | .maccSt _ _ _ => true
  | .maccStX _ _ _ => true
  | .mtd _ _ _ => true
  | .svld _ _ => true
  | .svst _ _ => true
  | .svadd _ _ _ => true
  | .svmul _ _ _ => true
  | .svscale _ _ _ => true
  | .svcomp _ _ => true
  | .svexp _ _ => true
  | .svlen _ _ => true
  | .mgopen _ _ => true
  | .mgopenCont _ _ => true
  | .mgopenGrant _ => false
  | .mgpush _ _ _ _ => true
  | .mgflush _ => true
  | .mgpull _ _ => true
  | .mgpullSv _ _ => true
  | .mgclose => true
  | .mgstatRuns _ => true
  | .mgstatEntries _ => true
  | .mgstatStatus _ => true
  | .mergeBufferError _ => false
  | .cpdim _ _ _ _ => true
  | .cpgo _ _ => true
  | .cpgat _ _ => true
  | .cpmc _ _ _ => true
  | .permit _ _ => true
  | .cpstat _ _ => true
  | .copyQueueAdmit _ => false
  | .copyStart _ => false
  | .slotPermitTake _ => false
  | .transfer _ _ => false
  | .gatherRow _ _ => false
  | .copyStamp _ => false
  | .copyFail _ _ _ => false
  | .launch _ _ => true
  | .launchAdmit _ => false
  | .pinPassResume _ _ => false
  | .gsub _ _ => true
  | .gsubAdmit _ => false
  | .spawn _ _ => true
  | .join _ _ => true
  | .joinWake _ => false
  | .yield => true
  | .park _ _ _ => true
  | .tend => true
  | .tendComplete _ => false
  | .prio _ => true
  | .wid _ _ => true
  | .taskEnumerate _ _ => false
  | .gangAdmit _ _ _ => false
  | .taskDispatch _ => false
  | .preempt _ => false
  | .steal _ _ => false
  | .parkWake _ => false
  | .launchComplete _ _ => false
  | .nodeFinish _ _ _ => false
  | .nodeFail _ _ _ => false
  | .vaneArm _ _ _ => true
  | .vaneArmCommit _ => false
  | .vret => true
  | .lull => true
  | .lullN _ => true
  | .vaneRd _ _ => true
  | .vaneDrop _ _ => true
  | .flipMessage _ => false
  | .idlePass _ => false
  | .edgeStoreError _ _ _ _ => false
  | .rfence => true
  | .rwin _ _ => true
  | .rwinCloseComplete _ => false
  | .illegalInstruction _ => false
  | .queueDeadlock _ => false
  | .interrupt _ => false
  | .wfiWake _ => false
  | .haltWake => false
  | .read _ _ _ => false
  | .push _ => false
  | .enterScalar _ => false
  | .supply _ _ _ => false
  | .enterTrain _ _ _ => false
  | .widen _ => false
  | .atomic _ _ _ => false
  | .land _ _ _ => false
  | .complete _ => false
  | .scAccess _ => false
  | .monitorRead _ => false
  | .barArrive _ => false
  | .chunkDone _ _ => false
  | .remoteEnter _ _ _ _ _ => false
  | .ack _ _ _ => false
  | .dataMessage _ => false
  | .tailMessage _ => false
  | .ackMessage _ => false
  | .nackMessage _ => false
  | .atomicRequest _ => false
  | .atomicResponse _ => false
  | .stampMessage _ => false
  | .restartMessage _ => false
  | .resendTimeout _ _ _ => false
  | .streamTimeout _ _ _ => false
  | .vdmapWrite _ _ => false
  | .domainSwitch _ => false
  | .clockChange _ => false
  | .tctlWrite _ _ => false
  | .tctlApply _ => false
  | .slewStep _ => false
  | .budgetInterval _ => false
  | .pmeasWindow _ _ => false
  | .pbudWrite _ _ => false
  | .overcurrentTrip _ => false
  | .overcurrentClear _ => false
  | .sensorSample _ _ => false
  | .wdogWrite => false
  | .watchdogWarning => false
  | .watchdogExpire => false
  | .mtickTick => false
  | .pctlWrite _ => false
  | .mInterrupt => false
  | .pswWrite _ => false
  | .pswaWrite _ _ => false
  | .energyWindow _ _ => false
  | .hsemRead _ => false
  | .hsemRelease _ => false
  | .hsemLapse => false
  | .hostCsrAccess _ _ _ _ => false
  | .tenantCreate _ _ => false
  | .tenantReset _ => false
  | .memoryWindowWrite _ _ _ _ => false
  | .hinvWrite _ => false
  | .hinvDone => false
  | .rtbaseWrite _ => false
  | .migRetry _ => false
  | .cxlMemAccess _ _ _ _ => false
  | .spdmGetVersion _ => false
  | .spdmGetCapabilities _ => false
  | .spdmNegotiateAlgorithms _ => false
  | .spdmGetDigests _ => false
  | .spdmGetCertificate _ _ _ _ => false
  | .spdmChallenge _ _ _ => false
  | .spdmGetMeasurements _ _ => false
  | .spdmUnsupportedRequest _ _ => false
  | .uncorrectableError _ => false
  | .internalStateError _ => false
  | .clusterReset _ => false
  | .clusterResetComplete _ => false
  | .warmReset => false
  | .coldReset => false
  | .stateDump _ => false
  | .stateDumpComplete => false
  | .tenantResetComplete _ => false
  | .msixTableWrite _ _ _ _ _ => false

/-- The word of an instruction, as a number: the sum of its fields shifted to the places Tables 3.1 and 3.3 to 3.11 give
them. An event has no encoding; its word is 0. -/
def encodeNat : Instr → Nat
  | .mode i => 0x02000000 + i.toNat * 1
  | .nop => 0x04000000
  | .trap c => 0x04000400 + c.toNat * 1
  | .tret => 0x04000800
  | .brk c => 0x04000C00 + c.toNat * 1
  | .halt => 0x04001000
  | .wfi => 0x04001400
  | .tlbinvVa d a => 0x04001800 + d.toNat * 1048576 + a.toNat * 32768
  | .tlbinvAsid d => 0x04001801 + d.toNat * 1048576
  | .tlbinvVmid => 0x04001802
  | .tlbinvIpa d a => 0x04001803 + d.toNat * 1048576 + a.toNat * 32768
  | .tlbsync => 0x04001C00
  | .tlbsyncComplete _ => 0
  | .intr p v => 0x04002000 + p.toNat * 64 + v.toNat * 1
  | .add d a b w => 0x06000000 + d.toNat * 1048576 + a.toNat * 32768 + b.toNat * 1024 + w.toNat * 512
  | .sub d a b w => 0x06000001 + d.toNat * 1048576 + a.toNat * 32768 + b.toNat * 1024 + w.toNat * 512
  | .mul d a b w => 0x06000002 + d.toNat * 1048576 + a.toNat * 32768 + b.toNat * 1024 + w.toNat * 512
  | .mulh d a b w => 0x06000003 + d.toNat * 1048576 + a.toNat * 32768 + b.toNat * 1024 + w.toNat * 512
  | .mulhu d a b w => 0x06000004 + d.toNat * 1048576 + a.toNat * 32768 + b.toNat * 1024 + w.toNat * 512
  | .div d a b w => 0x06000005 + d.toNat * 1048576 + a.toNat * 32768 + b.toNat * 1024 + w.toNat * 512
  | .divu d a b w => 0x06000006 + d.toNat * 1048576 + a.toNat * 32768 + b.toNat * 1024 + w.toNat * 512
  | .rem d a b w => 0x06000007 + d.toNat * 1048576 + a.toNat * 32768 + b.toNat * 1024 + w.toNat * 512
  | .remu d a b w => 0x06000008 + d.toNat * 1048576 + a.toNat * 32768 + b.toNat * 1024 + w.toNat * 512
  | .and d a b w => 0x06000009 + d.toNat * 1048576 + a.toNat * 32768 + b.toNat * 1024 + w.toNat * 512
  | .or d a b w => 0x0600000A + d.toNat * 1048576 + a.toNat * 32768 + b.toNat * 1024 + w.toNat * 512
  | .xor d a b w => 0x0600000B + d.toNat * 1048576 + a.toNat * 32768 + b.toNat * 1024 + w.toNat * 512
  | .sll d a b w => 0x0600000C + d.toNat * 1048576 + a.toNat * 32768 + b.toNat * 1024 + w.toNat * 512
  | .srl d a b w => 0x0600000D + d.toNat * 1048576 + a.toNat * 32768 + b.toNat * 1024 + w.toNat * 512
  | .sra d a b w => 0x0600000E + d.toNat * 1048576 + a.toNat * 32768 + b.toNat * 1024 + w.toNat * 512
  | .slt d a b w => 0x0600000F + d.toNat * 1048576 + a.toNat * 32768 + b.toNat * 1024 + w.toNat * 512
  | .sltu d a b w => 0x06000010 + d.toNat * 1048576 + a.toNat * 32768 + b.toNat * 1024 + w.toNat * 512
  | .min d a b w => 0x06000011 + d.toNat * 1048576 + a.toNat * 32768 + b.toNat * 1024 + w.toNat * 512
  | .max d a b w => 0x06000012 + d.toNat * 1048576 + a.toNat * 32768 + b.toNat * 1024 + w.toNat * 512
  | .minu d a b w => 0x06000013 + d.toNat * 1048576 + a.toNat * 32768 + b.toNat * 1024 + w.toNat * 512
  | .maxu d a b w => 0x06000014 + d.toNat * 1048576 + a.toNat * 32768 + b.toNat * 1024 + w.toNat * 512
  | .addi d a i => 0x08000000 + d.toNat * 1048576 + a.toNat * 32768 + i.toNat * 1
  | .andi d a i => 0x0A000000 + d.toNat * 1048576 + a.toNat * 32768 + i.toNat * 1
  | .ori d a i => 0x0C000000 + d.toNat * 1048576 + a.toNat * 32768 + i.toNat * 1
  | .xori d a i => 0x0E000000 + d.toNat * 1048576 + a.toNat * 32768 + i.toNat * 1
  | .slli d a w n => 0x10000000 + d.toNat * 1048576 + a.toNat * 32768 + w.toNat * 4096 + n.toNat * 1
  | .srli d a w n => 0x10002000 + d.toNat * 1048576 + a.toNat * 32768 + w.toNat * 4096 + n.toNat * 1
  | .srai d a w n => 0x10004000 + d.toNat * 1048576 + a.toNat * 32768 + w.toNat * 4096 + n.toNat * 1
  | .slti d a i => 0x12000000 + d.toNat * 1048576 + a.toNat * 32768 + i.toNat * 1
  | .sltiu d a i => 0x14000000 + d.toNat * 1048576 + a.toNat * 32768 + i.toNat * 1
  | .lih d i => 0x16000000 + d.toNat * 1048576 + i.toNat * 1
  | .lix d i => 0x18000000 + d.toNat * 1048576 + i.toNat * 1
  | .sel d a b c => 0x1A000000 + d.toNat * 1048576 + a.toNat * 32768 + b.toNat * 1024 + c.toNat * 32
  | .clz d a w => 0x1C000000 + d.toNat * 1048576 + a.toNat * 32768 + w.toNat * 512
  | .ctz d a w => 0x1C000001 + d.toNat * 1048576 + a.toNat * 32768 + w.toNat * 512
  | .popc d a w => 0x1C000002 + d.toNat * 1048576 + a.toNat * 32768 + w.toNat * 512
  | .bext d a b w => 0x1C000003 + d.toNat * 1048576 + a.toNat * 32768 + b.toNat * 1024 + w.toNat * 512
  | .bins d a b w => 0x1C000004 + d.toNat * 1048576 + a.toNat * 32768 + b.toNat * 1024 + w.toNat * 512
  | .bswap d a w => 0x1C000005 + d.toNat * 1048576 + a.toNat * 32768 + w.toNat * 512
  | .csrr d n => 0x1E000000 + d.toNat * 1048576 + n.toNat * 1
  | .csrw d a n => 0x1E001000 + d.toNat * 1048576 + a.toNat * 32768 + n.toNat * 1
  | .csrs d a n => 0x1E002000 + d.toNat * 1048576 + a.toNat * 32768 + n.toNat * 1
  | .csrc d a n => 0x1E003000 + d.toNat * 1048576 + a.toNat * 32768 + n.toNat * 1
  | .mrWrite _ => 0
  | .fflagsAccess _ => 0
  | .fadd d a b t => 0x20000000 + d.toNat * 1048576 + a.toNat * 32768 + b.toNat * 1024 + t.code * 256
  | .fsub d a b t => 0x20000010 + d.toNat * 1048576 + a.toNat * 32768 + b.toNat * 1024 + t.code * 256
  | .fmul d a b t => 0x20000020 + d.toNat * 1048576 + a.toNat * 32768 + b.toNat * 1024 + t.code * 256
  | .fdiv d a b t => 0x20000030 + d.toNat * 1048576 + a.toNat * 32768 + b.toNat * 1024 + t.code * 256
  | .fsqrt d a t => 0x20000040 + d.toNat * 1048576 + a.toNat * 32768 + t.code * 256
  | .fmin d a b t => 0x20000050 + d.toNat * 1048576 + a.toNat * 32768 + b.toNat * 1024 + t.code * 256
  | .fmax d a b t => 0x20000060 + d.toNat * 1048576 + a.toNat * 32768 + b.toNat * 1024 + t.code * 256
  | .feq d a b t => 0x20000070 + d.toNat * 1048576 + a.toNat * 32768 + b.toNat * 1024 + t.code * 256
  | .flt d a b t => 0x20000080 + d.toNat * 1048576 + a.toNat * 32768 + b.toNat * 1024 + t.code * 256
  | .fle d a b t => 0x20000090 + d.toNat * 1048576 + a.toNat * 32768 + b.toNat * 1024 + t.code * 256
  | .fclass d a t => 0x200000A0 + d.toNat * 1048576 + a.toNat * 32768 + t.code * 256
  | .fcvtFF d a t s => 0x200000B0 + d.toNat * 1048576 + a.toNat * 32768 + t.code * 256 + s.code * 1
  | .fcvtFI d a t s => 0x200000B4 + d.toNat * 1048576 + a.toNat * 32768 + t.code * 256 + s.code * 1
  | .fcvtIF d a t s => 0x200000B8 + d.toNat * 1048576 + a.toNat * 32768 + t.code * 256 + s.code * 1
  | .fsgnj d a b t => 0x200000C0 + d.toNat * 1048576 + a.toNat * 32768 + b.toNat * 1024 + t.code * 256
  | .fsgnjN d a b t => 0x200000C1 + d.toNat * 1048576 + a.toNat * 32768 + b.toNat * 1024 + t.code * 256
  | .fsgnjX d a b t => 0x200000C2 + d.toNat * 1048576 + a.toNat * 32768 + b.toNat * 1024 + t.code * 256
  | .ffma d a b c t => 0x22000000 + d.toNat * 1048576 + a.toNat * 32768 + b.toNat * 1024 + c.toNat * 32 + t.code * 4
  | .ffms d a b c t => 0x22000001 + d.toNat * 1048576 + a.toNat * 32768 + b.toNat * 1024 + c.toNat * 32 + t.code * 4
  | .ffnma d a b c t => 0x22000002 + d.toNat * 1048576 + a.toNat * 32768 + b.toNat * 1024 + c.toNat * 32 + t.code * 4
  | .ffnms d a b c t => 0x22000003 + d.toNat * 1048576 + a.toNat * 32768 + b.toNat * 1024 + c.toNat * 32 + t.code * 4
  | .beq a b o => 0x24000000 + a.toNat * 1048576 + b.toNat * 32768 + o.toNat * 1
  | .bne a b o => 0x26000000 + a.toNat * 1048576 + b.toNat * 32768 + o.toNat * 1
  | .blt a b o => 0x28000000 + a.toNat * 1048576 + b.toNat * 32768 + o.toNat * 1
  | .bge a b o => 0x2A000000 + a.toNat * 1048576 + b.toNat * 32768 + o.toNat * 1
  | .bltu a b o => 0x2C000000 + a.toNat * 1048576 + b.toNat * 32768 + o.toNat * 1
  | .bgeu a b o => 0x2E000000 + a.toNat * 1048576 + b.toNat * 32768 + o.toNat * 1
  | .jal o => 0x30000000 + o.toNat * 1
  | .jalr d a i => 0x32000000 + d.toNat * 1048576 + a.toNat * 32768 + i.toNat * 1
  | .loop n a e => 0x34000000 + n.toNat * 16777216 + a.toNat * 32768 + e.toNat * 1
  | .loopi n c e => 0x34100000 + n.toNat * 16777216 + c.toNat * 256 + e.toNat * 1
  | .vloop n a e => 0x34200000 + n.toNat * 16777216 + a.toNat * 32768 + e.toNat * 1
  | .lpclr n => 0x34300000 + n.toNat * 16777216
  | .bqput a => 0x36000000 + a.toNat * 32768
  | .bqb o => 0x36100000 + o.toNat * 1
  | .ldB d a o => 0x38000000 + d.toNat * 1048576 + a.toNat * 32768 + o.toNat * 1
  | .ldH d a o => 0x38001000 + d.toNat * 1048576 + a.toNat * 32768 + o.toNat * 1
  | .ldW d a o => 0x38002000 + d.toNat * 1048576 + a.toNat * 32768 + o.toNat * 1
  | .ldD d a o => 0x38003000 + d.toNat * 1048576 + a.toNat * 32768 + o.toNat * 1
  | .ldBu d a o => 0x38004000 + d.toNat * 1048576 + a.toNat * 32768 + o.toNat * 1
  | .ldHu d a o => 0x38005000 + d.toNat * 1048576 + a.toNat * 32768 + o.toNat * 1
  | .ldWu d a o => 0x38006000 + d.toNat * 1048576 + a.toNat * 32768 + o.toNat * 1
  | .stB d a o => 0x3A000000 + d.toNat * 1048576 + a.toNat * 32768 + o.toNat * 1
  | .stH d a o => 0x3A001000 + d.toNat * 1048576 + a.toNat * 32768 + o.toNat * 1
  | .stW d a o => 0x3A002000 + d.toNat * 1048576 + a.toNat * 32768 + o.toNat * 1
  | .stD d a o => 0x3A003000 + d.toNat * 1048576 + a.toNat * 32768 + o.toNat * 1
  | .prefR a o => 0x3C000000 + a.toNat * 32768 + o.toNat * 1
  | .prefW a o => 0x3C100000 + a.toNat * 32768 + o.toNat * 1
  | .prefS a o => 0x3C200000 + a.toNat * 32768 + o.toNat * 1
  | .amoAdd d a b o s => 0x3E000000 + d.toNat * 1048576 + a.toNat * 32768 + b.toNat * 1024 + o.code * 256 + s.code * 64
  | .amoAnd d a b o s => 0x3E000001 + d.toNat * 1048576 + a.toNat * 32768 + b.toNat * 1024 + o.code * 256 + s.code * 64
  | .amoOr d a b o s => 0x3E000002 + d.toNat * 1048576 + a.toNat * 32768 + b.toNat * 1024 + o.code * 256 + s.code * 64
  | .amoXor d a b o s => 0x3E000003 + d.toNat * 1048576 + a.toNat * 32768 + b.toNat * 1024 + o.code * 256 + s.code * 64
  | .amoMin d a b o s => 0x3E000004 + d.toNat * 1048576 + a.toNat * 32768 + b.toNat * 1024 + o.code * 256 + s.code * 64
  | .amoMax d a b o s => 0x3E000005 + d.toNat * 1048576 + a.toNat * 32768 + b.toNat * 1024 + o.code * 256 + s.code * 64
  | .amoMinu d a b o s => 0x3E000006 + d.toNat * 1048576 + a.toNat * 32768 + b.toNat * 1024 + o.code * 256 + s.code * 64
  | .amoMaxu d a b o s => 0x3E000007 + d.toNat * 1048576 + a.toNat * 32768 + b.toNat * 1024 + o.code * 256 + s.code * 64
  | .amoSwap d a b o z => 0x3E000008 + d.toNat * 1048576 + a.toNat * 32768 + b.toNat * 1024 + o.code * 256 + z.code * 64
  | .amoCas d a b o z => 0x3E000009 + d.toNat * 1048576 + a.toNat * 32768 + b.toNat * 1024 + o.code * 256 + z.code * 64
  | .amoFadd d a b o z => 0x3E00008A + d.toNat * 1048576 + a.toNat * 32768 + b.toNat * 1024 + o.code * 256 + z.code * 64
  | .fenceAcq s => 0x40000000 + s.code * 16
  | .fenceRel s => 0x40000080 + s.code * 16
  | .fenceAr s => 0x40000100 + s.code * 16
  | .fenceSc s => 0x40000180 + s.code * 16
  | .vdrain s => 0x40000001 + s.code * 16
  | .mmon a => 0x40000002 + a.toNat * 32768
  | .mwait d a => 0x40000003 + d.toNat * 1048576 + a.toNat * 32768
  | .bar l => 0x40000004 + l.code * 16
  | .setvl d a => 0x42000000 + d.toNat * 1048576 + a.toNat * 32768
  | .setvli d i => 0x42004000 + d.toNat * 1048576 + i.toNat * 1
  | .microOpIssue _ => 0
  | .vadd d a b => 0x44000000 + d.toNat * 1048576 + a.toNat * 32768 + b.reg.toNat * 1024 + b.flag.toNat * 512
  | .vsub d a b => 0x44000001 + d.toNat * 1048576 + a.toNat * 32768 + b.reg.toNat * 1024 + b.flag.toNat * 512
  | .vmul d a b => 0x44000002 + d.toNat * 1048576 + a.toNat * 32768 + b.reg.toNat * 1024 + b.flag.toNat * 512
  | .vmulh d a b => 0x44000003 + d.toNat * 1048576 + a.toNat * 32768 + b.reg.toNat * 1024 + b.flag.toNat * 512
  | .vdiv d a b => 0x44000004 + d.toNat * 1048576 + a.toNat * 32768 + b.reg.toNat * 1024 + b.flag.toNat * 512
  | .vmin d a b => 0x44000005 + d.toNat * 1048576 + a.toNat * 32768 + b.reg.toNat * 1024 + b.flag.toNat * 512
  | .vmax d a b => 0x44000006 + d.toNat * 1048576 + a.toNat * 32768 + b.reg.toNat * 1024 + b.flag.toNat * 512
  | .vabs d a => 0x44000007 + d.toNat * 1048576 + a.toNat * 32768
  | .vneg d a => 0x44000008 + d.toNat * 1048576 + a.toNat * 32768
  | .vand d a b => 0x44000009 + d.toNat * 1048576 + a.toNat * 32768 + b.reg.toNat * 1024 + b.flag.toNat * 512
  | .vor d a b => 0x4400000A + d.toNat * 1048576 + a.toNat * 32768 + b.reg.toNat * 1024 + b.flag.toNat * 512
  | .vxor d a b => 0x4400000B + d.toNat * 1048576 + a.toNat * 32768 + b.reg.toNat * 1024 + b.flag.toNat * 512
  | .vnot d a => 0x4400000C + d.toNat * 1048576 + a.toNat * 32768
  | .vsll d a b => 0x4400000D + d.toNat * 1048576 + a.toNat * 32768 + b.reg.toNat * 1024 + b.flag.toNat * 512
  | .vsrl d a b => 0x4400000E + d.toNat * 1048576 + a.toNat * 32768 + b.reg.toNat * 1024 + b.flag.toNat * 512
  | .vsra d a b => 0x4400000F + d.toNat * 1048576 + a.toNat * 32768 + b.reg.toNat * 1024 + b.flag.toNat * 512
  | .vdot4 d a b => 0x44000010 + d.toNat * 1048576 + a.toNat * 32768 + b.reg.toNat * 1024 + b.flag.toNat * 512
  | .vaddw d a b => 0x44000011 + d.toNat * 1048576 + a.toNat * 32768 + b.reg.toNat * 1024 + b.flag.toNat * 512
  | .vclass d a => 0x44000012 + d.toNat * 1048576 + a.toNat * 32768
  | .vsgnj d a b => 0x44000013 + d.toNat * 1048576 + a.toNat * 32768 + b.reg.toNat * 1024 + b.flag.toNat * 512
  | .vsgnjN d a b => 0x44000033 + d.toNat * 1048576 + a.toNat * 32768 + b.reg.toNat * 1024 + b.flag.toNat * 512
  | .vsgnjX d a b => 0x44000053 + d.toNat * 1048576 + a.toNat * 32768 + b.reg.toNat * 1024 + b.flag.toNat * 512
  | .vfma d a b c => 0x46000000 + d.toNat * 1048576 + a.toNat * 32768 + b.toNat * 1024 + c.toNat * 32
  | .vfms d a b c => 0x46000001 + d.toNat * 1048576 + a.toNat * 32768 + b.toNat * 1024 + c.toNat * 32
  | .vfnma d a b c => 0x46000002 + d.toNat * 1048576 + a.toNat * 32768 + b.toNat * 1024 + c.toNat * 32
  | .vfnms d a b c => 0x46000003 + d.toNat * 1048576 + a.toNat * 32768 + b.toNat * 1024 + c.toNat * 32
  | .vcmpEq d a b => 0x48000000 + d.toNat * 1048576 + a.toNat * 32768 + b.reg.toNat * 1024 + b.flag.toNat * 512
  | .vcmpNe d a b => 0x48000001 + d.toNat * 1048576 + a.toNat * 32768 + b.reg.toNat * 1024 + b.flag.toNat * 512
  | .vcmpLt d a b => 0x48000002 + d.toNat * 1048576 + a.toNat * 32768 + b.reg.toNat * 1024 + b.flag.toNat * 512
  | .vcmpLe d a b => 0x48000003 + d.toNat * 1048576 + a.toNat * 32768 + b.reg.toNat * 1024 + b.flag.toNat * 512
  | .vcmpGt d a b => 0x48000004 + d.toNat * 1048576 + a.toNat * 32768 + b.reg.toNat * 1024 + b.flag.toNat * 512
  | .vcmpGe d a b => 0x48000005 + d.toNat * 1048576 + a.toNat * 32768 + b.reg.toNat * 1024 + b.flag.toNat * 512
  | .vcmpUn d a b => 0x48000006 + d.toNat * 1048576 + a.toNat * 32768 + b.reg.toNat * 1024 + b.flag.toNat * 512
  | .vcmpOrd d a b => 0x48000007 + d.toNat * 1048576 + a.toNat * 32768 + b.reg.toNat * 1024 + b.flag.toNat * 512
  | .vsel d a b c => 0x4A000000 + d.toNat * 1048576 + a.toNat * 32768 + b.toNat * 1024 + c.toNat * 32
  | .vexp d a => 0x4C000000 + d.toNat * 1048576 + a.toNat * 32768
  | .vexp2 d a => 0x4C000001 + d.toNat * 1048576 + a.toNat * 32768
  | .vlog d a => 0x4C000002 + d.toNat * 1048576 + a.toNat * 32768
  | .vlog2 d a => 0x4C000003 + d.toNat * 1048576 + a.toNat * 32768
  | .vsin d a => 0x4C000004 + d.toNat * 1048576 + a.toNat * 32768
  | .vcos d a => 0x4C000005 + d.toNat * 1048576 + a.toNat * 32768
  | .vtanh d a => 0x4C000006 + d.toNat * 1048576 + a.toNat * 32768
  | .vsigm d a => 0x4C000007 + d.toNat * 1048576 + a.toNat * 32768
  | .vrcp d a => 0x4C000008 + d.toNat * 1048576 + a.toNat * 32768
  | .vsqrt d a => 0x4C000009 + d.toNat * 1048576 + a.toNat * 32768
  | .vrsqrt d a => 0x4C00000A + d.toNat * 1048576 + a.toNat * 32768
  | .verf d a => 0x4C00000B + d.toNat * 1048576 + a.toNat * 32768
  | .vapply d a b => 0x4C00000C + d.toNat * 1048576 + a.toNat * 32768 + b.toNat * 1024
  | .vcvt d a => 0x4E000000 + d.toNat * 1048576 + a.toNat * 32768
  | .vquant d a => 0x4E000001 + d.toNat * 1048576 + a.toNat * 32768
  | .vhad d a k => 0x4E000002 + d.toNat * 1048576 + a.toNat * 32768 + k.toNat * 32
  | .vsclget d a => 0x4E000003 + d.toNat * 1048576 + a.toNat * 32768
  | .vsclset d a => 0x4E000004 + d.toNat * 1048576 + a.toNat * 32768
  | .vperm d a b => 0x50000000 + d.toNat * 1048576 + a.toNat * 32768 + b.toNat * 1024
  | .vslideup d a b => 0x50000001 + d.toNat * 1048576 + a.toNat * 32768 + b.toNat * 1024
  | .vslidedn d a b => 0x50000002 + d.toNat * 1048576 + a.toNat * 32768 + b.toNat * 1024
  | .vcompress d a b => 0x50000003 + d.toNat * 1048576 + a.toNat * 32768 + b.toNat * 1024
  | .vexpand d a b => 0x50000004 + d.toNat * 1048576 + a.toNat * 32768 + b.toNat * 1024
  | .vzip d a b => 0x50000005 + d.toNat * 1048576 + a.toNat * 32768 + b.toNat * 1024
  | .vunzip d a b => 0x50000006 + d.toNat * 1048576 + a.toNat * 32768 + b.toNat * 1024
  | .vbcast d a => 0x50000007 + d.toNat * 1048576 + a.toNat * 32768
  | .vid d => 0x50000008 + d.toNat * 1048576
  | .vext d a b => 0x50000009 + d.toNat * 1048576 + a.toNat * 32768 + b.toNat * 1024
  | .vins d a b => 0x5000000A + d.toNat * 1048576 + a.toNat * 32768 + b.toNat * 1024
  | .vmv d a => 0x5000000B + d.toNat * 1048576 + a.toNat * 32768
  | .vredSum d a => 0x52000000 + d.toNat * 1048576 + a.toNat * 32768
  | .vredMin d a => 0x52000010 + d.toNat * 1048576 + a.toNat * 32768
  | .vredMax d a => 0x52000020 + d.toNat * 1048576 + a.toNat * 32768
  | .vredAnd d a => 0x52000030 + d.toNat * 1048576 + a.toNat * 32768
  | .vredOr d a => 0x52000040 + d.toNat * 1048576 + a.toNat * 32768
  | .vredXor d a => 0x52000050 + d.toNat * 1048576 + a.toNat * 32768
  | .vscanSum d a => 0x52000001 + d.toNat * 1048576 + a.toNat * 32768
  | .vscanMin d a => 0x52000011 + d.toNat * 1048576 + a.toNat * 32768
  | .vscanMax d a => 0x52000021 + d.toNat * 1048576 + a.toNat * 32768
  | .vscanAnd d a => 0x52000031 + d.toNat * 1048576 + a.toNat * 32768
  | .vscanOr d a => 0x52000041 + d.toNat * 1048576 + a.toNat * 32768
  | .vscanXor d a => 0x52000051 + d.toNat * 1048576 + a.toNat * 32768
  | .mand d a b => 0x54000000 + d.toNat * 1048576 + a.toNat * 32768 + b.toNat * 1024
  | .mor d a b => 0x54000001 + d.toNat * 1048576 + a.toNat * 32768 + b.toNat * 1024
  | .mxor d a b => 0x54000002 + d.toNat * 1048576 + a.toNat * 32768 + b.toNat * 1024
  | .mnot d a => 0x54000003 + d.toNat * 1048576 + a.toNat * 32768
  | .mpop d a => 0x54000004 + d.toNat * 1048576 + a.toNat * 32768
  | .mfirst d a => 0x54000005 + d.toNat * 1048576 + a.toNat * 32768
  | .mset d a => 0x54000006 + d.toNat * 1048576 + a.toNat * 32768
  | .mmv d a => 0x54000007 + d.toNat * 1048576 + a.toNat * 32768
  | .settle a => 0x56000000 + a.toNat * 32768
  | .settleNf a => 0x56000200 + a.toNat * 32768
  | .settleAll => 0x56000004
  | .settleNfAll => 0x56000204
  | .settleComplete _ => 0
  | .vpres d a => 0x56000001 + d.toNat * 1048576 + a.toNat * 32768
  | .vfill a => 0x56000002 + a.toNat * 32768
  | .thawTake _ _ => 0
  | .thawTimeout _ _ => 0
  | .vld d a w => 0x58000000 + d.toNat * 1048576 + a.toNat * 32768 + w.toNat * 512
  | .vlds d a b w => 0x58000001 + d.toNat * 1048576 + a.toNat * 32768 + b.toNat * 1024 + w.toNat * 512
  | .vwait d => 0x58000002 + d.toNat * 1048576
  | .vst d a u => 0x5A000000 + d.toNat * 1048576 + a.toNat * 32768 + u.toNat * 256
  | .vsts d a b u => 0x5A000001 + d.toNat * 1048576 + a.toNat * 32768 + b.toNat * 1024 + u.toNat * 256
  | .vgat d a b s => 0x5C000000 + d.toNat * 1048576 + a.toNat * 32768 + b.toNat * 1024 + s.toNat * 512
  | .vsct d a b u => 0x5C000001 + d.toNat * 1048576 + a.toNat * 32768 + b.toNat * 1024 + u.toNat * 256
  | .vscadd d a b u => 0x5C000002 + d.toNat * 1048576 + a.toNat * 32768 + b.toNat * 1024 + u.toNat * 256
  | .vfas d a b => 0x5C000003 + d.toNat * 1048576 + a.toNat * 32768 + b.toNat * 1024
  | .vprobe d a b s => 0x5C000004 + d.toNat * 1048576 + a.toNat * 32768 + b.toNat * 1024 + s.toNat * 512
  | .vldSc d a => 0x5E000000 + d.toNat * 1048576 + a.toNat * 32768
  | .vstSc d a => 0x5E000001 + d.toNat * 1048576 + a.toNat * 32768
  | .mma d a b z g => 0x60000000 + d.toNat * 1048576 + a.toNat * 32768 + b.toNat * 2048 + z.toNat * 32 + g.toNat * 8
  | .mmas d a b z => 0x60000001 + d.toNat * 1048576 + a.toNat * 65536 + b.toNat * 2048 + z.toNat * 32
  | .mmasp d a b z g => 0x60000002 + d.toNat * 1048576 + a.toNat * 32768 + b.toNat * 2048 + z.toNat * 32 + g.toNat * 8
  | .maccZ d => 0x62000000 + d.toNat * 1048576
  | .maccRd d a b => 0x62000001 + d.toNat * 1048576 + a.toNat * 32768 + b.toNat * 1024
  | .maccWr d a b => 0x62000002 + d.toNat * 1048576 + a.toNat * 32768 + b.toNat * 1024
  | .maccSt d a b => 0x62000003 + d.toNat * 1048576 + a.toNat * 32768 + b.toNat * 1024
  | .maccStX d a b => 0x6200000B + d.toNat * 1048576 + a.toNat * 32768 + b.toNat * 1024
  | .mtd d a b => 0x62000004 + d.toNat * 2097152 + a.toNat * 32768 + b.toNat * 1024
  | .svld d a => 0x64000000 + d.toNat * 1048576 + a.toNat * 32768
  | .svst d a => 0x64000001 + d.toNat * 1048576 + a.toNat * 32768
  | .svadd d a b => 0x64000002 + d.toNat * 1048576 + a.toNat * 32768 + b.toNat * 1024
  | .svmul d a b => 0x64000003 + d.toNat * 1048576 + a.toNat * 32768 + b.toNat * 1024
  | .svscale d a b => 0x64000004 + d.toNat * 1048576 + a.toNat * 32768 + b.toNat * 1024
  | .svcomp d a => 0x64000005 + d.toNat * 1048576 + a.toNat * 32768
  | .svexp d a => 0x64000006 + d.toNat * 1048576 + a.toNat * 32768
  | .svlen d a => 0x64000007 + d.toNat * 1048576 + a.toNat * 32768
  | .mgopen d a => 0x66000000 + d.toNat * 1048576 + a.toNat * 32768
  | .mgopenCont d a => 0x66000008 + d.toNat * 1048576 + a.toNat * 32768
  | .mgopenGrant _ => 0
  | .mgpush d a b s => 0x66000001 + d.toNat * 1048576 + a.toNat * 32768 + b.toNat * 1024 + s.toNat * 16
  | .mgflush d => 0x66000002 + d.toNat * 1048576
  | .mgpull d a => 0x66000003 + d.toNat * 1048576 + a.toNat * 32768
  | .mgpullSv d a => 0x6600000B + d.toNat * 1048576 + a.toNat * 32768
  | .mgclose => 0x66000004
  | .mgstatRuns d => 0x66000005 + d.toNat * 1048576
  | .mgstatEntries d => 0x66000105 + d.toNat * 1048576
  | .mgstatStatus d => 0x66000205 + d.toNat * 1048576
  | .mergeBufferError _ => 0
  | .cpdim d a b l => 0x68000000 + d.toNat * 1048576 + a.toNat * 32768 + b.toNat * 1024 + l.code * 16
  | .cpgo d a => 0x68000001 + d.toNat * 1048576 + a.toNat * 32768
  | .cpgat d a => 0x68000002 + d.toNat * 1048576 + a.toNat * 32768
  | .cpmc d a b => 0x68000003 + d.toNat * 1048576 + a.toNat * 32768 + b.toNat * 1024
  | .permit a b => 0x68000004 + a.toNat * 32768 + b.toNat * 1024
  | .cpstat d a => 0x68000005 + d.toNat * 1048576 + a.toNat * 32768
  | .copyQueueAdmit _ => 0
  | .copyStart _ => 0
  | .slotPermitTake _ => 0
  | .transfer _ _ => 0
  | .gatherRow _ _ => 0
  | .copyStamp _ => 0
  | .copyFail _ _ _ => 0
  | .launch d a => 0x6A000000 + d.toNat * 1048576 + a.toNat * 32768
  | .launchAdmit _ => 0
  | .pinPassResume _ _ => 0
  | .gsub d a => 0x6A000001 + d.toNat * 1048576 + a.toNat * 32768
  | .gsubAdmit _ => 0
  | .spawn a b => 0x6A000002 + a.toNat * 32768 + b.toNat * 1024
  | .join d a => 0x6A000003 + d.toNat * 1048576 + a.toNat * 32768
  | .joinWake _ => 0
  | .yield => 0x6A000004
  | .park d a b => 0x6A000005 + d.toNat * 1048576 + a.toNat * 32768 + b.toNat * 1024
  | .tend => 0x6A000006
  | .tendComplete _ => 0
  | .prio a => 0x6A000007 + a.toNat * 32768
  | .wid d l => 0x6A000008 + d.toNat * 1048576 + l.code * 16
  | .taskEnumerate _ _ => 0
  | .gangAdmit _ _ _ => 0
  | .taskDispatch _ => 0
  | .preempt _ => 0
  | .steal _ _ => 0
  | .parkWake _ => 0
  | .launchComplete _ _ => 0
  | .nodeFinish _ _ _ => 0
  | .nodeFail _ _ _ => 0
  | .vaneArm d a b => 0x6C000000 + d.toNat * 1048576 + a.toNat * 32768 + b.toNat * 1024
  | .vaneArmCommit _ => 0
  | .vret => 0x6C000001
  | .lull => 0x6C000002
  | .lullN a => 0x6C00000A + a.toNat * 32768
  | .vaneRd d a => 0x6C000003 + d.toNat * 1048576 + a.toNat * 32768
  | .vaneDrop a b => 0x6C000004 + a.toNat * 32768 + b.toNat * 1024
  | .flipMessage _ => 0
  | .idlePass _ => 0
  | .edgeStoreError _ _ _ _ => 0
  | .rfence => 0x6E000000
  | .rwin d a => 0x6E000001 + d.toNat * 1048576 + a.toNat * 32768
  | .rwinCloseComplete _ => 0
  | .illegalInstruction _ => 0
  | .queueDeadlock _ => 0
  | .interrupt _ => 0
  | .wfiWake _ => 0
  | .haltWake => 0
  | .read _ _ _ => 0
  | .push _ => 0
  | .enterScalar _ => 0
  | .supply _ _ _ => 0
  | .enterTrain _ _ _ => 0
  | .widen _ => 0
  | .atomic _ _ _ => 0
  | .land _ _ _ => 0
  | .complete _ => 0
  | .scAccess _ => 0
  | .monitorRead _ => 0
  | .barArrive _ => 0
  | .chunkDone _ _ => 0
  | .remoteEnter _ _ _ _ _ => 0
  | .ack _ _ _ => 0
  | .dataMessage _ => 0
  | .tailMessage _ => 0
  | .ackMessage _ => 0
  | .nackMessage _ => 0
  | .atomicRequest _ => 0
  | .atomicResponse _ => 0
  | .stampMessage _ => 0
  | .restartMessage _ => 0
  | .resendTimeout _ _ _ => 0
  | .streamTimeout _ _ _ => 0
  | .vdmapWrite _ _ => 0
  | .domainSwitch _ => 0
  | .clockChange _ => 0
  | .tctlWrite _ _ => 0
  | .tctlApply _ => 0
  | .slewStep _ => 0
  | .budgetInterval _ => 0
  | .pmeasWindow _ _ => 0
  | .pbudWrite _ _ => 0
  | .overcurrentTrip _ => 0
  | .overcurrentClear _ => 0
  | .sensorSample _ _ => 0
  | .wdogWrite => 0
  | .watchdogWarning => 0
  | .watchdogExpire => 0
  | .mtickTick => 0
  | .pctlWrite _ => 0
  | .mInterrupt => 0
  | .pswWrite _ => 0
  | .pswaWrite _ _ => 0
  | .energyWindow _ _ => 0
  | .hsemRead _ => 0
  | .hsemRelease _ => 0
  | .hsemLapse => 0
  | .hostCsrAccess _ _ _ _ => 0
  | .tenantCreate _ _ => 0
  | .tenantReset _ => 0
  | .memoryWindowWrite _ _ _ _ => 0
  | .hinvWrite _ => 0
  | .hinvDone => 0
  | .rtbaseWrite _ => 0
  | .migRetry _ => 0
  | .cxlMemAccess _ _ _ _ => 0
  | .spdmGetVersion _ => 0
  | .spdmGetCapabilities _ => 0
  | .spdmNegotiateAlgorithms _ => 0
  | .spdmGetDigests _ => 0
  | .spdmGetCertificate _ _ _ _ => 0
  | .spdmChallenge _ _ _ => 0
  | .spdmGetMeasurements _ _ => 0
  | .spdmUnsupportedRequest _ _ => 0
  | .uncorrectableError _ => 0
  | .internalStateError _ => 0
  | .clusterReset _ => 0
  | .clusterResetComplete _ => 0
  | .warmReset => 0
  | .coldReset => 0
  | .stateDump _ => 0
  | .stateDumpComplete => 0
  | .tenantResetComplete _ => 0
  | .msixTableWrite _ _ _ _ _ => 0

/-- The word of an instruction. -/
def encode (i : Instr) : IWord := BitVec.ofNat 32 (encodeNat i)

/-- The four bytes of a word as memory holds them, the least significant first (R6). -/
def wordBytes (w : IWord) : List Byte :=
  [BitVec.ofNat 8 w.toNat, BitVec.ofNat 8 (w.toNat / 2 ^ 8), BitVec.ofNat 8 (w.toNat / 2 ^ 16),
    BitVec.ofNat 8 (w.toNat / 2 ^ 24)]

/-- The word that four bytes hold, the first at the lowest address (R6). -/
def bytesWord (bs : List Byte) : IWord :=
  BitVec.ofNat 32 (bs.foldr (fun b n => b.toNat + 256 * n) 0)

/-- The decoder on the bytes of memory: one word and the rest, or nothing when fewer than four bytes are left. -/
noncomputable def decodeBytes : List Byte → Option (Except DecodeError Instr × List Byte)
  | b0 :: b1 :: b2 :: b3 :: rest => some (decode (bytesWord [b0, b1, b2, b3]), rest)
  | _ => none

/-- The instruction read from a word whose low `nbits` bits are given and whose other bits are 0 (the host's question). -/
noncomputable def decodeTableWord (nbits w : Nat) : Option Instr :=
  match decodeBytes (wordBytes (BitVec.ofNat 32 (w % 2 ^ nbits))) with
  | some (.ok i, _) => some i
  | _ => none

end Sys2Proof
end

