-- ==== Sys2Proof/Machine/Fmt.lean ====
section
/-! DEFINITION. The number formats of spec/04_formats.md: exact values, rounding, conversion and the arithmetic of one
element. Everything is exact integer arithmetic; a value is rounded once, at the end (R90, R93). -/

namespace Sys2Proof.Machine

/-! ## Flags (Table 4.6) -/

abbrev Flags := BitVec 6

namespace Flags
def none : Flags := 0
def nx : Flags := 0x01
def uf : Flags := 0x02
def ofl : Flags := 0x04
def dz : Flags := 0x08
def nv : Flags := 0x10
def sa : Flags := 0x20
end Flags

/-- A result with the flags it raises. -/
abbrev FRes := Nat × Flags

/-! ## Exact values -/

/-- The exact value of an element: a NaN (signalling or not), an infinity, or (−1)^neg × m × 2^e (R79). -/
inductive Val where
  | nan (sig : Bool)
  | inf (neg : Bool)
  | fin (neg : Bool) (m : Nat) (e : Int)
  deriving DecidableEq, Repr

namespace Val
def isNan : Val → Bool | nan _ => true | _ => false
def isSig : Val → Bool | nan s => s | _ => false
def isInf : Val → Bool | inf _ => true | _ => false
def isZero : Val → Bool | fin _ 0 _ => true | _ => false
def negB : Val → Bool | nan _ => false | inf s => s | fin s _ _ => s
/-- The value with its sign inverted. -/
def neg : Val → Val | nan s => nan s | inf s => inf (!s) | fin s m e => fin (!s) m e
/-- The magnitude. -/
def abs : Val → Val | nan s => nan s | inf _ => inf false | fin _ m e => fin false m e
def zero : Val := fin false 0 0
/-- The exact value of an integer. -/
def ofInt (i : Int) : Val := fin (decide (i < 0)) i.natAbs 0
end Val

/-! ## Format codes (Table 4.1) -/

/-- The element width in bits of a format code (Table 4.1). -/
def fmtWidth (f : Nat) : Nat :=
  match f with
  | 0x00 => 32 | 0x01 => 32 | 0x02 => 16 | 0x03 => 16 | 0x04 => 8 | 0x05 => 8 | 0x06 => 8 | 0x07 => 8 | 0x08 => 4
  | 0x09 => 8 | 0x0A => 8 | 0x0B => 8 | 0x0C => 8 | 0x0D => 4 | 0x0E => 8 | 0x0F => 4
  | 0x10 => 16 | 0x11 => 16 | 0x12 => 8 | 0x13 => 8 | 0x14 => 4 | 0x15 => 4 | 0x16 => 4 | 0x17 => 2 | 0x18 => 1
  | 0x19 => 8 | 0x1A => 8 | 0x1B => 4 | 0x1C => 8 | 0x1D => 32 | 0x1E => 64 | 0x1F => 2
  | 0x20 => 32 | 0x21 => 32 | 0x22 => 64 | 0x23 => 64 | 0x24 => 64 | 0x25 => 32
  | _ => 32

/-- VLMAX of an element width (Table 1.7, R78). -/
def vlmax (w : Nat) : Nat := 8192 / w

/-- Elements per element group (Table 1.7, R78). -/
def epg (w : Nat) : Nat := 1024 / w

/-- A floating-point layout (Table 4.2): mantissa and exponent widths, the lowest bit of the fields, whether an all-ones
exponent field holds infinities and NaNs, whether the all-ones code alone is a NaN (E4M3), the bias, and the bits of the
largest finite magnitude. -/
structure FF where
  mb     : Nat
  eb     : Nat
  shift  : Nat
  ieee   : Bool
  topNan : Bool
  bias   : Nat
  maxB   : Nat
  deriving DecidableEq, Repr

/-- Table 4.2. -/
def floatFmt (f : Nat) : Option FF :=
  match f with
  | 0x00 => some ⟨23, 8, 0, true, false, 127, 0x7F7FFFFF⟩
  | 0x01 => some ⟨10, 8, 13, true, false, 127, 0x3FBFF⟩
  | 0x02 => some ⟨7, 8, 0, true, false, 127, 0x7F7F⟩
  | 0x03 => some ⟨10, 5, 0, true, false, 15, 0x7BFF⟩
  | 0x04 => some ⟨2, 5, 0, true, false, 15, 0x7B⟩
  | 0x05 => some ⟨3, 4, 0, false, true, 7, 0x7E⟩
  | 0x06 => some ⟨2, 3, 0, false, false, 3, 0x1F⟩
  | 0x07 => some ⟨3, 2, 0, false, false, 1, 0x1F⟩
  | 0x08 => some ⟨1, 2, 0, false, false, 1, 0x7⟩
  | 0x24 => some ⟨52, 11, 0, true, false, 1023, 0x7FEFFFFFFFFFFFFF⟩
  | _ => none

/-- FP32's layout; where a rule needs FP32 by name. -/
def ffFP32 : FF := ⟨23, 8, 0, true, false, 127, 0x7F7FFFFF⟩
def ffBF16 : FF := ⟨7, 8, 0, true, false, 127, 0x7F7F⟩
def ffE4M3 : FF := ⟨3, 4, 0, false, true, 7, 0x7E⟩
def ffE2M1 : FF := ⟨1, 2, 0, false, false, 1, 0x7⟩

/-- The float layout of a scalar type (R116). -/
def fmtOf : FTy → Nat | .f32 => 0x00 | .f64 => 0x24 | .f16 => 0x03 | .bf16 => 0x02

/-- emin = 1 − bias (R90). -/
def FF.emin (F : FF) : Int := 1 - (F.bias : Int)

/-- The formats whose subnormals FZ flushes (R92). -/
def fzFormat (f : Nat) : Bool := f == 0x00 || f == 0x01 || f == 0x02 || f == 0x03 || f == 0x24

/-- An integer format (Table 4.4): width and signedness. -/
def intFmt (f : Nat) : Option (Nat × Bool) :=
  match f with
  | 0x10 => some (16, true) | 0x11 => some (16, false) | 0x12 => some (8, true) | 0x13 => some (8, false)
  | 0x14 => some (4, true) | 0x15 => some (4, false) | 0x1F => some (2, true)
  | 0x20 => some (32, true) | 0x21 => some (32, false) | 0x22 => some (64, true) | 0x23 => some (64, false)
  | _ => none

/-- The float formats FA of chapter 06. -/
def isFA (f : Nat) : Bool := f == 0x00 || f == 0x01 || f == 0x02 || f == 0x03 || f == 0x24

/-- The integer formats IA of chapter 06. -/
def isIA (f : Nat) : Bool := (0x10 ≤ f && f ≤ 0x15) || (0x20 ≤ f && f ≤ 0x23)

/-- A *scaled* format of chapter 06. -/
def isScaled (f : Nat) : Bool := (0x09 ≤ f && f ≤ 0x0F) || f == 0x16 || (0x19 ≤ f && f ≤ 0x1C)

/-- Formats with one UE8M0 scale per 32 elements (R82, R84). -/
def isBlock32 (f : Nat) : Bool := (0x09 ≤ f && f ≤ 0x0F) || f == 0x16

/-- The element format of a scaled format (Tables 4.1, 4.3, 4.5). -/
def elemFmt (f : Nat) : Nat :=
  match f with
  | 0x09 => 0x04 | 0x0A => 0x05 | 0x0B => 0x06 | 0x0C => 0x07 | 0x0D => 0x08 | 0x0E => 0x12 | 0x0F => 0x08 | 0x16 => 0x14
  | 0x19 => 0x05 | 0x1A => 0x12 | 0x1B => 0x14 | 0x1C => 0x05 | f => f

/-! ## Decoding (R79 to R88) -/

/-- A value under a float layout (R79). -/
def decodeF (F : FF) (x : Nat) : Val :=
  let y := x / 2 ^ F.shift
  let m := y % 2 ^ F.mb
  let e := y / 2 ^ F.mb % 2 ^ F.eb
  let s := decide (y / 2 ^ (F.mb + F.eb) % 2 = 1)
  let top := 2 ^ F.eb - 1
  if F.ieee && e == top then
    if m == 0 then .inf s else .nan (decide (m < 2 ^ (F.mb - 1)))
  else if F.topNan && e == top && m == 2 ^ F.mb - 1 then .nan false
  else if e == 0 then .fin s m (F.emin - F.mb)
  else .fin s (2 ^ F.mb + m) ((e : Int) - F.bias - F.mb)

/-- Whether the bits hold a subnormal (R79). -/
def isSubF (F : FF) (x : Nat) : Bool :=
  let y := x / 2 ^ F.shift
  y / 2 ^ F.mb % 2 ^ F.eb == 0 && y % 2 ^ F.mb != 0

/-- Two's complement or unsigned reading of the low w bits (R86). -/
def intVal (w : Nat) (signed : Bool) (x : Nat) : Int :=
  let y := x % 2 ^ w
  if signed && decide (2 ^ (w - 1) ≤ y) then (y : Int) - 2 ^ w else y

/-- The least and greatest value of an integer format (Table 4.4). -/
def intRange (w : Nat) (signed : Bool) : Int × Int :=
  if signed then (-(2 ^ (w - 1)), 2 ^ (w - 1) - 1) else (0, 2 ^ w - 1)

/-- The low w bits of an integer. -/
def intBits (w : Nat) (i : Int) : Nat := (i % 2 ^ w).toNat

/-- The sum of two exact values that are no NaN and no two infinities of unlike sign; the sign of a zero sum is the
caller's. -/
def addFin (s1 : Bool) (m1 : Nat) (e1 : Int) (s2 : Bool) (m2 : Nat) (e2 : Int) : Int × Int :=
  let e := if e1 ≤ e2 then e1 else e2
  let a : Int := (m1 * 2 ^ (e1 - e).toNat : Nat)
  let b : Int := (m2 * 2 ^ (e2 - e).toNat : Nat)
  ((if s1 then -a else a) + (if s2 then -b else b), e)

/-- The exact sum; `none` for ∞ − ∞. A zero sum takes the sign that `rdn` gives it: −0 in RDN, else +0, unless both
operands are zeros of one sign (R117). -/
def Val.add (x y : Val) (rdn : Bool) : Option Val :=
  match x, y with
  | .nan s, .nan t => some (.nan (s || t))
  | .nan s, _ => some (.nan s)
  | _, .nan s => some (.nan s)
  | .inf s, .inf t => if s == t then some (.inf s) else none
  | .inf s, _ => some (.inf s)
  | _, .inf s => some (.inf s)
  | .fin s1 m1 e1, .fin s2 m2 e2 =>
    if m1 == 0 && m2 == 0 then some (.fin (if s1 == s2 then s1 else rdn) 0 0)
    else
      let r := addFin s1 m1 e1 s2 m2 e2
      if r.1 == 0 then some (.fin rdn 0 0) else some (.fin (decide (r.1 < 0)) r.1.natAbs r.2)

/-- The exact product; `none` for 0 × ∞. -/
def Val.mul (x y : Val) : Option Val :=
  match x, y with
  | .nan s, .nan t => some (.nan (s || t))
  | .nan s, _ => some (.nan s)
  | _, .nan s => some (.nan s)
  | .inf s, .inf t => some (.inf (s != t))
  | .inf s, .fin t m _ => if m == 0 then none else some (.inf (s != t))
  | .fin s m _, .inf t => if m == 0 then none else some (.inf (s != t))
  | .fin s1 m1 e1, .fin s2 m2 e2 => some (.fin (s1 != s2) (m1 * m2) (e1 + e2))

/-- Multiplication by a power of two. -/
def Val.scale (x : Val) (k : Int) : Val :=
  match x with
  | .fin s m e => .fin s m (e + k)
  | v => v

/-- An element of TERN (R86): 0b10 reads as 0, with NV. -/
def ternVal (x : Nat) : Val × Flags :=
  match x % 4 with
  | 1 => (.ofInt 1, 0) | 3 => (.ofInt (-1), 0) | 2 => (.ofInt 0, .nv) | _ => (.ofInt 0, 0)

/-- Scale data of one element: none, a UE8M0 byte, a UE8M0 byte with a QX4 special value, or a float scale with its code. -/
inductive Scl where
  | none
  | ue (b : Nat)
  | qx (b s : Nat)
  | flt (f : Nat) (x : Nat)
  deriving DecidableEq, Repr

/-- The exact value of an element of format f (R79 to R88), with the flag a TERN code 0b10 raises.
DESIGN CHOICE, log entry 52: parts of a split element that cancel give +0, and a row or group scale of 0 against an infinite base, or the
other way round, gives a NaN without NV. -/
def valOf (f : Nat) (x : Nat) (sc : Scl) : Val × Flags :=
  match floatFmt f with
  | some F => (decodeF F x, 0)
  | .none =>
    match intFmt f with
    | some (w, s) => (.ofInt (intVal w s x), 0)
    | .none =>
      if f == 0x17 then ternVal x
      else if f == 0x18 then (.ofInt (if x % 2 == 0 then 1 else -1), 0)
      else if f == 0x1D then
        (((decodeF ffBF16 (x / 2 ^ 16 % 2 ^ 16)).add (decodeF ffBF16 (x % 2 ^ 16)) false).getD (.nan false), 0)
      else if f == 0x1E then
        let hm := ((decodeF ffBF16 (x / 2 ^ 48 % 2 ^ 16)).add (decodeF ffBF16 (x / 2 ^ 32 % 2 ^ 16)) false).getD (.nan false)
        ((hm.add (decodeF ffBF16 (x / 2 ^ 16 % 2 ^ 16)) false).getD (.nan false), 0)
      else
        match sc with
        | .none => (.ofInt 0, 0)
        | .ue b =>
          if b == 0xFF then (.nan false, 0)
          else
            let k : Int := (b : Int) - 127
            if f == 0x0E then ((Val.ofInt (intVal 8 true x)).scale (k - 6), 0)
            else if f == 0x16 then ((Val.ofInt (intVal 4 true x)).scale (k - 2), 0)
            else
              match floatFmt (elemFmt f) with
              | some F => ((decodeF F x).scale k, 0)
              | .none => (.ofInt 0, 0)
        | .qx b s =>
          if b == 0xFF then (.nan false, 0)
          else
            let k : Int := (b : Int) - 127
            if x % 16 == 8 then ((decodeF ffE4M3 s).scale k, 0) else ((decodeF ffE2M1 x).scale k, 0)
        | .flt g y =>
          let base := match floatFmt (elemFmt f) with
            | some F => decodeF F x
            | .none => match intFmt (elemFmt f) with
              | some (w, s) => .ofInt (intVal w s x)
              | .none => .ofInt 0
          let sv := match floatFmt g with
            | some G => decodeF G y
            | .none => .ofInt 0
          ((base.mul sv).getD (.nan false), 0)

/-! ## Rounding (R90, R91) -/

/-- The rounding modes by MR.RM code: 0 RNE, 1 RTZ, 2 RDN, 3 RUP, 4 RNA, 5 ROD (Table 1.9). -/
abbrev RM := Nat

/-- step (R90) on the magnitude n + r/d with 0 ≤ r < d and the sign of the value. -/
def stepMag (rm : RM) (neg : Bool) (n r d : Nat) : Nat :=
  if r == 0 then n
  else
    match rm with
    | 0 => if 2 * r < d then n else if d < 2 * r then n + 1 else if n % 2 == 0 then n else n + 1
    | 1 => n
    | 2 => if neg then n + 1 else n
    | 3 => if neg then n else n + 1
    | 4 => if 2 * r < d then n else n + 1
    | _ => if n % 2 == 0 then n + 1 else n

/-- floor(log2(num/den)) for positive num and den. -/
def flog2 (num den : Nat) : Int :=
  let l : Int := (num.log2 : Int) - den.log2
  -- num/den lies in (2^(l-1), 2^(l+1))
  let ge := if 0 ≤ l then decide (den * 2 ^ l.toNat ≤ num) else decide (den ≤ num * 2 ^ (-l).toNat)
  if ge then l else l - 1

/-- The bits of a signed magnitude in a layout. -/
def packF (F : FF) (neg : Bool) (mag : Nat) : Nat :=
  ((if neg then 2 ^ (F.mb + F.eb) else 0) + mag) * 2 ^ F.shift

/-- The bits of an infinity's magnitude. -/
def FF.infB (F : FF) : Nat := (2 ^ F.eb - 1) * 2 ^ F.mb

/-- The canonical NaN (Table 4.2), sign 0; a layout without NaNs has none, and its callers never ask. -/
def qnanF (F : FF) : Nat :=
  if F.ieee then ((2 ^ F.eb - 1) * 2 ^ F.mb + 2 ^ (F.mb - 1)) * 2 ^ F.shift
  else if F.topNan then 2 ^ (F.mb + F.eb) - 1 else 0

/-- over (R91). -/
def overF (F : FF) (rm : RM) (sat neg : Bool) : Nat :=
  if !F.ieee || sat || rm == 1 || rm == 5 || (rm == 2 && !neg) || (rm == 3 && neg) then packF F neg F.maxB
  else packF F neg F.infB

/-- rnd (R90) of (−1)^neg × num/den × 2^e, num and den positive; with over() on overflow. `fz` flushes results below
2^emin (R92). -/
def rndQ (F : FF) (rm : RM) (sat fz neg : Bool) (num den : Nat) (e : Int) : FRes :=
  let l := flog2 num den + e
  if fz && decide (l < F.emin) then (packF F neg 0, .uf ||| .nx)
  else
    let q := (if l < F.emin then F.emin else l) - F.mb
    let k := e - q
    let n := if 0 ≤ k then num * 2 ^ k.toNat else num
    let d := if 0 ≤ k then den else den * 2 ^ (-k).toNat
    let y := stepMag rm neg (n / d) (n % d) d
    let mag := (q + F.mb + F.bias - 1).toNat * 2 ^ F.mb + y
    let fl : Flags := if n % d == 0 then 0 else if l < F.emin then .nx ||| .uf else .nx
    if F.maxB < mag then (overF F rm sat neg, fl ||| .ofl ||| .nx)
    else (packF F neg mag, fl)

/-- An exact value into a float layout, as an arithmetic result (R81, R90 to R92): a NaN is the canonical NaN. -/
def encArith (F : FF) (rm : RM) (fz : Bool) (x : Val) : FRes :=
  match x with
  | .nan _ => (qnanF F, 0)
  | .inf s => (packF F s F.infB, 0)
  | .fin s 0 _ => (packF F s 0, 0)
  | .fin s m e => rndQ F rm false fz s m 1 e

/-- enc for a float destination, as a conversion (R91): infinities and NaNs where the layout has none, and a signalling NaN,
set NV. -/
def encConvF (F : FF) (rm : RM) (sat fz : Bool) (x : Val) : FRes :=
  match x with
  | .nan sg => if F.ieee || F.topNan then (qnanF F, if sg then .nv else 0) else (0, .nv)
  | .inf s => if F.ieee then (packF F s F.infB, 0) else (packF F s F.maxB, .nv)
  | .fin s 0 _ => (packF F s 0, 0)
  | .fin s m e => rndQ F rm sat fz s m 1 e

/-- step of an exact finite value to an integer, and whether it changed it. -/
def stepInt (rm : RM) (s : Bool) (m : Nat) (e : Int) : Int × Bool :=
  let n := if 0 ≤ e then m * 2 ^ e.toNat else m
  let d := if 0 ≤ e then 1 else 2 ^ (-e).toNat
  let y := stepMag rm s (n / d) (n % d) d
  (if s then -(y : Int) else y, n % d != 0)

/-- enc for an integer destination from a float (R94). -/
def encConvI (w : Nat) (signed : Bool) (rm : RM) (x : Val) : FRes :=
  let (lo, hi) := intRange w signed
  match x with
  | .nan _ => (0, .nv)
  | .inf s => (intBits w (if s then lo else hi), .nv)
  | .fin s m e =>
    let (n, ch) := stepInt rm s m e
    let fl : Flags := if ch then .nx else 0
    if n < lo then (intBits w lo, fl ||| .nv) else if hi < n then (intBits w hi, fl ||| .nv) else (intBits w n, fl)

/-- An exact integer result of width w: wrapped, or clamped under SAT with SA (R95). -/
def wrapSat (w : Nat) (signed sat : Bool) (i : Int) : FRes :=
  let (lo, hi) := intRange w signed
  if sat then if i < lo then (intBits w lo, .sa) else if hi < i then (intBits w hi, .sa) else (intBits w i, 0)
  else (intBits w i, 0)

/-- TERN and INT2 from an integer or a rounded value (R86). -/
def encSmall (w : Nat) (lo hi : Int) (n : Int) (fl : Flags) : FRes :=
  if n < lo then (intBits w lo, fl ||| .nv) else if hi < n then (intBits w hi, fl ||| .nv) else (intBits w n, fl)

/-- enc for TERN, INT2 and BIN (R86). -/
def encTiny (f : Nat) (rm : RM) (x : Val) : FRes :=
  if f == 0x18 then
    match x with
    | .nan _ => (0, .nv)
    | .inf s => (if s then 1 else 0, .nx)
    | .fin s m e =>
      let one := decide (m ≠ 0) && (stepInt 1 s m e == ((if s then -1 else 1 : Int), false))
      (if s && m != 0 then 1 else 0, if one then 0 else .nx)
  else
    let (lo, hi) : Int × Int := if f == 0x17 then (-1, 1) else (-2, 1)
    match x with
    | .nan _ => (0, .nv)
    | .inf s => (intBits 2 (if s then lo else hi), .nv)
    | .fin s m e =>
      let (n, ch) := stepInt rm s m e
      encSmall 2 lo hi n (if ch then .nx else 0)

/-- FP32 into BF16x2 or BF16x3 (R88): hi by RTZ, the last part rounded in rm. DESIGN CHOICE, log entry 52: a source of another
format takes the same steps from its exact value, and a last part beyond BF16's range saturates, as R91 has of a split format. -/
def encSplit (three : Bool) (rm : RM) (sat fz : Bool) (x : Val) : FRes :=
  match x with
  | .fin _ 0 _ | .inf _ | .nan _ =>
    let h := encConvF ffBF16 rm sat fz x
    (if three then h.1 * 2 ^ 48 else h.1 * 2 ^ 16, h.2)
  | .fin s m e =>
    let hi := (rndQ ffBF16 1 true false s m 1 e).1
    let r1 := ((Val.fin s m e).add (decodeF ffBF16 hi).neg false).getD .zero
    if three then
      let mid := match r1 with
        | .fin _ 0 _ => 0
        | .fin t n k => (rndQ ffBF16 1 true false t n 1 k).1
        | _ => 0
      let r2 := (r1.add (decodeF ffBF16 mid).neg false).getD .zero
      let lo := match r2 with
        | .fin _ 0 _ => (0, 0)
        | .fin t n k => rndQ ffBF16 rm true false t n 1 k
        | _ => (0, 0)
      (hi * 2 ^ 48 + mid * 2 ^ 32 + lo.1 * 2 ^ 16, lo.2)
    else
      let lo := match r1 with
        | .fin _ 0 _ => (0, 0)
        | .fin t n k => rndQ ffBF16 rm true false t n 1 k
        | _ => (0, 0)
      (hi * 2 ^ 16 + lo.1, lo.2)

/-- Whether a conversion to f takes MR.SAT; every other float format saturates (R91). -/
def satOf (f : Nat) (sat : Bool) : Bool :=
  if f == 0x00 || f == 0x01 || f == 0x02 || f == 0x03 || f == 0x04 || f == 0x24 then sat else true

/-- The conversion of one element from format g, with its scale data, to unscaled format f (R154, R297). -/
def convElem (g f : Nat) (rm : RM) (sat fz : Bool) (x : Nat) (sc : Scl) : FRes :=
  -- FZ: a subnormal source of R92's formats reads as zero
  let (v0, fl0) := valOf g x sc
  let v := if fz && fzFormat g && (match floatFmt g with | some G => isSubF G x | .none => false) then .fin v0.negB 0 0 else v0
  let sg : Flags := if v.isSig then .nv else 0
  let r : FRes :=
    match floatFmt f with
    | some F => encConvF F rm (satOf f sat) (fz && fzFormat f) v
    | .none =>
      if f == 0x17 || f == 0x18 || f == 0x1F then encTiny f rm v
      else
        match intFmt f with
        | some (w, s) =>
          match intFmt g with
          | some (wg, sgn) => wrapSat w s sat (intVal wg sgn x)
          | .none =>
            if g == 0x17 || g == 0x18 then
              match v with
              | .fin t m _ => wrapSat w s sat (if t then -(m : Int) else m)
              | _ => (0, 0)
            else encConvI w s rm v
        | .none => if f == 0x1D then encSplit false rm sat fz v else if f == 0x1E then encSplit true rm sat fz v else (x, 0)
  (r.1, r.2 ||| fl0 ||| sg)

/-! ## Arithmetic of one element -/

/-- An operand under FZ: a subnormal reads as zero of its sign (R92). -/
def readF (F : FF) (fz : Bool) (x : Nat) : Val :=
  let v := decodeF F x
  if fz && isSubF F x then .fin v.negB 0 0 else v

/-- NV for a signalling operand. -/
def sigFl (vs : List Val) : Flags := if vs.any Val.isSig then .nv else 0

def addF (F : FF) (rm : RM) (fz : Bool) (x y : Val) : FRes :=
  match x.add y (rm == 2) with
  | some v => let r := encArith F rm fz v; (r.1, r.2 ||| sigFl [x, y])
  | none => (qnanF F, .nv)

def mulF (F : FF) (rm : RM) (fz : Bool) (x y : Val) : FRes :=
  match x.mul y with
  | some v => let r := encArith F rm fz v; (r.1, r.2 ||| sigFl [x, y])
  | none => (qnanF F, .nv)

/-- x / y (Table 5.4). -/
def divF (F : FF) (rm : RM) (fz : Bool) (x y : Val) : FRes :=
  match x, y with
  | .nan _, _ | _, .nan _ => (qnanF F, sigFl [x, y])
  | .inf _, .inf _ => (qnanF F, .nv)
  | .inf s, .fin t _ _ => (packF F (s != t) F.infB, 0)
  | .fin s _ _, .inf t => (packF F (s != t) 0, 0)
  | .fin s m e, .fin t n k =>
    if n == 0 then if m == 0 then (qnanF F, .nv) else (packF F (s != t) F.infB, .dz)
    else if m == 0 then (packF F (s != t) 0, 0)
    else rndQ F rm false fz (s != t) m n (e - k)

/-- Integer square root by bits, from bit i down. -/
def isqrtGo (n : Nat) : Nat → Nat → Nat
  | 0, r => r
  | i + 1, r => let t := r + 2 ^ i; isqrtGo n i (if t * t ≤ n then t else r)

/-- floor(√n). -/
def isqrt (n : Nat) : Nat := isqrtGo n (n.log2 / 2 + 1) 0

/-- √(m × 2^e) as a dyadic number with a sticky last bit: correct for every rounding to at most 60 bits. -/
def sqrtSticky (m : Nat) (e : Int) : Nat × Int :=
  let m1 := if e % 2 == 0 then m else 2 * m
  let e1 := if e % 2 == 0 then e else e - 1
  let n := m1 * 2 ^ 256
  let r := isqrt n
  (2 * r + (if r * r == n then 0 else 1), e1 / 2 - 128 - 1)

def sqrtF (F : FF) (rm : RM) (fz : Bool) (x : Val) : FRes :=
  match x with
  | .nan s => (qnanF F, if s then .nv else 0)
  | .inf true => (qnanF F, .nv)
  | .inf false => (packF F false F.infB, 0)
  | .fin s 0 _ => (packF F s 0, 0)
  | .fin true _ _ => (qnanF F, .nv)
  | .fin false m e => let (n, k) := sqrtSticky m e; rndQ F rm false fz false n 1 k

/-- ±(x × y) ± z with one rounding; NV for 0 × ∞ even if z is a NaN, and for ∞ − ∞ (R120). -/
def fmaF (F : FF) (rm : RM) (fz negP negZ : Bool) (x y z : Val) : FRes :=
  let zz := if negZ then z.neg else z
  match x.mul y with
  | none => (qnanF F, .nv)
  | some p =>
    match (if negP then p.neg else p).add zz (rm == 2) with
    | none => (qnanF F, .nv)
    | some v => let r := encArith F rm fz v; (r.1, r.2 ||| sigFl [x, y, z])

/-- Compare two values that are no NaNs: x < y, x = y, x > y; zeros are equal. -/
def Val.cmp (x y : Val) : Ordering :=
  match x, y with
  | .inf s, .inf t => if s == t then .eq else if s then .lt else .gt
  | .inf s, _ => if s then .lt else .gt
  | _, .inf t => if t then .gt else .lt
  | .fin s1 m1 e1, .fin s2 m2 e2 =>
    let r := (addFin s1 m1 e1 (!s2) m2 e2).1
    if r < 0 then .lt else if r == 0 then .eq else .gt
  | _, _ => .eq

/-- min and max (R96): −0 below +0; one NaN gives the other operand; two give the canonical NaN. a and b are the operands'
bits. -/
def minmaxF (F : FF) (isMax : Bool) (x y : Val) (a b : Nat) : FRes :=
  let fl := sigFl [x, y]
  if x.isNan && y.isNan then (qnanF F, fl)
  else if x.isNan then (b, fl)
  else if y.isNan then (a, fl)
  else
    let lt := match x.cmp y with
      | .lt => true | .gt => false
      | .eq => x.negB && !y.negB
    (if lt == isMax then b else a, fl)

/-- The class word of R118. -/
def classWord (F : FF) (x : Nat) : Nat :=
  let v := decodeF F x
  let s := if (x / 2 ^ F.shift) / 2 ^ (F.mb + F.eb) % 2 == 1 then 8 else 0
  match v with
  | .nan sg => (if sg then 5 else 4) + s
  | .inf _ => 3 + s
  | .fin t m e =>
    let integral := if m == 0 || !(stepInt 1 t m e).2 then 16 else 0
    (if m == 0 then 0 else if isSubF F x then 1 else 2) + s + integral

/-- Sign injection (Table 5.4): k = 0 sign of b, 1 its inverse, 2 the exclusive or. -/
def sgnjF (F : FF) (k : Nat) (a b : Nat) : FRes :=
  let v := decodeF F a
  let sa := (a / 2 ^ F.shift) / 2 ^ (F.mb + F.eb) % 2 == 1
  let sb := (b / 2 ^ F.shift) / 2 ^ (F.mb + F.eb) % 2 == 1
  let s := if k == 0 then sb else if k == 1 then !sb else (sa != sb)
  match v with
  | .nan sg => (qnanF F, if sg then .nv else 0)
  | _ => (packF F s ((a / 2 ^ F.shift) % 2 ^ (F.mb + F.eb)), 0)

/-! ## Block conversions (R83, R85, R155) -/

/-- The largest magnitude of a list of finite values, as a value. -/
def maxAbs (xs : List Val) : Val :=
  xs.foldl (fun a x => if a.cmp x.abs == .lt then x.abs else a) .zero

def anySpecial (xs : List Val) : Bool := xs.any (fun x => x.isNan || x.isInf)

/-- floor(log2 x) of a positive finite value. -/
def Val.flog2 : Val → Int
  | .fin _ m e => (m.log2 : Int) + e
  | _ => 0

def clampI (lo hi x : Int) : Int := if x < lo then lo else if hi < x then hi else x

/-- emax (Table 4.3) by the scaled format's code. -/
def mxEmax (f : Nat) : Int :=
  match f with | 0x09 => 15 | 0x0A => 8 | 0x0B => 4 | 0x0C => 2 | 0x0D => 2 | _ => 0

/-- An element's MXINT code (R83). -/
def mxintCode (k : Int) (lim : Int) (w : Nat) (rm : RM) (x : Val) : FRes :=
  match x.scale k with
  | .fin s m e =>
    let (n, ch) := stepInt rm s m e
    let c := clampI (-lim) lim n
    (intBits w c, (if ch then Flags.nx else 0) ||| (if c != n then Flags.sa ||| Flags.nx else 0))
  | _ => (0, 0)

/-- mxblock (R83): codes, scale byte, flags. -/
def mxBlock (f : Nat) (rm : RM) (sat : Bool) (xs : List Val) : List Nat × Nat × Flags :=
  if anySpecial xs then (xs.map (fun _ => 0), 0xFF, .nv)
  else
    let a := maxAbs xs
    let s := if a.isZero then -127 else clampI (-127) 127 (a.flog2 - mxEmax f)
    let rs := xs.map (fun x =>
      if f == 0x0E then mxintCode (6 - s) 127 8 rm x
      else if f == 0x16 then mxintCode (2 - s) 7 4 rm x
      else match floatFmt (elemFmt f) with
        | some F => encConvF F rm (sat || f != 0x09) false (x.scale (-s))
        | none => (0, 0))
    (rs.map (·.1), (s + 127).toNat, rs.foldl (fun a r => a ||| r.2) 0)

/-- The index of the first value whose magnitude is largest, and the list without it. -/
def firstMax (xs : List Val) : Nat :=
  let a := maxAbs xs
  xs.findIdx (fun x => x.abs.cmp a == .eq)

/-- qx4block (R85): codes, scale byte, special byte, flags. -/
def qx4Block (rm : RM) (xs : List Val) : List Nat × Nat × Nat × Flags :=
  if anySpecial xs then (xs.map (fun _ => 0), 0xFF, 0, .nv)
  else if xs.all Val.isZero then (xs.map (fun _ => 0), 0, 0, 0)
  else
    let j := firstMax xs
    let a2 := maxAbs (xs.eraseIdx j)
    let e := if a2.isZero then -127 else clampI (-127) 127 (a2.flog2 - 2)
    let sp := encConvF ffE4M3 0 true false ((xs.getD j .zero).scale (-e))
    let rs := xs.mapIdx (fun i x =>
      if i == j then (8, (0 : Flags))
      else
        let r := encConvF ffE2M1 rm true false (x.scale (-e))
        (if r.1 == 8 then 0 else r.1, r.2))
    (rs.map (·.1), (e + 127).toNat, sp.1, rs.foldl (fun a r => a ||| r.2) sp.2)

/-- One row or group of a row- or group-scaled format (R155): codes, scale bits, flags. `g` is the scale's format, `fmax` the
limit, `f` the scaled format. A NaN or infinity gives the scale qnan and codes 0.
DESIGN CHOICE, log entry 52: rounding the scale accrues its flags, MR.FZ does not flush a subnormal scale, and where the scale overflows to
infinity the code of a nonzero element is 0. -/
def rowBlock (f g : Nat) (fmax : Nat) (rm : RM) (xs : List Val) : List Nat × Nat × Flags :=
  let G := (floatFmt g).getD ffFP32
  if anySpecial xs then (xs.map (fun _ => 0), qnanF G, .nv)
  else
    let a := maxAbs xs
    let (sb, fl) : Nat × Flags := match a with
      | .fin _ 0 _ => ((encArith G 0 false (.ofInt 1)).1, 0)
      | .fin _ m e => let r := rndQ G 3 false false false m fmax e; (r.1, r.2)
      | _ => (0, 0)
    let rs := xs.map (fun x =>
      match x, decodeF G sb with
      | .fin s 0 _, _ => (match floatFmt (elemFmt f) with | some F => (packF F s 0, (0 : Flags)) | none => (0, 0))
      | .fin s m e, .fin _ n k =>
        match floatFmt (elemFmt f) with
        | some F => if n == 0 then (packF F s 0, 0) else rndQ F rm true false s m n (e - k)
        | none =>
          let w := fmtWidth f
          if n == 0 then (0, 0)
          else
            let d := e - k
            let nn := if 0 ≤ d then m * 2 ^ d.toNat else m
            let dd := if 0 ≤ d then n else n * 2 ^ (-d).toNat
            let y := stepMag rm s (nn / dd) (nn % dd) dd
            let i : Int := if s then -(y : Int) else y
            let (lo, hi) := intRange w true
            let c := clampI lo hi i
            (intBits w c, (if nn % dd != 0 then Flags.nx else 0) ||| (if c != i then Flags.nv else 0))
      | _, _ => (0, 0))
    (rs.map (·.1), sb, rs.foldl (fun a r => a ||| r.2) fl)

end Sys2Proof.Machine
end

