-- ==== Sys2Proof/Config.lean ====
section
/-! DEFINITION. The free values: what the spec leaves without a value. Each is an opaque constant, so nothing can be proved
of the value it takes; a value drawn afresh is applied to the counter `free` of the device's state, which the drawing
step advances. Log entry 1 lists where each is used. -/

namespace Sys2Proof.Config

/-- A value of 64 bits that nothing constrains, drawn afresh with the counter of the state. -/
opaque freeWord : Nat → Word

/-- The bits of a pushed register image that the pushing instruction does not write (R17), drawn afresh. -/
opaque freeImage : Nat → BitVec 8192

/-- The byte at a virtual address of the built-in handlers, by the thaw-handler image that the boot path accepted (R183, R414, R422): the
spec does not say where the image's bytes lie there. -/
opaque imageByte : List Byte → Nat → Byte

/-- SHAKE256 with an output of some bytes (R422): a function of FIPS 202, which the spec names. -/
opaque shake256 : Nat → List Byte → List Byte

/-- The ML-DSA-65 verification of a message by a public key and a signature (R422): a function of FIPS 204, which the spec names. -/
opaque mlDsa65Verify (key message sig : List Byte) : Bool

/-- The SHAKE256 digest of the public key that is fused in the package, and the fuse configuration that is measured (R422). -/
opaque fusedKeyDigest : List Byte
opaque fuseConfig : List Byte

/-- TEMP of a sensor that has taken no sample since cold reset (Table 19.5, a dash in the reset column). -/
opaque sensorTemp : Nat → BitVec 16

/-- What an SPDM answer holds beside what R422 says of it, which SPDM 1.3 and the part's keys give: by answer code, boot count and
request parameters. -/
opaque spdmBody : Nat → Nat → List Nat → List Nat

/-- The HBM stack, of eight, that holds a device physical address (R251): the spec gives no interleaving. -/
opaque hbmStack : Nat → BitVec 3

/-- Whether a level-1 leaf of TYPE 2 with bit 52 set is one of the 16 of a 64 KiB page (R412): the spec gives that bit to DEV and, at
level 1, to S64. By the leaf. -/
opaque remoteS64 : Word → Bool

/-- The lines of 64 bytes of HBM (eight stacks of 64 GiB) and of BKM (128 MiB on each compute die), R10, R14. -/
def deviceLines : Nat := 8 * 2 ^ 30 + 2 * 2 ^ 21

/-- The line of device physical addresses at which each line of HBM and BKM lies, of the 2^46 that 52 bits of address have (R412); the
numbers from deviceLines on are of no memory. The spec gives no map. -/
opaque memLine : Equiv.Perm (Fin (2 ^ 46))

/-- The line of HBM and BKM that stands at each line of the range in which a host sees them (R408): each at one. -/
opaque hdmLine : Equiv.Perm (Fin deviceLines)

/-- A byte of a spill area that a program reads before the merge context closes (R238): area, reading, offset. -/
opaque spillByte : Nat → Nat → Nat → Byte

/-- One output row of a merge whose spill area was written or unmapped (R238): draw, row. -/
opaque freeRow : Nat → Nat → List (BitVec 32 × BitVec 32)

end Sys2Proof.Config
end

