-- ==== Sys2Proof/Machine/Types.lean ====
section
/-! DEFINITION. The records the machine's state is made of, part by part, each with the rule of spec/ that names it.
Plain data throughout: no field is a function. -/

namespace Sys2Proof.Machine

/-! ## Memory (12, 13, 22) -/

/-- Where a translated access lands (Table 12.3). -/
inductive Loc where
  /-- HBM or BKM, by device physical address -/
  | dev (pa : Nat)
  /-- host memory over CXL, by host physical address -/
  | host (pa : Nat)
  /-- the scratchpad allocation of a task (R33) -/
  | spad (tid off : Nat)
  /-- the management core's own memory (R399) -/
  | fw (addr : Nat)
  /-- a byte of a remote window: device, window, offset (R319) -/
  | remote (d win off : Nat)
  /-- the thaw-handler firmware image (R414) -/
  | image (va : Nat)
  deriving DecidableEq, Repr

/-- What an entered write belongs to, for the widening rules R280, R281 and R289. -/
inductive WTag where
  /-- a scalar store, an AMO, a host write: widens freely (R280) -/
  | plain
  /-- a write of an engine for its owner, which no fence of the owner waits for (R259, R292) -/
  | engine
  /-- element n of an ordered train, and the train it goes on from after a fault (R281, R291) -/
  | train (id n : Nat) (prior : Option Nat)
  /-- a payload write of a copy (R288) -/
  | payload (copy : Nat)
  /-- a stamp write: of a copy of this device, after the writes of that copy; and, where a sender is named by device and tenant,
  after the remote writes of that sender which stand before it (R289, R328) -/
  | stamp (copy : Option Nat) (sender : Option (Nat × Nat))
  /-- element n of a remote train: the sending device and tenant, the train's number here, whether the form is ordered (R290, R320) -/
  | far (sdev sten train n : Nat) (ordered : Bool)
  deriving DecidableEq, Repr

/-- A write in coherence order (R274). -/
structure WRec where
  loc     : Loc
  bytes   : List Byte
  /-- none: a host agent's, another device's, or one the machine makes of itself -/
  owner   : Option StrandId
  /-- the owner's cluster when the write entered; scopes are taken relative to it (R251) -/
  cluster : Nat
  vis     : Scope
  tag     : WTag
  /-- where the access that made it stands in its owner's program order; 0: in none (R275) -/
  ord     : Nat
  /-- the launch, as tenant and id, whose ended task made it (R342) -/
  ended   : Option (Nat × Nat)
  /-- aligned 8-byte words of it that an error has struck since (R434) -/
  bad     : List Nat
  deriving DecidableEq, Repr

/-- An instruction word that a strand's instruction memory has taken up, and from where (R73): the writers (strand, cluster) of the
words that have entered there since, in coherence order, and whether the next fetch returns it. -/
structure Stale where
  strand : StrandId
  loc    : Loc
  word   : IWord
  newer  : List (Option StrandId × Nat)
  use    : Bool
  deriving DecidableEq, Repr

/-- A store that has passed its checks and not yet entered memory: an entry of the POB or of the SSB (R274, R278). `src` is the
entry that is still to supply its data, and `bad` says that the value it took was poisoned (R435). -/
structure SEnt where
  loc  : Loc
  data : List Byte
  ord  : Nat
  src  : Option Nat
  bad  : Bool
  deriving DecidableEq, Repr

/-- What an unsupplied element waits for: the elements of the data register it takes, or a byte of its sidecars (which of the
two, and the byte). -/
structure ESrc where
  els  : List Nat
  side : Option (Bool × Nat)
  deriving DecidableEq, Repr

/-- What an element of a train does when it enters (R281, R283). -/
inductive ElemOp where
  /-- write the bytes under the mask -/
  | store
  /-- add, in format code `f` (R267) -/
  | add (f : Nat)
  deriving DecidableEq, Repr

/-- One element of a store train (R274): it may enter once supplied. `src` is what its value still waits for. -/
structure TElem where
  /-- its number in the train -/
  n        : Nat
  loc      : Loc
  data     : List Byte
  mask     : List Byte
  supplied : Bool
  op       : ElemOp
  src      : Option ESrc
  /-- the value it took was poisoned, its store being complete by then (R435) -/
  bad      : Bool
  deriving DecidableEq, Repr

/-- A store train (R281). Entered elements leave the list. `prior` is the train of the same instruction from before a fault,
which it goes on from (R291). -/
structure Train where
  id      : Nat
  ordered : Bool
  prior   : Option Nat
  elems   : List TElem
  deriving DecidableEq, Repr

/-- An element of a remote train (R320): its offset in the window, its bytes, the sender's virtual address, and how many elements the
instruction counts there: those of fewer than 8 bits that share a byte travel together. -/
structure RElem where
  off  : Nat
  data : List Byte
  va   : Word
  cnt  : Nat
  deriving DecidableEq, Repr

/-- A remote train of one instruction to one device, or its part for one of several windows there, each a stream of its own
(R317, R320), until it is acknowledged. -/
structure RTrain where
  id      : Nat
  /-- the train it is a part of: the number of the first part -/
  train   : Nat
  ddev    : Nat
  win     : Nat
  /-- in ascending index -/
  elems   : List RElem
  /-- the addition's format, none for writes -/
  addFmt  : Option Nat
  /-- the next element to send -/
  sent    : Nat
  /-- the tail is part of the train: the instruction has completed (R320) -/
  closed  : Bool
  tailSent : Bool
  /-- SEQ of its tail or of its request -/
  seq     : Nat
  /-- an ordered form (R320) -/
  ordered : Bool
  /-- a vector instruction's (R327) -/
  vec     : Bool
  /-- a remote AMO: its operation, size in bytes, operand and expected value (R321) -/
  amo     : Option (Nat × Nat × Word × Word)
  /-- restartable program order of the instruction, for R325's earliest failure -/
  order   : Nat
  /-- the address of the instruction, which goes on with its own trains after a fault (R291, R320) -/
  pc      : Word
  deriving DecidableEq, Repr

/-! ## Vector registers (R26, R175) -/

/-- Where the data of a pending read goes inside a register value. -/
inductive PendDst where
  | bits | scale | special
  deriving DecidableEq, Repr

/-- A read of a vector load that has not performed (R167, R282): `width` bits at bit `srcBit` of the location. -/
structure PendRead where
  dst    : PendDst
  pos    : Nat
  width  : Nat
  loc    : Loc
  srcBit : Nat
  /-- program order among the strand's accesses (R277) -/
  ord    : Nat
  /-- the bits, of the `width`, that no later instruction has written (R139, R167) -/
  live   : Nat
  deriving DecidableEq, Repr

/-- A vector register value (R26): its bits, format tag, sidecars, presence map and landed bits, the reads that have
not arrived yet (R167), and the poison of its element groups (R435). -/
structure VVal where
  bits    : BitVec 8192
  tag     : BitVec 6
  scale   : BitVec 512
  special : BitVec 512
  pres    : BitVec 1024
  landed  : BitVec 8
  pend    : List PendRead
  poison  : BitVec 8
  /-- for each group that has not landed, the program order of the access that it last waits for (R284) -/
  lord    : Vector Nat 8
  deriving DecidableEq, Repr

/-- A sparse vector register (R222); SL is the number of pairs. -/
structure SvVal where
  pairs : List (BitVec 32 × BitVec 32)
  tag   : BitVec 6
  ov    : Bool
  stop  : BitVec 32
  deriving DecidableEq, Repr

/-- The kind of an accumulator tile (R198). -/
inductive TileKind where
  | zero | fp | int
  deriving DecidableEq, Repr

/-- An accumulator tile (R197-R199): 4,096 elements of 32 bits, element 64r + j at bits 32(64r + j) up. -/
structure Tile where
  kind   : TileKind
  bits   : BitVec 131072
  dirty  : Bool
  /-- poison of its 64 rows (R435) -/
  poison : BitVec 64
  deriving DecidableEq, Repr

/-! ## The strand (R25) -/

/-- Privilege levels (Table 1.10). -/
inductive Lvl where
  | u | k | h | m
  deriving DecidableEq, Repr

/-- The scalar, vector, mask and sparse files (Table 1.8). Element 0 of `s` stays 0 and of `m` all ones. -/
structure RegFile where
  s  : Vector Word 32
  v  : Vector VVal 32
  m  : Vector (BitVec 1024) 8
  sv : Vector SvVal 8
  /-- poison of the scalar, mask and sparse registers (R435) -/
  sPoison  : BitVec 32
  mPoison  : BitVec 8
  /-- sixteen bits a sparse register: its groups of 16 pairs -/
  svPoison : BitVec 128
  deriving DecidableEq, Repr

/-- One hardware loop (R124); `vl` is set while the loop is a `vloop` (R144). -/
structure LoopReg where
  lc : Word
  ls : Word
  le : Word
  vl : Bool
  deriving DecidableEq, Repr

/-- The control registers of a strand (Table 1.12 and R144). -/
structure Ctl where
  pc       : Word
  level    : Lvl
  /-- MR bits 24:0 (R29) -/
  mr       : BitVec 25
  vl       : Nat
  vstart   : Word
  sc       : Word
  lp0      : LoopReg
  lp1      : LoopReg
  fflags   : BitVec 6
  amoplace : BitVec 2
  cycle    : Word
  deriving DecidableEq, Repr

/-- The trap state and the translation roots of a strand (R426, R411). -/
structure TrapSt where
  tcause   : Word
  tepc     : Word
  tval     : Word
  tstatus  : Word
  tscratch : Word
  s1root   : Word
  asid     : Word
  /-- TVEC of the management core's own copy (R426); a tenant's TVEC is per tenant -/
  tvecM    : Word
  deriving DecidableEq, Repr

/-- A dimension register (Table 14.1). -/
structure Dim where
  ext : Nat
  ss  : BitVec 48
  ds  : BitVec 48
  deriving DecidableEq, Repr

/-- Which instruction started a copy, or which node of a graph (R300, R301, R312, R346). -/
inductive CopyKind where
  | go | mc | gat | node (gid idx : Nat)
  deriving DecidableEq, Repr

/-- A translated page that a copy or a window pinned (R304, R323, R417). -/
structure PinPage where
  va   : Nat
  size : Nat
  loc  : Loc
  /-- the cached translation it was taken from, for R416 -/
  mark : Nat
  deriving DecidableEq, Repr

/-- A transfer or a row that is under way byte by byte (R288, R310): its number, the source bytes as far as they have been read, and
what is still to enter: target (0 where the copy has no slot) and byte of the image. -/
structure Xfer where
  n    : Nat
  src  : List (Option Byte)
  left : List (Nat × Nat)
  deriving DecidableEq, Repr

/-- A copy in a tile-walk engine's or indirect-stream engine's queue (R295-R313). -/
structure Copy where
  uid     : Nat
  kind    : CopyKind
  owner   : StrandId
  tenant  : Nat
  id      : Nat
  cluster : Nat
  /-- the task whose scratchpad allocation the local window names -/
  tid     : Option Nat
  sfmt    : Nat
  dfmt    : Nat
  rm      : Nat
  sat     : Bool
  unit    : Nat
  clv     : Nat
  rotc    : Nat
  rlv     : Nat
  /-- the snapshot of dm0 to dm5 (R296) -/
  dims    : List Dim
  src     : Word
  dst     : Word
  /-- a gather's elements that were not dropped, with the address of each row, and its row size (R313) -/
  rows    : List (Nat × Word)
  rowb    : Nat
  /-- transfers or rows to make -/
  total   : Nat
  /-- the slot destination and its target clusters (R301, R303), and whether the permits are taken -/
  slot    : Option Nat
  targets : List Nat
  taken   : Bool
  /-- the slots whose permits it has taken: cluster and slot (R303) -/
  holds   : List (Nat × Nat)
  mreg    : Option Nat
  sta     : Word
  stv     : Word
  /-- the engine has started it (R300) -/
  moving  : Bool
  /-- transfers under way -/
  parts   : List Xfer
  /-- transfers or rows made, and how many of them have entered (R328) -/
  made    : List Nat
  entered : Nat
  /-- remote trains that carry transfers: the transfer's number and the train (R328) -/
  rtrains : List (Nat × RTrain)
  /-- dropped indices -/
  bad     : Nat
  chunkDone : List Nat
  pins    : List PinPage
  /-- a remote stamp is on its way: the SEQ of its message (R328) -/
  stampSeq : Option Nat
  /-- it has completed; chunk bits may still be due -/
  done    : Bool
  deriving DecidableEq, Repr

/-- A steal-list entry (R351). -/
structure StealEnt where
  frame : Word
  entry : Word
  prio  : Nat
  deriving DecidableEq, Repr

/-- The states of Table 14.7. -/
inductive CopyState where
  | waiting | moving | done | failed
  deriving DecidableEq, Repr

/-- A copy's status, kept for the strand's 64 most recent ids (R309). -/
structure CopyStat where
  id    : Nat
  done  : Nat
  bad   : Nat
  cause : Nat
  state : CopyState
  deriving DecidableEq, Repr

/-- An entry of the merge buffer (R236). -/
structure MEntry where
  row   : Nat
  coord : Nat
  strm  : Nat
  seq   : Nat
  val   : BitVec 32
  deriving DecidableEq, Repr

/-- A run that a spill wrote (R238): its address and its entries in order. -/
structure MRun where
  addr : Nat
  ents : List MEntry
  deriving DecidableEq, Repr

/-- The state of a merge context (Table 9.4, bits 553:552). -/
inductive MState where
  | opened | flushed | failed
  deriving DecidableEq, Repr

/-- The merge context a strand has bound (R233-R244). -/
structure MergeCtx where
  addr  : Word
  octet : Nat
  cap   : Nat
  cmb   : Nat
  out   : Bool
  spb   : Nat
  spl   : Nat
  rowp  : Nat
  cola  : Nat
  vala  : Nat
  nrows : Nat
  stat  : Nat
  state : MState
  npush : Nat
  nnz   : Nat
  /-- the row position p (R241) -/
  p     : Nat
  /-- the last `mgpull.sv` row -/
  lastRow : Nat
  /-- the coordinate the row in progress continues from (R241) -/
  from0 : Nat
  spillPtr : Nat
  seqs  : List Nat
  buf   : List MEntry
  /-- the runs written (R238) -/
  runs  : List MRun
  deriving DecidableEq, Repr

/-- A spill area that belongs to a merge network, from `mgopen` or `mgopen.cont` until the context closes (R238, R239): whose context
it serves, its first address and length, where its bytes lie as far as they are mapped (address, location, length), the number of the
free values its bytes read as (log entry 1), whether it is the one in use, and whether a program has written into it. -/
structure Spill where
  owner  : StrandId
  base   : Nat
  len    : Nat
  parts  : List (Nat × Loc × Nat)
  draw   : Nat
  live   : Bool
  broken : Bool
  deriving DecidableEq, Repr

/-- A recorded remote failure (R325). -/
structure RFail where
  cause : Nat
  va    : Word
  order : Nat
  deriving DecidableEq, Repr

/-- The parts of a strand's context beside its registers (R261, R293, R351, R309, R235, R325, R263). -/
structure Extra where
  dm       : Vector Dim 6
  /-- the monitor: the address of the armed word (R261) -/
  monitor  : Option Word
  steal    : List StealEnt
  /-- the next copy id (R300) -/
  nextCopy : Nat
  copies   : List CopyStat
  merge    : Option MergeCtx
  /-- fault records written by this strand (Table 14.6, SEQ) -/
  faultSeq : Nat
  rfail    : Option RFail
  /-- barrier arrivals counted per level (R263) -/
  bars     : List Nat
  /-- barrier arrivals made but not yet counted: the levels whose `bar` has issued (R287) -/
  barIssued : List Nat
  deriving DecidableEq, Repr

/-- A `svld` whose image at `va` is being read (R226): its header, the reads that have not performed, the words read so far from the
first coordinate on, and the lowest of them that was poisoned. -/
structure SvLoad where
  va   : Word
  hdr  : Word
  pend : List PendRead
  bits : BitVec 16384
  bad  : Option Nat
  deriving DecidableEq, Repr

/-- The operand fields of an AMO: its operation code (Table 3.8), size, order and registers. -/
structure AmoOp where
  op    : Nat
  size  : AmoSize
  order : AmoOrder
  d     : SReg
  a     : SReg
  b     : SReg
  deriving DecidableEq, Repr

/-! The program-order buffer (R274) is kept by the kind of its entries. `ord` is an entry's place in program order, by which
Table 13.3 tells the earlier from the later; what the strand itself is held by is its `Wait`. -/

/-- A scalar load that has completed and not performed (R275): its register, none once another value has been written to it,
where it reads, and whether it sign-extends. -/
structure SRead where
  reg    : Option SReg
  loc    : Loc
  n      : Nat
  signed : Bool
  ord    : Nat
  deriving DecidableEq, Repr

/-- A read of n bytes that has performed before the strand has come to its load (R275, R279): of the scalar or of the vector
side, and when. -/
structure EarlyRd where
  vec   : Bool
  loc   : Loc
  n     : Nat
  bytes : List Byte
  time  : Nat
  deriving DecidableEq, Repr

/-- A relaxed or releasing AMO that the strand has gone past (R279): operand, expected value and register. -/
structure PAmo where
  ord : Nat
  reg : Option SReg
  op  : AmoOp
  loc : Loc
  va  : Word
  v   : Word
  cmp : Word
  deriving DecidableEq, Repr

/-- A `vfas` that the strand has gone past (R279): its register, none once the strand has begun anew, the location of its word and its
address, the format, and the elements with their operands. Its destination's groups have not landed until it performs. -/
structure PVfas where
  ord : Nat
  d   : Option VReg
  et  : Nat
  loc : Loc
  va  : Word
  els : List (Nat × Nat)
  deriving DecidableEq, Repr

/-- A vector store that the strand has gone past while some elements of its train wait for data (R279): its data register, whose
elements have width w, and its train. -/
structure PSupply where
  d  : VReg
  w  : Nat
  id : Nat
  deriving DecidableEq, Repr

/-- A `fence.rel`, or a `vdrain`, that the strand has gone past (R279). -/
structure PFence where
  ord   : Nat
  drain : Bool
  scope : Scope
  deriving DecidableEq, Repr

/-- An operand: its value, or the entry that will supply it. -/
inductive POpd where
  | val (v : Word)
  | link (ord : Nat)
  deriving DecidableEq, Repr

/-- A scalar computation that waits for an operand, and that the strand has gone past (R275: only what depends on a read waits
for it): its word, the MR it reads and its source registers. -/
structure PAlu where
  ord  : Nat
  reg  : Option SReg
  word : IWord
  mr   : BitVec 25
  srcs : List (SReg × POpd)
  /-- a value it takes came from a poisoned word (R435) -/
  bad  : Bool
  deriving DecidableEq, Repr

/-- The strand's part of the ordering machine (Table 13.1). -/
structure MemSt where
  /-- scalar loads to perform, in program order; `late`: the next load, AMO or `vfas` is put off (the model's own field) -/
  loads  : List SRead
  late   : Bool
  amos   : List PAmo
  vfas   : List PVfas
  supplies : List PSupply
  fences : List PFence
  alus   : List PAlu
  early  : List EarlyRd
  /-- when the latest read that a scalar register's value depends on performed (R275's first dependence rule) -/
  dep    : Vector Nat 32
  /-- the same of the vector registers -/
  vdep   : Vector Nat 32
  pob    : List SEnt
  ssb    : List SEnt
  trains : List Train
  /-- the ordered trains of vector stores that stopped at a fault, by the address of the store (R291) -/
  cont   : List (Word × Nat)
  rtrains : List RTrain
  /-- the `svld` in progress -/
  sv     : Option SvLoad
  /-- program-order number of the next remote instruction (R325) -/
  rorder : Nat
  /-- removals this strand's `tlbinv` instructions started and no `tlbsync` has awaited yet (R416) -/
  invs   : List Nat
  deriving DecidableEq, Repr

/-- A `vapply` descriptor snapshot (Table 7.8). -/
structure VApp where
  fid   : Nat
  addr  : Word
  lo    : BitVec 32
  hi    : BitVec 32
  deg   : Nat
  coef  : List (BitVec 32)
  hpc   : Word
  deriving DecidableEq, Repr

/-- The vector operations that issue by element group (R141). -/
inductive VFn where
  /-- VARITH functions 0 to 18 (Table 6.3) -/
  | arith (f : Nat)
  /-- vsgnj, vsgnj.n, vsgnj.x -/
  | sgnj (k : Nat)
  /-- vfma, vfms, vfnma, vfnms -/
  | fma (k : Nat)
  | sel
  /-- VFUNC functions 0 to 11 -/
  | func (f : Nat)
  | apply
  deriving DecidableEq, Repr

/-- A chaining vector instruction in progress: its function and operand fields. -/
structure VDesc where
  fn : VFn
  d  : VReg
  a  : VReg
  b  : VOperand
  c  : BitVec 5
  /-- the descriptor `vapply` read (R194) -/
  app : Option VApp
  deriving DecidableEq, Repr

/-- How far a chaining instruction in progress has come: the VSTART it began at, the groups beyond VSTART that have issued (R179),
and whether the source it overwrites at another width is kept aside (R140). -/
structure MicroSt where
  base  : Nat
  ahead : List Nat
  kept  : Bool
  deriving DecidableEq, Repr

/-- How an access to memory ends before it begins: a trap by its cause, TVAL being the address, or a wait on MIG. -/
inductive MStop where
  | cause (c : Nat)
  | mig
  /-- outside every lease -/
  | lease
  /-- an earlier `vdrain`, load or AMO holds the read (Table 13.3), or a walk starts again (R413) -/
  | held
  /-- a cause that a walk found where an older translation of the page is cached (R417) -/
  | newer (c : Nat)
  deriving DecidableEq, Repr

/-- What a strand waits for. The pc stays at the waiting instruction, whose operand fields the wait keeps, so that an event
can finish it; only the strand itself is blocked (R18, R359). -/
inductive Wait where
  /-- blocked on a queue port: the TVAL code of R18 and the cycles waited -/
  | queue (code cycles : Nat)
  /-- a chaining instruction stalled at an element group (R179, R184) -/
  | micro (d : VDesc) (p : MicroSt)
  /-- a reader stalled on holes, landed bits or trains of what it uses (R167, R185) -/
  | operands
  /-- `vwait`, or a `.wait` load (R168); whether the strand goes past it, as no move waits for it (R282) -/
  | landed (v : VReg) (past : Bool)
  /-- a vector store whose train stands, until the groups of its data register d, with elements of width w, are ready: the train,
  and where its checks stopped: element, address, reason (R169, R281) -/
  | supply (d : VReg) (w id : Nat) (stop : Option (Nat × Word × MStop))
  | fence (k : FenceKind) (s : Scope)
  | vdrain (s : Scope)
  | mwait (d a : SReg)
  | bar (l : Level)
  | rfence
  | amo (r : AmoOp)
  /-- a remote atomic request is out (R321); the train's number -/
  | remoteAmo (r : AmoOp) (id : Nat)
  /-- a `vfas` before its Atomic move (R283) -/
  | vfas (d : VReg) (a : SReg) (b : VReg)
  /-- the SC elements of `vld.sc` or `vst.sc` that are left (R271) -/
  | sc (store : Bool) (d : VReg) (a : SReg)
  /-- `svld` until its image has arrived (R226) -/
  | svld (d : SvReg) (a : SReg)
  /-- `svst` until its train has entered (R226) -/
  | svst (d : SvReg) (a : SReg) (id : Nat)
  | csrFlags (op : CsrOp) (d a : SReg) (n : CsrNum)
  /-- `settle`: the register, none for all; nf (R187) -/
  | settle (v : Option VReg) (nf : Bool)
  | join (d a : SReg)
  /-- `wfi`; whether it has been pre-empted (R136) -/
  | wfi (saved : Bool)
  | halt
  | tlbinv (kind : Nat) (d a : SReg)
  | tlbsync
  | intr (p : BitVec 1) (v : BitVec 6)
  | rwinClose (d a : SReg) (win : Nat)
  /-- `mgopen` waits for the octet's network with the context its record gave (R239) -/
  | mgopen (d a : SReg) (m : MergeCtx)
  /-- a copy instruction whose record has been read waits for the writes before it (R300, R313): function, operands, record -/
  | copyRec (f : Nat) (d a b : SReg) (ws : List Word)
  /-- a copy instruction that has passed its probe pass waits for room in the engine's queue (R300) -/
  | copyRoom (f : Nat) (d a b : SReg) (c : Copy)
  /-- the engine park of R304, until the context can be saved: the address watched -/
  | epark (addr : Word)
  /-- a validated launch waits for the writes before it and for one of 4,096 places (R337): the header's words -/
  | launchLimit (d a : SReg) (ws : List Word)
  /-- a validated graph waits for the writes before it and for its records (R345): the header's and the nodes' words -/
  | gsubRecords (d a : SReg) (ws : List Word)
  /-- checked edge records wait until no new edge's unpointed end fires (R371): their words -/
  | vaneArm (d a b : SReg) (ws : List Word)
  /-- edges from an id on are still to be dropped (R372) -/
  | vaneDrop (a b : SReg) (next : Nat)
  | tend
  /-- `vret` (0), `lull` (1), `lull.n` (2) -/
  | vret (k : Nat) (a : SReg)
  | yield
  | park (d a b : SReg)
  /-- a pre-emption waiting for the conditions of a save (R189, R291, R432) -/
  | save
  /-- a walk that met a MIG leaf: the page it translates, how often the leaf has been read again, and when it was last read (R413); and
  the pages that a probe pass has waited for in vain (R304) -/
  | mig (page tries at' : Nat) (vain : List Nat)
  /-- 64 remote trains are unacknowledged (R320) -/
  | trains
  /-- a VDMAP write: the clusters whose switches it started (R380) -/
  | vdmap (op : CsrOp) (d a : SReg) (n : CsrNum) (cs : List Nat)
  deriving DecidableEq, Repr

/-- Whether a strand holds a context. -/
inductive Resid where
  /-- resident on its cluster -/
  | on
  /-- saved, not yet dispatched, or parked -/
  | off
  /-- stopped: `tend` of A (R348), or the stopped management core (R428) -/
  | ended
  deriving DecidableEq, Repr

/-- Counters that R395 charges a launch by, since the strand's task was last dispatched. -/
structure Usage where
  cyc    : Nat
  thm    : Nat
  cur    : Nat
  slw    : Nat
  cap    : Nat
  rel    : Nat
  ns     : Nat
  /-- micro-operations and scalar instructions issued in the current energy window -/
  issued : Nat
  /-- energy charged, nJ -/
  energy : Nat
  deriving DecidableEq, Repr

/-- One strand: the smallest unit that owns a program counter. -/
structure Strand where
  id      : StrandId
  tenant  : Nat
  cluster : Nat
  resid   : Resid
  ctl     : Ctl
  regs    : RegFile
  trap    : TrapSt
  ext     : Extra
  mem     : MemSt
  wait    : Option Wait
  /-- the word of the instruction that waits, once it has been fetched -/
  ir      : Option IWord
  /-- the values that instructions whose destination is a port are building (R17, R184), or the source values they keep (R140), each
  by the address of its instruction -/
  staging : List (Word × VVal)
  /-- the diversion entry a thaw thread serves (R181) -/
  serves  : Option Nat
  usage   : Usage
  deriving DecidableEq, Repr

/-! ## Tasks, launches and graphs (17, 18) -/

/-- A lease entry (Table 17.5). -/
structure Lease where
  base   : Nat
  len    : Nat
  r      : Bool
  w      : Bool
  x      : Bool
  demand : Bool
  deriving DecidableEq, Repr

/-- Task states (Table 17.2). -/
inductive TState where
  | ready | running | parked | waitgang
  deriving DecidableEq, Repr

/-- Task kinds (Table 17.1). -/
inductive TKind where
  | launched | spawned | root
  deriving DecidableEq, Repr

/-- The architectural queues of a decoupled pair (Table 1.5), oldest entry first. -/
structure Queues where
  vq0 : List VVal
  vq1 : List VVal
  vq2 : List VVal
  vq3 : List VVal
  sq0 : List Word
  sq1 : List Word
  rq  : List Word
  bq  : List Bool
  deriving DecidableEq, Repr

/-- The vane counters of a member (R365, R369, R375). -/
structure VaneSt where
  group    : Nat
  /-- in a firing (R365) -/
  firing   : Bool
  /-- a `vret` or `lull` of its own has been saved and requeued and is not over (R366); `idles`: a `lull` -/
  ending   : Bool
  idles    : Bool
  /-- its release is done: it turns its edges; `flips` are those it has turned (R367) -/
  released : Bool
  flips    : List Nat
  fire     : Nat
  idle     : Nat
  ln       : Nat
  deriving DecidableEq, Repr

/-- A task (Table 17.1 and the state a task owns beside its strands). -/
structure Task where
  /-- the record number; die 1's numbers start at 65,536 (R334) -/
  tid     : Nat
  kind    : TKind
  tenant  : Nat
  state   : TState
  lid     : Nat
  dual    : Bool
  wid     : Word
  widw    : Word
  prio    : Nat
  prioc   : Nat
  nacc    : Nat
  spadLen : Nat
  leasep  : Word
  leases  : List Lease
  /-- the pair its strands start with (R411) -/
  s1root  : Word
  asid    : Word
  frame   : Word
  waddr   : Word
  wval    : Word
  /-- this task's word is the one its group waits on (R339) -/
  watch   : Bool
  smask   : Word
  /-- the registers a `park` saves, ascending (R350) -/
  sregs   : List Word
  accs    : List Tile
  spad    : List (Nat × Byte)
  spadPoison : List Nat
  queues  : Queues
  vane    : VaneSt
  /-- dispatched at least once -/
  started : Bool
  /-- the die whose pool its save frame comes from (R432) -/
  saved   : Option Nat
  /-- the park keeps only SMASK registers (R350); false for an engine park and for a save -/
  slim    : Bool
  /-- the number of the gang group it belongs to within its launch, per gang level; none outside a gang (R339) -/
  gang    : Option Nat
  /-- order of its last dispatch (R356) -/
  seq     : Nat
  /-- the worst status code it incurred (R342) -/
  status  : Nat
  /-- the cause its save frame records: PRE of a pre-emption, 0 for none (R425, R433) -/
  cause   : Nat
  deriving DecidableEq, Repr

/-- Accumulated charges of a launch or a graph (Table 17.7, R395). -/
structure Charges where
  cyc    : Nat
  thm    : Nat
  cur    : Nat
  slw    : Nat
  cap    : Nat
  rel    : Nat
  ns     : Nat
  energy : Nat
  deriving DecidableEq, Repr

/-- Progress of a launch's pin pass (R340). -/
inductive PinSt where
  /-- a walk met MIG: the page it translates, how often the leaf has been read again, when it was last read, and the pages waited for in
  vain -/
  | mig (page tries at' : Nat) (vain : List Nat)
  /-- the misses are found, and the page of the fault record migrates; the same of that page -/
  | record (miss : List (Nat × Nat)) (tries at' : Nat)
  /-- a fault record is written: the pass runs again once RESUME is at least 1; how often its page was found to migrate, and when
  last -/
  | waiting (tries at' : Nat)
  | done
  | failed
  deriving DecidableEq, Repr

/-- A launch in progress (R337-R342). -/
structure Launch where
  lid     : Nat
  tenant  : Nat
  die     : Nat
  header  : Word
  epa     : Word
  epe     : Word
  dual    : Bool
  prio    : Nat
  nacc    : Nat
  spadLen : Nat
  vgroup  : Nat
  widw    : Word
  ext     : List Nat
  leases  : List Lease
  comp    : Word
  sta     : Word
  stv     : Word
  frec    : Word
  s1root  : Word
  asid    : Word
  pin     : PinSt
  pins    : List Nat
  /-- tuples enumerated so far -/
  created : Nat
  /-- tuples passed over while a live member holds their id (R363) -/
  skipped : List Nat
  ended   : Nat
  /-- spawned tasks counted to it and still alive -/
  live    : Nat
  status  : Nat
  charges : Charges
  /-- the graph node it belongs to -/
  node    : Option (Nat × Nat)
  faultSeq : Nat
  deriving DecidableEq, Repr

/-- State of a graph node (R346). -/
inductive NState where
  | waiting
  /-- its work starts as soon as it can -/
  | released
  | running
  /-- a launch node whose launch completed well -/
  | done
  | finished
  /-- failed; the nodes reachable from it are not yet cancelled -/
  | failing
  | failed
  | cancelled
  deriving DecidableEq, Repr

/-- A graph node (Table 17.9). -/
structure Node where
  kind  : Nat
  pred  : Nat
  succ  : List Nat
  /-- the address of its graph-node record -/
  addr  : Word
  p0    : Word
  p1    : Word
  /-- its record number (R334) -/
  record : Nat
  /-- its record was struck: it decrements no successor (R436) -/
  struck : Bool
  /-- the launch id or the copy's uid, once it has begun -/
  ref   : Nat
  /-- a copy node whose probe pass missed watches this RESUME word; 0 for none (R346) -/
  hold  : Word
  /-- when a leaf that migrates was last read; while that waits, `ref` counts how often it was read again, `migPage` is the page the walk
  translates, and `migOver` those waited for in vain (R413) -/
  readAt : Option Nat
  migPage : Nat
  migOver : List Nat
  state : NState
  deriving DecidableEq, Repr

/-- A submitted graph (R344-R347). -/
structure Graph where
  gid     : Nat
  tenant  : Nat
  die     : Nat
  cluster : Nat
  /-- the strand that submitted it; the management core's once that task has ended, as no task's -/
  owner   : StrandId
  /-- the task whose scratchpad allocation its local-window addresses name, while it lives -/
  tid     : Option Nat
  /-- submitted at U -/
  user    : Bool
  /-- its leases do not bind it: a root task submitted it (R333) -/
  root    : Bool
  nodes   : List Node
  comp    : Word
  sta     : Word
  stv     : Word
  s1root  : Word
  asid    : Word
  leases  : List Lease
  killed  : Bool
  finished : Nat
  /-- fault records its copy nodes have written -/
  faultSeq : Nat
  charges : Charges
  deriving DecidableEq, Repr

/-- A flip on its way: the edge, and the task that turned it (R368). -/
structure FlipMsg where
  die    : Nat
  tenant : Nat
  group  : Nat
  eid    : Nat
  src    : Nat
  deriving DecidableEq, Repr

/-- A vane edge (R364). -/
structure Edge where
  die    : Nat
  tenant : Nat
  group  : Nat
  eid    : Nat
  tile   : Nat
  ma     : Nat
  mb     : Nat
  /-- points at MB -/
  toB    : Bool
  gbase  : Nat
  glen   : Nat
  deriving DecidableEq, Repr

/-! ## Engines (14, 15) -/

/-- A slot of a cluster (R302). -/
structure Slot where
  num     : Nat
  /-- its registration -/
  uid     : Nat
  tid     : Nat
  off     : Nat
  len     : Nat
  permits : Nat
  deriving DecidableEq, Repr

/-- A receive window (R323). -/
structure RWin where
  win   : Nat
  sdev  : Nat
  sten  : Nat
  lbase : Nat
  len   : Nat
  w     : Bool
  a     : Bool
  /-- closing: refuses trains that have not begun -/
  closing : Bool
  pages : List PinPage
  deriving DecidableEq, Repr

/-- What a stream has received and not yet dealt with, in order (R290). -/
inductive RxItem where
  /-- an admitted element: offset, data, the addition's format if it is one, whether its train is ordered -/
  | elem (off : Nat) (data : List Byte) (add : Option Nat) (ordered : Bool)
  /-- a tail: its SEQ, its count, the first refused element of its train -/
  | tail (seq ecnt : Nat) (refused : Option Nat)
  deriving DecidableEq, Repr

/-- The receiving end of a stream (R317, R318): the next SEQ, what waits to enter, and the train in progress. -/
structure RxStream where
  sdev  : Nat
  win   : Nat
  sten  : Nat
  /-- the number of the restart it goes on from, by which a repetition of that is known (log entry 34) -/
  epoch : Nat
  next  : Nat
  queue : List RxItem
  /-- elements of the train being received that have arrived, and the index of its first refused one -/
  arrived : Nat
  refused : Option Nat
  /-- the number of the train that is entering, and how many of its elements have entered -/
  train   : Nat
  entered : Nat
  deriving DecidableEq, Repr

/-- The sending end of a stream (R317, R318). -/
structure TxStream where
  ddev  : Nat
  win   : Nat
  sten  : Nat
  /-- how often it has restarted -/
  epoch : Nat
  seq   : Nat
  /-- messages sent and not acknowledged, oldest first -/
  unacked : List RMsg
  /-- ns since the last progress, and since the last resend -/
  idleNs  : Nat
  resendNs : Nat
  deriving DecidableEq, Repr

/-! ## Diversion (07) -/

/-- A slot of an operand that an entry will supply: the entry, where the slot lies in its element, and where in the operand. -/
structure OPart where
  id  : Nat
  src : Nat
  pos : Nat
  deriving DecidableEq, Repr

/-- An operand of a diversion entry: its bits, or the entry that will supply it, with the fault it took (R178, R186). -/
inductive DOp where
  | val (b : Word)
  | link (id : Nat)
  /-- elements of another width will supply some of its slots: the bits that stand, the cause of one that has faulted, 0 for none, and
  the slots to come -/
  | parts (b : Word) (cause : Nat) (ps : List OPart)
  | faulted (b : Word) (cause : Nat)
  | absent
  deriving DecidableEq, Repr

/-- Where a diversion entry's element lives: register values by number, or the value that the instruction at an address is building
(R177). -/
inductive DDst where
  | reg (v : Nat)
  | staging (pc : Word)
  | lost
  deriving DecidableEq, Repr

/-- An entry of a cluster's diversion queue (R178). -/
structure DivEntry where
  id      : Nat
  strand  : StrandId
  tenant  : Nat
  dst     : DDst
  elem    : Nat
  /-- a Table 7.5 operation code -/
  op      : Nat
  /-- the format the operation reads, and the format of the element it writes -/
  fmt     : Nat
  dfmt    : Nat
  rm      : Nat
  fz      : Bool
  sat     : Bool
  a       : DOp
  b       : DOp
  c       : DOp
  /-- a DEPENDENT element's entry -/
  replay  : Bool
  app     : Option VApp
  /-- a thaw thread serves it -/
  taken   : Bool
  /-- the bits of the element that no later instruction has written (R177) -/
  live    : Nat
  /-- the values kept aside that hold the element, by the address of their instruction, and the bits of it they hold (R140) -/
  kept    : List (Word × Nat)
  deriving DecidableEq, Repr

/-! ## Clusters and power (19) -/

/-- Settings of the four controls (Table 19.1). -/
structure Settings where
  vln : Nat
  lsu : Nat
  iss : Nat
  frq : Nat
  deriving DecidableEq, Repr

/-- The part in the current energy window of a strand that has left its cluster (R395): its tenant, its launch, and what it issued;
`gone` tells the strands of an ended task from those of a later one that its id names (the model's own field). -/
structure Share where
  id     : StrandId
  tenant : Nat
  lid    : Nat
  issued : Nat
  gone   : Option Nat
  deriving DecidableEq, Repr

/-- A cluster: its diversion queue, slots and throttle state. -/
structure Cluster where
  num     : Nat
  div     : List DivEntry
  /-- strands whose element group waits for entries, in the order they reached issue (R179) -/
  divWait : List StrandId
  slots   : List Slot
  /-- TCTL as written, and as in force (R390) -/
  tctl    : Word
  tctlOn  : Word
  /-- sticky reasons TRS, bits 4:0 (R393) -/
  trs     : BitVec 5
  /-- when that TCTL takes effect at the latest, in ns (R390) -/
  tctlBy  : Option Nat
  /-- effective settings (R385) -/
  eff     : Settings
  /-- for how many ns each control has been held above what the requests allow, since its last step (R386) -/
  held    : Settings
  /-- strands that have left in the current energy window -/
  left    : List Share
  /-- junction trip and over-current trip in force (R388) -/
  thm     : Bool
  cur     : Bool
  /-- the clock setting in use (R381) -/
  clock   : Nat
  /-- the regulator in use, and whether a switch is pending (R380) -/
  vr      : Nat
  switching : Bool
  resetting : Bool
  deriving DecidableEq, Repr

/-! ## Tenants (22, 23) -/

/-- A tenant: the per-tenant CSRs of chapters 07, 17, 19, 22 and 23, its receive windows and its counters. -/
structure Tenant where
  num    : Nat
  en     : Bool
  vmid   : Nat
  part0  : Word
  part1  : Word
  s2base : Word
  rootpc : Word
  /-- memory windows MWB, MWL, 16 of them -/
  mws    : List (Word × Word)
  tvec   : Word
  errb   : Word
  errh   : Word
  errt   : Word
  tie    : Word
  tipSoft : Bool
  thawb  : Word
  thawn  : Nat
  pmarg  : Nat
  pswa   : Word
  pswSeq : Nat
  deriving DecidableEq, Repr

/-- The rest of a tenant: budgets, windows, ids. -/
structure TenantX where
  num     : Nat
  rwins   : List RWin
  budget  : Nat
  pmeas   : Nat
  /-- throttle steps of the budget controller (R387) -/
  steps   : Nat
  /-- nJ attributed in the current 1 ms window, and in the last one if PMEAS has not been brought up to date (R387) -/
  energy  : Nat
  window  : Option Nat
  /-- a 100 µs interval has ended that the budget controller has not acted on -/
  budgetDue : Bool
  /-- active reasons or VLN have changed since the last power status word: when it is written at the latest, in ns (R394) -/
  pswDue  : Option Nat
  /-- how often the leaf of its page has been read again, and when it was last read (R413) -/
  pswMig  : Nat × Nat
  /-- when the power status word was last written, in ns -/
  pswAt   : Option Nat
  nextLid : Nat
  nextGid : Nat
  frozen  : List Nat
  resetting : Bool
  deriving DecidableEq, Repr

/-- A cached translation (R415-R417). -/
structure TlbEnt where
  id    : Nat
  vmid  : Nat
  asid  : Nat
  glob  : Bool
  /-- virtual page base and size of the smaller page -/
  va    : Nat
  size  : Nat
  /-- stage-1 leaf page base and size, stage-2 leaf page base (IPA) and size -/
  s1size : Nat
  ipa   : Nat
  s2size : Nat
  loc   : Loc
  r     : Bool
  w     : Bool
  x     : Bool
  u     : Bool
  /-- the D bits of its leaves are set (R413) -/
  dirty : Bool
  /-- an invalidation has been started on it (R415) -/
  dying : Bool
  /-- it has left the caches; its number stays known while a pin or an access under way uses its page (R416) -/
  gone  : Bool
  /-- the caches whose agents no longer use it: they have dropped it, or a later one has taken its place there (R417) -/
  out   : List Nat
  /-- the strands that no longer use it: they come from a cache that does not hold it (R417) -/
  barred : List StrandId
  deriving DecidableEq, Repr

/-- A merge network of an octet (R14, R239). -/
structure MergeNet where
  bound   : Option StrandId
  waiters : List StrandId
  deriving DecidableEq, Repr

/-! ## The device (19, 22, 23) -/

/-- An entry of an MSI-X table (R420). -/
structure MsixEnt where
  port    : Port
  num     : Nat
  addr    : Word
  data    : BitVec 32
  masked  : Bool
  pending : Bool
  deriving DecidableEq, Repr

/-- HSEM (Table 22.3). -/
structure HSem where
  owner : Nat
  rem   : Nat
  discA : Bool
  discB : Bool
  deriving DecidableEq, Repr

/-- An entry of the route table as the hub last read it (Table 22.8). -/
structure Route where
  dev   : Nat
  valid : Bool
  tenm  : BitVec 32
  krt   : Bool
  links : Nat
  ip6   : BitVec 128
  deriving DecidableEq, Repr

/-- Selectors and the plain H-level CSRs (Tables 22.2, 23.4; R387, R393, R315). -/
structure HCsr where
  tnsel  : Nat
  mwsel  : Nat
  pbsel  : Nat
  trssel : Nat
  vdmap  : Vector Word 4
  devid  : BitVec 16
  rtbase : Word
  csp0b  : Word
  csp0l  : Word
  csp1b  : Word
  csp1l  : Word
  eccc   : Word
  dumpa  : Word
  /-- a dump in progress: first record, die, count (R439) -/
  dump   : Option (Nat × Nat × Nat)
  /-- clusters being reset -/
  crst   : List Nat
  /-- HINV requests not finished (R416) -/
  hinvs  : List Nat
  hsem   : HSem
  deriving DecidableEq, Repr

/-- One thermal sensor (R391). -/
structure Sensor where
  num   : Nat
  valid : Bool
  temp  : BitVec 16
  /-- when it was last sampled, in ns -/
  at'   : Nat
  deriving DecidableEq, Repr

/-- The M-level CSRs of the power controller (Table 19.3). -/
structure MCsr where
  tsel   : Nat
  talrt  : BitVec 16
  tap    : BitVec 64
  mtick  : BitVec 32
  /-- µs into the current tick period -/
  tickUs : Nat
  mie    : BitVec 3
  /-- MIP bits 2:1 -/
  mip    : BitVec 2
  upd    : Bool
  /-- the watchdog: running, µs since the last WDOG write, expired -/
  wdogOn : Bool
  wdogUs : Nat
  /-- the 8 ms of the present count have been reported -/
  wdogWarned : Bool
  wdogExpired : Bool
  sensors : List Sensor
  /-- regulators tripped (R388) -/
  vrTrip : List Nat
  /-- when each of them last tripped (R388) -/
  vrAt : List (Nat × Nat)
  deriving DecidableEq, Repr

/-- An image that the boot path is offered (R422), by the number of its measurement: 1 the management-core firmware, 2 the
power-controller firmware, 3 the thaw handlers. `start` is the address of that symbol in the first (R399). -/
structure Image where
  num   : Nat
  bytes : List Byte
  start : Word
  key   : List Byte
  sig   : List Byte
  deriving DecidableEq, Repr

/-- The signing algorithm of SPDM answers, and their hash (R422). -/
inductive SignAlg where
  | mlDsa65
  deriving DecidableEq, Repr

inductive HashAlg where
  | shake256
  deriving DecidableEq, Repr

/-- What R422 says of an SPDM answer. -/
inductive SpdmFact where
  /-- the only algorithms -/
  | algorithms (sign : SignAlg) (hash : HashAlg)
  /-- the certificate slot whose chain it gives, or the digest of which -/
  | slot (n : Nat)
  | measurement (num : Nat) (digest : List Byte)
  /-- it is signed with the device identity key -/
  | signed (alg : SignAlg)
  deriving DecidableEq, Repr

/-- What the device has sent outside, oldest first: MSI-X messages, SPDM answers, remote messages (R420, R422, R317). -/
inductive OutMsg where
  | msix (p : Port) (num : Nat) (addr : Word) (data : BitVec 32)
  | spdm (p : Port) (code : Nat) (facts : List SpdmFact) (body : List Nat)
  | remote (m : RMsg)
  | hostRead (p : Port) (v : Word)
  | memData (p : Port) (bytes : List Byte) (poison : Bool)
  deriving DecidableEq, Repr

/-- Who translates: the tenant, the roots, the level, and the task whose local window is meant (R411). -/
structure XCtx where
  tenant : Nat
  s1root : Word
  asid   : Nat
  user   : Bool
  tid    : Option Nat
  /-- whose translation cache it looks in: its cluster's, or the hub's (R415) -/
  cache  : Nat
  /-- the strand it is for, if it is for one -/
  who    : Option StrandId
  deriving DecidableEq, Repr

/-- An error entry (Table 23.6). -/
structure ErrEnt where
  kind  : Nat
  cause : Nat
  clu   : Nat
  tid   : Nat
  lid   : Nat
  pc    : Word
  addr  : Word
  info  : Nat
  deriving DecidableEq, Repr

/-- A write the machine makes at a virtual address. -/
inductive PWrite where
  /-- a completion record, under the translation of its launch or graph (R342, R346) -/
  | bytes (c : XCtx) (va : Word) (bs : List Byte)
  /-- a stamp, under the same (R307, R342) -/
  | stamp (c : XCtx) (va stv : Word)
  /-- the dword at a task's FRAME, a store of the task with its leases (R354) -/
  | frame (c : XCtx) (ls : Option (List Lease)) (va : Word) (v : Nat)
  /-- an error entry, under the translation of the tenant's root task, once the record it names has reached system visibility, whose
  parts are given (R437) -/
  | ring (tn : Nat) (e : ErrEnt) (after : List (Loc × Nat))
  /-- ERRH counts the entry that has been written (R437) -/
  | count (tn : Nat)
  /-- the message of TIE for it (R437, R420) -/
  | message (tn : Nat)
  /-- a launch node learns that its launch has completed, and how: its record and stamp stand (R346) -/
  | node (tn gid i : Nat) (ok : Bool)
  deriving DecidableEq, Repr

/-- Writes of the machine, in order, each a move of its own. The first waits for a record that it names (R437), or for a page that
migrates: how often that leaf has been read again, and when it was last read, if it has been (R413). -/
structure Post where
  todo  : List PWrite
  tries : Nat
  at'   : Option Nat
  deriving DecidableEq, Repr

/-- An addition at memory that is due (R103, R283). -/
inductive AddSrc where
  /-- element n of a strand's train `tr` -/
  | elem (t : StrandId) (tr n : Nat)
  /-- an AMO that a strand has gone past, by its place in program order -/
  | past (t : StrandId) (ord : Nat)
  /-- the AMO or the `vfas` that a strand waits in -/
  | wait (t : StrandId)
  /-- the remote addition that a stream from another device enters next -/
  | stream (sdev win sten : Nat)
  /-- a remote atomic request -/
  | request (m : RMsg)
  deriving DecidableEq, Repr

/-- How the additions of one move are summed (R103): the word in memory, an addition by its number, or the rounded sum of two
trees. -/
inductive ATree where
  | word
  | leaf (k : Nat)
  | node (l r : ATree)
  deriving DecidableEq, Repr

/-- Device-wide state. -/
structure Dev where
  /-- TIME, ns since cold reset (R31) -/
  time    : Nat
  /-- the address of `start` in the management core's image, which comes with the image (R399) -/
  start   : Word
  /-- the images offered to the boot path, and those that it accepted at the last reset (R422) -/
  offered : List Image
  images  : List Image
  /-- the management clock's cycles since start (R447) is the management core's CYCLE -/
  tseq    : BitVec 64
  h       : HCsr
  m       : MCsr
  routes  : List Route
  /-- where each port's HDM decoder shows HBM and BKM, in host-physical addresses, once the host has programmed it (R408) -/
  hdm     : List (Port × Nat)
  msix    : List MsixEnt
  out     : List OutMsg
  /-- messages to this device itself that have not arrived (R315) -/
  inbox   : List RMsg
  rx      : List RxStream
  tx      : List TxStream
  nets    : List (Nat × MergeNet)
  edges   : List Edge
  /-- flips that travel to a neighbour on another die than the edge store, oldest first (R368) -/
  flips   : List FlipMsg
  /-- the last winner per die and priority level (R355): die, level, tenant -/
  winners : List (Nat × Nat × Nat)
  /-- resets since power-on (R422) -/
  boots   : Nat
  /-- writes of the machine that wait (R413, R437) -/
  posts   : List Post
  /-- regulators whose 10 µs energy window has ended and is not shared out yet (R395) -/
  windows : List Nat
  /-- counters: copies, trains, entries, cached translations, dispatches -/
  nextUid : Nat
  /-- how many free values have been drawn (the model's own field) -/
  free    : Nat
  deriving DecidableEq, Repr

/-- The image in use under a number, and its bytes: none before one has been accepted (R422). -/
def Dev.image? (d : Dev) (k : Nat) : Option Image := d.images.find? (fun i => i.num == k)
def Dev.imageBytes (d : Dev) (k : Nat) : List Byte := match d.image? k with | some i => i.bytes | none => []

end Sys2Proof.Machine
end

