-- ==== Sys2Proof/Machine/State.lean ====
section
/-! DEFINITION. The machine's state, all of it plain data, the reasons a step can stop, and the state after a cold
reset. INVENTORY.md lists every field with the rule of spec/ that names it and its reset value. -/

namespace Sys2Proof.Machine

/-- The faults: reasons the machine stops. -/
inductive Fault where
  /-- the agenda names an instruction with an encoding as if it were an event: raised by `step`; safe (the agenda is
  the model's own field, and such an agenda stands for no run of the part) -/
  | notAnEvent
  deriving DecidableEq, Repr

/-- The refusals: no meaning given. -/
inductive Refusal where
  /-- raised by the arm of `exec` of an instruction that has no meaning yet; safe (nothing is claimed of it) -/
  | notModelled (mnemonic : String)
  deriving DecidableEq, Repr

/-- One move of the device: which agent goes next is not fixed by the spec (R275), so the agenda says it. -/
inductive Move where
  /-- an event row of the opcode table takes place -/
  | event (e : Late)
  /-- a strand issues its next instruction, or its interrupt is taken -/
  | issue (t : StrandId)
  /-- wall-clock time passes -/
  | elapse (ns : Nat)
  /-- a strand's instruction memory takes up the word that stands at `pc` now, for its next fetch from there (R73) -/
  | stale (t : StrandId) (pc : Word)
  /-- the next fetch of a strand from `pc` returns the k-th word that its instruction memory has taken up there (R73) -/
  | hand (t : StrandId) (pc : Word) (k : Nat)
  /-- a cached translation is dropped, everywhere (R413) -/
  | evict (id : Nat)
  /-- one cache drops a translation (R415, R417) -/
  | miss (id cache : Nat)
  /-- a pre-emption arrives during the strand's next `mgpull`, which ends after `rows` more rows (R241) -/
  | pause (t : StrandId) (rows : Nat)
  /-- the next scalar load of a strand to a register, or its next AMO or `vfas`, performs after it has completed, or is put off
  once; so is a multiply (R103, R209, R275, R279) -/
  | late (t : StrandId)
  /-- a load that comes later in a strand's program order reads n bytes now, of the scalar or the vector side (R275, R279) -/
  | early (t : StrandId) (vec : Bool) (l : Loc) (n : Nat)
  /-- a strand goes past what it waits in, where only some moves of later entries wait for that (R275, R279, R282) -/
  | pass (t : StrandId)
  /-- several additions to one location happen at once, summed as a tree (R103, R283) -/
  | combine (es : List AddSrc) (tree : ATree)
  /-- what the k-th list of the machine's writes waits for is looked at again (R413, R437) -/
  | post (k : Nat)
  /-- the next flip of a task whose end of a firing is being carried out (R367) -/
  | flip (tid : Nat)
  /-- a released graph node begins its work (R346) -/
  | start (tn gid i : Nat)
  /-- the engine of copy u reads byte i of the source of its transfer n (R310) -/
  | grab (u n i : Nat)
  /-- byte k of transfer n of copy u enters at target t (R288, R310) -/
  | put (u n t k : Nat)
  /-- the built-in handler that thaw thread k of cluster c runs fills its entry (R183, R247) -/
  | fill (c k : Nat)
  /-- a host programs a port's HDM decoder (R408) -/
  | hdm (p : Port) (base : Nat)
  /-- the boot path is offered an image (R422) -/
  | image (i : Image)
  deriving DecidableEq, Repr

/-- The whole device. -/
structure State where
  /-- the strand whose turn it is: every instruction acts on it -/
  cpu      : Strand
  /-- every other strand, resident or saved -/
  others   : List Strand
  /-- the moves to come, first first; empty: the cpu issues, and everything that is due follows (the model's own field) -/
  agenda   : List Move
  /-- words that strands' instruction memories have taken up, and from where: a later fetch there may return one (R73) -/
  stales   : List Stale
  /-- pre-emptions that arrive during the next `mgpull` of a strand, with the rows it still completes (R241) -/
  pauses   : List (StrandId × Nat)
  /-- HBM and BKM by physical address: canonical, unlisted bytes read 0 (R440) -/
  mem      : List Host.Cell
  /-- host memory over CXL, by host physical address -/
  hostMem  : List Host.Cell
  /-- the management core's memory (R399) -/
  fwMem    : List Host.Cell
  /-- writes that have entered and are not yet settled, in coherence order (R274) -/
  log      : List WRec
  /-- poisoned aligned 8-byte words of device memory (R434) -/
  poison   : List Nat
  /-- those of host memory, as L1 holds them (R254, R434) -/
  hostPoison : List Nat
  /-- the spill areas of the open merge contexts (R238) -/
  spills   : List Spill
  tasks    : List Task
  launches : List Launch
  graphs   : List Graph
  copies   : List Copy
  clusters : List Cluster
  tenants  : List Tenant
  tenantsX : List TenantX
  tlb      : List TlbEnt
  dev      : Dev
  deriving DecidableEq, Repr

/-! ## Reset values -/

/-- A vector register of zero bits: every element PRESENT, every group landed (R338). -/
def VVal.zero : VVal :=
  { bits := 0, tag := 0, scale := 0, special := 0, pres := 0, landed := 0xFF, pend := [], poison := 0, lord := Vector.replicate 8 0 }

/-- An empty sparse register (R222). -/
def SvVal.zero : SvVal := { pairs := [], tag := 0, ov := false, stop := 0 }

/-- A tile of kind ZERO, clean (R197, R199). -/
def Tile.zero : Tile := { kind := .zero, bits := 0, dirty := false, poison := 0 }

/-- Every register zero, m0 all ones (R25, R338). -/
def RegFile.zero : RegFile :=
  { s := Vector.replicate 32 0, v := Vector.replicate 32 VVal.zero,
    m := (Vector.replicate 8 (0 : BitVec 1024)).set 0 (BitVec.allOnes 1024),
    sv := Vector.replicate 8 SvVal.zero, sPoison := 0, mPoison := 0, svPoison := 0 }

/-- An inactive loop. -/
def LoopReg.zero : LoopReg := { lc := 0, ls := 0, le := 0, vl := false }

/-- The control registers at a first dispatch at `pc` and `level` (R29, R31). -/
def Ctl.start (pc : Word) (level : Lvl) : Ctl :=
  { pc := pc, level := level, mr := 0, vl := 0, vstart := 0, sc := 0, lp0 := .zero, lp1 := .zero,
    fflags := 0, amoplace := 0, cycle := 0 }

/-- Trap state at a first dispatch (R426). -/
def TrapSt.zero : TrapSt :=
  { tcause := 0, tepc := 0, tval := 0, tstatus := 0, tscratch := 0, s1root := 0, asid := 0, tvecM := 0 }

/-- R293, R309, R351, R263 at a first dispatch. -/
def Extra.zero : Extra :=
  { dm := Vector.replicate 6 { ext := 1, ss := 0, ds := 0 }, monitor := none, steal := [], nextCopy := 1,
    copies := [], merge := none, faultSeq := 0, rfail := none, bars := List.replicate 6 0, barIssued := [] }

/-- No access outstanding. -/
def MemSt.zero : MemSt :=
  { loads := [], late := false, amos := [], vfas := [], supplies := [], fences := [], alus := [], early := [],
    dep := Vector.replicate 32 0, vdep := Vector.replicate 32 0, pob := [], ssb := [], trains := [], cont := [], rtrains := [], sv := none, rorder := 0, invs := [] }

/-- Nothing charged. -/
def Usage.zero : Usage := { cyc := 0, thm := 0, cur := 0, slw := 0, cap := 0, rel := 0, ns := 0, issued := 0, energy := 0 }

/-- Nothing charged. -/
def Charges.zero : Charges := { cyc := 0, thm := 0, cur := 0, slw := 0, cap := 0, rel := 0, ns := 0, energy := 0 }

/-- Empty queues. -/
def Queues.zero : Queues := { vq0 := [], vq1 := [], vq2 := [], vq3 := [], sq0 := [], sq1 := [], rq := [], bq := [] }

/-- A task of vane group g that has not fired (R363). -/
def VaneSt.start (g : Nat) : VaneSt :=
  { group := g, firing := false, ending := false, idles := false, released := false, flips := [], fire := 0, idle := 0, ln := 0 }

/-- No vane group. -/
def VaneSt.zero : VaneSt := .start 0

/-- A strand of its first-dispatch state (R338). -/
def Strand.start (id : StrandId) (tenant cluster : Nat) (pc : Word) (level : Lvl) : Strand :=
  { id := id, tenant := tenant, cluster := cluster, resid := .on, ctl := .start pc level, regs := .zero, trap := .zero,
    ext := .zero, mem := .zero, wait := none, ir := none, staging := [], serves := none, usage := .zero }

/-- Unthrottled (Table 19.1). -/
def Settings.free : Settings := { vln := 7, lsu := 0, iss := 0, frq := 40 }

/-- A cluster after reset (Table 19.3). -/
def Cluster.fresh (n : Nat) : Cluster :=
  { num := n, div := [], divWait := [], slots := [], tctl := 0x28007, tctlOn := 0x28007, tctlBy := none, trs := 0, eff := .free, held := ⟨0, 0, 0, 0⟩, left := [], thm := false, cur := false,
    clock := 40, vr := 0, switching := false, resetting := false }

/-- A tenant that does not exist, with every CSR at reset (Tables 22.2, 23.2; R194, R356, R394). -/
def Tenant.fresh (n : Nat) : Tenant :=
  { num := n, en := false, vmid := 0, part0 := 0, part1 := 0, s2base := 0, rootpc := 0, mws := List.replicate 16 (0, 0),
    tvec := 0, errb := 0, errh := 0, errt := 0, tie := 0, tipSoft := false, thawb := 0, thawn := 0, pmarg := 16,
    pswa := 0, pswSeq := 0 }

/-- The rest of such a tenant. -/
def TenantX.fresh (n : Nat) : TenantX :=
  { num := n, rwins := [], budget := 0, pmeas := 0, steps := 0, energy := 0, window := none, budgetDue := false, pswDue := none, pswMig := (0, 0), pswAt := none, nextLid := 1, nextGid := 1, frozen := [],
    resetting := false }

/-- The H-level CSRs after reset (Tables 15.1, 22.2, 22.3, 23.4). -/
def HCsr.reset : HCsr :=
  { tnsel := 0, mwsel := 0, pbsel := 0, trssel := 0, vdmap := Vector.replicate 4 0, devid := 0xFFFF, rtbase := 0,
    csp0b := 0, csp0l := 0, csp1b := 0, csp1l := 0, eccc := 0, dumpa := 0, dump := none, crst := [], hinvs := [],
    hsem := { owner := 0, rem := 0, discA := false, discB := false } }

/-- The M-level CSRs after reset (Table 19.3); the watchdog counts from the first fetch at `start` (R389). -/
def MCsr.reset : MCsr :=
  { tsel := 0, talrt := 0x0550, tap := 0, mtick := 0, tickUs := 0, mie := 0, mip := 0, upd := false, wdogOn := true,
    wdogUs := 0, wdogWarned := false, wdogExpired := false, sensors := [], vrTrip := [], vrAt := [] }

/-- The device after a cold reset (R440). -/
def Dev.reset : Dev :=
  { time := 0, start := 0, offered := [], images := [], tseq := 0, h := .reset, m := .reset, routes := [], hdm := [], msix := [], out := [], inbox := [], rx := [], tx := [], nets := [],
    edges := [], flips := [], winners := [], posts := [], windows := [], boots := 1, nextUid := 1, free := 0 }

/-- The cluster number of the management core: none has it, for the core lies in no cluster, octet or die (Table 12.1). -/
def noCluster : Nat := 128

/-- The management core as it begins at the address of `start`, at M (R399). -/
def Strand.boot (start : Word) : Strand := .start .mgmt 0 noCluster start .m

/-- The machine right after a cold reset (R440): memory reads as zero, every CSR is at its reset value, no tenant
exists, and the management core begins at `start` (R399).
DESIGN CHOICE, log entry 2: no image is loaded, and `start` of none is taken as 0. -/
def State.reset : State :=
  { cpu := .boot 0, others := [], agenda := [], stales := [], pauses := [], mem := [], hostMem := [], fwMem := [], log := [], poison := [], hostPoison := [], spills := [],
    tasks := [], launches := [], graphs := [], copies := [], clusters := [], tenants := [], tenantsX := [], tlb := [],
    dev := .reset }

end Sys2Proof.Machine
end

