-- ==== Sys2Proof/Machine/Access.lean ====
section
/-! DEFINITION. Reading and replacing the parts of the state: one accessor per part, used by every meaning. -/

namespace Sys2Proof.Machine

/-- The outcome of a step. -/
abbrev Out := Host.Outcome State Fault Refusal

/-- Replaces the first element that satisfies p. -/
def replaceFirst {α : Type} (p : α → Bool) (f : α → α) : List α → List α
  | [] => []
  | x :: xs => if p x then f x :: xs else x :: replaceFirst p f xs

/-- Replaces the first element that satisfies p, or appends. -/
def upsert {α : Type} (p : α → Bool) (y : α) : List α → List α
  | [] => [y]
  | x :: xs => if p x then y :: xs else x :: upsert p y xs

/-! ## The cpu strand -/

namespace State

def withCpu (s : State) (f : Strand → Strand) : State := { s with cpu := f s.cpu }
def withCtl (s : State) (f : Ctl → Ctl) : State := { s with cpu := { s.cpu with ctl := f s.cpu.ctl } }
def withRegs (s : State) (f : RegFile → RegFile) : State := { s with cpu := { s.cpu with regs := f s.cpu.regs } }
def withTrap (s : State) (f : TrapSt → TrapSt) : State := { s with cpu := { s.cpu with trap := f s.cpu.trap } }
def withExt (s : State) (f : Extra → Extra) : State := { s with cpu := { s.cpu with ext := f s.cpu.ext } }
def withMem (s : State) (f : MemSt → MemSt) : State := { s with cpu := { s.cpu with mem := f s.cpu.mem } }
def withDev (s : State) (f : Dev → Dev) : State := { s with dev := f s.dev }
def withH (s : State) (f : HCsr → HCsr) : State := { s with dev := { s.dev with h := f s.dev.h } }
def withM (s : State) (f : MCsr → MCsr) : State := { s with dev := { s.dev with m := f s.dev.m } }
/-- The cpu strand waits; its pc stays. -/
def waitFor (s : State) (w : Wait) : State := { s with cpu := { s.cpu with wait := some w } }
def pc (s : State) : Word := s.cpu.ctl.pc
def setPc (s : State) (a : Word) : State := s.withCtl (fun c => { c with pc := a })
/-- A fresh number. -/
def fresh (s : State) : Nat × State := (s.dev.nextUid, s.withDev (fun d => { d with nextUid := d.nextUid + 1 }))
/-- A free value (log entry 1). -/
def freeWord (s : State) : Word × State :=
  (Config.freeWord s.dev.free, s.withDev (fun d => { d with free := d.free + 1 }))

/-! ## Strands -/

/-- Every strand. -/
def strands (s : State) : List Strand := s.cpu :: s.others

def strand? (s : State) (t : StrandId) : Option Strand :=
  if s.cpu.id = t then some s.cpu else s.others.find? (fun x => x.id == t)

/-- Changes a strand wherever it is. -/
def modStrand (s : State) (t : StrandId) (f : Strand → Strand) : State :=
  if s.cpu.id = t then { s with cpu := f s.cpu } else { s with others := replaceFirst (fun x => x.id == t) f s.others }

/-- Changes every strand. -/
def modStrands (s : State) (f : Strand → Strand) : State := { s with cpu := f s.cpu, others := s.others.map f }

/-- Makes strand t the cpu; the old cpu joins the others, at the end. -/
def focus (s : State) (t : StrandId) : State :=
  if s.cpu.id = t then s
  else match s.others.find? (fun x => x.id == t) with
    | some x =>
      let rest := s.others.filter (fun y => y.id != t)
      { s with cpu := x, others := rest ++ [s.cpu] }
    | none => s

/-- The cpu strand is no more: the first strand left that holds a context is the cpu, else the first one. -/
def leave (s : State) : State :=
  match s.others.find? (fun x => x.resid == .on), s.others with
  | some x, _ => { s with cpu := x, others := s.others.filter (fun y => y.id != x.id) }
  | none, x :: xs => { s with cpu := x, others := xs }
  | none, [] => { s with cpu := { s.cpu with resid := .ended, wait := none } }

/-! ## Tasks and launches -/

def task? (s : State) (tid : Nat) : Option Task := s.tasks.find? (fun t => t.tid == tid)
def setTask (s : State) (t : Task) : State := { s with tasks := replaceFirst (fun x => x.tid == t.tid) (fun _ => t) s.tasks }
def modTask (s : State) (tid : Nat) (f : Task → Task) : State :=
  { s with tasks := replaceFirst (fun x => x.tid == tid) f s.tasks }
def launch? (s : State) (tn lid : Nat) : Option Launch := s.launches.find? (fun l => l.tenant == tn && l.lid == lid)
def modLaunch (s : State) (tn lid : Nat) (f : Launch → Launch) : State :=
  { s with launches := replaceFirst (fun l => l.tenant == tn && l.lid == lid) f s.launches }
def graph? (s : State) (tn gid : Nat) : Option Graph := s.graphs.find? (fun g => g.tenant == tn && g.gid == gid)
def modGraph (s : State) (tn gid : Nat) (f : Graph → Graph) : State :=
  { s with graphs := replaceFirst (fun g => g.tenant == tn && g.gid == gid) f s.graphs }

/-! ## Clusters and tenants: one that is not listed is at its reset values -/

def cluster (s : State) (c : Nat) : Cluster := (s.clusters.find? (fun x => x.num == c)).getD (.fresh c)
def setCluster (s : State) (c : Cluster) : State := { s with clusters := upsert (fun x => x.num == c.num) c s.clusters }
def modCluster (s : State) (c : Nat) (f : Cluster → Cluster) : State := s.setCluster (f (s.cluster c))
def ten (s : State) (n : Nat) : Tenant := (s.tenants.find? (fun x => x.num == n)).getD (.fresh n)
def setTen (s : State) (t : Tenant) : State := { s with tenants := upsert (fun x => x.num == t.num) t s.tenants }
def modTen (s : State) (n : Nat) (f : Tenant → Tenant) : State := s.setTen (f (s.ten n))
def tenX (s : State) (n : Nat) : TenantX := (s.tenantsX.find? (fun x => x.num == n)).getD (.fresh n)
def setTenX (s : State) (t : TenantX) : State := { s with tenantsX := upsert (fun x => x.num == t.num) t s.tenantsX }
def modTenX (s : State) (n : Nat) (f : TenantX → TenantX) : State := s.setTenX (f (s.tenX n))

end State

/-! ## Who a strand is -/

/-- The strand whose task, translation and order an access belongs to: a thaw thread acts for its entry's strand (R292). -/
def Strand.actsFor (s : State) (x : Strand) : StrandId :=
  match x.id, x.serves with
  | .thaw c _, some e =>
    match (s.cluster c).div.find? (fun d => d.id == e) with
    | some d => d.strand
    | none => x.id
  | i, _ => i

/-- The task a strand belongs to. -/
def taskOf (s : State) (x : Strand) : Option Task :=
  match x.actsFor s with
  | .task tid _ => s.task? tid
  | _ => none

/-- The record number a strand id names; none for the management core and thaw threads. -/
def tidOf : StrandId → Option Nat
  | .task tid _ => some tid
  | _ => none

/-- Whether the strand belongs to the task. -/
def isOfTask (i : StrandId) (tid : Nat) : Bool := tidOf i == some tid

/-- A strand's part in its task (R16). -/
inductive Role where
  | single | a | e
  deriving DecidableEq, Repr

/-- A strand of a decoupled pair sees queue ports (R16); thaw threads do not. -/
def roleOf (s : State) (x : Strand) : Role :=
  match x.id with
  | .task tid e =>
    match s.task? tid with
    | some t => if t.dual then (if e then .e else .a) else .single
    | none => .single
  | _ => .single

/-- Whether a strand holds leases: a root task and the management core hold none and skip the check (R333, R399). -/
def leasesOf (s : State) (x : Strand) : Option (List Lease) :=
  match taskOf s x with
  | some t => if t.kind == .root then none else some t.leases
  | none => none

/-- The level order U < K < H < M (R30). -/
def Lvl.rank : Lvl → Nat | .u => 0 | .k => 1 | .h => 2 | .m => 3

/-- A pc or an address of 57 bits in a 64-bit register, and such. -/
def bitsOf (w : Word) (hi lo : Nat) : Nat := w.toNat / 2 ^ lo % 2 ^ (hi + 1 - lo)

/-- The bytes of a number, lowest first (R6). -/
def leBytes (n v : Nat) : List Byte := (List.range n).map (fun i => BitVec.ofNat 8 (v / 2 ^ (8 * i)))

/-- The number some bytes hold, lowest first (R6). -/
def leNat : List Byte → Nat
  | [] => 0
  | b :: bs => b.toNat + 256 * leNat bs

end Sys2Proof.Machine
end

