-- ==== Sys2Proof/Machine/Mem.lean ====
section
/-! DEFINITION. Memory: the canonical cells, the coherence order of writes that have not settled, and what an agent reads
(R252, R274 to R277). -/

namespace Sys2Proof.Machine

/-! ## Cells -/

namespace Memory

/-- The canonical form: addresses strictly rise and no listed byte is 0, which is what an unlisted address reads as. -/
def wf (m : List Host.Cell) : Bool := m.all (fun c => c.2 != 0) && decide (m.Pairwise (fun a b => a.1 < b.1))

/-- One byte; memory reads as zero after a cold reset (R440). -/
def get : List Host.Cell → Nat → Byte
  | [], _ => 0
  | c :: cs, a => if c.1 = a then c.2 else get cs a

/-- The cells of some bytes from an address: zero bytes are not listed. -/
def cells : Nat → List Byte → List Host.Cell
  | _, [] => []
  | a, b :: bs => if b = 0 then cells (a + 1) bs else (a, b) :: cells (a + 1) bs

/-- Writes bytes at an address. -/
def write (m : List Host.Cell) (a : Nat) (bs : List Byte) : List Host.Cell :=
  m.filter (fun c => c.1 < a) ++ (cells a bs ++ m.filter (fun c => a + bs.length ≤ c.1))

/-- n bytes from an address. -/
def read (m : List Host.Cell) (a n : Nat) : List Byte :=
  let sub := m.filter (fun c => a ≤ c.1 && c.1 < a + n)
  (List.range n).map (fun i => get sub (a + i))

end Memory

/-! ## Locations -/

/-- The location i bytes on. -/
def Loc.add : Loc → Nat → Loc
  | .dev a, i => .dev (a + i)
  | .host a, i => .host (a + i)
  | .spad t o, i => .spad t (o + i)
  | .fw a, i => .fw (a + i)
  | .remote d w o, i => .remote d w (o + i)
  | .image a, i => .image (a + i)

/-- How far b lies past a, in one space. -/
def Loc.past (a b : Loc) : Option Nat :=
  let go (x y : Nat) : Option Nat := if x ≤ y then some (y - x) else none
  match a, b with
  | .dev x, .dev y => go x y
  | .host x, .host y => go x y
  | .spad t x, .spad u y => if t = u then go x y else none
  | .fw x, .fw y => go x y
  | .remote d w x, .remote e v y => if d = e ∧ w = v then go x y else none
  | .image x, .image y => go x y
  | _, _ => none

/-- Byte l of a write of bytes bs at loc. -/
def byteIn (loc : Loc) (bs : List Byte) (l : Loc) : Option Byte :=
  match loc.past l with
  | some i => bs[i]?
  | none => none

/-- Whether two writes or reads share a byte. -/
def overlaps (a : Loc) (n : Nat) (b : Loc) (k : Nat) : Bool :=
  (match a.past b with | some i => decide (i < n) | none => false) ||
  (match b.past a with | some i => decide (i < k) | none => false)

/-- The widest visibility a write to the location reaches (R276). -/
def maxVis : Loc → Scope
  | .spad _ _ => .cluster
  | _ => .system

def Scope.le (a b : Scope) : Bool := decide (a.code ≤ b.code)

/-- The next wider scope. -/
def scopeNext (x : Scope) : Scope := .ofCode (x.code + 1)

/-- vis ≥ S, where the widest scope of the location counts as every wider one. -/
def visAtLeast (loc : Loc) (v s : Scope) : Bool := decide (s.code ≤ v.code) || decide ((maxVis loc).code ≤ v.code)

/-! ## Settled memory -/

/-- One settled byte. -/
def baseByte (s : State) : Loc → Byte
  | .dev a => Memory.get s.mem a
  | .host a => Memory.get s.hostMem a
  | .fw a => Memory.get s.fwMem a
  | .spad t o => match s.task? t with | some k => Memory.get k.spad o | none => 0
  | .image a => Config.imageByte (s.dev.imageBytes 3) a
  | .remote _ _ _ => 0

/-- n settled bytes. -/
def baseBytes (s : State) (l : Loc) (n : Nat) : List Byte :=
  match l with
  | .dev a => Memory.read s.mem a n
  | .host a => Memory.read s.hostMem a n
  | .fw a => Memory.read s.fwMem a n
  | .spad t o => match s.task? t with | some k => Memory.read k.spad o n | none => List.replicate n 0
  | l => (List.range n).map (fun i => baseByte s (l.add i))

/-- The aligned 8-byte words that n bytes at a cover wholly. -/
def coveredWords (a n : Nat) : Nat × Nat := ((a + 7) / 8, (a + n) / 8)

/-- Poisoned words that a write covers whole are clean again (R435). -/
def clearPoison (ps : List Nat) (a n : Nat) : List Nat :=
  ps.filter (fun p => !((coveredWords a n).1 ≤ p / 8 && p / 8 < (coveredWords a n).2))

/-- Writes settled memory. -/
def writeBase (s : State) (l : Loc) (bs : List Byte) : State :=
  match l with
  | .dev a => { s with mem := Memory.write s.mem a bs, poison := clearPoison s.poison a bs.length }
  | .host a => { s with hostMem := Memory.write s.hostMem a bs, hostPoison := clearPoison s.hostPoison a bs.length }
  | .fw a => { s with fwMem := Memory.write s.fwMem a bs }
  | .spad t o => s.modTask t (fun k =>
      { k with spad := Memory.write k.spad o bs, spadPoison := clearPoison k.spadPoison o bs.length })
  | _ => s

/-- Whether one of some aligned 8-byte words has a byte among n from a. -/
def strikes (ps : List Nat) (a n : Nat) : Bool := ps.any (fun p => p < a + n && a < p + 8)

/-- Where a location lies in its space. -/
def Loc.off : Loc → Nat
  | .dev a => a
  | .host a => a
  | .spad _ o => o
  | .fw a => a
  | .remote _ _ o => o
  | .image a => a

/-- The location at offset o of the same space. -/
def Loc.at' : Loc → Nat → Loc
  | .dev _, o => .dev o
  | .host _, o => .host o
  | .spad t _, o => .spad t o
  | .fw _, o => .fw o
  | .remote d w _, o => .remote d w o
  | .image _, o => .image o

/-- Whether any of n bytes lies in a poisoned word. -/
def poisonedAt (s : State) (l : Loc) (n : Nat) : Bool :=
  match l with
  | .dev a => strikes s.poison a n
  | .host a => strikes s.hostPoison a n
  | .spad t o => match s.task? t with | some k => strikes k.spadPoison o n | none => false
  | _ => false

/-- Poisons some words of one space (R434). -/
def poisonWords (s : State) (l : Loc) (ws : List Nat) : State :=
  if ws.isEmpty then s
  else
    let add (ps : List Nat) : List Nat := ps ++ ws.filter (fun w => !ps.contains w)
    match l with
    | .dev _ => { s with poison := add s.poison }
    | .host _ => { s with hostPoison := add s.hostPoison }
    | .spad t _ => s.modTask t (fun k => { k with spadPoison := add k.spadPoison })
    | _ => s

/-- The aligned 8-byte words that n bytes have a byte of. -/
def wordsOf (l : Loc) (n : Nat) : List Nat := (List.range ((l.off + n + 7) / 8 - l.off / 8)).map (fun i => (l.off / 8 + i) * 8)

/-- The access size in bytes of an AMO. -/
def amoBytes : AmoSize → Nat | .w => 4 | .d => 8 | .f32 => 4 | .bf16 => 2

/-! ## Agents and visibility (R276, R277) -/

/-- An agent that reads: a strand, on its cluster, or a unit of a cluster, of a die or of the device. -/
structure Agent where
  strand  : Option StrandId
  cluster : Option Nat
  /-- the die of a unit of no cluster: an indirect-stream engine at its HBM stack (R251) -/
  die     : Option Nat
  deriving DecidableEq, Repr

/-- A device-scope agent such as the walker. -/
def Agent.device : Agent := { strand := none, cluster := none, die := none }

/-- A strand reads as the strand it acts for. -/
def Strand.agent (s : State) (x : Strand) : Agent := { strand := some (x.actsFor s), cluster := some x.cluster, die := none }

/-- The die of an agent (R11). -/
def Agent.dieOf (x : Agent) : Option Nat := match x.cluster with | some c => some (c / 64) | none => x.die

/-- Whether a write is visible to an agent. -/
def visible (x : Agent) (r : WRec) : Bool :=
  (x.strand.isSome && x.strand == r.owner) ||
  match r.vis with
  | .strand => false
  | .cluster => x.cluster == some r.cluster
  | .octet => x.cluster.map (· / 8) == some (r.cluster / 8)
  | .die => x.dieOf == some (r.cluster / 64)
  | .device => true
  | .system => true

/-- The byte of the latest write that p accepts, else the settled one. -/
def latest (p : WRec → Bool) (s : State) (l : Loc) : Byte :=
  (s.log.foldl (fun acc r => match byteIn r.loc r.bytes l with
    | some b => if p r then some b else acc
    | none => acc) none).getD (baseByte s l)

/-- What a reader is given of a byte of a spill area until the merge context closes: a value that nothing constrains (R238). -/
def spillAt (s : State) (l : Loc) : Option Byte :=
  s.spills.findSome? (fun p => p.parts.findSome? (fun q =>
    match q.2.1.past l with
    | some i => if i < q.2.2 then some (Config.spillByte p.draw s.dev.nextUid (q.1 - p.base + i)) else none
    | none => none))

/-- Bytes as a reader is given them: those of a spill area are not defined (R238). -/
def hide (s : State) (l : Loc) (bs : List Byte) : List Byte :=
  if s.spills.isEmpty then bs else bs.mapIdx (fun i b => (spillAt s (l.add i)).getD b)

/-- n bytes by the latest writes that p accepts. -/
def bytesBy (p : WRec → Bool) (s : State) (l : Loc) (n : Nat) : List Byte :=
  if s.log.isEmpty then baseBytes s l n else (List.range n).map (fun i => latest p s (l.add i))

/-- n bytes as an agent sees them in memory. -/
def memBytes (s : State) (x : Agent) (l : Loc) (n : Nat) : List Byte := hide s l (bytesBy (visible x) s l n)

/-- n bytes at the end of coherence order. -/
def lastBytes (s : State) (l : Loc) (n : Nat) : List Byte := bytesBy (fun _ => true) s l n

/-- The strand's own scalar stores that have not entered memory, oldest first. -/
def MemSt.stores (m : MemSt) : List SEnt := m.ssb ++ m.pob

/-- The byte of the latest of the strand's stores that have not entered and come before `ord` in program order. -/
def MemSt.ownByte (m : MemSt) (ord : Nat) (l : Loc) : Option Byte :=
  m.stores.foldl (fun acc e => if e.ord < ord then (match byteIn e.loc e.data l with | some b => some b | none => acc) else acc) none

/-- The buffers that a strand's scalar reads look in: a thaw thread's are those of the strand it acts for (R277, R292). -/
def memOf (s : State) (x : Strand) : MemSt := match x.id with
  | .thaw _ _ => ((s.strand? (x.actsFor s)).getD x).mem
  | _ => x.mem

/-- A byte a scalar read of the strand at place `ord` finds: of its own stores, or as memory shows it now (R133, R277). -/
def scalarByte (s : State) (x : Strand) (ord : Nat) (l : Loc) : Byte :=
  ((memOf s x).ownByte ord l).getD (latest (visible (x.agent s)) s l)

/-- n bytes that a scalar read at place `ord` returns. -/
def scalarBytesAt (s : State) (x : Strand) (ord : Nat) (l : Loc) (n : Nat) : List Byte :=
  if (memOf s x).ssb.isEmpty && (memOf s x).pob.isEmpty then memBytes s (x.agent s) l n
  else hide s l ((List.range n).map (fun i => scalarByte s x ord (l.add i)))

/-- The place in program order of what a strand does next; a thaw thread stands where the element it computes does (R292). -/
def placeOf (s : State) (x : Strand) : Nat := match x.id, x.serves with
  | .thaw _ _, some e => e
  | _, _ => s.dev.nextUid

/-- n bytes that a scalar read which comes after everything the strand has begun returns. -/
def scalarBytes (s : State) (x : Strand) (l : Loc) (n : Nat) : List Byte := scalarBytesAt s x (placeOf s x) l n

/-- Whether a read of n bytes meets poison (R435): a byte for which `own` does not stand, and whose latest write that p accepts has
been struck since, or, where there is none, whose word in memory is poisoned. -/
def poisonSeen (s : State) (own : Loc → Bool) (p : WRec → Bool) (l : Loc) (n : Nat) : Bool :=
  (poisonedAt s l n || s.log.any (fun r => !r.bad.isEmpty)) && (List.range n).any (fun i =>
    let b := l.add i
    !own b && (match s.log.reverse.find? (fun r => p r && (byteIn r.loc r.bytes b).isSome) with
      | some r => strikes r.bad b.off 1
      | none => poisonedAt s b 1))

/-- A scalar read of the strand at place `ord` meets poison. -/
def poisonedRead (s : State) (x : Strand) (ord : Nat) (l : Loc) (n : Nat) : Bool :=
  poisonSeen s (fun b => ((memOf s x).ownByte ord b).isSome) (visible (x.agent s)) l n

/-- The end of coherence order, with the strand's own scalar stores after it, is poisoned there: what a store to part of a word
would leave in it (R435). -/
def poisonedLast (s : State) (x : Strand) (l : Loc) (n : Nat) : Bool :=
  poisonSeen s (fun b => (x.mem.ownByte s.dev.nextUid b).isSome) (fun _ => true) l n

/-- The end of coherence order is poisoned there. -/
def poisonedEnd (s : State) (l : Loc) (n : Nat) : Bool := poisonSeen s (fun _ => false) (fun _ => true) l n

/-- What an agent sees there in memory is poisoned. -/
def poisonedFor (s : State) (a : Agent) (l : Loc) (n : Nat) : Bool := poisonSeen s (fun _ => false) (visible a) l n

/-- Reads made early that p names are made again (R279). -/
def MemSt.forget (m : MemSt) (p : EarlyRd → Bool) : MemSt := if m.early.isEmpty then m else { m with early := m.early.filter (fun e => !p e) }

/-- An ordering instruction has completed: every read made early is made again (R279). -/
def readAnew (s : State) : State := s.withMem (fun m => m.forget (fun _ => true))

/-- Those among n bytes are, on one side: the bytes have been read or written (R277). -/
def readAnewAt (s : State) (vec : Bool) (l : Loc) (n : Nat) : State := s.withMem (fun m => m.forget (fun e => e.vec == vec && overlaps l n e.loc e.n))

/-- What a load of n bytes read early, if it may have read then: its address must have stood by that time (R275). -/
def MemSt.earlyOf (m : MemSt) (vec : Bool) (dep : Nat) (l : Loc) (n : Nat) : Option (List Byte) :=
  (m.early.find? (fun e => e.vec == vec && e.loc == l && e.n == n && decide (dep ≤ e.time))).map (·.bytes)

/-- A scalar load or AMO before `ord` of one of the bytes has not performed (Table 13.3, R133, R257), or a store to one of them is
still without its data (R277). -/
def MemSt.loading (m : MemSt) (ord : Nat) (l : Loc) (n : Nat) : Bool :=
  m.loads.any (fun r => decide (r.ord < ord) && overlaps r.loc r.n l n) ||
  m.amos.any (fun r => decide (r.ord < ord) && overlaps r.loc (amoBytes r.op.size) l n) ||
  m.pob.any (fun e => e.src.isSome && decide (e.ord < ord) && overlaps e.loc e.data.length l n)

/-- A `fence.rel` before `ord` is pending (Table 13.3). -/
def MemSt.fenced (m : MemSt) (ord : Nat) : Bool := m.fences.any (fun f => !f.drain && decide (f.ord < ord))

/-- A `vdrain` before `ord` is pending (Table 13.3). -/
def MemSt.draining (m : MemSt) (ord : Nat) : Bool := m.fences.any (fun f => f.drain && decide (f.ord < ord))

/-- No scalar access, fence or computation is put aside or buffered. -/
def MemSt.bufferEmpty (m : MemSt) : Bool :=
  m.loads.isEmpty && m.amos.isEmpty && m.vfas.isEmpty && m.supplies.isEmpty && m.fences.isEmpty && m.alus.isEmpty && m.pob.isEmpty && m.ssb.isEmpty

/-- What a scalar load waits for (Table 13.3). -/
def MemSt.heldRead (m : MemSt) (ord : Nat) (l : Loc) (n : Nat) : Bool := m.draining ord || m.loading ord l n

/-- The Enter of a scalar store waits for what Table 13.3 names: an earlier fence or `vdrain`, an earlier load of its bytes. -/
def MemSt.heldStore (m : MemSt) (e : SEnt) : Bool := m.fenced e.ord || m.heldRead e.ord e.loc e.data.length

/-- Merges data into a byte under a mask. -/
def mergeByte (old data mask : Byte) : Byte := (old &&& ~~~mask) ||| (data &&& mask)

/-- The strand's own element writes to a byte, before `ord` and not yet entered, laid over a byte of memory (R277). -/
def MemSt.ownElems (m : MemSt) (ord : Nat) (l : Loc) (b : Byte) : Byte :=
  m.trains.foldl (fun acc t =>
    if t.id < ord then
      t.elems.foldl (fun acc e => match e.op, e.loc.past l with
        | .store, some i => match e.data[i]?, e.mask[i]? with
          | some d, some k => mergeByte acc d k
          | _, _ => acc
        | _, _ => acc) acc
    else acc) b

/-- A byte a vector-side read of the strand finds, among its trains older than `ord` (R272, R277). -/
def vectorByte (s : State) (x : Strand) (ord : Nat) (l : Loc) : Byte := x.mem.ownElems ord l (latest (visible (x.agent s)) s l)

/-- An older element of the strand's trains that has not entered writes the byte whole. -/
def MemSt.ownElem (m : MemSt) (ord : Nat) (l : Loc) : Bool :=
  m.trains.any (fun t => decide (t.id < ord) && t.elems.any (fun e => e.op == .store &&
    (match e.loc.past l with | some i => e.mask[i]? == some 0xFF | none => false)))

/-- A vector-side read of the strand meets poison. -/
def poisonedVec (s : State) (x : Strand) (ord : Nat) (l : Loc) (n : Nat) : Bool :=
  poisonSeen s (x.mem.ownElem ord) (visible (x.agent s)) l n

def vectorBytes (s : State) (x : Strand) (ord : Nat) (l : Loc) (n : Nat) : List Byte :=
  if x.mem.trains.isEmpty then memBytes s (x.agent s) l n
  else hide s l ((List.range n).map (fun i => vectorByte s x ord (l.add i)))

/-! ## Entering, widening, settling (R278 to R281) -/

/-- A write settles: the words of it that an error has struck are poisoned (R434). -/
def settleRec (s : State) (r : WRec) : State := poisonWords (writeBase s r.loc r.bytes) r.loc r.bad

/-- Settles the writes at the head of coherence order that have reached their widest visibility. -/
def foldGo : List WRec → State → State
  | [], s => { s with log := [] }
  | r :: rs, s => if visAtLeast r.loc r.vis (maxVis r.loc) then foldGo rs (settleRec s r) else { s with log := r :: rs }

def foldLog (s : State) : State := foldGo s.log s

/-- A write of n bytes enters: a spill area that it reaches has been written (R238), and an instruction word that stands there is no
longer the newest (R73). -/
def noteWrite (s : State) (l : Loc) (n : Nat) (owner : Option StrandId) (cluster : Nat) : State :=
  { s with
    spills := s.spills.map (fun p => if p.parts.any (fun q => overlaps q.2.1 q.2.2 l n) then { p with broken := true } else p),
    stales := s.stales.map (fun e => if overlaps e.loc 4 l n then { e with newer := e.newer ++ [(owner, cluster)] } else e) }

/-- The poisoned words of which a write covers only a part: they stay so (R435). -/
def partlyBad (s : State) (l : Loc) (n : Nat) : List Nat :=
  if s.poison.isEmpty && s.hostPoison.isEmpty && s.log.all (fun r => r.bad.isEmpty) && s.tasks.all (fun t => t.spadPoison.isEmpty) then []
  else (wordsOf l n).filter (fun w =>
    (decide (w < l.off) || decide (l.off + n < w + 8)) && poisonSeen s (fun _ => false) (fun _ => true) (l.at' w) 8)

/-- Appends a write to coherence order. -/
def enterRec (s : State) (r : WRec) : State :=
  let bad := partlyBad s r.loc r.bytes.length
  let s := noteWrite s r.loc r.bytes.length r.owner r.cluster
  foldLog { s with log := s.log ++ [{ r with bad := bad ++ r.bad }] }

/-- Appends a write of the strand's access `ord` to coherence order. -/
def enter (s : State) (l : Loc) (bs : List Byte) (owner : StrandId) (cluster : Nat) (vis : Scope) (tag : WTag) (ord : Nat) : State :=
  enterRec s { loc := l, bytes := bs, owner := some owner, cluster := cluster, vis := vis, tag := tag, ord := ord, ended := none, bad := [] }

/-- The same for a write that no strand owns; `ended` is the launch it counts to. -/
def enterFor (s : State) (l : Loc) (bs : List Byte) (vis : Scope) (tag : WTag) (ended : Option (Nat × Nat)) : State :=
  enterRec s { loc := l, bytes := bs, owner := none, cluster := noCluster, vis := vis, tag := tag, ord := 0, ended := ended, bad := [] }

/-- The same for one that counts to none. -/
def enterDev (s : State) (l : Loc) (bs : List Byte) (vis : Scope) (tag : WTag) : State := enterFor s l bs vis tag none

/-- The bytes that entered last take poison with them (R435). -/
def enterBad (s : State) (l : Loc) (n : Nat) (bad : Bool) : State :=
  if !bad then s
  else match s.log.reverse with
    | r :: rs => if r.loc == l then { s with log := (({ r with bad := r.bad ++ wordsOf l n } :: rs).reverse) } else poisonWords s l (wordsOf l n)
    | [] => poisonWords s l (wordsOf l n)

/-- A write the machine makes at its widest visibility. -/
def enterWide (s : State) (l : Loc) (bs : List Byte) : State := enterDev s l bs .system .plain

/-- Every write of coherence order widens as far as it goes and settles. -/
def settleLog (s : State) : State := s.log.foldl settleRec { s with log := [] }

/-- The bytes an element of a train leaves at its location, from the end of coherence order. The addition of a sum is
computed by `add`. -/
def elemBytes (add : Nat → List Byte → List Byte → List Byte) (s : State) (e : TElem) : List Byte :=
  let old := lastBytes s e.loc e.data.length
  match e.op with
  | .store => if e.mask.all (fun k => k == 0xFF) then e.data
              else List.zipWith (fun o dk => mergeByte o dk.1 dk.2) old (e.data.zip e.mask)
  | .add f => add f old e.data

end Sys2Proof.Machine
end

