-- ==== Sys2Proof/Machine/Xlate.lean ====
section
/-! DEFINITION. Translation (R411 to R417), the checks of an access (R132, R376, R406) and the causes they raise. -/

namespace Sys2Proof.Machine

/-! ## Causes (Table 23.1) -/

namespace Cause
def ill : Nat := 0x01
def fmt : Nat := 0x02
def aln : Nat := 0x03
def prm : Nat := 0x04
def lse : Nat := 0x05
def xlt : Nat := 0x06
def hlf : Nat := 0x07
def ecc : Nat := 0x08
def qdl : Nat := 0x09
def van : Nat := 0x0A
def sys : Nat := 0x0B
def brk : Nat := 0x0C
def tmo : Nat := 0x0D
def stl : Nat := 0x0E
def pre : Nat := 0x0F
def int : Nat := 0x10
def bnd : Nat := 0x11
end Cause

/-! ## Table entries (R412) -/

/-- What a table entry is. -/
inductive PKind where
  | absent
  | node (base : Nat)
  | leaf
  deriving DecidableEq, Repr

namespace Pte
def v (e : Word) : Bool := e.getLsbD 0
def r (e : Word) : Bool := e.getLsbD 1
def w (e : Word) : Bool := e.getLsbD 2
def x (e : Word) : Bool := e.getLsbD 3
def u (e : Word) : Bool := e.getLsbD 4
def g (e : Word) : Bool := e.getLsbD 5
def mig (e : Word) : Bool := e.getLsbD 8
def typ (e : Word) : Nat := bitsOf e 11 10
def s64 (e : Word) : Bool := e.getLsbD 52
def base (e : Word) : Nat := bitsOf e 51 12 * 4096
end Pte

/-- R412. -/
def pteKind (stage1 : Bool) (lvl : Nat) (e : Word) : PKind :=
  if !Pte.v e then .absent
  else if !Pte.r e && !Pte.w e && !Pte.x e then
    if lvl == 1 || bitsOf e 63 52 != 0 || bitsOf e 11 4 != 0 then .absent else .node (Pte.base e)
  else if 4 ≤ lvl then .absent
  else
    match Pte.typ e with
    | 0 => if bitsOf e 63 53 != 0 || (Pte.s64 e && lvl != 1) then .absent else .leaf
    | 1 => if stage1 || bitsOf e 63 53 != 0 || (Pte.s64 e && lvl != 1) then .absent else .leaf
    | 2 => if !stage1 || bitsOf e 15 12 != 0 then .absent else .leaf
    | _ => .absent

/-- The page size of a leaf (log entry 4: bit 52 of a TYPE 2 leaf). -/
def leafSize (lvl : Nat) (e : Word) : Nat :=
  match lvl with
  | 1 => if Pte.s64 e && (Pte.typ e != 2 || Config.remoteS64 e) then 65536 else 4096
  | 2 => 2097152
  | _ => 1073741824

/-- The output of a leaf for an input address: the low bits of PPN below the page size are not used (log entry 4). -/
def leafOut (lvl : Nat) (e : Word) (a : Nat) : Nat :=
  let z := leafSize lvl e
  Pte.base e / z * z + a % z

/-- The 8 bytes of a table entry, read as a device-scope agent (R413). -/
def pteAt (s : State) (pa : Nat) : Word := BitVec.ofNat 64 (leNat (memBytes s .device (.dev pa) 8))

/-- The index of an address at a level. -/
def pteIdx (a lvl : Nat) : Nat := a / 2 ^ (12 + 9 * (lvl - 1)) % 512

/-- A leaf that a walk reached. -/
structure Leaf where
  lvl : Nat
  ent : Word
  pa  : Nat
  deriving DecidableEq, Repr

/-- The stage-2 walk of an IPA from a node at level `lvl`; none where no leaf is present. -/
def walk2 (s : State) (ipa : Nat) : Nat → Nat → Option Leaf
  | 0, _ => none
  | lvl + 1, node =>
    let pa := node + 8 * pteIdx ipa (lvl + 1)
    let e := pteAt s pa
    match pteKind false (lvl + 1) e with
    | .absent => none
    | .node b => walk2 s ipa lvl b
    | .leaf => some { lvl := lvl + 1, ent := e, pa := pa }

/-- How a translation fails. -/
inductive XFail where
  /-- a node's stage-2 leaf is absent or not TYPE 0; the node's IPA page -/
  | nodeAbsent (page : Nat)
  | notPresent
  /-- MIG is set: wait -/
  | mig
  | migTimeout
  | prm
  /-- no address of the map (R32, R33) -/
  | range
  /-- an entry has changed since the walk read it: the walk starts again -/
  | changed
  /-- the failure of a walk made although an older translation of the page is cached (R417) -/
  | newer (f : XFail)
  deriving DecidableEq, Repr

/-- Whether a physical range lies in one of the tenant's valid windows (R406). -/
def inWindows (t : Tenant) (pa n : Nat) : Bool :=
  t.mws.any (fun w =>
    let base := bitsOf w.1 51 21 * 2097152
    let len := bitsOf w.2 51 21 * 2097152
    w.1.getLsbD 0 && len != 0 && decide (base ≤ pa ∧ pa + n ≤ base + len))

/-- The stage-1 walk. Each node's IPA is walked through stage 2 first, and lies in the tenant's windows. -/
def walk1 (s : State) (t : Tenant) (va : Nat) : Nat → Nat → Except XFail Leaf
  | 0, _ => .error .notPresent
  | lvl + 1, nodeIpa =>
    match walk2 s nodeIpa 5 (bitsOf t.s2base 51 12 * 4096) with
    | none => .error (.nodeAbsent (nodeIpa / 4096 * 4096))
    | some n2 =>
      if Pte.typ n2.ent != 0 then .error (.nodeAbsent (nodeIpa / 4096 * 4096))
      else if Pte.mig n2.ent then .error .mig
      else
        let pa := leafOut n2.lvl n2.ent nodeIpa + 8 * pteIdx va (lvl + 1)
        if !inWindows t pa 8 then .error .prm
        else
          let e := pteAt s pa
          match pteKind true (lvl + 1) e with
          | .absent => .error .notPresent
          | .node b => walk1 s t va lvl b
          | .leaf => .ok { lvl := lvl + 1, ent := e, pa := pa }

/-- A translated address: where it lands, the state with A and D bits and the cached translation, and the page's number. -/
structure XOk where
  loc  : Loc
  s    : State
  mark : Nat
  va   : Nat
  size : Nat
  deriving DecidableEq, Repr

/-- How many bytes from an address on a translation is good for: to the end of its page, or of the 2 MiB that a memory window holds
whole or not at all (R406). -/
def XOk.room (k : XOk) (va : Word) : Nat := Nat.min (k.va + k.size - va.toNat) (2097152 - va.toNat % 2097152)

/-- Sets bits of a table entry by a compare-and-swap at device scope; none where the entry is no longer what the walk read (R413). -/
def setPteBits (s : State) (bits : Word) : Option Leaf → Option State
  | none => some s
  | some l =>
    if l.ent &&& bits = bits then some s
    else if BitVec.ofNat 64 (leNat (lastBytes s (.dev l.pa) 8)) = l.ent then
      some (enterDev s (.dev l.pa) (leBytes 8 (l.ent ||| bits).toNat) .device .plain)
    else none

/-- A, and D for a write. -/
def adBits (w : Bool) : Word := if w then 0xC0 else 0x40

/-- A remote destination is reachable (R315, R419). -/
def routeOk (s : State) (tenant d : Nat) : Bool :=
  if d == s.dev.h.devid.toNat then true
  else s.dev.h.rtbase.getLsbD 0 &&
    match s.dev.routes.find? (fun r => r.valid && r.dev == d) with
    | some r => r.tenm.getLsbD tenant
    | none => false

/-- Whether a cached translation serves a context. -/
def tlbHit (c : XCtx) (vmid va : Nat) (w : Bool) (e : TlbEnt) : Bool :=
  !e.gone && !e.out.contains c.cache && !(c.who.any (e.barred.contains ·)) && e.vmid == vmid && (e.s1size == 0) == !c.s1root.getLsbD 0 && (e.glob || e.asid == c.asid || e.s1size == 0) &&
  decide (e.va ≤ va ∧ va < e.va + e.size) && (!w || e.dirty)

/-- The rights and windows of a translation that was found. -/
def useEnt (s : State) (c : XCtx) (e : TlbEnt) (va : Nat) (r w x : Bool) : Except XFail XOk :=
  if (r && !e.r) || (w && !e.w) || (x && !e.x) || (c.user && !e.u) then .error .prm
  else
    let loc := e.loc.add (va - e.va)
    match loc with
    | .dev pa => if inWindows (s.ten c.tenant) pa 1 then .ok ⟨loc, s, e.id, e.va, e.size⟩ else .error .prm
    | .remote d _ _ => if routeOk s c.tenant d then .ok ⟨loc, s, e.id, e.va, e.size⟩ else .error .prm
    | _ => .ok ⟨loc, s, e.id, e.va, e.size⟩

/-- Whether two cached translations are of one page with one outcome. -/
def sameXlate (e x : TlbEnt) : Bool := !x.dying && !x.gone && decide ({ x with id := e.id, dirty := e.dirty, out := e.out, barred := e.barred } = e)

/-- The number under which a cache takes up a translation: that of the same one, if it is known; a removal that has been started waits
for the users of what it removes, never for those of a later one. -/
def entId (s : State) (e : TlbEnt) : Nat × State :=
  match s.tlb.find? (sameXlate e) with
  | some x => (x.id, s)
  | none => s.fresh

/-- Whether a new translation takes the place of a cached one. -/
def supersedes (e x : TlbEnt) : Bool :=
  x.id != e.id && x.vmid == e.vmid && (x.s1size == 0) == (e.s1size == 0) && (x.glob || e.glob || x.asid == e.asid) &&
  decide (x.va < e.va + e.size ∧ e.va < x.va + x.size)

/-- A cache takes up a translation (R413: never one with V = 0). Its agents use none that this one supersedes any more; those of other
caches may (R417). -/
def cacheEnt (s : State) (c : XCtx) (e : TlbEnt) : State :=
  let old := s.tlb.find? (fun x => x.id == e.id)
  let e1 := { e with dirty := e.dirty || old.any (·.dirty), out := (old.map (fun x => x.out.filter (· != c.cache))).getD [],
                     barred := (old.map (fun x => x.barred.filter (fun t => c.who != some t))).getD [] }
  let leave (x : TlbEnt) : TlbEnt := if supersedes e x && !x.out.contains c.cache then { x with out := x.out ++ [c.cache] } else x
  { s with tlb := (s.tlb.filter (fun x => x.id != e.id)).map leave ++ [e1] }

/-- The walk of both stages (R413). `touch` sets A and D and caches; a probe or a prefetch does not. -/
def walk (s : State) (c : XCtx) (va : Nat) (r w x touch : Bool) : Except XFail XOk :=
  let t := s.ten c.tenant
  let s2 := bitsOf t.s2base 51 12 * 4096
  let done (e0 : TlbEnt) (l1 l2 : Option Leaf) : Except XFail XOk :=
    let (id, s) := entId s e0
    let e := { e0 with id := id }
    match useEnt s c e va r w x with
    | .error f => .error f
    | .ok k =>
      if !touch then .ok k
      else
        match (setPteBits s (adBits w) l1).bind (fun s => setPteBits s (adBits w) l2) with
        | some s => .ok { k with s := cacheEnt s c e }
        | none => .error .changed
  if !c.s1root.getLsbD 0 then
    if 2 ^ 52 ≤ va then .error .range
    else match walk2 s va 5 s2 with
      | none => .error .notPresent
      | some l =>
        if Pte.mig l.ent then .error .mig
        else
          let z := leafSize l.lvl l.ent
          let vb := va / z * z
          let out := leafOut l.lvl l.ent vb
          done { id := 0, vmid := t.vmid, asid := c.asid, glob := false, va := vb, size := z, s1size := 0, ipa := vb,
                   s2size := z, loc := if Pte.typ l.ent == 1 then .host out else .dev out,
                   r := Pte.r l.ent, w := Pte.w l.ent, x := Pte.x l.ent, u := true,
                   dirty := w || l.ent.getLsbD 7, dying := false, gone := false, out := [], barred := [] } none (some l)
  else match walk1 s t va 5 (bitsOf c.s1root 51 12 * 4096) with
    | .error f => .error f
    | .ok l1 =>
      if Pte.mig l1.ent then .error .mig
      else
        let z1 := leafSize l1.lvl l1.ent
        if Pte.typ l1.ent == 2 then
          let vb := va / z1 * z1
          done { id := 0, vmid := t.vmid, asid := c.asid, glob := Pte.g l1.ent, va := vb, size := z1, s1size := z1,
                   ipa := 0, s2size := 0,
                   loc := .remote (bitsOf l1.ent 63 48) (bitsOf l1.ent 47 44) (bitsOf l1.ent 43 16 * 4096),
                   r := Pte.r l1.ent, w := Pte.w l1.ent, x := Pte.x l1.ent, u := Pte.u l1.ent,
                   dirty := w || l1.ent.getLsbD 7, dying := false, gone := false, out := [], barred := [] } (some l1) none
        else
          let ipa := leafOut l1.lvl l1.ent va
          match walk2 s ipa 5 s2 with
          | none => .error .notPresent
          | some l2 =>
            if Pte.mig l2.ent then .error .mig
            else
              let z2 := leafSize l2.lvl l2.ent
              let z := if z1 ≤ z2 then z1 else z2
              let vb := va / z * z
              let out := leafOut l2.lvl l2.ent (ipa / z * z)
              done { id := 0, vmid := t.vmid, asid := c.asid, glob := Pte.g l1.ent, va := vb, size := z, s1size := z1,
                       ipa := ipa / z2 * z2, s2size := z2,
                       loc := if Pte.typ l2.ent == 1 then .host out else .dev out,
                       r := Pte.r l1.ent && Pte.r l2.ent, w := Pte.w l1.ent && Pte.w l2.ent,
                       x := Pte.x l1.ent && Pte.x l2.ent, u := Pte.u l1.ent,
                       dirty := w || (l1.ent.getLsbD 7 && l2.ent.getLsbD 7), dying := false, gone := false, out := [], barred := [] } (some l1) (some l2)

/-- The first address of the thaw-handler image (R414); it ends at the end of the 40 bits below. -/
def imageBase : Nat := 0x00FFFF0000000000

/-- Translation of an address of a tenant's agent (R32, R33, R413, R414). -/
def translate (s : State) (c : XCtx) (va : Word) (r w x touch : Bool) : Except XFail XOk :=
  let a := va.toNat
  if 2 ^ 57 ≤ a then .error .range
  else if 2 ^ 56 ≤ a then
    let off := a % 2 ^ 52
    match c.tid with
    | some tid =>
      match s.task? tid with
      | some t =>
        if a / 2 ^ 52 % 16 != 1 || decide (t.spadLen ≤ off) then .error .range
        else if x then .error .prm
        else .ok ⟨.spad tid off, s, 0, a, 1⟩
      | none => .error .range
    | none => .error .range
  else if imageBase ≤ a then
    if w then .error .prm else .ok ⟨.image a, s, 0, a, 1⟩
  else
    let vmid := (s.ten c.tenant).vmid
    match s.tlb.find? (tlbHit c vmid a w) with
    | some e => if touch then useEnt s c e a r w x else walk s c a r w x touch
    | none => match walk s c a r w x touch with
      | .ok k => .ok k
      | .error f =>
        let final := match f with | .mig => false | .changed => false | _ => true
        if touch && final && s.tlb.any (tlbHit c vmid a false) then .error (.newer f) else .error f

/-- An agent that has met a newer value of a page uses the cached translations of it no more (R417). -/
def refuse (s : State) (c : XCtx) (va : Word) : State :=
  let vmid := (s.ten c.tenant).vmid
  let leave (x : TlbEnt) : TlbEnt := if tlbHit c vmid va.toNat false x then { x with out := x.out ++ [c.cache] } else x
  { s with tlb := s.tlb.map leave }

/-- A failed translation, with the state it leaves: the agent that met a newer value than a cached one uses that no more (R417). -/
def fresher (s : State) (c : XCtx) (va : Word) : XFail → XFail × State
  | .newer f => (f, refuse s c va)
  | f => (f, s)

/-- The translation context of a strand. The strand it acts for gives the roots; a thaw thread is at U. -/
def ctxOf (s : State) (x : Strand) : XCtx :=
  let o := (s.strand? (x.actsFor s)).getD x
  { tenant := x.tenant, s1root := o.trap.s1root, asid := o.trap.asid.toNat % 65536, user := x.ctl.level == .u,
    tid := tidOf (x.actsFor s), cache := x.cluster, who := some x.id }

/-- The management core's own memory (R399). -/
def translateFw (s : State) (va : Word) : Except XFail XOk :=
  if va.toNat < 2 ^ 20 then .ok ⟨.fw va.toNat, s, 0, va.toNat, 1⟩ else .error .range

/-- Whether [a, a + n) lies byte for byte in leases with the rights (R341). -/
def inLeases (ls : List Lease) (a n : Nat) (r w x : Bool) : Bool :=
  (List.range n).all (fun i => ls.any (fun l =>
    decide (l.base ≤ a + i ∧ a + i < l.base + l.len) && (!r || l.r) && (!w || l.w) && (!x || l.x)))

/-- Whether the task holds the edge. -/
def holdsEdge (t : Task) (e : Edge) : Bool := if e.toB then e.mb == t.wid.toNat % 2 ^ 32 else e.ma == t.wid.toNat % 2 ^ 32

/-- The vane check of R376 on each byte. -/
def vaneOk (s : State) (x : Strand) (a n : Nat) : Bool :=
  match taskOf s x with
  | some t =>
    if t.vane.group == 0 then true
    else
      let es := s.dev.edges.filter (fun e => e.tenant == t.tenant && e.group == t.vane.group && e.glen != 0)
      (List.range n).all (fun i =>
        let cov := es.filter (fun e => decide (e.gbase ≤ a + i ∧ a + i < e.gbase + e.glen))
        cov.isEmpty || cov.any (holdsEdge t))
  | none => true

/-- How often a leaf that migrates is read again before the walk fails (R413). -/
def migReads : Nat := 64

/-- The number of an address's page. -/
def pageNo (va : Word) : Nat := va.toNat / 4096

/-- The pages for which a strand has waited for the whole time that a walk waits (R413). -/
def migOver (x : Strand) : List Nat := match x.wait with
  | some (.mig p n _ vain) => if migReads ≤ n then vain ++ [p] else vain
  | _ => []

/-- A walk of the strand met a leaf that migrates: it waits for it, at the first meeting from now on. -/
def waitMig (s : State) (va : Word) : State := match s.cpu.wait with
  | some (.mig p n _ _) => if p = pageNo va && decide (n < migReads) then s else s.waitFor (.mig (pageNo va) 0 s.dev.time (migOver s.cpu))
  | _ => s.waitFor (.mig (pageNo va) 0 s.dev.time [])

/-- The cause of a failed translation (R413). MIG makes the strand wait, until the leaf has been read again 64 times. -/
def xStop (s : State) (va : Word) : XFail → MStop
  | .prm => .cause Cause.prm
  | .mig => if (migOver s.cpu).contains (pageNo va) then .cause Cause.xlt else .mig
  | .changed => .held
  | .newer .prm => .newer Cause.prm
  | .newer _ => .newer Cause.xlt
  | _ => .cause Cause.xlt

/-- The checks of R132 in order, and R376's, on an access of n bytes by the cpu strand. After them, a remote page takes writes only
(R319, Table 15.3). -/
def checkAccess (s : State) (va : Word) (n : Nat) (r w : Bool) : Except MStop XOk :=
  if va.toNat % n != 0 then .error (.cause Cause.aln)
  else if s.cpu.id = .mgmt then
    match translateFw s va with
    | .ok k => .ok k
    | .error f => .error (xStop s va f)
  else
    match translate s (ctxOf s s.cpu) va r w false true with
    | .error f => .error (xStop s va f)
    | .ok k =>
      let remote := match k.loc with | .remote _ _ _ => true | _ => false
      let leased := match leasesOf s s.cpu with | some ls => inLeases ls va.toNat n r w false | none => true
      if !leased then .error .lease
      else if !vaneOk s s.cpu va.toNat n then .error (.cause Cause.van)
      else if remote && !w then .error (.cause Cause.prm)
      else .ok k

end Sys2Proof.Machine
end

