-- ==== Sys2Proof/Machine/Life.lean ====
section
/-! DEFINITION. What ends, and what the machine writes when it does: MSI-X messages (R420), error entries (R437), the close
of a merge context (R242), the end of a task (R341, R348, R354) and the restart of a root task (R428). -/

namespace Sys2Proof.Machine

/-! ## Messages and writes of the machine -/

/-- Sends the message of an MSI-X entry, or sets its pending bit (R420). An entry the host has not written is masked, as
MSI-X leaves it after reset (log entry 5). -/
def msixFire (s : State) (p : Port) (num : Nat) : State :=
  match s.dev.msix.find? (fun e => e.port == p && e.num == num) with
  | some e =>
    if e.masked then
      s.withDev (fun d => { d with msix := replaceFirst (fun x => x.port == p && x.num == num) (fun x => { x with pending := true }) d.msix })
    else s.withDev (fun d => { d with out := d.out ++ [.msix p num e.addr e.data] })
  | none => s.withDev (fun d => { d with msix := d.msix ++ [{ port := p, num := num, addr := 0, data := 0, masked := true, pending := true }] })

/-- Where a read or a write that the machine makes under a translation goes; an error says whether it met a page that migrates
(R413). A remote page takes none. -/
def machineLoc (s : State) (c : XCtx) (va : Word) (w : Bool) : Except Bool (Loc × State) :=
  match translate s c va (!w) w false true with
  | .ok k => match k.loc with
    | .remote _ _ _ => .error false
    | l => .ok (l, k.s)
  | .error .mig => .error true
  | .error .changed => .error true
  | .error _ => .error false

/-- The root task of a tenant. -/
def rootTask? (s : State) (tn : Nat) : Option Task := s.tasks.find? (fun t => t.kind == .root && t.tenant == tn)

/-- The number of the hub's cache of translations, past the clusters'. -/
def hubCache : Nat := 128

/-- The translation of the tenant's root task as it stands (R437), as the hub uses it. -/
def rootCtx (s : State) (tn : Nat) : Option XCtx :=
  match rootTask? s tn with
  | some t => match s.strand? (.task t.tid false) with
    | some x => some { tenant := tn, s1root := x.trap.s1root, asid := x.trap.asid.toNat % 65536, user := false, tid := some t.tid, cache := hubCache, who := none }
    | none => none
  | none => none

/-- The 64 bytes of an error entry (Table 23.6). -/
def ErrEnt.bytes (e : ErrEnt) : List Byte :=
  leBytes 8 (e.kind + e.clu % 256 * 2 ^ 32 + e.cause * 2 ^ 40) ++ leBytes 8 (e.tid % 2 ^ 32 + e.lid % 2 ^ 32 * 2 ^ 32) ++
    leBytes 8 e.pc.toNat ++ leBytes 8 e.addr.toNat ++ leBytes 32 e.info

/-- The address of the next entry of a tenant's error ring; none where there is no ring or no room (R437). -/
def ringSlot (t : Tenant) : Option Word :=
  let base := bitsOf t.errb 56 6 * 64
  let cap := 2 ^ bitsOf t.errb 4 0
  let written := bitsOf t.errh 31 0
  if base == 0 || (written + 2 ^ 32 - bitsOf t.errt 31 0) % 2 ^ 32 == cap then none
  else some (BitVec.ofNat 64 (base + 64 * (written % cap)))

/-- An entry is dropped (R437). -/
def ringDrop (s : State) (tn : Nat) : State :=
  s.modTen tn (fun t => { t with errh := BitVec.ofNat 64 (bitsOf t.errh 31 0 + (bitsOf t.errh 63 32 + 1) % 2 ^ 32 * 2 ^ 32) })

/-- An entry has been written and ERRH counts it (R437). -/
def ringCount (s : State) (tn : Nat) : State :=
  s.modTen tn (fun t => { t with errh := BitVec.ofNat 64 ((bitsOf t.errh 31 0 + 1) % 2 ^ 32 + bitsOf t.errh 63 32 * 2 ^ 32) })

/-- The message of TIE, if it is enabled (R437, R420). -/
def ringMessage (s : State) (tn : Nat) : State :=
  let t := s.ten tn
  if t.tie.getLsbD 23 then msixFire s (if t.tie.getLsbD 22 then .hpb else .hpa) (64 * tn + bitsOf t.tie 21 16) else s

/-- The larger of a word and STV, as 8 bytes (R307). -/
def stampMax (old : List Byte) (stv : Word) : List Byte := leBytes 8 (Nat.max (leNat old) stv.toNat)

/-- A level above U: where only the right W is named (R342, R437), the U bit does not bind (log entry 6). -/
def XCtx.above (c : XCtx) : XCtx := { c with user := false }

/-- A write of the machine that fails a check is dropped; its agent uses no older translation of the page any more (R417). -/
def dropWrite (s : State) (c : XCtx) (va : Word) : State :=
  match translate s c va false true false true with
  | .error (.newer _) => refuse s c va
  | _ => s

/-- A write of the machine: done, or dropped where it fails a check, with what follows it; none where it meets a page that migrates. -/
def postOne (s : State) : PWrite → Option (State × List PWrite)
  | .bytes c va bs => match machineLoc s c.above va true with
    | .ok (l, s) => some (enterWide s l bs, [])
    | .error m => if m then none else some (dropWrite s c.above va, [])
  | .stamp c va stv => match machineLoc s c.above va true with
    | .ok (l, s) => some (if poisonedEnd s l 8 then s else enterWide s l (stampMax (hide s l (lastBytes s l 8)) stv), [])
    | .error m => if m then none else some (dropWrite s c.above va, [])
  | .frame c ls va v =>
    if va.toNat % 8 != 0 then some (s, [])
    else match machineLoc s c va true with
      | .ok (l, s1) =>
        some (if (match ls with | some ls => inLeases ls va.toNat 8 false true false | none => true)
              then enterDev s1 l (leBytes 8 v) .device .plain else s, [])
      | .error m => if m then none else some (dropWrite s c va, [])
  | .ring tn e _ => match ringSlot (s.ten tn), rootCtx s tn with
    | some va, some c => match machineLoc s c.above va true with
      | .ok (l, s) => some (enterWide s l e.bytes, [.count tn])
      | .error m => if m then none else some (ringDrop (dropWrite s c.above va) tn, [])
    | _, _ => some (ringDrop s tn, [])
  | .count tn => some (ringCount s tn, [.message tn])
  | .message tn => some (ringMessage s tn, [])
  | .node tn gid i ok => some (s.modGraph tn gid (fun g => { g with nodes := g.nodes.mapIdx (fun j n =>
      if j == i then { n with state := if ok then .done else .failing } else n) }), [])

/-- What becomes of a write whose page still migrates after 64 reads of its leaf (R413). -/
def postDrop (s : State) : PWrite → State
  | .ring tn _ _ => ringDrop s tn
  | _ => s

/-- Whether an error entry must wait: a write of the record that it names has not reached system visibility (R437). -/
def heldRing (s : State) : PWrite → Bool
  | .ring _ _ after => after.any (fun p => s.log.any (fun r => r.vis != .system && overlaps r.loc r.bytes.length p.1 p.2))
  | _ => false

/-- The machine has some writes to make, in order. -/
def post (s : State) (ws : List PWrite) : State :=
  if ws.isEmpty then s else s.withDev (fun d => { d with posts := d.posts ++ [{ todo := ws, tries := 0, at' := none }] })

/-- Whether 1 µs has passed since a leaf was read: then it is read again (R413). -/
def rereads (s : State) (t : Nat) : Bool := decide (t + 1000 ≤ s.dev.time)

/-- Whether the first of some writes that wait may be tried now. -/
def Post.ready (s : State) (p : Post) : Bool :=
  (match p.todo with | w :: _ => !heldRing s w | [] => true) && (match p.at' with | some t => rereads s t | none => true)

/-- The first write of the k-th list is made, if it may be. -/
def retryPost (s : State) (k : Nat) : State :=
  let put (s : State) (ws : List PWrite) : State := s.withDev (fun d => { d with
    posts := if ws.isEmpty then d.posts.eraseIdx k else d.posts.set k { todo := ws, tries := 0, at' := none } })
  match s.dev.posts[k]? with
  | none => s
  | some p => match p.todo with
    | [] => put s []
    | w :: ws =>
      if !p.ready s then s
      else match postOne s w with
        | some (s, next) => put s (next ++ ws)
        | none =>
          let n := if p.at'.isSome then p.tries + 1 else 0
          if migReads ≤ n then put (postDrop s w) ws
          else s.withDev (fun d => { d with posts := d.posts.set k { p with tries := n, at' := some s.dev.time } })

/-- Every write the machine still has to make is made or dropped. -/
def flushPosts (s : State) : State :=
  ((s.dev.posts.flatMap (·.todo)).foldl (fun s w => ((postOne s w).map (·.1)).getD s) s).withDev (fun d => { d with posts := [] })

/-- The tenant a write is made for. -/
def PWrite.tenant : PWrite → Nat
  | .bytes c _ _ => c.tenant
  | .stamp c _ _ => c.tenant
  | .frame c _ _ _ => c.tenant
  | .ring tn _ _ => tn
  | .count tn => tn
  | .message tn => tn
  | .node tn _ _ _ => tn

/-- Whether a tenant has writes that are still to be made. -/
def posting (s : State) (tn : Nat) : Bool := s.dev.posts.any (fun p => p.todo.any (fun w => w.tenant == tn))

/-- Whether a list of writes holds an entry of the tenant's ring. -/
def Post.ofRing (tn : Nat) (p : Post) : Bool := p.todo.any (fun w => match w with | .ring n _ _ => n == tn | .count n => n == tn | .message n => n == tn | _ => false)

/-- Writes an error entry into the tenant's ring, after those that wait and once the record it names, whose parts are given, has
reached system visibility; or drops it (R437). -/
def ringWrite (s : State) (tn : Nat) (e : ErrEnt) (after : List (Loc × Nat) := []) : State :=
  if s.dev.posts.any (Post.ofRing tn) then
    s.withDev (fun d => { d with posts := replaceFirst (Post.ofRing tn) (fun p => { p with todo := p.todo ++ [.ring tn e after] }) d.posts })
  else post s [.ring tn e after]

/-- No entry of the tenant's ring is still to be written: the ring has been cleared (R440). -/
def dropRing (s : State) (tn : Nat) : State := s.withDev (fun d => { d with posts := d.posts.filter (fun p => !p.ofRing tn) })

/-- A tenant has no ring, and no entry of one (R440). -/
def clearRing (s : State) (tn : Nat) : State :=
  (dropRing s tn).modTen tn (fun t => { t with errb := 0, errh := 0, errt := 0, tie := 0, tipSoft := false })

/-! ## Merge contexts -/

def MState.code : MState → Nat | .opened => 0 | .flushed => 1 | .failed => 2

/-- The octet of a cluster (R11). -/
def octetOf (c : Nat) : Nat := c / 8

def mergeNet (s : State) (o : Nat) : MergeNet := ((s.dev.nets.find? (fun x => x.1 == o)).map (·.2)).getD { bound := none, waiters := [] }
def setNet (s : State) (o : Nat) (n : MergeNet) : State :=
  s.withDev (fun d => { d with nets := upsert (fun x => x.1 == o) (o, n) d.nets })

/-- The result words of a context: NPUSH at byte 56, RUNS with STAT and STATE at 64, NNZ at 72 (Table 9.4). -/
def MergeCtx.results (m : MergeCtx) : List (Nat × Nat) :=
  [(56, m.npush), (64, m.runs.length + m.stat * 2 ^ 32 + m.state.code * 2 ^ 40), (72, m.nnz)]

/-- A spilled entry (Table 9.6). -/
def MEntry.bytes (e : MEntry) : List Byte :=
  leBytes 16 (e.row + e.coord * 2 ^ 32 + e.val.toNat * 2 ^ 64 + e.seq * 2 ^ 96 + e.strm * 2 ^ 124)

/-- The size of a run of n entries (R238). -/
def runSize (n : Nat) : Nat := (64 + 16 * n + 63) / 64 * 64

/-- The bytes of run number k (R238): what fills it up to its size is not written (R249). -/
def MRun.bytes (r : MRun) (k : Nat) : List Byte := leBytes 64 (r.ents.length + k * 2 ^ 32) ++ r.ents.flatMap MEntry.bytes

/-- A write of a strand's engine (R292). -/
def engineWrite (s : State) (x : Strand) (l : Loc) (bs : List Byte) : State := enter s l bs (x.actsFor s) x.cluster .strand .engine 0

/-- Where the bytes of a spill area lie, as far as it is mapped (R238). -/
def areaParts (s : State) (c : XCtx) : Nat → Nat → Nat → List (Nat × Loc × Nat)
  | 0, _, _ => []
  | fuel + 1, a, n =>
    if n = 0 then []
    else match translate s c (BitVec.ofNat 64 a) true false false false with
      | .error _ => []
      | .ok k =>
        let m := match k.loc with
          | .spad tid off => Nat.min n (((s.task? tid).map (·.spadLen)).getD 0 - off)
          | _ => Nat.min n (k.room (BitVec.ofNat 64 a))
        (a, k.loc, m) :: areaParts s c fuel (a + m) (n - m)

/-- The parts of an area of a strand. -/
def partsOf (s : State) (x : Strand) (base len : Nat) : List (Nat × Loc × Nat) := areaParts s (ctxOf s x) (len / 4096 + 2) base len

/-- Whether a spill area still is what it was: no program has written it or unmapped a part of it (R238). -/
def Spill.intact (s : State) (x : Strand) (p : Spill) : Bool := !p.broken && p.parts.isPrefixOf (partsOf s x p.base p.len)

/-- A strand's merge network takes a spill area into use; the bytes of those before it belong to it as well (R239). -/
def openArea (s : State) (x : Strand) (base len : Nat) : State :=
  let (draw, s) := s.fresh
  let p : Spill := { owner := x.id, base := base, len := len, parts := partsOf s x base len, draw := draw, live := true, broken := false }
  { s with spills := s.spills.map (fun q => if q.owner == x.id then { q with live := false } else q) ++ [p] }

/-- The area in use as far as it is mapped now. -/
def extendArea (s : State) (x : Strand) : State :=
  let one (p : Spill) : Spill :=
    if p.owner == x.id && p.live then
      let ps := partsOf s x p.base p.len
      if p.parts.isPrefixOf ps then { p with parts := ps } else { p with broken := true }
    else p
  { s with spills := s.spills.map one }

/-- The network's spill areas are the program's again (R238, R249). -/
def closeAreas (s : State) (t : StrandId) : State := { s with spills := s.spills.filter (fun p => p.owner != t) }

/-- A write of a spill: it does not spoil the area in use (R238). -/
def spillWrite (s : State) (x : Strand) (l : Loc) (bs : List Byte) : State :=
  let t := engineWrite s x l bs
  { t with spills := List.zipWith (fun p q => if p.owner == x.id && p.live then p else q) s.spills t.spills }

/-- Where the result words go at the close that the end of a task performs, with the checks of stores of the strand (R242); none where
one fails. A page that migrates is waited for afterwards. -/
def resultLocs (x : Strand) (m : MergeCtx) : List (Nat × Nat) → State → Option (List (Nat × Nat × Option Loc) × State)
  | [], s => some ([], s)
  | r :: rs, s =>
    let a := m.addr + BitVec.ofNat 64 r.1
    let leased := (match leasesOf s x with | some ls => inLeases ls a.toNat 8 false true false | none => true) && vaneOk s x a.toNat 8
    let more (l : Option Loc) (s : State) := (resultLocs x m rs s).map (fun t => ((r.1, r.2, l) :: t.1, t.2))
    if !leased then none
    else match machineLoc s (ctxOf s x) a true with
      | .ok (l, s) => more (some l) s
      | .error true => more none s
      | .error false => none

/-- The network is free, and the strand has no context bound any more (R242). -/
def unbindMerge (s : State) (x : Strand) (m : MergeCtx) : State :=
  (setNet (closeAreas s x.id) m.octet { mergeNet s m.octet with bound := none }).modStrand x.id (fun y => { y with ext := { y.ext with merge := none } })

/-- The close that the end of a task by LSE, by a double fault or by a reset performs (R242): the result words are stores of the strand,
and where they fail their checks none is made. -/
def closeMerge (s : State) (x : Strand) : State :=
  match x.ext.merge with
  | none => s
  | some m =>
    let put (s : State) (r : Nat × Nat × Option Loc) : State :=
      match r.2.2 with
      | some l => enter s l (leBytes 8 r.2.1) x.id x.cluster .strand .plain 0
      | none => post s [.frame (ctxOf s x) (leasesOf s x) (m.addr + BitVec.ofNat 64 r.1) r.2.1]
    let s := match resultLocs x m m.results s with
      | some (rs, s) => rs.foldl put s
      | none => s
    unbindMerge s x m

/-! ## Copies -/

/-- The location a pinned page gives an address. -/
def pinLoc (ps : List PinPage) (a : Nat) : Option Loc :=
  (ps.find? (fun p => decide (p.va ≤ a ∧ a < p.va + p.size))).map (fun p => p.loc.add (a - p.va))

/-- The window a remote stamp goes to: tenant, device and window. -/
def stampDest (c : Copy) : Option (Nat × Nat × Nat) :=
  if c.sta = 0 then none
  else match pinLoc c.pins c.sta.toNat with
    | some (.remote d w _) => some (c.tenant, d, w)
    | _ => none

/-- The same of the copies that a tile-walk engine runs, which hold back the later ones of their engine (R329). -/
def stampKey (c : Copy) : Option (Nat × Nat × Nat) := if c.kind = .gat then none else stampDest c

/-- One copy fails: no further transfer starts, no stamp is written, its pins are released. DONE is the failing transfer's
number; where no transfer failed the spec gives no value (log entry 1). -/
def failOne (s : State) (c : Copy) (cause : Nat) (n : Option Nat) : State :=
  let (v, s) := match n with | some k => (k, s) | none => let r := s.freeWord; (r.1.toNat, r.2)
  let s := { s with copies := s.copies.filter (fun x => x.uid != c.uid) }
  match c.kind with
  | .node gid i => s.modGraph c.tenant gid (fun g =>
      { g with nodes := g.nodes.mapIdx (fun j nd => if j == i then { nd with state := .failing } else nd) })
  | _ => s.modStrand c.owner (fun x => { x with ext := { x.ext with
      copies := replaceFirst (fun r => r.id == c.id)
        (fun r => { r with done := v % 2 ^ 32, bad := c.bad, cause := cause, state := .failed }) x.ext.copies } })

/-- A copy fails (R308), and with it every later one of its engine whose remote stamp it holds back (R329). -/
def failCopy (s : State) (uid cause : Nat) (n : Option Nat) : State :=
  match s.copies.find? (fun c => c.uid == uid && !c.done) with
  | none => s
  | some c =>
    let later := match stampKey c with
      | some k => s.copies.filter (fun (x : Copy) => x.cluster == c.cluster && decide (uid < x.uid) && !x.done && stampKey x == some k)
      | none => []
    later.foldl (fun s x => failOne s x cause none) (failOne s c cause n)

/-- Every copy the task started fails (R308, R341), and the chunk bits of those that are done are discarded (R306). A graph's copies
are the graph's (R347). -/
def failTaskCopies (s : State) (tid cause : Nat) : State :=
  s.copies.foldl (fun s c => match c.kind with
    | .node _ _ => s
    | _ => if !isOfTask c.owner tid then s
      else if c.done then { s with copies := s.copies.filter (fun x => x.uid != c.uid) } else failCopy s c.uid cause none) s

/-- Frees the slots of a task; a copy of its tenant that still waits on one fails with PRM (R303). -/
def freeSlots (s : State) (t : Task) : State :=
  let gone := s.clusters.flatMap (fun c => (c.slots.filter (fun x => x.tid == t.tid)).map (fun x => (c.num, x.num)))
  let s := { s with clusters := s.clusters.map (fun (c : Cluster) => { c with slots := c.slots.filter (fun x => x.tid != t.tid) }) }
  s.copies.foldl (fun (s : State) (c : Copy) =>
    match c.slot with
    | some k =>
      if c.tenant == t.tenant && c.moving && !c.taken && c.targets.any (fun u => gone.contains (u, k)) then failCopy s c.uid Cause.prm none else s
    | none => s) s

/-! ## The end of a task -/

/-- Drops the edges p accepts, and the flips of them that are on their way. -/
def dropWhere (s : State) (p : Edge → Bool) : State :=
  let gone := s.dev.edges.filter p
  s.withDev (fun d => { d with
    edges := d.edges.filter (fun e => !p e),
    flips := d.flips.filter (fun m => !gone.any (fun e => e.tenant == m.tenant && e.group == m.group && e.eid == m.eid)) })

/-- Drops every edge of a member (R373). -/
def dropEdges (s : State) (t : Task) : State :=
  if t.vane.group == 0 then s
  else
    let m := t.wid.toNat % 2 ^ 32
    dropWhere s (fun e => e.tenant == t.tenant && e.group == t.vane.group && (e.ma == m || e.mb == m))

/-- A strand leaves its cluster: what it has issued counts in the energy window it leaves in (R395), and on another cluster it does not
go back to a translation that it has used a newer one than here (R417). -/
def leaveWindow (s : State) (x : Strand) : State :=
  match x.id with
  | .task tid _ =>
    if x.resid != .on then s
    else
      let lid := ((s.task? tid).map (·.lid)).getD 0
      let share : Share := { id := x.id, tenant := x.tenant, lid := lid, issued := x.usage.issued, gone := none }
      let s := s.modCluster x.cluster (fun (c : Cluster) => { c with left := c.left ++ [share] })
      let bar (e : TlbEnt) : TlbEnt := if e.out.contains x.cluster && !e.barred.contains x.id then { e with barred := e.barred ++ [x.id] } else e
      { s with tlb := s.tlb.map bar }.modStrand x.id (fun y => { y with usage := { y.usage with issued := 0 } })
  | _ => s

/-- A task is over: what its id names later is another task. -/
def retireIds (s : State) (tid : Nat) : State :=
  let (n, s) := s.fresh
  { s with
    clusters := s.clusters.map (fun (c : Cluster) => { c with left := c.left.map (fun x => if isOfTask x.id tid && x.gone.isNone then { x with gone := some n } else x) }),
    tlb := s.tlb.map (fun e => { e with barred := e.barred.filter (fun t => !isOfTask t tid) }) }

/-- Charges the use of a task's strands to its launch (R395). -/
def chargeLaunch (s : State) (t : Task) (us : List Usage) : State :=
  s.modLaunch t.tenant t.lid (fun l => { l with charges := us.foldl (fun c u =>
    { cyc := c.cyc + u.cyc, thm := c.thm + u.thm, cur := c.cur + u.cur, slw := c.slw + u.slw, cap := c.cap + u.cap,
      rel := c.rel + u.rel, ns := c.ns + u.ns, energy := c.energy + u.energy }) l.charges })

/-- Frees what a task holds on its clusters: its diversion entries (R179), merge contexts, slots and edges; and its copies fail with a
cause, if there is one. -/
def releaseTask (s : State) (t : Task) (copyCause : Option Nat) : State :=
  let xs := s.strands.filter (fun x => isOfTask x.id t.tid)
  let s := xs.foldl closeMerge s
  let s := { s with clusters := s.clusters.map (fun (c : Cluster) => { c with div := c.div.filter (fun e => !isOfTask e.strand t.tid) }) }
  let s := { s with others := s.others.filter (fun x => match x.id, x.serves with
    | .thaw c _, some e => (s.cluster c).div.any (fun d => d.id == e)
    | _, _ => true) }
  let s := match copyCause with | some k => failTaskCopies s t.tid k | none => s
  freeSlots (dropEdges s t) t

/-- What becomes of a task's entered writes when it ends: they remain, and belong to no strand any more (R291); those to its
scratchpad allocation go with it. A spawned task's end waits until they have vis ≥ device (R354). -/
def disown (s : State) (t : Task) : State :=
  let mine (r : WRec) : Bool := match r.owner with | some i => isOfTask i t.tid | none => false
  let gone (r : WRec) : Bool := match r.loc with | .spad tid _ => tid == t.tid | _ => false
  let vis (r : WRec) : Scope := if t.kind == .spawned && !visAtLeast r.loc r.vis .device then .device else r.vis
  foldLog { s with log := (s.log.filter (fun r => !gone r)).map (fun r =>
    if mine r then { r with owner := none, ended := some (t.tenant, t.lid), vis := vis r } else r) }

/-- The graphs a task submitted go on without it (R347): they and their copies name no strand and no allocation any more. -/
def orphan (s : State) (tid : Nat) : State :=
  let g1 (g : Graph) : Graph := { g with owner := if isOfTask g.owner tid then .mgmt else g.owner, tid := if g.tid == some tid then none else g.tid }
  let c1 (c : Copy) : Copy := { c with owner := .mgmt, tid := none }
  { s with graphs := s.graphs.map g1,
           copies := s.copies.map (fun c => match c.kind with | .node _ _ => if isOfTask c.owner tid then c1 c else c | _ => c) }

/-- Ends a task: its unentered writes are discarded (R291), its record is freed and its launch counts it (R342). A task of
KIND 2 has the dword `frameVal` stored at its FRAME, 0 for no store; a store that fails a check is dropped (R354).
DEDUCED, log entry 55: the checks are those of a store of the task, at its level and with its leases. -/
def endTask (s : State) (tid status copyCause frameVal : Nat) : State :=
  match s.task? tid with
  | none => s
  | some t =>
    let xs := s.strands.filter (fun x => isOfTask x.id tid)
    let frame := match t.kind, xs with
      | .spawned, x :: _ => if frameVal == 0 then [] else [PWrite.frame (ctxOf s x) (leasesOf s x) t.frame frameVal]
      | _, _ => []
    let s := orphan (disown (releaseTask s t (some copyCause)) t) tid
    let s := chargeLaunch (retireIds (xs.foldl leaveWindow s) tid) t (xs.map (·.usage))
    let s := post s frame
    let s := s.modLaunch t.tenant t.lid (fun l =>
      { l with ended := l.ended + 1, live := if t.kind == .spawned then l.live - 1 else l.live,
               status := Nat.max l.status (Nat.max t.status status) })
    let s := { s with tasks := s.tasks.filter (fun x => x.tid != tid), others := s.others.filter (fun x => !isOfTask x.id tid) }
    if isOfTask s.cpu.id tid then s.leave else s

/-- The lowest-numbered cluster of a tenant's partition. -/
def firstCluster (t : Tenant) : Option Nat :=
  (List.range 128).find? (fun c => if c < 64 then t.part0.getLsbD c else t.part1.getLsbD (c - 64))

/-- Whether a cluster lies in a tenant's partition. -/
def inPartition (t : Tenant) (c : Nat) : Bool := if c < 64 then t.part0.getLsbD c else t.part1.getLsbD (c - 64)

/-- The root task as R405 starts it: at ROOTPC, at K, with s1 = the tenant, and s2 and s3 as R428 gives. -/
def rootStrand (s : State) (tn tid c : Nat) (s2 s3 : Word) : Strand :=
  let x := Strand.start (.task tid false) tn c (BitVec.ofNat 64 (bitsOf (s.ten tn).rootpc 51 2 * 4)) .k
  { x with regs := { x.regs with s := ((x.regs.s.set 1 (BitVec.ofNat 64 tn)).set 2 s2).set 3 s3 } }

/-- A root task's record (R405). -/
def rootRecord (tid tn : Nat) : Task :=
  { tid := tid, kind := .root, tenant := tn, state := .running, lid := 0, dual := false, wid := 0, widw := 0, prio := 127,
    prioc := 127, nacc := 0, spadLen := 0, leasep := 0, leases := [], s1root := 0, asid := 0, frame := 0,
    waddr := 0, wval := 0, watch := false, smask := 0,
    sregs := [], accs := [], spad := [], spadPoison := [], queues := .zero,
    vane := .zero, started := true, saved := none,
    slim := false, gang := none, seq := 0, status := 0, cause := 0 }

/-- What is left of a strand's accesses when it begins anew (R291, R430): what has completed still performs, and supplies no register.
An element of a train whose data the registers held is supplied no more; neither are those that are ordered after it. -/
def MemSt.orphaned (m : MemSt) : MemSt :=
  let keep (t : Train) : Train :=
    { t with elems := if t.ordered then t.elems.takeWhile (fun e => e.src.isNone) else t.elems.filter (fun e => e.src.isNone) }
  { m with
    loads := m.loads.map (fun r => { r with reg := none }), amos := m.amos.map (fun r => { r with reg := none }),
    alus := m.alus.map (fun r => { r with reg := none }), vfas := m.vfas.map (fun r => { r with d := none }),
    late := false, supplies := [], early := [], dep := Vector.replicate 32 0, vdep := Vector.replicate 32 0, cont := [], sv := none,
    trains := (m.trains.map keep).filter (fun t => !t.elems.isEmpty) }

/-- The root task restarts (R428), where it is, or once it is dispatched again, as after a cluster reset: code 1 a double fault, 2 its
record, 3 that reset. Only the reset ends its copies (Table 23.7); those that run on belong to no id it knows. -/
def restartRoot (s : State) (tn : Nat) (code : Nat) (cause : Word) : State :=
  match rootTask? s tn with
  | none => s
  | some t =>
    let c := ((s.strand? (.task t.tid false)).map (·.cluster)).getD 0
    let s := releaseTask s t (if code = 3 then some Cause.lse else none)
    let nameless (c : Copy) : Copy := if isOfTask c.owner t.tid then { c with id := 0 } else c
    let s := { s with copies := s.copies.map nameless }
    let old := ((s.strand? (.task t.tid false)).map (fun x => x.mem.orphaned)).getD .zero
    let x := { rootStrand s tn t.tid c (BitVec.ofNat 64 code) cause with mem := if code = 3 then .zero else old }
    let here := t.state == .running && code != 3
    (s.setTask { rootRecord t.tid tn with state := if here then .running else .ready, started := here }).modStrand x.id
      (fun _ => { x with resid := if here then .on else .off })

/-- LSE ends the task and writes an error entry (R341, R425). -/
def endLse (s : State) (tid : Nat) (pc va : Word) : State :=
  match s.task? tid with
  | none => s
  | some t =>
    let clu := ((s.strand? (.task tid false)).map (·.cluster)).getD 0
    let s := endTask s tid 1 Cause.lse 2
    ringWrite s t.tenant { kind := 6, cause := Cause.lse, clu := clu, tid := tid, lid := t.lid, pc := pc, addr := va, info := 0 }

/-- A double fault (R428). -/
def doubleFault (s : State) (x : Strand) (cause : Nat) (tval tepc : Word) : State :=
  match x.id with
  | .mgmt => s.modStrand .mgmt (fun y => { y with resid := .ended, wait := none })
  | .task tid _ =>
    match s.task? tid with
    | some t =>
      if t.kind == .root then restartRoot s t.tenant 1 (BitVec.ofNat 64 cause)
      else
        let s := endTask s tid 5 Cause.lse 2
        ringWrite s t.tenant { kind := 7, cause := cause, clu := x.cluster, tid := tid, lid := t.lid, pc := tepc, addr := tval, info := 0 }
    | none => s
  | .thaw _ _ => s

end Sys2Proof.Machine
end

