-- ==== Sys2Proof/Machine/Vreg.lean ====
section
/-! DEFINITION. Vector register values element by element (R23, R27, R175, R176), and the filling and faulting of the
elements that diversion entries compute (R177, R186, R191). -/

namespace Sys2Proof.Machine

/-! ## Elements -/

/-- Element i of width w (R23). -/
def getEl (n : Nat) (bits : BitVec n) (w i : Nat) : Nat := bits.toNat / 2 ^ (w * i) % 2 ^ w

/-- Replaces element i of width w. -/
def setEl (n : Nat) (bits : BitVec n) (w i x : Nat) : BitVec n :=
  let b := bits.toNat
  BitVec.ofNat n (b - b / 2 ^ (w * i) % 2 ^ w * 2 ^ (w * i) + x % 2 ^ w * 2 ^ (w * i))

/-- The presence states (Table 7.2). -/
def pPresent : Nat := 0
def pPending : Nat := 1
def pDependent : Nat := 2
def pFaulted : Nat := 3

namespace VVal

def el (v : VVal) (w i : Nat) : Nat := getEl 8192 v.bits w i

/-- The presence state of element i of width w; narrower elements are always PRESENT (R27).
DESIGN CHOICE, log entry 49: slots that a write at another width has left in different states make a hole where one of them is
a hole, and FAULTED where one of them is. -/
def st (v : VVal) (w i : Nat) : Nat :=
  if w < 16 || v.pres == 0 then pPresent
  else
    let ps := (List.range (w / 16)).map (fun k => getEl 1024 v.pres 2 (w * i / 16 + k))
    match ps.find? (fun p => p == pPending || p == pDependent) with
    | some p => p
    | none => if ps.contains pFaulted then pFaulted else pPresent

/-- Sets an element's presence slots (R27). -/
def setSt (v : VVal) (w i p : Nat) : VVal :=
  if w < 16 then v
  else { v with pres := (List.range (w / 16)).foldl (fun m k => setEl 1024 m 2 (w * i / 16 + k) p) v.pres }

/-- Writes an element's bits. -/
def setBits (v : VVal) (w i x : Nat) : VVal := { v with bits := setEl 8192 v.bits w i x }

/-- Writes an element with its state; an element narrower than a slot has none (R27). -/
def put (v : VVal) (w i x p : Nat) : VVal := (v.setBits w i x).setSt w i p

/-- The element groups of the register (R23). -/
def groupOf (w i : Nat) : Nat := w * i / 1024

/-- Whether group g holds a PENDING or DEPENDENT slot. -/
def holeIn (v : VVal) (g : Nat) : Bool :=
  (List.range 64).any (fun k => let p := getEl 1024 v.pres 2 (64 * g + k); p == pPending || p == pDependent)

/-- Whether the value holds one anywhere. -/
def holes (v : VVal) : Bool := v.pres != 0 && (List.range 8).any v.holeIn

/-- The lowest FAULTED element in the tag's width (R187). -/
def faultedAt (v : VVal) (w : Nat) : Option Nat :=
  if v.pres == 0 then none else (List.range (vlmax w)).find? (fun i => v.st w i == pFaulted)

/-- A whole PRESENT value (R89: no scale data), landed. -/
def plain (bits : BitVec 8192) (tag : Nat) : VVal :=
  { bits := bits, tag := BitVec.ofNat 6 tag, scale := 0, special := 0, pres := 0, landed := 0xFF, pend := [], poison := 0, lord := Vector.replicate 8 0 }

end VVal

/-- The tag of a value as a format code. -/
def VVal.fmt (v : VVal) : Nat := v.tag.toNat

/-! ## Pending reads (R167, R282) -/

/-- The bytes a pending read covers. -/
def PendRead.bytes (p : PendRead) : Nat := (p.srcBit + p.width + 7) / 8

/-- Replaces those of `width` bits at `pos` that `live` names. -/
def putBits (n : Nat) (b : BitVec n) (pos width live x : Nat) : BitVec n :=
  let v := b.toNat
  let m := live % 2 ^ width
  let old := v / 2 ^ pos % 2 ^ width
  BitVec.ofNat n (v - old * 2 ^ pos + ((old &&& (2 ^ width - 1 - m)) ||| (x &&& m)) * 2 ^ pos)

/-- The element groups that a pending read's data belongs to: of its elements, or of the elements its scale byte governs
(Table 6.8). -/
def readGroups (f : Nat) (r : PendRead) : List Nat :=
  let w := fmtWidth f
  match r.dst with
  | .bits => [r.pos / 1024]
  | _ =>
    let per := if isBlock32 f then 32 * (r.pos / 8) else if f == 0x1B then 128 * (r.pos / 16) else if f == 0x1C then 128 * (r.pos / 32) else 0
    if f == 0x19 || f == 0x1A then List.range 8 else [per * w / 1024 % 8]

/-- The value with one of its reads performed: its bits, and the poison it met (R167, R435). -/
def takeRead (v : VVal) (r : PendRead) (x : Nat) (bad : Bool) : VVal :=
  let v := match r.dst with
    | .bits => { v with bits := putBits 8192 v.bits r.pos r.width r.live x }
    | .scale => { v with scale := putBits 512 v.scale r.pos r.width r.live x }
    | .special => { v with special := putBits 512 v.special r.pos r.width r.live x }
  { v with pend := v.pend.erase r,
           poison := if bad then (readGroups v.fmt r).foldl (fun m g => m ||| (1#8 <<< g)) v.poison else v.poison }

/-! ## Fills (R177, R186, R191) -/

/-- What is left of a diversion entry's element takes the bits b and the state p (R177). -/
def VVal.fill (v : VVal) (e : DivEntry) (live b p : Nat) : VVal :=
  let w := fmtWidth e.dfmt
  let slots := (List.range (w / 16)).filter (fun k => live / 2 ^ (16 * k) % 65536 != 0)
  { v.setBits w e.elem ((v.el w e.elem &&& (2 ^ w - 1 - live)) ||| (b &&& live)) with
    pres := slots.foldl (fun m k => setEl 1024 m 2 (w * e.elem / 16 + k) p) v.pres }

/-- Changes the values of one instruction among those being built or kept aside. -/
def atKey (f : VVal → VVal) (pc : Word) (xs : List (Word × VVal)) : List (Word × VVal) := xs.map (fun x => if x.1 == pc then (x.1, f x.2) else x)

/-- Writes the destination element of a diversion entry, where it still belongs to one, and those of the values kept aside that hold
it. -/
def writeDst (x : Strand) (e : DivEntry) (b : Nat) (p : Nat) : Strand :=
  let x := if e.kept.isEmpty then x
    else { x with staging := e.kept.foldl (fun xs k => atKey (fun v => v.fill e k.2 b p) k.1 xs) x.staging }
  match e.dst with
  | .reg v => { x with regs := { x.regs with v := x.regs.v.setIfInBounds v ((x.regs.v.getD v .zero).fill e e.live b p) } }
  | .staging pc => { x with staging := atKey (fun v => v.fill e e.live b p) pc x.staging }
  | .lost => x

/-- What an operand is once none of its slots is to come. -/
def DOp.settled : DOp → DOp
  | .parts b c [] => if c = 0 then .val b else .faulted b c
  | o => o

/-- A slot of an operand takes what an entry gave. -/
def DOp.take (o : DOp) (q : OPart) (x : Word) (cause : Nat) : DOp :=
  match o with
  | .parts b c ps => .parts (b ||| ((x >>> q.src) &&& 0xFFFF) <<< q.pos) (if c = 0 then cause else c) (ps.erase q)
  | o => o

/-- An operand that waits on entry id takes what the entry gave. -/
def DOp.resolve (o : DOp) (id : Nat) (r : DOp) : DOp :=
  match o with
  | .link i => if i = id then r else .link i
  | .parts b c ps =>
    let (x, k) := match r with | .val x => (x, 0) | .faulted x k => (x, k) | _ => (0, 0)
    ((ps.filter (fun q => q.id == id)).foldl (fun o q => DOp.take o q x k) (DOp.parts b c ps)).settled
  | o => o

/-- The entries an operand waits for. -/
def DOp.waits : DOp → List Nat
  | .link i => [i]
  | .parts _ _ ps => ps.map (·.id)
  | _ => []

/-- Frees entry e of a cluster, its result going to its element and to every entry linked to it. -/
def finishEntry (s : State) (c : Nat) (e : DivEntry) (b : Nat) (r : DOp) (p : Nat) (fl : Flags) : State :=
  let s := s.modStrand e.strand (fun x =>
    let y := writeDst x e b p
    let now (m : MemSt) : MemSt := match e.dst with | .reg v => { m with vdep := m.vdep.setIfInBounds v s.dev.nextUid } | _ => m
    { y with mem := now y.mem, ctl := { y.ctl with fflags := y.ctl.fflags ||| fl } })
  s.modCluster c (fun k => { k with div := (k.div.filter (fun d => d.id != e.id)).map (fun d =>
    { d with a := d.a.resolve e.id r, b := d.b.resolve e.id r, c := d.c.resolve e.id r }) })

/-- `vfill`'s effect on its entry (R191). -/
def fillEntry (s : State) (c : Nat) (e : DivEntry) (b : Nat) (fl : Flags) : State :=
  let w := fmtWidth e.dfmt
  finishEntry s c e (b % 2 ^ w) (.val (BitVec.ofNat 64 (b % 2 ^ w))) pPresent fl

/-- The helper-fault NaN of a format and a cause (R81, R186).
DESIGN CHOICE, log entry 63: an element of an integer format, which has no NaN, holds the cause alone. -/
def faultNan (fmt cause : Nat) : Nat := match floatFmt fmt with
  | some F => qnanF F + cause
  | none => cause

/-- The handler of an entry faults (R186). -/
def faultEntryWith (s : State) (c : Nat) (e : DivEntry) (b cause : Nat) : State :=
  finishEntry s c e b (.faulted (BitVec.ofNat 64 b) cause) pFaulted 0

/-- The width of an entry's operand j: `vaddw` (operation 18) reads b in the wide format, `vdot4` (operation 17) takes 32-bit operands. -/
def DivEntry.opWidth (e : DivEntry) (j : Nat) : Nat :=
  if e.op == 17 then 32 else fmtWidth (if e.op == 18 && j == 1 then e.dfmt else e.fmt)

/-- Bits of a FAULTED source of width v as an element of format f holds them (R176, R186).
DESIGN CHOICE, log entry 63: where the widths differ, an integer element takes the bits, which hold the cause, and a float element is
the NaN of that cause. -/
def faultBits (f v x cause : Nat) : Nat := if v == fmtWidth f || (floatFmt f).isNone then x else faultNan f cause

/-- The bits and the cause of the first FAULTED operand of an entry, a before b before c, once none is linked. -/
def DivEntry.faultedSrc (e : DivEntry) : Option (Nat × Nat) :=
  let ops := [e.a, e.b, e.c]
  if ops.any (fun o => !o.waits.isEmpty) then none
  else (ops.mapIdx (fun j o => match o with
    | .faulted b k => some (faultBits e.dfmt (e.opWidth j) b.toNat k, k)
    | _ => none)).findSome? (fun x => x)

/-- Ready replay entries with a FAULTED source become FAULTED at once (R180, R186). -/
def resolveGo (c : Nat) : Nat → State → State
  | 0, s => s
  | n + 1, s =>
    match (s.cluster c).div.find? (fun e => e.replay && e.faultedSrc.isSome) with
    | some e => match e.faultedSrc with
      | some (b, k) => resolveGo c n (faultEntryWith s c e b k)
      | none => s
    | none => s

def resolveFaulted (s : State) (c : Nat) : State := resolveGo c (s.cluster c).div.length s

/-- A thaw thread's entry faults with a cause; the thread is idle again (R182, R186). -/
def faultEntry (s : State) (c : Nat) (id cause : Nat) : State :=
  let s := match (s.cluster c).div.find? (fun e => e.id == id) with
    | some e => resolveFaulted (faultEntryWith s c e (faultNan e.dfmt cause) cause) c
    | none => s
  let served (x : Strand) : Bool := x.serves == some id && (match x.id with | .thaw k _ => k == c | _ => false)
  let s := { s with others := s.others.filter (fun x => !served x) }
  if served s.cpu then s.leave else s

end Sys2Proof.Machine
end

