-- ==== Sys2Proof/Machine/Ops.lean ====
section
/-! DEFINITION. The operations every meaning is made of: taking an exception and returning from one (R427, R428), stalling,
completing with the loop-end check (R125, R144), and the scalar registers with their queue ports (R16 to R18, R105). -/

namespace Sys2Proof.Machine

/-! ## Taking an exception -/

/-- The trap vector of a strand: the tenant's, or the management core's own (R426). -/
def tvecOf (s : State) (x : Strand) : Word := if x.id = .mgmt then x.trap.tvecM else (s.ten x.tenant).tvec

/-- The level a handler runs at (R427). -/
def handlerLevel (x : Strand) : Lvl := if x.id = .mgmt then .m else .k

/-- The code of a level in TSTATUS.PL (Table 23.3). -/
def plCode (l : Lvl) : Nat := l.rank

/-- Whether a strand is the E strand of a pair (TSTATUS.STR). -/
def isE (i : StrandId) : Bool := match i with | .task _ e => e | _ => false

/-- TSTATUS as a trap leaves it: STR, IH = 1, PL and PIE from before, IE = 0 (R427, Table 23.3). -/
def trapStatus (x : Strand) : Word :=
  BitVec.ofNat 64 ((if isE x.id then 32 else 0) + 16 + plCode x.ctl.level * 4 + x.trap.tstatus.toNat % 2 * 2)

/-- The trap state and control registers of a strand that enters its handler (R427). -/
def enterHandler (x : Strand) (tvec : Word) (cause : Nat) (tval tepc : Word) : Strand :=
  { x with
    trap := { x.trap with tcause := BitVec.ofNat 64 cause, tval := tval,
                          tepc := BitVec.ofNat 64 (bitsOf tepc 56 2 * 4), tstatus := trapStatus x },
    ctl := { x.ctl with level := handlerLevel x, pc := tvec },
    wait := none }

/-- Taking an exception on the cpu strand (R427): in thaw context it faults the entry instead (R182). -/
def takeTrapAt (s : State) (cause : Nat) (tval tepc : Word) : State :=
  match s.cpu.id, s.cpu.serves with
  | .thaw c _, some e => faultEntry s c e cause
  | .thaw _ _, none => s
  | _, _ =>
    if s.cpu.trap.tstatus.getLsbD 4 || tvecOf s s.cpu == 0 then doubleFault s s.cpu cause tval tepc
    else { s with cpu := enterHandler s.cpu (tvecOf s s.cpu) cause tval tepc }

/-- A trap at the instruction itself: TEPC is its address. -/
def trap (s : State) (cause : Nat) (tval : Word) : Out := .next (takeTrapAt s cause tval s.pc)

/-- ILL, with the word in TVAL (R58). -/
def ill (s : State) (w : Nat) : Out := trap s Cause.ill (BitVec.ofNat 64 w)

/-- FMT with a small TVAL (R138). -/
def fmtTrap (s : State) (tval : Nat) : Out := trap s Cause.fmt (BitVec.ofNat 64 tval)

/-- Return from a trap (R427). -/
def leaveHandler (x : Strand) : Strand :=
  let st := x.trap.tstatus
  { x with
    ctl := { x.ctl with pc := x.trap.tepc,
                        level := match bitsOf st 3 2 with | 0 => .u | 1 => .k | 2 => .h | _ => .m },
    trap := { x.trap with tstatus := BitVec.ofNat 64 (bitsOf st 63 5 * 32 + bitsOf st 3 2 * 4 + bitsOf st 1 1 * 2 + bitsOf st 1 1) },
    wait := none }

/-- An access outside every lease: it ends the task with LSE, or faults the entry a thaw thread serves (R132, R182). -/
def leaseEnd (s : State) (va : Word) : State :=
  match s.cpu.id, s.cpu.serves with
  | .thaw c _, some e => faultEntry s c e Cause.lse
  | .task tid _, _ => endLse s tid s.pc va
  | _, _ => s

/-- Why a memory access does not begin. TVAL is the address (R132). -/
def stopAt (s : State) (va : Word) : MStop → Out
  | .cause c => trap s c va
  | .newer c => trap (refuse s (ctxOf s s.cpu) va) c va
  | .lease => .next (leaseEnd s va)
  | .held => .next (s.waitFor .operands)
  | .mig => .next (waitMig s va)

/-! ## Who may execute what (Table 3.12, R182, R446) -/

/-- The level check of Table 3.12: PRM with the instruction word in TVAL (R72). -/
def needLevel (s : State) (w : Nat) (l : Lvl) (k : Out) : Out :=
  if s.cpu.ctl.level.rank < l.rank then trap s Cause.prm (BitVec.ofNat 64 w) else k

/-- The instructions that thaw context lacks raise ILL there (R182). -/
def notThaw (s : State) (w : Nat) (k : Out) : Out :=
  match s.cpu.id with
  | .thaw _ _ => ill s w
  | _ => k

/-- Majors 0x21 to 0x37 raise ILL on the management core (R446) and, but for `vfill`, in thaw context (R182). -/
def taskOnly (s : State) (w : Nat) (k : Out) : Out :=
  match s.cpu.id with
  | .task _ _ => k
  | _ => ill s w

/-! ## Completing -/

/-- Mode register fields (Table 1.9). -/
def mrEt (m : BitVec 25) : Nat := m.toNat % 64
def mrGm (m : BitVec 25) : Nat := m.toNat / 64 % 8
def mrGn (m : BitVec 25) : Bool := m.getLsbD 9
def mrRm (m : BitVec 25) : Nat := m.toNat / 1024 % 8
def mrSat (m : BitVec 25) : Bool := m.getLsbD 13
def mrDt (m : BitVec 25) : Bool := m.getLsbD 14
def mrFz (m : BitVec 25) : Bool := m.getLsbD 15

/-- VLG: 32 × (VLN + 1) of the strand's cluster (R383). -/
def vlgOf (s : State) : Nat := 32 * ((s.cluster s.cpu.cluster).eff.vln + 1)

/-- grant(req, w) (R143). -/
def grant (vlg req w : Nat) : Nat := Nat.min req (Nat.min (8 * epg w) (vlg / 32 * epg w))

/-- One loop's part of the end check (R125, R144): the control registers, and the next pc if the loop goes round. -/
def loopCheck (vlg : Nat) (n : Nat) (x : Word) (c : Ctl) : Ctl × Option Word :=
  let l := if n == 0 then c.lp0 else c.lp1
  let put (l : LoopReg) (c : Ctl) : Ctl := if n == 0 then { c with lp0 := l } else { c with lp1 := l }
  if l.lc != 0 && l.le == x then
    if l.vl then
      let left := l.lc.toNat - c.vl
      let c := put { l with lc := BitVec.ofNat 64 left } c
      if left != 0 then ({ c with sc := c.sc + BitVec.ofNat 64 c.vl, vl := grant vlg left (fmtWidth (mrEt c.mr)) }, some l.ls)
      else (c, none)
    else
      let lc := l.lc - 1
      (put { l with lc := lc } c, if lc != 0 then some l.ls else none)
  else (c, none)

/-- end_check (R125): loop 0 first. The pc is where the strand continues. -/
def endCheck (vlg : Nat) (x : Word) (c : Ctl) : Ctl :=
  match loopCheck vlg 0 x c with
  | (c, some t) => { c with pc := t }
  | (c, none) =>
    match loopCheck vlg 1 x c with
    | (c, some t) => { c with pc := t }
    | (c, none) => { c with pc := x + 4 }

/-- An instruction or a micro-operation more was issued in the energy window (R395). -/
def Usage.count (u : Usage) : Usage := { u with issued := u.issued + 1 }

/-- So were n more. -/
def Usage.counts (u : Usage) (n : Nat) : Usage := { u with issued := u.issued + n }

/-- The instruction completes without a taken control transfer. -/
def complete (s : State) : State :=
  { s with cpu := { s.cpu with ctl := endCheck (vlgOf s) s.pc s.cpu.ctl, wait := none, usage := s.cpu.usage.count } }

/-- The instruction completes and control goes to t: no end check follows (R125). -/
def completeAt (s : State) (t : Word) : State :=
  { s with cpu := { s.cpu with ctl := { s.cpu.ctl with pc := t }, wait := none, usage := s.cpu.usage.count } }

/-- A taken branch ends the loops it leaves (R126). -/
def leaveLoop (x t : Word) (l : LoopReg) : LoopReg :=
  if l.lc != 0 && decide (l.ls.toNat ≤ x.toNat ∧ x.toNat ≤ l.le.toNat) && decide (t.toNat < l.ls.toNat ∨ l.le.toNat < t.toNat)
  then { l with lc := 0 } else l

/-- A taken branch of R121 or R130. -/
def branchTo (s : State) (t : Word) : State :=
  completeAt (s.withCtl (fun c => { c with lp0 := leaveLoop s.pc t c.lp0, lp1 := leaveLoop s.pc t c.lp1 })) t

/-- Flags accrue to FFLAGS (R97, R98). -/
def accrue (s : State) (fl : Flags) : State := s.withCtl (fun c => { c with fflags := c.fflags ||| fl })

/-! ## Scalar registers and ports -/

/-- A scalar register; s0 reads 0. -/
def sreg (s : State) (r : SReg) : Word := s.cpu.regs.s[r.toNat]'(r.isLt)

/-- What was to supply register r does so no more; it still performs (R275). -/
def MemSt.unbind (m : MemSt) (r : SReg) : MemSt :=
  if m.loads.isEmpty && m.amos.isEmpty && m.alus.isEmpty then m
  else
    let off (x : Option SReg) : Option SReg := if x = some r then none else x
    { m with loads := m.loads.map (fun x => { x with reg := off x.reg }), amos := m.amos.map (fun x => { x with reg := off x.reg }),
             alus := m.alus.map (fun x => { x with reg := off x.reg }) }

/-- Writes a scalar register: a write to s0 is discarded, and a write clears poison (R25, R435). Its value may depend on every
read that has performed. -/
def setSreg (s : State) (r : SReg) (v : Word) : State :=
  if r = 0 then s
  else
    (s.withMem (fun m => { m.unbind r with dep := m.dep.set r.toNat s.dev.nextUid r.isLt })).withRegs
      (fun f => { f with s := f.s.set r.toNat v r.isLt, sPoison := f.sPoison &&& ~~~(1#32 <<< r.toNat) })

/-- The entries that are to supply scalar registers: register and place in program order. -/
def MemSt.suppliers (m : MemSt) : List (SReg × Nat) :=
  m.loads.filterMap (fun x => x.reg.map (·, x.ord)) ++ m.amos.filterMap (fun x => x.reg.map (·, x.ord)) ++
    m.alus.filterMap (fun x => x.reg.map (·, x.ord))

/-- A source waits for the entry that supplies it. -/
def sPending (s : State) (rs : List SReg) : Bool := s.cpu.mem.suppliers.any (fun x => rs.contains x.1)

/-- Whether a register number is a scalar port in a decoupled task (Table 1.5). -/
def isSPort (r : SReg) : Bool := r == 28 || r == 29 || r == 30

/-- Whether a strand may read a scalar port: E reads sq0 and sq1, A reads rq (R17). -/
def mayRead (role : Role) (r : SReg) : Bool :=
  match role with | .single => true | .a => !(r == 28 || r == 29) | .e => !(r == 30)

/-- Whether a strand may write it. -/
def mayWrite (role : Role) (r : SReg) : Bool :=
  match role with | .single => true | .a => !(r == 30) | .e => !(r == 28 || r == 29)

/-- A scalar queue's entries and depth (Table 1.5). -/
def sQueue (q : Queues) (r : SReg) : List Word := if r == 28 then q.sq0 else if r == 29 then q.sq1 else q.rq
def sDepth (r : SReg) : Nat := if r == 30 then 8 else 16
def setSQueue (q : Queues) (r : SReg) (xs : List Word) : Queues :=
  if r == 28 then { q with sq0 := xs } else if r == 29 then { q with sq1 := xs } else { q with rq := xs }

/-- The queues of the cpu's task. -/
def queuesOf (s : State) : Queues := match tidOf s.cpu.id with
  | some tid => ((s.task? tid).map (·.queues)).getD .zero
  | none => .zero

/-- The other strand of the cpu's pair issues anew after what the cpu has done to their queues: what it read early before that is read
anew (R17, Table 13.2). -/
def partnerAnew (s : State) : State :=
  let other (x : Strand) : Bool := match s.cpu.id, x.id with | .task t e, .task u f => t == u && e != f | _, _ => false
  { s with others := s.others.map (fun x => if other x then { x with mem := x.mem.forget (fun _ => true) } else x) }

/-- Changes the queues of the cpu's task. -/
def modQueues (s : State) (f : Queues → Queues) : State := match tidOf s.cpu.id with
  | some tid => partnerAnew (s.modTask tid (fun t => { t with queues := f t.queues }))
  | none => s

/-- Blocks on a queue (R18): the TVAL code, and the cycles already waited. -/
def waitQueue (s : State) (code : Nat) : Out :=
  match s.cpu.wait with
  | some (.queue c n) => .next (s.waitFor (.queue code (if c == code then n else 0)))
  | _ => .next (s.waitFor (.queue code 0))

/-- The values of source fields in pop order: each field that names a port takes the next entry of its queue (R17). -/
def portVals (q : Queues) : List SReg → List Word → (SReg → Word) → Option (List Word)
  | [], acc, _ => some acc.reverse
  | r :: rs, acc, reg =>
    if isSPort r then
      match sQueue q r with
      | [] => none
      | v :: vs => portVals (setSQueue q r vs) rs (v :: acc) reg
    else portVals q rs (reg r :: acc) reg

/-- The first port among the sources whose queue runs dry. -/
def dryPort (q : Queues) : List SReg → Option SReg
  | [] => none
  | r :: rs =>
    if isSPort r then
      match sQueue q r with
      | [] => some r
      | _ :: vs => dryPort (setSQueue q r vs) rs
    else dryPort q rs

/-- TVAL of ECC for a register (R435): file, number and group. -/
def eccReg (file num grp : Nat) : Word := BitVec.ofNat 64 (2 ^ 63 + grp * 2 ^ 12 + file * 2 ^ 8 + num)

/-- The first poisoned scalar register among some. -/
def poisonedS (s : State) (rs : List SReg) : Option SReg :=
  if s.cpu.regs.sPoison = 0 then none else rs.find? (fun r => s.cpu.regs.sPoison.getLsbD r.toNat)

/-- A field that names a port the strand may not use that way raises ILL, before any later check (R17, R57). -/
def portGate (s : State) (w : Nat) (rs : List SReg) (dst : Option SReg) (k : Out) : Out :=
  let role := roleOf s s.cpu
  if role != .single && !(rs.all (mayRead role) && (match dst with | some d => mayWrite role d | none => true)) then ill s w else k

/-- Reads the scalar sources `rs` in pop order for an instruction that may push to `dst`, and goes on with their values.
Nothing is popped here: an instruction that does not complete pops nothing (R17, R58, R132). -/
def readS (s : State) (w : Nat) (rs : List SReg) (dst : Option SReg) (k : List Word → Out) : Out :=
  portGate s w rs dst (
    if sPending s rs then .next (s.waitFor .operands)
    else if roleOf s s.cpu == .single then
      match poisonedS s rs with
      | some r => trap s Cause.ecc (eccReg 0 r.toNat 0)
      | none => k (rs.map (sreg s))
    else
      let q := queuesOf s
      match dryPort q rs with
      | some r => waitQueue s r.toNat
      | none =>
        match dst.filter (fun d => isSPort d && decide (sDepth d ≤ (sQueue q d).length)) with
        | some d => waitQueue s d.toNat
        | none => match poisonedS s (rs.filter (fun r => !isSPort r)) with
          | some r => trap s Cause.ecc (eccReg 0 r.toNat 0)
          | none => k ((portVals q rs [] (sreg s)).getD []))

/-- Pops the ports among the sources. -/
def popPorts (s : State) (rs : List SReg) : State :=
  if roleOf s s.cpu == .single then s
  else rs.foldl (fun s r => if isSPort r then modQueues s (fun q => setSQueue q r ((sQueue q r).drop 1)) else s) s

/-- Writes a scalar destination: a register, or a push onto a port. -/
def writeS (s : State) (d : SReg) (v : Word) : State :=
  if roleOf s s.cpu == .single || !isSPort d then setSreg s d v
  else modQueues s (fun q => setSQueue q d (sQueue q d ++ [v]))

/-- The instruction completes: sources pop, the destination is written, the end check follows. -/
def retire (s : State) (rs : List SReg) (d : SReg) (v : Word) : Out :=
  .next (complete (writeS (popPorts s rs) d v))

/-- When the latest read that the values of some registers depend on performed (R275); a queue entry counts as read now. -/
def depOf (s : State) (rs : List SReg) : Nat :=
  if roleOf s s.cpu != .single && rs.any isSPort then s.dev.nextUid
  else rs.foldl (fun n r => Nat.max n (s.cpu.mem.dep[r.toNat]'(r.isLt))) 0

/-- A register's value depends on no read after n. -/
def setDep (s : State) (d : SReg) (n : Nat) : State :=
  if d = 0 then s else s.withMem (fun m => { m with dep := m.dep.set d.toNat n d.isLt })

/-- As `retire`, for a result that depends on its sources alone. -/
def retireOf (s : State) (rs : List SReg) (d : SReg) (v : Word) : Out :=
  .next (setDep (complete (writeS (popPorts s rs) d v)) d (depOf s rs))

/-- As `retire`, for an instruction with no destination. -/
def retire0 (s : State) (rs : List SReg) : Out := .next (complete (popPorts s rs))

/-- A value of a list of read operands. -/
def opd (vs : List Word) (i : Nat) : Word := vs.getD i 0

end Sys2Proof.Machine
end

