-- ==== Sys2Proof/Machine/Scalar.lean ====
section
/-! DEFINITION. The scalar integer instructions (R105 to R112). -/

namespace Sys2Proof.Machine

/-! ## Results (Tables 5.1 to 5.3), on n-bit operands -/

namespace Alu
def add (n : Nat) (a b : BitVec n) : BitVec n := a + b
def sub (n : Nat) (a b : BitVec n) : BitVec n := a - b
def mul (n : Nat) (a b : BitVec n) : BitVec n := a * b
def mulh (n : Nat) (a b : BitVec n) : BitVec n := BitVec.ofInt n (a.toInt * b.toInt / 2 ^ n)
def mulhu (n : Nat) (a b : BitVec n) : BitVec n := BitVec.ofNat n (a.toNat * b.toNat / 2 ^ n)
/-- A division by zero saturates toward the sign of the dividend (R108). -/
def div (n : Nat) (a b : BitVec n) : BitVec n :=
  if b = 0 then (if 0 ≤ a.toInt then BitVec.ofInt n (2 ^ (n - 1) - 1) else BitVec.ofInt n (-(2 ^ (n - 1))))
  else BitVec.ofInt n (a.toInt.tdiv b.toInt)
def divu (n : Nat) (a b : BitVec n) : BitVec n := if b = 0 then BitVec.allOnes n else BitVec.ofNat n (a.toNat / b.toNat)
def rem (n : Nat) (a b : BitVec n) : BitVec n :=
  if b = 0 then a else BitVec.ofInt n (a.toInt - b.toInt * a.toInt.tdiv b.toInt)
def remu (n : Nat) (a b : BitVec n) : BitVec n :=
  if b = 0 then a else BitVec.ofNat n (a.toNat - b.toNat * (a.toNat / b.toNat))
def and (n : Nat) (a b : BitVec n) : BitVec n := a &&& b
def or (n : Nat) (a b : BitVec n) : BitVec n := a ||| b
def xor (n : Nat) (a b : BitVec n) : BitVec n := a ^^^ b
/-- The amount is the low 6 bits of b, or the low 5 at width 32. -/
def sll (n : Nat) (a b : BitVec n) : BitVec n := a <<< (b.toNat % n)
def srl (n : Nat) (a b : BitVec n) : BitVec n := a >>> (b.toNat % n)
def sra (n : Nat) (a b : BitVec n) : BitVec n := a.sshiftRight (b.toNat % n)
def slt (n : Nat) (a b : BitVec n) : BitVec n := if a.slt b then 1 else 0
def sltu (n : Nat) (a b : BitVec n) : BitVec n := if a.ult b then 1 else 0
def min (n : Nat) (a b : BitVec n) : BitVec n := if b.slt a then b else a
def max (n : Nat) (a b : BitVec n) : BitVec n := if a.slt b then b else a
def minu (n : Nat) (a b : BitVec n) : BitVec n := if b.ult a then b else a
def maxu (n : Nat) (a b : BitVec n) : BitVec n := if a.ult b then b else a

/-- The number of leading zero bits. -/
def clz (n : Nat) (a : BitVec n) : BitVec n := BitVec.ofNat n (if a = 0 then n else n - 1 - a.toNat.log2)
/-- The number of trailing zero bits. -/
def ctz (n : Nat) (a : BitVec n) : BitVec n := BitVec.ofNat n (((List.range n).find? (fun i => a.getLsbD i)).getD n)
/-- The number of one bits. -/
def popc (n : Nat) (a : BitVec n) : BitVec n := BitVec.ofNat n ((List.range n).countP (fun i => a.getLsbD i))
/-- The low and one-past-the-high bit of the field that a descriptor names (R112). -/
def fieldOf (n : Nat) (b : Word) : Nat × Nat :=
  let lo := bitsOf b 5 0
  (lo, Nat.min (lo + bitsOf b 14 8) n)
def bext (n : Nat) (a : BitVec n) (b : Word) : BitVec n :=
  let (lo, hi) := fieldOf n b
  if hi ≤ lo then 0 else BitVec.ofNat n (a.toNat / 2 ^ lo % 2 ^ (hi - lo))
def bins (n : Nat) (d a : BitVec n) (b : Word) : BitVec n :=
  let (lo, hi) := fieldOf n b
  if hi ≤ lo then d
  else BitVec.ofNat n (d.toNat - d.toNat / 2 ^ lo % 2 ^ (hi - lo) * 2 ^ lo + a.toNat % 2 ^ (hi - lo) * 2 ^ lo)
/-- The bytes in reverse order. -/
def bswap (n : Nat) (a : BitVec n) : BitVec n := BitVec.ofNat n (leNat (leBytes (n / 8) a.toNat).reverse)
end Alu

/-- A result at 64 bits, or under `.w` at 32 bits and sign-extended (R107). -/
def atWidth (w : Bool) (f : (n : Nat) → BitVec n → BitVec n → BitVec n) (a b : Word) : Word :=
  if w then (f 32 (a.setWidth 32) (b.setWidth 32)).signExtend 64 else f 64 a b

/-- The same for one operand. -/
def atWidth1 (w : Bool) (f : (n : Nat) → BitVec n → BitVec n) (a : Word) : Word :=
  if w then (f 32 (a.setWidth 32)).signExtend 64 else f 64 a

/-- An instruction with two scalar sources. -/
def scalar2 (s : State) (word : Nat) (d a b : SReg) (f : Word → Word → Word) : Out :=
  readS s word [a, b] (some d) (fun vs => retireOf s [a, b] d (f (opd vs 0) (opd vs 1)))

/-- An instruction with one scalar source. -/
def scalar1 (s : State) (word : Nat) (d a : SReg) (f : Word → Word) : Out :=
  readS s word [a] (some d) (fun vs => retireOf s [a] d (f (opd vs 0)))

/-- A 15-bit immediate, sign-extended. -/
def sext15 (i : BitVec 15) : Word := i.signExtend 64

/-! ## Register-register instructions (Table 5.1) -/

/-- R108, add: a + b. -/
def execAdd (d a b : SReg) (w : Bool) (s : State) : Out :=
  scalar2 s (encodeNat (.add d a b w)) d a b (atWidth w Alu.add)

/-- R108, sub: a − b. -/
def execSub (d a b : SReg) (w : Bool) (s : State) : Out :=
  scalar2 s (encodeNat (.sub d a b w)) d a b (atWidth w Alu.sub)

/-- R108, mul: the low w bits of the product. -/
def execMul (d a b : SReg) (w : Bool) (s : State) : Out :=
  scalar2 s (encodeNat (.mul d a b w)) d a b (atWidth w Alu.mul)

/-- R108, mulh: the high half of the signed product. -/
def execMulh (d a b : SReg) (w : Bool) (s : State) : Out :=
  scalar2 s (encodeNat (.mulh d a b w)) d a b (atWidth w Alu.mulh)

/-- R108, mulhu: the high half of the unsigned product. -/
def execMulhu (d a b : SReg) (w : Bool) (s : State) : Out :=
  scalar2 s (encodeNat (.mulhu d a b w)) d a b (atWidth w Alu.mulhu)

/-- R108, div: the signed quotient. -/
def execDiv (d a b : SReg) (w : Bool) (s : State) : Out :=
  scalar2 s (encodeNat (.div d a b w)) d a b (atWidth w Alu.div)

/-- R108, divu: the unsigned quotient. -/
def execDivu (d a b : SReg) (w : Bool) (s : State) : Out :=
  scalar2 s (encodeNat (.divu d a b w)) d a b (atWidth w Alu.divu)

/-- R108, rem: the signed remainder. -/
def execRem (d a b : SReg) (w : Bool) (s : State) : Out :=
  scalar2 s (encodeNat (.rem d a b w)) d a b (atWidth w Alu.rem)

/-- R108, remu: the unsigned remainder. -/
def execRemu (d a b : SReg) (w : Bool) (s : State) : Out :=
  scalar2 s (encodeNat (.remu d a b w)) d a b (atWidth w Alu.remu)

/-- R108, and: a AND b. -/
def execAnd (d a b : SReg) (w : Bool) (s : State) : Out :=
  scalar2 s (encodeNat (.and d a b w)) d a b (atWidth w Alu.and)

/-- R108, or: a OR b. -/
def execOr (d a b : SReg) (w : Bool) (s : State) : Out :=
  scalar2 s (encodeNat (.or d a b w)) d a b (atWidth w Alu.or)

/-- R108, xor: a XOR b. -/
def execXor (d a b : SReg) (w : Bool) (s : State) : Out :=
  scalar2 s (encodeNat (.xor d a b w)) d a b (atWidth w Alu.xor)

/-- R108, sll: shift left. -/
def execSll (d a b : SReg) (w : Bool) (s : State) : Out :=
  scalar2 s (encodeNat (.sll d a b w)) d a b (atWidth w Alu.sll)

/-- R108, srl: logical shift right. -/
def execSrl (d a b : SReg) (w : Bool) (s : State) : Out :=
  scalar2 s (encodeNat (.srl d a b w)) d a b (atWidth w Alu.srl)

/-- R108, sra: arithmetic shift right. -/
def execSra (d a b : SReg) (w : Bool) (s : State) : Out :=
  scalar2 s (encodeNat (.sra d a b w)) d a b (atWidth w Alu.sra)

/-- R108, slt: signed less than. -/
def execSlt (d a b : SReg) (w : Bool) (s : State) : Out :=
  scalar2 s (encodeNat (.slt d a b w)) d a b (atWidth w Alu.slt)

/-- R108, sltu: unsigned less than. -/
def execSltu (d a b : SReg) (w : Bool) (s : State) : Out :=
  scalar2 s (encodeNat (.sltu d a b w)) d a b (atWidth w Alu.sltu)

/-- R108, min: signed minimum. -/
def execMin (d a b : SReg) (w : Bool) (s : State) : Out :=
  scalar2 s (encodeNat (.min d a b w)) d a b (atWidth w Alu.min)

/-- R108, max: signed maximum. -/
def execMax (d a b : SReg) (w : Bool) (s : State) : Out :=
  scalar2 s (encodeNat (.max d a b w)) d a b (atWidth w Alu.max)

/-- R108, minu: unsigned minimum. -/
def execMinu (d a b : SReg) (w : Bool) (s : State) : Out :=
  scalar2 s (encodeNat (.minu d a b w)) d a b (atWidth w Alu.minu)

/-- R108, maxu: unsigned maximum. -/
def execMaxu (d a b : SReg) (w : Bool) (s : State) : Out :=
  scalar2 s (encodeNat (.maxu d a b w)) d a b (atWidth w Alu.maxu)

/-- R109: a if c is nonzero, else b. -/
def execSel (d a b c : SReg) (s : State) : Out :=
  readS s (encodeNat (.sel d a b c)) [a, b, c] (some d) (fun vs =>
    retireOf s [a, b, c] d (if opd vs 2 ≠ 0 then opd vs 0 else opd vs 1))

/-! ## Immediate instructions (Table 5.2, R111) -/

/-- R110, addi. -/
def execAddi (d a : SReg) (i : BitVec 15) (s : State) : Out :=
  scalar1 s (encodeNat (.addi d a i)) d a (fun v => v + sext15 i)

/-- R110, andi. -/
def execAndi (d a : SReg) (i : BitVec 15) (s : State) : Out :=
  scalar1 s (encodeNat (.andi d a i)) d a (fun v => v &&& sext15 i)

/-- R110, ori. -/
def execOri (d a : SReg) (i : BitVec 15) (s : State) : Out :=
  scalar1 s (encodeNat (.ori d a i)) d a (fun v => v ||| i.setWidth 64)

/-- R110, xori. -/
def execXori (d a : SReg) (i : BitVec 15) (s : State) : Out :=
  scalar1 s (encodeNat (.xori d a i)) d a (fun v => v ^^^ i.setWidth 64)

/-- R110, slti. -/
def execSlti (d a : SReg) (i : BitVec 15) (s : State) : Out :=
  scalar1 s (encodeNat (.slti d a i)) d a (fun v => if v.slt (sext15 i) then 1 else 0)

/-- R110, sltiu. -/
def execSltiu (d a : SReg) (i : BitVec 15) (s : State) : Out :=
  scalar1 s (encodeNat (.sltiu d a i)) d a (fun v => if v.ult (sext15 i) then 1 else 0)

/-- R111, slli. -/
def execSlli (d a : SReg) (w : Bool) (n : BitVec 6) (s : State) : Out :=
  scalar1 s (encodeNat (.slli d a w n)) d a (fun v => atWidth w Alu.sll v (n.setWidth 64))

/-- R111, srli. -/
def execSrli (d a : SReg) (w : Bool) (n : BitVec 6) (s : State) : Out :=
  scalar1 s (encodeNat (.srli d a w n)) d a (fun v => atWidth w Alu.srl v (n.setWidth 64))

/-- R111, srai. -/
def execSrai (d a : SReg) (w : Bool) (n : BitVec 6) (s : State) : Out :=
  scalar1 s (encodeNat (.srai d a w n)) d a (fun v => atWidth w Alu.sra v (n.setWidth 64))

/-- R110, lih: imm20 × 2^12, sign-extended from 32 bits. -/
def execLih (d : SReg) (i : BitVec 20) (s : State) : Out :=
  readS s (encodeNat (.lih d i)) [] (some d) (fun _ => retireOf s [] d ((i.setWidth 32 <<< 12).signExtend 64))

/-- R110, lix: d × 2^20 + imm20, with d read first (R106). -/
def execLix (d : SReg) (i : BitVec 20) (s : State) : Out :=
  readS s (encodeNat (.lix d i)) [d] (some d) (fun vs => retireOf s [d] d (opd vs 0 <<< 20 + i.setWidth 64))

/-! ## Bit instructions (Table 5.3) -/

/-- R112, clz. -/
def execClz (d a : SReg) (w : Bool) (s : State) : Out :=
  scalar1 s (encodeNat (.clz d a w)) d a (atWidth1 w Alu.clz)

/-- R112, ctz. -/
def execCtz (d a : SReg) (w : Bool) (s : State) : Out :=
  scalar1 s (encodeNat (.ctz d a w)) d a (atWidth1 w Alu.ctz)

/-- R112, popc. -/
def execPopc (d a : SReg) (w : Bool) (s : State) : Out :=
  scalar1 s (encodeNat (.popc d a w)) d a (atWidth1 w Alu.popc)

/-- R112, bswap. -/
def execBswap (d a : SReg) (w : Bool) (s : State) : Out :=
  scalar1 s (encodeNat (.bswap d a w)) d a (atWidth1 w Alu.bswap)

/-- R112, bext. -/
def execBext (d a b : SReg) (w : Bool) (s : State) : Out :=
  scalar2 s (encodeNat (.bext d a b w)) d a b (fun x y => atWidth1 w (fun n v => Alu.bext n v y) x)

/-- R112, bins: d is read as well as written (R106). -/
def execBins (d a b : SReg) (w : Bool) (s : State) : Out :=
  readS s (encodeNat (.bins d a b w)) [a, b, d] (some d) (fun vs =>
    retireOf s [a, b, d] d (atWidth w (fun n x y => Alu.bins n x y (opd vs 1)) (opd vs 2) (opd vs 0)))

/-! ## Which instructions these are -/

/-- The integer instructions that read scalar registers and write one (Table 3.5), with their sources and their destination. -/
def integerForm : Instr → Option (List SReg × SReg)
  | .add d a b _ => some ([a, b], d) | .sub d a b _ => some ([a, b], d) | .mul d a b _ => some ([a, b], d)
  | .mulh d a b _ => some ([a, b], d) | .mulhu d a b _ => some ([a, b], d) | .div d a b _ => some ([a, b], d)
  | .divu d a b _ => some ([a, b], d) | .rem d a b _ => some ([a, b], d) | .remu d a b _ => some ([a, b], d)
  | .and d a b _ => some ([a, b], d) | .or d a b _ => some ([a, b], d) | .xor d a b _ => some ([a, b], d)
  | .sll d a b _ => some ([a, b], d) | .srl d a b _ => some ([a, b], d) | .sra d a b _ => some ([a, b], d)
  | .slt d a b _ => some ([a, b], d) | .sltu d a b _ => some ([a, b], d) | .min d a b _ => some ([a, b], d)
  | .max d a b _ => some ([a, b], d) | .minu d a b _ => some ([a, b], d) | .maxu d a b _ => some ([a, b], d)
  | .sel d a b c => some ([a, b, c], d) | .addi d a _ => some ([a], d) | .andi d a _ => some ([a], d) | .ori d a _ => some ([a], d)
  | .xori d a _ => some ([a], d) | .slti d a _ => some ([a], d) | .sltiu d a _ => some ([a], d) | .slli d a _ _ => some ([a], d)
  | .srli d a _ _ => some ([a], d) | .srai d a _ _ => some ([a], d) | .lih d _ => some ([], d) | .lix d _ => some ([d], d)
  | .clz d a _ => some ([a], d) | .ctz d a _ => some ([a], d) | .popc d a _ => some ([a], d) | .bswap d a _ => some ([a], d)
  | .bext d a b _ => some ([a, b], d) | .bins d a b _ => some ([a, b, d], d)
  | _ => none

end Sys2Proof.Machine
end

