-- ==== Sys2Proof/Machine/Control.lean ====
section
/-! DEFINITION. Branches, jumps, hardware loops, queue branches, the mode word and the system instructions of chapter 05
(R121 to R137), and which interrupts are pending (R392, R431). -/

namespace Sys2Proof.Machine

/-- PC + 4 × a signed word offset. -/
def pcPlus {n : Nat} (s : State) (o : BitVec n) : Word := s.pc + (o.signExtend 64) * 4

/-- A conditional branch (R121). -/
def branch (s : State) (word : Nat) (a b : SReg) (o : BitVec 15) (p : Word → Word → Bool) : Out :=
  readS s word [a, b] none (fun vs =>
    if p (opd vs 0) (opd vs 1) then .next (branchTo (popPorts s [a, b]) (pcPlus s o)) else retire0 s [a, b])

/-- R121, beq. -/
def execBeq (a b : SReg) (o : BitVec 15) (s : State) : Out :=
  branch s (encodeNat (.beq a b o)) a b o (fun x y => x == y)

/-- R121, bne. -/
def execBne (a b : SReg) (o : BitVec 15) (s : State) : Out :=
  branch s (encodeNat (.bne a b o)) a b o (fun x y => x != y)

/-- R121, blt. -/
def execBlt (a b : SReg) (o : BitVec 15) (s : State) : Out :=
  branch s (encodeNat (.blt a b o)) a b o (fun x y => x.slt y)

/-- R121, bge. -/
def execBge (a b : SReg) (o : BitVec 15) (s : State) : Out :=
  branch s (encodeNat (.bge a b o)) a b o (fun x y => !x.slt y)

/-- R121, bltu. -/
def execBltu (a b : SReg) (o : BitVec 15) (s : State) : Out :=
  branch s (encodeNat (.bltu a b o)) a b o (fun x y => x.ult y)

/-- R121, bgeu. -/
def execBgeu (a b : SReg) (o : BitVec 15) (s : State) : Out :=
  branch s (encodeNat (.bgeu a b o)) a b o (fun x y => !x.ult y)

/-- R122: links s31. -/
def execJal (o : BitVec 25) (s : State) : Out :=
  .next (completeAt (setSreg s 31 (s.pc + 4)) (pcPlus s o))

/-- R122: the target is computed before the link is written; a misaligned one raises ALN (R67). -/
def execJalr (d a : SReg) (i : BitVec 15) (s : State) : Out :=
  readS s (encodeNat (.jalr d a i)) [a] (some d) (fun vs =>
    let t := opd vs 0 + sext15 i
    if t.toNat % 4 ≠ 0 then trap s Cause.aln t
    else .next (completeAt (writeS (popPorts s [a]) d (s.pc + 4)) t))

/-! ## Hardware loops (R124, R127, R128, R144) -/

/-- Replaces loop N. -/
def setLoop (s : State) (n : BitVec 1) (l : LoopReg) : State :=
  s.withCtl (fun c => if n = 0 then { c with lp0 := l } else { c with lp1 := l })

/-- loop_start (R124): a zero count skips the body; else the end check of the instruction itself follows (R125).
DEDUCED: the skip is a control transfer, which no end check follows (log entry 9). -/
def loopStart (s : State) (n : BitVec 1) (count : Word) (endoff : Nat) : State :=
  let le := s.pc + BitVec.ofNat 64 (4 * endoff)
  let s1 := setLoop s n { lc := count, ls := s.pc + 4, le := le, vl := false }
  if count = 0 then completeAt s1 (le + 4) else complete s1

/-- R124. The count is read as an unsigned 64-bit value. -/
def execLoop (n : BitVec 1) (a : SReg) (e : BitVec 15) (s : State) : Out :=
  readS s (encodeNat (.loop n a e)) [a] none (fun vs => .next (loopStart (popPorts s [a]) n (opd vs 0) e.toNat))

/-- R124, with an immediate count. -/
def execLoopi (n : BitVec 1) (c : BitVec 12) (e : BitVec 8) (s : State) : Out :=
  .next (loopStart s n (c.setWidth 64) e.toNat)

/-- R127, R144: the first strip start sets VL and SC; a zero count leaves them. -/
def execVloop (n : BitVec 1) (a : SReg) (e : BitVec 15) (s : State) : Out :=
  readS s (encodeNat (.vloop n a e)) [a] none (fun vs =>
    let count := opd vs 0
    let s := popPorts s [a]
    let le := s.pc + BitVec.ofNat 64 (4 * e.toNat)
    let s1 := setLoop s n { lc := count, ls := s.pc + 4, le := le, vl := true }
    let s2 := s1.withCtl (fun c => { c with vstart := 0 })
    if count = 0 then .next (completeAt s2 (le + 4))
    else .next (complete (s2.withCtl (fun c =>
      { c with sc := 0, vl := grant (vlgOf s) count.toNat (fmtWidth (mrEt c.mr)) }))))

/-- R128. -/
def execLpclr (n : BitVec 1) (s : State) : Out := .next (complete (setLoop s n .zero))

/-! ## Queue branches (R130) -/

/-- The depth of bq, and TVAL's code for it (Table 1.5, R18). -/
def bqDepth : Nat := 64
def bqCode : Nat := 0x40

/-- R130: pushes one outcome bit; A only (R17). -/
def execBqput (a : SReg) (s : State) : Out :=
  if roleOf s s.cpu ≠ .a then ill s (encodeNat (.bqput a))
  else readS s (encodeNat (.bqput a)) [a] none (fun vs =>
    if bqDepth ≤ (queuesOf s).bq.length then waitQueue s bqCode
    else .next (complete (modQueues (popPorts s [a]) (fun q => { q with bq := q.bq ++ [decide (opd vs 0 ≠ 0)] }))))

/-- R130: pops one bit and branches if it is 1; E only (R17). -/
def execBqb (o : BitVec 15) (s : State) : Out :=
  if roleOf s s.cpu ≠ .e then ill s (encodeNat (.bqb o))
  else match (queuesOf s).bq with
    | [] => waitQueue s bqCode
    | b :: bs =>
      let s1 := modQueues s (fun q => { q with bq := bs })
      if b then .next (branchTo s1 (pcPlus s o)) else .next (complete s1)

/-! ## The mode word (R29, R135) -/

/-- Whether an MR image is legal (R29). -/
def mrOk (v : Nat) : Bool := decide (v / 2 ^ 16 % 2 ^ 9 = 0) && decide (v / 1024 % 8 < 6) && decide (v % 64 ≤ 0x25)

/-- Writes MR. -/
def setMr (s : State) (v : Nat) : State := s.withCtl (fun c => { c with mr := BitVec.ofNat 25 v })

/-- R135: an illegal image raises ILL with the word in TVAL (R58). -/
def execMode (i : BitVec 25) (s : State) : Out :=
  if mrOk i.toNat then .next (complete (setMr s i.toNat)) else ill s (encodeNat (.mode i))

/-- R29: a CSR write to MR acts as `mode` with the written image; TVAL of a rejected one is the image (R58). -/
def execMrWrite (v : Word) (s : State) : Out :=
  if mrOk v.toNat then .next (complete (setMr s (v.toNat % 2 ^ 25))) else trap s Cause.ill v

/-! ## Interrupts pending -/

/-- TIP of a tenant (Table 23.2): bit 0 ERR, bit 1 SOFT. -/
def tipBits (t : Tenant) : Nat :=
  (if bitsOf t.errh 31 0 != bitsOf t.errt 31 0 then 1 else 0) + (if t.tipSoft then 2 else 0)

/-- MIP of the management core (Table 19.3): bit 0 while TAP ≠ 0. -/
def mipBits (m : MCsr) : Nat := (if m.tap != 0 then 1 else 0) + m.mip.toNat * 2

/-- The lowest set bit of a small mask. -/
def lowestBit (n : Nat) : Nat := ((List.range 8).find? (fun i => n.testBit i)).getD 0

/-- Whether a strand's interrupt is pending, enabled or not (R136, R392, R431). -/
def pendingFor (s : State) (x : Strand) : Bool :=
  if x.id = .mgmt then mipBits s.dev.m != 0 else tipBits (s.ten x.tenant) != 0

/-- The interrupt a strand takes at its next boundary, if any: the management core's, or the root task's (R392, R431). -/
def interruptDue (s : State) (x : Strand) : Option Nat :=
  if !x.trap.tstatus.getLsbD 0 then none
  else if x.id = .mgmt then
    let b := mipBits s.dev.m &&& s.dev.m.mie.toNat
    if b != 0 then some (lowestBit b) else none
  else match taskOf s x, x.id with
    | some t, .task _ _ =>
      let b := tipBits (s.ten x.tenant) &&& (s.ten x.tenant).tie.toNat % 4
      if t.kind == .root && b != 0 then some (lowestBit b) else none
    | _, _ => none

/-- Takes the interrupt of the cpu strand: TEPC is the next instruction to execute (Table 23.1). -/
def takeInterrupt (s : State) (b : Nat) : State := takeTrapAt s Cause.int (BitVec.ofNat 64 b) s.pc

/-! ## System instructions (Table 5.8) -/

/-- R136. -/
def execNop (s : State) : Out := .next (complete s)

/-- R136: completes with its end check, then traps with TEPC = the next pc. In thaw context it raises ILL (R182). -/
def execTrap (c : BitVec 10) (s : State) : Out :=
  notThaw s (encodeNat (.trap c)) (.next (takeTrapAt (complete s) Cause.sys (c.setWidth 64) (complete s).pc))

/-- R427: K or above. -/
def execTret (s : State) : Out :=
  needLevel s (encodeNat .tret) .k (.next { s with cpu := leaveHandler s.cpu })

/-- R136: traps without completing. -/
def execBrk (c : BitVec 10) (s : State) : Out := trap s Cause.brk (c.setWidth 64)

/-- R136: M only; waits for an interrupt pending at M, enabled or not (R392). -/
def execHalt (s : State) : Out :=
  needLevel s (encodeNat .halt) .m (if pendingFor s s.cpu then .next (complete s) else .next (s.waitFor .halt))

/-- R136: K or above; waits for an interrupt of its tenant and level, enabled or not. One that was pre-empted completes. -/
def execWfi (s : State) : Out :=
  notThaw s (encodeNat .wfi) (needLevel s (encodeNat .wfi) .k
    (if pendingFor s s.cpu || s.cpu.wait == some (.wfi true) then .next (complete s) else .next (s.waitFor (.wfi false))))

end Sys2Proof.Machine
end

