-- ==== Sys2Proof/Machine/LoadStore.lean ====
section
/-! DEFINITION. Scalar loads, stores and prefetches (R131 to R134), and a scalar store to a remote window (R319, R320). -/

namespace Sys2Proof.Machine

/-- The address of a scalar access (R131). -/
def ldAddr (a : Word) (o : BitVec 12) (n : Nat) : Word := a + o.signExtend 64 * BitVec.ofNat 64 n

/-- The value of n bytes read into a register. -/
def loaded (signed : Bool) (bs : List Byte) : Word :=
  if signed then (BitVec.ofNat (8 * bs.length) (leNat bs)).signExtend 64 else BitVec.ofNat 64 (leNat bs)

/-- The load completes, and performs later (R275): its register waits for it. -/
def loadLater (s : State) (rs : List SReg) (d : SReg) (l : Loc) (n : Nat) (signed : Bool) : Out :=
  let (ord, s) := (readAnewAt s false l n).fresh
  let r : SRead := { reg := if d = 0 then none else some d, loc := l, n := n, signed := signed, ord := ord }
  .next (complete ((popPorts s rs).withMem (fun m => let m := m.unbind d; { m with loads := m.loads ++ [r], late := false })))

/-- Whether a load or AMO may complete before it performs: its destination is a register. -/
def mayDefer (s : State) (d : SReg) : Bool := s.cpu.mem.late && (roleOf s s.cpu == .single || !isSPort d)

/-- The bytes a load returns whose address register is a: those it read early, or those it reads now (R275, R277). -/
def loadBytes (s : State) (a : SReg) (l : Loc) (n : Nat) : List Byte :=
  (s.cpu.mem.earlyOf false (depOf s [a]) l n).getD (scalarBytes s s.cpu l n)

/-- A load of n bytes that performs: poison raises ECC at what it reads now. -/
def loadNow (s : State) (d a : SReg) (va : Word) (l : Loc) (n : Nat) (signed : Bool) : Out :=
  if (s.cpu.mem.earlyOf false (depOf s [a]) l n).isNone && poisonedRead s s.cpu (placeOf s s.cpu) l n then trap s Cause.ecc va
  else retire (readAnewAt s false l n) [a] d (loaded signed (loadBytes s a l n))

/-- A scalar load of n bytes. -/
def load (s : State) (word : Nat) (d a : SReg) (o : BitVec 12) (n : Nat) (signed : Bool) : Out :=
  readS s word [a] (some d) (fun vs =>
    let va := ldAddr (opd vs 0) o n
    match checkAccess s va n true false with
    | .error e => stopAt s va e
    | .ok k =>
      if mayDefer k.s d then loadLater k.s [a] d k.loc n signed
      else if (memOf k.s k.s.cpu).heldRead (placeOf k.s k.s.cpu) k.loc n then .next (s.waitFor .operands)
      else loadNow k.s d a va k.loc n signed)

/-- How many trains of a strand are unacknowledged (R320). -/
def MemSt.unacked (m : MemSt) : Nat := (m.rtrains.map (·.train)).eraseDups.length

/-- Starts a remote train (R320), or a further part of the train `part`. -/
def startTrain (s : State) (d win : Nat) (elems : List RElem) (addFmt : Option Nat) (closed vec ordered : Bool)
    (amo : Option (Nat × Nat × Word × Word)) (part : Option Nat) : State :=
  let (id, s) := s.fresh
  s.withMem (fun m => { m with
    rtrains := m.rtrains ++ [{ id := id, train := part.getD id, ddev := d, win := win, elems := elems, addFmt := addFmt, sent := 0,
                               closed := closed, tailSent := false, seq := 0, ordered := ordered, vec := vec, amo := amo, order := m.rorder,
                               pc := s.pc }],
    rorder := m.rorder + 1 })

/-- The store itself: an entry of the program-order buffer, or a train of one element. -/
def putStore (s : State) (loc : Loc) (bs : List Byte) (va : Word) : State :=
  match loc with
  | .remote d w off => startTrain s d w [{ off := off, data := bs, va := va, cnt := 1 }] none true false true none none
  | l =>
    let (ord, s) := (readAnewAt s false l bs.length).fresh
    s.withMem (fun m => { m with pob := m.pob ++ [{ loc := l, data := bs, ord := ord, src := none, bad := false }] })

/-- A store of n bytes whose data the entry `src` is still to supply: the strand goes past it (R275). -/
def putLate (s : State) (l : Loc) (n src : Nat) : State :=
  let (ord, s) := (readAnewAt s false l n).fresh
  s.withMem (fun m => { m with pob := m.pob ++ [{ loc := l, data := List.replicate n 0, ord := ord, src := some src, bad := false }] })

/-- A further remote instruction waits while 64 trains are unacknowledged (R320). -/
def trainsFull (s : State) (loc : Loc) : Bool :=
  match loc with | .remote _ _ _ => decide (64 ≤ s.cpu.mem.unacked) | _ => false

/-- A scalar store of n bytes; its data register d pops after a (R61). In thaw context it raises ILL (R182). -/
def store (s : State) (word : Nat) (d a : SReg) (o : BitVec 12) (n : Nat) : Out :=
  notThaw s word (readS s word [a, d] none (fun vs =>
    let va := ldAddr (opd vs 0) o n
    match checkAccess s va n false true with
    | .error e => stopAt s va e
    | .ok k =>
      if decide (n < 8) && poisonedLast k.s k.s.cpu k.loc n then trap s Cause.ecc va
      else if trainsFull s k.loc then .next (s.waitFor .trains)
      else retire0 (putStore k.s k.loc (leBytes n (opd vs 1).toNat) va) [a, d]))

/-- R131, ldB. -/
def execLdB (d a : SReg) (o : BitVec 12) (s : State) : Out := load s (encodeNat (.ldB d a o)) d a o 1 true

/-- R131, ldH. -/
def execLdH (d a : SReg) (o : BitVec 12) (s : State) : Out := load s (encodeNat (.ldH d a o)) d a o 2 true

/-- R131, ldW. -/
def execLdW (d a : SReg) (o : BitVec 12) (s : State) : Out := load s (encodeNat (.ldW d a o)) d a o 4 true

/-- R131, ldD. -/
def execLdD (d a : SReg) (o : BitVec 12) (s : State) : Out := load s (encodeNat (.ldD d a o)) d a o 8 false

/-- R131, ldBu. -/
def execLdBu (d a : SReg) (o : BitVec 12) (s : State) : Out := load s (encodeNat (.ldBu d a o)) d a o 1 false

/-- R131, ldHu. -/
def execLdHu (d a : SReg) (o : BitVec 12) (s : State) : Out := load s (encodeNat (.ldHu d a o)) d a o 2 false

/-- R131, ldWu. -/
def execLdWu (d a : SReg) (o : BitVec 12) (s : State) : Out := load s (encodeNat (.ldWu d a o)) d a o 4 false

/-- R131, stB. -/
def execStB (d a : SReg) (o : BitVec 12) (s : State) : Out := store s (encodeNat (.stB d a o)) d a o 1

/-- R131, stH. -/
def execStH (d a : SReg) (o : BitVec 12) (s : State) : Out := store s (encodeNat (.stH d a o)) d a o 2

/-- R131, stW. -/
def execStW (d a : SReg) (o : BitVec 12) (s : State) : Out := store s (encodeNat (.stW d a o)) d a o 4

/-- R131, stD. -/
def execStD (d a : SReg) (o : BitVec 12) (s : State) : Out := store s (encodeNat (.stD d a o)) d a o 8

/-- R134: a prefetch changes nothing and never traps: poison of its address register drops it. -/
def prefetch (s : State) (word : Nat) (a : SReg) : Out :=
  portGate s word [a] none (
    if sPending s [a] then .next (s.waitFor .operands)
    else if roleOf s s.cpu == .single then retire0 s [a]
    else match dryPort (queuesOf s) [a] with
      | some r => waitQueue s r.toNat
      | none => retire0 s [a])

/-- R134: asks for the line in L1. -/
def execPrefR (a : SReg) (o : BitVec 12) (s : State) : Out := prefetch s (encodeNat (.prefR a o)) a

/-- R134: asks for it with ownership. -/
def execPrefW (a : SReg) (o : BitVec 12) (s : State) : Out := prefetch s (encodeNat (.prefW a o)) a

/-- R134: asks the home slice for it. -/
def execPrefS (a : SReg) (o : BitVec 12) (s : State) : Out := prefetch s (encodeNat (.prefS a o)) a

end Sys2Proof.Machine
end

