-- ==== Sys2Proof/Machine/Sync.lean ====
section
/-! DEFINITION. Atomics, fences, `vdrain`, monitors and barriers (R256 to R263, R283 to R287). -/

namespace Sys2Proof.Machine

/-! ## When earlier accesses have performed (R284, R287) -/

/-- Whether an access comes before f in program order; none: it comes before what the strand does next. -/
def isBefore (ord : Nat) (f : Option Nat) : Bool := match f with | some n => decide (ord < n) | none => true

/-- The scalar accesses before f are over: loads and AMOs have performed, stores have entered, and what they wrote has vis ≥ S;
one to a remote window counts for system scope, once it is acknowledged (R284, R327). -/
def scalarDone (s : State) (x : Strand) (sc : Scope) (f : Option Nat) : Bool :=
  x.mem.loads.all (fun r => !isBefore r.ord f) && x.mem.amos.all (fun r => !isBefore r.ord f) &&
  x.mem.stores.all (fun e => !isBefore e.ord f) &&
  s.log.all (fun r => !(r.owner == some x.id && r.tag == .plain && isBefore r.ord f) || visAtLeast r.loc r.vis sc) &&
  (sc != .system || x.mem.rtrains.all (fun t => t.vec || !isBefore t.id f))

/-- The loads and AMOs before f have performed (R284, kind acq). -/
def readsDone (m : MemSt) : Bool := m.loads.isEmpty && m.amos.isEmpty

/-- The vector values whose loads are a strand's: its registers, the staging value, and the queue entries it has pushed (R170). -/
def vvals (s : State) (x : Strand) : List VVal :=
  x.regs.v.toList ++ x.staging.map (·.2) ++
    (match x.id with
      | .task tid e => match s.task? tid with
        | some t => if e then t.queues.vq3 else t.queues.vq0 ++ t.queues.vq1 ++ t.queues.vq2
        | none => []
      | _ => [])

/-- Every group of a value that an access before f loads has landed (R284). -/
def VVal.landedBy (v : VVal) (f : Option Nat) : Bool :=
  v.landed == 0xFF || (match f with
    | none => false
    | some n => (List.range 8).all (fun g => v.landed.getLsbD g || decide (n ≤ v.lord.toList.getD g 0)))

/-- Every vector-side read of the strand before f has performed, and its groups have landed. -/
def loadsDone (s : State) (x : Strand) (f : Option Nat) : Bool :=
  (vvals s x).all (fun v => v.pend.all (fun r => !isBefore r.ord f) && v.landedBy f) && x.mem.vfas.all (fun r => !isBefore r.ord f) &&
  (match x.mem.sv with | some l => l.pend.all (fun r => !isBefore r.ord f) | none => true)

/-- An older vector-side write of the strand to bytes of a read is still to perform: a `vfas`, an addition (R272), a store without its
data. -/
def MemSt.unwritten (m : MemSt) (r : PendRead) : Bool :=
  m.vfas.any (fun q => decide (q.ord < r.ord) && overlaps q.loc (fmtWidth q.et / 8) r.loc r.bytes) ||
  m.trains.any (fun u => decide (u.id < r.ord) && u.elems.any (fun e => (e.op != .store || e.src.isSome) && overlaps e.loc e.data.length r.loc r.bytes))

/-- Two vector-side reads of one byte perform in program order, and within a gather in ascending order (R277): whether an
older one than the k-th of `ps` is still to perform, or an older write. -/
def olderRead (s : State) (x : Strand) (ps : List PendRead) (k : Nat) (r : PendRead) : Bool :=
  let same (q : PendRead) : Bool := overlaps q.loc q.bytes r.loc r.bytes
  (ps.take k).any (fun q => q.ord == r.ord && same q) ||
  (vvals s x).any (fun v => v.pend.any (fun q => decide (q.ord < r.ord) && same q)) ||
  (match x.mem.sv with | some l => l.pend.any (fun q => decide (q.ord < r.ord) && same q) | none => false) ||
  x.mem.unwritten r

/-- A vector-side read of n bytes as one of a load would be, at place `ord`. -/
def probeRead (l : Loc) (n ord : Nat) : PendRead := { dst := .bits, pos := 0, width := 8 * n, loc := l, srcBit := 0, ord := ord, live := 0 }

/-- Every element of the strand's trains before f has entered with vis ≥ S; remote vector trains count at system scope (R327). -/
def trainsDone (s : State) (x : Strand) (sc : Scope) (f : Option Nat) : Bool :=
  x.mem.trains.all (fun t => !isBefore t.id f) &&
  s.log.all (fun r => match r.tag with
    | .train _ _ _ => !(r.owner == some x.id && isBefore r.ord f) || visAtLeast r.loc r.vis sc
    | _ => true) &&
  (sc != .system || x.mem.rtrains.all (fun t => !t.vec || !isBefore t.id f))

/-- vdrain's condition (R284). -/
def vectorDone (s : State) (x : Strand) (sc : Scope) (f : Option Nat) : Bool := loadsDone s x f && trainsDone s x sc f

/-- Draws a ticket from TSEQ (R285). -/
def drawTicket (s : State) : State := s.withDev (fun d => { d with tseq := d.tseq + 1 })

/-! ## Atomic memory operations (R257, R258) -/

/-- The scope of an AMO's ordering (Table 12.4). -/
def amoScope : Loc → Scope
  | .dev _ => .device
  | .spad _ _ => .cluster
  | .host _ => .system
  | .remote _ _ _ => .system
  | _ => .device

/-- FP32 or BF16 addition at memory: RNE, subnormals kept, no flags (R257, R103). -/
def addAt (n old v : Nat) : Nat :=
  let F := if n == 2 then ffBF16 else ffFP32
  (addF F 0 false (decodeF F old) (decodeF F v)).1

/-- The new value of an AMO of n bytes by its Table 3.8 operation code; none where a comparison fails. -/
def amoNew (op n old v cmp : Nat) : Option Nat :=
  let w := 8 * n
  let so := intVal w true old
  let sv := intVal w true v
  match op with
  | 0 => some ((old + v) % 2 ^ w)
  | 1 => some (old &&& v)
  | 2 => some (old ||| v)
  | 3 => some (old ^^^ v)
  | 4 => some (if sv < so then v else old)
  | 5 => some (if so < sv then v else old)
  | 6 => some (if v < old then v else old)
  | 7 => some (if old < v then v else old)
  | 8 => some v
  | 9 => if old == cmp then some v else none
  | _ => some (addAt n old v)

/-- d of an AMO: sign-extended for size w, zero-extended for the others (R257). -/
def amoResult (z : AmoSize) (old : Nat) : Word := match z with | .w => (BitVec.ofNat 32 old).signExtend 64 | _ => BitVec.ofNat 64 old

/-- The condition of an Atomic move at n bytes, of the strand's access `ord` (R283, Table 13.3): every write to them in memory has
the scope of Table 12.4, the strand's buffers hold no earlier one, and no earlier `fence.rel` or `vdrain` is pending. -/
def atomicReady (s : State) (x : Strand) (ord : Nat) (loc : Loc) (n : Nat) : Bool :=
  s.log.all (fun r => !overlaps r.loc r.bytes.length loc n || visAtLeast r.loc r.vis (amoScope loc)) &&
  x.mem.stores.all (fun e => decide (ord ≤ e.ord) || !overlaps e.loc e.data.length loc n) && !x.mem.fenced ord && !x.mem.draining ord

/-- The condition of the Atomic move of an AMO (R257, R283): an earlier load or AMO of its bytes has performed, no earlier
`vdrain` is pending, and the releasing orders wait as `fence.rel` does. -/
def amoReady (s : State) (x : Strand) (ord : Nat) (loc : Loc) (n : Nat) (o : AmoOrder) : Bool :=
  atomicReady s x ord loc n && !x.mem.heldRead ord loc n &&
  (match o with | .rel | .sc => scalarDone s x (amoScope loc) (some ord) | _ => true)

/-- What was read early is read again after an acquiring AMO (Table 13.3). -/
def amoOrdered (s : State) : AmoOrder → State
  | .acq => readAnew s
  | .sc => readAnew s
  | _ => s

/-- The source fields of an AMO in pop order: `cas` reads d as well (R257). -/
def amoReads (r : AmoOp) : List SReg := if r.op == 9 then [r.a, r.b, r.d] else [r.a, r.b]

/-- The read and the write of a local AMO, in one move: what it read, and the state after its write. -/
def amoMove (s : State) (x : Strand) (ord : Nat) (r : AmoOp) (loc : Loc) (v cmp : Word) : Nat × State :=
  let n := amoBytes r.size
  let old := leNat (hide s loc (lastBytes s loc n))
  (old, match amoNew r.op n old (v.toNat % 2 ^ (8 * n)) (cmp.toNat % 2 ^ (8 * n)) with
    | some y => enter s loc (leBytes n y) x.id x.cluster (amoScope loc) .plain ord
    | none => s)

/-- The same where its addition is one of several in one move, which says what it reads and what stands in memory after them
(R283). -/
def amoOne (s : State) (x : Strand) (ord : Nat) (r : AmoOp) (loc : Loc) (v cmp : Word) (sum : Option (Nat × Nat)) : Nat × State :=
  match sum with
  | some (old, new) => (old, enter s loc (leBytes (amoBytes r.size) new) x.id x.cluster (amoScope loc) .plain ord)
  | none => amoMove s x ord r loc v cmp

/-- What a releasing AMO that the strand goes past holds of later entries: as a `fence.rel` before it (R272). -/
def relFence (s : State) (o : AmoOrder) (loc : Loc) : State :=
  if o = .rel then
    let (ord, s) := s.fresh
    s.withMem (fun m => { m with fences := m.fences ++ [{ ord := ord, drain := false, scope := amoScope loc }] })
  else s

/-- The strand goes past a relaxed or releasing AMO (R279); its register waits for it. -/
def amoLater (s : State) (r : AmoOp) (loc : Loc) (va v cmp : Word) : Out :=
  let (ord, s) := (readAnewAt (relFence s r.order loc) false loc (amoBytes r.size)).fresh
  let p : PAmo := { ord := ord, reg := if r.d = 0 then none else some r.d, op := r, loc := loc, va := va, v := v, cmp := cmp }
  .next (complete ((popPorts s (amoReads r)).withMem (fun m => let m := m.unbind r.d; { m with amos := m.amos ++ [p], late := false })))

/-- An AMO: the read and the write are one move at the executing unit. A remote one asks the other device, and draws its ticket
when the answer says that it has been performed (R258, R321). `sum` is given where it is one of several additions in one move. -/
def amo (s : State) (word : Nat) (r : AmoOp) (sum : Option (Nat × Nat) := none) : Out :=
  notThaw s word (readS s word (amoReads r) (some r.d) (fun vs =>
    let n := amoBytes r.size
    let va := opd vs 0
    let v := BitVec.ofNat 64 ((opd vs 1).toNat % 2 ^ (8 * n))
    let cmp := BitVec.ofNat 64 ((opd vs 2).toNat % 2 ^ (8 * n))
    match s.cpu.wait with
    | some (.remoteAmo q id) => .next (s.waitFor (.remoteAmo q id))
    | _ =>
      match checkAccess s va n true true with
      | .error e => stopAt s va e
      | .ok k =>
        match k.loc with
        | .remote d w off =>
          if !amoReady s s.cpu s.dev.nextUid k.loc n r.order then .next (s.waitFor (.amo r))
          else if trainsFull s k.loc then .next (s.waitFor .trains)
          else
            let id := k.s.dev.nextUid
            .next ((startTrain k.s d w [{ off := off, data := leBytes n v.toNat, va := va, cnt := 1 }] none true false true (some (r.op, n, v, cmp)) none).waitFor (.remoteAmo r id))
        | loc =>
          if sum.isNone && k.s.cpu.mem.late && (r.order == .acq || r.order == .sc) then
            .next ((s.withMem (fun m => { m with late := false })).waitFor (.amo r))
          else if sum.isNone && (r.order == .rlx || r.order == .rel) && mayDefer k.s r.d && !poisonedLast k.s k.s.cpu loc n then amoLater k.s r loc va v cmp
          else if !amoReady k.s k.s.cpu k.s.dev.nextUid loc n r.order then .next (s.waitFor (.amo r))
          else if poisonedLast k.s k.s.cpu loc n then trap s Cause.ecc va
          else
            let (ord, s1) := k.s.fresh
            let (old, s2) := amoOne (if r.order = .sc then drawTicket s1 else s1) s1.cpu ord r loc v cmp sum
            retire (amoOrdered (readAnewAt s2 false loc n) r.order) (amoReads r) r.d (amoResult r.size old)))

/-- R257, add. -/
def execAmoAdd (d a b : SReg) (o : AmoOrder) (z : IntSize) (s : State) : Out :=
  amo s (encodeNat (.amoAdd d a b o z)) { op := 0, size := z.toAmo, order := o, d := d, a := a, b := b }

/-- R257, and. -/
def execAmoAnd (d a b : SReg) (o : AmoOrder) (z : IntSize) (s : State) : Out :=
  amo s (encodeNat (.amoAnd d a b o z)) { op := 1, size := z.toAmo, order := o, d := d, a := a, b := b }

/-- R257, or. -/
def execAmoOr (d a b : SReg) (o : AmoOrder) (z : IntSize) (s : State) : Out :=
  amo s (encodeNat (.amoOr d a b o z)) { op := 2, size := z.toAmo, order := o, d := d, a := a, b := b }

/-- R257, xor. -/
def execAmoXor (d a b : SReg) (o : AmoOrder) (z : IntSize) (s : State) : Out :=
  amo s (encodeNat (.amoXor d a b o z)) { op := 3, size := z.toAmo, order := o, d := d, a := a, b := b }

/-- R257, min. -/
def execAmoMin (d a b : SReg) (o : AmoOrder) (z : IntSize) (s : State) : Out :=
  amo s (encodeNat (.amoMin d a b o z)) { op := 4, size := z.toAmo, order := o, d := d, a := a, b := b }

/-- R257, max. -/
def execAmoMax (d a b : SReg) (o : AmoOrder) (z : IntSize) (s : State) : Out :=
  amo s (encodeNat (.amoMax d a b o z)) { op := 5, size := z.toAmo, order := o, d := d, a := a, b := b }

/-- R257, minu. -/
def execAmoMinu (d a b : SReg) (o : AmoOrder) (z : IntSize) (s : State) : Out :=
  amo s (encodeNat (.amoMinu d a b o z)) { op := 6, size := z.toAmo, order := o, d := d, a := a, b := b }

/-- R257, maxu. -/
def execAmoMaxu (d a b : SReg) (o : AmoOrder) (z : IntSize) (s : State) : Out :=
  amo s (encodeNat (.amoMaxu d a b o z)) { op := 7, size := z.toAmo, order := o, d := d, a := a, b := b }

/-- R257, swap. -/
def execAmoSwap (d a b : SReg) (o : AmoOrder) (z : AmoSize) (s : State) : Out :=
  amo s (encodeNat (.amoSwap d a b o z)) { op := 8, size := z, order := o, d := d, a := a, b := b }

/-- R257, cas. -/
def execAmoCas (d a b : SReg) (o : AmoOrder) (z : AmoSize) (s : State) : Out :=
  amo s (encodeNat (.amoCas d a b o z)) { op := 9, size := z, order := o, d := d, a := a, b := b }

/-- R257, fadd. -/
def execAmoFadd (d a b : SReg) (o : AmoOrder) (z : FpSize) (s : State) : Out :=
  amo s (encodeNat (.amoFadd d a b o z)) { op := 10, size := z.toAmo, order := o, d := d, a := a, b := b }

/-- The AMO a waiting strand's wait describes, once more. -/
def amoAgain (s : State) (r : AmoOp) : Out := amo s 0 r

/-! ## Fences and vdrain (R259, R260) -/

/-- Whether scope sc, taken relative to a writer, includes a strand (R251). -/
def scopeHas (sc : Scope) (x : Strand) (owner : Option StrandId) (cluster : Nat) : Bool :=
  owner == some x.id ||
  match sc with
  | .strand => false
  | .cluster => cluster == x.cluster
  | .octet => cluster / 8 == x.cluster / 8
  | .die => cluster / 64 == x.cluster / 64
  | .device => true
  | .system => true

/-- Whether a word that stands where this one was taken up, and is newer, has performed at a scope that includes the strand (R73). Of the
writers since then, the last ones are those whose writes have not settled. -/
def Stale.outdated (e : Stale) (s : State) (x : Strand) (sc : Scope) : Bool :=
  let rs := s.log.filter (fun r => overlaps e.loc 4 r.loc r.bytes.length)
  (e.newer.take (e.newer.length - rs.length)).any (fun w => scopeHas sc x w.1 w.2) ||
  (rs.drop (rs.length - e.newer.length)).any (fun r => visAtLeast r.loc r.vis sc && scopeHas sc x r.owner r.cluster)

/-- The instruction words that some strands may still fetch after an acquiring fence at scope sc (R73). -/
def freshWords (s : State) (ids : List StrandId) (sc : Scope) : List Stale :=
  s.stales.filter (fun e => !ids.contains e.strand || (match s.strand? e.strand with | some x => !e.outdated s x sc | none => false))

/-- An acquiring fence at scope sc ends the strand's use of instruction words that it orders (R73), and of reads made early. -/
def dropStale (s : State) (sc : Scope) : State := readAnew { s with stales := freshWords s [s.cpu.id] sc }

/-- When a fence of the strand at place f completes (R284, Table 13.3). -/
def fenceReady (s : State) (x : Strand) (k : FenceKind) (sc : Scope) (f : Option Nat) : Bool :=
  !x.mem.draining (f.getD s.dev.nextUid) && (match k with | .acq => readsDone x.mem | _ => scalarDone s x sc f)

/-- A fence completes once its condition holds (R284). -/
def fence (s : State) (k : FenceKind) (sc : Scope) : Out :=
  if !fenceReady s s.cpu k sc none then .next (s.waitFor (.fence k sc))
  else .next (complete (match k with | .rel => s | .sc => drawTicket (dropStale s sc) | _ => dropStale s sc))

/-- The strand goes past a `fence.rel` or a `vdrain` that has not completed: it holds what Table 13.3 says of later entries, and
nothing else. A read that Table 13.3 holds has not been made early. -/
def goPast (s : State) (drain : Bool) (sc : Scope) : State :=
  let (ord, s) := (if drain then s.withMem (fun m => m.forget (fun e => !e.vec)) else s).fresh
  complete (s.withMem (fun m => { m with fences := m.fences ++ [{ ord := ord, drain := drain, scope := sc }] }))

/-- R259, kind acq. -/
def execFenceAcq (sc : Scope) (s : State) : Out := notThaw s (encodeNat (.fenceAcq sc)) (fence s .acq sc)

/-- R259, kind rel. -/
def execFenceRel (sc : Scope) (s : State) : Out := notThaw s (encodeNat (.fenceRel sc)) (fence s .rel sc)

/-- R259, kind ar. -/
def execFenceAr (sc : Scope) (s : State) : Out := notThaw s (encodeNat (.fenceAr sc)) (fence s .ar sc)

/-- R259, kind sc: it also draws a ticket. -/
def execFenceSc (sc : Scope) (s : State) : Out := notThaw s (encodeNat (.fenceSc sc)) (fence s .sc sc)

/-- R260. The management core and a thaw thread make no vector access, so it completes at once there (R446). -/
def execVdrain (sc : Scope) (s : State) : Out :=
  if vectorDone s s.cpu sc none then .next (complete (s.withMem (fun m => m.forget (fun e => !e.vec))))
  else .next (s.waitFor (.vdrain sc))

/-! ## Monitors (R261, R262) -/

/-- R261: a failed check leaves the earlier monitor armed. -/
def execMmon (a : SReg) (s : State) : Out :=
  notThaw s (encodeNat (.mmon a)) (readS s (encodeNat (.mmon a)) [a] none (fun vs =>
    let va := opd vs 0
    match checkAccess s va 8 true false with
    | .error e => stopAt s va e
    | .ok k => retire0 (k.s.withExt (fun x => { x with monitor := some va })) [a]))

/-- R262: with no armed monitor it completes at once, but for an earlier `vdrain` (Table 13.3), and writes 0; otherwise it reads the word, and completes once the
value read is at least a (R286). -/
def execMwait (d a : SReg) (s : State) : Out :=
  notThaw s (encodeNat (.mwait d a)) (readS s (encodeNat (.mwait d a)) [a] (some d) (fun vs =>
    match s.cpu.ext.monitor with
    | none => if s.cpu.mem.draining s.dev.nextUid then .next (s.waitFor (.mwait d a)) else retire s [a] d 0
    | some va =>
      match checkAccess (readAnew s) va 8 true false with
      | .error e => stopAt s va e
      | .ok k =>
        if k.s.cpu.mem.heldRead k.s.dev.nextUid k.loc 8 then .next (k.s.waitFor (.mwait d a))
        else if poisonedRead k.s k.s.cpu k.s.dev.nextUid k.loc 8 then trap s Cause.ecc va
        else
          let v := leNat (scalarBytes k.s k.s.cpu k.loc 8)
          if (opd vs 0).toNat ≤ v then retire k.s [a] d (BitVec.ofNat 64 v) else .next (k.s.waitFor (.mwait d a))))

/-! ## Barriers (R263, R287) -/

/-- The widths w0 to w5 of a launch (R22). -/
def widths (widw : Word) : List Nat := (List.range 6).map (fun j => bitsOf widw (7 * j + 6) (7 * j))

/-- Field L of a work identifier (R20). -/
def widField (widw wid : Word) (l : Nat) : Nat :=
  let ws := widths widw
  let below := (ws.drop (l + 1)).foldl (· + ·) 0
  wid.toNat / 2 ^ below % 2 ^ ws.getD l 0

/-- Whether two tasks of one launch agree in fields L0 to Lj−1 (R20). -/
def sameGroup (l : Nat) (t u : Task) : Bool :=
  t.tenant == u.tenant && t.lid == u.lid && t.kind != .root && u.kind != .root &&
  (List.range l).all (fun j => widField t.widw t.wid j == widField u.widw u.wid j)

/-- The tuples of a launch that agree with a task in fields L0 to Lj−1: the first index and how many (R338). -/
def tupleRange (l : Launch) (t : Task) (lev : Nat) : Nat × Nat :=
  let exts := l.ext.map (· + 1)
  let size := (exts.drop lev).foldl (· * ·) 1
  let idx := (List.range lev).foldl (fun acc j => acc * exts.getD j 1 + widField t.widw t.wid j) 0
  (idx * size, size)

/-- A task's arrivals at a level: both strands of a pair have issued (R263). -/
def taskArrivals (s : State) (t : Task) (l : Nat) : Nat :=
  let of (e : Bool) : Nat := ((s.strand? (.task t.tid e)).map (fun x => x.ext.bars.getD l 0)).getD 0
  if t.dual then Nat.min (of false) (of true) else of false

/-- Whether every member of a task's level-L group has arrived k times or has ended; a member not yet created has done
neither. -/
def barMet (s : State) (t : Task) (l k : Nat) : Bool :=
  s.tasks.all (fun u => !sameGroup l t u || decide (k ≤ taskArrivals s u l)) &&
  decide (t.kind == .root ∨ k ≤ taskArrivals s t l) &&
  match s.launch? t.tenant t.lid with
  | some la =>
    let (b, n) := tupleRange la t l
    decide (b + n ≤ la.created) && la.skipped.all (fun i => !(decide (b ≤ i ∧ i < b + n)))
  | none => true

/-- The code of a level whose `bar` has issued but not arrived, one whose `bar` has arrived, and one whose `bar` is complete
while its strand stands elsewhere. -/
def barIssuedCode (l : Nat) : Nat := l
def barArrivedCode (l : Nat) : Nat := l + 8
def barDoneCode (l : Nat) : Nat := l + 16

/-- The arrival of a `bar` that has issued, once every earlier access has vis ≥ device (R287). -/
def barArrive (s : State) (x : Strand) (l : Nat) : State :=
  if x.ext.barIssued.contains (barIssuedCode l) && scalarDone s x .device none && vectorDone s x .device none then
    s.modStrand x.id (fun y => { y with ext := { y.ext with
      bars := y.ext.bars.set l (y.ext.bars.getD l 0 + 1),
      barIssued := (y.ext.barIssued.filter (· != barIssuedCode l)) ++ [barArrivedCode l] } })
  else s

/-- The strands of the tasks of a level-L group (R20). -/
def barStrands (s : State) (t : Task) (l : Nat) : List Strand :=
  s.strands.filter (fun x => match tidOf x.id with
    | some tid => match s.task? tid with | some u => u.tid == t.tid || sameGroup l t u | none => false
    | none => false)

/-- No member holds a `vdrain` that the completion must wait for (Table 13.3). -/
def barOpen (s : State) (t : Task) (l : Nat) : Bool := (barStrands s t l).all (fun x => !x.mem.draining s.dev.nextUid)

/-- The instruction a strand waits in completes without a taken control transfer, as `complete` does for the cpu. -/
def completeStrand (s : State) (x : Strand) : Strand :=
  { x with ctl := endCheck (32 * ((s.cluster x.cluster).eff.vln + 1)) x.ctl.pc x.ctl, wait := none, ir := none, usage := x.usage.count }

/-- The barrier completes in every member in one move (R287): a member that waits goes on, as after `fence.ar.device`; one that
stands elsewhere, in a handler or saved, completes its `bar` when it comes back to it. -/
def barRelease (s : State) (t : Task) (l : Nat) : State :=
  let arrived (x : Strand) : Bool := x.ext.barIssued.contains (barArrivedCode l)
  let ids := ((barStrands s t l).filter arrived).map (·.id)
  let leave (x : Strand) : Strand :=
    let rest := x.ext.barIssued.filter (· != barArrivedCode l)
    if !ids.contains x.id then x
    else
      let y := { x with mem := x.mem.forget (fun _ => true) }
      match x.wait with
      | some (.bar k) =>
        if k.code != l || x.id == s.cpu.id then { y with ext := { y.ext with barIssued := rest ++ [barDoneCode l] } }
        else completeStrand s { y with ext := { y.ext with barIssued := rest } }
      | _ => { y with ext := { y.ext with barIssued := rest ++ [barDoneCode l] } }
  { s.modStrands leave with stales := freshWords s ids .device }

/-- R263. The management core belongs to no group, so it completes at once (R446). -/
def execBar (l : Level) (s : State) : Out :=
  notThaw s (encodeNat (.bar l)) (
    let n := l.code
    match taskOf s s.cpu with
    | none => .next (complete (dropStale s .device))
    | some t =>
      let held := s.cpu.ext.barIssued
      let s1 := if [barIssuedCode n, barArrivedCode n, barDoneCode n].any held.contains then s
                else s.withExt (fun x => { x with barIssued := x.barIssued ++ [barIssuedCode n] })
      let s2 := barArrive s1 s1.cpu n
      let met := s2.cpu.ext.barIssued.contains (barArrivedCode n) && barMet s2 t n (s2.cpu.ext.bars.getD n 0) && barOpen s2 t n
      let s3 := if met then barRelease s2 t n else s2
      if s3.cpu.ext.barIssued.contains (barDoneCode n) then
        .next (complete ((dropStale s3 .device).withExt (fun x => { x with barIssued := x.barIssued.filter (· != barDoneCode n) })))
      else .next (s3.waitFor (.bar l)))

end Sys2Proof.Machine
end

