-- ==== Sys2Proof/Machine/Trans.lean ====
section
/-! DEFINITION. The correctly rounded functions of VFUNC (R192, R193). Each is evaluated in fixed point far beyond the
precision of its result; the two ends of the error interval are rounded, and where they round apart the evaluation is
repeated at more bits (log entry 3). -/

namespace Sys2Proof.Machine.Trans

/-- A fixed-point product at p fraction bits. -/
def fmul (p : Nat) (a b : Int) : Int := a * b / 2 ^ p

/-- Σ ± q^(2k+1)/(2k+1) with q = 1/n; `alt` for the alternating series (arc tangent), else the area tangent. -/
def atanInvGo (alt : Bool) (n2 : Int) : Nat → Int → Int → Int → Int
  | 0, _, _, acc => acc
  | fuel + 1, t, k, acc =>
    atanInvGo alt n2 fuel (t / n2) (k + 1) (acc + (if alt && k % 2 == 1 then -(t / (2 * k + 1)) else t / (2 * k + 1)))

def atanInv (p : Nat) (alt : Bool) (n : Int) : Int := atanInvGo alt (n * n) p (2 ^ p / n) 0 0

/-- π at p fraction bits. -/
def piFix (p : Nat) : Int := 16 * atanInv p true 5 - 4 * atanInv p true 239

/-- ln 2 at p fraction bits. -/
def ln2Fix (p : Nat) : Int := 2 * atanInv p false 3

def expGo (p : Nat) (r : Int) : Nat → Int → Int → Int → Int
  | 0, _, _, acc => acc
  | fuel + 1, k, t, acc => expGo p r fuel (k + 1) (fmul p t r / k) (acc + t)

/-- e^r for |r| < 1. -/
def expFix (p : Nat) (r : Int) : Int := expGo p r (p / 2) 1 (2 ^ p) 0

/-- A value m × 2^e at p fraction bits. -/
def toFix (p : Nat) (i : Int) (e : Int) : Int :=
  let k := e + p
  if 0 ≤ k then i * 2 ^ k.toNat else i / 2 ^ (-k).toNat

/-- e^x of a fixed-point x, as n × 2^e: x = k ln 2 + r. -/
def expDy (p : Nat) (x : Int) : Int × Int :=
  let l := ln2Fix p
  let k := (2 * x + l) / (2 * l)
  (expFix p (x - k * l), k - p)

def logGo (p : Nat) (z2 : Int) : Nat → Int → Int → Int → Int
  | 0, _, _, acc => acc
  | fuel + 1, k, t, acc => logGo p z2 fuel (k + 1) (fmul p t z2) (acc + t / (2 * k + 1))

/-- ln of m × 2^e. -/
def logFix (p : Nat) (m : Nat) (e : Int) : Int :=
  let l : Int := m.log2
  -- m/2^l in [1, 2); above 4/3 it is halved
  let up := decide (4 * 2 ^ m.log2 < 3 * m)
  let d : Int := if up then 2 ^ (m.log2 + 1) else 2 ^ m.log2
  let z := ((m : Int) - d) * 2 ^ p / ((m : Int) + d)
  2 * logGo p (fmul p z z) (p / 3) 0 z 0 + (e + l + (if up then 1 else 0)) * ln2Fix p

/-- Alternating factorial series: t, −t r²/(k(k+1)), … -/
def trigGo (p : Nat) (r2 : Int) : Nat → Int → Int → Int → Int
  | 0, _, _, acc => acc
  | fuel + 1, k, t, acc => trigGo p r2 fuel (k + 2) (-(fmul p t r2) / (k * (k + 1))) (acc + t)

def sinFix (p : Nat) (r : Int) : Int := trigGo p (fmul p r r) (p / 4) 2 r 0
def cosFix (p : Nat) (r : Int) : Int := trigGo p (fmul p r r) (p / 4) 1 (2 ^ p) 0

/-- sin or cos of ±m × 2^e: the argument is reduced exactly by a multiple of π/2. -/
def trigFix (p : Nat) (cos : Bool) (s : Bool) (m : Nat) (e : Int) : Int :=
  let q := p + 160
  let x := toFix q (if s then -(m : Int) else m) e
  let h := piFix q / 2
  let k := (2 * x + h) / (2 * h)
  let r := (x - k * h) / 2 ^ 160
  let j := (k + (if cos then 1 else 0)) % 4
  if j == 0 then sinFix p r else if j == 1 then cosFix p r else if j == 2 then -(sinFix p r) else -(cosFix p r)

def erfGo (p : Nat) (x2 : Int) : Nat → Int → Int → Int → Int
  | 0, _, _, acc => acc
  | fuel + 1, k, t, acc => erfGo p x2 fuel (k + 1) (2 * fmul p t x2 / (2 * k + 3)) (acc + t)

/-- erf x / x for |x| < 8, as n × 2^e: (2/√π) e^(−x²) Σ 2^k x^(2k) / (1·3·…·(2k+1)). -/
def erfOver (p : Nat) (x : Int) : Int × Int :=
  let x2 := fmul p x x
  let sum := erfGo p x2 (2 * p) 0 (2 ^ p) 0
  let (n, e) := expDy p (-x2)
  let rt : Int := isqrt ((piFix p).toNat * 2 ^ p)
  (2 * (sum * n / 2 ^ p) * 2 ^ p / rt, e)

/-- 1/√(m × 2^e), with a sticky last bit. -/
def rsqrtSticky (m : Nat) (e : Int) : Nat × Int :=
  let m1 := if e % 2 == 0 then m else 2 * m
  let e1 := if e % 2 == 0 then e else e - 1
  let r := isqrt (2 ^ 640 / m1)
  (2 * r + (if r * r * m1 == 2 ^ 640 then 0 else 1), -(e1 / 2) - 320 - 1)

/-- One evaluation at p bits: n × 2^e, with a relative error below 2^(64 − p). -/
def approx (f p : Nat) (s : Bool) (m : Nat) (e : Int) : Int × Int :=
  let sg : Int := if s then -1 else 1
  let x := toFix p (sg * m) e
  match f with
  | 0 => expDy p (if 400 * 2 ^ p < x then 400 * 2 ^ p else if x < -(400 * 2 ^ p) then -(400 * 2 ^ p) else x)
  | 1 =>
    -- 2^x: the integer part is exact
    let y := if 500 * 2 ^ p < x then 500 * 2 ^ p else if x < -(500 * 2 ^ p) then -(500 * 2 ^ p) else x
    let k := y / 2 ^ p
    (expFix p (fmul p (y % 2 ^ p) (ln2Fix p)), k - p)
  | 2 => (logFix p m e, -(p : Int))
  | 3 => (logFix p m e * 2 ^ p / ln2Fix p, -(p : Int))
  | 4 => (trigFix p false s m e, -(p : Int))
  | 5 => (trigFix p true s m e, -(p : Int))
  | 6 =>
    if 64 * 2 ^ p < x.natAbs then (sg * (2 ^ p - 1), -(p : Int))
    else
      -- (1 − q)/(1 + q) with q = e^(−2|x|)
      let (n, k) := expDy p (-2 * x.natAbs)
      let q := toFix p n k
      (sg * ((2 ^ p - q) * 2 ^ p / (2 ^ p + q)), -(p : Int))
  | 7 =>
    let y := if 400 * 2 ^ p < x.natAbs then sg * (400 * 2 ^ p) else x
    let (n, k) := expDy p y
    -- q = e^x: q/(1 + q), dividing by 1 + q at full relative precision
    if y < 0 then (n * 2 ^ p / (2 ^ p + toFix p n k), k)
    else
      let (n', k') := expDy p (-y)
      (2 ^ p * 2 ^ p / (2 ^ p + toFix p n' k'), -(p : Int))
  | _ =>
    if 7 * 2 ^ p < x.natAbs then (sg * (2 ^ p - 1), -(p : Int))
    else
      let (n, k) := erfOver p x
      (sg * m * n, k + e)

/-- A rounded signed dyadic number that is inexact. -/
def roundDy (F : FF) (fz : Bool) (n e : Int) : FRes :=
  if n == 0 then (0, 0) else rndQ F 0 false fz (decide (n < 0)) n.natAbs 1 e

/-- Both ends of the error interval; the first precision at which they agree. -/
def decideAt (F : FF) (fz : Bool) (f : Nat) (s : Bool) (m : Nat) (e : Int) : List Nat → FRes
  | [] => (0, 0)
  | p :: ps =>
    let (n, k) := approx f p s m e
    -- the error is below |n| × 2^(96 − p), written out at 128 more bits
    let w : Int := n.natAbs * 2 ^ (128 + 96) / 2 ^ p + 1
    let a := roundDy F fz (n * 2 ^ 128 - w) (k - 128)
    let b := roundDy F fz (n * 2 ^ 128 + w) (k - 128)
    if a == b || ps.isEmpty then (a.1, a.2 ||| .nx) else decideAt F fz f s m e ps

/-- An inexact value of function f at a nonzero finite argument. Below 2^−40, sin and tanh lie just under
x in magnitude, and x − x³/4 rounds as they do. -/
def inexact (F : FF) (fz : Bool) (f : Nat) (s : Bool) (m : Nat) (e : Int) : FRes :=
  if (f == 4 || f == 6) && decide ((m.log2 : Int) + e < -40) then
    let r := addFin s m e (!s) (m * m * m) (3 * e - 2)
    let r := roundDy F fz r.1 r.2
    (r.1, r.2 ||| .nx)
  else decideAt F fz f s m e [256, 512]

/-- Whether m × 2^e is an integer, and its value. -/
def asInt (s : Bool) (m : Nat) (e : Int) : Option Int :=
  let r := stepInt 1 s m e
  if r.2 then none else some r.1

/-- The exponent k if m × 2^e is 2^k. -/
def asPow2 (m : Nat) (e : Int) : Option Int := if m == 2 ^ m.log2 then some (m.log2 + e) else none

/-- Function f (0 to 11 of R192) of an exact value: Table 7.7, the exact cases, and the rounded value. -/
def vfunc (F : FF) (fz : Bool) (f : Nat) (x : Val) : FRes :=
  let qn := qnanF F
  let pinf := packF F false F.infB
  let ninf := packF F true F.infB
  let one := encArith F 0 fz (.ofInt 1)
  match x with
  | .nan sg => (qn, if sg then .nv else 0)
  | .inf s =>
    match f with
    | 0 | 1 => (if s then 0 else pinf, 0)
    | 2 | 3 => if s then (qn, .nv) else (pinf, 0)
    | 4 | 5 => (qn, .nv)
    | 6 | 11 => encArith F 0 fz (.ofInt (if s then -1 else 1))
    | 7 => if s then (0, 0) else one
    | 8 => (packF F s 0, 0)
    | 9 => if s then (qn, .nv) else (pinf, 0)
    | _ => if s then (qn, .nv) else (0, 0)
  | .fin s 0 _ =>
    match f with
    | 0 | 1 | 5 => one
    | 2 | 3 => (ninf, .dz)
    | 4 | 6 | 9 | 11 => (packF F s 0, 0)
    | 7 => encArith F 0 fz (.fin false 1 (-1))
    | _ => (if s then ninf else pinf, .dz)
  | .fin s m e =>
    match f with
    | 1 =>
      match asInt s m e with
      | some k => if k < -600 then rndQ F 0 false fz false 1 1 (-600) else if 600 < k then rndQ F 0 false fz false 1 1 600
                  else rndQ F 0 false fz false 1 1 k
      | none => inexact F fz f s m e
    | 2 =>
      if s then (qn, .nv)
      else if asPow2 m e == some 0 then (0, 0)
      else inexact F fz f s m e
    | 3 =>
      if s then (qn, .nv)
      else match asPow2 m e with
        | some k => encArith F 0 fz (.ofInt k)
        | none => inexact F fz f s m e
    | 8 => divF F 0 fz (.ofInt 1) x
    | 9 => sqrtF F 0 fz x
    | 10 =>
      if s then (qn, .nv)
      else let (n, k) := rsqrtSticky m e; rndQ F 0 false fz false n 1 k
    | _ => inexact F fz f s m e

end Sys2Proof.Machine.Trans
end

