-- ==== Sys2Proof/Machine/Flags.lean ====
section
/-! DEFINITION. What one element of an element-wise vector instruction becomes, with the flags it raises (R147 to R151, R153,
R192, R196), and which elements the lanes divert (R172 to R174). Operation codes are those of Table 7.5. -/

namespace Sys2Proof.Machine

/-- The bits of a float operand as an instruction reads it: ignored bits zero, and under FZ a subnormal is a zero (R80, R92). -/
def readBits (F : FF) (fz : Bool) (x : Nat) : Nat :=
  let y := x / 2 ^ F.shift % 2 ^ (F.mb + F.eb + 1) * 2 ^ F.shift
  if fz && isSubF F x then packF F (decide (x / 2 ^ F.shift / 2 ^ (F.mb + F.eb) % 2 = 1)) 0 else y

/-- A result with its sign set or cleared; a NaN is canonical, with NV if signalling (Table 6.3). -/
def signF (F : FF) (neg : Bool → Bool) (v : Val) (b : Nat) : FRes :=
  match v with
  | .nan sg => (qnanF F, if sg then .nv else 0)
  | _ =>
    let y := b / 2 ^ F.shift
    (packF F (neg v.negB) (y % 2 ^ (F.mb + F.eb)), 0)

/-- The wide format of `vaddw` (Table 6.4). -/
def wideFmt (f : Nat) : Option Nat :=
  match f with
  | 0x12 => some 0x10 | 0x13 => some 0x11 | 0x10 => some 0x20 | 0x11 => some 0x21 | 0x20 => some 0x22 | 0x21 => some 0x23
  | 0x03 => some 0x00 | 0x02 => some 0x00 | 0x00 => some 0x24 | _ => none

/-- The tag of `vclass`'s result (R150). -/
def classFmt (f : Nat) : Nat := if fmtWidth f == 64 then 0x23 else if fmtWidth f == 32 then 0x21 else 0x11

/-- A float VARITH function (Table 6.3). -/
def arithF (F : FF) (rm : RM) (fz : Bool) (f : Nat) (a b : Nat) : FRes :=
  let x := readF F fz a
  let y := readF F fz b
  let xb := readBits F fz a
  let yb := readBits F fz b
  match f with
  | 0 => addF F rm fz x y
  | 1 => addF F rm fz x y.neg
  | 2 => mulF F rm fz x y
  | 4 => divF F rm fz x y
  | 5 => minmaxF F false x y xb yb
  | 6 => minmaxF F true x y xb yb
  | 7 => signF F (fun _ => false) x xb
  | 8 => signF F (fun s => !s) x xb
  | 18 => (classWord F xb, 0)
  | 19 => sgnjF F 0 xb yb
  | 25 => sgnjF F 1 xb yb
  | 26 => sgnjF F 2 xb yb
  | _ => (0, 0)

/-- An integer quotient (Table 6.3). -/
def divI (w : Nat) (sg sat : Bool) (x y : Int) : FRes :=
  if y == 0 then
    let (lo, hi) := intRange w sg
    (intBits w (if sg then (if 0 ≤ x then hi else lo) else hi), 0)
  else wrapSat w sg sat (x.tdiv y)

/-- An integer VARITH function (Table 6.3). -/
def arithI (w : Nat) (sg sat : Bool) (f : Nat) (a b : Nat) : FRes :=
  let x := intVal w sg a
  let y := intVal w sg b
  let k := b % w
  let ua := a % 2 ^ w
  let ub := b % 2 ^ w
  match f with
  | 0 => wrapSat w sg sat (x + y)
  | 1 => wrapSat w sg sat (x - y)
  | 2 => wrapSat w sg sat (x * y)
  | 3 => (intBits w (x * y / 2 ^ w), 0)
  | 4 => divI w sg sat x y
  | 5 => (if y < x then ub else ua, 0)
  | 6 => (if x < y then ub else ua, 0)
  | 7 => wrapSat w sg sat x.natAbs
  | 8 => wrapSat w sg sat (-x)
  | 9 => (ua &&& ub, 0)
  | 10 => (ua ||| ub, 0)
  | 11 => (ua ^^^ ub, 0)
  | 12 => (2 ^ w - 1 - ua, 0)
  | 13 => (ua * 2 ^ k % 2 ^ w, 0)
  | 14 => (ua / 2 ^ k, 0)
  | 15 => (intBits w (intVal w true a / 2 ^ k), 0)
  | _ => (0, 0)

/-- acc32 (R148): wrap32, or clamp32 under SAT. -/
def acc32 (sat : Bool) (i : Int) : FRes := wrapSat 32 true sat i

/-- One dot product of `vdot4`: the four bytes of a and of b, and the old element (R148). -/
def dot4 (sg sat : Bool) (a b c : Nat) : FRes :=
  let byt (x k : Nat) : Int := intVal 8 sg (x / 2 ^ (8 * k))
  acc32 sat (intVal 32 true c + (List.range 4).foldl (fun t k => t + byt a k * byt b k) 0)

/-- One sum of `vaddw` (R149): the narrow operand widens exactly. -/
def addW (f : Nat) (rm : RM) (fz sat : Bool) (a b : Nat) : FRes :=
  match wideFmt f with
  | none => (0, 0)
  | some g =>
    match floatFmt f, floatFmt g with
    | some F, some G => addF G rm fz (readF F fz a) (readF G fz b)
    | _, _ =>
      match intFmt f, intFmt g with
      | some (w, sg), some (v, _) => wrapSat v sg sat (intVal v sg b + intVal w sg a)
      | _, _ => (0, 0)

/-- A fused multiply-add variant (R151). -/
def fmaElem (f : Nat) (rm : RM) (fz sat : Bool) (k a b c : Nat) : FRes :=
  match floatFmt f with
  | some F => fmaF F rm fz (decide (2 ≤ k)) (k % 2 == 1) (readF F fz a) (readF F fz b) (readF F fz c)
  | none =>
    match intFmt f with
    | some (w, sg) =>
      let p := intVal w sg a * intVal w sg b
      let z := intVal w sg c
      wrapSat w sg sat ((if 2 ≤ k then -p else p) + (if k % 2 == 1 then -z else z))
    | none => (0, 0)

/-- The result of operation `op` (Table 7.5, 1 to 43) on an element's operands, in the lanes or from a built-in handler: the
two give the same bits (R74, R183). -/
def elemOp (op f : Nat) (rm : RM) (fz sat : Bool) (a b c : Nat) : FRes :=
  if op == 25 then (a % 2 ^ fmtWidth f, 0)
  else if op == 17 then dot4 (match intFmt f with | some (_, sg) => sg | none => true) sat a b c
  else if op == 18 then addW f rm fz sat a b
  else if 21 ≤ op && op ≤ 24 then fmaElem f rm fz sat (op - 21) a b c
  else
    match floatFmt f with
    | some F =>
      if 32 ≤ op then Trans.vfunc F fz (op - 32) (readF F fz a)
      else arithF F rm fz (op - 1) a b
    | none =>
      match intFmt f with
      | some (w, sg) => arithI w sg sat (op - 1) a b
      | none => (0, 0)

/-! ## Diversion (R172 to R174) -/

/-- Whether an exact nonzero value lies below 2^emin in magnitude. -/
def tiny (F : FF) (v : Val) : Bool :=
  match v with
  | .fin _ m e => m != 0 && decide ((m.log2 : Int) + e < F.emin)
  | _ => false

/-- abs(x) compared with m × 2^e. -/
def absCmp (x : Val) (m : Nat) (e : Int) : Ordering := x.abs.cmp (.fin false m e)

/-- Whether r = x / y has 0 < abs(r) < 2^emin. -/
def tinyQuot (F : FF) (x y : Val) : Bool :=
  match x, y with
  | .fin _ m e, .fin _ n k => m != 0 && n != 0 && decide (flog2 m n + (e - k) < F.emin)
  | _, _ => false

/-- Whether abs(x / y) > F.max. -/
def hugeQuot (F : FF) (x y : Val) : Bool :=
  match x, y, decodeF F (F.maxB * 2 ^ F.shift) with
  | .fin _ m e, .fin _ n k, .fin _ p q => n != 0 && ((Val.fin false m e).cmp (.fin false (p * n) (q + k)) == .gt)
  | _, _, _ => false

/-- Whether e^x < 2^emin, for a finite x: x < emin × ln 2 (log entry 3). -/
def expTiny (F : FF) (x : Val) : Bool :=
  match x with
  | .fin s m e =>
    let p := 256
    let v : Int := Trans.toFix p (if s then -(m : Int) else m) e
    decide (v < F.emin * Trans.ln2Fix p)
  | _ => false

/-- Table 7.1 for one element's operands, which R174 has read under FZ. -/
def divertsF (F : FF) (fz : Bool) (op : Nat) (a b c : Nat) : Bool :=
  let x := readF F fz a
  let y := readF F fz b
  let z := readF F fz c
  let two := (1 ≤ op && op ≤ 3) || op == 5
  let three := 21 ≤ op && op ≤ 24
  let special (v : Val) : Bool := v.isNan || v.isInf
  if special x || ((two || three) && special y) || (three && special z) then false
  else
    let sub := !fz && (isSubF F a || ((two || three) && isSubF F b) || (three && isSubF F c))
    let res (v : Option Val) : Bool := !fz && (match v with | some r => tiny F r | none => false)
    match op with
    | 1 => sub || res (x.add y false)
    | 2 => sub || res (x.add y.neg false)
    | 3 => sub || res (x.mul y)
    | 5 => x.isZero || y.isZero || sub || (!fz && tinyQuot F x y) || hugeQuot F x y
    | 21 | 22 | 23 | 24 =>
      sub || res ((x.mul y).bind (fun p => (if 23 ≤ op then p.neg else p).add (if op % 2 == 0 then z.neg else z) false))
    | 36 | 37 => sub || absCmp x 1 15 != .lt
    | 32 => sub || (!fz && expTiny F x)
    | 33 => sub || (!fz && (x.cmp (Val.ofInt F.emin) == .lt))
    | 34 | 35 => sub || (match x.add (.fin true 1 0) false with | some r => absCmp r 1 (-7) == .lt | none => false)
    | 40 => x.isZero || sub || (!fz && tinyQuot F (.fin false 1 0) x)
    | 38 | 41 | 42 | 43 => sub
    | 39 => sub || x.cmp (.ofInt (-88)) == .lt
    | _ => false

/-- Only FP32, FP16 and BF16 elements divert (R172). -/
def diverts (op f : Nat) (fz : Bool) (a b c : Nat) : Bool :=
  (f == 0 || f == 2 || f == 3) && (match floatFmt f with | some F => divertsF F fz op a b c | none => false)

/-- Horner's rule of R196, one rounding per step. -/
def horner (x : Val) : List (BitVec 32) → FRes → FRes
  | [], r => r
  | c :: cs, r =>
    let q := fmaF ffFP32 0 false false false (decodeF ffFP32 r.1) x (decodeF ffFP32 c.toNat)
    horner x cs (q.1, r.2 ||| q.2)

/-- What `vapply` makes of one element: its result, or none where it goes to the user's handler (R196). -/
def applyElem (f : Nat) (fz : Bool) (lo hi : BitVec 32) (deg : Nat) (coef : List (BitVec 32)) (a : Nat) : Option FRes :=
  match floatFmt f with
  | none => none
  | some F =>
    let x := readF F fz a
    match x with
    | .nan sg => some (qnanF F, if sg then .nv else 0)
    | _ =>
      let l := decodeF ffFP32 lo.toNat
      let h := decodeF ffFP32 hi.toNat
      let inRange := !l.isNan && !h.isNan && l.cmp x != .gt && x.cmp h == .lt
      if !inRange || (isSubF F a && !fz) then none
      else
        let cs := (coef.take (deg + 1)).reverse
        let p := horner x (cs.drop 1) ((cs.headD 0).toNat, 0)
        let r := encConvF F 0 false fz (decodeF ffFP32 p.1)
        some (r.1, p.2 ||| r.2)

end Sys2Proof.Machine
end

