-- ==== Sys2Proof/Machine/Operands.lean ====
section
/-! DEFINITION. The operands of a vector instruction: the format checks (R138), active elements (R104, R139), scalar and vector
operand fields with their queue ports (R17, R61), when a vector source can be read (R167, R184, R185, R435), and how a
destination register or port takes its elements (R139, R167, R177). -/

namespace Sys2Proof.Machine

/-! ## Registers -/

/-- A vector register. -/
def vreg (s : State) (r : VReg) : VVal := s.cpu.regs.v[r.toNat]'(r.isLt)

/-- Replaces a vector register's value, which may depend on every read that has performed (R275). -/
def setVreg (s : State) (r : VReg) (v : VVal) : State :=
  (s.withMem (fun m => { m with vdep := m.vdep.set r.toNat s.dev.nextUid r.isLt })).withRegs (fun f => { f with v := f.v.set r.toNat v r.isLt })

/-- A mask register; m0 reads all ones. -/
def mreg (s : State) (r : MReg) : BitVec 1024 := if r = 0 then BitVec.allOnes 1024 else s.cpu.regs.m[r.toNat]'(r.isLt)

/-- Writes a mask register: a write to m0 is discarded (R25), and a write clears poison (R435). -/
def setMreg (s : State) (r : MReg) (v : BitVec 1024) : State :=
  if r = 0 then s
  else s.withRegs (fun f => { f with m := f.m.set r.toNat v r.isLt, mPoison := f.mPoison &&& ~~~(1#8 <<< r.toNat) })

/-- MR.ET, and the width of its elements. -/
def etOf (s : State) : Nat := mrEt s.cpu.ctl.mr
def wOf (s : State) : Nat := fmtWidth (etOf s)

/-- VL and VSTART. -/
def vlOf (s : State) : Nat := s.cpu.ctl.vl
def vstartOf (s : State) : Nat := s.cpu.ctl.vstart.toNat
def setVstart (s : State) (n : Nat) : State := s.withCtl (fun c => { c with vstart := BitVec.ofNat 64 n })

/-! ## Active elements -/

/-- The mask bit that governs element i of width w (R28, R78). -/
def maskIdx (w i : Nat) : Nat := if 8 ≤ w then i else i * w / 8

/-- The guard register MR.GM. -/
def guardReg (s : State) : MReg := BitVec.ofNat 3 (mrGm s.cpu.ctl.mr)

/-- The guard bit of element i, negated under GN. -/
def guardBit (s : State) (w i : Nat) : Bool := (mreg s (guardReg s)).getLsbD (maskIdx w i) != mrGn s.cpu.ctl.mr

/-- active(i) (R104). -/
def active (s : State) (w i : Nat) : Bool := decide (i < vlOf s) && guardBit s w i

/-- The active elements from `lo` up to `hi`. -/
def activeFrom (s : State) (w lo hi : Nat) : List Nat :=
  ((List.range (Nat.min hi (vlOf s) - lo)).map (· + lo)).filter (guardBit s w)

/-! ## Format checks (R138) -/

/-- The first three steps: whether ET is admitted; the tags to check, as (register, tag, expected tag); the widths to check
VL against, as (register, width). The answer is FMT's TVAL. -/
def fmtFail (s : State) (admits : Bool) (tags : List (Nat × Nat × Nat)) (widths : List (Nat × Nat)) : Option Nat :=
  if !admits then some 0x3F
  else match tags.find? (fun t => t.2.1 != t.2.2) with
    | some t => some t.1
    | none => (widths.find? (fun x => vlmax x.2 < vlOf s)).map (·.1)

/-- Goes on where the formats fit. -/
def fmtGate (s : State) (admits : Bool) (tags : List (Nat × Nat × Nat)) (widths : List (Nat × Nat)) (k : Out) : Out :=
  match fmtFail s admits tags widths with
  | some t => fmtTrap s t
  | none => k

/-! ## Operand fields -/

/-- A source field. -/
inductive Src where
  | s (r : SReg)
  | v (r : VReg)
  deriving DecidableEq, Repr

/-- A destination field that may be a port. -/
inductive Dst where
  | none
  | s (r : SReg)
  | v (r : VReg)
  deriving DecidableEq, Repr

/-- A value read. -/
inductive SVal where
  | s (w : Word)
  | v (x : VVal)
  deriving DecidableEq, Repr

def SVal.word : SVal → Word | .s w => w | .v _ => 0
def SVal.vec : SVal → VVal | .v x => x | .s _ => VVal.zero

/-- The word or vector among read operands. -/
def wordAt (vs : List SVal) (i : Nat) : Word := (vs.getD i (.s 0)).word
def vecAt (vs : List SVal) (i : Nat) : VVal := (vs.getD i (.s 0)).vec

/-- Whether a vector register number is a port in a decoupled task (Table 1.5). -/
def isVPort (r : VReg) : Bool := decide (28 ≤ r.toNat)

/-- E reads v28 to v30, A reads v31; A writes v28 to v30, E writes v31 (R17). -/
def vMayRead (role : Role) (r : VReg) : Bool :=
  match role with | .single => true | .a => !(isVPort r && r != 31) | .e => r != 31
def vMayWrite (role : Role) (r : VReg) : Bool :=
  match role with | .single => true | .a => r != 31 | .e => !(isVPort r && r != 31)

def vQueue (q : Queues) (r : VReg) : List VVal :=
  if r == 28 then q.vq0 else if r == 29 then q.vq1 else if r == 30 then q.vq2 else q.vq3
def vDepth (r : VReg) : Nat := if r == 31 then 2 else 4
def setVQueue (q : Queues) (r : VReg) (xs : List VVal) : Queues :=
  if r == 28 then { q with vq0 := xs } else if r == 29 then { q with vq1 := xs }
  else if r == 30 then { q with vq2 := xs } else { q with vq3 := xs }

/-- QDL's TVAL code of a vector port (R18). -/
def vCode (r : VReg) : Nat := 32 + r.toNat

def Src.mayRead (role : Role) : Src → Bool
  | .s r => Machine.mayRead role r
  | .v r => vMayRead role r

def Dst.mayWrite (role : Role) : Dst → Bool
  | .none => true
  | .s r => Machine.mayWrite role r
  | .v r => vMayWrite role r

/-- The values of the fields in pop order; the error is the code of the queue that is empty. -/
def srcVals (s : State) (q : Queues) : List Src → Except Nat (List SVal)
  | [] => .ok []
  | .s r :: rs =>
    if isSPort r then
      match sQueue q r with
      | [] => .error r.toNat
      | x :: xs => match srcVals s (setSQueue q r xs) rs with
        | .ok vs => .ok (.s x :: vs)
        | .error e => .error e
    else match srcVals s q rs with
      | .ok vs => .ok (.s (sreg s r) :: vs)
      | .error e => .error e
  | .v r :: rs =>
    if isVPort r then
      match vQueue q r with
      | [] => .error (vCode r)
      | x :: xs => match srcVals s (setVQueue q r xs) rs with
        | .ok vs => .ok (.v x :: vs)
        | .error e => .error e
    else match srcVals s q rs with
      | .ok vs => .ok (.v (vreg s r) :: vs)
      | .error e => .error e

/-- The full queue a destination waits on. -/
def dstFull (q : Queues) : Dst → Option Nat
  | .none => none
  | .s r => if isSPort r && decide (sDepth r ≤ (sQueue q r).length) then some r.toNat else none
  | .v r => if isVPort r && decide (vDepth r ≤ (vQueue q r).length) then some (vCode r) else none

/-- A poisoned scalar register among the fields. -/
def poisonedSrc (s : State) (dual : Bool) (rs : List Src) : Option SReg :=
  if s.cpu.regs.sPoison = 0 then none
  else rs.findSome? (fun x => match x with
    | .s r => if !(dual && isSPort r) && s.cpu.regs.sPoison.getLsbD r.toNat then some r else none
    | .v _ => none)

/-- The scalar registers among some fields. -/
def scalarsOf (rs : List Src) : List SReg := rs.filterMap (fun x => match x with | .s r => some r | .v _ => none)

/-- When the latest read that the values of some fields depend on performed (R275). -/
def depOfSrcs (s : State) (rs : List Src) : Nat :=
  let dual := roleOf s s.cpu != .single
  rs.foldl (fun n x => Nat.max n (match x with
    | .s r => depOf s [r]
    | .v r => if dual && isVPort r then s.dev.nextUid else s.cpu.mem.vdep[r.toNat]'(r.isLt))) 0

/-- What a field reads that is no port. -/
def Src.value (s : State) : Src → SVal
  | .s r => .s (sreg s r)
  | .v r => .v (vreg s r)

/-- A vector register whose value an earlier access of the strand still waits for, or gives to its train: an instruction that writes it
waits until that is over (R139, R281). -/
def dstBusy (m : MemSt) : Dst → Bool
  | .v r => m.vfas.any (fun p => p.d == some r) || m.supplies.any (fun p => p.d == r)
  | _ => false

/-- Reads the fields `rs` for an instruction that may push to `dst`; `room` says the push needs room before it begins. -/
def readOps (s : State) (word : Nat) (rs : List Src) (dst : Dst) (room : Bool) (k : List SVal → Out) : Out :=
  let role := roleOf s s.cpu
  let go (vs : List SVal) : Out := match poisonedSrc s (role != .single) rs with
    | some r => trap s Cause.ecc (eccReg 0 r.toNat 0)
    | none => k vs
  if role != .single && !(rs.all (Src.mayRead role) && dst.mayWrite role) then ill s word
  else if sPending s (scalarsOf rs) || dstBusy s.cpu.mem dst then .next (s.waitFor .operands)
  else if role == .single then
    go (rs.map (Src.value s))
  else
    let q := queuesOf s
    match srcVals s q rs with
    | .error c => waitQueue s c
    | .ok vs =>
      match (if room then dstFull q dst else none) with
      | some c => waitQueue s c
      | none => go vs

/-- Pops the ports among the fields. -/
def popOps (s : State) (rs : List Src) : State :=
  if roleOf s s.cpu == .single then s
  else rs.foldl (fun s x => match x with
    | .s r => if isSPort r then modQueues s (fun q => setSQueue q r ((sQueue q r).drop 1)) else s
    | .v r => if isVPort r then modQueues s (fun q => setVQueue q r ((vQueue q r).drop 1)) else s) s

/-- Whether a vector destination is a port here. -/
def pushes (s : State) (d : VReg) : Bool := roleOf s s.cpu != .single && isVPort d

/-! ## When a source can be read -/

/-- The groups that hold elements lo to hi − 1 of width w. -/
def groupsOf (w lo hi : Nat) : List Nat := if lo < hi then (List.range 8).filter (fun g => w * lo / 1024 ≤ g && g ≤ (w * hi - 1) / 1024) else []

/-- The scale data of a value has arrived. -/
def sideReady (v : VVal) : Bool := v.pend.all (fun p => p.dst == .bits)

/-- Every group has landed and holds no PENDING or DEPENDENT element (R167, R185). -/
def vReady (v : VVal) (gs : List Nat) : Bool :=
  sideReady v && gs.all (fun g => v.landed.getLsbD g && (v.pres == 0 || !v.holeIn g))

/-- The first poisoned group a reader meets. -/
def vPoisoned (v : VVal) (gs : List Nat) : Option Nat := if v.poison = 0 then none else gs.find? (fun g => v.poison.getLsbD g)

/-- The vector sources of a reader that cannot carry holes: (register, value, groups read). It stalls until each is ready, and
raises ECC on poison (R185, R435). -/
def needV (s : State) (ns : List (VReg × VVal × List Nat)) (k : Out) : Out :=
  if ns.all (fun n => vReady n.2.1 n.2.2) then
    match ns.findSome? (fun n => (vPoisoned n.2.1 n.2.2).map (fun g => (n.1, g))) with
    | some (r, g) => trap s Cause.ecc (eccReg 1 r.toNat g)
    | none => k
  else .next (s.waitFor .operands)

/-- The mask registers an instruction reads: poison raises ECC. -/
def needM (s : State) (ms : List MReg) (k : Out) : Out :=
  match (if s.cpu.regs.mPoison = 0 then none else ms.find? (fun m => m != 0 && s.cpu.regs.mPoison.getLsbD m.toNat)) with
  | some m => trap s Cause.ecc (eccReg 2 m.toNat 0)
  | none => k

/-! ## Writing a destination -/

/-- Which groups some elements of width w lie in, and whether they fill a group. -/
def touches (w : Nat) (is : List Nat) (g : Nat) : Bool := is.any (fun i => w * i / 1024 == g)
def fills (w : Nat) (is : List Nat) (g : Nat) : Bool := (is.filter (fun i => w * i / 1024 == g)).length == epg w

/-- A group that is written in part waits until the rest of it has landed: the new value keeps those elements (R139, R167). -/
def destWaits (v : VVal) (w : Nat) (is : List Nat) : Bool :=
  v.landed != 0xFF && (List.range 8).any (fun g => !v.landed.getLsbD g && touches w is g && !fills w is g)

/-- The bits of a field of n bits at `pos` that none of some elements of width w covers. -/
def uncovered (w : Nat) (is : List Nat) (pos n live : Nat) : Nat :=
  is.foldl (fun m i =>
    if w * i < pos + n && pos < w * (i + 1) then
      let lo := w * i - pos
      let hi := Nat.min (w * (i + 1) - pos) n
      m &&& (2 ^ n - 1 - (2 ^ hi - 2 ^ lo))
    else m) live

/-- An entry whose element lies in register d has less of it left. -/
def DivEntry.lose (e : DivEntry) (w : Nat) (is : List Nat) : DivEntry :=
  let v := fmtWidth e.dfmt
  let m := uncovered w is (v * e.elem) v e.live
  { e with live := m, dst := if m = 0 then .lost else e.dst }

/-- Whether an entry of the strand belongs to a destination. -/
def DivEntry.isOf (e : DivEntry) (t : StrandId) (dst : DDst) : Bool := e.strand == t && e.dst == dst

/-- Some elements of width w of a destination belong to the cpu strand's older entries no more (R177). -/
def loseEls (s : State) (dst : DDst) (w : Nat) (is : List Nat) : State :=
  s.modCluster s.cpu.cluster (fun (k : Cluster) => { k with div := k.div.map (fun e => if e.isOf s.cpu.id dst then e.lose w is else e) })

/-- The elements of register d that an instruction overwrites no longer belong to older diversion entries (R177). A slot that
elements narrower than it leave to no entry is PRESENT (R27). -/
def claim (s : State) (d : VReg) (w : Nat) (is : List Nat) : State :=
  let old := vreg s d
  if old.pres == 0 then s
  else
    let s1 := loseEls s (.reg d.toNat) w is
    let open' (j : Nat) : Bool := (s1.cluster s.cpu.cluster).div.any (fun e => e.isOf s.cpu.id (.reg d.toNat) &&
      (let v := fmtWidth e.dfmt; decide (v * e.elem ≤ 16 * j ∧ 16 * j < v * (e.elem + 1)) && e.live / 2 ^ (16 * j - v * e.elem) % 65536 != 0))
    if 16 ≤ w then s1
    else
      let js := ((is.map (fun i => w * i / 16)).eraseDups).filter (fun j => !open' j)
      setVreg s1 d { old with pres := js.foldl (fun m j => setEl 1024 m 2 j pPresent) old.pres }

/-! ## Values that are being built or kept aside (R17, R140, R177) -/

/-- The value that the instruction at the pc is building, or the source value it keeps aside. -/
def staged (s : State) : Option VVal := (s.cpu.staging.find? (fun x => x.1 == s.pc)).map (·.2)

/-- Replaces it. -/
def setStaged (s : State) (v : VVal) : State :=
  { s with cpu := { s.cpu with staging := s.cpu.staging.filter (fun x => x.1 != s.pc) ++ [(s.pc, v)] } }

/-- There is none any more. -/
def dropStaged (s : State) : State := { s with cpu := { s.cpu with staging := s.cpu.staging.filter (fun x => x.1 != s.pc) } }

/-- A new one begins: no older entry fills it (R177). -/
def beginStaged (s : State) (v : VVal) : State :=
  let off (e : DivEntry) : DivEntry :=
    if e.strand == s.cpu.id then
      { e with dst := if e.dst = .staging s.pc then .lost else e.dst, kept := e.kept.filter (fun k => k.1 != s.pc) }
    else e
  let s := if (s.cluster s.cpu.cluster).div.any (fun e => e.strand == s.cpu.id)
    then s.modCluster s.cpu.cluster (fun (k : Cluster) => { k with div := k.div.map off }) else s
  setStaged s v

/-- A register's value is kept aside whole: its entries fill the kept value as well (R140, R177). -/
def keepAside (s : State) (d : VReg) : State :=
  let s := beginStaged s (vreg s d)
  let also (e : DivEntry) : DivEntry := if e.isOf s.cpu.id (.reg d.toNat) then { e with kept := e.kept ++ [(s.pc, e.live)] } else e
  if (vreg s d).pres == 0 then s else s.modCluster s.cpu.cluster (fun (k : Cluster) => { k with div := k.div.map also })

/-- What is left of the pending reads of a value's elements when some of them are written (R139, R167). -/
def stillPending (w : Nat) (is : List Nat) (ps : List PendRead) : List PendRead :=
  ps.filterMap (fun p => match p.dst with
    | .bits => let m := uncovered w is p.pos p.width p.live; if m = 0 then none else some { p with live := m }
    | _ => some p)

/-- A value with elements of width w written, each as (index, bits, state), its tag and its sidecars. Groups written are
landed; a group written whole is no longer poisoned. -/
def VVal.write (o : VVal) (w tag : Nat) (xs : List (Nat × Nat × Nat)) (scale special : BitVec 512) : VVal :=
  let is := xs.map (·.1)
  let v := xs.foldl (fun (v : VVal) x => v.put w x.1 x.2.1 x.2.2) o
  let gs := (List.range 8).filter (touches w is)
  { v with
    tag := BitVec.ofNat 6 tag, scale := scale, special := special,
    landed := gs.foldl (fun m g => m ||| (1#8 <<< g)) v.landed,
    poison := gs.foldl (fun m g => if fills w is g then m &&& ~~~(1#8 <<< g) else m) v.poison,
    pend := if v.pend.isEmpty then [] else (stillPending w is v.pend).filter (fun p => p.dst == .bits) }

/-- The image a pushed entry begins as: the bits no element of the instruction writes are free (log entry 1). -/
def blankImage (s : State) (tag : Nat) : VVal × State :=
  (VVal.plain (Config.freeImage s.dev.free) tag, s.withDev (fun d => { d with free := d.free + 1 }))

/-- Pushes a value onto a vector port. -/
def pushV (s : State) (d : VReg) (v : VVal) : State := modQueues (dropStaged s) (fun q => setVQueue q d (vQueue q d ++ [v]))

/-- Writes elements of a whole instruction's destination: a register in place, or a pushed entry. `side` gives the sidecars
from the value replaced. -/
def putV (s : State) (d : VReg) (w tag : Nat) (xs : List (Nat × Nat × Nat)) (side : VVal → BitVec 512 × BitVec 512) : State :=
  if pushes s d then
    let (b, s) := blankImage s tag
    let (x, y) := side b
    pushV s d (b.write w tag xs x y)
  else
    let s := claim s d w (xs.map (·.1))
    let o := vreg s d
    let (x, y) := side o
    setVreg s d (o.write w tag xs x y)

/-- Sidecars of a format without scale data (R89). -/
def noSide (_ : VVal) : BitVec 512 × BitVec 512 := (0, 0)

/-- A vector instruction completes: its ports pop and VSTART is 0 (R141). -/
def vdone (s : State) (rs : List Src) : State := complete (setVstart (popOps s rs) 0)

/-- The destination of a whole instruction: it stalls while elements it keeps have not landed, then takes its elements. -/
def writeV (s : State) (rs : List Src) (d : VReg) (w tag : Nat) (xs : List (Nat × Nat × Nat))
    (side : VVal → BitVec 512 × BitVec 512) (fl : Flags) : Out :=
  if !pushes s d && destWaits (vreg s d) w (xs.map (·.1)) then .next (s.waitFor .operands)
  else .next (vdone (putV (accrue s fl) d w tag xs side) rs)

/-- Writes a scalar result of a vector instruction. -/
def writeSv (s : State) (rs : List Src) (d : SReg) (v : Word) : Out := .next (vdone (writeS s d v) rs)

end Sys2Proof.Machine
end

