-- ==== Sys2Proof/Machine/Vector.lean ====
section
/-! DEFINITION. The chaining vector instructions (R141, R147 to R153, R173, R176 to R179, R184, R192 to R196): issue by element
group, diversion, replay entries and pushes; and `setvl`. -/

namespace Sys2Proof.Machine

/-! ## Operands of one element -/

/-- An element of a source as a chaining instruction finds it. -/
inductive ElSrc where
  | ok (x : Nat)
  /-- the group must wait: it has not landed, or the element's slots belong to an element of another width -/
  | wait
  | link (id : Nat)
  /-- entries of another width will fill some of its slots -/
  | parts (b cause : Nat) (ps : List OPart)
  | bad (x cause : Nat)
  deriving DecidableEq, Repr

/-- The cause a helper-fault NaN carries (R81). -/
def causeIn (x : Nat) : Nat := x % 64

/-- The number that stands for the value which the instruction at the pc keeps aside. -/
def keptSrc : Nat := 32

/-- The entries that will fill elements of a source, each with the bits of its element that are this source's: of register r, or of
the value kept aside. -/
def owners (s : State) (r : Nat) : List (DivEntry × Nat) :=
  (s.cluster s.cpu.cluster).div.filterMap (fun e =>
    if e.strand != s.cpu.id then none
    else if r == keptSrc then (e.kept.find? (fun k => k.1 == s.pc)).map (fun k => (e, k.2))
    else if e.dst = .reg r then some (e, e.live) else none)

/-- The entry that will fill element i of width w of a source, whole. -/
def entryFor (os : List (DivEntry × Nat)) (w i : Nat) : Option DivEntry :=
  (os.find? (fun o => fmtWidth o.1.dfmt == w && o.1.elem == i && o.2 == 2 ^ w - 1)).map (·.1)

/-- The slot of a source at bit `at'` as an entry will supply it, for an operand that it stands in at `pos`. -/
def partFor (os : List (DivEntry × Nat)) (at' pos : Nat) : Option OPart :=
  os.findSome? (fun o =>
    let v := fmtWidth o.1.dfmt
    if v * o.1.elem ≤ at' ∧ at' < v * (o.1.elem + 1) then
      let k := at' - v * o.1.elem
      if o.2 / 2 ^ k % 65536 != 0 then some { id := o.1.id, src := k, pos := pos } else none
    else none)

/-- An element whose holes are those of elements of another width: its slots that stand, and who will supply the others (R184). -/
def partsOf' (s : State) (r : Nat) (v : VVal) (w i : Nat) : ElSrc :=
  let os := owners s r
  let ks := (List.range (w / 16)).map (fun k => (k, getEl 1024 v.pres 2 (w * i / 16 + k)))
  let hole (k : Nat × Nat) : Bool := k.2 == pPending || k.2 == pDependent
  let b := (ks.filter (fun k => !hole k)).foldl (fun n k => n + v.el 16 (w * i / 16 + k.1) * 2 ^ (16 * k.1)) 0
  let cause := if ks.any (fun k => k.2 == pFaulted) then causeIn b else 0
  match (ks.filter hole).mapM (fun k => partFor os (w * i + 16 * k.1) (16 * k.1)) with
  | some ps => .parts b cause ps
  | none => .wait

/-- Element i of width w of a source register, popped entry or kept value. A narrower element than a slot has no state of its own, and
waits until its slot is filled (R27). -/
def esrc (s : State) (r : Nat) (v : VVal) (w i : Nat) : ElSrc :=
  if !v.landed.getLsbD (w * i / 1024) then .wait
  else if w < 16 then
    let p := getEl 1024 v.pres 2 (w * i / 16)
    if p == pPending || p == pDependent then .wait else .ok (v.el w i)
  else
    let p := v.st w i
    if p == pPresent then .ok (v.el w i)
    else if p == pFaulted then .bad (v.el w i) (causeIn (v.el w i))
    else match entryFor (owners s r) w i with
      | some e => .link e.id
      | none => partsOf' s r v w i

/-- Whether it is a hole that an entry will fill. -/
def ElSrc.open' : ElSrc → Bool
  | .link _ => true
  | .parts _ _ _ => true
  | _ => false

def ElSrc.opd : ElSrc → DOp
  | .ok x => .val (BitVec.ofNat 64 x)
  | .wait => .absent
  | .link i => .link i
  | .parts b c ps => .parts (BitVec.ofNat 64 b) c ps
  | .bad x c => .faulted (BitVec.ofNat 64 x) c

/-- The chain depth of an entry: 1, and for a replay entry 1 more than the deepest entry it links to (R184). -/
def depthOf (div : List DivEntry) : Nat → Nat → Nat
  | 0, _ => 0
  | n + 1, id =>
    match div.find? (fun e => e.id == id) with
    | none => 0
    | some e => 1 + ([e.a, e.b, e.c].flatMap DOp.waits).foldl (fun m i => Nat.max m (depthOf div n i)) 0

/-! ## The plan of an instruction -/

/-- A source of a chaining instruction: the register it came from, its value and width, or a scalar. -/
inductive COpd where
  | vec (r : Nat) (v : VVal) (w : Nat)
  | sca (x : Nat)
  deriving DecidableEq, Repr

/-- A chaining instruction with its operands read. -/
structure Chain where
  op    : Nat
  et    : Nat
  /-- the destination's tag and width, and the number of its elements -/
  tag   : Nat
  w     : Nat
  n     : Nat
  /-- elements in one issue group -/
  per   : Nat
  rm    : Nat
  fz    : Bool
  sat   : Bool
  srcs  : List COpd
  /-- `vsel`'s mask -/
  mask  : Option (BitVec 1024)
  app   : Option VApp
  deriving DecidableEq, Repr

/-- What becomes of one element. -/
inductive EPlan where
  | stall
  | done (bits st : Nat) (fl : Flags)
  | entry (replay : Bool) (os : List DOp)
  deriving DecidableEq, Repr

/-- The sources element i uses (R176): for `vsel` only the operand the mask chooses. -/
def usedSrcs (k : Chain) (i : Nat) : List COpd :=
  match k.mask with
  | some m => if m.getLsbD (maskIdx k.w i) then k.srcs.take 1 else (k.srcs.drop 1).take 1
  | none => k.srcs

/-- A used source of element i. -/
def readOpd (s : State) (i : Nat) : COpd → ElSrc
  | .vec r v w => esrc s r v w i
  | .sca x => .ok x

/-- The result of an element whose operands are all PRESENT; none where it diverts. -/
def laneElem (k : Chain) (a b c : Nat) : Option FRes :=
  match k.app with
  | some p => applyElem k.et k.fz p.lo p.hi p.deg p.coef a
  | none => if diverts k.op k.et k.fz a b c then none else some (elemOp k.op k.et k.rm k.fz k.sat a b c)

/-- The width of a source. -/
def COpd.width (k : Chain) : COpd → Nat | .vec _ _ w => w | .sca _ => k.w

/-- Table 7.3 for one element. -/
def planElem (s : State) (k : Chain) (i : Nat) : EPlan :=
  let os := usedSrcs k i
  let es := os.map (readOpd s i)
  if es.any (fun e => e == .wait) then .stall
  else if es.any ElSrc.open' then .entry true (es.map ElSrc.opd)
  else match (os.zip es).findSome? (fun e => match e.2 with | .bad x c => some (faultBits k.tag (e.1.width k) x c) | _ => none) with
    | some x => .done x pFaulted 0
    | none =>
      let at' (j : Nat) : Nat := match es[j]? with | some (.ok x) => x | _ => 0
      match laneElem k (at' 0) (at' 1) (at' 2) with
      | some r => .done r.1 pPresent r.2
      | none => .entry false (es.map ElSrc.opd)

/-- The depth an entry with these operands would have. -/
def planDepth (div : List DivEntry) (os : List DOp) : Nat :=
  1 + (os.flatMap DOp.waits).foldl (fun m i => Nat.max m (depthOf div 6 i)) 0

/-! ## The diversion queue (R178, R179) -/

/-- Strands whose groups wait for entries ahead of this one. -/
def aheadInDiv (s : State) : Bool :=
  ((s.cluster s.cpu.cluster).divWait.takeWhile (fun t => t != s.cpu.id)).any (fun t =>
    match s.strand? t with
    | some x => (match x.wait with | some (.micro _ _) => true | _ => false) && x.resid == .on
    | none => false)

def joinDiv (s : State) : State :=
  s.modCluster s.cpu.cluster (fun k => if k.divWait.contains s.cpu.id then k else { k with divWait := k.divWait ++ [s.cpu.id] })

def leaveDiv (s : State) : State :=
  if (s.cluster s.cpu.cluster).divWait.contains s.cpu.id then
    s.modCluster s.cpu.cluster (fun k => { k with divWait := k.divWait.filter (fun t => t != s.cpu.id) })
  else s

/-- 256 entries (R178). -/
def divCap : Nat := 256

/-- Adds an entry for element i. -/
def addEntry (s : State) (k : Chain) (dst : DDst) (i : Nat) (replay : Bool) (os : List DOp) : State :=
  let (id, s) := s.fresh
  let e : DivEntry :=
    { id := id, strand := s.cpu.id, tenant := s.cpu.tenant, dst := dst, elem := i, op := k.op, fmt := k.et, dfmt := k.tag,
      rm := if decide (32 ≤ k.op ∧ k.op < 44) then 0 else k.rm, fz := k.fz, sat := k.sat, a := os.getD 0 .absent, b := os.getD 1 .absent,
      c := os.getD 2 .absent, replay := replay, app := k.app, taken := false, live := 2 ^ fmtWidth k.tag - 1, kept := [] }
  s.modCluster s.cpu.cluster (fun c => { c with div := c.div ++ [e] })

/-! ## Issue -/

/-- What becomes of an element group at issue. -/
inductive GroupOut where
  /-- it waits for a source or for the depth of its elements to fall (R167, R184) -/
  | stall
  /-- it waits for entries (R179) -/
  | full
  | done (s : State)
  deriving DecidableEq, Repr

/-- Whether element i is active for a chaining instruction: `vdot4` counts destination elements (R148). -/
def chainActive (s : State) (k : Chain) (i : Nat) : Bool := guardBit s (if k.op == 17 then 32 else fmtWidth k.et) i

/-- The active elements of the group that starts at `lo`. -/
def groupElems (s : State) (k : Chain) (lo : Nat) : List Nat :=
  let hi := Nat.min k.n ((lo / k.per + 1) * k.per)
  ((List.range (hi - lo)).map (· + lo)).filter (chainActive s k)

/-- The micro-operations that the elements from `lo` up to `hi` of an instruction begun at `base` take (R146): one for the group,
or under density time what they add to those of the active elements before them. -/
def microOps (s : State) (k : Chain) (base lo hi : Nat) : Nat :=
  let upTo (x : Nat) : Nat := (((List.range (x - base)).map (· + base)).countP (chainActive s k) + k.per - 1) / k.per
  if mrDt s.cpu.ctl.mr then upTo (Nat.min hi k.n) - upTo lo else 1

/-- The micro-operation of one group; `behind`: an earlier group of the instruction waits for entries.
DESIGN CHOICE, log entry 64: a group that needs more than 64 entries at once, as one of 128 results of a widening addition may, issues
when that many are free; R179 says that n is at most 64. -/
def issueGroup (s : State) (k : Chain) (d : VReg) (base lo : Nat) (behind : Bool) : GroupOut :=
  let is := groupElems s k lo
  let ps := is.map (fun i => (i, planElem s k i))
  let div := (s.cluster s.cpu.cluster).div
  let need := ps.countP (fun p => match p.2 with | .entry _ _ => true | _ => false)
  if !pushes s d && destWaits (vreg s d) k.w is then .stall
  else if ps.any (fun p => p.2 == .stall) then .stall
  else if ps.any (fun p => match p.2 with | .entry true os => decide (4 < planDepth div os) | _ => false) then .stall
  else if need != 0 && (behind || aheadInDiv s || decide (divCap < div.length + need)) then .full
  else
    let port := pushes s d
    let dst : DDst := if port then .staging s.pc else .reg d.toNat
    let s := s.withCpu (fun x => { x with usage := x.usage.counts (microOps s k base lo ((lo / k.per + 1) * k.per)) })
    let s := if port then (if ((staged s).map (·.pres)).getD 0 == 0 then s else loseEls s dst k.w is) else claim s d k.w is
    let s := ps.foldl (fun s p => match p.2 with | .entry r os => addEntry s k dst p.1 r os | _ => s) s
    let old := if port then (staged s).getD VVal.zero else vreg s d
    let xs := ps.map (fun p => match p.2 with
      | .done b st _ => (p.1, b, st)
      | .entry r _ => (p.1, old.el k.w p.1, if r then pDependent else pPending)
      | .stall => (p.1, 0, 0))
    let v := old.write k.w k.tag xs 0 0
    let s := if port then setStaged s v else setVreg s d v
    .done (accrue s (ps.foldl (fun f p => match p.2 with | .done _ _ g => f ||| g | _ => f) 0))

/-- A chaining instruction completes: its micro-operations have been counted as they issued. -/
def chainDone (s : State) (rs : List Src) : State := (vdone s rs).withCpu (fun x => { x with usage := s.cpu.usage })

/-- The end of a chaining instruction: a push waits until the value holds no hole and the queue has room (R17). -/
def chainEnd (s : State) (desc : VDesc) (p : MicroSt) (rs : List Src) (n : Nat) : Out :=
  if pushes s desc.d then
    match staged s with
    | none => .next (chainDone s rs)
    | some v =>
      if v.holes then .next ((setVstart s n).waitFor (.micro desc { p with ahead := [] }))
      else match dstFull (queuesOf s) (.v desc.d) with
        | some c => waitQueue (setVstart s n) c
        | none => .next (chainDone (pushV s desc.d v) rs)
  else .next (chainDone (if p.kept then dropStaged s else s) rs)

/-- The poisoned group among the sources, from element lo up to hi (R435). -/
def poisonFrom (k : Chain) (lo hi : Nat) : Option (Nat × Nat) :=
  k.srcs.findSome? (fun o => match o with
    | .vec r v w => (vPoisoned v (groupsOf w lo hi)).map (fun g => (r, g))
    | .sca _ => none)

/-- The poisoned group among the sources of any element from lo on. -/
def chainPoison (k : Chain) (lo : Nat) : Option (Nat × Nat) := poisonFrom k lo k.n

/-- The poisoned group that the element group at lo reads. One that waits for entries while later groups have issued has been read
already. -/
def groupPoison (k : Chain) (ahead : List Nat) (lo : Nat) : Option (Nat × Nat) :=
  if ahead.any (fun x => decide (lo < x)) then none else poisonFrom k lo (Nat.min k.n ((lo / k.per + 1) * k.per))

/-- A pass over the groups of a chaining instruction: the state, the groups that could not issue, whether one of them waits for
entries, and the groups that have issued. -/
structure Scan where
  s     : State
  left  : List Nat
  full  : Bool
  ahead : List Nat
  deriving DecidableEq, Repr

/-- Issues what can issue, at most `budget` groups, in order, but that a group which needs no entry goes ahead of one that waits for
entries (R179). -/
def scanGroups (k : Chain) (d : VReg) (base : Nat) : List Nat → Nat → Scan → Scan
  | [], _, r => r
  | lo :: gs, budget, r =>
    if r.ahead.contains lo then scanGroups k d base gs budget r
    else match budget with
      | 0 => { r with left := r.left ++ lo :: gs }
      | b + 1 =>
        if (groupPoison k r.ahead lo).isSome then { r with left := r.left ++ lo :: gs }
        else match issueGroup r.s k d base lo r.full with
          | .stall => { r with left := r.left ++ lo :: gs }
          | .full => scanGroups k d base gs (b + 1) { r with left := r.left ++ [lo], full := true }
          | .done s => scanGroups k d base gs b { r with s := s, ahead := r.ahead ++ [lo] }

/-- Where the groups of an instruction begin, from element lo on. -/
def groupStarts (k : Chain) (lo : Nat) : List Nat :=
  lo :: ((List.range 8).map (fun g => (lo / k.per + 1 + g) * k.per)).filter (fun x => decide (x < k.n))

/-- Issues up to `budget` groups from VSTART on. Poison stops the instruction at the group that would read it (R435). -/
def issueGroups (s : State) (k : Chain) (desc : VDesc) (rs : List Src) (p : MicroSt) (budget : Nat) : Out :=
  let r := scanGroups k desc.d p.base (groupStarts k (vstartOf s)) budget { s := s, left := [], full := false, ahead := p.ahead }
  match r.left with
  | [] => chainEnd (leaveDiv r.s) desc p rs k.n
  | lo :: _ =>
    match groupPoison k r.ahead lo with
    | some (reg, g) => trap (setVstart (leaveDiv r.s) lo) Cause.ecc (eccReg 1 reg g)
    | none =>
      let q : MicroSt := { p with ahead := r.ahead.filter (fun x => decide (lo < x)) }
      .next ((setVstart (if r.full then joinDiv r.s else leaveDiv r.s) lo).waitFor (.micro desc q))

/-- How far the instruction has come. -/
def microSt (s : State) : MicroSt :=
  match s.cpu.wait with
  | some (.micro _ p) => p
  | _ => { base := vstartOf s, ahead := [], kept := false }

/-- Whether the destination overwrites a source of another width, which a later group still reads (R140). -/
def overlapsSrc (s : State) (k : Chain) (d : VReg) : Bool :=
  !pushes s d && k.srcs.any (fun o => match o with
    | .vec r _ w => r == d.toNat && (w != k.w || k.op == 19)
    | .sca _ => false)

/-- The same instruction reading that source as it stood before. -/
def Chain.reading (k : Chain) (d : VReg) (v : VVal) : Chain :=
  { k with srcs := k.srcs.map (fun o => match o with
    | .vec r u w => if r == d.toNat then .vec keptSrc v w else .vec r u w
    | o => o) }

/-- A chain whose sources have all landed. -/
def Chain.landed (k : Chain) (lo : Nat) : Bool :=
  k.srcs.all (fun o => match o with | .vec _ v w => sideReady v && (groupsOf w lo k.n).all (fun g => v.landed.getLsbD g) | .sca _ => true)

/-- Without poison: its sources were read when it began. -/
def Chain.read (k : Chain) : Chain :=
  { k with srcs := k.srcs.map (fun o => match o with | .vec r v w => .vec r { v with poison := 0 } w | o => o) }

/-- Begins, or goes on with, a chaining instruction whose formats have passed. A source that the destination overwrites at another
width is kept aside until the end, with its holes, which its entries fill there too; such an instruction begins once its sources have
landed, and meets their poison before it begins (R140, R184). -/
def chainRun (s : State) (k : Chain) (desc : VDesc) (rs : List Src) (budget : Nat) : Out :=
  let lo := vstartOf s
  let p := microSt s
  if k.n ≤ lo then
    if pushes s desc.d && (staged s).isSome && lo != 0 then chainEnd s desc p rs k.n
    else .next (complete (setVstart s 0))
  else if pushes s desc.d then
    let going := (staged s).isSome && (lo != 0 || (match s.cpu.wait with | some (.micro _ _) => true | _ => false))
    let s := if going then s else let (b, s) := blankImage s k.tag; beginStaged s b
    issueGroups s k desc rs p budget
  else if overlapsSrc s k desc.d then
    if p.kept then issueGroups s (k.reading desc.d ((staged s).getD (vreg s desc.d))).read desc rs p budget
    else if !k.landed lo || !(vreg s desc.d).pend.isEmpty || (vreg s desc.d).landed != 0xFF then .next (s.waitFor (.micro desc p))
    else match chainPoison k lo with
      | some (r, g) => trap s Cause.ecc (eccReg 1 r g)
      | none => issueGroups (keepAside s desc.d) (k.reading desc.d (vreg s desc.d)).read desc rs { p with kept := true } budget
  else issueGroups s k desc rs p budget

/-! ## The instructions -/

/-- Whether ET is one a function admits (Table 6.1, R192). -/
def fnAdmits (fn : VFn) (et : Nat) : Bool :=
  match fn with
  | .arith f =>
    if f == 16 then et == 0x12 || et == 0x13
    else if f == 17 then (wideFmt et).isSome
    else if f == 18 then isFA et
    else if f == 3 || (9 ≤ f && f ≤ 15) then isIA et
    else isFA et || isIA et
  | .sgnj _ => isFA et
  | .fma _ => isFA et || isIA et
  | .sel => !(isScaled et || et == 0x17 || et == 0x18 || et == 0x1F)
  | .func _ => et == 0 || et == 2 || et == 3
  | .apply => et == 0 || et == 2 || et == 3

/-- The operation code of Table 7.5. -/
def fnOp : VFn → Nat
  | .arith f => f + 1
  | .sgnj k => if k == 0 then 20 else 25 + k
  | .fma k => 21 + k
  | .sel => 25
  | .func f => 32 + f
  | .apply => 44

/-- The destination's tag. -/
def fnTag (fn : VFn) (et : Nat) : Nat :=
  match fn with
  | .arith 16 => 0x20
  | .arith 17 => (wideFmt et).getD et
  | .arith 18 => classFmt et
  | _ => et

/-- Whether a function reads field b as an operand. -/
def fnUsesB : VFn → Bool
  | .arith f => !(f == 7 || f == 8 || f == 12 || f == 18)
  | .sgnj _ => true
  | .fma _ => true
  | .sel => true
  | .func _ => false
  | .apply => true

/-- The source fields in pop order. `vdot4` also reads d. -/
def fnSrcs (x : VDesc) : List Src :=
  [.v x.a] ++ (if fnUsesB x.fn then [match x.b with | .vec r => .v r | .sca r => .s r] else []) ++
    (match x.fn with | .fma _ => [.v x.c] | .arith 16 => [.v x.d] | _ => [])

/-- Element counts: `vdot4` counts destination elements (R148). -/
def fnCount (fn : VFn) (vl : Nat) : Nat := match fn with | .arith 16 => vl / 4 | _ => vl

/-- Reads the operands of a chaining instruction and checks its formats. -/
def chain (s : State) (word : Nat) (x : VDesc) (budget : Nat) : Out :=
  taskOnly s word (readOps s word (fnSrcs x) (.v x.d) false (fun vs =>
    let et := etOf s
    let w := wOf s
    let tag := fnTag x.fn et
    let dw := fmtWidth tag
    let av := vecAt vs 0
    let bw := match x.fn with | .arith 17 => dw | _ => w
    let btag := match x.fn with | .arith 17 => tag | _ => et
    let bIsVec := fnUsesB x.fn && x.fn != .apply && !x.b.flag
    let isFma := match x.fn with | .fma _ => true | _ => false
    let isDot := x.fn == .arith 16
    let tags := [(x.a.toNat, av.fmt, et)] ++ (if bIsVec then [(x.b.reg.toNat, (vecAt vs 1).fmt, btag)] else []) ++
      (if isFma then [(x.c.toNat, (vecAt vs 2).fmt, et)] else []) ++ (if isDot then [(x.d.toNat, (vecAt vs 2).fmt, 0x20)] else [])
    let widths := [(x.a.toNat, w)] ++ (if bIsVec then [(x.b.reg.toNat, bw)] else []) ++ (if isDot then [] else [(x.d.toNat, dw)])
    fmtGate s (fnAdmits x.fn et) tags widths (
      if isDot && decide (vlOf s % 4 ≠ 0) then fmtTrap s x.d.toNat
      else
        let m := s.cpu.ctl.mr
        let view (r : Nat) (v : VVal) (w : Nat) : COpd := if isDot then .vec r v 32 else .vec r v w
        let scal (v : Word) : COpd := .sca (v.toNat % 2 ^ (if isDot then 32 else bw))
        let selM : MReg := x.c.setWidth 3
        let bo : List COpd := if !fnUsesB x.fn || x.fn == .apply then []
          else match x.b with
            | .vec r => [view r.toNat (vecAt vs 1) bw]
            | .sca _ => [scal (wordAt vs 1)]
        let k : Chain :=
          { op := fnOp x.fn, et := et, tag := tag, w := dw, n := fnCount x.fn (vlOf s),
            per := if isDot then 32 else epg w, rm := mrRm m, fz := mrFz m, sat := mrSat m,
            srcs := [view x.a.toNat av w] ++ bo ++
              (if isFma then [.vec x.c.toNat (vecAt vs 2) w] else if isDot then [.vec x.d.toNat (vecAt vs 2) 32] else []),
            mask := if x.fn == .sel then some (mreg s selM) else none,
            app := x.app }
        needM s ([guardReg s] ++ (if x.fn == .sel then [selM] else [])) (chainRun s k x (fnSrcs x) budget))))

/-- Groups one `exec` issues: all eight. -/
def allGroups : Nat := 8

def varith (s : State) (word f : Nat) (d a : VReg) (b : VOperand) : Out :=
  chain s word { fn := .arith f, d := d, a := a, b := b, c := 0, app := none } allGroups

/-- R147, vadd. -/
def execVadd (d a : VReg) (b : VOperand) (s : State) : Out := varith s (encodeNat (.vadd d a b)) 0 d a b

/-- R147, vsub. -/
def execVsub (d a : VReg) (b : VOperand) (s : State) : Out := varith s (encodeNat (.vsub d a b)) 1 d a b

/-- R147, vmul. -/
def execVmul (d a : VReg) (b : VOperand) (s : State) : Out := varith s (encodeNat (.vmul d a b)) 2 d a b

/-- R147, vmulh. -/
def execVmulh (d a : VReg) (b : VOperand) (s : State) : Out := varith s (encodeNat (.vmulh d a b)) 3 d a b

/-- R147, vdiv. -/
def execVdiv (d a : VReg) (b : VOperand) (s : State) : Out := varith s (encodeNat (.vdiv d a b)) 4 d a b

/-- R147, vmin. -/
def execVmin (d a : VReg) (b : VOperand) (s : State) : Out := varith s (encodeNat (.vmin d a b)) 5 d a b

/-- R147, vmax. -/
def execVmax (d a : VReg) (b : VOperand) (s : State) : Out := varith s (encodeNat (.vmax d a b)) 6 d a b

/-- R147, vabs. -/
def execVabs (d a : VReg) (s : State) : Out := varith s (encodeNat (.vabs d a)) 7 d a (.sca 0)

/-- R147, vneg. -/
def execVneg (d a : VReg) (s : State) : Out := varith s (encodeNat (.vneg d a)) 8 d a (.sca 0)

/-- R147, vand. -/
def execVand (d a : VReg) (b : VOperand) (s : State) : Out := varith s (encodeNat (.vand d a b)) 9 d a b

/-- R147, vor. -/
def execVor (d a : VReg) (b : VOperand) (s : State) : Out := varith s (encodeNat (.vor d a b)) 10 d a b

/-- R147, vxor. -/
def execVxor (d a : VReg) (b : VOperand) (s : State) : Out := varith s (encodeNat (.vxor d a b)) 11 d a b

/-- R147, vnot. -/
def execVnot (d a : VReg) (s : State) : Out := varith s (encodeNat (.vnot d a)) 12 d a (.sca 0)

/-- R147, vsll. -/
def execVsll (d a : VReg) (b : VOperand) (s : State) : Out := varith s (encodeNat (.vsll d a b)) 13 d a b

/-- R147, vsrl. -/
def execVsrl (d a : VReg) (b : VOperand) (s : State) : Out := varith s (encodeNat (.vsrl d a b)) 14 d a b

/-- R147, vsra. -/
def execVsra (d a : VReg) (b : VOperand) (s : State) : Out := varith s (encodeNat (.vsra d a b)) 15 d a b

/-- R148, vdot4. -/
def execVdot4 (d a : VReg) (b : VOperand) (s : State) : Out := varith s (encodeNat (.vdot4 d a b)) 16 d a b

/-- R149, vaddw. -/
def execVaddw (d a : VReg) (b : VOperand) (s : State) : Out := varith s (encodeNat (.vaddw d a b)) 17 d a b

/-- R150, vclass. -/
def execVclass (d a : VReg) (s : State) : Out := varith s (encodeNat (.vclass d a)) 18 d a (.sca 0)

/-- R147, vsgnj. -/
def execVsgnj (d a : VReg) (b : VOperand) (s : State) : Out :=
  chain s (encodeNat (.vsgnj d a b)) { fn := .sgnj 0, d := d, a := a, b := b, c := 0, app := none } allGroups

/-- R147, vsgnjN. -/
def execVsgnjN (d a : VReg) (b : VOperand) (s : State) : Out :=
  chain s (encodeNat (.vsgnjN d a b)) { fn := .sgnj 1, d := d, a := a, b := b, c := 0, app := none } allGroups

/-- R147, vsgnjX. -/
def execVsgnjX (d a : VReg) (b : VOperand) (s : State) : Out :=
  chain s (encodeNat (.vsgnjX d a b)) { fn := .sgnj 2, d := d, a := a, b := b, c := 0, app := none } allGroups

/-- R151, vfma. -/
def execVfma (d a b c : VReg) (s : State) : Out :=
  chain s (encodeNat (.vfma d a b c)) { fn := .fma 0, d := d, a := a, b := .vec b, c := c, app := none } allGroups

/-- R151, vfms. -/
def execVfms (d a b c : VReg) (s : State) : Out :=
  chain s (encodeNat (.vfms d a b c)) { fn := .fma 1, d := d, a := a, b := .vec b, c := c, app := none } allGroups

/-- R151, vfnma. -/
def execVfnma (d a b c : VReg) (s : State) : Out :=
  chain s (encodeNat (.vfnma d a b c)) { fn := .fma 2, d := d, a := a, b := .vec b, c := c, app := none } allGroups

/-- R151, vfnms. -/
def execVfnms (d a b c : VReg) (s : State) : Out :=
  chain s (encodeNat (.vfnms d a b c)) { fn := .fma 3, d := d, a := a, b := .vec b, c := c, app := none } allGroups

/-- R153. -/
def execVsel (d a b : VReg) (c : MReg) (s : State) : Out :=
  chain s (encodeNat (.vsel d a b c)) { fn := .sel, d := d, a := a, b := .vec b, c := c.setWidth 5, app := none } allGroups

/-- R192, R193, vexp. -/
def execVexp (d a : VReg) (s : State) : Out :=
  chain s (encodeNat (.vexp d a)) { fn := .func 0, d := d, a := a, b := .sca 0, c := 0, app := none } allGroups

/-- R192, R193, vexp2. -/
def execVexp2 (d a : VReg) (s : State) : Out :=
  chain s (encodeNat (.vexp2 d a)) { fn := .func 1, d := d, a := a, b := .sca 0, c := 0, app := none } allGroups

/-- R192, R193, vlog. -/
def execVlog (d a : VReg) (s : State) : Out :=
  chain s (encodeNat (.vlog d a)) { fn := .func 2, d := d, a := a, b := .sca 0, c := 0, app := none } allGroups

/-- R192, R193, vlog2. -/
def execVlog2 (d a : VReg) (s : State) : Out :=
  chain s (encodeNat (.vlog2 d a)) { fn := .func 3, d := d, a := a, b := .sca 0, c := 0, app := none } allGroups

/-- R192, R193, vsin. -/
def execVsin (d a : VReg) (s : State) : Out :=
  chain s (encodeNat (.vsin d a)) { fn := .func 4, d := d, a := a, b := .sca 0, c := 0, app := none } allGroups

/-- R192, R193, vcos. -/
def execVcos (d a : VReg) (s : State) : Out :=
  chain s (encodeNat (.vcos d a)) { fn := .func 5, d := d, a := a, b := .sca 0, c := 0, app := none } allGroups

/-- R192, R193, vtanh. -/
def execVtanh (d a : VReg) (s : State) : Out :=
  chain s (encodeNat (.vtanh d a)) { fn := .func 6, d := d, a := a, b := .sca 0, c := 0, app := none } allGroups

/-- R192, R193, vsigm. -/
def execVsigm (d a : VReg) (s : State) : Out :=
  chain s (encodeNat (.vsigm d a)) { fn := .func 7, d := d, a := a, b := .sca 0, c := 0, app := none } allGroups

/-- R192, R193, vrcp. -/
def execVrcp (d a : VReg) (s : State) : Out :=
  chain s (encodeNat (.vrcp d a)) { fn := .func 8, d := d, a := a, b := .sca 0, c := 0, app := none } allGroups

/-- R192, R193, vsqrt. -/
def execVsqrt (d a : VReg) (s : State) : Out :=
  chain s (encodeNat (.vsqrt d a)) { fn := .func 9, d := d, a := a, b := .sca 0, c := 0, app := none } allGroups

/-- R192, R193, vrsqrt. -/
def execVrsqrt (d a : VReg) (s : State) : Out :=
  chain s (encodeNat (.vrsqrt d a)) { fn := .func 10, d := d, a := a, b := .sca 0, c := 0, app := none } allGroups

/-- R192, R193, verf. -/
def execVerf (d a : VReg) (s : State) : Out :=
  chain s (encodeNat (.verf d a)) { fn := .func 11, d := d, a := a, b := .sca 0, c := 0, app := none } allGroups

/-! ## `vapply` (R194 to R196) -/

/-- The descriptor's eight dwords as a snapshot; none where a reserved bit or HPC bit 1:0 is set (R195). -/
def vappOf (fid : Nat) (addr : Word) (bytes : List Byte) : Option VApp :=
  let n := leNat bytes
  let f (hi lo : Nat) : Nat := n / 2 ^ lo % 2 ^ (hi + 1 - lo)
  if f 511 448 != 0 || f 127 75 != 0 || f 71 64 != 0 || f 385 384 != 0 then none
  else some { fid := fid, addr := addr, lo := BitVec.ofNat 32 (f 31 0), hi := BitVec.ofNat 32 (f 63 32), deg := f 74 72,
              coef := (List.range 8).map (fun k => BitVec.ofNat 32 (f (159 + 32 * k) (128 + 32 * k))),
              hpc := BitVec.ofNat 64 (f 447 384) }

/-- Reads the eight dwords, each checked as a scalar load. -/
def readDesc (s : State) (va : Word) : Nat → List Byte → Except (Word × MStop) (List Byte × State)
  | 0, acc => .ok (acc, s)
  | n + 1, acc =>
    match checkAccess s va 8 true false with
    | .error e => .error (va, e)
    | .ok k =>
      if poisonedRead k.s k.s.cpu k.s.dev.nextUid k.loc 8 then .error (va, .cause Cause.ecc)
      else readDesc k.s (va + 8) n (acc ++ scalarBytes k.s k.s.cpu k.loc 8)

/-- R194: the formats are checked before the descriptor is read. -/
def execVapply (d a : VReg) (b : SReg) (s : State) : Out :=
  let word := encodeNat (.vapply d a b)
  let x : VDesc := { fn := .apply, d := d, a := a, b := .sca b, c := 0, app := none }
  match s.cpu.wait with
  | some (.micro y _) => if y.fn = .apply then chain s word y allGroups else chain s word x allGroups
  | _ =>
    taskOnly s word (readOps s word (fnSrcs x) (.v d) false (fun vs =>
      fmtGate s (fnAdmits .apply (etOf s)) [(a.toNat, (vecAt vs 0).fmt, etOf s)] [(a.toNat, wOf s), (d.toNat, wOf s)] (
        let fid := (wordAt vs 1).toNat % 256
        let t := s.ten s.cpu.tenant
        if t.thawn ≤ fid then fmtTrap s b.toNat
        else
          let va := BitVec.ofNat 64 (bitsOf t.thawb 63 6 * 64 + 64 * fid)
          match readDesc s va 8 [] with
          | .error (v, e) => stopAt s v e
          | .ok (bs, s') =>
            match vappOf fid va bs with
            | none => fmtTrap s b.toNat
            | some p => chain s' word { x with app := some p } allGroups)))

/-! ## The vector length (R143) -/

/-- setvl's effect. -/
def setVl (s : State) (req : Nat) : Nat × State :=
  let n := grant (vlgOf s) req (wOf s)
  (n, s.withCtl (fun c => { c with vl := n, vstart := 0 }))

/-- R143. -/
def execSetvl (d a : SReg) (s : State) : Out :=
  let word := encodeNat (.setvl d a)
  taskOnly s word (readS s word [a] (some d) (fun vs =>
    let r := setVl s (opd vs 0).toNat
    retire r.2 [a] d (BitVec.ofNat 64 r.1)))

/-- R143, with an immediate request. -/
def execSetvli (d : SReg) (i : BitVec 14) (s : State) : Out :=
  let word := encodeNat (.setvli d i)
  taskOnly s word (readS s word [] (some d) (fun _ =>
    let r := setVl s i.toNat
    retire r.2 [] d (BitVec.ofNat 64 r.1)))

end Sys2Proof.Machine
end

