-- ==== Sys2Proof/Machine/Vwhole.lean ====
section
/-! DEFINITION. Compares, conversions, permutes, reductions, scans and mask instructions (R152, R154 to R163), and the presence
instructions (R187, R188, R191). None of them carries holes. -/

namespace Sys2Proof.Machine

/-- A whole instruction: its fields are read, and a push has room, before it does anything. -/
def whole (s : State) (word : Nat) (rs : List Src) (dst : Dst) (k : List SVal → Out) : Out :=
  taskOnly s word (readOps s word rs dst true k)

/-- A whole instruction's destination; at VL = 0 it writes nothing (R143), but a push still takes place (R17). -/
def writeVl (s : State) (rs : List Src) (d : VReg) (w tag : Nat) (xs : List (Nat × Nat × Nat))
    (side : VVal → BitVec 512 × BitVec 512) (fl : Flags) : Out :=
  if vlOf s == 0 && !pushes s d then .next (vdone s rs) else writeV s rs d w tag xs side fl

/-- A compare or `vcvt` has issued its micro-operations: one for each element group of width w from VSTART up to VL, or under density
time one for each group of its n active elements (R146). -/
def countMicro (s : State) (w n : Nat) : State :=
  let k := if mrDt s.cpu.ctl.mr then (n + epg w - 1) / epg w else (vlOf s + epg w - 1) / epg w - vstartOf s / epg w
  s.withCpu (fun x => { x with usage := x.usage.counts k })

/-- The modes of MR. -/
def satOn (s : State) : Bool := mrSat s.cpu.ctl.mr
def fzOn (s : State) : Bool := mrFz s.cpu.ctl.mr
def rmOn (s : State) : RM := mrRm s.cpu.ctl.mr

/-! ## Compare (R152) -/

/-- One comparison: condition 0 to 7. -/
def cmpElem (f : Nat) (fz : Bool) (c : Nat) (a b : Nat) : Bool × Flags :=
  match floatFmt f with
  | some F =>
    let x := readF F fz a
    let y := readF F fz b
    let un := x.isNan || y.isNan
    let o := x.cmp y
    let fl := if un && 2 ≤ c && c ≤ 5 then Flags.nv else sigFl [x, y]
    (match c with
      | 0 => !un && o == .eq
      | 1 => un || o != .eq
      | 2 => !un && o == .lt
      | 3 => !un && o != .gt
      | 4 => !un && o == .gt
      | 5 => !un && o != .lt
      | 6 => un
      | _ => !un, fl)
  | none =>
    match intFmt f with
    | some (w, sg) =>
      let x := intVal w sg a
      let y := intVal w sg b
      (match c with
        | 0 => x == y
        | 1 => x != y
        | 2 => decide (x < y)
        | 3 => decide (x ≤ y)
        | 4 => decide (y < x)
        | 5 => decide (y ≤ x)
        | 6 => false
        | _ => true, 0)
    | none => (false, 0)

/-- Bits of a mask set or cleared one by one. -/
def maskPut (m : BitVec 1024) (xs : List (Nat × Bool)) : BitVec 1024 :=
  BitVec.ofNat 1024 (xs.foldl (fun n x => if n.testBit x.1 == x.2 then n else n ^^^ 2 ^ x.1) m.toNat)

/-- Element bits of a source operand, or of a scalar for every element. -/
def bAt (b : VOperand) (vs : List SVal) (w i : Nat) : Nat :=
  match b with
  | .vec _ => (vecAt vs 1).el w i
  | .sca _ => (wordAt vs 1).toNat % 2 ^ w

def vcmp (s : State) (word c : Nat) (d : MReg) (a : VReg) (b : VOperand) : Out :=
  let rs := [.v a, match b with | .vec r => Src.v r | .sca r => .s r]
  whole s word rs .none (fun vs =>
    let et := etOf s
    let w := wOf s
    let bt := match b with | .vec r => [(r, vecAt vs 1)] | .sca _ => []
    fmtGate s ((isFA et || isIA et) && decide (8 ≤ w))
      ((a.toNat, (vecAt vs 0).fmt, et) :: bt.map (fun r => (r.1.toNat, r.2.fmt, et)))
      ((a.toNat, w) :: bt.map (fun r => (r.1.toNat, w))) (
        let lo := vstartOf s
        if vlOf s ≤ lo then .next (complete (setVstart s 0))
        else
          let gs := groupsOf w lo (vlOf s)
          needV s ((a, vecAt vs 0, gs) :: bt.map (fun r => (r.1, r.2, gs))) (needM s [guardReg s] (
            let rsl := (activeFrom s w lo (vlOf s)).map (fun i => (i, cmpElem et (fzOn s) c ((vecAt vs 0).el w i) (bAt b vs w i)))
            let m := maskPut (mreg s d) (rsl.map (fun r => (r.1, r.2.1)))
            let fl := rsl.foldl (fun f r => f ||| r.2.2) 0
            .next (chainDone (setMreg (accrue (countMicro s w rsl.length) fl) d m) rs)))))

/-- R152, eq. -/
def execVcmpEq (d : MReg) (a : VReg) (b : VOperand) (s : State) : Out := vcmp s (encodeNat (.vcmpEq d a b)) 0 d a b

/-- R152, ne. -/
def execVcmpNe (d : MReg) (a : VReg) (b : VOperand) (s : State) : Out := vcmp s (encodeNat (.vcmpNe d a b)) 1 d a b

/-- R152, lt. -/
def execVcmpLt (d : MReg) (a : VReg) (b : VOperand) (s : State) : Out := vcmp s (encodeNat (.vcmpLt d a b)) 2 d a b

/-- R152, le. -/
def execVcmpLe (d : MReg) (a : VReg) (b : VOperand) (s : State) : Out := vcmp s (encodeNat (.vcmpLe d a b)) 3 d a b

/-- R152, gt. -/
def execVcmpGt (d : MReg) (a : VReg) (b : VOperand) (s : State) : Out := vcmp s (encodeNat (.vcmpGt d a b)) 4 d a b

/-- R152, ge. -/
def execVcmpGe (d : MReg) (a : VReg) (b : VOperand) (s : State) : Out := vcmp s (encodeNat (.vcmpGe d a b)) 5 d a b

/-- R152, un. -/
def execVcmpUn (d : MReg) (a : VReg) (b : VOperand) (s : State) : Out := vcmp s (encodeNat (.vcmpUn d a b)) 6 d a b

/-- R152, ord. -/
def execVcmpOrd (d : MReg) (a : VReg) (b : VOperand) (s : State) : Out := vcmp s (encodeNat (.vcmpOrd d a b)) 7 d a b

/-! ## Conversions (R154 to R158) -/

/-- Byte k of a sidecar. -/
def sideByte (x : BitVec 512) (k : Nat) : Nat := getEl 512 x 8 k

/-- The scale data of element i of a register value (R82, R84, R87). -/
def sclOf (v : VVal) (i : Nat) : Scl :=
  let f := v.fmt
  if isBlock32 f then
    if f == 0x0F then .qx (sideByte v.scale (i / 32)) (sideByte v.special (i / 32)) else .ue (sideByte v.scale (i / 32))
  else if f == 0x19 || f == 0x1A then .flt 0 (getEl 512 v.special 32 0)
  else if f == 0x1B then .flt 2 (getEl 512 v.special 16 (i / 128))
  else if f == 0x1C then .flt 0 (getEl 512 v.special 32 (i / 128))
  else .none

/-- R154. -/
def execVcvt (d a : VReg) (s : State) : Out :=
  whole s (encodeNat (.vcvt d a)) [.v a] (.v d) (fun vs =>
    let et := etOf s
    let w := wOf s
    let av := vecAt vs 0
    let ws := fmtWidth av.fmt
    if isScaled et || et == 0x25 then fmtTrap s 0x3F
    else if av.fmt == 0x25 || 0x26 ≤ av.fmt then fmtTrap s a.toNat
    else fmtGate s true [] [(a.toNat, ws), (d.toNat, w)] (
      let lo := vstartOf s
      if vlOf s ≤ lo then .next (complete (setVstart s 0))
      else needV s [(a, av, groupsOf ws lo (vlOf s))] (needM s [guardReg s] (
        let rsl := (activeFrom s w lo (vlOf s)).map (fun i =>
          (i, convElem av.fmt et (rmOn s) (satOn s) (fzOn s) (av.el ws i) (sclOf av i)))
        if !pushes s d && destWaits (vreg s d) w (rsl.map (·.1)) then .next (s.waitFor .operands)
        else .next (chainDone (putV (accrue (countMicro s w rsl.length) (rsl.foldl (fun f r => f ||| r.2.2) 0)) d w et
          (rsl.map (fun r => (r.1, r.2.1, pPresent))) noSide) [.v a])))))

/-- Consecutive pieces of n elements. -/
def chunks {α : Type} (n : Nat) : Nat → List α → List (List α)
  | 0, _ => []
  | k + 1, xs => xs.take n :: chunks n k (xs.drop n)

/-- Some bytes as a sidecar. -/
def sideOf (w : Nat) (xs : List Nat) : BitVec 512 :=
  BitVec.ofNat 512 ((xs.mapIdx (fun i x => x % 2 ^ w * 2 ^ (w * i))).foldl (· + ·) 0)

/-- The codes, sidecars and flags of a quantised register (R155): xs are the VLMAX values of the destination. -/
def quantAll (f : Nat) (rm : RM) (sat : Bool) (xs : List Val) : List Nat × BitVec 512 × BitVec 512 × Flags :=
  if f == 0x0F then
    let bs := (chunks 32 (xs.length / 32) xs).map (qx4Block rm)
    (bs.flatMap (·.1), sideOf 8 (bs.map (·.2.1)), sideOf 8 (bs.map (·.2.2.1)), bs.foldl (fun f b => f ||| b.2.2.2) 0)
  else if isBlock32 f then
    let bs := (chunks 32 (xs.length / 32) xs).map (mxBlock f rm sat)
    (bs.flatMap (·.1), sideOf 8 (bs.map (·.2.1)), 0, bs.foldl (fun f b => f ||| b.2.2) 0)
  else if f == 0x19 then let b := rowBlock f 0 448 rm xs; (b.1, 0, sideOf 32 [b.2.1], b.2.2)
  else if f == 0x1A then let b := rowBlock f 0 127 rm xs; (b.1, 0, sideOf 32 [b.2.1], b.2.2)
  else
    let (g, m, w) := if f == 0x1B then (2, 7, 16) else (0, 448, 32)
    let bs := (chunks 128 (xs.length / 128) xs).map (rowBlock f g m rm)
    (bs.flatMap (·.1), 0, sideOf w (bs.map (·.2.1)), bs.foldl (fun f b => f ||| b.2.2) 0)

/-- A source element of `vquant` under FZ. -/
def quantVal (f : Nat) (fz : Bool) (x : Nat) : Val :=
  match floatFmt f with
  | some F => readF F fz x
  | none => (valOf f x .none).1

/-- R155. -/
def execVquant (d a : VReg) (s : State) : Out :=
  whole s (encodeNat (.vquant d a)) [.v a] (.v d) (fun vs =>
    let et := etOf s
    let w := wOf s
    let av := vecAt vs 0
    let ws := fmtWidth av.fmt
    if !isScaled et then fmtTrap s 0x3F
    else if !(isFA av.fmt || isIA av.fmt) then fmtTrap s a.toNat
    else fmtGate s true [] [(a.toNat, ws), (d.toNat, w)] (
      needV s [(a, av, groupsOf ws 0 (vlOf s))] (
        let xs := (List.range (vlmax w)).map (fun i =>
          if i < vlOf s then quantVal av.fmt (fzOn s) (av.el ws i) else Val.zero)
        let q := quantAll et (rmOn s) (satOn s) xs
        writeVl s [.v a] d w et (q.1.mapIdx (fun i c => (i, c, pPresent))) (fun _ => (q.2.1, q.2.2.1)) q.2.2.2)))

/-- A sum or difference of a butterfly (R156), and a step of a reduction (R101). -/
def sumElem (f : Nat) (rm : RM) (sat fz sub : Bool) (a b : Nat) : FRes :=
  match floatFmt f with
  | some F => arithF F rm fz (if sub then 1 else 0) a b
  | none => match intFmt f with
    | some (w, sg) => arithI w sg sat (if sub then 1 else 0) a b
    | none => (0, 0)

/-- R156; R157 changes only time. -/
def execVhad (d a : VReg) (k : BitVec 5) (s : State) : Out :=
  whole s (encodeNat (.vhad d a k)) [.v a] (.v d) (fun vs =>
    let et := etOf s
    let w := wOf s
    let av := vecAt vs 0
    let h := 2 ^ k.toNat
    fmtGate s (isFA et || isIA et) [(a.toNat, av.fmt, et)] [(a.toNat, w), (d.toNat, w)] (
      if vlOf s % (2 * h) ≠ 0 then fmtTrap s d.toNat
      else needV s [(a, av, groupsOf w 0 (vlOf s))] (
        let rsl := (List.range (vlOf s)).map (fun i =>
          if i / h % 2 == 0 then (i, sumElem et (rmOn s) (satOn s) (fzOn s) false (av.el w i) (av.el w (i + h)))
          else (i, sumElem et (rmOn s) (satOn s) (fzOn s) true (av.el w (i - h)) (av.el w i)))
        writeVl s [.v a] d w et (rsl.map (fun r => (r.1, r.2.1, pPresent))) noSide (rsl.foldl (fun f r => f ||| r.2.2) 0))))

/-- The stall of `vsclget` and `vsclset`: groups 0 and 1 and the scale data have landed (R158). -/
def sclLanded (v : VVal) : Bool := v.landed.getLsbD 0 && v.landed.getLsbD 1 && sideReady v

/-- R158, get. -/
def execVsclget (d a : VReg) (s : State) : Out :=
  whole s (encodeNat (.vsclget d a)) [.v a] (.v d) (fun vs =>
    let av := vecAt vs 0
    if !sclLanded av then .next (s.waitFor .operands)
    else match vPoisoned av [0, 1] with
      | some g => trap s Cause.ecc (eccReg 1 a.toNat g)
      | none =>
        let bits := av.scale.toNat + av.special.toNat * 2 ^ 512
        writeV s [.v a] d 8 0x13 ((List.range 1024).map (fun i => (i, bits / 2 ^ (8 * i) % 256, pPresent))) noSide 0)

/-- R158, set. -/
def execVsclset (d a : VReg) (s : State) : Out :=
  whole s (encodeNat (.vsclset d a)) [.v a] (.v d) (fun vs =>
    let av := vecAt vs 0
    let et := etOf s
    fmtGate s (isScaled et) [(a.toNat, av.fmt, 0x13)] [(a.toNat, 8), (d.toNat, wOf s)] (
      if !sclLanded av then .next (s.waitFor .operands)
      else match vPoisoned av [0, 1] with
        | some g => trap s Cause.ecc (eccReg 1 a.toNat g)
        | none => writeVl s [.v a] d 8 et []
            (fun _ => (BitVec.ofNat 512 av.bits.toNat, BitVec.ofNat 512 (av.bits.toNat / 2 ^ 512))) 0))

/-! ## Permutes (R159 to R161) -/

/-- An element with its presence state. -/
def elSt (v : VVal) (w i : Nat) : Nat × Nat := (v.el w i, v.st w i)

/-- A permute of one or two vector sources: `mv` gives the elements written. -/
def permute (s : State) (rs : List Src) (d : VReg) (ns : List (VReg × VVal)) (masks : List MReg)
    (mv : Nat → List (Nat × Nat × Nat)) : Out :=
  let et := etOf s
  let w := wOf s
  fmtGate s true (ns.map (fun n => (n.1.toNat, n.2.fmt, et))) (ns.map (fun n => (n.1.toNat, w)) ++ [(d.toNat, w)]) (
    needV s (ns.map (fun n => (n.1, n.2, groupsOf w 0 (vlOf s)))) (needM s masks (
      let a := (ns.head?.map (·.2)).getD VVal.zero
      writeVl s rs d w et (mv w) (fun _ => (a.scale, a.special)) 0)))

/-- vperm: the index operand has its own tag and width (Table 6.5). -/
def execVperm (d a b : VReg) (s : State) : Out :=
  let rs := [Src.v a, .v b]
  whole s (encodeNat (.vperm d a b)) rs (.v d) (fun vs =>
    let av := vecAt vs 0
    let bv := vecAt vs 1
    let et := etOf s
    let w := wOf s
    if av.fmt != et then fmtTrap s a.toNat
    else if bv.fmt != 0x11 && bv.fmt != 0x21 then fmtTrap s b.toNat
    else
      let wb := fmtWidth bv.fmt
      fmtGate s true [] [(a.toNat, w), (b.toNat, wb), (d.toNat, w)] (
        needV s [(a, av, groupsOf w 0 (vlOf s)), (b, bv, groupsOf wb 0 (vlOf s))] (needM s [guardReg s] (
          let xs := (activeFrom s w 0 (vlOf s)).map (fun i =>
            let j := bv.el wb i
            (i, if j < vlOf s then elSt av w j else (0, pPresent)))
          writeVl s rs d w et xs (fun _ => (av.scale, av.special)) 0))))

/-- vslideup. -/
def execVslideup (d a : VReg) (b : SReg) (s : State) : Out :=
  let rs := [Src.v a, .s b]
  let word := encodeNat (.vslideup d a b)
  whole s word rs (.v d) (fun vs =>
    let n := (wordAt vs 1).toNat
    permute s rs d [(a, vecAt vs 0)] [guardReg s] (fun w =>
      ((activeFrom s w 0 (vlOf s)).filter (fun i => n ≤ i)).map (fun i => (i, elSt (vecAt vs 0) w (i - n)))))

/-- vslidedn. -/
def execVslidedn (d a : VReg) (b : SReg) (s : State) : Out :=
  let rs := [Src.v a, .s b]
  let word := encodeNat (.vslidedn d a b)
  whole s word rs (.v d) (fun vs =>
    let n := (wordAt vs 1).toNat
    permute s rs d [(a, vecAt vs 0)] [guardReg s] (fun w =>
      (activeFrom s w 0 (vlOf s)).map (fun i => (i, if i + n < vlOf s then elSt (vecAt vs 0) w (i + n) else (0, pPresent)))))

/-- The elements below VL whose bit in a mask is set. -/
def chosen (s : State) (m : BitVec 1024) (w : Nat) : List Nat := (List.range (vlOf s)).filter (fun i => m.getLsbD (maskIdx w i))

/-- vcompress: ignores the guard. -/
def execVcompress (d a : VReg) (b : MReg) (s : State) : Out :=
  let word := encodeNat (.vcompress d a b)
  whole s word [.v a] (.v d) (fun vs =>
    permute s [.v a] d [(a, vecAt vs 0)] [b] (fun w =>
      (chosen s (mreg s b) w).mapIdx (fun k i => (k, elSt (vecAt vs 0) w i))))

/-- vexpand: ignores the guard. -/
def execVexpand (d a : VReg) (b : MReg) (s : State) : Out :=
  let word := encodeNat (.vexpand d a b)
  whole s word [.v a] (.v d) (fun vs =>
    permute s [.v a] d [(a, vecAt vs 0)] [b] (fun w =>
      (chosen s (mreg s b) w).mapIdx (fun k i => (i, elSt (vecAt vs 0) w k))))

/-- vzip. -/
def execVzip (d a b : VReg) (s : State) : Out :=
  let rs := [Src.v a, .v b]
  let word := encodeNat (.vzip d a b)
  whole s word rs (.v d) (fun vs =>
    permute s rs d [(a, vecAt vs 0), (b, vecAt vs 1)] [guardReg s] (fun w =>
      (activeFrom s w 0 (vlOf s)).map (fun i => (i, elSt (vecAt vs (i % 2)) w (i / 2)))))

/-- vunzip. -/
def execVunzip (d a b : VReg) (s : State) : Out :=
  let rs := [Src.v a, .v b]
  let word := encodeNat (.vunzip d a b)
  whole s word rs (.v d) (fun vs =>
    permute s rs d [(a, vecAt vs 0), (b, vecAt vs 1)] [guardReg s] (fun w =>
      (activeFrom s w 0 (vlOf s)).map (fun i =>
        (i, if 2 * i < vlOf s then elSt (vecAt vs 0) w (2 * i) else elSt (vecAt vs 1) w (2 * i - vlOf s)))))

/-- vbcast: a scaled ET raises FMT. -/
def execVbcast (d : VReg) (a : SReg) (s : State) : Out :=
  whole s (encodeNat (.vbcast d a)) [.s a] (.v d) (fun vs =>
    fmtGate s (!isScaled (etOf s)) [] [(d.toNat, wOf s)] (needM s [guardReg s] (
      writeVl s [.s a] d (wOf s) (etOf s)
        ((activeFrom s (wOf s) 0 (vlOf s)).map (fun i => (i, (wordAt vs 0).toNat % 2 ^ wOf s, pPresent))) noSide 0)))

/-- vid. -/
def execVid (d : VReg) (s : State) : Out :=
  whole s (encodeNat (.vid d)) [] (.v d) (fun _ =>
    fmtGate s (isIA (etOf s)) [] [(d.toNat, wOf s)] (needM s [guardReg s] (
      writeVl s [] d (wOf s) (etOf s)
        ((activeFrom s (wOf s) 0 (vlOf s)).map (fun i => (i, i % 2 ^ wOf s, pPresent))) noSide 0)))

/-- R161, vext: it reads one element group (R185).
DESIGN CHOICE, log entry 68: the INT formats that it sign-extends are INT2, INT4, INT8, INT16, INT32 and INT64 of Table 4.4; the scaled
integer formats, and all others, are zero-extended. -/
def execVext (d : SReg) (a : VReg) (b : SReg) (s : State) : Out :=
  let rs := [Src.v a, .s b]
  whole s (encodeNat (.vext d a b)) rs (.s d) (fun vs =>
    let av := vecAt vs 0
    let w := wOf s
    let i := (wordAt vs 1).toNat
    fmtGate s true [(a.toNat, av.fmt, etOf s)] [] (
      if vlmax w ≤ i then writeSv s rs d 0
      else
        let g := w * i / 1024
        if !av.landed.getLsbD g || (av.pres != 0 && av.holeIn g) then .next (s.waitFor .operands)
        else match vPoisoned av [g] with
          | some g => trap s Cause.ecc (eccReg 1 a.toNat g)
          | none =>
            let x := av.el w i
            let v : Word := match intFmt (etOf s) with
              | some (_, true) => BitVec.ofInt 64 (intVal w true x)
              | _ => BitVec.ofNat 64 x
            writeSv s rs d v))

/-- R161, vins. The rest of a register stays, so its scale data arrive first (R167). -/
def execVins (d : VReg) (a b : SReg) (s : State) : Out :=
  let rs := [Src.s a, .s b]
  whole s (encodeNat (.vins d a b)) rs (.v d) (fun vs =>
    let w := wOf s
    let i := (wordAt vs 1).toNat
    fmtGate s true (if pushes s d then [] else [(d.toNat, (vreg s d).fmt, etOf s)]) [] (
      if !pushes s d && !sideReady (vreg s d) then .next (s.waitFor .operands)
      else writeV s rs d w (etOf s) (if i < vlmax w then [(i, (wordAt vs 0).toNat % 2 ^ w, pPresent)] else [])
        (fun v => (v.scale, v.special)) 0))

/-- R161, vmv: the whole value. -/
def execVmv (d a : VReg) (s : State) : Out :=
  whole s (encodeNat (.vmv d a)) [.v a] (.v d) (fun vs =>
    let av := vecAt vs 0
    needV s [(a, av, List.range 8)] (
      if pushes s d then .next (vdone (pushV s d av) [.v a])
      else .next (vdone (setVreg (claim s d 8192 [0]) d av) [.v a])))

/-! ## Reductions and scans (R101, R162) -/

/-- The identity of an operator (Table 4.9). -/
def identOf (op f : Nat) : Nat :=
  match floatFmt f with
  | some F => match op with
    | 0 => packF F true 0
    | 1 => packF F false F.infB
    | _ => packF F true F.infB
  | none => match intFmt f with
    | some (w, sg) => match op with
      | 1 => intBits w (intRange w sg).2
      | 2 => intBits w (intRange w sg).1
      | 3 => 2 ^ w - 1
      | _ => 0
    | none => 0

/-- One step x ⊕ y. -/
def redElem (op f : Nat) (rm : RM) (sat fz : Bool) (a b : Nat) : FRes :=
  let fn := match op with | 0 => 0 | 1 => 5 | 2 => 6 | 3 => 9 | 4 => 10 | _ => 11
  match floatFmt f with
  | some F => arithF F rm fz fn a b
  | none => match intFmt f with
    | some (w, sg) => arithI w sg sat fn a b
    | none => (0, 0)

/-- The tree of R101 over 2^k elements. -/
def redTree (g : Nat → Nat → FRes) : Nat → List Nat → FRes
  | 0, xs => (xs.headD 0, 0)
  | k + 1, xs =>
    let h := 2 ^ k
    let rs := List.zipWith g (xs.take h) (xs.drop h)
    let r := redTree g k (rs.map (·.1))
    (r.1, rs.foldl (fun f x => f ||| x.2) r.2)

/-- ceil(log2 n). -/
def clog2 (n : Nat) : Nat := if n ≤ 1 then 0 else (n - 1).log2 + 1

/-- The inclusive scan, with the flags so far. -/
def scanGo (g : Nat → Nat → FRes) : List Nat → Nat → Flags → List Nat → List Nat × Flags
  | [], _, fl, acc => (acc.reverse, fl)
  | x :: xs, e, fl, acc => let r := g e x; scanGo g xs r.1 (fl ||| r.2) (r.1 :: acc)

/-- An operand of a reduction as an instruction reads it: ignored bits zero, under FZ a subnormal a zero, a NaN canonical with NV if
it signals (R80, R81, R92). It is the result where it stands alone. -/
def readElem (f : Nat) (fz : Bool) (x : Nat) : FRes :=
  match floatFmt f with
  | some F => let v := readF F fz x; (if v.isNan then qnanF F else readBits F fz x, sigFl [v])
  | none => (x, 0)

/-- The checks and the operands of a reduction or scan, with the flags reading them raises. -/
def redPrep (s : State) (op : Nat) (d a : VReg) (av : VVal) (k : List Nat → Flags → Out) : Out :=
  let et := etOf s
  let w := wOf s
  let ok := if op ≤ 2 then (isFA et || isIA et) && decide (8 ≤ w) else isIA et && decide (8 ≤ w)
  fmtGate s ok [(a.toNat, av.fmt, et)] [(a.toNat, w), (d.toNat, w)] (
    needV s [(a, av, groupsOf w 0 (vlOf s))] (needM s [guardReg s] (
      let xs := (List.range (vlOf s)).map (fun i => readElem et (fzOn s) (if active s w i then av.el w i else identOf op et))
      k (xs.map (·.1)) (xs.foldl (fun f x => f ||| x.2) 0))))

def vred (s : State) (word op : Nat) (d a : VReg) : Out :=
  whole s word [.v a] (.v d) (fun vs =>
    redPrep s op d a (vecAt vs 0) (fun xs fl =>
      let et := etOf s
      let k := clog2 (vlOf s)
      let r := redTree (redElem op et (rmOn s) (satOn s) (fzOn s)) k
        (xs ++ List.replicate (2 ^ k - xs.length) (identOf op et))
      writeVl s [.v a] d (wOf s) et (if vlOf s = 0 then [] else [(0, r.1, pPresent)]) noSide (fl ||| r.2)))

def vscan (s : State) (word op : Nat) (d a : VReg) : Out :=
  whole s word [.v a] (.v d) (fun vs =>
    redPrep s op d a (vecAt vs 0) (fun xs fl =>
      let et := etOf s
      let r := match xs with
        | [] => ([], 0)
        | x :: ys => scanGo (redElem op et (rmOn s) (satOn s) (fzOn s)) ys x fl [x]
      let es := (r.1.mapIdx (fun i e => (i, e, pPresent))).filter (fun x => active s (wOf s) x.1)
      writeVl s [.v a] d (wOf s) et es noSide r.2))

/-- R162, sum. -/
def execVredSum (d a : VReg) (s : State) : Out := vred s (encodeNat (.vredSum d a)) 0 d a

/-- R162, min. -/
def execVredMin (d a : VReg) (s : State) : Out := vred s (encodeNat (.vredMin d a)) 1 d a

/-- R162, max. -/
def execVredMax (d a : VReg) (s : State) : Out := vred s (encodeNat (.vredMax d a)) 2 d a

/-- R162, and. -/
def execVredAnd (d a : VReg) (s : State) : Out := vred s (encodeNat (.vredAnd d a)) 3 d a

/-- R162, or. -/
def execVredOr (d a : VReg) (s : State) : Out := vred s (encodeNat (.vredOr d a)) 4 d a

/-- R162, xor. -/
def execVredXor (d a : VReg) (s : State) : Out := vred s (encodeNat (.vredXor d a)) 5 d a

/-- R162, sum. -/
def execVscanSum (d a : VReg) (s : State) : Out := vscan s (encodeNat (.vscanSum d a)) 0 d a

/-- R162, min. -/
def execVscanMin (d a : VReg) (s : State) : Out := vscan s (encodeNat (.vscanMin d a)) 1 d a

/-- R162, max. -/
def execVscanMax (d a : VReg) (s : State) : Out := vscan s (encodeNat (.vscanMax d a)) 2 d a

/-- R162, and. -/
def execVscanAnd (d a : VReg) (s : State) : Out := vscan s (encodeNat (.vscanAnd d a)) 3 d a

/-- R162, or. -/
def execVscanOr (d a : VReg) (s : State) : Out := vscan s (encodeNat (.vscanOr d a)) 4 d a

/-- R162, xor. -/
def execVscanXor (d a : VReg) (s : State) : Out := vscan s (encodeNat (.vscanXor d a)) 5 d a

/-! ## Mask instructions (R163) -/

/-- The number of mask bits that govern elements below VL. -/
def maskBits (s : State) : Nat := let w := wOf s; if 8 ≤ w then vlOf s else (vlOf s * w + 7) / 8

/-- A mask instruction that writes a mask. -/
def maskOp (s : State) (word : Nat) (ms : List MReg) (d : MReg) (v : BitVec 1024) : Out :=
  taskOnly s word (needM s ms (.next (vdone (setMreg s d v) [])))

/-- R163, mand. -/
def execMand (d a b : MReg) (s : State) : Out := maskOp s (encodeNat (.mand d a b)) [a, b] d (mreg s a &&& mreg s b)

/-- R163, mor. -/
def execMor (d a b : MReg) (s : State) : Out := maskOp s (encodeNat (.mor d a b)) [a, b] d (mreg s a ||| mreg s b)

/-- R163, mxor. -/
def execMxor (d a b : MReg) (s : State) : Out := maskOp s (encodeNat (.mxor d a b)) [a, b] d (mreg s a ^^^ mreg s b)

/-- R163, mnot. -/
def execMnot (d a : MReg) (s : State) : Out := maskOp s (encodeNat (.mnot d a)) [a] d (~~~mreg s a)

/-- R163, mmv. -/
def execMmv (d a : MReg) (s : State) : Out := maskOp s (encodeNat (.mmv d a)) [a] d (mreg s a)

/-- R163, mset. -/
def execMset (d : MReg) (a : SReg) (s : State) : Out :=
  whole s (encodeNat (.mset d a)) [.s a] .none (fun vs =>
    .next (vdone (setMreg s d (BitVec.ofNat 1024 (2 ^ Nat.min (wordAt vs 0).toNat 1024 - 1))) [.s a]))

/-- Set bits of a mask below n. -/
def setBits (m : BitVec 1024) (n : Nat) : List Nat := (List.range n).filter (fun i => m.getLsbD i)

/-- R163, mpop. -/
def execMpop (d : SReg) (a : MReg) (s : State) : Out :=
  whole s (encodeNat (.mpop d a)) [] (.s d) (fun _ =>
    needM s [a] (writeSv s [] d (BitVec.ofNat 64 (setBits (mreg s a) (maskBits s)).length)))

/-- R163, mfirst. -/
def execMfirst (d : SReg) (a : MReg) (s : State) : Out :=
  whole s (encodeNat (.mfirst d a)) [] (.s d) (fun _ =>
    needM s [a] (writeSv s [] d (match (setBits (mreg s a) (maskBits s)).head? with
      | some i => BitVec.ofNat 64 i
      | none => BitVec.allOnes 64)))

/-! ## Presence (R187, R188, R191) -/

/-- The FAULTED elements of a value, in its tag's width. -/
def faultedEls (v : VVal) : List Nat :=
  if v.pres == 0 then [] else (List.range (vlmax (fmtWidth v.fmt))).filter (fun i => v.st (fmtWidth v.fmt) i == pFaulted)

/-- settle of one register: it waits for its holes. -/
def settleOne (s : State) (word : Nat) (a : VReg) (nf : Bool) : Out :=
  whole s word [.v a] .none (fun vs =>
    let v := vecAt vs 0
    if v.holes then .next (s.waitFor (.settle (some a) nf))
    else if nf then .next (vdone (setMreg s 7 (maskPut 0 ((faultedEls v).map (fun i => (i, true))))) [.v a])
    else match (faultedEls v).head? with
      | some i => trap s Cause.hlf (BitVec.ofNat 64 i)
      | none => .next (vdone s [.v a]))

/-- The registers that hold FAULTED elements, with the lowest element of each. -/
def faultedRegs (s : State) : List (Nat × Nat) :=
  (s.cpu.regs.v.toList.mapIdx (fun r v => (r, (faultedEls v).head?))).filterMap (fun x => x.2.map (fun i => (x.1, i)))

/-- Whether any register holds a hole. -/
def anyHoles (s : State) : Bool := s.cpu.regs.v.toList.any VVal.holes

/-- HLF of a settle over all registers (R187, R189). -/
def hlfAll (s : State) : Option Word := (faultedRegs s).head?.map (fun x => BitVec.ofNat 64 (x.1 * 2 ^ 16 + x.2))

/-- settle over all registers. -/
def settleEvery (s : State) (word : Nat) (nf : Bool) : Out :=
  taskOnly s word (
    if anyHoles s then .next (s.waitFor (.settle none nf))
    else if nf then .next (vdone (setMreg s 7 (maskPut 0 ((faultedRegs s).map (fun r => (r.1, true))))) [])
    else match hlfAll s with
      | some t => trap s Cause.hlf t
      | none => .next (vdone s []))

/-- R187. -/
def execSettle (a : VReg) (s : State) : Out := settleOne s (encodeNat (.settle a)) a false

/-- R187, without a trap. -/
def execSettleNf (a : VReg) (s : State) : Out := settleOne s (encodeNat (.settleNf a)) a true

/-- R187, over every register. -/
def execSettleAll (s : State) : Out := settleEvery s (encodeNat .settleAll) false

/-- R187, over every register, without a trap. -/
def execSettleNfAll (s : State) : Out := settleEvery s (encodeNat .settleNfAll) true

/-- R188. Bit j covers the elements it governs under the tag's width; of slots that differ, log entry 49 (DESIGN CHOICE). -/
def presMask (v : VVal) : BitVec 1024 :=
  let w := fmtWidth v.fmt
  let n := vlmax w
  maskPut 0 (((List.range 1024).filter (fun j => if 8 ≤ w then decide (j < n) && v.st w j == pPresent else decide (j * 8 < n * w))).map
    (fun j => (j, true)))

/-- R188. -/
def execVpres (d : MReg) (a : VReg) (s : State) : Out :=
  whole s (encodeNat (.vpres d a)) [.v a] .none (fun vs =>
    let v := vecAt vs 0
    if v.landed != 0xFF then .next (s.waitFor .operands)
    else .next (vdone (setMreg s d (presMask v)) [.v a]))

/-- The thread that served an entry is idle again: its strand leaves. -/
def endThaw (s : State) : State := s.leave

/-- R191: only in thaw context (Table 3.12). -/
def execVfill (a : SReg) (s : State) : Out :=
  let word := encodeNat (.vfill a)
  match s.cpu.id, s.cpu.serves with
  | .thaw c _, some id =>
    readS s word [a] none (fun vs =>
      match (s.cluster c).div.find? (fun e => e.id == id) with
      | some e => .next (endThaw (resolveFaulted (fillEntry s c e (opd vs 0).toNat s.cpu.ctl.fflags) c))
      | none => .next (endThaw s))
  | _, _ => ill s word

end Sys2Proof.Machine
end

