-- ==== Sys2Proof/Machine/Vmem.lean ====
section
/-! DEFINITION. Vector loads and stores (R164 to R170), gathers, scatters, additions and probes (R264 to R269), and the
sequentially consistent vector accesses (R270, R271, R285). -/

namespace Sys2Proof.Machine

/-! ## Units of access (R253) -/

/-- One unit of a vector access: the elements it moves, its address and its size in bytes. -/
structure VUnit where
  els : List Nat
  va  : Word
  n   : Nat
  deriving DecidableEq, Repr

/-- Consecutive elements that share a byte. -/
def byteGroups (w : Nat) : List Nat → List (List Nat)
  | [] => []
  | i :: is =>
    match byteGroups w is with
    | (j :: js) :: gs => if i * w / 8 == j * w / 8 then (i :: j :: js) :: gs else [i] :: (j :: js) :: gs
    | gs => [i] :: gs

/-- The units of elements laid out from an address (R165). -/
def unitsAt (base : Word) (w : Nat) (is : List Nat) : List VUnit :=
  if 8 ≤ w then is.map (fun i => { els := [i], va := base + BitVec.ofNat 64 (i * w / 8), n := w / 8 })
  else (byteGroups w is).map (fun es => { els := es, va := base + BitVec.ofNat 64 (es.headD 0 * w / 8), n := 1 })

/-- The units of elements at a stride (R165). -/
def unitsBy (base stride : Word) (w : Nat) (is : List Nat) : List VUnit :=
  is.map (fun i => { els := [i], va := base + BitVec.ofNat 64 i * stride, n := w / 8 })

/-- An index as a 64-bit value (R264). -/
def idxOf (v : VVal) (i : Nat) : Word :=
  match intFmt v.fmt with
  | some (w, sg) => BitVec.ofInt 64 (intVal w sg (v.el w i))
  | none => 0

/-- The units of a gather or scatter (R264). -/
def unitsIdx (base : Word) (ix : VVal) (w : Nat) (is : List Nat) : List VUnit :=
  is.map (fun i => { els := [i], va := base + idxOf ix i * BitVec.ofNat 64 (w / 8), n := w / 8 })

/-- How many bytes of the scale and special-value sidecars a tagged image of n elements holds (Table 6.8). -/
def sideCount (f n : Nat) : Nat × Nat :=
  let nb := (n + 31) / 32
  let ng := (n + 127) / 128
  if f == 0x0F then (nb, nb)
  else if isBlock32 f then (nb, 0)
  else if f == 0x19 || f == 0x1A then (0, 4)
  else if f == 0x1B then (0, 2 * ng)
  else if f == 0x1C then (0, 4 * ng)
  else (0, 0)

/-- The scale bytes of a tagged image in memory order: which sidecar and byte, and the address (R164). -/
def sideUnits (base : Word) (f w n : Nat) : List (Bool × Nat × Word) :=
  let (a, b) := sideCount f n
  let at' (k : Nat) : Word := base + BitVec.ofNat 64 ((n * w + 7) / 8 + k)
  (List.range a).map (fun k => (false, k, at' k)) ++ (List.range b).map (fun k => (true, k, at' (a + k)))

/-! ## Loads (R165 to R168) -/

/-- How a load treats an address outside every lease: it ends the task, gives +0, or raises BND (R265). -/
inductive LeaseMode where
  | lse | zero | bnd
  deriving DecidableEq, Repr

/-- What the checks of a load gave: a location per unit, none for +0; and where they stopped: the element (none for a scale
byte), the address and the reason. -/
structure LRes where
  s    : State
  got  : List (VUnit × Option Loc)
  side : List (Bool × Nat × Loc)
  stop : Option (Option Nat × Word × MStop)
  deriving DecidableEq, Repr

/-- The element checks in ascending order. -/
def loadElems (mode : LeaseMode) : List VUnit → LRes → LRes
  | [], r => r
  | u :: us, r =>
    match checkAccess r.s u.va u.n true false with
    | .ok k => loadElems mode us { r with s := k.s, got := r.got ++ [(u, some k.loc)] }
    | .error e =>
      match e, mode with
      | .lease, .zero => loadElems mode us { r with got := r.got ++ [(u, none)] }
      | .lease, .bnd => { r with stop := some (u.els.head?, u.va, .cause Cause.bnd) }
      | _, _ => { r with stop := some (u.els.head?, u.va, e) }

/-- The scale-byte checks after the last element. -/
def loadSide : List (Bool × Nat × Word) → LRes → LRes
  | [], r => r
  | (sp, k, va) :: us, r =>
    if r.stop.isSome then r
    else match checkAccess r.s va 1 true false with
      | .ok x => loadSide us { r with s := x.s, side := r.side ++ [(sp, k, x.loc)] }
      | .error e => { r with stop := some (none, va, e) }

/-- A read that has not performed, all of whose bits belong where they go. -/
def freshRead (dst : PendDst) (pos width : Nat) (l : Loc) (srcBit ord : Nat) : PendRead :=
  { dst := dst, pos := pos, width := width, loc := l, srcBit := srcBit, ord := ord, live := 2 ^ width - 1 }

/-- The reads of one unit: whole bytes in one read, else one read per element. -/
def unitReads (w ord : Nat) (u : VUnit) (l : Loc) : List PendRead :=
  if 8 ≤ w || u.els.length * w == 8 then [freshRead .bits (u.els.headD 0 * w) (8 * u.n) l 0 ord]
  else u.els.map (fun i => freshRead .bits (i * w) w l (i * w % 8) ord)

/-- The value a load makes of the one it replaces (R167).
DESIGN CHOICE, log entry 50: the new value has ET's tag and zero sidecars even where the load stops at a fault. -/
def loadValue (o : VVal) (w tag ord : Nat) (r : LRes) : VVal :=
  let zs := r.got.filterMap (fun g => if g.2.isNone then g.1.els.head? else none)
  let is := r.got.flatMap (fun g => g.1.els)
  let v := is.foldl (fun (v : VVal) i => v.put w i (if zs.contains i then 0 else v.el w i) pPresent) o
  let reads := r.got.flatMap (fun g => match g.2 with | some l => unitReads w ord g.1 l | none => [])
  let sides := r.side.map (fun x => freshRead (if x.1 then .special else .scale) (8 * x.2.1) 8 x.2.2 0 ord)
  let gs := (List.range 8).filter (fun g => reads.any (fun p => p.pos / 1024 == g))
  let full := (List.range 8).filter (fills w is)
  { v with
    tag := BitVec.ofNat 6 tag, scale := 0, special := 0,
    landed := gs.foldl (fun m g => m &&& ~~~(1#8 <<< g)) v.landed,
    poison := full.foldl (fun m g => m &&& ~~~(1#8 <<< g)) v.poison,
    lord := gs.foldl (fun m g => m.setIfInBounds g ord) v.lord,
    pend := (stillPending w is v.pend).filter (fun p => p.dst == .bits) ++ reads ++ sides }

/-- The value a load goes on from: its register, or what it has built of a pushed entry. -/
def loadBase (s : State) (d : VReg) (tag : Nat) : VVal × State :=
  if pushes s d then
    match staged s with
    | some v => if vstartOf s = 0 then blankImage s tag else (v, s)
    | none => blankImage s tag
  else (vreg s d, s)

/-- Puts a load's value where it belongs; a pushed entry is kept aside until the load completes. -/
def putLoad (s : State) (d : VReg) (v : VVal) : State :=
  if pushes s d then (if vstartOf s = 0 then beginStaged s v else setStaged s v) else setVreg s d v

/-- The reads of access `ord` that have been made early have performed (R275, R279); `dep` is when the address stood. -/
def takeEarly (m : MemSt) (dep ord : Nat) (v : VVal) : VVal :=
  if m.early.isEmpty then v
  else v.pend.foldl (fun u r => if r.ord != ord then u
    else match m.earlyOf true dep r.loc r.bytes with
      | some bs => takeRead u r (leNat bs / 2 ^ r.srcBit % 2 ^ r.width) false
      | none => u) v

/-- Reads of these locations are not made early any more: the access comes first (R277). -/
def readAnewUnits (s : State) (ls : List (Loc × Nat)) : State :=
  if s.cpu.mem.early.isEmpty then s else ls.foldl (fun s l => readAnewAt s true l.1 l.2) s

/-- The load completes: a pushed entry is pushed. -/
def loadDone (s : State) (rs : List Src) (d : VReg) : Out :=
  if pushes s d then
    match staged s with
    | some v => .next (vdone (pushV s d v) rs)
    | none => .next (vdone s rs)
  else .next (vdone s rs)

/-- The value whose landed bits `.wait` and `vwait` watch. -/
def watched (s : State) (d : VReg) : VVal := if pushes s d then (staged s).getD VVal.zero else vreg s d

/-- Whether the strand goes past the wait for landed bits that it is in (R282). -/
def goesPast (s : State) : Bool := match s.cpu.wait with | some (.landed _ past) => past | _ => false

/-- `.wait`: completes only when every landed bit is set (R168). -/
def waitLanded (s : State) (rs : List Src) (d : VReg) : Out :=
  if (watched s d).landed == 0xFF || goesPast s then loadDone s rs d else .next (s.waitFor (.landed d false))

/-- The result of a load's checks, carried out. -/
def loadFinish (s : State) (rs : List Src) (d : VReg) (wait : Bool) (r : LRes) : Out :=
  let w := wOf s
  let (ord, s1) := r.s.fresh
  let is := r.got.flatMap (fun g => g.1.els)
  let (o, s2) := loadBase (if pushes s1 d then s1 else claim s1 d w is) d (etOf s)
  let v := loadValue o w (etOf s) ord r
  -- a load that a mask guards reads nothing before it issues (R288)
  let v := if mrGm s.cpu.ctl.mr = 0 then takeEarly s.cpu.mem (depOfSrcs s rs) ord v else v
  let s3 := readAnewUnits (putLoad s2 d v) (r.got.filterMap (fun g => g.2.map (·, g.1.n)) ++ r.side.map (fun x => (x.2.2, 1)))
  match r.stop with
  | some (i, va, e) => stopAt (setVstart s3 (i.getD (vlOf s))) va e
  | none => if wait then waitLanded s3 rs d else loadDone s3 rs d

/-- Whether a load in progress only waits for its landed bits. -/
def waitsLanded (s : State) : Bool := match s.cpu.wait with | some (.landed _ _) => true | _ => false

/-- A load with nothing left to do: VSTART ≥ VL (R141). -/
def loadIdle (s : State) (rs : List Src) (d : VReg) : Out :=
  if pushes s d && (staged s).isSome && vstartOf s != 0 then loadDone s rs d else .next (complete (setVstart s 0))

/-- Formats of a load or store whose ET must be unscaled and of 8 bits or more. -/
def plainByte (f : Nat) : Bool := !isScaled f && decide (8 ≤ fmtWidth f)

/-- The sub-byte rule of R165. -/
def subByteBad (s : State) : Bool := decide (wOf s < 8) && vlOf s % (8 / wOf s) != 0

/-- vld and vlds (R165). -/
def vload (s : State) (word : Nat) (rs : List Src) (d : VReg) (wait strided : Bool) (units : List SVal → List Nat → List VUnit)
    : Out :=
  whole s word rs (.v d) (fun vs =>
    if waitsLanded s then waitLanded s rs d
    else fmtGate s true [] [(d.toNat, wOf s)] (
      if strided && !plainByte (etOf s) then fmtTrap s d.toNat
      else if subByteBad s then fmtTrap s d.toNat
      else
        let lo := vstartOf s
        if vlOf s ≤ lo then loadIdle s rs d
        else needM s [guardReg s] (
          let us := units vs (activeFrom s (wOf s) lo (vlOf s))
          let r := loadElems .lse us { s := s, got := [], side := [], stop := none }
          let r := if strided then r else loadSide (sideUnits (wordAt vs 0) (etOf s) (wOf s) (vlOf s)) r
          loadFinish s rs d wait r)))

/-- R165. -/
def execVld (d : VReg) (a : SReg) (w : Bool) (s : State) : Out :=
  vload s (encodeNat (.vld d a w)) [.s a] d w false (fun vs is => unitsAt (wordAt vs 0) (wOf s) is)

/-- R165, strided. -/
def execVlds (d : VReg) (a b : SReg) (w : Bool) (s : State) : Out :=
  vload s (encodeNat (.vlds d a b w)) [.s a, .s b] d w true (fun vs is => unitsBy (wordAt vs 0) (wordAt vs 1) (wOf s) is)

/-- R168: changes nothing. -/
def execVwait (d : VReg) (s : State) : Out :=
  taskOnly s (encodeNat (.vwait d)) (readOps s (encodeNat (.vwait d)) [.v d] .none false (fun vs =>
    if (vecAt vs 0).landed == 0xFF || goesPast s then .next (complete s) else .next (s.waitFor (.landed d false))))

/-! ## Stores (R169, R281, R320) -/

/-- The bytes and the mask of a unit of data. -/
def unitData (v : VVal) (w : Nat) (u : VUnit) : List Byte × List Byte :=
  if 8 ≤ w then (leBytes u.n (v.el w (u.els.headD 0)), List.replicate u.n 0xFF)
  else
    let sh (i : Nat) : Nat := i * w % 8
    ([BitVec.ofNat 8 (u.els.foldl (fun b i => b + v.el w i * 2 ^ sh i) 0)],
     [BitVec.ofNat 8 (u.els.foldl (fun b i => b + (2 ^ w - 1) * 2 ^ sh i) 0)])

/-- A byte, element or scale datum to be stored. -/
structure SUnit where
  /-- the element VSTART names if it fails -/
  el   : Nat
  va   : Word
  data : List Byte
  mask : List Byte
  /-- what the data still waits for -/
  src  : Option ESrc
  /-- how many elements the bytes hold (R320) -/
  cnt  : Nat
  deriving DecidableEq, Repr

/-- What the checks of a store gave: local elements, remote elements with their device and window, and where they stopped. -/
structure SRes where
  s    : State
  loc  : List (Loc × List Byte × List Byte × Option ESrc)
  rem  : List (Nat × Nat × RElem)
  stop : Option (Nat × Word × MStop)
  deriving DecidableEq, Repr

/-- What a store may reach: additions need HBM, BKM or a remote window (R267). -/
def storeKind (adds : Bool) : Loc → Bool
  | .dev _ => true
  | .remote _ _ _ => true
  | _ => !adds

/-- The checks of a store in ascending order. A partial byte on a remote page raises PRM (R169); a partial store into, or an
addition at, a poisoned word raises ECC (R435). -/
def storeElems (adds : Bool) : List SUnit → SRes → SRes
  | [], r => r
  | u :: us, r =>
    match checkAccess r.s u.va u.data.length false true with
    | .error e => { r with stop := some (u.el, u.va, e) }
    | .ok k =>
      let partialByte := u.mask.any (fun m => m != 0xFF)
      if !storeKind adds k.loc then { r with stop := some (u.el, u.va, .cause Cause.prm) }
      else match k.loc with
        | .remote d w off =>
          if partialByte then { r with stop := some (u.el, u.va, .cause Cause.prm) }
          else storeElems adds us { r with s := k.s, rem := r.rem ++ [(d, w, { off := off, data := u.data, va := u.va, cnt := u.cnt })] }
        | l =>
          if (adds || decide (u.data.length < 8)) && poisonedLast k.s k.s.cpu l u.data.length then
            { r with stop := some (u.el, u.va, .cause Cause.ecc) }
          else storeElems adds us { r with s := k.s, loc := r.loc ++ [(l, u.data, u.mask, u.src)] }

/-- The (device, window) pairs some remote elements reach, first first. -/
def remoteDests (xs : List (Nat × Nat × RElem)) : List (Nat × Nat) :=
  (xs.map (fun x => (x.1, x.2.1))).eraseDups

/-- The train to a device, of the instruction resumed after a fault, that is still open for elements: its number. -/
def openTrain (s : State) (d : Nat) : Option Nat :=
  if vstartOf s = 0 then none
  else (s.cpu.mem.rtrains.find? (fun t => !t.closed && t.pc == s.pc && t.ddev == d)).map (·.train)

/-- Whether the store must wait for room among the 64 unacknowledged trains, one for each device (R320). -/
def needsRoom (s : State) (xs : List (Nat × Nat × RElem)) : Bool :=
  let new := ((xs.map (·.1)).eraseDups).filter (fun d => (openTrain s d).isNone)
  !new.isEmpty && decide (64 < s.cpu.mem.unacked + new.length)

/-- Adds remote elements to the open trains of the instruction, starting those that are missing.
DEDUCED, log entry 57: a train that reaches several windows of its device travels in one part for each, as each is a stream of its
own, and the tail of a part counts the elements of that part, a scale byte as one. -/
def addRemote (s : State) (ordered : Bool) (addFmt : Option Nat) (xs : List (Nat × Nat × RElem)) : State :=
  let first := s.dev.nextUid
  (remoteDests xs).foldl (fun s d =>
    let es := (xs.filter (fun x => x.1 == d.1 && x.2.1 == d.2)).map (·.2.2)
    let here (t : RTrain) : Bool := !t.closed && t.pc == s.pc && t.ddev == d.1
    let mine (t : RTrain) : Bool := here t && (vstartOf s != 0 || decide (first ≤ t.id))
    if s.cpu.mem.rtrains.any (fun t => mine t && t.win == d.2) then
      let more (t : RTrain) : RTrain := { t with elems := t.elems ++ es }
      s.withMem (fun m => { m with rtrains := replaceFirst (fun t => mine t && t.win == d.2) more m.rtrains })
    else startTrain s d.1 d.2 es addFmt false true ordered none ((s.cpu.mem.rtrains.find? mine).map (·.train))) s

/-- The tails of the instruction's trains are part of them: it has completed (R320). -/
def closeTrains (s : State) : State :=
  s.withMem (fun m => { m with rtrains := m.rtrains.map (fun t => if t.pc == s.pc then { t with closed := true } else t) })

/-- The train that the store at the pc goes on with after a fault (R291). -/
def contOf (s : State) : Option Nat :=
  if vstartOf s = 0 then none else (s.cpu.mem.cont.find? (fun c => c.1 == s.pc)).map (·.2)

/-- Keeps the train the store at the pc will go on with. -/
def setCont (s : State) (id : Option Nat) : State :=
  s.withMem (fun m => { m with cont := m.cont.filter (fun c => c.1 != s.pc) ++ id.toList.map (s.pc, ·) })

/-- Adds local elements as a train (R281); after a restart it goes on from the earlier one (R291). -/
def addTrain (s : State) (ordered : Bool) (op : ElemOp) (xs : List (Loc × List Byte × List Byte × Option ESrc)) : State × Option Nat :=
  if xs.isEmpty then (s, none)
  else
    let prior := if ordered then contOf s else none
    let (id, s) := (readAnewUnits s (xs.map (fun x => (x.1, x.2.1.length)))).fresh
    let es := xs.mapIdx (fun n x => ({ n := n, loc := x.1, data := x.2.1, mask := x.2.2.1, supplied := false, op := op, src := x.2.2.2, bad := false } : TElem))
    (s.withMem (fun m => { m with trains := m.trains ++ [{ id := id, ordered := ordered, prior := prior, elems := es }] }), some id)

/-- The end of a store whose train stands: it completes, or stops where its checks stopped. -/
def storeEnd (s : State) (rs : List Src) (ordered : Bool) (id : Option Nat) (stop : Option (Nat × Word × MStop)) : Out :=
  match stop with
  | some (i, va, e) => stopAt (setVstart (setCont s (if ordered then id.orElse (fun _ => contOf s) else none)) i) va e
  | none => .next (vdone (closeTrains (setCont s none)) rs)

/-- The groups of a data register that hold some elements of width w. -/
def elemGroups (w : Nat) (is : List Nat) : List Nat := (is.map (fun i => w * i / 1024)).eraseDups

/-- Whether what an element waits for is ready, and holds no poison. -/
def ESrc.ready (x : ESrc) (v : VVal) (w : Nat) : Bool :=
  vReady v (elemGroups w x.els) && (vPoisoned v (elemGroups w x.els)).isNone

/-- A datum of a register value: elements, or a byte of its sidecars. -/
def srcData (v : VVal) (w n : Nat) (x : ESrc) : List Byte × List Byte :=
  match x.side with
  | some (sp, k) => ([BitVec.ofNat 8 (sideByte (if sp then v.special else v.scale) k)], [0xFF])
  | none => unitData v w { els := x.els, va := 0, n := n }

/-- An element takes its value from the data register. -/
def TElem.capture (e : TElem) (v : VVal) (w : Nat) : TElem :=
  match e.src with
  | some x => let dm := srcData v w e.data.length x; { e with data := dm.1, mask := dm.2, src := none }
  | none => e

/-- Changes a train of the cpu strand. -/
def modTrain (s : State) (id : Nat) (f : Train → Train) : State :=
  s.withMem (fun m => { m with trains := m.trains.map (fun t => if t.id == id then f t else t) })

/-- A store whose train stands (R281): it goes on once every group of its data register is ready. Poison there stops it, with
what has not been taken, at the first element of that (R435). -/
def storeWait (s : State) (rs : List Src) (d : VReg) (v : VVal) (w : Nat) (ordered : Bool) (id : Nat)
    (stop : Option (Nat × Word × MStop)) : Out :=
  let left := ((s.cpu.mem.trains.find? (fun t => t.id == id)).map (·.elems)).getD [] |>.filterMap (·.src)
  let gs := elemGroups w (left.flatMap (·.els))
  if !vReady v gs then .next (s.waitFor (.supply d w id stop))
  else match vPoisoned v gs with
    | some g =>
      let s1 := modTrain s id (fun t => { t with elems := t.elems.filter (fun e => e.src.isNone) })
      trap (setVstart (setCont s1 (if ordered then some id else none)) ((left.flatMap (·.els)).headD (vlOf s))) Cause.ecc (eccReg 1 d.toNat g)
    | none => storeEnd (modTrain s id (fun t => { t with elems := t.elems.map (fun e => e.capture v w) })) rs ordered (some id) stop

/-- The checks of a store. One that reaches a remote window goes as far as its data is ready, and waits there for the rest (R281). -/
def storeChecks (s : State) (adds : Bool) (us : List SUnit) : SRes :=
  let run (us : List SUnit) : SRes := storeElems adds us { s := s, loc := [], rem := [], stop := none }
  let r := run us
  match (if r.rem.isEmpty then none else us.find? (fun u => u.src.isSome)) with
  | some u =>
    if vlOf s ≤ u.el then r
    else
      let q := run (us.takeWhile (fun u => u.src.isNone))
      if q.stop.isSome then q else { q with stop := some (u.el, u.va, .held) }
  | none => r

/-- The result of a store's checks, carried out. Its train stands at once; an element whose group of the data register is not
ready takes its value when it is supplied (R281). -/
def storeFinish (s : State) (rs : List Src) (d : VReg) (v : VVal) (ordered : Bool) (op : ElemOp) (r : SRes) : Out :=
  let addFmt := match op with | .add f => some f | .store => none
  if needsRoom r.s r.rem then .next (s.waitFor .trains)
  else if r.loc.all (fun x => x.2.2.2.isNone) then
    let (s1, id) := addTrain (addRemote r.s ordered addFmt r.rem) ordered op r.loc
    storeEnd s1 rs ordered id r.stop
  else if !r.rem.isEmpty then .next (s.waitFor .operands)
  else match addTrain r.s ordered op r.loc with
    | (s1, some id) => storeWait s1 rs d v (wOf s) ordered id r.stop
    | (s1, none) => storeEnd s1 rs ordered none r.stop

/-- The data units of a register's elements, then its scale bytes (R169). One whose group is not ready waits for it. -/
def dataUnits (v : VVal) (w : Nat) (us : List VUnit) (vl : Nat) (side : List (Bool × Nat × Word)) : List SUnit :=
  let unit (el n cnt : Nat) (va : Word) (x : ESrc) : SUnit :=
    let dm := srcData v w n x
    { el := el, va := va, data := dm.1, mask := dm.2, src := if x.ready v w then none else some x, cnt := cnt }
  us.map (fun u => unit (u.els.headD 0) u.n u.els.length u.va { els := u.els, side := none }) ++
  side.map (fun x => unit vl 1 1 x.2.2 { els := [], side := some (x.1, x.2.1) })

/-- A store with nothing left to do, VSTART ≥ VL: it completes, and its trains with it (R141, R320). -/
def storeIdle (s : State) : Out := .next (complete (setVstart (closeTrains (setCont s none)) 0))

/-- vst and vsts (R169). -/
def vstore (s : State) (word : Nat) (rs : List Src) (d : VReg) (u strided : Bool) (units : List SVal → List Nat → List VUnit) : Out :=
  whole s word (rs ++ [.v d]) .none (fun vs =>
    let v := vecAt vs rs.length
    match s.cpu.wait with
    | some (.supply _ w id stop) => storeWait s (rs ++ [.v d]) d v w (!u) id stop
    | _ => fmtGate s true [(d.toNat, v.fmt, etOf s)] [(d.toNat, wOf s)] (
      if strided && !plainByte (etOf s) then fmtTrap s d.toNat
      else if subByteBad s then fmtTrap s d.toNat
      else
        let lo := vstartOf s
        if vlOf s ≤ lo then storeIdle s
        else needM s [guardReg s] (
          let us := units vs (activeFrom s (wOf s) lo (vlOf s))
          let side := if strided then [] else sideUnits (wordAt vs 0) (etOf s) (wOf s) (vlOf s)
          storeFinish s (rs ++ [.v d]) d v (!u) .store (storeChecks s false (dataUnits v (wOf s) us (vlOf s) side)))))

/-- R169. -/
def execVst (d : VReg) (a : SReg) (u : Bool) (s : State) : Out :=
  vstore s (encodeNat (.vst d a u)) [.s a] d u false (fun vs is => unitsAt (wordAt vs 0) (wOf s) is)

/-- R169, strided. -/
def execVsts (d : VReg) (a b : SReg) (u : Bool) (s : State) : Out :=
  vstore s (encodeNat (.vsts d a b u)) [.s a, .s b] d u true (fun vs is => unitsBy (wordAt vs 0) (wordAt vs 1) (wOf s) is)

/-! ## Gathers, scatters and additions (R264 to R267) -/

/-- The index tags of R264. -/
def isIdxTag (f : Nat) : Bool := 0x20 ≤ f && f ≤ 0x23

/-- The format checks of R264: ET, the index tag, the data's tag, the widths. -/
def idxGate (s : State) (ok : Bool) (b : VReg) (bv : VVal) (data : Option (VReg × VVal)) (d : Option VReg) (k : Out) : Out :=
  if !ok then fmtTrap s 0x3F
  else if !isIdxTag bv.fmt then fmtTrap s b.toNat
  else fmtGate s true (data.toList.map (fun x => (x.1.toNat, x.2.fmt, etOf s)))
    ([(b.toNat, fmtWidth bv.fmt)] ++ d.toList.map (fun x => (x.toNat, wOf s))) k

/-- The first element from lo on, below VL, whose group of an index vector is not ready or is poisoned; VL where there is none. A gather
or a scatter goes as far, and on from there (R275, R281). -/
def idxReach (s : State) (v : VVal) (lo : Nat) : Nat :=
  let w := fmtWidth v.fmt
  let ok (g : Nat) : Bool := vReady v [g] && (vPoisoned v [g]).isNone
  match (groupsOf w lo (vlOf s)).find? (fun g => !ok g) with
  | some g => Nat.max lo (g * epg w)
  | none => vlOf s

/-- Where an instruction that has come as far as element n stops, if that is not its end. -/
def reachStop (s : State) (n : Nat) : Option (Nat × Word × MStop) := if n < vlOf s then some (n, 0, .held) else none

/-- R265. -/
def execVgat (d : VReg) (a : SReg) (b : VReg) (st : Bool) (s : State) : Out :=
  let rs := [Src.s a, .v b]
  whole s (encodeNat (.vgat d a b st)) rs (.v d) (fun vs =>
    let bv := vecAt vs 1
    idxGate s (plainByte (etOf s)) b bv none (some d) (
      let lo := vstartOf s
      -- a gather over its own indexes waits for all of them
      let hi := if b == d then vlOf s else idxReach s bv lo
      if vlOf s ≤ lo then loadIdle s rs d
      else needV s [(b, bv, if lo < hi then groupsOf (fmtWidth bv.fmt) lo hi else groupsOf (fmtWidth bv.fmt) lo (lo + 1))] (needM s [guardReg s] (
        let us := unitsIdx (wordAt vs 0) bv (wOf s) (activeFrom s (wOf s) lo hi)
        let r := loadElems (if st then .bnd else .zero) us { s := s, got := [], side := [], stop := none }
        loadFinish s rs d false { r with stop := r.stop.orElse (fun _ => (reachStop s hi).map (fun x => (some x.1, x.2))) }))))

/-- vsct and vscadd. -/
def vscatter (s : State) (word : Nat) (d : VReg) (a : SReg) (b : VReg) (ordered ok : Bool) (op : ElemOp) : Out :=
  let rs := [Src.s a, .v b, .v d]
  whole s word rs .none (fun vs =>
    let bv := vecAt vs 1
    let v := vecAt vs 2
    match s.cpu.wait with
    | some (.supply _ w id stop) => storeWait s rs d v w ordered id stop
    | _ => idxGate s ok b bv (some (d, v)) (some d) (
      let lo := vstartOf s
      let hi := idxReach s bv lo
      if vlOf s ≤ lo then storeIdle s
      else needV s [(b, bv, if lo < hi then groupsOf (fmtWidth bv.fmt) lo hi else groupsOf (fmtWidth bv.fmt) lo (lo + 1))] (
        needM s [guardReg s] (
          let us := unitsIdx (wordAt vs 0) bv (wOf s) (activeFrom s (wOf s) lo hi)
          let r := storeChecks s (op != .store) (dataUnits v (wOf s) us (vlOf s) [])
          storeFinish s rs d v ordered op { r with stop := r.stop.orElse (fun _ => reachStop s hi) }))))

/-- R266. -/
def execVsct (d : VReg) (a : SReg) (b : VReg) (u : Bool) (s : State) : Out :=
  vscatter s (encodeNat (.vsct d a b u)) d a b (!u) (plainByte (etOf s)) .store

/-- The formats memory adds in (R267, R268). -/
def isAddFmt (f : Nat) : Bool := f == 0x00 || f == 0x02 || (0x20 ≤ f && f ≤ 0x23)

/-- R267. -/
def execVscadd (d : VReg) (a : SReg) (b : VReg) (u : Bool) (s : State) : Out :=
  vscatter s (encodeNat (.vscadd d a b u)) d a b (!u) (isAddFmt (etOf s)) (.add (etOf s))

/-- An addition at memory in format f: RNE, subnormals kept, no flags, or wrapping (R103, R267). -/
def memAdd (f : Nat) (old v : Nat) : Nat :=
  match floatFmt f with
  | some F => (addF F 0 false (decodeF F old) (decodeF F v)).1
  | none => (old + v) % 2 ^ fmtWidth f

/-- The same on bytes, as an element of a train takes it. -/
def memAddBytes (f : Nat) (old v : List Byte) : List Byte := leBytes old.length (memAdd f (leNat old) (leNat v))

/-! ## vfas (R268) -/

/-- The exclusive prefixes of a `vfas` and the word after it. -/
def fasGo (f : Nat) : List (Nat × Nat) → Nat → List (Nat × Nat) → List (Nat × Nat) × Nat
  | [], x, acc => (acc.reverse, x)
  | (i, b) :: bs, x, acc => fasGo f bs (memAdd f x b) ((i, x) :: acc)

/-- The strand's older vector-side accesses to n bytes are over: its reads have performed and its trains have entered (R272). -/
def vectorClear (s : State) (x : Strand) (ord : Nat) (l : Loc) (n : Nat) : Bool :=
  x.mem.vfas.all (fun p => ord ≤ p.ord || !overlaps p.loc (fmtWidth p.et / 8) l n) &&
  x.mem.trains.all (fun t => ord ≤ t.id || t.elems.all (fun e => !overlaps e.loc e.data.length l n)) &&
  (vvals s x).all (fun v => v.pend.all (fun p => ord ≤ p.ord || !overlaps p.loc ((p.srcBit + p.width + 7) / 8) l n)) &&
  (match x.mem.sv with | some v => v.pend.all (fun p => ord ≤ p.ord || !overlaps p.loc 4 l n) | none => true)

/-- The strand goes past a `vfas` (R279): the groups of its destination that it writes have not landed. -/
def vfasLater (s : State) (rs : List Src) (d : VReg) (loc : Loc) (va : Word) (els : List (Nat × Nat)) : Out :=
  let w := wOf s
  let (ord, s) := (readAnewAt s true loc (w / 8)).fresh
  let is := els.map (·.1)
  let s := claim s d w is
  let o := vreg s d
  let v := o.write w (etOf s) (is.map (fun i => (i, o.el w i, pPresent))) 0 0
  let gs := (List.range 8).filter (touches w is)
  let v := { v with landed := gs.foldl (fun m g => m &&& ~~~(1#8 <<< g)) v.landed, lord := gs.foldl (fun m g => m.setIfInBounds g ord) v.lord }
  let p : PVfas := { ord := ord, d := some d, et := etOf s, loc := loc, va := va, els := els }
  .next (vdone ((setVreg s d v).withMem (fun m => { m with vfas := m.vfas ++ [p], late := false })) rs)

/-- R268, R283: one move at the word's home slice or bank unit. Where it is one of several additions in one move, that says what it
finds in the word and what stands there after them. -/
def vfas (s : State) (d : VReg) (a : SReg) (b : VReg) (sum : Option (Nat × Nat)) : Out :=
  let rs := [Src.s a, .v b]
  whole s (encodeNat (.vfas d a b)) rs (.v d) (fun vs =>
    let bv := vecAt vs 1
    let w := wOf s
    let va := wordAt vs 0
    fmtGate s (isAddFmt (etOf s)) [(b.toNat, bv.fmt, etOf s)] [(b.toNat, w), (d.toNat, w)] (
      needV s [(b, bv, groupsOf w 0 (vlOf s))] (needM s [guardReg s] (
        match checkAccess s va (w / 8) true true with
        | .error e => stopAt s va e
        | .ok k =>
          match k.loc with
          | .dev _ =>
            let is := activeFrom s w 0 (vlOf s)
            let ord := k.s.dev.nextUid
            if !pushes s d && destWaits (vreg s d) w is then .next (s.waitFor .operands)
            else if sum.isNone && k.s.cpu.mem.late && !pushes s d && !is.isEmpty && !poisonedLast k.s k.s.cpu k.loc (w / 8) then
              vfasLater k.s rs d k.loc va (is.map (fun i => (i, bv.el w i)))
            else if !atomicReady k.s k.s.cpu ord k.loc (w / 8) || !vectorClear k.s k.s.cpu ord k.loc (w / 8) then .next (s.waitFor (.vfas d a b))
            else if poisonedLast k.s k.s.cpu k.loc (w / 8) then trap s Cause.ecc va
            else
              let r := fasGo (etOf s) (is.map (fun i => (i, bv.el w i))) ((sum.map (·.1)).getD (leNat (hide k.s k.loc (lastBytes k.s k.loc (w / 8))))) []
              let s1 := if is.isEmpty then k.s else
                enter (readAnewAt k.s.fresh.2 true k.loc (w / 8)) k.loc (leBytes (w / 8) ((sum.map (·.2)).getD r.2)) s.cpu.id s.cpu.cluster .device (.train ord 0 none) ord
              writeVl s1 rs d w (etOf s) (r.1.map (fun x => (x.1, x.2, pPresent))) noSide 0
          | _ => trap s Cause.prm va))))

/-- R268. -/
def execVfas (d : VReg) (a : SReg) (b : VReg) (s : State) : Out := vfas s d a b none

/-! ## Probes (R269) -/

/-- Whether an element passes every check of a load, without setting an accessed bit; MIG fails. -/
def probeOk (s : State) (va : Word) (n : Nat) : Bool :=
  if va.toNat % n != 0 then false
  else match translate s (ctxOf s s.cpu) va true false false false with
    | .error _ => false
    | .ok k =>
      (match k.loc with | .remote _ _ _ => false | _ => true) &&
      (match leasesOf s s.cpu with | some ls => inLeases ls va.toNat n true false false | none => true)

/-- Whether an address lies outside every lease. -/
def outsideLeases (s : State) (va : Word) (n : Nat) : Bool :=
  match leasesOf s s.cpu with | some ls => !inLeases ls va.toNat n true false false | none => false

/-- R269.
DESIGN CHOICE, log entry 13: at VL = 0 it clears mD whole, as R269 says of the bits it does not set; R143 has an instruction write
nothing then. -/
def execVprobe (d : MReg) (a : SReg) (b : VReg) (st : Bool) (s : State) : Out :=
  let rs := [Src.s a, .v b]
  whole s (encodeNat (.vprobe d a b st)) rs .none (fun vs =>
    let bv := vecAt vs 1
    idxGate s (plainByte (etOf s)) b bv none none (
      -- VL is also held to VLMAX of ET (R264)
      if vlmax (wOf s) < vlOf s then fmtTrap s d.toNat
      else needV s [(b, bv, groupsOf (fmtWidth bv.fmt) 0 (vlOf s))] (needM s [guardReg s] (
        let us := unitsIdx (wordAt vs 0) bv (wOf s) (activeFrom s (wOf s) 0 (vlOf s))
        match (if st then us.find? (fun u => outsideLeases s u.va u.n) else none) with
        | some u => trap s Cause.bnd u.va
        | none => .next (vdone (setMreg s d (maskPut 0 ((us.filter (fun u => probeOk s u.va u.n)).map
            (fun u => (u.els.headD 0, true))))) rs)))))

/-! ## Sequentially consistent vector accesses (R270, R271, R285) -/

/-- The condition of an SC access. -/
def scReady (s : State) (l : Loc) (n : Nat) : Bool :=
  scalarDone s s.cpu .device none && vectorDone s s.cpu .device none && !s.cpu.mem.fenced s.dev.nextUid &&
  s.log.all (fun r => !overlaps r.loc r.bytes.length l n || visAtLeast r.loc r.vis .device)

/-- One element read, at once present and landed. -/
def scLoad (s : State) (d : VReg) (w i : Nat) (l : Loc) : State :=
  let x := leNat (hide s l (lastBytes s l (w / 8)))
  if pushes s d then
    setStaged s (((staged s).getD VVal.zero).write w (etOf s) [(i, x, pPresent)] 0 0)
  else
    let s := claim s d w [i]
    setVreg s d ((vreg s d).write w (etOf s) [(i, x, pPresent)] 0 0)

/-- The elements that are left, up to `budget` of them: each draws a ticket in its own move. -/
def scGo (store : Bool) (rs : List Src) (d : VReg) (a : SReg) (v : VVal) (w : Nat) : Nat → List VUnit → State → Out
  | _, [], s =>
    if store then .next (vdone s rs)
    else if (watched s d).landed != 0xFF then .next ((setVstart s (vlOf s)).waitFor (.sc store d a))
    else loadDone s rs d
  | 0, u :: _, s => .next ((setVstart s (u.els.headD 0)).waitFor (.sc store d a))
  | budget + 1, u :: us, s =>
    let i := u.els.headD 0
    let s := setVstart s i
    match checkAccess s u.va u.n (!store) store with
    | .error e => stopAt s u.va e
    | .ok k =>
      match k.loc with
      | .remote _ _ _ => trap s Cause.prm u.va
      | l =>
        if !scReady k.s l u.n then .next (s.waitFor (.sc store d a))
        else if (!store || decide (u.n < 8)) && poisonedLast k.s k.s.cpu l u.n then trap s Cause.ecc u.va
        else
          let (ord, s) := (drawTicket (readAnew k.s)).fresh
          if store then
            scGo store rs d a v w budget us
              (enter s l (leBytes u.n (v.el w i)) s.cpu.id s.cpu.cluster .device (.train ord 0 none) ord)
          else scGo store rs d a v w budget us (scLoad s d w i l)

/-- vld.sc and vst.sc. -/
def scAccess (s : State) (word : Nat) (store : Bool) (d : VReg) (a : SReg) (budget : Nat) : Out :=
  let rs := if store then [Src.s a, .v d] else [.s a]
  whole s word rs (if store then .none else .v d) (fun vs =>
    let v := vecAt vs 1
    let w := wOf s
    fmtGate s (plainByte (etOf s)) (if store then [(d.toNat, v.fmt, etOf s)] else []) [(d.toNat, w)] (
      let lo := vstartOf s
      let going := match s.cpu.wait with | some (.sc _ _ _) => true | _ => false
      if vlOf s ≤ lo then
        if store then .next (complete (setVstart s 0))
        else if going && (watched s d).landed != 0xFF then .next (s.waitFor (.sc store d a))
        else if going then loadDone s rs d
        else loadIdle s rs d
      else needV s (if store then [(d, v, groupsOf w lo (vlOf s))] else []) (needM s [guardReg s] (
        let is := activeFrom s w lo (vlOf s)
        if !store && !pushes s d && destWaits (vreg s d) w is then .next (s.waitFor .operands)
        else
          let (o, s1) := if store then (VVal.zero, s) else loadBase s d (etOf s)
          let s2 := if !store && pushes s1 d then (if lo = 0 then beginStaged s1 o else setStaged s1 o) else s1
          scGo store rs d a v w budget (unitsAt (wordAt vs 0) w is) s2))))

/-- R270, load. -/
def execVldSc (d : VReg) (a : SReg) (s : State) : Out := scAccess s (encodeNat (.vldSc d a)) false d a 1

/-- R270, store. -/
def execVstSc (d : VReg) (a : SReg) (s : State) : Out := scAccess s (encodeNat (.vstSc d a)) true d a 1

end Sys2Proof.Machine
end

