-- ==== Sys2Proof/Machine/Matrix.lean ====
section
/-! DEFINITION. The matrix engine: accumulator tiles (R197 to R199), tile word pairs and their checks (R200 to R204), the
multiplies (R205 to R213) and the accumulator instructions (R214 to R220). -/

namespace Sys2Proof.Machine

/-! ## Accumulators (R60, R197) -/

/-- The number of tiles the cpu strand is granted: none for the A strand of a pair (R197). -/
def accCount (s : State) : Nat :=
  match tidOf s.cpu.id with
  | some tid => match s.task? tid with
    | some t => if t.dual && !isE s.cpu.id then 0 else t.nacc
    | none => 0
  | none => 0

/-- Accumulator n. -/
def accOf (s : State) (n : AccReg) : Tile :=
  match tidOf s.cpu.id with
  | some tid => match s.task? tid with
    | some t => t.accs.getD n.toNat Tile.zero
    | none => Tile.zero
  | none => Tile.zero

/-- Replaces accumulator n; a write sets the dirty bit (R199). -/
def setAcc (s : State) (n : AccReg) (x : Tile) : State :=
  match tidOf s.cpu.id with
  | some tid => s.modTask tid (fun t => { t with accs := t.accs.set n.toNat { x with dirty := true } })
  | none => s

/-- An accumulator field at or above the grant raises ILL (R60). -/
def needAcc (s : State) (word : Nat) (n : AccReg) (k : Out) : Out := if n.toNat < accCount s then k else ill s word

/-- Row r of a tile, 64 elements of 32 bits. -/
def Tile.row (t : Tile) (r : Nat) : Nat := getEl 131072 t.bits 2048 r

/-- Element (r, j). -/
def Tile.el (t : Tile) (r j : Nat) : Nat := t.row r / 2 ^ (32 * j) % 2 ^ 32

/-- Replaces row r. -/
def Tile.setRow (t : Tile) (r x : Nat) : Tile := { t with bits := setEl 131072 t.bits 2048 r x }

/-- Elements of one width as a number, first lowest. -/
def packEls (w : Nat) : List Nat → Nat
  | [] => 0
  | x :: xs => x % 2 ^ w + 2 ^ w * packEls w xs

/-- The first poisoned row among some. -/
def Tile.poisoned (t : Tile) (rows : List Nat) : Option Nat :=
  if t.poison = 0 then none else rows.find? (fun r => t.poison.getLsbD r)

/-- A poisoned accumulator row raises ECC (R435). -/
def needRows (s : State) (n : AccReg) (t : Tile) (rows : List Nat) (k : Out) : Out :=
  match t.poisoned rows with
  | some r => trap s Cause.ecc (eccReg 4 n.toNat r)
  | none => k

/-! ## Tile word pairs (R200 to R203) -/

/-- A tile word pair: Tables 8.1 and 8.2. -/
structure TilePair where
  w1 : Word
  w2 : Word
  deriving DecidableEq, Repr

namespace TilePair
def rotc (p : TilePair) : Nat := bitsOf p.w1 56 53
def tpitch (p : TilePair) : Nat := bitsOf p.w1 52 37
def rpitch (p : TilePair) : Nat := bitsOf p.w1 36 21
def base (p : TilePair) : Nat := bitsOf p.w1 20 0
def spar (p : TilePair) : Nat := bitsOf p.w2 48 45
def sbase (p : TilePair) : Nat := bitsOf p.w2 44 24
def fmt (p : TilePair) : Nat := bitsOf p.w2 23 18
def cols (p : TilePair) : Nat := bitsOf p.w2 17 7
def rows (p : TilePair) : Nat := bitsOf p.w2 6 0
end TilePair

/-- Table 8.3. -/
def rotMul (c : Nat) : Nat := [0, 1, 2, 3, 4, 5, 6, 7, 8, 9, 11, 13, 15, 17, 19, 31].getD c 0

/-- The physical offset of logical offset o in row r (R201). -/
def bankRot (c r o : Nat) : Nat := o ^^^ (r * rotMul c % 32 * 64)

/-- A pattern of Table 8.7: nk, m, W and ib. -/
structure Sparsity where
  nk : Nat
  m  : Nat
  w  : Nat
  ib : Nat
  deriving DecidableEq, Repr

/-- Table 8.7. -/
def sparsityOf (c : Nat) : Option Sparsity :=
  match c with
  | 1 => some ⟨1, 2, 4, 1⟩ | 2 => some ⟨2, 4, 4, 4⟩ | 3 => some ⟨4, 8, 4, 12⟩
  | 5 => some ⟨1, 2, 8, 1⟩ | 6 => some ⟨2, 4, 8, 4⟩ | 7 => some ⟨4, 8, 8, 12⟩
  | _ => none

def cdiv (a b : Nat) : Nat := (a + b - 1) / b

/-- Elements stored per row (R201, R212). -/
def storedCount (sp : Option Sparsity) (k : Nat) : Nat := match sp with | some x => cdiv k x.m * x.nk | none => k

/-- Bytes of a row's elements (R201). -/
def rowBytes (p : TilePair) (sp : Option Sparsity) (k : Nat) : Nat := cdiv (storedCount sp k * fmtWidth p.fmt) 8

/-- The declared and the needed count of Table 8.4. -/
def sideCounts (f tpitch k : Nat) : Nat × Nat :=
  if f == 0x0F then (tpitch / 2, cdiv k 32)
  else if isBlock32 f then (tpitch, cdiv k 32)
  else if f == 0x19 || f == 0x1A then (tpitch / 4, 1)
  else if f == 0x1B then (tpitch / 2, cdiv k 128)
  else if f == 0x1C then (tpitch / 4, cdiv k 128)
  else (0, 0)

/-- The needed bytes of a side row, as (offset, length, the special sidecar) (Table 8.4). -/
def sideParts (f tpitch k : Nat) : List (Nat × Nat × Bool) :=
  let n := (sideCounts f tpitch k).2
  if f == 0x0F then [(0, n, false), (tpitch / 2, n, true)]
  else if isBlock32 f then [(0, n, false)]
  else if f == 0x1B then [(0, 2 * n, true)]
  else if f == 0x19 || f == 0x1A || f == 0x1C then [(0, 4 * n, true)]
  else []

/-- The pieces of n bytes from offset lo that lie within one 64-byte bank row each: (offset, length). -/
def bankPieces (lo n : Nat) : List (Nat × Nat) :=
  if n == 0 then []
  else (List.range ((lo + n - 1) / 64 - lo / 64 + 1)).map (fun i =>
    let a := if i == 0 then lo else (lo / 64 + i) * 64
    let e := Nat.min (lo + n) ((lo / 64 + i + 1) * 64)
    (a, e - a))

/-- The metadata of R212: its start, and the bytes of one column block's row. -/
def metaBase (p : TilePair) : Nat := p.sbase + p.rows * p.tpitch
def metaRow (x : Sparsity) (k : Nat) : Nat := 8 * cdiv (cdiv k x.m * x.ib) 64

/-- One past the highest byte a tile uses, for check 7. -/
def tileEnd (p : TilePair) (sp : Option Sparsity) (k : Nat) : Nat :=
  let n := rowBytes p sp k
  let side := sideParts p.fmt p.tpitch k
  let rowEnd (r : Nat) : Nat :=
    let els := (bankPieces (p.base + r * p.rpitch) n).foldl (fun m x => Nat.max m (bankRot p.rotc r x.1 + x.2)) 0
    side.foldl (fun m x => if x.2.1 == 0 then m else Nat.max m (p.sbase + r * p.tpitch + x.1 + x.2.1)) els
  let all := (List.range p.rows).foldl (fun m r => Nat.max m (rowEnd r)) 0
  match sp with
  | some x => if p.rows == 0 || k == 0 then all else Nat.max all (metaBase p + cdiv p.rows x.w * metaRow x k)
  | none => all

/-- The use a pair is checked for. -/
inductive TileUse where
  | dense
  | sparse
  | build
  deriving DecidableEq, Repr

/-- BF16x2 and BF16x3. -/
def isSplit (f : Nat) : Bool := f == 0x1D || f == 0x1E

/-- Table 8.5 in code order: the first failure, 0 for none. `other` is the other operand's format. -/
def tileCheck (p : TilePair) (use : TileUse) (k alloc : Nat) (other : Nat) : Nat :=
  let pat := sparsityOf p.spar
  let c3 := match use with
    | .dense => p.spar != 0
    | .sparse => pat.isNone || decide (4 < fmtWidth p.fmt)
    | .build => p.spar != 0 && pat.isNone
  if bitsOf p.w1 63 57 != 0 || bitsOf p.w2 63 49 != 0 then 1
  else if 0x1F < p.fmt then 2
  else if c3 then 3
  else if 64 < p.rows then 4
  else if p.cols != k then 5
  else if (sideCounts p.fmt p.tpitch k).1 < (sideCounts p.fmt p.tpitch k).2 then 6
  else if alloc < tileEnd p pat k then 7
  else if use != .build && (isSplit p.fmt || isSplit other) && p.fmt != other then 8
  else 0

/-- A failed check: FMT with the code and the register (R203). -/
def tileTrap (s : State) (code reg : Nat) : Out := fmtTrap s (256 * code + reg)

/-! ## Reading a tile (R201, R202, R209, R213) -/

/-- A scratchpad byte as a multiply reads it, whose addresses depend on no read after `dep`: the strand's stores as a vector load takes
them, so a scalar store is seen once it has entered (R170, R209); or what the byte was when it was read early, as each byte that
another agent writes is read at its own time. -/
def spadByte (s : State) (dep : Nat) (l : Loc) : Byte :=
  let early (e : EarlyRd) : Option Byte := if e.vec && decide (dep ≤ e.time) then byteIn e.loc e.bytes l else none
  ((s.cpu.mem.early.findSome? early)).getD ((vectorBytes s s.cpu s.dev.nextUid l 1).headD 0)

/-- n of them from an offset as a number. -/
def spadNat (s : State) (dep tid off n : Nat) : Nat :=
  if s.cpu.mem.early.isEmpty then leNat (vectorBytes s s.cpu s.dev.nextUid (.spad tid off) n)
  else leNat ((List.range n).map (fun i => spadByte s dep (.spad tid (off + i))))

/-- No element of the strand's stores to a task's scratchpad waits for its data. -/
def spadWritten (s : State) (tid : Nat) : Bool :=
  s.cpu.mem.trains.all (fun u => u.elems.all (fun e => e.src.isNone || (match e.loc with | .spad t _ => t != tid | _ => true)))

/-- The element bytes of row r in logical order. -/
def tileRowBits (s : State) (dep tid : Nat) (p : TilePair) (n r : Nat) : Nat :=
  let lo := p.base + r * p.rpitch
  (bankPieces lo n).foldl (fun x q => x + spadNat s dep tid (bankRot p.rotc r q.1) q.2 * 2 ^ (8 * (q.1 - lo))) 0

/-- The side data of row r as the sidecars of a register (R202, Table 4.5). -/
def tileSide (s : State) (dep tid : Nat) (p : TilePair) (k r : Nat) : VVal :=
  (sideParts p.fmt p.tpitch k).foldl (fun (v : VVal) x =>
    let b := BitVec.ofNat 512 (spadNat s dep tid (p.sbase + r * p.tpitch + x.1) x.2.1)
    if x.2.2 then { v with special := b } else { v with scale := b })
    (VVal.plain 0 p.fmt)

/-- Whether any byte of a tile is poisoned, as the multiply finds it (R208, R435). -/
def tilePoisoned (s : State) (tid : Nat) (p : TilePair) (sp : Option Sparsity) (k : Nat) : Bool :=
  match s.task? tid with
  | none => false
  | some t =>
    if t.spadPoison.isEmpty && s.log.all (fun r => r.bad.isEmpty) then false
    else
      let bad (off n : Nat) : Bool := poisonedVec s s.cpu s.dev.nextUid (.spad tid off) n
      (List.range p.rows).any (fun r =>
        (bankPieces (p.base + r * p.rpitch) (rowBytes p sp k)).any (fun q => bad (bankRot p.rotc r q.1) q.2) ||
        (sideParts p.fmt p.tpitch k).any (fun x => bad (p.sbase + r * p.tpitch + x.1) x.2.1)) ||
      (match sp with
        | some x => bad (metaBase p) (cdiv p.rows x.w * metaRow x k)
        | none => false)

/-- One decoded operand: its exact value, its BF16 parts where it is split (R88, R99), and the flags of reading it. -/
structure MVal where
  v     : Val
  parts : List Val
  fl    : Flags
  deriving DecidableEq, Repr

/-- +0. -/
def MVal.zero : MVal := { v := .zero, parts := [], fl := 0 }

/-- An operand of format f (R79 to R88); a signalling NaN and a TERN code 0b10 set NV (Table 4.7). -/
def mval (f x : Nat) (sc : Scl) : MVal :=
  let (v, fl) := valOf f x sc
  let part (k : Nat) : Val := decodeF ffBF16 (x / 2 ^ k % 2 ^ 16)
  { v := v, parts := if f == 0x1D then [part 16, part 0] else if f == 0x1E then [part 48, part 32, part 16] else [],
    fl := fl ||| (if v.isSig then .nv else 0) }

/-- A dense row: elements 0 to k − 1. -/
def denseRow (f bits k : Nat) (side : VVal) : List MVal :=
  let w := fmtWidth f
  (List.range k).map (fun i => mval f (bits / 2 ^ (w * i) % 2 ^ w) (sclOf side i))

/-- The exact sum of some values: +∞ with −∞ gives a NaN and NV (R99).
DESIGN CHOICE, log entry 52: a sum that is zero is +0. -/
def exactSum (xs : List Val) : Val × Flags :=
  if xs.any (fun x => x == .inf false) && xs.any (fun x => x == .inf true) then (.nan false, .nv)
  else (xs.foldl (fun a x => (a.add x false).getD (.nan false)) .zero, 0)

/-- The kept positions of row n: (logical k, stored position) (R212). -/
def keptAt (x : Sparsity) (k mrow : Nat) : List (Nat × Nat) :=
  let lg := x.m.log2
  ((List.range (cdiv k x.m)).flatMap (fun g => (List.range x.nk).map (fun i =>
    (g * x.m + mrow / 2 ^ (g * x.ib + i * lg) % x.m, g * x.nk + i)))).filter (fun q => q.1 < k)

/-- A sparse row as logical elements 0 to k − 1 (R213). -/
def sparseRow (f bits k mrow : Nat) (x : Sparsity) (side : VVal) : List MVal :=
  let w := fmtWidth f
  let kept := keptAt x k mrow
  (List.range k).map (fun j =>
    let es := (kept.filter (fun q => q.1 == j)).map (fun q => mval f (bits / 2 ^ (w * q.2) % 2 ^ w) (sclOf side j))
    let t := exactSum (es.map (·.v))
    { v := t.1, parts := [], fl := es.foldl (fun a e => a ||| e.fl) t.2 })

/-- The rows of a tile as logical elements. -/
def tileRows (s : State) (dep tid : Nat) (p : TilePair) (sp : Option Sparsity) (k : Nat) : List (List MVal) :=
  (List.range p.rows).map (fun r =>
    let bits := tileRowBits s dep tid p (rowBytes p sp k) r
    let side := tileSide s dep tid p k r
    match sp with
    | none => denseRow p.fmt bits k side
    | some x => sparseRow p.fmt bits k (spadNat s dep tid (metaBase p + r / x.w * metaRow x k) (metaRow x k)) x side)

/-! ## Multiplying (R99, R207) -/

/-- The integer-class operand formats (R198). -/
def isIntClass (f : Nat) : Bool := (0x10 ≤ f && f ≤ 0x15) || f == 0x17 || f == 0x18 || f == 0x1F

/-- The accumulation class (R198). -/
def accClass (f g : Nat) : TileKind := if isIntClass f && isIntClass g then .int else .fp

/-- The block length (Table 4.8). -/
def blockLen (f g : Nat) : Nat :=
  let w := Nat.max (fmtWidth f) (fmtWidth g)
  if w ≤ 8 then 32 else if w == 16 then 16 else 4

/-- prod (R99): the exact product, or the exact sum of the partial products that R99 names. NV for 0 × ∞. -/
def mprod (x y : MVal) : Val × Flags :=
  let whole : Val × Flags := match x.v.mul y.v with | some p => (p, 0) | none => (.nan false, .nv)
  match x.parts, y.parts, x.v, y.v with
  | a :: as, b :: bs, .fin _ _ _, .fin _ _ _ =>
    let n := as.length + 1
    let ps := ((a :: as).mapIdx (fun i p => ((b :: bs).take (n - i)).map (fun q => (p.mul q).getD (.nan false)))).flatten
    exactSum ps
  | _, _, _, _ => whole

/-- One block: the exact sum of its products. -/
def mblock (xs : List (MVal × MVal)) : Val × Flags :=
  let ps := xs.map (fun q => mprod q.1 q.2)
  let t := exactSum (ps.map (·.1))
  (t.1, ps.foldl (fun a p => a ||| p.2) t.2)

/-- macc_elem (R99) into FP32: one rounding per block, in RNE, FZ ignored (R92). -/
def maccFp : List (List (MVal × MVal)) → Nat → Flags → Nat × Flags
  | [], acc, fl => (acc, fl)
  | blk :: rest, acc, fl =>
    let p := mblock blk
    let r := addF ffFP32 0 false (decodeF ffFP32 acc) p.1
    maccFp rest r.1 (fl ||| p.2 ||| r.2)

/-- An exact integer value. -/
def Val.toInt : Val → Int
  | .fin s m e => let n : Nat := m * 2 ^ e.toNat; if s then -(n : Int) else n
  | _ => 0

/-- macc_elem (R99) into INT32: it wraps, or clamps under SAT. -/
def maccInt (sat : Bool) : List (List (MVal × MVal)) → Nat → Flags → Nat × Flags
  | [], acc, fl => (acc, fl)
  | blk :: rest, acc, fl =>
    let p := mblock blk
    let r := acc32 sat (intVal 32 true acc + p.1.toInt)
    maccInt sat rest r.1 (fl ||| p.2 ||| r.2)

/-- The flags a matrix instruction contributes: NX, OF and NV (R98). -/
def matFlags (fl : Flags) : Flags := fl &&& 0x15

/-- The new tile of a multiply, and its flags (R207).
DESIGN CHOICE, log entry 53: an element of B counts as read at every k, so a signalling NaN or a TERN code 0b10 in it sets NV where
the guard makes k inactive, too. -/
def matmul (t : Tile) (cls : TileKind) (z sat : Bool) (l k : Nat) (a b : List (List MVal)) : Tile × Flags :=
  let keep := z || t.kind == .zero
  let elem (r n : Nat) (ra rb : List MVal) : Nat × Flags :=
    let start := if keep then 0 else t.el r n
    let blks := chunks l (cdiv k l) (ra.zip rb)
    match cls with
    | .int => maccInt sat blks start 0
    | _ => maccFp blks start 0
  let opFl := (a ++ b).foldl (fun f r => r.foldl (fun f x => f ||| x.fl) f) 0
  let n := b.length
  let go := (a.mapIdx (fun r ra => (r, b.mapIdx (fun j rb => elem r j ra rb)))).foldl (fun (q : Tile × Flags) row =>
    let x := q.1
    let old := x.row row.1
    let new := packEls 32 (row.2.map (·.1)) + old / 2 ^ (32 * n) * 2 ^ (32 * n)
    let y := x.setRow row.1 new
    (if n == 64 then { y with poison := y.poison &&& ~~~(1#64 <<< row.1) } else y, row.2.foldl (fun f e => f ||| e.2) q.2))
    (t, opFl)
  ({ go.1 with kind := cls }, matFlags go.2)

/-- The kind check of a multiply, before it reads an element (R207). -/
def kindGate (s : State) (d : AccReg) (z : Bool) (cls : TileKind) (k : Out) : Out :=
  let t := accOf s d
  if !z && t.kind != .zero && t.kind != cls then fmtTrap s 0x3E else k

/-- The last steps of a multiply: poison, the sums (R207, R208). -/
def multiply (s : State) (rs : List Src) (d : AccReg) (z : Bool) (fa : Nat) (pb : TilePair) (m k : Nat) (sp : Option Sparsity)
    (poisonedA : Bool) (tid : Nat) (rowsA : List (List MVal)) : Out :=
  let t := accOf s d
  -- it is put off once, or waits for data of the strand's own stores
  if s.cpu.mem.late || !spadWritten s tid then .next ((s.withMem (fun m => { m with late := false })).waitFor .operands)
  else if poisonedA || tilePoisoned s tid pb sp k then let f := s.freeWord; trap f.2 Cause.ecc f.1
  else needRows s d t (if z then [] else List.range m) (
    let r := matmul t (accClass fa pb.fmt) z (mrSat s.cpu.ctl.mr) (blockLen fa pb.fmt) k rowsA (tileRows s (depOfSrcs s rs) tid pb sp k)
    .next (vdone (setAcc (accrue s r.2) d r.1) rs))

/-- The scalar registers of a pair. -/
def PairReg.lo (p : PairReg) : SReg := BitVec.ofNat 5 (2 * p.toNat)
def PairReg.hi (p : PairReg) : SReg := BitVec.ofNat 5 (2 * p.toNat + 1)

/-- In a decoupled task a pair's first register is at most s26, and a vector group ends at or below v27 (R60). -/
def needPairs (s : State) (word : Nat) (ps : List Nat) (k : Out) : Out :=
  if roleOf s s.cpu != .single && ps.any (fun p => 13 < p) then ill s word else k

def needGroup (s : State) (word : Nat) (a : VReg) (g : Nat) (k : Out) : Out :=
  if roleOf s s.cpu != .single && decide (27 < a.toNat + g - 1) then ill s word else k

/-- The task the cpu belongs to, its number and its scratchpad length. -/
def spadOf (s : State) : Nat × Nat :=
  match tidOf s.cpu.id with
  | some tid => (tid, match s.task? tid with | some t => t.spadLen | none => 0)
  | none => (0, 0)

/-- mma and mmasp (R205 to R213).
DESIGN CHOICE, log entry 54: with M, K or N zero it does nothing, as R206 says, and VSTART stays, where R141 has it 0 at completion. -/
def mmaForm (s : State) (word : Nat) (sparse : Bool) (d : AccReg) (a : VReg) (b : PairReg) (z : Bool) (g : BitVec 2) : Out :=
  let m := 2 ^ g.toNat
  taskOnly s word (needAcc s word d (needPairs s word [b.toNat] (needGroup s word a m (
    -- R206
    if vlOf s == 0 then .next (complete s)
    else
      let regs : List VReg := (List.range m).map (fun i => BitVec.ofNat 5 (a.toNat + i))
      let rs := [Src.s (PairReg.lo b), .s (PairReg.hi b)]
      readOps s word rs .none false (fun vs =>
        let p : TilePair := { w1 := wordAt vs 0, w2 := wordAt vs 1 }
        let et := etOf s
        let k := vlOf s
        let (tid, alloc) := spadOf s
        if p.rows == 0 then .next (complete s)
        else fmtGate s (decide (et ≤ 0x1F)) (regs.map (fun r => (r.toNat, (vreg s r).fmt, et)))
            (regs.map (fun r => (r.toNat, wOf s))) (
          let c := tileCheck p (if sparse then .sparse else .dense) k alloc et
          if c != 0 then tileTrap s c (PairReg.lo b).toNat
          else
            let gs := groupsOf (wOf s) 0 k
            kindGate s d z (accClass et p.fmt) (needV s (regs.map (fun r => (r, vreg s r, gs))) (needM s [guardReg s] (
              let rowsA := regs.map (fun r =>
                let v := vreg s r
                (List.range k).map (fun i => if active s (wOf s) i then mval et (v.el (wOf s) i) (sclOf v i) else MVal.zero))
              multiply s rs d z et p m k (if sparse then sparsityOf p.spar else none) false tid rowsA)))))))))

/-- R205. -/
def execMma (d : AccReg) (a : VReg) (b : PairReg) (z : Bool) (g : BitVec 2) (s : State) : Out :=
  mmaForm s (encodeNat (.mma d a b z g)) false d a b z g

/-- R205, R211. -/
def execMmasp (d : AccReg) (a : VReg) (b : PairReg) (z : Bool) (g : BitVec 2) (s : State) : Out :=
  mmaForm s (encodeNat (.mmasp d a b z g)) true d a b z g

/-- R205: both operands are tiles; VL, ET and the guard are ignored. -/
def execMmas (d : AccReg) (a b : PairReg) (z : Bool) (s : State) : Out :=
  let word := encodeNat (.mmas d a b z)
  taskOnly s word (needAcc s word d (needPairs s word [a.toNat, b.toNat] (
    let rs := [Src.s (PairReg.lo a), .s (PairReg.hi a), .s (PairReg.lo b), .s (PairReg.hi b)]
    readOps s word rs .none false (fun vs =>
      let pa : TilePair := { w1 := wordAt vs 0, w2 := wordAt vs 1 }
      let pb : TilePair := { w1 := wordAt vs 2, w2 := wordAt vs 3 }
      let k := pa.cols
      let (tid, alloc) := spadOf s
      if pa.rows == 0 || k == 0 || pb.rows == 0 then .next (complete s)
      else
        let ca := tileCheck pa .dense k alloc pb.fmt
        let cb := tileCheck pb .dense k alloc pa.fmt
        if ca != 0 then tileTrap s ca (PairReg.lo a).toNat
        else if cb != 0 then tileTrap s cb (PairReg.lo b).toNat
        else kindGate s d z (accClass pa.fmt pb.fmt)
          (multiply s rs d z pa.fmt pb pa.rows k none (tilePoisoned s tid pa none k) tid (tileRows s (depOfSrcs s rs) tid pa none k))))))

/-! ## Accumulator instructions (R204, R214 to R220) -/

/-- R214. DESIGN CHOICE, log entry 54: VSTART stays as it is. -/
def execMaccZ (d : AccReg) (s : State) : Out :=
  let word := encodeNat (.maccZ d)
  taskOnly s word (needAcc s word d (.next (complete (setAcc s d Tile.zero))))

/-- R215. -/
def execMaccRd (d : VReg) (a : AccReg) (b : SReg) (s : State) : Out :=
  let word := encodeNat (.maccRd d a b)
  taskOnly s word (needAcc s word a (readOps s word [.s b] (.v d) true (fun vs =>
    let r := (wordAt vs 0).toNat
    if 64 ≤ r then fmtTrap s b.toNat
    else
      let t := accOf s a
      needRows s a t [r] (
        let xs := (List.range 256).map (fun j => (j, if j < 64 then t.el r j else 0, pPresent))
        writeV s [.s b] d 32 (if t.kind == .int then 0x20 else 0x00) xs noSide 0))))

/-- R215. -/
def execMaccWr (d : AccReg) (a : VReg) (b : SReg) (s : State) : Out :=
  let word := encodeNat (.maccWr d a b)
  taskOnly s word (needAcc s word d (
    let rs := [Src.v a, .s b]
    readOps s word rs .none false (fun vs =>
      let v := vecAt vs 0
      let r := (wordAt vs 1).toNat
      let t := accOf s d
      if v.fmt != 0x00 && v.fmt != 0x20 then fmtTrap s a.toNat
      else if 64 ≤ r then fmtTrap s b.toNat
      else
        let kind : TileKind := if v.fmt == 0x00 then .fp else .int
        if t.kind != .zero && t.kind != kind then fmtTrap s a.toNat
        else needV s [(a, v, [0, 1])] (
          let t1 := t.setRow r (packEls 32 ((List.range 64).map (v.el 32)))
          .next (vdone (setAcc s d { t1 with kind := kind, poison := t.poison &&& ~~~(1#64 <<< r) }) rs)))))

/-- The ETs of a drain (R217). -/
def isDrainFmt (f : Nat) : Bool := isFA f || isIA f || (0x04 ≤ f && f ≤ 0x08)

/-- enc of one drained element (R217): the accumulator is read with its subnormals (R92). -/
def drainElem (kind : TileKind) (et : Nat) (rm : RM) (sat fz : Bool) (x : Nat) : FRes :=
  match kind with
  | .int => convElem 0x20 et rm sat fz x .none
  | _ =>
    let v := decodeF ffFP32 x
    let sg : Flags := if v.isSig then .nv else 0
    let r : FRes := match floatFmt et with
      | some F => encConvF F rm (satOf et sat) (fz && fzFormat et) v
      | none => convElem 0x00 et rm sat false x .none
    (r.1, r.2 ||| sg)

/-- The elements of one row that go out together: bytes of two 4-bit elements, else single elements. -/
def drainUnits (w r vl vstart : Nat) : List (List Nat) :=
  let js := (List.range vl).filter (fun j => vstart ≤ 64 * r + j)
  if w < 8 then byteGroups w js else js.map (fun j => [j])

/-- One unit of a drain, with its flags. -/
def drainUnit (s : State) (t : Tile) (w r : Nat) (row : Word) (js : List Nat) : SUnit × Flags :=
  let rs := js.map (fun j => (j, drainElem t.kind (etOf s) (rmOn s) (satOn s) (fzOn s) (t.el r j)))
  let fl := rs.foldl (fun f x => f ||| x.2.2) 0
  let j0 := js.headD 0
  let va := row + BitVec.ofNat 64 (j0 * w / 8)
  if 8 ≤ w then
    ({ el := 64 * r + j0, va := va, data := leBytes (w / 8) (rs.headD (0, 0, 0)).2.1, mask := List.replicate (w / 8) 0xFF,
       src := none, cnt := 1 }, fl)
  else
    let b := rs.foldl (fun n x => n + x.2.1 * 2 ^ (x.1 * w % 8)) 0
    let k := rs.foldl (fun n x => n + (2 ^ w - 1) * 2 ^ (x.1 * w % 8)) 0
    ({ el := 64 * r + j0, va := va, data := [BitVec.ofNat 8 b], mask := [BitVec.ofNat 8 k], src := none, cnt := js.length }, fl)

/-- Where a drain stops: a trap has the element index in TVAL (R218), but that VAN has the address of the access (R376).
DESIGN CHOICE, log entry 69: TVAL of a VAN trap holds the address, as R376 says of drains by name, where R218 says the index of a fault's
TVAL. -/
def drainStop (x : Nat × Word × MStop) : Nat × Word × MStop := match x.2.2 with
  | .cause c => if c = Cause.van then x else (x.1, BitVec.ofNat 64 x.1, .cause c)
  | .newer c => (x.1, BitVec.ofNat 64 x.1, .cause c)
  | _ => x

/-- drain (R217, R218): rows as (row, address), ascending. -/
def drain (s : State) (rs : List Src) (d : AccReg) (rows : List (Nat × Word)) : Out :=
  let w := wOf s
  let t := accOf s d
  let lo := vstartOf s
  let rows := rows.filter (fun r => lo < 64 * (r.1 + 1))
  needM s [guardReg s] (needRows s d t (rows.map (·.1)) (
    let us : List (SUnit × Flags) := rows.flatMap (fun r => ((drainUnits w r.1 (vlOf s) lo).filter (fun js => guardBit s w (js.headD 0))).map
      (drainUnit s t w r.1 r.2))
    let r := storeElems false (us.map (·.1)) { s := s, loc := [], rem := [], stop := none }
    let upto : Nat := match r.stop with | some (i, _, _) => i | none => 4096
    let fl := us.foldl (fun (f : Flags) (u : SUnit × Flags) => if u.1.el < upto then f ||| u.2 else f) 0
    let s1 := match r.stop with | some (_, va, .newer _) => refuse r.s (ctxOf r.s r.s.cpu) va | _ => r.s
    -- every datum is at hand: no register is read when the train is supplied
    storeFinish s rs 0 VVal.zero true .store { r with s := accrue s1 (matFlags fl), stop := r.stop.map drainStop }))

/-- The format checks of a drain after the tag check (R217). -/
def drainGate (s : State) (d : AccReg) (k : Out) : Out :=
  if 64 < vlOf s || (wOf s < 8 && vlOf s % 2 != 0) then fmtTrap s d.toNat else k

/-- R216, R217. -/
def execMaccSt (d : AccReg) (a b : SReg) (s : State) : Out :=
  let word := encodeNat (.maccSt d a b)
  taskOnly s word (needAcc s word d (
    let rs := [Src.s a, .s b]
    readOps s word rs .none false (fun vs =>
      let desc := wordAt vs 1
      if !isDrainFmt (etOf s) then fmtTrap s 0x3F
      else drainGate s d (
        if bitsOf desc 63 56 != 0 || bitsOf desc 7 7 != 0 || 64 < bitsOf desc 6 0 then fmtTrap s b.toNat
        else
          let stride := BitVec.ofInt 64 (intVal 48 true (bitsOf desc 55 8))
          drain s rs d ((List.range (bitsOf desc 6 0)).map (fun r => (r, wordAt vs 0 + BitVec.ofNat 64 r * stride)))))))

/-- R219.
DESIGN CHOICE, log entry 69: a VL above 128 breaks both the limit of 64 of R217 and, in the 64-bit vB, that of R138; TVAL names d, as the
elements of vB are read whatever VL says. -/
def execMaccStX (d : AccReg) (a : SReg) (b : VReg) (s : State) : Out :=
  let word := encodeNat (.maccStX d a b)
  taskOnly s word (needAcc s word d (
    let rs := [Src.s a, .v b]
    readOps s word rs .none false (fun vs =>
      let v := vecAt vs 1
      if !isDrainFmt (etOf s) then fmtTrap s 0x3F
      else if v.fmt != 0x22 && v.fmt != 0x23 then fmtTrap s b.toNat
      else drainGate s d (needV s [(b, v, [0, 1, 2, 3])] (
        let offs := ((List.range 64).map (fun r => (r, v.el 64 r))).filter (fun x => x.2 != 2 ^ 64 - 1)
        drain s rs d (offs.map (fun x => (x.1, wordAt vs 0 + BitVec.ofNat 64 x.2))))))))

/-- R204: never traps on the values it checks. -/
def execMtd (d : PairReg) (a b : SReg) (s : State) : Out :=
  let word := encodeNat (.mtd d a b)
  taskOnly s word (needPairs s word [d.toNat] (readS s word [a, b] none (fun vs =>
    let p : TilePair := { w1 := opd vs 0, w2 := opd vs 1 }
    let c := tileCheck p .build p.cols (spadOf s).2 p.fmt
    let x := if c == 0 then p.w1 else 0
    let y := if c == 0 then p.w2 else BitVec.ofNat 64 (2 ^ 63 + c)
    .next (complete (setSreg (setSreg (popPorts s [a, b]) (PairReg.lo d) x) (PairReg.hi d) y)))))

end Sys2Proof.Machine
end

