-- ==== Sys2Proof/Machine/Sparse.lean ====
section
/-! DEFINITION. Sparse vector registers (R222 to R231) and merge contexts (R233 to R243). -/

namespace Sys2Proof.Machine

/-! ## Sparse registers -/

def svreg (s : State) (r : SvReg) : SvVal := s.cpu.regs.sv[r.toNat]'(r.isLt)

/-- Writes a sparse register whole, which clears its poison (R435). -/
def setSv (s : State) (r : SvReg) (v : SvVal) : State :=
  s.withRegs (fun f => { f with sv := f.sv.set r.toNat v r.isLt, svPoison := f.svPoison &&& ~~~(0xFFFF#128 <<< (16 * r.toNat)) })

/-- How many element groups a value occupies, 16 pairs each; its status lies with the first. -/
def svGroups (v : SvVal) : Nat := Nat.max 1 ((v.pairs.length + 15) / 16)

/-- The lowest poisoned group of a register among those it occupies. -/
def svPoisoned (s : State) (r : SvReg) : Option Nat :=
  (List.range (svGroups (svreg s r))).find? (fun g => s.cpu.regs.svPoison.getLsbD (16 * r.toNat + g))

/-- A poisoned sparse register raises ECC at the group (R435). DESIGN CHOICE, log entry 65: a group holds 16 pairs. -/
def needSv (s : State) (rs : List SvReg) (k : Out) : Out :=
  match (if s.cpu.regs.svPoison = 0 then none else rs.findSome? (fun r => (svPoisoned s r).map (fun g => (r, g)))) with
  | some (r, g) => trap s Cause.ecc (eccReg 3 r.toNat g)
  | none => k

/-- The value-format tags (R222). -/
def isSvFmt (f : Nat) : Bool := f == 0x00 || f == 0x02 || f == 0x20

/-- The status word (Table 9.1). -/
def svStatus (v : SvVal) : Word :=
  BitVec.ofNat 64 (v.pairs.length + (if v.ov then 2 ^ 15 else 0) + v.tag.toNat * 2 ^ 16 + v.stop.toNat * 2 ^ 32)

/-- A value as its slot holds it: a BF16's high half is zero (R222). -/
def svSlot (tag : Nat) (x : Nat) : BitVec 32 := BitVec.ofNat 32 (if tag == 0x02 then x % 2 ^ 16 else x)

/-- The result of pairs and truncated sources (R223). -/
def svResult (tag : Nat) (pairs : List (BitVec 32 × BitVec 32)) (stops : List Nat) : SvVal :=
  let own := match pairs.drop 256 with | p :: _ => [p.1.toNat] | [] => []
  match own ++ stops with
  | [] => { pairs := pairs, tag := BitVec.ofNat 6 tag, ov := false, stop := 0 }
  | x :: xs => { pairs := pairs.take 256, tag := BitVec.ofNat 6 tag, ov := true, stop := BitVec.ofNat 32 (xs.foldl Nat.min x) }

/-- The STOP of a truncated source. -/
def svStops (v : SvVal) : List Nat := if v.ov then [v.stop.toNat] else []

/-! ## svld and svst (R226) -/

/-- A header that is no image's (R226): SL above 256, a reserved bit, another FMT. -/
def svBadHeader (h : Word) : Bool :=
  decide (256 < bitsOf h 8 0) || bitsOf h 14 9 != 0 || bitsOf h 31 22 != 0 || !isSvFmt (bitsOf h 21 16)

/-- The checks of the words of an image in ascending order: their locations. -/
def svWords (va : Word) : List Nat → State → Except (Word × MStop) (List Loc × State)
  | [], s => .ok ([], s)
  | i :: is, s =>
    let a := va + BitVec.ofNat 64 (8 + 4 * i)
    match checkAccess s a 4 true false with
    | .error e => .error (a, e)
    | .ok k => match svWords va is k.s with
      | .error e => .error e
      | .ok (ls, s) => .ok (k.loc :: ls, s)

/-- The lowest index whose coordinate does not ascend. -/
def svDescends (cs : List Nat) : Option Nat :=
  (List.range cs.length).find? (fun i => 0 < i && cs.getD i 0 ≤ cs.getD (i - 1) 0)

/-- The image has arrived: poison raises ECC at the lowest word it lies in (R435); the ascending test, and the register. -/
def svldDone (s : State) (d : SvReg) (a : SReg) (x : SvLoad) : Out :=
  let n := bitsOf x.hdr 8 0
  let tag := bitsOf x.hdr 21 16
  let w (i : Nat) : Nat := getEl 16384 x.bits 32 i
  let cs := (List.range n).map w
  let s := s.withMem (fun m => { m with sv := none })
  match x.bad, svDescends cs with
  | some k, _ => trap s Cause.ecc (x.va + BitVec.ofNat 64 (8 + 4 * k))
  | none, some i => fmtTrap s (0x10000 + i)
  | none, none =>
    let v : SvVal := { pairs := cs.mapIdx (fun i c => (BitVec.ofNat 32 c, svSlot tag (w (n + i)))), tag := BitVec.ofNat 6 tag,
                       ov := x.hdr.getLsbD 15, stop := BitVec.ofNat 32 (bitsOf x.hdr 63 32) }
    .next (vdone (setSv s d v) [.s a])

/-- R226: the header is read, after the older reads of its bytes (R277), and tested; every word is checked, and the reads follow (R282). -/
def execSvld (d : SvReg) (a : SReg) (s : State) : Out :=
  let word := encodeNat (.svld d a)
  taskOnly s word (readS s word [a] none (fun vs =>
    let va := opd vs 0
    let begin' : Out :=
      match checkAccess s va 8 true false with
      | .error e => stopAt s va e
      | .ok k =>
        if olderRead k.s k.s.cpu [] 0 (probeRead k.loc 8 k.s.dev.nextUid) then .next (s.waitFor .operands)
        else if poisonedVec k.s k.s.cpu k.s.dev.nextUid k.loc 8 then trap s Cause.ecc va
        else
          let (ord, s1) := k.s.fresh
          let h := BitVec.ofNat 64 (leNat (vectorBytes s1 s1.cpu ord k.loc 8))
          if svBadHeader h then fmtTrap s 0x3B
          else match svWords va (List.range (2 * bitsOf h 8 0)) s1 with
            | .error (a, e) => stopAt s a e
            | .ok (ls, s2) =>
              let x : SvLoad := { va := va, hdr := h, bits := 0, bad := none,
                                  pend := ls.mapIdx (fun i l => freshRead .bits (32 * i) 32 l 0 ord) }
              if x.pend.isEmpty then svldDone s2 d a x
              else .next ((s2.withMem (fun m => { m with sv := some x })).waitFor (.svld d a))
    match s.cpu.wait, s.cpu.mem.sv with
    | some (.svld _ _), some x => if x.pend.isEmpty then svldDone s d a x else .next s
    | _, _ => begin'))

/-- The units of an image that `svst` stores, ascending. -/
def svUnits (va : Word) (v : SvVal) : List SUnit :=
  let n := v.pairs.length
  let word (i : Nat) (x : Nat) : SUnit :=
    { el := 0, va := va + BitVec.ofNat 64 (8 + 4 * i), data := leBytes 4 x, mask := List.replicate 4 0xFF, src := none, cnt := 1 }
  { el := 0, va := va, data := leBytes 8 (svStatus v).toNat, mask := List.replicate 8 0xFF, src := none, cnt := 1 } ::
    (v.pairs.mapIdx (fun i p => word i p.1.toNat) ++
     v.pairs.mapIdx (fun i p => word (n + i) (svSlot v.tag.toNat p.2.toNat).toNat))

/-- Starts an ordered train of an instruction that does not restart (R281). -/
def newTrain (s : State) (xs : List (Loc × List Byte × List Byte × Option ESrc)) : State × Nat :=
  let (id, s) := (readAnewUnits s (xs.map (fun x => (x.1, x.2.1.length)))).fresh
  let es := xs.mapIdx (fun n x => ({ n := n, loc := x.1, data := x.2.1, mask := x.2.2.1, supplied := false, op := .store, src := none, bad := false } : TElem))
  (if xs.isEmpty then s
   else s.withMem (fun m => { m with trains := m.trains ++ [{ id := id, ordered := true, prior := none, elems := es }] }), id)

/-- R226: a train in ascending address order; it completes once the train has entered. -/
def execSvst (d : SvReg) (a : SReg) (s : State) : Out :=
  let word := encodeNat (.svst d a)
  taskOnly s word (readS s word [a] none (fun vs =>
    let begin' : Out := needSv s [d] (
      let r := storeElems false (svUnits (opd vs 0) (svreg s d)) { s := s, loc := [], rem := [], stop := none }
      if needsRoom r.s r.rem then .next (s.waitFor .trains)
      else
        let (s1, id) := newTrain (addRemote r.s true none r.rem) r.loc
        match r.stop with
        | some (_, va, e) => stopAt (closeTrains s1) va e
        | none => .next ((closeTrains s1).waitFor (.svst d a id)))
    match s.cpu.wait with
    | some (.svst _ _ id) =>
      if s.cpu.mem.trains.any (fun t => t.id == id) then .next s else .next (vdone s [.s a])
    | _ => begin'))

/-! ## Arithmetic (R227, R228) -/

/-- ADD and MUL of one element in format t, as `vadd` and `vmul` compute it. -/
def svOp (s : State) (mul : Bool) (t : Nat) (x y : Nat) : FRes := elemOp (if mul then 3 else 1) t (rmOn s) (fzOn s) (satOn s) x y 0

/-- combine (R227): both lists ascend. `n` bounds the walk. -/
def svMerge (op : Nat → Nat → FRes) (union : Bool) : Nat → List (BitVec 32 × BitVec 32) → List (BitVec 32 × BitVec 32) →
    List (BitVec 32 × Nat) × Flags
  | 0, _, _ => ([], 0)
  | _ + 1, [], bs => (if union then bs.map (fun p => (p.1, p.2.toNat)) else [], 0)
  | _ + 1, as, [] => (if union then as.map (fun p => (p.1, p.2.toNat)) else [], 0)
  | n + 1, a :: as, b :: bs =>
    if a.1 == b.1 then
      let r := op a.2.toNat b.2.toNat
      let t := svMerge op union n as bs
      ((a.1, r.1) :: t.1, r.2 ||| t.2)
    else if a.1.toNat < b.1.toNat then
      let t := svMerge op union n as (b :: bs)
      (if union then (a.1, a.2.toNat) :: t.1 else t.1, t.2)
    else
      let t := svMerge op union n (a :: as) bs
      (if union then (b.1, b.2.toNat) :: t.1 else t.1, t.2)

/-- R227. It is a whole instruction, as chapter 9 says of all eight: VSTART is 0 after it (R141). -/
def svCombine (s : State) (word : Nat) (union : Bool) (d a b : SvReg) : Out :=
  taskOnly s word (needSv s [a, b] (
    let x := svreg s a
    let y := svreg s b
    if x.tag != y.tag then fmtTrap s b.toNat
    else
      let t := x.tag.toNat
      let r := svMerge (svOp s (!union) t) union (x.pairs.length + y.pairs.length + 1) x.pairs y.pairs
      .next (vdone (setSv (accrue s r.2) d (svResult t (r.1.map (fun p => (p.1, svSlot t p.2))) (svStops x ++ svStops y))) [])))

/-- R227, union. -/
def execSvadd (d a b : SvReg) (s : State) : Out := svCombine s (encodeNat (.svadd d a b)) true d a b

/-- R227, intersection. -/
def execSvmul (d a b : SvReg) (s : State) : Out := svCombine s (encodeNat (.svmul d a b)) false d a b

/-- R228. DEDUCED, log entry 66: OV and STOP stay as they are, a STOP that stands without OV included, where R223 has the result of
an operation that truncates nothing write STOP := 0. -/
def execSvscale (d a : SvReg) (b : SReg) (s : State) : Out :=
  let word := encodeNat (.svscale d a b)
  taskOnly s word (readS s word [b] none (fun vs => needSv s [a] (
    let x := svreg s a
    let t := x.tag.toNat
    let y := (opd vs 0).toNat % 2 ^ fmtWidth t
    let rs := x.pairs.map (fun p => (p.1, svOp s true t p.2.toNat y))
    let fl := rs.foldl (fun f r => f ||| r.2.2) 0
    .next (vdone (setSv (accrue s fl) d { x with pairs := rs.map (fun r => (r.1, svSlot t r.2.1)) }) [.s b]))))

/-! ## Between dense and sparse (R229 to R231) -/

/-- Whether an element's bits are nonzero in the sense of R229. -/
def svNonzero (f x : Nat) : Bool := if f == 0x20 then x != 0 else x % 2 ^ (fmtWidth f - 1) != 0

/-- R229. -/
def execSvcomp (d : SvReg) (a : VReg) (s : State) : Out :=
  whole s (encodeNat (.svcomp d a)) [.v a] .none (fun vs =>
    let v := vecAt vs 0
    let et := etOf s
    let w := wOf s
    fmtGate s (isSvFmt et) [(a.toNat, v.fmt, et)] [(a.toNat, w)] (
      needV s [(a, v, groupsOf w 0 (vlOf s))] (needM s [guardReg s] (
        if vlOf s == 0 then .next (vdone s [.v a])
        else
          let xs := (activeFrom s w 0 (vlOf s)).filter (fun i => svNonzero et (v.el w i))
          .next (vdone (setSv s d (svResult et (xs.map (fun i => (BitVec.ofNat 32 i, svSlot et (v.el w i)))) [])) [.v a])))))

/-- R230. -/
def execSvexp (d : VReg) (a : SvReg) (s : State) : Out :=
  whole s (encodeNat (.svexp d a)) [] (.v d) (fun _ =>
    let x := svreg s a
    let et := etOf s
    let w := wOf s
    if et != x.tag.toNat then fmtTrap s 0x3F
    else fmtGate s true [] [(d.toNat, w)] (needSv s [a] (needM s [guardReg s] (
      let val (i : Nat) : Nat := match x.pairs.find? (fun p => p.1.toNat == i) with | some p => p.2.toNat % 2 ^ w | none => 0
      writeVl s [] d w et ((activeFrom s w 0 (vlOf s)).map (fun i => (i, val i, pPresent))) noSide 0))))

/-- R231. -/
def execSvlen (d : SReg) (a : SvReg) (s : State) : Out :=
  let word := encodeNat (.svlen d a)
  taskOnly s word (readS s word [] (some d) (fun _ => needSv s [a] (writeSv s [] d (svStatus (svreg s a)))))

/-! ## Merge contexts (R233 to R243) -/

/-! Status codes (Table 9.5). -/

namespace Mst
def ok : Nat := 0
def spillFull : Nat := 1
def badRow : Nat := 2
def seqFull : Nat := 3
def state : Nat := 4
def mge : Nat := 5
def badCtx : Nat := 6
def busy : Nat := 7
end Mst

/-- Changes the bound context. -/
def modMerge (s : State) (f : MergeCtx → MergeCtx) : State := s.withExt (fun x => { x with merge := x.merge.map f })

/-- A nonzero status is recorded in the bound context's STAT (R234). -/
def noteStat (s : State) (c : Nat) : State := if c == 0 then s else modMerge s (fun m => { m with stat := c })

/-- Reports a status in d. -/
def mergeStat (s : State) (rs : List SReg) (d : SReg) (c : Nat) : Out := retire (noteStat s c) rs d (BitVec.ofNat 64 c)

/-- The bound context; without one FMT with TVAL 0x3D (R235). -/
def needCtx (s : State) (k : MergeCtx → Out) : Out :=
  match s.cpu.ext.merge with
  | some m => k m
  | none => fmtTrap s 0x3D

/-- Reads dwords at addresses from va as scalar loads (R239): an earlier access of the strand may hold them (Table 13.3). -/
def readDwords (s : State) (va : Word) : List Nat → Except (Word × MStop) (List Word × State)
  | [] => .ok ([], s)
  | i :: is =>
    let a := va + BitVec.ofNat 64 (8 * i)
    match checkAccess s a 8 true false with
    | .error e => .error (a, e)
    | .ok k =>
      if k.s.cpu.mem.heldRead k.s.dev.nextUid k.loc 8 then .error (a, .held)
      else if poisonedRead k.s k.s.cpu k.s.dev.nextUid k.loc 8 then .error (a, .cause Cause.ecc)
      else
        let w := BitVec.ofNat 64 (leNat (scalarBytes k.s k.s.cpu k.loc 8))
        match readDwords (readAnewAt k.s false k.loc 8) va is with
        | .error e => .error e
        | .ok (ws, s) => .ok (w :: ws, s)

/-- Whether SPB or SPL breaks Table 9.4. -/
def badSpill (spb spl : Word) : Bool := spb.toNat % 64 != 0 || spl.toNat % 64 != 0

/-- The context of a record's 32 dwords; none where a field breaks Table 9.4. -/
def ctxOfRecord (addr : Word) (octet : Nat) (ws : List Word) : Option MergeCtx :=
  let w (i : Nat) : Word := ws.getD i 0
  let bad := bitsOf (w 0) 63 35 != 0 || bitsOf (w 0) 33 32 == 3 || decide (bitsOf (w 0) 31 0 < 8) ||
    decide (65536 < bitsOf (w 0) 31 0) || badSpill (w 1) (w 2) || (w 3).toNat % 4 != 0 || (w 4).toNat % 4 != 0 ||
    (w 5).toNat % 4 != 0 || bitsOf (w 6) 63 32 != 0 || bitsOf (w 6) 31 0 == 0 || bitsOf (w 8) 63 42 != 0 ||
    (ws.drop 10).any (fun x => x != 0)
  if bad then none
  else some { addr := addr, octet := octet, cap := bitsOf (w 0) 31 0, cmb := bitsOf (w 0) 33 32, out := (w 0).getLsbD 34,
              spb := (w 1).toNat, spl := (w 2).toNat, rowp := (w 3).toNat, cola := (w 4).toNat, vala := (w 5).toNat,
              nrows := bitsOf (w 6) 31 0, stat := 0, state := .opened, npush := 0, nnz := 0, p := 0, lastRow := 0, from0 := 0,
              spillPtr := (w 1).toNat, seqs := List.replicate 16 0, buf := [], runs := [] }

/-- The strands that wait for an octet's network, in order (R239). -/
def netWaiters (s : State) (o : Nat) : List StrandId :=
  (mergeNet s o).waiters.filter (fun t => match s.strand? t with
    | some x => (match x.wait with | some (.mgopen _ _ _) => true | _ => false)
    | none => false)

/-- The last step of R239: the network is bound, or the strand waits for it. -/
def mgopenBind (s : State) (d a : SReg) (m : MergeCtx) : Out :=
  let o := m.octet
  let q := netWaiters s o
  if (mergeNet s o).bound.isNone && (q.isEmpty || q.head? == some s.cpu.id) then
    let s1 := setNet s o { bound := some s.cpu.id, waiters := q.filter (fun t => t != s.cpu.id) }
    retire (openArea (s1.withExt (fun x => { x with merge := some m })) s.cpu m.spb m.spl) [a] d 0
  else
    let q1 := if q.contains s.cpu.id then q else q ++ [s.cpu.id]
    .next ((setNet s o { mergeNet s o with waiters := q1 }).waitFor (.mgopen d a m))

/-- R239: the record is read and checked before the wait. -/
def execMgopen (d a : SReg) (s : State) : Out :=
  let word := Late.word (.mgopen d a)
  taskOnly s word (readS s word [a] (some d) (fun vs =>
    let va := opd vs 0
    match s.cpu.wait with
    | some (.mgopen _ _ m) => mgopenBind s d a m
    | _ =>
      if s.cpu.ext.merge.isSome then mergeStat s [a] d Mst.busy
      else if va.toNat % 256 != 0 then trap s Cause.aln va
      else match readDwords s va (List.range 32) with
        | .error (x, e) => stopAt s x e
        | .ok (ws, s1) => match ctxOfRecord va (octetOf s.cpu.cluster) ws with
          | none => retire s1 [a] d (BitVec.ofNat 64 Mst.badCtx)
          | some m => mgopenBind s1 d a m))

/-- R239: only SPB and SPL are read again. -/
def execMgopenCont (d a : SReg) (s : State) : Out :=
  let word := Late.word (.mgopenCont d a)
  taskOnly s word (readS s word [a] (some d) (fun vs => needCtx s (fun m =>
    if m.state == .failed then mergeStat s [a] d Mst.mge
    else if m.state != .opened || opd vs 0 != m.addr then mergeStat s [a] d Mst.state
    else match readDwords s m.addr [1, 2] with
      | .error (x, e) => stopAt s x e
      | .ok (ws, s1) =>
        if badSpill (ws.getD 0 0) (ws.getD 1 0) then mergeStat s1 [a] d Mst.badCtx
        else retire (openArea (modMerge s1 (fun m => { m with spb := (ws.getD 0 0).toNat, spl := (ws.getD 1 0).toNat,
                                                              spillPtr := (ws.getD 0 0).toNat }))
                       s1.cpu (ws.getD 0 0).toNat (ws.getD 1 0).toNat) [a] d 0)))

/-- The order of entries: key, stream, sequence (R238, R240). -/
def MEntry.le (x y : MEntry) : Bool :=
  if x.row != y.row then decide (x.row < y.row)
  else if x.coord != y.coord then decide (x.coord < y.coord)
  else if x.strm != y.strm then decide (x.strm < y.strm)
  else decide (x.seq ≤ y.seq)

/-- Insertion into a sorted list. -/
def insertEnt (x : MEntry) : List MEntry → List MEntry
  | [] => [x]
  | y :: ys => if x.le y then x :: y :: ys else y :: insertEnt x ys

def sortEnts (xs : List MEntry) : List MEntry := xs.foldr insertEnt []

/-- One addition of the network (R102). -/
def mergeAdd (cmb : Nat) (x y : BitVec 32) : BitVec 32 :=
  if cmb == 1 then x + y else BitVec.ofNat 32 (addF ffFP32 0 false (decodeF ffFP32 x.toNat) (decodeF ffFP32 y.toNat)).1

/-- A pair's value as the network takes it: a BF16 becomes FP32 (R236). -/
def mergeVal (cmb : Nat) (v : BitVec 32) : BitVec 32 := if cmb == 2 then v <<< 16 else v

/-- Accepts one pair (R236); none where the spill it needs does not fit (R238). -/
def acceptPair (m : MergeCtx) (row strm : Nat) (p : BitVec 32 × BitVec 32) : Option MergeCtx :=
  let q := m.seqs.getD strm 0
  let v := mergeVal m.cmb p.2
  let same (e : MEntry) : Bool := e.row == row && e.coord == p.1.toNat && e.strm == strm
  let m1 := { m with seqs := m.seqs.set strm (q + 1), npush := m.npush + 1 }
  let ent : MEntry := { row := row, coord := p.1.toNat, strm := strm, seq := q, val := v }
  if m.buf.any same then
    some { m1 with buf := replaceFirst same (fun e => { e with val := mergeAdd m.cmb e.val v }) m.buf }
  else if m.buf.length < m.cap then some { m1 with buf := m.buf ++ [ent] }
  else
    let n := runSize m.buf.length
    if m.spb + m.spl < m.spillPtr + n || 64 ≤ m.runs.length then none
    else some { m1 with runs := m.runs ++ [{ addr := m.spillPtr, ents := sortEnts m.buf }],
                        spillPtr := m.spillPtr + n, buf := [ent] }

/-- A batch, whole or not at all (R237). -/
def acceptAll (row strm : Nat) : List (BitVec 32 × BitVec 32) → MergeCtx → Option MergeCtx
  | [], m => some m
  | p :: ps, m => match acceptPair m row strm p with
    | some m => acceptAll row strm ps m
    | none => none

/-- The checks of a run's words, with their locations (R132, R238). A remote window takes none of them (Table 15.3). -/
def spillLocs : List Word → State → Except (Word × MStop) (List Loc × State)
  | [], s => .ok ([], s)
  | a :: as, s =>
    match checkAccess s a 8 false true with
    | .error e => .error (a, e)
    | .ok k =>
      match k.loc with
      | .remote _ _ _ => .error (a, .cause Cause.prm)
      | l => match spillLocs as k.s with
        | .error e => .error e
        | .ok (ls, s) => .ok (l :: ls, s)

/-- The addresses of the words that a run writes. -/
def runWords (r : MRun) : List Word := (List.range (8 + 2 * r.ents.length)).map (fun i => BitVec.ofNat 64 (r.addr + 8 * i))

/-- Writes the new runs, the first of them number k. -/
def writeRuns : Nat → List (MRun × List Loc) → State → State
  | _, [], s => s
  | k, (r, ls) :: rest, s =>
    let word (i : Nat) : List Byte := ((r.bytes k).drop (8 * i)).take 8
    writeRuns (k + 1) rest ((ls.mapIdx (fun i l => (i, l))).foldl (fun s x => spillWrite s s.cpu x.2 (word x.1)) s)

/-- The spills of a push. The area belongs to the network: what a reader is given of its bytes, written or not, is not defined until
the close (R238, R249). -/
def spillRuns (s : State) (k : Nat) (rs : List (MRun × List Loc)) : State := if rs.isEmpty then s else writeRuns k rs (extendArea s s.cpu)

/-- The checks of several runs. -/
def checkRuns : List MRun → State → Except (Word × MStop) (List (MRun × List Loc) × State)
  | [], s => .ok ([], s)
  | r :: rs, s =>
    match spillLocs (runWords r) s with
    | .error e => .error e
    | .ok (ls, s) => match checkRuns rs s with
      | .error e => .error e
      | .ok (xs, s) => .ok ((r, ls) :: xs, s)

/-- The tag a combine takes (R237). -/
def cmbTag (cmb : Nat) : Nat := match cmb with | 0 => 0x00 | 1 => 0x20 | _ => 0x02

/-- R237. DESIGN CHOICE, log entry 18: the tag is checked before the status tests of the table. -/
def execMgpush (d : SReg) (a : SvReg) (b : SReg) (st : BitVec 4) (s : State) : Out :=
  let word := Late.word (.mgpush d a b st)
  taskOnly s word (readS s word [b] (some d) (fun vs => needCtx s (fun m => needSv s [a] (
    let v := svreg s a
    let row := (opd vs 0).toNat
    if v.tag.toNat != cmbTag m.cmb then fmtTrap s a.toNat
    else if m.state != .opened then mergeStat s [b] d (if m.state == .failed then Mst.mge else Mst.state)
    else if m.nrows ≤ row then mergeStat s [b] d Mst.badRow
    else if 2 ^ 28 < m.seqs.getD st.toNat 0 + v.pairs.length then mergeStat s [b] d Mst.seqFull
    else match acceptAll row st.toNat v.pairs m with
      | none => mergeStat s [b] d Mst.spillFull
      | some m1 =>
        match checkRuns (m1.runs.drop m.runs.length) s with
        | .error (x, e) => stopAt s x e
        | .ok (rs, s1) =>
          retire (modMerge (spillRuns s1 m.runs.length rs) (fun _ => m1)) [b] d 0))))

/-- R240. -/
def execMgflush (d : SReg) (s : State) : Out :=
  let word := Late.word (.mgflush d)
  taskOnly s word (readS s word [] (some d) (fun _ => needCtx s (fun m =>
    match m.state with
    | .opened => retire (modMerge s (fun m => { m with state := .flushed })) [] d 0
    | .failed => mergeStat s [] d Mst.mge
    | .flushed => mergeStat s [] d Mst.state)))

/-- Sums the entries of equal keys of a sorted list (R240).
DESIGN CHOICE, log entry 56: of a key that was spilled and came again within one stream, the partial sums of its entries are added. -/
def foldKeys (cmb : Nat) : List MEntry → List (Nat × Nat × BitVec 32) → List (Nat × Nat × BitVec 32)
  | [], acc => acc.reverse
  | e :: es, (r, c, v) :: acc =>
    if r == e.row && c == e.coord then foldKeys cmb es ((r, c, mergeAdd cmb v e.val) :: acc)
    else foldKeys cmb es ((e.row, e.coord, e.val) :: (r, c, v) :: acc)
  | e :: es, [] => foldKeys cmb es [(e.row, e.coord, e.val)]

/-- The merge: (row, coordinate, value) in ascending key order. -/
def mergedKeys (m : MergeCtx) : List (Nat × Nat × BitVec 32) :=
  foldKeys m.cmb (sortEnts (m.runs.flatMap (·.ents) ++ m.buf)) []

/-- Whether the spill areas are what the network left there: a program that writes or unmaps any part of one makes the output
undefined (R238). -/
def runsIntact (s : State) : Bool := s.spills.all (fun p => p.owner != s.cpu.id || p.intact s s.cpu)

/-- The keys of a row, with their sums; free where the output is undefined (log entry 1). -/
def rowKeys (s : State) (m : MergeCtx) (intact : Bool) (keys : List (Nat × Nat × BitVec 32)) (r : Nat) : List (Nat × BitVec 32) :=
  if intact then (keys.filter (fun k => k.1 == r)).map (·.2)
  else (Config.freeRow (s.dev.free + m.npush) r).map (fun x => (x.1.toNat, x.2))

/-- One 4-byte store of `mgpull`; `el` holds the row. -/
def pullUnit (r : Nat) (va x : Nat) : SUnit :=
  { el := r, va := BitVec.ofNat 64 va, data := leBytes 4 x, mask := List.replicate 4 0xFF, src := none, cnt := 1 }

/-- The stores of the rows from p (R241), with NNZ before each row and after the last. -/
def pullRows (m : MergeCtx) (keysOf : Nat → List (Nat × BitVec 32)) : List Nat → Nat → List SUnit × List (Nat × Nat) × Nat
  | [], n => ([], [], n)
  | r :: rs, n =>
    let ks := keysOf r
    let here := pullUnit r (m.rowp + 4 * r) n ::
      (ks.mapIdx (fun i k => [pullUnit r (m.cola + 4 * (n + i)) k.1, pullUnit r (m.vala + 4 * (n + i)) k.2.toNat])).flatten
    let n1 := n + ks.length
    let last := if r + 1 == m.nrows then [pullUnit r (m.rowp + 4 * m.nrows) n1] else []
    let t := pullRows m keysOf rs n1
    (here ++ last ++ t.1, (r, n) :: t.2.1, t.2.2)

/-- The rows the pre-emption that arrives during this `mgpull` still lets complete, at least the current one (R241). -/
def pauseOf (s : State) : Option Nat := (s.pauses.find? (fun x => x.1 == s.cpu.id)).map (fun x => Nat.max 1 x.2)

/-- R241, CSR arrays. DEDUCED, log entry 18: in a remote window the array writes are a remote train, as those of any vector store (R319). -/
def execMgpull (d a : SReg) (s : State) : Out :=
  let word := Late.word (.mgpull d a)
  taskOnly s word (readS s word [a] (some d) (fun vs => needCtx s (fun m =>
    let fail (c : Nat) : Out := retire (noteStat s c) [a] d (BitVec.ofNat 64 (2 ^ 63 + c))
    let l := (opd vs 0).toNat
    if m.state == .failed then fail Mst.mge
    else if m.out || m.state != .flushed then fail Mst.state
    else if l < m.p || m.nrows < l then fail Mst.state
    else
      let upto := match pauseOf s with | some n => Nat.min l (m.p + n) | none => l
      let keys := mergedKeys m
      let intact := runsIntact s
      let rows := (List.range (upto - m.p)).map (fun i => m.p + i)
      let (us, starts, nnz) := pullRows m (rowKeys s m intact keys) rows m.nnz
      let r := storeElems false us { s := s, loc := [], rem := [], stop := none }
      if needsRoom r.s r.rem then .next (s.waitFor .trains)
      else
        let s1 := closeTrains (newTrain (addRemote r.s true none r.rem) r.loc).1
        let s2 := { s1 with pauses := s1.pauses.filter (fun x => x.1 != s.cpu.id) }
        match r.stop with
        | some (row, va, e) =>
          let n0 := ((starts.find? (fun x => x.1 == row)).map (·.2)).getD m.nnz
          stopAt (modMerge s2 (fun m => { m with p := row, nnz := n0 })) va e
        | none => retire (modMerge s2 (fun m => { m with p := upto, nnz := nnz })) [a] d (BitVec.ofNat 64 upto))))

/-- R241, one row into a sparse register. -/
def execMgpullSv (d : SvReg) (a : SReg) (s : State) : Out :=
  let word := Late.word (.mgpullSv d a)
  taskOnly s word (readS s word [a] none (fun vs => needCtx s (fun m =>
    let r := (opd vs 0).toNat
    if m.state == .failed then trap s Cause.ecc 0x3C
    else if !m.out || m.state != .flushed || m.nrows ≤ r || r < m.lastRow then fmtTrap s 0x3A
    else
      let from' := if r == m.p then m.from0 else 0
      let ks := if r < m.p then [] else
        (rowKeys s m (runsIntact s) (mergedKeys m) r).filter (fun k => from' ≤ k.1)
      let tag := if m.cmb == 1 then 0x20 else 0x00
      let v := svResult tag (ks.map (fun k => (BitVec.ofNat 32 k.1, k.2))) []
      let p1 := if r < m.p then m.p else if v.ov then r else r + 1
      .next (complete (popPorts (setSv (modMerge s (fun m =>
        { m with p := p1, from0 := if v.ov then v.stop.toNat else 0, lastRow := r, nnz := m.nnz + v.pairs.length })) d v) [a])))))

/-- The checks of the record's result words. -/
def closeLocs (m : MergeCtx) : List (Nat × Nat) → State → Except (Word × MStop) (List (Loc × Nat × Word) × State)
  | [], s => .ok ([], s)
  | (o, x) :: rs, s =>
    let a := m.addr + BitVec.ofNat 64 o
    match checkAccess s a 8 false true with
    | .error e => .error (a, e)
    | .ok k => match closeLocs m rs k.s with
      | .error e => .error e
      | .ok (ls, s) => .ok ((k.loc, x, a) :: ls, s)

/-- Whether the strand may not start n more remote trains yet (R320). -/
def noRoom (s : State) (n : Nat) : Bool := n != 0 && decide (64 < s.cpu.mem.unacked + n)

/-- The close of R242: the result words are scalar stores of the strand, and then the network is free. None where they would go
beyond the room for remote trains (R320). -/
def closeStores (s : State) (m : MergeCtx) : Except (Word × MStop) (Option State) :=
  match closeLocs m m.results s with
  | .error e => .error e
  | .ok (ls, s1) =>
    if noRoom s1 (ls.filter (fun l => match l.1 with | .remote _ _ _ => true | _ => false)).length then .ok none
    else
      let s2 := ls.foldl (fun s l => putStore s l.1 (leBytes 8 l.2.1) l.2.2) s1
      .ok (some (unbindMerge s2 s2.cpu m))

/-- R242. -/
def execMgclose (s : State) : Out :=
  let word := Late.word .mgclose
  taskOnly s word (needCtx s (fun m =>
    match closeStores s m with
    | .error (x, e) => stopAt s x e
    | .ok none => .next (s.waitFor .trains)
    | .ok (some s1) => .next (complete s1)))

/-- An item of R243. -/
def mgstat (s : State) (word : Nat) (d : SReg) (f : MergeCtx → Nat) : Out :=
  taskOnly s word (readS s word [] (some d) (fun _ => needCtx s (fun m => retire s [] d (BitVec.ofNat 64 (f m)))))

/-- R243, item 0. -/
def execMgstatRuns (d : SReg) (s : State) : Out := mgstat s (Late.word (.mgstatRuns d)) d (fun m => m.runs.length)

/-- R243, item 1. -/
def execMgstatEntries (d : SReg) (s : State) : Out := mgstat s (Late.word (.mgstatEntries d)) d (fun m => m.buf.length)

/-- R243, item 2. -/
def execMgstatStatus (d : SReg) (s : State) : Out :=
  mgstat s (Late.word (.mgstatStatus d)) d (fun m => m.stat + m.state.code * 2 ^ 8 + m.p % 2 ^ 32 * 2 ^ 32)

/-- R239: the first waiting strand of an octet's free network binds it. -/
def execMgopenGrant (o : Nat) (s : State) : Out :=
  match netWaiters s o with
  | [] => .next s
  | t :: _ =>
    if (mergeNet s o).bound.isSome then .next s
    else
      let s1 := s.focus t
      match s1.cpu.wait with
      | some (.mgopen d a _) => if s1.cpu.id = t then execMgopen d a s1 else .next s
      | _ => .next s

end Sys2Proof.Machine
end

