-- ==== Sys2Proof/Machine/Power.lean ====
section
/-! DEFINITION. Power, current and thermal control (R379 to R394): the effective settings of a cluster, the reasons that are
active, and the events of the power controller. -/

namespace Sys2Proof.Machine

/-! ## Settings (R382, R385) -/

/-- The more restrictive of two settings, control by control. -/
def tighter (a b : Settings) : Settings :=
  { vln := Nat.min a.vln b.vln, lsu := Nat.max a.lsu b.lsu, iss := Nat.max a.iss b.iss, frq := Nat.min a.frq b.frq }

/-- The settings of a TCTL image (Table 19.4). -/
def tctlSettings (v : Word) : Settings := { vln := bitsOf v 2 0, lsu := bitsOf v 6 4, iss := bitsOf v 11 8, frq := bitsOf v 17 12 }

/-- The budget controller's request after n steps (R387). -/
def budgetSettings (n : Nat) : Settings :=
  { iss := Nat.min 12 (2 * n), lsu := Nat.min 4 (n - 6), vln := 7 - Nat.min 7 (n - 10), frq := 40 - 4 * Nat.min 10 (n - 17) }

/-- The most steps the budget controller takes. -/
def budgetMax : Nat := 27

/-- The request of a trip (Table 19.2). -/
def tripSettings : Settings := { vln := 0, lsu := 4, iss := 12, frq := 0 }

/-- The safe grant (Table 19.2), and when it is in force (R389). -/
def safeSettings : Settings := { vln := 3, lsu := 0, iss := 0, frq := 16 }
def safeInForce (m : MCsr) : Bool := m.wdogExpired || m.upd

/-- Reasons in TRS order (Table 19.3). -/
def rsTHM : Nat := 0
def rsCUR : Nat := 1
def rsSLW : Nat := 2
def rsCAP : Nat := 3
def rsREL : Nat := 4

/-- The requests on a cluster, each with its reason (Table 19.2), but for the slew limiter's. -/
def requests (s : State) (c : Cluster) : List (Nat × Settings) :=
  [(bitsOf c.tctlOn 23 21, tctlSettings c.tctlOn)] ++
  (s.tenants.filter (fun t => t.en && inPartition t c.num)).map (fun t => (rsCAP, budgetSettings (s.tenX t.num).steps)) ++
  (if c.cur then [(rsCUR, tripSettings)] else []) ++ (if c.thm then [(rsTHM, tripSettings)] else []) ++
  (if safeInForce s.dev.m then [(rsREL, safeSettings)] else [])

/-- The least throttled settings that every request allows. -/
def allowed (s : State) (c : Cluster) : Settings := (requests s c).foldl (fun a r => tighter a r.2) .free

/-- The four controls as numbers that grow with throttling. -/
def controls (x : Settings) : List Nat := [7 - x.vln, x.lsu, x.iss, 40 - x.frq]

/-- Whether a reason is active (R385, R386). -/
def reasonActive (s : State) (c : Cluster) (r : Nat) : Bool :=
  if r == rsSLW then (List.zip (controls (allowed s c)) (controls c.eff)).any (fun x => x.1 < x.2)
  else (requests s c).any (fun q => q.1 == r && (List.zip (controls q.2) (controls c.eff)).any (fun x => x.1 != 0 && x.1 == x.2))

/-- The active reasons in TRS order. -/
def activeReasons (s : State) (c : Cluster) : Nat :=
  (List.range 5).foldl (fun n r => if reasonActive s c r then n + 2 ^ r else n) 0

/-- Whether what the power status word reports has changed on a cluster: then it is due for every tenant there (R394). -/
def markPsw (s : State) (c : Nat) : State :=
  { s with tenantsX := (s.tenants.filter (fun t => t.en && inPartition t c)).foldl (fun xs t =>
      let x := s.tenX t.num
      upsert (fun y => y.num == t.num) { x with pswDue := some (x.pswDue.getD (s.dev.time + 10000)) } xs) s.tenantsX }

/-- One number per control. -/
def mapSettings (f : Nat → Nat → Nat → Nat) (x y z : Settings) : Settings :=
  { vln := f x.vln y.vln z.vln, lsu := f x.lsu y.lsu z.lsu, iss := f x.iss y.iss z.iss, frq := f x.frq y.frq z.frq }

/-- The time each control has been held above what the requests allow; 0 for one that is not (R386). -/
def heldTimes (s : State) (c : Cluster) (more : Nat) : Settings := mapSettings (fun h e a => if e = a then 0 else h + more) c.held c.eff (allowed s c)

/-- Brings one cluster up to date: a stricter request takes effect at once (R386), and the active reasons stick in TRS
(R393). `old` is what the power status word reported of it. -/
def refreshOne (old : Nat × Nat) (s : State) (n : Nat) : State :=
  let c := s.cluster n
  let c0 := { c with eff := tighter c.eff (allowed s c) }
  let c1 := { c0 with held := heldTimes s c0 0 }
  let a := activeReasons s c1
  let s1 := s.setCluster { c1 with trs := c1.trs ||| BitVec.ofNat 5 a }
  if (a, c1.eff.vln) != old then markPsw s1 n else s1

/-- What the word reports of a cluster. -/
def reported (s : State) (n : Nat) : Nat × Nat := (activeReasons s (s.cluster n), (s.cluster n).eff.vln)

/-- A change of the requests on some clusters. -/
def change (s : State) (ns : List Nat) (f : State → State) : State :=
  let olds := ns.map (fun n => (n, reported s n))
  olds.foldl (fun s x => refreshOne x.2 s x.1) (f s)

/-- All clusters. -/
def allClusters : List Nat := List.range 128

/-! ## Events of the controller -/

/-- The code of a cluster in the voltage-domain map (R379). -/
def vdCode (h : HCsr) (c : Nat) : Nat := (h.vdmap.toList.getD (c / 32) 0).toNat / 2 ^ (2 * (c % 32)) % 4

/-- A write of VDMAP n: clusters whose code changes switch (R380). -/
def vdmapPut (s : State) (n : Nat) (v : Word) : State :=
  let s1 := s.withH (fun h => { h with vdmap := h.vdmap.setIfInBounds n v })
  (List.range 32).foldl (fun s i =>
    let c := 32 * n + i
    if vdCode s1.dev.h c != (s.cluster c).vr then s.modCluster c (fun (k : Cluster) => { k with switching := true }) else s) s1

/-- R380. -/
def execVdmapWrite (n : Nat) (v : Word) (s : State) : Out := .next (if n < 4 then vdmapPut s n v else s)

/-- A cluster that switches regulators issues nothing (R380). -/
def issues (s : State) (c : Nat) : Bool := !(s.cluster c).switching

/-- R381: a change of setting takes effect. -/
def execClockChange (c : Nat) (s : State) : Out := .next (s.modCluster c (fun (k : Cluster) => { k with clock := k.eff.frq }))

/-- TCTL images that raise ILL on write (Table 19.4). -/
def tctlBad (v : Word) : Bool :=
  bitsOf v 23 21 == 2 || decide (5 ≤ bitsOf v 23 21) || decide (40 < bitsOf v 17 12) || decide (12 < bitsOf v 11 8) ||
  decide (4 < bitsOf v 6 4)

/-- TCTL as a write stores it: reserved bits zero. -/
def tctlImage (v : Word) : Word := v &&& 0xE3FF77#64

/-- R390. -/
def execTctlWrite (c : Nat) (v : Word) (s : State) : Out :=
  .next (if tctlBad v then s
    else s.modCluster c (fun (k : Cluster) => { k with tctl := tctlImage v, tctlBy := some (k.tctlBy.getD (s.dev.time + 1000)) }))

/-- R390: the request takes effect. -/
def execTctlApply (c : Nat) (s : State) : Out :=
  .next (change s [c] (fun s => s.modCluster c (fun (k : Cluster) => { k with tctlOn := k.tctl, tctlBy := none })))

/-- One control's step toward less throttling, by at most n. -/
def stepTo (n eff target : Nat) : Nat := if target < eff then Nat.max target (eff - n) else eff

/-- One µs. -/
def usNs : Nat := 1000

/-- Whether the limiter has held a control for 1 µs. -/
def slewDue (c : Cluster) : Bool := [c.held.vln, c.held.lsu, c.held.iss, c.held.frq].any (fun h => usNs ≤ h)

/-- R386: a control that the limiter has held for 1 µs moves one step. -/
def execSlewStep (c : Nat) (s : State) : Out :=
  if !slewDue (s.cluster c) then .next s
  else .next (change s [c] (fun s =>
    let k := s.cluster c
    let a := allowed s k
    let e := k.eff
    let h := k.held
    let due (t : Nat) (step stay : Nat) : Nat := if usNs ≤ t then step else stay
    s.setCluster { k with
      held := mapSettings (fun t _ _ => if usNs ≤ t then t - usNs else t) h h h,
      eff := { vln := due h.vln (7 - stepTo 1 (7 - e.vln) (7 - a.vln)) e.vln, lsu := due h.lsu (stepTo 1 e.lsu a.lsu) e.lsu,
               iss := due h.iss (stepTo 1 e.iss a.iss) e.iss, frq := due h.frq (40 - stepTo 4 (40 - e.frq) (40 - a.frq)) e.frq } }))

/-- The clusters of a tenant's partition. -/
def clustersOf (t : Tenant) : List Nat := allClusters.filter (inPartition t)

/-- The budget controller's steps after an interval (R387). -/
def budgetNext (x : TenantX) : Nat :=
  if x.budget == 0 then x.steps
  else if x.budget < x.pmeas then Nat.min budgetMax (x.steps + 1)
  else if 100 * x.pmeas ≤ 95 * x.budget then x.steps - 1
  else x.steps

/-- R387: the end of a 100 µs interval. -/
def execBudgetInterval (tn : Nat) (s : State) : Out :=
  if !(s.tenX tn).budgetDue then .next s
  else .next (change s (clustersOf (s.ten tn)) (fun s =>
    s.modTenX tn (fun (x : TenantX) => { x with steps := budgetNext x, budgetDue := false })))

/-- The mean power in watts of nJ in 1 ms, rounded down, or up where `up`.
DESIGN CHOICE, log entry 43: it is held at the field's end. -/
def wattsOf (up : Bool) (nj : Nat) : Nat := Nat.min 65535 ((nj + if up then 999999 else 0) / 1000000)

/-- R387: PMEAS takes the mean power of the 1 ms window that has ended, attributed as energy is to launches, once the last energy of
it has been. The operand is that number: which of the two whole numbers beside the mean it is, no rule says, and it is none other. -/
def execPmeasWindow (tn watts : Nat) (s : State) : Out :=
  match (if s.dev.windows.isEmpty then (s.tenX tn).window else none) with
  | none => .next s
  | some nj =>
    if watts == wattsOf false nj || watts == wattsOf true nj then
      .next (s.modTenX tn (fun (x : TenantX) => { x with pmeas := watts, window := none }))
    else .next s

/-- R387: 0 withdraws the request at once. -/
def execPbudWrite (tn watts : Nat) (s : State) : Out :=
  .next (change s (clustersOf (s.ten tn)) (fun s => s.modTenX tn (fun (x : TenantX) =>
    { x with budget := watts % 2 ^ 16, steps := if watts % 2 ^ 16 == 0 then 0 else x.steps })))

/-- R388: a regulator over 1,100 A for 1 µs. -/
def execOvercurrentTrip (vr : Nat) (s : State) : Out :=
  .next (change s allClusters (fun s =>
    let s := s.withM (fun m => { m with vrTrip := if m.vrTrip.contains vr then m.vrTrip else m.vrTrip ++ [vr],
                                        vrAt := upsert (fun x => x.1 == vr) (vr, s.dev.time) m.vrAt })
    (allClusters.filter (fun c => (s.cluster c).vr == vr)).foldl (fun s c => s.modCluster c (fun (k : Cluster) => { k with cur := true })) s))

/-- Whether a regulator's current has been over 1,100 A within the last 100 µs (R388). -/
def overLately (s : State) (vr : Nat) : Bool := s.dev.m.vrAt.any (fun x => x.1 == vr && decide (s.dev.time < x.2 + 100 * usNs))

/-- R388: at or below 900 A for 100 µs. -/
def execOvercurrentClear (vr : Nat) (s : State) : Out :=
  .next (if overLately s vr then s else change s allClusters (fun s =>
    let s := s.withM (fun m => { m with vrTrip := m.vrTrip.filter (· != vr), vrAt := m.vrAt.filter (fun x => x.1 != vr) })
    (allClusters.filter (fun c => (s.cluster c).vr == vr)).foldl (fun s c => s.modCluster c (fun (k : Cluster) => { k with cur := false })) s))

/-- Degrees as a sensor counts them (Table 19.5). -/
def deg16 (x : Int) : Int := 16 * x

/-- When a sensor is sampled next: every 100 µs, the first time within 100 µs of the reset (R391). -/
def sampleAt (s : State) (k : Nat) : Nat :=
  match s.dev.m.sensors.find? (fun x => x.num == k) with | some x => x.at' + 100 * usNs | none => 100 * usNs

/-- Whether a sensor may be sampled now: 100 µs after the last sample. -/
def sampleDue (s : State) (k : Nat) : Bool := s.dev.m.sensors.all (fun x => x.num != k) || decide (sampleAt s k ≤ s.dev.time)

/-- R391, R388: a sample, every 100 µs, updates TSENS, TAP and the junction trip. -/
def execSensorSample (k : Nat) (temp : BitVec 16) (s : State) : Out :=
  if 64 ≤ k || !sampleDue s k then .next s
  else
    .next (change s [2 * k, 2 * k + 1] (fun s =>
      let s := s.withM (fun m => { m with
        sensors := upsert (fun x => x.num == k) { num := k, valid := true, temp := temp, at' := s.dev.time } m.sensors,
        tap := if m.talrt.toInt ≤ temp.toInt then m.tap ||| (1#64 <<< k) else m.tap })
      let trip (on : Bool) (s : State) : State :=
        [2 * k, 2 * k + 1].foldl (fun s c => s.modCluster c (fun (x : Cluster) => { x with thm := on })) s
      if deg16 115 ≤ temp.toInt then trip true s else if temp.toInt < deg16 105 then trip false s else s))

/-! ## The watchdog, the tick and the firmware update (R389, R390) -/

/-- R390: any write restarts the 10 ms and clears MIP bit 2. -/
def execWdogWrite (s : State) : Out :=
  .next (change s allClusters (fun s => s.withM (fun m =>
    { m with wdogOn := true, wdogUs := 0, wdogWarned := false, wdogExpired := false, mip := m.mip &&& 0b01#2 })))

/-- Table 19.3, MIP bit 2: 8 ms since the last write. -/
def execWatchdogWarning (s : State) : Out :=
  .next (if s.dev.m.wdogOn && !s.dev.m.wdogWarned && decide (8000 ≤ s.dev.m.wdogUs) then
    s.withM (fun m => { m with wdogWarned := true, mip := m.mip ||| 0b10#2 }) else s)

/-- R389: the safe grant comes into force. -/
def execWatchdogExpire (s : State) : Out :=
  .next (if s.dev.m.wdogOn && decide (10000 ≤ s.dev.m.wdogUs) then
    change s allClusters (fun s => s.withM (fun m => { m with wdogExpired := true })) else s)

/-- Table 19.3, MTICK and MIP bit 1. -/
def execMtickTick (s : State) : Out :=
  let m := s.dev.m
  .next (if m.mtick != 0 && decide (m.mtick.toNat ≤ m.tickUs) then
    s.withM (fun m => { m with tickUs := m.tickUs - m.mtick.toNat, mip := m.mip ||| 0b01#2 }) else s)

/-- R389, Table 19.3. -/
def execPctlWrite (v : Word) (s : State) : Out :=
  .next (change s allClusters (fun s => s.withM (fun m => { m with upd := v.getLsbD 0 })))

/-- R392: the management core takes its lowest pending enabled interrupt. -/
def execMInterrupt (s : State) : Out :=
  let s1 := s.focus .mgmt
  if s1.cpu.id = .mgmt && s1.cpu.resid == .on && s1.cpu.wait.isNone then
    match interruptDue s1 s1.cpu with
    | some b => .next (takeInterrupt s1 b)
    | none => .next s
  else .next s

/-! ## The power status word and energy (R394, R395) -/

/-- The word's content (Table 19.6). -/
def pswWord (s : State) (t : Tenant) (seq : Nat) : Nat :=
  let cs := (clustersOf t).map s.cluster
  let reas := cs.foldl (fun n c => n ||| activeReasons s c) 0
  cs.foldl (fun n c => Nat.min n c.eff.vln) 7 + cs.foldl (fun n c => Nat.max n c.eff.lsu) 0 * 2 ^ 4 +
    cs.foldl (fun n c => Nat.max n c.eff.iss) 0 * 2 ^ 8 + reas * 2 ^ 16 + seq % 2 ^ 32 * 2 ^ 32

/-- Whether 10 µs have passed since the last write: changes until then are coalesced into the next one (R394). -/
def pswOpen (s : State) (x : TenantX) : Bool := match x.pswAt with | some t => decide (t + 10000 ≤ s.dev.time) | none => true

/-- R394: one write, with the translation of the root task; a write that fails a check sets FAIL. A page that migrates is waited for,
as a walk waits (R413). -/
def execPswWrite (tn : Nat) (s : State) : Out :=
  let t := s.ten tn
  let x := s.tenX tn
  let va := BitVec.ofNat 64 (bitsOf t.pswa 56 3 * 8)
  let written (s : State) : State := s.modTenX tn (fun (x : TenantX) => { x with pswDue := none, pswAt := some s.dev.time, pswMig := (0, 0) })
  if x.pswDue.isNone || !pswOpen s x || (x.pswMig.1 != 0 && !rereads s x.pswMig.2) then .next s
  else if va = 0 then .next (s.modTenX tn (fun (x : TenantX) => { x with pswDue := none, pswMig := (0, 0) }))
  else
    let fail := (written s).modTen tn (fun t => { t with pswa := t.pswa ||| 1 })
    match rootCtx s tn with
    | none => .next fail
    | some c => match machineLoc s c va true with
      | .ok (l, s1) =>
        .next ((written (enterWide s1 l (leBytes 8 (pswWord s1 t (t.pswSeq + 1))))).modTen tn (fun t => { t with pswSeq := t.pswSeq + 1 }))
      | .error m =>
        if m && decide (x.pswMig.1 < migReads) then
          .next (s.modTenX tn (fun (x : TenantX) => { x with pswMig := (x.pswMig.1 + 1, s.dev.time) }))
        else .next fail

/-- R394: the address, FAIL cleared by a 1, SEQ from 0. -/
def execPswaWrite (tn : Nat) (v : Word) (s : State) : Out :=
  .next (s.modTen tn (fun t =>
    { t with pswa := (v &&& 0x01FFFFFFFFFFFFF8#64) ||| (if v.getLsbD 0 then 0 else t.pswa &&& 1), pswSeq := 0 }))

/-- The strands resident in a cluster's energy window, with what each has issued in it; those that have left come after those that
are there. -/
def staying (s : State) (c : Nat) : List Share :=
  s.strands.filterMap (fun x => match x.id with
    | .task tid _ => if x.cluster == c && x.resid == .on then
        some { id := x.id, tenant := x.tenant, lid := ((s.task? tid).map (·.lid)).getD 0, issued := x.usage.issued, gone := none } else none
    | _ => none)
def shares (s : State) (c : Nat) : List Share := staying s c ++ (s.cluster c).left

/-- A strand's part: 1, once for each strand, and what it issued. -/
def partOf (xs : List Share) (k : Nat) (x : Share) : Nat :=
  (if (xs.take k).any (fun y => y.id == x.id && y.gone == x.gone) then 0 else 1) + x.issued

/-- Energy is attributed to a tenant: in the 1 ms window that has ended, while that is not over, else in the current one (R387). -/
def TenantX.attribute (t : TenantX) (nj : Nat) : TenantX :=
  match t.window with
  | some x => { t with window := some (x + nj) }
  | none => { t with energy := t.energy + nj }

/-- Shares out the energy of a cluster's window (R395): to each strand that is there, to the launch of one that has left, and to their
tenants. -/
def shareEnergy (s : State) (c nj : Nat) : State :=
  let xs := shares s c
  let here := staying s c
  let total := (xs.mapIdx (partOf xs)).foldl (· + ·) 0
  let s1 := (xs.mapIdx (fun k x => (k, x, nj * partOf xs k x / total))).foldl (fun (s : State) (q : Nat × Share × Nat) =>
    let (k, x, e) := q
    let s := s.modTenX x.tenant (fun (t : TenantX) => t.attribute e)
    if k < here.length then s.modStrand x.id (fun y => { y with usage := { y.usage with energy := y.usage.energy + e } })
    else s.modLaunch x.tenant x.lid (fun l => { l with charges := { l.charges with energy := l.charges.energy + e } })) s
  let s2 := s1.modStrands (fun x => if here.any (fun y => y.id == x.id) then { x with usage := { x.usage with issued := 0 } } else x)
  if (s.cluster c).left.isEmpty then s2 else s2.modCluster c (fun (k : Cluster) => { k with left := [] })

/-- Whether every window that a launch's strands have left is metered: its charges are complete then (R395). -/
def metered (s : State) (tn lid : Nat) : Bool := s.clusters.all (fun c => c.left.all (fun x => x.tenant != tn || x.lid != lid))

/-- A cluster's activity count in the window: the micro-operations and scalar instructions its strands issued. -/
def activity (s : State) (c : Nat) : Nat := (shares s c).foldl (fun n x => n + x.issued) 0

/-- R395: the metered energy of a regulator in a 10 µs window is split among its clusters by their activity counts, and a cluster's
among the strands resident in the window.
DESIGN CHOICE, log entry 43: without any activity the clusters have equal parts. -/
def execEnergyWindow (vr nj : Nat) (s : State) : Out :=
  if !s.dev.windows.contains vr then .next s
  else
    let cs := allClusters.filter (fun c => (s.cluster c).vr == vr)
    let total := cs.foldl (fun n c => n + activity s c) 0
    let part (c : Nat) : Nat := if total = 0 then nj / cs.length else nj * activity s c / total
    let s1 := (cs.filter (fun c => !(shares s c).isEmpty)).foldl (fun s' c => shareEnergy s' c (part c)) s
    .next (s1.withDev (fun d => { d with windows := d.windows.filter (· != vr) }))

end Sys2Proof.Machine
end

