-- ==== Sys2Proof/Machine/Save.lean ====
section
/-! DEFINITION. Saving a context (R189, R199, R291, R432, R433): when a strand's context can be saved, which tasks move
together (R339), the frame, and the place in the ready queue a saved task takes (R335). -/

namespace Sys2Proof.Machine

/-! ## Frames (R432) -/

/-- The size of a task's frame. -/
def frameSize (t : Task) : Nat := 262144 + (t.spadLen + 65535) / 65536 * 65536

/-- The length of a die's frame pool. -/
def poolSize (h : HCsr) (die : Nat) : Nat := bitsOf (if die == 0 then h.csp0l else h.csp1l) 51 16 * 65536

/-- Whether a die's pool has room for the frames some tasks still need. -/
def framesFit (s : State) (die : Nat) (ts : List Task) : Bool :=
  let held := (s.tasks.filter (fun t => t.saved == some die)).foldl (fun n t => n + frameSize t) 0
  let need := (ts.filter (fun t => t.saved.isNone)).foldl (fun n t => n + frameSize t) 0
  need == 0 || decide (held + need ≤ poolSize s.dev.h die)

/-! ## When a context can be saved -/

/-- No entry of the strand is left in its cluster's diversion queue (R189). -/
def divDone (s : State) (x : Strand) : Bool := (s.cluster x.cluster).div.all (fun e => e.strand != x.id)

/-- The waits of R291 and R189: the strand's stores and trains have entered, its loads have landed, its elements are settled. -/
def saveReady (s : State) (x : Strand) : Bool :=
  x.mem.bufferEmpty && x.mem.trains.isEmpty && x.mem.sv.isNone && loadsDone s x none && divDone s x &&
  (vvals s x).all (fun v => !v.holes)

/-- Whether a pre-emption takes effect before the instruction a strand waits in, which then runs again; a whole instruction
that has begun its effect completes first (R141, R208, R323). -/
def yields : Wait → Bool
  | .remoteAmo _ _ => false
  | .micro _ p => p.ahead.isEmpty && !p.kept
  | .supply _ _ _ _ => false
  | .svld _ _ => false
  | .svst _ _ _ => false
  | .rwinClose _ _ _ => false
  | .vret _ _ => false
  | .vaneDrop _ _ _ => false
  | .vdmap _ _ _ _ _ => false
  | _ => true

/-! ## Who moves together (R339) -/

/-- The tasks that are saved, requeued and resumed with a task: its gang group, or itself. -/
def groupOfTask (s : State) (t : Task) : List Task :=
  match t.gang with
  | none => [t]
  | some g => s.tasks.filter (fun u => u.tenant == t.tenant && u.lid == t.lid && u.gang == some g)

/-- The strands of a task. -/
def strandsOf (s : State) (tid : Nat) : List Strand := s.strands.filter (fun x => isOfTask x.id tid)

/-- The cluster a task runs on. -/
def clusterOf (s : State) (t : Task) : Nat := ((s.strand? (.task t.tid false)).map (·.cluster)).getD 0

/-- The frames of some tasks fit the pools of the dies they run on. -/
def framesOk (s : State) (ts : List Task) : Bool :=
  [0, 1].all (fun d => framesFit s d (ts.filter (fun t => clusterOf s t / 64 == d)))

/-- Every strand of some tasks, but for those p excuses, stands at a boundary with its context ready to save. -/
def groupReady (s : State) (ts : List Task) (p : Strand → Bool) : Bool :=
  ts.all (fun t => t.state != .running || (strandsOf s t.tid).all (fun x =>
    x.resid != .on || (saveReady s x && (p x || (match x.wait with | some w => yields w | none => true)))))

/-! ## The save -/

/-- A saved strand leaves its strand context. A wait that a pre-emption precedes is over, but a `wfi` completes when the task
resumes (R136). -/
def strandOff (x : Strand) : Strand := if x.resid == .ended then x else
  { x with resid := .off, wait := (match x.wait with | some (.wfi _) => some (.wfi true) | _ => none),
           mem := { x.mem with late := false, early := [] } }

/-- A task's context goes to its frame, with the cause PRE (R425, R433): dirty tiles are clean again (R199). -/
def saveTask (s : State) (st : TState) (t : Task) : State :=
  let die := clusterOf s t / 64
  let s := s.modTask t.tid (fun k => { k with
    state := st, slim := false, cause := Cause.pre, saved := k.saved.orElse (fun _ => some die),
    accs := k.accs.map (fun (a : Tile) => { a with dirty := false }) })
  ((strandsOf s t.tid).foldl leaveWindow s).modStrands (fun x => if isOfTask x.id t.tid then strandOff x else x)

/-- Moves tasks to the tail of their queues: the list of tasks holds each queue in order. -/
def toTail (s : State) (ts : List Task) : State :=
  let mine (t : Task) : Bool := ts.any (fun u => u.tid == t.tid)
  { s with tasks := s.tasks.filter (fun t => !mine t) ++ s.tasks.filter mine }

/-- Moves tasks to the head of their queues. -/
def toHead (s : State) (ts : List Task) : State :=
  let mine (t : Task) : Bool := ts.any (fun u => u.tid == t.tid)
  { s with tasks := s.tasks.filter mine ++ s.tasks.filter (fun t => !mine t) }

/-- Saves the running members of a group and requeues the group. -/
def saveGroup (s : State) (ts : List Task) (head : Bool) : State :=
  let s := (ts.filter (fun t => t.state == .running)).foldl (fun s t => saveTask s .ready t) s
  if head then toHead s ts else toTail s ts

end Sys2Proof.Machine
end

