-- ==== Sys2Proof/Machine/Engines.lean ====
section
/-! DEFINITION. Tile-walk engines and stream gathers (R293 to R313): the dimension registers, copy records and their checks,
the probe pass, slots and permits, and the moves of a copy. -/

namespace Sys2Proof.Machine

/-! ## Dimension registers (R293, R294) -/

/-- R294. -/
def execCpdim (d a b : SReg) (l : Level) (s : State) : Out :=
  let word := Late.word (.cpdim d a b l)
  taskOnly s word (readS s word [a, b, d] none (fun vs =>
    if 2 ^ 32 < (opd vs 0).toNat then fmtTrap s a.toNat
    else
      let dim : Dim := { ext := (opd vs 0).toNat, ss := (opd vs 1).setWidth 48, ds := (opd vs 2).setWidth 48 }
      retire0 (s.withExt (fun x => { x with dm := x.dm.setIfInBounds l.code dim })) [a, b, d]))

/-! ## The walk (R296) -/

/-- The product of some extents. -/
def extProd (ds : List Dim) : Nat := ds.foldl (fun n d => n * d.ext) 1

/-- The index of level L in transfer n: level 0 is the innermost. -/
def walkIdx (ds : List Dim) (n l : Nat) : Nat := n / extProd (ds.take l) % (match ds[l]? with | some d => d.ext | none => 1)

/-- A base plus the strides of transfer n. -/
def walkAddr (ds : List Dim) (stride : Dim → BitVec 48) (base : Word) (n : Nat) : Word :=
  (ds.mapIdx (fun l d => (stride d).signExtend 64 * BitVec.ofNat 64 (walkIdx ds n l))).foldl (· + ·) base

namespace Copy

/-- Whether it gathers rows. -/
def gathers (c : Copy) : Bool := c.kind == .gat

/-- Transfers in one chunk: those that agree in levels CLV to 5. -/
def chunkSize (c : Copy) : Nat := if c.gathers then 1 else extProd (c.dims.take c.clv)

/-- The chunk of transfer n; a gather's chunks are its elements. -/
def chunkOf (c : Copy) (n : Nat) : Nat := n / c.chunkSize

/-- The transfers, or the elements of a gather that were not dropped. -/
def numbers (c : Copy) : List Nat := if c.gathers then c.rows.map (·.1) else List.range c.total

/-- Where transfer n reads, and how many bytes. -/
def srcOf (c : Copy) (n : Nat) : Word :=
  if c.gathers then ((c.rows.find? (fun r => r.1 == n)).map (·.2)).getD 0 else walkAddr c.dims (·.ss) c.src n
def dstOf (c : Copy) (n : Nat) : Word :=
  if c.gathers then c.dst + BitVec.ofNat 64 (n * c.rowb) else walkAddr c.dims (·.ds) c.dst n

/-- The element bytes and the scale bytes of a tagged image (Table 6.8). -/
def image (f unit : Nat) : Nat × Nat := ((unit * fmtWidth f + 7) / 8, (sideCount f unit).1 + (sideCount f unit).2)

def srcLen (c : Copy) : Nat := if c.gathers then c.rowb else (image c.sfmt c.unit).1 + (image c.sfmt c.unit).2
def dstParts (c : Copy) : Nat × Nat := if c.gathers then (c.rowb, 0) else image c.dfmt c.unit
def dstLen (c : Copy) : Nat := c.dstParts.1 + c.dstParts.2

/-- The bytes transfer n writes, as runs of addresses in the order of the image: with a rotation, the element bytes of one
64-byte line move together (R298). -/
def dstRuns (c : Copy) (n : Nat) : List (Word × Nat) :=
  let d := c.dstOf n
  if c.rotc == 0 then [(d, c.dstLen)]
  else (bankPieces d.toNat c.dstParts.1).map (fun p =>
      (BitVec.ofNat 64 (bankRot c.rotc (walkIdx c.dims n c.rlv) p.1), p.2)) ++
    (if c.dstParts.2 == 0 then [] else [(d + BitVec.ofNat 64 c.dstParts.1, c.dstParts.2)])

end Copy

/-! ## Conversion in transit (R297) -/

/-- The bits of some bytes as elements of width w. -/
def elemsOf (w n : Nat) (bs : List Byte) : List Nat := let x := leNat bs; (List.range n).map (fun i => x / 2 ^ (w * i) % 2 ^ w)

/-- One block of 32 values in a block-scaled format: codes, scale byte, special-value byte. -/
def quantBlock (f : Nat) (rm : RM) (sat : Bool) (xs : List Val) : List Nat × Nat × Nat :=
  if f == 0x0F then let b := qx4Block rm xs; (b.1, b.2.1, b.2.2.1) else let b := mxBlock f rm sat xs; (b.1, b.2.1, 0)

/-- The image a transfer writes. Flags are discarded; no FZ applies. -/
def convImage (c : Copy) (bs : List Byte) : List Byte :=
  if c.gathers || c.sfmt == c.dfmt then bs
  else
    let xs := elemsOf (fmtWidth c.sfmt) c.unit bs
    if isBlock32 c.dfmt then
      let qs := (chunks 32 (c.unit / 32) (xs.map (quantVal c.sfmt false))).map (quantBlock c.dfmt c.rm c.sat)
      leBytes (c.dstParts.1) (packEls (fmtWidth c.dfmt) (qs.flatMap (·.1))) ++ qs.map (fun q => BitVec.ofNat 8 q.2.1) ++
        (if c.dfmt == 0x0F then qs.map (fun q => BitVec.ofNat 8 q.2.2) else [])
    else
      leBytes (c.dstParts.1) (packEls (fmtWidth c.dfmt) (xs.map (fun x => (convElem c.sfmt c.dfmt c.rm c.sat false x .none).1)))

/-! ## Records and their checks (R295, R299, R312) -/

/-- Whether an address lies in the local window (R33). -/
def isLocal (a : Word) : Bool := a.getLsbD 56

/-- Whether a format pairing breaks R297. -/
def badPair (sf df : Nat) : Bool :=
  !(sf == df || (isBlock32 df && (isFA sf || isIA sf)) || (!isScaled df && df != 0x25 && !isScaled sf && sf != 0x25))

/-- Whether some elements end inside a byte. -/
def splitsByte (f unit : Nat) : Bool := decide (fmtWidth f < 8) && unit * fmtWidth f % 8 != 0

/-- The first failing code of Table 14.4 that a copy record shows, 0 for none; `set` is the cluster set of `cpmc`. DESIGN CHOICE, log
entry 32: code 5 tests DST itself for the local window; where strides carry a transfer out of it, the transfer is checked as any other
and its bytes are rotated wherever they lie. -/
def copyCode (mc : Bool) (set : Word) (dims : List Dim) (ws : List Word) : Nat :=
  let w (i : Nat) : Word := ws.getD i 0
  let ctrl := w 4
  let sf := bitsOf ctrl 5 0
  let df := bitsOf ctrl 11 6
  let unit := bitsOf ctrl 25 17
  let clv := bitsOf ctrl 28 26
  if w 6 != 0 || w 7 != 0 || bitsOf ctrl 63 47 != 0 || ctrl.getLsbD 12 then 1
  else if decide (6 ≤ bitsOf ctrl 15 13) || decide (0x25 < sf) || decide (0x25 < df) || badPair sf df then 2
  else if unit == 0 || decide (256 < unit) || (sf != df && isBlock32 df && unit % 32 != 0) || splitsByte sf unit || splitsByte df unit then 3
  else if decide (5 < clv) || (ctrl.getLsbD 32 && (bitsOf ctrl 31 29 == 0 || decide (1024 < extProd (dims.drop clv)))) then 4
  else if decide (5 < bitsOf ctrl 39 37) || (bitsOf ctrl 36 33 != 0 && (ctrl.getLsbD 40 || !isLocal (w 1))) then 5
  else if mc && !ctrl.getLsbD 40 then 6
  else if mc && (set.toNat == 0 || decide (256 ≤ set.toNat)) then 7
  else if (w 2).toNat % 8 != 0 || isLocal (w 2) || (w 5).toNat % 64 != 0 then 9
  else 0

/-- The copy a record describes. -/
def copyOfRecord (s : State) (kind : CopyKind) (targets : List Nat) (dims : List Dim) (ws : List Word) : Copy :=
  let w (i : Nat) : Word := ws.getD i 0
  let ctrl := w 4
  { uid := 0, kind := kind, owner := s.cpu.id, tenant := s.cpu.tenant, id := 0, cluster := s.cpu.cluster, tid := tidOf s.cpu.id,
    sfmt := bitsOf ctrl 5 0, dfmt := bitsOf ctrl 11 6, rm := bitsOf ctrl 15 13, sat := ctrl.getLsbD 16, unit := bitsOf ctrl 25 17,
    clv := bitsOf ctrl 28 26, rotc := bitsOf ctrl 36 33, rlv := bitsOf ctrl 39 37, dims := dims, src := w 0, dst := w 1,
    rows := [], rowb := 0, total := extProd dims,
    slot := if ctrl.getLsbD 40 then some (bitsOf ctrl 46 41) else none, targets := targets, taken := false,
    mreg := if ctrl.getLsbD 32 then some (bitsOf ctrl 31 29) else none, sta := w 2, stv := w 3, moving := false,
    made := [], entered := 0, rtrains := [], bad := 0, chunkDone := [], pins := [], holds := [], stampSeq := none, done := false, parts := [] }

/-- The first failing code of a stream parameter block (R299, R313). -/
def streamCode (spad : Nat) (ws : List Word) : Nat :=
  let w (i : Nat) : Word := ws.getD i 0
  let rowb := bitsOf (w 7) 15 0
  let nidx := bitsOf (w 7) 26 16
  let dst := w 2
  if bitsOf (w 7) 63 33 != 0 then 1
  else if rowb % 4 != 0 || rowb == 0 || decide (1024 < nidx) then 3
  else if (w 7).getLsbD 29 && bitsOf (w 7) 32 30 == 0 then 4
  else if !(bitsOf dst 63 52 == 0x011 && decide (bitsOf dst 51 0 + nidx * rowb ≤ spad)) then 6
  else if (w 3).toNat % 8 != 0 || isLocal (w 3) || (w 5).toNat % 64 != 0 then 9
  else 0

/-- The gather a block describes, before its indices are read. -/
def copyOfBlock (s : State) (ws : List Word) : Copy :=
  let w (i : Nat) : Word := ws.getD i 0
  { copyOfRecord s .gat [] [] [0, 0, 0, 0, 0, 0, 0, 0] with
    dst := w 2, sta := w 3, stv := w 4, rowb := bitsOf (w 7) 15 0, total := 0, moving := true,
    mreg := if (w 7).getLsbD 29 then some (bitsOf (w 7) 32 30) else none }

/-! ## The probe pass (R304) -/

/-- What the pass has found. -/
structure Probe where
  s     : State
  pins  : List PinPage
  /-- the distinct pages met -/
  pages : List Nat
  /-- (page, reason) of the misses -/
  miss  : List (Nat × Nat)
  deriving DecidableEq, Repr

/-- How the pass stops the instruction: `mig` at an address whose page migrates, `held` where a walk starts again. -/
inductive PStop where
  | trap (cause : Nat) (va : Word)
  | lease (va : Word)
  | mig (va : Word)
  | held
  | tooMany
  deriving DecidableEq, Repr

/-- A pass that stops keeps the A and D bits of the pages it has translated (R413). -/
abbrev Passed (α : Type) := Except (PStop × State) α

/-- On whose behalf the pass runs: the translation, the leases, the member the vane check is made for (R376), and the pages for which a
walk has waited in vain (R413). -/
structure PFor where
  ctx    : XCtx
  leases : Option (List Lease)
  member : Option Strand
  vain   : List Nat
  deriving DecidableEq, Repr

/-- A miss, at most 4,096 distinct pages. -/
def Probe.page (p : Probe) (a : Nat) (reason : Option Nat) : Passed Probe :=
  let pages := if p.pages.contains a then p.pages else p.pages ++ [a]
  if 4096 < pages.length then .error (.tooMany, p.s)
  else
    let miss := match reason with
      | some r => if p.miss.any (fun m => m.1 == a) then p.miss else p.miss ++ [(a, r)]
      | none => p.miss
    .ok { p with pages := pages, miss := miss }

/-- The first of n bytes that fails a check of single bytes. -/
def firstBad (va : Word) (n : Nat) (ok : Nat → Bool) : Option Word :=
  ((List.range n).find? (fun i => !ok (va.toNat + i))).map (fun i => va + BitVec.ofNat 64 i)

/-- The page a translation of an address came from. -/
def pinOf (k : XOk) (va : Word) : PinPage :=
  let i := va.toNat - k.va
  let base := match k.loc with
    | .dev a => .dev (a - i)
    | .host a => .host (a - i)
    | .remote d w o => .remote d w (o - i)
    | l => l
  { va := k.va, size := k.size, mark := k.mark, loc := base }

/-- What is accessed: the bytes of a source, of a destination, or of a stamp that may not be remote (Table 15.3). -/
inductive PUse where
  | source | dest | localStamp
  deriving DecidableEq, Repr

/-- Probes n bytes from an address, page by page. Table 14.6 gives the reasons. Each walk waits for its own leaf (R413). -/
def probeBytes (f : PFor) (u : PUse) : Nat → Word → Nat → Probe → Passed Probe
  | 0, _, _, p => .ok p
  | fuel + 1, va, n, p =>
    if n == 0 then .ok p
    else
      let w := u != .source
      let rest := Nat.min n (4096 - va.toNat % 4096)
      match translate p.s f.ctx va (!w) w false true with
      | .error e =>
        let (e, s) := fresher p.s f.ctx va e
        let p := { p with s := s }
        let missed (page reason : Nat) : Passed Probe :=
          match p.page page (some reason) with
          | .error e => .error e
          | .ok p => probeBytes f u fuel (va + BitVec.ofNat 64 rest) (n - rest) p
        match e with
        | .prm => .error (.trap Cause.prm va, s)
        | .range => .error (.trap Cause.xlt va, s)
        | .mig => if f.vain.contains (pageNo va) then missed (va.toNat / 4096 * 4096) 3 else .error (.mig va, s)
        | .changed => .error (.held, s)
        | .migTimeout => missed (va.toNat / 4096 * 4096) 3
        | .nodeAbsent page => missed page 2
        | _ => missed (va.toNat / 4096 * 4096) 1
      | .ok k =>
        let m := match k.loc with
          | .spad tid off => Nat.min n (((p.s.task? tid).map (·.spadLen)).getD 0 - off)
          | _ => Nat.min n (k.room va)
        let remote := match k.loc with | .remote _ _ _ => true | _ => false
        match (match f.leases with | some ls => firstBad va m (fun a => inLeases ls a 1 (!w) w false) | none => none) with
        | some a => .error (.lease a, p.s)
        | none =>
          match (match f.member with | some x => firstBad va m (fun a => vaneOk k.s x a 1) | none => none) with
          | some a => .error (.trap Cause.van a, p.s)
          | none =>
            if remote && u != .dest then .error (.trap Cause.prm va, p.s)
            else
              let next (p : Probe) := probeBytes f u fuel (va + BitVec.ofNat 64 m) (n - m) p
              if k.mark == 0 then next { p with s := k.s }
              else
                let pin := pinOf k va
                let p1 : Probe := { p with s := k.s, pins := if p.pins.contains pin then p.pins else p.pins ++ [pin] }
                match p1.page k.va none with
                | .error e => .error e
                | .ok p => next p

/-- Probes runs of a destination in order. -/
def probeRuns (f : PFor) : List (Word × Nat) → Probe → Passed Probe
  | [], p => .ok p
  | r :: rs, p => match probeBytes f .dest r.2 r.1 r.2 p with
    | .error e => .error e
    | .ok p => probeRuns f rs p

/-- Probes the transfers from number n on. -/
def probeXfers (f : PFor) (c : Copy) : Nat → Nat → Probe → Passed Probe
  | 0, _, p => .ok p
  | k + 1, n, p =>
    match probeBytes f .source c.srcLen (c.srcOf n) c.srcLen p with
    | .error e => .error e
    | .ok p => match (if c.slot.isSome then .ok p else probeRuns f (c.dstRuns n) p) with
      | .error e => .error e
      | .ok p => probeXfers f c k (n + 1) p

/-- Probes the stamp word. Copies into slots, `cpmc` and rotated copies have no remote one (R328, Table 15.3). -/
def probeStamp (f : PFor) (c : Copy) (p : Probe) : Passed Probe :=
  if c.sta = 0 then .ok p else probeBytes f (if c.slot.isSome || c.rotc != 0 then .localStamp else .dest) 8 c.sta 8 p

/-- A gather as its pass goes: the copy so far, and the elements that touch a missing page. -/
structure GProbe where
  p     : Probe
  c     : Copy
  emask : List Nat
  deriving DecidableEq, Repr

/-- Where n bytes of a copy lie, as runs of locations with the addresses they stand for. -/
def copyLocs (s : State) (c : Copy) : Nat → Word → Nat → Option (List (Word × Loc × Nat))
  | 0, _, n => if n == 0 then some [] else none
  | fuel + 1, va, n =>
    if n == 0 then some []
    else
      let here : Option (Loc × Nat) :=
        if isLocal va then c.tid.map (fun t => (Loc.spad t (bitsOf va 51 0), n))
        else if imageBase ≤ va.toNat then some (.image va.toNat, n)
        else (c.pins.find? (fun p => decide (p.va ≤ va.toNat ∧ va.toNat < p.va + p.size))).map (fun p =>
          (p.loc.add (va.toNat - p.va), Nat.min n (p.va + p.size - va.toNat)))
      match here with
      | some (l, m) => (copyLocs s c fuel (va + BitVec.ofNat 64 m) (n - m)).map (fun r => (va, l, m) :: r)
      | none => none

/-- The agent that reads a byte for a copy (R251): the tile-walk engine of its cluster, or the indirect-stream engine of the stack that
holds the byte. -/
def copyAgent (c : Copy) (l : Loc) : Agent :=
  if !c.gathers then { strand := none, cluster := some c.cluster, die := none }
  else match l with
    | .dev a => { strand := none, cluster := none, die := some ((Config.hbmStack a).toNat / 4) }
    | _ => .device

/-- n bytes as the engine of a copy sees them. -/
def engineBytes (s : State) (c : Copy) (l : Loc) (n : Nat) : List Byte :=
  hide s l (if s.log.isEmpty then baseBytes s l n else (List.range n).map (fun i => latest (visible (copyAgent c (l.add i))) s (l.add i)))

/-- Whether the engine meets poison among n bytes. -/
def enginePoison (s : State) (c : Copy) (l : Loc) (n : Nat) : Bool := poisonedFor s (copyAgent c l) l n

/-- The value of an index, read through the page the pass has pinned; a poisoned one raises ECC. -/
def readIndex (p : Probe) (c : Copy) (va : Word) (n : Nat) : Passed Nat :=
  let ls := (copyLocs p.s { c with pins := p.pins } n va n).getD []
  if ls.any (fun l => enginePoison p.s c l.2.1 l.2.2) then .error (.trap Cause.ecc va, p.s)
  else .ok (leNat (ls.flatMap (fun l => engineBytes p.s c l.2.1 l.2.2)))

/-- The pass of a gather over elements e on (R313). -/
def probeRows (f : PFor) (ws : List Word) : Nat → Nat → GProbe → Passed GProbe
  | 0, _, g => .ok g
  | k + 1, e, g =>
    let w (i : Nat) : Word := ws.getD i 0
    let isz := if (w 7).getLsbD 27 then 8 else 4
    let ia := w 1 + BitVec.ofNat 64 (e * isz)
    let join (p : Probe) : Probe := { p with miss := g.p.miss ++ p.miss.filter (fun m => !g.p.miss.any (fun q => q.1 == m.1)) }
    match probeBytes f .source isz ia isz { g.p with miss := [] } with
    | .error x => .error x
    | .ok p1 =>
      if !p1.miss.isEmpty then probeRows f ws k (e + 1) { g with p := join p1, emask := g.emask ++ [e] }
      else match readIndex p1 g.c ia isz with
        | .error x => .error x
        | .ok x =>
          if bitsOf (w 6) 31 0 ≤ x then
            if (w 7).getLsbD 28 then .error (.trap Cause.bnd (BitVec.ofNat 64 e), p1.s)
            else
              let c := { g.c with bad := g.c.bad + 1 }
              probeRows f ws k (e + 1) { g with p := join p1, c := c }
          else
            let row := w 0 + BitVec.ofNat 64 (x * bitsOf (w 6) 63 32)
            match probeBytes f .source g.c.rowb row g.c.rowb p1 with
            | .error x => .error x
            | .ok p2 => match probeBytes f .dest g.c.rowb (g.c.dstOf e) g.c.rowb p2 with
              | .error x => .error x
              | .ok p3 =>
                let c := { g.c with rows := g.c.rows ++ [(e, row)], total := g.c.total + 1 }
                probeRows f ws k (e + 1) { p := join p3, c := c, emask := if p3.miss.isEmpty then g.emask else g.emask ++ [e] }

/-- For the cpu strand. -/
def probeFor (s : State) : PFor :=
  { ctx := ctxOf s s.cpu, leases := leasesOf s s.cpu, member := some s.cpu,
    vain := migOver s.cpu }

def Probe.start (s : State) : Probe := { s := s, pins := [], pages := [], miss := [] }

/-- The whole pass of a copy. -/
def probeCopy (f : PFor) (c : Copy) (s : State) : Passed Probe :=
  match probeXfers f c c.total 0 (.start s) with
  | .error e => .error e
  | .ok p => probeStamp f c p

/-- The whole pass of a gather. -/
def probeGather (f : PFor) (c : Copy) (ws : List Word) (s : State) : Passed GProbe :=
  match probeRows f ws (bitsOf (ws.getD 7 0) 26 16) 0 { p := .start s, c := c, emask := [] } with
  | .error e => .error e
  | .ok g => match probeStamp f c g.p with
    | .error e => .error e
    | .ok p => .ok { g with p := p }

/-! ## Fault records (Table 14.6) -/

/-- The misses in ascending order of page. -/
def sortMiss (xs : List (Nat × Nat)) : List (Nat × Nat) := xs.insertionSort (fun a b => a.1 ≤ b.1)

/-- The record's 448 bytes. -/
def faultRecord (kind seq : Nat) (miss : List (Nat × Nat)) (emask : List Nat) : List Byte :=
  let ms := sortMiss miss
  leBytes 8 (kind + Nat.min ms.length 32 * 256 + (if 32 < ms.length then 65536 else 0)) ++ leBytes 8 seq ++ leBytes 48 0 ++
    leBytes 128 (emask.foldl (fun n e => n + 2 ^ e) 0) ++
    (List.range 32).flatMap (fun k => leBytes 8 (match ms[k]? with | some m => m.1 / 4096 * 4096 + m.2 | none => 0))

/-- The engine writes the record for the cpu strand (R292), 64 bytes at a time, each under the checks of R132; with it, where its parts
lie. -/
def recordWrites (frec : Word) (bs : List Byte) : List Nat → State → Except (Word × MStop) (List (Loc × Nat) × State)
  | [], s => .ok ([], s)
  | i :: is, s =>
    let va := frec + BitVec.ofNat 64 (64 * i)
    match checkAccess s va 64 false true with
    | .error e => .error (va, e)
    | .ok k => match k.loc with
      | .remote _ _ _ => .error (va, .cause Cause.prm)
      | l => (recordWrites frec bs is (engineWrite k.s k.s.cpu l ((bs.drop (64 * i)).take 64))).map (fun r => ((l, 64) :: r.1, r.2))

/-- The FAULTREC entry of a record (R437, R438). -/
def faultEntryOf (s : State) (frec : Word) : ErrEnt :=
  let t := taskOf s s.cpu
  { kind := 1, cause := Cause.xlt, clu := s.cpu.cluster, tid := (t.map (·.tid)).getD 0, lid := (t.map (·.lid)).getD 0, pc := s.pc,
    addr := frec, info := 0 }

/-- What the instruction does once its pass has recorded misses (R304): XLT, or the record and the engine park. -/
def onMisses (s : State) (frec : Word) (kind : Nat) (miss : List (Nat × Nat)) (emask : List Nat) : Out :=
  if frec = 0 then trap s Cause.xlt (BitVec.ofNat 64 ((sortMiss miss).headD (0, 0)).1)
  else
    let seq := s.cpu.ext.faultSeq + 1
    match recordWrites frec (faultRecord kind seq miss emask) (List.range 7) s with
    | .error (va, e) => stopAt s va e
    | .ok (parts, s1) =>
      let s2 := s1.withExt (fun x => { x with faultSeq := seq })
      .next ((ringWrite s2 s2.cpu.tenant (faultEntryOf s frec) parts).waitFor (.epark (frec + 16)))

/-- The pass stops the instruction. -/
def onStop (rs : List SReg) (d : SReg) : PStop × State → Out
  | (.trap c va, s) => trap s c va
  | (.lease va, s) => .next (leaseEnd s va)
  | (.mig va, s) => stopAt s va .mig
  | (.held, s) => stopAt s 0 .held
  | (.tooMany, s) => retire s rs d (BitVec.ofNat 64 (2 ^ 63 + 8))

/-! ## Starting copies (R300, R301, R312) -/

/-- The next copy id: modulo 2^32, 0 skipped. -/
def nextId (n : Nat) : Nat := if (n + 1) % 2 ^ 32 == 0 then 1 else (n + 1) % 2 ^ 32

/-- Copies a tile-walk engine holds. -/
def engineLoad (s : State) (cl : Nat) : Nat := (s.copies.filter (fun c => c.cluster == cl && !c.gathers && !c.done)).length

/-- Changes a copy. -/
def modCopy (s : State) (uid : Nat) (f : Copy → Copy) : State := { s with copies := replaceFirst (fun c => c.uid == uid) f s.copies }

/-- The status kept for its strand (R309). -/
def setStat (s : State) (c : Copy) (st : CopyState) : State :=
  match c.kind with
  | .node _ _ => s
  | _ =>
    let upd (r : CopyStat) : CopyStat := { r with done := c.entered % 2 ^ 32, bad := c.bad, state := st }
    s.modStrand c.owner (fun x => { x with ext := { x.ext with copies := replaceFirst (fun r => r.id == c.id) upd x.ext.copies } })

/-- Whether a copy still owes chunk bits. -/
def owesBits (c : Copy) : Bool := c.mreg.isSome && c.numbers.any (fun n => !c.chunkDone.contains (c.chunkOf n))

/-- A copy whose transfers have all entered and whose stamp, if any, is written has completed (R307). -/
def finishCopy (s : State) (uid : Nat) (stamped : Bool) : State :=
  match s.copies.find? (fun c => c.uid == uid) with
  | some c =>
    if c.entered == c.total && c.rtrains.isEmpty && (c.sta = 0 || stamped) && c.moving && (c.slot.isNone || c.taken || c.total == 0) && !c.done then
      let s := setStat s c .done
      if owesBits c then modCopy s uid (fun c => { c with done := true }) else { s with copies := s.copies.filter (fun c => c.uid != uid) }
    else s
  | none => s

/-- The copy joins its engine with the strand's next id; only the 64 most recent keep a status. -/
def joinCopy (s : State) (rs : List SReg) (d : SReg) (c : Copy) : Out :=
  let id := s.cpu.ext.nextCopy
  let (uid, s) := s.fresh
  let c := { c with uid := uid, id := id }
  let stat : CopyStat := { id := id, done := 0, bad := c.bad, cause := 0, state := if c.moving then .moving else .waiting }
  let s := s.withExt (fun x => { x with nextCopy := nextId id, copies := (x.copies ++ [stat]).drop (x.copies.length - 63) })
  let s := { s with copies := s.copies ++ [c] }
  match retire s rs d (BitVec.ofNat 64 id) with
  | .next s => .next (finishCopy s uid false)
  | o => o

/-- Every earlier write of the strand has visibility S (R300, R313, R337). -/
def writesDone (s : State) (x : Strand) (sc : Scope) : Bool := scalarDone s x sc none && trainsDone s x sc none

/-- The clusters a copy's slot lies at: the issuer's, or those `cpmc` names in its octet (R301). -/
def targetsOf (s : State) (mc : Bool) (set : Word) : List Nat :=
  if mc then ((List.range 8).filter (fun j => set.getLsbD j)).map (fun j => 8 * octetOf s.cpu.cluster + j) else [s.cpu.cluster]

/-- Steps 4 and 5 of a copy instruction: the probe pass, then room in the queue. -/
def copyProbe (s : State) (f : Nat) (rs : List SReg) (d a b : SReg) (set : Word) (ws : List Word) : Out :=
  let frec := ws.getD 5 0
  let room (s : State) (c : Copy) : Out :=
    if !c.gathers && decide (64 ≤ engineLoad s s.cpu.cluster) then .next (s.waitFor (.copyRoom f d a b c)) else joinCopy s rs d c
  if f == 2 then
    match probeGather (probeFor s) (copyOfBlock s ws) ws s with
    | .error e => onStop rs d e
    | .ok g => if g.p.miss.isEmpty then room g.p.s { g.c with pins := g.p.pins } else onMisses g.p.s frec 1 g.p.miss g.emask
  else
    let c := copyOfRecord s (if f == 3 then .mc else .go) (targetsOf s (f == 3) set) s.cpu.ext.dm.toList ws
    match probeCopy (probeFor s) c s with
    | .error e => onStop rs d e
    | .ok p => if p.miss.isEmpty then room p.s { c with pins := p.pins } else onMisses p.s frec 2 p.miss []

/-- The scope a copy instruction waits for before its pass (R300, R313). -/
def copyScope (f : Nat) : Scope := if f == 2 then .device else .cluster

/-- Step 3: the earlier writes. -/
def copyGate (s : State) (f : Nat) (rs : List SReg) (d a b : SReg) (set : Word) (ws : List Word) : Out :=
  if writesDone s s.cpu (copyScope f) then copyProbe s f rs d a b set ws else .next (s.waitFor (.copyRec f d a b ws))

/-- The bytes of scratchpad the cpu's task holds. -/
def spadSize (s : State) : Nat := match taskOf s s.cpu with | some t => t.spadLen | none => 0

/-- cpgo (1), cpgat (2) and cpmc (3): a wait goes on where it stopped. -/
def startCopy (s : State) (word f : Nat) (d a b : SReg) : Out :=
  let rs := if f == 3 then [a, b] else [a]
  taskOnly s word (readS s word rs (some d) (fun vs =>
    let va := opd vs 0
    let set := opd vs 1
    match s.cpu.wait with
    | some (.epark w) => .next (s.waitFor (.epark w))
    | some (.copyRoom f d a b c) =>
      if 64 ≤ engineLoad s s.cpu.cluster then .next (s.waitFor (.copyRoom f d a b c)) else joinCopy s rs d c
    | some (.copyRec f d a b ws) => copyGate s f rs d a b set ws
    | _ =>
      if va.toNat % 64 != 0 then trap s Cause.aln va
      else match readDwords s va (List.range 8) with
        | .error (x, e) => stopAt s x e
        | .ok (ws, s1) =>
          let code := if f == 2 then streamCode (spadSize s) ws else copyCode (f == 3) set s.cpu.ext.dm.toList ws
          if code != 0 then retire s1 rs d (BitVec.ofNat 64 (2 ^ 63 + code))
          else copyGate s1 f rs d a b set ws))

/-- R300. -/
def execCpgo (d a : SReg) (s : State) : Out := startCopy s (Late.word (.cpgo d a)) 1 d a 0

/-- R312, R313. -/
def execCpgat (d a : SReg) (s : State) : Out := startCopy s (Late.word (.cpgat d a)) 2 d a 0

/-- R301. -/
def execCpmc (d a b : SReg) (s : State) : Out := startCopy s (Late.word (.cpmc d a b)) 3 d a b

/-- The codes of Table 14.7. -/
def CopyState.code : CopyState → Nat | .waiting => 1 | .moving => 2 | .done => 3 | .failed => 4

/-- R309. -/
def execCpstat (d a : SReg) (s : State) : Out :=
  let word := Late.word (.cpstat d a)
  taskOnly s word (readS s word [a] (some d) (fun vs =>
    retire s [a] d (match s.cpu.ext.copies.find? (fun r => BitVec.ofNat 64 r.id == opd vs 0) with
      | some r => BitVec.ofNat 64 (r.done * 2 ^ 32 + Nat.min r.bad 65535 * 65536 + r.cause * 256 + r.state.code)
      | none => 0)))

/-! ## Slots (R302, R303) -/

/-- R302. -/
def execPermit (a b : SReg) (s : State) : Out :=
  let word := Late.word (.permit a b)
  taskOnly s word (readS s word [a, b] none (fun vs =>
    let v := opd vs 0
    let len := bitsOf v 47 27
    let off := bitsOf v 26 6
    let num := bitsOf v 5 0
    let tid := (tidOf s.cpu.id).getD 0
    let old := (s.cluster s.cpu.cluster).slots.find? (fun x => x.num == num)
    if bitsOf v 63 48 != 0 || len % 64 != 0 || len == 0 || off % 64 != 0 || decide (spadSize s < off + len) then fmtTrap s a.toNat
    else if old.any (fun x => x.tid != tid) then fmtTrap s 0x39
    else if old.any (fun x => x.permits != 0 && (x.off != off || x.len != len)) then fmtTrap s 0x39
    else
      let n := (old.map (·.permits)).getD 0 + (opd vs 1).toNat
      if 65535 < n then fmtTrap s b.toNat
      else
        let (id, s) := match old with | some x => (x.uid, s) | none => s.fresh
        let slot : Slot := { num := num, uid := id, tid := tid, off := off, len := len, permits := n }
        retire0 (s.modCluster s.cpu.cluster (fun (c : Cluster) => { c with slots := upsert (fun x => x.num == num) slot c.slots })) [a, b]))

/-- The slot a copy writes at a cluster, of a task of its own tenant (R402): the one it has taken its permit from, once it has (R303). -/
def slotAt (s : State) (c : Copy) (cl : Nat) : Option Slot :=
  match c.slot with
  | some k => (s.cluster cl).slots.find? (fun x => x.num == k && (!c.taken || c.holds.contains (cl, x.uid)) &&
      (match s.task? x.tid with | some t => t.tenant == c.tenant | none => false))
  | none => none

/-- R303: a copy takes one permit at each target, in the order copies started. -/
def execSlotPermitTake (u : Nat) (s : State) : Out :=
  match s.copies.find? (fun c => c.uid == u) with
  | some c =>
    let ahead := s.copies.any (fun x => x.tenant == c.tenant && x.moving && !x.taken && x.slot.isSome && x.slot == c.slot && decide (x.uid < u) &&
      x.targets.any (fun t => c.targets.contains t))
    if c.moving && !c.taken && c.slot.isSome && !ahead &&
        c.targets.all (fun t => match slotAt s c t with | some x => x.permits != 0 | none => false) then
      let take (x : Slot) : Slot := { x with permits := x.permits - 1 }
      let holds := c.targets.filterMap (fun t => (slotAt s c t).map (fun x => (t, x.uid)))
      let s := c.targets.foldl (fun (s : State) t =>
        s.modCluster t (fun (k : Cluster) => { k with slots := replaceFirst (fun x => some x.num == c.slot) take k.slots })) s
      let s := setStat (modCopy s u (fun c => { c with taken := true, holds := holds })) c .moving
      .next (finishCopy s u false)
    else .next s
  | none => .next s

/-! ## The moves of a copy -/

/-- R300: the engine of a cluster starts the next copy of its queue. -/
def execCopyStart (c : Nat) (s : State) : Out :=
  match s.copies.find? (fun x => x.cluster == c && !x.moving && issues s c) with
  | some x =>
    let s := modCopy s x.uid (fun x => { x with moving := true })
    let s := if x.slot.isNone then setStat s x .moving else s
    .next (finishCopy s x.uid false)
  | none => .next s

/-- R300: a strand that waits for room joins the queue. -/
def execCopyQueueAdmit (t : StrandId) (s : State) : Out :=
  match s.strand? t with
  | some x => match x.wait with
    | some (.copyRoom f d a b _) => if x.resid == .on && issues s x.cluster then startCopy (s.focus t) 0 f d a b else .next s
    | _ => .next s
  | none => .next s

/-- Transfer n as far as it has come. -/
def Copy.part (c : Copy) (n : Nat) : Option Xfer := c.parts.find? (fun p => p.n == n)

/-- A transfer that begins. -/
def Xfer.start (c : Copy) (n : Nat) : Xfer :=
  let targets := if c.slot.isSome then c.targets.length else 1
  { n := n, src := List.replicate c.srcLen none, left := (List.range targets).flatMap (fun t => (List.range c.dstLen).map (t, ·)) }

/-- The bytes of some runs of locations one by one. -/
def eachByte (ls : List (Word × Loc × Nat)) : List Loc := ls.flatMap (fun l => (List.range l.2.2).map l.2.1.add)

/-- Why transfer n fails: a poisoned source byte that it has not read, or a slot it would leave (R308, R303). -/
def xferFault (s : State) (c : Copy) (n : Nat) : Option Nat :=
  match copyLocs s c c.srcLen (c.srcOf n) c.srcLen with
  | none => some Cause.xlt
  | some ls =>
    let bad := match c.part n with
      | none => ls.any (fun l => enginePoison s c l.2.1 l.2.2)
      | some p => ((eachByte ls).zip p.src).any (fun x => x.2.isNone && enginePoison s c x.1 1)
    if bad then some Cause.ecc
    else if c.slot.isSome && c.targets.any (fun t => match slotAt s c t with
        | some x => decide (x.len < (c.dstOf n).toNat + c.dstLen)
        | none => true) then some Cause.prm
    else none

/-- Whether transfer n may be made: a cluster that switches regulators begins none on its engine (R380). -/
def canMove (s : State) (c : Copy) (n : Nat) : Bool :=
  c.moving && !c.done && (c.slot.isNone || c.taken) && c.numbers.contains n && !c.made.contains n &&
  (c.gathers || issues s c.cluster || (c.part n).isSome)

/-- Starts the remote trains of a transfer, one for each destination device (R328). -/
def copyTrains (s : State) (n : Nat) (c : Copy) (rem : List (Nat × Nat × RElem)) : State :=
  let first := s.dev.nextUid
  (remoteDests rem).foldl (fun s d =>
    let es := (rem.filter (fun x => x.1 == d.1 && x.2.1 == d.2)).map (·.2.2)
    let begun := (s.copies.find? (fun k => k.uid == c.uid)).bind (fun k =>
      (k.rtrains.find? (fun r => r.1 == n && r.2.ddev == d.1 && decide (first ≤ r.2.id))).map (·.2.train))
    let (id, s) := s.fresh
    let t : RTrain := { id := id, train := begun.getD id, ddev := d.1, win := d.2, elems := es, addFmt := none, sent := 0, closed := true,
                        tailSent := false, seq := 0, ordered := true, vec := false, amo := none, order := 0, pc := 0 }
    modCopy s c.uid (fun k => { k with rtrains := k.rtrains ++ [(n, t)] })) s

/-- A transfer has entered. -/
def xferEntered (s : State) (uid : Nat) : State :=
  let s := modCopy s uid (fun c => { c with entered := c.entered + 1 })
  match s.copies.find? (fun c => c.uid == uid) with
  | some c => finishCopy (setStat s c .moving) uid false
  | none => s

/-- Writes an image at runs of locations for a copy's owner; remote pieces are gathered for trains. -/
def putRuns (c : Copy) : List (Word × Loc × Nat) → List Byte → State → List (Nat × Nat × RElem) →
    State × List (Nat × Nat × RElem)
  | [], _, s, rem => (s, rem)
  | (va, l, n) :: rs, bs, s, rem =>
    match l with
    | .remote d w o => putRuns c rs (bs.drop n) s (rem ++ [(d, w, { off := o, data := bs.take n, va := va, cnt := 1 })])
    | l => putRuns c rs (bs.drop n) (enter s l (bs.take n) c.owner c.cluster .strand (.payload c.uid) 0) rem

/-- The locations of the runs transfer n writes. -/
def dstLocs (s : State) (c : Copy) (n : Nat) : List (Word × Loc × Nat) :=
  (c.dstRuns n).flatMap (fun r => (copyLocs s c r.2 r.1 r.2).getD [])

/-- What transfer n's image is, from its source as it has been read, what is left read now. -/
def xferImage (s : State) (c : Copy) (n : Nat) : List Byte :=
  let now := ((copyLocs s c c.srcLen (c.srcOf n) c.srcLen).getD []).flatMap (fun l => engineBytes s c l.2.1 l.2.2)
  convImage c (match c.part n with
    | some p => List.zipWith (fun (o : Option Byte) b => o.getD b) p.src now
    | none => now)

/-- Byte k of an image enters at a target (R288, R303); none where it goes to another device. -/
def putByte (s : State) (c : Copy) (n t k : Nat) (b : Byte) : Option State :=
  match c.slot with
  | some _ => match c.targets[t]? with
    | some u => (slotAt s c u).map (fun x => enter s (.spad x.tid (x.off + (c.dstOf n).toNat + k)) [b] c.owner u .cluster (.payload c.uid) 0)
    | none => none
  | none => match (eachByte (dstLocs s c n))[k]? with
    | some (.remote _ _ _) => none
    | some l => some (enter s l [b] c.owner c.cluster .strand (.payload c.uid) 0)
    | none => none

/-- What is left of transfer n at its targets enters at once: whole images, or the bytes that are left. -/
def putSlots (s : State) (c : Copy) (n : Nat) (img : List Byte) : State :=
  let left := ((c.part n).map (·.left)).getD (Xfer.start c n).left
  ((c.targets.mapIdx (fun t u => (t, u))).foldl (fun (s : State) x =>
    let ks := (left.filter (fun y => y.1 == x.1)).map (·.2)
    if ks.length == c.dstLen then match slotAt s c x.2 with
      | some sl => enter s (.spad sl.tid (sl.off + (c.dstOf n).toNat)) img c.owner x.2 .cluster (.payload c.uid) 0
      | none => s
    else ks.foldl (fun s k => (putByte s c n x.1 k (img.getD k 0)).getD s) s) s)

/-- The runs of transfer n that are left to write: whole, or byte by byte. -/
def leftRuns (s : State) (c : Copy) (n : Nat) (img : List Byte) : List (Word × Loc × Nat) × List Byte :=
  let runs := dstLocs s c n
  match c.part n with
  | none => (runs, img)
  | some p =>
    if p.left.length == c.dstLen then (runs, img)
    else
      let bytes := runs.flatMap (fun r => (List.range r.2.2).map (fun i => (r.1 + BitVec.ofNat 64 i, r.2.1.add i, 1)))
      let ks := p.left.map (·.2)
      (ks.filterMap (fun k => bytes[k]?), ks.map (fun k => img.getD k 0))

/-- One transfer or row, or what is left of it: read, convert, write (R296, R298, R303). A failing one writes nothing (R308). -/
def makeXfer (s : State) (c : Copy) (n : Nat) : State :=
  match xferFault s c n with
  | some cause => failCopy s c.uid cause (some n)
  | none =>
    let img := xferImage s c n
    let s1 := modCopy s c.uid (fun k => { k with made := k.made ++ [n], parts := k.parts.filter (fun p => p.n != n) })
    match c.slot with
    | some _ => xferEntered (putSlots s1 c n img) c.uid
    | none =>
      let (rs, bs) := leftRuns s c n img
      let (s2, rem) := putRuns c rs bs s1 []
      if rem.isEmpty then xferEntered s2 c.uid else copyTrains s2 n c rem

/-- Transfer n reads byte i of its source (R310). -/
def grabByte (u n i : Nat) (s : State) : State :=
  match s.copies.find? (fun c => c.uid == u) with
  | some c =>
    let p := (c.part n).getD (Xfer.start c n)
    if canMove s c n && (xferFault s c n).isNone && p.src[i]? == some none then
      match (eachByte ((copyLocs s c c.srcLen (c.srcOf n) c.srcLen).getD []))[i]? with
      | some l =>
        let p1 := { p with src := p.src.set i ((engineBytes s c l 1).head?) }
        modCopy s u (fun k => { k with parts := upsert (fun q => q.n == n) p1 k.parts })
      | none => s
    else s
  | none => s

/-- Byte k of the image of transfer n enters at a target, once the whole source has been read (R288, R310).
DEDUCED, log entry 58: a transfer writes nothing before it has read all of its source, as a failing one writes nothing (R308). -/
def enterByte (u n t k : Nat) (s : State) : State :=
  match s.copies.find? (fun c => c.uid == u) with
  | some c => match c.part n with
    | some p =>
      if canMove s c n && (xferFault s c n).isNone && p.src.all Option.isSome && p.left.contains (t, k) then
        match putByte s c n t k ((xferImage s c n).getD k 0) with
        | some s => modCopy s u (fun q => { q with parts := upsert (fun q => q.n == n) { p with left := p.left.erase (t, k) } q.parts })
        | none => s
      else s
    | none => s
  | none => s

/-- R296. -/
def execTransfer (u n : Nat) (s : State) : Out :=
  match s.copies.find? (fun c => c.uid == u) with
  | some c => .next (if canMove s c n && !c.gathers then makeXfer s c n else s)
  | none => .next s

/-- R313. -/
def execGatherRow (u e : Nat) (s : State) : Out :=
  match s.copies.find? (fun c => c.uid == u) with
  | some c => .next (if canMove s c e && c.gathers then makeXfer s c e else s)
  | none => .next s

/-- R308: a transfer whose source is poisoned, or which would leave its slot, fails its copy. -/
def execCopyFail (u cause n : Nat) (s : State) : Out :=
  match s.copies.find? (fun c => c.uid == u) with
  | some c => .next (if canMove s c n && xferFault s c n == some cause then failCopy s u cause (some n) else s)
  | none => .next s

/-- Whether every transfer of chunk j has entered. -/
def chunkEntered (c : Copy) (j : Nat) : Bool :=
  c.numbers.any (fun n => c.chunkOf n == j) &&
  c.numbers.all (fun n => c.chunkOf n != j || (c.made.contains n && !c.rtrains.any (fun r => r.1 == n)))

/-- Whether the owner's mask registers still take the bits (R306): its task is there, and not parked by `park`. -/
def takesBits (s : State) (c : Copy) : Bool :=
  match c.kind, tidOf c.owner with
  | .node _ _, _ => false
  | _, some tid => match s.task? tid with | some t => !(t.state == .parked && t.slim) | none => false
  | _, none => false

/-- R288, R306: the writes entered on behalf of the owner, so they are visible to it. -/
def execChunkDone (u j : Nat) (s : State) : Out :=
  match s.copies.find? (fun c => c.uid == u) with
  | some c =>
    match c.mreg with
    | some k =>
      if chunkEntered c j && !c.chunkDone.contains j then
        let orBit (f : RegFile) : RegFile := { f with m := f.m.setIfInBounds k (f.m.getD k 0 ||| (1#1024 <<< j)) }
        let bit (x : Strand) : Strand := { x with regs := orBit x.regs }
        let s1 := if takesBits s c then s.modStrand c.owner bit else s
        let c1 := { c with chunkDone := c.chunkDone ++ [j] }
        .next (if c1.done && !owesBits c1 then { s1 with copies := s1.copies.filter (fun c => c.uid != u) } else modCopy s1 u (fun _ => c1))
      else .next s
    | none => .next s
  | none => .next s

/-- Whether an earlier copy of the same engine holds this one's remote stamp back (R329). -/
def stampHeld (s : State) (c : Copy) : Bool :=
  match stampKey c with
  | some k => s.copies.any (fun x => x.cluster == c.cluster && decide (x.uid < c.uid) && !x.done && stampKey x == some k)
  | none => false

/-- A payload write of the copy is not visible everywhere yet. -/
def payloadNarrow (s : State) (c : Copy) : Bool := s.log.any (fun r => r.tag == .payload c.uid && !visAtLeast r.loc r.vis .system)

/-- The sender that a copy's payload reaches this device's own windows as (R315). -/
def farPayload (s : State) (c : Copy) : Option (Nat × Nat) :=
  if c.pins.any (fun p => match p.loc with | .remote _ _ _ => true | _ => false) then some (s.dev.h.devid.toNat, c.tenant) else none

/-- R307, R289: the stamp of a copy all of whose transfers have entered. A remote stamp goes out as a message (R328), once every agent
of this device and its hosts sees what the copy has written here. -/
def copyStamp (send : State → Copy → Nat × Nat × Nat → State) (u : Nat) (s : State) : Out :=
  match s.copies.find? (fun c => c.uid == u) with
  | some c =>
    if c.moving && !c.done && c.entered == c.total && c.rtrains.isEmpty && (c.slot.isNone || c.taken || c.total == 0) && c.sta != 0 &&
        c.stampSeq.isNone then
      match pinLoc c.pins c.sta.toNat with
      | some (.remote d w o) => .next (if stampHeld s c || payloadNarrow s c then s else send s c (d, w, o))
      | some l =>
        if poisonedEnd s l 8 then .next (failCopy s u Cause.ecc none)
        else
          let bs := stampMax (hide s l (lastBytes s l 8)) c.stv
          .next (finishCopy (enter s l bs c.owner c.cluster .strand (.stamp (some u) (farPayload s c)) 0) u true)
      | none => .next s
    else .next s
  | none => .next s

/-! ## Pins (R305) -/

/-- Whether transfer n of a copy touches a page. -/
def touchesPage (c : Copy) (n : Nat) (p : PinPage) : Bool :=
  let hit (a : Word) (m : Nat) : Bool := decide (a.toNat < p.va + p.size ∧ p.va < a.toNat + m)
  hit (c.srcOf n) c.srcLen || (c.slot.isNone && (c.dstRuns n).any (fun r => hit r.1 r.2))

/-- Whether a copy still holds a pin: a transfer that touches the page has not entered, or, chunked, its chunk is not done; the
stamp's page stays until the stamp is written. -/
def holdsPin (c : Copy) (p : PinPage) : Bool :=
  (!c.done && c.sta != 0 && decide (p.va ≤ c.sta.toNat ∧ c.sta.toNat < p.va + p.size)) ||
  c.numbers.any (fun n => touchesPage c n p &&
    (!c.made.contains n || c.rtrains.any (fun r => r.1 == n) || (c.mreg.isSome && !c.chunkDone.contains (c.chunkOf n))))

/-- Whether a cached translation's page is pinned: by a copy, by an instruction that waits for room in a queue, by a launch or
by a window. -/
def pinned (s : State) (mark : Nat) : Bool :=
  s.copies.any (fun c => c.pins.any (fun p => p.mark == mark && holdsPin c p)) ||
  s.strands.any (fun x => match x.wait with
    | some (.copyRoom _ _ _ _ c) => c.pins.any (fun p => p.mark == mark)
    | _ => false) ||
  s.launches.any (fun l => l.pins.contains mark) ||
  s.tenantsX.any (fun t => t.rwins.any (fun w => w.pages.any (fun p => p.mark == mark)))

end Sys2Proof.Machine
end

