-- ==== Sys2Proof/Machine/Fabric.lean ====
section
/-! DEFINITION. Remote traffic (R315 to R329): the messages a device sends for its trains, atomics and stamps, what it does with
the messages it receives, and the receive windows. -/

namespace Sys2Proof.Machine

/-! ## Streams (R317, R318) -/

/-- The name of a stream at its sender: destination device, window, sending tenant. -/
structure TxKey where
  ddev : Nat
  win  : Nat
  sten : Nat
  deriving DecidableEq, Repr

def TxStream.key (t : TxStream) : TxKey := ⟨t.ddev, t.win, t.sten⟩

/-- A stream as its sender holds it; one that has sent nothing starts at SEQ 0. -/
def txOf (s : State) (k : TxKey) : TxStream :=
  (s.dev.tx.find? (fun t => t.key == k)).getD
    { ddev := k.ddev, win := k.win, sten := k.sten, epoch := 0, seq := 0, unacked := [], idleNs := 0, resendNs := 0 }

def setTx (s : State) (t : TxStream) : State := s.withDev (fun d => { d with tx := upsert (fun x => x.key == t.key) t d.tx })

/-- This device's id. -/
def devId (s : State) : Nat := s.dev.h.devid.toNat

/-- A message leaves the device; one to this device itself takes the loopback path, which never leaves the package (R315). -/
def emit (s : State) (m : RMsg) : State :=
  s.withDev (fun d => if m.ddev = d.h.devid then { d with inbox := d.inbox ++ [m] } else { d with out := d.out ++ [.remote m] })

/-- Sends the next message of a stream; the answer is its SEQ. -/
def sendMsg (s : State) (k : TxKey) (ty off : Nat) (data : List Byte) (ecnt op size : Nat) : State × Nat :=
  let t := txOf s k
  let m : RMsg := { ty := ty, seq := BitVec.ofNat 32 t.seq, sdev := s.dev.h.devid, ddev := BitVec.ofNat 16 k.ddev,
                    sten := BitVec.ofNat 5 k.sten, win := BitVec.ofNat 4 k.win, off := off, ecnt := BitVec.ofNat 16 ecnt, stat := 0,
                    ver := 1, data := data, op := op, size := size }
  let fresh := t.unacked.isEmpty
  (emit (setTx s { t with seq := (t.seq + 1) % 2 ^ 32, unacked := t.unacked ++ [m],
                          idleNs := if fresh then 0 else t.idleNs, resendNs := if fresh then 0 else t.resendNs }) m, t.seq)

/-! ## Sending trains (R320, R321, R328) -/

/-- Contiguous elements of one size travel in one data message of at most 4,096 bytes: (offset, bytes, bytes of an element, how many
elements those bytes hold). -/
def packRuns : List RElem → List (Nat × List Byte × Nat × Nat)
  | [] => []
  | e :: es =>
    match packRuns es with
    | (o, bs, z, c) :: rs =>
      if e.off + e.data.length == o && e.data.length == z && e.cnt == c && decide (e.data.length + bs.length ≤ 4096) then
        (e.off, e.data ++ bs, z, c) :: rs
      else (e.off, e.data, e.data.length, e.cnt) :: (o, bs, z, c) :: rs
    | [] => [(e.off, e.data, e.data.length, e.cnt)]

/-- How a data message says what its elements do: 0 a write, else the addition's format plus 1; 64 more for an unordered form, and 128
more for each element beyond the first that shares its bytes. -/
def elemOpCode (t : RTrain) (cnt : Nat) : Nat := (match t.addFmt with | some f => f + 1 | none => 0) + (if t.ordered then 0 else 64) + 128 * (cnt - 1)

/-- How many elements some units hold. -/
def countElems (es : List RElem) : Nat := (es.map (·.cnt)).sum

/-- The unit that holds element i. -/
def elemAt : List RElem → Nat → Option RElem
  | [], _ => none
  | e :: es, i => if i < e.cnt then some e else elemAt es (i - e.cnt)

/-- Whether a train has something to send. -/
def hasMore (t : RTrain) : Bool := decide (t.sent < t.elems.length) || (t.closed && !t.tailSent)

/-- Whether part of a train has been sent and its tail has not. -/
def midTrain (t : RTrain) : Bool := t.sent != 0 && !t.tailSent

/-- Sends what a train has: its elements, and its tail once it is closed; or its atomic request. -/
def sendTrain (s : State) (k : TxKey) (t : RTrain) : State × RTrain :=
  match t.amo with
  | some (op, n, v, cmp) =>
    let data := leBytes n v.toNat ++ (if op == 9 then leBytes n cmp.toNat else [])
    let (s, q) := sendMsg s k 5 (match t.elems.head? with | some e => e.off | none => 0) data 0 op n
    (s, { t with sent := t.elems.length, tailSent := true, seq := q })
  | none =>
    let s := (packRuns (t.elems.drop t.sent)).foldl (fun s r => (sendMsg s k 1 r.1 r.2.1 0 (elemOpCode t r.2.2.2) r.2.2.1).1) s
    let t := { t with sent := t.elems.length }
    if t.closed && !t.tailSent then
      let (s, q) := sendMsg s k 2 0 [] (countElems t.elems) 0 0
      (s, { t with tailSent := true, seq := q })
    else (s, t)

/-- Every train there is, with the stream it belongs to. -/
def allTrains (s : State) : List (TxKey × RTrain) :=
  s.strands.flatMap (fun x => x.mem.rtrains.map (fun t => (⟨t.ddev, t.win, x.tenant⟩, t))) ++
  s.copies.flatMap (fun c => c.rtrains.map (fun r => (⟨r.2.ddev, r.2.win, c.tenant⟩, r.2)))

/-- Changes a train wherever it is. -/
def modRTrain (s : State) (id : Nat) (f : RTrain → RTrain) : State :=
  let g (t : RTrain) : RTrain := if t.id == id then f t else t
  let s := s.modStrands (fun x => if x.mem.rtrains.isEmpty then x else { x with mem := { x.mem with rtrains := x.mem.rtrains.map g } })
  { s with copies := s.copies.map (fun (c : Copy) => if c.rtrains.isEmpty then c else { c with rtrains := c.rtrains.map (fun r => (r.1, g r.2)) }) }

/-- Drops a train wherever it is. -/
def dropTrain (s : State) (id : Nat) : State :=
  let s := s.modStrands (fun x => if x.mem.rtrains.isEmpty then x else
    { x with mem := { x.mem with rtrains := x.mem.rtrains.filter (fun t => t.id != id) } })
  { s with copies := s.copies.map (fun (c : Copy) => if c.rtrains.isEmpty then c else { c with rtrains := c.rtrains.filter (fun r => r.2.id != id) }) }

/-- Whether one strand sends two trains. -/
def sameStrand (s : State) (a b : Nat) : Bool :=
  s.strands.any (fun x => x.mem.rtrains.any (fun t => t.id == a) && x.mem.rtrains.any (fun t => t.id == b))

/-- Trains of one stream go one after another, as no message names its train: a train may send while no other of its stream is under
way. It follows the earlier ones of its own strand to the window (R290), and no other strand's or copy's (R327). -/
def maySend (s : State) (ts : List (TxKey × RTrain)) (k : TxKey) (t : RTrain) : Bool :=
  ts.all (fun u => u.1 != k || u.2.id == t.id || (!midTrain u.2 && (u.2.tailSent || decide (t.id < u.2.id) || !sameStrand s t.id u.2.id)))

/-- The earliest failure of a strand in program order stands (R325). -/
def recordFail (x : Strand) (cause : Nat) (va : Word) (order : Nat) : Strand :=
  let r : RFail := { cause := cause, va := va, order := order }
  match x.ext.rfail with
  | some old => if order < old.order then { x with ext := { x.ext with rfail := some r } } else x
  | none => { x with ext := { x.ext with rfail := some r } }

/-- A train fails with a cause: element i is the first that did not enter. A copy's train fails its copy (R328), an AMO raises
the cause (R321), any other is recorded (R325). -/
def failTrain (s : State) (t : RTrain) (cause i : Nat) : State :=
  let va := (match elemAt t.elems i with | some e => e.va | none => (match t.elems.head? with | some e => e.va | none => 0))
  match s.copies.find? (fun c => c.rtrains.any (fun r => r.2.id == t.id)) with
  | some c => failCopy s c.uid cause ((c.rtrains.find? (fun r => r.2.id == t.id)).map (·.1))
  | none =>
    match s.strands.find? (fun x => x.mem.rtrains.any (fun u => u.id == t.id)) with
    | some x =>
      let s := dropTrain s t.id
      match t.amo, x.wait with
      | some _, some (.remoteAmo _ id) =>
        if id == t.id then let s := s.focus x.id; takeTrapAt s cause va s.pc else s
      | some _, _ => s
      | none, _ => s.modStrand x.id (fun x => recordFail x cause va t.order)
    | none => s

/-- An earlier fence of its strand holds a train back, as its arrival counts as an Enter (R327, Table 13.3). -/
def heldTrain (s : State) (t : RTrain) : Bool :=
  s.strands.any (fun x => x.mem.rtrains.any (fun u => u.id == t.id) && (x.mem.fenced t.id || (!t.vec && x.mem.draining t.id)))

/-- One train's turn to send; without a device id nothing is sent and the operation fails with PRM (R315). -/
def pumpOne (s : State) (k : TxKey) (id : Nat) : State :=
  let ts := allTrains s
  match ts.find? (fun u => u.2.id == id) with
  | some u =>
    if s.dev.h.devid = 0xFFFF then (if u.2.closed then failTrain s u.2 Cause.prm 0 else s)
    else if hasMore u.2 && maySend s ts k u.2 && !heldTrain s u.2 then
      let (s, t) := sendTrain s k u.2
      modRTrain s id (fun _ => t)
    else s
  | none => s

/-- Sends everything that may be sent. -/
def pump (s : State) : State :=
  if s.strands.all (fun x => x.mem.rtrains.isEmpty) && s.copies.all (fun c => c.rtrains.isEmpty) then s
  else (allTrains s).foldl (fun s u => pumpOne s u.1 u.2.id) s

/-- R307, R289, R328. -/
def execCopyStamp (u : Nat) (s : State) : Out :=
  copyStamp (fun s c w =>
    if s.dev.h.devid = 0xFFFF then failCopy s c.uid Cause.prm none
    else
      let (s, q) := sendMsg s ⟨w.1, w.2.1, c.tenant⟩ 7 w.2.2 (leBytes 8 c.stv.toNat) 0 0 8
      modCopy s c.uid (fun c => { c with stampSeq := some q })) u s

/-! ## Answers (R318, R325) -/

/-- The stream a message answers. -/
def answerKey (m : RMsg) : TxKey := ⟨m.sdev.toNat, m.win.toNat, m.sten.toNat⟩

/-- Whether a message can arrive now: one from this device itself is the next of its kind and stream that has not arrived; from
another device, any (R315, R318). It is for this device and of version 1; others are discarded. -/
def isAnswer (m : RMsg) : Bool := m.ty == 3 || m.ty == 4 || m.ty == 6

def arrives (s : State) (m : RMsg) : Bool :=
  s.dev.h.devid != 0xFFFF && m.ver == 1 && m.ddev == s.dev.h.devid &&
  (m.sdev != s.dev.h.devid ||
    s.dev.inbox.find? (fun x => x.win == m.win && x.sten == m.sten && isAnswer x == isAnswer m) == some m)

/-- A message has arrived. -/
def arrived (s : State) (m : RMsg) : State :=
  if m.sdev = s.dev.h.devid then s.withDev (fun d => { d with inbox := d.inbox.erase m }) else s

/-- The messages up to the one with this SEQ are acknowledged. -/
def ackUpTo (s : State) (k : TxKey) (seq : Nat) : State :=
  let t := txOf s k
  match t.unacked.findIdx? (fun m => m.seq.toNat == seq) with
  | some i => setTx s { t with unacked := t.unacked.drop (i + 1), idleNs := 0, resendNs := 0 }
  | none => s

/-- The train whose tail or request carried this SEQ. -/
def trainAt (s : State) (k : TxKey) (seq : Nat) : Option RTrain :=
  ((allTrains s).find? (fun u => u.1 == k && u.2.tailSent && u.2.seq == seq)).map (·.2)

/-- The copy whose stamp message carried this SEQ. -/
def stampAt (s : State) (k : TxKey) (seq : Nat) : Option Copy :=
  s.copies.find? (fun c => stampDest c == some (k.sten, k.ddev, k.win) && c.stampSeq == some seq)

/-- A train is acknowledged: its transfer has entered, if a copy sent it. -/
def ackTrain (s : State) (t : RTrain) : State :=
  match s.copies.find? (fun c => c.rtrains.any (fun r => r.2.id == t.id)) with
  | some c =>
    let n := (c.rtrains.find? (fun r => r.2.id == t.id)).map (·.1)
    let s := dropTrain s t.id
    if c.rtrains.any (fun r => r.2.id != t.id && some r.1 == n) then s else xferEntered s c.uid
  | none => dropTrain s t.id

/-- R325: an ack completes its train, or its stamp. -/
def execAckMessage (m : RMsg) (s : State) : Out :=
  if !(arrives s m && m.ty == 3) then .next s
  else
    let k := answerKey m
    let seq := m.seq.toNat
    let s := arrived s m
    match trainAt s k seq with
    | some t => .next (ackUpTo (ackTrain s t) k seq)
    | none => match stampAt s k seq with
      | some c => .next (finishCopy (ackUpTo s k seq) c.uid true)
      | none => .next (ackUpTo s k seq)

/-- The stream starts again (R318): a restart with SEQ 0, then every train from its first element. -/
def restartStream (s : State) (k : TxKey) : State :=
  let n := (txOf s k).epoch + 1
  let s := setTx s { txOf s k with epoch := n, seq := 0, unacked := [], idleNs := 0, resendNs := 0 }
  let s := (sendMsg s k 8 0 [] 0 n 0).1
  let s := (allTrains s).foldl (fun s u =>
    if u.1 == k then modRTrain s u.2.id (fun t => { t with sent := 0, tailSent := false }) else s) s
  { s with copies := s.copies.map (fun (c : Copy) =>
      if stampDest c == some (k.sten, k.ddev, k.win) then { c with stampSeq := none } else c) }

/-- R325, R318: a refusal fails its train or its stamp; RESYNC restarts the stream. -/
def execNackMessage (m : RMsg) (s : State) : Out :=
  if !(arrives s m && m.ty == 4) then .next s
  else
    let k := answerKey m
    let seq := m.seq.toNat
    let s := arrived s m
    -- an answer to what was sent before a restart that is not acknowledged yet asks for no other
    if m.stat = 6 then .next (if (txOf s k).unacked.any (fun u => u.ty == 8) then s else restartStream s k)
    else match trainAt s k seq with
      | some t => .next (failTrain (ackUpTo s k seq) t Cause.prm m.ecnt.toNat)
      | none => match stampAt s k seq with
        | some c => .next (failCopy (ackUpTo s k seq) c.uid Cause.prm none)
        | none => .next s

/-- R321: the response of a remote AMO. -/
def execAtomicResponse (m : RMsg) (s : State) : Out :=
  if !(arrives s m && m.ty == 6) then .next s
  else
    let k := answerKey m
    let seq := m.seq.toNat
    let s := arrived s m
    match trainAt s k seq with
    | some t =>
      let s := ackUpTo s k seq
      if m.stat = 7 then .next (failTrain s t Cause.ecc 0)
      else if m.stat != 0 then .next (failTrain s t Cause.prm 0)
      else match s.strands.find? (fun x => x.mem.rtrains.any (fun u => u.id == t.id)) with
        | some x => match x.wait with
          | some (.remoteAmo r id) =>
            let s := dropTrain s t.id
            let s := if r.order = .sc then drawTicket s else s
            if id == t.id then retire (amoOrdered (s.focus x.id) r.order) (amoReads r) r.d (amoResult r.size (leNat m.data)) else .next s
          | _ => .next (dropTrain s t.id)
        | none => .next s
    | none => .next s

/-- R318: after 20 µs without an acknowledgement the sender sends again from the oldest unacknowledged message. -/
def execResendTimeout (ddev win sten : Nat) (s : State) : Out :=
  let t := txOf s ⟨ddev, win, sten⟩
  .next (if t.unacked.isEmpty || decide (t.resendNs < 20000) then s
         else t.unacked.foldl emit (setTx s { t with resendNs := 0 }))

/-- R318: after 50 ms without progress every train of the stream that is not acknowledged fails with TMO, and so does a stamp on
its way; the stream restarts. -/
def execStreamTimeout (ddev win sten : Nat) (s : State) : Out :=
  let k : TxKey := ⟨ddev, win, sten⟩
  let t := txOf s k
  if t.unacked.isEmpty || decide (t.idleNs < 50000000) then .next s
  else
    let s1 := (allTrains s).foldl (fun s u => if u.1 == k then failTrain s u.2 Cause.tmo 0 else s) s
    let s2 := (s1.copies.filter (fun c => stampDest c == some (sten, ddev, win) && c.stampSeq.isSome)).foldl
      (fun s c => failCopy s c.uid Cause.tmo none) s1
    .next (restartStream s2 k)

/-! ## Receiving (R318, R324) -/

/-- The open window, among all tenants', that a stream's messages go to (R324): the tenant and the window. -/
def windowFor (s : State) (sdev win sten : Nat) : Option (Nat × RWin) :=
  s.tenantsX.findSome? (fun t => (t.rwins.find? (fun w => w.win == win && w.sdev == sdev && w.sten == sten)).map (fun w => (t.num, w)))

def isRx (sdev win sten : Nat) (r : RxStream) : Bool := r.sdev == sdev && r.win == win && r.sten == sten

def rxOf (s : State) (sdev win sten : Nat) : Option RxStream := s.dev.rx.find? (isRx sdev win sten)

def setRx (s : State) (r : RxStream) : State := s.withDev (fun d => { d with rx := upsert (isRx r.sdev r.win r.sten) r d.rx })

/-- Answers a message of a stream: an ack (3), a nack (4) or an atomic response (6). -/
def answer (s : State) (m : RMsg) (ty ecnt stat : Nat) (data : List Byte) : State :=
  emit s { ty := ty, seq := m.seq, sdev := m.ddev, ddev := m.sdev, sten := m.sten, win := m.win, off := 0, ecnt := BitVec.ofNat 16 ecnt,
           stat := BitVec.ofNat 8 stat, ver := 1, data := data, op := 0, size := 0 }

/-- A message in its turn (R318): duplicates and messages out of order are discarded, a stream without state is answered with
RESYNC. -/
def inTurn (s : State) (m : RMsg) (ty : Nat) (k : State → RxStream → Out) : Out :=
  if !(arrives s m && m.ty == ty) then .next s
  else match rxOf s m.sdev.toNat m.win.toNat m.sten.toNat with
    | none => .next (answer (arrived s m) m 4 0 6 [])
    | some r => if r.next == m.seq.toNat then k s r else .next (arrived s m)

/-- The stream has taken a message. -/
def took (r : RxStream) : RxStream := { r with next := (r.next + 1) % 2 ^ 32 }

/-- Consecutive elements of z bytes. -/
def splitElems (z : Nat) (data : List Byte) : List (List Byte) := if z == 0 then [] else chunks z (data.length / z) data

/-- The checks of R324 on one element: the window open, not closing on a train that has not begun, the element wholly below LEN,
the right held. -/
def admits (w : Option (Nat × RWin)) (begun : Bool) (off n : Nat) (atomic : Bool) : Bool :=
  match w with
  | some (_, w) => (!w.closing || begun) && decide (off + n ≤ w.len) && (if atomic then w.a else w.w)
  | none => false

/-- One element arrives in train order. -/
def takeElem (w : Option (Nat × RWin)) (op : Nat) (r : RxStream) (off : Nat) (data : List Byte) : RxStream :=
  let add := if op % 64 == 0 then none else some (op % 64 - 1)
  let r1 := { r with arrived := r.arrived + op / 128 + 1 }
  if r.refused.isSome then r1
  else if admits w (r.arrived != 0) off data.length add.isSome then
    { r1 with queue := r.queue ++ [.elem off data add (decide (op % 128 < 64))] }
  else { r1 with refused := some r.arrived }

/-- R324: the elements of a data message are admitted or refused. -/
def execDataMessage (m : RMsg) (s : State) : Out :=
  inTurn s m 1 (fun s r =>
    let w := windowFor s r.sdev r.win r.sten
    let es := splitElems m.size m.data
    .next (setRx (arrived s m) ((es.mapIdx (fun i d => (m.off + i * m.size, d))).foldl (fun r e => takeElem w m.op r e.1 e.2) (took r))))

/-- R324: a tail ends its train, which is answered once what was admitted has entered. -/
def execTailMessage (m : RMsg) (s : State) : Out :=
  inTurn s m 2 (fun s r =>
    .next (setRx (arrived s m) { took r with queue := r.queue ++ [.tail m.seq.toNat r.arrived r.refused], arrived := 0, refused := none }))

/-- The locations of n bytes at an offset of a window. -/
def windowLocs (w : RWin) : Nat → Nat → Nat → List (Loc × Nat)
  | 0, _, _ => []
  | fuel + 1, off, n =>
    if n == 0 then []
    else match w.pages.find? (fun p => decide (p.va ≤ w.lbase + off ∧ w.lbase + off < p.va + p.size)) with
      | some p =>
        let m := Nat.min n (p.va + p.size - (w.lbase + off))
        (p.loc.add (w.lbase + off - p.va), m) :: windowLocs w fuel (off + m) (n - m)
      | none => []

/-- Every write to some bytes has vis ≥ S (R283). -/
def settledAt (s : State) (l : Loc) (n : Nat) (sc : Scope) : Bool :=
  s.log.all (fun r => !overlaps r.loc r.bytes.length l n || visAtLeast r.loc r.vis sc)

/-- Writes bytes at runs of locations on behalf of another device: vis = device (R290). -/
def putRemote (s : State) (ls : List (Loc × Nat)) (data : List Byte) (tag : WTag) : State :=
  (ls.foldl (fun (a : State × List Byte) l => (enterDev a.1 l.1 (a.2.take l.2) .device tag, a.2.drop l.2)) (s, data)).1

/-- A refused element that was already admitted: it and the rest of its train are dropped, and the tail says so. -/
def refuseFrom (i : Nat) : List RxItem → List RxItem
  | [] => []
  | .elem _ _ _ _ :: rs => refuseFrom i rs
  | .tail q n r :: rs => .tail q n (some (match r with | some j => Nat.min i j | none => i)) :: rs

/-- R290: the next element of a stream enters memory. An addition is one move at the executing unit (R267, R283); at a poisoned
word it is refused. -/
def execRemoteEnter (sdev win sten off : Nat) (data : List Byte) (s : State) : Out :=
  match rxOf s sdev win sten, windowFor s sdev win sten with
  | some r, some (_, w) =>
    match r.queue with
    | .elem o d add ord :: rest =>
      if o != off || d != data then .next s
      else
        let ls := windowLocs w d.length o d.length
        let r1 := { r with queue := rest, entered := r.entered + 1 }
        let tag : WTag := .far sdev sten r.train r.entered ord
        match add with
        | none => .next (setRx (putRemote s ls d tag) r1)
        | some f =>
          if ls.any (fun l => poisonedEnd s l.1 l.2) then
            let inQueue := rest.any (fun i => match i with | .tail _ _ _ => true | _ => false)
            .next (setRx s { r with queue := refuseFrom r.entered rest, refused := if inQueue then r.refused else some r.entered })
          else if !ls.all (fun l => settledAt s l.1 l.2 .device) then .next s
          else
            let old := ls.flatMap (fun l => hide s l.1 (lastBytes s l.1 l.2))
            .next (setRx (putRemote s ls (memAddBytes f old d) tag) r1)
    | _ => .next s
  | _, _ => .next s

/-- R290: a train whose elements have entered is acknowledged, or refused with the index of its first refused element. -/
def execAck (sdev win sten : Nat) (s : State) : Out :=
  match rxOf s sdev win sten with
  | some r =>
    match r.queue with
    | .tail q n refused :: rest =>
      let (id, s) := s.fresh
      let s := setRx s { r with queue := rest, train := id, entered := 0 }
      let m : RMsg := { ty := 2, seq := BitVec.ofNat 32 q, sdev := BitVec.ofNat 16 sdev, ddev := s.dev.h.devid, sten := BitVec.ofNat 5 sten,
                        win := BitVec.ofNat 4 win, off := 0, ecnt := 0, stat := 0, ver := 1, data := [], op := 0, size := 0 }
      .next (match refused with | some i => answer s m 4 i 5 [] | none => answer s m 3 n 0 [])
    | _ => .next s
  | none => .next s

/-- Where an aligned word of a window lies, for an atomic or a stamp; none where it is refused (R322, R324). -/
def atomicLoc (s : State) (m : RMsg) (n : Nat) : Option Loc :=
  match windowFor s m.sdev.toNat m.win.toNat m.sten.toNat with
  | some w => if admits (some w) false m.off n true then ((windowLocs w.2 n m.off n).head?).map (·.1) else none
  | none => none

/-- An atomic request whose turn it is, executed at the executing unit of its word and answered with the word it read (R321). `sum` is
what it reads where its addition is one of several in one move, which writes for it (R283). -/
def remoteAtomic (s : State) (r : RxStream) (m : RMsg) (l : Loc) (sum : Option Nat) : State :=
  let old := match sum with | some v => leBytes m.size v | none => hide s l (lastBytes s l m.size)
  let s1 := match sum, amoNew m.op m.size (leNat old) (leNat (m.data.take m.size)) (leNat (m.data.drop m.size)) with
    | none, some x => enterDev s l (leBytes m.size x) .device .plain
    | _, _ => s
  answer (setRx (arrived s1 m) (took r)) m 6 0 0 old

/-- R321: the checks of a remote atomic, and its execution. -/
def execAtomicRequest (m : RMsg) (s : State) : Out :=
  inTurn s m 5 (fun s r =>
    if !r.queue.isEmpty then .next s
    else match atomicLoc s m m.size with
      | none => .next (answer (setRx (arrived s m) (took r)) m 6 0 5 [])
      | some l =>
        if poisonedEnd s l m.size then .next (answer (setRx (arrived s m) (took r)) m 6 0 7 [])
        else if !settledAt s l m.size .device then .next s
        else .next (remoteAtomic s r m l none))

/-- R328: a stamp message is an atomic maximum at the receiver, after the writes of its sender that have entered (R289).
DEDUCED, log entry 34: no message names its copy, so the stamp follows all of them. -/
def execStampMessage (m : RMsg) (s : State) : Out :=
  inTurn s m 7 (fun s r =>
    if !r.queue.isEmpty then .next s
    else match atomicLoc s m 8 with
      | none => .next (answer (setRx (arrived s m) (took r)) m 4 0 5 [])
      | some l =>
        if poisonedEnd s l 8 then .next (answer (setRx (arrived s m) (took r)) m 4 0 5 [])
        else if !settledAt s l 8 .device then .next s
        else
          let s1 := enterDev s l (stampMax (hide s l (lastBytes s l 8)) (BitVec.ofNat 64 (leNat m.data))) .device
            (.stamp none (some (m.sdev.toNat, m.sten.toNat)))
          .next (answer (setRx (arrived s1 m) (took r)) m 3 0 0 []))

/-- R318: a restart drops what the stream has not finished and is acknowledged; SEQ 1 comes next. A repetition of the restart that the
stream goes on from is discarded. -/
def execRestartMessage (m : RMsg) (s : State) : Out :=
  if !(arrives s m && m.ty == 8) then .next s
  else if (match rxOf s m.sdev.toNat m.win.toNat m.sten.toNat with | some r => r.epoch == m.op | none => false) then .next (arrived s m)
  else
    let (id, s) := (arrived s m).fresh
    .next (answer (setRx s { sdev := m.sdev.toNat, win := m.win.toNat, sten := m.sten.toNat, epoch := m.op, next := 1, queue := [], arrived := 0,
                             refused := none, train := id, entered := 0 }) m 3 0 0 [])

/-! ## Receive windows (R323) -/

/-- The bits of RWOPEN. -/
def rwopen (x : TenantX) : Word := BitVec.ofNat 64 (x.rwins.foldl (fun n w => n ||| 2 ^ w.win) 0)

/-- Why the pages of a window are not found: the status, or what is waited for. -/
inductive WStop where
  | status (n : Nat)
  | wait (va : Word) (e : MStop)
  deriving DecidableEq, Repr

/-- The pages of a window, under a translation: their list, or the status NOTRES (3) or KIND (4); MIG waits, but for the pages waited
for in vain. -/
def windowPages (c : XCtx) (vain : List Nat) : Nat → Word → Nat → List PinPage → State → Except WStop (List PinPage × State)
  | 0, _, _, ps, s => .ok (ps, s)
  | fuel + 1, va, n, ps, s =>
    if n == 0 then .ok (ps, s)
    else match translate s c va false true false true with
      | .error .prm => .error (.status 4)
      | .error (.newer .prm) => .error (.status 4)
      | .error .mig => .error (if vain.contains (pageNo va) then .status 3 else .wait va .mig)
      | .error .changed => .error (.wait va .held)
      | .error _ => .error (.status 3)
      | .ok k => match k.loc with
        | .dev _ =>
          let m := Nat.min n (k.room va)
          windowPages c vain fuel (va + BitVec.ofNat 64 m) (n - m) (ps ++ [pinOf k va]) k.s
        | _ => .error (.status 4)

/-- Whether a window has no train under way: none begun, none whose answer is due. -/
def windowQuiet (s : State) (w : RWin) : Bool :=
  match rxOf s w.sdev w.win w.sten with
  | some r => r.queue.isEmpty && r.arrived == 0
  | none => true

/-- Closes a window: its pages are unpinned and its streams forgotten. -/
def dropWindow (s : State) (tn win : Nat) : State :=
  let ws := (s.tenX tn).rwins.filter (fun w => w.win == win)
  let s := s.modTenX tn (fun (x : TenantX) => { x with rwins := x.rwins.filter (fun w => w.win != win) })
  s.withDev (fun d => { d with rx := d.rx.filter (fun r => !ws.any (fun w => isRx w.sdev w.win w.sten r)) })

/-- Step by step, an open. -/
def openWindow (s : State) (d a : SReg) (ws : List Word) : Out :=
  let w (i : Nat) : Word := ws.getD i 0
  let st (s : State) (n : Nat) : Out := retire s [a] d (BitVec.ofNat 64 n)
  let lbase := w 0
  let len := (w 1).toNat
  let win := bitsOf (w 2) 28 25
  let sten := bitsOf (w 2) 24 20
  let sdev := bitsOf (w 2) 15 0
  let tn := s.cpu.tenant
  if lbase.toNat % 4096 != 0 || len % 4096 != 0 || len == 0 || decide (2 ^ 40 < len) then st s 2
  else if (s.tenX tn).rwins.any (fun x => x.win == win) || (windowFor s sdev win sten).isSome then st s 1
  else
    match windowPages { ctxOf s s.cpu with user := false } (migOver s.cpu) (len / 4096) lbase len [] s with
    | .error (.wait va e) => stopAt s va e
    | .error (.status n) => st s n
    | .ok (ps, s) =>
      let rw : RWin := { win := win, sdev := sdev, sten := sten, lbase := lbase.toNat, len := len, w := (w 2).getLsbD 29,
                         a := (w 2).getLsbD 30, closing := false, pages := ps }
      let s := s.modTenX tn (fun (x : TenantX) => { x with rwins := x.rwins ++ [rw] })
      st (s.withDev (fun d => { d with rx := d.rx.filter (fun r => !isRx sdev win sten r) })) 0

/-- A close that waits, or is done. -/
def closeWindow (s : State) (d a : SReg) (win : Nat) : Out :=
  match (s.tenX s.cpu.tenant).rwins.find? (fun x => x.win == win) with
  | some w =>
    if windowQuiet s w then retire (dropWindow s s.cpu.tenant win) [a] d 0
    else
      let close (x : RWin) : RWin := { x with closing := true }
      .next ((s.modTenX s.cpu.tenant (fun (x : TenantX) => { x with rwins := replaceFirst (fun y => y.win == win) close x.rwins })).waitFor
        (.rwinClose d a win))
  | none => retire s [a] d 1

/-- R323. -/
def execRwin (d a : SReg) (s : State) : Out :=
  let word := Late.word (.rwin d a)
  taskOnly s word (portGate s word [a] (some d) (needLevel s word .k (readS s word [a] (some d) (fun vs =>
    match s.cpu.wait with
    | some (.rwinClose d a win) => closeWindow s d a win
    | _ =>
      let va := opd vs 0
      if va.toNat % 64 != 0 then trap s Cause.aln va
      else match readDwords s va (List.range 8) with
        | .error (x, e) => stopAt s x e
        | .ok (ws, s1) =>
          let w2 := ws.getD 2 0
          let win := bitsOf w2 28 25
          if bitsOf w2 63 32 != 0 || bitsOf w2 19 16 != 0 || (ws.drop 3).any (fun x => x != 0) then retire s1 [a] d 2
          else if w2.getLsbD 31 then openWindow s1 d a ws
          else if (s1.tenX s1.cpu.tenant).rwins.any (fun x => x.win == win && x.closing) then retire s1 [a] d 1
          else closeWindow s1 d a win))))

/-- R323: a strand's close completes. -/
def execRwinCloseComplete (t : StrandId) (s : State) : Out :=
  match s.strand? t with
  | some x => match x.wait with
    | some (.rwinClose d a win) => if x.resid == .on && issues s x.cluster then closeWindow (s.focus t) d a win else .next s
    | _ => .next s
  | none => .next s

/-! ## rfence (R325, R326) -/

/-- The trap of a recorded failure; taking it clears the record. -/
def rfailTrap (s : State) (k : Out) : Out :=
  match s.cpu.ext.rfail with
  | some r => .next (takeTrapAt (s.withExt (fun x => { x with rfail := none })) r.cause r.va s.pc)
  | none => k

/-- R326. -/
def execRfence (s : State) : Out :=
  taskOnly s (Late.word .rfence)
    (if s.cpu.mem.rtrains.isEmpty then rfailTrap s (.next (complete (readAnew s))) else .next (s.waitFor .rfence))

end Sys2Proof.Machine
end

