-- ==== Sys2Proof/Machine/Tasks.lean ====
section
/-! DEFINITION. Tasks and launches (R332 to R343, R348 to R360): launch headers, the pin pass, task records, gang groups, dispatch,
pre-emption, parking, spawning and the end of a task. -/

namespace Sys2Proof.Machine

/-! ## Launch headers (R336, R337) -/

namespace Hdr
def epa (ws : List Word) : Word := ws.getD 0 0
def epe (ws : List Word) : Word := ws.getD 1 0
def ctrl (ws : List Word) : Word := ws.getD 2 0
def size (ws : List Word) : Word := ws.getD 3 0
def comp (ws : List Word) : Word := ws.getD 4 0
def sta (ws : List Word) : Word := ws.getD 5 0
def stv (ws : List Word) : Word := ws.getD 6 0
def frec (ws : List Word) : Word := ws.getD 7 0
def ext (ws : List Word) (j : Nat) : Nat := (ws.getD (8 + j) 0).toNat
def leaseLo (ws : List Word) (k : Nat) : Word := ws.getD (16 + 2 * k) 0
def leaseHi (ws : List Word) (k : Nat) : Word := ws.getD (17 + 2 * k) 0
def nlease (ws : List Word) : Nat := bitsOf (ctrl ws) 63 60
def nacc (ws : List Word) : Nat := bitsOf (ctrl ws) 59 56
def dual (ws : List Word) : Bool := (ctrl ws).getLsbD 55
def prio (ws : List Word) : Nat := bitsOf (ctrl ws) 54 48
/-- WIDW: bits 47:0 of CTRL (R22). -/
def widw (ws : List Word) : Word := BitVec.ofNat 64 (bitsOf (ctrl ws) 47 0)
def vgroup (ws : List Word) : Nat := bitsOf (size ws) 41 32
def spad (ws : List Word) : Nat := bitsOf (size ws) 21 0

/-- Lease k (Table 17.5). -/
def lease (ws : List Word) (k : Nat) : Lease :=
  let h := leaseHi ws k
  { base := bitsOf (leaseLo ws k) 56 0, len := bitsOf h 57 0, r := h.getLsbD 58, w := h.getLsbD 59, x := h.getLsbD 60,
    demand := h.getLsbD 61 }

/-- The lowest gang level, which decides admission (R339); none in a vane launch (R363). -/
def gangLevel (ws : List Word) : Option Nat :=
  if vgroup ws != 0 then none else (List.range 6).find? (fun j => (widw ws).getLsbD (42 + j))

/-- Tuples that agree in the levels above level j. -/
def groupSize (ws : List Word) (j : Nat) : Nat := ((List.range 6).drop j).foldl (fun n i => n * (ext ws i + 1)) 1
end Hdr

/-- Strand contexts, tiles and scratchpad of a cluster (R10, R197, R33). -/
def ctxMax : Nat := 16
def tilesMax : Nat := 8
def spadMax : Nat := 2097152

/-- Whether n tasks of a launch need more strand contexts, tiles or scratchpad than k clusters hold together (Table 17.6). -/
def exceeds (k n : Nat) (dual : Bool) (nacc spad : Nat) : Bool :=
  decide (k * ctxMax < n * (if dual then 2 else 1)) || decide (k * tilesMax < n * nacc) || decide (k * spadMax < n * spad)

/-- The first failing code of Table 17.6 for a launch, 0 for none. -/
def launchCode (t : Tenant) (ws : List Word) : Nat :=
  let inUse := List.range (Nat.min (Hdr.nlease ws) 8)
  let unused := (List.range 8).drop (Hdr.nlease ws)
  let ws6 := widths (Hdr.widw ws)
  if ws.getD 14 0 != 0 || ws.getD 15 0 != 0 || bitsOf (Hdr.size ws) 63 42 != 0 || bitsOf (Hdr.size ws) 31 22 != 0 ||
      inUse.any (fun k => bitsOf (Hdr.leaseLo ws k) 63 57 != 0 || bitsOf (Hdr.leaseHi ws k) 63 62 != 0) ||
      unused.any (fun k => Hdr.leaseLo ws k != 0 || Hdr.leaseHi ws k != 0) then 1
  else if decide (64 < ws6.foldl (· + ·) 0) || (List.range 6).any (fun j => decide (2 ^ ws6.getD j 0 ≤ Hdr.ext ws j)) ||
      decide (8 < Hdr.nacc ws) || decide (8 < Hdr.nlease ws) || decide (spadMax < Hdr.spad ws) || Hdr.spad ws % 128 != 0 then 2
  else if (Hdr.epa ws).toNat % 4 != 0 || (Hdr.epe ws).toNat % 4 != 0 || (!Hdr.dual ws && Hdr.epe ws != 0) then 3
  else if inUse.any (fun k => let l := Hdr.lease ws k; l.len == 0 || !(l.r || l.w || l.x) || decide (2 ^ 57 < l.base + l.len)) then 4
  else if (Hdr.comp ws).toNat % 64 != 0 || (Hdr.sta ws).toNat % 8 != 0 || (Hdr.frec ws).toNat % 64 != 0 then 5
  else match Hdr.gangLevel ws with
    | some j =>
      if exceeds (clustersOf t).length (Hdr.groupSize ws j) (Hdr.dual ws) (Hdr.nacc ws) (Hdr.spad ws) then 6 else 0
    | none => 0

/-- Who launches: the translation and the die it gives the launch, and the graph node it belongs to. -/
structure Launcher where
  tenant : Nat
  die    : Nat
  s1root : Word
  asid   : Word
  node   : Option (Nat × Nat)
  deriving DecidableEq, Repr

/-- The translation a launch gives its tasks, for writes of the machine (R342). -/
def Launch.ctx (l : Launch) : XCtx :=
  { tenant := l.tenant, s1root := l.s1root, asid := l.asid.toNat % 65536, user := false, tid := none, cache := hubCache, who := none }

/-- The launch a header describes. -/
def mkLaunch (p : Launcher) (lid : Nat) (header : Word) (ws : List Word) : Launch :=
  { lid := lid, tenant := p.tenant, die := p.die, header := header, epa := Hdr.epa ws, epe := Hdr.epe ws, dual := Hdr.dual ws,
    prio := Hdr.prio ws, nacc := Hdr.nacc ws, spadLen := Hdr.spad ws, vgroup := Hdr.vgroup ws, widw := Hdr.widw ws,
    ext := (List.range 6).map (Hdr.ext ws), leases := (List.range (Hdr.nlease ws)).map (Hdr.lease ws), comp := Hdr.comp ws,
    sta := Hdr.sta ws, stv := Hdr.stv ws, frec := Hdr.frec ws, s1root := p.s1root, asid := p.asid, pin := .mig 0 0 0 [], pins := [],
    created := 0, skipped := [], ended := 0, live := 0, status := 0, charges := .zero, node := p.node, faultSeq := 0 }

/-! ## The pin pass (R340) -/

namespace LStat
/-! The status codes of R342. -/
def errLse : Nat := 1
def errTaskLost : Nat := 2
def errPin : Nat := 3
def errCancelled : Nat := 4
def errKilled : Nat := 5
end LStat

/-- What the pass has found. -/
structure Pins where
  s     : State
  marks : List Nat
  /-- (page, reason) of the misses -/
  miss  : List (Nat × Nat)
  deriving DecidableEq, Repr

/-- A miss, listed once. -/
def Pins.missed (p : Pins) (page reason : Nat) : Pins :=
  { p with miss := if p.miss.any (fun m => m.1 == page) then p.miss else p.miss ++ [(page, reason)] }

/-- Translates and pins the pages of n bytes with the rights of a lease; the page where a leaf migrates that has not been waited for in
vain. A leaf without such a right, like one that cannot be reached, is a miss with reason 1. -/
def pinBytes (c : XCtx) (vain : List Nat) (l : Lease) : Nat → Nat → Nat → Pins → Except Nat Pins
  | 0, _, _, p => .ok p
  | fuel + 1, a, n, p =>
    if n == 0 then .ok p
    else
      let page := a / 4096 * 4096
      let rest := Nat.min n (4096 - a % 4096)
      let next (p : Pins) := pinBytes c vain l fuel (a + rest) (n - rest) p
      match translate p.s c (BitVec.ofNat 64 a) l.r l.w l.x false with
      | .error .mig => if vain.contains (a / 4096) then next (p.missed page 3) else .error (a / 4096)
      | .error .changed => .error (a / 4096)
      | .error .migTimeout => next (p.missed page 3)
      | .error (.nodeAbsent q) => next (p.missed q 2)
      | .error _ => next (p.missed page 1)
      | .ok _ =>
        match translate p.s c (BitVec.ofNat 64 a) false false false true with
        | .error _ => next (p.missed page 1)
        | .ok k =>
          let m := Nat.min n (k.room (BitVec.ofNat 64 a))
          let m := if k.mark == 0 then n else m
          pinBytes c vain l fuel (a + m) (n - m)
            { p with s := k.s, marks := if k.mark == 0 || p.marks.contains k.mark then p.marks else p.marks ++ [k.mark] }

/-- The pass over some leases. Local-window addresses are not translated (R33). -/
def pinLeases (c : XCtx) (vain : List Nat) : List Lease → Pins → Except Nat Pins
  | [], p => .ok p
  | l :: ls, p =>
    if l.demand || decide (2 ^ 56 ≤ l.base) then pinLeases c vain ls p
    else match pinBytes c vain l l.len l.base l.len p with
      | .ok p => pinLeases c vain ls p
      | .error q => .error q

/-- Writes bytes 64 at a time under a captured translation; an error says whether the page migrates. -/
def writeParts (c : XCtx) (va : Word) (bs : List Byte) : List Nat → State → Except Bool State
  | [], s => .ok s
  | i :: is, s => match machineLoc s c.above (va + BitVec.ofNat 64 (64 * i)) true with
    | .ok (l, s) => writeParts c va bs is (enterWide s l ((bs.drop (64 * i)).take 64))
    | .error m => .error m

/-- The FAULTREC entry of a record that no task caused: CLU and TASKID have no value in the spec (log entry 1). -/
def faultEntryFree (s : State) (tn lid : Nat) (frec : Word) : State :=
  let (a, s) := s.freeWord
  let (b, s) := s.freeWord
  ringWrite s tn { kind := 1, cause := Cause.xlt, clu := a.toNat % 128, tid := b.toNat % 2 ^ 32, lid := lid, pc := 0, addr := frec, info := 0 }

/-- The pin pass of a launch fails: no task runs. -/
def pinFail (s : State) (l : Launch) : State :=
  s.modLaunch l.tenant l.lid (fun l => { l with pin := .failed, status := Nat.max l.status LStat.errPin })

/-- Where a launch's pin pass stands. -/
def setPin (s : State) (l : Launch) (p : PinSt) : State := s.modLaunch l.tenant l.lid (fun l => { l with pin := p })

/-- The fault record of a pin pass, once its page has been read again `tries` times. -/
def pinRecord (s : State) (l : Launch) (miss : List (Nat × Nat)) (tries : Nat) : State :=
  match writeParts l.ctx l.frec (faultRecord 3 (l.faultSeq + 1) miss []) (List.range 7) s with
  | .error m => if m && decide (tries < migReads) then setPin s l (.record miss tries s.dev.time) else pinFail s l
  | .ok s1 =>
    let s2 := s1.modLaunch l.tenant l.lid (fun l => { l with pin := .waiting 0 0, faultSeq := l.faultSeq + 1 })
    faultEntryFree s2 l.tenant l.lid l.frec

/-- One run of the pin pass. The leaf of page `last.1` has been read again `last.2` times; each walk waits for its own (R413). -/
def pinPass (s : State) (l : Launch) (last : Option (Nat × Nat)) (vain : List Nat) : State :=
  let vain := vain ++ ((last.filter (fun x => migReads ≤ x.2)).map (·.1)).toList
  match pinLeases l.ctx vain l.leases { s := s, marks := [], miss := [] } with
  | .error q => setPin s l (.mig q (((last.filter (fun x => x.1 == q)).map (·.2)).getD 0) s.dev.time vain)
  | .ok p =>
    if p.miss.isEmpty then p.s.modLaunch l.tenant l.lid (fun l => { l with pin := .done, pins := p.marks })
    else if l.frec = 0 then pinFail p.s l
    else pinRecord p.s l p.miss 0

/-- A word that some captured translation reads as a device-scope agent, with a right it must grant; an error says whether its page
migrates. -/
def watchWord (s : State) (c : XCtx) (va : Word) (w : Bool) : Except Bool (Nat × State) :=
  match machineLoc s c.above va w with
  | .ok (l, s) => .ok (leNat (memBytes s .device l 8), s)
  | .error m => .error m

/-- R340, R413: the pass runs again once RESUME is at least 1, or 1 µs after it met a page that migrates. A RESUME word that cannot
be read any more fails the launch. -/
def execPinPassResume (tn lid : Nat) (s : State) : Out :=
  match s.launch? tn lid with
  | none => .next s
  | some l => match l.pin with
    | .mig p n t vain => .next (if rereads s t then pinPass s l (some (p, n + 1)) vain else s)
    | .record miss n t => .next (if rereads s t then pinRecord s l miss (n + 1) else s)
    | .waiting n t =>
      if n != 0 && !rereads s t then .next s
      else match watchWord s l.ctx (l.frec + 16) true with
        | .ok (v, s1) => .next (if 1 ≤ v then pinPass s1 l none [] else if n = 0 then s else setPin s l (.waiting 0 0))
        | .error m => .next (if m && decide (n < migReads) then setPin s l (.waiting (n + 1) s.dev.time) else pinFail s l)
    | _ => .next s

/-! ## Launching -/

/-- The launches a tenant has outstanding. -/
def outstanding (s : State) (tn : Nat) : Nat := (s.launches.filter (fun l => l.tenant == tn)).length

/-- Starts a validated launch: its id, and the first run of its pin pass. -/
def startLaunch (s : State) (p : Launcher) (header : Word) (ws : List Word) : State × Nat :=
  let lid := (s.tenX p.tenant).nextLid
  let s := s.modTenX p.tenant (fun (x : TenantX) => { x with nextLid := nextId lid })
  let l := mkLaunch p lid header ws
  (pinPass { s with launches := s.launches ++ [l] } l none [], lid)

/-- The waits of a launch. -/
def launchGate (s : State) (d a : SReg) (va : Word) (ws : List Word) : Out :=
  if writesDone s s.cpu .device && decide (outstanding s s.cpu.tenant < 4096) then
    let p : Launcher := { tenant := s.cpu.tenant, die := s.cpu.cluster / 64, s1root := s.cpu.trap.s1root, asid := s.cpu.trap.asid, node := none }
    let (s1, lid) := startLaunch s p va ws
    retire s1 [a] d (BitVec.ofNat 64 lid)
  else .next (s.waitFor (.launchLimit d a ws))

/-- R337. -/
def execLaunch (d a : SReg) (s : State) : Out :=
  let word := Late.word (.launch d a)
  taskOnly s word (readS s word [a] (some d) (fun vs =>
    let va := opd vs 0
    match s.cpu.wait with
    | some (.launchLimit _ _ ws) => launchGate s d a va ws
    | _ =>
      if va.toNat % 64 != 0 then trap s Cause.aln va
      else match readDwords s va (List.range 32) with
        | .error (x, e) => stopAt s x e
        | .ok (ws, s1) =>
          let code := launchCode (s1.ten s1.cpu.tenant) ws
          if code != 0 then retire s1 [a] d (BitVec.ofNat 64 (2 ^ 63 + code)) else launchGate s1 d a va ws))

/-- A strand's wait ends as its instruction runs on: for the events that complete one instruction of a strand. A cluster that switches
regulators runs none on (R380). -/
def resumeWait (s : State) (t : StrandId) (p : Wait → Option (State → Out)) : Out :=
  match s.strand? t with
  | some x => match x.wait.bind p with
    | some k => if x.resid == .on && issues s x.cluster then k (s.focus t) else .next s
    | none => .next s
  | none => .next s

/-- R337. -/
def execLaunchAdmit (t : StrandId) (s : State) : Out :=
  resumeWait s t (fun w => match w with | .launchLimit d a _ => some (execLaunch d a) | _ => none)

/-! ## Task records (R334) -/

/-- Entries a die's queue SRAM holds, and the number of die d's first record. -/
def recordsMax : Nat := 65536
def recordBase (die : Nat) : Nat := die * recordsMax

/-- The record numbers in use: tasks, and graph nodes not yet finished or cancelled. -/
def usedRecords (s : State) : List Nat :=
  s.tasks.map (·.tid) ++ s.graphs.flatMap (fun g => (g.nodes.filter (fun n =>
    n.state != .finished && n.state != .cancelled)).map (·.record))

/-- The n lowest free records of a die; none if fewer are free. -/
def freeRecords (s : State) (die n : Nat) : Option (List Nat) :=
  let used := (usedRecords s).filter (fun k => k / recordsMax == die)
  if recordsMax < used.length + n then none
  else some ((((List.range (used.length + n)).map (· + recordBase die)).filter (fun k => !used.contains k)).take n)

/-- The tuple of task i of a launch: l5 varies fastest (R338). -/
def tupleOf (ext : List Nat) (i : Nat) : List Nat :=
  (List.range 6).map (fun j => i / ((ext.drop (j + 1)).foldl (fun n e => n * (e + 1)) 1) % (ext.getD j 0 + 1))

/-- The WID of a tuple (R20). -/
def widOf (widw : Word) (tup : List Nat) : Word :=
  let ws := widths widw
  BitVec.ofNat 64 ((List.range 6).foldl (fun n j => n * 2 ^ ws.getD j 0 + tup.getD j 0) 0)

/-- How many tasks a launch has. -/
def Launch.total (l : Launch) : Nat := l.ext.foldl (fun n e => n * (e + 1)) 1

/-- The lowest gang level of a launch, and the size of its groups. -/
def Launch.gangSize (l : Launch) : Option Nat :=
  if l.vgroup != 0 then none
  else ((List.range 6).find? (fun j => l.widw.getLsbD (42 + j))).map (fun j => (l.ext.drop j).foldl (fun n e => n * (e + 1)) 1)

/-- A strand's first-dispatch state with a pair of roots (R338, R411), not resident. -/
def freshStrand (id : StrandId) (tenant : Nat) (pc s1root asid : Word) : Strand :=
  let x := Strand.start id tenant 0 pc .u
  { x with resid := .off, trap := { x.trap with s1root := s1root, asid := asid } }

/-- The record of task i of a launch. -/
def newTask (l : Launch) (tid i : Nat) (gang : Option Nat) : Task :=
  { tid := tid, kind := .launched, tenant := l.tenant, state := if gang.isSome then .waitgang else .ready, lid := l.lid, dual := l.dual,
    wid := widOf l.widw (tupleOf l.ext i), widw := l.widw, prio := l.prio, prioc := l.prio, nacc := l.nacc, spadLen := l.spadLen,
    leasep := l.header, leases := l.leases, s1root := l.s1root, asid := l.asid, frame := 0, waddr := 0, wval := 0, watch := false,
    smask := 0, sregs := [], accs := List.replicate l.nacc .zero, spad := [], spadPoison := [], queues := .zero,
    vane := .start l.vgroup, started := false, saved := none, slim := false, gang := gang, seq := 0, status := 0, cause := 0 }

/-- Adds a task with its strands, at the tail of its queue. -/
def addTask (s : State) (t : Task) (epa epe : Word) : State :=
  let a := freshStrand (.task t.tid false) t.tenant epa t.s1root t.asid
  let e := freshStrand (.task t.tid true) t.tenant epe t.s1root t.asid
  { s with tasks := s.tasks ++ [t], others := s.others ++ (if t.dual then [a, e] else [a]) }

/-- Adds tasks i of a launch under the given record numbers. -/
def addTasks (l : Launch) (gang : Option Nat) : List (Nat × Nat) → State → State
  | [], s => s
  | (tid, i) :: r, s => addTasks l gang r (addTask s (newTask l tid i gang) l.epa l.epe)

/-- Whether a live task of the group holds the member id of task i (R363). -/
def memberLives (s : State) (l : Launch) (i : Nat) : Bool :=
  let m := (widOf l.widw (tupleOf l.ext i)).toNat % 2 ^ 32
  l.vgroup != 0 && s.tasks.any (fun t => t.tenant == l.tenant && t.vane.group == l.vgroup && t.wid.toNat % 2 ^ 32 == m)

/-- R338, R339, R363: the next task of a launch, or its next gang group, gets its record. A tuple whose member id a live task
holds is passed over and comes first once that task has ended. -/
def execTaskEnumerate (tn lid : Nat) (s : State) : Out :=
  match s.launch? tn lid with
  | none => .next s
  | some l =>
    if l.pin != .done then .next s
    else match l.skipped.find? (fun i => !memberLives s l i) with
      | some i => match freeRecords s l.die 1 with
        | some tids =>
          let s1 := s.modLaunch tn lid (fun l => { l with skipped := l.skipped.filter (· != i) })
          .next (addTasks l none (tids.zip [i]) s1)
        | none => .next s
      | none =>
        if l.total ≤ l.created then .next s
        else match l.gangSize with
          | some n => match freeRecords s l.die n with
            | some tids =>
              let s1 := s.modLaunch tn lid (fun l => { l with created := l.created + n })
              .next (addTasks l (some (l.created / n)) (tids.zip ((List.range n).map (· + l.created))) s1)
            | none => .next s
          | none =>
            if memberLives s l l.created then
              .next (s.modLaunch tn lid (fun l => { l with created := l.created + 1, skipped := l.skipped ++ [l.created] }))
            else match freeRecords s l.die 1 with
              | some tids =>
                let s1 := s.modLaunch tn lid (fun l => { l with created := l.created + 1 })
                .next (addTasks l none (tids.zip [l.created]) s1)
              | none => .next s

/-! ## Room (R339, R355) -/

/-- Strand contexts a task takes. -/
def ctxNeed (t : Task) : Nat := if t.dual then 2 else 1

/-- Tasks that hold contexts on a cluster. -/
def residents (s : State) (c : Nat) : List Task := s.tasks.filter (fun t => t.state == .running && clusterOf s t == c)

/-- Whether a task holds a slot, which binds it to its cluster (R302). -/
def holdsSlot (s : State) (t : Task) : Bool := s.clusters.any (fun c => c.slots.any (fun x => x.tid == t.tid))

/-- The octet a merge context binds a task to (R235). -/
def mergeOctet (s : State) (t : Task) : Option Nat := ((strandsOf s t.tid).filterMap (fun x => x.ext.merge)).head?.map (·.octet)

/-- Whether no binding excludes the cluster. -/
def bindsTo (s : State) (t : Task) (c : Nat) : Bool :=
  (!holdsSlot s t || clusterOf s t == c) && (match mergeOctet s t with | some o => o == octetOf c | none => true)

/-- Scratchpad in use on a cluster: what its residents hold, and what tasks with a slot there keep (R302). -/
def spadUsed (s : State) (c : Nat) (ts : List Task) : Nat :=
  (ts.foldl (fun n t => n + t.spadLen) 0) +
  (s.tasks.filter (fun t => t.state != .running && holdsSlot s t && clusterOf s t == c && !ts.any (fun u => u.tid == t.tid))).foldl
    (fun n t => n + t.spadLen) 0

/-- Whether a cluster whose residents are `ts` has room for a task. -/
def roomFor (s : State) (c : Nat) (ts : List Task) (t : Task) : Bool :=
  decide (ts.foldl (fun n u => n + ctxNeed u) 0 + ctxNeed t ≤ ctxMax) && decide (ts.foldl (fun n u => n + u.nacc) 0 + t.nacc ≤ tilesMax) &&
  decide (spadUsed s c (ts ++ [t]) ≤ spadMax)

/-- Whether a cluster may take a task at all; a root task starts on the lowest-numbered cluster of its partition (R405). -/
def mayRunOn (s : State) (t : Task) (c : Nat) : Bool :=
  inPartition (s.ten t.tenant) c && (t.started || t.kind != .root || firstCluster (s.ten t.tenant) == some c) && bindsTo s t c && !(s.cluster c).resetting

/-- Whether a member of a vane group may start or go on (R366). -/
def edgesOf (s : State) (t : Task) : List Edge :=
  s.dev.edges.filter (fun e => e.tenant == t.tenant && e.group == t.vane.group &&
    (e.ma == t.wid.toNat % 2 ^ 32 || e.mb == t.wid.toNat % 2 ^ 32))

/-- The task holds every armed edge of its own, and has been told of every flip (R364, R368). -/
def isClear (s : State) (t : Task) : Bool :=
  (edgesOf s t).all (fun e => holdsEdge t e &&
    !s.dev.flips.any (fun m => m.die == e.die && m.tenant == e.tenant && m.group == e.group && m.eid == e.eid))

/-- R366: a member in a firing goes on with it (R365). -/
def vaneReady (s : State) (t : Task) : Bool :=
  t.vane.group == 0 ||
  (!t.vane.ending && (t.vane.firing || (isClear s t && t.vane.ln == 0 && !(s.tenX t.tenant).frozen.contains t.vane.group)))

/-- R355, step 1. -/
def eligible (s : State) (t : Task) (c : Nat) : Bool :=
  t.state == .ready && vaneReady s t && mayRunOn s t c && roomFor s c (residents s c) t

/-- The tasks of a launch that agree with a task in every field above the last of nonzero width (R338). -/
def siblings (s : State) (t : Task) : List Task :=
  match ((List.range 6).filter (fun j => (widths t.widw).getD j 0 != 0)).getLast? with
  | some j => if t.kind != .launched then [] else s.tasks.filter (fun u => u.kind == .launched && u.tid != t.tid && sameGroup j t u)
  | none => []

/-- The octets some running tasks are on. -/
def octetsOf (s : State) (ts : List Task) : List Nat := ((ts.filter (fun u => u.state == .running)).map (fun u => octetOf (clusterOf s u))).eraseDups

/-- Its siblings run on an octet that has room, and the cluster is not on it (R338). -/
def belongsElsewhere (s : State) (t : Task) (c : Nat) : Bool :=
  let os := octetsOf s (siblings s t)
  !os.isEmpty && !os.contains (octetOf c) && (clustersOf (s.ten t.tenant)).any (fun k => os.contains (octetOf k) && eligible s t k)

/-! ## Dispatch (R343, R350, R355) -/

/-- A strand that `park` saved: the registers of SMASK, its roots as the launch gave them, the level of its first dispatch (R333), and what belongs to the task beyond a
dispatch (log entry 21). -/
def slimStrand (t : Task) (x : Strand) : Strand :=
  let y := freshStrand x.id x.tenant x.ctl.pc t.s1root t.asid
  let level : Lvl := if t.kind == .root then .k else .u
  let nums := (List.range 32).filter (fun i => i != 0 && t.smask.getLsbD i)
  let regs := (nums.zip t.sregs).foldl (fun (f : Vector Word 32) p => f.setIfInBounds p.1 p.2) y.regs.s
  { y with
    cluster := x.cluster, usage := x.usage, ctl := { y.ctl with level := level, cycle := x.ctl.cycle }, regs := { y.regs with s := regs },
    ext := { y.ext with nextCopy := x.ext.nextCopy, copies := x.ext.copies, merge := x.ext.merge, faultSeq := x.ext.faultSeq,
                        rfail := x.ext.rfail, bars := x.ext.bars },
    mem := { y.mem with rtrains := x.mem.rtrains, rorder := x.mem.rorder, invs := x.mem.invs } }

/-- Puts a task on a cluster. Dispatch acquires: its strands keep no older instruction word (R73, R350). -/
def dispatchTask (s : State) (t : Task) (c : Nat) : State :=
  let (n, s) := s.fresh
  let place (x : Strand) : Strand :=
    let y := if t.slim then slimStrand t x else x
    { y with cluster := c, resid := if y.resid == .ended then .ended else .on,
             wait := if y.wait == some (.wfi true) then y.wait else none }
  let s := s.modStrands (fun x => if isOfTask x.id t.tid then place x else x)
  let lost := t.slim && !holdsSlot s t
  let s := { s with stales := s.stales.filter (fun e => !isOfTask e.1 t.tid) }
  s.modTask t.tid (fun k => { k with
    state := .running, started := true, slim := false, watch := false, seq := n,
    accs := if t.slim then List.replicate k.nacc .zero else k.accs,
    spad := if lost then [] else k.spad, spadPoison := if lost then [] else k.spadPoison,
    vane := { k.vane with firing := k.vane.group != 0 } })

/-- The tenant that wins a level on a die: the lowest number above the last winner, cyclically. -/
def winnerOf (last : Option Nat) (tns : List Nat) : Option Nat :=
  let sorted := tns.insertionSort (· ≤ ·)
  match last with
  | some w => (sorted.find? (fun t => decide (w < t))).orElse (fun _ => sorted.head?)
  | none => sorted.head?

/-- The clusters of a tenant in the order a task is placed: those of the octets its siblings are on come first (R338). -/
def placeOrder (s : State) (t : Task) (cs : List Nat) (acc : List (Task × Nat)) : List Nat :=
  let sib := siblings s t
  let os := octetsOf s sib ++ (acc.filter (fun x => sib.any (fun u => u.tid == x.1.tid))).map (fun x => octetOf x.2)
  cs.filter (fun c => os.contains (octetOf c)) ++ cs.filter (fun c => !os.contains (octetOf c))

/-- Places the members of a group one by one, each on a cluster of the partition with room; none where one fits nowhere. -/
def placeAll (s : State) (cs : List Nat) : List Task → List (Task × Nat) → Option (List (Task × Nat))
  | [], acc => some acc
  | t :: ts, acc =>
    match (placeOrder s t cs acc).find? (fun c =>
      mayRunOn s t c && roomFor s c (residents s c ++ (acc.filter (fun x => x.2 == c)).map (·.1)) t) with
    | some c => placeAll s cs ts (acc ++ [(t, c)])
    | none => none

/-- Members a binding restricts are placed first. -/
def boundFirst (s : State) (ts : List Task) : List Task :=
  let bound (t : Task) : Bool := holdsSlot s t || (mergeOctet s t).isSome
  ts.filter bound ++ ts.filter (fun t => !bound t)

/-- Where a gang group runs if all its members can be made resident at once. -/
def placeGroup (s : State) (ts : List Task) : Option (List (Task × Nat)) :=
  match ts with
  | [] => none
  | t :: _ =>
    if ts.all (fun u => u.state == .ready || u.state == .waitgang) then placeAll s (clustersOf (s.ten t.tenant)) (boundFirst s ts) []
    else none

/-- The priority of a queue entry: a task's, or the highest of its gang group. -/
def groupPrio (s : State) (t : Task) : Nat := (groupOfTask s t).foldl (fun n u => Nat.max n u.prio) 0

/-- Whether a queue entry can be dispatched when a context frees on a cluster: a task that is eligible there, or the first member of a
ready gang group that has room as a whole, some of it there (R339, R355). -/
def mayGo (s : State) (t : Task) (c : Nat) : Bool :=
  match t.gang with
  | none => eligible s t c
  | some _ =>
    let ts := groupOfTask s t
    t.state == .ready && ts.head?.map (·.tid) == some t.tid &&
      (match placeGroup s ts with | some ps => ps.any (fun p => p.2 == c) | none => false)

/-- R355: the queue entry a cluster dispatches next. -/
def nextFor (s : State) (c : Nat) : Option Task :=
  let cand := s.tasks.filter (fun t => mayGo s t c)
  let p := cand.foldl (fun n t => Nat.max n (groupPrio s t)) 0
  let top := cand.filter (fun t => groupPrio s t == p)
  let last := (s.dev.winners.find? (fun w => w.1 == c / 64 && w.2.1 == p)).map (·.2.2)
  match winnerOf last (top.map (·.tenant)) with
  | some tn => top.find? (fun t => t.tenant == tn)
  | none => none

/-- R355. A gang group becomes RUNNING in one step (R339). A task whose octet has room for it is left to a cluster there (R338): none of a
later or lower one takes its turn. -/
def execTaskDispatch (c : Nat) (s : State) : Out :=
  match nextFor s c with
  | some t =>
    let p := groupPrio s t
    let s1 := s.withDev (fun d => { d with winners := upsert (fun w => w.1 == c / 64 && w.2.1 == p) (c / 64, p, t.tenant) d.winners })
    match t.gang with
    | none => .next (if belongsElsewhere s t c then s else dispatchTask s1 t c)
    | some _ => .next (((placeGroup s1 (groupOfTask s1 t)).getD []).foldl (fun s p => dispatchTask s p.1 p.2) s1)
  | none => .next s

/-- R339: a gang group that waits for its capacity becomes RUNNING in one step. -/
def execGangAdmit (tn lid g : Nat) (s : State) : Out :=
  let ts := s.tasks.filter (fun t => t.tenant == tn && t.lid == lid && t.gang == some g)
  match (if ts.all (fun t => t.state == .waitgang) then placeGroup s ts else none) with
  | some ps => .next (ps.foldl (fun s p => dispatchTask s p.1 p.2) s)
  | none => .next s

/-! ## Pre-emption (R356) -/

/-- Whether a ready task finds no room anywhere. -/
def findsNone (s : State) (t : Task) : Bool :=
  match t.gang with
  | none => t.state == .ready && vaneReady s t && !(clustersOf (s.ten t.tenant)).any (fun c => eligible s t c)
  | some _ => t.state == .ready && (placeGroup s (groupOfTask s t)).isNone

/-- The running task a ready task of priority p would pre-empt: the lowest priority, then the most recently dispatched. -/
def victimOf (s : State) (r : Task) : Option Task :=
  let cand := s.tasks.filter (fun t => t.state == .running && t.tenant == r.tenant && t.kind != .root && mayRunOn s r (clusterOf s t))
  let low := cand.foldl (fun n t => Nat.min n (groupPrio s t)) 128
  let same := cand.filter (fun t => groupPrio s t == low)
  let young := same.foldl (fun n t => Nat.max n t.seq) 0
  if low + (s.ten r.tenant).pmarg ≤ r.prio then same.find? (fun t => t.seq == young) else none

/-- R356: a pre-emption takes effect once every strand of the task, or of its gang group, stands at a boundary at U and its
context can be saved. -/
def execPreempt (tid : Nat) (s : State) : Out :=
  match s.task? tid with
  | none => .next s
  | some t =>
    let wanted := s.tasks.any (fun r => r.tenant == t.tenant && findsNone s r &&
      (match victimOf s r with | some v => v.tid == tid | none => false))
    let ts := groupOfTask s t
    let atU (x : Strand) : Bool := x.ctl.level == .u
    if wanted && groupReady s ts (fun _ => false) && framesOk s ts &&
        ts.all (fun u => (strandsOf s u.tid).all (fun x => x.resid != .on || atU x)) then .next (saveGroup s ts true)
    else .next s

/-! ## yield (R349) -/

/-- The task of the cpu strand. -/
def withTask (s : State) (word : Nat) (k : Task → Out) : Out :=
  taskOnly s word (match taskOf s s.cpu with | some t => k t | none => ill s word)

/-- Whether the cpu's group can be saved now, the cpu strand standing at the instruction that asks for it. -/
def canSave (s : State) (ts : List Task) : Bool := groupReady s ts (fun x => x.id == s.cpu.id) && framesOk s ts

/-- R349. -/
def execYield (s : State) : Out :=
  withTask s (Late.word .yield) (fun t =>
    let ts := groupOfTask s t
    if canSave s ts then .next (saveGroup (complete s) ts false) else .next (s.waitFor .yield))

/-! ## park (R350) -/

/-- Parks a group on the cpu's word: the cpu's task as given, every other member saved whole. -/
def parkGroup (s : State) (t : Task) (f : Task → Task) : State :=
  let others := (groupOfTask s t).filter (fun u => u.tid != t.tid)
  let s := (others.filter (fun u => u.state == .running)).foldl (fun s u => saveTask s .parked u) s
  s.modTask t.tid f

/-- The registers a mask names, ascending. -/
def maskRegs (mask : Word) : List Nat := (List.range 32).filter (fun i => i != 0 && mask.getLsbD i)

/-- Their values on the cpu. -/
def parkRegs (s : State) (mask : Word) : List Word := (maskRegs mask).map (fun i => s.cpu.regs.s.getD i 0)

/-- What `vdrain.device` and then `fence.rel.device` wait for holds. -/
def released (s : State) (x : Strand) : Bool := scalarDone s x .device none && vectorDone s x .device none

/-- R350. -/
def execPark (d a b : SReg) (s : State) : Out :=
  let word := Late.word (.park d a b)
  withTask s word (fun t =>
    portGate s word [a, b, d] none (if t.dual then fmtTrap s 0x38
    else readS s word [a, b, d] none (fun vs =>
      let va := opd vs 0
      let mask := opd vs 2
      if bitsOf mask 63 32 != 0 || decide (16 < (parkRegs s mask).length) then fmtTrap s d.toNat
      else if va.toNat % 8 != 0 then trap s Cause.aln va
      else match checkAccess s va 8 true false with
        | .error e => stopAt s va e
        | .ok k =>
          let s := k.s
          let others := (groupOfTask s t).filter (fun u => u.tid != t.tid)
          if saveReady s s.cpu && released s s.cpu &&
              groupReady s others (fun _ => false) && framesOk s others then
            match (maskRegs mask).find? (fun i => s.cpu.regs.sPoison.getLsbD i) with
            | some r => trap s Cause.ecc (eccReg 0 r 0)
            | none =>
            let regs := parkRegs s mask
            let s := parkGroup (complete s) t (fun k =>
              { k with state := .parked, slim := true, saved := none, waddr := va, wval := opd vs 1, watch := true, smask := mask, sregs := regs })
            .next ((leaveWindow s s.cpu).withCpu strandOff)
          else .next (s.waitFor (.park d a b)))))

/-- R304: the engine park of the cpu strand, once its context can be saved and what `park` waits for holds (R350); the copy instruction runs again on resumption. -/
def engineParkStep (s : State) (addr : Word) : State :=
  match taskOf s s.cpu with
  | none => s
  | some t =>
    let ts := groupOfTask s t
    if canSave s ts && released s s.cpu then
      let s := (ts.filter (fun u => u.state == .running)).foldl (fun s u => saveTask s .parked u) s
      s.modTask t.tid (fun k => { k with waddr := addr, wval := 1, watch := true })
    else s

/-- The translation a parked task's word is read with. -/
def parkCtx (s : State) (t : Task) : Option XCtx := (s.strand? (.task t.tid false)).map (fun x => { ctxOf s x with user := false })

/-- R350, R339: the word a parked task watches has met its value; its whole group is READY. -/
def execParkWake (tid : Nat) (s : State) : Out :=
  match s.task? tid with
  | none => .next s
  | some t =>
    if t.state != .parked || !t.watch then .next s
    else match (parkCtx s t).map (fun c => watchWord s c t.waddr false) with
      | some (.ok (v, s1)) =>
        if t.wval.toNat ≤ v then
          let ts := groupOfTask s t
          let up (u : Task) : Task := { u with state := .ready, watch := false }
          .next (toTail (ts.foldl (fun s u => s.modTask u.tid up) s1) ts)
        else .next s
      | _ => .next s

/-! ## Spawning (R351 to R353) -/

/-- R351. -/
def execSpawn (a b : SReg) (s : State) : Out :=
  let word := Late.word (.spawn a b)
  withTask s word (fun t => readS s word [a, b] none (fun vs =>
    if (opd vs 0).toNat % 8 != 0 then trap s Cause.aln (opd vs 0)
    else if (opd vs 1).toNat % 4 != 0 then trap s Cause.aln (opd vs 1)
    else if 32 ≤ s.cpu.ext.steal.length then trap s Cause.stl (opd vs 0)
    else
      let e : StealEnt := { frame := opd vs 0, entry := opd vs 1, prio := t.prio }
      retire0 (s.withExt (fun x => { x with steal := x.steal ++ [e] })) [a, b]))

/-- Removes the newest entry with a frame. -/
def dropNewest (f : Word) : List StealEnt → List StealEnt
  | [] => []
  | e :: es => if e.frame == f && !es.any (fun x => x.frame == f) then es else e :: dropNewest f es

/-- R353. -/
def execJoin (d a : SReg) (s : State) : Out :=
  let word := Late.word (.join d a)
  withTask s word (fun _ => readS s word [a] (some d) (fun vs =>
    let va := opd vs 0
    if va.toNat % 8 != 0 then trap s Cause.aln va
    else if s.cpu.ext.steal.any (fun e => e.frame == va) then
      retire (s.withExt (fun x => { x with steal := dropNewest va x.steal })) [a] d 1
    else match checkAccess (readAnew s) va 8 true false with
      | .error e => stopAt s va e
      | .ok k =>
        if k.s.cpu.mem.heldRead k.s.dev.nextUid k.loc 8 then .next (k.s.waitFor (.join d a))
        else if poisonedRead k.s k.s.cpu k.s.dev.nextUid k.loc 8 then trap s Cause.ecc va
        else
          let v := leNat (scalarBytes k.s k.s.cpu k.loc 8)
          if v == 0 then .next (k.s.waitFor (.join d a))
          else retire (dropStale k.s .device) [a] d (if v == 1 then 0 else 2)))

/-- R353. -/
def execJoinWake (t : StrandId) (s : State) : Out :=
  resumeWait s t (fun w => match w with | .join d a => some (execJoin d a) | _ => none)

/-- R352: the record of a stolen or ended strand's entry. -/
def spawnedTask (v : Task) (x : Strand) (e : StealEnt) (tid : Nat) : Task :=
  { tid := tid, kind := .spawned, tenant := v.tenant, state := .ready, lid := v.lid, dual := false, wid := v.wid, widw := v.widw,
    prio := e.prio, prioc := v.prioc, nacc := 0, spadLen := 0, leasep := v.leasep, leases := v.leases, s1root := x.trap.s1root,
    asid := x.trap.asid, frame := e.frame, waddr := 0, wval := 0, watch := false, smask := 0, sregs := [], accs := [], spad := [],
    spadPoison := [], queues := .zero, vane := .zero, started := false, saved := none, slim := false, gang := none, seq := 0, status := 0, cause := 0 }

/-- Materialises an entry: s1 = its frame; the launch counts the task. -/
def materialise (s : State) (v : Task) (x : Strand) (e : StealEnt) (tid : Nat) : State :=
  let s := addTask s (spawnedTask v x e tid) e.entry 0
  let s := s.modStrand (.task tid false) (fun y => { y with regs := { y.regs with s := y.regs.s.set 1 e.frame } })
  s.modLaunch v.tenant v.lid (fun l => { l with live := l.live + 1 })

/-- Where a steal looks: strands of a tenant with an entry, running on a cluster. -/
def stealable (_ : State) (tn : Nat) (x : Strand) : Bool := x.tenant == tn && x.resid == .on && !x.ext.steal.isEmpty && (tidOf x.id).isSome

/-- R352: strands of its own octet are preferred. -/
def execSteal (c : Nat) (t : StrandId) (s : State) : Out :=
  match s.strand? t with
  | none => .next s
  | some x =>
    let own (y : Strand) : Bool := octetOf y.cluster == octetOf c
    match taskOf s x, x.ext.steal with
    | some v, e :: rest =>
      if stealable s v.tenant x && inPartition (s.ten v.tenant) c && !(s.cluster c).resetting && (nextFor s c).isNone &&
          decide ((residents s c).foldl (fun n u => n + ctxNeed u) 0 < ctxMax) &&
          (own x || !s.strands.any (fun y => stealable s v.tenant y && own y)) then
        match freeRecords s (v.tid / recordsMax) 1 with
        | some [tid] =>
          let s1 := s.modStrand t (fun y => { y with ext := { y.ext with steal := rest } })
          .next (materialise s1 v x e tid)
        | _ => .next s
      else .next s
    | _, _ => .next s

/-! ## tend (R348) -/

/-- Materialises every entry of some strands under the record numbers given. -/
def materialiseAll (s : State) (v : Task) : List (Strand × StealEnt) → List Nat → State
  | (x, e) :: r, tid :: tids => materialiseAll (materialise s v x e tid) v r tids
  | _, _ => s

/-- No copy that some strands started is under way. -/
def copiesOver (s : State) (xs : List Strand) : Bool :=
  s.copies.all (fun c => c.done || (match c.kind with | .node _ _ => true | _ => false) || !xs.any (fun x => x.id == c.owner))

/-- Whether the rest of what `tend` waits for holds: loads and stores done, writes released. -/
def tendWaits (s : State) (xs : List Strand) : Bool := xs.all (fun x => divDone s x && released s x && x.mem.sv.isNone)

/-- The close of the merge contexts that some strands have bound, as `mgclose` does it (R242); where a store traps or waits, the `tend`
does. -/
def closeAll : List StrandId → State → Except Out State
  | [], s => .ok s
  | t :: ts, s =>
    let e := s.cpu.id
    match s.strand? t with
    | some x => match x.ext.merge with
      | none => closeAll ts s
      | some m => match closeStores ((s.focus t).withCpu (fun y => { y with wait := s.cpu.wait })) m with
        | .error (va, k) => .error (stopAt s va k)
        | .ok none => .error (.next (s.waitFor .tend))
        | .ok (some s1) => closeAll ts ((if t = e then s1 else s1.withCpu (fun y => { y with wait := x.wait })).focus e)
    | none => closeAll ts s

/-- The end of a task by `tend`, its waits done. -/
def tendEnd (s : State) (t : Task) (xs : List Strand) : Out :=
  let entries := xs.flatMap (fun x => x.ext.steal.map (fun e => (x, e)))
  match freeRecords s (t.tid / recordsMax) entries.length with
  | none => .next (s.waitFor .tend)
  | some tids =>
    let spawned (s : State) : State := materialiseAll s t entries tids
    let finish (s : State) : Out := .next (endTask (spawned s) t.tid 0 0 0)
    if t.kind == .spawned then
      match checkAccess s t.frame 8 false true with
      | .error .mig => stopAt s t.frame .mig
      | .error .held => .next (s.waitFor .tend)
      | .error _ => .next (leaseEnd (spawned s) t.frame)
      | .ok k => match k.loc with
        | .remote _ _ _ => .next (leaseEnd (spawned s) t.frame)
        | l => finish (enterFor k.s l (leBytes 8 1) .device .plain (some (t.tenant, t.lid)))
    else finish s

/-- The queues of a task by the number of their port, with the values in them. -/
def queuePorts (t : Task) : List (Nat × List VVal) := [(28, t.queues.vq0), (29, t.queues.vq1), (30, t.queues.vq2), (31, t.queues.vq3)]

/-- HLF of the settle at the end of a task or of a firing (R189): of the cpu strand's registers, and, for the strand that ends it, of the
values in the task's queues, each under the number of its port. -/
def hlfTend (s : State) (t : Task) (queues : Bool) : Option Word :=
  (hlfAll s).orElse (fun _ => if queues then
      (queuePorts t).findSome? (fun p => p.2.findSome? (fun v =>
        (v.faultedAt (fmtWidth v.fmt)).map (fun i => BitVec.ofNat 64 (p.1 * 2 ^ 16 + i))))
    else none)

/-- The settle at the end of some strands (R189), the wait for their remote instructions, and the cpu strand's check (R325, R326). -/
def settleEnd (s : State) (t : Task) (xs : List Strand) (queues : Bool) (w : Wait) (k : Out) : Out :=
  if !xs.all (fun x => divDone s x && (vvals s x).all (fun v => !v.holes)) then .next (s.waitFor w)
  else match hlfTend s t queues with
    | some v => trap s Cause.hlf v
    | none => if !(xs.all (fun x => x.mem.rtrains.isEmpty)) then .next (s.waitFor w) else rfailTrap s k

/-- R348. `tend` in A settles A, waits for A's remote instructions, and stops A.
DEDUCED, log entry 59: A's registers are settled at A's own `tend`, E's and the queues at E's. -/
def execTend (s : State) : Out :=
  withTask s (Late.word .tend) (fun t =>
    if roleOf s s.cpu == .a then
      settleEnd s t [s.cpu] false .tend (.next ((leaveWindow s s.cpu).withCpu (fun x => { x with resid := .ended, wait := none })))
    else
      let xs := strandsOf s t.tid
      settleEnd s t xs true .tend (
        if !copiesOver s xs then .next (s.waitFor .tend)
        else match closeAll (xs.map (·.id)) s with
          | .error o => o
          | .ok s =>
            let xs := strandsOf s t.tid
            if tendWaits s xs then tendEnd s t xs else .next (s.waitFor .tend)))

/-- R348. -/
def execTendComplete (t : StrandId) (s : State) : Out :=
  resumeWait s t (fun w => match w with | .tend => some execTend | _ => none)

/-! ## Priorities and work identifiers (R357, R358) -/

/-- R357. -/
def execPrio (a : SReg) (s : State) : Out :=
  let word := Late.word (.prio a)
  withTask s word (fun t => readS s word [a] none (fun vs =>
    let v := (opd vs 0).toNat
    if decide ((if s.cpu.ctl.level == .u then t.prioc else 127) < v) then fmtTrap s a.toNat
    else retire0 (s.modTask t.tid (fun k => { k with prio := v })) [a]))

/-- R358. -/
def execWid (d : SReg) (l : Level) (s : State) : Out :=
  let word := Late.word (.wid d l)
  withTask s word (fun t => readS s word [] (some d) (fun _ => retire s [] d (BitVec.ofNat 64 (widField t.widw t.wid l.code))))

/-! ## Completion (R342) -/

/-- A 48-bit field saturates. -/
def sat48 (n : Nat) : Nat := Nat.min n (2 ^ 48 - 1)

/-- The completion record of Table 17.7. -/
def completionRecord (status id tasks : Nat) (c : Charges) : List Byte :=
  leBytes 8 (status % 256 + id % 2 ^ 32 * 2 ^ 32) ++ leBytes 8 tasks ++ leBytes 6 (sat48 (c.energy / 1000)) ++
    leBytes 2 (if c.ns == 0 then 0 else c.cyc * 1000 / c.ns) ++ leBytes 8 c.cyc ++ leBytes 6 (sat48 c.thm) ++ leBytes 6 (sat48 c.cur) ++
    leBytes 6 (sat48 c.slw) ++ leBytes 6 (sat48 c.cap) ++ leBytes 6 (sat48 c.rel) ++ leBytes 2 0

/-- The record, if one is wanted, and then the stamp, if one is: one that fails a check is dropped (R342), and a page that migrates is
waited for (R413). What comes after them follows. -/
def announce (s : State) (c : XCtx) (comp sta stv : Word) (bs : List Byte) (next : List PWrite) : State :=
  post s ((if comp = 0 then [] else [.bytes c comp bs]) ++ (if sta = 0 then [] else [.stamp c sta stv]) ++ next)

/-- Writes that p accepts widen as far as they go. -/
def widenAll (s : State) (p : WRec → Bool) : State :=
  foldLog { s with log := s.log.map (fun r => if p r then { r with vis := .system } else r) }

/-- Whether every task of a launch has been created and has ended, and what they used is known (R395). -/
def launchOver (s : State) (l : Launch) : Bool :=
  (l.pin == .failed || (l.pin == .done && decide (l.total ≤ l.created) && l.skipped.isEmpty)) &&
  s.tasks.all (fun t => !(t.tenant == l.tenant && t.lid == l.lid && t.kind != .root)) && metered s l.tenant l.lid

/-- The sum of two charges. -/
def Charges.add (a b : Charges) : Charges :=
  { cyc := a.cyc + b.cyc, thm := a.thm + b.thm, cur := a.cur + b.cur, slw := a.slw + b.slw, cap := a.cap + b.cap, rel := a.rel + b.rel,
    ns := a.ns + b.ns, energy := a.energy + b.energy }

/-- A launch completes: the record and the stamp follow every write of its tasks. A graph's node learns how it went once they are
written (R346). -/
def completeLaunch (s : State) (l : Launch) : State :=
  let s := widenAll s (fun r => r.ended == some (l.tenant, l.lid))
  let node := match l.node with | some (gid, i) => [PWrite.node l.tenant gid i (l.status == 0)] | none => []
  let s := announce s l.ctx l.comp l.sta l.stv (completionRecord l.status l.lid l.ended l.charges) node
  let s := { s with launches := s.launches.filter (fun x => !(x.tenant == l.tenant && x.lid == l.lid)) }
  match l.node with
  | none => s
  | some (gid, _) => s.modGraph l.tenant gid (fun g => { g with charges := g.charges.add l.charges })

/-- R342. -/
def execLaunchComplete (tn lid : Nat) (s : State) : Out :=
  match s.launch? tn lid with
  | some l => .next (if launchOver s l then completeLaunch s l else s)
  | none => .next s

end Sys2Proof.Machine
end

