-- ==== Sys2Proof/Machine/Graph.lean ====
section
/-! DEFINITION. Dependence graphs (R344 to R347): submission, the work of a node, and how a graph completes. -/

namespace Sys2Proof.Machine

/-! ## Checks (Table 17.6) -/

/-- One round of a cycle test: the nodes some arc from a remaining node still enters. -/
def entered (arcs : List (Nat × Nat)) (ns : List Nat) : List Nat := ns.filter (fun n => arcs.any (fun a => a.2 == n && ns.contains a.1))

/-- Whether a directed graph has no cycle: taking away nodes without arcs into them leaves nothing. -/
def acyclicGo (arcs : List (Nat × Nat)) : Nat → List Nat → Bool
  | 0, ns => ns.isEmpty
  | k + 1, ns => let ms := entered arcs ns; if ms.isEmpty then true else if ms.length == ns.length then false else acyclicGo arcs k ms

def acyclic (arcs : List (Nat × Nat)) : Bool :=
  let ns := (arcs.map (·.1)).eraseDups
  acyclicGo arcs ns.length ns

namespace NodeRec
/-! The fields of a node record (Table 17.9). -/
def kind (w : List Word) : Nat := bitsOf (w.getD 0 0) 3 0
def nsucc (w : List Word) : Nat := bitsOf (w.getD 0 0) 19 16
def pred (w : List Word) : Nat := bitsOf (w.getD 0 0) 63 32
def succ (w : List Word) (k : Nat) : Nat := (w.getD (1 + k / 4) 0).toNat / 2 ^ (16 * (k % 4)) % 65536
def succs (w : List Word) : List Nat := (List.range (Nat.min (nsucc w) 12)).map (succ w)
def p (w : List Word) (k : Nat) : Word := w.getD (4 + k) 0
/-- Payload words a kind uses (Table 17.10); 4 where the kind is none of them. -/
def uses (w : List Word) : Nat := match kind w with | 1 => 1 | 2 => 2 | 3 => 2 | 4 => 1 | _ => 4
/-- A bit that must be zero is set. -/
def badBits (w : List Word) : Bool :=
  bitsOf (w.getD 0 0) 15 4 != 0 || bitsOf (w.getD 0 0) 31 20 != 0 || ((List.range 12).drop (nsucc w)).any (fun k => succ w k != 0) ||
  ((List.range 4).drop (uses w)).any (fun k => p w k != 0) || (kind w == 4 && bitsOf (p w 0) 63 7 != 0)
end NodeRec

/-- A reserved bit of the header is set (Table 17.8). -/
def graphBadBits (h : List Word) : Bool := bitsOf (h.getD 1 0) 63 16 != 0 || (h.drop 5).any (fun x => x != 0)

/-- The first failing code of Table 17.6 for a graph, 0 for none. -/
def graphCode (h : List Word) (ns : List (List Word)) : Nat :=
  let listed := ns.flatMap NodeRec.succs
  let arcs := (ns.mapIdx (fun i w => (NodeRec.succs w).map (fun j => (i, j)))).flatten
  if graphBadBits h || ns.any NodeRec.badBits then 1
  else if ns.any (fun w => NodeRec.kind w == 0 || decide (4 < NodeRec.kind w)) then 2
  else if ns.isEmpty || ns.any (fun w => decide (12 < NodeRec.nsucc w)) || listed.any (fun j => decide (ns.length ≤ j)) then 3
  else if (ns.mapIdx (fun i w => NodeRec.pred w != (listed.filter (· == i)).length)).any id then 4
  else if !acyclic arcs then 5
  else if (h.getD 2 0).toNat % 64 != 0 || (h.getD 3 0).toNat % 8 != 0 then 6
  else 0

/-- A node as it is submitted. -/
def mkNode (base : Word) (i : Nat) (w : List Word) (record : Nat) : Node :=
  { kind := NodeRec.kind w, pred := NodeRec.pred w, succ := NodeRec.succs w, addr := base + BitVec.ofNat 64 (64 * i), p0 := NodeRec.p w 0, p1 := NodeRec.p w 1, record := record,
    struck := false, ref := 0, hold := 0, readAt := none, migPage := 0, migOver := [], state := if NodeRec.pred w == 0 then .released else .waiting }

/-! ## gsub (R345) -/

/-- Words of 64-byte records, eight by eight. -/
def records (ws : List Word) : List (List Word) := (List.range (ws.length / 8)).map (fun i => (ws.drop (8 * i)).take 8)

/-- The waits of a graph submission; `ws` holds the header's words and then the nodes'. -/
def gsubGate (s : State) (d a : SReg) (ws : List Word) : Out :=
  let h := ws.take 8
  let ns := records (ws.drop 8)
  let die := s.cpu.cluster / 64
  match (if writesDone s s.cpu .device then freeRecords s die ns.length else none) with
  | none => .next (s.waitFor (.gsubRecords d a ws))
  | some recs =>
    let tn := s.cpu.tenant
    let gid := (s.tenX tn).nextGid
    let g : Graph :=
      { gid := gid, tenant := tn, die := die, cluster := s.cpu.cluster, owner := s.cpu.id, tid := tidOf s.cpu.id,
        user := s.cpu.ctl.level == .u, root := (leasesOf s s.cpu).isNone, nodes := (ns.zip recs).mapIdx (fun i x => mkNode (h.getD 0 0) i x.1 x.2), comp := h.getD 2 0,
        sta := h.getD 3 0, stv := h.getD 4 0, s1root := s.cpu.trap.s1root, asid := s.cpu.trap.asid,
        leases := (leasesOf s s.cpu).getD [], killed := false, finished := 0, faultSeq := 0, charges := .zero }
    let s := s.modTenX tn (fun (x : TenantX) => { x with nextGid := nextId gid })
    retire { s with graphs := s.graphs ++ [g] } [a] d (BitVec.ofNat 64 gid)

/-- R345. -/
def execGsub (d a : SReg) (s : State) : Out :=
  let word := Late.word (.gsub d a)
  taskOnly s word (readS s word [a] (some d) (fun vs =>
    let va := opd vs 0
    let fail (s : State) (c : Nat) : Out := retire s [a] d (BitVec.ofNat 64 (2 ^ 63 + c))
    match s.cpu.wait with
    | some (.gsubRecords _ _ ws) => gsubGate s d a ws
    | _ =>
      if va.toNat % 64 != 0 then trap s Cause.aln va
      else match readDwords s va (List.range 8) with
        | .error (x, e) => stopAt s x e
        | .ok (h, s1) =>
          if (h.getD 0 0).toNat % 64 != 0 then fail s1 (if graphBadBits h then 1 else 6)
          else match readDwords s1 (h.getD 0 0) (List.range (8 * bitsOf (h.getD 1 0) 15 0)) with
            | .error (x, e) => stopAt s x e
            | .ok (ws, s2) =>
              let c := graphCode h (records ws)
              if c != 0 then fail s2 c else gsubGate s2 d a (h ++ ws)))

/-- R345. -/
def execGsubAdmit (t : StrandId) (s : State) : Out :=
  resumeWait s t (fun w => match w with | .gsubRecords d a _ => some (execGsub d a) | _ => none)

/-! ## Nodes (R346, R347) -/

/-- The translation a graph captured. -/
def Graph.ctx (g : Graph) : XCtx :=
  { tenant := g.tenant, s1root := g.s1root, asid := g.asid.toNat % 65536, user := g.user, tid := g.tid, cache := hubCache, who := none }

/-- The leases that bind its nodes. -/
def Graph.bound (g : Graph) : Option (List Lease) := if g.root then none else some g.leases

/-- Why a node's access does not happen: `mig` at an address whose page migrates, `again` where a walk starts again. -/
inductive NStop where
  | mig (va : Word)
  | again
  | bad
  deriving DecidableEq, Repr

/-- Where a node's access of n bytes lands, under the checks of R132. -/
def nodeAccess (s : State) (g : Graph) (va : Word) (n : Nat) (w : Bool) : Except NStop XOk :=
  if va.toNat % n != 0 then .error .bad
  else match translate s g.ctx va (!w) w false true with
    | .error .mig => .error (.mig va)
    | .error .changed => .error .again
    | .error _ => .error .bad
    | .ok k =>
      match k.loc with
      | .remote _ _ _ => .error .bad
      | l => if !(match g.bound with | some ls => inLeases ls va.toNat n (!w) w false | none => true) || (!w && poisonedFor k.s .device l n) then .error .bad
             else .ok k

/-- Reads dwords for a node. -/
def nodeWords (g : Graph) (va : Word) : List Nat → State → Except NStop (List Word × State)
  | [], s => .ok ([], s)
  | i :: is, s =>
    match nodeAccess s g (va + BitVec.ofNat 64 (8 * i)) 8 false with
    | .error e => .error e
    | .ok k => match nodeWords g va is k.s with
      | .error e => .error e
      | .ok (ws, s1) => .ok (BitVec.ofNat 64 (leNat (memBytes k.s .device k.loc 8)) :: ws, s1)

/-- Writes a fault record for a node, 64 bytes at a time. -/
def nodeRecord (g : Graph) (va : Word) (bs : List Byte) : List Nat → State → Except NStop State
  | [], s => .ok s
  | i :: is, s => match nodeAccess s g (va + BitVec.ofNat 64 (64 * i)) 64 true with
    | .error e => .error e
    | .ok k => nodeRecord g va bs is (enterWide k.s k.loc ((bs.drop (64 * i)).take 64))

/-- Changes node i of a graph. -/
def modNode (s : State) (g : Graph) (i : Nat) (f : Node → Node) : State :=
  s.modGraph g.tenant g.gid (fun g => { g with nodes := g.nodes.mapIdx (fun j n => if j == i then f n else n) })

def setNode (s : State) (g : Graph) (i : Nat) (st : NState) : State := modNode s g i (fun n => { n with state := st })

/-- How often the leaf of an address's page that a node's walk meets has been read again by now. -/
def Node.tries (n : Node) (va : Word) : Nat := if n.readAt.isSome && n.migPage == pageNo va then n.ref + 1 else 0

/-- The pages a node has waited for in vain (R413). -/
def Node.vain (n : Node) : List Nat := if n.readAt.isSome && decide (migReads ≤ n.ref + 1) then n.migOver ++ [n.migPage] else n.migOver

/-- Whether a leaf that a node waits for is not due to be read again yet (R413). -/
def Node.waits (s : State) (n : Node) : Bool := match n.readAt with | some t => !rereads s t | none => false

/-- A walk met MIG: the leaf is read again, at most 64 times (R413). -/
def nodeRetry (s : State) (g : Graph) (i : Nat) (n : Node) (va : Word) : State :=
  if migReads ≤ n.tries va then setNode s g i .failing
  else modNode s g i (fun m => { m with ref := n.tries va, readAt := some s.dev.time, migPage := pageNo va, migOver := n.vain })

/-- A node's access does not happen. -/
def nodeStop (s : State) (g : Graph) (i : Nat) (n : Node) : NStop → State
  | .mig va => nodeRetry s g i n va
  | .again => s
  | .bad => setNode s g i .failing

/-- A released launch node. -/
def startLaunchNode (s : State) (g : Graph) (i : Nat) (n : Node) : State :=
  if n.p0.toNat % 64 != 0 then setNode s g i .failing
  else match nodeWords g n.p0 (List.range 32) s with
    | .error e => nodeStop s g i n e
    | .ok (ws, s1) =>
      if launchCode (s1.ten g.tenant) ws != 0 then setNode s1 g i .failing
      else if 4096 ≤ outstanding s1 g.tenant then s
      else
        let s2 := setNode s1 g i .running
        let p : Launcher := { tenant := g.tenant, die := g.die, s1root := g.s1root, asid := g.asid, node := some (g.gid, i) }
        let (s3, lid) := startLaunch s2 p n.p0 ws
        modNode s3 g i (fun n => { n with ref := lid, readAt := none, migOver := [] })

/-- The FAULTREC entry of a node's record. -/
def nodeFaultEntry (s : State) (g : Graph) (frec : Word) : State :=
  let (b, s) := s.freeWord
  ringWrite s g.tenant { kind := 1, cause := Cause.xlt, clu := g.cluster, tid := b.toNat % 2 ^ 32, lid := g.gid, pc := 0, addr := frec, info := 0 }

/-- The misses of a copy node: a record, and the wait for its RESUME word; FREC = 0 fails the node. -/
def nodeMisses (s : State) (g : Graph) (i : Nat) (n : Node) (frec : Word) (miss : List (Nat × Nat)) : State :=
  if frec = 0 then setNode s g i .failing
  else match nodeRecord g frec (faultRecord 2 (g.faultSeq + 1) miss []) (List.range 7) s with
    | .error e => nodeStop s g i n e
    | .ok s1 =>
      let s2 := s1.modGraph g.tenant g.gid (fun g => { g with faultSeq := g.faultSeq + 1 })
      nodeFaultEntry (modNode s2 g i (fun n => { n with hold := frec + 16, readAt := none, migOver := [] })) g frec

/-- A copy node's dimension block: levels 0 to 5; none where an extent exceeds 2^32. -/
def nodeDims (ws : List Word) : Option (List Dim) :=
  let dims := (List.range 6).map (fun l => (ws.getD (3 * l) 0, ws.getD (3 * l + 1) 0, ws.getD (3 * l + 2) 0))
  if dims.any (fun d => decide (2 ^ 32 < d.1.toNat)) then none
  else some (dims.map (fun d => { ext := d.1.toNat, ss := d.2.1.setWidth 48, ds := d.2.2.setWidth 48 }))

/-- The copy of a node. -/
def nodeCopy (s : State) (g : Graph) (i : Nat) (dims : List Dim) (ws : List Word) : Copy :=
  { copyOfRecord s (.node g.gid i) [g.cluster] dims ws with owner := g.owner, tenant := g.tenant, cluster := g.cluster, tid := g.tid }

/-- A copy node whose record and dimensions are read: the checks, the probe pass and the engine. -/
def probeNode (s : State) (g : Graph) (i : Nat) (n : Node) (dims : List Dim) (ws : List Word) : State :=
  if copyCode false 0 dims ws != 0 then setNode s g i .failing
  else
    let c := nodeCopy s g i dims ws
    match probeCopy { ctx := g.ctx, leases := g.bound, member := none, vain := n.vain } c s with
    | .error (.mig va, s) => nodeRetry s g i n va
    | .error (.held, s) => s
    | .error (_, s) => setNode s g i .failing
    | .ok p =>
      if !p.miss.isEmpty then nodeMisses p.s g i n (ws.getD 5 0) p.miss
      else if 64 ≤ engineLoad s g.cluster then s
      else
        let (uid, s1) := p.s.fresh
        let s2 := { s1 with copies := s1.copies ++ [{ c with uid := uid, pins := p.pins }] }
        finishCopy (modNode s2 g i (fun n => { n with state := .running, ref := uid, readAt := none, migOver := [] })) uid false

/-- A released copy node. -/
def startCopyNode (s : State) (g : Graph) (i : Nat) (n : Node) : State :=
  if n.p0.toNat % 64 != 0 || n.p1.toNat % 8 != 0 then setNode s g i .failing
  else match nodeWords g n.p0 (List.range 8) s with
    | .error e => nodeStop s g i n e
    | .ok (ws, s1) => match nodeWords g n.p1 (List.range 18) s1 with
      | .error e => nodeStop s g i n e
      | .ok (ds, s2) => match nodeDims ds with
        | none => setNode s2 g i .failing
        | some dims => probeNode s2 g i n dims ws

/-- A copy node that waits for its RESUME word goes on once it is at least 1. -/
def resumeNode (s : State) (g : Graph) (i : Nat) (n : Node) : State :=
  match watchWord s g.ctx n.hold false with
  | .ok (v, s1) => if 1 ≤ v then modNode s1 g i (fun n => { n with hold := 0, readAt := none, migOver := [] }) else s
  | .error _ => s

/-- The word of a stamp-wait node: its value, or the node as it goes on (R346). -/
def stampWord (s : State) (g : Graph) (i : Nat) (n : Node) : Except State (Nat × State) :=
  match nodeAccess s g n.p0 8 false with
  | .ok k => .ok (leNat (memBytes k.s .device k.loc 8), k.s)
  | .error e => .error (nodeStop s g i n e)

/-- A released node starts its work. -/
def startNode (s : State) (tn gid i : Nat) : State :=
  match s.graph? tn gid with
  | none => s
  | some g => match g.nodes[i]? with
    | none => s
    | some n =>
      if n.state != .released || n.waits s then s
      else if n.hold != 0 then resumeNode s g i n
      else match n.kind with
        | 1 => startLaunchNode s g i n
        | 2 => startCopyNode s g i n
        | 3 => match stampWord s g i n with
          | .ok (_, s) => modNode s g i (fun n => { n with state := .running, ref := 0, readAt := none, migOver := [] })
          | .error s => s
        | _ => setNode (msixFire s (if n.p0.getLsbD 6 then .hpb else .hpa) (64 * tn + bitsOf n.p0 5 0)) g i .done

/-! ## Finish, failure, completion -/

/-- The nodes reachable from some nodes, themselves included. -/
def reachGo (ns : List Node) : Nat → List Nat → List Nat
  | 0, xs => xs
  | k + 1, xs =>
    let more := (xs.flatMap (fun i => match ns[i]? with | some n => n.succ | none => [])).filter (fun j => !xs.contains j)
    if more.isEmpty then xs else reachGo ns k (xs ++ more.eraseDups)

def reach (ns : List Node) (i : Nat) : List Nat := (reachGo ns ns.length [i]).filter (· != i)

/-- Cancels the unreleased nodes reachable from node i. -/
def cancelFrom (g : Graph) (i : Nat) : Graph :=
  let rs := reach g.nodes i
  { g with nodes := g.nodes.mapIdx (fun j n => if rs.contains j && n.state == .waiting then { n with state := .cancelled } else n) }

/-- The node is over. -/
def Node.over (n : Node) : Bool := n.state == .finished || n.state == .failed || n.state == .cancelled

/-- The graph completes when every node has finished or been cancelled. -/
def graphCheck (s : State) (tn gid : Nat) : State :=
  match s.graph? tn gid with
  | none => s
  | some g =>
    if !g.nodes.all Node.over then s
    else
      let done := (g.nodes.filter (fun n => n.state == .finished)).length
      let status := if g.killed then LStat.errKilled else if done == g.nodes.length then 0 else LStat.errCancelled
      let uids := (g.nodes.filter (fun n => n.kind == 2)).map (·.ref)
      let s := widenAll s (fun r => match r.tag with | .payload u => uids.contains u | .stamp (some u) _ => uids.contains u | _ => false)
      let s := announce s g.ctx g.comp g.sta g.stv (completionRecord status g.gid done g.charges) []
      { s with graphs := s.graphs.filter (fun x => !(x.tenant == tn && x.gid == gid)) }

/-- Node i finishes: each SUCC entry counts its successor down, and a successor at zero is released. A struck node decrements
nothing (R436). -/
def finishNode (g : Graph) (i : Nat) : Graph :=
  let succ := match g.nodes[i]? with | some n => if n.struck then [] else n.succ | none => []
  let down (j : Nat) (n : Node) : Node :=
    let k := (succ.filter (· == j)).length
    if k == 0 then n
    else { n with pred := n.pred - k, state := if n.pred ≤ k && n.state == .waiting then .released else n.state }
  { g with finished := g.finished + 1,
           nodes := g.nodes.mapIdx (fun j n => if j == i then { n with state := .finished } else down j n) }

/-- Whether a running node's work is over, its writes with vis ≥ device. -/
def nodeDone (s : State) (g : Graph) (n : Node) : Bool :=
  n.state == .done || (n.state == .running && match n.kind with
    | 2 => !s.copies.any (fun c => c.uid == n.ref && !c.done) && s.log.all (fun r => match r.tag with
        | .payload u => u != n.ref || visAtLeast r.loc r.vis .device
        | .stamp (some u) _ => u != n.ref || visAtLeast r.loc r.vis .device
        | _ => true)
    | 3 => match stampWord s g 0 n with
        | .ok (v, _) => decide (n.p1.toNat ≤ v)
        | .error _ => false
    | _ => false)

/-- R346. -/
def execNodeFinish (tn gid i : Nat) (s : State) : Out :=
  match s.graph? tn gid with
  | none => .next s
  | some g => match g.nodes[i]? with
    | some n => .next (if nodeDone s g n then graphCheck (s.modGraph tn gid (fun g => finishNode g i)) tn gid else s)
    | none => .next s

/-- A stamp-wait node reads its word again, which fails it or meets a page that migrates. -/
def stampReread (s : State) (g : Graph) (i : Nat) (n : Node) : State :=
  if n.state == .running && n.kind == 3 && !n.waits s then
    match stampWord s g i n with
    | .error s => s
    | .ok _ => if n.readAt.isSome then modNode s g i (fun n => { n with ref := 0, readAt := none, migOver := [] }) else s
  else s

/-- R346. -/
def execNodeFail (tn gid i : Nat) (s : State) : Out :=
  match s.graph? tn gid with
  | none => .next s
  | some g => match g.nodes[i]? with
    | some n =>
      if n.state == .failing then
        .next (graphCheck ((setNode s g i .failed).modGraph tn gid (fun g => cancelFrom g i)) tn gid)
      else .next (stampReread s g i n)
    | none => .next s

/-- The kill of R436: node i's record or counter is struck. The answer also says how many nodes were cancelled. -/
def killGraph (s : State) (g : Graph) (i : Nat) : State × Nat :=
  let own (n : Node) : Node := { n with struck := true, state := if n.state == .waiting then .cancelled else n.state }
  let g1 := cancelFrom { g with killed := true, nodes := g.nodes.mapIdx (fun j n => if j == i then own n else n) } i
  let count (g : Graph) : Nat := (g.nodes.filter (fun n => n.state == .cancelled)).length
  (graphCheck (s.modGraph g.tenant g.gid (fun _ => g1)) g.tenant g.gid, count g1 - count g)

end Sys2Proof.Machine
end

