-- ==== Sys2Proof/Machine/Vane.lean ====
section
/-! DEFINITION. Vane mode (R362 to R378): arming and dropping edges, ending a firing, flips, idle passes. -/

namespace Sys2Proof.Machine

/-- A member's id (R363). -/
def memberId (t : Task) : Nat := t.wid.toNat % 2 ^ 32

/-- The live task of a group that holds a member id. -/
def member? (s : State) (tn g m : Nat) : Option Task := s.tasks.find? (fun t => t.tenant == tn && t.vane.group == g && memberId t == m)

/-- The end an edge points at, and its other end. -/
def Edge.to (e : Edge) : Nat := if e.toB then e.mb else e.ma
def Edge.from (e : Edge) : Nat := if e.toB then e.ma else e.mb

/-- Edge eid of a group. -/
def edge? (s : State) (tn g eid : Nat) : Option Edge := s.dev.edges.find? (fun e => e.tenant == tn && e.group == g && e.eid == eid)

/-! ## Arming (R371) -/

/-- The fields of an edge record (Table 18.1) as an armed edge. -/
def edgeOf (die tn g : Nat) (w : List Word) : Edge :=
  { die := die, tenant := tn, group := g, eid := bitsOf (w.getD 3 0) 15 0, tile := bitsOf (w.getD 3 0) 31 16, ma := bitsOf (w.getD 2 0) 31 0,
    mb := bitsOf (w.getD 2 0) 63 32, toB := (w.getD 3 0).getLsbD 32, gbase := (w.getD 0 0).toNat, glen := (w.getD 1 0).toNat }

/-- Records of four dwords. -/
def edgeRecords (ws : List Word) : List (List Word) := (List.range (ws.length / 4)).map (fun i => (ws.drop (4 * i)).take 4)

/-- A record, or a list of them, that gives BADREC. -/
def badRecords (rs : List (List Word)) (es : List Edge) : Bool :=
  rs.any (fun w => bitsOf (w.getD 3 0) 63 33 != 0) ||
  es.any (fun e => e.ma == e.mb || e.gbase % 64 != 0 || e.glen % 64 != 0 || decide (2 ^ 40 < e.glen)) ||
  decide ((es.map (·.eid)).eraseDups.length < es.length)

/-- Edges an edge store holds, and armed edges a member may end (R364). -/
def edgesMax : Nat := 32768
def degreeMax : Nat := 64

/-- The status of arming some edges in one step: 0 OK. -/
def armStatus (s : State) (tn g die : Nat) (es : List Edge) : Nat :=
  let armed := s.dev.edges.filter (fun e => e.tenant == tn && e.group == g)
  let all := armed ++ es
  let ends := es.flatMap (fun e => [e.ma, e.mb])
  if es.any (fun e => armed.any (fun x => x.eid == e.eid)) then 4
  else if edgesMax < (s.dev.edges.filter (fun e => e.die == die)).length + es.length then 3
  else if ends.any (fun m => decide (degreeMax < (all.filter (fun e => e.ma == m || e.mb == m)).length)) then 5
  else if !acyclic (all.map (fun e => (e.from, e.to))) then 1
  else 0

/-- An edge that is armed joins a firing it points at, whatever was turned under its id before (R371). -/
def rejoin (s : State) (tn g : Nat) (es : List Edge) : State :=
  if s.tasks.all (fun t => t.vane.flips.isEmpty) then s
  else
    { s with tasks := s.tasks.map (fun (t : Task) =>
        if t.tenant == tn && t.vane.group == g then
          { t with vane := { t.vane with flips := t.vane.flips.filter (fun e => !es.any (fun x => x.eid == e)) } }
        else t) }

/-- The wait of `vane.arm`, and the step that arms. -/
def armGate (s : State) (d a b : SReg) (spec : Word) (ws : List Word) : Out :=
  let tn := s.cpu.tenant
  let g := bitsOf spec 41 32
  let die := s.cpu.cluster / 64
  let es := (edgeRecords ws).map (edgeOf die tn g)
  if es.any (fun e => match member? s tn g e.from with | some t => t.vane.firing | none => false) then .next (s.waitFor (.vaneArm d a b ws))
  else
    let st := armStatus s tn g die es
    let s1 := if st == 0 then rejoin (s.withDev (fun x => { x with edges := x.edges ++ es })) tn g es else s
    retire s1 [a, b] d (BitVec.ofNat 64 st)

/-- R371. -/
def execVaneArm (d a b : SReg) (s : State) : Out :=
  let word := Late.word (.vaneArm d a b)
  taskOnly s word (readS s word [a, b] (some d) (fun vs =>
    let va := opd vs 0
    let spec := opd vs 1
    let n := bitsOf spec 15 0
    match s.cpu.wait with
    | some (.vaneArm _ _ _ ws) => armGate s d a b spec ws
    | _ =>
      if bitsOf spec 31 16 != 0 || bitsOf spec 63 42 != 0 || n == 0 || decide (1024 < n) || bitsOf spec 41 32 == 0 then retire s [a, b] d 2
      else if va.toNat % 32 != 0 then trap s Cause.aln va
      else match readDwords s va (List.range (4 * n)) with
        | .error (x, e) => stopAt s x e
        | .ok (ws, s1) =>
          if badRecords (edgeRecords ws) ((edgeRecords ws).map (edgeOf 0 0 0)) then retire s1 [a, b] d 2
          else armGate s1 d a b spec ws))

/-- R371. -/
def execVaneArmCommit (t : StrandId) (s : State) : Out :=
  resumeWait s t (fun w => match w with | .vaneArm d a b _ => some (execVaneArm d a b) | _ => none)

/-! ## Dropping (R372) -/

/-- The next armed edge of a group in a range of ids. -/
def nextEdge (s : State) (tn g lo hi : Nat) : Option Nat :=
  (s.dev.edges.filter (fun y => y.tenant == tn && y.group == g && decide (lo ≤ y.eid ∧ y.eid < hi))).foldl
    (fun m y => match m with | some e => some (Nat.min e y.eid) | none => some y.eid) none

/-- R372: each edge is dropped in a step of its own. -/
def execVaneDrop (a b : SReg) (s : State) : Out :=
  let word := Late.word (.vaneDrop a b)
  taskOnly s word (readS s word [a, b] none (fun vs =>
    let x := opd vs 0
    let c := (opd vs 1).toNat
    let g := bitsOf x 41 32
    let e := bitsOf x 15 0
    if bitsOf x 31 16 != 0 || bitsOf x 63 42 != 0 || g == 0 then fmtTrap s a.toNat
    else if c == 0 || decide (65536 < c) then fmtTrap s b.toNat
    else
      let tn := s.cpu.tenant
      let lo := match s.cpu.wait with | some (.vaneDrop _ _ n) => n | _ => e
      match nextEdge s tn g lo (e + c) with
      | none => retire0 s [a, b]
      | some k =>
        let s1 := dropWhere s (fun y => y.tenant == tn && y.group == g && y.eid == k)
        if (nextEdge s1 tn g (k + 1) (e + c)).isNone then retire0 s1 [a, b] else .next (s1.waitFor (.vaneDrop a b (k + 1)))))

/-! ## Ending a firing (R365 to R370) -/

/-- Whether a member's group is frozen (R374). -/
def frozen (s : State) (t : Task) : Bool := (s.tenX t.tenant).frozen.contains t.vane.group

/-- The die a task counts as being on: where it last ran, or its record's. -/
def dieOf (s : State) (t : Task) : Nat := if t.started then clusterOf s t / 64 else t.tid / recordsMax

/-- One flip: the edge points at its other end. Where the store and both tasks are not on one die, a message goes to the neighbour;
so it does while an earlier flip of the task is on its way, as flips reach their neighbours in ascending EID (R368). -/
def flipEdge (s : State) (t : Task) (eid : Nat) : State :=
  match edge? s t.tenant t.vane.group eid with
  | none => s
  | some e =>
    if !holdsEdge t e then s
    else
      let turn (x : Edge) : Edge := { x with toB := !x.toB }
      let s := s.withDev (fun d => { d with
        edges := replaceFirst (fun x => x.tenant == e.tenant && x.group == e.group && x.eid == eid) turn d.edges })
      let away := match member? s t.tenant t.vane.group e.from with
        | some u => dieOf s u != e.die || dieOf s t != e.die || s.dev.flips.any (fun m => m.src == t.tid)
        | none => false
      if away then s.withDev (fun d => { d with flips := d.flips ++ [{ die := e.die, tenant := e.tenant, group := e.group, eid := eid, src := t.tid }] })
      else s

/-- The firing is over. -/
def endFiring (s : State) (tid : Nat) : State :=
  s.modTask tid (fun t => { t with vane := { t.vane with firing := false, ending := false, idles := false, released := false, flips := [] } })

/-- The edges a member holds, in ascending EID. -/
def heldEids (s : State) (t : Task) : List Nat := (((edgesOf s t).filter (holdsEdge t)).map (·.eid)).insertionSort (· ≤ ·)

/-- The edges it has still to turn in its firing. -/
def toTurn (s : State) (t : Task) : List Nat := (heldEids s t).filter (fun e => !t.vane.flips.contains e)

/-- Ends a firing that has no edge left to turn, or whose flips are discarded (R374). -/
def closeFiring (s : State) (tid : Nat) : State :=
  match s.task? tid with
  | some t => if frozen s t || (toTurn s t).isEmpty then endFiring s tid else s
  | none => s

/-- What goes on after a `vret`: the release, with which the firing counts, then the flips, each in a step of its own (R367). -/
def flipStep (s : State) (tid : Nat) : State :=
  match s.task? tid with
  | none => s
  | some t =>
    if !t.vane.ending then s
    else if !t.vane.released then
      if (strandsOf s tid).all (released s) then
        closeFiring (s.modTask tid (fun k => { k with vane := { k.vane with
          released := true, flips := [], fire := (k.vane.fire + 1) % 2 ^ 16,
          idle := if k.vane.idles then (k.vane.idle + 1) % 2 ^ 16 else k.vane.idle } })) tid
      else s
    else match (if frozen s t then [] else toTurn s t) with
      | [] => endFiring s tid
      | e :: _ =>
        closeFiring ((flipEdge s t e).modTask tid (fun k => { k with vane := { k.vane with flips := k.vane.flips ++ [e] } })) tid

/-- vret, lull and lull.n (k = 0, 1, 2). -/
def endOfFiring (s : State) (word k : Nat) (rs : List SReg) (a : SReg) : Out :=
  withTask s word (fun t =>
    if t.vane.group == 0 then ill s word
    else readS s word rs none (fun vs =>
      let n := (opd vs 0).toNat
      if k == 2 && decide (65535 < n) then fmtTrap s a.toNat
      else
        let ln (u : Task) : Task := { u with vane := { u.vane with ln := n } }
        let s := if k == 2 then s.modTask t.tid ln else s
        let xs := strandsOf s t.tid
        settleEnd s t xs true (.vret k a) (
          if copiesOver s xs && canSave s [t] then
            let s := saveGroup (complete (popPorts s rs)) [t] false
            .next (s.modTask t.tid (fun u => { u with vane := { u.vane with
              ending := true, idles := k != 0, released := false, flips := [] } }))
          else .next (s.waitFor (.vret k a)))))

/-- R367. -/
def execVret (s : State) : Out := endOfFiring s (Late.word .vret) 0 [] 0

/-- R369. -/
def execLull (s : State) : Out := endOfFiring s (Late.word .lull) 1 [] 0

/-- R369. -/
def execLullN (a : SReg) (s : State) : Out := endOfFiring s (Late.word (.lullN a)) 2 [a] a

/-- R368: messages of one task, and flips of one edge, arrive in order. -/
def execFlipMessage (k : Nat) (s : State) : Out :=
  match s.dev.flips[k]? with
  | some m =>
    let before := (s.dev.flips.take k).any (fun x => x.src == m.src || (x.tenant == m.tenant && x.group == m.group && x.eid == m.eid))
    .next (if before then s else s.withDev (fun d => { d with flips := d.flips.eraseIdx k }))
  | none => .next s

/-- R370: the counts and every flip in one step. -/
def execIdlePass (tid : Nat) (s : State) : Out :=
  match s.task? tid with
  | some t =>
    if t.state == .ready && t.vane.group != 0 && !t.vane.firing && !t.vane.ending && decide (0 < t.vane.ln) && isClear s t && !frozen s t then
      let count (k : Task) : Task := { k with vane := { k.vane with
        ln := k.vane.ln - 1, fire := (k.vane.fire + 1) % 2 ^ 16, idle := (k.vane.idle + 1) % 2 ^ 16 } }
      .next ((heldEids s t).foldl (fun s e => flipEdge s t e) (s.modTask tid count))
    else .next s
  | none => .next s

/-! ## Errors (R374) -/

/-- A count of 32 bits saturates. -/
def sat32 (n : Nat) : Nat := Nat.min n (2 ^ 32 - 1)

/-- ECCC counts an error. -/
def countEcc (s : State) (corrected : Bool) : State :=
  s.withH (fun h =>
    let lo := bitsOf h.eccc 31 0
    let hi := bitsOf h.eccc 63 32
    { h with eccc := BitVec.ofNat 64 (if corrected then sat32 (lo + 1) + hi * 2 ^ 32 else lo + sat32 (hi + 1) * 2 ^ 32) })

/-- R374, R436: the group freezes. CLU and TASKID of the entry have no value in the spec (log entry 1). -/
def freezeGroup (s : State) (tn g : Nat) : State :=
  let (a, s) := s.freeWord
  let (b, s) := s.freeWord
  let s := s.modTenX tn (fun (x : TenantX) => { x with frozen := if x.frozen.contains g then x.frozen else x.frozen ++ [g] })
  ringWrite s tn { kind := 5, cause := Cause.ecc, clu := a.toNat % 128, tid := b.toNat % 2 ^ 32, lid := 0, pc := 0, addr := 0, info := g }

/-- R374, R434. -/
def execEdgeStoreError (die tn g eid : Nat) (s : State) : Out :=
  .next (if s.dev.edges.any (fun e => e.die == die && e.tenant == tn && e.group == g && e.eid == eid) then freezeGroup (countEcc s false) tn g else s)

/-! ## vane.rd (R375) -/

/-- The word of Table 18.2. -/
def edgeWord (s : State) (t : Task) (eid : Nat) : Nat :=
  match edge? s t.tenant t.vane.group eid with
  | some e => e.to + 2 ^ 32 + (if e.to == memberId t then 2 ^ 33 else 0) + e.tile * 2 ^ 48
  | none => 0

/-- The word of Table 18.3. -/
def memberWord (s : State) (t : Task) : Nat :=
  t.vane.fire % 2 ^ 16 + t.vane.idle % 2 ^ 16 * 2 ^ 16 + (edgesOf s t).length * 2 ^ 40 + t.vane.ln * 2 ^ 48

/-- R375. -/
def execVaneRd (d a : SReg) (s : State) : Out :=
  let word := Late.word (.vaneRd d a)
  withTask s word (fun t =>
    if t.vane.group == 0 then ill s word
    else readS s word [a] (some d) (fun vs =>
      let x := (opd vs 0).toNat
      if x < 65536 then retire s [a] d (BitVec.ofNat 64 (edgeWord s t x))
      else if x == 65536 then retire s [a] d (BitVec.ofNat 64 (memberWord s t))
      else fmtTrap s a.toNat))

end Sys2Proof.Machine
end

