-- ==== Sys2Proof/Machine/Isolation.lean ====
section
/-! DEFINITION. Tenants as the hypervisor and the hosts see them (R402 to R423): invalidation, MSI-X, the host ports and their
semaphore, memory windows, routes, CXL.mem and SPDM. -/

namespace Sys2Proof.Machine

/-! ## Invalidation (R415, R416) -/

/-- Whether a location lies in a cached translation's page. -/
def inPage (e : TlbEnt) (l : Loc) : Bool := match e.loc.past l with | some i => decide (i < e.size) | none => false

/-- Whether an access under way touches a translation's page: a store, a train element, a read or an AMO that has not performed, a
remote train that is not acknowledged. Over-approximates "used one of those entries" (log entry 22). -/
def pageInUse (s : State) (e : TlbEnt) : Bool :=
  s.strands.any (fun x =>
    x.mem.stores.any (fun w => inPage e w.loc) || x.mem.loads.any (fun r => inPage e r.loc) || x.mem.amos.any (fun r => inPage e r.loc) || x.mem.vfas.any (fun r => inPage e r.loc) || x.mem.trains.any (fun t => t.elems.any (fun el => inPage e el.loc)) ||
    (vvals s x).any (fun v => v.pend.any (fun p => inPage e p.loc)) ||
    (match x.mem.sv with | some l => l.pend.any (fun p => inPage e p.loc) | none => false) ||
    x.mem.rtrains.any (fun t => t.elems.any (fun el => inPage e (.remote t.ddev t.win el.off))))

/-- A removal of translation i has taken full effect. -/
def removed (s : State) (i : Nat) : Bool := s.tlb.all (fun e => e.id != i || (e.gone && !pinned s i && !pageInUse s e))

/-- A cached translation leaves the caches. -/
def evict (s : State) (i : Nat) : State :=
  let go (e : TlbEnt) : TlbEnt := if e.id == i then { e with gone := true } else e
  let s := { s with tlb := s.tlb.map go }
  { s with tlb := s.tlb.filter (fun e => !(e.gone && !pinned s e.id && !pageInUse s e)) }

/-- One cache drops a translation: its agents walk the tables anew, and those of other caches may go on using it (R417). -/
def dropAt (s : State) (i c : Nat) : State :=
  let go (e : TlbEnt) : TlbEnt := if e.id == i && !e.out.contains c then { e with out := e.out ++ [c] } else e
  { s with tlb := s.tlb.map go }

/-- Starts the removal of the translations p accepts: their numbers. -/
def startInv (s : State) (p : TlbEnt → Bool) : State × List Nat :=
  let mark (e : TlbEnt) : TlbEnt := if p e then { e with dying := true } else e
  ({ s with tlb := s.tlb.map mark }, (s.tlb.filter p).map (·.id))

/-- Table 22.6 by kind, d and a, for a VMID; the stage-1 page of kind 0 is the leaf's own. -/
def invMatches (kind vmid : Nat) (d a : Word) (e : TlbEnt) : Bool :=
  match kind with
  | 0 => e.vmid == vmid && e.s1size != 0 && (e.glob || e.asid == bitsOf d 15 0) &&
      decide (e.va / e.s1size * e.s1size ≤ a.toNat ∧ a.toNat < e.va / e.s1size * e.s1size + e.s1size)
  | 1 => e.vmid == vmid && !e.glob && e.asid == bitsOf d 15 0
  | 2 => e.vmid == vmid
  | _ => e.vmid == bitsOf d 7 0 && (d.getLsbD 8 || (e.s2size != 0 && decide (e.ipa ≤ a.toNat ∧ a.toNat < e.ipa + e.s2size)))

/-- tlbinv: it waits for the strand's scalar stores, starts the removal and completes. The management core has no tenant: kinds
0 to 2 remove nothing there (R446). -/
def tlbinv (s : State) (word kind : Nat) (l : Lvl) (d a : SReg) (rs : List SReg) : Out :=
  portGate s word rs none (needLevel s word l (readS s word rs none (fun vs =>
    let (va, vd) := match kind with | 0 => (opd vs 0, opd vs 1) | 1 => (0, opd vs 0) | 2 => (0, 0) | _ => (opd vs 0, opd vs 1)
    if !scalarDone s s.cpu .device none then .next (s.waitFor (.tlbinv kind d a))
    else
      let none? := decide (kind < 3) && s.cpu.id == .mgmt
      let (s1, ids) := startInv s (fun e => !none? && invMatches kind (s.ten s.cpu.tenant).vmid vd va e)
      retire0 (s1.withMem (fun m => { m with invs := m.invs ++ ids })) rs)))

/-- R415, kind 0. -/
def execTlbinvVa (d a : SReg) (s : State) : Out := tlbinv s (encodeNat (.tlbinvVa d a)) 0 .k d a [a, d]

/-- R415, kind 1. -/
def execTlbinvAsid (d : SReg) (s : State) : Out := tlbinv s (encodeNat (.tlbinvAsid d)) 1 .k d 0 [d]

/-- R415, kind 2. -/
def execTlbinvVmid (s : State) : Out := tlbinv s (encodeNat .tlbinvVmid) 2 .k 0 0 []

/-- R415, kind 3. -/
def execTlbinvIpa (d a : SReg) (s : State) : Out := tlbinv s (encodeNat (.tlbinvIpa d a)) 3 .h d a [a, d]

/-- R416. -/
def execTlbsync (s : State) : Out :=
  needLevel s (encodeNat .tlbsync) .k (
    if s.cpu.mem.invs.all (removed s) then .next (complete (s.withMem (fun m => { m with invs := [] }))) else .next (s.waitFor .tlbsync))

/-- R416. -/
def execTlbsyncComplete (t : StrandId) (s : State) : Out :=
  resumeWait s t (fun w => match w with | .tlbsync => some execTlbsync | _ => none)

/-- R413: a walk that waits on a MIG leaf reads it again each µs, and counts that; the instruction then runs again. Each walk counts for
its page alone. -/
def execMigRetry (t : StrandId) (s : State) : Out :=
  match (s.strand? t).bind (·.wait) with
  | some (.mig p n at' vain) => .next (if rereads s at' then s.modStrand t (fun x => { x with wait := some (.mig p (n + 1) s.dev.time vain) }) else s)
  | _ => .next s

/-- HINV images that are discarded (R416). -/
def hinvBad (v : Word) : Bool := bitsOf v 63 61 != 0 || bitsOf v 11 0 != 0

/-- R416. -/
def execHinvWrite (v : Word) (s : State) : Out :=
  if hinvBad v then .next s
  else
    let d := BitVec.ofNat 64 (bitsOf v 59 52 + if v.getLsbD 60 then 256 else 0)
    let (s1, ids) := startInv s (invMatches 3 0 d (BitVec.ofNat 64 (bitsOf v 51 12 * 4096)))
    .next (s1.withH (fun h => { h with hinvs := h.hinvs ++ ids }))

/-- R416. -/
def execHinvDone (s : State) : Out :=
  .next (if s.dev.h.hinvs.all (removed s) then s.withH (fun h => { h with hinvs := [] }) else s)

/-! ## Interrupt messages (R420) -/

/-- R420. The management core has no tenant, and so no entry to send. -/
def execIntr (p : BitVec 1) (v : BitVec 6) (s : State) : Out :=
  let word := encodeNat (.intr p v)
  needLevel s word .k (
    if !writesDone s s.cpu .system then .next (s.waitFor (.intr p v))
    else if s.cpu.id == .mgmt then .next (complete s)
    else .next (complete (msixFire s (if p = 0 then .hpa else .hpb) (64 * s.cpu.tenant + v.toNat))))

/-- R420: the host programs and masks entries; unmasking one sends the message that was pending. -/
def execMsixTableWrite (p : Port) (n : Nat) (addr : Word) (data : BitVec 32) (mask : Bool) (s : State) : Out :=
  if 2048 ≤ n then .next s
  else
    let pend := match s.dev.msix.find? (fun e => e.port == p && e.num == n) with | some e => e.pending | none => false
    let e : MsixEnt := { port := p, num := n, addr := addr, data := data, masked := mask, pending := pend && mask }
    let s := s.withDev (fun d => { d with msix := upsert (fun x => x.port == p && x.num == n) e d.msix })
    .next (if pend && !mask then s.withDev (fun d => { d with out := d.out ++ [.msix p n addr data] }) else s)

/-! ## The semaphore (R409, R410) -/

def Port.owner : Port → Nat | .hpa => 1 | .hpb => 2

/-- Who owns HSEM: nobody once REM has reached 0 (R410). -/
def HSem.holder (h : HSem) : Nat := if h.rem = 0 then 0 else h.owner

/-- HSEM as it reads (Table 22.3), but for GOT. -/
def hsemWord (h : HSem) : Nat := h.holder + (if h.discA then 4 else 0) + (if h.discB then 8 else 0) + h.rem % 2 ^ 32 * 2 ^ 16

/-- A port's read is answered. -/
def answerHost (s : State) (p : Port) (v : Word) : State := s.withDev (fun d => { d with out := d.out ++ [.hostRead p v] })

def withHsem (s : State) (f : HSem → HSem) : State := s.withH (fun h => { h with hsem := f h.hsem })

/-- Microseconds a port holds HSEM. -/
def hsemTime : Nat := 100000

/-- R410. -/
def execHsemRead (p : Port) (s : State) : Out :=
  let o := s.dev.h.hsem.holder
  let got := o == 0 || o == Port.owner p
  let s1 := if got then withHsem s (fun h => { h with owner := Port.owner p, rem := hsemTime }) else s
  .next (answerHost s1 p (BitVec.ofNat 64 (hsemWord s1.dev.h.hsem + if got then 2 ^ 63 else 0)))

/-- A write from a port that does not own HSEM is discarded and noted (R409). -/
def discard (s : State) (p : Port) : State :=
  withHsem s (fun h => match p with | .hpa => { h with discA := true } | .hpb => { h with discB := true })

/-- R410: the owner's release. -/
def execHsemRelease (p : Port) (s : State) : Out :=
  .next (if s.dev.h.hsem.holder == Port.owner p then withHsem s (fun h => { h with owner := 0 }) else s)

/-- R410. -/
def execHsemLapse (s : State) : Out :=
  .next (if s.dev.h.hsem.rem == 0 then withHsem s (fun h => { h with owner := 0 }) else s)

/-! ## Memory windows (R406) -/

/-- A window's range, if it is valid: base, length, shareable. -/
def mwRange (w : Word × Word) : Option (Nat × Nat × Bool) :=
  let len := bitsOf w.2 51 21 * 2097152
  if w.1.getLsbD 0 && len != 0 then some (bitsOf w.1 51 21 * 2097152, len, w.1.getLsbD 1) else none

/-- Whether two windows overlap in a way R406 forbids. -/
def badOverlap (a b : Word × Word) : Bool :=
  match mwRange a, mwRange b with
  | some (x, n, p), some (y, m, q) => decide (x < y + m ∧ y < x + n) && !(p && q)
  | _, _ => false

/-- MWB and MWL images: reserved bits zero. -/
def mwbImage (v : Word) : Word := BitVec.ofNat 64 (bitsOf v 51 21 * 2097152 + bitsOf v 1 0)
def mwlImage (v : Word) : Word := BitVec.ofNat 64 (bitsOf v 51 21 * 2097152)

/-- R406: a write that would create a forbidden overlap with an enabled tenant's window is discarded. -/
def execMemoryWindowWrite (tn k : Nat) (len : Bool) (v : Word) (s : State) : Out :=
  let t := s.ten tn
  let old := t.mws.getD k (0, 0)
  let new := if len then (old.1, mwlImage v) else (mwbImage v, old.2)
  if 16 ≤ k || 32 ≤ tn then .next s
  else if s.tenants.any (fun u => u.en && u.num != tn && u.mws.any (badOverlap new)) then .next s
  else .next (s.modTen tn (fun t => { t with mws := t.mws.set k new }))

/-! ## Routes (R419) -/

/-- Entry i of the route table in memory, as its four dwords. -/
def routeAt (s : State) (base i : Nat) : Route :=
  let bs := memBytes s .device (.dev (base + 32 * i)) 32
  let w (k : Nat) : Word := BitVec.ofNat 64 (leNat ((bs.drop (8 * k)).take 8))
  { dev := bitsOf (w 0) 15 0, valid := (w 0).getLsbD 16, tenm := (w 1).setWidth 32, krt := (w 0).getLsbD 17, links := bitsOf (w 0) 47 32,
    ip6 := BitVec.ofNat 128 (leNat (bs.drop 16)) }

/-- R419: the hub reads the table. -/
def execRtbaseWrite (v : Word) (s : State) : Out :=
  let base := bitsOf v 51 12 * 4096
  let rs := if v.getLsbD 0 then (List.range 128).map (routeAt s base) else []
  .next ((s.withH (fun h => { h with rtbase := BitVec.ofNat 64 (base + bitsOf v 0 0) })).withDev (fun d => { d with routes := rs }))

/-! ## CXL.mem and SPDM (R408, R422) -/

/-- n bytes as a host agent sees them: what has vis = system (R276). -/
def hostBytes (s : State) (l : Loc) (n : Nat) : List Byte := hide s l (bytesBy (fun r => r.vis == .system) s l n)

/-- Whether they are poisoned to it (R435). -/
def hostPoisoned (s : State) (l : Loc) (n : Nat) : Bool := poisonSeen s (fun _ => false) (fun r => r.vis == .system) l n

/-- The device physical address of a byte of the range that shows HBM and BKM: its lines are those of HBM and BKM, each once (R408). -/
def hdmAddr (o : Nat) : Option Nat :=
  if h : o / 64 < Config.deviceLines then
    let m := Config.hdmLine ⟨o / 64, h⟩
    some (64 * (Config.memLine ⟨m.val, Nat.lt_of_lt_of_le m.isLt (by decide)⟩).val + o % 64)
  else none

/-- R408: a host programs the range in which a port's HDM decoder shows all of HBM and BKM. -/
def execHdm (p : Port) (base : Nat) (s : State) : Out := .next (s.withDev (fun d => { d with hdm := upsert (fun x => x.1 == p) (p, base) d.hdm }))

/-- Where n bytes at a host-physical address lie, line by line: the location, and how many of them; none outside the port's range
(R408). -/
def hdmParts (s : State) (p : Port) (hpa n : Nat) : Option (List (Loc × Nat)) :=
  match s.dev.hdm.find? (fun x => x.1 == p) with
  | none => none
  | some (_, base) =>
    if hpa < base || base + 64 * Config.deviceLines < hpa + n then none
    else
      let o := hpa - base
      some ((List.range ((o % 64 + n + 63) / 64)).map (fun k =>
        let a := Nat.max o (64 * (o / 64 + k))
        (.dev ((hdmAddr a).getD 0), Nat.min (o + n) (64 * (o / 64 + k + 1)) - a)))

/-- Writes bytes over some parts, in order. -/
def putParts : List (Loc × Nat) → List Byte → State → State
  | [], _, s => s
  | (l, n) :: ps, bs, s => putParts ps (bs.drop n) (enterWide s l (bs.take n))

/-- R408, R435: a host agent's access to device memory by host-physical address; poisoned data is marked. -/
def execCxlMemAccess (p : Port) (hpa len : Nat) (data : Option (List Byte)) (s : State) : Out :=
  match hdmParts s p hpa (match data with | some bs => bs.length | none => len) with
  | none => .next s
  | some ps => match data with
    | some bs => .next (putParts ps bs s)
    | none => .next (s.withDev (fun d => { d with out := d.out ++ [.memData p (ps.flatMap (fun q => hostBytes s q.1 q.2)) (ps.any (fun q => hostPoisoned s q.1 q.2))] }))

/-- R422: the boot path is offered an image; it stays to be looked at when the boot path next runs. -/
def execImage (i : Image) (s : State) : Out := .next (s.withDev (fun d => { d with offered := upsert (fun x => x.num == i.num) i d.offered }))

/-- R422: whether the boot path accepts an image: its signature over the image's SHAKE256 digest verifies against a key whose digest is
fused.
DESIGN CHOICE, log entry 67: the digest that is signed is of 64 bytes. -/
def Image.accepted (i : Image) : Bool :=
  decide (1 ≤ i.num ∧ i.num ≤ 3) && Config.shake256 Config.fusedKeyDigest.length i.key == Config.fusedKeyDigest &&
  Config.mlDsa65Verify i.key (Config.shake256 64 i.bytes) i.sig

/-- R422: what the boot path accepts of the images it is offered, the last one of each number, else what it had. -/
def acceptImages (d : Dev) : List Image := (d.offered.filter Image.accepted).foldl (fun is i => upsert (fun x => x.num == i.num) i is) d.images

/-- R422: measurements 1 to 4, the SHAKE256-512 digests of the images in use and of the fuse configuration. They change when the
images do: at a reset. -/
def measurement (d : Dev) (k : Nat) : Option (List Byte) :=
  if k == 4 then some (Config.shake256 64 Config.fuseConfig) else (d.image? k).map (fun i => Config.shake256 64 i.bytes)

/-- The facts of the measurements that GET_MEASUREMENTS names: one of them, all of them (255), or their number alone (0). -/
def measured (d : Dev) (idx : Nat) : List SpdmFact :=
  ([1, 2, 3, 4].filter (fun k => idx == k || idx == 255)).filterMap (fun k => (measurement d k).map (.measurement k))

/-- An SPDM answer; the codes are SPDM 1.3's, and what it holds beside what R422 says is not in the spec (log entries 1, 23). -/
def spdm (s : State) (p : Port) (code : Nat) (facts : List SpdmFact) (params : List Nat) : Out :=
  .next (s.withDev (fun d => { d with out := d.out ++ [.spdm p code facts (Config.spdmBody code d.boots params)] }))

/-- An answer ERROR. -/
def spdmError (s : State) (p : Port) (code data : Nat) : Out :=
  .next (s.withDev (fun d => { d with out := d.out ++ [.spdm p 0x7F [] [code, data]] }))

/-- An answer about a certificate slot: slot 0 alone has a chain (R422); InvalidRequest for another (log entry 23). -/
def spdmSlot (s : State) (p : Port) (code slot : Nat) (facts : List SpdmFact) (params : List Nat) : Out :=
  if slot = 0 then spdm s p code (.slot 0 :: facts) params else spdmError s p 0x01 0

/-- R422. -/
def execSpdmGetVersion (p : Port) (s : State) : Out := spdm s p 0x04 [] []

/-- R422. -/
def execSpdmGetCapabilities (p : Port) (s : State) : Out := spdm s p 0x61 [] []

/-- R422. -/
def execSpdmNegotiateAlgorithms (p : Port) (s : State) : Out := spdm s p 0x63 [.algorithms .mlDsa65 .shake256] []

/-- R422. -/
def execSpdmGetDigests (p : Port) (s : State) : Out := spdm s p 0x01 [.slot 0] []

/-- R422. -/
def execSpdmGetCertificate (p : Port) (slot off len : Nat) (s : State) : Out := spdmSlot s p 0x02 slot [] [slot, off, len]

/-- R422. -/
def execSpdmChallenge (p : Port) (slot nonce : Nat) (s : State) : Out := spdmSlot s p 0x03 slot [.signed .mlDsa65] [slot, nonce]

/-- R422. -/
def execSpdmGetMeasurements (p : Port) (idx : Nat) (s : State) : Out :=
  if decide (idx ≤ 4) || idx == 255 then spdm s p 0x60 (measured s.dev idx) [idx] else spdmError s p 0x01 0

/-- R422: ERROR, UnsupportedRequest. -/
def execSpdmUnsupportedRequest (p : Port) (code : Nat) (s : State) : Out := spdmError s p 0x07 code

/-! ## Tenants (R405) -/

/-- Whether an enabled tenant other than tn holds a VMID. -/
def vmidTaken (s : State) (tn vmid : Nat) : Bool := s.tenants.any (fun u => u.en && u.num != tn && u.vmid == vmid)

/-- Whether the partition is empty. -/
def partEmpty (t : Tenant) : Bool := t.part0 = 0 && t.part1 = 0

/-- R405: the tenant exists; its root task starts on the lowest-numbered cluster of its partition, or as soon as that has room. -/
def startTenant (s : State) (tn : Nat) : State :=
  match firstCluster (s.ten tn) with
  | none => s
  | some c => match freeRecords s (c / 64) 1 with
    | some [tid] =>
      let s := change s (allClusters.filter (inPartition (s.ten tn))) (fun s => s.modTen tn (fun t => { t with en := true }))
      let t := { rootRecord tid tn with state := .ready, started := false }
      let x := { rootStrand s tn tid c 0 0 with resid := .off }
      let s := { s with tasks := s.tasks ++ [t], others := s.others ++ [x] }
      if eligible s t c then dispatchTask s t c else s
    | _ => s

/-- R405: EN from 0 to 1 with a VMID, which is stored first. -/
def createTenant (s : State) (tn vmid : Nat) : State :=
  let s := (clearRing s tn).modTen tn (fun t => { t with vmid := vmid % 256 })
  if vmidTaken s tn (vmid % 256) || partEmpty (s.ten tn) || (s.tenX tn).resetting then s else startTenant s tn

/-- R405. -/
def execTenantCreate (tn vmid : Nat) (s : State) : Out :=
  .next (if 32 ≤ tn || (s.ten tn).en then s else createTenant s tn vmid)

end Sys2Proof.Machine
end

