-- ==== Sys2Proof/Machine/Recovery.lean ====
section
/-! DEFINITION. Errors and resets (R434 to R440), and the wakes of waiting strands. -/

namespace Sys2Proof.Machine

/-! ## Waiting strands -/

/-- R58: a word that fails decoding. -/
def execIllegalInstruction (w : IWord) (s : State) : Out := ill s w.toNat

/-- R136. -/
def execWfiWake (t : StrandId) (s : State) : Out :=
  resumeWait s t (fun w => match w with | .wfi _ => some execWfi | _ => none)

/-- R136, R392. -/
def execHaltWake (s : State) : Out :=
  resumeWait s .mgmt (fun w => match w with | .halt => some execHalt | _ => none)

/-- R431: the root task of a tenant takes its lowest pending enabled interrupt, at an instruction boundary. -/
def execInterrupt (tn : Nat) (s : State) : Out :=
  match rootTask? s tn with
  | none => .next s
  | some t => match s.strand? (.task t.tid false) with
    | none => .next s
    | some x =>
      if x.resid == .on && x.wait.isNone then
        match interruptDue s x with
        | some b => .next (takeInterrupt (s.focus x.id) b)
        | none => .next s
      else .next s

/-- The queue a strand is blocked on, and for how many cycles. -/
def blockedOn (x : Strand) : Option (Nat × Nat) := match x.wait with | some (.queue c n) => if x.resid == .on then some (c, n) else none | _ => none

/-- R18: both strands of a pair blocked for 2^24 cycles; E traps. -/
def execQueueDeadlock (tid : Nat) (s : State) : Out :=
  match (s.strand? (.task tid false)).bind blockedOn, (s.strand? (.task tid true)).bind blockedOn with
  | some (_, n), some (c, m) =>
    if 2 ^ 24 ≤ n && 2 ^ 24 ≤ m then
      let s1 := s.focus (.task tid true)
      .next (takeTrapAt s1 Cause.qdl (BitVec.ofNat 64 c) s1.pc)
    else .next s
  | _, _ => .next s

/-! ## Uncorrectable errors (R434 to R436) -/

/-- Adds a poisoned word, once. -/
def addPoison (ps : List Nat) (a : Nat) : List Nat := if ps.contains (a / 8 * 8) then ps else ps ++ [a / 8 * 8]

/-- An error strikes the word of a byte of memory: as memory holds it, and in every write to it that has not settled (R434). -/
def strikeWord (s : State) (l : Loc) : State :=
  let w := l.at' (l.off / 8 * 8)
  let hit (r : WRec) : WRec := if overlaps r.loc r.bytes.length w 8 then { r with bad := addPoison r.bad w.off } else r
  { poisonWords s l [w.off] with log := s.log.map hit }

/-- The place an error strikes is poisoned. -/
def poisonPlace (s : State) (e : ErrPlace) : State :=
  let regs (t : StrandId) (f : RegFile → RegFile) : State := s.modStrand t (fun x => { x with regs := f x.regs })
  match e with
  | .corrected => s
  | .mem pa => strikeWord s (.dev pa)
  | .host pa => strikeWord s (.host pa)
  | .spad tid off => strikeWord s (.spad tid off)
  | .sreg t r => if r = 0 then s else regs t (fun f => { f with sPoison := f.sPoison ||| (1#32 <<< r.toNat) })
  | .vreg t r g => regs t (fun f =>
      let v := f.v[r.toNat]'(r.isLt)
      { f with v := f.v.set r.toNat { v with poison := v.poison ||| (1#8 <<< g.toNat) } r.isLt })
  | .mreg t r => if r = 0 then s else regs t (fun f => { f with mPoison := f.mPoison ||| (1#8 <<< r.toNat) })
  | .svreg t r g => regs t (fun f => { f with svPoison := f.svPoison ||| (1#128 <<< (16 * r.toNat + g.toNat)) })
  | .acc tid tile row => s.modTask tid (fun t =>
      let hit (a : Tile) : Tile := { a with poison := a.poison ||| (1#64 <<< row.toNat) }
      { t with accs := t.accs.mapIdx (fun i a => if i == tile.toNat then hit a else a) })

/-- R434. -/
def execUncorrectableError (e : ErrPlace) (s : State) : Out := .next (poisonPlace (countEcc s (e == .corrected)) e)

/-- R244: the context fails, its entries are discarded, and an entry of kind MGE is written, once the writes to the context record have
system visibility (R437). -/
def failMerge (s : State) (t : StrandId) : Option State :=
  match s.strand? t with
  | none => none
  | some x => match x.ext.merge with
    | none => none
    | some m =>
      let bad : MergeCtx := { m with state := .failed, stat := Mst.mge, buf := [] }
      let s1 := s.modStrand t (fun y => { y with ext := { y.ext with merge := some bad } })
      let tk := taskOf s x
      some (ringWrite s1 x.tenant { kind := 4, cause := Cause.ecc, clu := x.cluster, tid := (tk.map (·.tid)).getD 0,
                                     lid := (tk.map (·.lid)).getD 0, pc := 0, addr := m.addr, info := 0 }
                                     ((partsOf s x m.addr.toNat 128).map (·.2)))

/-- R244, R434. -/
def execMergeBufferError (t : StrandId) (s : State) : Out := .next ((failMerge (countEcc s false) t).getD s)

/-- A task is lost (Table 23.5): it ends, with every member of its gang group. -/
def loseTask (s : State) (t : Task) (frameToo : Bool) : State :=
  let clu := clusterOf s t
  let addr := if t.kind == .spawned && !frameToo then t.frame else 0
  let s := (groupOfTask s t).foldl (fun s u => endTask s u.tid LStat.errTaskLost Cause.lse (if frameToo && u.tid == t.tid then 0 else 2)) s
  ringWrite s t.tenant { kind := 2, cause := Cause.ecc, clu := clu, tid := t.tid, lid := t.lid, pc := 0, addr := addr, info := 0 }

/-- The ROOTLOST entry. -/
def rootLost (s : State) (t : Task) (clu cause : Nat) : State :=
  ringWrite s t.tenant { kind := 8, cause := cause, clu := clu, tid := t.tid, lid := 0, pc := 0, addr := 0, info := 0 }

/-- Whether a cluster reset has stopped a root task, which restarts when the reset completes: until then a fault that strikes it is
discarded (R440). -/
def stoppedBy (s : State) (t : Task) (c : Nat) : Bool :=
  t.kind == .root && t.state == .running && (s.cluster c).resetting &&
  (match s.strand? (.task t.tid false) with | some x => x.resid == .off && x.cluster == c | none => false)

/-- A root task whose record or frame is struck restarts (Table 23.5), unless a reset is in progress for it (R440). -/
def strikeRoot (s : State) (t : Task) : State :=
  let c := clusterOf s t
  if stoppedBy s t c then s else rootLost (restartRoot s t.tenant 2 (BitVec.ofNat 64 Cause.ecc)) t c Cause.ecc

/-- R436. DESIGN CHOICE, log entry 38: an error in the frame of a root task is taken as one in its record. -/
def execInternalStateError (e : IntErr) (s0 : State) : Out :=
  let s := countEcc s0 false
  match e with
  | .taskRecord tid frameToo => match s.task? tid with
    | some t =>
      if t.kind == .root then .next (strikeRoot s t)
      else .next (loseTask s t frameToo)
    | none => .next s0
  | .graphNode tn gid i => match s.graph? tn gid with
    | some g =>
      if i < g.nodes.length then
        let (s1, n) := killGraph s g i
        .next (ringWrite s1 tn { kind := 3, cause := Cause.ecc, clu := g.cluster, tid := 0, lid := gid, pc := 0, addr := 0, info := n })
      else .next s0
    | none => .next s0
  | .divEntry c id => .next (faultEntry s c id Cause.ecc)
  | .mergeBuffer t => execMergeBufferError t s0
  | .edgeEntry die tn g eid => execEdgeStoreError die tn g eid s0
  | .frame tid => match s.task? tid with
    | some t =>
      if t.saved.isNone || t.state == .running then .next s0
      else if t.kind == .root then .next (strikeRoot s t)
      else .next (loseTask s t false)
    | none => .next s0

/-! ## Cluster reset (R440) -/

/-- R440: every task resident on the cluster ends; a root task stops until the reset completes, and its record goes on to say that it
runs (Table 17.2). -/
def execClusterReset (c : Nat) (s : State) : Out :=
  if 128 ≤ c || (s.cluster c).resetting then .next s
  else
    let ts := residents s c
    let s := s.modCluster c (fun (k : Cluster) => { k with resetting := true })
    let s := s.withH (fun h => { h with crst := h.crst ++ [c] })
    let s := (ts.filter (fun t => t.kind != .root)).foldl (fun s t => endTask s t.tid LStat.errKilled Cause.lse 2) s
    let stop (x : Strand) : Strand := { x with resid := .off, wait := none, mem := .zero }
    .next ((ts.filter (fun t => t.kind == .root)).foldl (fun s t =>
      (releaseTask s t (some Cause.lse)).modStrand (.task t.tid false) stop) s)

/-- R440, R428: a stopped root task restarts; s3 names no cause, so it is a free value (log entry 1). -/
def restartStopped (c : Nat) (s : State) (t : Task) : State :=
  let (v, s) := s.freeWord
  let s := rootLost (restartRoot s t.tenant 3 v) t c 0
  match s.task? t.tid, firstCluster (s.ten t.tenant) with
  | some u, some k => if eligible s u k then dispatchTask s u k else s
  | _, _ => s

/-- R440. -/
def execClusterResetComplete (c : Nat) (s : State) : Out :=
  if !(s.cluster c).resetting then .next s
  else
    let ts := s.tasks.filter (fun t => stoppedBy s t c)
    let s := s.modCluster c (fun (k : Cluster) => { k with resetting := false })
    let s := s.withH (fun h => { h with crst := h.crst.filter (· != c) })
    .next (ts.foldl (restartStopped c) s)

/-! ## Tenant reset (R440) -/

/-- What is left of a launch completes as killed. -/
def killLaunch (s : State) (l : Launch) : State :=
  let l1 := { (s.launch? l.tenant l.lid).getD l with status := LStat.errKilled }
  completeLaunch s l1

/-- What is left of a graph is cancelled, and it completes. -/
def endGraph (s : State) (g : Graph) : State :=
  let off (n : Node) : Node :=
    if n.over then n else { n with state := if n.state == .waiting || n.state == .released then .cancelled else .failed }
  graphCheck (s.modGraph g.tenant g.gid (fun g => { g with nodes := g.nodes.map off })) g.tenant g.gid

/-- Every task, launch, graph and copy of a tenant ends (R440). -/
def endWork (s : State) (tn : Nat) : State :=
  let s := (s.tasks.filter (fun t => t.tenant == tn)).foldl (fun s t => endTask s t.tid LStat.errKilled Cause.lse 0) s
  let s := (s.copies.filter (fun c => c.tenant == tn)).foldl (fun s c => failCopy s c.uid Cause.lse none) s
  let s := (s.launches.filter (fun l => l.tenant == tn)).foldl killLaunch s
  (s.graphs.filter (fun g => g.tenant == tn)).foldl endGraph s

/-- R405, R440: EN from 1 to 0 ends all the tenant's work, closes its windows and clears its ring. Its budget's request on the clusters
of its partition is withdrawn with it (R387). -/
def execTenantReset (tn : Nat) (s : State) : Out :=
  if !(s.ten tn).en then .next s
  else
    let off (s : State) : State := (s.modTen tn (fun t => { t with en := false })).modTenX tn (fun (x : TenantX) => { x with resetting := true, steps := 0 })
    let s := change s (allClusters.filter (inPartition (s.ten tn))) off
    let s := endWork s tn
    let s := (s.tenX tn).rwins.foldl (fun s w => dropWindow s tn w.win) s
    let s := dropWhere s (fun e => e.tenant == tn)
    let s := s.modTenX tn (fun (x : TenantX) => { x with frozen := [] })
    .next (clearRing s tn)

/-- Device memory of a range reads zero, and is not poisoned. -/
def zeroRange (s : State) (base len : Nat) : State :=
  let out (a : Nat) : Bool := !decide (base ≤ a ∧ a < base + len)
  { s with mem := s.mem.filter (fun c => out c.1), poison := s.poison.filter out,
           log := s.log.filter (fun r => match r.loc with | .dev a => out a | _ => true) }

/-- R440: the tenant's memory windows that are not shareable are written zero, once the records of its launches and graphs are written. -/
def execTenantResetComplete (tn : Nat) (s : State) : Out :=
  if !(s.tenX tn).resetting || posting s tn then .next s
  else
    let s := ((s.ten tn).mws.filterMap mwRange).foldl (fun s r => if r.2.2 then s else zeroRange s r.1 r.2.1) s
    .next (s.modTenX tn (fun (x : TenantX) => { x with resetting := false, nextLid := 1, nextGid := 1 }))

/-! ## Device resets (R440) -/

/-- What the boot path leaves in the management core's memory, and where the core begins: the image it has accepted (R399, R422), else
what stood there. DESIGN CHOICE, log entry 67: an image lies from address 0. -/
def bootFirmware (d : Dev) (fw : List Host.Cell) (start : Word) : List Host.Cell × Word :=
  match d.image? 1 with
  | some i => (Memory.write [] 0 (i.bytes.take (2 ^ 20)), i.start)
  | none => (fw, start)

/-- A device reset: the boot path runs again, and the management core begins at the image's `start` (R422, R399). What the device has
sent, host memory and the moves to come are not its own. -/
def reboot (s : State) (d : Dev) (fw : List Host.Cell) (start : Word) : State :=
  let d1 : Dev := { d with out := s.dev.out, boots := s.dev.boots + 1, nextUid := s.dev.nextUid, free := s.dev.free,
                           offered := s.dev.offered, images := acceptImages s.dev }
  let b := bootFirmware d1 fw start
  { State.reset with cpu := .boot b.2, agenda := s.agenda, hostMem := s.hostMem, fwMem := b.1, dev := { d1 with start := b.2 } }

/-- R440, warm: every tenant ends, every CSR is at reset, the boot path runs again; HBM and BKM keep their contents and their
poison, and TIME goes on (R31). The end of the tenants' work is what it is at a tenant reset: merge contexts close (R242), launches
and graphs complete (R342).
DEDUCED, log entry 60: the records and stamps that this writes are among what HBM keeps. -/
def execWarmReset (s0 : State) : Out :=
  let s := settleLog (flushPosts (((s0.tenants.filter (·.en)).map (·.num)).foldl endWork s0))
  let d : Dev := { Dev.reset with time := s.dev.time, m := { MCsr.reset with sensors := s.dev.m.sensors } }
  .next { reboot s d s.fwMem s.dev.start with mem := s.mem, poison := s.poison }

/-- R440, cold: nothing is kept. -/
def execColdReset (s0 : State) : Out := .next (reboot (settleLog s0) Dev.reset [] 0)

/-! ## State dump (R439) -/

/-- DUMPC images that are discarded. -/
def dumpBad (v : Word) : Bool := bitsOf v 31 17 != 0 || bitsOf v 63 49 != 0 || bitsOf v 48 32 == 0 || decide (65536 < bitsOf v 48 32)

/-- R439. A write while a dump is in progress is discarded (log entry 24). -/
def execStateDump (v : Word) (s : State) : Out :=
  .next (if dumpBad v || s.dev.h.dump.isSome then s
    else s.withH (fun h => { h with dump := some (bitsOf v 15 0, bitsOf v 16 16, bitsOf v 48 32) }))

/-- Table 17.2. -/
def TState.code : TState → Nat | .ready => 0 | .running => 1 | .parked => 2 | .waitgang => 3

/-- Table 17.1, KIND. -/
def TKind.code : TKind → Nat | .launched => 1 | .spawned => 2 | .root => 3

/-- A task's record (Table 17.1). VANEP of a member is the index of its entry in the edge store, plus one; which index is the
machine's own (R363): a free value. -/
def taskImage (s : State) (t : Task) : List Byte × State :=
  let pcOf (e : Bool) : Nat := ((s.strand? (.task t.tid e)).map (fun x => x.ctl.pc.toNat)).getD 0
  let (v, s) := if t.vane.group == 0 then ((0 : Nat), s) else let r := s.freeWord; (r.1.toNat % edgesMax + 1, r.2)
  let state := t.kind.code + t.state.code * 2 ^ 4 + t.prio % 128 * 2 ^ 8 + t.prioc % 128 * 2 ^ 15 + t.tenant % 32 * 2 ^ 22 +
    (if t.dual then 2 ^ 27 else 0) + t.nacc % 16 * 2 ^ 28
  let ws : List Nat := [t.wid.toNat, pcOf false, pcOf true, t.lid % 2 ^ 32, 0, t.leasep.toNat, v, t.smask.toNat % 2 ^ 32, t.waddr.toNat,
    t.wval.toNat, state, t.frame.toNat, 0, 0, 0, 0]
  (ws.flatMap (leBytes 8) ++ (List.range 16).flatMap (fun k => leBytes 8 (t.sregs.getD k 0).toNat), s)

/-- A graph node's record (Table 17.1): what it does not say of a node is a free value. -/
def nodeImage (s : State) (g : Graph) (n : Node) : List Byte × State :=
  let (a, s) := s.freeWord
  let (b, s) := s.freeWord
  let (c, s) := s.freeWord
  let (d, s) := s.freeWord
  let state := 4 + bitsOf d 21 4 * 2 ^ 4 + g.tenant % 32 * 2 ^ 22
  let ws : List Nat := [a.toNat, b.toNat, c.toNat, g.gid % 2 ^ 32 * 2 ^ 32 + bitsOf d 63 32, n.addr.toNat, 0, 0, n.pred % 2 ^ 32 * 2 ^ 32, 0, 0, state]
  (ws.flatMap (leBytes 8) ++ List.replicate 168 0, s)

/-- Record number k as a dump shows it. -/
def recordImage (s : State) (k : Nat) : List Byte × State :=
  match s.task? k with
  | some t => taskImage s t
  | none =>
    match (s.graphs.flatMap (fun g => (g.nodes.filter (fun n => n.record == k && n.state != .finished && n.state != .cancelled)).map (fun n => (g, n)))).head? with
    | some (g, n) => nodeImage s g n
    | none => (leBytes 256 (4 * 2 ^ 644), s)

/-- Copies some records, each as one snapshot. -/
def dumpGo (pa die first : Nat) : List Nat → State → State
  | [], s => s
  | i :: is, s =>
    let (bs, s) := recordImage s (recordBase die + first + i)
    dumpGo pa die first is (enterWide s (.dev (pa + 256 * i)) bs)

/-- R439. -/
def execStateDumpComplete (s : State) : Out :=
  match s.dev.h.dump with
  | none => .next s
  | some (first, die, n) =>
    .next ((dumpGo (bitsOf s.dev.h.dumpa 51 6 * 64) die first (List.range n) s).withH (fun h => { h with dump := none }))

end Sys2Proof.Machine
end

