-- ==== Sys2Proof/Machine/Csr.lean ====
section
/-! DEFINITION. Control and status registers (R30, R113 to R115): their map by level, what a read gives, which writes the map
rejects, and what a write does. -/

namespace Sys2Proof.Machine

/-- The state an operation that always goes on leaves. -/
def nextOf (o : Out) (s : State) : State := match o with | .next t => t | _ => s

/-! ## The map -/

/-- The level a number belongs to (Table 1.11); none from 0x400 on. -/
def csrLevel (n : Nat) : Option Lvl := match n / 256 with | 0 => some .u | 1 => some .k | 2 => some .h | 3 => some .m | _ => none

/-- The assigned numbers (Tables 1.12, 19.3, 22.2, 22.4, 23.2, 23.4; R194, R315, R324, R356, R379, R387, R393, R394). -/
def csrAssigned (n : Nat) : Bool :=
  decide (n ≤ 4) || decide (8 ≤ n ∧ n ≤ 0xD) || decide (0x10 ≤ n ∧ n ≤ 0x16) || n == 0x20 ||
  decide (0x100 ≤ n ∧ n ≤ 0x10A) || decide (0x110 ≤ n ∧ n ≤ 0x115) || n == 0x120 ||
  decide (0x200 ≤ n ∧ n ≤ 0x20B) || decide (0x210 ≤ n ∧ n ≤ 0x212) || decide (0x220 ≤ n ∧ n ≤ 0x223) || n == 0x230 || n == 0x231 ||
  n == 0x240 || n == 0x241 || decide (0x250 ≤ n ∧ n ≤ 0x259) ||
  decide (0x300 ≤ n ∧ n ≤ 0x303) || decide (0x340 ≤ n ∧ n ≤ 0x386)

/-- The numbers whose every field is RO: a write raises ILL (R30). -/
def csrReadOnly (n : Nat) : Bool :=
  [1, 3, 4, 0x11, 0x12, 0x13, 0x14, 0x15, 0x16, 0x107, 0x120, 0x20B, 0x212, 0x231, 0x257, 0x303].contains n || decide (0x340 ≤ n ∧ n ≤ 0x37F)

/-- Values the map rejects (R59, R29). -/
def csrRejects (x : Strand) (n : Nat) (v : Word) : Bool :=
  match n with
  | 0 => !mrOk v.toNat
  | 0x20 => bitsOf v 1 0 == 3
  | 0x104 => bitsOf v 3 2 == 2 || (bitsOf v 3 2 == 3 && x.ctl.level != .m)
  | 0x106 => decide (12 < bitsOf v 4 0)
  | 0x111 => decide (256 < v.toNat)
  | 0x112 => bitsOf v 6 0 == 0
  | 0x300 => decide (127 < v.toNat)
  | 0x301 => tctlBad v
  | _ => false

/-! ## U level (Table 1.12) -/

/-- Registers of the cpu's task; the management core has none, and what it reads there has no value in the spec (log entry 1). -/
def taskCsr (s : State) (f : Task → Nat) : Word × State :=
  match taskOf s s.cpu with
  | some t => (BitVec.ofNat 64 (f t), s)
  | none => s.freeWord

/-- What a number of the U level reads. -/
def readU (s : State) (n : Nat) : Word × State :=
  let c := s.cpu.ctl
  let val (w : Word) : Word × State := (w, s)
  match n with
  | 0 => val (c.mr.setWidth 64)
  | 1 => val (BitVec.ofNat 64 c.vl)
  | 2 => val c.vstart
  | 3 => if s.cpu.id == .mgmt then s.freeWord else val (BitVec.ofNat 64 (vlgOf s))
  | 4 => val c.sc
  | 8 => val c.lp0.lc
  | 9 => val c.lp0.ls
  | 0xA => val c.lp0.le
  | 0xB => val c.lp1.lc
  | 0xC => val c.lp1.ls
  | 0xD => val c.lp1.le
  | 0x10 => val (c.fflags.setWidth 64)
  | 0x11 => taskCsr s (fun t => t.wid.toNat)
  | 0x12 => taskCsr s (fun t => t.widw.toNat)
  | 0x13 => taskCsr s (fun t => t.tid)
  | 0x14 => taskCsr s (fun t => t.prio)
  | 0x15 => val (BitVec.ofNat 64 s.dev.time)
  | 0x16 => val c.cycle
  | _ => val (c.amoplace.setWidth 64)

/-- Bits 56:2 of a value. -/
def pcBits (v : Word) : Word := BitVec.ofNat 64 (bitsOf v 56 2 * 4)

/-- What a write of the U level does. -/
def writeU (s : State) (n : Nat) (v : Word) : State :=
  let lp0 (f : LoopReg → LoopReg) : State := s.withCtl (fun c => { c with lp0 := f c.lp0 })
  let lp1 (f : LoopReg → LoopReg) : State := s.withCtl (fun c => { c with lp1 := f c.lp1 })
  match n with
  | 0 => setMr s (v.toNat % 2 ^ 25)
  | 2 => s.withCtl (fun c => { c with vstart := v })
  | 8 => lp0 (fun l => { l with lc := v })
  | 9 => lp0 (fun l => { l with ls := pcBits v })
  | 0xA => lp0 (fun l => { l with le := pcBits v })
  | 0xB => lp1 (fun l => { l with lc := v })
  | 0xC => lp1 (fun l => { l with ls := pcBits v })
  | 0xD => lp1 (fun l => { l with le := pcBits v })
  | 0x10 => s.withCtl (fun c => { c with fflags := v.setWidth 6 })
  | 0x20 => s.withCtl (fun c => { c with amoplace := v.setWidth 2 })
  | _ => s

/-! ## K level (Tables 22.4, 23.2) -/

/-- What a number of the K level reads: per strand, or of the strand's tenant. The management core has no tenant. -/
def readK (s : State) (n : Nat) : Word × State :=
  let x := s.cpu
  let t := s.ten x.tenant
  let val (w : Word) : Word × State := (w, s)
  let ten (w : Word) : Word × State := if x.id == .mgmt then s.freeWord else (w, s)
  match n with
  | 0x100 => val (tvecOf s x)
  | 0x101 => val x.trap.tcause
  | 0x102 => val x.trap.tepc
  | 0x103 => val x.trap.tval
  | 0x104 => val x.trap.tstatus
  | 0x105 => val x.trap.tscratch
  | 0x106 => ten t.errb
  | 0x107 => ten t.errh
  | 0x108 => ten t.errt
  | 0x109 => ten t.tie
  | 0x10A => ten (BitVec.ofNat 64 (tipBits t))
  | 0x110 => ten t.thawb
  | 0x111 => ten (BitVec.ofNat 64 t.thawn)
  | 0x112 => ten (BitVec.ofNat 64 t.pmarg)
  | 0x113 => ten t.pswa
  | 0x114 => val x.trap.s1root
  | 0x115 => val x.trap.asid
  | _ => ten (rwopen (s.tenX x.tenant))

/-- What a write of the K level does. -/
def writeK (s : State) (n : Nat) (v : Word) : State :=
  let x := s.cpu
  let ten (f : Tenant → Tenant) : State := if x.id == .mgmt then s else s.modTen x.tenant f
  match n with
  | 0x100 => if x.id == .mgmt then s.withTrap (fun t => { t with tvecM := pcBits v }) else ten (fun t => { t with tvec := pcBits v })
  | 0x101 => s.withTrap (fun t => { t with tcause := BitVec.ofNat 64 (bitsOf v 7 0) })
  | 0x102 => s.withTrap (fun t => { t with tepc := pcBits v })
  | 0x103 => s.withTrap (fun t => { t with tval := v })
  | 0x104 => s.withTrap (fun t => { t with tstatus := BitVec.ofNat 64 (bitsOf v 4 0 + bitsOf t.tstatus 5 5 * 32) })
  | 0x105 => s.withTrap (fun t => { t with tscratch := v })
  | 0x106 => ten (fun t => { t with errb := BitVec.ofNat 64 (bitsOf v 56 6 * 64 + bitsOf v 4 0) })
  | 0x108 => ten (fun t => { t with errt := BitVec.ofNat 64 (bitsOf v 31 0) })
  | 0x109 => ten (fun t => { t with tie := BitVec.ofNat 64 (bitsOf v 23 16 * 65536 + bitsOf v 1 0) })
  | 0x10A => ten (fun t => { t with tipSoft := v.getLsbD 1 })
  | 0x110 => ten (fun t => { t with thawb := BitVec.ofNat 64 (bitsOf v 63 6 * 64) })
  | 0x111 => ten (fun t => { t with thawn := v.toNat })
  | 0x112 => ten (fun t => { t with pmarg := bitsOf v 6 0 })
  | 0x113 => if x.id == .mgmt then s else nextOf (execPswaWrite x.tenant v s) s
  | 0x114 => s.withTrap (fun t => { t with s1root := BitVec.ofNat 64 (bitsOf v 51 12 * 4096 + bitsOf v 0 0) })
  | 0x115 => s.withTrap (fun t => { t with asid := BitVec.ofNat 64 (bitsOf v 15 0) })
  | _ => s

/-! ## H level (Tables 15.1, 22.2, 22.3, 23.4) -/

/-- RSTS (Table 23.4). -/
def rsts (s : State) : Nat :=
  s.tenantsX.foldl (fun n t => if t.resetting then n ||| 2 ^ t.num else n) 0 + (if s.dev.h.crst.isEmpty then 0 else 2 ^ 32) +
    (if s.dev.h.dump.isSome then 2 ^ 33 else 0)

/-- What a number of the H level reads; a WO register reads 0. -/
def readH (s : State) (n : Nat) : Word :=
  let h := s.dev.h
  let t := s.ten h.tnsel
  let w := t.mws.getD h.mwsel (0, 0)
  match n with
  | 0x200 => BitVec.ofNat 64 (hsemWord h.hsem)
  | 0x201 => BitVec.ofNat 64 h.tnsel
  | 0x202 => BitVec.ofNat 64 ((if t.en then 1 else 0) + t.vmid * 256)
  | 0x203 => t.part0
  | 0x204 => t.part1
  | 0x205 => t.s2base
  | 0x206 => t.rootpc
  | 0x207 => BitVec.ofNat 64 h.mwsel
  | 0x208 => w.1
  | 0x209 => w.2
  | 0x20B => if h.hinvs.isEmpty then 0 else 1
  | 0x210 => BitVec.ofNat 64 h.pbsel
  | 0x211 => BitVec.ofNat 64 (s.tenX h.pbsel).budget
  | 0x212 => BitVec.ofNat 64 (s.tenX h.pbsel).pmeas
  | 0x220 => h.vdmap[0]
  | 0x221 => h.vdmap[1]
  | 0x222 => h.vdmap[2]
  | 0x223 => h.vdmap[3]
  | 0x230 => BitVec.ofNat 64 h.trssel
  | 0x231 => (s.cluster h.trssel).trs.setWidth 64
  | 0x240 => h.devid.setWidth 64
  | 0x241 => h.rtbase
  | 0x250 => h.csp0b
  | 0x251 => h.csp0l
  | 0x252 => h.csp1b
  | 0x253 => h.csp1l
  | 0x256 => h.eccc
  | 0x257 => BitVec.ofNat 64 (rsts s)
  | 0x258 => h.dumpa
  | _ => 0

/-- A write of TCFG, field by field (R405). -/
def writeTcfg (s : State) (tn : Nat) (v : Word) : State :=
  let t := s.ten tn
  if t.en then (if v.getLsbD 0 then s else nextOf (execTenantReset tn s) s)
  else if v.getLsbD 0 then nextOf (execTenantCreate tn (bitsOf v 15 8) s) s
  else s.modTen tn (fun t => { t with vmid := bitsOf v 15 8 })

/-- What a write of the H level does; one that breaks a check of its rule is discarded. -/
def writeH (s : State) (n : Nat) (v : Word) : State :=
  let h := s.dev.h
  let tn := h.tnsel
  let idle (f : Tenant → Tenant) : State := if (s.ten tn).en then s else s.modTen tn f
  match n with
  | 0x200 => withHsem s (fun h => { h with discA := h.discA && !v.getLsbD 2, discB := h.discB && !v.getLsbD 3 })
  | 0x201 => s.withH (fun h => { h with tnsel := bitsOf v 4 0 })
  | 0x202 => writeTcfg s tn v
  | 0x203 => idle (fun t => { t with part0 := v })
  | 0x204 => idle (fun t => { t with part1 := v })
  | 0x205 => s.modTen tn (fun t => { t with s2base := BitVec.ofNat 64 (bitsOf v 51 12 * 4096) })
  | 0x206 => idle (fun t => { t with rootpc := BitVec.ofNat 64 (bitsOf v 51 2 * 4) })
  | 0x207 => s.withH (fun h => { h with mwsel := bitsOf v 3 0 })
  | 0x208 => nextOf (execMemoryWindowWrite tn h.mwsel false v s) s
  | 0x209 => nextOf (execMemoryWindowWrite tn h.mwsel true v s) s
  | 0x20A => nextOf (execHinvWrite v s) s
  | 0x210 => s.withH (fun h => { h with pbsel := bitsOf v 4 0 })
  | 0x211 => nextOf (execPbudWrite h.pbsel (bitsOf v 15 0) s) s
  | 0x220 => nextOf (execVdmapWrite 0 v s) s
  | 0x221 => nextOf (execVdmapWrite 1 v s) s
  | 0x222 => nextOf (execVdmapWrite 2 v s) s
  | 0x223 => nextOf (execVdmapWrite 3 v s) s
  | 0x230 => s.withH (fun h => { h with trssel := bitsOf v 6 0 })
  | 0x240 => s.withH (fun h => { h with devid := v.setWidth 16 })
  | 0x241 => nextOf (execRtbaseWrite v s) s
  | 0x250 => s.withH (fun h => { h with csp0b := BitVec.ofNat 64 (bitsOf v 51 16 * 65536) })
  | 0x251 => s.withH (fun h => { h with csp0l := BitVec.ofNat 64 (bitsOf v 51 16 * 65536) })
  | 0x252 => s.withH (fun h => { h with csp1b := BitVec.ofNat 64 (bitsOf v 51 16 * 65536) })
  | 0x253 => s.withH (fun h => { h with csp1l := BitVec.ofNat 64 (bitsOf v 51 16 * 65536) })
  | 0x254 => if bitsOf v 63 7 != 0 then s else nextOf (execClusterReset (bitsOf v 6 0) s) s
  | 0x255 => if v = 0x5752 then nextOf (execWarmReset s) s else s
  | 0x256 => s.withH (fun h => { h with eccc := h.eccc &&& ~~~v })
  | 0x258 => s.withH (fun h => { h with dumpa := BitVec.ofNat 64 (bitsOf v 51 6 * 64) })
  | 0x259 => nextOf (execStateDump v s) s
  | _ => s

/-- R404, R409: a host's access to BAR 0. Only an aligned access of 8 bytes reaches a register, and a write needs HSEM, but for
one to HSEM itself (R410). -/
def execHostCsrAccess (p : Port) (off size : Nat) (wr : Option Word) (s : State) : Out :=
  let n := 0x200 + off / 8
  let ok := size == 8 && off % 8 == 0 && decide (n < 0x300) && csrAssigned n
  match wr with
  | none =>
    if !ok then .next (answerHost s p (BitVec.ofNat 64 (2 ^ (8 * size) - 1)))
    else if n == 0x200 then execHsemRead p s
    else .next (answerHost s p (readH s n))
  | some v =>
    if !ok then .next s
    else if n == 0x200 then (if v.getLsbD 8 then execHsemRelease p (writeH s n v) else .next (writeH s n v))
    else if s.dev.h.hsem.holder != Port.owner p then .next (discard s p)
    else .next (writeH s n v)

/-! ## M level (Table 19.3) -/

/-- Settings in the layout of Table 19.4. -/
def settingsWord (x : Settings) : Nat := x.vln + x.lsu * 2 ^ 4 + x.iss * 2 ^ 8 + x.frq * 2 ^ 12

/-- TSENSs (Table 19.5): TEMP before the first sample has no value in the spec (log entry 1). -/
def tsens (s : State) (k : Nat) : Word :=
  match s.dev.m.sensors.find? (fun x => x.num == k) with
  | some x => BitVec.ofNat 64 (x.temp.toNat + if x.valid then 2 ^ 31 else 0)
  | none => BitVec.ofNat 64 (Config.sensorTemp k).toNat

/-- What a number of the M level reads. -/
def readM (s : State) (n : Nat) : Word :=
  let m := s.dev.m
  let c := s.cluster m.tsel
  match n with
  | 0x300 => BitVec.ofNat 64 m.tsel
  | 0x301 => c.tctl
  | 0x302 => c.trs.setWidth 64
  | 0x303 => BitVec.ofNat 64 (settingsWord c.eff + activeReasons s c * 2 ^ 24)
  | 0x380 => m.talrt.setWidth 64
  | 0x381 => m.tap
  | 0x382 => m.mtick.setWidth 64
  | 0x383 => m.mie.setWidth 64
  | 0x384 => BitVec.ofNat 64 (mipBits m)
  | 0x385 => 0
  | 0x386 => BitVec.ofNat 64 ((if m.upd then 1 else 0) + if safeInForce m then 2 else 0)
  | _ => tsens s (n - 0x340)

/-- What a write of the M level does. -/
def writeM (s : State) (n : Nat) (v : Word) : State :=
  let c := s.dev.m.tsel
  match n with
  | 0x300 => s.withM (fun m => { m with tsel := v.toNat })
  | 0x301 => nextOf (execTctlWrite c v s) s
  | 0x302 => change s [c] (fun s => s.modCluster c (fun (k : Cluster) => { k with trs := k.trs &&& ~~~v.setWidth 5 }))
  | 0x380 => s.withM (fun m => { m with talrt := v.setWidth 16 })
  | 0x381 => s.withM (fun m => { m with tap := m.tap &&& ~~~v })
  | 0x382 => s.withM (fun m => { m with mtick := v.setWidth 32, tickUs := 0 })
  | 0x383 => s.withM (fun m => { m with mie := v.setWidth 3 })
  | 0x384 => s.withM (fun m => { m with mip := m.mip &&& ~~~BitVec.ofNat 2 (bitsOf v 2 1) })
  | 0x385 => nextOf (execWdogWrite s) s
  | 0x386 => nextOf (execPctlWrite v s) s
  | _ => s

/-! ## The instructions (R113) -/

/-- A read by number. -/
def csrRead (s : State) (n : Nat) : Word × State :=
  match n / 256 with
  | 0 => readU s n
  | 1 => readK s n
  | 2 => (readH s n, s)
  | _ => (readM s n, s)

/-- A write by number. -/
def csrPut (s : State) (n : Nat) (v : Word) : State :=
  match n / 256 with
  | 0 => writeU s n v
  | 1 => writeK s n v
  | 2 => writeH s n v
  | _ => writeM s n v

/-- The numbers thaw context may access: FFLAGS, MR and the loop registers (R182). -/
def thawCsr (n : Nat) : Bool := n == 0 || n == 0x10 || decide (8 ≤ n ∧ n ≤ 0xD)

/-- The value a write, a set or a clear writes. -/
def csrValue (op : CsrOp) (prev a : Word) : Word :=
  match op with | .read => prev | .write => a | .set => prev ||| a | .clear => prev &&& ~~~a

/-- The clusters whose switches a write has started: they switch in the second state and not in the first (R380). -/
def switchesIn (s t : State) (n : Nat) : List Nat :=
  ((List.range 32).map (32 * n + ·)).filter (fun c => vdCode s.dev.h c != vdCode t.dev.h c && (t.cluster c).switching)

/-- A CSR instruction whose checks of R30 have passed. -/
def csrDo (s : State) (word : Nat) (op : CsrOp) (d a : SReg) (num : CsrNum) : Out :=
  let n := num.toNat
  let rs := if op == .read then [] else [a]
  readS s word rs (some d) (fun vs =>
    if n == 0x10 && !(divDone s s.cpu && s.cpu.mem.alus.isEmpty) then .next (s.waitFor (.csrFlags op d a num))
    else
      let (prev, s1) := csrRead s n
      if op == .read then retire s1 rs d prev
      else
        let v := csrValue op prev (opd vs 0)
        if csrReadOnly n then ill s word
        else if csrRejects s.cpu n v then trap s Cause.ill v
        else if n == 0x255 && v = 0x5752 then execWarmReset s
        else
          let s2 := csrPut s1 n v
          let cs := if 0x220 ≤ n && n ≤ 0x223 then switchesIn s1 s2 (n - 0x220) else []
          if cs.isEmpty then retire s2 rs d prev
          else .next ((writeS (popPorts s2 rs) d prev).waitFor (.vdmap op d a num cs)))

/-- csrr, csrw, csrs and csrc: the checks of R30 come after those of the ports (R17, R57). -/
def csrOp (s : State) (word : Nat) (op : CsrOp) (d a : SReg) (num : CsrNum) : Out :=
  let n := num.toNat
  match s.cpu.wait with
  | some (.vdmap o x y z cs) => if cs.any (fun c => (s.cluster c).switching) then .next (s.waitFor (.vdmap o x y z cs)) else .next (complete s)
  | _ => portGate s word (if op == .read then [] else [a]) (some d) (
    match csrLevel n with
    | none => ill s word
    | some l =>
      if isThaw s.cpu.id && !thawCsr n then ill s word
      else if s.cpu.ctl.level.rank < l.rank then trap s Cause.prm (BitVec.ofNat 64 n)
      else if !csrAssigned n then ill s word
      else csrDo s word op d a num)
where
  isThaw : StrandId → Bool
    | .thaw _ _ => true
    | _ => false

/-- R113. -/
def execCsrr (d : SReg) (n : CsrNum) (s : State) : Out := csrOp s (encodeNat (.csrr d n)) .read d 0 n

/-- R113. -/
def execCsrw (d a : SReg) (n : CsrNum) (s : State) : Out := csrOp s (encodeNat (.csrw d a n)) .write d a n

/-- R113. -/
def execCsrs (d a : SReg) (n : CsrNum) (s : State) : Out := csrOp s (encodeNat (.csrs d a n)) .set d a n

/-- R113. -/
def execCsrc (d a : SReg) (n : CsrNum) (s : State) : Out := csrOp s (encodeNat (.csrc d a n)) .clear d a n

/-- The instruction a CSR wait stands for. -/
def csrAgain (op : CsrOp) (d a : SReg) (n : CsrNum) (s : State) : Out :=
  match op with
  | .read => execCsrr d n s
  | .write => execCsrw d a n s
  | .set => execCsrs d a n s
  | .clear => execCsrc d a n s

/-- R98: a waiting access to FFLAGS. -/
def execFflagsAccess (t : StrandId) (s : State) : Out :=
  resumeWait s t (fun w => match w with | .csrFlags op d a n => some (csrAgain op d a n) | _ => none)

end Sys2Proof.Machine
end

