-- ==== Sys2Proof/Machine/Fpu.lean ====
section
/-! DEFINITION. Scalar floating point (R116 to R120). MR.RM rounds; FZ and SAT do not act (R116). -/

namespace Sys2Proof.Machine

/-- The layout of a scalar type. -/
def FTyFF (t : FTy) : FF := (floatFmt (fmtOf t)).getD ffFP32

/-- A source operand: bits w − 1 to 0 of its register (R116). -/
def fpBits (t : FTy) (v : Word) : Nat := v.toNat % 2 ^ fmtWidth (fmtOf t)
def fpVal (t : FTy) (v : Word) : Val := decodeF (FTyFF t) (fpBits t v)

/-- MR.RM of the strand. -/
def rmOf (s : State) : RM := mrRm s.cpu.ctl.mr

/-- Writes a result and accrues its flags. -/
def retireF (s : State) (rs : List SReg) (d : SReg) (r : FRes) : Out :=
  retireOf (accrue s r.2) rs d (BitVec.ofNat 64 r.1)

def fpu2 (s : State) (word : Nat) (d a b : SReg) (f : List Word → FRes) : Out :=
  readS s word [a, b] (some d) (fun vs => retireF s [a, b] d (f vs))

def fpu1 (s : State) (word : Nat) (d a : SReg) (f : Word → FRes) : Out :=
  readS s word [a] (some d) (fun vs => retireF s [a] d (f (opd vs 0)))

/-- A comparison: NV for a signalling NaN, or for any NaN where `quietNv` (Table 5.4). -/
def fcmp (t : FTy) (quietNv : Bool) (p : Ordering → Bool) (vs : List Word) : FRes :=
  let x := fpVal t (opd vs 0)
  let y := fpVal t (opd vs 1)
  if x.isNan || y.isNan then (0, if quietNv then .nv else sigFl [x, y])
  else (if p (x.cmp y) then 1 else 0, 0)

/-- R117, x + y. -/
def execFadd (d a b : SReg) (t : FTy) (s : State) : Out :=
  fpu2 s (encodeNat (.fadd d a b t)) d a b (fun vs => addF (FTyFF t) (rmOf s) false (fpVal t (opd vs 0)) (fpVal t (opd vs 1)))

/-- R117, x − y. -/
def execFsub (d a b : SReg) (t : FTy) (s : State) : Out :=
  fpu2 s (encodeNat (.fsub d a b t)) d a b (fun vs => addF (FTyFF t) (rmOf s) false (fpVal t (opd vs 0)) (fpVal t (opd vs 1)).neg)

/-- R117, x × y. -/
def execFmul (d a b : SReg) (t : FTy) (s : State) : Out :=
  fpu2 s (encodeNat (.fmul d a b t)) d a b (fun vs => mulF (FTyFF t) (rmOf s) false (fpVal t (opd vs 0)) (fpVal t (opd vs 1)))

/-- R117, x / y. -/
def execFdiv (d a b : SReg) (t : FTy) (s : State) : Out :=
  fpu2 s (encodeNat (.fdiv d a b t)) d a b (fun vs => divF (FTyFF t) (rmOf s) false (fpVal t (opd vs 0)) (fpVal t (opd vs 1)))

/-- R117, √x. -/
def execFsqrt (d a : SReg) (t : FTy) (s : State) : Out :=
  fpu1 s (encodeNat (.fsqrt d a t)) d a (fun v => sqrtF (FTyFF t) (rmOf s) false (fpVal t v))

/-- R117, R96 minimum. -/
def execFmin (d a b : SReg) (t : FTy) (s : State) : Out :=
  fpu2 s (encodeNat (.fmin d a b t)) d a b (fun vs => minmaxF (FTyFF t) false (fpVal t (opd vs 0)) (fpVal t (opd vs 1)) (fpBits t (opd vs 0)) (fpBits t (opd vs 1)))

/-- R117, R96 maximum. -/
def execFmax (d a b : SReg) (t : FTy) (s : State) : Out :=
  fpu2 s (encodeNat (.fmax d a b t)) d a b (fun vs => minmaxF (FTyFF t) true (fpVal t (opd vs 0)) (fpVal t (opd vs 1)) (fpBits t (opd vs 0)) (fpBits t (opd vs 1)))

/-- R117, x == y. -/
def execFeq (d a b : SReg) (t : FTy) (s : State) : Out :=
  fpu2 s (encodeNat (.feq d a b t)) d a b (fun vs => fcmp t false (· == .eq) vs)

/-- R117, x < y. -/
def execFlt (d a b : SReg) (t : FTy) (s : State) : Out :=
  fpu2 s (encodeNat (.flt d a b t)) d a b (fun vs => fcmp t true (· == .lt) vs)

/-- R117, x ≤ y. -/
def execFle (d a b : SReg) (t : FTy) (s : State) : Out :=
  fpu2 s (encodeNat (.fle d a b t)) d a b (fun vs => fcmp t true (· != .gt) vs)

/-- R118, the class word. -/
def execFclass (d a : SReg) (t : FTy) (s : State) : Out :=
  fpu1 s (encodeNat (.fclass d a t)) d a (fun v => (classWord (FTyFF t) (fpBits t v), 0))

/-- R119, between float types; S equal to T raises ILL. -/
def execFcvtFF (d a : SReg) (t src : FTy) (s : State) : Out :=
  if t = src then ill s (encodeNat (.fcvtFF d a t src))
  else fpu1 s (encodeNat (.fcvtFF d a t src)) d a (fun v => encConvF (FTyFF t) (rmOf s) false false (fpVal src v))

/-- The integer a register holds for `fcvt` (R119). -/
def ITyVal (i : ITy) (v : Word) : Int :=
  match i with
  | .i64 => intVal 64 true v.toNat | .ui64 => intVal 64 false v.toNat
  | .i32 => intVal 32 true v.toNat | .ui32 => intVal 32 false v.toNat

/-- R119, from an integer. -/
def execFcvtFI (d a : SReg) (t : FTy) (src : ITy) (s : State) : Out :=
  fpu1 s (encodeNat (.fcvtFI d a t src)) d a (fun v => encArith (FTyFF t) (rmOf s) false (.ofInt (ITyVal src v)))

/-- R119, R94, to an integer; an i32 result is sign-extended, a ui32 result zero-extended. -/
def toITy (i : ITy) (rm : RM) (x : Val) : FRes :=
  match i with
  | .i64 => encConvI 64 true rm x | .ui64 => encConvI 64 false rm x
  | .i32 => let r := encConvI 32 true rm x; (((BitVec.ofNat 32 r.1).signExtend 64).toNat, r.2)
  | .ui32 => encConvI 32 false rm x

/-- R119, to an integer. -/
def execFcvtIF (d a : SReg) (t : FTy) (dst : ITy) (s : State) : Out :=
  fpu1 s (encodeNat (.fcvtIF d a t dst)) d a (fun v => toITy dst (rmOf s) (fpVal t v))

/-- R117, the sign of b. -/
def execFsgnj (d a b : SReg) (t : FTy) (s : State) : Out :=
  fpu2 s (encodeNat (.fsgnj d a b t)) d a b (fun vs => sgnjF (FTyFF t) 0 (fpBits t (opd vs 0)) (fpBits t (opd vs 1)))

/-- R117, the inverted sign of b. -/
def execFsgnjN (d a b : SReg) (t : FTy) (s : State) : Out :=
  fpu2 s (encodeNat (.fsgnjN d a b t)) d a b (fun vs => sgnjF (FTyFF t) 1 (fpBits t (opd vs 0)) (fpBits t (opd vs 1)))

/-- R117, the exclusive or of the signs. -/
def execFsgnjX (d a b : SReg) (t : FTy) (s : State) : Out :=
  fpu2 s (encodeNat (.fsgnjX d a b t)) d a b (fun vs => sgnjF (FTyFF t) 2 (fpBits t (opd vs 0)) (fpBits t (opd vs 1)))

/-- R120, ffma. -/
def execFfma (d a b c : SReg) (t : FTy) (s : State) : Out :=
  readS s (encodeNat (.ffma d a b c t)) [a, b, c] (some d) (fun vs =>
    retireF s [a, b, c] d
      (fmaF (FTyFF t) (rmOf s) false false false (fpVal t (opd vs 0)) (fpVal t (opd vs 1)) (fpVal t (opd vs 2))))

/-- R120, ffms. -/
def execFfms (d a b c : SReg) (t : FTy) (s : State) : Out :=
  readS s (encodeNat (.ffms d a b c t)) [a, b, c] (some d) (fun vs =>
    retireF s [a, b, c] d
      (fmaF (FTyFF t) (rmOf s) false false true (fpVal t (opd vs 0)) (fpVal t (opd vs 1)) (fpVal t (opd vs 2))))

/-- R120, ffnma. -/
def execFfnma (d a b c : SReg) (t : FTy) (s : State) : Out :=
  readS s (encodeNat (.ffnma d a b c t)) [a, b, c] (some d) (fun vs =>
    retireF s [a, b, c] d
      (fmaF (FTyFF t) (rmOf s) false true false (fpVal t (opd vs 0)) (fpVal t (opd vs 1)) (fpVal t (opd vs 2))))

/-- R120, ffnms. -/
def execFfnms (d a b c : SReg) (t : FTy) (s : State) : Out :=
  readS s (encodeNat (.ffnms d a b c t)) [a, b, c] (some d) (fun vs =>
    retireF s [a, b, c] d
      (fmaF (FTyFF t) (rmOf s) false true true (fpVal t (opd vs 0)) (fpVal t (opd vs 1)) (fpVal t (opd vs 2))))

/-- The floating-point instructions that read scalar registers and write one (Table 3.6), with their sources and their destination. -/
def floatForm : Instr → Option (List SReg × SReg)
  | .fadd d a b _ => some ([a, b], d) | .fsub d a b _ => some ([a, b], d) | .fmul d a b _ => some ([a, b], d)
  | .fdiv d a b _ => some ([a, b], d) | .fmin d a b _ => some ([a, b], d) | .fmax d a b _ => some ([a, b], d)
  | .feq d a b _ => some ([a, b], d) | .flt d a b _ => some ([a, b], d) | .fle d a b _ => some ([a, b], d)
  | .fsgnj d a b _ => some ([a, b], d) | .fsgnjN d a b _ => some ([a, b], d) | .fsgnjX d a b _ => some ([a, b], d)
  | .fsqrt d a _ => some ([a], d) | .fclass d a _ => some ([a], d) | .fcvtFF d a _ _ => some ([a], d) | .fcvtFI d a _ _ => some ([a], d)
  | .fcvtIF d a _ _ => some ([a], d) | .ffma d a b c _ => some ([a, b, c], d) | .ffms d a b c _ => some ([a, b, c], d)
  | .ffnma d a b c _ => some ([a, b, c], d) | .ffnms d a b c _ => some ([a, b, c], d)
  | _ => none

end Sys2Proof.Machine
end

