-- ==== Sys2Proof/Machine/Moves.lean ====
section
/-! DEFINITION. The moves of the ordering machine (R275 to R287, Table 13.2) and of the thaw threads (R180 to R183, R196). An
event whose condition does not hold changes nothing. -/

namespace Sys2Proof.Machine

/-! ## Where a vector value is -/

/-- The place numbers of a vector value: 0 to 31 a register, 32 + n the n-th entry of vq0, vq1, vq2, vq3 taken together, 200 + n the
n-th value that an instruction is building or keeps aside; 100 is the image of an `svld`, 101 the scalar loads. -/
def placeQueue : Nat := 32
def placeSv : Nat := 100
def placeLoads : Nat := 101
def placeStaging : Nat := 200

/-- The n-th entry of the vector queues. -/
def queueEntry (q : Queues) (n : Nat) : Option VVal := (q.vq0 ++ q.vq1 ++ q.vq2 ++ q.vq3)[n]?

/-- Replaces it. -/
def setQueueEntry (q : Queues) (n : Nat) (v : VVal) : Queues :=
  let a := q.vq0.length
  let b := a + q.vq1.length
  let c := b + q.vq2.length
  if n < a then { q with vq0 := q.vq0.set n v }
  else if n < b then { q with vq1 := q.vq1.set (n - a) v }
  else if n < c then { q with vq2 := q.vq2.set (n - b) v }
  else { q with vq3 := q.vq3.set (n - c) v }

/-- The queues of a strand's task. -/
def strandQueues (s : State) (x : Strand) : Queues := match (tidOf x.id).bind s.task? with | some t => t.queues | none => .zero

/-- Whether the n-th entry of the vector queues is one that the strand has pushed: its reads are that strand's (R170). -/
def pushedBy (s : State) (x : Strand) (n : Nat) : Bool :=
  let q := strandQueues s x
  let c := q.vq0.length + q.vq1.length + q.vq2.length
  if isE x.id then decide (c ≤ n) else decide (n < c)

/-- The vector value at a place of a strand. -/
def valueAt (s : State) (x : Strand) (p : Nat) : Option VVal :=
  if p < placeQueue then x.regs.v.toList[p]?
  else if placeStaging ≤ p then (x.staging[p - placeStaging]?).map (·.2)
  else if pushedBy s x (p - placeQueue) then queueEntry (strandQueues s x) (p - placeQueue)
  else none

/-- Replaces it; what a register holds may depend on a read that performs now (R275). -/
def setValueAt (s : State) (x : Strand) (p : Nat) (v : VVal) : State :=
  if p < placeQueue then s.modStrand x.id (fun y => { y with
    regs := { y.regs with v := y.regs.v.setIfInBounds p v }, mem := { y.mem with vdep := y.mem.vdep.setIfInBounds p s.dev.nextUid } })
  else if placeStaging ≤ p then s.modStrand x.id (fun y => { y with staging := y.staging.modify (p - placeStaging) (fun e => (e.1, v)) })
  else match tidOf x.id with
    | some tid => s.modTask tid (fun t => { t with queues := setQueueEntry t.queues (p - placeQueue) v })
    | none => s

/-! ## Read and Land (R277, R282) -/

/-- The bits a pending read returns. -/
def pendBits (s : State) (x : Strand) (r : PendRead) : Nat :=
  leNat (vectorBytes s x r.ord r.loc r.bytes) / 2 ^ r.srcBit % 2 ^ r.width

/-- Reads of the same side made early are made again where an older access comes to some bytes (R277). -/
def forgetAt (s : State) (x : Strand) (vec : Bool) (l : Loc) (n : Nat) : State :=
  if x.mem.early.isEmpty then s
  else s.modStrand x.id (fun y => { y with mem := y.mem.forget (fun e => e.vec == vec && overlaps l n e.loc e.n) })

/-- A read of a vector load. -/
def readVector (s : State) (x : Strand) (p k : Nat) : State :=
  match valueAt s x p with
  | some v => match v.pend[k]? with
    | some r =>
      if olderRead s x v.pend k r then s
      else forgetAt (setValueAt s x p (takeRead v r (pendBits s x r) (poisonedVec s x r.ord r.loc r.bytes))) x true r.loc r.bytes
    | none => s
  | none => s

/-- A read of an `svld`'s image; the instruction meets the poison of it once all of it has been read (R226, R435). -/
def readImage (s : State) (x : Strand) (k : Nat) : State :=
  match x.mem.sv with
  | some l => match l.pend[k]? with
    | some r =>
      if olderRead s x l.pend k r then s
      else
        let word := r.pos / 32
        let bad := if poisonedVec s x r.ord r.loc r.bytes then some ((l.bad.map (Nat.min word)).getD word) else l.bad
        let l1 : SvLoad := { l with bits := putBits 16384 l.bits r.pos r.width r.live (pendBits s x r), pend := l.pend.eraseIdx k, bad := bad }
        forgetAt (s.modStrand x.id (fun y => { y with mem := { y.mem with sv := some l1 } })) x true r.loc r.bytes
    | none => s
  | none => s

/-- An operand that waits for an entry takes what the entry supplies. -/
def POpd.resolve (o : POpd) (ord : Nat) (v : Word) : POpd := if o = .link ord then .val v else o

/-- A computation put aside takes the value of entry `ord`, with its poison. -/
def PAlu.resolve (p : PAlu) (ord : Nat) (v : Word) (bad : Bool) : PAlu :=
  { p with srcs := p.srcs.map (fun x => (x.1, x.2.resolve ord v)), bad := p.bad || (bad && p.srcs.any (fun x => x.2 = .link ord)) }

/-- A store that waits for it has its data; a poisoned value takes its poison along (R435). -/
def SEnt.resolve (e : SEnt) (ord : Nat) (v : Word) (bad : Bool) : SEnt :=
  if e.src = some ord then { e with data := leBytes e.data.length v.toNat, src := none, bad := bad } else e

/-- The value of an entry of the program-order buffer arrives: in its register, if that still waits for it, and in the computations
and the stores that do. Poison marks the register, for its consumer (R435). -/
def arrive (s : State) (t : StrandId) (reg : Option SReg) (ord : Nat) (v : Word) (bad : Bool) : State :=
  let now := s.dev.nextUid
  s.modStrand t (fun y =>
    let y1 := if y.mem.alus.isEmpty && y.mem.pob.isEmpty then y else { y with mem := { y.mem with
      alus := y.mem.alus.map (fun p => p.resolve ord v bad), pob := y.mem.pob.map (fun e => e.resolve ord v bad) } }
    match reg with
    | none => y1
    | some r =>
      let bit : BitVec 32 := 1#32 <<< r.toNat
      { y1 with
        regs := { y1.regs with s := y1.regs.s.set r.toNat v r.isLt, sPoison := if bad then y1.regs.sPoison ||| bit else y1.regs.sPoison &&& ~~~bit },
        mem := { y1.mem with dep := y1.mem.dep.set r.toNat now r.isLt } })

/-- A scalar load that had completed performs (R275, R277). -/
def readScalar (s : State) (x : Strand) (k : Nat) : State :=
  match x.mem.loads[k]? with
  | some r =>
    if x.mem.heldRead r.ord r.loc r.n then s
    else
      let v := loaded r.signed (scalarBytesAt s x r.ord r.loc r.n)
      let bad := poisonedRead s x r.ord r.loc r.n
      let s1 := s.modStrand x.id (fun y => { y with mem := { y.mem with loads := y.mem.loads.eraseIdx k } })
      arrive (forgetAt s1 x false r.loc r.n) x.id r.reg r.ord v bad
  | none => s

/-- R277. -/
def execRead (t : StrandId) (p k : Nat) (s : State) : Out :=
  match s.strand? t with
  | some x =>
    .next (if p = placeSv then readImage s x k else if p = placeLoads then readScalar s x k else readVector s x p k)
  | none => .next s

/-- A group of register p is one that a `vfas` which has not performed writes. -/
def MemSt.fasHolds (m : MemSt) (p g : Nat) : Bool :=
  m.vfas.any (fun q => q.d.map (·.toNat) == some p && touches (fmtWidth q.et) (q.els.map (·.1)) g)

/-- R282: group g lands once every read of it has performed. -/
def execLand (t : StrandId) (p g : Nat) (s : State) : Out :=
  match s.strand? t with
  | some x => match valueAt s x p with
    | some v =>
      if v.pend.any (fun r => r.dst == .bits && r.pos / 1024 == g) || x.mem.fasHolds p g then .next s
      else .next (setValueAt s x p { v with landed := v.landed ||| (1#8 <<< g) })
    | none => .next s
  | none => .next s

/-! ## Scalar stores (R278, R280) -/

/-- R278: a store leaves the buffer once it has its data. -/
def execPush (t : StrandId) (s : State) : Out :=
  .next (s.modStrand t (fun x => match x.mem.pob with
    | e :: es => if e.src.isSome then x else { x with mem := { x.mem with pob := es, ssb := x.mem.ssb ++ [e] } }
    | [] => x))

/-- R280. -/
def execEnterScalar (t : StrandId) (s : State) : Out :=
  match s.strand? t with
  | some x => match x.mem.ssb with
    | e :: es =>
      if x.mem.heldStore e then .next s
      else
        let s := s.modStrand t (fun y => { y with mem := { y.mem with ssb := es } })
        .next (enterBad (enter s e.loc e.data t x.cluster .strand .plain e.ord) e.loc e.data.length e.bad)
    | [] => .next s
  | none => .next s

/-! ## Trains (R281, R291) -/

/-- The value of the data register of a store that a strand waits in for its data: the register, or the entry at the head of the queue
that it names. -/
def dataReg (s : State) (x : Strand) (d : VReg) : VVal :=
  if roleOf s x != .single && isVPort d then (vQueue (strandQueues s x) d).headD VVal.zero else x.regs.v[d.toNat]'(d.isLt)

/-- What stands of the data of train `tr`, the width of its elements, and whether its store is complete, while some of its elements wait
for the rest (R279, R281). -/
def supplyOf (s : State) (x : Strand) (tr : Nat) : Option (VVal × Nat × Bool) :=
  match x.mem.supplies.find? (fun p => p.id == tr) with
  | some p => some (x.regs.v[p.d.toNat]'(p.d.isLt), p.w, true)
  | none => match x.wait with
    | some (.supply d w id _) => if id == tr then some (dataReg s x d, w, false) else none
    | _ => none

/-- An element is supplied, once its group of the data register is ready. Poison there is its store's, as long as that waits; once it is
complete, the word has it (R435). -/
def TElem.supply (e : TElem) (v : Option (VVal × Nat × Bool)) : TElem :=
  match e.src, v with
  | none, _ => { e with supplied := true }
  | some x, some (v, w, over') =>
    let gs := elemGroups w x.els
    if !vReady v gs then e
    else if (vPoisoned v gs).isNone then { e.capture v w with supplied := true }
    else if over' then { e.capture v w with supplied := true, bad := true }
    else e
  | some _, none => e

/-- The elements of train `tr` that p names are supplied, where they may be. A store that is complete needs its register no more once all
are. -/
def supplyElems (s : State) (x : Strand) (tr : Nat) (p : TElem → Bool) : State :=
  let v := supplyOf s x tr
  s.modStrand x.id (fun y =>
    let go (u : Train) : Train := if u.id == tr then { u with elems := u.elems.map (fun e => if p e then e.supply v else e) } else u
    let ts := y.mem.trains.map go
    let waits (q : PSupply) : Bool := ts.any (fun u => u.id == q.id && u.elems.any (fun e => e.src.isSome))
    { y with mem := { y.mem with trains := ts, supplies := y.mem.supplies.filter waits } })

/-- R281. -/
def execSupply (t : StrandId) (tr n : Nat) (s : State) : Out :=
  match s.strand? t with
  | some x => .next (supplyElems s x tr (fun e => e.n == n))
  | none => .next s

/-- Whether an element may enter: it is supplied; in an ordered train every earlier one has entered, those of the train it goes
on from included; the strand's older vector-side accesses to its bytes are over (R170, R272, R281, R291); and no earlier `fence.rel`
is pending (Table 13.3). -/
def mayEnter (s : State) (x : Strand) (u : Train) (e : TElem) : Bool :=
  e.supplied &&
  (!u.ordered || ((u.elems.head?.map (·.n)) == some e.n &&
    (match u.prior with | some p => x.mem.trains.all (fun w => w.id != p) | none => true))) &&
  vectorClear s x u.id e.loc e.data.length && !x.mem.fenced u.id

/-- The strand's element (tr, n), if it may enter. -/
def enterable (s : State) (t : StrandId) (tr n : Nat) : Option (Strand × Train × TElem) :=
  match s.strand? t with
  | some x => match x.mem.trains.find? (fun u => u.id == tr) with
    | some u => match u.elems.find? (fun e => e.n == n) with
      | some e => if mayEnter s x u e then some (x, u, e) else none
      | none => none
    | none => none
  | none => none

/-- An element leaves its train; a train without elements is gone. -/
def leaveTrain (s : State) (t : StrandId) (tr n : Nat) : State :=
  s.modStrand t (fun x => { x with mem := { x.mem with
    trains := (x.mem.trains.map (fun u => if u.id == tr then { u with elems := u.elems.filter (fun e => e.n != n) } else u)).filter
      (fun u => !u.elems.isEmpty) } })

/-- The tag of an element's write: an element of an unordered train is a train of its own, which orders nothing. -/
def elemTag (s : State) (u : Train) (n : Nat) : WTag × State :=
  if u.ordered then (.train u.id n u.prior, s) else let (id, s) := s.fresh; (.train id 0 none, s)

/-- R281. -/
def execEnterTrain (t : StrandId) (tr n : Nat) (s : State) : Out :=
  match enterable s t tr n with
  | some (x, u, e) =>
    if e.op == .store then
      let bs := elemBytes memAddBytes s e
      let (tag, s) := elemTag (leaveTrain s t tr n) u n
      .next (enterBad (enter s e.loc bs t x.cluster .strand tag u.id) e.loc bs.length e.bad)
    else .next s
  | none => .next s

/-! ## Widen (R276, R280, R281, R289) -/

/-- Whether the k-th record of coherence order, r, may take the next wider scope. -/
def mayWiden (s : State) (k : Nat) (r : WRec) : Bool :=
  let wider := scopeNext r.vis
  let reached (q : WRec) : Bool := visAtLeast q.loc q.vis wider
  r.vis != .system && decide (r.vis.code < (maxVis r.loc).code) &&
  match r.tag with
  | .plain => true
  | .engine => true
  | .payload _ => true
  | .train id n prior => s.log.all (fun q => match q.tag with
      | .train j m _ => !((j == id && decide (m < n)) || some j == prior) || reached q
      | _ => true)
  | .stamp copy sender =>
      (match copy with | some c => s.log.all (fun q => q.tag != .payload c || reached q) | none => true) &&
      (match sender with
        | some a => (s.log.take k).all (fun q => match q.tag with | .far d t _ _ _ => (d, t) != a || reached q | _ => true)
        | none => true)
  | .far _ _ train n ordered => !ordered || s.log.all (fun q => match q.tag with
      | .far _ _ j m _ => !(j == train && decide (m < n)) || reached q
      | _ => true)

/-- R276: the k-th write of coherence order that has not settled. -/
def execWiden (k : Nat) (s : State) : Out :=
  match s.log[k]? with
  | some r => if mayWiden s k r then .next (foldLog { s with log := s.log.set k { r with vis := scopeNext r.vis } }) else .next s
  | none => .next s

/-! ## Atomic moves (R283, R103) -/

/-- An addition that may happen now, with its format. -/
def addable (s : State) (t : StrandId) (tr n : Nat) : Option (Strand × Train × TElem × Nat) :=
  match enterable s t tr n with
  | some (x, u, e) => match e.op with
    | .add f => if atomicReady s x u.id e.loc e.data.length then some (x, u, e, f) else none
    | .store => none
  | none => none

/-- One addition of a `vscadd`, which leaves bs in memory. -/
def addOne (s : State) (t : StrandId) (x : Strand) (u : Train) (e : TElem) (bs : List Byte) : State :=
  let (tag, s) := elemTag (leaveTrain s t u.id e.n) u e.n
  enterBad (enter s e.loc bs t x.cluster (amoScope e.loc) tag u.id) e.loc bs.length e.bad

/-- The AMO of a strand at place `ord` that it has gone past, if it may perform. -/
def pastReady (s : State) (x : Strand) (ord : Nat) : Option PAmo :=
  (x.mem.amos.find? (fun p => p.ord == ord)).filter (fun p => amoReady s x p.ord p.loc (amoBytes p.op.size) p.op.order)

/-- It performs. A word that has been poisoned since it was checked stays as it is, and the register says so (R435). -/
def pastOne (s : State) (x : Strand) (p : PAmo) (sum : Option (Nat × Nat)) : State :=
  let n := amoBytes p.op.size
  let bad := poisonedLast s x p.loc n
  let s0 := forgetAt (s.modStrand x.id (fun y => { y with mem := { y.mem with amos := y.mem.amos.filter (fun q => q.ord != p.ord) } })) x false p.loc n
  let (old, s1) := if bad then (leNat (hide s p.loc (lastBytes s p.loc n)), s0) else amoOne s0 x p.ord p.op p.loc p.v p.cmp sum
  arrive s1 x.id p.reg p.ord (amoResult p.op.size old) bad

/-- The `vfas` of a strand at place `ord` that it has gone past, if it may perform. -/
def pastFas (s : State) (x : Strand) (ord : Nat) : Option PVfas :=
  (x.mem.vfas.find? (fun p => p.ord == ord)).filter (fun p =>
    let n := fmtWidth p.et / 8
    let before (q : PVfas) : Bool := decide (q.ord < p.ord) && overlaps q.loc (fmtWidth q.et / 8) p.loc n
    atomicReady s x p.ord p.loc n && vectorClear s x p.ord p.loc n && !x.mem.vfas.any before)

/-- Its elements take their prefixes, from what the word held; a word that has been poisoned since it was checked poisons the groups
(R435). Where it is one of several additions in one move, `sum` says what it finds and what stands there after them. -/
def fasOne (s : State) (x : Strand) (p : PVfas) (sum : Option (Nat × Nat)) : State :=
  let w := fmtWidth p.et
  let n := w / 8
  let bad := poisonedLast s x p.loc n
  let r := fasGo p.et p.els ((sum.map (·.1)).getD (leNat (hide s p.loc (lastBytes s p.loc n)))) []
  let gs := (List.range 8).filter (touches w (p.els.map (·.1)))
  let take (v : VVal) : VVal :=
    let v := v.write w p.et (r.1.map (fun e => (e.1, e.2, pPresent))) 0 0
    if bad then { v with poison := gs.foldl (fun m g => m ||| (1#8 <<< g)) v.poison } else v
  let s1 := s.modStrand x.id (fun y => { y with
    regs := match p.d with | some d => { y.regs with v := y.regs.v.set d.toNat (take (y.regs.v[d.toNat]'(d.isLt))) d.isLt } | none => y.regs,
    mem := { y.mem with
      vfas := y.mem.vfas.filter (fun q => q.ord != p.ord),
      vdep := match p.d with | some d => y.mem.vdep.set d.toNat s.dev.nextUid d.isLt | none => y.mem.vdep } })
  let s2 := forgetAt s1 x true p.loc n
  if bad then s2 else enter s2 p.loc (leBytes n ((sum.map (·.2)).getD r.2)) x.id x.cluster .device (.train p.ord 0 none) p.ord

/-- R283: an addition of a train; or, with its place in program order for `tr`, an AMO or a `vfas` that the strand has gone past; else the
AMO or the `vfas` the strand waits in. -/
def execAtomic (t : StrandId) (tr n : Nat) (s : State) : Out :=
  match addable s t tr n with
  | some (x, u, e, _) => .next (addOne s t x u e (elemBytes memAddBytes s e))
  | none => match (s.strand? t).bind (fun x => (pastReady s x tr).map (fun p => (x, p))) with
    | some (x, p) => .next (pastOne s x p none)
    | none => match (s.strand? t).bind (fun x => (pastFas s x tr).map (fun p => (x, p))) with
    | some (x, p) => .next (fasOne s x p none)
    | none => resumeWait s t (fun w => match w with
      | .amo r => some (fun s => amoAgain s r)
      | .vfas d a b => some (execVfas d a b)
      | _ => none)

/-! ### Several additions in one move (R103, R283)

The additions of a move to one location are the leaves of a binary tree, with the word before as its leftmost leaf. A node's value is
the sum of its children's; a leaf reads the sum of all that stands to its left.
DEDUCED, log entry 44: that is the partial sum at the matching point of the tree, which R103 says a fetching operation reads, as
combining units hand it down. -/

/-- The leaves in order, none for the word. -/
def ATree.leaves : ATree → List (Option Nat)
  | .word => [none]
  | .leaf k => [some k]
  | .node l r => l.leaves ++ r.leaves

/-- What a tree sums to, given the word and what each addition adds. Those of a `vfas` are added one after another to what stands to
their left. -/
def ATree.total (f w : Nat) (xs : List (List Nat)) : ATree → Option Nat
  | .word => some w
  | .leaf k => match xs[k]? with | some [x] => some x | _ => none
  | .node l (.leaf k) => match l.total f w xs, xs[k]? with | some a, some es => some (es.foldl (memAdd f) a) | _, _ => none
  | .node l r => match l.total f w xs, r.total f w xs with | some a, some b => some (memAdd f a b) | _, _ => none

/-- What each addition reads: the sum p of what stands to the tree's left, and the sums within it. -/
def ATree.reads (f w : Nat) (xs : List (List Nat)) (p : Option Nat) : ATree → List (Nat × Nat)
  | .word => []
  | .leaf k => [(k, p.getD w)]
  | .node l r =>
    let a := (l.total f w xs).getD w
    l.reads f w xs p ++ r.reads f w xs (some (match p with | some q => memAdd f q a | none => a))

/-- Whether a tree has the word as its leftmost leaf and each of n additions once. -/
def ATree.covers (t : ATree) (n : Nat) : Bool :=
  match t.leaves with
  | none :: ls => ls.length == n && (List.range n).all (fun k => ls.contains (some k))
  | _ => false

/-- The values of an instruction's scalar sources, where all stand. -/
def peekS (s : State) (rs : List SReg) : Option (List Word) :=
  if sPending s rs || (poisonedS s rs).isSome then none
  else if roleOf s s.cpu == .single then some (rs.map (sreg s)) else portVals (queuesOf s) rs [] (sreg s)

/-- The values of a vector instruction's sources, where all stand. -/
def peekOps (s : State) (rs : List Src) : Option (List SVal) :=
  if sPending s (scalarsOf rs) || (poisonedSrc s (roleOf s s.cpu != .single) rs).isSome then none
  else if roleOf s s.cpu == .single then some (rs.map (Src.value s))
  else (srcVals s (queuesOf s) rs).toOption

/-- An addition of floating-point numbers that is ready for its move: where, its format, what it adds. -/
structure AddInfo where
  loc : Loc
  f   : Nat
  xs  : List Nat
  deriving DecidableEq, Repr

/-- The format of an `amo.fadd`. -/
def faddFmt (z : AmoSize) : Nat := if z = .bf16 then 2 else 0

/-- The operand of an `amo.fadd` as it is added. -/
def faddVal (z : AmoSize) (v : Word) : Nat := v.toNat % 2 ^ (8 * amoBytes z)

/-- The `amo.fadd` a strand waits in. -/
def waitFadd (s : State) (r : AmoOp) : Option AddInfo :=
  match (if r.op == 10 then peekS s (amoReads r) else none) with
  | none => none
  | some vs => match checkAccess s (opd vs 0) (amoBytes r.size) true true with
    | .ok k =>
      let remote := match k.loc with | .remote _ _ _ => true | _ => false
      if !remote && amoReady k.s k.s.cpu k.s.dev.nextUid k.loc (amoBytes r.size) r.order && !poisonedLast k.s k.s.cpu k.loc (amoBytes r.size)
      then some ⟨k.loc, faddFmt r.size, [faddVal r.size (opd vs 1)]⟩ else none
    | .error _ => none

/-- The `vfas` a strand waits in. -/
def waitVfas (s : State) (d : VReg) (a : SReg) (b : VReg) : Option AddInfo :=
  match peekOps s [.s a, .v b] with
  | none => none
  | some vs =>
    let bv := vecAt vs 1
    let w := wOf s
    let is := activeFrom s w 0 (vlOf s)
    match checkAccess s (wordAt vs 0) (w / 8) true true with
    | .ok k => match k.loc with
      | .dev _ =>
        if bv.fmt == etOf s && vReady bv (groupsOf w 0 (vlOf s)) && (pushes s d || !destWaits (vreg s d) w is) && !is.isEmpty &&
            atomicReady k.s k.s.cpu k.s.dev.nextUid k.loc (w / 8) && vectorClear k.s k.s.cpu k.s.dev.nextUid k.loc (w / 8) &&
            !poisonedLast k.s k.s.cpu k.loc (w / 8)
        then some ⟨k.loc, etOf s, is.map (bv.el w)⟩ else none
      | _ => none
    | .error _ => none

/-- The one location of some bytes of a window. -/
def oneLoc (ls : List (Loc × Nat)) : Option Loc := match ls with | [l] => some l.1 | _ => none

/-- The remote atomic request m, if it is an addition whose turn it is. -/
def requestAdd (s : State) (m : RMsg) : Option (RxStream × Loc) :=
  match rxOf s m.sdev.toNat m.win.toNat m.sten.toNat, atomicLoc s m m.size with
  | some r, some l =>
    if arrives s m && m.ty == 5 && m.op == 10 && r.next == m.seq.toNat && r.queue.isEmpty && !poisonedEnd s l m.size && settledAt s l m.size .device
    then some (r, l) else none
  | _, _ => none

/-- What an addition that is due adds, if it may happen now. -/
def addInfo (s : State) : AddSrc → Option AddInfo
  | .elem t tr n => (addable s t tr n).map (fun q => ⟨q.2.2.1.loc, q.2.2.2, [leNat q.2.2.1.data]⟩)
  | .past t ord => (s.strand? t).bind (fun x => (((pastReady s x ord).filter (fun p => p.op.op == 10 && !poisonedLast s x p.loc (amoBytes p.op.size))).map
      (fun p => (⟨p.loc, faddFmt p.op.size, [faddVal p.op.size p.v]⟩ : AddInfo))).orElse (fun _ =>
        ((pastFas s x ord).filter (fun p => !poisonedLast s x p.loc (fmtWidth p.et / 8))).map (fun p => ⟨p.loc, p.et, p.els.map (·.2)⟩)))
  | .wait t => (s.strand? t).bind (fun x => if x.resid != .on || !issues s x.cluster then none else match x.wait with
      | some (.amo r) => waitFadd (s.focus t) r
      | some (.vfas d a b) => waitVfas (s.focus t) d a b
      | _ => none)
  | .stream sdev win sten => match rxOf s sdev win sten, windowFor s sdev win sten with
    | some r, some (_, w) => match r.queue with
      | .elem o d (some f) _ :: _ => (oneLoc (windowLocs w d.length o d.length)).bind (fun l =>
          if poisonedEnd s l d.length || !settledAt s l d.length .device then none else some ⟨l, f, [leNat d]⟩)
      | _ => none
    | _, _ => none
  | .request m => (requestAdd s m).map (fun q => ⟨q.2, if m.size == 2 then 2 else 0, [leNat (m.data.take m.size)]⟩)

/-- An addition of a move happens: it reads `old`, and `new` stands in memory after the move; the write stands once for each
addition, so that what waits for each waits for it. -/
def addOf (s : State) (a : AddSrc) (old new : Nat) : State :=
  match a with
  | .elem t tr n => match addable s t tr n with
    | some (x, u, e, _) => addOne s t x u e (leBytes e.data.length new)
    | none => s
  | .past t ord => match (s.strand? t).bind (fun x => (pastReady s x ord).map (fun p => (x, p))) with
    | some (x, p) => pastOne s x p (some (old, new))
    | none => match (s.strand? t).bind (fun x => (pastFas s x ord).map (fun p => (x, p))) with
      | some (x, p) => fasOne s x p (some (old, new))
      | none => s
  | .wait t => match (s.strand? t).bind (·.wait) with
    | some (.amo r) => nextOf (amo (s.focus t) 0 r (some (old, new))) s
    | some (.vfas d a b) => nextOf (vfas (s.focus t) d a b (some (old, new))) s
    | _ => s
  | .stream sdev win sten => match rxOf s sdev win sten, windowFor s sdev win sten with
    | some r, some (_, w) => match r.queue with
      | .elem o d _ ord :: rest =>
        setRx (putRemote s (windowLocs w d.length o d.length) (leBytes d.length new) (.far sdev sten r.train r.entered ord))
          { r with queue := rest, entered := r.entered + 1 }
      | _ => s
    | _, _ => s
  | .request m => match requestAdd s m with
    | some (r, l) => remoteAtomic (enterDev s l (leBytes m.size new) .device .plain) r m l (some old)
    | none => s

/-- Each addition in its turn, with what it reads: only where each is to the one word, in the one format. -/
def addsGo (l : Loc) (f new : Nat) : List (AddSrc × Nat) → State → Option State
  | [], s => some s
  | (a, old) :: as, s => match addInfo s a with
    | some i => if i.loc == l && i.f == f then addsGo l f new as (addOf s a old new) else none
    | none => none

/-- What each of some additions adds, each after those before it have left. -/
def addVals (l : Loc) (f : Nat) : List AddSrc → State → Option (List (List Nat))
  | [], _ => some []
  | a :: as, s => match addInfo s a with
    | some i => if i.loc == l && i.f == f then (addVals l f as (addOf s a 0 0)).map (i.xs :: ·) else none
    | none => none

/-- Several pending additions to one location in one move (R283). -/
def combineAdds (es : List AddSrc) (tree : ATree) (s : State) : State :=
  match es with
  | [] => s
  | a :: _ => match addInfo s a with
    | none => s
    | some i => match addVals i.loc i.f es s with
      | none => s
      | some xs =>
        let w := leNat (hide s i.loc (lastBytes s i.loc (fmtWidth i.f / 8)))
        match (if tree.covers es.length then tree.total i.f w xs else none) with
        | none => s
        | some v =>
          let rd := tree.reads i.f w xs none
          let olds := (List.range es.length).map (fun k => ((rd.find? (fun r => r.1 == k)).map (·.2)).getD 0)
          (addsGo i.loc i.f v (es.zip olds) s).getD s

/-! ## Complete, SC access, monitor read, arrival (R284 to R287) -/

/-- The first fence or `vdrain` that a strand has gone past and that may complete. -/
def openFence (s : State) (x : Strand) : Option PFence :=
  x.mem.fences.find? (fun f => if f.drain then vectorDone s x f.scope (some f.ord) else fenceReady s x .rel f.scope (some f.ord))

/-- R284: a fence or `vdrain` that the strand has gone past, else what it waits in. -/
def execComplete (t : StrandId) (s : State) : Out :=
  match (s.strand? t).bind (openFence s) with
  | some f => .next (s.modStrand t (fun x => { x with mem := { x.mem with fences := x.mem.fences.filter (fun g => g.ord != f.ord) } }))
  | none => resumeWait s t (fun w => match w with
    | .fence k sc => some (fun s => fence s k sc)
    | .vdrain sc => some (execVdrain sc)
    | .mwait d a => some (execMwait d a)
    | .bar l => some (execBar l)
    | .rfence => some execRfence
    | _ => none)

/-- R285. -/
def execScAccess (t : StrandId) (s : State) : Out :=
  resumeWait s t (fun w => match w with
    | .sc store d a => some (fun s => scAccess s 0 store d a 1)
    | _ => none)

/-- R286. -/
def execMonitorRead (t : StrandId) (s : State) : Out :=
  resumeWait s t (fun w => match w with | .mwait d a => some (execMwait d a) | _ => none)

/-- R287: the arrivals of a strand's issued `bar` instructions. -/
def execBarArrive (t : StrandId) (s : State) : Out :=
  .next ((List.range 6).foldl (fun s l => match s.strand? t with | some x => barArrive s x l | none => s) s)

/-! ## Element groups and settling (R179, R187) -/

/-- R179: the next element group of the chaining instruction a strand has in progress. -/
def execMicroOpIssue (t : StrandId) (s : State) : Out :=
  resumeWait s t (fun w => match w with | .micro x _ => some (fun s => if issues s s.cpu.cluster then chain s 0 x 1 else .next s) | _ => none)

/-- R187. -/
def execSettleComplete (t : StrandId) (s : State) : Out :=
  resumeWait s t (fun w => match w with
    | .settle (some v) false => some (execSettle v)
    | .settle (some v) true => some (execSettleNf v)
    | .settle none false => some execSettleAll
    | .settle none true => some execSettleNfAll
    | _ => none)

/-! ## Thaw threads (R180 to R183, R196) -/

/-- Four thaw threads per cluster. -/
def thawThreads : Nat := 4

/-- An operand that waits for another entry. -/
def DOp.isLink : DOp → Bool | .link _ => true | _ => false

/-- An entry is ready (R180); one with a FAULTED source is resolved without a thread. -/
def DivEntry.ready (e : DivEntry) : Bool :=
  !e.taken && !(e.a.isLink || e.b.isLink || e.c.isLink) && e.faultedSrc.isNone

/-- An operand's bits; one the operation lacks reads 0. -/
def DOp.bits : DOp → Word | .val b => b | .faulted b _ => b | _ => 0

/-- How many operands the entry has. -/
def DivEntry.nsrc (e : DivEntry) : Nat := ([e.a, e.b, e.c].filter (· != .absent)).length

/-- The info word (Table 7.4). -/
def DivEntry.info (e : DivEntry) : Nat :=
  (match e.app with | some p => p.fid | none => 0) * 2 ^ 24 + e.fmt * 2 ^ 18 + e.op * 2 ^ 12 + e.rm * 2 ^ 9 + (if e.fz then 256 else 0) +
    e.nsrc * 64

/-- A thaw thread in thaw context at the start of a user handler (R181). -/
def thawStrand (c k : Nat) (e : DivEntry) (hpc desc : Word) : Strand :=
  let x := Strand.start (.thaw c k) e.tenant c hpc .u
  let regs := ((((x.regs.s.set 1 e.a.bits).set 2 e.b.bits).set 3 e.c.bits).set 4 (BitVec.ofNat 64 e.info)).set 5 desc
  { x with serves := some e.id, regs := { x.regs with s := regs },
           ctl := { x.ctl with mr := BitVec.ofNat 25 (e.fmt + e.rm * 1024 + (if e.fz then 2 ^ 15 else 0)) } }

/-- What a built-in handler does with an entry: its result, or none where the user's handler takes it (R183, R196). -/
def builtin (e : DivEntry) : Option FRes :=
  let n (o : DOp) : Nat := o.bits.toNat
  match e.app with
  | some p => if e.replay then applyElem e.fmt e.fz p.lo p.hi p.deg p.coef (n e.a) else none
  | none => some (elemOp e.op e.fmt e.rm e.fz e.sat (n e.a) (n e.b) (n e.c))

/-- A thaw thread that runs a built-in handler: what it does is one step, the fill (R183). -/
def builtinThread (c k : Nat) (e : DivEntry) : Strand := { thawStrand c k e 0 0 with resid := .off }

/-- R180: thread k of cluster c takes the oldest ready entry. A cluster that switches regulators issues nothing (R380). -/
def execThawTake (c k : Nat) (s : State) : Out :=
  if thawThreads ≤ k || (s.strand? (.thaw c k)).isSome || !issues s c then .next s
  else match (s.cluster c).div.find? DivEntry.ready with
    | none => .next s
    | some e =>
      let take (d : DivEntry) : DivEntry := if d.id == e.id then { d with taken := true } else d
      let s1 := s.modCluster c (fun (x : Cluster) => { x with div := x.div.map take })
      match builtin e, e.app with
      | some _, _ => .next { s1 with others := s1.others ++ [builtinThread c k e] }
      | none, some p => .next { s1 with others := s1.others ++ [thawStrand c k e p.hpc p.addr] }
      | none, none => .next s

/-- R183: the built-in handler of thread k of cluster c fills its entry, and the thread is idle again. Threads end in any order
(R247). -/
def builtinFill (c k : Nat) (s : State) : State :=
  match s.strand? (.thaw c k) with
  | some x => match (if x.resid == .off then x.serves else none).bind (fun id => (s.cluster c).div.find? (fun d => d.id == id)) with
    | some e => match builtin e with
      | some r => resolveFaulted (fillEntry { s with others := s.others.filter (fun y => y.id != x.id) } c e r.1 r.2) c
      | none => s
    | none => s
  | none => s

/-- R182: a handler that has run for 2^20 cycles faults its entry with TMO. -/
def execThawTimeout (c k : Nat) (s : State) : Out :=
  match s.strand? (.thaw c k) with
  | some x => match x.serves with
    | some e => if x.resid == .on && decide (2 ^ 20 ≤ x.ctl.cycle.toNat) then .next (faultEntry s c e Cause.tmo) else .next s
    | none => .next s
  | none => .next s

/-! ## Switching regulators (R380) -/

/-- A strand has no access under way. -/
def noAccess (s : State) (x : Strand) : Bool :=
  x.mem.loads.isEmpty && x.mem.amos.isEmpty && x.mem.vfas.isEmpty && x.mem.pob.isEmpty && x.mem.ssb.isEmpty && x.mem.trains.isEmpty &&
  x.mem.rtrains.isEmpty && (vvals s x).all (fun v => v.pend.isEmpty) && x.mem.sv.isNone

/-- No access of a strand may perform: each waits for one that its program puts before it. -/
def allHeld (s : State) (x : Strand) : Bool :=
  x.mem.loads.all (fun r => x.mem.heldRead r.ord r.loc r.n) &&
  x.mem.amos.all (fun p => !amoReady s x p.ord p.loc (amoBytes p.op.size) p.op.order) && x.mem.vfas.all (fun p => (pastFas s x p.ord).isNone) &&
  (match x.mem.pob with | e :: _ => e.src.isSome | [] => true) && (match x.mem.ssb with | e :: _ => x.mem.heldStore e | [] => true) &&
  x.mem.trains.all (fun u => u.elems.all (fun e => e.src.isSome || !mayEnter s x u { e with supplied := true })) &&
  x.mem.rtrains.isEmpty && (vvals s x).all (fun v => (v.pend.zipIdx).all (fun r => olderRead s x v.pend r.2 r.1)) &&
  (match x.mem.sv with | some l => (l.pend.zipIdx).all (fun r => olderRead s x l.pend r.2 r.1) | none => true)

/-- Some element of a strand's stores waits for data that a thaw thread still gives: the micro-operation behind it has not been issued. -/
def awaitsFill (x : Strand) : Bool := x.mem.trains.any (fun u => u.elems.any (fun e => e.src.isSome))

/-- Every access that a cluster has generated has performed; where thaw threads, which are stopped, still owe a store its data, that
store and what its program puts behind it are left (R380). -/
def clusterQuiet (s : State) (c : Nat) : Bool :=
  s.strands.all (fun x => x.cluster != c || x.resid != .on || noAccess s x || (awaitsFill x && allHeld s x)) &&
  s.copies.all (fun k => k.cluster != c || k.parts.isEmpty && k.rtrains.all (fun t => t.2.tailSent == false && t.2.sent == 0))

/-- R380, steps 2 to 4. -/
def execDomainSwitch (c : Nat) (s : State) : Out :=
  if (s.cluster c).switching && clusterQuiet s c then
    let r := vdCode s.dev.h c
    .next (change s [c] (fun s => s.modCluster c (fun (k : Cluster) =>
      { k with vr := r, switching := false, cur := s.dev.m.vrTrip.contains r })))
  else .next s

end Sys2Proof.Machine
end

