-- ==== Sys2Proof/Machine/Dispatch.lean ====
section
/-! DEFINITION. Every instruction and event, and its meaning. -/

namespace Sys2Proof.Machine

/-- The meaning of an instruction or event at a state. -/
def exec (i : Instr) (s : State) : Host.Outcome State Fault Refusal :=
  match i with
  | .mode imm => Sys2Proof.Machine.execMode imm s
  | .trap c => Sys2Proof.Machine.execTrap c s
  | .brk c => Sys2Proof.Machine.execBrk c s
  | .tlbinvVa d a => Sys2Proof.Machine.execTlbinvVa d a s
  | .tlbinvAsid d => Sys2Proof.Machine.execTlbinvAsid d s
  | .tlbinvIpa d a => Sys2Proof.Machine.execTlbinvIpa d a s
  | .intr p v => Sys2Proof.Machine.execIntr p v s
  | .add d a b w => Sys2Proof.Machine.execAdd d a b w s
  | .sub d a b w => Sys2Proof.Machine.execSub d a b w s
  | .mul d a b w => Sys2Proof.Machine.execMul d a b w s
  | .mulh d a b w => Sys2Proof.Machine.execMulh d a b w s
  | .mulhu d a b w => Sys2Proof.Machine.execMulhu d a b w s
  | .div d a b w => Sys2Proof.Machine.execDiv d a b w s
  | .divu d a b w => Sys2Proof.Machine.execDivu d a b w s
  | .rem d a b w => Sys2Proof.Machine.execRem d a b w s
  | .remu d a b w => Sys2Proof.Machine.execRemu d a b w s
  | .and d a b w => Sys2Proof.Machine.execAnd d a b w s
  | .or d a b w => Sys2Proof.Machine.execOr d a b w s
  | .xor d a b w => Sys2Proof.Machine.execXor d a b w s
  | .sll d a b w => Sys2Proof.Machine.execSll d a b w s
  | .srl d a b w => Sys2Proof.Machine.execSrl d a b w s
  | .sra d a b w => Sys2Proof.Machine.execSra d a b w s
  | .slt d a b w => Sys2Proof.Machine.execSlt d a b w s
  | .sltu d a b w => Sys2Proof.Machine.execSltu d a b w s
  | .min d a b w => Sys2Proof.Machine.execMin d a b w s
  | .max d a b w => Sys2Proof.Machine.execMax d a b w s
  | .minu d a b w => Sys2Proof.Machine.execMinu d a b w s
  | .maxu d a b w => Sys2Proof.Machine.execMaxu d a b w s
  | .addi d a imm => Sys2Proof.Machine.execAddi d a imm s
  | .andi d a imm => Sys2Proof.Machine.execAndi d a imm s
  | .ori d a imm => Sys2Proof.Machine.execOri d a imm s
  | .xori d a imm => Sys2Proof.Machine.execXori d a imm s
  | .slli d a w n => Sys2Proof.Machine.execSlli d a w n s
  | .srli d a w n => Sys2Proof.Machine.execSrli d a w n s
  | .srai d a w n => Sys2Proof.Machine.execSrai d a w n s
  | .slti d a imm => Sys2Proof.Machine.execSlti d a imm s
  | .sltiu d a imm => Sys2Proof.Machine.execSltiu d a imm s
  | .lih d imm => Sys2Proof.Machine.execLih d imm s
  | .lix d imm => Sys2Proof.Machine.execLix d imm s
  | .sel d a b c => Sys2Proof.Machine.execSel d a b c s
  | .clz d a w => Sys2Proof.Machine.execClz d a w s
  | .ctz d a w => Sys2Proof.Machine.execCtz d a w s
  | .popc d a w => Sys2Proof.Machine.execPopc d a w s
  | .bext d a b w => Sys2Proof.Machine.execBext d a b w s
  | .bins d a b w => Sys2Proof.Machine.execBins d a b w s
  | .bswap d a w => Sys2Proof.Machine.execBswap d a w s
  | .csrr d n => Sys2Proof.Machine.execCsrr d n s
  | .csrw d a n => Sys2Proof.Machine.execCsrw d a n s
  | .csrs d a n => Sys2Proof.Machine.execCsrs d a n s
  | .csrc d a n => Sys2Proof.Machine.execCsrc d a n s
  | .fadd d a b t => Sys2Proof.Machine.execFadd d a b t s
  | .fsub d a b t => Sys2Proof.Machine.execFsub d a b t s
  | .fmul d a b t => Sys2Proof.Machine.execFmul d a b t s
  | .fdiv d a b t => Sys2Proof.Machine.execFdiv d a b t s
  | .fsqrt d a t => Sys2Proof.Machine.execFsqrt d a t s
  | .fmin d a b t => Sys2Proof.Machine.execFmin d a b t s
  | .fmax d a b t => Sys2Proof.Machine.execFmax d a b t s
  | .feq d a b t => Sys2Proof.Machine.execFeq d a b t s
  | .flt d a b t => Sys2Proof.Machine.execFlt d a b t s
  | .fle d a b t => Sys2Proof.Machine.execFle d a b t s
  | .fclass d a t => Sys2Proof.Machine.execFclass d a t s
  | .fcvtFF d a t sz => Sys2Proof.Machine.execFcvtFF d a t sz s
  | .fcvtFI d a t sz => Sys2Proof.Machine.execFcvtFI d a t sz s
  | .fcvtIF d a t sz => Sys2Proof.Machine.execFcvtIF d a t sz s
  | .fsgnj d a b t => Sys2Proof.Machine.execFsgnj d a b t s
  | .fsgnjN d a b t => Sys2Proof.Machine.execFsgnjN d a b t s
  | .fsgnjX d a b t => Sys2Proof.Machine.execFsgnjX d a b t s
  | .ffma d a b c t => Sys2Proof.Machine.execFfma d a b c t s
  | .ffms d a b c t => Sys2Proof.Machine.execFfms d a b c t s
  | .ffnma d a b c t => Sys2Proof.Machine.execFfnma d a b c t s
  | .ffnms d a b c t => Sys2Proof.Machine.execFfnms d a b c t s
  | .beq a b o => Sys2Proof.Machine.execBeq a b o s
  | .bne a b o => Sys2Proof.Machine.execBne a b o s
  | .blt a b o => Sys2Proof.Machine.execBlt a b o s
  | .bge a b o => Sys2Proof.Machine.execBge a b o s
  | .bltu a b o => Sys2Proof.Machine.execBltu a b o s
  | .bgeu a b o => Sys2Proof.Machine.execBgeu a b o s
  | .jal o => Sys2Proof.Machine.execJal o s
  | .jalr d a imm => Sys2Proof.Machine.execJalr d a imm s
  | .loop n a e => Sys2Proof.Machine.execLoop n a e s
  | .loopi n c e => Sys2Proof.Machine.execLoopi n c e s
  | .vloop n a e => Sys2Proof.Machine.execVloop n a e s
  | .lpclr n => Sys2Proof.Machine.execLpclr n s
  | .bqput a => Sys2Proof.Machine.execBqput a s
  | .bqb o => Sys2Proof.Machine.execBqb o s
  | .ldB d a o => Sys2Proof.Machine.execLdB d a o s
  | .ldH d a o => Sys2Proof.Machine.execLdH d a o s
  | .ldW d a o => Sys2Proof.Machine.execLdW d a o s
  | .ldD d a o => Sys2Proof.Machine.execLdD d a o s
  | .ldBu d a o => Sys2Proof.Machine.execLdBu d a o s
  | .ldHu d a o => Sys2Proof.Machine.execLdHu d a o s
  | .ldWu d a o => Sys2Proof.Machine.execLdWu d a o s
  | .stB d a o => Sys2Proof.Machine.execStB d a o s
  | .stH d a o => Sys2Proof.Machine.execStH d a o s
  | .stW d a o => Sys2Proof.Machine.execStW d a o s
  | .stD d a o => Sys2Proof.Machine.execStD d a o s
  | .prefR a o => Sys2Proof.Machine.execPrefR a o s
  | .prefW a o => Sys2Proof.Machine.execPrefW a o s
  | .prefS a o => Sys2Proof.Machine.execPrefS a o s
  | .amoAdd d a b o sz => Sys2Proof.Machine.execAmoAdd d a b o sz s
  | .amoAnd d a b o sz => Sys2Proof.Machine.execAmoAnd d a b o sz s
  | .amoOr d a b o sz => Sys2Proof.Machine.execAmoOr d a b o sz s
  | .amoXor d a b o sz => Sys2Proof.Machine.execAmoXor d a b o sz s
  | .amoMin d a b o sz => Sys2Proof.Machine.execAmoMin d a b o sz s
  | .amoMax d a b o sz => Sys2Proof.Machine.execAmoMax d a b o sz s
  | .amoMinu d a b o sz => Sys2Proof.Machine.execAmoMinu d a b o sz s
  | .amoMaxu d a b o sz => Sys2Proof.Machine.execAmoMaxu d a b o sz s
  | .amoSwap d a b o z => Sys2Proof.Machine.execAmoSwap d a b o z s
  | .amoCas d a b o z => Sys2Proof.Machine.execAmoCas d a b o z s
  | .amoFadd d a b o z => Sys2Proof.Machine.execAmoFadd d a b o z s
  | .fenceAcq sz => Sys2Proof.Machine.execFenceAcq sz s
  | .fenceRel sz => Sys2Proof.Machine.execFenceRel sz s
  | .fenceAr sz => Sys2Proof.Machine.execFenceAr sz s
  | .fenceSc sz => Sys2Proof.Machine.execFenceSc sz s
  | .vdrain sz => Sys2Proof.Machine.execVdrain sz s
  | .mmon a => Sys2Proof.Machine.execMmon a s
  | .mwait d a => Sys2Proof.Machine.execMwait d a s
  | .bar l => Sys2Proof.Machine.execBar l s
  | .setvl d a => Sys2Proof.Machine.execSetvl d a s
  | .setvli d imm => Sys2Proof.Machine.execSetvli d imm s
  | .vadd d a b => Sys2Proof.Machine.execVadd d a b s
  | .vsub d a b => Sys2Proof.Machine.execVsub d a b s
  | .vmul d a b => Sys2Proof.Machine.execVmul d a b s
  | .vmulh d a b => Sys2Proof.Machine.execVmulh d a b s
  | .vdiv d a b => Sys2Proof.Machine.execVdiv d a b s
  | .vmin d a b => Sys2Proof.Machine.execVmin d a b s
  | .vmax d a b => Sys2Proof.Machine.execVmax d a b s
  | .vabs d a => Sys2Proof.Machine.execVabs d a s
  | .vneg d a => Sys2Proof.Machine.execVneg d a s
  | .vand d a b => Sys2Proof.Machine.execVand d a b s
  | .vor d a b => Sys2Proof.Machine.execVor d a b s
  | .vxor d a b => Sys2Proof.Machine.execVxor d a b s
  | .vnot d a => Sys2Proof.Machine.execVnot d a s
  | .vsll d a b => Sys2Proof.Machine.execVsll d a b s
  | .vsrl d a b => Sys2Proof.Machine.execVsrl d a b s
  | .vsra d a b => Sys2Proof.Machine.execVsra d a b s
  | .vdot4 d a b => Sys2Proof.Machine.execVdot4 d a b s
  | .vaddw d a b => Sys2Proof.Machine.execVaddw d a b s
  | .vclass d a => Sys2Proof.Machine.execVclass d a s
  | .vsgnj d a b => Sys2Proof.Machine.execVsgnj d a b s
  | .vsgnjN d a b => Sys2Proof.Machine.execVsgnjN d a b s
  | .vsgnjX d a b => Sys2Proof.Machine.execVsgnjX d a b s
  | .vfma d a b c => Sys2Proof.Machine.execVfma d a b c s
  | .vfms d a b c => Sys2Proof.Machine.execVfms d a b c s
  | .vfnma d a b c => Sys2Proof.Machine.execVfnma d a b c s
  | .vfnms d a b c => Sys2Proof.Machine.execVfnms d a b c s
  | .vcmpEq d a b => Sys2Proof.Machine.execVcmpEq d a b s
  | .vcmpNe d a b => Sys2Proof.Machine.execVcmpNe d a b s
  | .vcmpLt d a b => Sys2Proof.Machine.execVcmpLt d a b s
  | .vcmpLe d a b => Sys2Proof.Machine.execVcmpLe d a b s
  | .vcmpGt d a b => Sys2Proof.Machine.execVcmpGt d a b s
  | .vcmpGe d a b => Sys2Proof.Machine.execVcmpGe d a b s
  | .vcmpUn d a b => Sys2Proof.Machine.execVcmpUn d a b s
  | .vcmpOrd d a b => Sys2Proof.Machine.execVcmpOrd d a b s
  | .vsel d a b c => Sys2Proof.Machine.execVsel d a b c s
  | .vexp d a => Sys2Proof.Machine.execVexp d a s
  | .vexp2 d a => Sys2Proof.Machine.execVexp2 d a s
  | .vlog d a => Sys2Proof.Machine.execVlog d a s
  | .vlog2 d a => Sys2Proof.Machine.execVlog2 d a s
  | .vsin d a => Sys2Proof.Machine.execVsin d a s
  | .vcos d a => Sys2Proof.Machine.execVcos d a s
  | .vtanh d a => Sys2Proof.Machine.execVtanh d a s
  | .vsigm d a => Sys2Proof.Machine.execVsigm d a s
  | .vrcp d a => Sys2Proof.Machine.execVrcp d a s
  | .vsqrt d a => Sys2Proof.Machine.execVsqrt d a s
  | .vrsqrt d a => Sys2Proof.Machine.execVrsqrt d a s
  | .verf d a => Sys2Proof.Machine.execVerf d a s
  | .vapply d a b => Sys2Proof.Machine.execVapply d a b s
  | .vcvt d a => Sys2Proof.Machine.execVcvt d a s
  | .vquant d a => Sys2Proof.Machine.execVquant d a s
  | .vhad d a k => Sys2Proof.Machine.execVhad d a k s
  | .vsclget d a => Sys2Proof.Machine.execVsclget d a s
  | .vsclset d a => Sys2Proof.Machine.execVsclset d a s
  | .vperm d a b => Sys2Proof.Machine.execVperm d a b s
  | .vslideup d a b => Sys2Proof.Machine.execVslideup d a b s
  | .vslidedn d a b => Sys2Proof.Machine.execVslidedn d a b s
  | .vcompress d a b => Sys2Proof.Machine.execVcompress d a b s
  | .vexpand d a b => Sys2Proof.Machine.execVexpand d a b s
  | .vzip d a b => Sys2Proof.Machine.execVzip d a b s
  | .vunzip d a b => Sys2Proof.Machine.execVunzip d a b s
  | .vbcast d a => Sys2Proof.Machine.execVbcast d a s
  | .vid d => Sys2Proof.Machine.execVid d s
  | .vext d a b => Sys2Proof.Machine.execVext d a b s
  | .vins d a b => Sys2Proof.Machine.execVins d a b s
  | .vmv d a => Sys2Proof.Machine.execVmv d a s
  | .vredSum d a => Sys2Proof.Machine.execVredSum d a s
  | .vredMin d a => Sys2Proof.Machine.execVredMin d a s
  | .vredMax d a => Sys2Proof.Machine.execVredMax d a s
  | .vredAnd d a => Sys2Proof.Machine.execVredAnd d a s
  | .vredOr d a => Sys2Proof.Machine.execVredOr d a s
  | .vredXor d a => Sys2Proof.Machine.execVredXor d a s
  | .vscanSum d a => Sys2Proof.Machine.execVscanSum d a s
  | .vscanMin d a => Sys2Proof.Machine.execVscanMin d a s
  | .vscanMax d a => Sys2Proof.Machine.execVscanMax d a s
  | .vscanAnd d a => Sys2Proof.Machine.execVscanAnd d a s
  | .vscanOr d a => Sys2Proof.Machine.execVscanOr d a s
  | .vscanXor d a => Sys2Proof.Machine.execVscanXor d a s
  | .mand d a b => Sys2Proof.Machine.execMand d a b s
  | .mor d a b => Sys2Proof.Machine.execMor d a b s
  | .mxor d a b => Sys2Proof.Machine.execMxor d a b s
  | .mnot d a => Sys2Proof.Machine.execMnot d a s
  | .mpop d a => Sys2Proof.Machine.execMpop d a s
  | .mfirst d a => Sys2Proof.Machine.execMfirst d a s
  | .mset d a => Sys2Proof.Machine.execMset d a s
  | .mmv d a => Sys2Proof.Machine.execMmv d a s
  | .settle a => Sys2Proof.Machine.execSettle a s
  | .settleNf a => Sys2Proof.Machine.execSettleNf a s
  | .vpres d a => Sys2Proof.Machine.execVpres d a s
  | .vfill a => Sys2Proof.Machine.execVfill a s
  | .vld d a w => Sys2Proof.Machine.execVld d a w s
  | .vlds d a b w => Sys2Proof.Machine.execVlds d a b w s
  | .vwait d => Sys2Proof.Machine.execVwait d s
  | .vst d a u => Sys2Proof.Machine.execVst d a u s
  | .vsts d a b u => Sys2Proof.Machine.execVsts d a b u s
  | .vgat d a b sz => Sys2Proof.Machine.execVgat d a b sz s
  | .vsct d a b u => Sys2Proof.Machine.execVsct d a b u s
  | .vscadd d a b u => Sys2Proof.Machine.execVscadd d a b u s
  | .vfas d a b => Sys2Proof.Machine.execVfas d a b s
  | .vprobe d a b sz => Sys2Proof.Machine.execVprobe d a b sz s
  | .vldSc d a => Sys2Proof.Machine.execVldSc d a s
  | .vstSc d a => Sys2Proof.Machine.execVstSc d a s
  | .mma d a b z g => Sys2Proof.Machine.execMma d a b z g s
  | .mmas d a b z => Sys2Proof.Machine.execMmas d a b z s
  | .mmasp d a b z g => Sys2Proof.Machine.execMmasp d a b z g s
  | .maccZ d => Sys2Proof.Machine.execMaccZ d s
  | .maccRd d a b => Sys2Proof.Machine.execMaccRd d a b s
  | .maccWr d a b => Sys2Proof.Machine.execMaccWr d a b s
  | .maccSt d a b => Sys2Proof.Machine.execMaccSt d a b s
  | .maccStX d a b => Sys2Proof.Machine.execMaccStX d a b s
  | .mtd d a b => Sys2Proof.Machine.execMtd d a b s
  | .svld d a => Sys2Proof.Machine.execSvld d a s
  | .svst d a => Sys2Proof.Machine.execSvst d a s
  | .svadd d a b => Sys2Proof.Machine.execSvadd d a b s
  | .svmul d a b => Sys2Proof.Machine.execSvmul d a b s
  | .svscale d a b => Sys2Proof.Machine.execSvscale d a b s
  | .svcomp d a => Sys2Proof.Machine.execSvcomp d a s
  | .svexp d a => Sys2Proof.Machine.execSvexp d a s
  | .svlen d a => Sys2Proof.Machine.execSvlen d a s
  | .nop => Sys2Proof.Machine.execNop s
  | .tret => Sys2Proof.Machine.execTret s
  | .halt => Sys2Proof.Machine.execHalt s
  | .wfi => Sys2Proof.Machine.execWfi s
  | .tlbinvVmid => Sys2Proof.Machine.execTlbinvVmid s
  | .tlbsync => Sys2Proof.Machine.execTlbsync s
  | .tlbsyncComplete t => Sys2Proof.Machine.execTlbsyncComplete t s
  | .mrWrite v => Sys2Proof.Machine.execMrWrite v s
  | .fflagsAccess t => Sys2Proof.Machine.execFflagsAccess t s
  | .microOpIssue t => Sys2Proof.Machine.execMicroOpIssue t s
  | .settleAll => Sys2Proof.Machine.execSettleAll s
  | .settleNfAll => Sys2Proof.Machine.execSettleNfAll s
  | .settleComplete t => Sys2Proof.Machine.execSettleComplete t s
  | .thawTake c k => Sys2Proof.Machine.execThawTake c k s
  | .thawTimeout c k => Sys2Proof.Machine.execThawTimeout c k s
  | .mgopen d a => Sys2Proof.Machine.execMgopen d a s
  | .mgopenCont d a => Sys2Proof.Machine.execMgopenCont d a s
  | .mgopenGrant o => Sys2Proof.Machine.execMgopenGrant o s
  | .mgpush d a b sz => Sys2Proof.Machine.execMgpush d a b sz s
  | .mgflush d => Sys2Proof.Machine.execMgflush d s
  | .mgpull d a => Sys2Proof.Machine.execMgpull d a s
  | .mgpullSv d a => Sys2Proof.Machine.execMgpullSv d a s
  | .mgclose => Sys2Proof.Machine.execMgclose s
  | .mgstatRuns d => Sys2Proof.Machine.execMgstatRuns d s
  | .mgstatEntries d => Sys2Proof.Machine.execMgstatEntries d s
  | .mgstatStatus d => Sys2Proof.Machine.execMgstatStatus d s
  | .mergeBufferError t => Sys2Proof.Machine.execMergeBufferError t s
  | .cpdim d a b l => Sys2Proof.Machine.execCpdim d a b l s
  | .cpgo d a => Sys2Proof.Machine.execCpgo d a s
  | .cpgat d a => Sys2Proof.Machine.execCpgat d a s
  | .cpmc d a b => Sys2Proof.Machine.execCpmc d a b s
  | .permit a b => Sys2Proof.Machine.execPermit a b s
  | .cpstat d a => Sys2Proof.Machine.execCpstat d a s
  | .copyQueueAdmit t => Sys2Proof.Machine.execCopyQueueAdmit t s
  | .copyStart c => Sys2Proof.Machine.execCopyStart c s
  | .slotPermitTake u => Sys2Proof.Machine.execSlotPermitTake u s
  | .transfer u n => Sys2Proof.Machine.execTransfer u n s
  | .gatherRow u e => Sys2Proof.Machine.execGatherRow u e s
  | .copyStamp u => Sys2Proof.Machine.execCopyStamp u s
  | .copyFail u cause n => Sys2Proof.Machine.execCopyFail u cause n s
  | .launch d a => Sys2Proof.Machine.execLaunch d a s
  | .launchAdmit t => Sys2Proof.Machine.execLaunchAdmit t s
  | .pinPassResume tn lid => Sys2Proof.Machine.execPinPassResume tn lid s
  | .gsub d a => Sys2Proof.Machine.execGsub d a s
  | .gsubAdmit t => Sys2Proof.Machine.execGsubAdmit t s
  | .spawn a b => Sys2Proof.Machine.execSpawn a b s
  | .join d a => Sys2Proof.Machine.execJoin d a s
  | .joinWake t => Sys2Proof.Machine.execJoinWake t s
  | .yield => Sys2Proof.Machine.execYield s
  | .park d a b => Sys2Proof.Machine.execPark d a b s
  | .tend => Sys2Proof.Machine.execTend s
  | .tendComplete t => Sys2Proof.Machine.execTendComplete t s
  | .prio a => Sys2Proof.Machine.execPrio a s
  | .wid d l => Sys2Proof.Machine.execWid d l s
  | .taskEnumerate tn lid => Sys2Proof.Machine.execTaskEnumerate tn lid s
  | .gangAdmit tn lid g => Sys2Proof.Machine.execGangAdmit tn lid g s
  | .taskDispatch c => Sys2Proof.Machine.execTaskDispatch c s
  | .preempt tid => Sys2Proof.Machine.execPreempt tid s
  | .steal c t => Sys2Proof.Machine.execSteal c t s
  | .parkWake tid => Sys2Proof.Machine.execParkWake tid s
  | .launchComplete tn lid => Sys2Proof.Machine.execLaunchComplete tn lid s
  | .nodeFinish tn gid imm => Sys2Proof.Machine.execNodeFinish tn gid imm s
  | .nodeFail tn gid imm => Sys2Proof.Machine.execNodeFail tn gid imm s
  | .vaneArm d a b => Sys2Proof.Machine.execVaneArm d a b s
  | .vaneArmCommit t => Sys2Proof.Machine.execVaneArmCommit t s
  | .vret => Sys2Proof.Machine.execVret s
  | .lull => Sys2Proof.Machine.execLull s
  | .lullN a => Sys2Proof.Machine.execLullN a s
  | .vaneRd d a => Sys2Proof.Machine.execVaneRd d a s
  | .vaneDrop a b => Sys2Proof.Machine.execVaneDrop a b s
  | .flipMessage k => Sys2Proof.Machine.execFlipMessage k s
  | .idlePass tid => Sys2Proof.Machine.execIdlePass tid s
  | .edgeStoreError die tn g eid => Sys2Proof.Machine.execEdgeStoreError die tn g eid s
  | .rfence => Sys2Proof.Machine.execRfence s
  | .rwin d a => Sys2Proof.Machine.execRwin d a s
  | .rwinCloseComplete t => Sys2Proof.Machine.execRwinCloseComplete t s
  | .illegalInstruction w => Sys2Proof.Machine.execIllegalInstruction w s
  | .queueDeadlock tid => Sys2Proof.Machine.execQueueDeadlock tid s
  | .interrupt tn => Sys2Proof.Machine.execInterrupt tn s
  | .wfiWake t => Sys2Proof.Machine.execWfiWake t s
  | .haltWake => Sys2Proof.Machine.execHaltWake s
  | .read t p k => Sys2Proof.Machine.execRead t p k s
  | .push t => Sys2Proof.Machine.execPush t s
  | .enterScalar t => Sys2Proof.Machine.execEnterScalar t s
  | .supply t tr n => Sys2Proof.Machine.execSupply t tr n s
  | .enterTrain t tr n => Sys2Proof.Machine.execEnterTrain t tr n s
  | .widen k => Sys2Proof.Machine.execWiden k s
  | .atomic t tr n => Sys2Proof.Machine.execAtomic t tr n s
  | .land t p g => Sys2Proof.Machine.execLand t p g s
  | .complete t => Sys2Proof.Machine.execComplete t s
  | .scAccess t => Sys2Proof.Machine.execScAccess t s
  | .monitorRead t => Sys2Proof.Machine.execMonitorRead t s
  | .barArrive t => Sys2Proof.Machine.execBarArrive t s
  | .chunkDone u j => Sys2Proof.Machine.execChunkDone u j s
  | .remoteEnter sdev win sten off data => Sys2Proof.Machine.execRemoteEnter sdev win sten off data s
  | .ack sdev win sten => Sys2Proof.Machine.execAck sdev win sten s
  | .dataMessage m => Sys2Proof.Machine.execDataMessage m s
  | .tailMessage m => Sys2Proof.Machine.execTailMessage m s
  | .ackMessage m => Sys2Proof.Machine.execAckMessage m s
  | .nackMessage m => Sys2Proof.Machine.execNackMessage m s
  | .atomicRequest m => Sys2Proof.Machine.execAtomicRequest m s
  | .atomicResponse m => Sys2Proof.Machine.execAtomicResponse m s
  | .stampMessage m => Sys2Proof.Machine.execStampMessage m s
  | .restartMessage m => Sys2Proof.Machine.execRestartMessage m s
  | .resendTimeout ddev win sten => Sys2Proof.Machine.execResendTimeout ddev win sten s
  | .streamTimeout ddev win sten => Sys2Proof.Machine.execStreamTimeout ddev win sten s
  | .vdmapWrite n v => Sys2Proof.Machine.execVdmapWrite n v s
  | .domainSwitch c => Sys2Proof.Machine.execDomainSwitch c s
  | .clockChange c => Sys2Proof.Machine.execClockChange c s
  | .tctlWrite c v => Sys2Proof.Machine.execTctlWrite c v s
  | .tctlApply c => Sys2Proof.Machine.execTctlApply c s
  | .slewStep c => Sys2Proof.Machine.execSlewStep c s
  | .budgetInterval tn => Sys2Proof.Machine.execBudgetInterval tn s
  | .pmeasWindow tn watts => Sys2Proof.Machine.execPmeasWindow tn watts s
  | .pbudWrite tn watts => Sys2Proof.Machine.execPbudWrite tn watts s
  | .overcurrentTrip vr => Sys2Proof.Machine.execOvercurrentTrip vr s
  | .overcurrentClear vr => Sys2Proof.Machine.execOvercurrentClear vr s
  | .sensorSample k temp => Sys2Proof.Machine.execSensorSample k temp s
  | .wdogWrite => Sys2Proof.Machine.execWdogWrite s
  | .watchdogWarning => Sys2Proof.Machine.execWatchdogWarning s
  | .watchdogExpire => Sys2Proof.Machine.execWatchdogExpire s
  | .mtickTick => Sys2Proof.Machine.execMtickTick s
  | .pctlWrite v => Sys2Proof.Machine.execPctlWrite v s
  | .mInterrupt => Sys2Proof.Machine.execMInterrupt s
  | .pswWrite tn => Sys2Proof.Machine.execPswWrite tn s
  | .pswaWrite tn v => Sys2Proof.Machine.execPswaWrite tn v s
  | .energyWindow vr nj => Sys2Proof.Machine.execEnergyWindow vr nj s
  | .hsemRead p => Sys2Proof.Machine.execHsemRead p s
  | .hsemRelease p => Sys2Proof.Machine.execHsemRelease p s
  | .hsemLapse => Sys2Proof.Machine.execHsemLapse s
  | .hostCsrAccess p off size wr => Sys2Proof.Machine.execHostCsrAccess p off size wr s
  | .tenantCreate tn vmid => Sys2Proof.Machine.execTenantCreate tn vmid s
  | .tenantReset tn => Sys2Proof.Machine.execTenantReset tn s
  | .memoryWindowWrite tn k len v => Sys2Proof.Machine.execMemoryWindowWrite tn k len v s
  | .hinvWrite v => Sys2Proof.Machine.execHinvWrite v s
  | .hinvDone => Sys2Proof.Machine.execHinvDone s
  | .rtbaseWrite v => Sys2Proof.Machine.execRtbaseWrite v s
  | .migRetry t => Sys2Proof.Machine.execMigRetry t s
  | .cxlMemAccess p pa len data => Sys2Proof.Machine.execCxlMemAccess p pa len data s
  | .spdmGetVersion p => Sys2Proof.Machine.execSpdmGetVersion p s
  | .spdmGetCapabilities p => Sys2Proof.Machine.execSpdmGetCapabilities p s
  | .spdmNegotiateAlgorithms p => Sys2Proof.Machine.execSpdmNegotiateAlgorithms p s
  | .spdmGetDigests p => Sys2Proof.Machine.execSpdmGetDigests p s
  | .spdmGetCertificate p slot off len => Sys2Proof.Machine.execSpdmGetCertificate p slot off len s
  | .spdmChallenge p slot nonce => Sys2Proof.Machine.execSpdmChallenge p slot nonce s
  | .spdmGetMeasurements p idx => Sys2Proof.Machine.execSpdmGetMeasurements p idx s
  | .spdmUnsupportedRequest p code => Sys2Proof.Machine.execSpdmUnsupportedRequest p code s
  | .uncorrectableError e => Sys2Proof.Machine.execUncorrectableError e s
  | .internalStateError e => Sys2Proof.Machine.execInternalStateError e s
  | .clusterReset c => Sys2Proof.Machine.execClusterReset c s
  | .clusterResetComplete c => Sys2Proof.Machine.execClusterResetComplete c s
  | .warmReset => Sys2Proof.Machine.execWarmReset s
  | .coldReset => Sys2Proof.Machine.execColdReset s
  | .stateDump v => Sys2Proof.Machine.execStateDump v s
  | .stateDumpComplete => Sys2Proof.Machine.execStateDumpComplete s
  | .tenantResetComplete tn => Sys2Proof.Machine.execTenantResetComplete tn s
  | .msixTableWrite p n addr data mask => Sys2Proof.Machine.execMsixTableWrite p n addr data mask s

end Sys2Proof.Machine
end

