-- ==== Sys2Proof/Machine/RunLate.lean ====
section
/-! DEFINITION. The meaning of a late row, by the same definitions that `exec` calls: `Laws/Step.lean` proves it is `exec` of
the instruction or event that the row stands for. -/

namespace Sys2Proof.Machine

/-- Runs a late row. -/
def runLate (e : Late) (s : State) : Host.Outcome State Fault Refusal :=
  match e with
  | .tlbsyncComplete t => Sys2Proof.Machine.execTlbsyncComplete t s
  | .mrWrite v => Sys2Proof.Machine.execMrWrite v s
  | .fflagsAccess t => Sys2Proof.Machine.execFflagsAccess t s
  | .microOpIssue t => Sys2Proof.Machine.execMicroOpIssue t s
  | .settleComplete t => Sys2Proof.Machine.execSettleComplete t s
  | .thawTake c k => Sys2Proof.Machine.execThawTake c k s
  | .thawTimeout c k => Sys2Proof.Machine.execThawTimeout c k s
  | .mgopen d a => Sys2Proof.Machine.execMgopen d a s
  | .mgopenCont d a => Sys2Proof.Machine.execMgopenCont d a s
  | .mgopenGrant o => Sys2Proof.Machine.execMgopenGrant o s
  | .mgpush d a b sz => Sys2Proof.Machine.execMgpush d a b sz s
  | .mgflush d => Sys2Proof.Machine.execMgflush d s
  | .mgpull d a => Sys2Proof.Machine.execMgpull d a s
  | .mgpullSv d a => Sys2Proof.Machine.execMgpullSv d a s
  | .mgclose => Sys2Proof.Machine.execMgclose s
  | .mgstatRuns d => Sys2Proof.Machine.execMgstatRuns d s
  | .mgstatEntries d => Sys2Proof.Machine.execMgstatEntries d s
  | .mgstatStatus d => Sys2Proof.Machine.execMgstatStatus d s
  | .mergeBufferError t => Sys2Proof.Machine.execMergeBufferError t s
  | .cpdim d a b l => Sys2Proof.Machine.execCpdim d a b l s
  | .cpgo d a => Sys2Proof.Machine.execCpgo d a s
  | .cpgat d a => Sys2Proof.Machine.execCpgat d a s
  | .cpmc d a b => Sys2Proof.Machine.execCpmc d a b s
  | .permit a b => Sys2Proof.Machine.execPermit a b s
  | .cpstat d a => Sys2Proof.Machine.execCpstat d a s
  | .copyQueueAdmit t => Sys2Proof.Machine.execCopyQueueAdmit t s
  | .copyStart c => Sys2Proof.Machine.execCopyStart c s
  | .slotPermitTake u => Sys2Proof.Machine.execSlotPermitTake u s
  | .transfer u n => Sys2Proof.Machine.execTransfer u n s
  | .gatherRow u e => Sys2Proof.Machine.execGatherRow u e s
  | .copyStamp u => Sys2Proof.Machine.execCopyStamp u s
  | .copyFail u cause n => Sys2Proof.Machine.execCopyFail u cause n s
  | .launch d a => Sys2Proof.Machine.execLaunch d a s
  | .launchAdmit t => Sys2Proof.Machine.execLaunchAdmit t s
  | .pinPassResume tn lid => Sys2Proof.Machine.execPinPassResume tn lid s
  | .gsub d a => Sys2Proof.Machine.execGsub d a s
  | .gsubAdmit t => Sys2Proof.Machine.execGsubAdmit t s
  | .spawn a b => Sys2Proof.Machine.execSpawn a b s
  | .join d a => Sys2Proof.Machine.execJoin d a s
  | .joinWake t => Sys2Proof.Machine.execJoinWake t s
  | .yield => Sys2Proof.Machine.execYield s
  | .park d a b => Sys2Proof.Machine.execPark d a b s
  | .tend => Sys2Proof.Machine.execTend s
  | .tendComplete t => Sys2Proof.Machine.execTendComplete t s
  | .prio a => Sys2Proof.Machine.execPrio a s
  | .wid d l => Sys2Proof.Machine.execWid d l s
  | .taskEnumerate tn lid => Sys2Proof.Machine.execTaskEnumerate tn lid s
  | .gangAdmit tn lid g => Sys2Proof.Machine.execGangAdmit tn lid g s
  | .taskDispatch c => Sys2Proof.Machine.execTaskDispatch c s
  | .preempt tid => Sys2Proof.Machine.execPreempt tid s
  | .steal c t => Sys2Proof.Machine.execSteal c t s
  | .parkWake tid => Sys2Proof.Machine.execParkWake tid s
  | .launchComplete tn lid => Sys2Proof.Machine.execLaunchComplete tn lid s
  | .nodeFinish tn gid imm => Sys2Proof.Machine.execNodeFinish tn gid imm s
  | .nodeFail tn gid imm => Sys2Proof.Machine.execNodeFail tn gid imm s
  | .vaneArm d a b => Sys2Proof.Machine.execVaneArm d a b s
  | .vaneArmCommit t => Sys2Proof.Machine.execVaneArmCommit t s
  | .vret => Sys2Proof.Machine.execVret s
  | .lull => Sys2Proof.Machine.execLull s
  | .lullN a => Sys2Proof.Machine.execLullN a s
  | .vaneRd d a => Sys2Proof.Machine.execVaneRd d a s
  | .vaneDrop a b => Sys2Proof.Machine.execVaneDrop a b s
  | .flipMessage k => Sys2Proof.Machine.execFlipMessage k s
  | .idlePass tid => Sys2Proof.Machine.execIdlePass tid s
  | .edgeStoreError die tn g eid => Sys2Proof.Machine.execEdgeStoreError die tn g eid s
  | .rfence => Sys2Proof.Machine.execRfence s
  | .rwin d a => Sys2Proof.Machine.execRwin d a s
  | .rwinCloseComplete t => Sys2Proof.Machine.execRwinCloseComplete t s
  | .illegalInstruction w => Sys2Proof.Machine.execIllegalInstruction w s
  | .queueDeadlock tid => Sys2Proof.Machine.execQueueDeadlock tid s
  | .interrupt tn => Sys2Proof.Machine.execInterrupt tn s
  | .wfiWake t => Sys2Proof.Machine.execWfiWake t s
  | .haltWake => Sys2Proof.Machine.execHaltWake s
  | .read t p k => Sys2Proof.Machine.execRead t p k s
  | .push t => Sys2Proof.Machine.execPush t s
  | .enterScalar t => Sys2Proof.Machine.execEnterScalar t s
  | .supply t tr n => Sys2Proof.Machine.execSupply t tr n s
  | .enterTrain t tr n => Sys2Proof.Machine.execEnterTrain t tr n s
  | .widen k => Sys2Proof.Machine.execWiden k s
  | .atomic t tr n => Sys2Proof.Machine.execAtomic t tr n s
  | .land t p g => Sys2Proof.Machine.execLand t p g s
  | .complete t => Sys2Proof.Machine.execComplete t s
  | .scAccess t => Sys2Proof.Machine.execScAccess t s
  | .monitorRead t => Sys2Proof.Machine.execMonitorRead t s
  | .barArrive t => Sys2Proof.Machine.execBarArrive t s
  | .chunkDone u j => Sys2Proof.Machine.execChunkDone u j s
  | .remoteEnter sdev win sten off data => Sys2Proof.Machine.execRemoteEnter sdev win sten off data s
  | .ack sdev win sten => Sys2Proof.Machine.execAck sdev win sten s
  | .dataMessage m => Sys2Proof.Machine.execDataMessage m s
  | .tailMessage m => Sys2Proof.Machine.execTailMessage m s
  | .ackMessage m => Sys2Proof.Machine.execAckMessage m s
  | .nackMessage m => Sys2Proof.Machine.execNackMessage m s
  | .atomicRequest m => Sys2Proof.Machine.execAtomicRequest m s
  | .atomicResponse m => Sys2Proof.Machine.execAtomicResponse m s
  | .stampMessage m => Sys2Proof.Machine.execStampMessage m s
  | .restartMessage m => Sys2Proof.Machine.execRestartMessage m s
  | .resendTimeout ddev win sten => Sys2Proof.Machine.execResendTimeout ddev win sten s
  | .streamTimeout ddev win sten => Sys2Proof.Machine.execStreamTimeout ddev win sten s
  | .vdmapWrite n v => Sys2Proof.Machine.execVdmapWrite n v s
  | .domainSwitch c => Sys2Proof.Machine.execDomainSwitch c s
  | .clockChange c => Sys2Proof.Machine.execClockChange c s
  | .tctlWrite c v => Sys2Proof.Machine.execTctlWrite c v s
  | .tctlApply c => Sys2Proof.Machine.execTctlApply c s
  | .slewStep c => Sys2Proof.Machine.execSlewStep c s
  | .budgetInterval tn => Sys2Proof.Machine.execBudgetInterval tn s
  | .pmeasWindow tn watts => Sys2Proof.Machine.execPmeasWindow tn watts s
  | .pbudWrite tn watts => Sys2Proof.Machine.execPbudWrite tn watts s
  | .overcurrentTrip vr => Sys2Proof.Machine.execOvercurrentTrip vr s
  | .overcurrentClear vr => Sys2Proof.Machine.execOvercurrentClear vr s
  | .sensorSample k temp => Sys2Proof.Machine.execSensorSample k temp s
  | .wdogWrite => Sys2Proof.Machine.execWdogWrite s
  | .watchdogWarning => Sys2Proof.Machine.execWatchdogWarning s
  | .watchdogExpire => Sys2Proof.Machine.execWatchdogExpire s
  | .mtickTick => Sys2Proof.Machine.execMtickTick s
  | .pctlWrite v => Sys2Proof.Machine.execPctlWrite v s
  | .mInterrupt => Sys2Proof.Machine.execMInterrupt s
  | .pswWrite tn => Sys2Proof.Machine.execPswWrite tn s
  | .pswaWrite tn v => Sys2Proof.Machine.execPswaWrite tn v s
  | .energyWindow vr nj => Sys2Proof.Machine.execEnergyWindow vr nj s
  | .hsemRead p => Sys2Proof.Machine.execHsemRead p s
  | .hsemRelease p => Sys2Proof.Machine.execHsemRelease p s
  | .hsemLapse => Sys2Proof.Machine.execHsemLapse s
  | .hostCsrAccess p off size wr => Sys2Proof.Machine.execHostCsrAccess p off size wr s
  | .tenantCreate tn vmid => Sys2Proof.Machine.execTenantCreate tn vmid s
  | .tenantReset tn => Sys2Proof.Machine.execTenantReset tn s
  | .memoryWindowWrite tn k len v => Sys2Proof.Machine.execMemoryWindowWrite tn k len v s
  | .hinvWrite v => Sys2Proof.Machine.execHinvWrite v s
  | .hinvDone => Sys2Proof.Machine.execHinvDone s
  | .rtbaseWrite v => Sys2Proof.Machine.execRtbaseWrite v s
  | .migRetry t => Sys2Proof.Machine.execMigRetry t s
  | .cxlMemAccess p pa len data => Sys2Proof.Machine.execCxlMemAccess p pa len data s
  | .spdmGetVersion p => Sys2Proof.Machine.execSpdmGetVersion p s
  | .spdmGetCapabilities p => Sys2Proof.Machine.execSpdmGetCapabilities p s
  | .spdmNegotiateAlgorithms p => Sys2Proof.Machine.execSpdmNegotiateAlgorithms p s
  | .spdmGetDigests p => Sys2Proof.Machine.execSpdmGetDigests p s
  | .spdmGetCertificate p slot off len => Sys2Proof.Machine.execSpdmGetCertificate p slot off len s
  | .spdmChallenge p slot nonce => Sys2Proof.Machine.execSpdmChallenge p slot nonce s
  | .spdmGetMeasurements p idx => Sys2Proof.Machine.execSpdmGetMeasurements p idx s
  | .spdmUnsupportedRequest p code => Sys2Proof.Machine.execSpdmUnsupportedRequest p code s
  | .uncorrectableError e => Sys2Proof.Machine.execUncorrectableError e s
  | .internalStateError e => Sys2Proof.Machine.execInternalStateError e s
  | .clusterReset c => Sys2Proof.Machine.execClusterReset c s
  | .clusterResetComplete c => Sys2Proof.Machine.execClusterResetComplete c s
  | .warmReset => Sys2Proof.Machine.execWarmReset s
  | .coldReset => Sys2Proof.Machine.execColdReset s
  | .stateDump v => Sys2Proof.Machine.execStateDump v s
  | .stateDumpComplete => Sys2Proof.Machine.execStateDumpComplete s
  | .tenantResetComplete tn => Sys2Proof.Machine.execTenantResetComplete tn s
  | .msixTableWrite p n addr data mask => Sys2Proof.Machine.execMsixTableWrite p n addr data mask s

end Sys2Proof.Machine
end

