-- ==== Sys2Proof/Machine/Run.lean ====
section
/-! DEFINITION. What a step is made of: fetching and issuing an instruction (R57, R73), the moves the agenda names (R275), the
passing of time, what follows an instruction of itself, and the bringing up of a tenant for a first fetch. -/

namespace Sys2Proof.Machine

/-! ## Fetch and issue -/

/-- An address of the local window, inside the allocation or not (R33). -/
def inLocalWindow (va : Word) : Bool := va.toNat / 2 ^ 56 == 1

/-- The checks of a fetch at the pc: translation with the X right, the leases and the edges (R73, R123, R132, R376, R399). -/
def checkFetch (s : State) : Except MStop XOk :=
  let va := s.pc
  if va.toNat % 4 != 0 then .error (.cause Cause.aln)
  else if s.cpu.id = .mgmt then
    match translateFw s va with
    | .ok k => .ok k
    | .error f => .error (xStop s va f)
  else if inLocalWindow va then .error (.cause Cause.prm)
  else
    match translate s (ctxOf s s.cpu) va false false true true with
    | .error f => .error (xStop s va f)
    | .ok k =>
      let remote := match k.loc with | .remote _ _ _ => true | _ => false
      if remote then .error (.cause Cause.prm)
      else if !(match leasesOf s s.cpu with | some ls => inLeases ls va.toNat 4 false false true | none => true) then .error .lease
      else if !vaneOk s s.cpu va.toNat 4 then .error (.cause Cause.van)
      else if poisonedFor k.s (k.s.cpu.agent k.s) k.loc 4 then .error (.cause Cause.ecc)
      else .ok k

/-- The word that memory shows the cpu strand at a location. -/
def shownWord (s : State) (l : Loc) : IWord := bytesWord (memBytes s (s.cpu.agent s) l 4)

/-- Whether an instruction word reads or changes what lies outside the ordering machine: SYS but for `nop`, CSRs, queue branches, and the
instructions of engines, tasks, vanes and merges. -/
def outsideWord (w : IWord) : Bool :=
  (fld w 31 25 == 0x02 && w != 0x04000000) || fld w 31 25 == 0x0F || fld w 31 25 == 0x1B || isLate w

/-- The word fetched: what memory shows the strand, or, where a move has said so, one that its instruction memory has taken up (R73). A
load after an instruction that looks outside the ordering machine, or in a handler, is issued after that, so what was read early is read
anew (Table 13.2, R437). -/
def fetchWord (k : XOk) : IWord × State :=
  let s := k.s
  let kept (e : Stale) : Bool := e.use && e.strand == s.cpu.id && e.loc == k.loc
  let (w, s) := match s.stales.find? kept with
    | some e => (e.word, { s with stales := s.stales.map (fun x => if kept x then { x with use := false } else x) })
    | none => (shownWord s k.loc, s)
  (w, if outsideWord w || s.pc == tvecOf s s.cpu then readAnew s else s)

/-- A strand's place to fetch from at `pc`, if it passes the checks of a fetch, and the state in which the strand looks. -/
def fetchPlace (s : State) (t : StrandId) (pc : Word) : Option (Loc × State) :=
  match s.strand? t with
  | none => none
  | some x =>
    let s0 := (s.focus t).withCtl (fun c => { c with pc := pc })
    match (if x.resid == .on then checkFetch s0 else .error .lease) with
    | .ok k => some (k.loc, s0)
    | .error _ => none

/-- A strand's instruction memory takes up the word that memory shows it now at `pc`, for a later fetch (R73). Writes that have entered
there and are not yet visible to the strand come after that word. -/
def takeUp (s : State) (t : StrandId) (pc : Word) : State :=
  match fetchPlace s t pc with
  | none => s
  | some (l, s0) =>
    let rs := s0.log.filter (fun r => overlaps l 4 r.loc r.bytes.length)
    let newer := (rs.reverse.takeWhile (fun r => !visible (s0.cpu.agent s0) r)).reverse
    { s with stales := s.stales ++ [{ strand := t, loc := l, word := shownWord s0 l, newer := newer.map (fun r => (r.owner, r.cluster)), use := false }] }

/-- The next fetch of a strand from `pc` returns the k-th word that its instruction memory has taken up there (R73). -/
def handWord (s : State) (t : StrandId) (pc : Word) (k : Nat) : State :=
  match fetchPlace s t pc with
  | none => s
  | some (l, _) =>
    let here (e : Stale) : Bool := e.strand == t && e.loc == l
    let n := (s.stales.filter here)[k]?
    { s with stales := s.stales.map (fun e => if here e then { e with use := n == some e } else e) }

/-- Decodes a word and runs the instruction; a word that is none raises ILL (R58). -/
def issueWord (w : IWord) (s : State) : Out :=
  if isLate w then
    match decodeLate w with
    | .ok l => runLate l s
    | .error _ => ill s w.toNat
  else
    match decodeLow w with
    | .ok i => exec i s
    | .error _ => ill s w.toNat

/-- Goes on with a next state. -/
def andThen (o : Out) (f : State → State) : Out :=
  match o with
  | .next s => .next (f s)
  | .fault x => .fault x
  | .refused x => .refused x

/-- A strand that waits keeps the word of the instruction it waits in. -/
def keepWord (t : StrandId) (w : Option IWord) (s : State) : State :=
  if s.cpu.id = t ∧ s.cpu.wait.isSome then s.withCpu (fun x => { x with ir := w }) else s

/-- Whether the strand may issue: it holds a context on a cluster that issues (R380), and where a walk waits for a page that migrates,
its leaf has just been read again (R413). -/
def mayIssue (s : State) : Bool :=
  s.cpu.resid == .on && issues s s.cpu.cluster &&
  (match s.cpu.wait with | some (.mig _ n t _) => n != 0 && t == s.dev.time | _ => true)

/-- The cpu strand issues: its interrupt, if one is due at the boundary (R392, R431); the instruction it waits in, once more; or
the instruction at its pc. -/
def issue (s : State) : Out :=
  if !mayIssue s then .next s
  else match s.cpu.wait with
    | some (.epark a) => .next (engineParkStep s a)
    | w =>
      match (if w.isNone then interruptDue s s.cpu else none) with
      | some b => .next (takeInterrupt s b)
      | none =>
        match (if w.isSome then s.cpu.ir else none) with
        | some x => andThen (issueWord x s) (keepWord s.cpu.id (some x))
        | none =>
          match checkFetch s with
          | .error e => andThen (stopAt s s.pc e) (keepWord s.cpu.id none)
          | .ok k =>
            let (x, s1) := fetchWord k
            andThen (issueWord x s1) (keepWord s.cpu.id (some x))

/-! ## Computations put aside (R275)

A scalar instruction that computes a register from registers orders nothing: where one of its sources still waits for a read, the strand
may go past it, and only what depends on that read waits. -/

/-- Sources and destination of such an instruction word. -/
def computesOf (w : IWord) : Option (List SReg × SReg) :=
  if isLate w then none
  else match decodeLow w with
    | .ok i => (integerForm i).orElse (fun _ => floatForm i)
    | .error _ => none

/-- The cpu strand goes past the computation it waits in. A poisoned source stops it instead (R435). -/
def putAside (s : State) : State :=
  match s.cpu.ir.bind (fun w => (computesOf w).map (fun f => (w, f))) with
  | none => s
  | some (w, rs, d) =>
    let ports := roleOf s s.cpu != .single && (d :: rs).any isSPort
    if ports || (poisonedS s rs).isSome || !sPending s rs then s
    else
      let src (r : SReg) : SReg × POpd :=
        (r, match s.cpu.mem.suppliers.find? (fun x => x.1 == r) with | some x => .link x.2 | none => .val (sreg s r))
      let (ord, s1) := s.fresh
      let p : PAlu := { ord := ord, reg := if d = 0 then none else some d, word := w, mr := s.cpu.ctl.mr, srcs := rs.map src, bad := false }
      complete (s1.withMem (fun m => let m := m.unbind d; { m with alus := m.alus ++ [p] }))

/-- The values of a computation's sources, once they all stand. -/
def PAlu.values (p : PAlu) : Option (List (SReg × Word)) :=
  p.srcs.mapM (fun x => match x.2 with | .val v => some (x.1, v) | .link _ => none)

/-- What a computation gives, and the flags it raises, from the values of its sources: as the instruction does on a strand that holds
them. -/
def PAlu.result (s : State) (t : StrandId) (p : PAlu) (vs : List (SReg × Word)) : Word × Flags :=
  let put (f : Vector Word 32) (x : SReg × Word) : Vector Word 32 := if x.1 = 0 then f else f.set x.1.toNat x.2 x.1.isLt
  let bench (x : Strand) : Strand := { x with
    wait := none, mem := .zero, regs := { x.regs with s := vs.foldl put x.regs.s, sPoison := 0 },
    ctl := { x.ctl with mr := p.mr, fflags := 0 } }
  match issueWord p.word ((s.focus t).withCpu bench) with
  | .next r => (match computesOf p.word with | some (_, d) => sreg r d | none => 0, r.cpu.ctl.fflags)
  | _ => (0, 0)

/-- A computation whose sources stand takes place: its value arrives, its flags accrue. -/
def runAlu (s : State) (t : StrandId) (p : PAlu) (vs : List (SReg × Word)) : State :=
  let (v, fl) := p.result s t vs
  let s1 := s.modStrand t (fun y => { y with
    ctl := { y.ctl with fflags := y.ctl.fflags ||| fl }, mem := { y.mem with alus := y.mem.alus.filter (fun q => q.ord != p.ord) } })
  arrive s1 t p.reg p.ord v p.bad

/-- The first computation of a strand whose sources stand takes place, and so on. -/
def runAlusOf (t : StrandId) : Nat → State → State
  | 0, s => s
  | n + 1, s => match (s.strand? t).bind (fun x => x.mem.alus.findSome? (fun p => p.values.map (p, ·))) with
    | some (p, vs) => runAlusOf t n (runAlu s t p vs)
    | none => s

/-- Every computation whose sources stand takes place. -/
def runAlus (s : State) : State :=
  s.strands.foldl (fun s x => if x.mem.alus.isEmpty then s else runAlusOf x.id x.mem.alus.length s) s

/-- The data register, the address register, the offset and the size of a scalar store's word. -/
def storeForm (w : IWord) : Option (SReg × SReg × BitVec 12 × Nat) :=
  if isLate w then none
  else match decodeLow w with
    | .ok (.stB d a o) => some (d, a, o, 1)
    | .ok (.stH d a o) => some (d, a, o, 2)
    | .ok (.stW d a o) => some (d, a, o, 4)
    | .ok (.stD d a o) => some (d, a, o, 8)
    | _ => none

/-- The cpu strand goes past a store of which only the data is still to come (R275): its checks pass, and it stands in the program-order
buffer. -/
def storePast (s : State) : Option State :=
  match s.cpu.ir.bind storeForm with
  | none => none
  | some (d, a, o, n) =>
    let ports := roleOf s s.cpu != .single && (isSPort d || isSPort a)
    let thaw := match s.cpu.id with | .thaw _ _ => true | _ => false
    match s.cpu.mem.suppliers.find? (fun x => x.1 == d) with
    | none => none
    | some x =>
      if ports || thaw || sPending s [a] || (poisonedS s [a]).isSome then none
      else match checkAccess s (ldAddr (sreg s a) o n) n false true with
        | .error _ => none
        | .ok k =>
          let remote := match k.loc with | .remote _ _ _ => true | _ => false
          if remote || (decide (n < 8) && poisonedLast k.s k.s.cpu k.loc n) then none
          else some (complete (putLate k.s k.loc n x.2))

/-- The sources of a vector store's word. -/
def supplySrcs (w : IWord) : Option (List Src) :=
  if isLate w then none
  else match decodeLow w with
    | .ok (.vst d a _) => some [.s a, .v d]
    | .ok (.vsts d a b _) => some [.s a, .s b, .v d]
    | .ok (.vsct d a b _) => some [.s a, .v b, .v d]
    | .ok (.vscadd d a b _) => some [.s a, .v b, .v d]
    | _ => none

/-- The cpu strand goes past a vector store whose train stands, all checks passed, while some of its elements wait for data of register d
(R279, R281). Poison that has arrived stops the store instead. -/
def supplyPast (s : State) (d : VReg) (w id : Nat) : State :=
  let v := vreg s d
  let left := ((s.cpu.mem.trains.find? (fun t => t.id == id)).map (·.elems)).getD [] |>.filterMap (·.src)
  let bad := left.any (fun x => vReady v (elemGroups w x.els) && (vPoisoned v (elemGroups w x.els)).isSome)
  match s.cpu.ir.bind supplySrcs with
  | none => s
  | some rs =>
    if pushes s d || bad then s
    else (vdone (closeTrains (setCont s none)) rs).withMem (fun m => { m with supplies := m.supplies ++ [{ d := d, w := w, id := id }] })

/-- The cpu strand goes past the load, the AMO or the `vfas` that it waits in, which performs later (R275, R279); it stays where that is
not so. -/
def deferPast (s : State) : Out :=
  match issue (s.withMem (fun m => { m with late := true })) with
  | .next t =>
    let gone := match t.strand? s.cpu.id with | some x => x.wait.isNone | none => true
    .next (if gone then t.modStrand s.cpu.id (fun x => { x with mem := { x.mem with late := s.cpu.mem.late } }) else s)
  | o => o

/-- The cpu strand goes past what it waits in, where only some moves of later entries wait for that: a `fence.rel` or a `vdrain` (R279),
`vwait` or a `.wait` load (R282), a computation, a store without its data, an access that performs later (R275). -/
def goOn (s : State) : Out :=
  if !issues s s.cpu.cluster then .next s
  else match s.cpu.wait with
  | some (.fence .rel sc) => .next (goPast s false sc)
  | some (.vdrain sc) => .next (goPast s true sc)
  | some (.landed v _) => issue (s.waitFor (.landed v true))
  | some (.supply d w id none) => .next (supplyPast s d w id)
  | some (.vfas _ _ _) => deferPast s
  | some (.amo _) => deferPast s
  | some .operands =>
    if (s.cpu.ir.bind computesOf).isSome then .next (putAside s)
    else match storePast s with
      | some t => .next t
      | none => deferPast s
  | _ => .next s

/-! ## What follows of itself

With an empty agenda the machine takes the quickest of the schedules that R275 leaves open: every access performs and every write
becomes visible at once, and then one thing that is due in the background happens. -/

/-- The reads of a vector value perform and its groups land, but for what an earlier write of the strand holds (R272); `held` says which
groups a `vfas` still writes. -/
def performValue (s : State) (x : Strand) (held : Nat → Bool) (v : VVal) : VVal :=
  let go (v : VVal) (r : PendRead) : VVal :=
    if x.mem.unwritten r then v else takeRead v r (pendBits s x r) (poisonedVec s x r.ord r.loc r.bytes)
  let land (v : VVal) : VVal :=
    if v.pend.any (fun r => r.dst == .bits) then v
    else { v with landed := (List.range 8).foldl (fun m g => if held g then m else m ||| (1#8 <<< g)) v.landed }
  if v.pend.isEmpty && v.landed == 0xFF then v else land (v.pend.foldl go v)

/-- So do those of every vector value whose reads are a strand's, and the reads of its `svld`. -/
def performReads (s : State) (x : Strand) : State :=
  let f := performValue s x (fun _ => false)
  let reading (v : VVal) : Bool := !v.pend.isEmpty || v.landed != 0xFF
  let s := s.modStrand x.id (fun y =>
    let y := if !y.regs.v.toList.any reading then y
      else { y with
        regs := { y.regs with v := y.regs.v.mapFinIdx (fun i v _ => performValue s x (x.mem.fasHolds i) v) },
        mem := { y.mem with vdep := y.mem.vdep.mapFinIdx (fun i n _ => if reading (y.regs.v.toList.getD i .zero) then s.dev.nextUid else n) } }
    { y with staging := y.staging.map (fun e => (e.1, f e.2)), mem := y.mem.forget (fun e => e.vec) })
  let s := match x.id with
    | .task tid e => s.modTask tid (fun t =>
        let q := t.queues
        { t with queues := if e then { q with vq3 := q.vq3.map f } else { q with vq0 := q.vq0.map f, vq1 := q.vq1.map f, vq2 := q.vq2.map f } })
    | _ => s
  match x.mem.sv with
  | some l => l.pend.foldl (fun s _ => match s.strand? x.id with | some y => readImage s y 0 | none => s) s
  | none => s

/-- The first move that a strand's program-order and store buffers allow. -/
def scalarMove (s : State) (x : Strand) : Option State :=
  let ready (k : Nat) : Bool := match x.mem.loads[k]? with | some r => !x.mem.heldRead r.ord r.loc r.n | none => false
  match (List.range x.mem.loads.length).find? ready with
  | some k => some (readScalar s x k)
  | none => match x.mem.amos.findSome? (fun p => pastReady s x p.ord) with
    | some p => some (pastOne s x p none)
    | none => match x.mem.vfas.findSome? (fun p => pastFas s x p.ord) with
      | some p => some (fasOne s x p none)
      | none =>
        if (match x.mem.pob with | e :: _ => e.src.isNone | [] => false) then some (nextOf (execPush x.id s) s)
        else if (match x.mem.ssb with | e :: _ => !x.mem.heldStore e | [] => false) then some (nextOf (execEnterScalar x.id s) s)
        else if x.mem.pob.isEmpty && x.mem.ssb.isEmpty then (openFence s x).map (fun _ => nextOf (execComplete x.id s) s)
        else none

/-- Those moves one after another; every write is at once visible everywhere. -/
def scalarMoves (t : StrandId) : Nat → State → State
  | 0, s => s
  | n + 1, s => match (s.strand? t).bind (scalarMove s) with
    | some s => scalarMoves t n (settleLog (runAlus s))
    | none => s

/-- The elements of a strand's trains are supplied and enter, in their order, where they may. -/
def trainMoves (s : State) (x : Strand) : State :=
  x.mem.trains.foldl (fun s u =>
    let s := supplyElems s x u.id (fun _ => true)
    u.elems.foldl (fun s e => settleLog (match addable s x.id u.id e.n with
      | some (y, w, d, _) => addOne s x.id y w d (elemBytes memAddBytes s d)
      | none => nextOf (execEnterTrain x.id u.id e.n s) s)) s) s

/-- How much a strand has still to perform. -/
def MemSt.work (m : MemSt) : Nat :=
  m.loads.length + m.amos.length + m.vfas.length + m.fences.length + 2 * m.pob.length + m.ssb.length + (m.trains.map (fun t => t.elems.length)).sum

/-- Whether it has anything to perform. -/
def hasAccesses (s : State) (x : Strand) : Bool :=
  !(x.mem.bufferEmpty && x.mem.trains.isEmpty && x.mem.sv.isNone && loadsDone s x none)

/-- A strand's accesses perform, as far as they may: what waits for another goes round again. -/
def settleStrand (t : StrandId) : Nat → State → State
  | 0, s => s
  | n + 1, s => match s.strand? t with
    | none => s
    | some x =>
      if !hasAccesses s x then s
      else
        let s1 := scalarMoves t x.mem.work s
        let s2 := match s1.strand? t with | some y => performReads s1 y | none => s1
        let s3 := match s2.strand? t with | some y => trainMoves s2 y | none => s2
        settleStrand t n s3

/-- How often a strand goes round at the most. -/
def rounds (x : Strand) : Nat := 1 + x.mem.fences.length + x.mem.trains.length + x.mem.vfas.length

/-- Every access performs, every write is visible everywhere, and translations being removed leave the caches. -/
def settle (s : State) : State :=
  let s := runAlus (settleLog s)
  let s := s.strands.foldl (fun s x => if hasAccesses s x then settleStrand x.id (rounds x) s else s) s
  if s.tlb.all (fun e => !e.dying) then s
  else (s.tlb.filter (fun e => e.dying)).foldl (fun s e => evict s e.id) s

/-- What may be due in the background, per unit: a list of moves, of which those whose condition fails change nothing. -/
def messageMoves (s : State) : List Late :=
  s.dev.inbox.filterMap (fun m => match m.ty with
    | 1 => some (.dataMessage m) | 2 => some (.tailMessage m) | 3 => some (.ackMessage m) | 4 => some (.nackMessage m)
    | 5 => some (.atomicRequest m) | 6 => some (.atomicResponse m) | 7 => some (.stampMessage m) | 8 => some (.restartMessage m)
    | _ => none) ++
  s.dev.rx.filterMap (fun r => match r.queue with
    | .elem o d _ _ :: _ => some (.remoteEnter r.sdev r.win r.sten o d)
    | .tail _ _ _ :: _ => some (.ack r.sdev r.win r.sten)
    | [] => none) ++
  s.dev.tx.flatMap (fun t => [.resendTimeout t.ddev t.win t.sten, .streamTimeout t.ddev t.win t.sten])

/-- The moves of the copy engines. -/
def copyMoves (s : State) : List Late :=
  (s.copies.filter (fun c => !c.moving)).map (fun c => .copyStart c.cluster) ++
  s.copies.flatMap (fun c =>
    (if c.moving && c.slot.isSome && !c.taken then [.slotPermitTake c.uid] else []) ++
    (match c.numbers.find? (fun n => !c.made.contains n) with
      | some n => [if c.gathers then .gatherRow c.uid n else .transfer c.uid n]
      | none => [.copyStamp c.uid]) ++
    (match c.mreg, c.numbers.find? (fun n => !c.chunkDone.contains (c.chunkOf n)) with
      | some _, some n => [.chunkDone c.uid (c.chunkOf n)]
      | _, _ => []))

/-- Launches, tasks and graphs. -/
def taskMoves (s : State) : List Late :=
  s.launches.flatMap (fun l =>
    (match l.pin with
      | .done => if decide (l.created < l.total) || !l.skipped.isEmpty then [.taskEnumerate l.tenant l.lid] else []
      | .failed => []
      | _ => [.pinPassResume l.tenant l.lid]) ++
    [.launchComplete l.tenant l.lid]) ++
  (s.tasks.filter (fun t => t.state == .waitgang)).map (fun t => .gangAdmit t.tenant t.lid (t.gang.getD 0)) ++
  (s.tasks.filter (fun t => t.state == .parked && t.watch)).map (fun t => .parkWake t.tid) ++
  (if s.tasks.any (fun t => t.state == .ready) then
    (allClusters.filter (fun c => s.tenants.any (fun t => inPartition t c))).map (fun c => .taskDispatch c) else []) ++
  (if s.tasks.any (fun t => t.state == .ready) then (s.tasks.filter (fun t => t.state == .running)).map (fun t => .preempt t.tid) else []) ++
  s.strands.flatMap (fun x => if x.ext.steal.isEmpty then []
    else (allClusters.filter (fun c => inPartition (s.ten x.tenant) c)).map (fun c => .steal c x.id)) ++
  s.graphs.flatMap (fun g => (g.nodes.mapIdx (fun i n => (i, n))).flatMap (fun n =>
    match n.2.state with
    | .running => [.nodeFinish g.tenant g.gid n.1, .nodeFail g.tenant g.gid n.1]
    | .done => [.nodeFinish g.tenant g.gid n.1]
    | .failing => [.nodeFail g.tenant g.gid n.1]
    | _ => []))

/-- Diversion queues, throttling, resets and the rest. -/
def unitMoves (s : State) : List Late :=
  s.clusters.flatMap (fun c =>
    (if c.div.any DivEntry.ready then
      (match (List.range thawThreads).find? (fun k => (s.strand? (.thaw c.num k)).isNone) with | some k => [.thawTake c.num k] | none => [])
     else []) ++
    (if c.switching then [.domainSwitch c.num] else []) ++ (if slewDue c then [.slewStep c.num] else []) ++ (if c.clock != c.eff.frq then [.clockChange c.num] else []) ++
    (if c.tctl != c.tctlOn then [.tctlApply c.num] else [])) ++
  s.strands.filterMap (fun x => match x.id with | .thaw c k => some (.thawTimeout c k) | _ => none) ++
  s.strands.filterMap (fun x => match x.wait with | some (.bar _) => some (.barArrive x.id) | _ => none) ++
  (s.tasks.filter (fun t => t.dual)).map (fun t => .queueDeadlock t.tid) ++
  (s.tasks.filter (fun t => t.vane.group != 0 && decide (0 < t.vane.ln))).map (fun t => .idlePass t.tid) ++
  (List.range s.dev.flips.length).map (fun k => .flipMessage k) ++
  (s.dev.nets.map (fun x => .mgopenGrant x.1)) ++
  s.tenantsX.flatMap (fun x =>
    (if x.pswDue.isSome then [.pswWrite x.num] else []) ++ (if x.budgetDue then [.budgetInterval x.num] else []) ++
    (x.window.toList.map (fun nj => .pmeasWindow x.num (wattsOf false nj)))) ++
  (s.tenantsX.filter (fun x => x.resetting)).map (fun x => .tenantResetComplete x.num) ++
  s.dev.h.crst.map (fun c => .clusterResetComplete c) ++
  (if s.dev.h.dump.isSome then [.stateDumpComplete] else []) ++ (if s.dev.h.hinvs.isEmpty then [] else [.hinvDone]) ++
  s.strands.filterMap (fun x => match x.wait with | some (.mig _ _ _ _) => some (.migRetry x.id) | _ => none) ++
  [.watchdogWarning, .watchdogExpire, .mtickTick] ++ (if s.dev.h.hsem.owner == 0 then [] else [.hsemLapse])

/-- The metered energy of a regulator's window, which nothing in the machine gives: a free value. -/
def meterWindow (vr : Nat) (s : State) : State := let (w, s) := s.freeWord; nextOf (execEnergyWindow vr w.toNat s) s

/-- The moves that no row of the opcode table names. -/
def ownMoves (s : State) : List (State → State) :=
  (s.tasks.filter (fun t => t.vane.ending)).map (fun t s => flipStep s t.tid) ++
  s.graphs.flatMap (fun g => ((g.nodes.mapIdx (fun i n => (i, n))).filter (fun n => n.2.state == .released)).map
    (fun n s => startNode s g.tenant g.gid n.1)) ++
  s.strands.filterMap (fun x => match x.id, x.resid with | .thaw c k, .off => some (builtinFill c k) | _, _ => none) ++
  (List.range s.dev.posts.length).map (fun k s => retryPost s k) ++ s.dev.windows.map meterWindow

/-- The first sensor that is due for a sample (R391). -/
def dueSensor (s : State) : Option Nat := (List.range 64).find? (fun k => decide (sampleAt s k ≤ s.dev.time))

/-- Its sample is taken. What it measures nothing in the machine gives: a free value. -/
def sampleSensor (s : State) (k : Nat) : State := let (w, s) := s.freeWord; nextOf (execSensorSample k (w.setWidth 16) s) s

/-- The state after a late row's move, if it changes anything. -/
def tryLate (s : State) (l : Late) : Option State := match runLate l s with | .next t => if t = s then none else some t | _ => none

/-- Whether nothing can be due. -/
def idleUnits (s : State) : Bool :=
  s.dev.inbox.isEmpty && s.dev.rx.isEmpty && s.dev.tx.isEmpty && s.copies.isEmpty && s.launches.isEmpty && s.graphs.isEmpty &&
  s.clusters.isEmpty && s.dev.flips.isEmpty && s.dev.nets.isEmpty && s.tenantsX.isEmpty && s.dev.h.crst.isEmpty &&
  s.dev.h.dump.isNone && s.dev.h.hinvs.isEmpty && s.dev.posts.isEmpty && s.dev.h.hsem.owner == 0 && s.dev.time == 0 &&
  s.tasks.all (fun t => t.state == .running && t.vane.group == 0 && !t.dual) &&
  s.strands.all (fun x => x.ext.steal.isEmpty && x.serves.isNone && (match x.wait with | some (.bar _) => false | _ => true))

/-- One thing that is due in the background. -/
def background (s : State) : State :=
  if idleUnits s then s
  else match dueSensor s with
  | some k => sampleSensor s k
  | none => match (messageMoves s ++ copyMoves s ++ unitMoves s ++ taskMoves s).findSome? (tryLate s) with
    | some t => t
    | none => ((ownMoves s).findSome? (fun f => let t := f s; if t = s then none else some t)).getD s

/-- A strand that cannot go on lets the next one that holds a context have its turn. -/
def rotate (s : State) : State :=
  if s.cpu.resid == .on && s.cpu.wait.isNone then s
  else match s.others.find? (fun x => x.resid == .on) with
    | some x => s.focus x.id
    | none => s

/-- What follows an issue of itself. -/
def follow (s : State) : State := rotate (pump (settle (background (settle s))))

/-! ## Time -/

/-- A cluster's clock in MHz: the lower of the setting in use and the setting that takes effect (R381). -/
def clockMhz (c : Cluster) : Nat := 600 + 25 * Nat.min c.clock c.eff.frq

/-- Periods of a clock of f MHz in ns nanoseconds from time t on. -/
def periods (f t ns : Nat) : Nat := (t + ns) * f / 1000 - t * f / 1000

/-- A strand's clocks and charges over some time (R31, R395, R447), and its wait for a queue (R18). No reason is charged while its
cluster switches regulators (R380). -/
def strandTime (s : State) (ns : Nat) (x : Strand) : Strand :=
  let tick (n : Nat) : Strand := { x with ctl := { x.ctl with cycle := x.ctl.cycle + BitVec.ofNat 64 n } }
  match x.id with
  | .mgmt => tick ns
  | .thaw c _ => tick (periods (clockMhz (s.cluster c)) s.dev.time ns)
  | .task _ _ =>
    if x.resid != .on then x
    else
      let c := s.cluster x.cluster
      let n := periods (clockMhz c) s.dev.time ns
      let on (r : Nat) : Nat := if !c.switching && reasonActive s c r then n else 0
      let u := x.usage
      { tick n with
        wait := match x.wait with | some (.queue q m) => some (.queue q (m + n)) | w => w,
        usage := { u with cyc := u.cyc + n, ns := u.ns + ns, thm := u.thm + on rsTHM, cur := u.cur + on rsCUR, slw := u.slw + on rsSLW,
                          cap := u.cap + on rsCAP, rel := u.rel + on rsREL } }

/-- The clusters with a strand in the current energy window (R395). -/
def busyClusters (s : State) : List Nat :=
  (s.strands.filterMap (fun x => match x.id with | .task _ _ => if x.resid == .on then some x.cluster else none | _ => none) ++
    (s.clusters.filter (fun c => !c.left.isEmpty)).map (·.num)).eraseDups

/-- The windows and intervals that end at a time, in ns: the 10 µs energy windows (R395), the 100 µs intervals of the budgets and the
1 ms windows of PMEAS (R387). -/
def endPeriods (s : State) (now : Nat) : State :=
  let s1 := if now % 10000 != 0 then s
    else s.withDev (fun d => { d with windows := ((busyClusters s).map (fun c => (s.cluster c).vr)).eraseDups })
  let budget (s : State) (t : TenantX) : State := s.modTenX t.num (fun (x : TenantX) => if x.budget = 0 then x else { x with budgetDue := true })
  let measure (s : State) (t : TenantX) : State := s.modTenX t.num (fun (x : TenantX) => { x with window := some x.energy, energy := 0 })
  let s2 := if now % 100000 != 0 then s1 else s1.tenantsX.foldl budget s1
  if now % 1000000 != 0 then s2 else s2.tenantsX.foldl measure s2

/-- Some time passes: TIME, the strands' clocks, the timers of the management core (R390), of HSEM (R410), of the streams (R318) and of
the slew limiter (R386); and the active reasons stick in TRS (R393). -/
def spend (ns : Nat) (s : State) : State :=
  let us := (s.dev.time + ns) / 1000 - s.dev.time / 1000
  let s1 := s.modStrands (strandTime s ns)
  let stick (c : Cluster) : Cluster := { c with trs := c.trs ||| BitVec.ofNat 5 (activeReasons s c), held := heldTimes s c ns }
  let stream (t : TxStream) : TxStream := if t.unacked.isEmpty then t else { t with idleNs := t.idleNs + ns, resendNs := t.resendNs + ns }
  let s2 := { s1 with clusters := s1.clusters.map stick }
  let s3 := s2.withM (fun m => { m with wdogUs := if m.wdogOn then m.wdogUs + us else m.wdogUs, tickUs := if m.mtick = 0 then 0 else m.tickUs + us })
  let s4 := s3.withH (fun h => { h with hsem := { h.hsem with rem := h.hsem.rem - us } })
  let s5 := s4.withDev (fun d => { d with time := d.time + ns, tx := d.tx.map stream })
  if ns = 0 then s5 else endPeriods s5 s5.dev.time

/-- The first time from t on at which a clock of f MHz has made n more periods. -/
def afterCycles (f t n : Nat) : Nat := (1000 * (t * f / 1000 + n) + f - 1) / f

/-- When what a cluster owes falls due: a step of the slew limiter, a TCTL that takes effect (R386, R390). -/
def clusterDue (s : State) (c : Cluster) : List Nat :=
  let one (h e a : Nat) : List Nat := if e = a then [] else [s.dev.time + (usNs - h)]
  let a := allowed s c
  c.tctlBy.toList ++ one c.held.vln c.eff.vln a.vln ++ one c.held.lsu c.eff.lsu a.lsu ++ one c.held.iss c.eff.iss a.iss ++
    one c.held.frq c.eff.frq a.frq

/-- When what the controller owes a tenant falls due: its power status word, its budget, its measurement (R387, R394). -/
def tenantDue (s : State) (x : TenantX) : List Nat :=
  (match x.pswDue with | some t => [if x.pswMig.1 = 0 then t else x.pswMig.2 + usNs] | none => []) ++
    (if x.budgetDue || x.window.isSome then [s.dev.time] else [])

/-- When leaves that migrate are read again (R413). -/
def rereadsDue (s : State) : List Nat :=
  s.strands.filterMap (fun x => match x.wait with | some (.mig _ _ t _) => if x.resid == .on then some (t + usNs) else none | _ => none) ++
  s.dev.posts.filterMap (fun p => match p.at', p.todo with
    | some t, _ => some (t + usNs)
    | none, _ => none) ++
  s.launches.filterMap (fun l => match l.pin with
    | .mig _ _ t _ => some (t + usNs) | .record _ _ t => some (t + usNs) | .waiting n t => if n = 0 then none else some (t + usNs) | _ => none) ++
  s.graphs.flatMap (fun g => g.nodes.filterMap (fun n => if n.state == .released || n.state == .running then n.readAt.map (· + usNs) else none))

/-- When the timers of the management core and of the streams run out (R318, R389, R390). -/
def timersDue (s : State) : List Nat :=
  let m := s.dev.m
  let at' (us : Nat) : Nat := (s.dev.time / 1000 + us) * 1000
  (if m.wdogOn && !m.wdogWarned then [at' (8000 - m.wdogUs)] else []) ++ (if m.wdogOn && !m.wdogExpired then [at' (10000 - m.wdogUs)] else []) ++
    (if m.mtick = 0 then [] else [at' (m.mtick.toNat - m.tickUs)]) ++
    s.dev.tx.flatMap (fun t => if t.unacked.isEmpty then [] else [s.dev.time + (20000 - t.resendNs), s.dev.time + (50000000 - t.idleNs)])

/-- When a pair has been blocked, or a handler has run, for too long (R18, R182). -/
def cyclesDue (s : State) : List Nat :=
  let at' (c n : Nat) : Nat := afterCycles (clockMhz (s.cluster c)) s.dev.time n
  s.tasks.filterMap (fun t => match (s.strand? (.task t.tid false)).bind blockedOn, (s.strand? (.task t.tid true)).bind blockedOn with
    | some (_, n), some (_, m) => some (at' (clusterOf s t) (2 ^ 24 - Nat.min n m))
    | _, _ => none) ++
  s.strands.filterMap (fun x => match x.id with
    | .thaw c _ => if x.resid == .on then some (at' c (2 ^ 20 - x.ctl.cycle.toNat)) else none
    | _ => none)

/-- When the windows and intervals that something depends on end. -/
def periodsDue (s : State) : List Nat :=
  let next (p : Nat) : Nat := (s.dev.time / p + 1) * p
  (if s.dev.windows.isEmpty then [] else [s.dev.time]) ++ (if (busyClusters s).isEmpty then [] else [next 10000]) ++
    (if s.tenantsX.any (fun t => t.budget != 0) then [next 100000] else []) ++ (if s.tenantsX.isEmpty then [] else [next 1000000])

/-- When the sensors are to be sampled (R391). -/
def samplesDue (s : State) : List Nat := (List.range 64).map (sampleAt s)

/-- How long, of some time, until the next thing falls due. -/
def untilDue (s : State) (ns : Nat) : Nat :=
  let ts := s.clusters.flatMap (clusterDue s) ++ s.tenantsX.flatMap (tenantDue s) ++ rereadsDue s ++ timersDue s ++ cyclesDue s ++ periodsDue s ++ samplesDue s
  ts.foldl (fun n t => Nat.min n (t - s.dev.time)) ns

/-- Time passes, but not past the instant at which something falls due: the agenda says first that it takes place. -/
def elapse (ns : Nat) (s : State) : State := spend (untilDue s ns) s

/-! ## The agenda's moves -/

/-- Rows without an encoding that are nothing but the effect of an instruction, of a write of a CSR or of a fetch: they are no
moves of their own. -/
def onlyEffect : Late → Bool
  | .mrWrite _ | .illegalInstruction _ | .vdmapWrite _ _ | .tctlWrite _ _ | .pbudWrite _ _ | .wdogWrite | .pctlWrite _
  | .pswaWrite _ _ | .tenantCreate _ _ | .tenantReset _ | .memoryWindowWrite _ _ _ _ | .hinvWrite _ | .rtbaseWrite _
  | .clusterReset _ | .warmReset | .stateDump _ => true
  | _ => false

/-- What a strand may wait in while instructions after it are issued (R275): what it can go past, a branch or a chaining instruction whose
operands are late, an AMO that does not acquire. -/
def Wait.passed : Wait → Bool
  | .operands => true
  | .landed _ _ => true
  | .micro _ _ => true
  | .supply _ _ _ _ => true
  | .vfas _ _ _ => true
  | .fence k _ => k == .rel
  | .vdrain _ => true
  | .amo r => r.order == .rlx || r.order == .rel
  | .remoteAmo r _ => r.order == .rlx || r.order == .rel
  | _ => false

/-- Whether a load of n bytes that comes later in a strand's program order may read now (R275, R277, R279): the strand holds its
context on a cluster that issues, what it waits in lets later instructions issue, and no earlier access that the read must follow is
pending. -/
def mayReadEarly (s : State) (x : Strand) (vec : Bool) (l : Loc) (n : Nat) : Bool :=
  let all := s.dev.nextUid
  let remote := match l with | .remote _ _ _ => true | _ => false
  let drain := match x.wait with | some (.vdrain _) => true | _ => false
  x.resid == .on && issues s x.cluster && !remote && (match x.wait with | some w => w.passed | none => false) &&
  (if vec then !olderRead s x [] 0 (probeRead l n all) && !poisonedVec s x all l n
   else !drain && !x.mem.heldRead all l n && !poisonedRead s x all l n)

/-- A later load of a strand reads n bytes now. -/
def readEarly (s : State) (t : StrandId) (vec : Bool) (l : Loc) (n : Nat) : State :=
  match s.strand? t with
  | none => s
  | some x =>
    if !mayReadEarly s x vec l n then s
    else
      let bs := if vec then vectorBytes s x s.dev.nextUid l n else scalarBytes s x l n
      let (now, s1) := s.fresh
      let e : EarlyRd := { vec := vec, loc := l, n := n, bytes := bs, time := now }
      s1.modStrand t (fun y => { y with mem := { y.mem with
        early := y.mem.early.filter (fun q => !(q.vec == vec && overlaps l n q.loc q.n)) ++ [e] } })

/-- One move of the agenda. -/
def runMove (m : Move) (s : State) : Out :=
  match m with
  | .event l => if l.encoded || onlyEffect l then .fault .notAnEvent else runLate l s
  | .issue t => match s.strand? t with
    | some x => if x.resid == .on then issue (s.focus t) else .next s
    | none => .next s
  | .elapse ns => .next (elapse ns s)
  | .stale t pc => .next (takeUp s t pc)
  | .hand t pc k => .next (handWord s t pc k)
  | .evict i => .next (evict s i)
  | .miss i c => .next (dropAt s i c)
  | .pause t n => .next { s with pauses := s.pauses ++ [(t, n)] }
  | .late t => .next (s.modStrand t (fun x => { x with mem := { x.mem with late := true } }))
  | .early t vec l n => .next (readEarly s t vec l n)
  | .pass t => match s.strand? t with
    | some x => if x.resid == .on then goOn (s.focus t) else .next s
    | none => .next s
  | .combine es tree => .next (combineAdds es tree s)
  | .post k => .next (retryPost s k)
  | .flip tid => .next (flipStep s tid)
  | .start tn gid i => .next (startNode s tn gid i)
  | .grab u n i => .next (grabByte u n i s)
  | .put u n t k => .next (enterByte u n t k s)
  | .fill c k => .next (builtinFill c k s)
  | .hdm p base => execHdm p base s
  | .image i => execImage i s

/-! ## A first fetch

No tenant exists after reset (R440) and the firmware memory holds nothing, so no program runs from `State.reset` alone: an image
is loaded from outside (R399, R405). `bringUp` stands for the hypervisor's work before a tenant's first instruction: tenant 0 on
cluster 0, with stage-2 tables that map its first GiB to itself, a memory window over it and ROOTPC at 64 KiB (log entry 25). -/

/-- The bytes of the three stage-2 tables. -/
def bootTables : List (Nat × Nat) := [(0x1000, 0x2001), (0x2000, 0x3001), (0x3000, 0xCF)]

/-- The tenant. -/
def bootTenant : Tenant :=
  { Tenant.fresh 0 with vmid := 1, part0 := 1, s2base := 0x1000, rootpc := 0x10000, mws := (1, 0x40000000) :: List.replicate 15 (0, 0) }

/-- Tenant 0's root task holds the first context of cluster 0. -/
def bringUp (s : State) : State :=
  let s := bootTables.foldl (fun s e => enterWide s (.dev e.1) (leBytes 8 e.2)) { s with agenda := [] }
  (startTenant (s.setTen bootTenant) 0).focus (.task 0 false)

/-- Whether the next step fetches an instruction of a task. -/
def fetches (s : State) : Bool :=
  s.agenda.isEmpty && s.cpu.resid == .on && s.cpu.wait.isNone && (tidOf s.cpu.id).isSome && (interruptDue s s.cpu).isNone &&
  (match checkFetch s with | .ok _ => true | .error _ => false)

/-- Stores a word where the next fetch reads it. -/
def placeWord (s : State) (w : IWord) : State :=
  match checkFetch s with
  | .ok k => { enterWide s k.loc (wordBytes w) with stales := s.stales.filter (fun e => e.strand != s.cpu.id) }
  | .error _ => s

end Sys2Proof.Machine
end

