-- ==== Sys2Proof/Machine/Step.lean ====
section
/-! DEFINITION. The step. With an empty agenda the cpu strand issues and what is due follows; else the agenda's first move takes
place. -/

namespace Sys2Proof.Machine

/-- One step of the machine. -/
def step (s : State) : Host.Outcome State Fault Refusal :=
  match s.agenda with
  | [] => andThen (issue s) follow
  | m :: rest => andThen (runMove m { s with agenda := rest }) (fun s => pump (runAlus s))

/-- The state whose next step fetches and runs the instruction with the bits w (the host's question). -/
def State.withFetchWord (s : State) (nbits w : Nat) : State :=
  placeWord (if fetches s then s else bringUp s) (BitVec.ofNat 32 (w % 2 ^ nbits))

end Sys2Proof.Machine
end

