-- ==== Sys2Proof/Safety.lean ====
section
/-! DEFINITION. The terms the statements are made of: when an instruction's operands can be read, what a completed instruction
leaves, and the invariants of memory and of the hard-wired registers. -/

namespace Sys2Proof.Machine

/-! ## Scalar operands -/

/-- The values of the sources `rs`, in pop order, when an instruction that writes `dst` can read them now: no load of one is
outstanding, none is poisoned, and, for a strand of a decoupled pair, the strand may read and write the ports it names, no queue it
pops runs dry and the queue it pushes to has room (R16 to R18, R435). -/
def readable (s : State) (rs : List SReg) (dst : Option SReg) : Option (List Word) :=
  if sPending s rs then none
  else if roleOf s s.cpu = .single then
    if poisonedS s rs = none then some (rs.map (sreg s)) else none
  else if rs.all (mayRead (roleOf s s.cpu)) && dst.all (mayWrite (roleOf s s.cpu)) &&
      dst.all (fun d => !isSPort d || decide ((sQueue (queuesOf s) d).length < sDepth d)) &&
      (poisonedS s (rs.filter (fun r => !isSPort r))).isNone then
    portVals (queuesOf s) rs [] (sreg s)
  else none

/-- The state in which an instruction with sources `rs` has completed and has written `v` to `d`. -/
def retired (s : State) (rs : List SReg) (d : SReg) (v : Word) : State := complete (writeS (popPorts s rs) d v)

/-- The same where the value depends on the sources alone: d's value then depends on no read later than those of the sources
(R275). -/
def computed (s : State) (rs : List SReg) (d : SReg) (v : Word) : State := setDep (retired s rs d v) d (depOf s rs)

/-- The same for an instruction that writes no register. -/
def retired0 (s : State) (rs : List SReg) : State := complete (popPorts s rs)

/-- The strand is one that sees no ports: of a task of one strand, the management core, or a thaw thread (R16). -/
def NoPorts (s : State) : Prop := roleOf s s.cpu = .single

/-! ## Memory -/

/-- A location of a remote window. -/
def isRemote (l : Loc) : Bool := match l with | .remote _ _ _ => true | _ => false

/-- A location whose bytes the device itself holds: device, host or firmware memory, or a scratchpad allocation of a task there is. -/
def stored (s : State) (l : Loc) : Bool :=
  match l with | .dev _ | .host _ | .fw _ => true | .spad t _ => (s.task? t).isSome | _ => false

/-- A place in program order after every scalar store the strand holds. -/
def MemSt.past (m : MemSt) : Nat := m.stores.foldl (fun n e => Nat.max n (e.ord + 1)) 0

/-- A byte as a strand's scalar side sees it after all its stores (R277): every frame speaks of memory through this read. -/
def byteSeen (s : State) (l : Loc) : Byte := scalarByte s s.cpu s.cpu.mem.past l

/-- The unsigned number of bytes, lowest first (R6). -/
def unsignedOf (bs : List Byte) : Nat := (bs.mapIdx (fun i b => b.toNat * 256 ^ i)).sum

/-! ## Forms and invariants -/

/-- The three memories are in canonical form. -/
def MemInv (s : State) : Prop := Memory.wf s.mem = true ∧ Memory.wf s.hostMem = true ∧ Memory.wf s.fwMem = true

/-! ## Vector operands -/

/-- The strand is a task's (majors 0x21 to 0x37 raise ILL elsewhere, R446, R182). -/
def isTask (s : State) : Bool := match s.cpu.id with | .task _ _ => true | _ => false

/-- A vector value with nothing outstanding: every read has performed, every group has landed, every element is PRESENT and no group is
poisoned. -/
def VVal.quiet (v : VVal) : Bool := v.pend.isEmpty && v.landed == 0xFF && v.pres == 0 && v.poison == 0

/-- A value read from an operand field is a scalar, or a quiet vector. -/
def SVal.quiet : SVal → Bool | .s _ => true | .v x => x.quiet

/-- The values of the fields `rs`, in pop order, when a vector instruction that writes `dst` can read them now: no load of a scalar
source is outstanding, none is poisoned, no earlier access of the strand still uses the destination, and, for a strand of a decoupled pair, it may use the ports it names, no queue it pops runs dry
and, where the push is made at the start (`room`), the queue it pushes to has room (R16 to R18). -/
def vreadable (s : State) (rs : List Src) (dst : Dst) (room : Bool) : Option (List SVal) :=
  if sPending s (scalarsOf rs) || dstBusy s.cpu.mem dst || (poisonedSrc s (roleOf s s.cpu != .single) rs).isSome then none
  else if roleOf s s.cpu == .single then
    some (rs.map (Src.value s))
  else if rs.all (Src.mayRead (roleOf s s.cpu)) && dst.mayWrite (roleOf s s.cpu) && (!room || (dstFull (queuesOf s) dst).isNone) then
    match srcVals s (queuesOf s) rs with
    | .ok vs => some vs
    | .error _ => none
  else none

/-- The same, for quiet sources on a strand of a task. -/
def quietOps (s : State) (rs : List Src) (dst : Dst) (room : Bool) : Option (List SVal) :=
  if isTask s && s.cpu.regs.mPoison == 0 then
    match vreadable s rs dst room with
    | some vs => if vs.all SVal.quiet then some vs else none
    | none => none
  else none

/-- A vector destination that takes its elements at once: a port, or a register whose groups have all landed. -/
def destFree (s : State) (d : VReg) : Bool := pushes s d || (vreg s d).landed == 0xFF

/-- Where a vector result stands after an instruction that began in s: the last entry of the queue it was pushed onto, or the register. -/
def resultAt (s t : State) (d : VReg) : VVal :=
  if pushes s d then (vQueue (queuesOf t) d).getLastD VVal.zero else vreg t d

/-- The chaining instructions of Tables 6.3, 7.5 and R151, R192, but `vsel` and `vapply`. -/
def chainRow : Instr → Option VDesc
  | .vadd d a b => some ⟨.arith 0, d, a, b, 0, none⟩ | .vsub d a b => some ⟨.arith 1, d, a, b, 0, none⟩
  | .vmul d a b => some ⟨.arith 2, d, a, b, 0, none⟩ | .vmulh d a b => some ⟨.arith 3, d, a, b, 0, none⟩
  | .vdiv d a b => some ⟨.arith 4, d, a, b, 0, none⟩ | .vmin d a b => some ⟨.arith 5, d, a, b, 0, none⟩
  | .vmax d a b => some ⟨.arith 6, d, a, b, 0, none⟩ | .vabs d a => some ⟨.arith 7, d, a, .sca 0, 0, none⟩
  | .vneg d a => some ⟨.arith 8, d, a, .sca 0, 0, none⟩ | .vand d a b => some ⟨.arith 9, d, a, b, 0, none⟩
  | .vor d a b => some ⟨.arith 10, d, a, b, 0, none⟩ | .vxor d a b => some ⟨.arith 11, d, a, b, 0, none⟩
  | .vnot d a => some ⟨.arith 12, d, a, .sca 0, 0, none⟩ | .vsll d a b => some ⟨.arith 13, d, a, b, 0, none⟩
  | .vsrl d a b => some ⟨.arith 14, d, a, b, 0, none⟩ | .vsra d a b => some ⟨.arith 15, d, a, b, 0, none⟩
  | .vdot4 d a b => some ⟨.arith 16, d, a, b, 0, none⟩ | .vaddw d a b => some ⟨.arith 17, d, a, b, 0, none⟩
  | .vclass d a => some ⟨.arith 18, d, a, .sca 0, 0, none⟩
  | .vsgnj d a b => some ⟨.sgnj 0, d, a, b, 0, none⟩ | .vsgnjN d a b => some ⟨.sgnj 1, d, a, b, 0, none⟩
  | .vsgnjX d a b => some ⟨.sgnj 2, d, a, b, 0, none⟩
  | .vfma d a b c => some ⟨.fma 0, d, a, .vec b, c, none⟩ | .vfms d a b c => some ⟨.fma 1, d, a, .vec b, c, none⟩
  | .vfnma d a b c => some ⟨.fma 2, d, a, .vec b, c, none⟩ | .vfnms d a b c => some ⟨.fma 3, d, a, .vec b, c, none⟩
  | .vexp d a => some ⟨.func 0, d, a, .sca 0, 0, none⟩ | .vexp2 d a => some ⟨.func 1, d, a, .sca 0, 0, none⟩
  | .vlog d a => some ⟨.func 2, d, a, .sca 0, 0, none⟩ | .vlog2 d a => some ⟨.func 3, d, a, .sca 0, 0, none⟩
  | .vsin d a => some ⟨.func 4, d, a, .sca 0, 0, none⟩ | .vcos d a => some ⟨.func 5, d, a, .sca 0, 0, none⟩
  | .vtanh d a => some ⟨.func 6, d, a, .sca 0, 0, none⟩ | .vsigm d a => some ⟨.func 7, d, a, .sca 0, 0, none⟩
  | .vrcp d a => some ⟨.func 8, d, a, .sca 0, 0, none⟩ | .vsqrt d a => some ⟨.func 9, d, a, .sca 0, 0, none⟩
  | .vrsqrt d a => some ⟨.func 10, d, a, .sca 0, 0, none⟩ | .verf d a => some ⟨.func 11, d, a, .sca 0, 0, none⟩
  | _ => none

/-- The width of the b operand of a chaining instruction, and its tag where it is a vector (R148, R149). -/
def chainB (fn : VFn) (et : Nat) : Nat × Nat :=
  match fn with
  | .arith 17 => (fmtWidth (fnTag fn et), fnTag fn et)
  | _ => (fmtWidth et, et)

/-- Whether the formats of a chaining instruction fit (R138, R142, Table 6.1): ET is admitted, every vector source has its tag, and VL is
within VLMAX of each width. -/
def chainFits (s : State) (x : VDesc) (vs : List SVal) : Bool :=
  let et := etOf s
  let b := chainB x.fn et
  let bVec := fnUsesB x.fn && x.fn != .apply && !x.b.flag
  let isFma := match x.fn with | .fma _ => true | _ => false
  let isDot := x.fn == .arith 16
  fnAdmits x.fn et && (vecAt vs 0).fmt == et && (!bVec || (vecAt vs 1).fmt == b.2) && (!isFma || (vecAt vs 2).fmt == et) &&
  (!isDot || ((vecAt vs 2).fmt == 0x20 && vlOf s % 4 == 0)) &&
  decide (vlOf s ≤ vlmax (fmtWidth et)) && (!bVec || decide (vlOf s ≤ vlmax b.1)) &&
  (isDot || decide (vlOf s ≤ vlmax (fmtWidth (fnTag x.fn et))))

/-- Operand j of element i of a chaining instruction. -/
def chainArg (s : State) (x : VDesc) (vs : List SVal) (j i : Nat) : Nat :=
  let w := if x.fn = .arith 16 then 32 else if j = 1 then (chainB x.fn (etOf s)).1 else fmtWidth (etOf s)
  if j = 1 ∧ ¬ fnUsesB x.fn then 0
  else if j = 1 ∧ x.b.flag then (wordAt vs 1).toNat % 2 ^ w
  else (vecAt vs j).el w i

end Sys2Proof.Machine
end

