-- ==== Sys2Proof/Certificates/Slice0/Obligations.lean ====
section
/-! DEFINITION. The statements of this model for the provers. -/

open Sys2Proof Sys2Proof.Machine

/-- R107, R108: the results of the 21 register-register instructions and of their `.w` forms, on every operand. A form `.w` works
on 32-bit operands and sign-extends. Each clause says that the instruction completes with that value in d. -/
def Obligations.AluResults : Prop :=
  ∀ (s : State) (d a b : SReg) (w : Bool) (x y : Word), readable s [a, b] (some d) = some [x, y] →
    let gives (i : Instr) (f : (n : Nat) → BitVec n → BitVec n → BitVec n) : Prop :=
      exec i s = .next (computed s [a, b] d
        (if w then (f 32 (x.setWidth 32) (y.setWidth 32)).signExtend 64 else f 64 x y))
    gives (.add d a b w) (fun n p q => BitVec.ofNat n (p.toNat + q.toNat)) ∧
    gives (.sub d a b w) (fun n p q => BitVec.ofInt n (p.toInt - q.toInt)) ∧
    gives (.mul d a b w) (fun n p q => BitVec.ofInt n (p.toInt * q.toInt)) ∧
    gives (.mulh d a b w) (fun n p q => BitVec.ofInt n ((p.toInt * q.toInt) >>> n)) ∧
    gives (.mulhu d a b w) (fun n p q => BitVec.ofNat n ((p.toNat * q.toNat) >>> n)) ∧
    gives (.div d a b w) (fun n p q =>
      if q = 0 then (if p.msb then BitVec.intMin n else BitVec.intMax n) else BitVec.ofInt n (p.toInt.tdiv q.toInt)) ∧
    gives (.divu d a b w) (fun n p q => if q = 0 then BitVec.allOnes n else BitVec.ofNat n (p.toNat / q.toNat)) ∧
    gives (.rem d a b w) (fun n p q => if q = 0 then p else BitVec.ofInt n (p.toInt.tmod q.toInt)) ∧
    gives (.remu d a b w) (fun n p q => if q = 0 then p else BitVec.ofNat n (p.toNat % q.toNat)) ∧
    gives (.and d a b w) (fun _ p q => p &&& q) ∧
    gives (.or d a b w) (fun _ p q => p ||| q) ∧
    gives (.xor d a b w) (fun _ p q => p ^^^ q) ∧
    gives (.sll d a b w) (fun n p q => BitVec.ofNat n (p.toNat * 2 ^ (q.toNat % n))) ∧
    gives (.srl d a b w) (fun n p q => BitVec.ofNat n (p.toNat / 2 ^ (q.toNat % n))) ∧
    gives (.sra d a b w) (fun n p q => BitVec.ofInt n (p.toInt / 2 ^ (q.toNat % n))) ∧
    gives (.slt d a b w) (fun n p q => BitVec.ofNat n (if p.toInt < q.toInt then 1 else 0)) ∧
    gives (.sltu d a b w) (fun n p q => BitVec.ofNat n (if p.toNat < q.toNat then 1 else 0)) ∧
    gives (.min d a b w) (fun n p q => BitVec.ofInt n (Min.min p.toInt q.toInt)) ∧
    gives (.max d a b w) (fun n p q => BitVec.ofInt n (Max.max p.toInt q.toInt)) ∧
    gives (.minu d a b w) (fun n p q => BitVec.ofNat n (Min.min p.toNat q.toNat)) ∧
    gives (.maxu d a b w) (fun n p q => BitVec.ofNat n (Max.max p.toNat q.toNat))

/-- R109 to R111: `sel`, the immediate instructions, `lih` and `lix`. The immediates of `addi`, `andi`, `slti` and `sltiu` are
sign-extended and those of `ori` and `xori` zero-extended.
R112: the bit instructions. A count of a 32-bit form counts the low 32 bits; the field of `bext` and `bins` starts at bit
b[5:0], is b[14:8] bits long and is clipped at the operand width; a field that is empty after clipping extracts 0 and inserts
nothing. That `bins.w` executes is the model's choice (log entry 7): R65 and the opcode table have it, R106 says that it does not exist. -/
def Obligations.ImmediateAndBitResults : Prop :=
  ((∀ (s : State) (d a b c : SReg) (x y z : Word), readable s [a, b, c] (some d) = some [x, y, z] →
    exec (.sel d a b c) s = .next (computed s [a, b, c] d (if z.toNat = 0 then y else x))) ∧
  (∀ (s : State) (d a : SReg) (i : BitVec 15) (x : Word), readable s [a] (some d) = some [x] →
    let gives (j : Instr) (v : Word) : Prop := exec j s = .next (computed s [a] d v)
    gives (.addi d a i) (BitVec.ofInt 64 (x.toInt + i.toInt)) ∧
    gives (.andi d a i) (x &&& BitVec.ofInt 64 i.toInt) ∧
    gives (.ori d a i) (x ||| BitVec.ofNat 64 i.toNat) ∧
    gives (.xori d a i) (x ^^^ BitVec.ofNat 64 i.toNat) ∧
    gives (.slti d a i) (BitVec.ofNat 64 (if x.toInt < i.toInt then 1 else 0)) ∧
    gives (.sltiu d a i) (BitVec.ofNat 64 (if x.toNat < (BitVec.ofInt 64 i.toInt).toNat then 1 else 0))) ∧
  (∀ (s : State) (d a : SReg) (n : BitVec 6) (x : Word), readable s [a] (some d) = some [x] →
    let gives (j : Instr) (v : Word) : Prop := exec j s = .next (computed s [a] d v)
    gives (.slli d a false n) (BitVec.ofNat 64 (x.toNat * 2 ^ n.toNat)) ∧
    gives (.srli d a false n) (BitVec.ofNat 64 (x.toNat / 2 ^ n.toNat)) ∧
    gives (.srai d a false n) (BitVec.ofInt 64 (x.toInt / 2 ^ n.toNat)) ∧
    (n.toNat < 32 →
      gives (.slli d a true n) ((BitVec.ofNat 32 (x.toNat * 2 ^ n.toNat)).signExtend 64) ∧
      gives (.srli d a true n) ((BitVec.ofNat 32 (x.toNat % 2 ^ 32 / 2 ^ n.toNat)).signExtend 64) ∧
      gives (.srai d a true n) ((BitVec.ofInt 32 ((x.setWidth 32).toInt / 2 ^ n.toNat)).signExtend 64))) ∧
  (∀ (s : State) (d : SReg) (i : BitVec 20), readable s [] (some d) = some [] →
    exec (.lih d i) s = .next (computed s [] d ((i ++ 0#12).signExtend 64))) ∧
  (∀ (s : State) (d : SReg) (i : BitVec 20) (x : Word), readable s [d] (some d) = some [x] →
    exec (.lix d i) s = .next (computed s [d] d (BitVec.ofNat 64 (x.toNat * 2 ^ 20 + i.toNat))))) ∧
  ((∀ (s : State) (d a : SReg) (w : Bool) (x : Word), readable s [a] (some d) = some [x] →
    let n := if w then 32 else 64
    let p := x.toNat % 2 ^ n
    let ends (v : Nat) : Word := if w then (BitVec.ofNat 32 v).signExtend 64 else BitVec.ofNat 64 v
    let gives (j : Instr) (v : Nat) : Prop := exec j s = .next (computed s [a] d (ends v))
    (∀ k, k ≤ n → p < 2 ^ (n - k) → (k = n ∨ 2 ^ (n - k - 1) ≤ p) → gives (.clz d a w) k) ∧
    (∀ k, k ≤ n → p % 2 ^ k = 0 → (k = n ∨ p / 2 ^ k % 2 = 1) → gives (.ctz d a w) k) ∧
    gives (.popc d a w) (((List.range n).filter (fun i => p / 2 ^ i % 2 = 1)).length) ∧
    gives (.bswap d a w) (((List.range (n / 8)).map (fun i => p / 2 ^ (8 * i) % 256 * 2 ^ (n - 8 - 8 * i))).sum)) ∧
  (∀ (s : State) (d a b : SReg) (w : Bool) (x y : Word), readable s [a, b] (some d) = some [x, y] →
    let n := if w then 32 else 64
    let lo := y.toNat % 64
    let hi := Min.min (lo + y.toNat / 256 % 128) n
    exec (.bext d a b w) s = .next (computed s [a, b] d
      (let v := if lo < hi then x.toNat % 2 ^ n / 2 ^ lo % 2 ^ (hi - lo) else 0
       if w then (BitVec.ofNat 32 v).signExtend 64 else BitVec.ofNat 64 v))) ∧
  (∀ (s : State) (d a b : SReg) (w : Bool) (x y z : Word), readable s [a, b, d] (some d) = some [x, y, z] →
    let n := if w then 32 else 64
    let lo := y.toNat % 64
    let hi := Min.min (lo + y.toNat / 256 % 128) n
    ∃ r : Word, exec (.bins d a b w) s = .next (computed s [a, b, d] d r) ∧
      (∀ i, i < n → r.getLsbD i = if lo ≤ i ∧ i < hi then x.getLsbD (i - lo) else z.getLsbD i) ∧
      (w = true → ∀ i, 32 ≤ i → i < 64 → r.getLsbD i = r.getLsbD 31)))

/-- R116 to R120: every scalar floating-point instruction completes on every operand, writes the result's bits with zeros above
them, and accrues its flags. MR.RM rounds; FZ and SAT do not act. -/
def Obligations.FpResults : Prop :=
  (∀ (s : State) (d a b : SReg) (t : FTy) (x y : Word), readable s [a, b] (some d) = some [x, y] →
    let F := FTyFF t
    let rm := mrRm s.cpu.ctl.mr
    let p := x.toNat % 2 ^ fmtWidth (fmtOf t)
    let q := y.toNat % 2 ^ fmtWidth (fmtOf t)
    let u := decodeF F p
    let v := decodeF F q
    let gives (i : Instr) (r : FRes) : Prop :=
      exec i s = .next (retired (accrue s r.2) [a, b] d (BitVec.ofNat 64 r.1))
    let compares (quiet holds : Bool) : FRes :=
      if u.isNan || v.isNan then (0, if quiet || u.isSig || v.isSig then .nv else 0) else (if holds then 1 else 0, 0)
    gives (.fadd d a b t) (addF F rm false u v) ∧
    gives (.fsub d a b t) (addF F rm false u v.neg) ∧
    gives (.fmul d a b t) (mulF F rm false u v) ∧
    gives (.fdiv d a b t) (divF F rm false u v) ∧
    gives (.fmin d a b t) (minmaxF F false u v p q) ∧
    gives (.fmax d a b t) (minmaxF F true u v p q) ∧
    gives (.feq d a b t) (compares false (u.cmp v == .eq)) ∧
    gives (.flt d a b t) (compares true (u.cmp v == .lt)) ∧
    gives (.fle d a b t) (compares true (u.cmp v == .lt || u.cmp v == .eq)) ∧
    gives (.fsgnj d a b t) (sgnjF F 0 p q) ∧
    gives (.fsgnjN d a b t) (sgnjF F 1 p q) ∧
    gives (.fsgnjX d a b t) (sgnjF F 2 p q)) ∧
  (∀ (s : State) (d a : SReg) (t src : FTy) (i : ITy) (x : Word), readable s [a] (some d) = some [x] →
    let rm := mrRm s.cpu.ctl.mr
    let bits (t : FTy) : Nat := x.toNat % 2 ^ fmtWidth (fmtOf t)
    let val (t : FTy) : Val := decodeF (FTyFF t) (bits t)
    let gives (i : Instr) (r : FRes) : Prop :=
      exec i s = .next (retired (accrue s r.2) [a] d (BitVec.ofNat 64 r.1))
    gives (.fsqrt d a t) (sqrtF (FTyFF t) rm false (val t)) ∧
    gives (.fclass d a t) (classWord (FTyFF t) (bits t), 0) ∧
    (t ≠ src → gives (.fcvtFF d a t src) (encConvF (FTyFF t) rm false false (val src))) ∧
    gives (.fcvtFI d a t i) (encArith (FTyFF t) rm false (.ofInt (match i with
      | .i64 => x.toInt | .ui64 => x.toNat | .i32 => (x.setWidth 32).toInt | .ui32 => (x.setWidth 32).toNat))) ∧
    gives (.fcvtIF d a t i) (match i with
      | .i64 => encConvI 64 true rm (val t)
      | .ui64 => encConvI 64 false rm (val t)
      | .i32 => let r := encConvI 32 true rm (val t); (((BitVec.ofNat 32 r.1).signExtend 64).toNat, r.2)
      | .ui32 => encConvI 32 false rm (val t))) ∧
  (∀ (s : State) (d a b c : SReg) (t : FTy) (x y z : Word), readable s [a, b, c] (some d) = some [x, y, z] →
    let rm := mrRm s.cpu.ctl.mr
    let val (x : Word) : Val := decodeF (FTyFF t) (x.toNat % 2 ^ fmtWidth (fmtOf t))
    let gives (i : Instr) (negP negZ : Bool) : Prop :=
      let r := fmaF (FTyFF t) rm false negP negZ (val x) (val y) (val z)
      exec i s = .next (retired (accrue s r.2) [a, b, c] d (BitVec.ofNat 64 r.1))
    gives (.ffma d a b c t) false false ∧ gives (.ffms d a b c t) false true ∧
    gives (.ffnma d a b c t) true false ∧ gives (.ffnms d a b c t) true true)

/-- R90: rounding a finite, nonzero exact value ±m × 2^e to any float format, where it does not overflow. With 2^l ≤ |x| < 2^(l+1)
and the unit 2^q, q the greater of l and emin, less the mantissa width: the result is a finite value y of the format less than one
unit away; in RNE and RNA at most half a unit; RTZ does not enlarge the magnitude, RDN not the value, and RUP does not lessen the
value; and NX is raised exactly when y is not x, UF exactly when moreover |x| is below 2^emin. -/
def Obligations.RoundingBounds : Prop :=
  ∀ (f rm : Nat) (F : FF) (neg : Bool) (m : Nat) (e l : Int),
    floatFmt f = some F → rm ≤ 5 → m ≠ 0 →
    (2 : Rat) ^ l ≤ m * (2 : Rat) ^ e → m * (2 : Rat) ^ e < (2 : Rat) ^ (l + 1) →
    let r := rndQ F rm false false neg m 1 e
    let q := (if l < F.emin then F.emin else l) - F.mb
    let x := (if neg then -1 else 1) * (m : Rat) * (2 : Rat) ^ e
    r.2 &&& .ofl = 0 →
    ∃ (neg' : Bool) (n : Nat) (k : Int), decodeF F r.1 = .fin neg' n k ∧ neg' = neg ∧
      let y := (if neg then -1 else 1) * (n : Rat) * (2 : Rat) ^ k
      |y - x| < (2 : Rat) ^ q ∧
      (rm = 0 ∨ rm = 4 → 2 * |y - x| ≤ (2 : Rat) ^ q) ∧
      (rm = 1 → |y| ≤ |x|) ∧ (rm = 2 → y ≤ x) ∧ (rm = 3 → x ≤ y) ∧
      (r.2 &&& .nx ≠ 0 ↔ y ≠ x) ∧ (r.2 &&& .uf ≠ 0 ↔ y ≠ x ∧ l < F.emin)

/-- R125, R144: the loop-end check after an instruction at x that completes without a taken control transfer. Loop 0 is checked
first; a loop that ends at x and goes on sends the strand to its ls, and loop 1 is looked at only where loop 0 does not go on. A
`loop` counts 1; a `vloop` counts VL and, where it goes on, adds VL to SC and takes a new grant. -/
def Obligations.EndCheck : Prop :=
  ∀ (s : State) (x : Word) (c : Ctl), c.pc = x →
    let t := (complete { s with cpu := { s.cpu with ctl := c } }).cpu.ctl
    let ends (l : LoopReg) : Bool := l.lc != 0 && l.le == x
    let left (l : LoopReg) : Word := if l.vl then BitVec.ofNat 64 (l.lc.toNat - c.vl) else l.lc - 1
    let goes (l : LoopReg) : Bool := ends l && left l != 0
    let after (l : LoopReg) : LoopReg := if ends l then { l with lc := left l } else l
    let strip (l : LoopReg) : Prop :=
      if l.vl then t.sc = c.sc + BitVec.ofNat 64 c.vl ∧
          t.vl = Nat.min (left l).toNat (Nat.min (8 * (1024 / fmtWidth (mrEt c.mr))) (vlgOf s / 32 * (1024 / fmtWidth (mrEt c.mr))))
      else t.sc = c.sc ∧ t.vl = c.vl
    t.lp0 = after c.lp0 ∧
    (if goes c.lp0 then t.pc = c.lp0.ls ∧ t.lp1 = c.lp1 ∧ strip c.lp0
     else t.lp1 = after c.lp1 ∧
       if goes c.lp1 then t.pc = c.lp1.ls ∧ strip c.lp1
       else t.pc = x + 4 ∧ t.sc = c.sc ∧ t.vl = c.vl) ∧
    t.level = c.level ∧ t.mr = c.mr ∧ t.vstart = c.vstart ∧ t.fflags = c.fflags ∧ t.amoplace = c.amoplace

/-- R121, R122: the conditional branches and the jumps. A branch whose test holds is taken to PC + 4 × its offset, and one whose test
fails completes; `jal` links s31 and `jalr` d, to the PC + 4; a `jalr` whose target is not a multiple of 4 raises ALN with the target
in TVAL.
R126: a taken branch at x goes to t and ends every loop it leaves; every other loop, and everything else but the wait and the
charges, stays. A jump leaves both loops as they are. -/
def Obligations.BranchResults : Prop :=
  ((∀ (s : State) (a b : SReg) (o : BitVec 15) (x y : Word), readable s [a, b] none = some [x, y] →
    let goes (i : Instr) (p : Prop) : Prop :=
      (p → exec i s = .next (branchTo (popPorts s [a, b]) (s.cpu.ctl.pc + BitVec.ofInt 64 (4 * o.toInt)))) ∧
      (¬ p → exec i s = .next (retired0 s [a, b]))
    goes (.beq a b o) (x = y) ∧ goes (.bne a b o) (x ≠ y) ∧
    goes (.blt a b o) (x.toInt < y.toInt) ∧ goes (.bge a b o) (y.toInt ≤ x.toInt) ∧
    goes (.bltu a b o) (x.toNat < y.toNat) ∧ goes (.bgeu a b o) (y.toNat ≤ x.toNat)) ∧
  (∀ (s : State) (o : BitVec 25),
    exec (.jal o) s = .next (completeAt (setSreg s 31 (s.cpu.ctl.pc + 4)) (s.cpu.ctl.pc + BitVec.ofInt 64 (4 * o.toInt)))) ∧
  (∀ (s : State) (d a : SReg) (i : BitVec 15) (x : Word), readable s [a] (some d) = some [x] →
    let t := BitVec.ofInt 64 (x.toInt + i.toInt)
    (t.toNat % 4 = 0 →
      exec (.jalr d a i) s = .next (completeAt (writeS (popPorts s [a]) d (s.cpu.ctl.pc + 4)) t)) ∧
    (t.toNat % 4 ≠ 0 → exec (.jalr d a i) s = .next (takeTrapAt s 0x03 t s.cpu.ctl.pc)))) ∧
  (∀ (s : State) (t : Word),
    let x := s.cpu.ctl.pc
    let u := branchTo s t
    let left (l : LoopReg) : Bool := decide (l.lc.toNat ≠ 0 ∧ l.ls.toNat ≤ x.toNat ∧ x.toNat ≤ l.le.toNat ∧ (t.toNat < l.ls.toNat ∨ l.le.toNat < t.toNat))
    let after (l : LoopReg) : LoopReg := { l with lc := if left l then 0 else l.lc }
    u.cpu.ctl = { s.cpu.ctl with pc := t, lp0 := after s.cpu.ctl.lp0, lp1 := after s.cpu.ctl.lp1 } ∧
    (completeAt s t).cpu.ctl = { s.cpu.ctl with pc := t } ∧
    u = { s with cpu := { s.cpu with ctl := u.cpu.ctl, wait := none, usage := u.cpu.usage } })

/-- R124, R125, R127, R128, R144: starting and clearing a hardware loop. A nonzero count completes, with the end check of the
instruction itself; a zero count skips the body. `vloop` also sets VSTART := 0 and, with a nonzero count, SC := 0 and VL to the
grant of the count. That the skip is followed by no end check is the model's reading (log entry 9). -/
def Obligations.LoopResults : Prop :=
  (∀ (s : State) (n : BitVec 1) (a : SReg) (e : BitVec 15) (x : Word), readable s [a] none = some [x] →
    let pc := s.cpu.ctl.pc
    let le := pc + BitVec.ofNat 64 (4 * e.toNat)
    let w := fmtWidth (mrEt s.cpu.ctl.mr)
    let loop := setLoop (popPorts s [a]) n { lc := x, ls := pc + 4, le := le, vl := false }
    let vloop := setLoop (popPorts s [a]) n { lc := x, ls := pc + 4, le := le, vl := true }
    (x ≠ 0 → exec (.loop n a e) s = .next (complete loop)) ∧
    (x = 0 → exec (.loop n a e) s = .next (completeAt loop (le + 4))) ∧
    (x ≠ 0 → exec (.vloop n a e) s = .next (complete (vloop.withCtl (fun c =>
      { c with vstart := 0, sc := 0, vl := Nat.min x.toNat (Nat.min (8 * (1024 / w)) (vlgOf s / 32 * (1024 / w))) })))) ∧
    (x = 0 → exec (.vloop n a e) s = .next (completeAt (vloop.withCtl (fun c => { c with vstart := 0 })) (le + 4)))) ∧
  (∀ (s : State) (n : BitVec 1) (c : BitVec 12) (e : BitVec 8),
    let pc := s.cpu.ctl.pc
    let le := pc + BitVec.ofNat 64 (4 * e.toNat)
    let loopi := setLoop s n { lc := BitVec.ofNat 64 c.toNat, ls := pc + 4, le := le, vl := false }
    (c.toNat ≠ 0 → exec (.loopi n c e) s = .next (complete loopi)) ∧
    (c.toNat = 0 → exec (.loopi n c e) s = .next (completeAt loopi (le + 4)))) ∧
  (∀ (s : State) (n : BitVec 1),
    exec (.lpclr n) s = .next (complete (setLoop s n { lc := 0, ls := 0, le := 0, vl := false })))

/-- R130, R17, R18: `bqput` of an A strand pushes whether its operand is nonzero, where bq holds fewer than 64 bits, and waits, with
the code of bq, while it is full; `bqb` of an E strand pops the oldest bit and is taken if it is 1, and waits while there is none. A
strand of the other role, or of no pair, takes ILL. -/
def Obligations.QueueBranches : Prop :=
  (∀ (s : State) (a : SReg) (x : Word), roleOf s s.cpu = .a → readable s [a] none = some [x] →
    ((queuesOf s).bq.length < 64 →
      exec (.bqput a) s = .next (complete (modQueues (popPorts s [a]) (fun q => { q with bq := q.bq ++ [decide (x.toNat ≠ 0)] })))) ∧
    (64 ≤ (queuesOf s).bq.length → exec (.bqput a) s = waitQueue s 0x40)) ∧
  (∀ (s : State) (o : BitVec 15) (bs : List Bool), roleOf s s.cpu = .e →
    let popped := modQueues s (fun q => { q with bq := bs })
    ((queuesOf s).bq = true :: bs →
      exec (.bqb o) s = .next (branchTo popped (popped.cpu.ctl.pc + BitVec.ofInt 64 (4 * o.toInt)))) ∧
    ((queuesOf s).bq = false :: bs → exec (.bqb o) s = .next (complete popped)) ∧
    ((queuesOf s).bq = [] → exec (.bqb o) s = waitQueue s 0x40)) ∧
  (∀ (s : State) (a : SReg) (o : BitVec 15),
    (roleOf s s.cpu ≠ .a → exec (.bqput a) s = .next (takeTrapAt s 0x01 (BitVec.ofNat 64 (encodeNat (.bqput a))) s.cpu.ctl.pc)) ∧
    (roleOf s s.cpu ≠ .e → exec (.bqb o) s = .next (takeTrapAt s 0x01 (BitVec.ofNat 64 (encodeNat (.bqb o))) s.cpu.ctl.pc)))

/-- R427: taking a trap. A strand that is not in a handler and whose TVEC is not zero goes to TVEC at K (the management core at M);
TCAUSE, TVAL and TEPC record the cause, the value and the address given; TSTATUS holds STR, IH = 1, the level before in PL, IE before in
PIE, and IE = 0. The registers, memory and every other strand stay, and both loops (R129).
R427, R428: a trap taken in a handler, or with TVEC zero, is a double fault: the management core stops, an ordinary task ends, and a root task
restarts at ROOTPC, at K, with s1 = the tenant, s2 = 1 and s3 = the cause.
R427, Table 5.8: at K or above, `tret` continues at TEPC, at the level in PL, with IE := PIE and IH := 0, and leaves PL, PIE and STR;
below K it takes PRM with its word in TVAL (R72).
A trap handler that returns at once: taking a trap outside a handler, at an address of 57 bits that is a multiple of 4, and then
`tret` gives back the level, the pc, IE and the loops, and leaves every register as it was (R427, R129). -/
def Obligations.TrapAndReturn : Prop :=
  (∀ (s : State) (cause : Nat) (tval tepc : Word), (∀ c k, s.cpu.id ≠ .thaw c k) →
    s.cpu.trap.tstatus.getLsbD 4 = false → tvecOf s s.cpu ≠ 0 →
    let t := takeTrapAt s cause tval tepc
    let x := s.cpu
    t = { s with cpu := t.cpu } ∧
    t.cpu = { x with trap := t.cpu.trap, ctl := t.cpu.ctl, wait := none } ∧
    t.cpu.ctl = { x.ctl with pc := tvecOf s x, level := if x.id = .mgmt then .m else .k } ∧
    t.cpu.trap = { x.trap with tcause := BitVec.ofNat 64 cause, tval := tval, tepc := t.cpu.trap.tepc, tstatus := t.cpu.trap.tstatus } ∧
    (∀ i, t.cpu.trap.tepc.getLsbD i = (decide (2 ≤ i ∧ i ≤ 56) && tepc.getLsbD i)) ∧
    t.cpu.trap.tstatus.toNat = (if isE x.id then 32 else 0) + 16 + 4 * x.ctl.level.rank + (if x.trap.tstatus.getLsbD 0 then 2 else 0)) ∧
  (∀ (s : State) (cause : Nat) (tval tepc : Word), (s.cpu.trap.tstatus.getLsbD 4 = true ∨ tvecOf s s.cpu = 0) →
    let t := takeTrapAt s cause tval tepc
    (s.cpu.id = .mgmt → t = s.withCpu (fun x => { x with resid := .ended, wait := none })) ∧
    (∀ tid k, s.cpu.id = .task tid false → s.task? tid = some k →
      (k.kind ≠ .root → t.task? tid = none) ∧
      (k.kind = .root → rootTask? s k.tenant = some k → ∃ y, t.strand? (.task tid false) = some y ∧ y.ctl.level = .k ∧
        y.ctl.pc = BitVec.ofNat 64 ((s.ten k.tenant).rootpc.toNat % 2 ^ 52 / 4 * 4) ∧ y.regs.s[1] = BitVec.ofNat 64 k.tenant ∧ y.regs.s[2] = 1 ∧
        y.regs.s[3] = BitVec.ofNat 64 cause))) ∧
  (∀ s : State,
    (s.cpu.ctl.level ≠ .u → ∃ t, exec .tret s = .next t ∧
      t = { s with cpu := { s.cpu with ctl := t.cpu.ctl, trap := t.cpu.trap, wait := none } } ∧
      t.cpu.ctl = { s.cpu.ctl with pc := s.cpu.trap.tepc, level := t.cpu.ctl.level } ∧
      t.cpu.ctl.level.rank = s.cpu.trap.tstatus.toNat / 4 % 4 ∧
      t.cpu.trap = { s.cpu.trap with tstatus := t.cpu.trap.tstatus } ∧
      ∀ i, t.cpu.trap.tstatus.getLsbD i = if i = 0 then s.cpu.trap.tstatus.getLsbD 1 else if i = 4 then false else s.cpu.trap.tstatus.getLsbD i) ∧
    (s.cpu.ctl.level = .u → exec .tret s = .next (takeTrapAt s 0x04 0x04000800 s.cpu.ctl.pc))) ∧
  (∀ (s : State) (cause : Nat) (tval : Word), (∀ c k, s.cpu.id ≠ .thaw c k) → (s.cpu.id = .mgmt → s.cpu.ctl.level = .m) →
    s.cpu.trap.tstatus.getLsbD 4 = false → tvecOf s s.cpu ≠ 0 →
    s.cpu.ctl.pc.toNat % 4 = 0 → s.cpu.ctl.pc.toNat < 2 ^ 57 →
    ∃ t, exec .tret (takeTrapAt s cause tval s.cpu.ctl.pc) = .next t ∧
      t.cpu.ctl = s.cpu.ctl ∧ t.cpu.regs = s.cpu.regs ∧ t.cpu.trap.tstatus.getLsbD 0 = s.cpu.trap.tstatus.getLsbD 0 ∧
      t.cpu.trap.tstatus.getLsbD 4 = false ∧ t.mem = s.mem ∧ t.others = s.others ∧ t.tasks = s.tasks)

/-- R29, R135, R58: `mode`, and a write of MR, set MR to a legal image (bits 24:16 zero, a rounding mode of Table 1.9, a format code of
Table 4.1); any other image raises ILL with the word, or for a CSR write the image, in TVAL. `nop` completes.
Table 5.8 and R58: `trap` completes, with its end check, and then traps with cause SYS, its code, and the pc the check gave; `brk`
traps with cause BRK, its code and its own address, without completing; a word that is no instruction traps with cause ILL and the word.
R136, R72: `halt` and `wfi` complete where an interrupt is pending for the strand, enabled or not, and otherwise wait; the wait
ends once one is pending, and a `wfi` that was pre-empted while it waited completes. Below the level the instruction needs it takes PRM with its word in TVAL. -/
def Obligations.SystemInstructions : Prop :=
  ((∀ (s : State) (i : BitVec 25),
    let legal := i.toNat / 2 ^ 16 = 0 ∧ i.toNat / 1024 % 8 ≤ 5 ∧ i.toNat % 64 ≤ 0x25
    (legal → exec (.mode i) s = .next (complete (s.withCtl (fun c => { c with mr := i })))) ∧
    (¬ legal → exec (.mode i) s = .next (takeTrapAt s 0x01 (BitVec.ofNat 64 (0x02000000 + i.toNat)) s.cpu.ctl.pc))) ∧
  (∀ (s : State) (v : Word),
    let legal := v.toNat / 2 ^ 16 % 2 ^ 9 = 0 ∧ v.toNat / 1024 % 8 ≤ 5 ∧ v.toNat % 64 ≤ 0x25
    (legal → exec (.mrWrite v) s = .next (complete (s.withCtl (fun c => { c with mr := v.setWidth 25 })))) ∧
    (¬ legal → exec (.mrWrite v) s = .next (takeTrapAt s 0x01 v s.cpu.ctl.pc))) ∧
  (∀ s : State, exec .nop s = .next (complete s))) ∧
  ((∀ (s : State) (c : BitVec 10), (∀ k n, s.cpu.id ≠ .thaw k n) →
    exec (.trap c) s = .next (takeTrapAt (complete s) 0x0B (BitVec.ofNat 64 c.toNat) (complete s).cpu.ctl.pc)) ∧
  (∀ (s : State) (c : BitVec 10), exec (.brk c) s = .next (takeTrapAt s 0x0C (BitVec.ofNat 64 c.toNat) s.cpu.ctl.pc)) ∧
  (∀ (s : State) (w : IWord), exec (.illegalInstruction w) s = .next (takeTrapAt s 0x01 (BitVec.ofNat 64 w.toNat) s.cpu.ctl.pc))) ∧
  ((∀ s : State, s.cpu.ctl.level = .m →
    (pendingFor s s.cpu = true → exec .halt s = .next (complete s)) ∧
    (pendingFor s s.cpu = false → exec .halt s = .next (s.waitFor .halt))) ∧
  (∀ s : State, s.cpu.ctl.level ≠ .m → exec .halt s = .next (takeTrapAt s 0x04 0x04001000 s.cpu.ctl.pc)) ∧
  (∀ s : State, (∀ c k, s.cpu.id ≠ .thaw c k) → s.cpu.ctl.level ≠ .u →
    (pendingFor s s.cpu = true → exec .wfi s = .next (complete s)) ∧
    (s.cpu.wait = some (.wfi true) → exec .wfi s = .next (complete s)) ∧
    (pendingFor s s.cpu = false → s.cpu.wait ≠ some (.wfi true) → exec .wfi s = .next (s.waitFor (.wfi false)))) ∧
  (∀ s : State, (∀ c k, s.cpu.id ≠ .thaw c k) → s.cpu.ctl.level = .u →
    exec .wfi s = .next (takeTrapAt s 0x04 0x04001400 s.cpu.ctl.pc)) ∧
  (∀ (s : State) (t : StrandId) (x : Strand), s.strand? t = some x → x.resid = .on → issues s x.cluster = true → pendingFor (s.focus t) (s.focus t).cpu = true →
    ((∃ b, x.wait = some (.wfi b)) → (∀ c k, t ≠ .thaw c k) → x.ctl.level ≠ .u → exec (.wfiWake t) s = .next (complete (s.focus t))) ∧
    (x.wait = some .halt → t = .mgmt → x.ctl.level = .m → exec .haltWake s = .next (complete (s.focus t)))))

/-- R131, R132, R133: a scalar load whose address passes the checks, which no older access holds and which meets no poison completes
with the bytes the strand sees, or saw when it read them early (R275), lowest first, sign-extended for `b`, `h` and `w` and
zero-extended for the others; one that performs later completes at once, and its register waits. The state after the translation is
k.s: a translation may set accessed and dirty bits. A load that fails a check takes the check's trap, with the address in TVAL. A thaw
thread's load is a read of the strand it serves, at the place of its element (R292).
R134: a prefetch completes whatever its address, its address register poisoned too; it changes no register and no byte of memory, and never traps. -/
def Obligations.LoadResults : Prop :=
  (∀ (s : State) (d a : SReg) (o : BitVec 12) (x : Word), readable s [a] (some d) = some [x] →
    let va (n : Nat) : Word := BitVec.ofInt 64 (x.toInt + o.toInt * n)
    let gives (i : Instr) (n : Nat) (ext : Nat → Word) : Prop :=
      (∀ k, checkAccess s (va n) n true false = .ok k →
        let early := k.s.cpu.mem.earlyOf false (depOf k.s [a]) k.loc n
        let ord := placeOf k.s k.s.cpu
        (mayDefer k.s d = false → (memOf k.s k.s.cpu).heldRead ord k.loc n = false →
          (early = none → poisonedRead k.s k.s.cpu ord k.loc n = false) →
          exec i s = .next (retired (readAnewAt k.s false k.loc n) [a] d (ext (unsignedOf (early.getD (scalarBytes k.s k.s.cpu k.loc n)))))) ∧
        (mayDefer k.s d = true → ∃ t r, exec i s = .next t ∧ t.cpu.ctl = (complete k.s).cpu.ctl ∧ t.cpu.regs = k.s.cpu.regs ∧
          t.cpu.mem.loads = (k.s.cpu.mem.unbind d).loads ++ [r] ∧ r.reg = (if d = 0 then none else some d) ∧ r.loc = k.loc ∧ r.n = n)) ∧
      (∀ c, checkAccess s (va n) n true false = .error (.cause c) → exec i s = .next (takeTrapAt s c (va n) s.cpu.ctl.pc)) ∧
      ((va n).toNat % n ≠ 0 → exec i s = .next (takeTrapAt s 0x03 (va n) s.cpu.ctl.pc))
    let unsigned (v : Nat) : Word := BitVec.ofNat 64 v
    gives (.ldB d a o) 1 (fun v => (BitVec.ofNat 8 v).signExtend 64) ∧
    gives (.ldH d a o) 2 (fun v => (BitVec.ofNat 16 v).signExtend 64) ∧
    gives (.ldW d a o) 4 (fun v => (BitVec.ofNat 32 v).signExtend 64) ∧
    gives (.ldD d a o) 8 unsigned ∧ gives (.ldBu d a o) 1 unsigned ∧ gives (.ldHu d a o) 2 unsigned ∧ gives (.ldWu d a o) 4 unsigned) ∧
  (∀ (s : State) (a : SReg) (o : BitVec 12),
    ((readable s [a] none).isSome = true ∨ roleOf s s.cpu = .single ∧ sPending s [a] = false) →
    let goes (i : Instr) : Prop := exec i s = .next (retired0 s [a]) ∧ (retired0 s [a]).cpu.regs = s.cpu.regs ∧
      (retired0 s [a]).mem = s.mem ∧ (retired0 s [a]).hostMem = s.hostMem ∧ (retired0 s [a]).log = s.log ∧
      (retired0 s [a]).tlb = s.tlb ∧ (retired0 s [a]).cpu.mem = s.cpu.mem ∧ (retired0 s [a]).cpu.trap = s.cpu.trap
    goes (.prefR a o) ∧ goes (.prefW a o) ∧ goes (.prefS a o))

/-- R131, R132, R435: a scalar store whose address passes the checks completes: it joins the strand's buffer, and no register changes.
A store of less than a whole poisoned word takes ECC, and one that fails a check its trap, as a load does; where the walk met a newer entry than
a cached translation, that one serves the strand no more (R417).
The frame of memory under a scalar store to a place that is not remote: with the address the store computes, every byte it
stores reads as the register's byte, and every other byte as before (R131, R133). -/
def Obligations.StoreResults : Prop :=
  (∀ (s : State) (d a : SReg) (o : BitVec 12) (x y : Word), (∀ c k, s.cpu.id ≠ .thaw c k) → readable s [a, d] none = some [x, y] →
    let va (n : Nat) : Word := BitVec.ofInt 64 (x.toInt + o.toInt * n)
    let gives (i : Instr) (n : Nat) : Prop :=
      (∀ k, checkAccess s (va n) n false true = .ok k → (poisonedLast k.s k.s.cpu k.loc n = false ∨ n = 8) →
        (isRemote k.loc = true → s.cpu.mem.unacked < 64) →
        exec i s = .next (retired0 (putStore k.s k.loc (leBytes n y.toNat) (va n)) [a, d])) ∧
      (∀ k, checkAccess s (va n) n false true = .ok k → poisonedLast k.s k.s.cpu k.loc n = true → n < 8 →
        exec i s = .next (takeTrapAt s 0x08 (va n) s.cpu.ctl.pc)) ∧
      (∀ c, checkAccess s (va n) n false true = .error (.cause c) → exec i s = .next (takeTrapAt s c (va n) s.cpu.ctl.pc)) ∧
      (∀ c, checkAccess s (va n) n false true = .error (.newer c) →
        exec i s = .next (takeTrapAt (refuse s (ctxOf s s.cpu) (va n)) c (va n) s.cpu.ctl.pc)) ∧
      ((va n).toNat % n ≠ 0 → exec i s = .next (takeTrapAt s 0x03 (va n) s.cpu.ctl.pc))
    gives (.stB d a o) 1 ∧ gives (.stH d a o) 2 ∧ gives (.stW d a o) 4 ∧ gives (.stD d a o) 8) ∧
  (∀ (s : State) (d a : SReg) (o : BitVec 12) (x y : Word) (n : Nat) (i : Instr) (k : XOk),
    ((i = .stB d a o ∧ n = 1) ∨ (i = .stH d a o ∧ n = 2) ∨ (i = .stW d a o ∧ n = 4) ∨ (i = .stD d a o ∧ n = 8)) →
    (∀ c k, s.cpu.id ≠ .thaw c k) → readable s [a, d] none = some [x, y] →
    checkAccess s (BitVec.ofInt 64 (x.toInt + o.toInt * n)) n false true = .ok k →
    isRemote k.loc = false → (poisonedLast k.s k.s.cpu k.loc n = false ∨ n = 8) →
    ∃ t, exec i s = .next t ∧
      (∀ j, j < n → byteSeen t (k.loc.add j) = BitVec.ofNat 8 (y.toNat / 256 ^ j)) ∧
      (∀ l, (∀ j, j < n → l ≠ k.loc.add j) → byteSeen t l = byteSeen k.s l) ∧
      t.cpu.regs = k.s.cpu.regs ∧ t.cpu.trap = k.s.cpu.trap ∧ t.mem = k.s.mem ∧ t.hostMem = k.s.hostMem ∧ t.log = k.s.log)

/-- R257, R258, R283: an AMO whose address passes the checks with R and W, at a place that is not remote and not poisoned, and whose
move may take place, completes: d takes the old bytes at the end of coherence order (sign-extended for size w), and the new value
enters at the executing unit; a `cas` that compares unequal enters nothing. `sc` draws a ticket. A relaxed or releasing one whose move
comes later completes at once, and its register waits; an acquiring or sc one waits for that move. -/
def Obligations.AmoResults : Prop :=
  ∀ (s : State) (d a b : SReg) (o : AmoOrder) (x y z : Word) (k : XOk) (n : Nat), (∀ c k, s.cpu.id ≠ .thaw c k) →
    (∀ q j, s.cpu.wait ≠ some (.remoteAmo q j)) →
    checkAccess s x n true true = .ok k → isRemote k.loc = false → poisonedLast k.s k.s.cpu k.loc n = false →
    let later := mayDefer k.s d = true ∧ (o = .rlx ∨ o = .rel)
    let ready := amoReady k.s k.s.cpu k.s.dev.nextUid k.loc n o = true ∧ (k.s.cpu.mem.late = false ∨ o = .rlx ∨ o = .rel)
    let old := leNat (hide k.s k.loc (lastBytes k.s k.loc n))
    let v := y.toNat % 2 ^ (8 * n)
    let u := if o = .sc then drawTicket k.s.fresh.2 else k.s.fresh.2
    let signed (i : Nat) : Int := (BitVec.ofNat (8 * n) i).toInt
    let leaves (rs : List SReg) (i : Instr) (r : Word) (new : Option Nat) : Prop :=
      (¬ later → ready → exec i s = .next (retired (amoOrdered (readAnewAt (match new with
        | some m => enter u k.loc (leBytes n m) s.cpu.id s.cpu.cluster (amoScope k.loc) .plain k.s.dev.nextUid
        | none => u) false k.loc n) o) rs d r)) ∧
      (later → ∃ t p, exec i s = .next t ∧ t.cpu.ctl = (complete k.s).cpu.ctl ∧ t.cpu.regs = k.s.cpu.regs ∧ t.log = k.s.log ∧
        t.cpu.mem.amos = (k.s.cpu.mem.unbind d).amos ++ [p] ∧ p.reg = (if d = 0 then none else some d) ∧ p.loc = k.loc)
    (readable s [a, b] (some d) = some [x, y] →
      (∀ g : IntSize, amoBytes g.toAmo = n →
        let r := if n = 4 then (BitVec.ofNat 32 old).signExtend 64 else BitVec.ofNat 64 old
        let gives (i : Instr) (new : Nat) : Prop := leaves [a, b] i r (some new)
        gives (.amoAdd d a b o g) ((old + v) % 2 ^ (8 * n)) ∧ gives (.amoAnd d a b o g) (old &&& v) ∧
        gives (.amoOr d a b o g) (old ||| v) ∧ gives (.amoXor d a b o g) (old ^^^ v) ∧
        gives (.amoMin d a b o g) (if signed v < signed old then v else old) ∧
        gives (.amoMax d a b o g) (if signed old < signed v then v else old) ∧
        gives (.amoMinu d a b o g) (Nat.min v old) ∧ gives (.amoMaxu d a b o g) (Nat.max v old)) ∧
      (∀ g : AmoSize, amoBytes g = n →
        leaves [a, b] (.amoSwap d a b o g) (if g = .w then (BitVec.ofNat 32 old).signExtend 64 else BitVec.ofNat 64 old) (some v)) ∧
      (∀ g : FpSize, amoBytes g.toAmo = n →
        let F := if n = 2 then ffBF16 else ffFP32
        leaves [a, b] (.amoFadd d a b o g) (BitVec.ofNat 64 old) (some (addF F 0 false (decodeF F old) (decodeF F v)).1))) ∧
    (readable s [a, b, d] (some d) = some [x, y, z] →
      ∀ g : AmoSize, amoBytes g = n →
        leaves [a, b, d] (.amoCas d a b o g) (if g = .w then (BitVec.ofNat 32 old).signExtend 64 else BitVec.ofNat 64 old)
          (if old = z.toNat % 2 ^ (8 * n) then some v else none))

/-- R259, R260, R284, R285: a fence completes once the scalar accesses it orders have performed at its scope and no earlier `vdrain` is
pending, and waits until then; kind sc draws a ticket; an acquiring fence ends the use of the instruction words that it orders, by its
scope (R73), and of bytes read early. `vdrain` completes once every vector access has performed at its scope.
R261, R262, R263, R287: `mmon` arms the monitor on a word that passes the checks; `mwait` completes with the value it reads once
that is at least its operand, completes with 0 where no monitor is armed and no earlier `vdrain` is pending, and waits otherwise; `bar` completes on the management core,
which belongs to no group, and for a task that has arrived once every member has: then it completes in every member that waits in it,
in the same step; until then it waits. -/
def Obligations.FencesMonitorsBarriers : Prop :=
  ((∀ (s : State) (sc : Scope), (∀ c k, s.cpu.id ≠ .thaw c k) →
    let goes (i : Instr) (k : FenceKind) (p : Prop) (t : State) : Prop :=
      (p → exec i s = .next (complete t)) ∧ (¬ p → exec i s = .next (s.waitFor (.fence k sc)))
    let undrained := s.cpu.mem.draining s.dev.nextUid = false
    let acq := undrained ∧ s.cpu.mem.loads = [] ∧ s.cpu.mem.amos = []
    let rel := acq ∧ s.cpu.mem.pob = [] ∧ s.cpu.mem.ssb = [] ∧
      (∀ r ∈ s.log, r.owner = some s.cpu.id → r.tag = .plain → visAtLeast r.loc r.vis sc = true) ∧
      (sc = .system → ∀ t ∈ s.cpu.mem.rtrains, t.vec = true)
    goes (.fenceAcq sc) .acq acq (dropStale s sc) ∧
    goes (.fenceRel sc) .rel rel s ∧ goes (.fenceAr sc) .ar rel (dropStale s sc) ∧
    goes (.fenceSc sc) .sc rel (drawTicket (dropStale s sc))) ∧
  (∀ (s : State) (sc : Scope),
    (vectorDone s s.cpu sc none = true → exec (.vdrain sc) s = .next (complete (s.withMem (fun m => m.forget (fun e => !e.vec))))) ∧
    (vectorDone s s.cpu sc none = false → exec (.vdrain sc) s = .next (s.waitFor (.vdrain sc))))) ∧
  ((∀ (s : State) (a : SReg) (x : Word) (k : XOk), (∀ c k, s.cpu.id ≠ .thaw c k) → readable s [a] none = some [x] →
    checkAccess s x 8 true false = .ok k →
    exec (.mmon a) s = .next (retired0 (k.s.withExt (fun e => { e with monitor := some x })) [a])) ∧
  (∀ (s : State) (d a : SReg) (x : Word), (∀ c k, s.cpu.id ≠ .thaw c k) → readable s [a] (some d) = some [x] →
    (s.cpu.ext.monitor = none → s.cpu.mem.draining s.dev.nextUid = false → exec (.mwait d a) s = .next (retired s [a] d 0)) ∧
    (s.cpu.ext.monitor = none → s.cpu.mem.draining s.dev.nextUid = true → exec (.mwait d a) s = .next (s.waitFor (.mwait d a))) ∧
    (∀ va k, s.cpu.ext.monitor = some va → checkAccess (readAnew s) va 8 true false = .ok k →
      k.s.cpu.mem.heldRead k.s.dev.nextUid k.loc 8 = false → poisonedRead k.s k.s.cpu k.s.dev.nextUid k.loc 8 = false →
      let v := leNat (scalarBytes k.s k.s.cpu k.loc 8)
      (x.toNat ≤ v → exec (.mwait d a) s = .next (retired k.s [a] d (BitVec.ofNat 64 v))) ∧
      (v < x.toNat → exec (.mwait d a) s = .next (k.s.waitFor (.mwait d a))))) ∧
  (∀ (s : State) (l : Level), (∀ c k, s.cpu.id ≠ .thaw c k) →
    let left (u : State) : State := (dropStale u .device).withExt (fun x => { x with barIssued := x.barIssued.filter (· != barDoneCode l.code) })
    let holds (n : Nat) : Bool := s.cpu.ext.barIssued.contains n
    let met (t : Task) : Bool := barMet s t l.code (s.cpu.ext.bars.getD l.code 0) && barOpen s t l.code
    (taskOf s s.cpu = none → exec (.bar l) s = .next (complete (dropStale s .device))) ∧
    (∀ t, taskOf s s.cpu = some t → holds (barIssuedCode l.code) = false →
      (holds (barDoneCode l.code) = true → holds (barArrivedCode l.code) = false → exec (.bar l) s = .next (complete (left s))) ∧
      (holds (barDoneCode l.code) = false → holds (barArrivedCode l.code) = true →
        (met t = true → exec (.bar l) s = .next (complete (left (barRelease s t l.code))) ∧
          ∀ u x, s.strand? u = some x → u ≠ s.cpu.id → x ∈ barStrands s t l.code → x.wait = some (.bar l) →
            x.ext.barIssued.contains (barArrivedCode l.code) = true →
            ∃ y, (complete (left (barRelease s t l.code))).strand? u = some y ∧ y.wait = none ∧ y.regs = x.regs ∧
              y.ctl = endCheck (32 * ((s.cluster x.cluster).eff.vln + 1)) x.ctl.pc x.ctl) ∧
        (met t = false → exec (.bar l) s = .next (s.waitFor (.bar l)))))))

/-- R30, R113, R59: the CSR instructions on a number that is assigned and at or below the strand's level. Every operation reads the
register into d; `csrw` writes its operand, `csrs` the or and `csrc` the and-not with it, where the register is not read-only and its
map takes the value. A port that the strand may not use that way takes ILL first. A read-only register takes ILL, with the word in TVAL, and a value the map rejects ILL with the value. A number
above the level takes PRM with the number, and an unassigned one ILL with the word, and neither writes a register.
R98: a CSR instruction that waits on FFLAGS finishes once every earlier element is PRESENT or FAULTED: it does then what it does
anew. -/
def Obligations.CsrResults : Prop :=
  (∀ (s : State) (d a : SReg) (n : CsrNum) (x : Word), (∀ c k, s.cpu.id ≠ .thaw c k) → (∀ o e f m cs, s.cpu.wait ≠ some (.vdmap o e f m cs)) →
    (n.toNat = 0x10 → divDone s s.cpu = true ∧ s.cpu.mem.alus = []) →
    let lvl := n.toNat / 256
    let prev := (csrRead s n.toNat).1
    let s1 := (csrRead s n.toNat).2
    let ports (rs : List SReg) : Bool := roleOf s s.cpu == .single || rs.all (mayRead (roleOf s s.cpu)) && mayWrite (roleOf s s.cpu) d
    let refused (rs : List SReg) (i : Instr) : Prop :=
      (ports rs = false → exec i s = .next (takeTrapAt s 0x01 (BitVec.ofNat 64 (encodeNat i)) s.cpu.ctl.pc)) ∧
      (ports rs = true → lvl ≤ 3 → s.cpu.ctl.level.rank < lvl → exec i s = .next (takeTrapAt s 0x04 (BitVec.ofNat 64 n.toNat) s.cpu.ctl.pc)) ∧
      (ports rs = true → (3 < lvl ∨ lvl ≤ s.cpu.ctl.level.rank ∧ csrAssigned n.toNat = false) →
        exec i s = .next (takeTrapAt s 0x01 (BitVec.ofNat 64 (encodeNat i)) s.cpu.ctl.pc))
    let writes (i : Instr) (v : Word) : Prop :=
      (csrReadOnly n.toNat = true → exec i s = .next (takeTrapAt s 0x01 (BitVec.ofNat 64 (encodeNat i)) s.cpu.ctl.pc)) ∧
      (csrReadOnly n.toNat = false → csrRejects s.cpu n.toNat v = true → exec i s = .next (takeTrapAt s 0x01 v s.cpu.ctl.pc)) ∧
      (csrReadOnly n.toNat = false → csrRejects s.cpu n.toNat v = false → (n.toNat ≠ 0x255 ∨ v ≠ 0x5752) →
        (0x220 ≤ n.toNat ∧ n.toNat ≤ 0x223 → switchesIn s1 (csrPut s1 n.toNat v) (n.toNat - 0x220) = []) →
        exec i s = .next (retired (csrPut s1 n.toNat v) [a] d prev))
    refused [] (.csrr d n) ∧ refused [a] (.csrw d a n) ∧ refused [a] (.csrs d a n) ∧ refused [a] (.csrc d a n) ∧
    (lvl ≤ s.cpu.ctl.level.rank → csrAssigned n.toNat = true →
      (readable s [] (some d) = some [] → exec (.csrr d n) s = .next (retired s1 [] d prev)) ∧
      (readable s [a] (some d) = some [x] →
        writes (.csrw d a n) x ∧ writes (.csrs d a n) (prev ||| x) ∧ writes (.csrc d a n) (prev &&& ~~~x)))) ∧
  (∀ (s : State) (t : StrandId) (x : Strand) (op : CsrOp) (d a : SReg), s.strand? t = some x → x.resid = .on → issues s x.cluster = true →
    x.wait = some (.csrFlags op d a 0x10) →
    exec (.fflagsAccess t) s = (match op with
      | .read => exec (.csrr d 0x10) (s.focus t) | .write => exec (.csrw d a 0x10) (s.focus t)
      | .set => exec (.csrs d a 0x10) (s.focus t) | .clear => exec (.csrc d a 0x10) (s.focus t)) ∧
    (op = .read → (∀ c k, t ≠ .thaw c k) → divDone (s.focus t) (s.focus t).cpu = true → x.mem.alus = [] → readable (s.focus t) [] (some d) = some [] →
      exec (.fflagsAccess t) s = .next (retired (s.focus t) [] d (BitVec.ofNat 64 x.ctl.fflags.toNat))))

/-- R143: `setvl` and `setvli` set VL to the least of the request, VLMAX and the granted groups, VSTART to 0, and write VL to d. -/
def Obligations.SetvlGrants : Prop :=
  let gives (s : State) (i : Instr) (rs : List SReg) (d : SReg) (req : Nat) : Prop :=
    let w := fmtWidth (mrEt s.cpu.ctl.mr)
    let n := Nat.min req (Nat.min (8 * (1024 / w)) (vlgOf s / 32 * (1024 / w)))
    exec i s = .next (retired (s.withCtl (fun c => { c with vl := n, vstart := 0 })) rs d (BitVec.ofNat 64 n))
  (∀ (s : State) (d a : SReg) (x : Word), isTask s = true → readable s [a] (some d) = some [x] → gives s (.setvl d a) [a] d x.toNat) ∧
  (∀ (s : State) (d : SReg) (i : BitVec 14), isTask s = true → readable s [] (some d) = some [] → gives s (.setvli d i) [] d i.toNat)

/-- R138 to R141, R147 to R151, R192: every chaining instruction but `vsel` and `vapply`, on quiet sources of fitting formats, none of
whose elements the lanes divert. It completes with VSTART 0; every active element of the destination from VSTART on holds the result
of its operation on the operands' elements as they stood before, PRESENT; the flags of the active elements accrue; and every other
element of a destination register keeps its bits and its state. Memory, the trap state and the other registers stay. R179: so does the
last micro-operation of an instruction that has waited at an element group. That VL may pass VLMAX of the width of `vdot4`'s destination is the
model's choice (log entry 14). -/
def Obligations.ChainingResults : Prop :=
  ∀ (s : State) (i : Instr) (x : VDesc) (vs : List SVal), chainRow i = some x →
    quietOps s (fnSrcs x) (.v x.d) false = some vs → chainFits s x vs = true → destFree s x.d = true →
    let m := s.cpu.ctl.mr
    let et := etOf s
    let tag := fnTag x.fn et
    let w := fmtWidth tag
    let n := fnCount x.fn (vlOf s)
    let lo := vstartOf s
    let act (j : Nat) : Bool := decide (lo ≤ j ∧ j < n) && guardBit s (if x.fn = .arith 16 then 32 else fmtWidth et) j
    let arg (k j : Nat) : Nat := chainArg s x vs k j
    let res (j : Nat) : FRes := elemOp (fnOp x.fn) et (mrRm m) (mrFz m) (mrSat m) (arg 0 j) (arg 1 j) (arg 2 j)
    lo < n → (pushes s x.d = true → lo = 0 ∧ staged s = none ∧ (vQueue (queuesOf s) x.d).length < vDepth x.d) →
    (∀ j, act j = true → diverts (fnOp x.fn) et (mrFz m) (arg 0 j) (arg 1 j) (arg 2 j) = false) →
    let concl (o : Out) : Prop := ∃ t, o = .next t ∧
      (∀ j, act j = true → (resultAt s t x.d).el w j = (res j).1 % 2 ^ w ∧ (resultAt s t x.d).st w j = pPresent) ∧
      (resultAt s t x.d).fmt = tag ∧
      (pushes s x.d = false → ∀ j, act j = false → (j + 1) * w ≤ 8192 →
        (vreg t x.d).el w j = (vreg s x.d).el w j ∧ (vreg t x.d).st w j = (vreg s x.d).st w j) ∧
      t.cpu.ctl = { (complete (setVstart s 0)).cpu.ctl with fflags := ((List.range n).filter act).foldl (fun f j => f ||| (res j).2) s.cpu.ctl.fflags } ∧
      t.cpu.wait = none ∧ t.cpu.regs.s = s.cpu.regs.s ∧ t.cpu.regs.m = s.cpu.regs.m ∧ t.cpu.regs.sv = s.cpu.regs.sv ∧
      (∀ r, (pushes s x.d = true ∨ r ≠ x.d) → vreg t r = vreg s r) ∧
      t.cpu.trap = s.cpu.trap ∧ t.cpu.mem = { s.cpu.mem with vdep := t.cpu.mem.vdep } ∧ t.mem = s.mem ∧ t.hostMem = s.hostMem ∧ t.log = s.log
    let per := if x.fn = .arith 16 then 32 else 1024 / fmtWidth et
    ((∀ y p, s.cpu.wait ≠ some (.micro y p)) → concl (exec i s)) ∧
    ∀ (u : State) (y : StrandId) (p : MicroSt), u.strand? y = some s.cpu → u.focus y = s → s.cpu.resid = .on →
      s.cpu.wait = some (.micro x p) → p.ahead = [] → p.kept = false → issues s s.cpu.cluster = true → n ≤ (lo / per + 1) * per → concl (exec (.microOpIssue y) u)

/-- R153, R184: `vsel` on quiet sources gives each active element the element of a where the mask bit that governs it is 1 and the
element of b elsewhere.
R194 to R196: `vapply` on a quiet source, with a descriptor whose id is below THAWN, whose eight words pass the checks of a load and
whose reserved bits are zero, and elements that all lie in its interval: it completes, and each active element holds the polynomial's
value. An id at or above THAWN raises FMT with b's register in TVAL. -/
def Obligations.SelectAndApply : Prop :=
  (∀ (s : State) (d a b : VReg) (c : MReg) (vs : List SVal),
    let x : VDesc := { fn := .sel, d := d, a := a, b := .vec b, c := c.setWidth 5, app := none }
    quietOps s (fnSrcs x) (.v d) false = some vs → chainFits s x vs = true → destFree s d = true → vstartOf s < vlOf s →
    (pushes s d = true → vstartOf s = 0 ∧ staged s = none ∧ (vQueue (queuesOf s) d).length < vDepth d) →
    (∀ y p, s.cpu.wait ≠ some (.micro y p)) →
    let w := wOf s
    ∃ t, exec (.vsel d a b c) s = .next t ∧ t.cpu.ctl = (complete (setVstart s 0)).cpu.ctl ∧ t.cpu.wait = none ∧ t.mem = s.mem ∧ t.log = s.log ∧
      (resultAt s t d).fmt = etOf s ∧
      ∀ j, vstartOf s ≤ j → active s w j = true →
        (resultAt s t d).el w j = if (mreg s c).getLsbD (maskIdx w j) then chainArg s x vs 0 j else chainArg s x vs 1 j) ∧
  (∀ (s : State) (d a : VReg) (b : SReg) (vs : List SVal),
    let x : VDesc := { fn := .apply, d := d, a := a, b := .sca b, c := 0, app := none }
    let t := s.ten s.cpu.tenant
    quietOps s (fnSrcs x) (.v d) false = some vs → chainFits s x vs = true → (∀ y p, s.cpu.wait ≠ some (.micro y p)) →
    let fid := (wordAt vs 1).toNat % 256
    let va := BitVec.ofNat 64 (bitsOf t.thawb 63 6 * 64 + 64 * fid)
    (t.thawn ≤ fid → exec (.vapply d a b) s = .next (takeTrapAt s 0x02 (BitVec.ofNat 64 b.toNat) s.cpu.ctl.pc)) ∧
    (∀ bs u p, fid < t.thawn → readDesc s va 8 [] = .ok (bs, u) → vappOf fid va bs = some p →
      quietOps u (fnSrcs x) (.v d) false = some vs → u.cpu.ctl = s.cpu.ctl → u.cpu.wait = s.cpu.wait → pushes u d = pushes s d → staged u = none →
      vstartOf s = 0 → 0 < vlOf s → destFree u d = true →
      (pushes s d = true → (vQueue (queuesOf u) d).length < vDepth d) →
      let w := wOf s
      (∀ j, active u w j = true → (applyElem (etOf s) (mrFz s.cpu.ctl.mr) p.lo p.hi p.deg p.coef ((vecAt vs 0).el w j)).isSome = true) →
      ∃ z, exec (.vapply d a b) s = .next z ∧ z.cpu.ctl.pc = (complete (setVstart s 0)).cpu.ctl.pc ∧ z.cpu.ctl.vstart = 0 ∧ z.cpu.wait = none ∧
        ∀ j r, active u w j = true → applyElem (etOf s) (mrFz s.cpu.ctl.mr) p.lo p.hi p.deg p.coef ((vecAt vs 0).el w j) = some r →
          (resultAt u z d).el w j = r.1 % 2 ^ w))

/-- R95, R108, R147 to R151 for integer formats: the element results of the arithmetic instructions, by the exact value, wrapped modulo
2^w or, under SAT, clamped to the format's range with SA. The high half, the logical operations and the shifts never clamp.
R139, R17: what writing a destination does, element by element. Elements i of `xs`, of width w and all different, take their bits and
states; every other element of a register keeps its bits; the tag is the one given. A port takes a new last entry instead, and no
register changes. -/
def Obligations.IntegerElements : Prop :=
  (∀ (f w rm : Nat) (sg fz sat : Bool) (a b c : Nat), intFmt f = some (w, sg) → a < 2 ^ w → b < 2 ^ w → c < 2 ^ w →
    let val (x : Nat) : Int := if sg then (BitVec.ofNat w x).toInt else x
    let lo : Int := if sg then -(2 ^ (w - 1)) else 0
    let hi : Int := if sg then 2 ^ (w - 1) - 1 else 2 ^ w - 1
    let bits (v : Int) : Nat := (BitVec.ofInt w v).toNat
    let narrow (v : Int) : FRes := if sat then (bits (max lo (min hi v)), if lo ≤ v ∧ v ≤ hi then 0 else .sa) else (bits v, 0)
    let gives (op : Nat) (r : FRes) : Prop := elemOp op f rm fz sat a b c = r
    gives 1 (narrow (val a + val b)) ∧ gives 2 (narrow (val a - val b)) ∧ gives 3 (narrow (val a * val b)) ∧
    gives 4 (bits (val a * val b / 2 ^ w), 0) ∧
    gives 5 (if b = 0 then (bits (if sg ∧ val a < 0 then lo else hi), 0) else narrow ((val a).tdiv (val b))) ∧
    gives 6 (bits (min (val a) (val b)), 0) ∧ gives 7 (bits (max (val a) (val b)), 0) ∧
    gives 8 (narrow |val a|) ∧ gives 9 (narrow (-(val a))) ∧
    gives 10 (a &&& b, 0) ∧ gives 11 (a ||| b, 0) ∧ gives 12 (a ^^^ b, 0) ∧ gives 13 (2 ^ w - 1 - a, 0) ∧
    gives 14 (a * 2 ^ (b % w) % 2 ^ w, 0) ∧ gives 15 (a / 2 ^ (b % w), 0) ∧ gives 16 (bits ((BitVec.ofNat w a).toInt / 2 ^ (b % w)), 0) ∧
    gives 21 (narrow (val a * val b + val c)) ∧ gives 22 (narrow (val a * val b - val c)) ∧
    gives 23 (narrow (-(val a * val b) + val c)) ∧ gives 24 (narrow (-(val a * val b) - val c))) ∧
  (∀ (s : State) (d : VReg) (w tag : Nat) (xs : List (Nat × Nat)) (side : VVal → BitVec 512 × BitVec 512) (tid : Nat) (e : Bool) (tk : Task),
    s.cpu.id = .task tid e → s.task? tid = some tk →
    w ∈ [1, 2, 4, 8, 16, 32, 64] → tag < 64 → (∀ x ∈ xs, (x.1 + 1) * w ≤ 8192) → (xs.map (·.1)).Nodup →
    let t := putV s d w tag (xs.map (fun x => (x.1, x.2, pPresent))) side
    (∀ x ∈ xs, (resultAt s t d).el w x.1 = x.2 % 2 ^ w ∧ (resultAt s t d).st w x.1 = pPresent) ∧
    (resultAt s t d).fmt = tag ∧
    (pushes s d = false → ∀ i, (i + 1) * w ≤ 8192 → i ∉ xs.map (·.1) → (vreg t d).el w i = (vreg s d).el w i) ∧
    (∀ r, (pushes s d = true ∨ r ≠ d) → vreg t r = vreg s r) ∧
    (pushes s d = true → vQueue (queuesOf t) d = vQueue (queuesOf s) d ++ [resultAt s t d]) ∧
    t.cpu.regs.s = s.cpu.regs.s ∧ t.cpu.regs.m = s.cpu.regs.m ∧ t.cpu.ctl = s.cpu.ctl ∧ t.cpu.trap = s.cpu.trap ∧
    t.cpu.mem = { s.cpu.mem with vdep := t.cpu.mem.vdep } ∧ t.mem = s.mem ∧ t.log = s.log)

/-- R152: a compare of quiet sources sets, for each active element from VSTART on, the mask bit that governs it to the condition's
outcome, and no other bit; the flags accrue. Integers compare by value; `un` is false and `ord` true for them. -/
def Obligations.CompareResults : Prop :=
  ∀ (s : State) (d : MReg) (a : VReg) (b : VOperand) (vs : List SVal),
    let et := etOf s
    let w := wOf s
    quietOps s [.v a, match b with | .vec r => Src.v r | .sca r => .s r] .none true = some vs →
    (isFA et || isIA et) = true → 8 ≤ w → (vecAt vs 0).fmt = et → (b.flag = false → (vecAt vs 1).fmt = et) → vlOf s ≤ vlmax w →
    vstartOf s < vlOf s →
    let js := (List.range (vlOf s)).filter (fun j => decide (vstartOf s ≤ j) && active s w j)
    let av (j : Nat) : Nat := (vecAt vs 0).el w j
    let bv (j : Nat) : Nat := if b.flag then (wordAt vs 1).toNat % 2 ^ w else (vecAt vs 1).el w j
    let gives (i : Instr) (c : Nat) (p : Int → Int → Prop) : Prop :=
      ∃ t, exec i s = .next t ∧
        (∀ j, j < 1024 → (mreg t d).getLsbD j = if d ≠ 0 ∧ j ∈ js then (cmpElem et (mrFz s.cpu.ctl.mr) c (av j) (bv j)).1 else (mreg s d).getLsbD j) ∧
        t.cpu.ctl.fflags = js.foldl (fun f j => f ||| (cmpElem et (mrFz s.cpu.ctl.mr) c (av j) (bv j)).2) s.cpu.ctl.fflags ∧
        t.cpu.ctl.pc = (complete (setVstart s 0)).cpu.ctl.pc ∧ t.cpu.ctl.vstart = 0 ∧ t.cpu.wait = none ∧
        t.cpu.regs.s = s.cpu.regs.s ∧ t.cpu.regs.v = s.cpu.regs.v ∧ (∀ r, r ≠ d → mreg t r = mreg s r) ∧ t.mem = s.mem ∧ t.log = s.log ∧
        ∀ sg, intFmt et = some (w, sg) → ∀ x y : Nat,
          ((cmpElem et (mrFz s.cpu.ctl.mr) c x y).1 = true ↔ p (intVal w sg x) (intVal w sg y)) ∧ (cmpElem et (mrFz s.cpu.ctl.mr) c x y).2 = 0
    gives (.vcmpEq d a b) 0 (· = ·) ∧ gives (.vcmpNe d a b) 1 (· ≠ ·) ∧ gives (.vcmpLt d a b) 2 (· < ·) ∧ gives (.vcmpLe d a b) 3 (· ≤ ·) ∧
    gives (.vcmpGt d a b) 4 (· > ·) ∧ gives (.vcmpGe d a b) 5 (· ≥ ·) ∧ gives (.vcmpUn d a b) 6 (fun _ _ => False) ∧
    gives (.vcmpOrd d a b) 7 (fun _ _ => True)

/-- R154 to R158: the conversions, the Hadamard stage and the access to sidecars, on a quiet source whose formats fit: each completes,
writing the elements its rule gives with the flags they raise. -/
def Obligations.ConversionResults : Prop :=
  ∀ (s : State) (d a : VReg) (v : VVal), quietOps s [.v a] (.v d) true = some [.v v] → destFree s d = true →
    let m := s.cpu.ctl.mr
    let et := etOf s
    let w := wOf s
    let n := vlOf s
    let ws := fmtWidth v.fmt
    let ends (i : Instr) (w tag : Nat) (xs : List (Nat × FRes)) (side : VVal → BitVec 512 × BitVec 512) (fl : Flags) : Prop :=
      exec i s = .next (vdone (putV (accrue s (xs.foldl (fun f x => f ||| x.2.2) fl)) d w tag (xs.map (fun x => (x.1, x.2.1, pPresent))) side) [.v a])
    (isScaled et = false → et ≠ 0x25 → v.fmt < 0x25 → n ≤ vlmax ws → n ≤ vlmax w → vstartOf s < n →
      let xs := ((List.range n).filter (fun j => decide (vstartOf s ≤ j) && active s w j)).map (fun j =>
        (j, convElem v.fmt et (mrRm m) (mrSat m) (mrFz m) (v.el ws j) (sclOf v j)))
      exec (.vcvt d a) s = .next (chainDone (putV (accrue (countMicro s w xs.length) (xs.foldl (fun f x => f ||| x.2.2) 0)) d w et
        (xs.map (fun x => (x.1, x.2.1, pPresent))) (fun _ => (0, 0))) [.v a])) ∧
    (isScaled et = true → (isFA v.fmt || isIA v.fmt) = true → n ≤ vlmax ws → n ≤ vlmax w → (0 < n ∨ pushes s d = true) →
      let q := quantAll et (mrRm m) (mrSat m) ((List.range (vlmax w)).map (fun j => if j < n then quantVal v.fmt (mrFz m) (v.el ws j) else .zero))
      ends (.vquant d a) w et (q.1.mapIdx (fun j c => (j, c, 0))) (fun _ => (q.2.1, q.2.2.1)) q.2.2.2) ∧
    (∀ k : BitVec 5, k.toNat ≤ 10 → (isFA et || isIA et) = true → v.fmt = et → n ≤ vlmax w → n % (2 * 2 ^ k.toNat) = 0 → (0 < n ∨ pushes s d = true) →
      ends (.vhad d a k) w et ((List.range n).map (fun j => (j,
        if j / 2 ^ k.toNat % 2 = 0 then elemOp 1 et (mrRm m) (mrFz m) (mrSat m) (v.el w j) (v.el w (j + 2 ^ k.toNat)) 0
        else elemOp 2 et (mrRm m) (mrFz m) (mrSat m) (v.el w (j - 2 ^ k.toNat)) (v.el w j) 0))) (fun _ => (0, 0)) 0) ∧
    ends (.vsclget d a) 8 0x13 ((List.range 1024).map (fun j => (j, (if j < 64 then v.scale.toNat / 2 ^ (8 * j) % 256
      else if j < 128 then v.special.toNat / 2 ^ (8 * (j - 64)) % 256 else 0), 0))) (fun _ => (0, 0)) 0 ∧
    (isScaled et = true → v.fmt = 0x13 → n ≤ vlmax 8 → n ≤ vlmax w → (0 < n ∨ pushes s d = true) →
      ends (.vsclset d a) 8 et [] (fun _ => (BitVec.ofNat 512 v.bits.toNat, BitVec.ofNat 512 (v.bits.toNat / 2 ^ 512))) 0)

/-- R159 to R161: the permutes, broadcasts and moves on quiet sources whose formats fit. Each completes, and writes to each destination
element the source element its rule names; elements that no source element reaches are 0. That `vins` to a port makes no check of the entry's tag and
which formats `vext` takes as INT formats are the model's choices (log entries 14, 68). -/
def Obligations.PermuteResults : Prop :=
  ∀ (s : State) (d : VReg) (vs : List SVal),
    let et := etOf s
    let w := wOf s
    let n := vlOf s
    let av := vecAt vs 0
    let bv := vecAt vs 1
    let js := (List.range n).filter (fun j => guardBit s w j)
    let from_ (v : VVal) (j : Nat) : Nat × Nat := (v.el w j, v.st w j)
    let ends (i : Instr) (rs : List Src) (xs : List (Nat × Nat × Nat)) (side : VVal → BitVec 512 × BitVec 512) : Prop :=
      exec i s = .next (vdone (putV s d w et xs side) rs)
    let keeps (_ : VVal) : BitVec 512 × BitVec 512 := (av.scale, av.special)
    let fits (v : VVal) : Prop := v.fmt = et
    n ≤ vlmax w → (0 < n ∨ pushes s d = true) → destFree s d = true →
    (∀ a b : VReg, quietOps s [.v a, .v b] (.v d) true = some vs → fits av →
      (∀ wb, (bv.fmt = 0x11 ∧ wb = 16 ∨ bv.fmt = 0x21 ∧ wb = 32) → n ≤ vlmax wb →
        ends (.vperm d a b) [.v a, .v b] (js.map (fun j => (j, if bv.el wb j < n then from_ av (bv.el wb j) else (0, 0)))) keeps) ∧
      (fits bv →
        ends (.vzip d a b) [.v a, .v b] (js.map (fun j => (j, if j % 2 = 0 then from_ av (j / 2) else from_ bv (j / 2)))) keeps ∧
        ends (.vunzip d a b) [.v a, .v b] (js.map (fun j => (j, if 2 * j < n then from_ av (2 * j) else from_ bv (2 * j - n)))) keeps)) ∧
    (∀ (a : VReg) (b : SReg), quietOps s [.v a, .s b] (.v d) true = some vs → fits av →
      let k := (wordAt vs 1).toNat
      ends (.vslideup d a b) [.v a, .s b] ((js.filter (fun j => k ≤ j)).map (fun j => (j, from_ av (j - k)))) keeps ∧
      ends (.vslidedn d a b) [.v a, .s b] (js.map (fun j => (j, if j + k < n then from_ av (j + k) else (0, 0)))) keeps) ∧
    (∀ (a : VReg) (b : MReg), quietOps s [.v a] (.v d) true = some vs → fits av →
      let set := (List.range n).filter (fun j => (mreg s b).getLsbD (maskIdx w j))
      ends (.vcompress d a b) [.v a] (set.mapIdx (fun k j => (k, from_ av j))) keeps ∧
      ends (.vexpand d a b) [.v a] (set.mapIdx (fun k j => (j, from_ av k))) keeps) ∧
    (∀ a : SReg, quietOps s [.s a] (.v d) true = some vs → isScaled et = false →
      ends (.vbcast d a) [.s a] (js.map (fun j => (j, (wordAt vs 0).toNat % 2 ^ w, 0))) (fun _ => (0, 0))) ∧
    (quietOps s [] (.v d) true = some vs → isIA et = true → ends (.vid d) [] (js.map (fun j => (j, j % 2 ^ w, 0))) (fun _ => (0, 0))) ∧
    (∀ a b : SReg, quietOps s [.s a, .s b] (.v d) true = some vs → (pushes s d = true ∨ (vreg s d).fmt = et ∧ sideReady (vreg s d) = true) →
      let j := (wordAt vs 1).toNat
      ends (.vins d a b) [.s a, .s b] (if j < vlmax w then [(j, (wordAt vs 0).toNat % 2 ^ w, 0)] else []) (fun v => (v.scale, v.special))) ∧
    (∀ a : VReg, quietOps s [.v a] (.v d) true = some vs →
      exec (.vmv d a) s = .next (vdone (if pushes s d then pushV s d av else setVreg (claim s d 8192 [0]) d av) [.v a])) ∧
    (∀ (e : SReg) (a : VReg) (b : SReg), quietOps s [.v a, .s b] (.s e) true = some vs → fits av →
      let j := (wordAt vs 1).toNat
      exec (.vext e a b) s = .next (vdone (writeS s e (if vlmax w ≤ j then 0
        else match intFmt et with
          | some (_, true) => BitVec.ofInt 64 (intVal w true (av.el w j))
          | _ => BitVec.ofNat 64 (av.el w j))) [.v a, .s b]))

/-- R101, R162, R80, R81, R92: reductions and scans of a quiet source whose formats fit. Each element is read as an operand: a NaN is
the canonical one, with NV if it signals, and under FZ a subnormal is a zero. Inactive elements count as the operator's identity. A
reduction pads the elements to a power of two with the identity and pairs element j with element j + half, halving until one is
left, which it writes to element 0; a scan's element j is element j − 1's result combined with operand j. The flags of every step
accrue. At VL = 0 a register is not written.
R163: the mask instructions. m0 reads all ones and discards writes; `mset` sets the lowest bits; `mpop` and `mfirst` look at the
bits that govern elements below VL, and `mfirst` of none is all ones. -/
def Obligations.ReductionAndMaskResults : Prop :=
  (∀ (s : State) (d a : VReg) (v : VVal) (op : Nat), quietOps s [.v a] (.v d) true = some [.v v] → destFree s d = true →
    let m := s.cpu.ctl.mr
    let et := etOf s
    let w := wOf s
    let n := vlOf s
    (if op ≤ 2 then (isFA et || isIA et) else isIA et) = true → 8 ≤ w → v.fmt = et → n ≤ vlmax w → 0 < n →
    let id := identOf op et
    let step (x y : Nat) : FRes := elemOp (match op with | 0 => 1 | 1 => 6 | 2 => 7 | 3 => 10 | 4 => 11 | _ => 12) et (mrRm m) (mrFz m) (mrSat m) x y 0
    let read (x : Nat) : FRes := match floatFmt et with
      | some F => (if (readF F (mrFz m) x).isNan then qnanF F else readBits F (mrFz m) x, if (readF F (mrFz m) x).isSig then .nv else 0)
      | none => (x, 0)
    let rd := (List.range n).map (fun j => read (if guardBit s w j then v.el w j else id))
    let xs := rd.map (·.1)
    let fl0 := rd.foldl (fun f x => f ||| x.2) 0
    let reduces (i : Instr) : Prop := ∀ k, n ≤ 2 ^ k → (k = 0 ∨ 2 ^ (k - 1) < n) →
      ∀ lv : Nat → List Nat, lv k = xs ++ List.replicate (2 ^ k - n) id →
      (∀ h, h < k → lv h = List.zipWith (fun x y => (step x y).1) ((lv (h + 1)).take (2 ^ h)) ((lv (h + 1)).drop (2 ^ h))) →
      let fl := (List.range k).foldl (fun f h => (List.zipWith (fun x y => (step x y).2) ((lv (h + 1)).take (2 ^ h)) ((lv (h + 1)).drop (2 ^ h))).foldl (· ||| ·) f) fl0
      exec i s = .next (vdone (putV (accrue s fl) d w et [(0, (lv 0).getD 0 0, 0)] (fun _ => (0, 0))) [.v a])
    let scans (i : Instr) : Prop := ∀ r : Nat → Nat, r 0 = xs.getD 0 0 → (∀ j, r (j + 1) = (step (r j) (xs.getD (j + 1) 0)).1) →
      let fl := (List.range (n - 1)).foldl (fun f j => f ||| (step (r j) (xs.getD (j + 1) 0)).2) fl0
      exec i s = .next (vdone (putV (accrue s fl) d w et (((List.range n).filter (fun j => guardBit s w j)).map (fun j => (j, r j, 0))) (fun _ => (0, 0))) [.v a])
    (op = 0 → reduces (.vredSum d a) ∧ scans (.vscanSum d a)) ∧ (op = 1 → reduces (.vredMin d a) ∧ scans (.vscanMin d a)) ∧
    (op = 2 → reduces (.vredMax d a) ∧ scans (.vscanMax d a)) ∧ (op = 3 → reduces (.vredAnd d a) ∧ scans (.vscanAnd d a)) ∧
    (op = 4 → reduces (.vredOr d a) ∧ scans (.vscanOr d a)) ∧ (op = 5 → reduces (.vredXor d a) ∧ scans (.vscanXor d a))) ∧
  ((∀ (s : State) (d a b : MReg), isTask s = true → s.cpu.regs.mPoison = 0 →
    let writes (i : Instr) (f : Nat → Bool) : Prop := ∃ t, exec i s = .next t ∧
      (∀ j, j < 1024 → (mreg t d).getLsbD j = if d = 0 then true else f j) ∧ (∀ r, r ≠ d → mreg t r = mreg s r) ∧
      t.cpu.ctl = (complete (setVstart s 0)).cpu.ctl ∧ t.cpu.wait = none ∧ t.cpu.regs.s = s.cpu.regs.s ∧ t.cpu.regs.v = s.cpu.regs.v ∧ t.mem = s.mem
    let x (j : Nat) : Bool := (mreg s a).getLsbD j
    let y (j : Nat) : Bool := (mreg s b).getLsbD j
    writes (.mand d a b) (fun j => x j && y j) ∧ writes (.mor d a b) (fun j => x j || y j) ∧ writes (.mxor d a b) (fun j => x j ^^ y j) ∧
    writes (.mnot d a) (fun j => !x j) ∧ writes (.mmv d a) x) ∧
  (∀ (s : State) (d : MReg) (a : SReg) (v : Word), quietOps s [.s a] .none true = some [.s v] →
    ∃ t, exec (.mset d a) s = .next t ∧ (∀ j, j < 1024 → (mreg t d).getLsbD j = (decide (d = 0) || decide (j < v.toNat))) ∧
      t.cpu.ctl = (complete (setVstart s 0)).cpu.ctl) ∧
  (∀ (s : State) (d : SReg) (a : MReg), quietOps s [] (.s d) true = some [] →
    let n := if 8 ≤ wOf s then vlOf s else (vlOf s * wOf s + 7) / 8
    let set := (List.range n).filter (fun j => (mreg s a).getLsbD j)
    exec (.mpop d a) s = .next (vdone (writeS s d (BitVec.ofNat 64 set.length)) []) ∧
    (set = [] → exec (.mfirst d a) s = .next (vdone (writeS s d (BitVec.allOnes 64)) [])) ∧
    (∀ j js, set = j :: js → exec (.mfirst d a) s = .next (vdone (writeS s d (BitVec.ofNat 64 j)) []))))

/-- R187, R188, R191: `settle` waits while its register holds PENDING or DEPENDENT elements; then, where an element is FAULTED, it raises
HLF with the lowest such element, and `settle.nf` sets the mask m7 to the FAULTED elements instead. Over all registers the trap names
the lowest register as well. `vpres` reports the PRESENT elements of a landed register. `vfill` outside thaw context is ILL. -/
def Obligations.PresenceResults : Prop :=
  (∀ (s : State) (a : VReg) (v : VVal), isTask s = true → vreadable s [.v a] .none true = some [.v v] →
    let fs := (List.range (vlmax (fmtWidth v.fmt))).filter (fun j => v.pres ≠ 0 ∧ v.st (fmtWidth v.fmt) j = pFaulted)
    (v.holes = true → exec (.settle a) s = .next (s.waitFor (.settle (some a) false)) ∧ exec (.settleNf a) s = .next (s.waitFor (.settle (some a) true))) ∧
    (v.holes = false →
      (fs = [] → exec (.settle a) s = .next (vdone s [.v a])) ∧
      (∀ j js, fs = j :: js → exec (.settle a) s = .next (takeTrapAt s 0x07 (BitVec.ofNat 64 j) s.cpu.ctl.pc)) ∧
      ∃ t, exec (.settleNf a) s = .next t ∧ t.cpu.ctl = (complete (setVstart s 0)).cpu.ctl ∧
        ∀ j, j < 1024 → (mreg t 7).getLsbD j = decide (j ∈ fs)) ∧
    (v.landed = 0xFF → ∀ d : MReg, d ≠ 0 → 8 ≤ fmtWidth v.fmt →
      ∃ t, exec (.vpres d a) s = .next t ∧ t.cpu.ctl = (complete (setVstart s 0)).cpu.ctl ∧
        ∀ j, j < 1024 → (mreg t d).getLsbD j = decide (j < vlmax (fmtWidth v.fmt) ∧ v.st (fmtWidth v.fmt) j = pPresent))) ∧
  (∀ s : State, isTask s = true →
    (anyHoles s = true → exec .settleAll s = .next (s.waitFor (.settle none false)) ∧ exec .settleNfAll s = .next (s.waitFor (.settle none true))) ∧
    (anyHoles s = false →
      (faultedRegs s = [] → exec .settleAll s = .next (vdone s [])) ∧
      (∀ r j rest, faultedRegs s = (r, j) :: rest → exec .settleAll s = .next (takeTrapAt s 0x07 (BitVec.ofNat 64 (r * 65536 + j)) s.cpu.ctl.pc)) ∧
      ∃ t, exec .settleNfAll s = .next t ∧ t.cpu.ctl = (complete (setVstart s 0)).cpu.ctl ∧
        ∀ j, j < 1024 → (mreg t 7).getLsbD j = (faultedRegs s).any (fun r => r.1 == j))) ∧
  (∀ (s : State) (a : SReg) (c k id : Nat) (x : Word) (e : DivEntry), s.cpu.id = .thaw c k → s.cpu.serves = some id → readable s [a] none = some [x] →
    (s.cluster c).div.find? (fun e => e.id == id) = some e →
    exec (.vfill a) s = .next (endThaw (resolveFaulted (fillEntry s c e x.toNat s.cpu.ctl.fflags) c))) ∧
  (∀ (s : State) (a : SReg), (∀ c k, s.cpu.id ≠ .thaw c k) →
    exec (.vfill a) s = .next (takeTrapAt s 0x01 (BitVec.ofNat 64 (encodeNat (.vfill a))) s.cpu.ctl.pc))

/-- R164 to R168, R264, R265: the vector loads and gathers, with the scalar fields read, the index vector quiet and the formats fitting,
where every active element from VSTART on (and every scale byte) passes its checks. The load completes with VSTART 0; the destination takes the tag ET, and for
each element a read of its bytes, at its address, is outstanding, unless it has been made early (R275), which none of a guarded load is (R288); an address outside every lease gives +0 in a plain gather. A form
`.wait` waits, unless nothing is outstanding. Where element j stops the load, with a cause, the trap has its address in TVAL and VSTART
is j.
R168, R282: `vwait` completes, and changes nothing, once every group of its register has landed, and waits until then, unless the
strand goes past it, as it orders nothing; a `.wait` load that waits completes then too. -/
def Obligations.VectorLoads : Prop :=
  (∀ (s : State) (d : VReg) (vs : List SVal), waitsLanded s = false → vlOf s ≤ vlmax (wOf s) → vstartOf s < vlOf s → subByteBad s = false →
    let w := wOf s
    let js := activeFrom s w (vstartOf s) (vlOf s)
    let loads (i : Instr) (rs : List Src) (wait : Bool) (mode : LeaseMode) (us : List VUnit) (sides : List (Bool × Nat × Word)) : Prop :=
      quietOps s rs (.v d) true = some vs →
      let r := loadSide sides (loadElems mode us { s := s, got := [], side := [], stop := none })
      (r.stop = none → ∃ t v, exec i s = .next t ∧
        t.mem = r.s.mem ∧ t.log = r.s.log ∧ t.cpu.regs.s = s.cpu.regs.s ∧ t.cpu.trap = s.cpu.trap ∧
        v.fmt = etOf s ∧
        (∃ ord, ∀ u l, (u, some l) ∈ r.got → ∀ p ∈ unitReads w ord u l,
          p ∈ v.pend ∨ (mrGm s.cpu.ctl.mr = 0 ∧ (s.cpu.mem.earlyOf true (depOfSrcs s rs) p.loc p.bytes).isSome = true)) ∧
        (8 ≤ w → ∀ u, (u, none) ∈ r.got → ∀ j ∈ u.els, v.el w j = 0) ∧
        if wait = true ∧ v.landed ≠ 0xFF then t.cpu.wait = some (.landed d false) ∧ t.cpu.ctl.pc = s.cpu.ctl.pc ∧ v = watched t d
        else t.cpu.wait = none ∧ t.cpu.ctl = (complete (setVstart s 0)).cpu.ctl ∧ v = resultAt s t d) ∧
      (∀ j va c, r.stop = some (some j, va, .cause c) →
        ∃ u, exec i s = .next (takeTrapAt u c va s.cpu.ctl.pc) ∧ u.cpu.ctl.vstart = BitVec.ofNat 64 j)
    (∀ (a : SReg) (wait : Bool), loads (.vld d a wait) [.s a] wait .lse (unitsAt (wordAt vs 0) w js) (sideUnits (wordAt vs 0) (etOf s) w (vlOf s))) ∧
    (∀ (a b : SReg) (wait : Bool), isScaled (etOf s) = false → 8 ≤ w →
      loads (.vlds d a b wait) [.s a, .s b] wait .lse (unitsBy (wordAt vs 0) (wordAt vs 1) w js) []) ∧
    (∀ (a : SReg) (b : VReg) (strict : Bool), isScaled (etOf s) = false → 8 ≤ w → isIdxTag (vecAt vs 1).fmt = true →
      vlOf s ≤ vlmax (fmtWidth (vecAt vs 1).fmt) →
      loads (.vgat d a b strict) [.s a, .v b] false (if strict then .bnd else .zero) (unitsIdx (wordAt vs 0) (vecAt vs 1) w js) [])) ∧
  ((∀ (s : State) (d : VReg) (v : VVal), isTask s = true → vreadable s [.v d] .none false = some [.v v] →
    (v.landed = 0xFF ∨ goesPast s = true → exec (.vwait d) s = .next (complete s)) ∧
    (v.landed ≠ 0xFF → goesPast s = false → exec (.vwait d) s = .next (s.waitFor (.landed d false)))) ∧
  (∀ (s : State) (d : VReg) (a : SReg) (x : Word), isTask s = true → vreadable s [.s a] (.v d) true = some [.s x] → waitsLanded s = true →
    pushes s d = false → (vreg s d).landed = 0xFF → exec (.vld d a true) s = .next (vdone s [.s a])))

/-- R169, R264, R266, R267, R281: the vector stores, scatters and additions, on quiet sources whose formats fit, where every active
element (and every scale byte) passes its checks and none is remote. The instruction completes with VSTART 0 and no register changes;
memory is as the translations left it, and a train is added whose elements are the stored bytes at their addresses, in ascending order:
ordered, or not for a form `.u`. Where element j stops it, with a cause, the trap has its address in TVAL and VSTART is j. -/
def Obligations.VectorStores : Prop :=
  ∀ (s : State) (d : VReg) (vs : List SVal), vlOf s ≤ vlmax (wOf s) → vstartOf s < vlOf s → subByteBad s = false →
    (∀ r w id x, s.cpu.wait ≠ some (.supply r w id x)) →
    let w := wOf s
    let n := vlOf s
    let js := activeFrom s w (vstartOf s) n
    let stores (i : Instr) (rs : List Src) (v : VVal) (u : Bool) (op : ElemOp) (us : List VUnit) (sides : List (Bool × Nat × Word)) : Prop :=
      quietOps s rs .none true = some vs → v.fmt = etOf s →
      let r := storeElems (op != .store) (dataUnits v w us n sides) { s := s, loc := [], rem := [], stop := none }
      (r.stop = none → r.rem = [] → ∃ t, exec i s = .next t ∧
        t.mem = r.s.mem ∧ t.log = r.s.log ∧ t.cpu.trap = s.cpu.trap ∧ t.cpu.wait = none ∧
        t.cpu.regs = s.cpu.regs ∧ t.cpu.ctl = (complete (setVstart s 0)).cpu.ctl ∧
        (r.loc = [] → t.cpu.mem.trains = s.cpu.mem.trains) ∧
        (r.loc ≠ [] → ∃ x : Train, t.cpu.mem.trains = s.cpu.mem.trains ++ [x] ∧ x.ordered = !u ∧
          x.elems = r.loc.mapIdx (fun k y => ⟨k, y.1, y.2.1, y.2.2.1, false, op, y.2.2.2, false⟩))) ∧
      (∀ j va c, r.stop = some (j, va, .cause c) → r.rem = [] →
        ∃ z, exec i s = .next (takeTrapAt z c va s.cpu.ctl.pc) ∧ z.cpu.ctl.vstart = BitVec.ofNat 64 j)
    (∀ (a : SReg) (u : Bool), stores (.vst d a u) [.s a, .v d] (vecAt vs 1) u .store (unitsAt (wordAt vs 0) w js) (sideUnits (wordAt vs 0) (etOf s) w n)) ∧
    (∀ (a b : SReg) (u : Bool), isScaled (etOf s) = false → 8 ≤ w →
      stores (.vsts d a b u) [.s a, .s b, .v d] (vecAt vs 2) u .store (unitsBy (wordAt vs 0) (wordAt vs 1) w js) []) ∧
    (∀ (a : SReg) (b : VReg) (u : Bool), isIdxTag (vecAt vs 1).fmt = true → n ≤ vlmax (fmtWidth (vecAt vs 1).fmt) →
      (isScaled (etOf s) = false → 8 ≤ w →
        stores (.vsct d a b u) [.s a, .v b, .v d] (vecAt vs 2) u .store (unitsIdx (wordAt vs 0) (vecAt vs 1) w js) []) ∧
      (isAddFmt (etOf s) = true →
        stores (.vscadd d a b u) [.s a, .v b, .v d] (vecAt vs 2) u (.add (etOf s)) (unitsIdx (wordAt vs 0) (vecAt vs 1) w js) []))

/-- R268, R283: `vfas` on a quiet source, at a word of device memory that passes the checks with R and W and is not poisoned, once older accesses
to it are over: each active element, in ascending order, takes the word as the elements before it have left it, and the word takes the
sum of them all; where that is put off, it completes, and performs later (R279). R269: `vprobe` sets the mask bits of the active elements whose reads would pass every check, and no other.
R270, R271, R285: `vld.sc` and `vst.sc`, with one element left to move whose address passes the checks and whose SC access may take
place: it draws a ticket, reads or writes its bytes in memory at device scope in that move, and the instruction completes with VSTART 0. Where the
access may not take place yet, the strand waits at that element, and the SC access of a waiting strand is the instruction once more. -/
def Obligations.AtomicVectorAccesses : Prop :=
  ((∀ (s : State) (d : VReg) (a : SReg) (b : VReg) (va : Word) (v : VVal) (k : XOk) (pa : Nat),
    quietOps s [.s a, .v b] (.v d) true = some [.s va, .v v] → isAddFmt (etOf s) = true → v.fmt = etOf s → vlOf s ≤ vlmax (wOf s) →
    checkAccess s va (wOf s / 8) true true = .ok k → k.loc = .dev pa → poisonedLast k.s k.s.cpu k.loc (wOf s / 8) = false →
    destFree s d = true →
    let w := wOf s
    let js := (List.range (vlOf s)).filter (fun j => guardBit s w j)
    (k.s.cpu.mem.late = true → pushes s d = false → js ≠ [] → ∃ t x, exec (.vfas d a b) s = .next t ∧
      t.cpu.mem.vfas = k.s.cpu.mem.vfas ++ [x] ∧ x.d = some d ∧ x.loc = k.loc ∧ x.els = js.map (fun j => (j, v.el w j)) ∧
      t.cpu.ctl = (complete (setVstart k.s 0)).cpu.ctl ∧ t.mem = k.s.mem ∧ t.log = k.s.log) ∧
    (k.s.cpu.mem.late = false →
    atomicReady k.s k.s.cpu k.s.dev.nextUid k.loc (w / 8) = true → vectorClear k.s k.s.cpu k.s.dev.nextUid k.loc (w / 8) = true →
    ∀ p : Nat → Nat, p 0 = leNat (hide k.s k.loc (lastBytes k.s k.loc (w / 8))) →
      (∀ m, m < js.length → p (m + 1) = memAdd (etOf s) (p m) (v.el w (js.getD m 0))) → js ≠ [] →
      ∀ u, u = enter (readAnewAt k.s.fresh.2 true k.loc (w / 8)) k.loc (leBytes (w / 8) (p js.length)) s.cpu.id s.cpu.cluster .device
          (.train k.s.dev.nextUid 0 none) k.s.dev.nextUid → destFree u d = true →
      exec (.vfas d a b) s = .next (vdone (putV (accrue u 0) d w (etOf s) (js.mapIdx (fun m j => (j, p m, pPresent))) (fun _ => (0, 0))) [.s a, .v b]))) ∧
  (∀ (s : State) (d : MReg) (a : SReg) (b : VReg) (strict : Bool) (va : Word) (v : VVal),
    quietOps s [.s a, .v b] .none true = some [.s va, .v v] → isScaled (etOf s) = false → 8 ≤ wOf s → isIdxTag v.fmt = true →
    vlOf s ≤ vlmax (wOf s) → vlOf s ≤ vlmax (fmtWidth v.fmt) →
    let w := wOf s
    let us := unitsIdx va v w (activeFrom s w 0 (vlOf s))
    (strict = true → us.all (fun u => !outsideLeases s u.va u.n)) →
    ∃ t, exec (.vprobe d a b strict) s = .next t ∧ t.cpu.ctl = (complete (setVstart s 0)).cpu.ctl ∧ t.cpu.wait = none ∧
      t.mem = s.mem ∧ t.log = s.log ∧ t.tlb = s.tlb ∧ t.cpu.regs.s = s.cpu.regs.s ∧ t.cpu.regs.v = s.cpu.regs.v ∧
      ∀ j, j < 1024 → (mreg t d).getLsbD j = (decide (d = 0) || us.any (fun u => u.els.headD 0 == j && probeOk s u.va u.n)))) ∧
  (∀ (s : State) (d : VReg) (a : SReg) (va : Word) (vs : List SVal) (j : Nat) (k : XOk) (store : Bool),
    let w := wOf s
    let i : Instr := if store then .vstSc d a else .vldSc d a
    let ad := va + BitVec.ofNat 64 (j * w / 8)
    let u := setVstart s j
    quietOps s (if store then [.s a, .v d] else [.s a]) (if store then .none else .v d) true = some vs → wordAt vs 0 = va →
    isScaled (etOf s) = false → 8 ≤ w → (store = true → (vecAt vs 1).fmt = etOf s) → (store = false → pushes s d = false ∧ (vreg s d).landed = 0xFF) →
    vlOf s ≤ vlmax w → vstartOf s < vlOf s → activeFrom s w (vstartOf s) (vlOf s) = [j] →
    checkAccess u ad (w / 8) (!store) store = .ok k → isRemote k.loc = false → poisonedLast k.s k.s.cpu k.loc (w / 8) = false →
    let e := enter (drawTicket (readAnew k.s)).fresh.2 k.loc (leBytes (w / 8) ((vecAt vs 1).el w j)) s.cpu.id s.cpu.cluster .device
      (.train k.s.dev.nextUid 0 none) k.s.dev.nextUid
    let concl (o : Out) : Prop :=
      (scReady k.s k.loc (w / 8) = true → ∃ t, o = .next t ∧ t.cpu.ctl = (complete (setVstart s 0)).cpu.ctl ∧ t.cpu.wait = none ∧
        t.dev.tseq = s.dev.tseq + 1 ∧
        if store then t.cpu.regs = s.cpu.regs ∧
          t.mem = e.mem ∧ t.log = e.log
        else t.mem = k.s.mem ∧ t.log = k.s.log ∧ (vreg t d).fmt = etOf s ∧ 
          (vreg t d).el w j = leNat (hide (drawTicket (readAnew k.s)).fresh.2 k.loc (lastBytes k.s k.loc (w / 8))) % 2 ^ w) ∧
      (scReady k.s k.loc (w / 8) = false → o = .next (u.waitFor (.sc store d a)))
    concl (exec i s) ∧
    ∀ (z : State) (y : StrandId), z.strand? y = some s.cpu → z.focus y = s → s.cpu.resid = .on → issues z s.cpu.cluster = true → s.cpu.wait = some (.sc store d a) →
      concl (exec (.scAccess y) z))

/-- R205 to R213, R99: the multiplies, on quiet operands that pass every check. Element (r, j) of the accumulator, for the rows of the
first operand and the rows of the second, takes the block sums of R99 over the K products, from +0 for a form `.z` or a tile of kind ZERO;
an inactive element of a vector operand counts as +0. The other elements stay, the tile's kind is the accumulation class, and the
flags that accrue are NX, OF and NV only; VSTART becomes 0. The bytes of a tile are read one by one, some perhaps early (R209); the
multiply waits while a store of the strand to its scratchpad has no data.
R206: a multiply with VL 0 completes and changes nothing, whatever its formats and its pair. R203, R208: a pair that fails a check raises FMT with the
code and the register, and a tile of another kind FMT with TVAL 3EH. -/
def Obligations.MatrixMultiplies : Prop :=
  (∀ (s : State) (d : AccReg) (z : Bool), isTask s = true → d.toNat < accCount s → s.cpu.regs.mPoison = 0 →
    let t := accOf s d
    let tid := (spadOf s).1
    let alloc := (spadOf s).2
    let multiplies (i : Instr) (rs : List Src) (fa fb m n k : Nat) (ra rb : List (List MVal)) : Prop :=
      let cls := accClass fa fb
      (z = true ∨ t.kind = .zero ∨ t.kind = cls) → (z = true ∨ t.poison = 0) → s.cpu.mem.late = false → spadWritten s tid = true → ∃ x fl, exec i s = .next (vdone (setAcc (accrue s fl) d x) rs) ∧ x.kind = cls ∧ fl &&& 0x2A = 0 ∧
        ∀ r j, r < 64 → j < 64 → x.el r j =
          if r < m ∧ j < n then
            let blocks := chunks (blockLen fa fb) (cdiv k (blockLen fa fb)) ((ra.getD r []).zip (rb.getD j []))
            let from0 := if z = true ∨ t.kind = .zero then 0 else t.el r j
            (if cls = .int then maccInt (mrSat s.cpu.ctl.mr) blocks from0 0 else maccFp blocks from0 0).1 % 2 ^ 32
          else t.el r j
    (∀ (a : VReg) (b : PairReg) (g : BitVec 2) (w1 w2 : Word) (sparse : Bool),
      let m := 2 ^ g.toNat
      let p : TilePair := ⟨w1, w2⟩
      let rs := [Src.s (PairReg.lo b), .s (PairReg.hi b)]
      let v (r : Nat) : VVal := vreg s (BitVec.ofNat 5 (a.toNat + r))
      let k := vlOf s
      let f := etOf s
      let sp := if sparse then sparsityOf p.spar else none
      (roleOf s s.cpu = .single ∨ (b.toNat ≤ 13 ∧ a.toNat + m ≤ 28)) → vreadable s rs .none false = some [.s w1, .s w2] →
      0 < k → 0 < p.rows → f ≤ 0x1F → (∀ r, r < m → (v r).fmt = f ∧ (v r).quiet = true) → k ≤ vlmax (fmtWidth f) →
      tileCheck p (if sparse then .sparse else .dense) k alloc f = 0 → tilePoisoned s tid p sp k = false →
      multiplies (if sparse then .mmasp d a b z g else .mma d a b z g) rs f p.fmt m p.rows k
        ((List.range m).map (fun r => (List.range k).map (fun i =>
          if active s (fmtWidth f) i then mval f ((v r).el (fmtWidth f) i) (sclOf (v r) i) else MVal.zero)))
        (tileRows s (depOfSrcs s rs) tid p sp k)) ∧
    (∀ (a b : PairReg) (w1 w2 w3 w4 : Word),
      let p : TilePair := ⟨w1, w2⟩
      let q : TilePair := ⟨w3, w4⟩
      let rs := [Src.s (PairReg.lo a), .s (PairReg.hi a), .s (PairReg.lo b), .s (PairReg.hi b)]
      (roleOf s s.cpu = .single ∨ (a.toNat ≤ 13 ∧ b.toNat ≤ 13)) → vreadable s rs .none false = some [.s w1, .s w2, .s w3, .s w4] →
      0 < p.rows → 0 < p.cols → 0 < q.rows → tileCheck p .dense p.cols alloc q.fmt = 0 → tileCheck q .dense p.cols alloc p.fmt = 0 →
      tilePoisoned s tid p none p.cols = false → tilePoisoned s tid q none p.cols = false →
      multiplies (.mmas d a b z) rs p.fmt q.fmt p.rows q.rows p.cols (tileRows s (depOfSrcs s rs) tid p none p.cols)
        (tileRows s (depOfSrcs s rs) tid q none p.cols))) ∧
  (∀ (s : State) (d : AccReg) (a : VReg) (b : PairReg) (z : Bool) (g : BitVec 2), isTask s = true → d.toNat < accCount s →
    (roleOf s s.cpu = .single ∨ (b.toNat ≤ 13 ∧ a.toNat + 2 ^ g.toNat ≤ 28)) →
    (vlOf s = 0 → exec (.mma d a b z g) s = .next (complete s) ∧ exec (.mmasp d a b z g) s = .next (complete s)) ∧
    (∀ (w1 w2 : Word),
      let p : TilePair := ⟨w1, w2⟩
      let v (r : Nat) : VVal := vreg s (BitVec.ofNat 5 (a.toNat + r))
      let c := tileCheck p .dense (vlOf s) (spadOf s).2 (etOf s)
      vreadable s [.s (PairReg.lo b), .s (PairReg.hi b)] .none false = some [.s w1, .s w2] → 0 < vlOf s → 0 < p.rows → etOf s ≤ 0x1F →
      (∀ r, r < 2 ^ g.toNat → (v r).fmt = etOf s ∧ (v r).quiet = true) → vlOf s ≤ vlmax (wOf s) →
      (c ≠ 0 → exec (.mma d a b z g) s = .next (takeTrapAt s 0x02 (BitVec.ofNat 64 (256 * c + (PairReg.lo b).toNat)) s.cpu.ctl.pc)) ∧
      (c = 0 → s.cpu.regs.mPoison = 0 → (accOf s d).kind ≠ .zero → (accOf s d).kind ≠ accClass (etOf s) p.fmt →
        exec (.mma d a b false g) s = .next (takeTrapAt s 0x02 0x3E s.cpu.ctl.pc))))

/-- R199, R214, R215: `macc.z` makes a tile zero, of kind ZERO; `macc.rd` gives the 64 elements of a row, and zeros beyond them, with
the tag of the tile's kind; `macc.wr` replaces one row and sets the kind. A row of 64 or more raises FMT with TVAL the register, and
so does a source of `macc.wr` with another tag, first. That `macc.z` leaves VSTART is the model's choice (log entry 54).
R216 to R219: the drains, whose elements pass their checks and none of which is remote: the rows from VSTART on, in ascending
order, each element converted to ET, as one ordered train; the flags accrue, VSTART becomes 0, and neither registers nor accumulators change.
`macc.st` steps by its descriptor's stride; `macc.st.x` takes the offsets of a vector and skips a row whose offset is all ones. That a drain accrues
NX, OF and NV, as matrix instructions do, is the model's choice (log entry 17).
R204: `mtd` copies its two words into a pair of registers if they pass the checks of Table 8.5, and else writes 0 and the code with
bit 63 set; it never traps on them. -/
def Obligations.AccumulatorResults : Prop :=
  ((∀ (s : State) (d : AccReg), isTask s = true → d.toNat < accCount s → exec (.maccZ d) s = .next (complete (setAcc s d Tile.zero))) ∧
  (∀ (s : State) (d : VReg) (a : AccReg) (b : SReg) (x : Word), isTask s = true → a.toNat < accCount s →
    vreadable s [.s b] (.v d) true = some [.s x] →
    (x.toNat < 64 → (accOf s a).poison = 0 → destFree s d = true →
      exec (.maccRd d a b) s = .next (vdone (putV (accrue s 0) d 32 (if (accOf s a).kind = .int then 0x20 else 0x00)
        ((List.range 256).map (fun j => (j, if j < 64 then (accOf s a).el x.toNat j else 0, pPresent))) (fun _ => (0, 0))) [.s b])) ∧
    (64 ≤ x.toNat → exec (.maccRd d a b) s = .next (takeTrapAt s 0x02 (BitVec.ofNat 64 b.toNat) s.cpu.ctl.pc))) ∧
  (∀ (s : State) (d : AccReg) (a : VReg) (b : SReg) (v : VVal) (x : Word), isTask s = true → d.toNat < accCount s →
    vreadable s [.v a, .s b] .none false = some [.v v, .s x] →
    (x.toNat < 64 → v.quiet = true → (v.fmt = 0x00 ∨ v.fmt = 0x20) →
      let kind : TileKind := if v.fmt = 0x00 then .fp else .int
      ((accOf s d).kind = .zero ∨ (accOf s d).kind = kind) →
      ∃ t, exec (.maccWr d a b) s = .next (vdone (setAcc s d t) [.v a, .s b]) ∧ t.kind = kind ∧
        ∀ r j, r < 64 → j < 64 → t.el r j = if r = x.toNat then v.el 32 j else (accOf s d).el r j) ∧
    (v.fmt ≠ 0x00 → v.fmt ≠ 0x20 → exec (.maccWr d a b) s = .next (takeTrapAt s 0x02 (BitVec.ofNat 64 a.toNat) s.cpu.ctl.pc)) ∧
    ((v.fmt = 0x00 ∨ v.fmt = 0x20) → 64 ≤ x.toNat →
      exec (.maccWr d a b) s = .next (takeTrapAt s 0x02 (BitVec.ofNat 64 b.toNat) s.cpu.ctl.pc)))) ∧
  (∀ (s : State) (d : AccReg) (va : Word), isTask s = true → d.toNat < accCount s → isDrainFmt (etOf s) = true → vlOf s ≤ 64 →
    (8 ≤ wOf s ∨ vlOf s % 2 = 0) → s.cpu.regs.mPoison = 0 → (accOf s d).poison = 0 →
    let w := wOf s
    let t := accOf s d
    let drains (i : Instr) (rows : List (Nat × Word)) : Prop :=
      let us := (rows.filter (fun r => vstartOf s < 64 * (r.1 + 1))).flatMap (fun r =>
        ((drainUnits w r.1 (vlOf s) (vstartOf s)).filter (fun js => guardBit s w (js.headD 0))).map (drainUnit s t w r.1 r.2))
      let r := storeElems false (us.map (·.1)) { s := s, loc := [], rem := [], stop := none }
      r.stop = none → r.rem = [] → ∃ z, exec i s = .next z ∧ z.mem = r.s.mem ∧ z.log = r.s.log ∧ z.cpu.regs = s.cpu.regs ∧
        z.cpu.trap = s.cpu.trap ∧ z.cpu.wait = none ∧ accOf z d = t ∧
        (∃ fl, z.cpu.ctl = { (complete (setVstart s 0)).cpu.ctl with fflags := s.cpu.ctl.fflags ||| fl } ∧ fl &&& 0x2A = 0) ∧
        (r.loc = [] → z.cpu.mem.trains = s.cpu.mem.trains) ∧
        (r.loc ≠ [] → ∃ x : Train, z.cpu.mem.trains = s.cpu.mem.trains ++ [x] ∧ x.ordered = true ∧
          x.elems = r.loc.mapIdx (fun k y => ⟨k, y.1, y.2.1, y.2.2.1, false, .store, y.2.2.2, false⟩))
    (∀ (a b : SReg) (desc : Word), vreadable s [.s a, .s b] .none false = some [.s va, .s desc] →
      desc.toNat / 2 ^ 56 = 0 → desc.getLsbD 7 = false → desc.toNat % 128 ≤ 64 →
      drains (.maccSt d a b) ((List.range (desc.toNat % 128)).map (fun r =>
        (r, va + BitVec.ofNat 64 r * (BitVec.ofNat 48 (desc.toNat / 256)).signExtend 64)))) ∧
    (∀ (a : SReg) (b : VReg) (v : VVal), vreadable s [.s a, .v b] .none false = some [.s va, .v v] → v.quiet = true →
      (v.fmt = 0x22 ∨ v.fmt = 0x23) →
      drains (.maccStX d a b) (((List.range 64).filter (fun r => v.el 64 r ≠ 2 ^ 64 - 1)).map (fun r =>
        (r, va + BitVec.ofNat 64 (v.el 64 r)))))) ∧
  (∀ (s : State) (d : PairReg) (a b : SReg) (x y : Word), isTask s = true → (roleOf s s.cpu = .single ∨ d.toNat ≤ 13) →
    readable s [a, b] none = some [x, y] →
    let p : TilePair := ⟨x, y⟩
    let c := tileCheck p .build p.cols (spadOf s).2 p.fmt
    exec (.mtd d a b) s = .next (complete (setSreg (setSreg (popPorts s [a, b]) (PairReg.lo d) (if c = 0 then x else 0))
      (PairReg.hi d) (if c = 0 then y else BitVec.ofNat 64 (2 ^ 63 + c)))))

/-- R222, R223, R227 to R231: the sparse arithmetic, the compressing and expanding moves and `svlen`, with clean sources of fitting
formats. Each is a whole instruction and completes with VSTART 0 (R141). The union and the intersection hold, for each coordinate, ascending, what R227 gives it; of the pairs the first 256 stay.
R226, R141: `svld` reads and tests the header, once no older access of the strand to it is pending, checks every word, and then waits until the image has been read; it completes with the
register holding the pairs, or raises FMT at the lowest coordinate that does not ascend, or ECC at the lowest word that was poisoned; a
trap leaves no image in progress. `svst` puts the image into an ordered train
and completes once the train has entered. Both complete with VSTART 0. -/
def Obligations.SparseResults : Prop :=
  ((∀ (s : State) (d a b : SvReg) (mul : Bool), isTask s = true → s.cpu.regs.svPoison = 0 →
    let x := svreg s a
    let y := svreg s b
    let t := x.tag.toNat
    let ascending (ps : List (BitVec 32 × BitVec 32)) : Prop := (ps.map (·.1.toNat)).Pairwise (· < ·)
    x.tag = y.tag → ascending x.pairs → ascending y.pairs →
    ∃ ps fl, exec (if mul then .svmul d a b else .svadd d a b) s = .next (vdone (setSv (accrue s fl) d (svResult t ps (svStops x ++ svStops y))) []) ∧
      ascending ps ∧
      ∀ c v, (c, v) ∈ ps ↔
        ((∃ p q, (c, p) ∈ x.pairs ∧ (c, q) ∈ y.pairs ∧ v = svSlot t (svOp s mul t p.toNat q.toNat).1) ∨
         (mul = false ∧ ((∃ p, (c, p) ∈ x.pairs ∧ (∀ q, (c, q) ∉ y.pairs) ∧ v = svSlot t p.toNat) ∨
                         (∃ q, (c, q) ∈ y.pairs ∧ (∀ p, (c, p) ∉ x.pairs) ∧ v = svSlot t q.toNat))))) ∧
  (∀ (s : State) (d a : SvReg) (b : SReg) (y : Word), isTask s = true → s.cpu.regs.svPoison = 0 → readable s [b] none = some [y] →
    let x := svreg s a
    let t := x.tag.toNat
    ∃ fl, exec (.svscale d a b) s = .next (vdone (setSv (accrue s fl) d
      { x with pairs := x.pairs.map (fun p => (p.1, svSlot t (svOp s true t p.2.toNat (y.toNat % 2 ^ fmtWidth t)).1)) }) [.s b])) ∧
  (∀ (s : State) (d : SvReg) (a : VReg) (vs : List SVal), quietOps s [.v a] .none true = some vs → isSvFmt (etOf s) = true →
    (vecAt vs 0).fmt = etOf s → vlOf s ≤ vlmax (wOf s) → 0 < vlOf s →
    let w := wOf s
    let js := (activeFrom s w 0 (vlOf s)).filter (fun i => svNonzero (etOf s) ((vecAt vs 0).el w i))
    exec (.svcomp d a) s = .next (vdone (setSv s d (svResult (etOf s)
      (js.map (fun i => (BitVec.ofNat 32 i, svSlot (etOf s) ((vecAt vs 0).el w i)))) [])) [.v a])) ∧
  (∀ (s : State) (d : VReg) (a : SvReg), quietOps s [] (.v d) true = some [] → s.cpu.regs.svPoison = 0 → (svreg s a).tag.toNat = etOf s →
    vlOf s ≤ vlmax (wOf s) → 0 < vlOf s → destFree s d = true →
    let w := wOf s
    let val (i : Nat) : Nat := match (svreg s a).pairs.find? (fun p => p.1.toNat == i) with | some p => p.2.toNat % 2 ^ w | none => 0
    exec (.svexp d a) s = .next (vdone (putV (accrue s 0) d w (etOf s)
      ((activeFrom s w 0 (vlOf s)).map (fun i => (i, val i, pPresent))) (fun _ => (0, 0))) [])) ∧
  (∀ (s : State) (d : SReg) (a : SvReg), isTask s = true → s.cpu.regs.svPoison = 0 → readable s [] (some d) = some [] →
    let x := svreg s a
    exec (.svlen d a) s = .next (vdone (writeS s d (BitVec.ofNat 64
      (x.pairs.length + (if x.ov then 2 ^ 15 else 0) + x.tag.toNat * 2 ^ 16 + x.stop.toNat * 2 ^ 32))) []))) ∧
  ((∀ (s : State) (d : SvReg) (a : SReg) (va : Word) (k : XOk) (ls : List Loc) (u : State), isTask s = true →
    readable s [a] none = some [va] → s.cpu.mem.sv = none → checkAccess s va 8 true false = .ok k →
    let n := k.s.dev.nextUid
    olderRead k.s k.s.cpu [] 0 (probeRead k.loc 8 n) = false → poisonedVec k.s k.s.cpu n k.loc 8 = false →
    let v := { k.s with dev := { k.s.dev with nextUid := n + 1 } }
    let h := BitVec.ofNat 64 (leNat (vectorBytes v v.cpu n k.loc 8))
    (svBadHeader h = true → exec (.svld d a) s = .next (takeTrapAt s 0x02 0x3B s.cpu.ctl.pc)) ∧
    (svBadHeader h = false → 0 < h.toNat % 512 → svWords va (List.range (2 * (h.toNat % 512))) v = .ok (ls, u) →
      ∃ t, exec (.svld d a) s = .next t ∧ t.cpu.wait = some (.svld d a) ∧ t.cpu.ctl.pc = u.cpu.ctl.pc ∧ t.cpu.regs = u.cpu.regs ∧
        t.mem = u.mem ∧ ∃ x : SvLoad, t.cpu.mem.sv = some x ∧ x.hdr = h ∧
          x.pend = ls.mapIdx (fun i l => { dst := .bits, pos := 32 * i, width := 32, loc := l, srcBit := 0, ord := n, live := 2 ^ 32 - 1 }))) ∧
  (∀ (s : State) (d e : SvReg) (a c : SReg) (va : Word) (x : SvLoad), isTask s = true → readable s [a] none = some [va] →
    s.cpu.wait = some (.svld e c) → s.cpu.mem.sv = some x → x.pend = [] →
    let n := x.hdr.toNat % 512
    let word (i : Nat) : Nat := x.bits.toNat / 2 ^ (32 * i) % 2 ^ 32
    let tag := x.hdr.toNat / 2 ^ 16 % 64
    let pairs := (List.range n).map (fun i => (BitVec.ofNat 32 (word i), svSlot tag (word (n + i))))
    let z := s.withMem (fun m => { m with sv := none })
    (∀ i, x.bad = some i → exec (.svld d a) s = .next (takeTrapAt z 0x08 (x.va + BitVec.ofNat 64 (8 + 4 * i)) s.cpu.ctl.pc)) ∧
    (x.bad = none → (List.range n).all (fun i => decide (i = 0 ∨ word (i - 1) < word i)) = true →
      exec (.svld d a) s = .next (vdone (setSv z d ⟨pairs, BitVec.ofNat 6 tag, x.hdr.getLsbD 15,
        BitVec.ofNat 32 (x.hdr.toNat / 2 ^ 32)⟩) [.s a])) ∧
    (∀ i, x.bad = none → 0 < i → i < n → word i ≤ word (i - 1) → (∀ j, 0 < j → j < i → word (j - 1) < word j) →
      exec (.svld d a) s = .next (takeTrapAt z 0x02 (BitVec.ofNat 64 (0x10000 + i)) s.cpu.ctl.pc))) ∧
  (∀ (s : State) (d : SvReg) (a : SReg) (va : Word), isTask s = true → readable s [a] none = some [va] →
    ((∀ e c j, s.cpu.wait ≠ some (.svst e c j)) → s.cpu.regs.svPoison = 0 →
      let r := storeElems false (svUnits va (svreg s d)) { s := s, loc := [], rem := [], stop := none }
      r.stop = none → r.rem = [] → ∃ (t : State) (y : Train), exec (.svst d a) s = .next t ∧ t.cpu.wait = some (.svst d a y.id) ∧
        t.cpu.ctl = s.cpu.ctl ∧ t.cpu.mem.trains = s.cpu.mem.trains ++ [y] ∧ y.ordered = true ∧
        y.elems = r.loc.mapIdx (fun i x => ⟨i, x.1, x.2.1, x.2.2.1, false, .store, none, false⟩)) ∧
    (∀ e c id, s.cpu.wait = some (.svst e c id) → s.cpu.mem.trains.all (fun t => t.id != id) = true →
      exec (.svst d a) s = .next (vdone s [.s a]))))

/-- R234, R235, R239, R240, R242, R243: opening, continuing, flushing and closing a merge context, and its counters. A record that breaks
Table 9.4 and a second context report codes 6 and 7; a strand that waits for the network binds the context it has read; the spill area is the network's from the opening to the close; without a context the other instructions raise FMT with TVAL 3DH.
R236 to R238: `mgpush` of a register whose tag the context's combine takes, into an open context: every pair is accepted, whole
or not at all. A pair of a key and stream that the buffer holds is added to its entry, and any other makes a new entry where there is room;
the sequence number of the stream and NPUSH go up by one a pair. R241: `mgpull` stores the rows up to l and reports the row position
it has reached; `mgpull.sv` gives one row's pairs, ascending, in a sparse register. How
`mergedKeys` adds the entries of one key that came again within a stream is the model's choice (log entry 56). -/
def Obligations.MergeResults : Prop :=
  ((∀ (s : State) (d a : SReg) (va : Word), isTask s = true → readable s [a] (some d) = some [va] →
    (∀ e c n, s.cpu.wait ≠ some (.mgopen e c n)) →
    (s.cpu.ext.merge.isSome = true → exec (.mgopen d a) s = .next (retired (noteStat s 7) [a] d 7)) ∧
    (s.cpu.ext.merge = none → va.toNat % 256 ≠ 0 → exec (.mgopen d a) s = .next (takeTrapAt s 0x03 va s.cpu.ctl.pc)) ∧
    (∀ ws u, s.cpu.ext.merge = none → va.toNat % 256 = 0 → readDwords s va (List.range 32) = .ok (ws, u) →
      (ctxOfRecord va (s.cpu.cluster / 8) ws = none → exec (.mgopen d a) s = .next (retired u [a] d 6)) ∧
      (∀ m, ctxOfRecord va (s.cpu.cluster / 8) ws = some m → (mergeNet u (s.cpu.cluster / 8)).bound = none →
        netWaiters u (s.cpu.cluster / 8) = [] →
        exec (.mgopen d a) s = .next (retired (openArea ((setNet u (s.cpu.cluster / 8) { bound := some u.cpu.id, waiters := [] }).withExt
          (fun x => { x with merge := some m })) u.cpu m.spb m.spl) [a] d 0)))) ∧
  (∀ (s : State) (d a : SReg) (x : Word) (m : MergeCtx), isTask s = true → s.cpu.ext.merge = some m →
    (readable s [a] (some d) = some [x] → m.state = .opened → x = m.addr → ∀ spb spl u, readDwords s m.addr [1, 2] = .ok ([spb, spl], u) →
      badSpill spb spl = false → u.cpu.ext = s.cpu.ext →
      let n : MergeCtx := { m with spb := spb.toNat, spl := spl.toNat, spillPtr := spb.toNat }
      exec (.mgopenCont d a) s = .next (retired (openArea (u.withExt (fun y => { y with merge := some n })) u.cpu spb.toNat spl.toNat) [a] d 0)) ∧
    (readable s [] (some d) = some [] →
      (m.state = .opened → exec (.mgflush d) s = .next (retired (s.withExt (fun y => { y with merge := some { m with state := .flushed } })) [] d 0)) ∧
      exec (.mgstatRuns d) s = .next (retired s [] d (BitVec.ofNat 64 m.runs.length)) ∧
      exec (.mgstatEntries d) s = .next (retired s [] d (BitVec.ofNat 64 m.buf.length)) ∧
      exec (.mgstatStatus d) s = .next (retired s [] d (BitVec.ofNat 64
        (m.stat + (match m.state with | .opened => 0 | .flushed => 1 | .failed => 2) * 2 ^ 8 + m.p % 2 ^ 32 * 2 ^ 32)))) ∧
    (∀ ls u, closeLocs m m.results s = .ok (ls, u) → ls.all (fun l => !isRemote l.1) = true → u.cpu.id = s.cpu.id →
      ∃ t, exec .mgclose s = .next t ∧ t.cpu.ext.merge = none ∧ (mergeNet t m.octet).bound = none ∧ t.cpu.wait = none ∧
        (∀ p ∈ t.spills, p.owner ≠ s.cpu.id) ∧
        t.cpu.ctl.pc = (complete u).cpu.ctl.pc ∧ t.cpu.regs = u.cpu.regs ∧
        t.cpu.mem.pob.map (fun e => (e.loc, e.data)) = u.cpu.mem.pob.map (fun e => (e.loc, e.data)) ++ ls.map (fun l => (l.1, leBytes 8 l.2.1)))) ∧
  (∀ (s : State) (d : SReg), isTask s = true → s.cpu.ext.merge = none → readable s [] (some d) = some [] →
    exec (.mgflush d) s = .next (takeTrapAt s 0x02 0x3D s.cpu.ctl.pc)) ∧
  (∀ (s : State) (o : Nat) (t : StrandId) (ts : List StrandId) (d a : SReg) (m : MergeCtx), netWaiters s o = t :: ts →
    (mergeNet s o).bound = none → (s.focus t).cpu.id = t → (s.focus t).cpu.wait = some (.mgopen d a m) →
    exec (.mgopenGrant o) s = exec (.mgopen d a) (s.focus t) ∧
    (∀ va us, isTask (s.focus t) = true → readable (s.focus t) [a] (some d) = some [va] → m.octet = o →
      (mergeNet (s.focus t) o).bound = none → netWaiters (s.focus t) o = t :: us →
      exec (.mgopenGrant o) s = .next (retired (openArea ((setNet (s.focus t) o { bound := some t, waiters := us.filter (fun x => x != t) }).withExt
        (fun x => { x with merge := some m })) (s.focus t).cpu m.spb m.spl) [a] d 0)))) ∧
  ((∀ (s : State) (d b : SReg) (a : SvReg) (st : BitVec 4) (x : Word) (m : MergeCtx), isTask s = true → readable s [b] (some d) = some [x] →
    s.cpu.ext.merge = some m → s.cpu.regs.svPoison = 0 → (svreg s a).tag.toNat = cmbTag m.cmb → m.state = .opened →
    (m.nrows ≤ x.toNat → exec (.mgpush d a b st) s = .next (retired (s.withExt (fun y => { y with merge := some { m with stat := 2 } })) [b] d 2)) ∧
    (x.toNat < m.nrows → m.seqs.getD st.toNat 0 + (svreg s a).pairs.length ≤ 2 ^ 28 →
      (acceptAll x.toNat st.toNat (svreg s a).pairs m = none →
        exec (.mgpush d a b st) s = .next (retired (s.withExt (fun y => { y with merge := some { m with stat := 1 } })) [b] d 1)) ∧
      (∀ m1, acceptAll x.toNat st.toNat (svreg s a).pairs m = some m1 → m1.runs = m.runs →
        exec (.mgpush d a b st) s = .next (retired (s.withExt (fun y => { y with merge := some m1 })) [b] d 0) ∧
        m1.npush = m.npush + (svreg s a).pairs.length ∧
        (st.toNat < m.seqs.length → m1.seqs.getD st.toNat 0 = m.seqs.getD st.toNat 0 + (svreg s a).pairs.length)) ∧
      (∀ p, (svreg s a).pairs = [p] →
        let v := if m.cmb = 2 then p.2 <<< 16 else p.2
        let same (e : MEntry) : Prop := e.row = x.toNat ∧ e.coord = p.1.toNat ∧ e.strm = st.toNat
        let goes (buf : List MEntry) : Prop := ∃ m1 : MergeCtx, m1.buf = buf ∧ m1.runs = m.runs ∧
          exec (.mgpush d a b st) s = .next (retired (s.withExt (fun y => { y with merge := some m1 })) [b] d 0)
        (∀ pre e post, m.buf = pre ++ e :: post → same e → (∀ y ∈ pre, ¬ same y) →
          goes (pre ++ { e with val := mergeAdd m.cmb e.val v } :: post)) ∧
        ((∀ y ∈ m.buf, ¬ same y) → m.buf.length < m.cap →
          goes (m.buf ++ [⟨x.toNat, p.1.toNat, st.toNat, m.seqs.getD st.toNat 0, v⟩]))))) ∧
  (∀ (s : State) (d a : SReg) (x : Word) (m : MergeCtx), isTask s = true → readable s [a] (some d) = some [x] → s.cpu.ext.merge = some m →
    m.state = .flushed → m.out = false → m.p ≤ x.toNat → x.toNat ≤ m.nrows → s.pauses = [] →
    let rows := (List.range (x.toNat - m.p)).map (fun i => m.p + i)
    let out := pullRows m (rowKeys s m (runsIntact s) (mergedKeys m)) rows m.nnz
    let r := storeElems false out.1 { s := s, loc := [], rem := [], stop := none }
    r.stop = none → r.rem = [] →
    ∃ t, exec (.mgpull d a) s = .next t ∧ t.cpu.ctl.pc = (complete s).cpu.ctl.pc ∧ t.cpu.wait = none ∧ t.mem = r.s.mem ∧
      t.cpu.ext.merge = some { m with p := x.toNat, nnz := out.2.2 } ∧
      (NoPorts s → d ≠ 0 → sreg t d = x) ∧
      (r.loc ≠ [] → ∃ y : Train, t.cpu.mem.trains = s.cpu.mem.trains ++ [y] ∧ y.ordered = true ∧
        y.elems = r.loc.mapIdx (fun i z => ⟨i, z.1, z.2.1, z.2.2.1, false, .store, none, false⟩))) ∧
  (∀ (s : State) (d : SvReg) (a : SReg) (x : Word) (m : MergeCtx), isTask s = true → readable s [a] none = some [x] → s.cpu.ext.merge = some m →
    m.state = .flushed → m.out = true → x.toNat < m.nrows → m.lastRow ≤ x.toNat → m.p < x.toNat → runsIntact s = true →
    ∃ t, exec (.mgpullSv d a) s = .next t ∧ t.cpu.ctl.pc = (complete s).cpu.ctl.pc ∧ t.cpu.wait = none ∧ t.mem = s.mem ∧
      svreg t d = svResult (if m.cmb = 1 then 0x20 else 0x00)
        (((mergedKeys m).filter (fun k => k.1 = x.toNat)).map (fun k => (BitVec.ofNat 32 k.2.1, k.2.2))) []))

/-- R293, R294, R309, R302: `cpdim` sets one dimension register, or raises FMT for an extent above 2^32; `cpstat` reports the status kept
for a copy id, 0 for none; `permit` gives a slot of the cluster to its task and adds permits.
R299, R300, R301, R312, R313: the copy instructions on an aligned record. A record that fails a check of Table 14.4 writes its code with
bit 63 set. Otherwise, with every earlier write visible, all pages present and room in the queue, the copy joins its engine
under the strand's next id, which d receives; a strand that waits for room joins when there is some. -/
def Obligations.CopyInstructions : Prop :=
  ((∀ (s : State) (d a b : SReg) (l : Level) (x y z : Word), isTask s = true → readable s [a, b, d] none = some [x, y, z] →
    (x.toNat ≤ 2 ^ 32 → exec (.cpdim d a b l) s = .next (retired0 (s.withExt (fun e =>
      { e with dm := e.dm.setIfInBounds l.code ⟨x.toNat, y.setWidth 48, z.setWidth 48⟩ })) [a, b, d])) ∧
    (2 ^ 32 < x.toNat → exec (.cpdim d a b l) s = .next (takeTrapAt s 0x02 (BitVec.ofNat 64 a.toNat) s.cpu.ctl.pc))) ∧
  (∀ (s : State) (d a : SReg) (x : Word), isTask s = true → readable s [a] (some d) = some [x] →
    ((∀ r ∈ s.cpu.ext.copies, BitVec.ofNat 64 r.id ≠ x) → exec (.cpstat d a) s = .next (retired s [a] d 0)) ∧
    (∀ r rs, s.cpu.ext.copies = r :: rs → BitVec.ofNat 64 r.id = x →
      let state : Nat := match r.state with | .waiting => 1 | .moving => 2 | .done => 3 | .failed => 4
      exec (.cpstat d a) s = .next (retired s [a] d (BitVec.ofNat 64
        (r.done * 2 ^ 32 + min r.bad 65535 * 65536 + r.cause * 256 + state))))) ∧
  (∀ (s : State) (a b : SReg) (x y : Word), isTask s = true → readable s [a, b] none = some [x, y] →
    let num := x.toNat % 64
    let off := x.toNat / 2 ^ 6 % 2 ^ 21
    let len := x.toNat / 2 ^ 27 % 2 ^ 21
    let old := (s.cluster s.cpu.cluster).slots.find? (fun q => q.num == num)
    let tid := (tidOf s.cpu.id).getD 0
    x.toNat / 2 ^ 48 = 0 → len % 64 = 0 → 0 < len → off % 64 = 0 → off + len ≤ spadSize s →
    (∀ q, old = some q → q.tid = tid ∧ (q.permits ≠ 0 → q.off = off ∧ q.len = len)) →
    let n := (match old with | some q => q.permits | none => 0) + y.toNat
    let u := match old with | some q => (q.uid, s) | none => s.fresh
    n ≤ 65535 →
    exec (.permit a b) s = .next (retired0 (u.2.modCluster s.cpu.cluster (fun (c : Cluster) =>
      { c with slots := upsert (fun q => q.num == num) ⟨num, u.1, tid, off, len, n⟩ c.slots })) [a, b]))) ∧
  (let joins (o : Out) (u : State) (rs : List SReg) (d : SReg) (c : Copy) : Prop :=
    (∀ x ∈ u.copies, x.uid ≠ u.dev.nextUid) → (c.moving = true → 0 < c.total) → c.entered = 0 →
    ∃ t, o = .next t ∧ t.copies = u.copies ++ [{ c with uid := u.dev.nextUid, id := u.cpu.ext.nextCopy }] ∧
      t.cpu.ext.nextCopy = (if (u.cpu.ext.nextCopy + 1) % 2 ^ 32 = 0 then 1 else (u.cpu.ext.nextCopy + 1) % 2 ^ 32) ∧
      t.cpu.ctl = (complete u).cpu.ctl ∧ t.cpu.wait = none ∧ t.mem = u.mem ∧ t.log = u.log ∧
      (NoPorts u → t.cpu.regs = (writeS (popPorts u rs) d (BitVec.ofNat 64 u.cpu.ext.nextCopy)).cpu.regs)
  (∀ (s : State) (d a b : SReg) (f : Fin 3) (va set : Word) (ws : List Word) (u : State),
    let i : Instr := if f = 0 then .cpgo d a else if f = 1 then .cpmc d a b else .cpgat d a
    let rs : List SReg := if f = 1 then [a, b] else [a]
    isTask s = true → readable s rs (some d) = some (if f = 1 then [va, set] else [va]) → s.cpu.wait = none → va.toNat % 64 = 0 →
    readDwords s va (List.range 8) = .ok (ws, u) → (f ≠ 1 → set = 0) →
    let code := if f = 2 then streamCode (spadSize s) ws else copyCode (f == 1) set s.cpu.ext.dm.toList ws
    (code ≠ 0 → exec i s = .next (retired u rs d (BitVec.ofNat 64 (2 ^ 63 + code)))) ∧
    (code = 0 → writesDone u u.cpu (if f = 2 then .device else .cluster) = false →
      exec i s = .next (u.waitFor (.copyRec (if f = 0 then 1 else if f = 1 then 3 else 2) d a (if f = 1 then b else 0) ws))) ∧
    (code = 0 → writesDone u u.cpu (if f = 2 then .device else .cluster) = true →
      let c := copyOfRecord u (if f = 1 then .mc else .go) (targetsOf u (f == 1) set) u.cpu.ext.dm.toList ws
      (f ≠ 2 → ∀ p, probeCopy (probeFor u) c u = .ok p → p.miss = [] → engineLoad p.s p.s.cpu.cluster < 64 →
        joins (exec i s) p.s rs d { c with pins := p.pins }) ∧
      (f = 2 → ∀ g, probeGather (probeFor u) (copyOfBlock u ws) ws u = .ok g → g.p.miss = [] → g.c.gathers = true →
        joins (exec i s) g.p.s rs d { g.c with pins := g.p.pins }))) ∧
  (∀ (s : State) (t : StrandId) (x : Strand) (f : Nat) (d a b : SReg) (c : Copy) (vs : List Word), s.strand? t = some x → x.resid = .on →
    x.wait = some (.copyRoom f d a b c) → issues s x.cluster = true →
    let z := s.focus t
    let rs : List SReg := if f == 3 then [a, b] else [a]
    isTask z = true → readable z rs (some d) = some vs →
    (engineLoad z z.cpu.cluster < 64 → joins (exec (.copyQueueAdmit t) s) z rs d c) ∧
    (64 ≤ engineLoad z z.cpu.cluster → exec (.copyQueueAdmit t) s = .next (z.waitFor (.copyRoom f d a b c)))))

/-- R296, R298, R300, R303, R306 to R308, R313: the moves of a copy. Its engine starts the first copy of its queue; a copy to a slot takes one permit
at each target; a transfer or row, once, writes its image, converted if the formats differ; a failing one fails its copy, which keeps its
status; a chunk that has entered sets its bit of the owner's mask; a stamp writes the larger of the word and STV. -/
def Obligations.CopyMoves : Prop :=
  (∀ (s : State) (cl : Nat) (x : Copy), s.copies.find? (fun y => y.cluster == cl && !y.moving) = some x → issues s cl = true → x.entered < x.total →
    (∀ y ∈ s.copies, y.uid = x.uid → y = x) →
    ∃ t, exec (.copyStart cl) s = .next t ∧ t.copies.find? (fun y => y.uid == x.uid) = some { x with moving := true } ∧
      (∀ y ∈ s.copies, y.uid ≠ x.uid → y ∈ t.copies) ∧ t.mem = s.mem ∧ t.log = s.log) ∧
  (∀ (s : State) (u num : Nat) (c : Copy), s.copies.find? (fun y => y.uid == u) = some c → c.moving = true → c.taken = false →
    c.slot = some num → c.targets.Nodup → c.entered < c.total →
    (∀ cl ∈ c.targets, ∃ q, slotAt s c cl = some q ∧ 0 < q.permits ∧ (s.cluster cl).slots.all (fun y => y.num != num || y == q) = true) →
    s.copies.all (fun y => !(y.tenant == c.tenant && y.moving && !y.taken && y.slot == c.slot && decide (y.uid < u) && y.targets.any (fun t => c.targets.contains t))) = true →
    ∃ t, exec (.slotPermitTake u) s = .next t ∧
      (∀ cl ∈ c.targets, ∀ q, slotAt s c cl = some q → slotAt t c cl = some { q with permits := q.permits - 1 }) ∧
      t.copies.find? (fun y => y.uid == u) =
        some { c with taken := true, holds := c.targets.filterMap (fun cl => (slotAt s c cl).map (fun q => (cl, q.uid))) } ∧ t.mem = s.mem ∧ t.log = s.log) ∧
  (∀ (s : State) (u n : Nat) (c : Copy) (va : Word) (l : Loc), s.copies.find? (fun y => y.uid == u) = some c → canMove s c n = true →
    c.slot = none → xferFault s c n = none → c.part n = none → isRemote l = false →
    let img := convImage c (((copyLocs s c c.srcLen (c.srcOf n) c.srcLen).getD []).flatMap (fun x => engineBytes s c x.2.1 x.2.2))
    dstLocs s c n = [(va, l, img.length)] →
    ∃ t, exec (if c.gathers then .gatherRow u n else .transfer u n) s = .next t ∧ lastBytes t l img.length = img ∧
      (∀ k a, overlaps l img.length k 1 = false → (k = .dev a ∨ k = .host a) → lastBytes t k 1 = lastBytes s k 1) ∧
      (c.entered + 1 < c.total → t.copies.find? (fun y => y.uid == u) = some { c with made := c.made ++ [n], entered := c.entered + 1 })) ∧
  (∀ (s : State) (u cause n : Nat) (c : Copy), s.copies.find? (fun y => y.uid == u) = some c → canMove s c n = true →
    xferFault s c n = some cause → c.sta = 0 →
    ∃ t, exec (.copyFail u cause n) s = .next t ∧ (∀ y ∈ t.copies, y.uid ≠ u) ∧ t.mem = s.mem ∧ t.log = s.log ∧
      (∀ x r rs, (∀ g k, c.kind ≠ .node g k) → s.strand? c.owner = some x → x.ext.copies = r :: rs → r.id = c.id →
        (t.strand? c.owner).map (·.ext.copies) = some (⟨c.id, n % 2 ^ 32, c.bad, cause, .failed⟩ :: rs))) ∧
  (∀ (s : State) (u j k : Nat) (c : Copy) (x : Strand), s.copies.find? (fun y => y.uid == u) = some c → c.mreg = some k → k < 8 →
    chunkEntered c j = true → j ∉ c.chunkDone → takesBits s c = true → s.strand? c.owner = some x →
    ∃ t y, exec (.chunkDone u j) s = .next t ∧ t.strand? c.owner = some y ∧ t.mem = s.mem ∧ t.log = s.log ∧
      ∀ r i, r < 8 → i < 1024 → (y.regs.m.toList.getD r 0).getLsbD i = ((x.regs.m.toList.getD r 0).getLsbD i || decide (r = k ∧ i = j))) ∧
  (∀ (s : State) (u : Nat) (c : Copy) (l : Loc), s.copies.find? (fun y => y.uid == u) = some c → c.moving = true → c.done = false → c.entered = c.total →
    c.rtrains = [] → (c.slot = none ∨ c.taken = true) → c.sta ≠ 0 → c.stampSeq = none → pinLoc c.pins c.sta.toNat = some l → isRemote l = false →
    poisonedEnd s l 8 = false →
    ∃ t, exec (.copyStamp u) s = .next t ∧ lastBytes t l 8 = leBytes 8 (max (leNat (hide s l (lastBytes s l 8))) c.stv.toNat))

/-- R318, R321, R325: what a sender does with an answer of its stream, and with the lack of one. An ack ends its train and frees the messages up to its
SEQ; a refusal is recorded as PRM at the first element that did not enter; RESYNC starts the stream again, unless the restart is on its way
already, which is the model's choice (log entry 34), and so do 50 ms without progress, which fail the trains of the stream with TMO; 20 µs without an acknowledgement send the unacknowledged messages once more; an atomic response completes its AMO
with the value read. What goes to this device itself does not leave it. -/
def Obligations.RemoteAnswers : Prop :=
  (∀ (s : State) (m : RMsg) (t : RTrain), arrives s m = true →
    let k := answerKey m
    let seq := m.seq.toNat
    trainAt (arrived s m) k seq = some t →
    (m.ty = 3 → ∃ u, exec (.ackMessage m) s = .next u ∧ (∀ x ∈ u.strands, ∀ y ∈ x.mem.rtrains, y.id ≠ t.id) ∧
      ∀ i, (txOf s k).unacked.findIdx? (fun q => q.seq.toNat == seq) = some i →
        (txOf u k).unacked = (txOf s k).unacked.drop (i + 1) ∧ (txOf u k).idleNs = 0) ∧
    (m.ty = 4 → m.stat ≠ 6 → t.amo = none → s.copies.all (fun c => c.rtrains.all (fun r => r.2.id != t.id)) = true →
      ∀ x, s.strands.find? (fun x => x.mem.rtrains.any (fun y => y.id == t.id)) = some x → s.strand? x.id = some x → x.ext.rfail = none →
      ∃ u y, exec (.nackMessage m) s = .next u ∧ u.strand? x.id = some y ∧
        ∀ e, elemAt t.elems m.ecnt.toNat = some e → y.ext.rfail = some ⟨0x04, e.va, t.order⟩) ∧
    (m.ty = 6 → m.stat = 0 → ∀ x r, s.strands.find? (fun x => x.mem.rtrains.any (fun y => y.id == t.id)) = some x →
      x.wait = some (.remoteAmo r t.id) →
      let y := dropTrain (ackUpTo (arrived s m) k seq) t.id
      let z := (if r.order = .sc then drawTicket y else y).focus x.id
      exec (.atomicResponse m) s = .next (retired (amoOrdered z r.order) (amoReads r) r.d (amoResult r.size (leNat m.data))))) ∧
  (∀ (s : State) (m : RMsg), arrives s m = true → m.ty = 4 → m.stat = 6 →
    ((txOf s (answerKey m)).unacked.any (fun q => q.ty == 8) = true → exec (.nackMessage m) s = .next (arrived s m)) ∧
    ((txOf s (answerKey m)).unacked.any (fun q => q.ty == 8) = false → ∃ u, exec (.nackMessage m) s = .next u ∧ (txOf u (answerKey m)).unacked.map (·.ty) = [8] ∧ (txOf u (answerKey m)).seq = 1 ∧
      ∀ p ∈ allTrains u, p.1 = answerKey m → p.2.sent = 0 ∧ p.2.tailSent = false)) ∧
  (∀ (s : State) (ddev win sten : Nat),
    let t := txOf s ⟨ddev, win, sten⟩
    t.unacked ≠ [] →
    (20000 ≤ t.resendNs → ∃ u, exec (.resendTimeout ddev win sten) s = .next u ∧ (txOf u ⟨ddev, win, sten⟩).unacked = t.unacked ∧
      ((∀ q ∈ t.unacked, q.ddev ≠ s.dev.h.devid) → u.dev.out = s.dev.out ++ t.unacked.map OutMsg.remote ∧ u.dev.inbox = s.dev.inbox) ∧
      ((∀ q ∈ t.unacked, q.ddev = s.dev.h.devid) → u.dev.inbox = s.dev.inbox ++ t.unacked ∧ u.dev.out = s.dev.out)) ∧
    (50000000 ≤ t.idleNs → ∃ u, exec (.streamTimeout ddev win sten) s = .next u ∧
      (txOf u ⟨ddev, win, sten⟩).unacked.map (·.ty) = [8] ∧ (txOf u ⟨ddev, win, sten⟩).seq = 1 ∧
      ∀ p x e, (allTrains s).filter (fun q => q.1 == ⟨ddev, win, sten⟩) = [p] → p.2.amo = none →
        s.copies.all (fun c => c.rtrains.all (fun r => r.2.id != p.2.id)) = true →
        s.strands.find? (fun x => x.mem.rtrains.any (fun y => y.id == p.2.id)) = some x → s.strand? x.id = some x → x.ext.rfail = none →
        elemAt p.2.elems 0 = some e →
        (u.strand? x.id).map (·.ext.rfail) = some (some ⟨0x0D, e.va, p.2.order⟩)))

/-- R318, R324, R328, R290: what a receiver does with a message in its turn. A data message's admitted elements queue; a tail ends its train; an
element enters memory with the bytes it carries, an addition by what the word holds and it; a train whose elements have entered is acknowledged, or refused at
its first refused element; atomics answer with the old value, a stamp is a maximum, and a restart begins the stream anew, once: that its number tells a restart that comes
again from a new one is the model's choice (log entry 34), as is the number of elements in a data message's opcode. A message out of
turn is discarded, and a stream without state is answered with RESYNC. An answer to this device itself does not leave it. -/
def Obligations.RemoteReceipt : Prop :=
  let sends (s u : State) (m q : RMsg) : Prop :=
    if m.sdev = s.dev.h.devid then u.dev.inbox = s.dev.inbox.erase m ++ [q] ∧ u.dev.out = s.dev.out
    else u.dev.out = s.dev.out ++ [.remote q] ∧ u.dev.inbox = s.dev.inbox
  (∀ (s : State) (m : RMsg) (r : RxStream), arrives s m = true →
    rxOf s m.sdev.toNat m.win.toNat m.sten.toNat = some r →
    let key (u : State) : Option RxStream := rxOf u m.sdev.toNat m.win.toNat m.sten.toNat
    (r.next ≠ m.seq.toNat → (m.ty = 1 → exec (.dataMessage m) s = .next (arrived s m)) ∧ (m.ty = 2 → exec (.tailMessage m) s = .next (arrived s m))) ∧
    (r.next = m.seq.toNat →
      (m.ty = 1 → ∀ tn w, windowFor s r.sdev r.win r.sten = some (tn, w) → w.closing = false → r.refused = none → 0 < m.size →
        m.off + m.data.length ≤ w.len → (if m.op % 64 = 0 then w.w else w.a) = true →
        let es := splitElems m.size m.data
        let add := if m.op % 64 = 0 then none else some (m.op % 64 - 1)
        let new := es.mapIdx (fun i d => RxItem.elem (m.off + i * m.size) d add (decide (m.op % 128 < 64)))
        ∃ u, exec (.dataMessage m) s = .next u ∧
          key u = some { r with next := (r.next + 1) % 2 ^ 32, arrived := r.arrived + es.length * (m.op / 128 + 1), queue := r.queue ++ new }) ∧
      (m.ty = 2 → exec (.tailMessage m) s = .next (setRx (arrived s m)
        { r with next := (r.next + 1) % 2 ^ 32, queue := r.queue ++ [.tail m.seq.toNat r.arrived r.refused], arrived := 0, refused := none })) ∧
      (m.ty = 5 → r.queue = [] → ∀ a, atomicLoc s m m.size = some (.dev a) → poisonedEnd s (.dev a) m.size = false → settledAt s (.dev a) m.size .device = true →
        let old := hide s (.dev a) (lastBytes s (.dev a) m.size)
        ∃ u, exec (.atomicRequest m) s = .next u ∧ (∃ q, sends s u m q ∧ q.ty = 6 ∧ q.seq = m.seq ∧ q.stat = 0 ∧ q.data = old) ∧
          lastBytes u (.dev a) m.size = match amoNew m.op m.size (leNat old) (leNat (m.data.take m.size)) (leNat (m.data.drop m.size)) with
            | some x => leBytes m.size x
            | none => lastBytes s (.dev a) m.size) ∧
      (m.ty = 7 → r.queue = [] → ∀ a, atomicLoc s m 8 = some (.dev a) → poisonedEnd s (.dev a) 8 = false → settledAt s (.dev a) 8 .device = true →
        ∃ u, exec (.stampMessage m) s = .next u ∧ (∃ q, sends s u m q ∧ q.ty = 3 ∧ q.seq = m.seq) ∧
          lastBytes u (.dev a) 8 = leBytes 8 (max (leNat (hide s (.dev a) (lastBytes s (.dev a) 8))) (leNat m.data % 2 ^ 64))))) ∧
  (∀ (s : State) (m : RMsg), arrives s m = true → m.ty = 1 → rxOf s m.sdev.toNat m.win.toNat m.sten.toNat = none →
    ∃ q u, exec (.dataMessage m) s = .next u ∧ sends s u m q ∧ q.ty = 4 ∧ q.stat = 6 ∧ q.seq = m.seq) ∧
  (∀ (s : State) (m : RMsg), arrives s m = true → m.ty = 8 →
    (∀ r, rxOf s m.sdev.toNat m.win.toNat m.sten.toNat = some r → r.epoch = m.op → exec (.restartMessage m) s = .next (arrived s m)) ∧
    ((∀ r, rxOf s m.sdev.toNat m.win.toNat m.sten.toNat = some r → r.epoch ≠ m.op) →
      ∃ q u r, exec (.restartMessage m) s = .next u ∧ sends s u m q ∧ q.ty = 3 ∧ q.seq = m.seq ∧
        rxOf u m.sdev.toNat m.win.toNat m.sten.toNat = some r ∧ r.epoch = m.op ∧ r.next = 1 ∧ r.queue = [] ∧ r.arrived = 0)) ∧
  (∀ (s : State) (r : RxStream) (tn a : Nat) (w : RWin) (sdev win sten : Nat), rxOf s sdev win sten = some r → windowFor s sdev win sten = some (tn, w) →
    ∀ off data add ord rest, r.queue = .elem off data add ord :: rest → windowLocs w data.length off data.length = [(.dev a, data.length)] →
    (∀ f, add = some f → poisonedEnd s (.dev a) data.length = false ∧ settledAt s (.dev a) data.length .device = true) →
    let new := match add with | none => data | some f => memAddBytes f (hide s (.dev a) (lastBytes s (.dev a) data.length)) data
    new.length = data.length →
    ∃ u, exec (.remoteEnter sdev win sten off data) s = .next u ∧ lastBytes u (.dev a) data.length = new ∧
      rxOf u sdev win sten = some { r with queue := rest, entered := r.entered + 1 }) ∧
  (∀ (s : State) (r : RxStream) (sdev win sten q n : Nat) (refused : Option Nat) (rest : List RxItem), rxOf s sdev win sten = some r →
    r.queue = .tail q n refused :: rest →
    ∃ u m, exec (.ack sdev win sten) s = .next u ∧ m.seq = BitVec.ofNat 32 q ∧
      (match refused with | none => m.ty = 3 ∧ m.ecnt = BitVec.ofNat 16 n | some i => m.ty = 4 ∧ m.stat = 5 ∧ m.ecnt = BitVec.ofNat 16 i) ∧
      (if BitVec.ofNat 16 sdev = s.dev.h.devid then u.dev.inbox = s.dev.inbox ++ [m] ∧ u.dev.out = s.dev.out
        else u.dev.out = s.dev.out ++ [.remote m] ∧ u.dev.inbox = s.dev.inbox) ∧
      (rxOf u sdev win sten).map (·.queue) = some rest)

/-- R323, R325, R326: `rwin` opens a window over present pages of device memory and reports 0, and closes a quiet one; a close of a window with a train
under way waits, and completes once it is quiet. `rfence` waits for the strand's trains, then raises a recorded failure, which clears it, or completes. -/
def Obligations.RemoteWindows : Prop :=
  (∀ (s : State) (d a : SReg) (va : Word) (ws : List Word) (u : State), isTask s = true → s.cpu.ctl.level ≠ .u →
    readable s [a] (some d) = some [va] → s.cpu.wait = none →
    (va.toNat % 64 ≠ 0 → exec (.rwin d a) s = .next (takeTrapAt s 0x03 va s.cpu.ctl.pc)) ∧
    (va.toNat % 64 = 0 → readDwords s va (List.range 8) = .ok (ws, u) →
      let w2 := (ws.getD 2 0).toNat
      let win := w2 / 2 ^ 25 % 16
      let tn := u.cpu.tenant
      (w2 / 2 ^ 32 ≠ 0 → exec (.rwin d a) s = .next (retired u [a] d 2)) ∧
      (w2 / 2 ^ 32 = 0 → w2 / 2 ^ 16 % 16 = 0 → (∀ x ∈ ws.drop 3, x = 0) →
        (w2 / 2 ^ 31 % 2 = 0 → ∀ w, (u.tenX tn).rwins.find? (fun x => x.win == win) = some w → (u.tenX tn).rwins.all (fun x => !x.closing) = true →
          (windowQuiet u w = true → exec (.rwin d a) s = .next (retired (dropWindow u tn win) [a] d 0)) ∧
          (windowQuiet u w = false → ∃ t, exec (.rwin d a) s = .next t ∧ t.cpu.wait = some (.rwinClose d a win) ∧ t.cpu.ctl = u.cpu.ctl)) ∧
        (w2 / 2 ^ 31 % 2 = 1 →
          let lbase := ws.getD 0 0
          let len := (ws.getD 1 0).toNat
          let sten := w2 / 2 ^ 20 % 32
          let sdev := w2 % 2 ^ 16
          (lbase.toNat % 4096 ≠ 0 → exec (.rwin d a) s = .next (retired u [a] d 2)) ∧
          (lbase.toNat % 4096 = 0 → len % 4096 = 0 → 0 < len → len ≤ 2 ^ 40 →
            (u.tenX tn).rwins.all (fun x => x.win != win) = true → windowFor u sdev win sten = none →
            ∀ ps v, windowPages { ctxOf u u.cpu with user := false } (migOver u.cpu) (len / 4096) lbase len [] u = .ok (ps, v) →
            ∃ t, exec (.rwin d a) s = .next t ∧ t.cpu.wait = none ∧
              (t.tenX tn).rwins = (v.tenX tn).rwins ++ [⟨win, sdev, sten, lbase.toNat, len, (ws.getD 2 0).getLsbD 29, (ws.getD 2 0).getLsbD 30, false, ps⟩] ∧
              (NoPorts v → d ≠ 0 → sreg t d = 0)))))) ∧
  (∀ (s : State) (t : StrandId) (x : Strand) (d a : SReg) (win : Nat) (w : RWin), s.strand? t = some x → x.resid = .on →
    x.wait = some (.rwinClose d a win) → issues s x.cluster = true →
    let z := s.focus t
    (z.tenX z.cpu.tenant).rwins.find? (fun y => y.win == win) = some w → windowQuiet z w = true →
    exec (.rwinCloseComplete t) s = .next (retired (dropWindow z z.cpu.tenant win) [a] d 0)) ∧
  (∀ (s : State), isTask s = true →
    (s.cpu.mem.rtrains ≠ [] → exec .rfence s = .next (s.waitFor .rfence)) ∧
    (s.cpu.mem.rtrains = [] → s.cpu.ext.rfail = none → exec .rfence s = .next (complete (readAnew s))) ∧
    (∀ r, s.cpu.mem.rtrains = [] → s.cpu.ext.rfail = some r →
      exec .rfence s = .next (takeTrapAt (s.withExt (fun e => { e with rfail := none })) r.cause r.va s.cpu.ctl.pc)))

/-- R336 to R340: `launch` of an aligned header. A header that fails a check writes its code of Table 17.6 with bit 63 set; else, with every
earlier write of vis ≥ device and fewer than 4,096 launches outstanding, d takes the next launch id and the launch's pin pass runs; a launch that had to
wait goes on as soon as both hold. A pass without misses pins its pages, each walk having waited for its own leaf while it migrates (R413); one whose RESUME word cannot be read fails its launch; then each tuple gets a record at the launch's priority, with its WID and its leases, and a gang group gets all of its records at once. -/
def Obligations.Launching : Prop :=
  let starts (o : Out) (u : State) (d a : SReg) (va : Word) (ws : List Word) : Prop :=
    writesDone u u.cpu .device = true → outstanding u u.cpu.tenant < 4096 →
    let tn := u.cpu.tenant
    let t := (startLaunch u ⟨tn, u.cpu.cluster / 64, u.cpu.trap.s1root, u.cpu.trap.asid, none⟩ va ws).1
    o = .next (retired t [a] d (BitVec.ofNat 64 (u.tenX tn).nextLid)) ∧
    t.launches.map (fun l => (l.tenant, l.lid)) = u.launches.map (fun l => (l.tenant, l.lid)) ++ [(tn, (u.tenX tn).nextLid)]
  (∀ (s : State) (d a : SReg) (va : Word), isTask s = true → readable s [a] (some d) = some [va] → s.cpu.wait = none →
    (va.toNat % 64 ≠ 0 → exec (.launch d a) s = .next (takeTrapAt s 0x03 va s.cpu.ctl.pc)) ∧
    (∀ ws u, va.toNat % 64 = 0 → readDwords s va (List.range 32) = .ok (ws, u) →
      let code := launchCode (u.ten u.cpu.tenant) ws
      (code ≠ 0 → exec (.launch d a) s = .next (retired u [a] d (BitVec.ofNat 64 (2 ^ 63 + code)))) ∧
      (code = 0 → starts (exec (.launch d a) s) u d a va ws ∧
        (4096 ≤ outstanding u u.cpu.tenant → exec (.launch d a) s = .next (u.waitFor (.launchLimit d a ws)))))) ∧
  (∀ (s : State) (t : StrandId) (x : Strand) (d a : SReg) (ws : List Word) (va : Word), s.strand? t = some x → x.resid = .on →
    x.wait = some (.launchLimit d a ws) → issues s x.cluster = true → isTask (s.focus t) = true → readable (s.focus t) [a] (some d) = some [va] →
    starts (exec (.launchAdmit t) s) (s.focus t) d a va ws) ∧
  (∀ (s : State) (tn lid n t0 : Nat) (l : Launch), s.launch? tn lid = some l → l.tenant = tn → l.lid = lid →
    (∀ (u : State) (v page : Nat) (vain over' : List Nat) (p : Pins),
      ((l.pin = .mig page n t0 vain ∧ rereads s t0 = true ∧ u = s ∧ over' = vain ++ (if 64 ≤ n + 1 then [page] else [])) ∨
        (l.pin = .waiting n t0 ∧ (n = 0 ∨ rereads s t0 = true) ∧ over' = [] ∧
        watchWord s l.ctx (l.frec + 16) true = .ok (v, u) ∧ 1 ≤ v)) →
      pinLeases l.ctx over' l.leases ⟨u, [], []⟩ = .ok p → p.miss = [] →
      exec (.pinPassResume tn lid) s = .next (p.s.modLaunch tn lid (fun l => { l with pin := .done, pins := p.marks }))) ∧
    (l.pin = .waiting n t0 → (n = 0 ∨ rereads s t0 = true) → watchWord s l.ctx (l.frec + 16) true = .error false →
      exec (.pinPassResume tn lid) s = .next (s.modLaunch tn lid (fun l => { l with pin := .failed, status := Nat.max l.status 3 })))) ∧
  (∀ (s : State) (tn lid : Nat) (l : Launch), s.launch? tn lid = some l → l.pin = .done → l.skipped = [] → l.created < l.total →
    (l.gangSize = none → memberLives s l l.created = false → ∀ tid, freeRecords s l.die 1 = some [tid] →
      ∃ u k, exec (.taskEnumerate tn lid) s = .next u ∧ u.tasks = s.tasks ++ [k] ∧ k.tid = tid ∧ k.state = .ready ∧ k.lid = l.lid ∧
        k.tenant = l.tenant ∧ k.prio = l.prio ∧ k.leases = l.leases ∧ k.wid = widOf l.widw (tupleOf l.ext l.created) ∧
        (u.launch? tn lid).map (·.created) = some (l.created + 1)) ∧
    (∀ n tids, l.gangSize = some n → freeRecords s l.die n = some tids → tids.length = n →
      ∃ u ks, exec (.taskEnumerate tn lid) s = .next u ∧ u.tasks = s.tasks ++ ks ∧ ks.map (·.tid) = tids ∧
        (∀ k ∈ ks, k.state = .waitgang ∧ k.gang = some (l.created / n)) ∧ (u.launch? tn lid).map (·.created) = some (l.created + n)))

/-- R338, R339, R343, R349, R350, R355, R356: a dispatch makes the winning task RUNNING with its strands on the cluster, and leaves one whose octet
has room for it to a cluster there; a gang group becomes RUNNING in one step; a
pre-emption saves its victims READY at the head of their queue, their frames recording PRE (R433), and `yield` at the tail; `park` stops its task PARKED on a word with the
masked registers kept, none of which is poisoned, and the task is READY once the word is at least its value. -/
def Obligations.Scheduling : Prop :=
  (∀ (s : State) (c : Nat) (t : Task), nextFor s c = some t → t.gang = none → belongsElsewhere s t c = true →
    exec (.taskDispatch c) s = .next s) ∧
  (∀ (s : State) (c : Nat) (t : Task), nextFor s c = some t → t.gang = none → belongsElsewhere s t c = false →
    ∃ u k, exec (.taskDispatch c) s = .next u ∧ u.task? t.tid = some k ∧ k.state = .running ∧ k.started = true ∧
      ∀ x ∈ strandsOf u t.tid, x.cluster = c ∧ (x.wait = none ∨ x.wait = some (.wfi true)) ∧ x.resid ≠ .off) ∧
  (∀ (s : State) (c tn lid g : Nat) (t : Task) (ps : List (Task × Nat)) (i : Instr),
    (nextFor s c = some t ∧ t.gang = some g ∧ placeGroup s (groupOfTask s t) = some ps ∧ i = .taskDispatch c) ∨
      (let ts := s.tasks.filter (fun t => t.tenant == tn && t.lid == lid && t.gang == some g)
       ts.all (fun t => t.state == .waitgang) = true ∧ placeGroup s ts = some ps ∧ i = .gangAdmit tn lid g) →
    (ps.map (·.1.tid)).Nodup →
    ∃ u, exec i s = .next u ∧ ∀ p ∈ ps, (u.task? p.1.tid).map (·.state) = some .running ∧ ∀ x ∈ strandsOf u p.1.tid, x.cluster = p.2 ∧ x.resid ≠ .off) ∧
  (∀ (s : State) (tid : Nat) (t r : Task), s.task? tid = some t → r ∈ s.tasks → r.tenant = t.tenant → findsNone s r = true →
    (victimOf s r).map (·.tid) = some tid → t.state = .running →
    let ts := groupOfTask s t
    groupReady s ts (fun _ => false) = true → framesOk s ts = true →
    (∀ u ∈ ts, ∀ x ∈ strandsOf s u.tid, x.resid = .on → x.ctl.level = .u) →
    exec (.preempt tid) s = .next (saveGroup s ts true) ∧ ((saveGroup s ts true).task? tid).map (fun k => (k.state, k.cause)) = some (.ready, 0x0F) ∧
    ∀ x ∈ strandsOf (saveGroup s ts true) tid, x.resid ≠ .on) ∧
  (∀ (s : State) (t : Task), isTask s = true → taskOf s s.cpu = some t → t.state = .running →
    let ts := groupOfTask s t
    (canSave s ts = false → exec .yield s = .next (s.waitFor .yield)) ∧
    (canSave s ts = true → exec .yield s = .next (saveGroup (complete s) ts false) ∧
      ((saveGroup (complete s) ts false).task? t.tid).map (·.state) = some .ready)) ∧
  (∀ (s : State) (t : Task) (d a b : SReg) (va val mask : Word) (k : XOk), isTask s = true → taskOf s s.cpu = some t → s.cpu.resid = .on →
    (t.dual = true → (roleOf s s.cpu = .single ∨ [a, b, d].all (mayRead (roleOf s s.cpu)) = true) →
      exec (.park d a b) s = .next (takeTrapAt s 0x02 0x38 s.cpu.ctl.pc)) ∧
    (t.dual = false → readable s [a, b, d] none = some [va, val, mask] →
      let nums := (List.range 32).filter (fun i => i ≠ 0 ∧ mask.getLsbD i)
      mask.toNat < 2 ^ 32 → nums.length ≤ 16 → va.toNat % 8 = 0 → checkAccess s va 8 true false = .ok k →
      let others := (groupOfTask k.s t).filter (fun u => u.tid != t.tid)
      (∀ i ∈ nums, s.cpu.regs.sPoison.getLsbD i = false) → saveReady k.s k.s.cpu = true → released k.s k.s.cpu = true →
      groupReady k.s others (fun _ => false) = true → framesOk k.s others = true →
      ∃ u y, exec (.park d a b) s = .next u ∧ u.task? t.tid = some y ∧ y.state = .parked ∧ y.waddr = va ∧ y.wval = val ∧ y.watch = true ∧
        y.smask = mask ∧ y.sregs = nums.map (fun i => s.cpu.regs.s.toList.getD i 0) ∧ u.cpu.resid = .off ∧ u.cpu.ctl.pc = (complete s).cpu.ctl.pc)) ∧
  (∀ (s u : State) (tid v : Nat) (t : Task) (c : XCtx), s.task? tid = some t → t.state = .parked → t.watch = true → parkCtx s t = some c →
    watchWord s c t.waddr false = .ok (v, u) →
    (v < t.wval.toNat → exec (.parkWake tid) s = .next s) ∧
    (t.wval.toNat ≤ v → ∃ z y, exec (.parkWake tid) s = .next z ∧ z.task? tid = some y ∧ y.state = .ready ∧ y.watch = false))

/-- R351 to R353: `spawn` adds an entry to its strand's list, or raises STL when 32 stand there; `join` takes an entry of the list back and answers
1, and else waits while the frame's word is 0, answering 0 for 1 and 2 for more; a steal makes the oldest entry a READY task of the
victim's launch that begins at the entry with s1 = the frame.
R342, R348: `tend` of the A strand of a pair, its own elements settled and its own remote instructions over, stops that strand and nothing else; of any other strand, with its copies over and no
element FAULTED, it closes the merge contexts of the task's strands (R242), and with the rest of what it waits for over it ends the task, whose spawn entries become tasks; the word 1 goes to a spawned task's frame. A launch whose
tasks have all ended, and whose use of energy is known, completes. R357, R358: `prio` within its ceiling, and `wid`. -/
def Obligations.SpawningAndTaskEnds : Prop :=
  (let joins (o : Out) (z : State) (d a : SReg) : Prop :=
    ∀ va, readable z [a] (some d) = some [va] → va.toNat % 8 = 0 →
      (z.cpu.ext.steal.any (fun e => e.frame == va) = true →
        o = .next (retired (z.withExt (fun x => { x with steal := dropNewest va x.steal })) [a] d 1)) ∧
      (z.cpu.ext.steal.any (fun e => e.frame == va) = false → ∀ k, checkAccess (readAnew z) va 8 true false = .ok k →
        poisonedRead k.s k.s.cpu k.s.dev.nextUid k.loc 8 = false → k.s.cpu.mem.heldRead k.s.dev.nextUid k.loc 8 = false →
        let v := leNat (scalarBytes k.s k.s.cpu k.loc 8)
        (v = 0 → o = .next (k.s.waitFor (.join d a))) ∧
        (v ≠ 0 → o = .next (retired (dropStale k.s .device) [a] d (if v = 1 then 0 else 2))))
  (∀ (s : State) (t : Task) (a b : SReg) (x y : Word), isTask s = true → taskOf s s.cpu = some t → readable s [a, b] none = some [x, y] →
    (x.toNat % 8 ≠ 0 → exec (.spawn a b) s = .next (takeTrapAt s 0x03 x s.cpu.ctl.pc)) ∧
    (x.toNat % 8 = 0 → y.toNat % 4 ≠ 0 → exec (.spawn a b) s = .next (takeTrapAt s 0x03 y s.cpu.ctl.pc)) ∧
    (x.toNat % 8 = 0 → y.toNat % 4 = 0 → 32 ≤ s.cpu.ext.steal.length → exec (.spawn a b) s = .next (takeTrapAt s 0x0E x s.cpu.ctl.pc)) ∧
    (x.toNat % 8 = 0 → y.toNat % 4 = 0 → s.cpu.ext.steal.length < 32 → exec (.spawn a b) s = .next (retired0
      (s.withExt (fun e => { e with steal := e.steal ++ [⟨x, y, t.prio⟩] })) [a, b]))) ∧
  (∀ (s : State) (d a : SReg), isTask s = true → (taskOf s s.cpu).isSome = true → joins (exec (.join d a) s) s d a) ∧
  (∀ (s : State) (t : StrandId) (x : Strand) (d a : SReg), s.strand? t = some x → x.resid = .on → x.wait = some (.join d a) → issues s x.cluster = true →
    isTask (s.focus t) = true → (taskOf (s.focus t) (s.focus t).cpu).isSome = true → joins (exec (.joinWake t) s) (s.focus t) d a) ∧
  (∀ (s : State) (c tid : Nat) (t : StrandId) (x : Strand) (v : Task) (e : StealEnt) (rest : List StealEnt), s.strand? t = some x →
    taskOf s x = some v → x.ext.steal = e :: rest → stealable s v.tenant x = true → inPartition (s.ten v.tenant) c = true →
    (s.cluster c).resetting = false → nextFor s c = none → (residents s c).foldl (fun n u => n + ctxNeed u) 0 < 16 →
    (x.cluster / 8 = c / 8 ∨ ∀ y ∈ s.strands, stealable s v.tenant y = true → y.cluster / 8 ≠ c / 8) →
    freeRecords s (v.tid / 65536) 1 = some [tid] → s.strand? (.task tid false) = none →
    ∃ u y, exec (.steal c t) s = .next u ∧ u.tasks = s.tasks ++ [spawnedTask v x e tid] ∧ u.strand? (.task tid false) = some y ∧
      y.ctl.pc = e.entry ∧ y.ctl.level = .u ∧ y.regs.s[1] = e.frame ∧ (u.strand? t).map (·.ext.steal) = some rest)) ∧
  (let ends (o : Out) (z : State) : Prop :=
    ∀ (t : Task) (tids : List Nat) (w : State), isTask z = true → taskOf z z.cpu = some t → roleOf z z.cpu ≠ .a →
      let xs := strandsOf z t.tid
      let ys := strandsOf w t.tid
      let entries := ys.flatMap (fun x => x.ext.steal.map (fun e => (x, e)))
      (∀ x ∈ xs, divDone z x = true ∧ ∀ v ∈ vvals z x, v.holes = false) → hlfTend z t true = none → (∀ x ∈ xs, x.mem.rtrains = []) →
      z.cpu.ext.rfail = none → copiesOver z xs = true → closeAll (xs.map (·.id)) z = .ok w → tendWaits w ys = true →
      freeRecords w (t.tid / 65536) entries.length = some tids →
      ((∀ x ∈ xs, x.ext.merge = none) → w = z) ∧
      (t.kind ≠ .spawned → o = .next (endTask (materialiseAll w t entries tids) t.tid 0 0 0) ∧
        (entries = [] → ∀ u, o = .next u → ∀ y ∈ u.tasks, y.tid ≠ t.tid)) ∧
      (t.kind = .spawned → ∀ k, checkAccess w t.frame 8 false true = .ok k → isRemote k.loc = false →
        o = .next (endTask (materialiseAll (enterFor k.s k.loc (leBytes 8 1) .device .plain (some (t.tenant, t.lid))) t entries tids) t.tid 0 0 0))
  (∀ (s : State) (t : Task), isTask s = true → taskOf s s.cpu = some t → roleOf s s.cpu = .a →
    (divDone s s.cpu = true ∧ ∀ v ∈ vvals s s.cpu, v.holes = false) → ∀ h r, hlfTend s t false = h → s.cpu.ext.rfail = r →
    (∀ v, h = some v → exec .tend s = .next (takeTrapAt s 0x07 v s.cpu.ctl.pc)) ∧
    (h = none → s.cpu.mem.rtrains ≠ [] → exec .tend s = .next (s.waitFor .tend)) ∧
    (h = none → s.cpu.mem.rtrains = [] → r = none → ∃ u, exec .tend s = .next u ∧ u.cpu.resid = .ended ∧ u.cpu.wait = none ∧
      u.cpu.regs = s.cpu.regs ∧ u.cpu.ctl = s.cpu.ctl ∧ u.tasks = s.tasks ∧ (∀ id, id ≠ s.cpu.id → u.strand? id = s.strand? id) ∧ u.mem = s.mem ∧ u.log = s.log) ∧
    (h = none → s.cpu.mem.rtrains = [] → ∀ f, r = some f →
      exec .tend s = .next (takeTrapAt (s.withExt (fun e => { e with rfail := none })) f.cause f.va s.cpu.ctl.pc))) ∧
  (∀ s : State, ends (exec .tend s) s) ∧
  (∀ (s : State) (t : StrandId) (x : Strand), s.strand? t = some x → x.resid = .on → x.wait = some .tend → issues s x.cluster = true → ends (exec (.tendComplete t) s) (s.focus t)) ∧
  (∀ (s : State) (tn lid : Nat) (l : Launch), s.launch? tn lid = some l → l.tenant = tn → l.lid = lid →
    (launchOver s l = true → exec (.launchComplete tn lid) s = .next (completeLaunch s l) ∧ (completeLaunch s l).launch? tn lid = none) ∧
    (launchOver s l = false → exec (.launchComplete tn lid) s = .next s)) ∧
  (∀ (s : State) (t : Task) (a : SReg) (v : Word), isTask s = true → taskOf s s.cpu = some t → readable s [a] none = some [v] →
    let top := if s.cpu.ctl.level = .u then t.prioc else 127
    (v.toNat ≤ top → exec (.prio a) s = .next (retired0 (s.modTask t.tid (fun k => { k with prio := v.toNat })) [a])) ∧
    (top < v.toNat → exec (.prio a) s = .next (takeTrapAt s 0x02 (BitVec.ofNat 64 a.toNat) s.cpu.ctl.pc))) ∧
  (∀ (s : State) (t : Task) (d : SReg) (l : Level), isTask s = true → taskOf s s.cpu = some t → readable s [] (some d) = some [] →
    let width (j : Nat) : Nat := t.widw.toNat / 2 ^ (7 * j) % 128
    let below := (((List.range 6).filter (fun j => l.code < j)).map width).sum
    exec (.wid d l) s = .next (retired s [] d (BitVec.ofNat 64 (t.wid.toNat / 2 ^ below % 2 ^ width l.code)))))

/-- R344 to R347: `gsub` of an aligned header and records. Those that fail a check write the code of Table 17.6 with bit 63 set; else, with earlier writes of vis
≥ device and enough records, d takes the next graph id and the graph begins, with its nodes without predecessors released. A node that finishes counts
its successors down and releases those at 0; a failed node cancels the unreleased nodes reachable from it; with no node left the graph is complete. -/
def Obligations.Graphs : Prop :=
  let begins (o : Out) (u : State) (d _a : SReg) (h ws : List Word) : Prop :=
    ∀ recs, h.length = 8 → writesDone u u.cpu .device = true → freeRecords u (u.cpu.cluster / 64) (records ws).length = some recs →
      recs.length = (records ws).length →
      let tn := u.cpu.tenant
      ∃ t g, o = .next t ∧ t.graphs = u.graphs ++ [g] ∧ g.gid = (u.tenX tn).nextGid ∧ g.tenant = tn ∧ g.nodes.map (·.record) = recs ∧
        g.nodes.map (·.kind) = (records ws).map NodeRec.kind ∧ g.nodes.map (·.succ) = (records ws).map NodeRec.succs ∧
        (∀ n ∈ g.nodes, n.state = if n.pred = 0 then .released else .waiting) ∧ t.cpu.wait = none ∧ t.mem = u.mem ∧
        (NoPorts u → d ≠ 0 → sreg t d = BitVec.ofNat 64 (u.tenX tn).nextGid)
  (∀ (s : State) (d a : SReg) (va : Word) (h ws : List Word) (u v : State), isTask s = true → readable s [a] (some d) = some [va] → s.cpu.wait = none →
    va.toNat % 64 = 0 → readDwords s va (List.range 8) = .ok (h, u) → (h.getD 0 0).toNat % 64 = 0 →
    readDwords u (h.getD 0 0) (List.range (8 * ((h.getD 1 0).toNat % 65536))) = .ok (ws, v) →
    let code := graphCode h (records ws)
    (code ≠ 0 → exec (.gsub d a) s = .next (retired v [a] d (BitVec.ofNat 64 (2 ^ 63 + code)))) ∧
    (code = 0 → begins (exec (.gsub d a) s) v d a h ws)) ∧
  (∀ (s : State) (t : StrandId) (x : Strand) (d a : SReg) (va : Word) (h ws : List Word), s.strand? t = some x → x.resid = .on →
    x.wait = some (.gsubRecords d a (h ++ ws)) → issues s x.cluster = true → isTask (s.focus t) = true → readable (s.focus t) [a] (some d) = some [va] →
    begins (exec (.gsubAdmit t) s) (s.focus t) d a h ws) ∧
  (∀ (s : State) (tn gid i : Nat) (g : Graph) (n : Node), s.graph? tn gid = some g → g.tenant = tn → g.gid = gid → g.nodes[i]? = some n →
    (nodeDone s g n = true → ∃ u, exec (.nodeFinish tn gid i) s = .next u ∧
      ((finishNode g i).nodes.all Node.over = true → u.graph? tn gid = none) ∧
      ((finishNode g i).nodes.all Node.over = false → n.struck = false → ∃ g', u.graph? tn gid = some g' ∧
        (g'.nodes[i]?).map (·.state) = some .finished ∧
        ∀ j m, j ≠ i → g.nodes[j]? = some m →
          let k := (n.succ.filter (· == j)).length
          g'.nodes[j]? = some { m with pred := m.pred - k, state := if 0 < k ∧ m.pred ≤ k ∧ m.state = .waiting then .released else m.state })) ∧
    (n.state = .failing → ∃ u, exec (.nodeFail tn gid i) s = .next u ∧
      (∀ g', u.graph? tn gid = some g' → (g'.nodes[i]?).map (·.state) = some .failed ∧
        ∀ j m, j ≠ i → g.nodes[j]? = some m → g'.nodes[j]? = some (if j ∈ reach g.nodes i ∧ m.state = .waiting then { m with state := .cancelled } else m))))

/-- R364 to R375: `vane.arm` of good records arms every edge or none and reports its status, at once or when the wait of R371 is over; `vane.drop` drops
the edges of a range, one in a step, in ascending EID; `vret`, `lull` and `lull.n` requeue the member, its firing ending; a flip's message arrives in its turn; a released member with idles left
is released without a dispatch; an error freezes the group; `vane.rd` gives the words of Tables 18.2 and 18.3. Outside vane mode the member instructions are ILL. -/
def Obligations.VaneResults : Prop :=
  let arms (o : Out) (u : State) (d a b : SReg) (spec : Word) (ws : List Word) : Prop :=
    let tn := u.cpu.tenant
    let g := spec.toNat / 2 ^ 32 % 1024
    let es := (edgeRecords ws).map (edgeOf (u.cpu.cluster / 64) tn g)
    (∀ e ∈ es, ∀ t, member? u tn g e.from = some t → t.vane.firing = false) →
    let st := armStatus u tn g (u.cpu.cluster / 64) es
    o = .next (retired (if st = 0 then rejoin (u.withDev (fun x => { x with edges := x.edges ++ es })) tn g es else u) [a, b] d (BitVec.ofNat 64 st))
  (∀ (s : State) (d a b : SReg) (va spec : Word) (ws : List Word) (u : State), isTask s = true → readable s [a, b] (some d) = some [va, spec] →
    s.cpu.wait = none →
    let n := spec.toNat % 65536
    let bad := spec.toNat / 2 ^ 16 % 65536 ≠ 0 ∨ spec.toNat / 2 ^ 42 ≠ 0 ∨ n = 0 ∨ 1024 < n ∨ spec.toNat / 2 ^ 32 % 1024 = 0
    (bad → exec (.vaneArm d a b) s = .next (retired s [a, b] d 2)) ∧
    (¬ bad → va.toNat % 32 = 0 → readDwords s va (List.range (4 * n)) = .ok (ws, u) →
      badRecords (edgeRecords ws) ((edgeRecords ws).map (edgeOf 0 0 0)) = false → arms (exec (.vaneArm d a b) s) u d a b spec ws)) ∧
  (∀ (s : State) (t : StrandId) (x : Strand) (d a b : SReg) (va spec : Word) (ws : List Word), s.strand? t = some x → x.resid = .on →
    x.wait = some (.vaneArm d a b ws) → issues s x.cluster = true → isTask (s.focus t) = true → readable (s.focus t) [a, b] (some d) = some [va, spec] →
    arms (exec (.vaneArmCommit t) s) (s.focus t) d a b spec ws) ∧
  (∀ (s : State) (a b : SReg) (x y : Word), isTask s = true → readable s [a, b] none = some [x, y] →
    x.toNat / 2 ^ 16 % 65536 = 0 → x.toNat / 2 ^ 42 = 0 → x.toNat / 2 ^ 32 % 1024 ≠ 0 → 0 < y.toNat → y.toNat ≤ 65536 →
    let g := x.toNat / 2 ^ 32 % 1024
    let last := x.toNat % 65536 + y.toNat
    ∀ lo, (s.cpu.wait = none ∧ lo = x.toNat % 65536 ∨ ∃ p q, s.cpu.wait = some (.vaneDrop p q lo)) →
    let own (u : State) (n : Nat) (e : Edge) : Prop := e ∈ u.dev.edges ∧ e.tenant = s.cpu.tenant ∧ e.group = g ∧ n ≤ e.eid ∧ e.eid < last
    ((∀ e, ¬ own s lo e) → exec (.vaneDrop a b) s = .next (retired0 s [a, b])) ∧
    (∀ e, own s lo e → (∀ f, own s lo f → e.eid ≤ f.eid) →
      let u := dropWhere s (fun f => f.tenant == s.cpu.tenant && f.group == g && f.eid == e.eid)
      ((∀ f, ¬ own u (e.eid + 1) f) → exec (.vaneDrop a b) s = .next (retired0 u [a, b])) ∧
      ((∃ f, own u (e.eid + 1) f) → exec (.vaneDrop a b) s = .next (u.waitFor (.vaneDrop a b (e.eid + 1)))))) ∧
  (∀ (s : State) (t : Task) (a : SReg) (k : Fin 3) (n : Word), isTask s = true → taskOf s s.cpu = some t →
    let i : Instr := if k = 0 then .vret else if k = 1 then .lull else .lullN a
    let rs : List SReg := if k = 2 then [a] else []
    (t.vane.group = 0 → ∃ w, exec i s = .next (takeTrapAt s 0x01 w s.cpu.ctl.pc)) ∧
    (t.vane.group ≠ 0 → readable s rs none = some (if k = 2 then [n] else []) → n.toNat ≤ 65535 → t.state = .running →
      let u := if k = 2 then s.modTask t.tid (fun y => { y with vane := { y.vane with ln := n.toNat } }) else s
      let xs := strandsOf u t.tid
      (∀ x ∈ xs, divDone u x = true ∧ ∀ v ∈ vvals u x, v.holes = false) → hlfTend u t true = none → (∀ x ∈ xs, x.mem.rtrains = []) →
      u.cpu.ext.rfail = none →
      copiesOver u xs = true → canSave u [t] = true →
      ∃ z y, exec i s = .next z ∧ z.task? t.tid = some y ∧ y.state = .ready ∧ y.vane.ending = true ∧ y.vane.idles = decide (k ≠ 0) ∧
        y.vane.ln = (if k = 2 then n.toNat else t.vane.ln) ∧ ∀ x ∈ strandsOf z t.tid, x.resid ≠ .on)) ∧
  (∀ (s : State) (k : Nat) (m : FlipMsg), s.dev.flips[k]? = some m →
    (∀ x ∈ s.dev.flips.take k, x.src ≠ m.src ∧ ¬ (x.tenant = m.tenant ∧ x.group = m.group ∧ x.eid = m.eid)) →
    exec (.flipMessage k) s = .next (s.withDev (fun d => { d with flips := d.flips.eraseIdx k }))) ∧
  (∀ (s : State) (tid : Nat) (t : Task), s.task? tid = some t → t.state = .ready → t.vane.group ≠ 0 → t.vane.firing = false → t.vane.ending = false →
    0 < t.vane.ln → isClear s t = true → frozen s t = false →
    ∃ u y, exec (.idlePass tid) s = .next u ∧ u.task? tid = some y ∧ y.vane.ln = t.vane.ln - 1 ∧ y.vane.idle = (t.vane.idle + 1) % 65536 ∧
      y.vane.fire = (t.vane.fire + 1) % 65536 ∧ y.state = .ready) ∧
  (∀ (s : State) (die tn g eid : Nat) (e : Edge), e ∈ s.dev.edges → e.die = die → e.tenant = tn → e.group = g → e.eid = eid →
    ∃ u, exec (.edgeStoreError die tn g eid) s = .next u ∧ (u.tenX tn).frozen.contains g = true) ∧
  (∀ (s : State) (t : Task) (d a : SReg) (x : Word), isTask s = true → taskOf s s.cpu = some t → t.vane.group ≠ 0 →
    readable s [a] (some d) = some [x] →
    (x.toNat < 65536 → ∀ e, edge? s t.tenant t.vane.group x.toNat = some e →
      exec (.vaneRd d a) s = .next (retired s [a] d (BitVec.ofNat 64
        (e.to + 2 ^ 32 + (if e.to = t.wid.toNat % 2 ^ 32 then 2 ^ 33 else 0) + e.tile * 2 ^ 48)))) ∧
    (x.toNat < 65536 → edge? s t.tenant t.vane.group x.toNat = none → exec (.vaneRd d a) s = .next (retired s [a] d 0)) ∧
    (x.toNat = 65536 → exec (.vaneRd d a) s = .next (retired s [a] d (BitVec.ofNat 64
      (t.vane.fire % 65536 + t.vane.idle % 65536 * 65536 + (edgesOf s t).length * 2 ^ 40 + t.vane.ln * 2 ^ 48)))) ∧
    (65536 < x.toNat → exec (.vaneRd d a) s = .next (takeTrapAt s 0x02 (BitVec.ofNat 64 a.toNat) s.cpu.ctl.pc)))

/-- R379 to R391: the settings in force on a cluster are never looser than every request on it allows, at once after a change of a request. A VDMAP write
makes the clusters whose code changes switch, each once it is quiet; TCTL is a request once applied; a slew step, of a control held for 1 µs, loosens VLN, LSU and ISS by 1 and FRQ
by 4 at most; once in an interval a tenant above its budget steps once more, and one at 95% or below steps back; PMEAS is the mean power of a 1 ms
window as a whole number of watts: that the event's operand may be either whole number beside the mean is the model's choice, log entry 43, for
R387 gives no rounding; trips hold VLN and FRQ at 0, and an overcurrent trip stays for 100 µs at least. -/
def Obligations.PowerSettings : Prop :=
  let within (t : State) (c : Nat) : Prop :=
    let e := (t.cluster c).eff
    let a := allowed t (t.cluster c)
    e.vln ≤ a.vln ∧ a.lsu ≤ e.lsu ∧ a.iss ≤ e.iss ∧ e.frq ≤ a.frq
  let tripped (t : State) (c : Nat) : Prop := (t.cluster c).eff.vln = 0 ∧ 4 ≤ (t.cluster c).eff.lsu ∧ 12 ≤ (t.cluster c).eff.iss ∧ (t.cluster c).eff.frq = 0
  (∀ (s : State) (n : Nat) (v : Word), n < 4 → ∃ t, exec (.vdmapWrite n v) s = .next t ∧ t.dev.h.vdmap.toList.getD n 0 = v ∧
    ∀ c, if c / 32 = n ∧ vdCode t.dev.h c ≠ (s.cluster c).vr then (t.cluster c).switching = true else t.cluster c = s.cluster c) ∧
  (∀ (s : State) (c : Nat), (s.cluster c).switching = true →
    (clusterQuiet s c = false → exec (.domainSwitch c) s = .next s) ∧
    (clusterQuiet s c = true → ∃ t, exec (.domainSwitch c) s = .next t ∧ (t.cluster c).switching = false ∧
      (t.cluster c).vr = vdCode s.dev.h c ∧ (t.cluster c).cur = s.dev.m.vrTrip.contains (vdCode s.dev.h c) ∧ within t c)) ∧
  (∀ (s : State) (c : Nat), ∃ t, exec (.clockChange c) s = .next t ∧ (t.cluster c).clock = (s.cluster c).eff.frq ∧ (t.cluster c).eff = (s.cluster c).eff) ∧
  (∀ (s : State) (c : Nat) (v : Word),
    let bad := bitsOf v 23 21 = 2 ∨ 5 ≤ bitsOf v 23 21 ∨ 40 < bitsOf v 17 12 ∨ 12 < bitsOf v 11 8 ∨ 4 < bitsOf v 6 4
    (bad → exec (.tctlWrite c v) s = .next s) ∧
    (¬ bad → ∃ t, exec (.tctlWrite c v) s = .next t ∧ (t.cluster c).tctl = v &&& 0xE3FF77#64 ∧ (t.cluster c).tctlOn = (s.cluster c).tctlOn)) ∧
  (∀ (s : State) (c : Nat), ∃ t, exec (.tctlApply c) s = .next t ∧ (t.cluster c).tctlOn = (s.cluster c).tctl ∧ within t c) ∧
  (∀ (s : State) (c : Nat), within s c →
    let e := (s.cluster c).eff
    let a := allowed s (s.cluster c)
    let h := (s.cluster c).held
    (h.vln < 1000 → h.lsu < 1000 → h.iss < 1000 → h.frq < 1000 → exec (.slewStep c) s = .next s) ∧
    (1000 ≤ h.vln ∨ 1000 ≤ h.lsu ∨ 1000 ≤ h.iss ∨ 1000 ≤ h.frq → ∃ t, exec (.slewStep c) s = .next t ∧ within t c ∧
      (t.cluster c).eff = ⟨if 1000 ≤ h.vln then min a.vln (e.vln + 1) else e.vln, if 1000 ≤ h.lsu then max a.lsu (e.lsu - 1) else e.lsu,
        if 1000 ≤ h.iss then max a.iss (e.iss - 1) else e.iss, if 1000 ≤ h.frq then min a.frq (e.frq + 4) else e.frq⟩)) ∧
  (∀ (s : State) (tn : Nat),
    let x := s.tenX tn
    (x.budgetDue = false → exec (.budgetInterval tn) s = .next s) ∧
    (x.budgetDue = true → ∃ t, exec (.budgetInterval tn) s = .next t ∧ (t.tenX tn).budgetDue = false ∧ (∀ c ∈ clustersOf (s.ten tn), within t c) ∧
      (t.tenX tn).steps = if x.budget = 0 then x.steps else if x.budget < x.pmeas then min 27 (x.steps + 1)
        else if 100 * x.pmeas ≤ 95 * x.budget then x.steps - 1 else x.steps)) ∧
  (∀ (s : State) (tn : Nat),
    ((s.tenX tn).window = none ∨ s.dev.windows ≠ [] → ∀ w, exec (.pmeasWindow tn w) s = .next s) ∧
    (∀ nj w, (s.tenX tn).window = some nj → s.dev.windows = [] → nj ≤ 65535 * 10 ^ 6 →
      if 10 ^ 6 * w < nj + 10 ^ 6 ∧ nj < 10 ^ 6 * (w + 1) then
        ∃ t, exec (.pmeasWindow tn w) s = .next t ∧ (t.tenX tn).window = none ∧ (t.tenX tn).pmeas = w ∧ (t.tenX tn).steps = (s.tenX tn).steps
      else exec (.pmeasWindow tn w) s = .next s)) ∧
  (∀ (s : State) (tn w : Nat), ∃ t, exec (.pbudWrite tn w) s = .next t ∧ (t.tenX tn).budget = w % 65536 ∧
    (t.tenX tn).steps = (if w % 65536 = 0 then 0 else (s.tenX tn).steps) ∧ ∀ c ∈ clustersOf (s.ten tn), within t c) ∧
  (∀ (s : State) (vr : Nat), ∃ t, exec (.overcurrentTrip vr) s = .next t ∧ vr ∈ t.dev.m.vrTrip ∧ (vr, s.dev.time) ∈ t.dev.m.vrAt ∧
    ∀ c, c < 128 → within t c ∧ if (s.cluster c).vr = vr then (t.cluster c).cur = true ∧ tripped t c else (t.cluster c).cur = (s.cluster c).cur) ∧
  (∀ (s : State) (vr : Nat),
    let lately := ∃ x ∈ s.dev.m.vrAt, x.1 = vr ∧ s.dev.time < x.2 + 100000
    (lately → exec (.overcurrentClear vr) s = .next s) ∧
    (¬ lately → ∃ t, exec (.overcurrentClear vr) s = .next t ∧ vr ∉ t.dev.m.vrTrip ∧
      ∀ c, c < 128 → within t c ∧ (t.cluster c).cur = if (s.cluster c).vr = vr then false else (s.cluster c).cur)) ∧
  (∀ (s : State) (k : Nat) (temp : BitVec 16), (∃ x, s.dev.m.sensors.find? (fun x => x.num == k) = some x ∧ s.dev.time < x.at' + 100000) →
    exec (.sensorSample k temp) s = .next s) ∧
  (∀ (s : State) (k : Nat) (temp : BitVec 16), k < 64 → (∀ x, s.dev.m.sensors.find? (fun x => x.num == k) = some x → x.at' + 100000 ≤ s.dev.time) →
    ∃ t, exec (.sensorSample k temp) s = .next t ∧
    t.dev.m.sensors.find? (fun x => x.num == k) = some ⟨k, true, temp, s.dev.time⟩ ∧
    (∀ j, j < 64 → t.dev.m.tap.getLsbD j = (s.dev.m.tap.getLsbD j || (j == k && decide (s.dev.m.talrt.toInt ≤ temp.toInt)))) ∧
    ∀ c, c / 2 = k → within t c ∧ (t.cluster c).thm = (if 16 * 115 ≤ temp.toInt then true else if temp.toInt < 16 * 105 then false else (s.cluster c).thm) ∧
      ((t.cluster c).thm = true → tripped t c))

/-- R389, R390, R392, R394, R395: the watchdog warns after 8 ms and puts the safe grant in force after 10 ms, which a write takes back; MTICK counts a period; UPD
puts the safe grant in force; the management core takes its lowest pending enabled interrupt. The power status word is written once it is due, with SEQ counted
up, and FAIL tells of a write that could not be made. The energy of a regulator's window is shared among its clusters by activity, and a cluster's among
its resident strands, each by 1 and what it issued (the rounding is the model's choice, log entry 43). -/
def Obligations.PowerMonitors : Prop :=
  let safe (t : State) : Prop := ∀ c, c < 128 → (t.cluster c).eff.vln ≤ 3 ∧ (t.cluster c).eff.frq ≤ 16
  (∀ s : State, ∃ t, exec .wdogWrite s = .next t ∧ t.dev.m.wdogUs = 0 ∧ t.dev.m.wdogOn = true ∧ t.dev.m.wdogExpired = false ∧
    t.dev.m.mip.getLsbD 1 = false ∧ t.dev.m.mip.getLsbD 0 = s.dev.m.mip.getLsbD 0) ∧
  (∀ s : State, s.dev.m.wdogOn = true → s.dev.m.wdogWarned = false →
    (8000 ≤ s.dev.m.wdogUs → ∃ t, exec .watchdogWarning s = .next t ∧ t.dev.m.mip.getLsbD 1 = true ∧ t.dev.m.wdogUs = s.dev.m.wdogUs) ∧
    (s.dev.m.wdogUs < 8000 → exec .watchdogWarning s = .next s)) ∧
  (∀ s : State, s.dev.m.wdogOn = true →
    (10000 ≤ s.dev.m.wdogUs → ∃ t, exec .watchdogExpire s = .next t ∧ t.dev.m.wdogExpired = true ∧ safe t) ∧
    (s.dev.m.wdogUs < 10000 → exec .watchdogExpire s = .next s)) ∧
  (∀ s : State, s.dev.m.mtick ≠ 0 →
    (s.dev.m.mtick.toNat ≤ s.dev.m.tickUs → ∃ t, exec .mtickTick s = .next t ∧ t.dev.m.mip.getLsbD 0 = true ∧
      t.dev.m.tickUs = s.dev.m.tickUs - s.dev.m.mtick.toNat) ∧
    (s.dev.m.tickUs < s.dev.m.mtick.toNat → exec .mtickTick s = .next s)) ∧
  (∀ (s : State) (v : Word), ∃ t, exec (.pctlWrite v) s = .next t ∧ t.dev.m.upd = v.getLsbD 0 ∧ (v.getLsbD 0 = true → safe t)) ∧
  (∀ (s : State) (b : Nat),
    let z := s.focus .mgmt
    let due (j : Nat) : Prop := (mipBits z.dev.m).testBit j = true ∧ z.dev.m.mie.getLsbD j = true
    z.cpu.id = .mgmt → z.cpu.resid = .on → z.cpu.wait = none → z.cpu.trap.tstatus.getLsbD 0 = true → due b → (∀ j, j < b → ¬ due j) →
    exec .mInterrupt s = .next (takeTrapAt z 0x10 (BitVec.ofNat 64 b) z.cpu.ctl.pc)) ∧
  (∀ (s : State) (tn : Nat), (s.tenX tn).pswDue.isSome = true → pswOpen s (s.tenX tn) = true →
    ((s.tenX tn).pswMig.1 = 0 ∨ rereads s (s.tenX tn).pswMig.2 = true) →
    let a := (s.ten tn).pswa.toNat % 2 ^ 57 / 8 * 8
    (a = 0 → ∃ t, exec (.pswWrite tn) s = .next t ∧ (t.tenX tn).pswDue = none ∧ t.mem = s.mem ∧ t.ten tn = s.ten tn) ∧
    (a ≠ 0 →
      let seq := (s.ten tn).pswSeq + 1
      (∀ c l u, rootCtx s tn = some c → machineLoc s c (BitVec.ofNat 64 a) true = .ok (l, u) →
        let w := enterWide u l (leBytes 8 (pswWord u (s.ten tn) seq))
        ∃ t, exec (.pswWrite tn) s = .next t ∧ t.mem = w.mem ∧ t.log = w.log ∧ (u.ten tn = s.ten tn → (t.ten tn).pswSeq = seq)) ∧
      (∀ c, rootCtx s tn = some c → machineLoc s c (BitVec.ofNat 64 a) true = .error true → (s.tenX tn).pswMig.1 < 64 →
        ∃ t, exec (.pswWrite tn) s = .next t ∧ t.mem = s.mem ∧ t.log = s.log ∧ t.ten tn = s.ten tn ∧ (t.tenX tn).pswDue = (s.tenX tn).pswDue) ∧
      (rootCtx s tn = none ∨ (∃ c m, rootCtx s tn = some c ∧ machineLoc s c (BitVec.ofNat 64 a) true = .error m ∧ (m = false ∨ 64 ≤ (s.tenX tn).pswMig.1)) →
        ∃ t, exec (.pswWrite tn) s = .next t ∧ t.mem = s.mem ∧ t.log = s.log ∧ (t.ten tn).pswa.getLsbD 0 = true))) ∧
  (∀ (s : State) (tn : Nat) (v : Word), ∃ t, exec (.pswaWrite tn v) s = .next t ∧ (t.ten tn).pswSeq = 0 ∧
    (t.ten tn).pswa.toNat % 2 ^ 57 / 8 = v.toNat % 2 ^ 57 / 8 ∧ (t.ten tn).pswa.getLsbD 0 = ((s.ten tn).pswa.getLsbD 0 && !v.getLsbD 0)) ∧
  (∀ (s : State) (vr nj : Nat), vr ∉ s.dev.windows → exec (.energyWindow vr nj) s = .next s) ∧
  (∀ (s : State) (vr nj : Nat), vr ∈ s.dev.windows → (s.strands.map (·.id)).Nodup → (∀ c, (s.cluster c).left = []) →
    let here (c : Nat) : List Strand := s.strands.filter (fun x => x.cluster == c && x.resid == .on && (tidOf x.id).isSome)
    let act (c : Nat) : Nat := ((here c).map (·.usage.issued)).sum
    let all := ((allClusters.filter (fun c => (s.cluster c).vr == vr)).map act).sum
    let gets (x : Strand) : Bool := decide (x.cluster < 128) && (s.cluster x.cluster).vr == vr && x.resid == .on && (tidOf x.id).isSome
    let part (x : Strand) : Nat := nj * act x.cluster / all * (1 + x.usage.issued) / ((here x.cluster).map (fun y => 1 + y.usage.issued)).sum
    0 < all → ∃ t, exec (.energyWindow vr nj) s = .next t ∧ vr ∉ t.dev.windows ∧ t.strands.map (·.id) = s.strands.map (·.id) ∧
      t.strands.map (·.usage.energy) = s.strands.map (fun x => x.usage.energy + if gets x then part x else 0))

/-- R415, R416, R413: `tlbinv` waits for the strand's scalar stores, then starts the removal of the translations of Table 22.6 that its kind, VMID, ASID, page
and address name, and completes; `tlbsync` waits until the strand's removals have taken full effect; HINV starts one for any VMID and is idle
again once its removals have. A walk that waits on a MIG leaf reads it once more after 1 µs. -/
def Obligations.Invalidation : Prop :=
  let mark (hit : TlbEnt → Bool) (s : State) : State := { s with tlb := s.tlb.map (fun e => if hit e then { e with dying := true } else e) }
  let numbers (hit : TlbEnt → Bool) (s : State) : List Nat := (s.tlb.filter hit).map (·.id)
  let inv (hit : TlbEnt → Bool) (s : State) (rs : List SReg) : Out :=
    .next (retired0 ((mark hit s).withMem (fun m => { m with invs := m.invs ++ numbers hit s })) rs)
  let byIpa (vmid a : Nat) (all : Bool) (e : TlbEnt) : Bool := e.vmid == vmid && (all || decide (e.s2size ≠ 0 ∧ e.ipa ≤ a ∧ a < e.ipa + e.s2size))
  let asidOf (v : Word) : Nat := v.toNat % 65536
  let syncs (o : Out) (z : State) : Prop := z.cpu.ctl.level ≠ .u →
    ((∀ i ∈ z.cpu.mem.invs, removed z i = true) → o = .next (complete (z.withMem (fun m => { m with invs := [] })))) ∧
    ((∃ i ∈ z.cpu.mem.invs, removed z i = false) → o = .next (z.waitFor .tlbsync))
  (∀ (s : State) (d a : SReg) (va vd : Word), isTask s = true → s.cpu.ctl.level ≠ .u → scalarDone s s.cpu .device none = true →
    let vm := (s.ten s.cpu.tenant).vmid
    (readable s [a, d] none = some [va, vd] →
      let hit (e : TlbEnt) : Bool := e.vmid == vm && e.s1size != 0 && (e.glob || e.asid == asidOf vd) &&
        decide (e.va / e.s1size = va.toNat / e.s1size)
      exec (.tlbinvVa d a) s = inv hit s [a, d]) ∧
    (readable s [d] none = some [vd] →
      exec (.tlbinvAsid d) s = inv (fun e => e.vmid == vm && !e.glob && e.asid == asidOf vd) s [d]) ∧
    exec .tlbinvVmid s = inv (fun e => e.vmid == vm) s []) ∧
  (∀ (s : State) (d a : SReg) (va vd : Word), s.cpu.ctl.level = .h ∨ s.cpu.ctl.level = .m → scalarDone s s.cpu .device none = true →
    readable s [a, d] none = some [va, vd] → exec (.tlbinvIpa d a) s = inv (byIpa (vd.toNat % 256) va.toNat (vd.getLsbD 8)) s [a, d]) ∧
  (∀ (s : State) (d a : SReg), s.cpu.ctl.level ≠ .u → scalarDone s s.cpu .device none = false →
    exec .tlbinvVmid s = .next (s.waitFor (.tlbinv 2 0 0)) ∧ ((readable s [d] none).isSome → exec (.tlbinvAsid d) s = .next (s.waitFor (.tlbinv 1 d 0))) ∧
    ((readable s [a, d] none).isSome → exec (.tlbinvVa d a) s = .next (s.waitFor (.tlbinv 0 d a)))) ∧
  (∀ s : State, syncs (exec .tlbsync s) s) ∧
  (∀ (s : State) (t : StrandId) (x : Strand), s.strand? t = some x → x.resid = .on → issues s x.cluster = true → x.wait = some .tlbsync →
    syncs (exec (.tlbsyncComplete t) s) (s.focus t)) ∧
  (∀ (s : State) (t : StrandId) (x : Strand) (p n at' : Nat) (vain : List Nat), s.strand? t = some x → x.wait = some (.mig p n at' vain) →
    (s.dev.time < at' + 1000 → exec (.migRetry t) s = .next s) ∧
    (at' + 1000 ≤ s.dev.time → ∃ u, exec (.migRetry t) s = .next u ∧ u.strand? t = some { x with wait := some (.mig p (n + 1) s.dev.time vain) })) ∧
  (∀ (s : State) (v : Word),
    let bad := v.toNat / 2 ^ 61 ≠ 0 ∨ v.toNat % 4096 ≠ 0
    (bad → exec (.hinvWrite v) s = .next s) ∧
    (¬ bad →
      let hit := byIpa (v.toNat / 2 ^ 52 % 256) (v.toNat / 4096 % 2 ^ 40 * 4096) (v.getLsbD 60)
      exec (.hinvWrite v) s = .next ((mark hit s).withH (fun h => { h with hinvs := h.hinvs ++ numbers hit s })))) ∧
  (∀ s : State, ((∀ i ∈ s.dev.h.hinvs, removed s i = true) → exec .hinvDone s = .next (s.withH (fun h => { h with hinvs := [] }))) ∧
    ((∃ i ∈ s.dev.h.hinvs, removed s i = false) → exec .hinvDone s = .next s))

/-- R404, R406, R408 to R410, R419, R420, R422: `intr` sends the message of entry 64 × tenant + v, or leaves it pending while the entry is masked, and unmasking one sends it.
A port's read takes a free HSEM for 100 ms; its writes reach a register only while it owns HSEM; a memory window that would overlap another tenant's is not written;
the route table is read where RTBASE says; CXL.mem reads, in its port's range, what is visible to the host, with its poison; each line of the range is one of HBM and BKM, and each
of those is at one. A measurement is a digest, and slot 0 alone has a chain.
These are the model's choices: an entry never programmed is masked (log entry 5); HSEM is written by either port, and a release by one that does not own it does nothing (log entry 42);
with RTBASE.EN = 0 there are no routes (log entry 41); a port has no range before its decoder is programmed (log entry 62); the codes of SPDM's messages and errors (log entry 23). -/
def Obligations.HostAccess : Prop :=
  let sends (s t : State) (m : OutMsg) : Prop := t.dev.out = s.dev.out ++ [m]
  let own (p : Port) : Nat := match p with | .hpa => 1 | .hpb => 2
  (∀ (s : State) (p : BitVec 1) (v : BitVec 6), isTask s = true → s.cpu.ctl.level ≠ .u →
    let port : Port := if p = 0 then .hpa else .hpb
    let n := 64 * s.cpu.tenant + v.toNat
    let ent := s.dev.msix.find? (fun e => e.port == port && e.num == n)
    (writesDone s s.cpu .system = false → exec (.intr p v) s = .next (s.waitFor (.intr p v))) ∧
    (writesDone s s.cpu .system = true → ∃ t, exec (.intr p v) s = .next t ∧ t.cpu = (complete s).cpu ∧
      (∀ e, ent = some e → e.masked = false → sends s t (.msix port n e.addr e.data)) ∧
      (ent.all (·.masked) = true → t.dev.out = s.dev.out ∧ (t.dev.msix.find? (fun e => e.port == port && e.num == n)).map (·.pending) = some true))) ∧
  (∀ (s : State) (p : Port) (n : Nat) (addr : Word) (data : BitVec 32) (mask : Bool), n < 2048 →
    let pend := (s.dev.msix.find? (fun e => e.port == p && e.num == n)).any (·.pending)
    ∃ t, exec (.msixTableWrite p n addr data mask) s = .next t ∧
      t.dev.msix.find? (fun e => e.port == p && e.num == n) = some ⟨p, n, addr, data, mask, pend && mask⟩ ∧
      if pend && !mask then sends s t (.msix p n addr data) else t.dev.out = s.dev.out) ∧
  (∀ (s : State) (p : Port),
    let h := s.dev.h.hsem
    let o := if h.rem = 0 then 0 else h.owner
    (o = 0 ∨ o = own p → ∃ t v, exec (.hsemRead p) s = .next t ∧ t.dev.h.hsem = { h with owner := own p, rem := 100000 } ∧
      sends s t (.hostRead p v) ∧ v.getLsbD 63 = true ∧ v.toNat % 4 = own p) ∧
    (o ≠ 0 → o ≠ own p → ∃ t v, exec (.hsemRead p) s = .next t ∧ t.dev.h = s.dev.h ∧ sends s t (.hostRead p v) ∧ (o < 4 → v.getLsbD 63 = false ∧ v.toNat % 4 = o)) ∧
    exec (.hsemRelease p) s = .next (if o = own p then s.withH (fun c => { c with hsem := { h with owner := 0 } }) else s)) ∧
  (∀ s : State, (s.dev.h.hsem.rem = 0 → ∃ t, exec .hsemLapse s = .next t ∧ t.dev.h.hsem.owner = 0) ∧ (s.dev.h.hsem.rem ≠ 0 → exec .hsemLapse s = .next s)) ∧
  (∀ (s : State) (p : Port) (off size : Nat),
    let n := 0x200 + off / 8
    let ok := size = 8 ∧ off % 8 = 0 ∧ n < 0x300 ∧ csrAssigned n = true
    let o := if s.dev.h.hsem.rem = 0 then 0 else s.dev.h.hsem.owner
    (¬ ok → (∀ v, exec (.hostCsrAccess p off size (some v)) s = .next s) ∧
      ∃ t, exec (.hostCsrAccess p off size none) s = .next t ∧ sends s t (.hostRead p (BitVec.ofNat 64 (2 ^ (8 * size) - 1)))) ∧
    (ok → n ≠ 0x200 → (∃ t, exec (.hostCsrAccess p off size none) s = .next t ∧ sends s t (.hostRead p (readH s n)) ∧ t.dev.h = s.dev.h) ∧
      ∀ v, (o = own p → exec (.hostCsrAccess p off size (some v)) s = .next (writeH s n v)) ∧
        (o ≠ own p → ∃ t, exec (.hostCsrAccess p off size (some v)) s = .next t ∧
          t.dev.h.hsem = match p with | .hpa => { s.dev.h.hsem with discA := true } | .hpb => { s.dev.h.hsem with discB := true }))) ∧
  (∀ (s : State) (tn k : Nat) (len : Bool) (v : Word), tn < 32 → k < 16 →
    let old := (s.ten tn).mws.getD k (0, 0)
    let field : Word := BitVec.ofNat 64 (v.toNat / 2 ^ 21 % 2 ^ 31 * 2 ^ 21)
    let new : Word × Word := if len then (old.1, field) else (field + BitVec.ofNat 64 (v.toNat % 4), old.2)
    let clash := ∃ u ∈ s.tenants, u.en = true ∧ u.num ≠ tn ∧ ∃ w ∈ u.mws, ∃ x n p y m q,
      mwRange new = some (x, n, p) ∧ mwRange w = some (y, m, q) ∧ x < y + m ∧ y < x + n ∧ ¬ (p = true ∧ q = true)
    (clash → exec (.memoryWindowWrite tn k len v) s = .next s) ∧
    (¬ clash → ∃ t, exec (.memoryWindowWrite tn k len v) s = .next t ∧ (t.ten tn).mws = (s.ten tn).mws.set k new)) ∧
  (∀ (s : State) (v : Word), ∃ t, exec (.rtbaseWrite v) s = .next t ∧ t.dev.h.rtbase.toNat = v.toNat / 4096 % 2 ^ 40 * 4096 + v.toNat % 2 ∧
    (v.getLsbD 0 = false → t.dev.routes = []) ∧
    (v.getLsbD 0 = true → t.dev.routes.length = 128 ∧ ∀ i, i < 128 → ∀ r, t.dev.routes[i]? = some r →
      r.dev + (if r.valid then 65536 else 0) = leNat (memBytes s .device (.dev (v.toNat / 4096 % 2 ^ 40 * 4096 + 32 * i)) 8) % 2 ^ 17)) ∧
  (∀ (s : State) (p : Port) (base : Nat), ∃ t, execHdm p base s = .next t ∧ t.dev.hdm.find? (fun x => x.1 == p) = some (p, base) ∧
    t.mem = s.mem ∧ t.dev.out = s.dev.out) ∧
  (∀ (s : State) (p : Port) (hpa n : Nat) (bs : List Byte),
    let base := (s.dev.hdm.find? (fun x => x.1 == p)).map (·.2)
    let inside (k : Nat) : Prop := ∃ b, base = some b ∧ b ≤ hpa ∧ hpa + k ≤ b + 64 * Config.deviceLines
    (¬ inside n → exec (.cxlMemAccess p hpa n none) s = .next s) ∧ (¬ inside bs.length → exec (.cxlMemAccess p hpa n (some bs)) s = .next s) ∧
    (∀ b a, base = some b → inside n → hdmAddr (hpa - b) = some a → (hpa - b) % 64 + n ≤ 64 → 0 < n →
      (∃ t, exec (.cxlMemAccess p hpa n none) s = .next t ∧ sends s t (.memData p (hostBytes s (.dev a) n) (hostPoisoned s (.dev a) n)) ∧ t.mem = s.mem) ∧
      (n = bs.length → ∃ t, exec (.cxlMemAccess p hpa n (some bs)) s = .next t ∧ lastBytes t (.dev a) n = bs ∧ t.dev.out = s.dev.out))) ∧
  ((∀ o, (hdmAddr o).isSome = true ↔ o < 64 * Config.deviceLines) ∧ (∀ o q a, hdmAddr o = some a → hdmAddr q = some a → o = q) ∧
    ∀ l : Fin (2 ^ 46), l.val < Config.deviceLines → ∃ o, hdmAddr o = some (64 * (Config.memLine l).val)) ∧
  (∀ (s : State) (p : Port) (slot off len idx nonce : Nat),
    let answers (o : Out) (code : Nat) (fs : List SpdmFact) : Prop := ∃ t body, o = .next t ∧ sends s t (.spdm p code fs body) ∧ t.mem = s.mem ∧ t.cpu = s.cpu
    let refuses (o : Out) (code data : Nat) : Prop := ∃ t, o = .next t ∧ sends s t (.spdm p 0x7F [] [code, data]) ∧ t.mem = s.mem ∧ t.cpu = s.cpu
    let digest (k : Nat) (d : List Byte) : Prop := (k = 4 ∧ d = Config.shake256 64 Config.fuseConfig) ∨
      (1 ≤ k ∧ k ≤ 3 ∧ ∃ i, s.dev.image? k = some i ∧ d = Config.shake256 64 i.bytes)
    answers (exec (.spdmGetVersion p) s) 0x04 [] ∧ answers (exec (.spdmGetCapabilities p) s) 0x61 [] ∧
    answers (exec (.spdmNegotiateAlgorithms p) s) 0x63 [.algorithms .mlDsa65 .shake256] ∧ answers (exec (.spdmGetDigests p) s) 0x01 [.slot 0] ∧
    (slot = 0 → answers (exec (.spdmGetCertificate p slot off len) s) 0x02 [.slot 0] ∧ answers (exec (.spdmChallenge p slot nonce) s) 0x03 [.slot 0, .signed .mlDsa65]) ∧
    (slot ≠ 0 → refuses (exec (.spdmGetCertificate p slot off len) s) 1 0 ∧ refuses (exec (.spdmChallenge p slot nonce) s) 1 0) ∧
    (idx ≤ 4 ∨ idx = 255 → ∃ fs, answers (exec (.spdmGetMeasurements p idx) s) 0x60 fs ∧
      ∀ k d, .measurement k d ∈ fs ↔ (idx = k ∨ idx = 255) ∧ digest k d) ∧
    (4 < idx → idx ≠ 255 → refuses (exec (.spdmGetMeasurements p idx) s) 1 0) ∧ refuses (exec (.spdmUnsupportedRequest p idx) s) 7 idx)

/-- R405, R439, R440: creating a tenant stores its VMID and, where the VMID and the partition allow it, makes its root task, at ROOTPC, at K, with s1 = the tenant. Its reset ends its
tasks, windows and edges and clears its ring, and completes with its own memory windows zero; a cluster reset ends the tasks resident there, and
its root tasks restart with s2 = 3. A warm reset ends every tenant's work and keeps memory; a cold one keeps nothing of the device. At either the management core begins at the
start of its image, and an image that an offer has put in use has the right key and signature. A dump writes the records of a range.
These are the model's choices: host memory and, with no image, the management core's memory over a warm reset are kept (log entries 12, 41); the launches and graphs of a tenant that
is reset complete, and ids start again at 1 (log entry 37); what a warm reset writes so is kept (log entry 60); a dump while one is in progress is not begun (log entry 24); an image
lies from address 0, and what is signed is a digest of 64 bytes (log entry 67). -/
def Obligations.ResetsAndDump : Prop :=
  let boots (s t : State) (fw : List Host.Cell) (start : Word) : Prop := t.cpu = Strand.boot t.dev.start ∧
    (∀ i ∈ t.dev.images, i ∈ s.dev.images ∨ i ∈ s.dev.offered ∧ Config.shake256 Config.fusedKeyDigest.length i.key = Config.fusedKeyDigest ∧
      Config.mlDsa65Verify i.key (Config.shake256 64 i.bytes) i.sig = true) ∧
    (s.dev.offered = [] → t.dev.images = s.dev.images) ∧
    match t.dev.image? 1 with
    | some i => t.dev.start = i.start ∧ t.fwMem = Memory.write [] 0 (i.bytes.take (2 ^ 20))
    | none => t.dev.start = start ∧ t.fwMem = fw
  (∀ (s : State) (tn vmid c tid : Nat), tn < 32 → (s.ten tn).en = false →
    let taken := ∃ u ∈ s.tenants, u.en = true ∧ u.num ≠ tn ∧ u.vmid = vmid % 256
    let idle := ((s.ten tn).part0 = 0 ∧ (s.ten tn).part1 = 0) ∨ (s.tenX tn).resetting = true
    (taken ∨ idle → ∃ t, exec (.tenantCreate tn vmid) s = .next t ∧ (t.ten tn).vmid = vmid % 256 ∧ (t.ten tn).en = false ∧ t.tasks = s.tasks) ∧
    (¬ taken → ¬ idle → firstCluster (s.ten tn) = some c → freeRecords s (c / 64) 1 = some [tid] → s.strand? (.task tid false) = none →
      ∃ t k x, exec (.tenantCreate tn vmid) s = .next t ∧ (t.ten tn).vmid = vmid % 256 ∧ (t.ten tn).en = true ∧ t.task? tid = some k ∧ k.kind = .root ∧
        k.tenant = tn ∧ k.prio = 127 ∧ t.strand? (.task tid false) = some x ∧ x.cluster = c ∧ x.ctl.level = .k ∧
        x.ctl.pc = BitVec.ofNat 64 ((s.ten tn).rootpc.toNat % 2 ^ 52 / 4 * 4) ∧ x.regs.s[1] = BitVec.ofNat 64 tn ∧ x.regs.s[2] = 0 ∧ x.regs.s[3] = 0)) ∧
  (∀ (s : State) (tn : Nat), (s.ten tn).en = true → ∃ t, exec (.tenantReset tn) s = .next t ∧ (t.ten tn).en = false ∧ (t.tenX tn).resetting = true ∧
    (∀ k ∈ t.tasks, k.tenant ≠ tn) ∧ (t.tenX tn).rwins = [] ∧ (t.tenX tn).frozen = [] ∧ (∀ e ∈ t.dev.edges, e.tenant ≠ tn) ∧
    (t.ten tn).errb = 0 ∧ (t.ten tn).errh = 0 ∧ (t.ten tn).errt = 0 ∧ (t.ten tn).tie = 0 ∧ (t.tenX tn).steps = 0 ∧
    ∀ p ∈ t.dev.posts, ∀ e after, .ring tn e after ∉ p.todo) ∧
  (∀ (s : State) (tn : Nat), (s.tenX tn).resetting = true → posting s tn = false → s.log = [] →
    let inside (a : Nat) : Prop := ∃ w ∈ (s.ten tn).mws, ∃ b n, mwRange w = some (b, n, false) ∧ b ≤ a ∧ a < b + n
    ∃ t, exec (.tenantResetComplete tn) s = .next t ∧ (t.tenX tn).resetting = false ∧ (t.tenX tn).nextLid = 1 ∧ (t.tenX tn).nextGid = 1 ∧
      ∀ a, (inside a → lastBytes t (.dev a) 1 = [0]) ∧ (¬ inside a → lastBytes t (.dev a) 1 = lastBytes s (.dev a) 1)) ∧
  (∀ (s : State) (c : Nat), c < 128 → (s.cluster c).resetting = false → (s.tasks.map (·.tid)).Nodup →
    ∃ t, exec (.clusterReset c) s = .next t ∧ (t.cluster c).resetting = true ∧ c ∈ t.dev.h.crst ∧
      ∀ k ∈ residents s c, (k.kind ≠ .root → t.task? k.tid = none) ∧ (k.kind = .root → (t.task? k.tid).map (·.state) = some .running ∧
        ∀ x, t.strand? (.task k.tid false) = some x → x.resid = .off)) ∧
  (∀ (s : State) (c : Nat), (s.cluster c).resetting = true → ∃ t, exec (.clusterResetComplete c) s = .next t ∧
    (t.cluster c).resetting = false ∧ c ∉ t.dev.h.crst ∧
    ∀ k, s.tasks.filter (fun t => t.kind == .root && t.state == .running &&
        (match s.strand? (.task t.tid false) with | some x => x.resid == .off && x.cluster == c | none => false)) = [k] → rootTask? s k.tenant = some k →
      s.task? k.tid = some k → (s.strand? (.task k.tid false)).isSome → ∃ x, t.strand? (.task k.tid false) = some x ∧ x.regs.s[2] = 3 ∧ x.ctl.level = .k ∧
        x.ctl.pc = BitVec.ofNat 64 ((s.ten k.tenant).rootpc.toNat % 2 ^ 52 / 4 * 4)) ∧
  (∀ s : State, ∃ t, exec .warmReset s = .next t ∧ boots s t s.fwMem s.dev.start ∧ t.others = [] ∧ t.tasks = [] ∧ t.tenants = [] ∧ t.tlb = [] ∧ t.dev.h = HCsr.reset ∧
    let z := flushPosts (((s.tenants.filter (·.en)).map (·.num)).foldl endWork s)
    t.dev.time = z.dev.time ∧ (∀ a, lastBytes t (.dev a) 1 = lastBytes z (.dev a) 1) ∧
    ((∀ x ∈ s.tenants, x.en = false) → s.dev.posts = [] → t.dev.time = s.dev.time ∧ ∀ a, lastBytes t (.dev a) 1 = lastBytes s (.dev a) 1)) ∧
  (∀ s : State, ∃ t, exec .coldReset s = .next t ∧ boots s t [] 0 ∧ t.others = [] ∧ t.tasks = [] ∧ t.tenants = [] ∧ t.tlb = [] ∧ t.dev.h = HCsr.reset ∧
    t.dev.time = 0 ∧ t.poison = [] ∧ ∀ a, lastBytes t (.dev a) 1 = [0] ∧ lastBytes t (.host a) 1 = lastBytes s (.host a) 1) ∧
  (∀ (s : State) (v : Word),
    let n := v.toNat / 2 ^ 32 % 2 ^ 17
    let bad := v.toNat / 2 ^ 17 % 2 ^ 15 ≠ 0 ∨ v.toNat / 2 ^ 49 ≠ 0 ∨ n = 0 ∨ 65536 < n
    (bad ∨ s.dev.h.dump.isSome → exec (.stateDump v) s = .next s) ∧
    (¬ bad → s.dev.h.dump = none → exec (.stateDump v) s = .next (s.withH (fun h => { h with dump := some (v.toNat % 65536, v.toNat / 65536 % 2, n) })))) ∧
  (∀ (s : State) (first die n : Nat), s.dev.h.dump = some (first, die, n) → ∃ t, exec .stateDumpComplete s = .next t ∧ t.dev.h.dump = none ∧
    ∀ i k, i < n → s.task? (65536 * die + first + i) = some k → k.vane.group = 0 →
      lastBytes t (.dev (s.dev.h.dumpa.toNat % 2 ^ 52 / 64 * 64 + 256 * i)) 256 = (taskImage s k).1)

/-- R18, R244, R392, R431, R434 to R437: a root task takes its lowest pending enabled interrupt; a pair whose strands have both been blocked on queues for 2^24 cycles raises QDL on
its E strand. An uncorrectable error counts in ECCC and poisons the place it strikes, and changes no byte; an error in a merge buffer fails the
context, and one in a record ends its task. An error entry is written at the ring's next place, once the record that it names has system visibility, then ERRH counts it; with no ring, or a full one,
it is dropped and counted as dropped. These are the model's choices: each of these steps is one move, and is visible at once (log entry 30); the U bit of the ring's page does not bind (log entry 6). -/
def Obligations.ErrorEvents : Prop :=
  (∀ (s : State) (tn b : Nat) (t : Task) (x : Strand), rootTask? s tn = some t → s.task? t.tid = some t → s.strand? (.task t.tid false) = some x →
    x.resid = .on → x.wait = none → x.trap.tstatus.getLsbD 0 = true → b < 2 →
    let due (j : Nat) : Prop := (tipBits (s.ten x.tenant)).testBit j = true ∧ (s.ten x.tenant).tie.getLsbD j = true
    due b → (∀ j, j < b → ¬ due j) →
    exec (.interrupt tn) s = .next (takeTrapAt (s.focus x.id) 0x10 (BitVec.ofNat 64 b) x.ctl.pc)) ∧
  (∀ (s : State) (tid c d n m : Nat) (x y : Strand), s.strand? (.task tid false) = some x → s.strand? (.task tid true) = some y → x.resid = .on → y.resid = .on →
    x.wait = some (.queue d n) → y.wait = some (.queue c m) →
    (2 ^ 24 ≤ n → 2 ^ 24 ≤ m → exec (.queueDeadlock tid) s = .next (takeTrapAt (s.focus (.task tid true)) 0x09 (BitVec.ofNat 64 c) y.ctl.pc)) ∧
    (n < 2 ^ 24 ∨ m < 2 ^ 24 → exec (.queueDeadlock tid) s = .next s)) ∧
  (∀ (s : State) (e : ErrPlace), ∃ t, exec (.uncorrectableError e) s = .next t ∧ t.mem = s.mem ∧
    t.log.map (fun r => { r with bad := [] }) = s.log.map (fun r => { r with bad := [] }) ∧ ((∀ pa, e ≠ .mem pa ∧ e ≠ .host pa) → (∀ tid off, e ≠ .spad tid off) → t.log = s.log) ∧
    (let lo (v : Word) : Nat := v.toNat % 2 ^ 32
     let hi (v : Word) : Nat := v.toNat / 2 ^ 32
     let up (n : Nat) : Nat := min (n + 1) (2 ^ 32 - 1)
     if e = .corrected then lo t.dev.h.eccc = up (lo s.dev.h.eccc) ∧ hi t.dev.h.eccc = hi s.dev.h.eccc ∧ t.cpu = s.cpu ∧ t.poison = s.poison
     else hi t.dev.h.eccc = up (hi s.dev.h.eccc) ∧ lo t.dev.h.eccc = lo s.dev.h.eccc) ∧
    match e with
    | .corrected => True
    | .mem pa => poisonedAt t (.dev pa) 1 = true ∧ poisonedEnd t (.dev pa) 1 = true ∧ ∀ p ∈ t.poison, p ∈ s.poison ∨ p = pa / 8 * 8
    | .host pa => poisonedAt t (.host pa) 1 = true ∧ poisonedEnd t (.host pa) 1 = true ∧ ∀ p ∈ t.hostPoison, p ∈ s.hostPoison ∨ p = pa / 8 * 8
    | .spad tid off => (s.task? tid).isSome → poisonedAt t (.spad tid off) 1 = true ∧ poisonedEnd t (.spad tid off) 1 = true
    | .sreg u r => ∀ x, s.strand? u = some x → ∃ y, t.strand? u = some y ∧ y.regs.s = x.regs.s ∧ ∀ i, i < 32 → y.regs.sPoison.getLsbD i = (x.regs.sPoison.getLsbD i || (i == r.toNat && r != 0))
    | .vreg u r g => ∀ x, s.strand? u = some x → ∃ y, t.strand? u = some y ∧ (y.regs.v[r.toNat]).poison.getLsbD g.toNat = true ∧ (y.regs.v[r.toNat]).bits = (x.regs.v[r.toNat]).bits
    | .mreg u r => ∀ x, s.strand? u = some x → ∃ y, t.strand? u = some y ∧ y.regs.m = x.regs.m ∧ ∀ i, i < 8 → y.regs.mPoison.getLsbD i = (x.regs.mPoison.getLsbD i || (i == r.toNat && r != 0))
    | .svreg u r g => ∀ x, s.strand? u = some x → ∃ y, t.strand? u = some y ∧ y.regs.sv = x.regs.sv ∧
        ∀ i, i < 128 → y.regs.svPoison.getLsbD i = (x.regs.svPoison.getLsbD i || (i == 16 * r.toNat + g.toNat))
    | .acc tid tile row => ∀ k, s.task? tid = some k → ∃ q, t.task? tid = some q ∧ ∀ i a, k.accs[i]? = some a → ∃ b, q.accs[i]? = some b ∧ b.bits = a.bits ∧
        ∀ j, j < 64 → b.poison.getLsbD j = (a.poison.getLsbD j || (i == tile.toNat && j == row.toNat))) ∧
  (∀ (s : State) (t : StrandId) (x : Strand) (m : MergeCtx), s.strand? t = some x → x.ext.merge = some m →
    ∃ u y, exec (.mergeBufferError t) s = .next u ∧ u.strand? t = some y ∧ y.ext.merge = some { m with state := .failed, stat := Mst.mge, buf := [] } ∧
      u.dev.h.eccc.toNat / 2 ^ 32 = min (s.dev.h.eccc.toNat / 2 ^ 32 + 1) (2 ^ 32 - 1)) ∧
  (∀ (s : State) (tid : Nat) (f : Bool) (k : Task), s.task? tid = some k → k.kind ≠ .root → k.gang = none →
    ∃ u, exec (.internalStateError (.taskRecord tid f)) s = .next u ∧ u.task? tid = none) ∧
  (∀ (s : State) (c d : Nat), exec (.internalStateError (.divEntry c d)) s = .next (faultEntry (countEcc s false) c d 0x08)) ∧
  (∀ (s : State) (t : StrandId), exec (.internalStateError (.mergeBuffer t)) s = exec (.mergeBufferError t) s) ∧
  (∀ (s : State) (k tn : Nat) (e : ErrEnt) (after : List (Loc × Nat)) (ws : List PWrite),
    let base := (s.ten tn).errb.toNat % 2 ^ 57 / 64 * 64
    let size := 2 ^ ((s.ten tn).errb.toNat % 32)
    let lo (v : Word) : Nat := v.toNat % 2 ^ 32
    let full := base = 0 ∨ (lo (s.ten tn).errh + 2 ^ 32 - lo (s.ten tn).errt) % 2 ^ 32 = size
    let left (t : State) (qs : List PWrite) : Prop := t.dev.posts[k]? = some ⟨qs, 0, none⟩
    let held := ∃ p ∈ after, ∃ r ∈ s.log, r.vis ≠ .system ∧ overlaps r.loc r.bytes.length p.1 p.2 = true
    (s.dev.posts[k]? = some ⟨.ring tn e after :: ws, 0, none⟩ → held → runMove (.post k) s = .next s) ∧
    (s.dev.posts[k]? = some ⟨.ring tn e after :: ws, 0, none⟩ → ws ≠ [] → ¬ held →
      (¬ full → ∀ c a u, rootCtx s tn = some c → machineLoc s c.above (BitVec.ofNat 64 (base + 64 * (lo (s.ten tn).errh % size))) true = .ok (.dev a, u) →
        u.dev.posts = s.dev.posts → ∃ t, runMove (.post k) s = .next t ∧ lastBytes t (.dev a) 64 = e.bytes ∧ t.ten tn = u.ten tn ∧ left t (.count tn :: ws)) ∧
      (full → ∃ t, runMove (.post k) s = .next t ∧ t.mem = s.mem ∧ t.log = s.log ∧ left t ws ∧
        lo (t.ten tn).errh = lo (s.ten tn).errh ∧ (t.ten tn).errh.toNat / 2 ^ 32 = ((s.ten tn).errh.toNat / 2 ^ 32 + 1) % 2 ^ 32)) ∧
    (s.dev.posts[k]? = some ⟨.count tn :: ws, 0, none⟩ → ∃ t, runMove (.post k) s = .next t ∧ left t (.message tn :: ws) ∧ t.mem = s.mem ∧
      lo (t.ten tn).errh = (lo (s.ten tn).errh + 1) % 2 ^ 32 ∧ (t.ten tn).errh.toNat / 2 ^ 32 = (s.ten tn).errh.toNat / 2 ^ 32))

/-- R277, R282: a read of a vector value that no older read of its bytes holds back puts what the strand's vector side sees there into the value's
bits, changes no other bit and is over; a read of an `svld`'s image and a deferred scalar load do the same for the image and the register; a group lands
once every read of it has performed. -/
def Obligations.ReadsAndLanding : Prop :=
  (∀ (s : State) (u : StrandId) (p k : Nat) (x : Strand) (v : VVal) (r : PendRead), s.strand? u = some x → p < 100 → valueAt s x p = some v →
    v.pend[k]? = some r → olderRead s x v.pend k r = false → r.pos + r.width ≤ 8192 → r.dst = .bits →
    ∃ t y w, exec (.read u p k) s = .next t ∧ t.strand? u = some y ∧ valueAt t y p = some w ∧ w.pend = v.pend.erase r ∧ w.landed = v.landed ∧
      (∀ i, i < r.width → w.bits.getLsbD (r.pos + i) =
        if r.live.testBit i then (leNat (vectorBytes s x r.ord r.loc r.bytes)).testBit (r.srcBit + i) else v.bits.getLsbD (r.pos + i)) ∧
      (∀ i, i < r.pos ∨ r.pos + r.width ≤ i → w.bits.getLsbD i = v.bits.getLsbD i) ∧
      (poisonedVec s x r.ord r.loc r.bytes = false → w.poison = v.poison) ∧
      (poisonedVec s x r.ord r.loc r.bytes = true → r.pos < 8192 → w.poison.getLsbD (r.pos / 1024) = true)) ∧
  (∀ (s : State) (u : StrandId) (k : Nat) (x : Strand) (r : SRead), s.strand? u = some x → x.mem.loads[k]? = some r →
    (x.mem.heldRead r.ord r.loc r.n = true → exec (.read u 101 k) s = .next s) ∧
    (x.mem.heldRead r.ord r.loc r.n = false → ∃ t y, exec (.read u 101 k) s = .next t ∧ t.strand? u = some y ∧
      y.mem.loads = x.mem.loads.eraseIdx k ∧ y.ctl = x.ctl ∧ (r.reg = none → y.regs = x.regs) ∧
      ∀ q, r.reg = some q → y.regs.s[q.toNat] = loaded r.signed (scalarBytesAt s x r.ord r.loc r.n) ∧
        y.regs.sPoison.getLsbD q.toNat = poisonedRead s x r.ord r.loc r.n ∧
        ∀ j, j ≠ q.toNat → y.regs.s.toList.getD j 0 = x.regs.s.toList.getD j 0 ∧ y.regs.sPoison.getLsbD j = x.regs.sPoison.getLsbD j)) ∧
  (∀ (s : State) (u : StrandId) (k : Nat) (x : Strand) (l : SvLoad) (r : PendRead), s.strand? u = some x → x.mem.sv = some l → l.pend[k]? = some r →
    olderRead s x l.pend k r = false → poisonedVec s x r.ord r.loc r.bytes = false → r.pos + r.width ≤ 16384 →
    ∃ t y m, exec (.read u 100 k) s = .next t ∧ t.strand? u = some y ∧ y.mem.sv = some m ∧ m.pend = l.pend.eraseIdx k ∧ m.hdr = l.hdr ∧ m.bad = l.bad ∧
      (∀ i, i < r.width → m.bits.getLsbD (r.pos + i) =
        if r.live.testBit i then (leNat (vectorBytes s x r.ord r.loc r.bytes)).testBit (r.srcBit + i) else l.bits.getLsbD (r.pos + i)) ∧
      (∀ i, i < r.pos ∨ r.pos + r.width ≤ i → m.bits.getLsbD i = l.bits.getLsbD i)) ∧
  (∀ (s : State) (u : StrandId) (p g : Nat) (x : Strand) (v : VVal), s.strand? u = some x → p < 100 → valueAt s x p = some v → g < 8 →
    ((∃ r ∈ v.pend, r.dst = .bits ∧ r.pos / 1024 = g) ∨ x.mem.fasHolds p g = true → exec (.land u p g) s = .next s) ∧
    ((∀ r ∈ v.pend, r.dst = .bits → r.pos / 1024 ≠ g) → x.mem.fasHolds p g = false → ∃ t y w, exec (.land u p g) s = .next t ∧ t.strand? u = some y ∧ valueAt t y p = some w ∧
      w.bits = v.bits ∧ ∀ i, i < 8 → w.landed.getLsbD i = (v.landed.getLsbD i || i == g)))

/-- R276, R278, R280, R281, R283: a scalar store is pushed into the store buffer and enters memory from its head; an element of a train enters once it is supplied and its order
allows, an addition by adding to the end of coherence order; a store whose data is still to come stays where it is; widening a write changes who sees it and no byte at the end of coherence order. -/
def Obligations.WritesEnter : Prop :=
  (∀ (s : State) (u : StrandId) (x : Strand) (e : SEnt) (es : List SEnt), s.strand? u = some x →
    (x.mem.pob = e :: es → e.src.isSome = true → ∃ t y, exec (.push u) s = .next t ∧ t.strand? u = some y ∧ y.mem.pob = x.mem.pob ∧ y.mem.ssb = x.mem.ssb) ∧
    (x.mem.pob = e :: es → e.src = none → ∃ t y, exec (.push u) s = .next t ∧ t.strand? u = some y ∧ y.mem.pob = es ∧ y.mem.ssb = x.mem.ssb ++ [e] ∧ t.mem = s.mem ∧ t.log = s.log) ∧
    (x.mem.ssb = e :: es → x.mem.heldStore e = true → exec (.enterScalar u) s = .next s) ∧
    (x.mem.ssb = e :: es → x.mem.heldStore e = false → ∃ t y, exec (.enterScalar u) s = .next t ∧ t.strand? u = some y ∧ y.mem.ssb = es ∧ y.mem.pob = x.mem.pob ∧
      lastBytes t e.loc e.data.length = e.data)) ∧
  (∀ (s : State) (u : StrandId) (tr n : Nat) (x : Strand), s.strand? u = some x → ∃ t y, exec (.supply u tr n) s = .next t ∧ t.strand? u = some y ∧
    y.mem.trains.map (·.id) = x.mem.trains.map (·.id) ∧ t.mem = s.mem ∧ t.log = s.log ∧
    ((∀ w ∈ x.mem.trains, w.id = tr → ∀ e ∈ w.elems, e.n = n →
        e.src = none ∨ ∃ q v d b, e.src = some q ∧ supplyOf s x tr = some (v, d, b) ∧ vReady v (elemGroups d q.els) = true ∧
          (b = false → vPoisoned v (elemGroups d q.els) = none)) →
      ∀ w ∈ y.mem.trains, w.id = tr → ∀ e ∈ w.elems, e.n = n → e.supplied = true)) ∧
  (∀ (s : State) (u : StrandId) (tr n : Nat) (x : Strand) (w : Train) (e : TElem), enterable s u tr n = some (x, w, e) →
    let gone (t : State) : Prop := ∃ y, t.strand? u = some y ∧ ∀ v ∈ y.mem.trains, v.id = tr → ∀ q ∈ v.elems, q.n ≠ n
    (e.op = .store → e.mask = List.replicate e.data.length 0xFF →
      ∃ t, exec (.enterTrain u tr n) s = .next t ∧ lastBytes t e.loc e.data.length = e.data ∧ gone t) ∧
    (∀ f, e.op = .add f → atomicReady s x w.id e.loc e.data.length = true → stored s e.loc = true → (memAddBytes f (lastBytes s e.loc e.data.length) e.data).length = e.data.length →
      ∃ t, exec (.atomic u tr n) s = .next t ∧ lastBytes t e.loc e.data.length = memAddBytes f (lastBytes s e.loc e.data.length) e.data ∧ gone t)) ∧
  (∀ (s : State) (k : Nat) (r : WRec), s.log[k]? = some r →
    (mayWiden s k r = false → exec (.widen k) s = .next s) ∧
    (r.tag = .plain → r.vis ≠ .system → r.vis.code < (maxVis r.loc).code → mayWiden s k r = true) ∧
    (mayWiden s k r = true → ∃ t, exec (.widen k) s = .next t ∧ t.cpu = s.cpu ∧ t.log.length ≤ s.log.length ∧
      ∀ l, (match l with | .dev _ | .host _ | .fw _ => True | _ => False) → lastBytes t l 1 = lastBytes s l 1))

/-- R187, R260, R283 to R287: a fence or `vdrain` that a strand has gone past completes, and else what it waits for ends as the instruction it waits in: a fence or `vdrain` once the accesses it orders have performed, `mwait` by a reading of its
word, `bar` once its arrival, made when the strand's writes are visible, and those of its group are complete, `settle` once no element is
outstanding, an AMO or `vfas` by its move. On a cluster that switches regulators no wait ends. -/
def Obligations.WaitsEnd : Prop :=
  (∀ (s : State) (t : StrandId) (x : Strand), s.strand? t = some x → x.resid = .on → issues s x.cluster = true →
    let z := s.focus t
    (∀ f, openFence s x = some f → ∃ u y, exec (.complete t) s = .next u ∧ u.strand? t = some y ∧ y.ctl = x.ctl ∧ y.regs = x.regs ∧
      y.mem.fences = x.mem.fences.filter (fun g => g.ord != f.ord)) ∧
    (openFence s x = none →
      (∀ k sc, x.wait = some (.fence k sc) →
        let go := z.cpu.mem.draining z.dev.nextUid = false ∧
          ((k = .acq ∧ x.mem.loads = [] ∧ x.mem.amos = []) ∨ (k ≠ .acq ∧ scalarDone z z.cpu sc none = true))
        (¬ go → exec (.complete t) s = .next (z.waitFor (.fence k sc))) ∧
        (go → exec (.complete t) s = .next (complete (match k with | .acq => dropStale z sc | .rel => z | .ar => dropStale z sc | .sc => drawTicket (dropStale z sc))))) ∧
      (∀ sc, x.wait = some (.vdrain sc) →
        (vectorDone z z.cpu sc none = true → exec (.complete t) s = .next (complete (z.withMem (fun m => m.forget (fun e => !e.vec))))) ∧
        (vectorDone z z.cpu sc none = false → exec (.complete t) s = .next (z.waitFor (.vdrain sc)))) ∧
      (x.wait = some .rfence → exec (.complete t) s = exec .rfence z) ∧
      (∀ l, x.wait = some (.bar l) → exec (.complete t) s = exec (.bar l) z) ∧
      (∀ d a, x.wait = some (.mwait d a) → exec (.complete t) s = exec (.mwait d a) z)) ∧
    (∀ d a, x.wait = some (.mwait d a) → exec (.monitorRead t) s = exec (.mwait d a) z ∧
      (∀ v va k, (∀ c n, t ≠ .thaw c n) → readable z [a] (some d) = some [v] → x.ext.monitor = some va → checkAccess (readAnew z) va 8 true false = .ok k →
        poisonedRead k.s k.s.cpu k.s.dev.nextUid k.loc 8 = false → k.s.cpu.mem.heldRead k.s.dev.nextUid k.loc 8 = false →
        v.toNat ≤ leNat (scalarBytes k.s k.s.cpu k.loc 8) →
        exec (.monitorRead t) s = .next (retired k.s [a] d (BitVec.ofNat 64 (leNat (scalarBytes k.s k.s.cpu k.loc 8)))))) ∧
    (∀ v, x.wait = some (.settle (some v) false) → exec (.settleComplete t) s = exec (.settle v) z) ∧
    (∀ v, x.wait = some (.settle (some v) true) → exec (.settleComplete t) s = exec (.settleNf v) z) ∧
    (x.wait = some (.settle none true) → exec (.settleComplete t) s = exec .settleNfAll z) ∧
    (x.wait = some (.settle none false) → isTask z = true →
      (anyHoles z = false → faultedRegs z = [] → exec (.settleComplete t) s = .next (vdone z [])) ∧
      (anyHoles z = true → exec (.settleComplete t) s = .next (z.waitFor (.settle none false)))) ∧
    (∀ tr n, addable s t tr n = none → pastReady s x tr = none → pastFas s x tr = none →
      (∀ d a b, x.wait = some (.vfas d a b) → exec (.atomic t tr n) s = exec (.vfas d a b) z) ∧
      (∀ r, x.wait = some (.amo r) → exec (.atomic t tr n) s = amoAgain z r))) ∧
  (∀ (s : State) (t : StrandId) (x : Strand), s.strand? t = some x → issues s x.cluster = false → openFence s x = none →
    exec (.complete t) s = .next s ∧ exec (.monitorRead t) s = .next s ∧ exec (.settleComplete t) s = .next s ∧ exec (.scAccess t) s = .next s) ∧
  (∀ (s : State) (t : StrandId) (x : Strand) (l : Nat), s.strand? t = some x → l < 6 → x.ext.barIssued = [barIssuedCode l] →
    let ready := scalarDone s x .device none = true ∧ vectorDone s x .device none = true
    (¬ ready → exec (.barArrive t) s = .next s) ∧
    (ready → ∃ u y, exec (.barArrive t) s = .next u ∧ u.strand? t = some y ∧ y.ext.barIssued = [barArrivedCode l] ∧
      y.ext.bars = x.ext.bars.set l (x.ext.bars.getD l 0 + 1)))

/-- R180 to R183, R196: a free thaw thread takes its cluster's oldest ready entry. A built-in handler serves it, and its end fills the entry with its function's value, whose flags accrue; a user handler
begins at its HPC in thaw context with the operands in s1 to s3, the info word in s4 and the descriptor's address in s5; one that
has run 2^20 cycles faults its entry with TMO. -/
def Obligations.ThawThreads : Prop :=
  (∀ (s : State) (c k : Nat) (e : DivEntry), k < 4 → s.strand? (.thaw c k) = none → issues s c = true → (s.cluster c).div.find? DivEntry.ready = some e →
    (∀ r, builtin e = some r → ∃ t y, exec (.thawTake c k) s = .next t ∧ t.strand? (.thaw c k) = some y ∧ y.serves = some e.id ∧ y.resid = .off ∧
      (t.cluster c).div.find? (fun d => d.id == e.id) = ((s.cluster c).div.find? (fun d => d.id == e.id)).map (fun d => { d with taken := true })) ∧
    (∀ p, builtin e = none → e.app = some p → ∃ t y, exec (.thawTake c k) s = .next t ∧ t.strand? (.thaw c k) = some y ∧ y.serves = some e.id ∧
      y.ctl.pc = p.hpc ∧ y.ctl.level = .u ∧ y.ctl.cycle = 0 ∧ y.regs.s[1] = e.a.bits ∧ y.regs.s[2] = e.b.bits ∧ y.regs.s[3] = e.c.bits ∧
      y.regs.s[4] = BitVec.ofNat 64 e.info ∧ y.regs.s[5] = p.addr)) ∧
  (∀ (s : State) (c k b : Nat) (fl : Flags) (e : DivEntry) (th x : Strand), s.cpu.id ≠ .thaw c k → s.strand? (.thaw c k) = some th → th.resid = .off →
    th.serves = some e.id → (s.cluster c).div = [e] → builtin e = some (b, fl) → s.strand? e.strand = some x → e.strand ≠ .thaw c k →
    let t := builtinFill c k s
    let w := fmtWidth e.dfmt
    (t.cluster c).div = [] ∧ t.strand? (.thaw c k) = none ∧ ∃ y, t.strand? e.strand = some y ∧ y.ctl.fflags = x.ctl.fflags ||| fl ∧
      ∀ v, e.dst = .reg v → v < 32 → e.live = 2 ^ w - 1 → 16 ≤ w → (e.elem + 1) * w ≤ 8192 →
        let z := y.regs.v.toList.getD v .zero
        z.el w e.elem = b % 2 ^ w ∧ z.st w e.elem = pPresent ∧ ∀ j, j ≠ e.elem → z.el w j = (x.regs.v.toList.getD v .zero).el w j) ∧
  (∀ (s : State) (c k : Nat), (s.cluster c).div.find? DivEntry.ready = none → exec (.thawTake c k) s = .next s) ∧
  (∀ (s : State) (c k i : Nat) (x : Strand), s.strand? (.thaw c k) = some x → x.serves = some i →
    (x.resid = .on → 2 ^ 20 ≤ x.ctl.cycle.toNat → exec (.thawTimeout c k) s = .next (faultEntry s c i 0x0D)) ∧
    (x.ctl.cycle.toNat < 2 ^ 20 → exec (.thawTimeout c k) s = .next s))

/-- R29 to R31, R389, R399, R440, Tables 1.9, 15.1, 19.1, 19.3, 23.2: after a cold reset memory reads as zero, TIME is 0, no tenant exists,
DEVID is 0xFFFF, every cluster is unthrottled, the watchdog counts from 0, and the management core runs at M with MR, FFLAGS, TSTATUS and
every scalar register zero. That host and firmware memory are in canonical form like device memory (`MemInv`) is the model's (log entry 12). -/
def Obligations.ResetValues : Prop :=
  let s := State.reset
  s.cpu.id = .mgmt ∧ s.cpu.resid = .on ∧ s.cpu.ctl.level = .m ∧ s.cpu.ctl.mr = 0 ∧ s.cpu.ctl.fflags = 0 ∧ s.cpu.trap.tstatus = 0 ∧ s.others = [] ∧
  s.dev.time = 0 ∧ s.dev.h.devid = 0xFFFF ∧ s.dev.m.wdogOn = true ∧ s.dev.m.wdogUs = 0 ∧ (∀ a, lastBytes s (.dev a) 1 = [0]) ∧ (∀ tn, (s.ten tn).en = false) ∧
  (∀ c, (s.cluster c).tctl = 0x28007 ∧ (s.cluster c).eff = ⟨7, 0, 0, 40⟩ ∧ (s.cluster c).trs = 0) ∧ (∀ r : SReg, sreg s r = 0) ∧ MemInv s

/-- Table 3.13, R57, R58: the example words decode to their instructions, and three words that are none are refused. -/
def Obligations.ExampleWords : Prop :=
  decode 0x04000000 = .ok .nop ∧ decode 0x02008405 = .ok (.mode 0x8405) ∧ decode 0x42404020 = .ok (.setvli 4 32) ∧
  decode 0x44110E00 = .ok (.vadd 1 2 (.sca 3)) ∧ decode 0x52418000 = .ok (.vredSum 4 3) ∧ decode 0x50520009 = .ok (.vext 5 4 0) ∧
  decode 0x3A51A000 = .ok (.stW 5 3 0) ∧ decode 0x3E311149 = .ok (.amoCas 3 2 4 .acq .d) ∧ decode 0x60040820 = .ok (.mma 0 8 1 true 0) ∧
  decode 0x24117FFD = .ok (.beq 1 2 0x7FFD) ∧ (decode 0x00000000).isOk = false ∧ (decode 0x52418080).isOk = false ∧ (decode 0x48808802).isOk = false

/-- R57 to R60: decoding the word of a well-formed instruction that has an encoding gives it back, with every operand. -/
def Obligations.DecodeOfEncode : Prop := ∀ i : Instr, WellFormed i = true → i.encoded = true → decode (encode i) = .ok i

/-- R58, R59: a word that decodes is the word of what it decodes to, so no bit of it is ignored, and that is well formed. -/
def Obligations.EncodeOfDecode : Prop := ∀ (w : IWord) (i : Instr), decode w = .ok i → encode i = w ∧ WellFormed i = true ∧ i.encoded = true

/-- R57, R58, R73: where the fetch at the pc passes its checks and reads a word, the step runs the instruction the word decodes to, and a word that is none takes ILL with
the word in TVAL; the word is what memory shows the strand there, but where a move has handed it one taken up before. An event the agenda names takes place as the
instruction it is. Around it, a waiting strand keeps its word. These are the model's choices: the agenda, of which a move that names a strand without a context does nothing
(log entry 8), and what of itself follows, `follow` with no agenda and else `runAlus` and `pump` (log entry 9). -/
def Obligations.StepRunsDecoded : Prop :=
  (∀ (s u : State) (k : XOk) (w : IWord), s.agenda = [] → s.cpu.resid = .on → issues s s.cpu.cluster = true → s.cpu.wait = none → interruptDue s s.cpu = none → checkFetch s = .ok k →
    fetchWord k = (w, u) →
    let after (o : Out) : Out := andThen (andThen o (keepWord s.cpu.id (some w))) follow
    ((∀ e ∈ k.s.stales, e.use = true → e.strand ≠ k.s.cpu.id) → w = shownWord k.s k.loc) ∧
    (∀ i, decode w = .ok i → step s = after (exec i u)) ∧
    (∀ e, decode w = .error e → step s = after (.next (takeTrapAt u 0x01 (w.setWidth 64) u.cpu.ctl.pc)))) ∧
  (∀ (s : State) (l : Late) (ms : List Move), s.agenda = .event l :: ms → l.encoded = false → onlyEffect l = false →
    step s = andThen (exec l.instr { s with agenda := ms }) (fun s => pump (runAlus s))) ∧
  (∀ (s : State) (t : StrandId) (ms : List Move), s.agenda = .issue t :: ms →
    (∀ x, s.strand? t = some x → x.resid = .on → step s = andThen (issue ({ s with agenda := ms }.focus t)) (fun s => pump (runAlus s))) ∧
    ((∀ x, s.strand? t = some x → x.resid ≠ .on) → step s = .next (pump (runAlus { s with agenda := ms }))))

/-- R274, R440: every step, from every state, keeps the memories in canonical form, whichever instruction it runs. -/
def Obligations.StepKeepsMemory : Prop :=
  (∀ (i : Instr) (s t : State), MemInv s → exec i s = .next t → MemInv t) ∧ (∀ s t : State, MemInv s → step s = .next t → MemInv t)

/-- R25, R97, R107, R116: an integer or floating-point instruction whose operands are readable completes and changes no scalar register but its destination, s0 never, no
other register, no trap or special register, and no byte of memory. The flags stay but for what a floating-point instruction adds, and the loop
registers, VL and SC but for what the end check of a loop does. -/
def Obligations.RegisterFrame : Prop :=
  ∀ (s : State) (i : Instr) (rs : List SReg) (d : SReg), (integerForm i = some (rs, d) ∨ floatForm i = some (rs, d)) → WellFormed i = true →
    (readable s rs (some d)).isSome = true →
    ∃ t, exec i s = .next t ∧ (∀ r, r ≠ d ∨ r = 0 → sreg t r = sreg s r) ∧
      t.cpu.regs.v = s.cpu.regs.v ∧ t.cpu.regs.m = s.cpu.regs.m ∧ t.cpu.regs.sv = s.cpu.regs.sv ∧ t.cpu.trap = s.cpu.trap ∧ t.cpu.ext = s.cpu.ext ∧
      t.cpu.ctl.level = s.cpu.ctl.level ∧ t.cpu.ctl.mr = s.cpu.ctl.mr ∧ t.cpu.ctl.vstart = s.cpu.ctl.vstart ∧ t.cpu.ctl.amoplace = s.cpu.ctl.amoplace ∧
      t.cpu.ctl.cycle = s.cpu.ctl.cycle ∧ t.cpu.ctl.fflags &&& s.cpu.ctl.fflags = s.cpu.ctl.fflags ∧
      (floatForm i = none → t.cpu.ctl.fflags = s.cpu.ctl.fflags) ∧
      (s.cpu.ctl.lp0.lc = 0 → s.cpu.ctl.lp1.lc = 0 → t.cpu.ctl.lp0 = s.cpu.ctl.lp0 ∧ t.cpu.ctl.lp1 = s.cpu.ctl.lp1 ∧ t.cpu.ctl.vl = s.cpu.ctl.vl ∧
        t.cpu.ctl.sc = s.cpu.ctl.sc ∧ t.cpu.ctl.pc = s.cpu.ctl.pc + 4) ∧
      t.mem = s.mem ∧ t.log = s.log ∧ (∀ l, byteSeen t l = byteSeen s l)

/-- R26, R147, R151, R192: a chaining instruction of a task strand outside its handler changes no scalar, mask or sparse register, no vector register but its
destination, and no byte of memory, whatever else it does: complete, wait or trap. -/
def Obligations.VectorFrame : Prop :=
  ∀ (s t : State) (i : Instr) (x : VDesc), chainRow i = some x → isTask s = true → s.cpu.trap.tstatus.getLsbD 4 = false → tvecOf s s.cpu ≠ 0 →
    exec i s = .next t → t.cpu.regs.s = s.cpu.regs.s ∧ t.cpu.regs.m = s.cpu.regs.m ∧ t.cpu.regs.sv = s.cpu.regs.sv ∧
      (∀ v : VReg, v ≠ x.d → vreg t v = vreg s v) ∧ t.mem = s.mem ∧ t.hostMem = s.hostMem ∧ t.fwMem = s.fwMem ∧ t.log = s.log ∧
      (NoPorts s → t.tasks = s.tasks)

/-- R72, R182, R446, Table 3.12: an instruction that requires a level raises PRM below it, with its word in TVAL, but ILL where it names a port that its strand may not use; a chaining instruction outside a task raises ILL.
Each takes its trap at the instruction itself. -/
def Obligations.LevelTraps : Prop :=
  open scoped Classical in
  let takes (s : State) (i : Instr) (c : Nat) : Prop := exec i s = .next (takeTrapAt s c (BitVec.ofNat 64 (encodeNat i)) s.cpu.ctl.pc)
  let ports (s : State) (rs : List SReg) (dst : Option SReg) : Prop := NoPorts s ∨
    ((∀ r ∈ rs, mayRead (roleOf s s.cpu) r = true) ∧ ∀ r, dst = some r → mayWrite (roleOf s s.cpu) r = true)
  (∀ (s : State) (d a : SReg) (p : BitVec 1) (v : BitVec 6), s.cpu.ctl.level = .u →
    takes s .tret 0x04 ∧ takes s (.intr p v) 0x04 ∧ takes s .tlbinvVmid 0x04 ∧ takes s .tlbsync 0x04 ∧
    ((∀ c k, s.cpu.id ≠ .thaw c k) → takes s .wfi 0x04) ∧
    takes s (.tlbinvVa d a) (if ports s [a, d] none then 0x04 else 0x01) ∧ takes s (.tlbinvAsid d) (if ports s [d] none then 0x04 else 0x01) ∧
    (isTask s = true → takes s (.rwin d a) (if ports s [a] (some d) then 0x04 else 0x01))) ∧
  (∀ (s : State) (d a : SReg), s.cpu.ctl.level = .u ∨ s.cpu.ctl.level = .k →
    takes s (.tlbinvIpa d a) (if ports s [a, d] none then 0x04 else 0x01)) ∧
  (∀ s : State, s.cpu.ctl.level ≠ .m → takes s .halt 0x04) ∧
  (∀ (s : State) (i : Instr) (x : VDesc), chainRow i = some x → isTask s = false → takes s i 0x01)
end

