-- ==== Sys2Proof/Laws/Decode.lean ====
section
/-! SUPPORT. The fields of a word, and what the decoder does for each major opcode. -/

set_option Elab.async false

namespace Sys2Proof

theorem fld_eq (w : IWord) (hi lo p q : Nat) (hp : 2 ^ lo = p) (hq : 2 ^ (hi + 1 - lo) = q) : fld w hi lo = w.toNat / p % q := by
  subst hp hq; rfl

theorem encode_toNat (i : Instr) (n : Nat) (h : encodeNat i = n) (hn : n < 2 ^ 32) : (encode i).toNat = n := by
  subst h; exact Nat.mod_eq_of_lt hn

theorem fldBv_eq {n : Nat} (w : IWord) (lo : Nat) (x : BitVec n) (h : w.toNat / 2 ^ lo % 2 ^ n = x.toNat) : fldBv n w lo = x :=
  BitVec.eq_of_toNat_eq (by rw [fldBv, BitVec.toNat_ofNat, h])

theorem bit_eq (w : IWord) (i : Nat) (x : Bool) (h : w.toNat / 2 ^ i % 2 = x.toNat) : bit w i = x := by
  unfold bit; rw [h]; cases x <;> rfl

theorem vOperand_eq (w : IWord) (b : VOperand) (hf : w.toNat / 2 ^ 9 % 2 = b.flag.toNat) (hr : w.toNat / 2 ^ 10 % 2 ^ 5 = b.reg.toNat) :
    vOperand w = b := by
  unfold vOperand
  rw [bit_eq w 9 b.flag hf, fldBv_eq w 10 b.reg hr]
  cases b <;> rfl

theorem FTy.code_lt (x : FTy) : x.code < 4 := by cases x <;> decide
theorem FTy.ofCode_code (x : FTy) : FTy.ofCode x.code = x := by cases x <;> rfl

theorem ITy.code_lt (x : ITy) : x.code < 4 := by cases x <;> decide
theorem ITy.ofCode_code (x : ITy) : ITy.ofCode x.code = x := by cases x <;> rfl

theorem AmoOrder.code_lt (x : AmoOrder) : x.code < 4 := by cases x <;> decide
theorem AmoOrder.ofCode_code (x : AmoOrder) : AmoOrder.ofCode x.code = x := by cases x <;> rfl

theorem IntSize.code_lt (x : IntSize) : x.code < 2 := by cases x <;> decide
theorem IntSize.ofCode_code (x : IntSize) : IntSize.ofCode x.code = x := by cases x <;> rfl

theorem AmoSize.code_lt (x : AmoSize) : x.code < 4 := by cases x <;> decide
theorem AmoSize.ofCode_code (x : AmoSize) : AmoSize.ofCode x.code = x := by cases x <;> rfl

theorem FpSize.code_lt (x : FpSize) : x.code < 2 := by cases x <;> decide
theorem FpSize.ofCode_code (x : FpSize) : FpSize.ofCode x.code = x := by cases x <;> rfl

theorem Scope.code_lt (x : Scope) : x.code < 6 := by cases x <;> decide
theorem Scope.ofCode_code (x : Scope) : Scope.ofCode x.code = x := by cases x <;> rfl

theorem Level.code_lt (x : Level) : x.code < 6 := by cases x <;> decide
theorem Level.ofCode_code (x : Level) : Level.ofCode x.code = x := by cases x <;> rfl

theorem FTy.code_inj {x y : FTy} (h : x.code = y.code) : x = y := by cases x <;> cases y <;> first | rfl | exact absurd h (by decide)

theorem dec_01 (w : IWord) (h : fld w 31 25 = 1) : decode w = decodeMode w := by simp [decode, isLate, decodeLow, h]
theorem dec_02 (w : IWord) (h : fld w 31 25 = 2) : decode w = decodeSys w := by simp [decode, isLate, decodeLow, h]
theorem dec_03 (w : IWord) (h : fld w 31 25 = 3) : decode w = decodeAlu w := by simp [decode, isLate, decodeLow, h]
theorem dec_04 (w : IWord) (h : fld w 31 25 = 4) : decode w = decodeAddi w := by simp [decode, isLate, decodeLow, h]
theorem dec_05 (w : IWord) (h : fld w 31 25 = 5) : decode w = decodeAndi w := by simp [decode, isLate, decodeLow, h]
theorem dec_06 (w : IWord) (h : fld w 31 25 = 6) : decode w = decodeOri w := by simp [decode, isLate, decodeLow, h]
theorem dec_07 (w : IWord) (h : fld w 31 25 = 7) : decode w = decodeXori w := by simp [decode, isLate, decodeLow, h]
theorem dec_08 (w : IWord) (h : fld w 31 25 = 8) : decode w = decodeShifti w := by simp [decode, isLate, decodeLow, h]
theorem dec_09 (w : IWord) (h : fld w 31 25 = 9) : decode w = decodeSlti w := by simp [decode, isLate, decodeLow, h]
theorem dec_0a (w : IWord) (h : fld w 31 25 = 10) : decode w = decodeSltiu w := by simp [decode, isLate, decodeLow, h]
theorem dec_0b (w : IWord) (h : fld w 31 25 = 11) : decode w = decodeLih w := by simp [decode, isLate, decodeLow, h]
theorem dec_0c (w : IWord) (h : fld w 31 25 = 12) : decode w = decodeLix w := by simp [decode, isLate, decodeLow, h]
theorem dec_0d (w : IWord) (h : fld w 31 25 = 13) : decode w = decodeSel w := by simp [decode, isLate, decodeLow, h]
theorem dec_0e (w : IWord) (h : fld w 31 25 = 14) : decode w = decodeBits w := by simp [decode, isLate, decodeLow, h]
theorem dec_0f (w : IWord) (h : fld w 31 25 = 15) : decode w = decodeCsr w := by simp [decode, isLate, decodeLow, h]
theorem dec_10 (w : IWord) (h : fld w 31 25 = 16) : decode w = decodeFpu w := by simp [decode, isLate, decodeLow, h]
theorem dec_11 (w : IWord) (h : fld w 31 25 = 17) : decode w = decodeFfma w := by simp [decode, isLate, decodeLow, h]
theorem dec_12 (w : IWord) (h : fld w 31 25 = 18) : decode w = decodeBeq w := by simp [decode, isLate, decodeLow, h]
theorem dec_13 (w : IWord) (h : fld w 31 25 = 19) : decode w = decodeBne w := by simp [decode, isLate, decodeLow, h]
theorem dec_14 (w : IWord) (h : fld w 31 25 = 20) : decode w = decodeBlt w := by simp [decode, isLate, decodeLow, h]
theorem dec_15 (w : IWord) (h : fld w 31 25 = 21) : decode w = decodeBge w := by simp [decode, isLate, decodeLow, h]
theorem dec_16 (w : IWord) (h : fld w 31 25 = 22) : decode w = decodeBltu w := by simp [decode, isLate, decodeLow, h]
theorem dec_17 (w : IWord) (h : fld w 31 25 = 23) : decode w = decodeBgeu w := by simp [decode, isLate, decodeLow, h]
theorem dec_18 (w : IWord) (h : fld w 31 25 = 24) : decode w = decodeJal w := by simp [decode, isLate, decodeLow, h]
theorem dec_19 (w : IWord) (h : fld w 31 25 = 25) : decode w = decodeJalr w := by simp [decode, isLate, decodeLow, h]
theorem dec_1a (w : IWord) (h : fld w 31 25 = 26) : decode w = decodeLoop w := by simp [decode, isLate, decodeLow, h]
theorem dec_1b (w : IWord) (h : fld w 31 25 = 27) : decode w = decodeQbr w := by simp [decode, isLate, decodeLow, h]
theorem dec_1c (w : IWord) (h : fld w 31 25 = 28) : decode w = decodeLd w := by simp [decode, isLate, decodeLow, h]
theorem dec_1d (w : IWord) (h : fld w 31 25 = 29) : decode w = decodeSt w := by simp [decode, isLate, decodeLow, h]
theorem dec_1e (w : IWord) (h : fld w 31 25 = 30) : decode w = decodePref w := by simp [decode, isLate, decodeLow, h]
theorem dec_1f (w : IWord) (h : fld w 31 25 = 31) : decode w = decodeAmo w := by simp [decode, isLate, decodeLow, h]
theorem dec_20 (w : IWord) (h : fld w 31 25 = 32) : decode w = decodeSync w := by simp [decode, isLate, decodeLow, h]
theorem dec_21 (w : IWord) (h : fld w 31 25 = 33) : decode w = decodeSetvl w := by simp [decode, isLate, decodeLow, h]
theorem dec_22 (w : IWord) (h : fld w 31 25 = 34) : decode w = decodeVarith w := by simp [decode, isLate, decodeLow, h]
theorem dec_23 (w : IWord) (h : fld w 31 25 = 35) : decode w = decodeVfma w := by simp [decode, isLate, decodeLow, h]
theorem dec_24 (w : IWord) (h : fld w 31 25 = 36) : decode w = decodeVcmp w := by simp [decode, isLate, decodeLow, h]
theorem dec_25 (w : IWord) (h : fld w 31 25 = 37) : decode w = decodeVsel w := by simp [decode, isLate, decodeLow, h]
theorem dec_26 (w : IWord) (h : fld w 31 25 = 38) : decode w = decodeVfunc w := by simp [decode, isLate, decodeLow, h]
theorem dec_27 (w : IWord) (h : fld w 31 25 = 39) : decode w = decodeVcvt w := by simp [decode, isLate, decodeLow, h]
theorem dec_28 (w : IWord) (h : fld w 31 25 = 40) : decode w = decodeVperm w := by simp [decode, isLate, decodeLow, h]
theorem dec_29 (w : IWord) (h : fld w 31 25 = 41) : decode w = decodeVred w := by simp [decode, isLate, decodeLow, h]
theorem dec_2a (w : IWord) (h : fld w 31 25 = 42) : decode w = decodeMask w := by simp [decode, isLate, decodeLow, h]
theorem dec_2b (w : IWord) (h : fld w 31 25 = 43) : decode w = decodePres w := by simp [decode, isLate, decodeLow, h]
theorem dec_2c (w : IWord) (h : fld w 31 25 = 44) : decode w = decodeVld w := by simp [decode, isLate, decodeLow, h]
theorem dec_2d (w : IWord) (h : fld w 31 25 = 45) : decode w = decodeVst w := by simp [decode, isLate, decodeLow, h]
theorem dec_2e (w : IWord) (h : fld w 31 25 = 46) : decode w = decodeVgs w := by simp [decode, isLate, decodeLow, h]
theorem dec_2f (w : IWord) (h : fld w 31 25 = 47) : decode w = decodeVsc w := by simp [decode, isLate, decodeLow, h]
theorem dec_30 (w : IWord) (h : fld w 31 25 = 48) : decode w = decodeMma w := by simp [decode, isLate, decodeLow, h]
theorem dec_31 (w : IWord) (h : fld w 31 25 = 49) : decode w = decodeMacc w := by simp [decode, isLate, decodeLow, h]
theorem dec_32 (w : IWord) (h : fld w 31 25 = 50) : decode w = decodeSvec w := by simp [decode, isLate, decodeLow, h]
theorem dec_33 (w : IWord) (h : fld w 31 25 = 51) : decode w = (decodeMerge w).map Late.instr := by simp [decode, isLate, decodeLate, h]
theorem dec_34 (w : IWord) (h : fld w 31 25 = 52) : decode w = (decodeCopy w).map Late.instr := by simp [decode, isLate, decodeLate, h]
theorem dec_35 (w : IWord) (h : fld w 31 25 = 53) : decode w = (decodeTask w).map Late.instr := by simp [decode, isLate, decodeLate, h]
theorem dec_36 (w : IWord) (h : fld w 31 25 = 54) : decode w = (decodeVane w).map Late.instr := by simp [decode, isLate, decodeLate, h]
theorem dec_37 (w : IWord) (h : fld w 31 25 = 55) : decode w = (decodeRemote w).map Late.instr := by simp [decode, isLate, decodeLate, h]

end Sys2Proof
end

