-- ==== Sys2Proof/Laws/Exec.lean ====
section
/-! SUPPORT. What `exec` does with each constructor: the call of its meaning. -/

set_option Elab.async false

namespace Sys2Proof.Machine

theorem exec_mode (i : BitVec 25) (s : State) : exec (.mode i) s = Sys2Proof.Machine.execMode i s := rfl
theorem exec_trap (c : BitVec 10) (s : State) : exec (.trap c) s = Sys2Proof.Machine.execTrap c s := rfl
theorem exec_brk (c : BitVec 10) (s : State) : exec (.brk c) s = Sys2Proof.Machine.execBrk c s := rfl
theorem exec_tlbinvVa (d : SReg) (a : SReg) (s : State) : exec (.tlbinvVa d a) s = Sys2Proof.Machine.execTlbinvVa d a s := rfl
theorem exec_tlbinvAsid (d : SReg) (s : State) : exec (.tlbinvAsid d) s = Sys2Proof.Machine.execTlbinvAsid d s := rfl
theorem exec_tlbinvIpa (d : SReg) (a : SReg) (s : State) : exec (.tlbinvIpa d a) s = Sys2Proof.Machine.execTlbinvIpa d a s := rfl
theorem exec_intr (p : BitVec 1) (v : BitVec 6) (s : State) : exec (.intr p v) s = Sys2Proof.Machine.execIntr p v s := rfl
theorem exec_add (d : SReg) (a : SReg) (b : SReg) (w : Bool) (s : State) : exec (.add d a b w) s = Sys2Proof.Machine.execAdd d a b w s := rfl
theorem exec_sub (d : SReg) (a : SReg) (b : SReg) (w : Bool) (s : State) : exec (.sub d a b w) s = Sys2Proof.Machine.execSub d a b w s := rfl
theorem exec_mul (d : SReg) (a : SReg) (b : SReg) (w : Bool) (s : State) : exec (.mul d a b w) s = Sys2Proof.Machine.execMul d a b w s := rfl
theorem exec_mulh (d : SReg) (a : SReg) (b : SReg) (w : Bool) (s : State) : exec (.mulh d a b w) s = Sys2Proof.Machine.execMulh d a b w s := rfl
theorem exec_mulhu (d : SReg) (a : SReg) (b : SReg) (w : Bool) (s : State) : exec (.mulhu d a b w) s = Sys2Proof.Machine.execMulhu d a b w s := rfl
theorem exec_div (d : SReg) (a : SReg) (b : SReg) (w : Bool) (s : State) : exec (.div d a b w) s = Sys2Proof.Machine.execDiv d a b w s := rfl
theorem exec_divu (d : SReg) (a : SReg) (b : SReg) (w : Bool) (s : State) : exec (.divu d a b w) s = Sys2Proof.Machine.execDivu d a b w s := rfl
theorem exec_rem (d : SReg) (a : SReg) (b : SReg) (w : Bool) (s : State) : exec (.rem d a b w) s = Sys2Proof.Machine.execRem d a b w s := rfl
theorem exec_remu (d : SReg) (a : SReg) (b : SReg) (w : Bool) (s : State) : exec (.remu d a b w) s = Sys2Proof.Machine.execRemu d a b w s := rfl
theorem exec_and (d : SReg) (a : SReg) (b : SReg) (w : Bool) (s : State) : exec (.and d a b w) s = Sys2Proof.Machine.execAnd d a b w s := rfl
theorem exec_or (d : SReg) (a : SReg) (b : SReg) (w : Bool) (s : State) : exec (.or d a b w) s = Sys2Proof.Machine.execOr d a b w s := rfl
theorem exec_xor (d : SReg) (a : SReg) (b : SReg) (w : Bool) (s : State) : exec (.xor d a b w) s = Sys2Proof.Machine.execXor d a b w s := rfl
theorem exec_sll (d : SReg) (a : SReg) (b : SReg) (w : Bool) (s : State) : exec (.sll d a b w) s = Sys2Proof.Machine.execSll d a b w s := rfl
theorem exec_srl (d : SReg) (a : SReg) (b : SReg) (w : Bool) (s : State) : exec (.srl d a b w) s = Sys2Proof.Machine.execSrl d a b w s := rfl
theorem exec_sra (d : SReg) (a : SReg) (b : SReg) (w : Bool) (s : State) : exec (.sra d a b w) s = Sys2Proof.Machine.execSra d a b w s := rfl
theorem exec_slt (d : SReg) (a : SReg) (b : SReg) (w : Bool) (s : State) : exec (.slt d a b w) s = Sys2Proof.Machine.execSlt d a b w s := rfl
theorem exec_sltu (d : SReg) (a : SReg) (b : SReg) (w : Bool) (s : State) : exec (.sltu d a b w) s = Sys2Proof.Machine.execSltu d a b w s := rfl
theorem exec_min (d : SReg) (a : SReg) (b : SReg) (w : Bool) (s : State) : exec (.min d a b w) s = Sys2Proof.Machine.execMin d a b w s := rfl
theorem exec_max (d : SReg) (a : SReg) (b : SReg) (w : Bool) (s : State) : exec (.max d a b w) s = Sys2Proof.Machine.execMax d a b w s := rfl
theorem exec_minu (d : SReg) (a : SReg) (b : SReg) (w : Bool) (s : State) : exec (.minu d a b w) s = Sys2Proof.Machine.execMinu d a b w s := rfl
theorem exec_maxu (d : SReg) (a : SReg) (b : SReg) (w : Bool) (s : State) : exec (.maxu d a b w) s = Sys2Proof.Machine.execMaxu d a b w s := rfl
theorem exec_addi (d : SReg) (a : SReg) (i : BitVec 15) (s : State) : exec (.addi d a i) s = Sys2Proof.Machine.execAddi d a i s := rfl
theorem exec_andi (d : SReg) (a : SReg) (i : BitVec 15) (s : State) : exec (.andi d a i) s = Sys2Proof.Machine.execAndi d a i s := rfl
theorem exec_ori (d : SReg) (a : SReg) (i : BitVec 15) (s : State) : exec (.ori d a i) s = Sys2Proof.Machine.execOri d a i s := rfl
theorem exec_xori (d : SReg) (a : SReg) (i : BitVec 15) (s : State) : exec (.xori d a i) s = Sys2Proof.Machine.execXori d a i s := rfl
theorem exec_slli (d : SReg) (a : SReg) (w : Bool) (n : BitVec 6) (s : State) : exec (.slli d a w n) s = Sys2Proof.Machine.execSlli d a w n s := rfl
theorem exec_srli (d : SReg) (a : SReg) (w : Bool) (n : BitVec 6) (s : State) : exec (.srli d a w n) s = Sys2Proof.Machine.execSrli d a w n s := rfl
theorem exec_srai (d : SReg) (a : SReg) (w : Bool) (n : BitVec 6) (s : State) : exec (.srai d a w n) s = Sys2Proof.Machine.execSrai d a w n s := rfl
theorem exec_slti (d : SReg) (a : SReg) (i : BitVec 15) (s : State) : exec (.slti d a i) s = Sys2Proof.Machine.execSlti d a i s := rfl
theorem exec_sltiu (d : SReg) (a : SReg) (i : BitVec 15) (s : State) : exec (.sltiu d a i) s = Sys2Proof.Machine.execSltiu d a i s := rfl
theorem exec_lih (d : SReg) (i : BitVec 20) (s : State) : exec (.lih d i) s = Sys2Proof.Machine.execLih d i s := rfl
theorem exec_lix (d : SReg) (i : BitVec 20) (s : State) : exec (.lix d i) s = Sys2Proof.Machine.execLix d i s := rfl
theorem exec_sel (d : SReg) (a : SReg) (b : SReg) (c : SReg) (s : State) : exec (.sel d a b c) s = Sys2Proof.Machine.execSel d a b c s := rfl
theorem exec_clz (d : SReg) (a : SReg) (w : Bool) (s : State) : exec (.clz d a w) s = Sys2Proof.Machine.execClz d a w s := rfl
theorem exec_ctz (d : SReg) (a : SReg) (w : Bool) (s : State) : exec (.ctz d a w) s = Sys2Proof.Machine.execCtz d a w s := rfl
theorem exec_popc (d : SReg) (a : SReg) (w : Bool) (s : State) : exec (.popc d a w) s = Sys2Proof.Machine.execPopc d a w s := rfl
theorem exec_bext (d : SReg) (a : SReg) (b : SReg) (w : Bool) (s : State) : exec (.bext d a b w) s = Sys2Proof.Machine.execBext d a b w s := rfl
theorem exec_bins (d : SReg) (a : SReg) (b : SReg) (w : Bool) (s : State) : exec (.bins d a b w) s = Sys2Proof.Machine.execBins d a b w s := rfl
theorem exec_bswap (d : SReg) (a : SReg) (w : Bool) (s : State) : exec (.bswap d a w) s = Sys2Proof.Machine.execBswap d a w s := rfl
theorem exec_csrr (d : SReg) (n : CsrNum) (s : State) : exec (.csrr d n) s = Sys2Proof.Machine.execCsrr d n s := rfl
theorem exec_csrw (d : SReg) (a : SReg) (n : CsrNum) (s : State) : exec (.csrw d a n) s = Sys2Proof.Machine.execCsrw d a n s := rfl
theorem exec_csrs (d : SReg) (a : SReg) (n : CsrNum) (s : State) : exec (.csrs d a n) s = Sys2Proof.Machine.execCsrs d a n s := rfl
theorem exec_csrc (d : SReg) (a : SReg) (n : CsrNum) (s : State) : exec (.csrc d a n) s = Sys2Proof.Machine.execCsrc d a n s := rfl
theorem exec_fadd (d : SReg) (a : SReg) (b : SReg) (t : FTy) (s : State) : exec (.fadd d a b t) s = Sys2Proof.Machine.execFadd d a b t s := rfl
theorem exec_fsub (d : SReg) (a : SReg) (b : SReg) (t : FTy) (s : State) : exec (.fsub d a b t) s = Sys2Proof.Machine.execFsub d a b t s := rfl
theorem exec_fmul (d : SReg) (a : SReg) (b : SReg) (t : FTy) (s : State) : exec (.fmul d a b t) s = Sys2Proof.Machine.execFmul d a b t s := rfl
theorem exec_fdiv (d : SReg) (a : SReg) (b : SReg) (t : FTy) (s : State) : exec (.fdiv d a b t) s = Sys2Proof.Machine.execFdiv d a b t s := rfl
theorem exec_fsqrt (d : SReg) (a : SReg) (t : FTy) (s : State) : exec (.fsqrt d a t) s = Sys2Proof.Machine.execFsqrt d a t s := rfl
theorem exec_fmin (d : SReg) (a : SReg) (b : SReg) (t : FTy) (s : State) : exec (.fmin d a b t) s = Sys2Proof.Machine.execFmin d a b t s := rfl
theorem exec_fmax (d : SReg) (a : SReg) (b : SReg) (t : FTy) (s : State) : exec (.fmax d a b t) s = Sys2Proof.Machine.execFmax d a b t s := rfl
theorem exec_feq (d : SReg) (a : SReg) (b : SReg) (t : FTy) (s : State) : exec (.feq d a b t) s = Sys2Proof.Machine.execFeq d a b t s := rfl
theorem exec_flt (d : SReg) (a : SReg) (b : SReg) (t : FTy) (s : State) : exec (.flt d a b t) s = Sys2Proof.Machine.execFlt d a b t s := rfl
theorem exec_fle (d : SReg) (a : SReg) (b : SReg) (t : FTy) (s : State) : exec (.fle d a b t) s = Sys2Proof.Machine.execFle d a b t s := rfl
theorem exec_fclass (d : SReg) (a : SReg) (t : FTy) (s : State) : exec (.fclass d a t) s = Sys2Proof.Machine.execFclass d a t s := rfl
theorem exec_fcvtFF (d : SReg) (a : SReg) (t : FTy) (sz : FTy) (s : State) : exec (.fcvtFF d a t sz) s = Sys2Proof.Machine.execFcvtFF d a t sz s := rfl
theorem exec_fcvtFI (d : SReg) (a : SReg) (t : FTy) (sz : ITy) (s : State) : exec (.fcvtFI d a t sz) s = Sys2Proof.Machine.execFcvtFI d a t sz s := rfl
theorem exec_fcvtIF (d : SReg) (a : SReg) (t : FTy) (sz : ITy) (s : State) : exec (.fcvtIF d a t sz) s = Sys2Proof.Machine.execFcvtIF d a t sz s := rfl
theorem exec_fsgnj (d : SReg) (a : SReg) (b : SReg) (t : FTy) (s : State) : exec (.fsgnj d a b t) s = Sys2Proof.Machine.execFsgnj d a b t s := rfl
theorem exec_fsgnjN (d : SReg) (a : SReg) (b : SReg) (t : FTy) (s : State) : exec (.fsgnjN d a b t) s = Sys2Proof.Machine.execFsgnjN d a b t s := rfl
theorem exec_fsgnjX (d : SReg) (a : SReg) (b : SReg) (t : FTy) (s : State) : exec (.fsgnjX d a b t) s = Sys2Proof.Machine.execFsgnjX d a b t s := rfl
theorem exec_ffma (d : SReg) (a : SReg) (b : SReg) (c : SReg) (t : FTy) (s : State) : exec (.ffma d a b c t) s = Sys2Proof.Machine.execFfma d a b c t s := rfl
theorem exec_ffms (d : SReg) (a : SReg) (b : SReg) (c : SReg) (t : FTy) (s : State) : exec (.ffms d a b c t) s = Sys2Proof.Machine.execFfms d a b c t s := rfl
theorem exec_ffnma (d : SReg) (a : SReg) (b : SReg) (c : SReg) (t : FTy) (s : State) : exec (.ffnma d a b c t) s = Sys2Proof.Machine.execFfnma d a b c t s := rfl
theorem exec_ffnms (d : SReg) (a : SReg) (b : SReg) (c : SReg) (t : FTy) (s : State) : exec (.ffnms d a b c t) s = Sys2Proof.Machine.execFfnms d a b c t s := rfl
theorem exec_beq (a : SReg) (b : SReg) (o : BitVec 15) (s : State) : exec (.beq a b o) s = Sys2Proof.Machine.execBeq a b o s := rfl
theorem exec_bne (a : SReg) (b : SReg) (o : BitVec 15) (s : State) : exec (.bne a b o) s = Sys2Proof.Machine.execBne a b o s := rfl
theorem exec_blt (a : SReg) (b : SReg) (o : BitVec 15) (s : State) : exec (.blt a b o) s = Sys2Proof.Machine.execBlt a b o s := rfl
theorem exec_bge (a : SReg) (b : SReg) (o : BitVec 15) (s : State) : exec (.bge a b o) s = Sys2Proof.Machine.execBge a b o s := rfl
theorem exec_bltu (a : SReg) (b : SReg) (o : BitVec 15) (s : State) : exec (.bltu a b o) s = Sys2Proof.Machine.execBltu a b o s := rfl
theorem exec_bgeu (a : SReg) (b : SReg) (o : BitVec 15) (s : State) : exec (.bgeu a b o) s = Sys2Proof.Machine.execBgeu a b o s := rfl
theorem exec_jal (o : BitVec 25) (s : State) : exec (.jal o) s = Sys2Proof.Machine.execJal o s := rfl
theorem exec_jalr (d : SReg) (a : SReg) (i : BitVec 15) (s : State) : exec (.jalr d a i) s = Sys2Proof.Machine.execJalr d a i s := rfl
theorem exec_loop (n : BitVec 1) (a : SReg) (e : BitVec 15) (s : State) : exec (.loop n a e) s = Sys2Proof.Machine.execLoop n a e s := rfl
theorem exec_loopi (n : BitVec 1) (c : BitVec 12) (e : BitVec 8) (s : State) : exec (.loopi n c e) s = Sys2Proof.Machine.execLoopi n c e s := rfl
theorem exec_vloop (n : BitVec 1) (a : SReg) (e : BitVec 15) (s : State) : exec (.vloop n a e) s = Sys2Proof.Machine.execVloop n a e s := rfl
theorem exec_lpclr (n : BitVec 1) (s : State) : exec (.lpclr n) s = Sys2Proof.Machine.execLpclr n s := rfl
theorem exec_bqput (a : SReg) (s : State) : exec (.bqput a) s = Sys2Proof.Machine.execBqput a s := rfl
theorem exec_bqb (o : BitVec 15) (s : State) : exec (.bqb o) s = Sys2Proof.Machine.execBqb o s := rfl
theorem exec_ldB (d : SReg) (a : SReg) (o : BitVec 12) (s : State) : exec (.ldB d a o) s = Sys2Proof.Machine.execLdB d a o s := rfl
theorem exec_ldH (d : SReg) (a : SReg) (o : BitVec 12) (s : State) : exec (.ldH d a o) s = Sys2Proof.Machine.execLdH d a o s := rfl
theorem exec_ldW (d : SReg) (a : SReg) (o : BitVec 12) (s : State) : exec (.ldW d a o) s = Sys2Proof.Machine.execLdW d a o s := rfl
theorem exec_ldD (d : SReg) (a : SReg) (o : BitVec 12) (s : State) : exec (.ldD d a o) s = Sys2Proof.Machine.execLdD d a o s := rfl
theorem exec_ldBu (d : SReg) (a : SReg) (o : BitVec 12) (s : State) : exec (.ldBu d a o) s = Sys2Proof.Machine.execLdBu d a o s := rfl
theorem exec_ldHu (d : SReg) (a : SReg) (o : BitVec 12) (s : State) : exec (.ldHu d a o) s = Sys2Proof.Machine.execLdHu d a o s := rfl
theorem exec_ldWu (d : SReg) (a : SReg) (o : BitVec 12) (s : State) : exec (.ldWu d a o) s = Sys2Proof.Machine.execLdWu d a o s := rfl
theorem exec_stB (d : SReg) (a : SReg) (o : BitVec 12) (s : State) : exec (.stB d a o) s = Sys2Proof.Machine.execStB d a o s := rfl
theorem exec_stH (d : SReg) (a : SReg) (o : BitVec 12) (s : State) : exec (.stH d a o) s = Sys2Proof.Machine.execStH d a o s := rfl
theorem exec_stW (d : SReg) (a : SReg) (o : BitVec 12) (s : State) : exec (.stW d a o) s = Sys2Proof.Machine.execStW d a o s := rfl
theorem exec_stD (d : SReg) (a : SReg) (o : BitVec 12) (s : State) : exec (.stD d a o) s = Sys2Proof.Machine.execStD d a o s := rfl
theorem exec_prefR (a : SReg) (o : BitVec 12) (s : State) : exec (.prefR a o) s = Sys2Proof.Machine.execPrefR a o s := rfl
theorem exec_prefW (a : SReg) (o : BitVec 12) (s : State) : exec (.prefW a o) s = Sys2Proof.Machine.execPrefW a o s := rfl
theorem exec_prefS (a : SReg) (o : BitVec 12) (s : State) : exec (.prefS a o) s = Sys2Proof.Machine.execPrefS a o s := rfl
theorem exec_amoAdd (d : SReg) (a : SReg) (b : SReg) (o : AmoOrder) (sz : IntSize) (s : State) : exec (.amoAdd d a b o sz) s = Sys2Proof.Machine.execAmoAdd d a b o sz s := rfl
theorem exec_amoAnd (d : SReg) (a : SReg) (b : SReg) (o : AmoOrder) (sz : IntSize) (s : State) : exec (.amoAnd d a b o sz) s = Sys2Proof.Machine.execAmoAnd d a b o sz s := rfl
theorem exec_amoOr (d : SReg) (a : SReg) (b : SReg) (o : AmoOrder) (sz : IntSize) (s : State) : exec (.amoOr d a b o sz) s = Sys2Proof.Machine.execAmoOr d a b o sz s := rfl
theorem exec_amoXor (d : SReg) (a : SReg) (b : SReg) (o : AmoOrder) (sz : IntSize) (s : State) : exec (.amoXor d a b o sz) s = Sys2Proof.Machine.execAmoXor d a b o sz s := rfl
theorem exec_amoMin (d : SReg) (a : SReg) (b : SReg) (o : AmoOrder) (sz : IntSize) (s : State) : exec (.amoMin d a b o sz) s = Sys2Proof.Machine.execAmoMin d a b o sz s := rfl
theorem exec_amoMax (d : SReg) (a : SReg) (b : SReg) (o : AmoOrder) (sz : IntSize) (s : State) : exec (.amoMax d a b o sz) s = Sys2Proof.Machine.execAmoMax d a b o sz s := rfl
theorem exec_amoMinu (d : SReg) (a : SReg) (b : SReg) (o : AmoOrder) (sz : IntSize) (s : State) : exec (.amoMinu d a b o sz) s = Sys2Proof.Machine.execAmoMinu d a b o sz s := rfl
theorem exec_amoMaxu (d : SReg) (a : SReg) (b : SReg) (o : AmoOrder) (sz : IntSize) (s : State) : exec (.amoMaxu d a b o sz) s = Sys2Proof.Machine.execAmoMaxu d a b o sz s := rfl
theorem exec_amoSwap (d : SReg) (a : SReg) (b : SReg) (o : AmoOrder) (z : AmoSize) (s : State) : exec (.amoSwap d a b o z) s = Sys2Proof.Machine.execAmoSwap d a b o z s := rfl
theorem exec_amoCas (d : SReg) (a : SReg) (b : SReg) (o : AmoOrder) (z : AmoSize) (s : State) : exec (.amoCas d a b o z) s = Sys2Proof.Machine.execAmoCas d a b o z s := rfl
theorem exec_amoFadd (d : SReg) (a : SReg) (b : SReg) (o : AmoOrder) (z : FpSize) (s : State) : exec (.amoFadd d a b o z) s = Sys2Proof.Machine.execAmoFadd d a b o z s := rfl
theorem exec_fenceAcq (sz : Scope) (s : State) : exec (.fenceAcq sz) s = Sys2Proof.Machine.execFenceAcq sz s := rfl
theorem exec_fenceRel (sz : Scope) (s : State) : exec (.fenceRel sz) s = Sys2Proof.Machine.execFenceRel sz s := rfl
theorem exec_fenceAr (sz : Scope) (s : State) : exec (.fenceAr sz) s = Sys2Proof.Machine.execFenceAr sz s := rfl
theorem exec_fenceSc (sz : Scope) (s : State) : exec (.fenceSc sz) s = Sys2Proof.Machine.execFenceSc sz s := rfl
theorem exec_vdrain (sz : Scope) (s : State) : exec (.vdrain sz) s = Sys2Proof.Machine.execVdrain sz s := rfl
theorem exec_mmon (a : SReg) (s : State) : exec (.mmon a) s = Sys2Proof.Machine.execMmon a s := rfl
theorem exec_mwait (d : SReg) (a : SReg) (s : State) : exec (.mwait d a) s = Sys2Proof.Machine.execMwait d a s := rfl
theorem exec_bar (l : Level) (s : State) : exec (.bar l) s = Sys2Proof.Machine.execBar l s := rfl
theorem exec_setvl (d : SReg) (a : SReg) (s : State) : exec (.setvl d a) s = Sys2Proof.Machine.execSetvl d a s := rfl
theorem exec_setvli (d : SReg) (i : BitVec 14) (s : State) : exec (.setvli d i) s = Sys2Proof.Machine.execSetvli d i s := rfl
theorem exec_vadd (d : VReg) (a : VReg) (b : VOperand) (s : State) : exec (.vadd d a b) s = Sys2Proof.Machine.execVadd d a b s := rfl
theorem exec_vsub (d : VReg) (a : VReg) (b : VOperand) (s : State) : exec (.vsub d a b) s = Sys2Proof.Machine.execVsub d a b s := rfl
theorem exec_vmul (d : VReg) (a : VReg) (b : VOperand) (s : State) : exec (.vmul d a b) s = Sys2Proof.Machine.execVmul d a b s := rfl
theorem exec_vmulh (d : VReg) (a : VReg) (b : VOperand) (s : State) : exec (.vmulh d a b) s = Sys2Proof.Machine.execVmulh d a b s := rfl
theorem exec_vdiv (d : VReg) (a : VReg) (b : VOperand) (s : State) : exec (.vdiv d a b) s = Sys2Proof.Machine.execVdiv d a b s := rfl
theorem exec_vmin (d : VReg) (a : VReg) (b : VOperand) (s : State) : exec (.vmin d a b) s = Sys2Proof.Machine.execVmin d a b s := rfl
theorem exec_vmax (d : VReg) (a : VReg) (b : VOperand) (s : State) : exec (.vmax d a b) s = Sys2Proof.Machine.execVmax d a b s := rfl
theorem exec_vabs (d : VReg) (a : VReg) (s : State) : exec (.vabs d a) s = Sys2Proof.Machine.execVabs d a s := rfl
theorem exec_vneg (d : VReg) (a : VReg) (s : State) : exec (.vneg d a) s = Sys2Proof.Machine.execVneg d a s := rfl
theorem exec_vand (d : VReg) (a : VReg) (b : VOperand) (s : State) : exec (.vand d a b) s = Sys2Proof.Machine.execVand d a b s := rfl
theorem exec_vor (d : VReg) (a : VReg) (b : VOperand) (s : State) : exec (.vor d a b) s = Sys2Proof.Machine.execVor d a b s := rfl
theorem exec_vxor (d : VReg) (a : VReg) (b : VOperand) (s : State) : exec (.vxor d a b) s = Sys2Proof.Machine.execVxor d a b s := rfl
theorem exec_vnot (d : VReg) (a : VReg) (s : State) : exec (.vnot d a) s = Sys2Proof.Machine.execVnot d a s := rfl
theorem exec_vsll (d : VReg) (a : VReg) (b : VOperand) (s : State) : exec (.vsll d a b) s = Sys2Proof.Machine.execVsll d a b s := rfl
theorem exec_vsrl (d : VReg) (a : VReg) (b : VOperand) (s : State) : exec (.vsrl d a b) s = Sys2Proof.Machine.execVsrl d a b s := rfl
theorem exec_vsra (d : VReg) (a : VReg) (b : VOperand) (s : State) : exec (.vsra d a b) s = Sys2Proof.Machine.execVsra d a b s := rfl
theorem exec_vdot4 (d : VReg) (a : VReg) (b : VOperand) (s : State) : exec (.vdot4 d a b) s = Sys2Proof.Machine.execVdot4 d a b s := rfl
theorem exec_vaddw (d : VReg) (a : VReg) (b : VOperand) (s : State) : exec (.vaddw d a b) s = Sys2Proof.Machine.execVaddw d a b s := rfl
theorem exec_vclass (d : VReg) (a : VReg) (s : State) : exec (.vclass d a) s = Sys2Proof.Machine.execVclass d a s := rfl
theorem exec_vsgnj (d : VReg) (a : VReg) (b : VOperand) (s : State) : exec (.vsgnj d a b) s = Sys2Proof.Machine.execVsgnj d a b s := rfl
theorem exec_vsgnjN (d : VReg) (a : VReg) (b : VOperand) (s : State) : exec (.vsgnjN d a b) s = Sys2Proof.Machine.execVsgnjN d a b s := rfl
theorem exec_vsgnjX (d : VReg) (a : VReg) (b : VOperand) (s : State) : exec (.vsgnjX d a b) s = Sys2Proof.Machine.execVsgnjX d a b s := rfl
theorem exec_vfma (d : VReg) (a : VReg) (b : VReg) (c : VReg) (s : State) : exec (.vfma d a b c) s = Sys2Proof.Machine.execVfma d a b c s := rfl
theorem exec_vfms (d : VReg) (a : VReg) (b : VReg) (c : VReg) (s : State) : exec (.vfms d a b c) s = Sys2Proof.Machine.execVfms d a b c s := rfl
theorem exec_vfnma (d : VReg) (a : VReg) (b : VReg) (c : VReg) (s : State) : exec (.vfnma d a b c) s = Sys2Proof.Machine.execVfnma d a b c s := rfl
theorem exec_vfnms (d : VReg) (a : VReg) (b : VReg) (c : VReg) (s : State) : exec (.vfnms d a b c) s = Sys2Proof.Machine.execVfnms d a b c s := rfl
theorem exec_vcmpEq (d : MReg) (a : VReg) (b : VOperand) (s : State) : exec (.vcmpEq d a b) s = Sys2Proof.Machine.execVcmpEq d a b s := rfl
theorem exec_vcmpNe (d : MReg) (a : VReg) (b : VOperand) (s : State) : exec (.vcmpNe d a b) s = Sys2Proof.Machine.execVcmpNe d a b s := rfl
theorem exec_vcmpLt (d : MReg) (a : VReg) (b : VOperand) (s : State) : exec (.vcmpLt d a b) s = Sys2Proof.Machine.execVcmpLt d a b s := rfl
theorem exec_vcmpLe (d : MReg) (a : VReg) (b : VOperand) (s : State) : exec (.vcmpLe d a b) s = Sys2Proof.Machine.execVcmpLe d a b s := rfl
theorem exec_vcmpGt (d : MReg) (a : VReg) (b : VOperand) (s : State) : exec (.vcmpGt d a b) s = Sys2Proof.Machine.execVcmpGt d a b s := rfl
theorem exec_vcmpGe (d : MReg) (a : VReg) (b : VOperand) (s : State) : exec (.vcmpGe d a b) s = Sys2Proof.Machine.execVcmpGe d a b s := rfl
theorem exec_vcmpUn (d : MReg) (a : VReg) (b : VOperand) (s : State) : exec (.vcmpUn d a b) s = Sys2Proof.Machine.execVcmpUn d a b s := rfl
theorem exec_vcmpOrd (d : MReg) (a : VReg) (b : VOperand) (s : State) : exec (.vcmpOrd d a b) s = Sys2Proof.Machine.execVcmpOrd d a b s := rfl
theorem exec_vsel (d : VReg) (a : VReg) (b : VReg) (c : MReg) (s : State) : exec (.vsel d a b c) s = Sys2Proof.Machine.execVsel d a b c s := rfl
theorem exec_vexp (d : VReg) (a : VReg) (s : State) : exec (.vexp d a) s = Sys2Proof.Machine.execVexp d a s := rfl
theorem exec_vexp2 (d : VReg) (a : VReg) (s : State) : exec (.vexp2 d a) s = Sys2Proof.Machine.execVexp2 d a s := rfl
theorem exec_vlog (d : VReg) (a : VReg) (s : State) : exec (.vlog d a) s = Sys2Proof.Machine.execVlog d a s := rfl
theorem exec_vlog2 (d : VReg) (a : VReg) (s : State) : exec (.vlog2 d a) s = Sys2Proof.Machine.execVlog2 d a s := rfl
theorem exec_vsin (d : VReg) (a : VReg) (s : State) : exec (.vsin d a) s = Sys2Proof.Machine.execVsin d a s := rfl
theorem exec_vcos (d : VReg) (a : VReg) (s : State) : exec (.vcos d a) s = Sys2Proof.Machine.execVcos d a s := rfl
theorem exec_vtanh (d : VReg) (a : VReg) (s : State) : exec (.vtanh d a) s = Sys2Proof.Machine.execVtanh d a s := rfl
theorem exec_vsigm (d : VReg) (a : VReg) (s : State) : exec (.vsigm d a) s = Sys2Proof.Machine.execVsigm d a s := rfl
theorem exec_vrcp (d : VReg) (a : VReg) (s : State) : exec (.vrcp d a) s = Sys2Proof.Machine.execVrcp d a s := rfl
theorem exec_vsqrt (d : VReg) (a : VReg) (s : State) : exec (.vsqrt d a) s = Sys2Proof.Machine.execVsqrt d a s := rfl
theorem exec_vrsqrt (d : VReg) (a : VReg) (s : State) : exec (.vrsqrt d a) s = Sys2Proof.Machine.execVrsqrt d a s := rfl
theorem exec_verf (d : VReg) (a : VReg) (s : State) : exec (.verf d a) s = Sys2Proof.Machine.execVerf d a s := rfl
theorem exec_vapply (d : VReg) (a : VReg) (b : SReg) (s : State) : exec (.vapply d a b) s = Sys2Proof.Machine.execVapply d a b s := rfl
theorem exec_vcvt (d : VReg) (a : VReg) (s : State) : exec (.vcvt d a) s = Sys2Proof.Machine.execVcvt d a s := rfl
theorem exec_vquant (d : VReg) (a : VReg) (s : State) : exec (.vquant d a) s = Sys2Proof.Machine.execVquant d a s := rfl
theorem exec_vhad (d : VReg) (a : VReg) (k : BitVec 5) (s : State) : exec (.vhad d a k) s = Sys2Proof.Machine.execVhad d a k s := rfl
theorem exec_vsclget (d : VReg) (a : VReg) (s : State) : exec (.vsclget d a) s = Sys2Proof.Machine.execVsclget d a s := rfl
theorem exec_vsclset (d : VReg) (a : VReg) (s : State) : exec (.vsclset d a) s = Sys2Proof.Machine.execVsclset d a s := rfl
theorem exec_vperm (d : VReg) (a : VReg) (b : VReg) (s : State) : exec (.vperm d a b) s = Sys2Proof.Machine.execVperm d a b s := rfl
theorem exec_vslideup (d : VReg) (a : VReg) (b : SReg) (s : State) : exec (.vslideup d a b) s = Sys2Proof.Machine.execVslideup d a b s := rfl
theorem exec_vslidedn (d : VReg) (a : VReg) (b : SReg) (s : State) : exec (.vslidedn d a b) s = Sys2Proof.Machine.execVslidedn d a b s := rfl
theorem exec_vcompress (d : VReg) (a : VReg) (b : MReg) (s : State) : exec (.vcompress d a b) s = Sys2Proof.Machine.execVcompress d a b s := rfl
theorem exec_vexpand (d : VReg) (a : VReg) (b : MReg) (s : State) : exec (.vexpand d a b) s = Sys2Proof.Machine.execVexpand d a b s := rfl
theorem exec_vzip (d : VReg) (a : VReg) (b : VReg) (s : State) : exec (.vzip d a b) s = Sys2Proof.Machine.execVzip d a b s := rfl
theorem exec_vunzip (d : VReg) (a : VReg) (b : VReg) (s : State) : exec (.vunzip d a b) s = Sys2Proof.Machine.execVunzip d a b s := rfl
theorem exec_vbcast (d : VReg) (a : SReg) (s : State) : exec (.vbcast d a) s = Sys2Proof.Machine.execVbcast d a s := rfl
theorem exec_vid (d : VReg) (s : State) : exec (.vid d) s = Sys2Proof.Machine.execVid d s := rfl
theorem exec_vext (d : SReg) (a : VReg) (b : SReg) (s : State) : exec (.vext d a b) s = Sys2Proof.Machine.execVext d a b s := rfl
theorem exec_vins (d : VReg) (a : SReg) (b : SReg) (s : State) : exec (.vins d a b) s = Sys2Proof.Machine.execVins d a b s := rfl
theorem exec_vmv (d : VReg) (a : VReg) (s : State) : exec (.vmv d a) s = Sys2Proof.Machine.execVmv d a s := rfl
theorem exec_vredSum (d : VReg) (a : VReg) (s : State) : exec (.vredSum d a) s = Sys2Proof.Machine.execVredSum d a s := rfl
theorem exec_vredMin (d : VReg) (a : VReg) (s : State) : exec (.vredMin d a) s = Sys2Proof.Machine.execVredMin d a s := rfl
theorem exec_vredMax (d : VReg) (a : VReg) (s : State) : exec (.vredMax d a) s = Sys2Proof.Machine.execVredMax d a s := rfl
theorem exec_vredAnd (d : VReg) (a : VReg) (s : State) : exec (.vredAnd d a) s = Sys2Proof.Machine.execVredAnd d a s := rfl
theorem exec_vredOr (d : VReg) (a : VReg) (s : State) : exec (.vredOr d a) s = Sys2Proof.Machine.execVredOr d a s := rfl
theorem exec_vredXor (d : VReg) (a : VReg) (s : State) : exec (.vredXor d a) s = Sys2Proof.Machine.execVredXor d a s := rfl
theorem exec_vscanSum (d : VReg) (a : VReg) (s : State) : exec (.vscanSum d a) s = Sys2Proof.Machine.execVscanSum d a s := rfl
theorem exec_vscanMin (d : VReg) (a : VReg) (s : State) : exec (.vscanMin d a) s = Sys2Proof.Machine.execVscanMin d a s := rfl
theorem exec_vscanMax (d : VReg) (a : VReg) (s : State) : exec (.vscanMax d a) s = Sys2Proof.Machine.execVscanMax d a s := rfl
theorem exec_vscanAnd (d : VReg) (a : VReg) (s : State) : exec (.vscanAnd d a) s = Sys2Proof.Machine.execVscanAnd d a s := rfl
theorem exec_vscanOr (d : VReg) (a : VReg) (s : State) : exec (.vscanOr d a) s = Sys2Proof.Machine.execVscanOr d a s := rfl
theorem exec_vscanXor (d : VReg) (a : VReg) (s : State) : exec (.vscanXor d a) s = Sys2Proof.Machine.execVscanXor d a s := rfl
theorem exec_mand (d : MReg) (a : MReg) (b : MReg) (s : State) : exec (.mand d a b) s = Sys2Proof.Machine.execMand d a b s := rfl
theorem exec_mor (d : MReg) (a : MReg) (b : MReg) (s : State) : exec (.mor d a b) s = Sys2Proof.Machine.execMor d a b s := rfl
theorem exec_mxor (d : MReg) (a : MReg) (b : MReg) (s : State) : exec (.mxor d a b) s = Sys2Proof.Machine.execMxor d a b s := rfl
theorem exec_mnot (d : MReg) (a : MReg) (s : State) : exec (.mnot d a) s = Sys2Proof.Machine.execMnot d a s := rfl
theorem exec_mpop (d : SReg) (a : MReg) (s : State) : exec (.mpop d a) s = Sys2Proof.Machine.execMpop d a s := rfl
theorem exec_mfirst (d : SReg) (a : MReg) (s : State) : exec (.mfirst d a) s = Sys2Proof.Machine.execMfirst d a s := rfl
theorem exec_mset (d : MReg) (a : SReg) (s : State) : exec (.mset d a) s = Sys2Proof.Machine.execMset d a s := rfl
theorem exec_mmv (d : MReg) (a : MReg) (s : State) : exec (.mmv d a) s = Sys2Proof.Machine.execMmv d a s := rfl
theorem exec_settle (a : VReg) (s : State) : exec (.settle a) s = Sys2Proof.Machine.execSettle a s := rfl
theorem exec_settleNf (a : VReg) (s : State) : exec (.settleNf a) s = Sys2Proof.Machine.execSettleNf a s := rfl
theorem exec_vpres (d : MReg) (a : VReg) (s : State) : exec (.vpres d a) s = Sys2Proof.Machine.execVpres d a s := rfl
theorem exec_vfill (a : SReg) (s : State) : exec (.vfill a) s = Sys2Proof.Machine.execVfill a s := rfl
theorem exec_vld (d : VReg) (a : SReg) (w : Bool) (s : State) : exec (.vld d a w) s = Sys2Proof.Machine.execVld d a w s := rfl
theorem exec_vlds (d : VReg) (a : SReg) (b : SReg) (w : Bool) (s : State) : exec (.vlds d a b w) s = Sys2Proof.Machine.execVlds d a b w s := rfl
theorem exec_vwait (d : VReg) (s : State) : exec (.vwait d) s = Sys2Proof.Machine.execVwait d s := rfl
theorem exec_vst (d : VReg) (a : SReg) (u : Bool) (s : State) : exec (.vst d a u) s = Sys2Proof.Machine.execVst d a u s := rfl
theorem exec_vsts (d : VReg) (a : SReg) (b : SReg) (u : Bool) (s : State) : exec (.vsts d a b u) s = Sys2Proof.Machine.execVsts d a b u s := rfl
theorem exec_vgat (d : VReg) (a : SReg) (b : VReg) (sz : Bool) (s : State) : exec (.vgat d a b sz) s = Sys2Proof.Machine.execVgat d a b sz s := rfl
theorem exec_vsct (d : VReg) (a : SReg) (b : VReg) (u : Bool) (s : State) : exec (.vsct d a b u) s = Sys2Proof.Machine.execVsct d a b u s := rfl
theorem exec_vscadd (d : VReg) (a : SReg) (b : VReg) (u : Bool) (s : State) : exec (.vscadd d a b u) s = Sys2Proof.Machine.execVscadd d a b u s := rfl
theorem exec_vfas (d : VReg) (a : SReg) (b : VReg) (s : State) : exec (.vfas d a b) s = Sys2Proof.Machine.execVfas d a b s := rfl
theorem exec_vprobe (d : MReg) (a : SReg) (b : VReg) (sz : Bool) (s : State) : exec (.vprobe d a b sz) s = Sys2Proof.Machine.execVprobe d a b sz s := rfl
theorem exec_vldSc (d : VReg) (a : SReg) (s : State) : exec (.vldSc d a) s = Sys2Proof.Machine.execVldSc d a s := rfl
theorem exec_vstSc (d : VReg) (a : SReg) (s : State) : exec (.vstSc d a) s = Sys2Proof.Machine.execVstSc d a s := rfl
theorem exec_mma (d : AccReg) (a : VReg) (b : PairReg) (z : Bool) (g : BitVec 2) (s : State) : exec (.mma d a b z g) s = Sys2Proof.Machine.execMma d a b z g s := rfl
theorem exec_mmas (d : AccReg) (a : PairReg) (b : PairReg) (z : Bool) (s : State) : exec (.mmas d a b z) s = Sys2Proof.Machine.execMmas d a b z s := rfl
theorem exec_mmasp (d : AccReg) (a : VReg) (b : PairReg) (z : Bool) (g : BitVec 2) (s : State) : exec (.mmasp d a b z g) s = Sys2Proof.Machine.execMmasp d a b z g s := rfl
theorem exec_maccZ (d : AccReg) (s : State) : exec (.maccZ d) s = Sys2Proof.Machine.execMaccZ d s := rfl
theorem exec_maccRd (d : VReg) (a : AccReg) (b : SReg) (s : State) : exec (.maccRd d a b) s = Sys2Proof.Machine.execMaccRd d a b s := rfl
theorem exec_maccWr (d : AccReg) (a : VReg) (b : SReg) (s : State) : exec (.maccWr d a b) s = Sys2Proof.Machine.execMaccWr d a b s := rfl
theorem exec_maccSt (d : AccReg) (a : SReg) (b : SReg) (s : State) : exec (.maccSt d a b) s = Sys2Proof.Machine.execMaccSt d a b s := rfl
theorem exec_maccStX (d : AccReg) (a : SReg) (b : VReg) (s : State) : exec (.maccStX d a b) s = Sys2Proof.Machine.execMaccStX d a b s := rfl
theorem exec_mtd (d : PairReg) (a : SReg) (b : SReg) (s : State) : exec (.mtd d a b) s = Sys2Proof.Machine.execMtd d a b s := rfl
theorem exec_svld (d : SvReg) (a : SReg) (s : State) : exec (.svld d a) s = Sys2Proof.Machine.execSvld d a s := rfl
theorem exec_svst (d : SvReg) (a : SReg) (s : State) : exec (.svst d a) s = Sys2Proof.Machine.execSvst d a s := rfl
theorem exec_svadd (d : SvReg) (a : SvReg) (b : SvReg) (s : State) : exec (.svadd d a b) s = Sys2Proof.Machine.execSvadd d a b s := rfl
theorem exec_svmul (d : SvReg) (a : SvReg) (b : SvReg) (s : State) : exec (.svmul d a b) s = Sys2Proof.Machine.execSvmul d a b s := rfl
theorem exec_svscale (d : SvReg) (a : SvReg) (b : SReg) (s : State) : exec (.svscale d a b) s = Sys2Proof.Machine.execSvscale d a b s := rfl
theorem exec_svcomp (d : SvReg) (a : VReg) (s : State) : exec (.svcomp d a) s = Sys2Proof.Machine.execSvcomp d a s := rfl
theorem exec_svexp (d : VReg) (a : SvReg) (s : State) : exec (.svexp d a) s = Sys2Proof.Machine.execSvexp d a s := rfl
theorem exec_svlen (d : SReg) (a : SvReg) (s : State) : exec (.svlen d a) s = Sys2Proof.Machine.execSvlen d a s := rfl
theorem exec_nop (s : State) : exec .nop s = Sys2Proof.Machine.execNop s := rfl
theorem exec_tret (s : State) : exec .tret s = Sys2Proof.Machine.execTret s := rfl
theorem exec_halt (s : State) : exec .halt s = Sys2Proof.Machine.execHalt s := rfl
theorem exec_wfi (s : State) : exec .wfi s = Sys2Proof.Machine.execWfi s := rfl
theorem exec_tlbinvVmid (s : State) : exec .tlbinvVmid s = Sys2Proof.Machine.execTlbinvVmid s := rfl
theorem exec_tlbsync (s : State) : exec .tlbsync s = Sys2Proof.Machine.execTlbsync s := rfl
theorem exec_tlbsyncComplete (t : StrandId) (s : State) : exec (.tlbsyncComplete t) s = Sys2Proof.Machine.execTlbsyncComplete t s := rfl
theorem exec_mrWrite (v : Word) (s : State) : exec (.mrWrite v) s = Sys2Proof.Machine.execMrWrite v s := rfl
theorem exec_fflagsAccess (t : StrandId) (s : State) : exec (.fflagsAccess t) s = Sys2Proof.Machine.execFflagsAccess t s := rfl
theorem exec_microOpIssue (t : StrandId) (s : State) : exec (.microOpIssue t) s = Sys2Proof.Machine.execMicroOpIssue t s := rfl
theorem exec_settleAll (s : State) : exec .settleAll s = Sys2Proof.Machine.execSettleAll s := rfl
theorem exec_settleNfAll (s : State) : exec .settleNfAll s = Sys2Proof.Machine.execSettleNfAll s := rfl
theorem exec_settleComplete (t : StrandId) (s : State) : exec (.settleComplete t) s = Sys2Proof.Machine.execSettleComplete t s := rfl
theorem exec_thawTake (c : Nat) (k : Nat) (s : State) : exec (.thawTake c k) s = Sys2Proof.Machine.execThawTake c k s := rfl
theorem exec_thawTimeout (c : Nat) (k : Nat) (s : State) : exec (.thawTimeout c k) s = Sys2Proof.Machine.execThawTimeout c k s := rfl
theorem exec_mgopen (d : SReg) (a : SReg) (s : State) : exec (.mgopen d a) s = Sys2Proof.Machine.execMgopen d a s := rfl
theorem exec_mgopenCont (d : SReg) (a : SReg) (s : State) : exec (.mgopenCont d a) s = Sys2Proof.Machine.execMgopenCont d a s := rfl
theorem exec_mgopenGrant (o : Nat) (s : State) : exec (.mgopenGrant o) s = Sys2Proof.Machine.execMgopenGrant o s := rfl
theorem exec_mgpush (d : SReg) (a : SvReg) (b : SReg) (sz : BitVec 4) (s : State) : exec (.mgpush d a b sz) s = Sys2Proof.Machine.execMgpush d a b sz s := rfl
theorem exec_mgflush (d : SReg) (s : State) : exec (.mgflush d) s = Sys2Proof.Machine.execMgflush d s := rfl
theorem exec_mgpull (d : SReg) (a : SReg) (s : State) : exec (.mgpull d a) s = Sys2Proof.Machine.execMgpull d a s := rfl
theorem exec_mgpullSv (d : SvReg) (a : SReg) (s : State) : exec (.mgpullSv d a) s = Sys2Proof.Machine.execMgpullSv d a s := rfl
theorem exec_mgclose (s : State) : exec .mgclose s = Sys2Proof.Machine.execMgclose s := rfl
theorem exec_mgstatRuns (d : SReg) (s : State) : exec (.mgstatRuns d) s = Sys2Proof.Machine.execMgstatRuns d s := rfl
theorem exec_mgstatEntries (d : SReg) (s : State) : exec (.mgstatEntries d) s = Sys2Proof.Machine.execMgstatEntries d s := rfl
theorem exec_mgstatStatus (d : SReg) (s : State) : exec (.mgstatStatus d) s = Sys2Proof.Machine.execMgstatStatus d s := rfl
theorem exec_mergeBufferError (t : StrandId) (s : State) : exec (.mergeBufferError t) s = Sys2Proof.Machine.execMergeBufferError t s := rfl
theorem exec_cpdim (d : SReg) (a : SReg) (b : SReg) (l : Level) (s : State) : exec (.cpdim d a b l) s = Sys2Proof.Machine.execCpdim d a b l s := rfl
theorem exec_cpgo (d : SReg) (a : SReg) (s : State) : exec (.cpgo d a) s = Sys2Proof.Machine.execCpgo d a s := rfl
theorem exec_cpgat (d : SReg) (a : SReg) (s : State) : exec (.cpgat d a) s = Sys2Proof.Machine.execCpgat d a s := rfl
theorem exec_cpmc (d : SReg) (a : SReg) (b : SReg) (s : State) : exec (.cpmc d a b) s = Sys2Proof.Machine.execCpmc d a b s := rfl
theorem exec_permit (a : SReg) (b : SReg) (s : State) : exec (.permit a b) s = Sys2Proof.Machine.execPermit a b s := rfl
theorem exec_cpstat (d : SReg) (a : SReg) (s : State) : exec (.cpstat d a) s = Sys2Proof.Machine.execCpstat d a s := rfl
theorem exec_copyQueueAdmit (t : StrandId) (s : State) : exec (.copyQueueAdmit t) s = Sys2Proof.Machine.execCopyQueueAdmit t s := rfl
theorem exec_copyStart (c : Nat) (s : State) : exec (.copyStart c) s = Sys2Proof.Machine.execCopyStart c s := rfl
theorem exec_slotPermitTake (u : Nat) (s : State) : exec (.slotPermitTake u) s = Sys2Proof.Machine.execSlotPermitTake u s := rfl
theorem exec_transfer (u : Nat) (n : Nat) (s : State) : exec (.transfer u n) s = Sys2Proof.Machine.execTransfer u n s := rfl
theorem exec_gatherRow (u : Nat) (e : Nat) (s : State) : exec (.gatherRow u e) s = Sys2Proof.Machine.execGatherRow u e s := rfl
theorem exec_copyStamp (u : Nat) (s : State) : exec (.copyStamp u) s = Sys2Proof.Machine.execCopyStamp u s := rfl
theorem exec_copyFail (u : Nat) (cause : Nat) (n : Nat) (s : State) : exec (.copyFail u cause n) s = Sys2Proof.Machine.execCopyFail u cause n s := rfl
theorem exec_launch (d : SReg) (a : SReg) (s : State) : exec (.launch d a) s = Sys2Proof.Machine.execLaunch d a s := rfl
theorem exec_launchAdmit (t : StrandId) (s : State) : exec (.launchAdmit t) s = Sys2Proof.Machine.execLaunchAdmit t s := rfl
theorem exec_pinPassResume (tn : Nat) (lid : Nat) (s : State) : exec (.pinPassResume tn lid) s = Sys2Proof.Machine.execPinPassResume tn lid s := rfl
theorem exec_gsub (d : SReg) (a : SReg) (s : State) : exec (.gsub d a) s = Sys2Proof.Machine.execGsub d a s := rfl
theorem exec_gsubAdmit (t : StrandId) (s : State) : exec (.gsubAdmit t) s = Sys2Proof.Machine.execGsubAdmit t s := rfl
theorem exec_spawn (a : SReg) (b : SReg) (s : State) : exec (.spawn a b) s = Sys2Proof.Machine.execSpawn a b s := rfl
theorem exec_join (d : SReg) (a : SReg) (s : State) : exec (.join d a) s = Sys2Proof.Machine.execJoin d a s := rfl
theorem exec_joinWake (t : StrandId) (s : State) : exec (.joinWake t) s = Sys2Proof.Machine.execJoinWake t s := rfl
theorem exec_yield (s : State) : exec .yield s = Sys2Proof.Machine.execYield s := rfl
theorem exec_park (d : SReg) (a : SReg) (b : SReg) (s : State) : exec (.park d a b) s = Sys2Proof.Machine.execPark d a b s := rfl
theorem exec_tend (s : State) : exec .tend s = Sys2Proof.Machine.execTend s := rfl
theorem exec_tendComplete (t : StrandId) (s : State) : exec (.tendComplete t) s = Sys2Proof.Machine.execTendComplete t s := rfl
theorem exec_prio (a : SReg) (s : State) : exec (.prio a) s = Sys2Proof.Machine.execPrio a s := rfl
theorem exec_wid (d : SReg) (l : Level) (s : State) : exec (.wid d l) s = Sys2Proof.Machine.execWid d l s := rfl
theorem exec_taskEnumerate (tn : Nat) (lid : Nat) (s : State) : exec (.taskEnumerate tn lid) s = Sys2Proof.Machine.execTaskEnumerate tn lid s := rfl
theorem exec_gangAdmit (tn : Nat) (lid : Nat) (g : Nat) (s : State) : exec (.gangAdmit tn lid g) s = Sys2Proof.Machine.execGangAdmit tn lid g s := rfl
theorem exec_taskDispatch (c : Nat) (s : State) : exec (.taskDispatch c) s = Sys2Proof.Machine.execTaskDispatch c s := rfl
theorem exec_preempt (tid : Nat) (s : State) : exec (.preempt tid) s = Sys2Proof.Machine.execPreempt tid s := rfl
theorem exec_steal (c : Nat) (t : StrandId) (s : State) : exec (.steal c t) s = Sys2Proof.Machine.execSteal c t s := rfl
theorem exec_parkWake (tid : Nat) (s : State) : exec (.parkWake tid) s = Sys2Proof.Machine.execParkWake tid s := rfl
theorem exec_launchComplete (tn : Nat) (lid : Nat) (s : State) : exec (.launchComplete tn lid) s = Sys2Proof.Machine.execLaunchComplete tn lid s := rfl
theorem exec_nodeFinish (tn : Nat) (gid : Nat) (i : Nat) (s : State) : exec (.nodeFinish tn gid i) s = Sys2Proof.Machine.execNodeFinish tn gid i s := rfl
theorem exec_nodeFail (tn : Nat) (gid : Nat) (i : Nat) (s : State) : exec (.nodeFail tn gid i) s = Sys2Proof.Machine.execNodeFail tn gid i s := rfl
theorem exec_vaneArm (d : SReg) (a : SReg) (b : SReg) (s : State) : exec (.vaneArm d a b) s = Sys2Proof.Machine.execVaneArm d a b s := rfl
theorem exec_vaneArmCommit (t : StrandId) (s : State) : exec (.vaneArmCommit t) s = Sys2Proof.Machine.execVaneArmCommit t s := rfl
theorem exec_vret (s : State) : exec .vret s = Sys2Proof.Machine.execVret s := rfl
theorem exec_lull (s : State) : exec .lull s = Sys2Proof.Machine.execLull s := rfl
theorem exec_lullN (a : SReg) (s : State) : exec (.lullN a) s = Sys2Proof.Machine.execLullN a s := rfl
theorem exec_vaneRd (d : SReg) (a : SReg) (s : State) : exec (.vaneRd d a) s = Sys2Proof.Machine.execVaneRd d a s := rfl
theorem exec_vaneDrop (a : SReg) (b : SReg) (s : State) : exec (.vaneDrop a b) s = Sys2Proof.Machine.execVaneDrop a b s := rfl
theorem exec_flipMessage (k : Nat) (s : State) : exec (.flipMessage k) s = Sys2Proof.Machine.execFlipMessage k s := rfl
theorem exec_idlePass (tid : Nat) (s : State) : exec (.idlePass tid) s = Sys2Proof.Machine.execIdlePass tid s := rfl
theorem exec_edgeStoreError (die : Nat) (tn : Nat) (g : Nat) (eid : Nat) (s : State) : exec (.edgeStoreError die tn g eid) s = Sys2Proof.Machine.execEdgeStoreError die tn g eid s := rfl
theorem exec_rfence (s : State) : exec .rfence s = Sys2Proof.Machine.execRfence s := rfl
theorem exec_rwin (d : SReg) (a : SReg) (s : State) : exec (.rwin d a) s = Sys2Proof.Machine.execRwin d a s := rfl
theorem exec_rwinCloseComplete (t : StrandId) (s : State) : exec (.rwinCloseComplete t) s = Sys2Proof.Machine.execRwinCloseComplete t s := rfl
theorem exec_illegalInstruction (w : IWord) (s : State) : exec (.illegalInstruction w) s = Sys2Proof.Machine.execIllegalInstruction w s := rfl
theorem exec_queueDeadlock (tid : Nat) (s : State) : exec (.queueDeadlock tid) s = Sys2Proof.Machine.execQueueDeadlock tid s := rfl
theorem exec_interrupt (tn : Nat) (s : State) : exec (.interrupt tn) s = Sys2Proof.Machine.execInterrupt tn s := rfl
theorem exec_wfiWake (t : StrandId) (s : State) : exec (.wfiWake t) s = Sys2Proof.Machine.execWfiWake t s := rfl
theorem exec_haltWake (s : State) : exec .haltWake s = Sys2Proof.Machine.execHaltWake s := rfl
theorem exec_read (t : StrandId) (p : Nat) (k : Nat) (s : State) : exec (.read t p k) s = Sys2Proof.Machine.execRead t p k s := rfl
theorem exec_push (t : StrandId) (s : State) : exec (.push t) s = Sys2Proof.Machine.execPush t s := rfl
theorem exec_enterScalar (t : StrandId) (s : State) : exec (.enterScalar t) s = Sys2Proof.Machine.execEnterScalar t s := rfl
theorem exec_supply (t : StrandId) (tr : Nat) (n : Nat) (s : State) : exec (.supply t tr n) s = Sys2Proof.Machine.execSupply t tr n s := rfl
theorem exec_enterTrain (t : StrandId) (tr : Nat) (n : Nat) (s : State) : exec (.enterTrain t tr n) s = Sys2Proof.Machine.execEnterTrain t tr n s := rfl
theorem exec_widen (k : Nat) (s : State) : exec (.widen k) s = Sys2Proof.Machine.execWiden k s := rfl
theorem exec_atomic (t : StrandId) (tr : Nat) (n : Nat) (s : State) : exec (.atomic t tr n) s = Sys2Proof.Machine.execAtomic t tr n s := rfl
theorem exec_land (t : StrandId) (p : Nat) (g : Nat) (s : State) : exec (.land t p g) s = Sys2Proof.Machine.execLand t p g s := rfl
theorem exec_complete (t : StrandId) (s : State) : exec (.complete t) s = Sys2Proof.Machine.execComplete t s := rfl
theorem exec_scAccess (t : StrandId) (s : State) : exec (.scAccess t) s = Sys2Proof.Machine.execScAccess t s := rfl
theorem exec_monitorRead (t : StrandId) (s : State) : exec (.monitorRead t) s = Sys2Proof.Machine.execMonitorRead t s := rfl
theorem exec_barArrive (t : StrandId) (s : State) : exec (.barArrive t) s = Sys2Proof.Machine.execBarArrive t s := rfl
theorem exec_chunkDone (u : Nat) (j : Nat) (s : State) : exec (.chunkDone u j) s = Sys2Proof.Machine.execChunkDone u j s := rfl
theorem exec_remoteEnter (sdev : Nat) (win : Nat) (sten : Nat) (off : Nat) (data : List Byte) (s : State) : exec (.remoteEnter sdev win sten off data) s = Sys2Proof.Machine.execRemoteEnter sdev win sten off data s := rfl
theorem exec_ack (sdev : Nat) (win : Nat) (sten : Nat) (s : State) : exec (.ack sdev win sten) s = Sys2Proof.Machine.execAck sdev win sten s := rfl
theorem exec_dataMessage (m : RMsg) (s : State) : exec (.dataMessage m) s = Sys2Proof.Machine.execDataMessage m s := rfl
theorem exec_tailMessage (m : RMsg) (s : State) : exec (.tailMessage m) s = Sys2Proof.Machine.execTailMessage m s := rfl
theorem exec_ackMessage (m : RMsg) (s : State) : exec (.ackMessage m) s = Sys2Proof.Machine.execAckMessage m s := rfl
theorem exec_nackMessage (m : RMsg) (s : State) : exec (.nackMessage m) s = Sys2Proof.Machine.execNackMessage m s := rfl
theorem exec_atomicRequest (m : RMsg) (s : State) : exec (.atomicRequest m) s = Sys2Proof.Machine.execAtomicRequest m s := rfl
theorem exec_atomicResponse (m : RMsg) (s : State) : exec (.atomicResponse m) s = Sys2Proof.Machine.execAtomicResponse m s := rfl
theorem exec_stampMessage (m : RMsg) (s : State) : exec (.stampMessage m) s = Sys2Proof.Machine.execStampMessage m s := rfl
theorem exec_restartMessage (m : RMsg) (s : State) : exec (.restartMessage m) s = Sys2Proof.Machine.execRestartMessage m s := rfl
theorem exec_resendTimeout (ddev : Nat) (win : Nat) (sten : Nat) (s : State) : exec (.resendTimeout ddev win sten) s = Sys2Proof.Machine.execResendTimeout ddev win sten s := rfl
theorem exec_streamTimeout (ddev : Nat) (win : Nat) (sten : Nat) (s : State) : exec (.streamTimeout ddev win sten) s = Sys2Proof.Machine.execStreamTimeout ddev win sten s := rfl
theorem exec_vdmapWrite (n : Nat) (v : Word) (s : State) : exec (.vdmapWrite n v) s = Sys2Proof.Machine.execVdmapWrite n v s := rfl
theorem exec_domainSwitch (c : Nat) (s : State) : exec (.domainSwitch c) s = Sys2Proof.Machine.execDomainSwitch c s := rfl
theorem exec_clockChange (c : Nat) (s : State) : exec (.clockChange c) s = Sys2Proof.Machine.execClockChange c s := rfl
theorem exec_tctlWrite (c : Nat) (v : Word) (s : State) : exec (.tctlWrite c v) s = Sys2Proof.Machine.execTctlWrite c v s := rfl
theorem exec_tctlApply (c : Nat) (s : State) : exec (.tctlApply c) s = Sys2Proof.Machine.execTctlApply c s := rfl
theorem exec_slewStep (c : Nat) (s : State) : exec (.slewStep c) s = Sys2Proof.Machine.execSlewStep c s := rfl
theorem exec_budgetInterval (tn : Nat) (s : State) : exec (.budgetInterval tn) s = Sys2Proof.Machine.execBudgetInterval tn s := rfl
theorem exec_pmeasWindow (tn watts : Nat) (s : State) : exec (.pmeasWindow tn watts) s = Sys2Proof.Machine.execPmeasWindow tn watts s := rfl
theorem exec_pbudWrite (tn : Nat) (watts : Nat) (s : State) : exec (.pbudWrite tn watts) s = Sys2Proof.Machine.execPbudWrite tn watts s := rfl
theorem exec_overcurrentTrip (vr : Nat) (s : State) : exec (.overcurrentTrip vr) s = Sys2Proof.Machine.execOvercurrentTrip vr s := rfl
theorem exec_overcurrentClear (vr : Nat) (s : State) : exec (.overcurrentClear vr) s = Sys2Proof.Machine.execOvercurrentClear vr s := rfl
theorem exec_sensorSample (k : Nat) (temp : BitVec 16) (s : State) : exec (.sensorSample k temp) s = Sys2Proof.Machine.execSensorSample k temp s := rfl
theorem exec_wdogWrite (s : State) : exec .wdogWrite s = Sys2Proof.Machine.execWdogWrite s := rfl
theorem exec_watchdogWarning (s : State) : exec .watchdogWarning s = Sys2Proof.Machine.execWatchdogWarning s := rfl
theorem exec_watchdogExpire (s : State) : exec .watchdogExpire s = Sys2Proof.Machine.execWatchdogExpire s := rfl
theorem exec_mtickTick (s : State) : exec .mtickTick s = Sys2Proof.Machine.execMtickTick s := rfl
theorem exec_pctlWrite (v : Word) (s : State) : exec (.pctlWrite v) s = Sys2Proof.Machine.execPctlWrite v s := rfl
theorem exec_mInterrupt (s : State) : exec .mInterrupt s = Sys2Proof.Machine.execMInterrupt s := rfl
theorem exec_pswWrite (tn : Nat) (s : State) : exec (.pswWrite tn) s = Sys2Proof.Machine.execPswWrite tn s := rfl
theorem exec_pswaWrite (tn : Nat) (v : Word) (s : State) : exec (.pswaWrite tn v) s = Sys2Proof.Machine.execPswaWrite tn v s := rfl
theorem exec_energyWindow (vr : Nat) (nj : Nat) (s : State) : exec (.energyWindow vr nj) s = Sys2Proof.Machine.execEnergyWindow vr nj s := rfl
theorem exec_hsemRead (p : Port) (s : State) : exec (.hsemRead p) s = Sys2Proof.Machine.execHsemRead p s := rfl
theorem exec_hsemRelease (p : Port) (s : State) : exec (.hsemRelease p) s = Sys2Proof.Machine.execHsemRelease p s := rfl
theorem exec_hsemLapse (s : State) : exec .hsemLapse s = Sys2Proof.Machine.execHsemLapse s := rfl
theorem exec_hostCsrAccess (p : Port) (off : Nat) (size : Nat) (wr : Option Word) (s : State) : exec (.hostCsrAccess p off size wr) s = Sys2Proof.Machine.execHostCsrAccess p off size wr s := rfl
theorem exec_tenantCreate (tn : Nat) (vmid : Nat) (s : State) : exec (.tenantCreate tn vmid) s = Sys2Proof.Machine.execTenantCreate tn vmid s := rfl
theorem exec_tenantReset (tn : Nat) (s : State) : exec (.tenantReset tn) s = Sys2Proof.Machine.execTenantReset tn s := rfl
theorem exec_memoryWindowWrite (tn : Nat) (k : Nat) (len : Bool) (v : Word) (s : State) : exec (.memoryWindowWrite tn k len v) s = Sys2Proof.Machine.execMemoryWindowWrite tn k len v s := rfl
theorem exec_hinvWrite (v : Word) (s : State) : exec (.hinvWrite v) s = Sys2Proof.Machine.execHinvWrite v s := rfl
theorem exec_hinvDone (s : State) : exec .hinvDone s = Sys2Proof.Machine.execHinvDone s := rfl
theorem exec_rtbaseWrite (v : Word) (s : State) : exec (.rtbaseWrite v) s = Sys2Proof.Machine.execRtbaseWrite v s := rfl
theorem exec_migRetry (t : StrandId) (s : State) : exec (.migRetry t) s = Sys2Proof.Machine.execMigRetry t s := rfl
theorem exec_cxlMemAccess (p : Port) (pa : Nat) (len : Nat) (data : Option (List Byte)) (s : State) : exec (.cxlMemAccess p pa len data) s = Sys2Proof.Machine.execCxlMemAccess p pa len data s := rfl
theorem exec_spdmGetVersion (p : Port) (s : State) : exec (.spdmGetVersion p) s = Sys2Proof.Machine.execSpdmGetVersion p s := rfl
theorem exec_spdmGetCapabilities (p : Port) (s : State) : exec (.spdmGetCapabilities p) s = Sys2Proof.Machine.execSpdmGetCapabilities p s := rfl
theorem exec_spdmNegotiateAlgorithms (p : Port) (s : State) : exec (.spdmNegotiateAlgorithms p) s = Sys2Proof.Machine.execSpdmNegotiateAlgorithms p s := rfl
theorem exec_spdmGetDigests (p : Port) (s : State) : exec (.spdmGetDigests p) s = Sys2Proof.Machine.execSpdmGetDigests p s := rfl
theorem exec_spdmGetCertificate (p : Port) (slot : Nat) (off : Nat) (len : Nat) (s : State) : exec (.spdmGetCertificate p slot off len) s = Sys2Proof.Machine.execSpdmGetCertificate p slot off len s := rfl
theorem exec_spdmChallenge (p : Port) (slot : Nat) (nonce : Nat) (s : State) : exec (.spdmChallenge p slot nonce) s = Sys2Proof.Machine.execSpdmChallenge p slot nonce s := rfl
theorem exec_spdmGetMeasurements (p : Port) (idx : Nat) (s : State) : exec (.spdmGetMeasurements p idx) s = Sys2Proof.Machine.execSpdmGetMeasurements p idx s := rfl
theorem exec_spdmUnsupportedRequest (p : Port) (code : Nat) (s : State) : exec (.spdmUnsupportedRequest p code) s = Sys2Proof.Machine.execSpdmUnsupportedRequest p code s := rfl
theorem exec_uncorrectableError (e : ErrPlace) (s : State) : exec (.uncorrectableError e) s = Sys2Proof.Machine.execUncorrectableError e s := rfl
theorem exec_internalStateError (e : IntErr) (s : State) : exec (.internalStateError e) s = Sys2Proof.Machine.execInternalStateError e s := rfl
theorem exec_clusterReset (c : Nat) (s : State) : exec (.clusterReset c) s = Sys2Proof.Machine.execClusterReset c s := rfl
theorem exec_clusterResetComplete (c : Nat) (s : State) : exec (.clusterResetComplete c) s = Sys2Proof.Machine.execClusterResetComplete c s := rfl
theorem exec_warmReset (s : State) : exec .warmReset s = Sys2Proof.Machine.execWarmReset s := rfl
theorem exec_coldReset (s : State) : exec .coldReset s = Sys2Proof.Machine.execColdReset s := rfl
theorem exec_stateDump (v : Word) (s : State) : exec (.stateDump v) s = Sys2Proof.Machine.execStateDump v s := rfl
theorem exec_stateDumpComplete (s : State) : exec .stateDumpComplete s = Sys2Proof.Machine.execStateDumpComplete s := rfl
theorem exec_tenantResetComplete (tn : Nat) (s : State) : exec (.tenantResetComplete tn) s = Sys2Proof.Machine.execTenantResetComplete tn s := rfl
theorem exec_msixTableWrite (p : Port) (n : Nat) (addr : Word) (data : BitVec 32) (mask : Bool) (s : State) : exec (.msixTableWrite p n addr data mask) s = Sys2Proof.Machine.execMsixTableWrite p n addr data mask s := rfl

end Sys2Proof.Machine
end

