-- ==== Sys2Proof/Laws/Memory.lean ====
section
/-! SUPPORT. Memory: what a read after a write returns, that writing keeps the canonical form, and that settling and entering keep it in
the whole state. -/

set_option Elab.async false

namespace Sys2Proof.Machine

/-! ## Cells -/

namespace Memory

theorem cells_bounds (bs : List Byte) : ∀ (a : Nat), ∀ c ∈ cells a bs, a ≤ c.1 ∧ c.1 < a + bs.length ∧ c.2 ≠ 0 := by
  induction bs with
  | nil => intro a c h; simp [cells] at h
  | cons b bs ih =>
    intro a c h
    unfold cells at h
    split at h
    · have := ih (a + 1) c h; simp only [List.length_cons]; refine ⟨by omega, by omega, this.2.2⟩
    · rcases List.mem_cons.mp h with rfl | h
      · refine ⟨Nat.le_refl _, ?_, ‹_›⟩; simp only [List.length_cons]; omega
      · have := ih (a + 1) c h; simp only [List.length_cons]; refine ⟨by omega, by omega, this.2.2⟩

theorem cells_pairwise (bs : List Byte) : ∀ a : Nat, (cells a bs).Pairwise (fun x y => x.1 < y.1) := by
  induction bs with
  | nil => intro a; simp [cells]
  | cons b bs ih =>
    intro a
    unfold cells
    split
    · exact ih (a + 1)
    · refine List.pairwise_cons.mpr ⟨fun c h => ?_, ih (a + 1)⟩
      have := cells_bounds bs (a + 1) c h
      simp only; omega

theorem wf_iff (m : List Host.Cell) : wf m = true ↔ (∀ c ∈ m, c.2 ≠ 0) ∧ m.Pairwise (fun a b => a.1 < b.1) := by
  simp [wf]

/-- Writing keeps the canonical form. -/
theorem write_wf (m : List Host.Cell) (a : Nat) (bs : List Byte) (h : wf m = true) : wf (write m a bs) = true := by
  rw [wf_iff] at h ⊢
  obtain ⟨hz, hp⟩ := h
  unfold write
  constructor
  · intro c hc
    rcases List.mem_append.mp hc with hc | hc
    · exact hz c (List.mem_filter.mp hc).1
    · rcases List.mem_append.mp hc with hc | hc
      · exact (cells_bounds bs a c hc).2.2
      · exact hz c (List.mem_filter.mp hc).1
  · refine List.pairwise_append.mpr ⟨hp.filter _, List.pairwise_append.mpr ⟨cells_pairwise bs a, hp.filter _, ?_⟩, ?_⟩
    · intro x hx y hy
      have h1 := cells_bounds bs a x hx
      have h2 := (List.mem_filter.mp hy).2
      simp only [decide_eq_true_eq] at h2; omega
    · intro x hx y hy
      have h1 := (List.mem_filter.mp hx).2
      simp only [decide_eq_true_eq] at h1
      rcases List.mem_append.mp hy with hy | hy
      · have := cells_bounds bs a y hy; omega
      · have h2 := (List.mem_filter.mp hy).2
        simp only [decide_eq_true_eq] at h2; omega

theorem get_none (m : List Host.Cell) (x : Nat) (h : ∀ c ∈ m, c.1 ≠ x) : get m x = 0 := by
  induction m with
  | nil => rfl
  | cons c cs ih =>
    unfold get
    rw [if_neg (h c (List.mem_cons_self ..))]
    exact ih (fun d hd => h d (List.mem_cons_of_mem _ hd))

theorem get_append_left (m k : List Host.Cell) (x : Nat) (h : ∀ c ∈ k, c.1 ≠ x) : get (m ++ k) x = get m x := by
  induction m with
  | nil => simpa [get] using get_none k x h
  | cons c cs ih => simp only [List.cons_append, get]; split <;> simp_all

theorem get_append_right (m k : List Host.Cell) (x : Nat) (h : ∀ c ∈ m, c.1 ≠ x) : get (m ++ k) x = get k x := by
  induction m with
  | nil => rfl
  | cons c cs ih =>
    simp only [List.cons_append, get]
    rw [if_neg (h c (List.mem_cons_self ..))]
    exact ih (fun d hd => h d (List.mem_cons_of_mem _ hd))

theorem get_filter (m : List Host.Cell) (p : Nat → Bool) (x : Nat) (h : p x = true) : get (m.filter (fun c => p c.1)) x = get m x := by
  induction m with
  | nil => rfl
  | cons c cs ih =>
    by_cases hc : p c.1 = true
    · simp only [List.filter_cons, hc, if_true, get, ih]
    · have : c.1 ≠ x := fun e => hc (e ▸ h)
      simp only [List.filter_cons, hc, if_false, get, this]
      exact ih

theorem get_cells (bs : List Byte) : ∀ a x : Nat, a ≤ x → get (cells a bs) x = (bs[x - a]?).getD 0 := by
  induction bs with
  | nil => intro a x _; simp [cells, get]
  | cons b bs ih =>
    intro a x hx
    unfold cells
    by_cases he : a = x
    · subst he
      split
      · subst_vars
        rw [get_none _ _ (fun c hc => by have := cells_bounds bs (a + 1) c hc; omega)]
        simp
      · simp [get]
    · have hs : x - a = (x - (a + 1)) + 1 := by omega
      rw [hs, List.getElem?_cons_succ, ← ih (a + 1) x (by omega)]
      split
      · rfl
      · simp [get, he]

/-- A byte after a write: the byte written there, and elsewhere the byte before. -/
theorem get_write (m : List Host.Cell) (a : Nat) (bs : List Byte) (x : Nat) :
    get (write m a bs) x = if a ≤ x ∧ x < a + bs.length then (bs[x - a]?).getD 0 else get m x := by
  unfold write
  by_cases h1 : x < a
  · rw [if_neg (by omega), get_append_left, get_filter m (fun k => decide (k < a)) x (by simpa using h1)]
    intro c hc
    rcases List.mem_append.mp hc with hc | hc
    · have := cells_bounds bs a c hc; omega
    · have := (List.mem_filter.mp hc).2; simp only [decide_eq_true_eq] at this; omega
  · rw [get_append_right _ _ _ (fun c hc => by have := (List.mem_filter.mp hc).2; simp only [decide_eq_true_eq] at this; omega)]
    by_cases h2 : x < a + bs.length
    · rw [if_pos ⟨by omega, h2⟩, get_append_left, get_cells bs a x (by omega)]
      intro c hc
      have := (List.mem_filter.mp hc).2; simp only [decide_eq_true_eq] at this; omega
    · rw [if_neg (by omega), get_append_right _ _ _ (fun c hc => by have := cells_bounds bs a c hc; omega)]
      exact get_filter m (fun k => decide (a + bs.length ≤ k)) x (by simp; omega)

/-- Reading is reading each byte. -/
theorem read_eq (m : List Host.Cell) (a n : Nat) : read m a n = (List.range n).map (fun i => get m (a + i)) := by
  unfold read
  refine List.map_congr_left (fun i hi => ?_)
  have hi := List.mem_range.mp hi
  exact get_filter m (fun k => decide (a ≤ k) && decide (k < a + n)) (a + i) (by simp; omega)

/-- What was written is read back. -/
theorem read_write (m : List Host.Cell) (a : Nat) (bs : List Byte) : read (write m a bs) a bs.length = bs := by
  rw [read_eq]
  refine List.ext_getElem (by simp) (fun i h1 h2 => ?_)
  simp only [List.getElem_map, List.getElem_range, get_write]
  rw [if_pos ⟨by omega, by omega⟩, show a + i - a = i by omega, List.getElem?_eq_getElem h2]
  rfl

end Memory

/-! ## The state's memories -/

theorem writeBase_memInv (s : State) (l : Loc) (bs : List Byte) (h : MemInv s) : MemInv (writeBase s l bs) := by
  obtain ⟨h1, h2, h3⟩ := h
  unfold writeBase
  cases l with
  | dev a => exact ⟨Memory.write_wf _ _ _ h1, h2, h3⟩
  | host a => exact ⟨h1, Memory.write_wf _ _ _ h2, h3⟩
  | fw a => exact ⟨h1, h2, Memory.write_wf _ _ _ h3⟩
  | spad t o => exact ⟨h1, h2, h3⟩
  | remote d w o => exact ⟨h1, h2, h3⟩
  | image a => exact ⟨h1, h2, h3⟩

theorem poisonWords_memInv (s : State) (l : Loc) (ws : List Nat) (h : MemInv s) : MemInv (poisonWords s l ws) := by
  unfold poisonWords
  split
  · exact h
  · cases l <;> exact h

theorem settleRec_memInv (s : State) (r : WRec) (h : MemInv s) : MemInv (settleRec s r) :=
  poisonWords_memInv _ _ _ (writeBase_memInv s _ _ h)

theorem foldGo_memInv (rs : List WRec) : ∀ s : State, MemInv s → MemInv (foldGo rs s) := by
  induction rs with
  | nil => intro s h; exact h
  | cons r rs ih =>
    intro s h
    unfold foldGo
    split
    · exact ih _ (settleRec_memInv s r h)
    · exact h

theorem foldLog_memInv (s : State) (h : MemInv s) : MemInv (foldLog s) := foldGo_memInv _ s h

theorem enter_memInv (s : State) (l : Loc) (bs : List Byte) (o : StrandId) (c : Nat) (v : Scope) (t : WTag) (n : Nat) (h : MemInv s) :
    MemInv (enter s l bs o c v t n) := foldLog_memInv _ h

theorem enterDev_memInv (s : State) (l : Loc) (bs : List Byte) (v : Scope) (t : WTag) (h : MemInv s) : MemInv (enterDev s l bs v t) :=
  foldLog_memInv _ h

theorem enterWide_memInv (s : State) (l : Loc) (bs : List Byte) (h : MemInv s) : MemInv (enterWide s l bs) := enterDev_memInv s l bs _ _ h

theorem settle_fold_memInv (rs : List WRec) : ∀ s : State, MemInv s → MemInv (rs.foldl settleRec s) := by
  induction rs with
  | nil => intro s h; exact h
  | cons r rs ih => intro s h; exact ih _ (settleRec_memInv s r h)

theorem settleLog_memInv (s : State) (h : MemInv s) : MemInv (settleLog s) := settle_fold_memInv _ _ h

/-- Reset lists nothing. -/
theorem reset_memInv : MemInv State.reset := ⟨by decide, by decide, by decide⟩

/-- A settled byte after a write of settled memory, in one of the three memories. -/
theorem baseByte_writeBase_dev (s : State) (a : Nat) (bs : List Byte) (x : Nat) :
    baseByte (writeBase s (.dev a) bs) (.dev x) = if a ≤ x ∧ x < a + bs.length then (bs[x - a]?).getD 0 else baseByte s (.dev x) :=
  Memory.get_write s.mem a bs x

theorem baseByte_writeBase_host (s : State) (a : Nat) (bs : List Byte) (x : Nat) :
    baseByte (writeBase s (.host a) bs) (.host x) = if a ≤ x ∧ x < a + bs.length then (bs[x - a]?).getD 0 else baseByte s (.host x) :=
  Memory.get_write s.hostMem a bs x

theorem baseByte_writeBase_fw (s : State) (a : Nat) (bs : List Byte) (x : Nat) :
    baseByte (writeBase s (.fw a) bs) (.fw x) = if a ≤ x ∧ x < a + bs.length then (bs[x - a]?).getD 0 else baseByte s (.fw x) :=
  Memory.get_write s.fwMem a bs x

end Sys2Proof.Machine
end

