-- ==== Sys2Proof/Laws/State.lean ====
section
/-! SUPPORT. One lemma per field and update of the state (true by rfl), so that no proof unfolds a record update. -/

namespace Sys2Proof.Machine

/-! ## `withCpu` -/

@[simp] theorem State.withCpu_cpu (s : State) (f : Strand → Strand) : (s.withCpu f).cpu = f s.cpu := rfl
@[simp] theorem State.withCpu_others (s : State) (f : Strand → Strand) : (s.withCpu f).others = s.others := rfl
@[simp] theorem State.withCpu_agenda (s : State) (f : Strand → Strand) : (s.withCpu f).agenda = s.agenda := rfl
@[simp] theorem State.withCpu_stales (s : State) (f : Strand → Strand) : (s.withCpu f).stales = s.stales := rfl
@[simp] theorem State.withCpu_pauses (s : State) (f : Strand → Strand) : (s.withCpu f).pauses = s.pauses := rfl
@[simp] theorem State.withCpu_mem (s : State) (f : Strand → Strand) : (s.withCpu f).mem = s.mem := rfl
@[simp] theorem State.withCpu_hostMem (s : State) (f : Strand → Strand) : (s.withCpu f).hostMem = s.hostMem := rfl
@[simp] theorem State.withCpu_fwMem (s : State) (f : Strand → Strand) : (s.withCpu f).fwMem = s.fwMem := rfl
@[simp] theorem State.withCpu_log (s : State) (f : Strand → Strand) : (s.withCpu f).log = s.log := rfl
@[simp] theorem State.withCpu_poison (s : State) (f : Strand → Strand) : (s.withCpu f).poison = s.poison := rfl
@[simp] theorem State.withCpu_hostPoison (s : State) (f : Strand → Strand) : (s.withCpu f).hostPoison = s.hostPoison := rfl
@[simp] theorem State.withCpu_spills (s : State) (f : Strand → Strand) : (s.withCpu f).spills = s.spills := rfl
@[simp] theorem State.withCpu_tasks (s : State) (f : Strand → Strand) : (s.withCpu f).tasks = s.tasks := rfl
@[simp] theorem State.withCpu_launches (s : State) (f : Strand → Strand) : (s.withCpu f).launches = s.launches := rfl
@[simp] theorem State.withCpu_graphs (s : State) (f : Strand → Strand) : (s.withCpu f).graphs = s.graphs := rfl
@[simp] theorem State.withCpu_copies (s : State) (f : Strand → Strand) : (s.withCpu f).copies = s.copies := rfl
@[simp] theorem State.withCpu_clusters (s : State) (f : Strand → Strand) : (s.withCpu f).clusters = s.clusters := rfl
@[simp] theorem State.withCpu_tenants (s : State) (f : Strand → Strand) : (s.withCpu f).tenants = s.tenants := rfl
@[simp] theorem State.withCpu_tenantsX (s : State) (f : Strand → Strand) : (s.withCpu f).tenantsX = s.tenantsX := rfl
@[simp] theorem State.withCpu_tlb (s : State) (f : Strand → Strand) : (s.withCpu f).tlb = s.tlb := rfl
@[simp] theorem State.withCpu_dev (s : State) (f : Strand → Strand) : (s.withCpu f).dev = s.dev := rfl

/-! ## `withCtl` -/

@[simp] theorem State.withCtl_cpu_id (s : State) (f : Ctl → Ctl) : (s.withCtl f).cpu.id = s.cpu.id := rfl
@[simp] theorem State.withCtl_cpu_tenant (s : State) (f : Ctl → Ctl) : (s.withCtl f).cpu.tenant = s.cpu.tenant := rfl
@[simp] theorem State.withCtl_cpu_cluster (s : State) (f : Ctl → Ctl) : (s.withCtl f).cpu.cluster = s.cpu.cluster := rfl
@[simp] theorem State.withCtl_cpu_resid (s : State) (f : Ctl → Ctl) : (s.withCtl f).cpu.resid = s.cpu.resid := rfl
@[simp] theorem State.withCtl_cpu_ctl (s : State) (f : Ctl → Ctl) : (s.withCtl f).cpu.ctl = f s.cpu.ctl := rfl
@[simp] theorem State.withCtl_cpu_regs (s : State) (f : Ctl → Ctl) : (s.withCtl f).cpu.regs = s.cpu.regs := rfl
@[simp] theorem State.withCtl_cpu_trap (s : State) (f : Ctl → Ctl) : (s.withCtl f).cpu.trap = s.cpu.trap := rfl
@[simp] theorem State.withCtl_cpu_ext (s : State) (f : Ctl → Ctl) : (s.withCtl f).cpu.ext = s.cpu.ext := rfl
@[simp] theorem State.withCtl_cpu_mem (s : State) (f : Ctl → Ctl) : (s.withCtl f).cpu.mem = s.cpu.mem := rfl
@[simp] theorem State.withCtl_cpu_wait (s : State) (f : Ctl → Ctl) : (s.withCtl f).cpu.wait = s.cpu.wait := rfl
@[simp] theorem State.withCtl_cpu_ir (s : State) (f : Ctl → Ctl) : (s.withCtl f).cpu.ir = s.cpu.ir := rfl
@[simp] theorem State.withCtl_cpu_staging (s : State) (f : Ctl → Ctl) : (s.withCtl f).cpu.staging = s.cpu.staging := rfl
@[simp] theorem State.withCtl_cpu_serves (s : State) (f : Ctl → Ctl) : (s.withCtl f).cpu.serves = s.cpu.serves := rfl
@[simp] theorem State.withCtl_cpu_usage (s : State) (f : Ctl → Ctl) : (s.withCtl f).cpu.usage = s.cpu.usage := rfl
@[simp] theorem State.withCtl_others (s : State) (f : Ctl → Ctl) : (s.withCtl f).others = s.others := rfl
@[simp] theorem State.withCtl_agenda (s : State) (f : Ctl → Ctl) : (s.withCtl f).agenda = s.agenda := rfl
@[simp] theorem State.withCtl_stales (s : State) (f : Ctl → Ctl) : (s.withCtl f).stales = s.stales := rfl
@[simp] theorem State.withCtl_pauses (s : State) (f : Ctl → Ctl) : (s.withCtl f).pauses = s.pauses := rfl
@[simp] theorem State.withCtl_mem (s : State) (f : Ctl → Ctl) : (s.withCtl f).mem = s.mem := rfl
@[simp] theorem State.withCtl_hostMem (s : State) (f : Ctl → Ctl) : (s.withCtl f).hostMem = s.hostMem := rfl
@[simp] theorem State.withCtl_fwMem (s : State) (f : Ctl → Ctl) : (s.withCtl f).fwMem = s.fwMem := rfl
@[simp] theorem State.withCtl_log (s : State) (f : Ctl → Ctl) : (s.withCtl f).log = s.log := rfl
@[simp] theorem State.withCtl_poison (s : State) (f : Ctl → Ctl) : (s.withCtl f).poison = s.poison := rfl
@[simp] theorem State.withCtl_hostPoison (s : State) (f : Ctl → Ctl) : (s.withCtl f).hostPoison = s.hostPoison := rfl
@[simp] theorem State.withCtl_spills (s : State) (f : Ctl → Ctl) : (s.withCtl f).spills = s.spills := rfl
@[simp] theorem State.withCtl_tasks (s : State) (f : Ctl → Ctl) : (s.withCtl f).tasks = s.tasks := rfl
@[simp] theorem State.withCtl_launches (s : State) (f : Ctl → Ctl) : (s.withCtl f).launches = s.launches := rfl
@[simp] theorem State.withCtl_graphs (s : State) (f : Ctl → Ctl) : (s.withCtl f).graphs = s.graphs := rfl
@[simp] theorem State.withCtl_copies (s : State) (f : Ctl → Ctl) : (s.withCtl f).copies = s.copies := rfl
@[simp] theorem State.withCtl_clusters (s : State) (f : Ctl → Ctl) : (s.withCtl f).clusters = s.clusters := rfl
@[simp] theorem State.withCtl_tenants (s : State) (f : Ctl → Ctl) : (s.withCtl f).tenants = s.tenants := rfl
@[simp] theorem State.withCtl_tenantsX (s : State) (f : Ctl → Ctl) : (s.withCtl f).tenantsX = s.tenantsX := rfl
@[simp] theorem State.withCtl_tlb (s : State) (f : Ctl → Ctl) : (s.withCtl f).tlb = s.tlb := rfl
@[simp] theorem State.withCtl_dev (s : State) (f : Ctl → Ctl) : (s.withCtl f).dev = s.dev := rfl

/-! ## `withRegs` -/

@[simp] theorem State.withRegs_cpu_id (s : State) (f : RegFile → RegFile) : (s.withRegs f).cpu.id = s.cpu.id := rfl
@[simp] theorem State.withRegs_cpu_tenant (s : State) (f : RegFile → RegFile) : (s.withRegs f).cpu.tenant = s.cpu.tenant := rfl
@[simp] theorem State.withRegs_cpu_cluster (s : State) (f : RegFile → RegFile) : (s.withRegs f).cpu.cluster = s.cpu.cluster := rfl
@[simp] theorem State.withRegs_cpu_resid (s : State) (f : RegFile → RegFile) : (s.withRegs f).cpu.resid = s.cpu.resid := rfl
@[simp] theorem State.withRegs_cpu_ctl (s : State) (f : RegFile → RegFile) : (s.withRegs f).cpu.ctl = s.cpu.ctl := rfl
@[simp] theorem State.withRegs_cpu_regs (s : State) (f : RegFile → RegFile) : (s.withRegs f).cpu.regs = f s.cpu.regs := rfl
@[simp] theorem State.withRegs_cpu_trap (s : State) (f : RegFile → RegFile) : (s.withRegs f).cpu.trap = s.cpu.trap := rfl
@[simp] theorem State.withRegs_cpu_ext (s : State) (f : RegFile → RegFile) : (s.withRegs f).cpu.ext = s.cpu.ext := rfl
@[simp] theorem State.withRegs_cpu_mem (s : State) (f : RegFile → RegFile) : (s.withRegs f).cpu.mem = s.cpu.mem := rfl
@[simp] theorem State.withRegs_cpu_wait (s : State) (f : RegFile → RegFile) : (s.withRegs f).cpu.wait = s.cpu.wait := rfl
@[simp] theorem State.withRegs_cpu_ir (s : State) (f : RegFile → RegFile) : (s.withRegs f).cpu.ir = s.cpu.ir := rfl
@[simp] theorem State.withRegs_cpu_staging (s : State) (f : RegFile → RegFile) : (s.withRegs f).cpu.staging = s.cpu.staging := rfl
@[simp] theorem State.withRegs_cpu_serves (s : State) (f : RegFile → RegFile) : (s.withRegs f).cpu.serves = s.cpu.serves := rfl
@[simp] theorem State.withRegs_cpu_usage (s : State) (f : RegFile → RegFile) : (s.withRegs f).cpu.usage = s.cpu.usage := rfl
@[simp] theorem State.withRegs_others (s : State) (f : RegFile → RegFile) : (s.withRegs f).others = s.others := rfl
@[simp] theorem State.withRegs_agenda (s : State) (f : RegFile → RegFile) : (s.withRegs f).agenda = s.agenda := rfl
@[simp] theorem State.withRegs_stales (s : State) (f : RegFile → RegFile) : (s.withRegs f).stales = s.stales := rfl
@[simp] theorem State.withRegs_pauses (s : State) (f : RegFile → RegFile) : (s.withRegs f).pauses = s.pauses := rfl
@[simp] theorem State.withRegs_mem (s : State) (f : RegFile → RegFile) : (s.withRegs f).mem = s.mem := rfl
@[simp] theorem State.withRegs_hostMem (s : State) (f : RegFile → RegFile) : (s.withRegs f).hostMem = s.hostMem := rfl
@[simp] theorem State.withRegs_fwMem (s : State) (f : RegFile → RegFile) : (s.withRegs f).fwMem = s.fwMem := rfl
@[simp] theorem State.withRegs_log (s : State) (f : RegFile → RegFile) : (s.withRegs f).log = s.log := rfl
@[simp] theorem State.withRegs_poison (s : State) (f : RegFile → RegFile) : (s.withRegs f).poison = s.poison := rfl
@[simp] theorem State.withRegs_hostPoison (s : State) (f : RegFile → RegFile) : (s.withRegs f).hostPoison = s.hostPoison := rfl
@[simp] theorem State.withRegs_spills (s : State) (f : RegFile → RegFile) : (s.withRegs f).spills = s.spills := rfl
@[simp] theorem State.withRegs_tasks (s : State) (f : RegFile → RegFile) : (s.withRegs f).tasks = s.tasks := rfl
@[simp] theorem State.withRegs_launches (s : State) (f : RegFile → RegFile) : (s.withRegs f).launches = s.launches := rfl
@[simp] theorem State.withRegs_graphs (s : State) (f : RegFile → RegFile) : (s.withRegs f).graphs = s.graphs := rfl
@[simp] theorem State.withRegs_copies (s : State) (f : RegFile → RegFile) : (s.withRegs f).copies = s.copies := rfl
@[simp] theorem State.withRegs_clusters (s : State) (f : RegFile → RegFile) : (s.withRegs f).clusters = s.clusters := rfl
@[simp] theorem State.withRegs_tenants (s : State) (f : RegFile → RegFile) : (s.withRegs f).tenants = s.tenants := rfl
@[simp] theorem State.withRegs_tenantsX (s : State) (f : RegFile → RegFile) : (s.withRegs f).tenantsX = s.tenantsX := rfl
@[simp] theorem State.withRegs_tlb (s : State) (f : RegFile → RegFile) : (s.withRegs f).tlb = s.tlb := rfl
@[simp] theorem State.withRegs_dev (s : State) (f : RegFile → RegFile) : (s.withRegs f).dev = s.dev := rfl

/-! ## `withTrap` -/

@[simp] theorem State.withTrap_cpu_id (s : State) (f : TrapSt → TrapSt) : (s.withTrap f).cpu.id = s.cpu.id := rfl
@[simp] theorem State.withTrap_cpu_tenant (s : State) (f : TrapSt → TrapSt) : (s.withTrap f).cpu.tenant = s.cpu.tenant := rfl
@[simp] theorem State.withTrap_cpu_cluster (s : State) (f : TrapSt → TrapSt) : (s.withTrap f).cpu.cluster = s.cpu.cluster := rfl
@[simp] theorem State.withTrap_cpu_resid (s : State) (f : TrapSt → TrapSt) : (s.withTrap f).cpu.resid = s.cpu.resid := rfl
@[simp] theorem State.withTrap_cpu_ctl (s : State) (f : TrapSt → TrapSt) : (s.withTrap f).cpu.ctl = s.cpu.ctl := rfl
@[simp] theorem State.withTrap_cpu_regs (s : State) (f : TrapSt → TrapSt) : (s.withTrap f).cpu.regs = s.cpu.regs := rfl
@[simp] theorem State.withTrap_cpu_trap (s : State) (f : TrapSt → TrapSt) : (s.withTrap f).cpu.trap = f s.cpu.trap := rfl
@[simp] theorem State.withTrap_cpu_ext (s : State) (f : TrapSt → TrapSt) : (s.withTrap f).cpu.ext = s.cpu.ext := rfl
@[simp] theorem State.withTrap_cpu_mem (s : State) (f : TrapSt → TrapSt) : (s.withTrap f).cpu.mem = s.cpu.mem := rfl
@[simp] theorem State.withTrap_cpu_wait (s : State) (f : TrapSt → TrapSt) : (s.withTrap f).cpu.wait = s.cpu.wait := rfl
@[simp] theorem State.withTrap_cpu_ir (s : State) (f : TrapSt → TrapSt) : (s.withTrap f).cpu.ir = s.cpu.ir := rfl
@[simp] theorem State.withTrap_cpu_staging (s : State) (f : TrapSt → TrapSt) : (s.withTrap f).cpu.staging = s.cpu.staging := rfl
@[simp] theorem State.withTrap_cpu_serves (s : State) (f : TrapSt → TrapSt) : (s.withTrap f).cpu.serves = s.cpu.serves := rfl
@[simp] theorem State.withTrap_cpu_usage (s : State) (f : TrapSt → TrapSt) : (s.withTrap f).cpu.usage = s.cpu.usage := rfl
@[simp] theorem State.withTrap_others (s : State) (f : TrapSt → TrapSt) : (s.withTrap f).others = s.others := rfl
@[simp] theorem State.withTrap_agenda (s : State) (f : TrapSt → TrapSt) : (s.withTrap f).agenda = s.agenda := rfl
@[simp] theorem State.withTrap_stales (s : State) (f : TrapSt → TrapSt) : (s.withTrap f).stales = s.stales := rfl
@[simp] theorem State.withTrap_pauses (s : State) (f : TrapSt → TrapSt) : (s.withTrap f).pauses = s.pauses := rfl
@[simp] theorem State.withTrap_mem (s : State) (f : TrapSt → TrapSt) : (s.withTrap f).mem = s.mem := rfl
@[simp] theorem State.withTrap_hostMem (s : State) (f : TrapSt → TrapSt) : (s.withTrap f).hostMem = s.hostMem := rfl
@[simp] theorem State.withTrap_fwMem (s : State) (f : TrapSt → TrapSt) : (s.withTrap f).fwMem = s.fwMem := rfl
@[simp] theorem State.withTrap_log (s : State) (f : TrapSt → TrapSt) : (s.withTrap f).log = s.log := rfl
@[simp] theorem State.withTrap_poison (s : State) (f : TrapSt → TrapSt) : (s.withTrap f).poison = s.poison := rfl
@[simp] theorem State.withTrap_hostPoison (s : State) (f : TrapSt → TrapSt) : (s.withTrap f).hostPoison = s.hostPoison := rfl
@[simp] theorem State.withTrap_spills (s : State) (f : TrapSt → TrapSt) : (s.withTrap f).spills = s.spills := rfl
@[simp] theorem State.withTrap_tasks (s : State) (f : TrapSt → TrapSt) : (s.withTrap f).tasks = s.tasks := rfl
@[simp] theorem State.withTrap_launches (s : State) (f : TrapSt → TrapSt) : (s.withTrap f).launches = s.launches := rfl
@[simp] theorem State.withTrap_graphs (s : State) (f : TrapSt → TrapSt) : (s.withTrap f).graphs = s.graphs := rfl
@[simp] theorem State.withTrap_copies (s : State) (f : TrapSt → TrapSt) : (s.withTrap f).copies = s.copies := rfl
@[simp] theorem State.withTrap_clusters (s : State) (f : TrapSt → TrapSt) : (s.withTrap f).clusters = s.clusters := rfl
@[simp] theorem State.withTrap_tenants (s : State) (f : TrapSt → TrapSt) : (s.withTrap f).tenants = s.tenants := rfl
@[simp] theorem State.withTrap_tenantsX (s : State) (f : TrapSt → TrapSt) : (s.withTrap f).tenantsX = s.tenantsX := rfl
@[simp] theorem State.withTrap_tlb (s : State) (f : TrapSt → TrapSt) : (s.withTrap f).tlb = s.tlb := rfl
@[simp] theorem State.withTrap_dev (s : State) (f : TrapSt → TrapSt) : (s.withTrap f).dev = s.dev := rfl

/-! ## `withExt` -/

@[simp] theorem State.withExt_cpu_id (s : State) (f : Extra → Extra) : (s.withExt f).cpu.id = s.cpu.id := rfl
@[simp] theorem State.withExt_cpu_tenant (s : State) (f : Extra → Extra) : (s.withExt f).cpu.tenant = s.cpu.tenant := rfl
@[simp] theorem State.withExt_cpu_cluster (s : State) (f : Extra → Extra) : (s.withExt f).cpu.cluster = s.cpu.cluster := rfl
@[simp] theorem State.withExt_cpu_resid (s : State) (f : Extra → Extra) : (s.withExt f).cpu.resid = s.cpu.resid := rfl
@[simp] theorem State.withExt_cpu_ctl (s : State) (f : Extra → Extra) : (s.withExt f).cpu.ctl = s.cpu.ctl := rfl
@[simp] theorem State.withExt_cpu_regs (s : State) (f : Extra → Extra) : (s.withExt f).cpu.regs = s.cpu.regs := rfl
@[simp] theorem State.withExt_cpu_trap (s : State) (f : Extra → Extra) : (s.withExt f).cpu.trap = s.cpu.trap := rfl
@[simp] theorem State.withExt_cpu_ext (s : State) (f : Extra → Extra) : (s.withExt f).cpu.ext = f s.cpu.ext := rfl
@[simp] theorem State.withExt_cpu_mem (s : State) (f : Extra → Extra) : (s.withExt f).cpu.mem = s.cpu.mem := rfl
@[simp] theorem State.withExt_cpu_wait (s : State) (f : Extra → Extra) : (s.withExt f).cpu.wait = s.cpu.wait := rfl
@[simp] theorem State.withExt_cpu_ir (s : State) (f : Extra → Extra) : (s.withExt f).cpu.ir = s.cpu.ir := rfl
@[simp] theorem State.withExt_cpu_staging (s : State) (f : Extra → Extra) : (s.withExt f).cpu.staging = s.cpu.staging := rfl
@[simp] theorem State.withExt_cpu_serves (s : State) (f : Extra → Extra) : (s.withExt f).cpu.serves = s.cpu.serves := rfl
@[simp] theorem State.withExt_cpu_usage (s : State) (f : Extra → Extra) : (s.withExt f).cpu.usage = s.cpu.usage := rfl
@[simp] theorem State.withExt_others (s : State) (f : Extra → Extra) : (s.withExt f).others = s.others := rfl
@[simp] theorem State.withExt_agenda (s : State) (f : Extra → Extra) : (s.withExt f).agenda = s.agenda := rfl
@[simp] theorem State.withExt_stales (s : State) (f : Extra → Extra) : (s.withExt f).stales = s.stales := rfl
@[simp] theorem State.withExt_pauses (s : State) (f : Extra → Extra) : (s.withExt f).pauses = s.pauses := rfl
@[simp] theorem State.withExt_mem (s : State) (f : Extra → Extra) : (s.withExt f).mem = s.mem := rfl
@[simp] theorem State.withExt_hostMem (s : State) (f : Extra → Extra) : (s.withExt f).hostMem = s.hostMem := rfl
@[simp] theorem State.withExt_fwMem (s : State) (f : Extra → Extra) : (s.withExt f).fwMem = s.fwMem := rfl
@[simp] theorem State.withExt_log (s : State) (f : Extra → Extra) : (s.withExt f).log = s.log := rfl
@[simp] theorem State.withExt_poison (s : State) (f : Extra → Extra) : (s.withExt f).poison = s.poison := rfl
@[simp] theorem State.withExt_hostPoison (s : State) (f : Extra → Extra) : (s.withExt f).hostPoison = s.hostPoison := rfl
@[simp] theorem State.withExt_spills (s : State) (f : Extra → Extra) : (s.withExt f).spills = s.spills := rfl
@[simp] theorem State.withExt_tasks (s : State) (f : Extra → Extra) : (s.withExt f).tasks = s.tasks := rfl
@[simp] theorem State.withExt_launches (s : State) (f : Extra → Extra) : (s.withExt f).launches = s.launches := rfl
@[simp] theorem State.withExt_graphs (s : State) (f : Extra → Extra) : (s.withExt f).graphs = s.graphs := rfl
@[simp] theorem State.withExt_copies (s : State) (f : Extra → Extra) : (s.withExt f).copies = s.copies := rfl
@[simp] theorem State.withExt_clusters (s : State) (f : Extra → Extra) : (s.withExt f).clusters = s.clusters := rfl
@[simp] theorem State.withExt_tenants (s : State) (f : Extra → Extra) : (s.withExt f).tenants = s.tenants := rfl
@[simp] theorem State.withExt_tenantsX (s : State) (f : Extra → Extra) : (s.withExt f).tenantsX = s.tenantsX := rfl
@[simp] theorem State.withExt_tlb (s : State) (f : Extra → Extra) : (s.withExt f).tlb = s.tlb := rfl
@[simp] theorem State.withExt_dev (s : State) (f : Extra → Extra) : (s.withExt f).dev = s.dev := rfl

/-! ## `withMem` -/

@[simp] theorem State.withMem_cpu_id (s : State) (f : MemSt → MemSt) : (s.withMem f).cpu.id = s.cpu.id := rfl
@[simp] theorem State.withMem_cpu_tenant (s : State) (f : MemSt → MemSt) : (s.withMem f).cpu.tenant = s.cpu.tenant := rfl
@[simp] theorem State.withMem_cpu_cluster (s : State) (f : MemSt → MemSt) : (s.withMem f).cpu.cluster = s.cpu.cluster := rfl
@[simp] theorem State.withMem_cpu_resid (s : State) (f : MemSt → MemSt) : (s.withMem f).cpu.resid = s.cpu.resid := rfl
@[simp] theorem State.withMem_cpu_ctl (s : State) (f : MemSt → MemSt) : (s.withMem f).cpu.ctl = s.cpu.ctl := rfl
@[simp] theorem State.withMem_cpu_regs (s : State) (f : MemSt → MemSt) : (s.withMem f).cpu.regs = s.cpu.regs := rfl
@[simp] theorem State.withMem_cpu_trap (s : State) (f : MemSt → MemSt) : (s.withMem f).cpu.trap = s.cpu.trap := rfl
@[simp] theorem State.withMem_cpu_ext (s : State) (f : MemSt → MemSt) : (s.withMem f).cpu.ext = s.cpu.ext := rfl
@[simp] theorem State.withMem_cpu_mem (s : State) (f : MemSt → MemSt) : (s.withMem f).cpu.mem = f s.cpu.mem := rfl
@[simp] theorem State.withMem_cpu_wait (s : State) (f : MemSt → MemSt) : (s.withMem f).cpu.wait = s.cpu.wait := rfl
@[simp] theorem State.withMem_cpu_ir (s : State) (f : MemSt → MemSt) : (s.withMem f).cpu.ir = s.cpu.ir := rfl
@[simp] theorem State.withMem_cpu_staging (s : State) (f : MemSt → MemSt) : (s.withMem f).cpu.staging = s.cpu.staging := rfl
@[simp] theorem State.withMem_cpu_serves (s : State) (f : MemSt → MemSt) : (s.withMem f).cpu.serves = s.cpu.serves := rfl
@[simp] theorem State.withMem_cpu_usage (s : State) (f : MemSt → MemSt) : (s.withMem f).cpu.usage = s.cpu.usage := rfl
@[simp] theorem State.withMem_others (s : State) (f : MemSt → MemSt) : (s.withMem f).others = s.others := rfl
@[simp] theorem State.withMem_agenda (s : State) (f : MemSt → MemSt) : (s.withMem f).agenda = s.agenda := rfl
@[simp] theorem State.withMem_stales (s : State) (f : MemSt → MemSt) : (s.withMem f).stales = s.stales := rfl
@[simp] theorem State.withMem_pauses (s : State) (f : MemSt → MemSt) : (s.withMem f).pauses = s.pauses := rfl
@[simp] theorem State.withMem_mem (s : State) (f : MemSt → MemSt) : (s.withMem f).mem = s.mem := rfl
@[simp] theorem State.withMem_hostMem (s : State) (f : MemSt → MemSt) : (s.withMem f).hostMem = s.hostMem := rfl
@[simp] theorem State.withMem_fwMem (s : State) (f : MemSt → MemSt) : (s.withMem f).fwMem = s.fwMem := rfl
@[simp] theorem State.withMem_log (s : State) (f : MemSt → MemSt) : (s.withMem f).log = s.log := rfl
@[simp] theorem State.withMem_poison (s : State) (f : MemSt → MemSt) : (s.withMem f).poison = s.poison := rfl
@[simp] theorem State.withMem_hostPoison (s : State) (f : MemSt → MemSt) : (s.withMem f).hostPoison = s.hostPoison := rfl
@[simp] theorem State.withMem_spills (s : State) (f : MemSt → MemSt) : (s.withMem f).spills = s.spills := rfl
@[simp] theorem State.withMem_tasks (s : State) (f : MemSt → MemSt) : (s.withMem f).tasks = s.tasks := rfl
@[simp] theorem State.withMem_launches (s : State) (f : MemSt → MemSt) : (s.withMem f).launches = s.launches := rfl
@[simp] theorem State.withMem_graphs (s : State) (f : MemSt → MemSt) : (s.withMem f).graphs = s.graphs := rfl
@[simp] theorem State.withMem_copies (s : State) (f : MemSt → MemSt) : (s.withMem f).copies = s.copies := rfl
@[simp] theorem State.withMem_clusters (s : State) (f : MemSt → MemSt) : (s.withMem f).clusters = s.clusters := rfl
@[simp] theorem State.withMem_tenants (s : State) (f : MemSt → MemSt) : (s.withMem f).tenants = s.tenants := rfl
@[simp] theorem State.withMem_tenantsX (s : State) (f : MemSt → MemSt) : (s.withMem f).tenantsX = s.tenantsX := rfl
@[simp] theorem State.withMem_tlb (s : State) (f : MemSt → MemSt) : (s.withMem f).tlb = s.tlb := rfl
@[simp] theorem State.withMem_dev (s : State) (f : MemSt → MemSt) : (s.withMem f).dev = s.dev := rfl

/-! ## `waitFor` -/

@[simp] theorem State.waitFor_cpu_id (s : State) (w : Wait) : (s.waitFor w).cpu.id = s.cpu.id := rfl
@[simp] theorem State.waitFor_cpu_tenant (s : State) (w : Wait) : (s.waitFor w).cpu.tenant = s.cpu.tenant := rfl
@[simp] theorem State.waitFor_cpu_cluster (s : State) (w : Wait) : (s.waitFor w).cpu.cluster = s.cpu.cluster := rfl
@[simp] theorem State.waitFor_cpu_resid (s : State) (w : Wait) : (s.waitFor w).cpu.resid = s.cpu.resid := rfl
@[simp] theorem State.waitFor_cpu_ctl (s : State) (w : Wait) : (s.waitFor w).cpu.ctl = s.cpu.ctl := rfl
@[simp] theorem State.waitFor_cpu_regs (s : State) (w : Wait) : (s.waitFor w).cpu.regs = s.cpu.regs := rfl
@[simp] theorem State.waitFor_cpu_trap (s : State) (w : Wait) : (s.waitFor w).cpu.trap = s.cpu.trap := rfl
@[simp] theorem State.waitFor_cpu_ext (s : State) (w : Wait) : (s.waitFor w).cpu.ext = s.cpu.ext := rfl
@[simp] theorem State.waitFor_cpu_mem (s : State) (w : Wait) : (s.waitFor w).cpu.mem = s.cpu.mem := rfl
@[simp] theorem State.waitFor_cpu_wait (s : State) (w : Wait) : (s.waitFor w).cpu.wait = some w := rfl
@[simp] theorem State.waitFor_cpu_ir (s : State) (w : Wait) : (s.waitFor w).cpu.ir = s.cpu.ir := rfl
@[simp] theorem State.waitFor_cpu_staging (s : State) (w : Wait) : (s.waitFor w).cpu.staging = s.cpu.staging := rfl
@[simp] theorem State.waitFor_cpu_serves (s : State) (w : Wait) : (s.waitFor w).cpu.serves = s.cpu.serves := rfl
@[simp] theorem State.waitFor_cpu_usage (s : State) (w : Wait) : (s.waitFor w).cpu.usage = s.cpu.usage := rfl
@[simp] theorem State.waitFor_others (s : State) (w : Wait) : (s.waitFor w).others = s.others := rfl
@[simp] theorem State.waitFor_agenda (s : State) (w : Wait) : (s.waitFor w).agenda = s.agenda := rfl
@[simp] theorem State.waitFor_stales (s : State) (w : Wait) : (s.waitFor w).stales = s.stales := rfl
@[simp] theorem State.waitFor_pauses (s : State) (w : Wait) : (s.waitFor w).pauses = s.pauses := rfl
@[simp] theorem State.waitFor_mem (s : State) (w : Wait) : (s.waitFor w).mem = s.mem := rfl
@[simp] theorem State.waitFor_hostMem (s : State) (w : Wait) : (s.waitFor w).hostMem = s.hostMem := rfl
@[simp] theorem State.waitFor_fwMem (s : State) (w : Wait) : (s.waitFor w).fwMem = s.fwMem := rfl
@[simp] theorem State.waitFor_log (s : State) (w : Wait) : (s.waitFor w).log = s.log := rfl
@[simp] theorem State.waitFor_poison (s : State) (w : Wait) : (s.waitFor w).poison = s.poison := rfl
@[simp] theorem State.waitFor_hostPoison (s : State) (w : Wait) : (s.waitFor w).hostPoison = s.hostPoison := rfl
@[simp] theorem State.waitFor_spills (s : State) (w : Wait) : (s.waitFor w).spills = s.spills := rfl
@[simp] theorem State.waitFor_tasks (s : State) (w : Wait) : (s.waitFor w).tasks = s.tasks := rfl
@[simp] theorem State.waitFor_launches (s : State) (w : Wait) : (s.waitFor w).launches = s.launches := rfl
@[simp] theorem State.waitFor_graphs (s : State) (w : Wait) : (s.waitFor w).graphs = s.graphs := rfl
@[simp] theorem State.waitFor_copies (s : State) (w : Wait) : (s.waitFor w).copies = s.copies := rfl
@[simp] theorem State.waitFor_clusters (s : State) (w : Wait) : (s.waitFor w).clusters = s.clusters := rfl
@[simp] theorem State.waitFor_tenants (s : State) (w : Wait) : (s.waitFor w).tenants = s.tenants := rfl
@[simp] theorem State.waitFor_tenantsX (s : State) (w : Wait) : (s.waitFor w).tenantsX = s.tenantsX := rfl
@[simp] theorem State.waitFor_tlb (s : State) (w : Wait) : (s.waitFor w).tlb = s.tlb := rfl
@[simp] theorem State.waitFor_dev (s : State) (w : Wait) : (s.waitFor w).dev = s.dev := rfl

/-! ## The device -/

@[simp] theorem State.withDev_cpu (s : State) (f : Dev → Dev) : (s.withDev f).cpu = s.cpu := rfl
@[simp] theorem State.withDev_others (s : State) (f : Dev → Dev) : (s.withDev f).others = s.others := rfl
@[simp] theorem State.withDev_agenda (s : State) (f : Dev → Dev) : (s.withDev f).agenda = s.agenda := rfl
@[simp] theorem State.withDev_stales (s : State) (f : Dev → Dev) : (s.withDev f).stales = s.stales := rfl
@[simp] theorem State.withDev_pauses (s : State) (f : Dev → Dev) : (s.withDev f).pauses = s.pauses := rfl
@[simp] theorem State.withDev_mem (s : State) (f : Dev → Dev) : (s.withDev f).mem = s.mem := rfl
@[simp] theorem State.withDev_hostMem (s : State) (f : Dev → Dev) : (s.withDev f).hostMem = s.hostMem := rfl
@[simp] theorem State.withDev_fwMem (s : State) (f : Dev → Dev) : (s.withDev f).fwMem = s.fwMem := rfl
@[simp] theorem State.withDev_log (s : State) (f : Dev → Dev) : (s.withDev f).log = s.log := rfl
@[simp] theorem State.withDev_poison (s : State) (f : Dev → Dev) : (s.withDev f).poison = s.poison := rfl
@[simp] theorem State.withDev_hostPoison (s : State) (f : Dev → Dev) : (s.withDev f).hostPoison = s.hostPoison := rfl
@[simp] theorem State.withDev_spills (s : State) (f : Dev → Dev) : (s.withDev f).spills = s.spills := rfl
@[simp] theorem State.withDev_tasks (s : State) (f : Dev → Dev) : (s.withDev f).tasks = s.tasks := rfl
@[simp] theorem State.withDev_launches (s : State) (f : Dev → Dev) : (s.withDev f).launches = s.launches := rfl
@[simp] theorem State.withDev_graphs (s : State) (f : Dev → Dev) : (s.withDev f).graphs = s.graphs := rfl
@[simp] theorem State.withDev_copies (s : State) (f : Dev → Dev) : (s.withDev f).copies = s.copies := rfl
@[simp] theorem State.withDev_clusters (s : State) (f : Dev → Dev) : (s.withDev f).clusters = s.clusters := rfl
@[simp] theorem State.withDev_tenants (s : State) (f : Dev → Dev) : (s.withDev f).tenants = s.tenants := rfl
@[simp] theorem State.withDev_tenantsX (s : State) (f : Dev → Dev) : (s.withDev f).tenantsX = s.tenantsX := rfl
@[simp] theorem State.withDev_tlb (s : State) (f : Dev → Dev) : (s.withDev f).tlb = s.tlb := rfl
@[simp] theorem State.withDev_dev (s : State) (f : Dev → Dev) : (s.withDev f).dev = f s.dev := rfl
@[simp] theorem State.withH_cpu (s : State) (f : HCsr → HCsr) : (s.withH f).cpu = s.cpu := rfl
@[simp] theorem State.withH_others (s : State) (f : HCsr → HCsr) : (s.withH f).others = s.others := rfl
@[simp] theorem State.withH_agenda (s : State) (f : HCsr → HCsr) : (s.withH f).agenda = s.agenda := rfl
@[simp] theorem State.withH_stales (s : State) (f : HCsr → HCsr) : (s.withH f).stales = s.stales := rfl
@[simp] theorem State.withH_pauses (s : State) (f : HCsr → HCsr) : (s.withH f).pauses = s.pauses := rfl
@[simp] theorem State.withH_mem (s : State) (f : HCsr → HCsr) : (s.withH f).mem = s.mem := rfl
@[simp] theorem State.withH_hostMem (s : State) (f : HCsr → HCsr) : (s.withH f).hostMem = s.hostMem := rfl
@[simp] theorem State.withH_fwMem (s : State) (f : HCsr → HCsr) : (s.withH f).fwMem = s.fwMem := rfl
@[simp] theorem State.withH_log (s : State) (f : HCsr → HCsr) : (s.withH f).log = s.log := rfl
@[simp] theorem State.withH_poison (s : State) (f : HCsr → HCsr) : (s.withH f).poison = s.poison := rfl
@[simp] theorem State.withH_hostPoison (s : State) (f : HCsr → HCsr) : (s.withH f).hostPoison = s.hostPoison := rfl
@[simp] theorem State.withH_spills (s : State) (f : HCsr → HCsr) : (s.withH f).spills = s.spills := rfl
@[simp] theorem State.withH_tasks (s : State) (f : HCsr → HCsr) : (s.withH f).tasks = s.tasks := rfl
@[simp] theorem State.withH_launches (s : State) (f : HCsr → HCsr) : (s.withH f).launches = s.launches := rfl
@[simp] theorem State.withH_graphs (s : State) (f : HCsr → HCsr) : (s.withH f).graphs = s.graphs := rfl
@[simp] theorem State.withH_copies (s : State) (f : HCsr → HCsr) : (s.withH f).copies = s.copies := rfl
@[simp] theorem State.withH_clusters (s : State) (f : HCsr → HCsr) : (s.withH f).clusters = s.clusters := rfl
@[simp] theorem State.withH_tenants (s : State) (f : HCsr → HCsr) : (s.withH f).tenants = s.tenants := rfl
@[simp] theorem State.withH_tenantsX (s : State) (f : HCsr → HCsr) : (s.withH f).tenantsX = s.tenantsX := rfl
@[simp] theorem State.withH_tlb (s : State) (f : HCsr → HCsr) : (s.withH f).tlb = s.tlb := rfl
@[simp] theorem State.withH_dev (s : State) (f : HCsr → HCsr) : (s.withH f).dev = { s.dev with h := f s.dev.h } := rfl
@[simp] theorem State.withM_cpu (s : State) (f : MCsr → MCsr) : (s.withM f).cpu = s.cpu := rfl
@[simp] theorem State.withM_others (s : State) (f : MCsr → MCsr) : (s.withM f).others = s.others := rfl
@[simp] theorem State.withM_agenda (s : State) (f : MCsr → MCsr) : (s.withM f).agenda = s.agenda := rfl
@[simp] theorem State.withM_stales (s : State) (f : MCsr → MCsr) : (s.withM f).stales = s.stales := rfl
@[simp] theorem State.withM_pauses (s : State) (f : MCsr → MCsr) : (s.withM f).pauses = s.pauses := rfl
@[simp] theorem State.withM_mem (s : State) (f : MCsr → MCsr) : (s.withM f).mem = s.mem := rfl
@[simp] theorem State.withM_hostMem (s : State) (f : MCsr → MCsr) : (s.withM f).hostMem = s.hostMem := rfl
@[simp] theorem State.withM_fwMem (s : State) (f : MCsr → MCsr) : (s.withM f).fwMem = s.fwMem := rfl
@[simp] theorem State.withM_log (s : State) (f : MCsr → MCsr) : (s.withM f).log = s.log := rfl
@[simp] theorem State.withM_poison (s : State) (f : MCsr → MCsr) : (s.withM f).poison = s.poison := rfl
@[simp] theorem State.withM_hostPoison (s : State) (f : MCsr → MCsr) : (s.withM f).hostPoison = s.hostPoison := rfl
@[simp] theorem State.withM_spills (s : State) (f : MCsr → MCsr) : (s.withM f).spills = s.spills := rfl
@[simp] theorem State.withM_tasks (s : State) (f : MCsr → MCsr) : (s.withM f).tasks = s.tasks := rfl
@[simp] theorem State.withM_launches (s : State) (f : MCsr → MCsr) : (s.withM f).launches = s.launches := rfl
@[simp] theorem State.withM_graphs (s : State) (f : MCsr → MCsr) : (s.withM f).graphs = s.graphs := rfl
@[simp] theorem State.withM_copies (s : State) (f : MCsr → MCsr) : (s.withM f).copies = s.copies := rfl
@[simp] theorem State.withM_clusters (s : State) (f : MCsr → MCsr) : (s.withM f).clusters = s.clusters := rfl
@[simp] theorem State.withM_tenants (s : State) (f : MCsr → MCsr) : (s.withM f).tenants = s.tenants := rfl
@[simp] theorem State.withM_tenantsX (s : State) (f : MCsr → MCsr) : (s.withM f).tenantsX = s.tenantsX := rfl
@[simp] theorem State.withM_tlb (s : State) (f : MCsr → MCsr) : (s.withM f).tlb = s.tlb := rfl
@[simp] theorem State.withM_dev (s : State) (f : MCsr → MCsr) : (s.withM f).dev = { s.dev with m := f s.dev.m } := rfl
@[simp] theorem State.fresh_cpu (s : State) : s.fresh.2.cpu = s.cpu := rfl
@[simp] theorem State.fresh_others (s : State) : s.fresh.2.others = s.others := rfl
@[simp] theorem State.fresh_agenda (s : State) : s.fresh.2.agenda = s.agenda := rfl
@[simp] theorem State.fresh_stales (s : State) : s.fresh.2.stales = s.stales := rfl
@[simp] theorem State.fresh_pauses (s : State) : s.fresh.2.pauses = s.pauses := rfl
@[simp] theorem State.fresh_mem (s : State) : s.fresh.2.mem = s.mem := rfl
@[simp] theorem State.fresh_hostMem (s : State) : s.fresh.2.hostMem = s.hostMem := rfl
@[simp] theorem State.fresh_fwMem (s : State) : s.fresh.2.fwMem = s.fwMem := rfl
@[simp] theorem State.fresh_log (s : State) : s.fresh.2.log = s.log := rfl
@[simp] theorem State.fresh_poison (s : State) : s.fresh.2.poison = s.poison := rfl
@[simp] theorem State.fresh_hostPoison (s : State) : s.fresh.2.hostPoison = s.hostPoison := rfl
@[simp] theorem State.fresh_spills (s : State) : s.fresh.2.spills = s.spills := rfl
@[simp] theorem State.fresh_tasks (s : State) : s.fresh.2.tasks = s.tasks := rfl
@[simp] theorem State.fresh_launches (s : State) : s.fresh.2.launches = s.launches := rfl
@[simp] theorem State.fresh_graphs (s : State) : s.fresh.2.graphs = s.graphs := rfl
@[simp] theorem State.fresh_copies (s : State) : s.fresh.2.copies = s.copies := rfl
@[simp] theorem State.fresh_clusters (s : State) : s.fresh.2.clusters = s.clusters := rfl
@[simp] theorem State.fresh_tenants (s : State) : s.fresh.2.tenants = s.tenants := rfl
@[simp] theorem State.fresh_tenantsX (s : State) : s.fresh.2.tenantsX = s.tenantsX := rfl
@[simp] theorem State.fresh_tlb (s : State) : s.fresh.2.tlb = s.tlb := rfl
@[simp] theorem State.freeWord_cpu (s : State) : s.freeWord.2.cpu = s.cpu := rfl
@[simp] theorem State.freeWord_others (s : State) : s.freeWord.2.others = s.others := rfl
@[simp] theorem State.freeWord_agenda (s : State) : s.freeWord.2.agenda = s.agenda := rfl
@[simp] theorem State.freeWord_stales (s : State) : s.freeWord.2.stales = s.stales := rfl
@[simp] theorem State.freeWord_pauses (s : State) : s.freeWord.2.pauses = s.pauses := rfl
@[simp] theorem State.freeWord_mem (s : State) : s.freeWord.2.mem = s.mem := rfl
@[simp] theorem State.freeWord_hostMem (s : State) : s.freeWord.2.hostMem = s.hostMem := rfl
@[simp] theorem State.freeWord_fwMem (s : State) : s.freeWord.2.fwMem = s.fwMem := rfl
@[simp] theorem State.freeWord_log (s : State) : s.freeWord.2.log = s.log := rfl
@[simp] theorem State.freeWord_poison (s : State) : s.freeWord.2.poison = s.poison := rfl
@[simp] theorem State.freeWord_hostPoison (s : State) : s.freeWord.2.hostPoison = s.hostPoison := rfl
@[simp] theorem State.freeWord_spills (s : State) : s.freeWord.2.spills = s.spills := rfl
@[simp] theorem State.freeWord_tasks (s : State) : s.freeWord.2.tasks = s.tasks := rfl
@[simp] theorem State.freeWord_launches (s : State) : s.freeWord.2.launches = s.launches := rfl
@[simp] theorem State.freeWord_graphs (s : State) : s.freeWord.2.graphs = s.graphs := rfl
@[simp] theorem State.freeWord_copies (s : State) : s.freeWord.2.copies = s.copies := rfl
@[simp] theorem State.freeWord_clusters (s : State) : s.freeWord.2.clusters = s.clusters := rfl
@[simp] theorem State.freeWord_tenants (s : State) : s.freeWord.2.tenants = s.tenants := rfl
@[simp] theorem State.freeWord_tenantsX (s : State) : s.freeWord.2.tenantsX = s.tenantsX := rfl
@[simp] theorem State.freeWord_tlb (s : State) : s.freeWord.2.tlb = s.tlb := rfl

/-! ## Tasks, launches, graphs, clusters, tenants -/

@[simp] theorem State.setTask_cpu (s : State) (t : Task) : (s.setTask t).cpu = s.cpu := rfl
@[simp] theorem State.setTask_others (s : State) (t : Task) : (s.setTask t).others = s.others := rfl
@[simp] theorem State.setTask_agenda (s : State) (t : Task) : (s.setTask t).agenda = s.agenda := rfl
@[simp] theorem State.setTask_stales (s : State) (t : Task) : (s.setTask t).stales = s.stales := rfl
@[simp] theorem State.setTask_pauses (s : State) (t : Task) : (s.setTask t).pauses = s.pauses := rfl
@[simp] theorem State.setTask_mem (s : State) (t : Task) : (s.setTask t).mem = s.mem := rfl
@[simp] theorem State.setTask_hostMem (s : State) (t : Task) : (s.setTask t).hostMem = s.hostMem := rfl
@[simp] theorem State.setTask_fwMem (s : State) (t : Task) : (s.setTask t).fwMem = s.fwMem := rfl
@[simp] theorem State.setTask_log (s : State) (t : Task) : (s.setTask t).log = s.log := rfl
@[simp] theorem State.setTask_poison (s : State) (t : Task) : (s.setTask t).poison = s.poison := rfl
@[simp] theorem State.setTask_hostPoison (s : State) (t : Task) : (s.setTask t).hostPoison = s.hostPoison := rfl
@[simp] theorem State.setTask_spills (s : State) (t : Task) : (s.setTask t).spills = s.spills := rfl
@[simp] theorem State.setTask_launches (s : State) (t : Task) : (s.setTask t).launches = s.launches := rfl
@[simp] theorem State.setTask_graphs (s : State) (t : Task) : (s.setTask t).graphs = s.graphs := rfl
@[simp] theorem State.setTask_copies (s : State) (t : Task) : (s.setTask t).copies = s.copies := rfl
@[simp] theorem State.setTask_clusters (s : State) (t : Task) : (s.setTask t).clusters = s.clusters := rfl
@[simp] theorem State.setTask_tenants (s : State) (t : Task) : (s.setTask t).tenants = s.tenants := rfl
@[simp] theorem State.setTask_tenantsX (s : State) (t : Task) : (s.setTask t).tenantsX = s.tenantsX := rfl
@[simp] theorem State.setTask_tlb (s : State) (t : Task) : (s.setTask t).tlb = s.tlb := rfl
@[simp] theorem State.setTask_dev (s : State) (t : Task) : (s.setTask t).dev = s.dev := rfl
@[simp] theorem State.modTask_cpu (s : State) (n : Nat) (f : Task → Task) : (s.modTask n f).cpu = s.cpu := rfl
@[simp] theorem State.modTask_others (s : State) (n : Nat) (f : Task → Task) : (s.modTask n f).others = s.others := rfl
@[simp] theorem State.modTask_agenda (s : State) (n : Nat) (f : Task → Task) : (s.modTask n f).agenda = s.agenda := rfl
@[simp] theorem State.modTask_stales (s : State) (n : Nat) (f : Task → Task) : (s.modTask n f).stales = s.stales := rfl
@[simp] theorem State.modTask_pauses (s : State) (n : Nat) (f : Task → Task) : (s.modTask n f).pauses = s.pauses := rfl
@[simp] theorem State.modTask_mem (s : State) (n : Nat) (f : Task → Task) : (s.modTask n f).mem = s.mem := rfl
@[simp] theorem State.modTask_hostMem (s : State) (n : Nat) (f : Task → Task) : (s.modTask n f).hostMem = s.hostMem := rfl
@[simp] theorem State.modTask_fwMem (s : State) (n : Nat) (f : Task → Task) : (s.modTask n f).fwMem = s.fwMem := rfl
@[simp] theorem State.modTask_log (s : State) (n : Nat) (f : Task → Task) : (s.modTask n f).log = s.log := rfl
@[simp] theorem State.modTask_poison (s : State) (n : Nat) (f : Task → Task) : (s.modTask n f).poison = s.poison := rfl
@[simp] theorem State.modTask_hostPoison (s : State) (n : Nat) (f : Task → Task) : (s.modTask n f).hostPoison = s.hostPoison := rfl
@[simp] theorem State.modTask_spills (s : State) (n : Nat) (f : Task → Task) : (s.modTask n f).spills = s.spills := rfl
@[simp] theorem State.modTask_launches (s : State) (n : Nat) (f : Task → Task) : (s.modTask n f).launches = s.launches := rfl
@[simp] theorem State.modTask_graphs (s : State) (n : Nat) (f : Task → Task) : (s.modTask n f).graphs = s.graphs := rfl
@[simp] theorem State.modTask_copies (s : State) (n : Nat) (f : Task → Task) : (s.modTask n f).copies = s.copies := rfl
@[simp] theorem State.modTask_clusters (s : State) (n : Nat) (f : Task → Task) : (s.modTask n f).clusters = s.clusters := rfl
@[simp] theorem State.modTask_tenants (s : State) (n : Nat) (f : Task → Task) : (s.modTask n f).tenants = s.tenants := rfl
@[simp] theorem State.modTask_tenantsX (s : State) (n : Nat) (f : Task → Task) : (s.modTask n f).tenantsX = s.tenantsX := rfl
@[simp] theorem State.modTask_tlb (s : State) (n : Nat) (f : Task → Task) : (s.modTask n f).tlb = s.tlb := rfl
@[simp] theorem State.modTask_dev (s : State) (n : Nat) (f : Task → Task) : (s.modTask n f).dev = s.dev := rfl
@[simp] theorem State.modLaunch_cpu (s : State) (m n : Nat) (f : Launch → Launch) : (s.modLaunch m n f).cpu = s.cpu := rfl
@[simp] theorem State.modLaunch_others (s : State) (m n : Nat) (f : Launch → Launch) : (s.modLaunch m n f).others = s.others := rfl
@[simp] theorem State.modLaunch_agenda (s : State) (m n : Nat) (f : Launch → Launch) : (s.modLaunch m n f).agenda = s.agenda := rfl
@[simp] theorem State.modLaunch_stales (s : State) (m n : Nat) (f : Launch → Launch) : (s.modLaunch m n f).stales = s.stales := rfl
@[simp] theorem State.modLaunch_pauses (s : State) (m n : Nat) (f : Launch → Launch) : (s.modLaunch m n f).pauses = s.pauses := rfl
@[simp] theorem State.modLaunch_mem (s : State) (m n : Nat) (f : Launch → Launch) : (s.modLaunch m n f).mem = s.mem := rfl
@[simp] theorem State.modLaunch_hostMem (s : State) (m n : Nat) (f : Launch → Launch) : (s.modLaunch m n f).hostMem = s.hostMem := rfl
@[simp] theorem State.modLaunch_fwMem (s : State) (m n : Nat) (f : Launch → Launch) : (s.modLaunch m n f).fwMem = s.fwMem := rfl
@[simp] theorem State.modLaunch_log (s : State) (m n : Nat) (f : Launch → Launch) : (s.modLaunch m n f).log = s.log := rfl
@[simp] theorem State.modLaunch_poison (s : State) (m n : Nat) (f : Launch → Launch) : (s.modLaunch m n f).poison = s.poison := rfl
@[simp] theorem State.modLaunch_hostPoison (s : State) (m n : Nat) (f : Launch → Launch) : (s.modLaunch m n f).hostPoison = s.hostPoison := rfl
@[simp] theorem State.modLaunch_spills (s : State) (m n : Nat) (f : Launch → Launch) : (s.modLaunch m n f).spills = s.spills := rfl
@[simp] theorem State.modLaunch_tasks (s : State) (m n : Nat) (f : Launch → Launch) : (s.modLaunch m n f).tasks = s.tasks := rfl
@[simp] theorem State.modLaunch_graphs (s : State) (m n : Nat) (f : Launch → Launch) : (s.modLaunch m n f).graphs = s.graphs := rfl
@[simp] theorem State.modLaunch_copies (s : State) (m n : Nat) (f : Launch → Launch) : (s.modLaunch m n f).copies = s.copies := rfl
@[simp] theorem State.modLaunch_clusters (s : State) (m n : Nat) (f : Launch → Launch) : (s.modLaunch m n f).clusters = s.clusters := rfl
@[simp] theorem State.modLaunch_tenants (s : State) (m n : Nat) (f : Launch → Launch) : (s.modLaunch m n f).tenants = s.tenants := rfl
@[simp] theorem State.modLaunch_tenantsX (s : State) (m n : Nat) (f : Launch → Launch) : (s.modLaunch m n f).tenantsX = s.tenantsX := rfl
@[simp] theorem State.modLaunch_tlb (s : State) (m n : Nat) (f : Launch → Launch) : (s.modLaunch m n f).tlb = s.tlb := rfl
@[simp] theorem State.modLaunch_dev (s : State) (m n : Nat) (f : Launch → Launch) : (s.modLaunch m n f).dev = s.dev := rfl
@[simp] theorem State.modGraph_cpu (s : State) (m n : Nat) (f : Graph → Graph) : (s.modGraph m n f).cpu = s.cpu := rfl
@[simp] theorem State.modGraph_others (s : State) (m n : Nat) (f : Graph → Graph) : (s.modGraph m n f).others = s.others := rfl
@[simp] theorem State.modGraph_agenda (s : State) (m n : Nat) (f : Graph → Graph) : (s.modGraph m n f).agenda = s.agenda := rfl
@[simp] theorem State.modGraph_stales (s : State) (m n : Nat) (f : Graph → Graph) : (s.modGraph m n f).stales = s.stales := rfl
@[simp] theorem State.modGraph_pauses (s : State) (m n : Nat) (f : Graph → Graph) : (s.modGraph m n f).pauses = s.pauses := rfl
@[simp] theorem State.modGraph_mem (s : State) (m n : Nat) (f : Graph → Graph) : (s.modGraph m n f).mem = s.mem := rfl
@[simp] theorem State.modGraph_hostMem (s : State) (m n : Nat) (f : Graph → Graph) : (s.modGraph m n f).hostMem = s.hostMem := rfl
@[simp] theorem State.modGraph_fwMem (s : State) (m n : Nat) (f : Graph → Graph) : (s.modGraph m n f).fwMem = s.fwMem := rfl
@[simp] theorem State.modGraph_log (s : State) (m n : Nat) (f : Graph → Graph) : (s.modGraph m n f).log = s.log := rfl
@[simp] theorem State.modGraph_poison (s : State) (m n : Nat) (f : Graph → Graph) : (s.modGraph m n f).poison = s.poison := rfl
@[simp] theorem State.modGraph_hostPoison (s : State) (m n : Nat) (f : Graph → Graph) : (s.modGraph m n f).hostPoison = s.hostPoison := rfl
@[simp] theorem State.modGraph_spills (s : State) (m n : Nat) (f : Graph → Graph) : (s.modGraph m n f).spills = s.spills := rfl
@[simp] theorem State.modGraph_tasks (s : State) (m n : Nat) (f : Graph → Graph) : (s.modGraph m n f).tasks = s.tasks := rfl
@[simp] theorem State.modGraph_launches (s : State) (m n : Nat) (f : Graph → Graph) : (s.modGraph m n f).launches = s.launches := rfl
@[simp] theorem State.modGraph_copies (s : State) (m n : Nat) (f : Graph → Graph) : (s.modGraph m n f).copies = s.copies := rfl
@[simp] theorem State.modGraph_clusters (s : State) (m n : Nat) (f : Graph → Graph) : (s.modGraph m n f).clusters = s.clusters := rfl
@[simp] theorem State.modGraph_tenants (s : State) (m n : Nat) (f : Graph → Graph) : (s.modGraph m n f).tenants = s.tenants := rfl
@[simp] theorem State.modGraph_tenantsX (s : State) (m n : Nat) (f : Graph → Graph) : (s.modGraph m n f).tenantsX = s.tenantsX := rfl
@[simp] theorem State.modGraph_tlb (s : State) (m n : Nat) (f : Graph → Graph) : (s.modGraph m n f).tlb = s.tlb := rfl
@[simp] theorem State.modGraph_dev (s : State) (m n : Nat) (f : Graph → Graph) : (s.modGraph m n f).dev = s.dev := rfl
@[simp] theorem State.setCluster_cpu (s : State) (c : Cluster) : (s.setCluster c).cpu = s.cpu := rfl
@[simp] theorem State.setCluster_others (s : State) (c : Cluster) : (s.setCluster c).others = s.others := rfl
@[simp] theorem State.setCluster_agenda (s : State) (c : Cluster) : (s.setCluster c).agenda = s.agenda := rfl
@[simp] theorem State.setCluster_stales (s : State) (c : Cluster) : (s.setCluster c).stales = s.stales := rfl
@[simp] theorem State.setCluster_pauses (s : State) (c : Cluster) : (s.setCluster c).pauses = s.pauses := rfl
@[simp] theorem State.setCluster_mem (s : State) (c : Cluster) : (s.setCluster c).mem = s.mem := rfl
@[simp] theorem State.setCluster_hostMem (s : State) (c : Cluster) : (s.setCluster c).hostMem = s.hostMem := rfl
@[simp] theorem State.setCluster_fwMem (s : State) (c : Cluster) : (s.setCluster c).fwMem = s.fwMem := rfl
@[simp] theorem State.setCluster_log (s : State) (c : Cluster) : (s.setCluster c).log = s.log := rfl
@[simp] theorem State.setCluster_poison (s : State) (c : Cluster) : (s.setCluster c).poison = s.poison := rfl
@[simp] theorem State.setCluster_hostPoison (s : State) (c : Cluster) : (s.setCluster c).hostPoison = s.hostPoison := rfl
@[simp] theorem State.setCluster_spills (s : State) (c : Cluster) : (s.setCluster c).spills = s.spills := rfl
@[simp] theorem State.setCluster_tasks (s : State) (c : Cluster) : (s.setCluster c).tasks = s.tasks := rfl
@[simp] theorem State.setCluster_launches (s : State) (c : Cluster) : (s.setCluster c).launches = s.launches := rfl
@[simp] theorem State.setCluster_graphs (s : State) (c : Cluster) : (s.setCluster c).graphs = s.graphs := rfl
@[simp] theorem State.setCluster_copies (s : State) (c : Cluster) : (s.setCluster c).copies = s.copies := rfl
@[simp] theorem State.setCluster_tenants (s : State) (c : Cluster) : (s.setCluster c).tenants = s.tenants := rfl
@[simp] theorem State.setCluster_tenantsX (s : State) (c : Cluster) : (s.setCluster c).tenantsX = s.tenantsX := rfl
@[simp] theorem State.setCluster_tlb (s : State) (c : Cluster) : (s.setCluster c).tlb = s.tlb := rfl
@[simp] theorem State.setCluster_dev (s : State) (c : Cluster) : (s.setCluster c).dev = s.dev := rfl
@[simp] theorem State.modCluster_cpu (s : State) (n : Nat) (f : Cluster → Cluster) : (s.modCluster n f).cpu = s.cpu := rfl
@[simp] theorem State.modCluster_others (s : State) (n : Nat) (f : Cluster → Cluster) : (s.modCluster n f).others = s.others := rfl
@[simp] theorem State.modCluster_agenda (s : State) (n : Nat) (f : Cluster → Cluster) : (s.modCluster n f).agenda = s.agenda := rfl
@[simp] theorem State.modCluster_stales (s : State) (n : Nat) (f : Cluster → Cluster) : (s.modCluster n f).stales = s.stales := rfl
@[simp] theorem State.modCluster_pauses (s : State) (n : Nat) (f : Cluster → Cluster) : (s.modCluster n f).pauses = s.pauses := rfl
@[simp] theorem State.modCluster_mem (s : State) (n : Nat) (f : Cluster → Cluster) : (s.modCluster n f).mem = s.mem := rfl
@[simp] theorem State.modCluster_hostMem (s : State) (n : Nat) (f : Cluster → Cluster) : (s.modCluster n f).hostMem = s.hostMem := rfl
@[simp] theorem State.modCluster_fwMem (s : State) (n : Nat) (f : Cluster → Cluster) : (s.modCluster n f).fwMem = s.fwMem := rfl
@[simp] theorem State.modCluster_log (s : State) (n : Nat) (f : Cluster → Cluster) : (s.modCluster n f).log = s.log := rfl
@[simp] theorem State.modCluster_poison (s : State) (n : Nat) (f : Cluster → Cluster) : (s.modCluster n f).poison = s.poison := rfl
@[simp] theorem State.modCluster_hostPoison (s : State) (n : Nat) (f : Cluster → Cluster) : (s.modCluster n f).hostPoison = s.hostPoison := rfl
@[simp] theorem State.modCluster_spills (s : State) (n : Nat) (f : Cluster → Cluster) : (s.modCluster n f).spills = s.spills := rfl
@[simp] theorem State.modCluster_tasks (s : State) (n : Nat) (f : Cluster → Cluster) : (s.modCluster n f).tasks = s.tasks := rfl
@[simp] theorem State.modCluster_launches (s : State) (n : Nat) (f : Cluster → Cluster) : (s.modCluster n f).launches = s.launches := rfl
@[simp] theorem State.modCluster_graphs (s : State) (n : Nat) (f : Cluster → Cluster) : (s.modCluster n f).graphs = s.graphs := rfl
@[simp] theorem State.modCluster_copies (s : State) (n : Nat) (f : Cluster → Cluster) : (s.modCluster n f).copies = s.copies := rfl
@[simp] theorem State.modCluster_tenants (s : State) (n : Nat) (f : Cluster → Cluster) : (s.modCluster n f).tenants = s.tenants := rfl
@[simp] theorem State.modCluster_tenantsX (s : State) (n : Nat) (f : Cluster → Cluster) : (s.modCluster n f).tenantsX = s.tenantsX := rfl
@[simp] theorem State.modCluster_tlb (s : State) (n : Nat) (f : Cluster → Cluster) : (s.modCluster n f).tlb = s.tlb := rfl
@[simp] theorem State.modCluster_dev (s : State) (n : Nat) (f : Cluster → Cluster) : (s.modCluster n f).dev = s.dev := rfl
@[simp] theorem State.setTen_cpu (s : State) (t : Tenant) : (s.setTen t).cpu = s.cpu := rfl
@[simp] theorem State.setTen_others (s : State) (t : Tenant) : (s.setTen t).others = s.others := rfl
@[simp] theorem State.setTen_agenda (s : State) (t : Tenant) : (s.setTen t).agenda = s.agenda := rfl
@[simp] theorem State.setTen_stales (s : State) (t : Tenant) : (s.setTen t).stales = s.stales := rfl
@[simp] theorem State.setTen_pauses (s : State) (t : Tenant) : (s.setTen t).pauses = s.pauses := rfl
@[simp] theorem State.setTen_mem (s : State) (t : Tenant) : (s.setTen t).mem = s.mem := rfl
@[simp] theorem State.setTen_hostMem (s : State) (t : Tenant) : (s.setTen t).hostMem = s.hostMem := rfl
@[simp] theorem State.setTen_fwMem (s : State) (t : Tenant) : (s.setTen t).fwMem = s.fwMem := rfl
@[simp] theorem State.setTen_log (s : State) (t : Tenant) : (s.setTen t).log = s.log := rfl
@[simp] theorem State.setTen_poison (s : State) (t : Tenant) : (s.setTen t).poison = s.poison := rfl
@[simp] theorem State.setTen_hostPoison (s : State) (t : Tenant) : (s.setTen t).hostPoison = s.hostPoison := rfl
@[simp] theorem State.setTen_spills (s : State) (t : Tenant) : (s.setTen t).spills = s.spills := rfl
@[simp] theorem State.setTen_tasks (s : State) (t : Tenant) : (s.setTen t).tasks = s.tasks := rfl
@[simp] theorem State.setTen_launches (s : State) (t : Tenant) : (s.setTen t).launches = s.launches := rfl
@[simp] theorem State.setTen_graphs (s : State) (t : Tenant) : (s.setTen t).graphs = s.graphs := rfl
@[simp] theorem State.setTen_copies (s : State) (t : Tenant) : (s.setTen t).copies = s.copies := rfl
@[simp] theorem State.setTen_clusters (s : State) (t : Tenant) : (s.setTen t).clusters = s.clusters := rfl
@[simp] theorem State.setTen_tenantsX (s : State) (t : Tenant) : (s.setTen t).tenantsX = s.tenantsX := rfl
@[simp] theorem State.setTen_tlb (s : State) (t : Tenant) : (s.setTen t).tlb = s.tlb := rfl
@[simp] theorem State.setTen_dev (s : State) (t : Tenant) : (s.setTen t).dev = s.dev := rfl
@[simp] theorem State.modTen_cpu (s : State) (n : Nat) (f : Tenant → Tenant) : (s.modTen n f).cpu = s.cpu := rfl
@[simp] theorem State.modTen_others (s : State) (n : Nat) (f : Tenant → Tenant) : (s.modTen n f).others = s.others := rfl
@[simp] theorem State.modTen_agenda (s : State) (n : Nat) (f : Tenant → Tenant) : (s.modTen n f).agenda = s.agenda := rfl
@[simp] theorem State.modTen_stales (s : State) (n : Nat) (f : Tenant → Tenant) : (s.modTen n f).stales = s.stales := rfl
@[simp] theorem State.modTen_pauses (s : State) (n : Nat) (f : Tenant → Tenant) : (s.modTen n f).pauses = s.pauses := rfl
@[simp] theorem State.modTen_mem (s : State) (n : Nat) (f : Tenant → Tenant) : (s.modTen n f).mem = s.mem := rfl
@[simp] theorem State.modTen_hostMem (s : State) (n : Nat) (f : Tenant → Tenant) : (s.modTen n f).hostMem = s.hostMem := rfl
@[simp] theorem State.modTen_fwMem (s : State) (n : Nat) (f : Tenant → Tenant) : (s.modTen n f).fwMem = s.fwMem := rfl
@[simp] theorem State.modTen_log (s : State) (n : Nat) (f : Tenant → Tenant) : (s.modTen n f).log = s.log := rfl
@[simp] theorem State.modTen_poison (s : State) (n : Nat) (f : Tenant → Tenant) : (s.modTen n f).poison = s.poison := rfl
@[simp] theorem State.modTen_hostPoison (s : State) (n : Nat) (f : Tenant → Tenant) : (s.modTen n f).hostPoison = s.hostPoison := rfl
@[simp] theorem State.modTen_spills (s : State) (n : Nat) (f : Tenant → Tenant) : (s.modTen n f).spills = s.spills := rfl
@[simp] theorem State.modTen_tasks (s : State) (n : Nat) (f : Tenant → Tenant) : (s.modTen n f).tasks = s.tasks := rfl
@[simp] theorem State.modTen_launches (s : State) (n : Nat) (f : Tenant → Tenant) : (s.modTen n f).launches = s.launches := rfl
@[simp] theorem State.modTen_graphs (s : State) (n : Nat) (f : Tenant → Tenant) : (s.modTen n f).graphs = s.graphs := rfl
@[simp] theorem State.modTen_copies (s : State) (n : Nat) (f : Tenant → Tenant) : (s.modTen n f).copies = s.copies := rfl
@[simp] theorem State.modTen_clusters (s : State) (n : Nat) (f : Tenant → Tenant) : (s.modTen n f).clusters = s.clusters := rfl
@[simp] theorem State.modTen_tenantsX (s : State) (n : Nat) (f : Tenant → Tenant) : (s.modTen n f).tenantsX = s.tenantsX := rfl
@[simp] theorem State.modTen_tlb (s : State) (n : Nat) (f : Tenant → Tenant) : (s.modTen n f).tlb = s.tlb := rfl
@[simp] theorem State.modTen_dev (s : State) (n : Nat) (f : Tenant → Tenant) : (s.modTen n f).dev = s.dev := rfl
@[simp] theorem State.setTenX_cpu (s : State) (t : TenantX) : (s.setTenX t).cpu = s.cpu := rfl
@[simp] theorem State.setTenX_others (s : State) (t : TenantX) : (s.setTenX t).others = s.others := rfl
@[simp] theorem State.setTenX_agenda (s : State) (t : TenantX) : (s.setTenX t).agenda = s.agenda := rfl
@[simp] theorem State.setTenX_stales (s : State) (t : TenantX) : (s.setTenX t).stales = s.stales := rfl
@[simp] theorem State.setTenX_pauses (s : State) (t : TenantX) : (s.setTenX t).pauses = s.pauses := rfl
@[simp] theorem State.setTenX_mem (s : State) (t : TenantX) : (s.setTenX t).mem = s.mem := rfl
@[simp] theorem State.setTenX_hostMem (s : State) (t : TenantX) : (s.setTenX t).hostMem = s.hostMem := rfl
@[simp] theorem State.setTenX_fwMem (s : State) (t : TenantX) : (s.setTenX t).fwMem = s.fwMem := rfl
@[simp] theorem State.setTenX_log (s : State) (t : TenantX) : (s.setTenX t).log = s.log := rfl
@[simp] theorem State.setTenX_poison (s : State) (t : TenantX) : (s.setTenX t).poison = s.poison := rfl
@[simp] theorem State.setTenX_hostPoison (s : State) (t : TenantX) : (s.setTenX t).hostPoison = s.hostPoison := rfl
@[simp] theorem State.setTenX_spills (s : State) (t : TenantX) : (s.setTenX t).spills = s.spills := rfl
@[simp] theorem State.setTenX_tasks (s : State) (t : TenantX) : (s.setTenX t).tasks = s.tasks := rfl
@[simp] theorem State.setTenX_launches (s : State) (t : TenantX) : (s.setTenX t).launches = s.launches := rfl
@[simp] theorem State.setTenX_graphs (s : State) (t : TenantX) : (s.setTenX t).graphs = s.graphs := rfl
@[simp] theorem State.setTenX_copies (s : State) (t : TenantX) : (s.setTenX t).copies = s.copies := rfl
@[simp] theorem State.setTenX_clusters (s : State) (t : TenantX) : (s.setTenX t).clusters = s.clusters := rfl
@[simp] theorem State.setTenX_tenants (s : State) (t : TenantX) : (s.setTenX t).tenants = s.tenants := rfl
@[simp] theorem State.setTenX_tlb (s : State) (t : TenantX) : (s.setTenX t).tlb = s.tlb := rfl
@[simp] theorem State.setTenX_dev (s : State) (t : TenantX) : (s.setTenX t).dev = s.dev := rfl
@[simp] theorem State.modTenX_cpu (s : State) (n : Nat) (f : TenantX → TenantX) : (s.modTenX n f).cpu = s.cpu := rfl
@[simp] theorem State.modTenX_others (s : State) (n : Nat) (f : TenantX → TenantX) : (s.modTenX n f).others = s.others := rfl
@[simp] theorem State.modTenX_agenda (s : State) (n : Nat) (f : TenantX → TenantX) : (s.modTenX n f).agenda = s.agenda := rfl
@[simp] theorem State.modTenX_stales (s : State) (n : Nat) (f : TenantX → TenantX) : (s.modTenX n f).stales = s.stales := rfl
@[simp] theorem State.modTenX_pauses (s : State) (n : Nat) (f : TenantX → TenantX) : (s.modTenX n f).pauses = s.pauses := rfl
@[simp] theorem State.modTenX_mem (s : State) (n : Nat) (f : TenantX → TenantX) : (s.modTenX n f).mem = s.mem := rfl
@[simp] theorem State.modTenX_hostMem (s : State) (n : Nat) (f : TenantX → TenantX) : (s.modTenX n f).hostMem = s.hostMem := rfl
@[simp] theorem State.modTenX_fwMem (s : State) (n : Nat) (f : TenantX → TenantX) : (s.modTenX n f).fwMem = s.fwMem := rfl
@[simp] theorem State.modTenX_log (s : State) (n : Nat) (f : TenantX → TenantX) : (s.modTenX n f).log = s.log := rfl
@[simp] theorem State.modTenX_poison (s : State) (n : Nat) (f : TenantX → TenantX) : (s.modTenX n f).poison = s.poison := rfl
@[simp] theorem State.modTenX_hostPoison (s : State) (n : Nat) (f : TenantX → TenantX) : (s.modTenX n f).hostPoison = s.hostPoison := rfl
@[simp] theorem State.modTenX_spills (s : State) (n : Nat) (f : TenantX → TenantX) : (s.modTenX n f).spills = s.spills := rfl
@[simp] theorem State.modTenX_tasks (s : State) (n : Nat) (f : TenantX → TenantX) : (s.modTenX n f).tasks = s.tasks := rfl
@[simp] theorem State.modTenX_launches (s : State) (n : Nat) (f : TenantX → TenantX) : (s.modTenX n f).launches = s.launches := rfl
@[simp] theorem State.modTenX_graphs (s : State) (n : Nat) (f : TenantX → TenantX) : (s.modTenX n f).graphs = s.graphs := rfl
@[simp] theorem State.modTenX_copies (s : State) (n : Nat) (f : TenantX → TenantX) : (s.modTenX n f).copies = s.copies := rfl
@[simp] theorem State.modTenX_clusters (s : State) (n : Nat) (f : TenantX → TenantX) : (s.modTenX n f).clusters = s.clusters := rfl
@[simp] theorem State.modTenX_tenants (s : State) (n : Nat) (f : TenantX → TenantX) : (s.modTenX n f).tenants = s.tenants := rfl
@[simp] theorem State.modTenX_tlb (s : State) (n : Nat) (f : TenantX → TenantX) : (s.modTenX n f).tlb = s.tlb := rfl
@[simp] theorem State.modTenX_dev (s : State) (n : Nat) (f : TenantX → TenantX) : (s.modTenX n f).dev = s.dev := rfl

/-! ## Strands -/

@[simp] theorem State.modStrands_agenda (s : State) (f : Strand → Strand) : (s.modStrands f).agenda = s.agenda := rfl
@[simp] theorem State.modStrands_stales (s : State) (f : Strand → Strand) : (s.modStrands f).stales = s.stales := rfl
@[simp] theorem State.modStrands_pauses (s : State) (f : Strand → Strand) : (s.modStrands f).pauses = s.pauses := rfl
@[simp] theorem State.modStrands_mem (s : State) (f : Strand → Strand) : (s.modStrands f).mem = s.mem := rfl
@[simp] theorem State.modStrands_hostMem (s : State) (f : Strand → Strand) : (s.modStrands f).hostMem = s.hostMem := rfl
@[simp] theorem State.modStrands_fwMem (s : State) (f : Strand → Strand) : (s.modStrands f).fwMem = s.fwMem := rfl
@[simp] theorem State.modStrands_log (s : State) (f : Strand → Strand) : (s.modStrands f).log = s.log := rfl
@[simp] theorem State.modStrands_poison (s : State) (f : Strand → Strand) : (s.modStrands f).poison = s.poison := rfl
@[simp] theorem State.modStrands_hostPoison (s : State) (f : Strand → Strand) : (s.modStrands f).hostPoison = s.hostPoison := rfl
@[simp] theorem State.modStrands_spills (s : State) (f : Strand → Strand) : (s.modStrands f).spills = s.spills := rfl
@[simp] theorem State.modStrands_tasks (s : State) (f : Strand → Strand) : (s.modStrands f).tasks = s.tasks := rfl
@[simp] theorem State.modStrands_launches (s : State) (f : Strand → Strand) : (s.modStrands f).launches = s.launches := rfl
@[simp] theorem State.modStrands_graphs (s : State) (f : Strand → Strand) : (s.modStrands f).graphs = s.graphs := rfl
@[simp] theorem State.modStrands_copies (s : State) (f : Strand → Strand) : (s.modStrands f).copies = s.copies := rfl
@[simp] theorem State.modStrands_clusters (s : State) (f : Strand → Strand) : (s.modStrands f).clusters = s.clusters := rfl
@[simp] theorem State.modStrands_tenants (s : State) (f : Strand → Strand) : (s.modStrands f).tenants = s.tenants := rfl
@[simp] theorem State.modStrands_tenantsX (s : State) (f : Strand → Strand) : (s.modStrands f).tenantsX = s.tenantsX := rfl
@[simp] theorem State.modStrands_tlb (s : State) (f : Strand → Strand) : (s.modStrands f).tlb = s.tlb := rfl
@[simp] theorem State.modStrands_dev (s : State) (f : Strand → Strand) : (s.modStrands f).dev = s.dev := rfl
@[simp] theorem State.modStrands_cpu (s : State) (f : Strand → Strand) : (s.modStrands f).cpu = f s.cpu := rfl
@[simp] theorem State.modStrands_others (s : State) (f : Strand → Strand) : (s.modStrands f).others = s.others.map f := rfl
@[simp] theorem State.modStrand_agenda (s : State) (t : StrandId) (f : Strand → Strand) : (s.modStrand t f).agenda = s.agenda := by
  unfold State.modStrand; split <;> rfl
@[simp] theorem State.focus_agenda (s : State) (t : StrandId) : (s.focus t).agenda = s.agenda := by
  unfold State.focus; split; rfl; split <;> rfl
@[simp] theorem State.leave_agenda (s : State) : s.leave.agenda = s.agenda := by
  unfold State.leave; split <;> rfl
@[simp] theorem State.modStrand_stales (s : State) (t : StrandId) (f : Strand → Strand) : (s.modStrand t f).stales = s.stales := by
  unfold State.modStrand; split <;> rfl
@[simp] theorem State.focus_stales (s : State) (t : StrandId) : (s.focus t).stales = s.stales := by
  unfold State.focus; split; rfl; split <;> rfl
@[simp] theorem State.leave_stales (s : State) : s.leave.stales = s.stales := by
  unfold State.leave; split <;> rfl
@[simp] theorem State.modStrand_pauses (s : State) (t : StrandId) (f : Strand → Strand) : (s.modStrand t f).pauses = s.pauses := by
  unfold State.modStrand; split <;> rfl
@[simp] theorem State.focus_pauses (s : State) (t : StrandId) : (s.focus t).pauses = s.pauses := by
  unfold State.focus; split; rfl; split <;> rfl
@[simp] theorem State.leave_pauses (s : State) : s.leave.pauses = s.pauses := by
  unfold State.leave; split <;> rfl
@[simp] theorem State.modStrand_mem (s : State) (t : StrandId) (f : Strand → Strand) : (s.modStrand t f).mem = s.mem := by
  unfold State.modStrand; split <;> rfl
@[simp] theorem State.focus_mem (s : State) (t : StrandId) : (s.focus t).mem = s.mem := by
  unfold State.focus; split; rfl; split <;> rfl
@[simp] theorem State.leave_mem (s : State) : s.leave.mem = s.mem := by
  unfold State.leave; split <;> rfl
@[simp] theorem State.modStrand_hostMem (s : State) (t : StrandId) (f : Strand → Strand) : (s.modStrand t f).hostMem = s.hostMem := by
  unfold State.modStrand; split <;> rfl
@[simp] theorem State.focus_hostMem (s : State) (t : StrandId) : (s.focus t).hostMem = s.hostMem := by
  unfold State.focus; split; rfl; split <;> rfl
@[simp] theorem State.leave_hostMem (s : State) : s.leave.hostMem = s.hostMem := by
  unfold State.leave; split <;> rfl
@[simp] theorem State.modStrand_fwMem (s : State) (t : StrandId) (f : Strand → Strand) : (s.modStrand t f).fwMem = s.fwMem := by
  unfold State.modStrand; split <;> rfl
@[simp] theorem State.focus_fwMem (s : State) (t : StrandId) : (s.focus t).fwMem = s.fwMem := by
  unfold State.focus; split; rfl; split <;> rfl
@[simp] theorem State.leave_fwMem (s : State) : s.leave.fwMem = s.fwMem := by
  unfold State.leave; split <;> rfl
@[simp] theorem State.modStrand_log (s : State) (t : StrandId) (f : Strand → Strand) : (s.modStrand t f).log = s.log := by
  unfold State.modStrand; split <;> rfl
@[simp] theorem State.focus_log (s : State) (t : StrandId) : (s.focus t).log = s.log := by
  unfold State.focus; split; rfl; split <;> rfl
@[simp] theorem State.leave_log (s : State) : s.leave.log = s.log := by
  unfold State.leave; split <;> rfl
@[simp] theorem State.modStrand_poison (s : State) (t : StrandId) (f : Strand → Strand) : (s.modStrand t f).poison = s.poison := by
  unfold State.modStrand; split <;> rfl
@[simp] theorem State.modStrand_hostPoison (s : State) (t : StrandId) (f : Strand → Strand) : (s.modStrand t f).hostPoison = s.hostPoison := by
  unfold State.modStrand; split <;> rfl
@[simp] theorem State.modStrand_spills (s : State) (t : StrandId) (f : Strand → Strand) : (s.modStrand t f).spills = s.spills := by
  unfold State.modStrand; split <;> rfl
@[simp] theorem State.focus_poison (s : State) (t : StrandId) : (s.focus t).poison = s.poison := by
  unfold State.focus; split; rfl; split <;> rfl
@[simp] theorem State.focus_hostPoison (s : State) (t : StrandId) : (s.focus t).hostPoison = s.hostPoison := by
  unfold State.focus; split; rfl; split <;> rfl
@[simp] theorem State.focus_spills (s : State) (t : StrandId) : (s.focus t).spills = s.spills := by
  unfold State.focus; split; rfl; split <;> rfl
@[simp] theorem State.leave_poison (s : State) : s.leave.poison = s.poison := by
  unfold State.leave; split <;> rfl
@[simp] theorem State.leave_hostPoison (s : State) : s.leave.hostPoison = s.hostPoison := by
  unfold State.leave; split <;> rfl
@[simp] theorem State.leave_spills (s : State) : s.leave.spills = s.spills := by
  unfold State.leave; split <;> rfl
@[simp] theorem State.modStrand_tasks (s : State) (t : StrandId) (f : Strand → Strand) : (s.modStrand t f).tasks = s.tasks := by
  unfold State.modStrand; split <;> rfl
@[simp] theorem State.focus_tasks (s : State) (t : StrandId) : (s.focus t).tasks = s.tasks := by
  unfold State.focus; split; rfl; split <;> rfl
@[simp] theorem State.leave_tasks (s : State) : s.leave.tasks = s.tasks := by
  unfold State.leave; split <;> rfl
@[simp] theorem State.modStrand_launches (s : State) (t : StrandId) (f : Strand → Strand) : (s.modStrand t f).launches = s.launches := by
  unfold State.modStrand; split <;> rfl
@[simp] theorem State.focus_launches (s : State) (t : StrandId) : (s.focus t).launches = s.launches := by
  unfold State.focus; split; rfl; split <;> rfl
@[simp] theorem State.leave_launches (s : State) : s.leave.launches = s.launches := by
  unfold State.leave; split <;> rfl
@[simp] theorem State.modStrand_graphs (s : State) (t : StrandId) (f : Strand → Strand) : (s.modStrand t f).graphs = s.graphs := by
  unfold State.modStrand; split <;> rfl
@[simp] theorem State.focus_graphs (s : State) (t : StrandId) : (s.focus t).graphs = s.graphs := by
  unfold State.focus; split; rfl; split <;> rfl
@[simp] theorem State.leave_graphs (s : State) : s.leave.graphs = s.graphs := by
  unfold State.leave; split <;> rfl
@[simp] theorem State.modStrand_copies (s : State) (t : StrandId) (f : Strand → Strand) : (s.modStrand t f).copies = s.copies := by
  unfold State.modStrand; split <;> rfl
@[simp] theorem State.focus_copies (s : State) (t : StrandId) : (s.focus t).copies = s.copies := by
  unfold State.focus; split; rfl; split <;> rfl
@[simp] theorem State.leave_copies (s : State) : s.leave.copies = s.copies := by
  unfold State.leave; split <;> rfl
@[simp] theorem State.modStrand_clusters (s : State) (t : StrandId) (f : Strand → Strand) : (s.modStrand t f).clusters = s.clusters := by
  unfold State.modStrand; split <;> rfl
@[simp] theorem State.focus_clusters (s : State) (t : StrandId) : (s.focus t).clusters = s.clusters := by
  unfold State.focus; split; rfl; split <;> rfl
@[simp] theorem State.leave_clusters (s : State) : s.leave.clusters = s.clusters := by
  unfold State.leave; split <;> rfl
@[simp] theorem State.modStrand_tenants (s : State) (t : StrandId) (f : Strand → Strand) : (s.modStrand t f).tenants = s.tenants := by
  unfold State.modStrand; split <;> rfl
@[simp] theorem State.focus_tenants (s : State) (t : StrandId) : (s.focus t).tenants = s.tenants := by
  unfold State.focus; split; rfl; split <;> rfl
@[simp] theorem State.leave_tenants (s : State) : s.leave.tenants = s.tenants := by
  unfold State.leave; split <;> rfl
@[simp] theorem State.modStrand_tenantsX (s : State) (t : StrandId) (f : Strand → Strand) : (s.modStrand t f).tenantsX = s.tenantsX := by
  unfold State.modStrand; split <;> rfl
@[simp] theorem State.focus_tenantsX (s : State) (t : StrandId) : (s.focus t).tenantsX = s.tenantsX := by
  unfold State.focus; split; rfl; split <;> rfl
@[simp] theorem State.leave_tenantsX (s : State) : s.leave.tenantsX = s.tenantsX := by
  unfold State.leave; split <;> rfl
@[simp] theorem State.modStrand_tlb (s : State) (t : StrandId) (f : Strand → Strand) : (s.modStrand t f).tlb = s.tlb := by
  unfold State.modStrand; split <;> rfl
@[simp] theorem State.focus_tlb (s : State) (t : StrandId) : (s.focus t).tlb = s.tlb := by
  unfold State.focus; split; rfl; split <;> rfl
@[simp] theorem State.leave_tlb (s : State) : s.leave.tlb = s.tlb := by
  unfold State.leave; split <;> rfl
@[simp] theorem State.modStrand_dev (s : State) (t : StrandId) (f : Strand → Strand) : (s.modStrand t f).dev = s.dev := by
  unfold State.modStrand; split <;> rfl
@[simp] theorem State.focus_dev (s : State) (t : StrandId) : (s.focus t).dev = s.dev := by
  unfold State.focus; split; rfl; split <;> rfl
@[simp] theorem State.leave_dev (s : State) : s.leave.dev = s.dev := by
  unfold State.leave; split <;> rfl

/-- A strand changed by its own name. -/
@[simp] theorem State.modStrand_self (s : State) (f : Strand → Strand) : s.modStrand s.cpu.id f = s.withCpu f := by
  simp [State.modStrand, State.withCpu]

/-- Focusing the cpu changes nothing. -/
@[simp] theorem State.focus_self (s : State) : s.focus s.cpu.id = s := by simp [State.focus]

end Sys2Proof.Machine
end

