-- ==== Sys2Proof/Laws/Ops.lean ====
section
/-! SUPPORT. What each shared operation can answer, said once, and what completing, trapping and popping leave of the state. -/

set_option Elab.async false

namespace Sys2Proof.Machine

/-! ## What a gate can answer -/

theorem waitQueue_waits (s : State) (code : Nat) : ∃ c n, waitQueue s code = .next (s.waitFor (.queue c n)) := by
  unfold waitQueue
  split
  · exact ⟨_, _, rfl⟩
  · exact ⟨_, _, rfl⟩

/-- A port that may not be used that way raises ILL. -/
theorem portGate_cases (s : State) (w : Nat) (rs : List SReg) (dst : Option SReg) (k : Out) :
    portGate s w rs dst k = ill s w ∨ portGate s w rs dst k = k := by
  unfold portGate
  simp only
  split <;> split
  · exact .inl rfl
  · exact .inr rfl
  · exact .inl rfl
  · exact .inr rfl

/-- Reading scalar operands waits, raises ECC or ILL, or goes on with the values. -/
theorem readS_cases (s : State) (w : Nat) (rs : List SReg) (dst : Option SReg) (k : List Word → Out) :
    (∃ x, readS s w rs dst k = .next (s.waitFor x)) ∨ (∃ v, readS s w rs dst k = trap s Cause.ecc v) ∨
    readS s w rs dst k = ill s w ∨ ∃ vs, readS s w rs dst k = k vs := by
  have wq (c : Nat) : ∃ x, waitQueue s c = .next (s.waitFor x) := by
    obtain ⟨c', n, h⟩ := waitQueue_waits s c; exact ⟨_, h⟩
  unfold readS
  rcases portGate_cases s w rs dst _ with h | h <;> rw [h]
  · exact .inr (.inr (.inl rfl))
  · split
    · exact .inl ⟨_, rfl⟩
    · split
      · split
        · exact .inr (.inl ⟨_, rfl⟩)
        · exact .inr (.inr (.inr ⟨_, rfl⟩))
      · simp only
        split
        · exact .inl (wq _)
        · split
          · exact .inl (wq _)
          · split
            · exact .inr (.inl ⟨_, rfl⟩)
            · exact .inr (.inr (.inr ⟨_, rfl⟩))

/-- Reading the operand fields of a vector instruction waits, raises ECC or ILL, or goes on with the values. -/
theorem readOps_cases (s : State) (w : Nat) (rs : List Src) (dst : Dst) (room : Bool) (k : List SVal → Out) :
    (∃ x, readOps s w rs dst room k = .next (s.waitFor x)) ∨ (∃ v, readOps s w rs dst room k = trap s Cause.ecc v) ∨
    readOps s w rs dst room k = ill s w ∨ ∃ vs, readOps s w rs dst room k = k vs := by
  have wq (c : Nat) : ∃ x, waitQueue s c = .next (s.waitFor x) := by
    obtain ⟨c', n, h⟩ := waitQueue_waits s c; exact ⟨_, h⟩
  unfold readOps
  simp only
  split
  · exact .inr (.inr (.inl rfl))
  · split
    · exact .inl ⟨_, rfl⟩
    · split
      · split
        · exact .inr (.inl ⟨_, rfl⟩)
        · exact .inr (.inr (.inr ⟨_, rfl⟩))
      · split
        · exact .inl (wq _)
        · split
          · exact .inl (wq _)
          · split
            · exact .inr (.inl ⟨_, rfl⟩)
            · exact .inr (.inr (.inr ⟨_, rfl⟩))

/-- Vector sources that cannot carry holes: the instruction waits, raises ECC or goes on. -/
theorem needV_cases (s : State) (ns : List (VReg × VVal × List Nat)) (k : Out) :
    needV s ns k = .next (s.waitFor .operands) ∨ (∃ v, needV s ns k = trap s Cause.ecc v) ∨ needV s ns k = k := by
  unfold needV
  split
  · split
    · exact .inr (.inl ⟨_, rfl⟩)
    · exact .inr (.inr rfl)
  · exact .inl rfl

theorem needM_cases (s : State) (ms : List MReg) (k : Out) : (∃ v, needM s ms k = trap s Cause.ecc v) ∨ needM s ms k = k := by
  unfold needM
  split
  · exact .inl ⟨_, rfl⟩
  · exact .inr rfl

theorem fmtGate_cases (s : State) (ok : Bool) (tags : List (Nat × Nat × Nat)) (widths : List (Nat × Nat)) (k : Out) :
    (∃ t, fmtGate s ok tags widths k = fmtTrap s t) ∨ fmtGate s ok tags widths k = k := by
  unfold fmtGate
  split
  · exact .inl ⟨_, rfl⟩
  · exact .inr rfl

theorem needLevel_cases (s : State) (w : Nat) (l : Lvl) (k : Out) :
    needLevel s w l k = trap s Cause.prm (BitVec.ofNat 64 w) ∨ needLevel s w l k = k := by
  unfold needLevel
  split
  · exact .inl rfl
  · exact .inr rfl

theorem taskOnly_of_isTask {s : State} (w : Nat) (k : Out) (h : isTask s = true) : taskOnly s w k = k := by
  unfold isTask at h
  unfold taskOnly
  split
  · rfl
  · rename_i hn
    split at h
    · rename_i t e he; exact absurd he (hn t e)
    · exact absurd h (by simp)

theorem taskOnly_of_not_isTask {s : State} (w : Nat) (k : Out) (h : isTask s = false) : taskOnly s w k = ill s w := by
  unfold isTask at h
  unfold taskOnly
  split
  · rename_i he; simp [he] at h
  · rfl

/-! ## Taking a trap -/

/-- Outside thaw context and outside a handler, with a vector, a trap changes the cpu strand only. -/
theorem takeTrapAt_enters {s : State} (cause : Nat) (tval tepc : Word) (ht : ∀ c k, s.cpu.id ≠ .thaw c k)
    (hi : s.cpu.trap.tstatus.getLsbD 4 = false) (hv : tvecOf s s.cpu ≠ 0) :
    takeTrapAt s cause tval tepc = { s with cpu := enterHandler s.cpu (tvecOf s s.cpu) cause tval tepc } := by
  unfold takeTrapAt
  split
  · rename_i he _; exact absurd he (ht _ _)
  · rename_i he _; exact absurd he (ht _ _)
  · rw [if_neg]; simp only [hi, Bool.false_or, beq_iff_eq]; exact hv

theorem takeTrapAt_doubleFault {s : State} (cause : Nat) (tval tepc : Word) (ht : ∀ c k, s.cpu.id ≠ .thaw c k)
    (h : s.cpu.trap.tstatus.getLsbD 4 = true ∨ tvecOf s s.cpu = 0) :
    takeTrapAt s cause tval tepc = doubleFault s s.cpu cause tval tepc := by
  unfold takeTrapAt
  split
  · rename_i he _; exact absurd he (ht _ _)
  · rename_i he _; exact absurd he (ht _ _)
  · rw [if_pos]; rcases h with h | h <;> simp only [h, Bool.true_or, beq_self_eq_true, Bool.or_true]

@[simp] theorem enterHandler_regs (x : Strand) (v : Word) (c : Nat) (t p : Word) : (enterHandler x v c t p).regs = x.regs := rfl
@[simp] theorem enterHandler_ext (x : Strand) (v : Word) (c : Nat) (t p : Word) : (enterHandler x v c t p).ext = x.ext := rfl
@[simp] theorem enterHandler_mem (x : Strand) (v : Word) (c : Nat) (t p : Word) : (enterHandler x v c t p).mem = x.mem := rfl
@[simp] theorem enterHandler_id (x : Strand) (v : Word) (c : Nat) (t p : Word) : (enterHandler x v c t p).id = x.id := rfl

/-! ## The frame of completing, popping and writing a scalar register -/

/-- The memories and the coherence order of two states are the same. -/
def sameMemory (s t : State) : Prop := t.mem = s.mem ∧ t.hostMem = s.hostMem ∧ t.fwMem = s.fwMem ∧ t.log = s.log ∧ t.poison = s.poison

theorem sameMemory.rfl' (s : State) : sameMemory s s := ⟨rfl, rfl, rfl, rfl, rfl⟩

theorem sameMemory.trans' {a b c : State} (h : sameMemory a b) (k : sameMemory b c) : sameMemory a c :=
  ⟨k.1.trans h.1, k.2.1.trans h.2.1, k.2.2.1.trans h.2.2.1, k.2.2.2.1.trans h.2.2.2.1, k.2.2.2.2.trans h.2.2.2.2⟩

theorem sameMemory.memInv {s t : State} (h : sameMemory s t) (k : MemInv s) : MemInv t :=
  ⟨h.1 ▸ k.1, h.2.1 ▸ k.2.1, h.2.2.1 ▸ k.2.2⟩

theorem complete_sameMemory (s : State) : sameMemory s (complete s) := ⟨rfl, rfl, rfl, rfl, rfl⟩
theorem completeAt_sameMemory (s : State) (t : Word) : sameMemory s (completeAt s t) := ⟨rfl, rfl, rfl, rfl, rfl⟩
theorem branchTo_sameMemory (s : State) (t : Word) : sameMemory s (branchTo s t) := ⟨rfl, rfl, rfl, rfl, rfl⟩
theorem accrue_sameMemory (s : State) (f : Flags) : sameMemory s (accrue s f) := ⟨rfl, rfl, rfl, rfl, rfl⟩
theorem waitFor_sameMemory (s : State) (w : Wait) : sameMemory s (s.waitFor w) := ⟨rfl, rfl, rfl, rfl, rfl⟩

@[simp] theorem complete_regs (s : State) : (complete s).cpu.regs = s.cpu.regs := rfl
@[simp] theorem complete_trap (s : State) : (complete s).cpu.trap = s.cpu.trap := rfl
@[simp] theorem complete_ext (s : State) : (complete s).cpu.ext = s.cpu.ext := rfl
@[simp] theorem complete_cpu_mem (s : State) : (complete s).cpu.mem = s.cpu.mem := rfl
@[simp] theorem complete_cpu_id (s : State) : (complete s).cpu.id = s.cpu.id := rfl
@[simp] theorem complete_wait (s : State) : (complete s).cpu.wait = none := rfl
@[simp] theorem complete_others (s : State) : (complete s).others = s.others := rfl
@[simp] theorem complete_tasks (s : State) : (complete s).tasks = s.tasks := rfl
@[simp] theorem complete_dev (s : State) : (complete s).dev = s.dev := rfl

theorem setSreg_sameMemory (s : State) (r : SReg) (v : Word) : sameMemory s (setSreg s r v) := by
  unfold setSreg
  split
  · exact .rfl' s
  · exact ⟨rfl, rfl, rfl, rfl, rfl⟩

/-- Reading a scalar register after writing one: s0 is never written (R25). -/
theorem sreg_setSreg (s : State) (r q : SReg) (v : Word) : sreg (setSreg s r v) q = if q = r ∧ r ≠ 0 then v else sreg s q := by
  unfold setSreg
  split
  · rename_i h; simp [h]
  · rename_i h
    by_cases e : q = r
    · subst e
      simp only [h, ne_eq, not_false_eq_true, and_self, if_true]
      unfold sreg
      simp [State.withRegs]
    · have hn : ¬ r.toNat = q.toNat := fun h' => e (BitVec.eq_of_toNat_eq h'.symm)
      simp only [e, false_and, if_false]
      unfold sreg
      simp [State.withRegs, State.withMem, hn]

theorem modQueues_sameMemory (s : State) (f : Queues → Queues) : sameMemory s (modQueues s f) := by
  unfold modQueues
  split
  · exact ⟨rfl, rfl, rfl, rfl, rfl⟩
  · exact .rfl' s

theorem modQueues_cpu (s : State) (f : Queues → Queues) : (modQueues s f).cpu = s.cpu := by
  unfold modQueues
  split <;> rfl

theorem foldl_sameMemory {α : Type} (f : State → α → State) (h : ∀ s a, sameMemory s (f s a)) (xs : List α) :
    ∀ s, sameMemory s (xs.foldl f s) := by
  induction xs with
  | nil => exact .rfl'
  | cons x xs ih => intro s; exact (h s x).trans' (ih _)

theorem popPorts_sameMemory (s : State) (rs : List SReg) : sameMemory s (popPorts s rs) := by
  unfold popPorts
  split
  · exact .rfl' s
  · refine foldl_sameMemory _ (fun s r => ?_) rs s
    split
    · exact modQueues_sameMemory s _
    · exact .rfl' s

theorem writeS_sameMemory (s : State) (d : SReg) (v : Word) : sameMemory s (writeS s d v) := by
  unfold writeS
  split
  · exact setSreg_sameMemory s d v
  · exact modQueues_sameMemory s _

/-- An integer, floating-point or other instruction that retires changes no memory. -/
theorem retired_sameMemory (s : State) (rs : List SReg) (d : SReg) (v : Word) : sameMemory s (retired s rs d v) :=
  ((popPorts_sameMemory s rs).trans' (writeS_sameMemory _ d v)).trans' (complete_sameMemory _)

theorem retired0_sameMemory (s : State) (rs : List SReg) : sameMemory s (retired0 s rs) :=
  (popPorts_sameMemory s rs).trans' (complete_sameMemory _)

/-! ## The same for vector operands -/

theorem popOps_sameMemory (s : State) (rs : List Src) : sameMemory s (popOps s rs) := by
  unfold popOps
  split
  · exact .rfl' s
  · refine foldl_sameMemory _ (fun s x => ?_) rs s
    cases x with
    | s r => simp only; split
             · exact modQueues_sameMemory s _
             · exact .rfl' s
    | v r => simp only; split
             · exact modQueues_sameMemory s _
             · exact .rfl' s

theorem setVreg_sameMemory (s : State) (d : VReg) (v : VVal) : sameMemory s (setVreg s d v) := ⟨rfl, rfl, rfl, rfl, rfl⟩
theorem setVstart_sameMemory (s : State) (n : Nat) : sameMemory s (setVstart s n) := ⟨rfl, rfl, rfl, rfl, rfl⟩

theorem vdone_sameMemory (s : State) (rs : List Src) : sameMemory s (vdone s rs) :=
  ((popOps_sameMemory s rs).trans' (setVstart_sameMemory _ _)).trans' (complete_sameMemory _)

theorem claim_sameMemory (s : State) (d : VReg) (w : Nat) (is : List Nat) : sameMemory s (claim s d w is) := by
  unfold claim
  simp only
  split
  · exact .rfl' s
  · split
    · exact ⟨rfl, rfl, rfl, rfl, rfl⟩
    · exact sameMemory.trans' (b := s.modCluster _ _) ⟨rfl, rfl, rfl, rfl, rfl⟩ (setVreg_sameMemory _ _ _)

theorem pushV_sameMemory (s : State) (d : VReg) (v : VVal) : sameMemory s (pushV s d v) := by
  unfold pushV
  exact sameMemory.trans' (b := dropStaged s) ⟨rfl, rfl, rfl, rfl, rfl⟩ (modQueues_sameMemory _ _)

theorem putV_sameMemory (s : State) (d : VReg) (w tag : Nat) (xs : List (Nat × Nat × Nat)) (side : VVal → BitVec 512 × BitVec 512) :
    sameMemory s (putV s d w tag xs side) := by
  unfold putV
  split
  · exact sameMemory.trans' (b := (blankImage s tag).2) ⟨rfl, rfl, rfl, rfl, rfl⟩ (pushV_sameMemory _ _ _)
  · exact (claim_sameMemory s d w _).trans' (setVreg_sameMemory _ _ _)

/-- The destination of a whole instruction: it waits, or completes without touching memory. -/
theorem writeV_cases (s : State) (rs : List Src) (d : VReg) (w tag : Nat) (xs : List (Nat × Nat × Nat))
    (side : VVal → BitVec 512 × BitVec 512) (fl : Flags) :
    writeV s rs d w tag xs side fl = .next (s.waitFor .operands) ∨ ∃ t, writeV s rs d w tag xs side fl = .next t ∧ sameMemory s t := by
  unfold writeV
  split
  · exact .inl rfl
  · exact .inr ⟨_, rfl, ((accrue_sameMemory s fl).trans' (putV_sameMemory _ d w tag xs side)).trans' (vdone_sameMemory _ rs)⟩

/-! ## Strands without ports -/

/-- A strand without ports pops nothing. -/
theorem popPorts_noPorts {s : State} (h : NoPorts s) (rs : List SReg) : popPorts s rs = s := by
  unfold popPorts NoPorts at *
  simp [h]

theorem writeS_noPorts {s : State} (h : NoPorts s) (d : SReg) (v : Word) : writeS s d v = setSreg s d v := by
  unfold writeS NoPorts at *
  simp [h]

end Sys2Proof.Machine
end

