-- ==== Sys2Proof/Laws/Operands.lean ====
section
/-! SUPPORT. Vector instructions on operands that can be read at once: each gate lets the instruction go on. -/

set_option Elab.async false

namespace Sys2Proof.Machine

/-- Fields that can be read are read. -/
theorem readOps_of_vreadable {s : State} {rs : List Src} {dst : Dst} {room : Bool} {vs : List SVal} (w : Nat) (k : List SVal → Out)
    (h : vreadable s rs dst room = some vs) : readOps s w rs dst room k = k vs := by
  unfold vreadable at h
  unfold readOps
  simp only at h ⊢
  split at h
  · exact absurd h (by simp)
  rename_i h0
  simp only [Bool.or_eq_true, not_or, Bool.not_eq_true, Option.isSome_eq_false_iff, Option.isNone_iff_eq_none] at h0
  obtain ⟨⟨hp, hd⟩, hq⟩ := h0
  have hp' : ¬ ((sPending s (scalarsOf rs) || dstBusy s.cpu.mem dst) = true) := by rw [hp, hd]; decide
  simp only [hq]
  split at h
  · rename_i hr
    have hs : roleOf s s.cpu = .single := by simpa using hr
    simp only [hs, bne_self_eq_false, Bool.false_and, Bool.false_eq_true, if_false, BEq.rfl, if_true]
    rw [if_neg hp']
    exact congrArg k (Option.some.inj h)
  · rename_i hr
    simp only [hr, Bool.false_eq_true, if_false]
    split at h
    · rename_i ha
      simp only [Bool.and_eq_true, Bool.or_eq_true, Bool.not_eq_true', Option.isNone_iff_eq_none] at ha
      obtain ⟨⟨h1, h2⟩, h3⟩ := ha
      simp only [h1, h2, Bool.and_self, Bool.not_true, Bool.and_false, Bool.false_eq_true, if_false]
      rw [if_neg hp']
      split at h
      · rename_i us hu
        rw [hu]
        have hd : (if room = true then dstFull (queuesOf s) dst else none) = none := by
          rcases h3 with h3 | h3
          · simp [h3]
          · simp [h3]
        simp only [hd]
        exact congrArg k (Option.some.inj h)
      · exact absurd h (by simp)
    · exact absurd h (by simp)

/-- What quiet operands are. -/
theorem quietOps_spec {s : State} {rs : List Src} {dst : Dst} {room : Bool} {vs : List SVal} (h : quietOps s rs dst room = some vs) :
    isTask s = true ∧ s.cpu.regs.mPoison = 0 ∧ vreadable s rs dst room = some vs ∧ ∀ v ∈ vs, v.quiet = true := by
  unfold quietOps at h
  split at h
  · rename_i hc
    simp only [Bool.and_eq_true, beq_iff_eq] at hc
    split at h
    · rename_i us hu
      split at h
      · rename_i hq
        have e := Option.some.inj h
        subst e
        exact ⟨hc.1, hc.2, hu, List.all_eq_true.mp hq⟩
      · exact absurd h (by simp)
    · exact absurd h (by simp)
  · exact absurd h (by simp)

/-- A whole instruction on quiet operands goes on with their values. -/
theorem whole_of_quiet {s : State} {rs : List Src} {dst : Dst} {vs : List SVal} (w : Nat) (k : List SVal → Out)
    (h : quietOps s rs dst true = some vs) : whole s w rs dst k = k vs := by
  obtain ⟨ht, _, hr, _⟩ := quietOps_spec h
  unfold whole
  rw [taskOnly_of_isTask _ _ ht, readOps_of_vreadable _ _ hr]

/-- The parts of a quiet value. -/
theorem VVal.quiet_spec {v : VVal} (h : v.quiet = true) : v.pend = [] ∧ v.landed = 0xFF ∧ v.pres = 0 ∧ v.poison = 0 := by
  unfold VVal.quiet at h
  simp only [Bool.and_eq_true, beq_iff_eq, List.isEmpty_iff] at h
  exact ⟨h.1.1.1, h.1.1.2, h.1.2, h.2⟩

theorem VVal.zero_quiet : VVal.zero.quiet = true := by decide +kernel

theorem vecAt_quiet {vs : List SVal} (h : ∀ v ∈ vs, v.quiet = true) (i : Nat) : (vecAt vs i).quiet = true := by
  unfold vecAt SVal.vec
  by_cases hi : i < vs.length
  · have := h vs[i] (List.getElem_mem hi)
    rw [List.getD_eq_getElem _ _ hi]
    revert this
    cases vs[i] <;> intro hq
    · exact VVal.zero_quiet
    · exact hq
  · rw [List.getD_eq_default _ _ (by omega)]
    exact VVal.zero_quiet

/-- The groups of a register are numbered below 8. -/
theorem groupsOf_lt {w lo hi g : Nat} (h : g ∈ groupsOf w lo hi) : g < 8 := by
  unfold groupsOf at h
  split at h
  · exact List.mem_range.mp (List.mem_filter.mp h).1
  · simp at h

theorem landed_all {g : Nat} (h : g < 8) : (0xFF : BitVec 8).getLsbD g = true := by
  interval_cases g <;> rfl

theorem vReady_of_quiet {v : VVal} (h : v.quiet = true) {gs : List Nat} (hg : ∀ g ∈ gs, g < 8) : vReady v gs = true := by
  obtain ⟨h1, h2, h3, _⟩ := VVal.quiet_spec h
  unfold vReady sideReady
  rw [h1, h2, h3]
  simp only [List.all_nil, Bool.true_and, List.all_eq_true, BEq.rfl, Bool.true_or, Bool.and_true]
  exact fun g m => landed_all (hg g m)

theorem vPoisoned_of_quiet {v : VVal} (h : v.quiet = true) (gs : List Nat) : vPoisoned v gs = none := by
  unfold vPoisoned; rw [if_pos (VVal.quiet_spec h).2.2.2]

/-- Quiet sources are ready. -/
theorem needV_of_quiet {s : State} {ns : List (VReg × VVal × List Nat)} (k : Out)
    (h : ∀ n ∈ ns, n.2.1.quiet = true ∧ ∀ g ∈ n.2.2, g < 8) : needV s ns k = k := by
  unfold needV
  have h1 : ns.all (fun n => vReady n.2.1 n.2.2) = true := List.all_eq_true.mpr (fun n m => vReady_of_quiet (h n m).1 (h n m).2)
  have h2 : ns.findSome? (fun n => (vPoisoned n.2.1 n.2.2).map (fun g => (n.1, g))) = none := by
    rw [List.findSome?_eq_none_iff]
    intro n m
    rw [vPoisoned_of_quiet (h n m).1]; rfl
  simp only [h1, h2, if_true]

theorem needM_of_clean {s : State} (ms : List MReg) (k : Out) (h : s.cpu.regs.mPoison = 0) : needM s ms k = k := by
  unfold needM; rw [if_pos h]

/-- Fitting formats pass. -/
theorem fmtGate_of_fits {s : State} {ok : Bool} {tags : List (Nat × Nat × Nat)} {widths : List (Nat × Nat)} (k : Out) (h0 : ok = true)
    (h1 : ∀ t ∈ tags, t.2.1 = t.2.2) (h2 : ∀ x ∈ widths, vlOf s ≤ vlmax x.2) : fmtGate s ok tags widths k = k := by
  have e1 : tags.find? (fun t => t.2.1 != t.2.2) = none := by
    rw [List.find?_eq_none]; intro t m; simp [h1 t m]
  have e2 : widths.find? (fun x => vlmax x.2 < vlOf s) = none := by
    rw [List.find?_eq_none]; intro x m; simpa using h2 x m
  unfold fmtGate fmtFail
  simp [h0, e1, e2]

/-- The active elements, as a filter of the elements below VL. -/
theorem activeFrom_eq (s : State) (w lo : Nat) :
    activeFrom s w lo (vlOf s) = (List.range (vlOf s)).filter (fun j => decide (lo ≤ j) && active s w j) := by
  unfold activeFrom
  have hr : ∀ n, (List.range (n - lo)).map (· + lo) = (List.range n).filter (fun j => decide (lo ≤ j)) := by
    intro n
    induction n with
    | zero => simp
    | succ n ih =>
      rw [List.range_succ, List.filter_append, ← ih]
      by_cases h : lo ≤ n
      · rw [show n + 1 - lo = (n - lo) + 1 by omega, List.range_succ, List.map_append]
        simp [h]
      · rw [show n + 1 - lo = n - lo by omega]
        simp [h]
  rw [show Nat.min (vlOf s) (vlOf s) = vlOf s by simp, hr, List.filter_filter]
  apply List.filter_congr
  intro j hj
  have := List.mem_range.mp hj
  simp [active, this, Bool.and_comm]

theorem activeFrom_zero (s : State) (w : Nat) : activeFrom s w 0 (vlOf s) = (List.range (vlOf s)).filter (guardBit s w) := by
  rw [activeFrom_eq]
  apply List.filter_congr
  intro j hj
  have := List.mem_range.mp hj
  simp [active, this]

theorem destWaits_of_landed {v : VVal} (h : v.landed = 0xFF) (w : Nat) (is : List Nat) : destWaits v w is = false := by
  unfold destWaits; rw [h]; rfl

/-- A free destination takes its elements. -/
theorem writeV_of_destFree {s : State} {d : VReg} (h : destFree s d = true) (rs : List Src) (w tag : Nat) (xs : List (Nat × Nat × Nat))
    (side : VVal → BitVec 512 × BitVec 512) (fl : Flags) :
    writeV s rs d w tag xs side fl = .next (vdone (putV (accrue s fl) d w tag xs side) rs) := by
  unfold writeV
  rw [if_neg]
  unfold destFree at h
  rcases Bool.or_eq_true_iff.mp h with h | h
  · simp [h]
  · rw [destWaits_of_landed (by simpa using h)]; simp

theorem writeVl_of_destFree {s : State} {d : VReg} (h : destFree s d = true) (hn : 0 < vlOf s ∨ pushes s d = true) (rs : List Src) (w tag : Nat)
    (xs : List (Nat × Nat × Nat)) (side : VVal → BitVec 512 × BitVec 512) (fl : Flags) :
    writeVl s rs d w tag xs side fl = .next (vdone (putV (accrue s fl) d w tag xs side) rs) := by
  unfold writeVl
  rw [if_neg, writeV_of_destFree h]
  rcases hn with hn | hn
  · simp; omega
  · simp [hn]

theorem accrue_zero (s : State) : accrue s 0 = s := by
  unfold accrue State.withCtl
  simp

end Sys2Proof.Machine
end

