-- ==== Sys2Proof/Laws/PerInstr.lean ====
section
/-! SUPPORT. Encoding and decoding, constructor by constructor: an instruction's word decodes to it. -/

set_option Elab.async false

namespace Sys2Proof.Laws.RoundTrip

/-- The word of a well-formed instruction that has one decodes to the instruction. -/
def Statement (i : Instr) : Prop := WellFormed i = true → i.encoded = true → decode (encode i) = .ok i

theorem mode (i : BitVec 25) : Statement (.mode i) := by
  intro _ _
  have hi := i.isLt
  have hw : (encode (.mode i)).toNat = 0x02000000 + i.toNat * 1 := encode_toNat _ _ rfl (by omega)
  generalize encode (.mode i) = W at hw ⊢
  have m : fld W 31 25 = 1 := (fld_eq W 31 25 33554432 128 rfl rfl).trans (by omega)
  have oi : fldBv 25 W 0 = i := fldBv_eq W 0 i (by norm_num; omega)
  rw [dec_01 W m]
  simp [decodeMode, chk, oi]

theorem nop : Statement .nop := by
  intro _ _
  have hw : (encode .nop).toNat = 0x04000000 := encode_toNat _ _ rfl (by omega)
  generalize encode .nop = W at hw ⊢
  have m : fld W 31 25 = 2 := (fld_eq W 31 25 33554432 128 rfl rfl).trans (by omega)
  have k1 : fld W 14 10 = 0 := (fld_eq W 14 10 1024 32 rfl rfl).trans (by omega)
  have k2 : fld W 24 15 = 0 := (fld_eq W 24 15 32768 1024 rfl rfl).trans (by omega)
  have k3 : fld W 9 0 = 0 := (fld_eq W 9 0 1 1024 rfl rfl).trans (by omega)
  rw [dec_02 W m]
  simp [decodeSys, chk, k1, k2, k3]

theorem trap (c : BitVec 10) : Statement (.trap c) := by
  intro _ _
  have hc := c.isLt
  have hw : (encode (.trap c)).toNat = 0x04000400 + c.toNat * 1 := encode_toNat _ _ rfl (by omega)
  generalize encode (.trap c) = W at hw ⊢
  have m : fld W 31 25 = 2 := (fld_eq W 31 25 33554432 128 rfl rfl).trans (by omega)
  have k1 : fld W 14 10 = 1 := (fld_eq W 14 10 1024 32 rfl rfl).trans (by omega)
  have k2 : fld W 24 15 = 0 := (fld_eq W 24 15 32768 1024 rfl rfl).trans (by omega)
  have oc : fldBv 10 W 0 = c := fldBv_eq W 0 c (by norm_num; omega)
  rw [dec_02 W m]
  simp [decodeSys, chk, k1, k2, oc]

theorem tret : Statement .tret := by
  intro _ _
  have hw : (encode .tret).toNat = 0x04000800 := encode_toNat _ _ rfl (by omega)
  generalize encode .tret = W at hw ⊢
  have m : fld W 31 25 = 2 := (fld_eq W 31 25 33554432 128 rfl rfl).trans (by omega)
  have k1 : fld W 14 10 = 2 := (fld_eq W 14 10 1024 32 rfl rfl).trans (by omega)
  have k2 : fld W 24 15 = 0 := (fld_eq W 24 15 32768 1024 rfl rfl).trans (by omega)
  have k3 : fld W 9 0 = 0 := (fld_eq W 9 0 1 1024 rfl rfl).trans (by omega)
  rw [dec_02 W m]
  simp [decodeSys, chk, k1, k2, k3]

theorem brk (c : BitVec 10) : Statement (.brk c) := by
  intro _ _
  have hc := c.isLt
  have hw : (encode (.brk c)).toNat = 0x04000C00 + c.toNat * 1 := encode_toNat _ _ rfl (by omega)
  generalize encode (.brk c) = W at hw ⊢
  have m : fld W 31 25 = 2 := (fld_eq W 31 25 33554432 128 rfl rfl).trans (by omega)
  have k1 : fld W 14 10 = 3 := (fld_eq W 14 10 1024 32 rfl rfl).trans (by omega)
  have k2 : fld W 24 15 = 0 := (fld_eq W 24 15 32768 1024 rfl rfl).trans (by omega)
  have oc : fldBv 10 W 0 = c := fldBv_eq W 0 c (by norm_num; omega)
  rw [dec_02 W m]
  simp [decodeSys, chk, k1, k2, oc]

theorem halt : Statement .halt := by
  intro _ _
  have hw : (encode .halt).toNat = 0x04001000 := encode_toNat _ _ rfl (by omega)
  generalize encode .halt = W at hw ⊢
  have m : fld W 31 25 = 2 := (fld_eq W 31 25 33554432 128 rfl rfl).trans (by omega)
  have k1 : fld W 14 10 = 4 := (fld_eq W 14 10 1024 32 rfl rfl).trans (by omega)
  have k2 : fld W 24 15 = 0 := (fld_eq W 24 15 32768 1024 rfl rfl).trans (by omega)
  have k3 : fld W 9 0 = 0 := (fld_eq W 9 0 1 1024 rfl rfl).trans (by omega)
  rw [dec_02 W m]
  simp [decodeSys, chk, k1, k2, k3]

theorem wfi : Statement .wfi := by
  intro _ _
  have hw : (encode .wfi).toNat = 0x04001400 := encode_toNat _ _ rfl (by omega)
  generalize encode .wfi = W at hw ⊢
  have m : fld W 31 25 = 2 := (fld_eq W 31 25 33554432 128 rfl rfl).trans (by omega)
  have k1 : fld W 14 10 = 5 := (fld_eq W 14 10 1024 32 rfl rfl).trans (by omega)
  have k2 : fld W 24 15 = 0 := (fld_eq W 24 15 32768 1024 rfl rfl).trans (by omega)
  have k3 : fld W 9 0 = 0 := (fld_eq W 9 0 1 1024 rfl rfl).trans (by omega)
  rw [dec_02 W m]
  simp [decodeSys, chk, k1, k2, k3]

theorem tlbinvVa (d : SReg) (a : SReg) : Statement (.tlbinvVa d a) := by
  intro _ _
  have hd := d.isLt
  have ha := a.isLt
  have hw : (encode (.tlbinvVa d a)).toNat = 0x04001800 + d.toNat * 1048576 + a.toNat * 32768 := encode_toNat _ _ rfl (by omega)
  generalize encode (.tlbinvVa d a) = W at hw ⊢
  have m : fld W 31 25 = 2 := (fld_eq W 31 25 33554432 128 rfl rfl).trans (by omega)
  have k1 : fld W 14 10 = 6 := (fld_eq W 14 10 1024 32 rfl rfl).trans (by omega)
  have k2 : fld W 9 0 = 0 := (fld_eq W 9 0 1 1024 rfl rfl).trans (by omega)
  have od : fldBv 5 W 20 = d := fldBv_eq W 20 d (by norm_num; omega)
  have oa : fldBv 5 W 15 = a := fldBv_eq W 15 a (by norm_num; omega)
  rw [dec_02 W m]
  simp [decodeSys, chk, k1, k2, od, oa]

theorem tlbinvAsid (d : SReg) : Statement (.tlbinvAsid d) := by
  intro _ _
  have hd := d.isLt
  have hw : (encode (.tlbinvAsid d)).toNat = 0x04001801 + d.toNat * 1048576 := encode_toNat _ _ rfl (by omega)
  generalize encode (.tlbinvAsid d) = W at hw ⊢
  have m : fld W 31 25 = 2 := (fld_eq W 31 25 33554432 128 rfl rfl).trans (by omega)
  have k1 : fld W 14 10 = 6 := (fld_eq W 14 10 1024 32 rfl rfl).trans (by omega)
  have k2 : fld W 9 0 = 1 := (fld_eq W 9 0 1 1024 rfl rfl).trans (by omega)
  have k3 : fld W 19 15 = 0 := (fld_eq W 19 15 32768 32 rfl rfl).trans (by omega)
  have od : fldBv 5 W 20 = d := fldBv_eq W 20 d (by norm_num; omega)
  rw [dec_02 W m]
  simp [decodeSys, chk, k1, k2, k3, od]

theorem tlbinvVmid : Statement .tlbinvVmid := by
  intro _ _
  have hw : (encode .tlbinvVmid).toNat = 0x04001802 := encode_toNat _ _ rfl (by omega)
  generalize encode .tlbinvVmid = W at hw ⊢
  have m : fld W 31 25 = 2 := (fld_eq W 31 25 33554432 128 rfl rfl).trans (by omega)
  have k1 : fld W 14 10 = 6 := (fld_eq W 14 10 1024 32 rfl rfl).trans (by omega)
  have k2 : fld W 9 0 = 2 := (fld_eq W 9 0 1 1024 rfl rfl).trans (by omega)
  have k3 : fld W 24 15 = 0 := (fld_eq W 24 15 32768 1024 rfl rfl).trans (by omega)
  rw [dec_02 W m]
  simp [decodeSys, chk, k1, k2, k3]

theorem tlbinvIpa (d : SReg) (a : SReg) : Statement (.tlbinvIpa d a) := by
  intro _ _
  have hd := d.isLt
  have ha := a.isLt
  have hw : (encode (.tlbinvIpa d a)).toNat = 0x04001803 + d.toNat * 1048576 + a.toNat * 32768 := encode_toNat _ _ rfl (by omega)
  generalize encode (.tlbinvIpa d a) = W at hw ⊢
  have m : fld W 31 25 = 2 := (fld_eq W 31 25 33554432 128 rfl rfl).trans (by omega)
  have k1 : fld W 14 10 = 6 := (fld_eq W 14 10 1024 32 rfl rfl).trans (by omega)
  have k2 : fld W 9 0 = 3 := (fld_eq W 9 0 1 1024 rfl rfl).trans (by omega)
  have od : fldBv 5 W 20 = d := fldBv_eq W 20 d (by norm_num; omega)
  have oa : fldBv 5 W 15 = a := fldBv_eq W 15 a (by norm_num; omega)
  rw [dec_02 W m]
  simp [decodeSys, chk, k1, k2, od, oa]

theorem tlbsync : Statement .tlbsync := by
  intro _ _
  have hw : (encode .tlbsync).toNat = 0x04001C00 := encode_toNat _ _ rfl (by omega)
  generalize encode .tlbsync = W at hw ⊢
  have m : fld W 31 25 = 2 := (fld_eq W 31 25 33554432 128 rfl rfl).trans (by omega)
  have k1 : fld W 14 10 = 7 := (fld_eq W 14 10 1024 32 rfl rfl).trans (by omega)
  have k2 : fld W 24 15 = 0 := (fld_eq W 24 15 32768 1024 rfl rfl).trans (by omega)
  have k3 : fld W 9 0 = 0 := (fld_eq W 9 0 1 1024 rfl rfl).trans (by omega)
  rw [dec_02 W m]
  simp [decodeSys, chk, k1, k2, k3]

theorem tlbsyncComplete x0 : Statement (.tlbsyncComplete x0) := fun _ h => absurd h (by simp [Instr.encoded])

theorem intr (p : BitVec 1) (v : BitVec 6) : Statement (.intr p v) := by
  intro _ _
  have hp := p.isLt
  have hv := v.isLt
  have hw : (encode (.intr p v)).toNat = 0x04002000 + p.toNat * 64 + v.toNat * 1 := encode_toNat _ _ rfl (by omega)
  generalize encode (.intr p v) = W at hw ⊢
  have m : fld W 31 25 = 2 := (fld_eq W 31 25 33554432 128 rfl rfl).trans (by omega)
  have k1 : fld W 14 10 = 8 := (fld_eq W 14 10 1024 32 rfl rfl).trans (by omega)
  have k2 : fld W 24 15 = 0 := (fld_eq W 24 15 32768 1024 rfl rfl).trans (by omega)
  have k3 : fld W 9 7 = 0 := (fld_eq W 9 7 128 8 rfl rfl).trans (by omega)
  have op : fldBv 1 W 6 = p := fldBv_eq W 6 p (by norm_num; omega)
  have ov : fldBv 6 W 0 = v := fldBv_eq W 0 v (by norm_num; omega)
  rw [dec_02 W m]
  simp [decodeSys, chk, k1, k2, k3, op, ov]

theorem add (d : SReg) (a : SReg) (b : SReg) (w : Bool) : Statement (.add d a b w) := by
  intro _ _
  have hd := d.isLt
  have ha := a.isLt
  have hb := b.isLt
  have hw := Bool.toNat_le w
  have hw : (encode (.add d a b w)).toNat = 0x06000000 + d.toNat * 1048576 + a.toNat * 32768 + b.toNat * 1024 + w.toNat * 512 := encode_toNat _ _ rfl (by omega)
  generalize encode (.add d a b w) = W at hw ⊢
  have m : fld W 31 25 = 3 := (fld_eq W 31 25 33554432 128 rfl rfl).trans (by omega)
  have k1 : fld W 4 0 = 0 := (fld_eq W 4 0 1 32 rfl rfl).trans (by omega)
  have k2 : fld W 8 5 = 0 := (fld_eq W 8 5 32 16 rfl rfl).trans (by omega)
  have od : fldBv 5 W 20 = d := fldBv_eq W 20 d (by norm_num; omega)
  have oa : fldBv 5 W 15 = a := fldBv_eq W 15 a (by norm_num; omega)
  have ob : fldBv 5 W 10 = b := fldBv_eq W 10 b (by norm_num; omega)
  have ow : bit W 9 = w := bit_eq W 9 w (by norm_num; omega)
  rw [dec_03 W m]
  simp [decodeAlu, chk, k1, k2, od, oa, ob, ow]

theorem sub (d : SReg) (a : SReg) (b : SReg) (w : Bool) : Statement (.sub d a b w) := by
  intro _ _
  have hd := d.isLt
  have ha := a.isLt
  have hb := b.isLt
  have hw := Bool.toNat_le w
  have hw : (encode (.sub d a b w)).toNat = 0x06000001 + d.toNat * 1048576 + a.toNat * 32768 + b.toNat * 1024 + w.toNat * 512 := encode_toNat _ _ rfl (by omega)
  generalize encode (.sub d a b w) = W at hw ⊢
  have m : fld W 31 25 = 3 := (fld_eq W 31 25 33554432 128 rfl rfl).trans (by omega)
  have k1 : fld W 4 0 = 1 := (fld_eq W 4 0 1 32 rfl rfl).trans (by omega)
  have k2 : fld W 8 5 = 0 := (fld_eq W 8 5 32 16 rfl rfl).trans (by omega)
  have od : fldBv 5 W 20 = d := fldBv_eq W 20 d (by norm_num; omega)
  have oa : fldBv 5 W 15 = a := fldBv_eq W 15 a (by norm_num; omega)
  have ob : fldBv 5 W 10 = b := fldBv_eq W 10 b (by norm_num; omega)
  have ow : bit W 9 = w := bit_eq W 9 w (by norm_num; omega)
  rw [dec_03 W m]
  simp [decodeAlu, chk, k1, k2, od, oa, ob, ow]

theorem mul (d : SReg) (a : SReg) (b : SReg) (w : Bool) : Statement (.mul d a b w) := by
  intro _ _
  have hd := d.isLt
  have ha := a.isLt
  have hb := b.isLt
  have hw := Bool.toNat_le w
  have hw : (encode (.mul d a b w)).toNat = 0x06000002 + d.toNat * 1048576 + a.toNat * 32768 + b.toNat * 1024 + w.toNat * 512 := encode_toNat _ _ rfl (by omega)
  generalize encode (.mul d a b w) = W at hw ⊢
  have m : fld W 31 25 = 3 := (fld_eq W 31 25 33554432 128 rfl rfl).trans (by omega)
  have k1 : fld W 4 0 = 2 := (fld_eq W 4 0 1 32 rfl rfl).trans (by omega)
  have k2 : fld W 8 5 = 0 := (fld_eq W 8 5 32 16 rfl rfl).trans (by omega)
  have od : fldBv 5 W 20 = d := fldBv_eq W 20 d (by norm_num; omega)
  have oa : fldBv 5 W 15 = a := fldBv_eq W 15 a (by norm_num; omega)
  have ob : fldBv 5 W 10 = b := fldBv_eq W 10 b (by norm_num; omega)
  have ow : bit W 9 = w := bit_eq W 9 w (by norm_num; omega)
  rw [dec_03 W m]
  simp [decodeAlu, chk, k1, k2, od, oa, ob, ow]

theorem mulh (d : SReg) (a : SReg) (b : SReg) (w : Bool) : Statement (.mulh d a b w) := by
  intro _ _
  have hd := d.isLt
  have ha := a.isLt
  have hb := b.isLt
  have hw := Bool.toNat_le w
  have hw : (encode (.mulh d a b w)).toNat = 0x06000003 + d.toNat * 1048576 + a.toNat * 32768 + b.toNat * 1024 + w.toNat * 512 := encode_toNat _ _ rfl (by omega)
  generalize encode (.mulh d a b w) = W at hw ⊢
  have m : fld W 31 25 = 3 := (fld_eq W 31 25 33554432 128 rfl rfl).trans (by omega)
  have k1 : fld W 4 0 = 3 := (fld_eq W 4 0 1 32 rfl rfl).trans (by omega)
  have k2 : fld W 8 5 = 0 := (fld_eq W 8 5 32 16 rfl rfl).trans (by omega)
  have od : fldBv 5 W 20 = d := fldBv_eq W 20 d (by norm_num; omega)
  have oa : fldBv 5 W 15 = a := fldBv_eq W 15 a (by norm_num; omega)
  have ob : fldBv 5 W 10 = b := fldBv_eq W 10 b (by norm_num; omega)
  have ow : bit W 9 = w := bit_eq W 9 w (by norm_num; omega)
  rw [dec_03 W m]
  simp [decodeAlu, chk, k1, k2, od, oa, ob, ow]

theorem mulhu (d : SReg) (a : SReg) (b : SReg) (w : Bool) : Statement (.mulhu d a b w) := by
  intro _ _
  have hd := d.isLt
  have ha := a.isLt
  have hb := b.isLt
  have hw := Bool.toNat_le w
  have hw : (encode (.mulhu d a b w)).toNat = 0x06000004 + d.toNat * 1048576 + a.toNat * 32768 + b.toNat * 1024 + w.toNat * 512 := encode_toNat _ _ rfl (by omega)
  generalize encode (.mulhu d a b w) = W at hw ⊢
  have m : fld W 31 25 = 3 := (fld_eq W 31 25 33554432 128 rfl rfl).trans (by omega)
  have k1 : fld W 4 0 = 4 := (fld_eq W 4 0 1 32 rfl rfl).trans (by omega)
  have k2 : fld W 8 5 = 0 := (fld_eq W 8 5 32 16 rfl rfl).trans (by omega)
  have od : fldBv 5 W 20 = d := fldBv_eq W 20 d (by norm_num; omega)
  have oa : fldBv 5 W 15 = a := fldBv_eq W 15 a (by norm_num; omega)
  have ob : fldBv 5 W 10 = b := fldBv_eq W 10 b (by norm_num; omega)
  have ow : bit W 9 = w := bit_eq W 9 w (by norm_num; omega)
  rw [dec_03 W m]
  simp [decodeAlu, chk, k1, k2, od, oa, ob, ow]

theorem div (d : SReg) (a : SReg) (b : SReg) (w : Bool) : Statement (.div d a b w) := by
  intro _ _
  have hd := d.isLt
  have ha := a.isLt
  have hb := b.isLt
  have hw := Bool.toNat_le w
  have hw : (encode (.div d a b w)).toNat = 0x06000005 + d.toNat * 1048576 + a.toNat * 32768 + b.toNat * 1024 + w.toNat * 512 := encode_toNat _ _ rfl (by omega)
  generalize encode (.div d a b w) = W at hw ⊢
  have m : fld W 31 25 = 3 := (fld_eq W 31 25 33554432 128 rfl rfl).trans (by omega)
  have k1 : fld W 4 0 = 5 := (fld_eq W 4 0 1 32 rfl rfl).trans (by omega)
  have k2 : fld W 8 5 = 0 := (fld_eq W 8 5 32 16 rfl rfl).trans (by omega)
  have od : fldBv 5 W 20 = d := fldBv_eq W 20 d (by norm_num; omega)
  have oa : fldBv 5 W 15 = a := fldBv_eq W 15 a (by norm_num; omega)
  have ob : fldBv 5 W 10 = b := fldBv_eq W 10 b (by norm_num; omega)
  have ow : bit W 9 = w := bit_eq W 9 w (by norm_num; omega)
  rw [dec_03 W m]
  simp [decodeAlu, chk, k1, k2, od, oa, ob, ow]

theorem divu (d : SReg) (a : SReg) (b : SReg) (w : Bool) : Statement (.divu d a b w) := by
  intro _ _
  have hd := d.isLt
  have ha := a.isLt
  have hb := b.isLt
  have hw := Bool.toNat_le w
  have hw : (encode (.divu d a b w)).toNat = 0x06000006 + d.toNat * 1048576 + a.toNat * 32768 + b.toNat * 1024 + w.toNat * 512 := encode_toNat _ _ rfl (by omega)
  generalize encode (.divu d a b w) = W at hw ⊢
  have m : fld W 31 25 = 3 := (fld_eq W 31 25 33554432 128 rfl rfl).trans (by omega)
  have k1 : fld W 4 0 = 6 := (fld_eq W 4 0 1 32 rfl rfl).trans (by omega)
  have k2 : fld W 8 5 = 0 := (fld_eq W 8 5 32 16 rfl rfl).trans (by omega)
  have od : fldBv 5 W 20 = d := fldBv_eq W 20 d (by norm_num; omega)
  have oa : fldBv 5 W 15 = a := fldBv_eq W 15 a (by norm_num; omega)
  have ob : fldBv 5 W 10 = b := fldBv_eq W 10 b (by norm_num; omega)
  have ow : bit W 9 = w := bit_eq W 9 w (by norm_num; omega)
  rw [dec_03 W m]
  simp [decodeAlu, chk, k1, k2, od, oa, ob, ow]

theorem rem (d : SReg) (a : SReg) (b : SReg) (w : Bool) : Statement (.rem d a b w) := by
  intro _ _
  have hd := d.isLt
  have ha := a.isLt
  have hb := b.isLt
  have hw := Bool.toNat_le w
  have hw : (encode (.rem d a b w)).toNat = 0x06000007 + d.toNat * 1048576 + a.toNat * 32768 + b.toNat * 1024 + w.toNat * 512 := encode_toNat _ _ rfl (by omega)
  generalize encode (.rem d a b w) = W at hw ⊢
  have m : fld W 31 25 = 3 := (fld_eq W 31 25 33554432 128 rfl rfl).trans (by omega)
  have k1 : fld W 4 0 = 7 := (fld_eq W 4 0 1 32 rfl rfl).trans (by omega)
  have k2 : fld W 8 5 = 0 := (fld_eq W 8 5 32 16 rfl rfl).trans (by omega)
  have od : fldBv 5 W 20 = d := fldBv_eq W 20 d (by norm_num; omega)
  have oa : fldBv 5 W 15 = a := fldBv_eq W 15 a (by norm_num; omega)
  have ob : fldBv 5 W 10 = b := fldBv_eq W 10 b (by norm_num; omega)
  have ow : bit W 9 = w := bit_eq W 9 w (by norm_num; omega)
  rw [dec_03 W m]
  simp [decodeAlu, chk, k1, k2, od, oa, ob, ow]

theorem remu (d : SReg) (a : SReg) (b : SReg) (w : Bool) : Statement (.remu d a b w) := by
  intro _ _
  have hd := d.isLt
  have ha := a.isLt
  have hb := b.isLt
  have hw := Bool.toNat_le w
  have hw : (encode (.remu d a b w)).toNat = 0x06000008 + d.toNat * 1048576 + a.toNat * 32768 + b.toNat * 1024 + w.toNat * 512 := encode_toNat _ _ rfl (by omega)
  generalize encode (.remu d a b w) = W at hw ⊢
  have m : fld W 31 25 = 3 := (fld_eq W 31 25 33554432 128 rfl rfl).trans (by omega)
  have k1 : fld W 4 0 = 8 := (fld_eq W 4 0 1 32 rfl rfl).trans (by omega)
  have k2 : fld W 8 5 = 0 := (fld_eq W 8 5 32 16 rfl rfl).trans (by omega)
  have od : fldBv 5 W 20 = d := fldBv_eq W 20 d (by norm_num; omega)
  have oa : fldBv 5 W 15 = a := fldBv_eq W 15 a (by norm_num; omega)
  have ob : fldBv 5 W 10 = b := fldBv_eq W 10 b (by norm_num; omega)
  have ow : bit W 9 = w := bit_eq W 9 w (by norm_num; omega)
  rw [dec_03 W m]
  simp [decodeAlu, chk, k1, k2, od, oa, ob, ow]

theorem and (d : SReg) (a : SReg) (b : SReg) (w : Bool) : Statement (.and d a b w) := by
  intro _ _
  have hd := d.isLt
  have ha := a.isLt
  have hb := b.isLt
  have hw := Bool.toNat_le w
  have hw : (encode (.and d a b w)).toNat = 0x06000009 + d.toNat * 1048576 + a.toNat * 32768 + b.toNat * 1024 + w.toNat * 512 := encode_toNat _ _ rfl (by omega)
  generalize encode (.and d a b w) = W at hw ⊢
  have m : fld W 31 25 = 3 := (fld_eq W 31 25 33554432 128 rfl rfl).trans (by omega)
  have k1 : fld W 4 0 = 9 := (fld_eq W 4 0 1 32 rfl rfl).trans (by omega)
  have k2 : fld W 8 5 = 0 := (fld_eq W 8 5 32 16 rfl rfl).trans (by omega)
  have od : fldBv 5 W 20 = d := fldBv_eq W 20 d (by norm_num; omega)
  have oa : fldBv 5 W 15 = a := fldBv_eq W 15 a (by norm_num; omega)
  have ob : fldBv 5 W 10 = b := fldBv_eq W 10 b (by norm_num; omega)
  have ow : bit W 9 = w := bit_eq W 9 w (by norm_num; omega)
  rw [dec_03 W m]
  simp [decodeAlu, chk, k1, k2, od, oa, ob, ow]

theorem or (d : SReg) (a : SReg) (b : SReg) (w : Bool) : Statement (.or d a b w) := by
  intro _ _
  have hd := d.isLt
  have ha := a.isLt
  have hb := b.isLt
  have hw := Bool.toNat_le w
  have hw : (encode (.or d a b w)).toNat = 0x0600000A + d.toNat * 1048576 + a.toNat * 32768 + b.toNat * 1024 + w.toNat * 512 := encode_toNat _ _ rfl (by omega)
  generalize encode (.or d a b w) = W at hw ⊢
  have m : fld W 31 25 = 3 := (fld_eq W 31 25 33554432 128 rfl rfl).trans (by omega)
  have k1 : fld W 4 0 = 10 := (fld_eq W 4 0 1 32 rfl rfl).trans (by omega)
  have k2 : fld W 8 5 = 0 := (fld_eq W 8 5 32 16 rfl rfl).trans (by omega)
  have od : fldBv 5 W 20 = d := fldBv_eq W 20 d (by norm_num; omega)
  have oa : fldBv 5 W 15 = a := fldBv_eq W 15 a (by norm_num; omega)
  have ob : fldBv 5 W 10 = b := fldBv_eq W 10 b (by norm_num; omega)
  have ow : bit W 9 = w := bit_eq W 9 w (by norm_num; omega)
  rw [dec_03 W m]
  simp [decodeAlu, chk, k1, k2, od, oa, ob, ow]

theorem xor (d : SReg) (a : SReg) (b : SReg) (w : Bool) : Statement (.xor d a b w) := by
  intro _ _
  have hd := d.isLt
  have ha := a.isLt
  have hb := b.isLt
  have hw := Bool.toNat_le w
  have hw : (encode (.xor d a b w)).toNat = 0x0600000B + d.toNat * 1048576 + a.toNat * 32768 + b.toNat * 1024 + w.toNat * 512 := encode_toNat _ _ rfl (by omega)
  generalize encode (.xor d a b w) = W at hw ⊢
  have m : fld W 31 25 = 3 := (fld_eq W 31 25 33554432 128 rfl rfl).trans (by omega)
  have k1 : fld W 4 0 = 11 := (fld_eq W 4 0 1 32 rfl rfl).trans (by omega)
  have k2 : fld W 8 5 = 0 := (fld_eq W 8 5 32 16 rfl rfl).trans (by omega)
  have od : fldBv 5 W 20 = d := fldBv_eq W 20 d (by norm_num; omega)
  have oa : fldBv 5 W 15 = a := fldBv_eq W 15 a (by norm_num; omega)
  have ob : fldBv 5 W 10 = b := fldBv_eq W 10 b (by norm_num; omega)
  have ow : bit W 9 = w := bit_eq W 9 w (by norm_num; omega)
  rw [dec_03 W m]
  simp [decodeAlu, chk, k1, k2, od, oa, ob, ow]

theorem sll (d : SReg) (a : SReg) (b : SReg) (w : Bool) : Statement (.sll d a b w) := by
  intro _ _
  have hd := d.isLt
  have ha := a.isLt
  have hb := b.isLt
  have hw := Bool.toNat_le w
  have hw : (encode (.sll d a b w)).toNat = 0x0600000C + d.toNat * 1048576 + a.toNat * 32768 + b.toNat * 1024 + w.toNat * 512 := encode_toNat _ _ rfl (by omega)
  generalize encode (.sll d a b w) = W at hw ⊢
  have m : fld W 31 25 = 3 := (fld_eq W 31 25 33554432 128 rfl rfl).trans (by omega)
  have k1 : fld W 4 0 = 12 := (fld_eq W 4 0 1 32 rfl rfl).trans (by omega)
  have k2 : fld W 8 5 = 0 := (fld_eq W 8 5 32 16 rfl rfl).trans (by omega)
  have od : fldBv 5 W 20 = d := fldBv_eq W 20 d (by norm_num; omega)
  have oa : fldBv 5 W 15 = a := fldBv_eq W 15 a (by norm_num; omega)
  have ob : fldBv 5 W 10 = b := fldBv_eq W 10 b (by norm_num; omega)
  have ow : bit W 9 = w := bit_eq W 9 w (by norm_num; omega)
  rw [dec_03 W m]
  simp [decodeAlu, chk, k1, k2, od, oa, ob, ow]

theorem srl (d : SReg) (a : SReg) (b : SReg) (w : Bool) : Statement (.srl d a b w) := by
  intro _ _
  have hd := d.isLt
  have ha := a.isLt
  have hb := b.isLt
  have hw := Bool.toNat_le w
  have hw : (encode (.srl d a b w)).toNat = 0x0600000D + d.toNat * 1048576 + a.toNat * 32768 + b.toNat * 1024 + w.toNat * 512 := encode_toNat _ _ rfl (by omega)
  generalize encode (.srl d a b w) = W at hw ⊢
  have m : fld W 31 25 = 3 := (fld_eq W 31 25 33554432 128 rfl rfl).trans (by omega)
  have k1 : fld W 4 0 = 13 := (fld_eq W 4 0 1 32 rfl rfl).trans (by omega)
  have k2 : fld W 8 5 = 0 := (fld_eq W 8 5 32 16 rfl rfl).trans (by omega)
  have od : fldBv 5 W 20 = d := fldBv_eq W 20 d (by norm_num; omega)
  have oa : fldBv 5 W 15 = a := fldBv_eq W 15 a (by norm_num; omega)
  have ob : fldBv 5 W 10 = b := fldBv_eq W 10 b (by norm_num; omega)
  have ow : bit W 9 = w := bit_eq W 9 w (by norm_num; omega)
  rw [dec_03 W m]
  simp [decodeAlu, chk, k1, k2, od, oa, ob, ow]

theorem sra (d : SReg) (a : SReg) (b : SReg) (w : Bool) : Statement (.sra d a b w) := by
  intro _ _
  have hd := d.isLt
  have ha := a.isLt
  have hb := b.isLt
  have hw := Bool.toNat_le w
  have hw : (encode (.sra d a b w)).toNat = 0x0600000E + d.toNat * 1048576 + a.toNat * 32768 + b.toNat * 1024 + w.toNat * 512 := encode_toNat _ _ rfl (by omega)
  generalize encode (.sra d a b w) = W at hw ⊢
  have m : fld W 31 25 = 3 := (fld_eq W 31 25 33554432 128 rfl rfl).trans (by omega)
  have k1 : fld W 4 0 = 14 := (fld_eq W 4 0 1 32 rfl rfl).trans (by omega)
  have k2 : fld W 8 5 = 0 := (fld_eq W 8 5 32 16 rfl rfl).trans (by omega)
  have od : fldBv 5 W 20 = d := fldBv_eq W 20 d (by norm_num; omega)
  have oa : fldBv 5 W 15 = a := fldBv_eq W 15 a (by norm_num; omega)
  have ob : fldBv 5 W 10 = b := fldBv_eq W 10 b (by norm_num; omega)
  have ow : bit W 9 = w := bit_eq W 9 w (by norm_num; omega)
  rw [dec_03 W m]
  simp [decodeAlu, chk, k1, k2, od, oa, ob, ow]

theorem slt (d : SReg) (a : SReg) (b : SReg) (w : Bool) : Statement (.slt d a b w) := by
  intro _ _
  have hd := d.isLt
  have ha := a.isLt
  have hb := b.isLt
  have hw := Bool.toNat_le w
  have hw : (encode (.slt d a b w)).toNat = 0x0600000F + d.toNat * 1048576 + a.toNat * 32768 + b.toNat * 1024 + w.toNat * 512 := encode_toNat _ _ rfl (by omega)
  generalize encode (.slt d a b w) = W at hw ⊢
  have m : fld W 31 25 = 3 := (fld_eq W 31 25 33554432 128 rfl rfl).trans (by omega)
  have k1 : fld W 4 0 = 15 := (fld_eq W 4 0 1 32 rfl rfl).trans (by omega)
  have k2 : fld W 8 5 = 0 := (fld_eq W 8 5 32 16 rfl rfl).trans (by omega)
  have od : fldBv 5 W 20 = d := fldBv_eq W 20 d (by norm_num; omega)
  have oa : fldBv 5 W 15 = a := fldBv_eq W 15 a (by norm_num; omega)
  have ob : fldBv 5 W 10 = b := fldBv_eq W 10 b (by norm_num; omega)
  have ow : bit W 9 = w := bit_eq W 9 w (by norm_num; omega)
  rw [dec_03 W m]
  simp [decodeAlu, chk, k1, k2, od, oa, ob, ow]

theorem sltu (d : SReg) (a : SReg) (b : SReg) (w : Bool) : Statement (.sltu d a b w) := by
  intro _ _
  have hd := d.isLt
  have ha := a.isLt
  have hb := b.isLt
  have hw := Bool.toNat_le w
  have hw : (encode (.sltu d a b w)).toNat = 0x06000010 + d.toNat * 1048576 + a.toNat * 32768 + b.toNat * 1024 + w.toNat * 512 := encode_toNat _ _ rfl (by omega)
  generalize encode (.sltu d a b w) = W at hw ⊢
  have m : fld W 31 25 = 3 := (fld_eq W 31 25 33554432 128 rfl rfl).trans (by omega)
  have k1 : fld W 4 0 = 16 := (fld_eq W 4 0 1 32 rfl rfl).trans (by omega)
  have k2 : fld W 8 5 = 0 := (fld_eq W 8 5 32 16 rfl rfl).trans (by omega)
  have od : fldBv 5 W 20 = d := fldBv_eq W 20 d (by norm_num; omega)
  have oa : fldBv 5 W 15 = a := fldBv_eq W 15 a (by norm_num; omega)
  have ob : fldBv 5 W 10 = b := fldBv_eq W 10 b (by norm_num; omega)
  have ow : bit W 9 = w := bit_eq W 9 w (by norm_num; omega)
  rw [dec_03 W m]
  simp [decodeAlu, chk, k1, k2, od, oa, ob, ow]

theorem min (d : SReg) (a : SReg) (b : SReg) (w : Bool) : Statement (.min d a b w) := by
  intro _ _
  have hd := d.isLt
  have ha := a.isLt
  have hb := b.isLt
  have hw := Bool.toNat_le w
  have hw : (encode (.min d a b w)).toNat = 0x06000011 + d.toNat * 1048576 + a.toNat * 32768 + b.toNat * 1024 + w.toNat * 512 := encode_toNat _ _ rfl (by omega)
  generalize encode (.min d a b w) = W at hw ⊢
  have m : fld W 31 25 = 3 := (fld_eq W 31 25 33554432 128 rfl rfl).trans (by omega)
  have k1 : fld W 4 0 = 17 := (fld_eq W 4 0 1 32 rfl rfl).trans (by omega)
  have k2 : fld W 8 5 = 0 := (fld_eq W 8 5 32 16 rfl rfl).trans (by omega)
  have od : fldBv 5 W 20 = d := fldBv_eq W 20 d (by norm_num; omega)
  have oa : fldBv 5 W 15 = a := fldBv_eq W 15 a (by norm_num; omega)
  have ob : fldBv 5 W 10 = b := fldBv_eq W 10 b (by norm_num; omega)
  have ow : bit W 9 = w := bit_eq W 9 w (by norm_num; omega)
  rw [dec_03 W m]
  simp [decodeAlu, chk, k1, k2, od, oa, ob, ow]

theorem max (d : SReg) (a : SReg) (b : SReg) (w : Bool) : Statement (.max d a b w) := by
  intro _ _
  have hd := d.isLt
  have ha := a.isLt
  have hb := b.isLt
  have hw := Bool.toNat_le w
  have hw : (encode (.max d a b w)).toNat = 0x06000012 + d.toNat * 1048576 + a.toNat * 32768 + b.toNat * 1024 + w.toNat * 512 := encode_toNat _ _ rfl (by omega)
  generalize encode (.max d a b w) = W at hw ⊢
  have m : fld W 31 25 = 3 := (fld_eq W 31 25 33554432 128 rfl rfl).trans (by omega)
  have k1 : fld W 4 0 = 18 := (fld_eq W 4 0 1 32 rfl rfl).trans (by omega)
  have k2 : fld W 8 5 = 0 := (fld_eq W 8 5 32 16 rfl rfl).trans (by omega)
  have od : fldBv 5 W 20 = d := fldBv_eq W 20 d (by norm_num; omega)
  have oa : fldBv 5 W 15 = a := fldBv_eq W 15 a (by norm_num; omega)
  have ob : fldBv 5 W 10 = b := fldBv_eq W 10 b (by norm_num; omega)
  have ow : bit W 9 = w := bit_eq W 9 w (by norm_num; omega)
  rw [dec_03 W m]
  simp [decodeAlu, chk, k1, k2, od, oa, ob, ow]

theorem minu (d : SReg) (a : SReg) (b : SReg) (w : Bool) : Statement (.minu d a b w) := by
  intro _ _
  have hd := d.isLt
  have ha := a.isLt
  have hb := b.isLt
  have hw := Bool.toNat_le w
  have hw : (encode (.minu d a b w)).toNat = 0x06000013 + d.toNat * 1048576 + a.toNat * 32768 + b.toNat * 1024 + w.toNat * 512 := encode_toNat _ _ rfl (by omega)
  generalize encode (.minu d a b w) = W at hw ⊢
  have m : fld W 31 25 = 3 := (fld_eq W 31 25 33554432 128 rfl rfl).trans (by omega)
  have k1 : fld W 4 0 = 19 := (fld_eq W 4 0 1 32 rfl rfl).trans (by omega)
  have k2 : fld W 8 5 = 0 := (fld_eq W 8 5 32 16 rfl rfl).trans (by omega)
  have od : fldBv 5 W 20 = d := fldBv_eq W 20 d (by norm_num; omega)
  have oa : fldBv 5 W 15 = a := fldBv_eq W 15 a (by norm_num; omega)
  have ob : fldBv 5 W 10 = b := fldBv_eq W 10 b (by norm_num; omega)
  have ow : bit W 9 = w := bit_eq W 9 w (by norm_num; omega)
  rw [dec_03 W m]
  simp [decodeAlu, chk, k1, k2, od, oa, ob, ow]

theorem maxu (d : SReg) (a : SReg) (b : SReg) (w : Bool) : Statement (.maxu d a b w) := by
  intro _ _
  have hd := d.isLt
  have ha := a.isLt
  have hb := b.isLt
  have hw := Bool.toNat_le w
  have hw : (encode (.maxu d a b w)).toNat = 0x06000014 + d.toNat * 1048576 + a.toNat * 32768 + b.toNat * 1024 + w.toNat * 512 := encode_toNat _ _ rfl (by omega)
  generalize encode (.maxu d a b w) = W at hw ⊢
  have m : fld W 31 25 = 3 := (fld_eq W 31 25 33554432 128 rfl rfl).trans (by omega)
  have k1 : fld W 4 0 = 20 := (fld_eq W 4 0 1 32 rfl rfl).trans (by omega)
  have k2 : fld W 8 5 = 0 := (fld_eq W 8 5 32 16 rfl rfl).trans (by omega)
  have od : fldBv 5 W 20 = d := fldBv_eq W 20 d (by norm_num; omega)
  have oa : fldBv 5 W 15 = a := fldBv_eq W 15 a (by norm_num; omega)
  have ob : fldBv 5 W 10 = b := fldBv_eq W 10 b (by norm_num; omega)
  have ow : bit W 9 = w := bit_eq W 9 w (by norm_num; omega)
  rw [dec_03 W m]
  simp [decodeAlu, chk, k1, k2, od, oa, ob, ow]

theorem addi (d : SReg) (a : SReg) (i : BitVec 15) : Statement (.addi d a i) := by
  intro _ _
  have hd := d.isLt
  have ha := a.isLt
  have hi := i.isLt
  have hw : (encode (.addi d a i)).toNat = 0x08000000 + d.toNat * 1048576 + a.toNat * 32768 + i.toNat * 1 := encode_toNat _ _ rfl (by omega)
  generalize encode (.addi d a i) = W at hw ⊢
  have m : fld W 31 25 = 4 := (fld_eq W 31 25 33554432 128 rfl rfl).trans (by omega)
  have od : fldBv 5 W 20 = d := fldBv_eq W 20 d (by norm_num; omega)
  have oa : fldBv 5 W 15 = a := fldBv_eq W 15 a (by norm_num; omega)
  have oi : fldBv 15 W 0 = i := fldBv_eq W 0 i (by norm_num; omega)
  rw [dec_04 W m]
  simp [decodeAddi, chk, od, oa, oi]

theorem andi (d : SReg) (a : SReg) (i : BitVec 15) : Statement (.andi d a i) := by
  intro _ _
  have hd := d.isLt
  have ha := a.isLt
  have hi := i.isLt
  have hw : (encode (.andi d a i)).toNat = 0x0A000000 + d.toNat * 1048576 + a.toNat * 32768 + i.toNat * 1 := encode_toNat _ _ rfl (by omega)
  generalize encode (.andi d a i) = W at hw ⊢
  have m : fld W 31 25 = 5 := (fld_eq W 31 25 33554432 128 rfl rfl).trans (by omega)
  have od : fldBv 5 W 20 = d := fldBv_eq W 20 d (by norm_num; omega)
  have oa : fldBv 5 W 15 = a := fldBv_eq W 15 a (by norm_num; omega)
  have oi : fldBv 15 W 0 = i := fldBv_eq W 0 i (by norm_num; omega)
  rw [dec_05 W m]
  simp [decodeAndi, chk, od, oa, oi]

theorem ori (d : SReg) (a : SReg) (i : BitVec 15) : Statement (.ori d a i) := by
  intro _ _
  have hd := d.isLt
  have ha := a.isLt
  have hi := i.isLt
  have hw : (encode (.ori d a i)).toNat = 0x0C000000 + d.toNat * 1048576 + a.toNat * 32768 + i.toNat * 1 := encode_toNat _ _ rfl (by omega)
  generalize encode (.ori d a i) = W at hw ⊢
  have m : fld W 31 25 = 6 := (fld_eq W 31 25 33554432 128 rfl rfl).trans (by omega)
  have od : fldBv 5 W 20 = d := fldBv_eq W 20 d (by norm_num; omega)
  have oa : fldBv 5 W 15 = a := fldBv_eq W 15 a (by norm_num; omega)
  have oi : fldBv 15 W 0 = i := fldBv_eq W 0 i (by norm_num; omega)
  rw [dec_06 W m]
  simp [decodeOri, chk, od, oa, oi]

theorem xori (d : SReg) (a : SReg) (i : BitVec 15) : Statement (.xori d a i) := by
  intro _ _
  have hd := d.isLt
  have ha := a.isLt
  have hi := i.isLt
  have hw : (encode (.xori d a i)).toNat = 0x0E000000 + d.toNat * 1048576 + a.toNat * 32768 + i.toNat * 1 := encode_toNat _ _ rfl (by omega)
  generalize encode (.xori d a i) = W at hw ⊢
  have m : fld W 31 25 = 7 := (fld_eq W 31 25 33554432 128 rfl rfl).trans (by omega)
  have od : fldBv 5 W 20 = d := fldBv_eq W 20 d (by norm_num; omega)
  have oa : fldBv 5 W 15 = a := fldBv_eq W 15 a (by norm_num; omega)
  have oi : fldBv 15 W 0 = i := fldBv_eq W 0 i (by norm_num; omega)
  rw [dec_07 W m]
  simp [decodeXori, chk, od, oa, oi]

theorem slli (d : SReg) (a : SReg) (w : Bool) (n : BitVec 6) : Statement (.slli d a w n) := by
  intro hwf _
  simp [WellFormed] at hwf
  have hd := d.isLt
  have ha := a.isLt
  have hw := Bool.toNat_le w
  have hn := n.isLt
  have hw : (encode (.slli d a w n)).toNat = 0x10000000 + d.toNat * 1048576 + a.toNat * 32768 + w.toNat * 4096 + n.toNat * 1 := encode_toNat _ _ rfl (by omega)
  generalize encode (.slli d a w n) = W at hw ⊢
  have m : fld W 31 25 = 8 := (fld_eq W 31 25 33554432 128 rfl rfl).trans (by omega)
  have k1 : fld W 14 13 = 0 := (fld_eq W 14 13 8192 4 rfl rfl).trans (by omega)
  have k2 : fld W 11 6 = 0 := (fld_eq W 11 6 64 64 rfl rfl).trans (by omega)
  have od : fldBv 5 W 20 = d := fldBv_eq W 20 d (by norm_num; omega)
  have oa : fldBv 5 W 15 = a := fldBv_eq W 15 a (by norm_num; omega)
  have ow : bit W 12 = w := bit_eq W 12 w (by norm_num; omega)
  have on : fldBv 6 W 0 = n := fldBv_eq W 0 n (by norm_num; omega)
  have k3 : (fld W 12 12 = 0 ∨ fld W 5 5 = 0) := by
    rw [fld_eq W 12 12 4096 2 rfl rfl, fld_eq W 5 5 32 2 rfl rfl]
    rcases hwf with h | h
    · subst h; left; simp at hw; omega
    · right; omega
  rw [dec_08 W m]
  simp [decodeShifti, chk, k1, k2, od, oa, ow, on, k3]

theorem srli (d : SReg) (a : SReg) (w : Bool) (n : BitVec 6) : Statement (.srli d a w n) := by
  intro hwf _
  simp [WellFormed] at hwf
  have hd := d.isLt
  have ha := a.isLt
  have hw := Bool.toNat_le w
  have hn := n.isLt
  have hw : (encode (.srli d a w n)).toNat = 0x10002000 + d.toNat * 1048576 + a.toNat * 32768 + w.toNat * 4096 + n.toNat * 1 := encode_toNat _ _ rfl (by omega)
  generalize encode (.srli d a w n) = W at hw ⊢
  have m : fld W 31 25 = 8 := (fld_eq W 31 25 33554432 128 rfl rfl).trans (by omega)
  have k1 : fld W 14 13 = 1 := (fld_eq W 14 13 8192 4 rfl rfl).trans (by omega)
  have k2 : fld W 11 6 = 0 := (fld_eq W 11 6 64 64 rfl rfl).trans (by omega)
  have od : fldBv 5 W 20 = d := fldBv_eq W 20 d (by norm_num; omega)
  have oa : fldBv 5 W 15 = a := fldBv_eq W 15 a (by norm_num; omega)
  have ow : bit W 12 = w := bit_eq W 12 w (by norm_num; omega)
  have on : fldBv 6 W 0 = n := fldBv_eq W 0 n (by norm_num; omega)
  have k3 : (fld W 12 12 = 0 ∨ fld W 5 5 = 0) := by
    rw [fld_eq W 12 12 4096 2 rfl rfl, fld_eq W 5 5 32 2 rfl rfl]
    rcases hwf with h | h
    · subst h; left; simp at hw; omega
    · right; omega
  rw [dec_08 W m]
  simp [decodeShifti, chk, k1, k2, od, oa, ow, on, k3]

theorem srai (d : SReg) (a : SReg) (w : Bool) (n : BitVec 6) : Statement (.srai d a w n) := by
  intro hwf _
  simp [WellFormed] at hwf
  have hd := d.isLt
  have ha := a.isLt
  have hw := Bool.toNat_le w
  have hn := n.isLt
  have hw : (encode (.srai d a w n)).toNat = 0x10004000 + d.toNat * 1048576 + a.toNat * 32768 + w.toNat * 4096 + n.toNat * 1 := encode_toNat _ _ rfl (by omega)
  generalize encode (.srai d a w n) = W at hw ⊢
  have m : fld W 31 25 = 8 := (fld_eq W 31 25 33554432 128 rfl rfl).trans (by omega)
  have k1 : fld W 14 13 = 2 := (fld_eq W 14 13 8192 4 rfl rfl).trans (by omega)
  have k2 : fld W 11 6 = 0 := (fld_eq W 11 6 64 64 rfl rfl).trans (by omega)
  have od : fldBv 5 W 20 = d := fldBv_eq W 20 d (by norm_num; omega)
  have oa : fldBv 5 W 15 = a := fldBv_eq W 15 a (by norm_num; omega)
  have ow : bit W 12 = w := bit_eq W 12 w (by norm_num; omega)
  have on : fldBv 6 W 0 = n := fldBv_eq W 0 n (by norm_num; omega)
  have k3 : (fld W 12 12 = 0 ∨ fld W 5 5 = 0) := by
    rw [fld_eq W 12 12 4096 2 rfl rfl, fld_eq W 5 5 32 2 rfl rfl]
    rcases hwf with h | h
    · subst h; left; simp at hw; omega
    · right; omega
  rw [dec_08 W m]
  simp [decodeShifti, chk, k1, k2, od, oa, ow, on, k3]

theorem slti (d : SReg) (a : SReg) (i : BitVec 15) : Statement (.slti d a i) := by
  intro _ _
  have hd := d.isLt
  have ha := a.isLt
  have hi := i.isLt
  have hw : (encode (.slti d a i)).toNat = 0x12000000 + d.toNat * 1048576 + a.toNat * 32768 + i.toNat * 1 := encode_toNat _ _ rfl (by omega)
  generalize encode (.slti d a i) = W at hw ⊢
  have m : fld W 31 25 = 9 := (fld_eq W 31 25 33554432 128 rfl rfl).trans (by omega)
  have od : fldBv 5 W 20 = d := fldBv_eq W 20 d (by norm_num; omega)
  have oa : fldBv 5 W 15 = a := fldBv_eq W 15 a (by norm_num; omega)
  have oi : fldBv 15 W 0 = i := fldBv_eq W 0 i (by norm_num; omega)
  rw [dec_09 W m]
  simp [decodeSlti, chk, od, oa, oi]

theorem sltiu (d : SReg) (a : SReg) (i : BitVec 15) : Statement (.sltiu d a i) := by
  intro _ _
  have hd := d.isLt
  have ha := a.isLt
  have hi := i.isLt
  have hw : (encode (.sltiu d a i)).toNat = 0x14000000 + d.toNat * 1048576 + a.toNat * 32768 + i.toNat * 1 := encode_toNat _ _ rfl (by omega)
  generalize encode (.sltiu d a i) = W at hw ⊢
  have m : fld W 31 25 = 10 := (fld_eq W 31 25 33554432 128 rfl rfl).trans (by omega)
  have od : fldBv 5 W 20 = d := fldBv_eq W 20 d (by norm_num; omega)
  have oa : fldBv 5 W 15 = a := fldBv_eq W 15 a (by norm_num; omega)
  have oi : fldBv 15 W 0 = i := fldBv_eq W 0 i (by norm_num; omega)
  rw [dec_0a W m]
  simp [decodeSltiu, chk, od, oa, oi]

theorem lih (d : SReg) (i : BitVec 20) : Statement (.lih d i) := by
  intro _ _
  have hd := d.isLt
  have hi := i.isLt
  have hw : (encode (.lih d i)).toNat = 0x16000000 + d.toNat * 1048576 + i.toNat * 1 := encode_toNat _ _ rfl (by omega)
  generalize encode (.lih d i) = W at hw ⊢
  have m : fld W 31 25 = 11 := (fld_eq W 31 25 33554432 128 rfl rfl).trans (by omega)
  have od : fldBv 5 W 20 = d := fldBv_eq W 20 d (by norm_num; omega)
  have oi : fldBv 20 W 0 = i := fldBv_eq W 0 i (by norm_num; omega)
  rw [dec_0b W m]
  simp [decodeLih, chk, od, oi]

theorem lix (d : SReg) (i : BitVec 20) : Statement (.lix d i) := by
  intro _ _
  have hd := d.isLt
  have hi := i.isLt
  have hw : (encode (.lix d i)).toNat = 0x18000000 + d.toNat * 1048576 + i.toNat * 1 := encode_toNat _ _ rfl (by omega)
  generalize encode (.lix d i) = W at hw ⊢
  have m : fld W 31 25 = 12 := (fld_eq W 31 25 33554432 128 rfl rfl).trans (by omega)
  have od : fldBv 5 W 20 = d := fldBv_eq W 20 d (by norm_num; omega)
  have oi : fldBv 20 W 0 = i := fldBv_eq W 0 i (by norm_num; omega)
  rw [dec_0c W m]
  simp [decodeLix, chk, od, oi]

theorem sel (d : SReg) (a : SReg) (b : SReg) (c : SReg) : Statement (.sel d a b c) := by
  intro _ _
  have hd := d.isLt
  have ha := a.isLt
  have hb := b.isLt
  have hc := c.isLt
  have hw : (encode (.sel d a b c)).toNat = 0x1A000000 + d.toNat * 1048576 + a.toNat * 32768 + b.toNat * 1024 + c.toNat * 32 := encode_toNat _ _ rfl (by omega)
  generalize encode (.sel d a b c) = W at hw ⊢
  have m : fld W 31 25 = 13 := (fld_eq W 31 25 33554432 128 rfl rfl).trans (by omega)
  have k1 : fld W 4 0 = 0 := (fld_eq W 4 0 1 32 rfl rfl).trans (by omega)
  have od : fldBv 5 W 20 = d := fldBv_eq W 20 d (by norm_num; omega)
  have oa : fldBv 5 W 15 = a := fldBv_eq W 15 a (by norm_num; omega)
  have ob : fldBv 5 W 10 = b := fldBv_eq W 10 b (by norm_num; omega)
  have oc : fldBv 5 W 5 = c := fldBv_eq W 5 c (by norm_num; omega)
  rw [dec_0d W m]
  simp [decodeSel, chk, k1, od, oa, ob, oc]

theorem clz (d : SReg) (a : SReg) (w : Bool) : Statement (.clz d a w) := by
  intro _ _
  have hd := d.isLt
  have ha := a.isLt
  have hw := Bool.toNat_le w
  have hw : (encode (.clz d a w)).toNat = 0x1C000000 + d.toNat * 1048576 + a.toNat * 32768 + w.toNat * 512 := encode_toNat _ _ rfl (by omega)
  generalize encode (.clz d a w) = W at hw ⊢
  have m : fld W 31 25 = 14 := (fld_eq W 31 25 33554432 128 rfl rfl).trans (by omega)
  have k1 : fld W 2 0 = 0 := (fld_eq W 2 0 1 8 rfl rfl).trans (by omega)
  have k2 : fld W 14 10 = 0 := (fld_eq W 14 10 1024 32 rfl rfl).trans (by omega)
  have k3 : fld W 8 3 = 0 := (fld_eq W 8 3 8 64 rfl rfl).trans (by omega)
  have od : fldBv 5 W 20 = d := fldBv_eq W 20 d (by norm_num; omega)
  have oa : fldBv 5 W 15 = a := fldBv_eq W 15 a (by norm_num; omega)
  have ow : bit W 9 = w := bit_eq W 9 w (by norm_num; omega)
  rw [dec_0e W m]
  simp [decodeBits, chk, k1, k2, k3, od, oa, ow]

theorem ctz (d : SReg) (a : SReg) (w : Bool) : Statement (.ctz d a w) := by
  intro _ _
  have hd := d.isLt
  have ha := a.isLt
  have hw := Bool.toNat_le w
  have hw : (encode (.ctz d a w)).toNat = 0x1C000001 + d.toNat * 1048576 + a.toNat * 32768 + w.toNat * 512 := encode_toNat _ _ rfl (by omega)
  generalize encode (.ctz d a w) = W at hw ⊢
  have m : fld W 31 25 = 14 := (fld_eq W 31 25 33554432 128 rfl rfl).trans (by omega)
  have k1 : fld W 2 0 = 1 := (fld_eq W 2 0 1 8 rfl rfl).trans (by omega)
  have k2 : fld W 14 10 = 0 := (fld_eq W 14 10 1024 32 rfl rfl).trans (by omega)
  have k3 : fld W 8 3 = 0 := (fld_eq W 8 3 8 64 rfl rfl).trans (by omega)
  have od : fldBv 5 W 20 = d := fldBv_eq W 20 d (by norm_num; omega)
  have oa : fldBv 5 W 15 = a := fldBv_eq W 15 a (by norm_num; omega)
  have ow : bit W 9 = w := bit_eq W 9 w (by norm_num; omega)
  rw [dec_0e W m]
  simp [decodeBits, chk, k1, k2, k3, od, oa, ow]

theorem popc (d : SReg) (a : SReg) (w : Bool) : Statement (.popc d a w) := by
  intro _ _
  have hd := d.isLt
  have ha := a.isLt
  have hw := Bool.toNat_le w
  have hw : (encode (.popc d a w)).toNat = 0x1C000002 + d.toNat * 1048576 + a.toNat * 32768 + w.toNat * 512 := encode_toNat _ _ rfl (by omega)
  generalize encode (.popc d a w) = W at hw ⊢
  have m : fld W 31 25 = 14 := (fld_eq W 31 25 33554432 128 rfl rfl).trans (by omega)
  have k1 : fld W 2 0 = 2 := (fld_eq W 2 0 1 8 rfl rfl).trans (by omega)
  have k2 : fld W 14 10 = 0 := (fld_eq W 14 10 1024 32 rfl rfl).trans (by omega)
  have k3 : fld W 8 3 = 0 := (fld_eq W 8 3 8 64 rfl rfl).trans (by omega)
  have od : fldBv 5 W 20 = d := fldBv_eq W 20 d (by norm_num; omega)
  have oa : fldBv 5 W 15 = a := fldBv_eq W 15 a (by norm_num; omega)
  have ow : bit W 9 = w := bit_eq W 9 w (by norm_num; omega)
  rw [dec_0e W m]
  simp [decodeBits, chk, k1, k2, k3, od, oa, ow]

theorem bext (d : SReg) (a : SReg) (b : SReg) (w : Bool) : Statement (.bext d a b w) := by
  intro _ _
  have hd := d.isLt
  have ha := a.isLt
  have hb := b.isLt
  have hw := Bool.toNat_le w
  have hw : (encode (.bext d a b w)).toNat = 0x1C000003 + d.toNat * 1048576 + a.toNat * 32768 + b.toNat * 1024 + w.toNat * 512 := encode_toNat _ _ rfl (by omega)
  generalize encode (.bext d a b w) = W at hw ⊢
  have m : fld W 31 25 = 14 := (fld_eq W 31 25 33554432 128 rfl rfl).trans (by omega)
  have k1 : fld W 2 0 = 3 := (fld_eq W 2 0 1 8 rfl rfl).trans (by omega)
  have k2 : fld W 8 3 = 0 := (fld_eq W 8 3 8 64 rfl rfl).trans (by omega)
  have od : fldBv 5 W 20 = d := fldBv_eq W 20 d (by norm_num; omega)
  have oa : fldBv 5 W 15 = a := fldBv_eq W 15 a (by norm_num; omega)
  have ob : fldBv 5 W 10 = b := fldBv_eq W 10 b (by norm_num; omega)
  have ow : bit W 9 = w := bit_eq W 9 w (by norm_num; omega)
  rw [dec_0e W m]
  simp [decodeBits, chk, k1, k2, od, oa, ob, ow]

theorem bins (d : SReg) (a : SReg) (b : SReg) (w : Bool) : Statement (.bins d a b w) := by
  intro _ _
  have hd := d.isLt
  have ha := a.isLt
  have hb := b.isLt
  have hw := Bool.toNat_le w
  have hw : (encode (.bins d a b w)).toNat = 0x1C000004 + d.toNat * 1048576 + a.toNat * 32768 + b.toNat * 1024 + w.toNat * 512 := encode_toNat _ _ rfl (by omega)
  generalize encode (.bins d a b w) = W at hw ⊢
  have m : fld W 31 25 = 14 := (fld_eq W 31 25 33554432 128 rfl rfl).trans (by omega)
  have k1 : fld W 2 0 = 4 := (fld_eq W 2 0 1 8 rfl rfl).trans (by omega)
  have k2 : fld W 8 3 = 0 := (fld_eq W 8 3 8 64 rfl rfl).trans (by omega)
  have od : fldBv 5 W 20 = d := fldBv_eq W 20 d (by norm_num; omega)
  have oa : fldBv 5 W 15 = a := fldBv_eq W 15 a (by norm_num; omega)
  have ob : fldBv 5 W 10 = b := fldBv_eq W 10 b (by norm_num; omega)
  have ow : bit W 9 = w := bit_eq W 9 w (by norm_num; omega)
  rw [dec_0e W m]
  simp [decodeBits, chk, k1, k2, od, oa, ob, ow]

theorem bswap (d : SReg) (a : SReg) (w : Bool) : Statement (.bswap d a w) := by
  intro _ _
  have hd := d.isLt
  have ha := a.isLt
  have hw := Bool.toNat_le w
  have hw : (encode (.bswap d a w)).toNat = 0x1C000005 + d.toNat * 1048576 + a.toNat * 32768 + w.toNat * 512 := encode_toNat _ _ rfl (by omega)
  generalize encode (.bswap d a w) = W at hw ⊢
  have m : fld W 31 25 = 14 := (fld_eq W 31 25 33554432 128 rfl rfl).trans (by omega)
  have k1 : fld W 2 0 = 5 := (fld_eq W 2 0 1 8 rfl rfl).trans (by omega)
  have k2 : fld W 14 10 = 0 := (fld_eq W 14 10 1024 32 rfl rfl).trans (by omega)
  have k3 : fld W 8 3 = 0 := (fld_eq W 8 3 8 64 rfl rfl).trans (by omega)
  have od : fldBv 5 W 20 = d := fldBv_eq W 20 d (by norm_num; omega)
  have oa : fldBv 5 W 15 = a := fldBv_eq W 15 a (by norm_num; omega)
  have ow : bit W 9 = w := bit_eq W 9 w (by norm_num; omega)
  rw [dec_0e W m]
  simp [decodeBits, chk, k1, k2, k3, od, oa, ow]

theorem csrr (d : SReg) (n : CsrNum) : Statement (.csrr d n) := by
  intro _ _
  have hd := d.isLt
  have hn := n.isLt
  have hw : (encode (.csrr d n)).toNat = 0x1E000000 + d.toNat * 1048576 + n.toNat * 1 := encode_toNat _ _ rfl (by omega)
  generalize encode (.csrr d n) = W at hw ⊢
  have m : fld W 31 25 = 15 := (fld_eq W 31 25 33554432 128 rfl rfl).trans (by omega)
  have k1 : fld W 14 12 = 0 := (fld_eq W 14 12 4096 8 rfl rfl).trans (by omega)
  have k2 : fld W 19 15 = 0 := (fld_eq W 19 15 32768 32 rfl rfl).trans (by omega)
  have od : fldBv 5 W 20 = d := fldBv_eq W 20 d (by norm_num; omega)
  have on : fldBv 12 W 0 = n := fldBv_eq W 0 n (by norm_num; omega)
  rw [dec_0f W m]
  simp [decodeCsr, chk, k1, k2, od, on]

theorem csrw (d : SReg) (a : SReg) (n : CsrNum) : Statement (.csrw d a n) := by
  intro _ _
  have hd := d.isLt
  have ha := a.isLt
  have hn := n.isLt
  have hw : (encode (.csrw d a n)).toNat = 0x1E001000 + d.toNat * 1048576 + a.toNat * 32768 + n.toNat * 1 := encode_toNat _ _ rfl (by omega)
  generalize encode (.csrw d a n) = W at hw ⊢
  have m : fld W 31 25 = 15 := (fld_eq W 31 25 33554432 128 rfl rfl).trans (by omega)
  have k1 : fld W 14 12 = 1 := (fld_eq W 14 12 4096 8 rfl rfl).trans (by omega)
  have od : fldBv 5 W 20 = d := fldBv_eq W 20 d (by norm_num; omega)
  have oa : fldBv 5 W 15 = a := fldBv_eq W 15 a (by norm_num; omega)
  have on : fldBv 12 W 0 = n := fldBv_eq W 0 n (by norm_num; omega)
  rw [dec_0f W m]
  simp [decodeCsr, chk, k1, od, oa, on]

theorem csrs (d : SReg) (a : SReg) (n : CsrNum) : Statement (.csrs d a n) := by
  intro _ _
  have hd := d.isLt
  have ha := a.isLt
  have hn := n.isLt
  have hw : (encode (.csrs d a n)).toNat = 0x1E002000 + d.toNat * 1048576 + a.toNat * 32768 + n.toNat * 1 := encode_toNat _ _ rfl (by omega)
  generalize encode (.csrs d a n) = W at hw ⊢
  have m : fld W 31 25 = 15 := (fld_eq W 31 25 33554432 128 rfl rfl).trans (by omega)
  have k1 : fld W 14 12 = 2 := (fld_eq W 14 12 4096 8 rfl rfl).trans (by omega)
  have od : fldBv 5 W 20 = d := fldBv_eq W 20 d (by norm_num; omega)
  have oa : fldBv 5 W 15 = a := fldBv_eq W 15 a (by norm_num; omega)
  have on : fldBv 12 W 0 = n := fldBv_eq W 0 n (by norm_num; omega)
  rw [dec_0f W m]
  simp [decodeCsr, chk, k1, od, oa, on]

theorem csrc (d : SReg) (a : SReg) (n : CsrNum) : Statement (.csrc d a n) := by
  intro _ _
  have hd := d.isLt
  have ha := a.isLt
  have hn := n.isLt
  have hw : (encode (.csrc d a n)).toNat = 0x1E003000 + d.toNat * 1048576 + a.toNat * 32768 + n.toNat * 1 := encode_toNat _ _ rfl (by omega)
  generalize encode (.csrc d a n) = W at hw ⊢
  have m : fld W 31 25 = 15 := (fld_eq W 31 25 33554432 128 rfl rfl).trans (by omega)
  have k1 : fld W 14 12 = 3 := (fld_eq W 14 12 4096 8 rfl rfl).trans (by omega)
  have od : fldBv 5 W 20 = d := fldBv_eq W 20 d (by norm_num; omega)
  have oa : fldBv 5 W 15 = a := fldBv_eq W 15 a (by norm_num; omega)
  have on : fldBv 12 W 0 = n := fldBv_eq W 0 n (by norm_num; omega)
  rw [dec_0f W m]
  simp [decodeCsr, chk, k1, od, oa, on]

theorem mrWrite x0 : Statement (.mrWrite x0) := fun _ h => absurd h (by simp [Instr.encoded])

theorem fflagsAccess x0 : Statement (.fflagsAccess x0) := fun _ h => absurd h (by simp [Instr.encoded])

theorem fadd (d : SReg) (a : SReg) (b : SReg) (t : FTy) : Statement (.fadd d a b t) := by
  intro _ _
  have hd := d.isLt
  have ha := a.isLt
  have hb := b.isLt
  have ht := FTy.code_lt t
  have hw : (encode (.fadd d a b t)).toNat = 0x20000000 + d.toNat * 1048576 + a.toNat * 32768 + b.toNat * 1024 + t.code * 256 := encode_toNat _ _ rfl (by omega)
  generalize encode (.fadd d a b t) = W at hw ⊢
  have m : fld W 31 25 = 16 := (fld_eq W 31 25 33554432 128 rfl rfl).trans (by omega)
  have k1 : fld W 7 4 = 0 := (fld_eq W 7 4 16 16 rfl rfl).trans (by omega)
  have k2 : fld W 3 0 = 0 := (fld_eq W 3 0 1 16 rfl rfl).trans (by omega)
  have od : fldBv 5 W 20 = d := fldBv_eq W 20 d (by norm_num; omega)
  have oa : fldBv 5 W 15 = a := fldBv_eq W 15 a (by norm_num; omega)
  have ob : fldBv 5 W 10 = b := fldBv_eq W 10 b (by norm_num; omega)
  have ct : fld W 9 8 = t.code := (fld_eq W 9 8 256 4 rfl rfl).trans (by omega)
  have ot : FTy.ofCode (fld W 9 8) = t := by rw [ct]; exact FTy.ofCode_code t
  rw [dec_10 W m]
  simp [decodeFpu, chk, k1, k2, od, oa, ob, ot]

theorem fsub (d : SReg) (a : SReg) (b : SReg) (t : FTy) : Statement (.fsub d a b t) := by
  intro _ _
  have hd := d.isLt
  have ha := a.isLt
  have hb := b.isLt
  have ht := FTy.code_lt t
  have hw : (encode (.fsub d a b t)).toNat = 0x20000010 + d.toNat * 1048576 + a.toNat * 32768 + b.toNat * 1024 + t.code * 256 := encode_toNat _ _ rfl (by omega)
  generalize encode (.fsub d a b t) = W at hw ⊢
  have m : fld W 31 25 = 16 := (fld_eq W 31 25 33554432 128 rfl rfl).trans (by omega)
  have k1 : fld W 7 4 = 1 := (fld_eq W 7 4 16 16 rfl rfl).trans (by omega)
  have k2 : fld W 3 0 = 0 := (fld_eq W 3 0 1 16 rfl rfl).trans (by omega)
  have od : fldBv 5 W 20 = d := fldBv_eq W 20 d (by norm_num; omega)
  have oa : fldBv 5 W 15 = a := fldBv_eq W 15 a (by norm_num; omega)
  have ob : fldBv 5 W 10 = b := fldBv_eq W 10 b (by norm_num; omega)
  have ct : fld W 9 8 = t.code := (fld_eq W 9 8 256 4 rfl rfl).trans (by omega)
  have ot : FTy.ofCode (fld W 9 8) = t := by rw [ct]; exact FTy.ofCode_code t
  rw [dec_10 W m]
  simp [decodeFpu, chk, k1, k2, od, oa, ob, ot]

theorem fmul (d : SReg) (a : SReg) (b : SReg) (t : FTy) : Statement (.fmul d a b t) := by
  intro _ _
  have hd := d.isLt
  have ha := a.isLt
  have hb := b.isLt
  have ht := FTy.code_lt t
  have hw : (encode (.fmul d a b t)).toNat = 0x20000020 + d.toNat * 1048576 + a.toNat * 32768 + b.toNat * 1024 + t.code * 256 := encode_toNat _ _ rfl (by omega)
  generalize encode (.fmul d a b t) = W at hw ⊢
  have m : fld W 31 25 = 16 := (fld_eq W 31 25 33554432 128 rfl rfl).trans (by omega)
  have k1 : fld W 7 4 = 2 := (fld_eq W 7 4 16 16 rfl rfl).trans (by omega)
  have k2 : fld W 3 0 = 0 := (fld_eq W 3 0 1 16 rfl rfl).trans (by omega)
  have od : fldBv 5 W 20 = d := fldBv_eq W 20 d (by norm_num; omega)
  have oa : fldBv 5 W 15 = a := fldBv_eq W 15 a (by norm_num; omega)
  have ob : fldBv 5 W 10 = b := fldBv_eq W 10 b (by norm_num; omega)
  have ct : fld W 9 8 = t.code := (fld_eq W 9 8 256 4 rfl rfl).trans (by omega)
  have ot : FTy.ofCode (fld W 9 8) = t := by rw [ct]; exact FTy.ofCode_code t
  rw [dec_10 W m]
  simp [decodeFpu, chk, k1, k2, od, oa, ob, ot]

theorem fdiv (d : SReg) (a : SReg) (b : SReg) (t : FTy) : Statement (.fdiv d a b t) := by
  intro _ _
  have hd := d.isLt
  have ha := a.isLt
  have hb := b.isLt
  have ht := FTy.code_lt t
  have hw : (encode (.fdiv d a b t)).toNat = 0x20000030 + d.toNat * 1048576 + a.toNat * 32768 + b.toNat * 1024 + t.code * 256 := encode_toNat _ _ rfl (by omega)
  generalize encode (.fdiv d a b t) = W at hw ⊢
  have m : fld W 31 25 = 16 := (fld_eq W 31 25 33554432 128 rfl rfl).trans (by omega)
  have k1 : fld W 7 4 = 3 := (fld_eq W 7 4 16 16 rfl rfl).trans (by omega)
  have k2 : fld W 3 0 = 0 := (fld_eq W 3 0 1 16 rfl rfl).trans (by omega)
  have od : fldBv 5 W 20 = d := fldBv_eq W 20 d (by norm_num; omega)
  have oa : fldBv 5 W 15 = a := fldBv_eq W 15 a (by norm_num; omega)
  have ob : fldBv 5 W 10 = b := fldBv_eq W 10 b (by norm_num; omega)
  have ct : fld W 9 8 = t.code := (fld_eq W 9 8 256 4 rfl rfl).trans (by omega)
  have ot : FTy.ofCode (fld W 9 8) = t := by rw [ct]; exact FTy.ofCode_code t
  rw [dec_10 W m]
  simp [decodeFpu, chk, k1, k2, od, oa, ob, ot]

theorem fsqrt (d : SReg) (a : SReg) (t : FTy) : Statement (.fsqrt d a t) := by
  intro _ _
  have hd := d.isLt
  have ha := a.isLt
  have ht := FTy.code_lt t
  have hw : (encode (.fsqrt d a t)).toNat = 0x20000040 + d.toNat * 1048576 + a.toNat * 32768 + t.code * 256 := encode_toNat _ _ rfl (by omega)
  generalize encode (.fsqrt d a t) = W at hw ⊢
  have m : fld W 31 25 = 16 := (fld_eq W 31 25 33554432 128 rfl rfl).trans (by omega)
  have k1 : fld W 7 4 = 4 := (fld_eq W 7 4 16 16 rfl rfl).trans (by omega)
  have k2 : fld W 14 10 = 0 := (fld_eq W 14 10 1024 32 rfl rfl).trans (by omega)
  have k3 : fld W 3 0 = 0 := (fld_eq W 3 0 1 16 rfl rfl).trans (by omega)
  have od : fldBv 5 W 20 = d := fldBv_eq W 20 d (by norm_num; omega)
  have oa : fldBv 5 W 15 = a := fldBv_eq W 15 a (by norm_num; omega)
  have ct : fld W 9 8 = t.code := (fld_eq W 9 8 256 4 rfl rfl).trans (by omega)
  have ot : FTy.ofCode (fld W 9 8) = t := by rw [ct]; exact FTy.ofCode_code t
  rw [dec_10 W m]
  simp [decodeFpu, chk, k1, k2, k3, od, oa, ot]

theorem fmin (d : SReg) (a : SReg) (b : SReg) (t : FTy) : Statement (.fmin d a b t) := by
  intro _ _
  have hd := d.isLt
  have ha := a.isLt
  have hb := b.isLt
  have ht := FTy.code_lt t
  have hw : (encode (.fmin d a b t)).toNat = 0x20000050 + d.toNat * 1048576 + a.toNat * 32768 + b.toNat * 1024 + t.code * 256 := encode_toNat _ _ rfl (by omega)
  generalize encode (.fmin d a b t) = W at hw ⊢
  have m : fld W 31 25 = 16 := (fld_eq W 31 25 33554432 128 rfl rfl).trans (by omega)
  have k1 : fld W 7 4 = 5 := (fld_eq W 7 4 16 16 rfl rfl).trans (by omega)
  have k2 : fld W 3 0 = 0 := (fld_eq W 3 0 1 16 rfl rfl).trans (by omega)
  have od : fldBv 5 W 20 = d := fldBv_eq W 20 d (by norm_num; omega)
  have oa : fldBv 5 W 15 = a := fldBv_eq W 15 a (by norm_num; omega)
  have ob : fldBv 5 W 10 = b := fldBv_eq W 10 b (by norm_num; omega)
  have ct : fld W 9 8 = t.code := (fld_eq W 9 8 256 4 rfl rfl).trans (by omega)
  have ot : FTy.ofCode (fld W 9 8) = t := by rw [ct]; exact FTy.ofCode_code t
  rw [dec_10 W m]
  simp [decodeFpu, chk, k1, k2, od, oa, ob, ot]

theorem fmax (d : SReg) (a : SReg) (b : SReg) (t : FTy) : Statement (.fmax d a b t) := by
  intro _ _
  have hd := d.isLt
  have ha := a.isLt
  have hb := b.isLt
  have ht := FTy.code_lt t
  have hw : (encode (.fmax d a b t)).toNat = 0x20000060 + d.toNat * 1048576 + a.toNat * 32768 + b.toNat * 1024 + t.code * 256 := encode_toNat _ _ rfl (by omega)
  generalize encode (.fmax d a b t) = W at hw ⊢
  have m : fld W 31 25 = 16 := (fld_eq W 31 25 33554432 128 rfl rfl).trans (by omega)
  have k1 : fld W 7 4 = 6 := (fld_eq W 7 4 16 16 rfl rfl).trans (by omega)
  have k2 : fld W 3 0 = 0 := (fld_eq W 3 0 1 16 rfl rfl).trans (by omega)
  have od : fldBv 5 W 20 = d := fldBv_eq W 20 d (by norm_num; omega)
  have oa : fldBv 5 W 15 = a := fldBv_eq W 15 a (by norm_num; omega)
  have ob : fldBv 5 W 10 = b := fldBv_eq W 10 b (by norm_num; omega)
  have ct : fld W 9 8 = t.code := (fld_eq W 9 8 256 4 rfl rfl).trans (by omega)
  have ot : FTy.ofCode (fld W 9 8) = t := by rw [ct]; exact FTy.ofCode_code t
  rw [dec_10 W m]
  simp [decodeFpu, chk, k1, k2, od, oa, ob, ot]

theorem feq (d : SReg) (a : SReg) (b : SReg) (t : FTy) : Statement (.feq d a b t) := by
  intro _ _
  have hd := d.isLt
  have ha := a.isLt
  have hb := b.isLt
  have ht := FTy.code_lt t
  have hw : (encode (.feq d a b t)).toNat = 0x20000070 + d.toNat * 1048576 + a.toNat * 32768 + b.toNat * 1024 + t.code * 256 := encode_toNat _ _ rfl (by omega)
  generalize encode (.feq d a b t) = W at hw ⊢
  have m : fld W 31 25 = 16 := (fld_eq W 31 25 33554432 128 rfl rfl).trans (by omega)
  have k1 : fld W 7 4 = 7 := (fld_eq W 7 4 16 16 rfl rfl).trans (by omega)
  have k2 : fld W 3 0 = 0 := (fld_eq W 3 0 1 16 rfl rfl).trans (by omega)
  have od : fldBv 5 W 20 = d := fldBv_eq W 20 d (by norm_num; omega)
  have oa : fldBv 5 W 15 = a := fldBv_eq W 15 a (by norm_num; omega)
  have ob : fldBv 5 W 10 = b := fldBv_eq W 10 b (by norm_num; omega)
  have ct : fld W 9 8 = t.code := (fld_eq W 9 8 256 4 rfl rfl).trans (by omega)
  have ot : FTy.ofCode (fld W 9 8) = t := by rw [ct]; exact FTy.ofCode_code t
  rw [dec_10 W m]
  simp [decodeFpu, chk, k1, k2, od, oa, ob, ot]

theorem flt (d : SReg) (a : SReg) (b : SReg) (t : FTy) : Statement (.flt d a b t) := by
  intro _ _
  have hd := d.isLt
  have ha := a.isLt
  have hb := b.isLt
  have ht := FTy.code_lt t
  have hw : (encode (.flt d a b t)).toNat = 0x20000080 + d.toNat * 1048576 + a.toNat * 32768 + b.toNat * 1024 + t.code * 256 := encode_toNat _ _ rfl (by omega)
  generalize encode (.flt d a b t) = W at hw ⊢
  have m : fld W 31 25 = 16 := (fld_eq W 31 25 33554432 128 rfl rfl).trans (by omega)
  have k1 : fld W 7 4 = 8 := (fld_eq W 7 4 16 16 rfl rfl).trans (by omega)
  have k2 : fld W 3 0 = 0 := (fld_eq W 3 0 1 16 rfl rfl).trans (by omega)
  have od : fldBv 5 W 20 = d := fldBv_eq W 20 d (by norm_num; omega)
  have oa : fldBv 5 W 15 = a := fldBv_eq W 15 a (by norm_num; omega)
  have ob : fldBv 5 W 10 = b := fldBv_eq W 10 b (by norm_num; omega)
  have ct : fld W 9 8 = t.code := (fld_eq W 9 8 256 4 rfl rfl).trans (by omega)
  have ot : FTy.ofCode (fld W 9 8) = t := by rw [ct]; exact FTy.ofCode_code t
  rw [dec_10 W m]
  simp [decodeFpu, chk, k1, k2, od, oa, ob, ot]

theorem fle (d : SReg) (a : SReg) (b : SReg) (t : FTy) : Statement (.fle d a b t) := by
  intro _ _
  have hd := d.isLt
  have ha := a.isLt
  have hb := b.isLt
  have ht := FTy.code_lt t
  have hw : (encode (.fle d a b t)).toNat = 0x20000090 + d.toNat * 1048576 + a.toNat * 32768 + b.toNat * 1024 + t.code * 256 := encode_toNat _ _ rfl (by omega)
  generalize encode (.fle d a b t) = W at hw ⊢
  have m : fld W 31 25 = 16 := (fld_eq W 31 25 33554432 128 rfl rfl).trans (by omega)
  have k1 : fld W 7 4 = 9 := (fld_eq W 7 4 16 16 rfl rfl).trans (by omega)
  have k2 : fld W 3 0 = 0 := (fld_eq W 3 0 1 16 rfl rfl).trans (by omega)
  have od : fldBv 5 W 20 = d := fldBv_eq W 20 d (by norm_num; omega)
  have oa : fldBv 5 W 15 = a := fldBv_eq W 15 a (by norm_num; omega)
  have ob : fldBv 5 W 10 = b := fldBv_eq W 10 b (by norm_num; omega)
  have ct : fld W 9 8 = t.code := (fld_eq W 9 8 256 4 rfl rfl).trans (by omega)
  have ot : FTy.ofCode (fld W 9 8) = t := by rw [ct]; exact FTy.ofCode_code t
  rw [dec_10 W m]
  simp [decodeFpu, chk, k1, k2, od, oa, ob, ot]

theorem fclass (d : SReg) (a : SReg) (t : FTy) : Statement (.fclass d a t) := by
  intro _ _
  have hd := d.isLt
  have ha := a.isLt
  have ht := FTy.code_lt t
  have hw : (encode (.fclass d a t)).toNat = 0x200000A0 + d.toNat * 1048576 + a.toNat * 32768 + t.code * 256 := encode_toNat _ _ rfl (by omega)
  generalize encode (.fclass d a t) = W at hw ⊢
  have m : fld W 31 25 = 16 := (fld_eq W 31 25 33554432 128 rfl rfl).trans (by omega)
  have k1 : fld W 7 4 = 10 := (fld_eq W 7 4 16 16 rfl rfl).trans (by omega)
  have k2 : fld W 14 10 = 0 := (fld_eq W 14 10 1024 32 rfl rfl).trans (by omega)
  have k3 : fld W 3 0 = 0 := (fld_eq W 3 0 1 16 rfl rfl).trans (by omega)
  have od : fldBv 5 W 20 = d := fldBv_eq W 20 d (by norm_num; omega)
  have oa : fldBv 5 W 15 = a := fldBv_eq W 15 a (by norm_num; omega)
  have ct : fld W 9 8 = t.code := (fld_eq W 9 8 256 4 rfl rfl).trans (by omega)
  have ot : FTy.ofCode (fld W 9 8) = t := by rw [ct]; exact FTy.ofCode_code t
  rw [dec_10 W m]
  simp [decodeFpu, chk, k1, k2, k3, od, oa, ot]

theorem fcvtFF (d : SReg) (a : SReg) (t : FTy) (s : FTy) : Statement (.fcvtFF d a t s) := by
  intro hwf _
  simp [WellFormed] at hwf
  have hd := d.isLt
  have ha := a.isLt
  have ht := FTy.code_lt t
  have hs := FTy.code_lt s
  have hw : (encode (.fcvtFF d a t s)).toNat = 0x200000B0 + d.toNat * 1048576 + a.toNat * 32768 + t.code * 256 + s.code * 1 := encode_toNat _ _ rfl (by omega)
  generalize encode (.fcvtFF d a t s) = W at hw ⊢
  have m : fld W 31 25 = 16 := (fld_eq W 31 25 33554432 128 rfl rfl).trans (by omega)
  have k1 : fld W 7 4 = 11 := (fld_eq W 7 4 16 16 rfl rfl).trans (by omega)
  have k2 : fld W 3 2 = 0 := (fld_eq W 3 2 4 4 rfl rfl).trans (by omega)
  have k3 : fld W 14 10 = 0 := (fld_eq W 14 10 1024 32 rfl rfl).trans (by omega)
  have od : fldBv 5 W 20 = d := fldBv_eq W 20 d (by norm_num; omega)
  have oa : fldBv 5 W 15 = a := fldBv_eq W 15 a (by norm_num; omega)
  have ct : fld W 9 8 = t.code := (fld_eq W 9 8 256 4 rfl rfl).trans (by omega)
  have ot : FTy.ofCode (fld W 9 8) = t := by rw [ct]; exact FTy.ofCode_code t
  have cs : fld W 1 0 = s.code := (fld_eq W 1 0 1 4 rfl rfl).trans (by omega)
  have os : FTy.ofCode (fld W 1 0) = s := by rw [cs]; exact FTy.ofCode_code s
  have k4 : fld W 9 8 ≠ fld W 1 0 := by
    rw [ct, cs]; exact fun h => hwf (FTy.code_inj h)
  rw [dec_10 W m]
  simp [decodeFpu, chk, k1, k2, k3, od, oa, ot, os, k4]

theorem fcvtFI (d : SReg) (a : SReg) (t : FTy) (s : ITy) : Statement (.fcvtFI d a t s) := by
  intro _ _
  have hd := d.isLt
  have ha := a.isLt
  have ht := FTy.code_lt t
  have hs := ITy.code_lt s
  have hw : (encode (.fcvtFI d a t s)).toNat = 0x200000B4 + d.toNat * 1048576 + a.toNat * 32768 + t.code * 256 + s.code * 1 := encode_toNat _ _ rfl (by omega)
  generalize encode (.fcvtFI d a t s) = W at hw ⊢
  have m : fld W 31 25 = 16 := (fld_eq W 31 25 33554432 128 rfl rfl).trans (by omega)
  have k1 : fld W 7 4 = 11 := (fld_eq W 7 4 16 16 rfl rfl).trans (by omega)
  have k2 : fld W 3 2 = 1 := (fld_eq W 3 2 4 4 rfl rfl).trans (by omega)
  have k3 : fld W 14 10 = 0 := (fld_eq W 14 10 1024 32 rfl rfl).trans (by omega)
  have od : fldBv 5 W 20 = d := fldBv_eq W 20 d (by norm_num; omega)
  have oa : fldBv 5 W 15 = a := fldBv_eq W 15 a (by norm_num; omega)
  have ct : fld W 9 8 = t.code := (fld_eq W 9 8 256 4 rfl rfl).trans (by omega)
  have ot : FTy.ofCode (fld W 9 8) = t := by rw [ct]; exact FTy.ofCode_code t
  have cs : fld W 1 0 = s.code := (fld_eq W 1 0 1 4 rfl rfl).trans (by omega)
  have os : ITy.ofCode (fld W 1 0) = s := by rw [cs]; exact ITy.ofCode_code s
  rw [dec_10 W m]
  simp [decodeFpu, chk, k1, k2, k3, od, oa, ot, os]

theorem fcvtIF (d : SReg) (a : SReg) (t : FTy) (s : ITy) : Statement (.fcvtIF d a t s) := by
  intro _ _
  have hd := d.isLt
  have ha := a.isLt
  have ht := FTy.code_lt t
  have hs := ITy.code_lt s
  have hw : (encode (.fcvtIF d a t s)).toNat = 0x200000B8 + d.toNat * 1048576 + a.toNat * 32768 + t.code * 256 + s.code * 1 := encode_toNat _ _ rfl (by omega)
  generalize encode (.fcvtIF d a t s) = W at hw ⊢
  have m : fld W 31 25 = 16 := (fld_eq W 31 25 33554432 128 rfl rfl).trans (by omega)
  have k1 : fld W 7 4 = 11 := (fld_eq W 7 4 16 16 rfl rfl).trans (by omega)
  have k2 : fld W 3 2 = 2 := (fld_eq W 3 2 4 4 rfl rfl).trans (by omega)
  have k3 : fld W 14 10 = 0 := (fld_eq W 14 10 1024 32 rfl rfl).trans (by omega)
  have od : fldBv 5 W 20 = d := fldBv_eq W 20 d (by norm_num; omega)
  have oa : fldBv 5 W 15 = a := fldBv_eq W 15 a (by norm_num; omega)
  have ct : fld W 9 8 = t.code := (fld_eq W 9 8 256 4 rfl rfl).trans (by omega)
  have ot : FTy.ofCode (fld W 9 8) = t := by rw [ct]; exact FTy.ofCode_code t
  have cs : fld W 1 0 = s.code := (fld_eq W 1 0 1 4 rfl rfl).trans (by omega)
  have os : ITy.ofCode (fld W 1 0) = s := by rw [cs]; exact ITy.ofCode_code s
  rw [dec_10 W m]
  simp [decodeFpu, chk, k1, k2, k3, od, oa, ot, os]

theorem fsgnj (d : SReg) (a : SReg) (b : SReg) (t : FTy) : Statement (.fsgnj d a b t) := by
  intro _ _
  have hd := d.isLt
  have ha := a.isLt
  have hb := b.isLt
  have ht := FTy.code_lt t
  have hw : (encode (.fsgnj d a b t)).toNat = 0x200000C0 + d.toNat * 1048576 + a.toNat * 32768 + b.toNat * 1024 + t.code * 256 := encode_toNat _ _ rfl (by omega)
  generalize encode (.fsgnj d a b t) = W at hw ⊢
  have m : fld W 31 25 = 16 := (fld_eq W 31 25 33554432 128 rfl rfl).trans (by omega)
  have k1 : fld W 7 4 = 12 := (fld_eq W 7 4 16 16 rfl rfl).trans (by omega)
  have k2 : fld W 3 0 = 0 := (fld_eq W 3 0 1 16 rfl rfl).trans (by omega)
  have od : fldBv 5 W 20 = d := fldBv_eq W 20 d (by norm_num; omega)
  have oa : fldBv 5 W 15 = a := fldBv_eq W 15 a (by norm_num; omega)
  have ob : fldBv 5 W 10 = b := fldBv_eq W 10 b (by norm_num; omega)
  have ct : fld W 9 8 = t.code := (fld_eq W 9 8 256 4 rfl rfl).trans (by omega)
  have ot : FTy.ofCode (fld W 9 8) = t := by rw [ct]; exact FTy.ofCode_code t
  rw [dec_10 W m]
  simp [decodeFpu, chk, k1, k2, od, oa, ob, ot]

theorem fsgnjN (d : SReg) (a : SReg) (b : SReg) (t : FTy) : Statement (.fsgnjN d a b t) := by
  intro _ _
  have hd := d.isLt
  have ha := a.isLt
  have hb := b.isLt
  have ht := FTy.code_lt t
  have hw : (encode (.fsgnjN d a b t)).toNat = 0x200000C1 + d.toNat * 1048576 + a.toNat * 32768 + b.toNat * 1024 + t.code * 256 := encode_toNat _ _ rfl (by omega)
  generalize encode (.fsgnjN d a b t) = W at hw ⊢
  have m : fld W 31 25 = 16 := (fld_eq W 31 25 33554432 128 rfl rfl).trans (by omega)
  have k1 : fld W 7 4 = 12 := (fld_eq W 7 4 16 16 rfl rfl).trans (by omega)
  have k2 : fld W 3 0 = 1 := (fld_eq W 3 0 1 16 rfl rfl).trans (by omega)
  have od : fldBv 5 W 20 = d := fldBv_eq W 20 d (by norm_num; omega)
  have oa : fldBv 5 W 15 = a := fldBv_eq W 15 a (by norm_num; omega)
  have ob : fldBv 5 W 10 = b := fldBv_eq W 10 b (by norm_num; omega)
  have ct : fld W 9 8 = t.code := (fld_eq W 9 8 256 4 rfl rfl).trans (by omega)
  have ot : FTy.ofCode (fld W 9 8) = t := by rw [ct]; exact FTy.ofCode_code t
  rw [dec_10 W m]
  simp [decodeFpu, chk, k1, k2, od, oa, ob, ot]

theorem fsgnjX (d : SReg) (a : SReg) (b : SReg) (t : FTy) : Statement (.fsgnjX d a b t) := by
  intro _ _
  have hd := d.isLt
  have ha := a.isLt
  have hb := b.isLt
  have ht := FTy.code_lt t
  have hw : (encode (.fsgnjX d a b t)).toNat = 0x200000C2 + d.toNat * 1048576 + a.toNat * 32768 + b.toNat * 1024 + t.code * 256 := encode_toNat _ _ rfl (by omega)
  generalize encode (.fsgnjX d a b t) = W at hw ⊢
  have m : fld W 31 25 = 16 := (fld_eq W 31 25 33554432 128 rfl rfl).trans (by omega)
  have k1 : fld W 7 4 = 12 := (fld_eq W 7 4 16 16 rfl rfl).trans (by omega)
  have k2 : fld W 3 0 = 2 := (fld_eq W 3 0 1 16 rfl rfl).trans (by omega)
  have od : fldBv 5 W 20 = d := fldBv_eq W 20 d (by norm_num; omega)
  have oa : fldBv 5 W 15 = a := fldBv_eq W 15 a (by norm_num; omega)
  have ob : fldBv 5 W 10 = b := fldBv_eq W 10 b (by norm_num; omega)
  have ct : fld W 9 8 = t.code := (fld_eq W 9 8 256 4 rfl rfl).trans (by omega)
  have ot : FTy.ofCode (fld W 9 8) = t := by rw [ct]; exact FTy.ofCode_code t
  rw [dec_10 W m]
  simp [decodeFpu, chk, k1, k2, od, oa, ob, ot]

theorem ffma (d : SReg) (a : SReg) (b : SReg) (c : SReg) (t : FTy) : Statement (.ffma d a b c t) := by
  intro _ _
  have hd := d.isLt
  have ha := a.isLt
  have hb := b.isLt
  have hc := c.isLt
  have ht := FTy.code_lt t
  have hw : (encode (.ffma d a b c t)).toNat = 0x22000000 + d.toNat * 1048576 + a.toNat * 32768 + b.toNat * 1024 + c.toNat * 32 + t.code * 4 := encode_toNat _ _ rfl (by omega)
  generalize encode (.ffma d a b c t) = W at hw ⊢
  have m : fld W 31 25 = 17 := (fld_eq W 31 25 33554432 128 rfl rfl).trans (by omega)
  have k1 : fld W 1 0 = 0 := (fld_eq W 1 0 1 4 rfl rfl).trans (by omega)
  have k2 : fld W 4 4 = 0 := (fld_eq W 4 4 16 2 rfl rfl).trans (by omega)
  have od : fldBv 5 W 20 = d := fldBv_eq W 20 d (by norm_num; omega)
  have oa : fldBv 5 W 15 = a := fldBv_eq W 15 a (by norm_num; omega)
  have ob : fldBv 5 W 10 = b := fldBv_eq W 10 b (by norm_num; omega)
  have oc : fldBv 5 W 5 = c := fldBv_eq W 5 c (by norm_num; omega)
  have ct : fld W 3 2 = t.code := (fld_eq W 3 2 4 4 rfl rfl).trans (by omega)
  have ot : FTy.ofCode (fld W 3 2) = t := by rw [ct]; exact FTy.ofCode_code t
  rw [dec_11 W m]
  simp [decodeFfma, chk, k1, k2, od, oa, ob, oc, ot]

theorem ffms (d : SReg) (a : SReg) (b : SReg) (c : SReg) (t : FTy) : Statement (.ffms d a b c t) := by
  intro _ _
  have hd := d.isLt
  have ha := a.isLt
  have hb := b.isLt
  have hc := c.isLt
  have ht := FTy.code_lt t
  have hw : (encode (.ffms d a b c t)).toNat = 0x22000001 + d.toNat * 1048576 + a.toNat * 32768 + b.toNat * 1024 + c.toNat * 32 + t.code * 4 := encode_toNat _ _ rfl (by omega)
  generalize encode (.ffms d a b c t) = W at hw ⊢
  have m : fld W 31 25 = 17 := (fld_eq W 31 25 33554432 128 rfl rfl).trans (by omega)
  have k1 : fld W 1 0 = 1 := (fld_eq W 1 0 1 4 rfl rfl).trans (by omega)
  have k2 : fld W 4 4 = 0 := (fld_eq W 4 4 16 2 rfl rfl).trans (by omega)
  have od : fldBv 5 W 20 = d := fldBv_eq W 20 d (by norm_num; omega)
  have oa : fldBv 5 W 15 = a := fldBv_eq W 15 a (by norm_num; omega)
  have ob : fldBv 5 W 10 = b := fldBv_eq W 10 b (by norm_num; omega)
  have oc : fldBv 5 W 5 = c := fldBv_eq W 5 c (by norm_num; omega)
  have ct : fld W 3 2 = t.code := (fld_eq W 3 2 4 4 rfl rfl).trans (by omega)
  have ot : FTy.ofCode (fld W 3 2) = t := by rw [ct]; exact FTy.ofCode_code t
  rw [dec_11 W m]
  simp [decodeFfma, chk, k1, k2, od, oa, ob, oc, ot]

theorem ffnma (d : SReg) (a : SReg) (b : SReg) (c : SReg) (t : FTy) : Statement (.ffnma d a b c t) := by
  intro _ _
  have hd := d.isLt
  have ha := a.isLt
  have hb := b.isLt
  have hc := c.isLt
  have ht := FTy.code_lt t
  have hw : (encode (.ffnma d a b c t)).toNat = 0x22000002 + d.toNat * 1048576 + a.toNat * 32768 + b.toNat * 1024 + c.toNat * 32 + t.code * 4 := encode_toNat _ _ rfl (by omega)
  generalize encode (.ffnma d a b c t) = W at hw ⊢
  have m : fld W 31 25 = 17 := (fld_eq W 31 25 33554432 128 rfl rfl).trans (by omega)
  have k1 : fld W 1 0 = 2 := (fld_eq W 1 0 1 4 rfl rfl).trans (by omega)
  have k2 : fld W 4 4 = 0 := (fld_eq W 4 4 16 2 rfl rfl).trans (by omega)
  have od : fldBv 5 W 20 = d := fldBv_eq W 20 d (by norm_num; omega)
  have oa : fldBv 5 W 15 = a := fldBv_eq W 15 a (by norm_num; omega)
  have ob : fldBv 5 W 10 = b := fldBv_eq W 10 b (by norm_num; omega)
  have oc : fldBv 5 W 5 = c := fldBv_eq W 5 c (by norm_num; omega)
  have ct : fld W 3 2 = t.code := (fld_eq W 3 2 4 4 rfl rfl).trans (by omega)
  have ot : FTy.ofCode (fld W 3 2) = t := by rw [ct]; exact FTy.ofCode_code t
  rw [dec_11 W m]
  simp [decodeFfma, chk, k1, k2, od, oa, ob, oc, ot]

theorem ffnms (d : SReg) (a : SReg) (b : SReg) (c : SReg) (t : FTy) : Statement (.ffnms d a b c t) := by
  intro _ _
  have hd := d.isLt
  have ha := a.isLt
  have hb := b.isLt
  have hc := c.isLt
  have ht := FTy.code_lt t
  have hw : (encode (.ffnms d a b c t)).toNat = 0x22000003 + d.toNat * 1048576 + a.toNat * 32768 + b.toNat * 1024 + c.toNat * 32 + t.code * 4 := encode_toNat _ _ rfl (by omega)
  generalize encode (.ffnms d a b c t) = W at hw ⊢
  have m : fld W 31 25 = 17 := (fld_eq W 31 25 33554432 128 rfl rfl).trans (by omega)
  have k1 : fld W 1 0 = 3 := (fld_eq W 1 0 1 4 rfl rfl).trans (by omega)
  have k2 : fld W 4 4 = 0 := (fld_eq W 4 4 16 2 rfl rfl).trans (by omega)
  have od : fldBv 5 W 20 = d := fldBv_eq W 20 d (by norm_num; omega)
  have oa : fldBv 5 W 15 = a := fldBv_eq W 15 a (by norm_num; omega)
  have ob : fldBv 5 W 10 = b := fldBv_eq W 10 b (by norm_num; omega)
  have oc : fldBv 5 W 5 = c := fldBv_eq W 5 c (by norm_num; omega)
  have ct : fld W 3 2 = t.code := (fld_eq W 3 2 4 4 rfl rfl).trans (by omega)
  have ot : FTy.ofCode (fld W 3 2) = t := by rw [ct]; exact FTy.ofCode_code t
  rw [dec_11 W m]
  simp [decodeFfma, chk, k1, k2, od, oa, ob, oc, ot]

theorem beq (a : SReg) (b : SReg) (o : BitVec 15) : Statement (.beq a b o) := by
  intro _ _
  have ha := a.isLt
  have hb := b.isLt
  have ho := o.isLt
  have hw : (encode (.beq a b o)).toNat = 0x24000000 + a.toNat * 1048576 + b.toNat * 32768 + o.toNat * 1 := encode_toNat _ _ rfl (by omega)
  generalize encode (.beq a b o) = W at hw ⊢
  have m : fld W 31 25 = 18 := (fld_eq W 31 25 33554432 128 rfl rfl).trans (by omega)
  have oa : fldBv 5 W 20 = a := fldBv_eq W 20 a (by norm_num; omega)
  have ob : fldBv 5 W 15 = b := fldBv_eq W 15 b (by norm_num; omega)
  have oo : fldBv 15 W 0 = o := fldBv_eq W 0 o (by norm_num; omega)
  rw [dec_12 W m]
  simp [decodeBeq, chk, oa, ob, oo]

theorem bne (a : SReg) (b : SReg) (o : BitVec 15) : Statement (.bne a b o) := by
  intro _ _
  have ha := a.isLt
  have hb := b.isLt
  have ho := o.isLt
  have hw : (encode (.bne a b o)).toNat = 0x26000000 + a.toNat * 1048576 + b.toNat * 32768 + o.toNat * 1 := encode_toNat _ _ rfl (by omega)
  generalize encode (.bne a b o) = W at hw ⊢
  have m : fld W 31 25 = 19 := (fld_eq W 31 25 33554432 128 rfl rfl).trans (by omega)
  have oa : fldBv 5 W 20 = a := fldBv_eq W 20 a (by norm_num; omega)
  have ob : fldBv 5 W 15 = b := fldBv_eq W 15 b (by norm_num; omega)
  have oo : fldBv 15 W 0 = o := fldBv_eq W 0 o (by norm_num; omega)
  rw [dec_13 W m]
  simp [decodeBne, chk, oa, ob, oo]

theorem blt (a : SReg) (b : SReg) (o : BitVec 15) : Statement (.blt a b o) := by
  intro _ _
  have ha := a.isLt
  have hb := b.isLt
  have ho := o.isLt
  have hw : (encode (.blt a b o)).toNat = 0x28000000 + a.toNat * 1048576 + b.toNat * 32768 + o.toNat * 1 := encode_toNat _ _ rfl (by omega)
  generalize encode (.blt a b o) = W at hw ⊢
  have m : fld W 31 25 = 20 := (fld_eq W 31 25 33554432 128 rfl rfl).trans (by omega)
  have oa : fldBv 5 W 20 = a := fldBv_eq W 20 a (by norm_num; omega)
  have ob : fldBv 5 W 15 = b := fldBv_eq W 15 b (by norm_num; omega)
  have oo : fldBv 15 W 0 = o := fldBv_eq W 0 o (by norm_num; omega)
  rw [dec_14 W m]
  simp [decodeBlt, chk, oa, ob, oo]

theorem bge (a : SReg) (b : SReg) (o : BitVec 15) : Statement (.bge a b o) := by
  intro _ _
  have ha := a.isLt
  have hb := b.isLt
  have ho := o.isLt
  have hw : (encode (.bge a b o)).toNat = 0x2A000000 + a.toNat * 1048576 + b.toNat * 32768 + o.toNat * 1 := encode_toNat _ _ rfl (by omega)
  generalize encode (.bge a b o) = W at hw ⊢
  have m : fld W 31 25 = 21 := (fld_eq W 31 25 33554432 128 rfl rfl).trans (by omega)
  have oa : fldBv 5 W 20 = a := fldBv_eq W 20 a (by norm_num; omega)
  have ob : fldBv 5 W 15 = b := fldBv_eq W 15 b (by norm_num; omega)
  have oo : fldBv 15 W 0 = o := fldBv_eq W 0 o (by norm_num; omega)
  rw [dec_15 W m]
  simp [decodeBge, chk, oa, ob, oo]

theorem bltu (a : SReg) (b : SReg) (o : BitVec 15) : Statement (.bltu a b o) := by
  intro _ _
  have ha := a.isLt
  have hb := b.isLt
  have ho := o.isLt
  have hw : (encode (.bltu a b o)).toNat = 0x2C000000 + a.toNat * 1048576 + b.toNat * 32768 + o.toNat * 1 := encode_toNat _ _ rfl (by omega)
  generalize encode (.bltu a b o) = W at hw ⊢
  have m : fld W 31 25 = 22 := (fld_eq W 31 25 33554432 128 rfl rfl).trans (by omega)
  have oa : fldBv 5 W 20 = a := fldBv_eq W 20 a (by norm_num; omega)
  have ob : fldBv 5 W 15 = b := fldBv_eq W 15 b (by norm_num; omega)
  have oo : fldBv 15 W 0 = o := fldBv_eq W 0 o (by norm_num; omega)
  rw [dec_16 W m]
  simp [decodeBltu, chk, oa, ob, oo]

theorem bgeu (a : SReg) (b : SReg) (o : BitVec 15) : Statement (.bgeu a b o) := by
  intro _ _
  have ha := a.isLt
  have hb := b.isLt
  have ho := o.isLt
  have hw : (encode (.bgeu a b o)).toNat = 0x2E000000 + a.toNat * 1048576 + b.toNat * 32768 + o.toNat * 1 := encode_toNat _ _ rfl (by omega)
  generalize encode (.bgeu a b o) = W at hw ⊢
  have m : fld W 31 25 = 23 := (fld_eq W 31 25 33554432 128 rfl rfl).trans (by omega)
  have oa : fldBv 5 W 20 = a := fldBv_eq W 20 a (by norm_num; omega)
  have ob : fldBv 5 W 15 = b := fldBv_eq W 15 b (by norm_num; omega)
  have oo : fldBv 15 W 0 = o := fldBv_eq W 0 o (by norm_num; omega)
  rw [dec_17 W m]
  simp [decodeBgeu, chk, oa, ob, oo]

theorem jal (o : BitVec 25) : Statement (.jal o) := by
  intro _ _
  have ho := o.isLt
  have hw : (encode (.jal o)).toNat = 0x30000000 + o.toNat * 1 := encode_toNat _ _ rfl (by omega)
  generalize encode (.jal o) = W at hw ⊢
  have m : fld W 31 25 = 24 := (fld_eq W 31 25 33554432 128 rfl rfl).trans (by omega)
  have oo : fldBv 25 W 0 = o := fldBv_eq W 0 o (by norm_num; omega)
  rw [dec_18 W m]
  simp [decodeJal, chk, oo]

theorem jalr (d : SReg) (a : SReg) (i : BitVec 15) : Statement (.jalr d a i) := by
  intro _ _
  have hd := d.isLt
  have ha := a.isLt
  have hi := i.isLt
  have hw : (encode (.jalr d a i)).toNat = 0x32000000 + d.toNat * 1048576 + a.toNat * 32768 + i.toNat * 1 := encode_toNat _ _ rfl (by omega)
  generalize encode (.jalr d a i) = W at hw ⊢
  have m : fld W 31 25 = 25 := (fld_eq W 31 25 33554432 128 rfl rfl).trans (by omega)
  have od : fldBv 5 W 20 = d := fldBv_eq W 20 d (by norm_num; omega)
  have oa : fldBv 5 W 15 = a := fldBv_eq W 15 a (by norm_num; omega)
  have oi : fldBv 15 W 0 = i := fldBv_eq W 0 i (by norm_num; omega)
  rw [dec_19 W m]
  simp [decodeJalr, chk, od, oa, oi]

theorem loop (n : BitVec 1) (a : SReg) (e : BitVec 15) : Statement (.loop n a e) := by
  intro hwf _
  simp [WellFormed] at hwf
  have hn := n.isLt
  have ha := a.isLt
  have he := e.isLt
  have hw : (encode (.loop n a e)).toNat = 0x34000000 + n.toNat * 16777216 + a.toNat * 32768 + e.toNat * 1 := encode_toNat _ _ rfl (by omega)
  generalize encode (.loop n a e) = W at hw ⊢
  have m : fld W 31 25 = 26 := (fld_eq W 31 25 33554432 128 rfl rfl).trans (by omega)
  have k1 : fld W 23 20 = 0 := (fld_eq W 23 20 1048576 16 rfl rfl).trans (by omega)
  have on : fldBv 1 W 24 = n := fldBv_eq W 24 n (by norm_num; omega)
  have oa : fldBv 5 W 15 = a := fldBv_eq W 15 a (by norm_num; omega)
  have oe : fldBv 15 W 0 = e := fldBv_eq W 0 e (by norm_num; omega)
  have k2 : fld W 14 0 ≠ 0 := by
    rw [fld_eq W 14 0 1 32768 rfl rfl]
    have h : e.toNat ≠ 0 := fun h => hwf (BitVec.eq_of_toNat_eq h)
    omega
  rw [dec_1a W m]
  simp [decodeLoop, chk, k1, on, oa, oe, k2]

theorem loopi (n : BitVec 1) (c : BitVec 12) (e : BitVec 8) : Statement (.loopi n c e) := by
  intro hwf _
  simp [WellFormed] at hwf
  have hn := n.isLt
  have hc := c.isLt
  have he := e.isLt
  have hw : (encode (.loopi n c e)).toNat = 0x34100000 + n.toNat * 16777216 + c.toNat * 256 + e.toNat * 1 := encode_toNat _ _ rfl (by omega)
  generalize encode (.loopi n c e) = W at hw ⊢
  have m : fld W 31 25 = 26 := (fld_eq W 31 25 33554432 128 rfl rfl).trans (by omega)
  have k1 : fld W 23 20 = 1 := (fld_eq W 23 20 1048576 16 rfl rfl).trans (by omega)
  have on : fldBv 1 W 24 = n := fldBv_eq W 24 n (by norm_num; omega)
  have oc : fldBv 12 W 8 = c := fldBv_eq W 8 c (by norm_num; omega)
  have oe : fldBv 8 W 0 = e := fldBv_eq W 0 e (by norm_num; omega)
  have k2 : fld W 7 0 ≠ 0 := by
    rw [fld_eq W 7 0 1 256 rfl rfl]
    have h : e.toNat ≠ 0 := fun h => hwf (BitVec.eq_of_toNat_eq h)
    omega
  rw [dec_1a W m]
  simp [decodeLoop, chk, k1, on, oc, oe, k2]

theorem vloop (n : BitVec 1) (a : SReg) (e : BitVec 15) : Statement (.vloop n a e) := by
  intro hwf _
  simp [WellFormed] at hwf
  have hn := n.isLt
  have ha := a.isLt
  have he := e.isLt
  have hw : (encode (.vloop n a e)).toNat = 0x34200000 + n.toNat * 16777216 + a.toNat * 32768 + e.toNat * 1 := encode_toNat _ _ rfl (by omega)
  generalize encode (.vloop n a e) = W at hw ⊢
  have m : fld W 31 25 = 26 := (fld_eq W 31 25 33554432 128 rfl rfl).trans (by omega)
  have k1 : fld W 23 20 = 2 := (fld_eq W 23 20 1048576 16 rfl rfl).trans (by omega)
  have on : fldBv 1 W 24 = n := fldBv_eq W 24 n (by norm_num; omega)
  have oa : fldBv 5 W 15 = a := fldBv_eq W 15 a (by norm_num; omega)
  have oe : fldBv 15 W 0 = e := fldBv_eq W 0 e (by norm_num; omega)
  have k2 : fld W 14 0 ≠ 0 := by
    rw [fld_eq W 14 0 1 32768 rfl rfl]
    have h : e.toNat ≠ 0 := fun h => hwf (BitVec.eq_of_toNat_eq h)
    omega
  rw [dec_1a W m]
  simp [decodeLoop, chk, k1, on, oa, oe, k2]

theorem lpclr (n : BitVec 1) : Statement (.lpclr n) := by
  intro _ _
  have hn := n.isLt
  have hw : (encode (.lpclr n)).toNat = 0x34300000 + n.toNat * 16777216 := encode_toNat _ _ rfl (by omega)
  generalize encode (.lpclr n) = W at hw ⊢
  have m : fld W 31 25 = 26 := (fld_eq W 31 25 33554432 128 rfl rfl).trans (by omega)
  have k1 : fld W 23 20 = 3 := (fld_eq W 23 20 1048576 16 rfl rfl).trans (by omega)
  have k2 : fld W 19 0 = 0 := (fld_eq W 19 0 1 1048576 rfl rfl).trans (by omega)
  have on : fldBv 1 W 24 = n := fldBv_eq W 24 n (by norm_num; omega)
  rw [dec_1a W m]
  simp [decodeLoop, chk, k1, k2, on]

theorem bqput (a : SReg) : Statement (.bqput a) := by
  intro _ _
  have ha := a.isLt
  have hw : (encode (.bqput a)).toNat = 0x36000000 + a.toNat * 32768 := encode_toNat _ _ rfl (by omega)
  generalize encode (.bqput a) = W at hw ⊢
  have m : fld W 31 25 = 27 := (fld_eq W 31 25 33554432 128 rfl rfl).trans (by omega)
  have k1 : fld W 24 20 = 0 := (fld_eq W 24 20 1048576 32 rfl rfl).trans (by omega)
  have k2 : fld W 14 0 = 0 := (fld_eq W 14 0 1 32768 rfl rfl).trans (by omega)
  have oa : fldBv 5 W 15 = a := fldBv_eq W 15 a (by norm_num; omega)
  rw [dec_1b W m]
  simp [decodeQbr, chk, k1, k2, oa]

theorem bqb (o : BitVec 15) : Statement (.bqb o) := by
  intro _ _
  have ho := o.isLt
  have hw : (encode (.bqb o)).toNat = 0x36100000 + o.toNat * 1 := encode_toNat _ _ rfl (by omega)
  generalize encode (.bqb o) = W at hw ⊢
  have m : fld W 31 25 = 27 := (fld_eq W 31 25 33554432 128 rfl rfl).trans (by omega)
  have k1 : fld W 24 20 = 1 := (fld_eq W 24 20 1048576 32 rfl rfl).trans (by omega)
  have k2 : fld W 19 15 = 0 := (fld_eq W 19 15 32768 32 rfl rfl).trans (by omega)
  have oo : fldBv 15 W 0 = o := fldBv_eq W 0 o (by norm_num; omega)
  rw [dec_1b W m]
  simp [decodeQbr, chk, k1, k2, oo]

theorem ldB (d : SReg) (a : SReg) (o : BitVec 12) : Statement (.ldB d a o) := by
  intro _ _
  have hd := d.isLt
  have ha := a.isLt
  have ho := o.isLt
  have hw : (encode (.ldB d a o)).toNat = 0x38000000 + d.toNat * 1048576 + a.toNat * 32768 + o.toNat * 1 := encode_toNat _ _ rfl (by omega)
  generalize encode (.ldB d a o) = W at hw ⊢
  have m : fld W 31 25 = 28 := (fld_eq W 31 25 33554432 128 rfl rfl).trans (by omega)
  have k1 : fld W 14 12 = 0 := (fld_eq W 14 12 4096 8 rfl rfl).trans (by omega)
  have od : fldBv 5 W 20 = d := fldBv_eq W 20 d (by norm_num; omega)
  have oa : fldBv 5 W 15 = a := fldBv_eq W 15 a (by norm_num; omega)
  have oo : fldBv 12 W 0 = o := fldBv_eq W 0 o (by norm_num; omega)
  rw [dec_1c W m]
  simp [decodeLd, chk, k1, od, oa, oo]

theorem ldH (d : SReg) (a : SReg) (o : BitVec 12) : Statement (.ldH d a o) := by
  intro _ _
  have hd := d.isLt
  have ha := a.isLt
  have ho := o.isLt
  have hw : (encode (.ldH d a o)).toNat = 0x38001000 + d.toNat * 1048576 + a.toNat * 32768 + o.toNat * 1 := encode_toNat _ _ rfl (by omega)
  generalize encode (.ldH d a o) = W at hw ⊢
  have m : fld W 31 25 = 28 := (fld_eq W 31 25 33554432 128 rfl rfl).trans (by omega)
  have k1 : fld W 14 12 = 1 := (fld_eq W 14 12 4096 8 rfl rfl).trans (by omega)
  have od : fldBv 5 W 20 = d := fldBv_eq W 20 d (by norm_num; omega)
  have oa : fldBv 5 W 15 = a := fldBv_eq W 15 a (by norm_num; omega)
  have oo : fldBv 12 W 0 = o := fldBv_eq W 0 o (by norm_num; omega)
  rw [dec_1c W m]
  simp [decodeLd, chk, k1, od, oa, oo]

theorem ldW (d : SReg) (a : SReg) (o : BitVec 12) : Statement (.ldW d a o) := by
  intro _ _
  have hd := d.isLt
  have ha := a.isLt
  have ho := o.isLt
  have hw : (encode (.ldW d a o)).toNat = 0x38002000 + d.toNat * 1048576 + a.toNat * 32768 + o.toNat * 1 := encode_toNat _ _ rfl (by omega)
  generalize encode (.ldW d a o) = W at hw ⊢
  have m : fld W 31 25 = 28 := (fld_eq W 31 25 33554432 128 rfl rfl).trans (by omega)
  have k1 : fld W 14 12 = 2 := (fld_eq W 14 12 4096 8 rfl rfl).trans (by omega)
  have od : fldBv 5 W 20 = d := fldBv_eq W 20 d (by norm_num; omega)
  have oa : fldBv 5 W 15 = a := fldBv_eq W 15 a (by norm_num; omega)
  have oo : fldBv 12 W 0 = o := fldBv_eq W 0 o (by norm_num; omega)
  rw [dec_1c W m]
  simp [decodeLd, chk, k1, od, oa, oo]

theorem ldD (d : SReg) (a : SReg) (o : BitVec 12) : Statement (.ldD d a o) := by
  intro _ _
  have hd := d.isLt
  have ha := a.isLt
  have ho := o.isLt
  have hw : (encode (.ldD d a o)).toNat = 0x38003000 + d.toNat * 1048576 + a.toNat * 32768 + o.toNat * 1 := encode_toNat _ _ rfl (by omega)
  generalize encode (.ldD d a o) = W at hw ⊢
  have m : fld W 31 25 = 28 := (fld_eq W 31 25 33554432 128 rfl rfl).trans (by omega)
  have k1 : fld W 14 12 = 3 := (fld_eq W 14 12 4096 8 rfl rfl).trans (by omega)
  have od : fldBv 5 W 20 = d := fldBv_eq W 20 d (by norm_num; omega)
  have oa : fldBv 5 W 15 = a := fldBv_eq W 15 a (by norm_num; omega)
  have oo : fldBv 12 W 0 = o := fldBv_eq W 0 o (by norm_num; omega)
  rw [dec_1c W m]
  simp [decodeLd, chk, k1, od, oa, oo]

theorem ldBu (d : SReg) (a : SReg) (o : BitVec 12) : Statement (.ldBu d a o) := by
  intro _ _
  have hd := d.isLt
  have ha := a.isLt
  have ho := o.isLt
  have hw : (encode (.ldBu d a o)).toNat = 0x38004000 + d.toNat * 1048576 + a.toNat * 32768 + o.toNat * 1 := encode_toNat _ _ rfl (by omega)
  generalize encode (.ldBu d a o) = W at hw ⊢
  have m : fld W 31 25 = 28 := (fld_eq W 31 25 33554432 128 rfl rfl).trans (by omega)
  have k1 : fld W 14 12 = 4 := (fld_eq W 14 12 4096 8 rfl rfl).trans (by omega)
  have od : fldBv 5 W 20 = d := fldBv_eq W 20 d (by norm_num; omega)
  have oa : fldBv 5 W 15 = a := fldBv_eq W 15 a (by norm_num; omega)
  have oo : fldBv 12 W 0 = o := fldBv_eq W 0 o (by norm_num; omega)
  rw [dec_1c W m]
  simp [decodeLd, chk, k1, od, oa, oo]

theorem ldHu (d : SReg) (a : SReg) (o : BitVec 12) : Statement (.ldHu d a o) := by
  intro _ _
  have hd := d.isLt
  have ha := a.isLt
  have ho := o.isLt
  have hw : (encode (.ldHu d a o)).toNat = 0x38005000 + d.toNat * 1048576 + a.toNat * 32768 + o.toNat * 1 := encode_toNat _ _ rfl (by omega)
  generalize encode (.ldHu d a o) = W at hw ⊢
  have m : fld W 31 25 = 28 := (fld_eq W 31 25 33554432 128 rfl rfl).trans (by omega)
  have k1 : fld W 14 12 = 5 := (fld_eq W 14 12 4096 8 rfl rfl).trans (by omega)
  have od : fldBv 5 W 20 = d := fldBv_eq W 20 d (by norm_num; omega)
  have oa : fldBv 5 W 15 = a := fldBv_eq W 15 a (by norm_num; omega)
  have oo : fldBv 12 W 0 = o := fldBv_eq W 0 o (by norm_num; omega)
  rw [dec_1c W m]
  simp [decodeLd, chk, k1, od, oa, oo]

theorem ldWu (d : SReg) (a : SReg) (o : BitVec 12) : Statement (.ldWu d a o) := by
  intro _ _
  have hd := d.isLt
  have ha := a.isLt
  have ho := o.isLt
  have hw : (encode (.ldWu d a o)).toNat = 0x38006000 + d.toNat * 1048576 + a.toNat * 32768 + o.toNat * 1 := encode_toNat _ _ rfl (by omega)
  generalize encode (.ldWu d a o) = W at hw ⊢
  have m : fld W 31 25 = 28 := (fld_eq W 31 25 33554432 128 rfl rfl).trans (by omega)
  have k1 : fld W 14 12 = 6 := (fld_eq W 14 12 4096 8 rfl rfl).trans (by omega)
  have od : fldBv 5 W 20 = d := fldBv_eq W 20 d (by norm_num; omega)
  have oa : fldBv 5 W 15 = a := fldBv_eq W 15 a (by norm_num; omega)
  have oo : fldBv 12 W 0 = o := fldBv_eq W 0 o (by norm_num; omega)
  rw [dec_1c W m]
  simp [decodeLd, chk, k1, od, oa, oo]

theorem stB (d : SReg) (a : SReg) (o : BitVec 12) : Statement (.stB d a o) := by
  intro _ _
  have hd := d.isLt
  have ha := a.isLt
  have ho := o.isLt
  have hw : (encode (.stB d a o)).toNat = 0x3A000000 + d.toNat * 1048576 + a.toNat * 32768 + o.toNat * 1 := encode_toNat _ _ rfl (by omega)
  generalize encode (.stB d a o) = W at hw ⊢
  have m : fld W 31 25 = 29 := (fld_eq W 31 25 33554432 128 rfl rfl).trans (by omega)
  have k1 : fld W 14 12 = 0 := (fld_eq W 14 12 4096 8 rfl rfl).trans (by omega)
  have od : fldBv 5 W 20 = d := fldBv_eq W 20 d (by norm_num; omega)
  have oa : fldBv 5 W 15 = a := fldBv_eq W 15 a (by norm_num; omega)
  have oo : fldBv 12 W 0 = o := fldBv_eq W 0 o (by norm_num; omega)
  rw [dec_1d W m]
  simp [decodeSt, chk, k1, od, oa, oo]

theorem stH (d : SReg) (a : SReg) (o : BitVec 12) : Statement (.stH d a o) := by
  intro _ _
  have hd := d.isLt
  have ha := a.isLt
  have ho := o.isLt
  have hw : (encode (.stH d a o)).toNat = 0x3A001000 + d.toNat * 1048576 + a.toNat * 32768 + o.toNat * 1 := encode_toNat _ _ rfl (by omega)
  generalize encode (.stH d a o) = W at hw ⊢
  have m : fld W 31 25 = 29 := (fld_eq W 31 25 33554432 128 rfl rfl).trans (by omega)
  have k1 : fld W 14 12 = 1 := (fld_eq W 14 12 4096 8 rfl rfl).trans (by omega)
  have od : fldBv 5 W 20 = d := fldBv_eq W 20 d (by norm_num; omega)
  have oa : fldBv 5 W 15 = a := fldBv_eq W 15 a (by norm_num; omega)
  have oo : fldBv 12 W 0 = o := fldBv_eq W 0 o (by norm_num; omega)
  rw [dec_1d W m]
  simp [decodeSt, chk, k1, od, oa, oo]

theorem stW (d : SReg) (a : SReg) (o : BitVec 12) : Statement (.stW d a o) := by
  intro _ _
  have hd := d.isLt
  have ha := a.isLt
  have ho := o.isLt
  have hw : (encode (.stW d a o)).toNat = 0x3A002000 + d.toNat * 1048576 + a.toNat * 32768 + o.toNat * 1 := encode_toNat _ _ rfl (by omega)
  generalize encode (.stW d a o) = W at hw ⊢
  have m : fld W 31 25 = 29 := (fld_eq W 31 25 33554432 128 rfl rfl).trans (by omega)
  have k1 : fld W 14 12 = 2 := (fld_eq W 14 12 4096 8 rfl rfl).trans (by omega)
  have od : fldBv 5 W 20 = d := fldBv_eq W 20 d (by norm_num; omega)
  have oa : fldBv 5 W 15 = a := fldBv_eq W 15 a (by norm_num; omega)
  have oo : fldBv 12 W 0 = o := fldBv_eq W 0 o (by norm_num; omega)
  rw [dec_1d W m]
  simp [decodeSt, chk, k1, od, oa, oo]

theorem stD (d : SReg) (a : SReg) (o : BitVec 12) : Statement (.stD d a o) := by
  intro _ _
  have hd := d.isLt
  have ha := a.isLt
  have ho := o.isLt
  have hw : (encode (.stD d a o)).toNat = 0x3A003000 + d.toNat * 1048576 + a.toNat * 32768 + o.toNat * 1 := encode_toNat _ _ rfl (by omega)
  generalize encode (.stD d a o) = W at hw ⊢
  have m : fld W 31 25 = 29 := (fld_eq W 31 25 33554432 128 rfl rfl).trans (by omega)
  have k1 : fld W 14 12 = 3 := (fld_eq W 14 12 4096 8 rfl rfl).trans (by omega)
  have od : fldBv 5 W 20 = d := fldBv_eq W 20 d (by norm_num; omega)
  have oa : fldBv 5 W 15 = a := fldBv_eq W 15 a (by norm_num; omega)
  have oo : fldBv 12 W 0 = o := fldBv_eq W 0 o (by norm_num; omega)
  rw [dec_1d W m]
  simp [decodeSt, chk, k1, od, oa, oo]

theorem prefR (a : SReg) (o : BitVec 12) : Statement (.prefR a o) := by
  intro _ _
  have ha := a.isLt
  have ho := o.isLt
  have hw : (encode (.prefR a o)).toNat = 0x3C000000 + a.toNat * 32768 + o.toNat * 1 := encode_toNat _ _ rfl (by omega)
  generalize encode (.prefR a o) = W at hw ⊢
  have m : fld W 31 25 = 30 := (fld_eq W 31 25 33554432 128 rfl rfl).trans (by omega)
  have k1 : fld W 24 20 = 0 := (fld_eq W 24 20 1048576 32 rfl rfl).trans (by omega)
  have k2 : fld W 14 12 = 0 := (fld_eq W 14 12 4096 8 rfl rfl).trans (by omega)
  have oa : fldBv 5 W 15 = a := fldBv_eq W 15 a (by norm_num; omega)
  have oo : fldBv 12 W 0 = o := fldBv_eq W 0 o (by norm_num; omega)
  rw [dec_1e W m]
  simp [decodePref, chk, k1, k2, oa, oo]

theorem prefW (a : SReg) (o : BitVec 12) : Statement (.prefW a o) := by
  intro _ _
  have ha := a.isLt
  have ho := o.isLt
  have hw : (encode (.prefW a o)).toNat = 0x3C100000 + a.toNat * 32768 + o.toNat * 1 := encode_toNat _ _ rfl (by omega)
  generalize encode (.prefW a o) = W at hw ⊢
  have m : fld W 31 25 = 30 := (fld_eq W 31 25 33554432 128 rfl rfl).trans (by omega)
  have k1 : fld W 24 20 = 1 := (fld_eq W 24 20 1048576 32 rfl rfl).trans (by omega)
  have k2 : fld W 14 12 = 0 := (fld_eq W 14 12 4096 8 rfl rfl).trans (by omega)
  have oa : fldBv 5 W 15 = a := fldBv_eq W 15 a (by norm_num; omega)
  have oo : fldBv 12 W 0 = o := fldBv_eq W 0 o (by norm_num; omega)
  rw [dec_1e W m]
  simp [decodePref, chk, k1, k2, oa, oo]

theorem prefS (a : SReg) (o : BitVec 12) : Statement (.prefS a o) := by
  intro _ _
  have ha := a.isLt
  have ho := o.isLt
  have hw : (encode (.prefS a o)).toNat = 0x3C200000 + a.toNat * 32768 + o.toNat * 1 := encode_toNat _ _ rfl (by omega)
  generalize encode (.prefS a o) = W at hw ⊢
  have m : fld W 31 25 = 30 := (fld_eq W 31 25 33554432 128 rfl rfl).trans (by omega)
  have k1 : fld W 24 20 = 2 := (fld_eq W 24 20 1048576 32 rfl rfl).trans (by omega)
  have k2 : fld W 14 12 = 0 := (fld_eq W 14 12 4096 8 rfl rfl).trans (by omega)
  have oa : fldBv 5 W 15 = a := fldBv_eq W 15 a (by norm_num; omega)
  have oo : fldBv 12 W 0 = o := fldBv_eq W 0 o (by norm_num; omega)
  rw [dec_1e W m]
  simp [decodePref, chk, k1, k2, oa, oo]

theorem amoAdd (d : SReg) (a : SReg) (b : SReg) (o : AmoOrder) (s : IntSize) : Statement (.amoAdd d a b o s) := by
  intro _ _
  have hd := d.isLt
  have ha := a.isLt
  have hb := b.isLt
  have ho := AmoOrder.code_lt o
  have hs := IntSize.code_lt s
  have hw : (encode (.amoAdd d a b o s)).toNat = 0x3E000000 + d.toNat * 1048576 + a.toNat * 32768 + b.toNat * 1024 + o.code * 256 + s.code * 64 := encode_toNat _ _ rfl (by omega)
  generalize encode (.amoAdd d a b o s) = W at hw ⊢
  have m : fld W 31 25 = 31 := (fld_eq W 31 25 33554432 128 rfl rfl).trans (by omega)
  have k1 : fld W 5 0 = 0 := (fld_eq W 5 0 1 64 rfl rfl).trans (by omega)
  have k2 : fld W 7 7 = 0 := (fld_eq W 7 7 128 2 rfl rfl).trans (by omega)
  have od : fldBv 5 W 20 = d := fldBv_eq W 20 d (by norm_num; omega)
  have oa : fldBv 5 W 15 = a := fldBv_eq W 15 a (by norm_num; omega)
  have ob : fldBv 5 W 10 = b := fldBv_eq W 10 b (by norm_num; omega)
  have co : fld W 9 8 = o.code := (fld_eq W 9 8 256 4 rfl rfl).trans (by omega)
  have oo : AmoOrder.ofCode (fld W 9 8) = o := by rw [co]; exact AmoOrder.ofCode_code o
  have cs : fld W 6 6 = s.code := (fld_eq W 6 6 64 2 rfl rfl).trans (by omega)
  have os : IntSize.ofCode (fld W 6 6) = s := by rw [cs]; exact IntSize.ofCode_code s
  rw [dec_1f W m]
  simp [decodeAmo, chk, k1, k2, od, oa, ob, oo, os]

theorem amoAnd (d : SReg) (a : SReg) (b : SReg) (o : AmoOrder) (s : IntSize) : Statement (.amoAnd d a b o s) := by
  intro _ _
  have hd := d.isLt
  have ha := a.isLt
  have hb := b.isLt
  have ho := AmoOrder.code_lt o
  have hs := IntSize.code_lt s
  have hw : (encode (.amoAnd d a b o s)).toNat = 0x3E000001 + d.toNat * 1048576 + a.toNat * 32768 + b.toNat * 1024 + o.code * 256 + s.code * 64 := encode_toNat _ _ rfl (by omega)
  generalize encode (.amoAnd d a b o s) = W at hw ⊢
  have m : fld W 31 25 = 31 := (fld_eq W 31 25 33554432 128 rfl rfl).trans (by omega)
  have k1 : fld W 5 0 = 1 := (fld_eq W 5 0 1 64 rfl rfl).trans (by omega)
  have k2 : fld W 7 7 = 0 := (fld_eq W 7 7 128 2 rfl rfl).trans (by omega)
  have od : fldBv 5 W 20 = d := fldBv_eq W 20 d (by norm_num; omega)
  have oa : fldBv 5 W 15 = a := fldBv_eq W 15 a (by norm_num; omega)
  have ob : fldBv 5 W 10 = b := fldBv_eq W 10 b (by norm_num; omega)
  have co : fld W 9 8 = o.code := (fld_eq W 9 8 256 4 rfl rfl).trans (by omega)
  have oo : AmoOrder.ofCode (fld W 9 8) = o := by rw [co]; exact AmoOrder.ofCode_code o
  have cs : fld W 6 6 = s.code := (fld_eq W 6 6 64 2 rfl rfl).trans (by omega)
  have os : IntSize.ofCode (fld W 6 6) = s := by rw [cs]; exact IntSize.ofCode_code s
  rw [dec_1f W m]
  simp [decodeAmo, chk, k1, k2, od, oa, ob, oo, os]

theorem amoOr (d : SReg) (a : SReg) (b : SReg) (o : AmoOrder) (s : IntSize) : Statement (.amoOr d a b o s) := by
  intro _ _
  have hd := d.isLt
  have ha := a.isLt
  have hb := b.isLt
  have ho := AmoOrder.code_lt o
  have hs := IntSize.code_lt s
  have hw : (encode (.amoOr d a b o s)).toNat = 0x3E000002 + d.toNat * 1048576 + a.toNat * 32768 + b.toNat * 1024 + o.code * 256 + s.code * 64 := encode_toNat _ _ rfl (by omega)
  generalize encode (.amoOr d a b o s) = W at hw ⊢
  have m : fld W 31 25 = 31 := (fld_eq W 31 25 33554432 128 rfl rfl).trans (by omega)
  have k1 : fld W 5 0 = 2 := (fld_eq W 5 0 1 64 rfl rfl).trans (by omega)
  have k2 : fld W 7 7 = 0 := (fld_eq W 7 7 128 2 rfl rfl).trans (by omega)
  have od : fldBv 5 W 20 = d := fldBv_eq W 20 d (by norm_num; omega)
  have oa : fldBv 5 W 15 = a := fldBv_eq W 15 a (by norm_num; omega)
  have ob : fldBv 5 W 10 = b := fldBv_eq W 10 b (by norm_num; omega)
  have co : fld W 9 8 = o.code := (fld_eq W 9 8 256 4 rfl rfl).trans (by omega)
  have oo : AmoOrder.ofCode (fld W 9 8) = o := by rw [co]; exact AmoOrder.ofCode_code o
  have cs : fld W 6 6 = s.code := (fld_eq W 6 6 64 2 rfl rfl).trans (by omega)
  have os : IntSize.ofCode (fld W 6 6) = s := by rw [cs]; exact IntSize.ofCode_code s
  rw [dec_1f W m]
  simp [decodeAmo, chk, k1, k2, od, oa, ob, oo, os]

theorem amoXor (d : SReg) (a : SReg) (b : SReg) (o : AmoOrder) (s : IntSize) : Statement (.amoXor d a b o s) := by
  intro _ _
  have hd := d.isLt
  have ha := a.isLt
  have hb := b.isLt
  have ho := AmoOrder.code_lt o
  have hs := IntSize.code_lt s
  have hw : (encode (.amoXor d a b o s)).toNat = 0x3E000003 + d.toNat * 1048576 + a.toNat * 32768 + b.toNat * 1024 + o.code * 256 + s.code * 64 := encode_toNat _ _ rfl (by omega)
  generalize encode (.amoXor d a b o s) = W at hw ⊢
  have m : fld W 31 25 = 31 := (fld_eq W 31 25 33554432 128 rfl rfl).trans (by omega)
  have k1 : fld W 5 0 = 3 := (fld_eq W 5 0 1 64 rfl rfl).trans (by omega)
  have k2 : fld W 7 7 = 0 := (fld_eq W 7 7 128 2 rfl rfl).trans (by omega)
  have od : fldBv 5 W 20 = d := fldBv_eq W 20 d (by norm_num; omega)
  have oa : fldBv 5 W 15 = a := fldBv_eq W 15 a (by norm_num; omega)
  have ob : fldBv 5 W 10 = b := fldBv_eq W 10 b (by norm_num; omega)
  have co : fld W 9 8 = o.code := (fld_eq W 9 8 256 4 rfl rfl).trans (by omega)
  have oo : AmoOrder.ofCode (fld W 9 8) = o := by rw [co]; exact AmoOrder.ofCode_code o
  have cs : fld W 6 6 = s.code := (fld_eq W 6 6 64 2 rfl rfl).trans (by omega)
  have os : IntSize.ofCode (fld W 6 6) = s := by rw [cs]; exact IntSize.ofCode_code s
  rw [dec_1f W m]
  simp [decodeAmo, chk, k1, k2, od, oa, ob, oo, os]

theorem amoMin (d : SReg) (a : SReg) (b : SReg) (o : AmoOrder) (s : IntSize) : Statement (.amoMin d a b o s) := by
  intro _ _
  have hd := d.isLt
  have ha := a.isLt
  have hb := b.isLt
  have ho := AmoOrder.code_lt o
  have hs := IntSize.code_lt s
  have hw : (encode (.amoMin d a b o s)).toNat = 0x3E000004 + d.toNat * 1048576 + a.toNat * 32768 + b.toNat * 1024 + o.code * 256 + s.code * 64 := encode_toNat _ _ rfl (by omega)
  generalize encode (.amoMin d a b o s) = W at hw ⊢
  have m : fld W 31 25 = 31 := (fld_eq W 31 25 33554432 128 rfl rfl).trans (by omega)
  have k1 : fld W 5 0 = 4 := (fld_eq W 5 0 1 64 rfl rfl).trans (by omega)
  have k2 : fld W 7 7 = 0 := (fld_eq W 7 7 128 2 rfl rfl).trans (by omega)
  have od : fldBv 5 W 20 = d := fldBv_eq W 20 d (by norm_num; omega)
  have oa : fldBv 5 W 15 = a := fldBv_eq W 15 a (by norm_num; omega)
  have ob : fldBv 5 W 10 = b := fldBv_eq W 10 b (by norm_num; omega)
  have co : fld W 9 8 = o.code := (fld_eq W 9 8 256 4 rfl rfl).trans (by omega)
  have oo : AmoOrder.ofCode (fld W 9 8) = o := by rw [co]; exact AmoOrder.ofCode_code o
  have cs : fld W 6 6 = s.code := (fld_eq W 6 6 64 2 rfl rfl).trans (by omega)
  have os : IntSize.ofCode (fld W 6 6) = s := by rw [cs]; exact IntSize.ofCode_code s
  rw [dec_1f W m]
  simp [decodeAmo, chk, k1, k2, od, oa, ob, oo, os]

theorem amoMax (d : SReg) (a : SReg) (b : SReg) (o : AmoOrder) (s : IntSize) : Statement (.amoMax d a b o s) := by
  intro _ _
  have hd := d.isLt
  have ha := a.isLt
  have hb := b.isLt
  have ho := AmoOrder.code_lt o
  have hs := IntSize.code_lt s
  have hw : (encode (.amoMax d a b o s)).toNat = 0x3E000005 + d.toNat * 1048576 + a.toNat * 32768 + b.toNat * 1024 + o.code * 256 + s.code * 64 := encode_toNat _ _ rfl (by omega)
  generalize encode (.amoMax d a b o s) = W at hw ⊢
  have m : fld W 31 25 = 31 := (fld_eq W 31 25 33554432 128 rfl rfl).trans (by omega)
  have k1 : fld W 5 0 = 5 := (fld_eq W 5 0 1 64 rfl rfl).trans (by omega)
  have k2 : fld W 7 7 = 0 := (fld_eq W 7 7 128 2 rfl rfl).trans (by omega)
  have od : fldBv 5 W 20 = d := fldBv_eq W 20 d (by norm_num; omega)
  have oa : fldBv 5 W 15 = a := fldBv_eq W 15 a (by norm_num; omega)
  have ob : fldBv 5 W 10 = b := fldBv_eq W 10 b (by norm_num; omega)
  have co : fld W 9 8 = o.code := (fld_eq W 9 8 256 4 rfl rfl).trans (by omega)
  have oo : AmoOrder.ofCode (fld W 9 8) = o := by rw [co]; exact AmoOrder.ofCode_code o
  have cs : fld W 6 6 = s.code := (fld_eq W 6 6 64 2 rfl rfl).trans (by omega)
  have os : IntSize.ofCode (fld W 6 6) = s := by rw [cs]; exact IntSize.ofCode_code s
  rw [dec_1f W m]
  simp [decodeAmo, chk, k1, k2, od, oa, ob, oo, os]

theorem amoMinu (d : SReg) (a : SReg) (b : SReg) (o : AmoOrder) (s : IntSize) : Statement (.amoMinu d a b o s) := by
  intro _ _
  have hd := d.isLt
  have ha := a.isLt
  have hb := b.isLt
  have ho := AmoOrder.code_lt o
  have hs := IntSize.code_lt s
  have hw : (encode (.amoMinu d a b o s)).toNat = 0x3E000006 + d.toNat * 1048576 + a.toNat * 32768 + b.toNat * 1024 + o.code * 256 + s.code * 64 := encode_toNat _ _ rfl (by omega)
  generalize encode (.amoMinu d a b o s) = W at hw ⊢
  have m : fld W 31 25 = 31 := (fld_eq W 31 25 33554432 128 rfl rfl).trans (by omega)
  have k1 : fld W 5 0 = 6 := (fld_eq W 5 0 1 64 rfl rfl).trans (by omega)
  have k2 : fld W 7 7 = 0 := (fld_eq W 7 7 128 2 rfl rfl).trans (by omega)
  have od : fldBv 5 W 20 = d := fldBv_eq W 20 d (by norm_num; omega)
  have oa : fldBv 5 W 15 = a := fldBv_eq W 15 a (by norm_num; omega)
  have ob : fldBv 5 W 10 = b := fldBv_eq W 10 b (by norm_num; omega)
  have co : fld W 9 8 = o.code := (fld_eq W 9 8 256 4 rfl rfl).trans (by omega)
  have oo : AmoOrder.ofCode (fld W 9 8) = o := by rw [co]; exact AmoOrder.ofCode_code o
  have cs : fld W 6 6 = s.code := (fld_eq W 6 6 64 2 rfl rfl).trans (by omega)
  have os : IntSize.ofCode (fld W 6 6) = s := by rw [cs]; exact IntSize.ofCode_code s
  rw [dec_1f W m]
  simp [decodeAmo, chk, k1, k2, od, oa, ob, oo, os]

theorem amoMaxu (d : SReg) (a : SReg) (b : SReg) (o : AmoOrder) (s : IntSize) : Statement (.amoMaxu d a b o s) := by
  intro _ _
  have hd := d.isLt
  have ha := a.isLt
  have hb := b.isLt
  have ho := AmoOrder.code_lt o
  have hs := IntSize.code_lt s
  have hw : (encode (.amoMaxu d a b o s)).toNat = 0x3E000007 + d.toNat * 1048576 + a.toNat * 32768 + b.toNat * 1024 + o.code * 256 + s.code * 64 := encode_toNat _ _ rfl (by omega)
  generalize encode (.amoMaxu d a b o s) = W at hw ⊢
  have m : fld W 31 25 = 31 := (fld_eq W 31 25 33554432 128 rfl rfl).trans (by omega)
  have k1 : fld W 5 0 = 7 := (fld_eq W 5 0 1 64 rfl rfl).trans (by omega)
  have k2 : fld W 7 7 = 0 := (fld_eq W 7 7 128 2 rfl rfl).trans (by omega)
  have od : fldBv 5 W 20 = d := fldBv_eq W 20 d (by norm_num; omega)
  have oa : fldBv 5 W 15 = a := fldBv_eq W 15 a (by norm_num; omega)
  have ob : fldBv 5 W 10 = b := fldBv_eq W 10 b (by norm_num; omega)
  have co : fld W 9 8 = o.code := (fld_eq W 9 8 256 4 rfl rfl).trans (by omega)
  have oo : AmoOrder.ofCode (fld W 9 8) = o := by rw [co]; exact AmoOrder.ofCode_code o
  have cs : fld W 6 6 = s.code := (fld_eq W 6 6 64 2 rfl rfl).trans (by omega)
  have os : IntSize.ofCode (fld W 6 6) = s := by rw [cs]; exact IntSize.ofCode_code s
  rw [dec_1f W m]
  simp [decodeAmo, chk, k1, k2, od, oa, ob, oo, os]

theorem amoSwap (d : SReg) (a : SReg) (b : SReg) (o : AmoOrder) (z : AmoSize) : Statement (.amoSwap d a b o z) := by
  intro _ _
  have hd := d.isLt
  have ha := a.isLt
  have hb := b.isLt
  have ho := AmoOrder.code_lt o
  have hz := AmoSize.code_lt z
  have hw : (encode (.amoSwap d a b o z)).toNat = 0x3E000008 + d.toNat * 1048576 + a.toNat * 32768 + b.toNat * 1024 + o.code * 256 + z.code * 64 := encode_toNat _ _ rfl (by omega)
  generalize encode (.amoSwap d a b o z) = W at hw ⊢
  have m : fld W 31 25 = 31 := (fld_eq W 31 25 33554432 128 rfl rfl).trans (by omega)
  have k1 : fld W 5 0 = 8 := (fld_eq W 5 0 1 64 rfl rfl).trans (by omega)
  have od : fldBv 5 W 20 = d := fldBv_eq W 20 d (by norm_num; omega)
  have oa : fldBv 5 W 15 = a := fldBv_eq W 15 a (by norm_num; omega)
  have ob : fldBv 5 W 10 = b := fldBv_eq W 10 b (by norm_num; omega)
  have co : fld W 9 8 = o.code := (fld_eq W 9 8 256 4 rfl rfl).trans (by omega)
  have oo : AmoOrder.ofCode (fld W 9 8) = o := by rw [co]; exact AmoOrder.ofCode_code o
  have cz : fld W 7 6 = z.code := (fld_eq W 7 6 64 4 rfl rfl).trans (by omega)
  have oz : AmoSize.ofCode (fld W 7 6) = z := by rw [cz]; exact AmoSize.ofCode_code z
  rw [dec_1f W m]
  simp [decodeAmo, chk, k1, od, oa, ob, oo, oz]

theorem amoCas (d : SReg) (a : SReg) (b : SReg) (o : AmoOrder) (z : AmoSize) : Statement (.amoCas d a b o z) := by
  intro _ _
  have hd := d.isLt
  have ha := a.isLt
  have hb := b.isLt
  have ho := AmoOrder.code_lt o
  have hz := AmoSize.code_lt z
  have hw : (encode (.amoCas d a b o z)).toNat = 0x3E000009 + d.toNat * 1048576 + a.toNat * 32768 + b.toNat * 1024 + o.code * 256 + z.code * 64 := encode_toNat _ _ rfl (by omega)
  generalize encode (.amoCas d a b o z) = W at hw ⊢
  have m : fld W 31 25 = 31 := (fld_eq W 31 25 33554432 128 rfl rfl).trans (by omega)
  have k1 : fld W 5 0 = 9 := (fld_eq W 5 0 1 64 rfl rfl).trans (by omega)
  have od : fldBv 5 W 20 = d := fldBv_eq W 20 d (by norm_num; omega)
  have oa : fldBv 5 W 15 = a := fldBv_eq W 15 a (by norm_num; omega)
  have ob : fldBv 5 W 10 = b := fldBv_eq W 10 b (by norm_num; omega)
  have co : fld W 9 8 = o.code := (fld_eq W 9 8 256 4 rfl rfl).trans (by omega)
  have oo : AmoOrder.ofCode (fld W 9 8) = o := by rw [co]; exact AmoOrder.ofCode_code o
  have cz : fld W 7 6 = z.code := (fld_eq W 7 6 64 4 rfl rfl).trans (by omega)
  have oz : AmoSize.ofCode (fld W 7 6) = z := by rw [cz]; exact AmoSize.ofCode_code z
  rw [dec_1f W m]
  simp [decodeAmo, chk, k1, od, oa, ob, oo, oz]

theorem amoFadd (d : SReg) (a : SReg) (b : SReg) (o : AmoOrder) (z : FpSize) : Statement (.amoFadd d a b o z) := by
  intro _ _
  have hd := d.isLt
  have ha := a.isLt
  have hb := b.isLt
  have ho := AmoOrder.code_lt o
  have hz := FpSize.code_lt z
  have hw : (encode (.amoFadd d a b o z)).toNat = 0x3E00008A + d.toNat * 1048576 + a.toNat * 32768 + b.toNat * 1024 + o.code * 256 + z.code * 64 := encode_toNat _ _ rfl (by omega)
  generalize encode (.amoFadd d a b o z) = W at hw ⊢
  have m : fld W 31 25 = 31 := (fld_eq W 31 25 33554432 128 rfl rfl).trans (by omega)
  have k1 : fld W 5 0 = 10 := (fld_eq W 5 0 1 64 rfl rfl).trans (by omega)
  have k2 : fld W 7 7 = 1 := (fld_eq W 7 7 128 2 rfl rfl).trans (by omega)
  have od : fldBv 5 W 20 = d := fldBv_eq W 20 d (by norm_num; omega)
  have oa : fldBv 5 W 15 = a := fldBv_eq W 15 a (by norm_num; omega)
  have ob : fldBv 5 W 10 = b := fldBv_eq W 10 b (by norm_num; omega)
  have co : fld W 9 8 = o.code := (fld_eq W 9 8 256 4 rfl rfl).trans (by omega)
  have oo : AmoOrder.ofCode (fld W 9 8) = o := by rw [co]; exact AmoOrder.ofCode_code o
  have cz : fld W 6 6 = z.code := (fld_eq W 6 6 64 2 rfl rfl).trans (by omega)
  have oz : FpSize.ofCode (fld W 6 6) = z := by rw [cz]; exact FpSize.ofCode_code z
  rw [dec_1f W m]
  simp [decodeAmo, chk, k1, k2, od, oa, ob, oo, oz]

theorem fenceAcq (s : Scope) : Statement (.fenceAcq s) := by
  intro _ _
  have hs := Scope.code_lt s
  have hw : (encode (.fenceAcq s)).toNat = 0x40000000 + s.code * 16 := encode_toNat _ _ rfl (by omega)
  generalize encode (.fenceAcq s) = W at hw ⊢
  have m : fld W 31 25 = 32 := (fld_eq W 31 25 33554432 128 rfl rfl).trans (by omega)
  have k1 : fld W 3 0 = 0 := (fld_eq W 3 0 1 16 rfl rfl).trans (by omega)
  have k2 : fld W 9 7 = 0 := (fld_eq W 9 7 128 8 rfl rfl).trans (by omega)
  have k3 : fld W 24 10 = 0 := (fld_eq W 24 10 1024 32768 rfl rfl).trans (by omega)
  have cs : fld W 6 4 = s.code := (fld_eq W 6 4 16 8 rfl rfl).trans (by omega)
  have os : Scope.ofCode (fld W 6 4) = s := by rw [cs]; exact Scope.ofCode_code s
  have k4 : fld W 6 4 < 6 := by rw [fld_eq W 6 4 16 8 rfl rfl]; omega
  rw [dec_20 W m]
  simp [decodeSync, chk, k1, k2, k3, os, k4]

theorem fenceRel (s : Scope) : Statement (.fenceRel s) := by
  intro _ _
  have hs := Scope.code_lt s
  have hw : (encode (.fenceRel s)).toNat = 0x40000080 + s.code * 16 := encode_toNat _ _ rfl (by omega)
  generalize encode (.fenceRel s) = W at hw ⊢
  have m : fld W 31 25 = 32 := (fld_eq W 31 25 33554432 128 rfl rfl).trans (by omega)
  have k1 : fld W 3 0 = 0 := (fld_eq W 3 0 1 16 rfl rfl).trans (by omega)
  have k2 : fld W 9 7 = 1 := (fld_eq W 9 7 128 8 rfl rfl).trans (by omega)
  have k3 : fld W 24 10 = 0 := (fld_eq W 24 10 1024 32768 rfl rfl).trans (by omega)
  have cs : fld W 6 4 = s.code := (fld_eq W 6 4 16 8 rfl rfl).trans (by omega)
  have os : Scope.ofCode (fld W 6 4) = s := by rw [cs]; exact Scope.ofCode_code s
  have k4 : fld W 6 4 < 6 := by rw [fld_eq W 6 4 16 8 rfl rfl]; omega
  rw [dec_20 W m]
  simp [decodeSync, chk, k1, k2, k3, os, k4]

theorem fenceAr (s : Scope) : Statement (.fenceAr s) := by
  intro _ _
  have hs := Scope.code_lt s
  have hw : (encode (.fenceAr s)).toNat = 0x40000100 + s.code * 16 := encode_toNat _ _ rfl (by omega)
  generalize encode (.fenceAr s) = W at hw ⊢
  have m : fld W 31 25 = 32 := (fld_eq W 31 25 33554432 128 rfl rfl).trans (by omega)
  have k1 : fld W 3 0 = 0 := (fld_eq W 3 0 1 16 rfl rfl).trans (by omega)
  have k2 : fld W 9 7 = 2 := (fld_eq W 9 7 128 8 rfl rfl).trans (by omega)
  have k3 : fld W 24 10 = 0 := (fld_eq W 24 10 1024 32768 rfl rfl).trans (by omega)
  have cs : fld W 6 4 = s.code := (fld_eq W 6 4 16 8 rfl rfl).trans (by omega)
  have os : Scope.ofCode (fld W 6 4) = s := by rw [cs]; exact Scope.ofCode_code s
  have k4 : fld W 6 4 < 6 := by rw [fld_eq W 6 4 16 8 rfl rfl]; omega
  rw [dec_20 W m]
  simp [decodeSync, chk, k1, k2, k3, os, k4]

theorem fenceSc (s : Scope) : Statement (.fenceSc s) := by
  intro _ _
  have hs := Scope.code_lt s
  have hw : (encode (.fenceSc s)).toNat = 0x40000180 + s.code * 16 := encode_toNat _ _ rfl (by omega)
  generalize encode (.fenceSc s) = W at hw ⊢
  have m : fld W 31 25 = 32 := (fld_eq W 31 25 33554432 128 rfl rfl).trans (by omega)
  have k1 : fld W 3 0 = 0 := (fld_eq W 3 0 1 16 rfl rfl).trans (by omega)
  have k2 : fld W 9 7 = 3 := (fld_eq W 9 7 128 8 rfl rfl).trans (by omega)
  have k3 : fld W 24 10 = 0 := (fld_eq W 24 10 1024 32768 rfl rfl).trans (by omega)
  have cs : fld W 6 4 = s.code := (fld_eq W 6 4 16 8 rfl rfl).trans (by omega)
  have os : Scope.ofCode (fld W 6 4) = s := by rw [cs]; exact Scope.ofCode_code s
  have k4 : fld W 6 4 < 6 := by rw [fld_eq W 6 4 16 8 rfl rfl]; omega
  rw [dec_20 W m]
  simp [decodeSync, chk, k1, k2, k3, os, k4]

theorem vdrain (s : Scope) : Statement (.vdrain s) := by
  intro _ _
  have hs := Scope.code_lt s
  have hw : (encode (.vdrain s)).toNat = 0x40000001 + s.code * 16 := encode_toNat _ _ rfl (by omega)
  generalize encode (.vdrain s) = W at hw ⊢
  have m : fld W 31 25 = 32 := (fld_eq W 31 25 33554432 128 rfl rfl).trans (by omega)
  have k1 : fld W 3 0 = 1 := (fld_eq W 3 0 1 16 rfl rfl).trans (by omega)
  have k2 : fld W 24 7 = 0 := (fld_eq W 24 7 128 262144 rfl rfl).trans (by omega)
  have cs : fld W 6 4 = s.code := (fld_eq W 6 4 16 8 rfl rfl).trans (by omega)
  have os : Scope.ofCode (fld W 6 4) = s := by rw [cs]; exact Scope.ofCode_code s
  have k3 : fld W 6 4 < 6 := by rw [fld_eq W 6 4 16 8 rfl rfl]; omega
  rw [dec_20 W m]
  simp [decodeSync, chk, k1, k2, os, k3]

theorem mmon (a : SReg) : Statement (.mmon a) := by
  intro _ _
  have ha := a.isLt
  have hw : (encode (.mmon a)).toNat = 0x40000002 + a.toNat * 32768 := encode_toNat _ _ rfl (by omega)
  generalize encode (.mmon a) = W at hw ⊢
  have m : fld W 31 25 = 32 := (fld_eq W 31 25 33554432 128 rfl rfl).trans (by omega)
  have k1 : fld W 3 0 = 2 := (fld_eq W 3 0 1 16 rfl rfl).trans (by omega)
  have k2 : fld W 24 20 = 0 := (fld_eq W 24 20 1048576 32 rfl rfl).trans (by omega)
  have k3 : fld W 14 4 = 0 := (fld_eq W 14 4 16 2048 rfl rfl).trans (by omega)
  have oa : fldBv 5 W 15 = a := fldBv_eq W 15 a (by norm_num; omega)
  rw [dec_20 W m]
  simp [decodeSync, chk, k1, k2, k3, oa]

theorem mwait (d : SReg) (a : SReg) : Statement (.mwait d a) := by
  intro _ _
  have hd := d.isLt
  have ha := a.isLt
  have hw : (encode (.mwait d a)).toNat = 0x40000003 + d.toNat * 1048576 + a.toNat * 32768 := encode_toNat _ _ rfl (by omega)
  generalize encode (.mwait d a) = W at hw ⊢
  have m : fld W 31 25 = 32 := (fld_eq W 31 25 33554432 128 rfl rfl).trans (by omega)
  have k1 : fld W 3 0 = 3 := (fld_eq W 3 0 1 16 rfl rfl).trans (by omega)
  have k2 : fld W 14 4 = 0 := (fld_eq W 14 4 16 2048 rfl rfl).trans (by omega)
  have od : fldBv 5 W 20 = d := fldBv_eq W 20 d (by norm_num; omega)
  have oa : fldBv 5 W 15 = a := fldBv_eq W 15 a (by norm_num; omega)
  rw [dec_20 W m]
  simp [decodeSync, chk, k1, k2, od, oa]

theorem bar (l : Level) : Statement (.bar l) := by
  intro _ _
  have hl := Level.code_lt l
  have hw : (encode (.bar l)).toNat = 0x40000004 + l.code * 16 := encode_toNat _ _ rfl (by omega)
  generalize encode (.bar l) = W at hw ⊢
  have m : fld W 31 25 = 32 := (fld_eq W 31 25 33554432 128 rfl rfl).trans (by omega)
  have k1 : fld W 3 0 = 4 := (fld_eq W 3 0 1 16 rfl rfl).trans (by omega)
  have k2 : fld W 24 7 = 0 := (fld_eq W 24 7 128 262144 rfl rfl).trans (by omega)
  have cl : fld W 6 4 = l.code := (fld_eq W 6 4 16 8 rfl rfl).trans (by omega)
  have ol : Level.ofCode (fld W 6 4) = l := by rw [cl]; exact Level.ofCode_code l
  have k3 : fld W 6 4 < 6 := by rw [fld_eq W 6 4 16 8 rfl rfl]; omega
  rw [dec_20 W m]
  simp [decodeSync, chk, k1, k2, ol, k3]

theorem setvl (d : SReg) (a : SReg) : Statement (.setvl d a) := by
  intro _ _
  have hd := d.isLt
  have ha := a.isLt
  have hw : (encode (.setvl d a)).toNat = 0x42000000 + d.toNat * 1048576 + a.toNat * 32768 := encode_toNat _ _ rfl (by omega)
  generalize encode (.setvl d a) = W at hw ⊢
  have m : fld W 31 25 = 33 := (fld_eq W 31 25 33554432 128 rfl rfl).trans (by omega)
  have k1 : fld W 14 14 = 0 := (fld_eq W 14 14 16384 2 rfl rfl).trans (by omega)
  have k2 : fld W 13 0 = 0 := (fld_eq W 13 0 1 16384 rfl rfl).trans (by omega)
  have od : fldBv 5 W 20 = d := fldBv_eq W 20 d (by norm_num; omega)
  have oa : fldBv 5 W 15 = a := fldBv_eq W 15 a (by norm_num; omega)
  rw [dec_21 W m]
  simp [decodeSetvl, chk, k1, k2, od, oa]

theorem setvli (d : SReg) (i : BitVec 14) : Statement (.setvli d i) := by
  intro _ _
  have hd := d.isLt
  have hi := i.isLt
  have hw : (encode (.setvli d i)).toNat = 0x42004000 + d.toNat * 1048576 + i.toNat * 1 := encode_toNat _ _ rfl (by omega)
  generalize encode (.setvli d i) = W at hw ⊢
  have m : fld W 31 25 = 33 := (fld_eq W 31 25 33554432 128 rfl rfl).trans (by omega)
  have k1 : fld W 14 14 = 1 := (fld_eq W 14 14 16384 2 rfl rfl).trans (by omega)
  have k2 : fld W 19 15 = 0 := (fld_eq W 19 15 32768 32 rfl rfl).trans (by omega)
  have od : fldBv 5 W 20 = d := fldBv_eq W 20 d (by norm_num; omega)
  have oi : fldBv 14 W 0 = i := fldBv_eq W 0 i (by norm_num; omega)
  rw [dec_21 W m]
  simp [decodeSetvl, chk, k1, k2, od, oi]

theorem microOpIssue x0 : Statement (.microOpIssue x0) := fun _ h => absurd h (by simp [Instr.encoded])

theorem vadd (d : VReg) (a : VReg) (b : VOperand) : Statement (.vadd d a b) := by
  intro _ _
  have hd := d.isLt
  have ha := a.isLt
  have hb := b.reg.isLt
  have hbf := Bool.toNat_le b.flag
  have hw : (encode (.vadd d a b)).toNat = 0x44000000 + d.toNat * 1048576 + a.toNat * 32768 + b.reg.toNat * 1024 + b.flag.toNat * 512 := encode_toNat _ _ rfl (by omega)
  generalize encode (.vadd d a b) = W at hw ⊢
  have m : fld W 31 25 = 34 := (fld_eq W 31 25 33554432 128 rfl rfl).trans (by omega)
  have k1 : fld W 4 0 = 0 := (fld_eq W 4 0 1 32 rfl rfl).trans (by omega)
  have k2 : fld W 8 5 = 0 := (fld_eq W 8 5 32 16 rfl rfl).trans (by omega)
  have od : fldBv 5 W 20 = d := fldBv_eq W 20 d (by norm_num; omega)
  have oa : fldBv 5 W 15 = a := fldBv_eq W 15 a (by norm_num; omega)
  have ob : vOperand W = b := vOperand_eq W b (by norm_num; omega) (by norm_num; omega)
  rw [dec_22 W m]
  simp [decodeVarith, chk, k1, k2, od, oa, ob]

theorem vsub (d : VReg) (a : VReg) (b : VOperand) : Statement (.vsub d a b) := by
  intro _ _
  have hd := d.isLt
  have ha := a.isLt
  have hb := b.reg.isLt
  have hbf := Bool.toNat_le b.flag
  have hw : (encode (.vsub d a b)).toNat = 0x44000001 + d.toNat * 1048576 + a.toNat * 32768 + b.reg.toNat * 1024 + b.flag.toNat * 512 := encode_toNat _ _ rfl (by omega)
  generalize encode (.vsub d a b) = W at hw ⊢
  have m : fld W 31 25 = 34 := (fld_eq W 31 25 33554432 128 rfl rfl).trans (by omega)
  have k1 : fld W 4 0 = 1 := (fld_eq W 4 0 1 32 rfl rfl).trans (by omega)
  have k2 : fld W 8 5 = 0 := (fld_eq W 8 5 32 16 rfl rfl).trans (by omega)
  have od : fldBv 5 W 20 = d := fldBv_eq W 20 d (by norm_num; omega)
  have oa : fldBv 5 W 15 = a := fldBv_eq W 15 a (by norm_num; omega)
  have ob : vOperand W = b := vOperand_eq W b (by norm_num; omega) (by norm_num; omega)
  rw [dec_22 W m]
  simp [decodeVarith, chk, k1, k2, od, oa, ob]

theorem vmul (d : VReg) (a : VReg) (b : VOperand) : Statement (.vmul d a b) := by
  intro _ _
  have hd := d.isLt
  have ha := a.isLt
  have hb := b.reg.isLt
  have hbf := Bool.toNat_le b.flag
  have hw : (encode (.vmul d a b)).toNat = 0x44000002 + d.toNat * 1048576 + a.toNat * 32768 + b.reg.toNat * 1024 + b.flag.toNat * 512 := encode_toNat _ _ rfl (by omega)
  generalize encode (.vmul d a b) = W at hw ⊢
  have m : fld W 31 25 = 34 := (fld_eq W 31 25 33554432 128 rfl rfl).trans (by omega)
  have k1 : fld W 4 0 = 2 := (fld_eq W 4 0 1 32 rfl rfl).trans (by omega)
  have k2 : fld W 8 5 = 0 := (fld_eq W 8 5 32 16 rfl rfl).trans (by omega)
  have od : fldBv 5 W 20 = d := fldBv_eq W 20 d (by norm_num; omega)
  have oa : fldBv 5 W 15 = a := fldBv_eq W 15 a (by norm_num; omega)
  have ob : vOperand W = b := vOperand_eq W b (by norm_num; omega) (by norm_num; omega)
  rw [dec_22 W m]
  simp [decodeVarith, chk, k1, k2, od, oa, ob]

theorem vmulh (d : VReg) (a : VReg) (b : VOperand) : Statement (.vmulh d a b) := by
  intro _ _
  have hd := d.isLt
  have ha := a.isLt
  have hb := b.reg.isLt
  have hbf := Bool.toNat_le b.flag
  have hw : (encode (.vmulh d a b)).toNat = 0x44000003 + d.toNat * 1048576 + a.toNat * 32768 + b.reg.toNat * 1024 + b.flag.toNat * 512 := encode_toNat _ _ rfl (by omega)
  generalize encode (.vmulh d a b) = W at hw ⊢
  have m : fld W 31 25 = 34 := (fld_eq W 31 25 33554432 128 rfl rfl).trans (by omega)
  have k1 : fld W 4 0 = 3 := (fld_eq W 4 0 1 32 rfl rfl).trans (by omega)
  have k2 : fld W 8 5 = 0 := (fld_eq W 8 5 32 16 rfl rfl).trans (by omega)
  have od : fldBv 5 W 20 = d := fldBv_eq W 20 d (by norm_num; omega)
  have oa : fldBv 5 W 15 = a := fldBv_eq W 15 a (by norm_num; omega)
  have ob : vOperand W = b := vOperand_eq W b (by norm_num; omega) (by norm_num; omega)
  rw [dec_22 W m]
  simp [decodeVarith, chk, k1, k2, od, oa, ob]

theorem vdiv (d : VReg) (a : VReg) (b : VOperand) : Statement (.vdiv d a b) := by
  intro _ _
  have hd := d.isLt
  have ha := a.isLt
  have hb := b.reg.isLt
  have hbf := Bool.toNat_le b.flag
  have hw : (encode (.vdiv d a b)).toNat = 0x44000004 + d.toNat * 1048576 + a.toNat * 32768 + b.reg.toNat * 1024 + b.flag.toNat * 512 := encode_toNat _ _ rfl (by omega)
  generalize encode (.vdiv d a b) = W at hw ⊢
  have m : fld W 31 25 = 34 := (fld_eq W 31 25 33554432 128 rfl rfl).trans (by omega)
  have k1 : fld W 4 0 = 4 := (fld_eq W 4 0 1 32 rfl rfl).trans (by omega)
  have k2 : fld W 8 5 = 0 := (fld_eq W 8 5 32 16 rfl rfl).trans (by omega)
  have od : fldBv 5 W 20 = d := fldBv_eq W 20 d (by norm_num; omega)
  have oa : fldBv 5 W 15 = a := fldBv_eq W 15 a (by norm_num; omega)
  have ob : vOperand W = b := vOperand_eq W b (by norm_num; omega) (by norm_num; omega)
  rw [dec_22 W m]
  simp [decodeVarith, chk, k1, k2, od, oa, ob]

theorem vmin (d : VReg) (a : VReg) (b : VOperand) : Statement (.vmin d a b) := by
  intro _ _
  have hd := d.isLt
  have ha := a.isLt
  have hb := b.reg.isLt
  have hbf := Bool.toNat_le b.flag
  have hw : (encode (.vmin d a b)).toNat = 0x44000005 + d.toNat * 1048576 + a.toNat * 32768 + b.reg.toNat * 1024 + b.flag.toNat * 512 := encode_toNat _ _ rfl (by omega)
  generalize encode (.vmin d a b) = W at hw ⊢
  have m : fld W 31 25 = 34 := (fld_eq W 31 25 33554432 128 rfl rfl).trans (by omega)
  have k1 : fld W 4 0 = 5 := (fld_eq W 4 0 1 32 rfl rfl).trans (by omega)
  have k2 : fld W 8 5 = 0 := (fld_eq W 8 5 32 16 rfl rfl).trans (by omega)
  have od : fldBv 5 W 20 = d := fldBv_eq W 20 d (by norm_num; omega)
  have oa : fldBv 5 W 15 = a := fldBv_eq W 15 a (by norm_num; omega)
  have ob : vOperand W = b := vOperand_eq W b (by norm_num; omega) (by norm_num; omega)
  rw [dec_22 W m]
  simp [decodeVarith, chk, k1, k2, od, oa, ob]

theorem vmax (d : VReg) (a : VReg) (b : VOperand) : Statement (.vmax d a b) := by
  intro _ _
  have hd := d.isLt
  have ha := a.isLt
  have hb := b.reg.isLt
  have hbf := Bool.toNat_le b.flag
  have hw : (encode (.vmax d a b)).toNat = 0x44000006 + d.toNat * 1048576 + a.toNat * 32768 + b.reg.toNat * 1024 + b.flag.toNat * 512 := encode_toNat _ _ rfl (by omega)
  generalize encode (.vmax d a b) = W at hw ⊢
  have m : fld W 31 25 = 34 := (fld_eq W 31 25 33554432 128 rfl rfl).trans (by omega)
  have k1 : fld W 4 0 = 6 := (fld_eq W 4 0 1 32 rfl rfl).trans (by omega)
  have k2 : fld W 8 5 = 0 := (fld_eq W 8 5 32 16 rfl rfl).trans (by omega)
  have od : fldBv 5 W 20 = d := fldBv_eq W 20 d (by norm_num; omega)
  have oa : fldBv 5 W 15 = a := fldBv_eq W 15 a (by norm_num; omega)
  have ob : vOperand W = b := vOperand_eq W b (by norm_num; omega) (by norm_num; omega)
  rw [dec_22 W m]
  simp [decodeVarith, chk, k1, k2, od, oa, ob]

theorem vabs (d : VReg) (a : VReg) : Statement (.vabs d a) := by
  intro _ _
  have hd := d.isLt
  have ha := a.isLt
  have hw : (encode (.vabs d a)).toNat = 0x44000007 + d.toNat * 1048576 + a.toNat * 32768 := encode_toNat _ _ rfl (by omega)
  generalize encode (.vabs d a) = W at hw ⊢
  have m : fld W 31 25 = 34 := (fld_eq W 31 25 33554432 128 rfl rfl).trans (by omega)
  have k1 : fld W 4 0 = 7 := (fld_eq W 4 0 1 32 rfl rfl).trans (by omega)
  have k2 : fld W 14 5 = 0 := (fld_eq W 14 5 32 1024 rfl rfl).trans (by omega)
  have od : fldBv 5 W 20 = d := fldBv_eq W 20 d (by norm_num; omega)
  have oa : fldBv 5 W 15 = a := fldBv_eq W 15 a (by norm_num; omega)
  rw [dec_22 W m]
  simp [decodeVarith, chk, k1, k2, od, oa]

theorem vneg (d : VReg) (a : VReg) : Statement (.vneg d a) := by
  intro _ _
  have hd := d.isLt
  have ha := a.isLt
  have hw : (encode (.vneg d a)).toNat = 0x44000008 + d.toNat * 1048576 + a.toNat * 32768 := encode_toNat _ _ rfl (by omega)
  generalize encode (.vneg d a) = W at hw ⊢
  have m : fld W 31 25 = 34 := (fld_eq W 31 25 33554432 128 rfl rfl).trans (by omega)
  have k1 : fld W 4 0 = 8 := (fld_eq W 4 0 1 32 rfl rfl).trans (by omega)
  have k2 : fld W 14 5 = 0 := (fld_eq W 14 5 32 1024 rfl rfl).trans (by omega)
  have od : fldBv 5 W 20 = d := fldBv_eq W 20 d (by norm_num; omega)
  have oa : fldBv 5 W 15 = a := fldBv_eq W 15 a (by norm_num; omega)
  rw [dec_22 W m]
  simp [decodeVarith, chk, k1, k2, od, oa]

theorem vand (d : VReg) (a : VReg) (b : VOperand) : Statement (.vand d a b) := by
  intro _ _
  have hd := d.isLt
  have ha := a.isLt
  have hb := b.reg.isLt
  have hbf := Bool.toNat_le b.flag
  have hw : (encode (.vand d a b)).toNat = 0x44000009 + d.toNat * 1048576 + a.toNat * 32768 + b.reg.toNat * 1024 + b.flag.toNat * 512 := encode_toNat _ _ rfl (by omega)
  generalize encode (.vand d a b) = W at hw ⊢
  have m : fld W 31 25 = 34 := (fld_eq W 31 25 33554432 128 rfl rfl).trans (by omega)
  have k1 : fld W 4 0 = 9 := (fld_eq W 4 0 1 32 rfl rfl).trans (by omega)
  have k2 : fld W 8 5 = 0 := (fld_eq W 8 5 32 16 rfl rfl).trans (by omega)
  have od : fldBv 5 W 20 = d := fldBv_eq W 20 d (by norm_num; omega)
  have oa : fldBv 5 W 15 = a := fldBv_eq W 15 a (by norm_num; omega)
  have ob : vOperand W = b := vOperand_eq W b (by norm_num; omega) (by norm_num; omega)
  rw [dec_22 W m]
  simp [decodeVarith, chk, k1, k2, od, oa, ob]

theorem vor (d : VReg) (a : VReg) (b : VOperand) : Statement (.vor d a b) := by
  intro _ _
  have hd := d.isLt
  have ha := a.isLt
  have hb := b.reg.isLt
  have hbf := Bool.toNat_le b.flag
  have hw : (encode (.vor d a b)).toNat = 0x4400000A + d.toNat * 1048576 + a.toNat * 32768 + b.reg.toNat * 1024 + b.flag.toNat * 512 := encode_toNat _ _ rfl (by omega)
  generalize encode (.vor d a b) = W at hw ⊢
  have m : fld W 31 25 = 34 := (fld_eq W 31 25 33554432 128 rfl rfl).trans (by omega)
  have k1 : fld W 4 0 = 10 := (fld_eq W 4 0 1 32 rfl rfl).trans (by omega)
  have k2 : fld W 8 5 = 0 := (fld_eq W 8 5 32 16 rfl rfl).trans (by omega)
  have od : fldBv 5 W 20 = d := fldBv_eq W 20 d (by norm_num; omega)
  have oa : fldBv 5 W 15 = a := fldBv_eq W 15 a (by norm_num; omega)
  have ob : vOperand W = b := vOperand_eq W b (by norm_num; omega) (by norm_num; omega)
  rw [dec_22 W m]
  simp [decodeVarith, chk, k1, k2, od, oa, ob]

theorem vxor (d : VReg) (a : VReg) (b : VOperand) : Statement (.vxor d a b) := by
  intro _ _
  have hd := d.isLt
  have ha := a.isLt
  have hb := b.reg.isLt
  have hbf := Bool.toNat_le b.flag
  have hw : (encode (.vxor d a b)).toNat = 0x4400000B + d.toNat * 1048576 + a.toNat * 32768 + b.reg.toNat * 1024 + b.flag.toNat * 512 := encode_toNat _ _ rfl (by omega)
  generalize encode (.vxor d a b) = W at hw ⊢
  have m : fld W 31 25 = 34 := (fld_eq W 31 25 33554432 128 rfl rfl).trans (by omega)
  have k1 : fld W 4 0 = 11 := (fld_eq W 4 0 1 32 rfl rfl).trans (by omega)
  have k2 : fld W 8 5 = 0 := (fld_eq W 8 5 32 16 rfl rfl).trans (by omega)
  have od : fldBv 5 W 20 = d := fldBv_eq W 20 d (by norm_num; omega)
  have oa : fldBv 5 W 15 = a := fldBv_eq W 15 a (by norm_num; omega)
  have ob : vOperand W = b := vOperand_eq W b (by norm_num; omega) (by norm_num; omega)
  rw [dec_22 W m]
  simp [decodeVarith, chk, k1, k2, od, oa, ob]

theorem vnot (d : VReg) (a : VReg) : Statement (.vnot d a) := by
  intro _ _
  have hd := d.isLt
  have ha := a.isLt
  have hw : (encode (.vnot d a)).toNat = 0x4400000C + d.toNat * 1048576 + a.toNat * 32768 := encode_toNat _ _ rfl (by omega)
  generalize encode (.vnot d a) = W at hw ⊢
  have m : fld W 31 25 = 34 := (fld_eq W 31 25 33554432 128 rfl rfl).trans (by omega)
  have k1 : fld W 4 0 = 12 := (fld_eq W 4 0 1 32 rfl rfl).trans (by omega)
  have k2 : fld W 14 5 = 0 := (fld_eq W 14 5 32 1024 rfl rfl).trans (by omega)
  have od : fldBv 5 W 20 = d := fldBv_eq W 20 d (by norm_num; omega)
  have oa : fldBv 5 W 15 = a := fldBv_eq W 15 a (by norm_num; omega)
  rw [dec_22 W m]
  simp [decodeVarith, chk, k1, k2, od, oa]

theorem vsll (d : VReg) (a : VReg) (b : VOperand) : Statement (.vsll d a b) := by
  intro _ _
  have hd := d.isLt
  have ha := a.isLt
  have hb := b.reg.isLt
  have hbf := Bool.toNat_le b.flag
  have hw : (encode (.vsll d a b)).toNat = 0x4400000D + d.toNat * 1048576 + a.toNat * 32768 + b.reg.toNat * 1024 + b.flag.toNat * 512 := encode_toNat _ _ rfl (by omega)
  generalize encode (.vsll d a b) = W at hw ⊢
  have m : fld W 31 25 = 34 := (fld_eq W 31 25 33554432 128 rfl rfl).trans (by omega)
  have k1 : fld W 4 0 = 13 := (fld_eq W 4 0 1 32 rfl rfl).trans (by omega)
  have k2 : fld W 8 5 = 0 := (fld_eq W 8 5 32 16 rfl rfl).trans (by omega)
  have od : fldBv 5 W 20 = d := fldBv_eq W 20 d (by norm_num; omega)
  have oa : fldBv 5 W 15 = a := fldBv_eq W 15 a (by norm_num; omega)
  have ob : vOperand W = b := vOperand_eq W b (by norm_num; omega) (by norm_num; omega)
  rw [dec_22 W m]
  simp [decodeVarith, chk, k1, k2, od, oa, ob]

theorem vsrl (d : VReg) (a : VReg) (b : VOperand) : Statement (.vsrl d a b) := by
  intro _ _
  have hd := d.isLt
  have ha := a.isLt
  have hb := b.reg.isLt
  have hbf := Bool.toNat_le b.flag
  have hw : (encode (.vsrl d a b)).toNat = 0x4400000E + d.toNat * 1048576 + a.toNat * 32768 + b.reg.toNat * 1024 + b.flag.toNat * 512 := encode_toNat _ _ rfl (by omega)
  generalize encode (.vsrl d a b) = W at hw ⊢
  have m : fld W 31 25 = 34 := (fld_eq W 31 25 33554432 128 rfl rfl).trans (by omega)
  have k1 : fld W 4 0 = 14 := (fld_eq W 4 0 1 32 rfl rfl).trans (by omega)
  have k2 : fld W 8 5 = 0 := (fld_eq W 8 5 32 16 rfl rfl).trans (by omega)
  have od : fldBv 5 W 20 = d := fldBv_eq W 20 d (by norm_num; omega)
  have oa : fldBv 5 W 15 = a := fldBv_eq W 15 a (by norm_num; omega)
  have ob : vOperand W = b := vOperand_eq W b (by norm_num; omega) (by norm_num; omega)
  rw [dec_22 W m]
  simp [decodeVarith, chk, k1, k2, od, oa, ob]

theorem vsra (d : VReg) (a : VReg) (b : VOperand) : Statement (.vsra d a b) := by
  intro _ _
  have hd := d.isLt
  have ha := a.isLt
  have hb := b.reg.isLt
  have hbf := Bool.toNat_le b.flag
  have hw : (encode (.vsra d a b)).toNat = 0x4400000F + d.toNat * 1048576 + a.toNat * 32768 + b.reg.toNat * 1024 + b.flag.toNat * 512 := encode_toNat _ _ rfl (by omega)
  generalize encode (.vsra d a b) = W at hw ⊢
  have m : fld W 31 25 = 34 := (fld_eq W 31 25 33554432 128 rfl rfl).trans (by omega)
  have k1 : fld W 4 0 = 15 := (fld_eq W 4 0 1 32 rfl rfl).trans (by omega)
  have k2 : fld W 8 5 = 0 := (fld_eq W 8 5 32 16 rfl rfl).trans (by omega)
  have od : fldBv 5 W 20 = d := fldBv_eq W 20 d (by norm_num; omega)
  have oa : fldBv 5 W 15 = a := fldBv_eq W 15 a (by norm_num; omega)
  have ob : vOperand W = b := vOperand_eq W b (by norm_num; omega) (by norm_num; omega)
  rw [dec_22 W m]
  simp [decodeVarith, chk, k1, k2, od, oa, ob]

theorem vdot4 (d : VReg) (a : VReg) (b : VOperand) : Statement (.vdot4 d a b) := by
  intro _ _
  have hd := d.isLt
  have ha := a.isLt
  have hb := b.reg.isLt
  have hbf := Bool.toNat_le b.flag
  have hw : (encode (.vdot4 d a b)).toNat = 0x44000010 + d.toNat * 1048576 + a.toNat * 32768 + b.reg.toNat * 1024 + b.flag.toNat * 512 := encode_toNat _ _ rfl (by omega)
  generalize encode (.vdot4 d a b) = W at hw ⊢
  have m : fld W 31 25 = 34 := (fld_eq W 31 25 33554432 128 rfl rfl).trans (by omega)
  have k1 : fld W 4 0 = 16 := (fld_eq W 4 0 1 32 rfl rfl).trans (by omega)
  have k2 : fld W 8 5 = 0 := (fld_eq W 8 5 32 16 rfl rfl).trans (by omega)
  have od : fldBv 5 W 20 = d := fldBv_eq W 20 d (by norm_num; omega)
  have oa : fldBv 5 W 15 = a := fldBv_eq W 15 a (by norm_num; omega)
  have ob : vOperand W = b := vOperand_eq W b (by norm_num; omega) (by norm_num; omega)
  rw [dec_22 W m]
  simp [decodeVarith, chk, k1, k2, od, oa, ob]

theorem vaddw (d : VReg) (a : VReg) (b : VOperand) : Statement (.vaddw d a b) := by
  intro _ _
  have hd := d.isLt
  have ha := a.isLt
  have hb := b.reg.isLt
  have hbf := Bool.toNat_le b.flag
  have hw : (encode (.vaddw d a b)).toNat = 0x44000011 + d.toNat * 1048576 + a.toNat * 32768 + b.reg.toNat * 1024 + b.flag.toNat * 512 := encode_toNat _ _ rfl (by omega)
  generalize encode (.vaddw d a b) = W at hw ⊢
  have m : fld W 31 25 = 34 := (fld_eq W 31 25 33554432 128 rfl rfl).trans (by omega)
  have k1 : fld W 4 0 = 17 := (fld_eq W 4 0 1 32 rfl rfl).trans (by omega)
  have k2 : fld W 8 5 = 0 := (fld_eq W 8 5 32 16 rfl rfl).trans (by omega)
  have od : fldBv 5 W 20 = d := fldBv_eq W 20 d (by norm_num; omega)
  have oa : fldBv 5 W 15 = a := fldBv_eq W 15 a (by norm_num; omega)
  have ob : vOperand W = b := vOperand_eq W b (by norm_num; omega) (by norm_num; omega)
  rw [dec_22 W m]
  simp [decodeVarith, chk, k1, k2, od, oa, ob]

theorem vclass (d : VReg) (a : VReg) : Statement (.vclass d a) := by
  intro _ _
  have hd := d.isLt
  have ha := a.isLt
  have hw : (encode (.vclass d a)).toNat = 0x44000012 + d.toNat * 1048576 + a.toNat * 32768 := encode_toNat _ _ rfl (by omega)
  generalize encode (.vclass d a) = W at hw ⊢
  have m : fld W 31 25 = 34 := (fld_eq W 31 25 33554432 128 rfl rfl).trans (by omega)
  have k1 : fld W 4 0 = 18 := (fld_eq W 4 0 1 32 rfl rfl).trans (by omega)
  have k2 : fld W 14 5 = 0 := (fld_eq W 14 5 32 1024 rfl rfl).trans (by omega)
  have od : fldBv 5 W 20 = d := fldBv_eq W 20 d (by norm_num; omega)
  have oa : fldBv 5 W 15 = a := fldBv_eq W 15 a (by norm_num; omega)
  rw [dec_22 W m]
  simp [decodeVarith, chk, k1, k2, od, oa]

theorem vsgnj (d : VReg) (a : VReg) (b : VOperand) : Statement (.vsgnj d a b) := by
  intro _ _
  have hd := d.isLt
  have ha := a.isLt
  have hb := b.reg.isLt
  have hbf := Bool.toNat_le b.flag
  have hw : (encode (.vsgnj d a b)).toNat = 0x44000013 + d.toNat * 1048576 + a.toNat * 32768 + b.reg.toNat * 1024 + b.flag.toNat * 512 := encode_toNat _ _ rfl (by omega)
  generalize encode (.vsgnj d a b) = W at hw ⊢
  have m : fld W 31 25 = 34 := (fld_eq W 31 25 33554432 128 rfl rfl).trans (by omega)
  have k1 : fld W 4 0 = 19 := (fld_eq W 4 0 1 32 rfl rfl).trans (by omega)
  have k2 : fld W 6 5 = 0 := (fld_eq W 6 5 32 4 rfl rfl).trans (by omega)
  have k3 : fld W 8 7 = 0 := (fld_eq W 8 7 128 4 rfl rfl).trans (by omega)
  have od : fldBv 5 W 20 = d := fldBv_eq W 20 d (by norm_num; omega)
  have oa : fldBv 5 W 15 = a := fldBv_eq W 15 a (by norm_num; omega)
  have ob : vOperand W = b := vOperand_eq W b (by norm_num; omega) (by norm_num; omega)
  rw [dec_22 W m]
  simp [decodeVarith, chk, k1, k2, k3, od, oa, ob]

theorem vsgnjN (d : VReg) (a : VReg) (b : VOperand) : Statement (.vsgnjN d a b) := by
  intro _ _
  have hd := d.isLt
  have ha := a.isLt
  have hb := b.reg.isLt
  have hbf := Bool.toNat_le b.flag
  have hw : (encode (.vsgnjN d a b)).toNat = 0x44000033 + d.toNat * 1048576 + a.toNat * 32768 + b.reg.toNat * 1024 + b.flag.toNat * 512 := encode_toNat _ _ rfl (by omega)
  generalize encode (.vsgnjN d a b) = W at hw ⊢
  have m : fld W 31 25 = 34 := (fld_eq W 31 25 33554432 128 rfl rfl).trans (by omega)
  have k1 : fld W 4 0 = 19 := (fld_eq W 4 0 1 32 rfl rfl).trans (by omega)
  have k2 : fld W 6 5 = 1 := (fld_eq W 6 5 32 4 rfl rfl).trans (by omega)
  have k3 : fld W 8 7 = 0 := (fld_eq W 8 7 128 4 rfl rfl).trans (by omega)
  have od : fldBv 5 W 20 = d := fldBv_eq W 20 d (by norm_num; omega)
  have oa : fldBv 5 W 15 = a := fldBv_eq W 15 a (by norm_num; omega)
  have ob : vOperand W = b := vOperand_eq W b (by norm_num; omega) (by norm_num; omega)
  rw [dec_22 W m]
  simp [decodeVarith, chk, k1, k2, k3, od, oa, ob]

theorem vsgnjX (d : VReg) (a : VReg) (b : VOperand) : Statement (.vsgnjX d a b) := by
  intro _ _
  have hd := d.isLt
  have ha := a.isLt
  have hb := b.reg.isLt
  have hbf := Bool.toNat_le b.flag
  have hw : (encode (.vsgnjX d a b)).toNat = 0x44000053 + d.toNat * 1048576 + a.toNat * 32768 + b.reg.toNat * 1024 + b.flag.toNat * 512 := encode_toNat _ _ rfl (by omega)
  generalize encode (.vsgnjX d a b) = W at hw ⊢
  have m : fld W 31 25 = 34 := (fld_eq W 31 25 33554432 128 rfl rfl).trans (by omega)
  have k1 : fld W 4 0 = 19 := (fld_eq W 4 0 1 32 rfl rfl).trans (by omega)
  have k2 : fld W 6 5 = 2 := (fld_eq W 6 5 32 4 rfl rfl).trans (by omega)
  have k3 : fld W 8 7 = 0 := (fld_eq W 8 7 128 4 rfl rfl).trans (by omega)
  have od : fldBv 5 W 20 = d := fldBv_eq W 20 d (by norm_num; omega)
  have oa : fldBv 5 W 15 = a := fldBv_eq W 15 a (by norm_num; omega)
  have ob : vOperand W = b := vOperand_eq W b (by norm_num; omega) (by norm_num; omega)
  rw [dec_22 W m]
  simp [decodeVarith, chk, k1, k2, k3, od, oa, ob]

theorem vfma (d : VReg) (a : VReg) (b : VReg) (c : VReg) : Statement (.vfma d a b c) := by
  intro _ _
  have hd := d.isLt
  have ha := a.isLt
  have hb := b.isLt
  have hc := c.isLt
  have hw : (encode (.vfma d a b c)).toNat = 0x46000000 + d.toNat * 1048576 + a.toNat * 32768 + b.toNat * 1024 + c.toNat * 32 := encode_toNat _ _ rfl (by omega)
  generalize encode (.vfma d a b c) = W at hw ⊢
  have m : fld W 31 25 = 35 := (fld_eq W 31 25 33554432 128 rfl rfl).trans (by omega)
  have k1 : fld W 1 0 = 0 := (fld_eq W 1 0 1 4 rfl rfl).trans (by omega)
  have k2 : fld W 4 2 = 0 := (fld_eq W 4 2 4 8 rfl rfl).trans (by omega)
  have od : fldBv 5 W 20 = d := fldBv_eq W 20 d (by norm_num; omega)
  have oa : fldBv 5 W 15 = a := fldBv_eq W 15 a (by norm_num; omega)
  have ob : fldBv 5 W 10 = b := fldBv_eq W 10 b (by norm_num; omega)
  have oc : fldBv 5 W 5 = c := fldBv_eq W 5 c (by norm_num; omega)
  rw [dec_23 W m]
  simp [decodeVfma, chk, k1, k2, od, oa, ob, oc]

theorem vfms (d : VReg) (a : VReg) (b : VReg) (c : VReg) : Statement (.vfms d a b c) := by
  intro _ _
  have hd := d.isLt
  have ha := a.isLt
  have hb := b.isLt
  have hc := c.isLt
  have hw : (encode (.vfms d a b c)).toNat = 0x46000001 + d.toNat * 1048576 + a.toNat * 32768 + b.toNat * 1024 + c.toNat * 32 := encode_toNat _ _ rfl (by omega)
  generalize encode (.vfms d a b c) = W at hw ⊢
  have m : fld W 31 25 = 35 := (fld_eq W 31 25 33554432 128 rfl rfl).trans (by omega)
  have k1 : fld W 1 0 = 1 := (fld_eq W 1 0 1 4 rfl rfl).trans (by omega)
  have k2 : fld W 4 2 = 0 := (fld_eq W 4 2 4 8 rfl rfl).trans (by omega)
  have od : fldBv 5 W 20 = d := fldBv_eq W 20 d (by norm_num; omega)
  have oa : fldBv 5 W 15 = a := fldBv_eq W 15 a (by norm_num; omega)
  have ob : fldBv 5 W 10 = b := fldBv_eq W 10 b (by norm_num; omega)
  have oc : fldBv 5 W 5 = c := fldBv_eq W 5 c (by norm_num; omega)
  rw [dec_23 W m]
  simp [decodeVfma, chk, k1, k2, od, oa, ob, oc]

theorem vfnma (d : VReg) (a : VReg) (b : VReg) (c : VReg) : Statement (.vfnma d a b c) := by
  intro _ _
  have hd := d.isLt
  have ha := a.isLt
  have hb := b.isLt
  have hc := c.isLt
  have hw : (encode (.vfnma d a b c)).toNat = 0x46000002 + d.toNat * 1048576 + a.toNat * 32768 + b.toNat * 1024 + c.toNat * 32 := encode_toNat _ _ rfl (by omega)
  generalize encode (.vfnma d a b c) = W at hw ⊢
  have m : fld W 31 25 = 35 := (fld_eq W 31 25 33554432 128 rfl rfl).trans (by omega)
  have k1 : fld W 1 0 = 2 := (fld_eq W 1 0 1 4 rfl rfl).trans (by omega)
  have k2 : fld W 4 2 = 0 := (fld_eq W 4 2 4 8 rfl rfl).trans (by omega)
  have od : fldBv 5 W 20 = d := fldBv_eq W 20 d (by norm_num; omega)
  have oa : fldBv 5 W 15 = a := fldBv_eq W 15 a (by norm_num; omega)
  have ob : fldBv 5 W 10 = b := fldBv_eq W 10 b (by norm_num; omega)
  have oc : fldBv 5 W 5 = c := fldBv_eq W 5 c (by norm_num; omega)
  rw [dec_23 W m]
  simp [decodeVfma, chk, k1, k2, od, oa, ob, oc]

theorem vfnms (d : VReg) (a : VReg) (b : VReg) (c : VReg) : Statement (.vfnms d a b c) := by
  intro _ _
  have hd := d.isLt
  have ha := a.isLt
  have hb := b.isLt
  have hc := c.isLt
  have hw : (encode (.vfnms d a b c)).toNat = 0x46000003 + d.toNat * 1048576 + a.toNat * 32768 + b.toNat * 1024 + c.toNat * 32 := encode_toNat _ _ rfl (by omega)
  generalize encode (.vfnms d a b c) = W at hw ⊢
  have m : fld W 31 25 = 35 := (fld_eq W 31 25 33554432 128 rfl rfl).trans (by omega)
  have k1 : fld W 1 0 = 3 := (fld_eq W 1 0 1 4 rfl rfl).trans (by omega)
  have k2 : fld W 4 2 = 0 := (fld_eq W 4 2 4 8 rfl rfl).trans (by omega)
  have od : fldBv 5 W 20 = d := fldBv_eq W 20 d (by norm_num; omega)
  have oa : fldBv 5 W 15 = a := fldBv_eq W 15 a (by norm_num; omega)
  have ob : fldBv 5 W 10 = b := fldBv_eq W 10 b (by norm_num; omega)
  have oc : fldBv 5 W 5 = c := fldBv_eq W 5 c (by norm_num; omega)
  rw [dec_23 W m]
  simp [decodeVfma, chk, k1, k2, od, oa, ob, oc]

theorem vcmpEq (d : MReg) (a : VReg) (b : VOperand) : Statement (.vcmpEq d a b) := by
  intro _ _
  have hd := d.isLt
  have ha := a.isLt
  have hb := b.reg.isLt
  have hbf := Bool.toNat_le b.flag
  have hw : (encode (.vcmpEq d a b)).toNat = 0x48000000 + d.toNat * 1048576 + a.toNat * 32768 + b.reg.toNat * 1024 + b.flag.toNat * 512 := encode_toNat _ _ rfl (by omega)
  generalize encode (.vcmpEq d a b) = W at hw ⊢
  have m : fld W 31 25 = 36 := (fld_eq W 31 25 33554432 128 rfl rfl).trans (by omega)
  have k1 : fld W 2 0 = 0 := (fld_eq W 2 0 1 8 rfl rfl).trans (by omega)
  have k2 : fld W 8 3 = 0 := (fld_eq W 8 3 8 64 rfl rfl).trans (by omega)
  have k3 : low3 W 20 = true := decide_eq_true ((fld_eq W 24 23 8388608 4 rfl rfl).trans (by omega))
  have od : fldBv 3 W 20 = d := fldBv_eq W 20 d (by norm_num; omega)
  have oa : fldBv 5 W 15 = a := fldBv_eq W 15 a (by norm_num; omega)
  have ob : vOperand W = b := vOperand_eq W b (by norm_num; omega) (by norm_num; omega)
  rw [dec_24 W m]
  simp [decodeVcmp, chk, k1, k2, k3, od, oa, ob]

theorem vcmpNe (d : MReg) (a : VReg) (b : VOperand) : Statement (.vcmpNe d a b) := by
  intro _ _
  have hd := d.isLt
  have ha := a.isLt
  have hb := b.reg.isLt
  have hbf := Bool.toNat_le b.flag
  have hw : (encode (.vcmpNe d a b)).toNat = 0x48000001 + d.toNat * 1048576 + a.toNat * 32768 + b.reg.toNat * 1024 + b.flag.toNat * 512 := encode_toNat _ _ rfl (by omega)
  generalize encode (.vcmpNe d a b) = W at hw ⊢
  have m : fld W 31 25 = 36 := (fld_eq W 31 25 33554432 128 rfl rfl).trans (by omega)
  have k1 : fld W 2 0 = 1 := (fld_eq W 2 0 1 8 rfl rfl).trans (by omega)
  have k2 : fld W 8 3 = 0 := (fld_eq W 8 3 8 64 rfl rfl).trans (by omega)
  have k3 : low3 W 20 = true := decide_eq_true ((fld_eq W 24 23 8388608 4 rfl rfl).trans (by omega))
  have od : fldBv 3 W 20 = d := fldBv_eq W 20 d (by norm_num; omega)
  have oa : fldBv 5 W 15 = a := fldBv_eq W 15 a (by norm_num; omega)
  have ob : vOperand W = b := vOperand_eq W b (by norm_num; omega) (by norm_num; omega)
  rw [dec_24 W m]
  simp [decodeVcmp, chk, k1, k2, k3, od, oa, ob]

theorem vcmpLt (d : MReg) (a : VReg) (b : VOperand) : Statement (.vcmpLt d a b) := by
  intro _ _
  have hd := d.isLt
  have ha := a.isLt
  have hb := b.reg.isLt
  have hbf := Bool.toNat_le b.flag
  have hw : (encode (.vcmpLt d a b)).toNat = 0x48000002 + d.toNat * 1048576 + a.toNat * 32768 + b.reg.toNat * 1024 + b.flag.toNat * 512 := encode_toNat _ _ rfl (by omega)
  generalize encode (.vcmpLt d a b) = W at hw ⊢
  have m : fld W 31 25 = 36 := (fld_eq W 31 25 33554432 128 rfl rfl).trans (by omega)
  have k1 : fld W 2 0 = 2 := (fld_eq W 2 0 1 8 rfl rfl).trans (by omega)
  have k2 : fld W 8 3 = 0 := (fld_eq W 8 3 8 64 rfl rfl).trans (by omega)
  have k3 : low3 W 20 = true := decide_eq_true ((fld_eq W 24 23 8388608 4 rfl rfl).trans (by omega))
  have od : fldBv 3 W 20 = d := fldBv_eq W 20 d (by norm_num; omega)
  have oa : fldBv 5 W 15 = a := fldBv_eq W 15 a (by norm_num; omega)
  have ob : vOperand W = b := vOperand_eq W b (by norm_num; omega) (by norm_num; omega)
  rw [dec_24 W m]
  simp [decodeVcmp, chk, k1, k2, k3, od, oa, ob]

theorem vcmpLe (d : MReg) (a : VReg) (b : VOperand) : Statement (.vcmpLe d a b) := by
  intro _ _
  have hd := d.isLt
  have ha := a.isLt
  have hb := b.reg.isLt
  have hbf := Bool.toNat_le b.flag
  have hw : (encode (.vcmpLe d a b)).toNat = 0x48000003 + d.toNat * 1048576 + a.toNat * 32768 + b.reg.toNat * 1024 + b.flag.toNat * 512 := encode_toNat _ _ rfl (by omega)
  generalize encode (.vcmpLe d a b) = W at hw ⊢
  have m : fld W 31 25 = 36 := (fld_eq W 31 25 33554432 128 rfl rfl).trans (by omega)
  have k1 : fld W 2 0 = 3 := (fld_eq W 2 0 1 8 rfl rfl).trans (by omega)
  have k2 : fld W 8 3 = 0 := (fld_eq W 8 3 8 64 rfl rfl).trans (by omega)
  have k3 : low3 W 20 = true := decide_eq_true ((fld_eq W 24 23 8388608 4 rfl rfl).trans (by omega))
  have od : fldBv 3 W 20 = d := fldBv_eq W 20 d (by norm_num; omega)
  have oa : fldBv 5 W 15 = a := fldBv_eq W 15 a (by norm_num; omega)
  have ob : vOperand W = b := vOperand_eq W b (by norm_num; omega) (by norm_num; omega)
  rw [dec_24 W m]
  simp [decodeVcmp, chk, k1, k2, k3, od, oa, ob]

theorem vcmpGt (d : MReg) (a : VReg) (b : VOperand) : Statement (.vcmpGt d a b) := by
  intro _ _
  have hd := d.isLt
  have ha := a.isLt
  have hb := b.reg.isLt
  have hbf := Bool.toNat_le b.flag
  have hw : (encode (.vcmpGt d a b)).toNat = 0x48000004 + d.toNat * 1048576 + a.toNat * 32768 + b.reg.toNat * 1024 + b.flag.toNat * 512 := encode_toNat _ _ rfl (by omega)
  generalize encode (.vcmpGt d a b) = W at hw ⊢
  have m : fld W 31 25 = 36 := (fld_eq W 31 25 33554432 128 rfl rfl).trans (by omega)
  have k1 : fld W 2 0 = 4 := (fld_eq W 2 0 1 8 rfl rfl).trans (by omega)
  have k2 : fld W 8 3 = 0 := (fld_eq W 8 3 8 64 rfl rfl).trans (by omega)
  have k3 : low3 W 20 = true := decide_eq_true ((fld_eq W 24 23 8388608 4 rfl rfl).trans (by omega))
  have od : fldBv 3 W 20 = d := fldBv_eq W 20 d (by norm_num; omega)
  have oa : fldBv 5 W 15 = a := fldBv_eq W 15 a (by norm_num; omega)
  have ob : vOperand W = b := vOperand_eq W b (by norm_num; omega) (by norm_num; omega)
  rw [dec_24 W m]
  simp [decodeVcmp, chk, k1, k2, k3, od, oa, ob]

theorem vcmpGe (d : MReg) (a : VReg) (b : VOperand) : Statement (.vcmpGe d a b) := by
  intro _ _
  have hd := d.isLt
  have ha := a.isLt
  have hb := b.reg.isLt
  have hbf := Bool.toNat_le b.flag
  have hw : (encode (.vcmpGe d a b)).toNat = 0x48000005 + d.toNat * 1048576 + a.toNat * 32768 + b.reg.toNat * 1024 + b.flag.toNat * 512 := encode_toNat _ _ rfl (by omega)
  generalize encode (.vcmpGe d a b) = W at hw ⊢
  have m : fld W 31 25 = 36 := (fld_eq W 31 25 33554432 128 rfl rfl).trans (by omega)
  have k1 : fld W 2 0 = 5 := (fld_eq W 2 0 1 8 rfl rfl).trans (by omega)
  have k2 : fld W 8 3 = 0 := (fld_eq W 8 3 8 64 rfl rfl).trans (by omega)
  have k3 : low3 W 20 = true := decide_eq_true ((fld_eq W 24 23 8388608 4 rfl rfl).trans (by omega))
  have od : fldBv 3 W 20 = d := fldBv_eq W 20 d (by norm_num; omega)
  have oa : fldBv 5 W 15 = a := fldBv_eq W 15 a (by norm_num; omega)
  have ob : vOperand W = b := vOperand_eq W b (by norm_num; omega) (by norm_num; omega)
  rw [dec_24 W m]
  simp [decodeVcmp, chk, k1, k2, k3, od, oa, ob]

theorem vcmpUn (d : MReg) (a : VReg) (b : VOperand) : Statement (.vcmpUn d a b) := by
  intro _ _
  have hd := d.isLt
  have ha := a.isLt
  have hb := b.reg.isLt
  have hbf := Bool.toNat_le b.flag
  have hw : (encode (.vcmpUn d a b)).toNat = 0x48000006 + d.toNat * 1048576 + a.toNat * 32768 + b.reg.toNat * 1024 + b.flag.toNat * 512 := encode_toNat _ _ rfl (by omega)
  generalize encode (.vcmpUn d a b) = W at hw ⊢
  have m : fld W 31 25 = 36 := (fld_eq W 31 25 33554432 128 rfl rfl).trans (by omega)
  have k1 : fld W 2 0 = 6 := (fld_eq W 2 0 1 8 rfl rfl).trans (by omega)
  have k2 : fld W 8 3 = 0 := (fld_eq W 8 3 8 64 rfl rfl).trans (by omega)
  have k3 : low3 W 20 = true := decide_eq_true ((fld_eq W 24 23 8388608 4 rfl rfl).trans (by omega))
  have od : fldBv 3 W 20 = d := fldBv_eq W 20 d (by norm_num; omega)
  have oa : fldBv 5 W 15 = a := fldBv_eq W 15 a (by norm_num; omega)
  have ob : vOperand W = b := vOperand_eq W b (by norm_num; omega) (by norm_num; omega)
  rw [dec_24 W m]
  simp [decodeVcmp, chk, k1, k2, k3, od, oa, ob]

theorem vcmpOrd (d : MReg) (a : VReg) (b : VOperand) : Statement (.vcmpOrd d a b) := by
  intro _ _
  have hd := d.isLt
  have ha := a.isLt
  have hb := b.reg.isLt
  have hbf := Bool.toNat_le b.flag
  have hw : (encode (.vcmpOrd d a b)).toNat = 0x48000007 + d.toNat * 1048576 + a.toNat * 32768 + b.reg.toNat * 1024 + b.flag.toNat * 512 := encode_toNat _ _ rfl (by omega)
  generalize encode (.vcmpOrd d a b) = W at hw ⊢
  have m : fld W 31 25 = 36 := (fld_eq W 31 25 33554432 128 rfl rfl).trans (by omega)
  have k1 : fld W 2 0 = 7 := (fld_eq W 2 0 1 8 rfl rfl).trans (by omega)
  have k2 : fld W 8 3 = 0 := (fld_eq W 8 3 8 64 rfl rfl).trans (by omega)
  have k3 : low3 W 20 = true := decide_eq_true ((fld_eq W 24 23 8388608 4 rfl rfl).trans (by omega))
  have od : fldBv 3 W 20 = d := fldBv_eq W 20 d (by norm_num; omega)
  have oa : fldBv 5 W 15 = a := fldBv_eq W 15 a (by norm_num; omega)
  have ob : vOperand W = b := vOperand_eq W b (by norm_num; omega) (by norm_num; omega)
  rw [dec_24 W m]
  simp [decodeVcmp, chk, k1, k2, k3, od, oa, ob]

theorem vsel (d : VReg) (a : VReg) (b : VReg) (c : MReg) : Statement (.vsel d a b c) := by
  intro _ _
  have hd := d.isLt
  have ha := a.isLt
  have hb := b.isLt
  have hc := c.isLt
  have hw : (encode (.vsel d a b c)).toNat = 0x4A000000 + d.toNat * 1048576 + a.toNat * 32768 + b.toNat * 1024 + c.toNat * 32 := encode_toNat _ _ rfl (by omega)
  generalize encode (.vsel d a b c) = W at hw ⊢
  have m : fld W 31 25 = 37 := (fld_eq W 31 25 33554432 128 rfl rfl).trans (by omega)
  have k1 : fld W 4 0 = 0 := (fld_eq W 4 0 1 32 rfl rfl).trans (by omega)
  have k2 : low3 W 5 = true := decide_eq_true ((fld_eq W 9 8 256 4 rfl rfl).trans (by omega))
  have od : fldBv 5 W 20 = d := fldBv_eq W 20 d (by norm_num; omega)
  have oa : fldBv 5 W 15 = a := fldBv_eq W 15 a (by norm_num; omega)
  have ob : fldBv 5 W 10 = b := fldBv_eq W 10 b (by norm_num; omega)
  have oc : fldBv 3 W 5 = c := fldBv_eq W 5 c (by norm_num; omega)
  rw [dec_25 W m]
  simp [decodeVsel, chk, k1, k2, od, oa, ob, oc]

theorem vexp (d : VReg) (a : VReg) : Statement (.vexp d a) := by
  intro _ _
  have hd := d.isLt
  have ha := a.isLt
  have hw : (encode (.vexp d a)).toNat = 0x4C000000 + d.toNat * 1048576 + a.toNat * 32768 := encode_toNat _ _ rfl (by omega)
  generalize encode (.vexp d a) = W at hw ⊢
  have m : fld W 31 25 = 38 := (fld_eq W 31 25 33554432 128 rfl rfl).trans (by omega)
  have k1 : fld W 3 0 = 0 := (fld_eq W 3 0 1 16 rfl rfl).trans (by omega)
  have k2 : fld W 14 4 = 0 := (fld_eq W 14 4 16 2048 rfl rfl).trans (by omega)
  have od : fldBv 5 W 20 = d := fldBv_eq W 20 d (by norm_num; omega)
  have oa : fldBv 5 W 15 = a := fldBv_eq W 15 a (by norm_num; omega)
  rw [dec_26 W m]
  simp [decodeVfunc, chk, k1, k2, od, oa]

theorem vexp2 (d : VReg) (a : VReg) : Statement (.vexp2 d a) := by
  intro _ _
  have hd := d.isLt
  have ha := a.isLt
  have hw : (encode (.vexp2 d a)).toNat = 0x4C000001 + d.toNat * 1048576 + a.toNat * 32768 := encode_toNat _ _ rfl (by omega)
  generalize encode (.vexp2 d a) = W at hw ⊢
  have m : fld W 31 25 = 38 := (fld_eq W 31 25 33554432 128 rfl rfl).trans (by omega)
  have k1 : fld W 3 0 = 1 := (fld_eq W 3 0 1 16 rfl rfl).trans (by omega)
  have k2 : fld W 14 4 = 0 := (fld_eq W 14 4 16 2048 rfl rfl).trans (by omega)
  have od : fldBv 5 W 20 = d := fldBv_eq W 20 d (by norm_num; omega)
  have oa : fldBv 5 W 15 = a := fldBv_eq W 15 a (by norm_num; omega)
  rw [dec_26 W m]
  simp [decodeVfunc, chk, k1, k2, od, oa]

theorem vlog (d : VReg) (a : VReg) : Statement (.vlog d a) := by
  intro _ _
  have hd := d.isLt
  have ha := a.isLt
  have hw : (encode (.vlog d a)).toNat = 0x4C000002 + d.toNat * 1048576 + a.toNat * 32768 := encode_toNat _ _ rfl (by omega)
  generalize encode (.vlog d a) = W at hw ⊢
  have m : fld W 31 25 = 38 := (fld_eq W 31 25 33554432 128 rfl rfl).trans (by omega)
  have k1 : fld W 3 0 = 2 := (fld_eq W 3 0 1 16 rfl rfl).trans (by omega)
  have k2 : fld W 14 4 = 0 := (fld_eq W 14 4 16 2048 rfl rfl).trans (by omega)
  have od : fldBv 5 W 20 = d := fldBv_eq W 20 d (by norm_num; omega)
  have oa : fldBv 5 W 15 = a := fldBv_eq W 15 a (by norm_num; omega)
  rw [dec_26 W m]
  simp [decodeVfunc, chk, k1, k2, od, oa]

theorem vlog2 (d : VReg) (a : VReg) : Statement (.vlog2 d a) := by
  intro _ _
  have hd := d.isLt
  have ha := a.isLt
  have hw : (encode (.vlog2 d a)).toNat = 0x4C000003 + d.toNat * 1048576 + a.toNat * 32768 := encode_toNat _ _ rfl (by omega)
  generalize encode (.vlog2 d a) = W at hw ⊢
  have m : fld W 31 25 = 38 := (fld_eq W 31 25 33554432 128 rfl rfl).trans (by omega)
  have k1 : fld W 3 0 = 3 := (fld_eq W 3 0 1 16 rfl rfl).trans (by omega)
  have k2 : fld W 14 4 = 0 := (fld_eq W 14 4 16 2048 rfl rfl).trans (by omega)
  have od : fldBv 5 W 20 = d := fldBv_eq W 20 d (by norm_num; omega)
  have oa : fldBv 5 W 15 = a := fldBv_eq W 15 a (by norm_num; omega)
  rw [dec_26 W m]
  simp [decodeVfunc, chk, k1, k2, od, oa]

theorem vsin (d : VReg) (a : VReg) : Statement (.vsin d a) := by
  intro _ _
  have hd := d.isLt
  have ha := a.isLt
  have hw : (encode (.vsin d a)).toNat = 0x4C000004 + d.toNat * 1048576 + a.toNat * 32768 := encode_toNat _ _ rfl (by omega)
  generalize encode (.vsin d a) = W at hw ⊢
  have m : fld W 31 25 = 38 := (fld_eq W 31 25 33554432 128 rfl rfl).trans (by omega)
  have k1 : fld W 3 0 = 4 := (fld_eq W 3 0 1 16 rfl rfl).trans (by omega)
  have k2 : fld W 14 4 = 0 := (fld_eq W 14 4 16 2048 rfl rfl).trans (by omega)
  have od : fldBv 5 W 20 = d := fldBv_eq W 20 d (by norm_num; omega)
  have oa : fldBv 5 W 15 = a := fldBv_eq W 15 a (by norm_num; omega)
  rw [dec_26 W m]
  simp [decodeVfunc, chk, k1, k2, od, oa]

theorem vcos (d : VReg) (a : VReg) : Statement (.vcos d a) := by
  intro _ _
  have hd := d.isLt
  have ha := a.isLt
  have hw : (encode (.vcos d a)).toNat = 0x4C000005 + d.toNat * 1048576 + a.toNat * 32768 := encode_toNat _ _ rfl (by omega)
  generalize encode (.vcos d a) = W at hw ⊢
  have m : fld W 31 25 = 38 := (fld_eq W 31 25 33554432 128 rfl rfl).trans (by omega)
  have k1 : fld W 3 0 = 5 := (fld_eq W 3 0 1 16 rfl rfl).trans (by omega)
  have k2 : fld W 14 4 = 0 := (fld_eq W 14 4 16 2048 rfl rfl).trans (by omega)
  have od : fldBv 5 W 20 = d := fldBv_eq W 20 d (by norm_num; omega)
  have oa : fldBv 5 W 15 = a := fldBv_eq W 15 a (by norm_num; omega)
  rw [dec_26 W m]
  simp [decodeVfunc, chk, k1, k2, od, oa]

theorem vtanh (d : VReg) (a : VReg) : Statement (.vtanh d a) := by
  intro _ _
  have hd := d.isLt
  have ha := a.isLt
  have hw : (encode (.vtanh d a)).toNat = 0x4C000006 + d.toNat * 1048576 + a.toNat * 32768 := encode_toNat _ _ rfl (by omega)
  generalize encode (.vtanh d a) = W at hw ⊢
  have m : fld W 31 25 = 38 := (fld_eq W 31 25 33554432 128 rfl rfl).trans (by omega)
  have k1 : fld W 3 0 = 6 := (fld_eq W 3 0 1 16 rfl rfl).trans (by omega)
  have k2 : fld W 14 4 = 0 := (fld_eq W 14 4 16 2048 rfl rfl).trans (by omega)
  have od : fldBv 5 W 20 = d := fldBv_eq W 20 d (by norm_num; omega)
  have oa : fldBv 5 W 15 = a := fldBv_eq W 15 a (by norm_num; omega)
  rw [dec_26 W m]
  simp [decodeVfunc, chk, k1, k2, od, oa]

theorem vsigm (d : VReg) (a : VReg) : Statement (.vsigm d a) := by
  intro _ _
  have hd := d.isLt
  have ha := a.isLt
  have hw : (encode (.vsigm d a)).toNat = 0x4C000007 + d.toNat * 1048576 + a.toNat * 32768 := encode_toNat _ _ rfl (by omega)
  generalize encode (.vsigm d a) = W at hw ⊢
  have m : fld W 31 25 = 38 := (fld_eq W 31 25 33554432 128 rfl rfl).trans (by omega)
  have k1 : fld W 3 0 = 7 := (fld_eq W 3 0 1 16 rfl rfl).trans (by omega)
  have k2 : fld W 14 4 = 0 := (fld_eq W 14 4 16 2048 rfl rfl).trans (by omega)
  have od : fldBv 5 W 20 = d := fldBv_eq W 20 d (by norm_num; omega)
  have oa : fldBv 5 W 15 = a := fldBv_eq W 15 a (by norm_num; omega)
  rw [dec_26 W m]
  simp [decodeVfunc, chk, k1, k2, od, oa]

theorem vrcp (d : VReg) (a : VReg) : Statement (.vrcp d a) := by
  intro _ _
  have hd := d.isLt
  have ha := a.isLt
  have hw : (encode (.vrcp d a)).toNat = 0x4C000008 + d.toNat * 1048576 + a.toNat * 32768 := encode_toNat _ _ rfl (by omega)
  generalize encode (.vrcp d a) = W at hw ⊢
  have m : fld W 31 25 = 38 := (fld_eq W 31 25 33554432 128 rfl rfl).trans (by omega)
  have k1 : fld W 3 0 = 8 := (fld_eq W 3 0 1 16 rfl rfl).trans (by omega)
  have k2 : fld W 14 4 = 0 := (fld_eq W 14 4 16 2048 rfl rfl).trans (by omega)
  have od : fldBv 5 W 20 = d := fldBv_eq W 20 d (by norm_num; omega)
  have oa : fldBv 5 W 15 = a := fldBv_eq W 15 a (by norm_num; omega)
  rw [dec_26 W m]
  simp [decodeVfunc, chk, k1, k2, od, oa]

theorem vsqrt (d : VReg) (a : VReg) : Statement (.vsqrt d a) := by
  intro _ _
  have hd := d.isLt
  have ha := a.isLt
  have hw : (encode (.vsqrt d a)).toNat = 0x4C000009 + d.toNat * 1048576 + a.toNat * 32768 := encode_toNat _ _ rfl (by omega)
  generalize encode (.vsqrt d a) = W at hw ⊢
  have m : fld W 31 25 = 38 := (fld_eq W 31 25 33554432 128 rfl rfl).trans (by omega)
  have k1 : fld W 3 0 = 9 := (fld_eq W 3 0 1 16 rfl rfl).trans (by omega)
  have k2 : fld W 14 4 = 0 := (fld_eq W 14 4 16 2048 rfl rfl).trans (by omega)
  have od : fldBv 5 W 20 = d := fldBv_eq W 20 d (by norm_num; omega)
  have oa : fldBv 5 W 15 = a := fldBv_eq W 15 a (by norm_num; omega)
  rw [dec_26 W m]
  simp [decodeVfunc, chk, k1, k2, od, oa]

theorem vrsqrt (d : VReg) (a : VReg) : Statement (.vrsqrt d a) := by
  intro _ _
  have hd := d.isLt
  have ha := a.isLt
  have hw : (encode (.vrsqrt d a)).toNat = 0x4C00000A + d.toNat * 1048576 + a.toNat * 32768 := encode_toNat _ _ rfl (by omega)
  generalize encode (.vrsqrt d a) = W at hw ⊢
  have m : fld W 31 25 = 38 := (fld_eq W 31 25 33554432 128 rfl rfl).trans (by omega)
  have k1 : fld W 3 0 = 10 := (fld_eq W 3 0 1 16 rfl rfl).trans (by omega)
  have k2 : fld W 14 4 = 0 := (fld_eq W 14 4 16 2048 rfl rfl).trans (by omega)
  have od : fldBv 5 W 20 = d := fldBv_eq W 20 d (by norm_num; omega)
  have oa : fldBv 5 W 15 = a := fldBv_eq W 15 a (by norm_num; omega)
  rw [dec_26 W m]
  simp [decodeVfunc, chk, k1, k2, od, oa]

theorem verf (d : VReg) (a : VReg) : Statement (.verf d a) := by
  intro _ _
  have hd := d.isLt
  have ha := a.isLt
  have hw : (encode (.verf d a)).toNat = 0x4C00000B + d.toNat * 1048576 + a.toNat * 32768 := encode_toNat _ _ rfl (by omega)
  generalize encode (.verf d a) = W at hw ⊢
  have m : fld W 31 25 = 38 := (fld_eq W 31 25 33554432 128 rfl rfl).trans (by omega)
  have k1 : fld W 3 0 = 11 := (fld_eq W 3 0 1 16 rfl rfl).trans (by omega)
  have k2 : fld W 14 4 = 0 := (fld_eq W 14 4 16 2048 rfl rfl).trans (by omega)
  have od : fldBv 5 W 20 = d := fldBv_eq W 20 d (by norm_num; omega)
  have oa : fldBv 5 W 15 = a := fldBv_eq W 15 a (by norm_num; omega)
  rw [dec_26 W m]
  simp [decodeVfunc, chk, k1, k2, od, oa]

theorem vapply (d : VReg) (a : VReg) (b : SReg) : Statement (.vapply d a b) := by
  intro _ _
  have hd := d.isLt
  have ha := a.isLt
  have hb := b.isLt
  have hw : (encode (.vapply d a b)).toNat = 0x4C00000C + d.toNat * 1048576 + a.toNat * 32768 + b.toNat * 1024 := encode_toNat _ _ rfl (by omega)
  generalize encode (.vapply d a b) = W at hw ⊢
  have m : fld W 31 25 = 38 := (fld_eq W 31 25 33554432 128 rfl rfl).trans (by omega)
  have k1 : fld W 3 0 = 12 := (fld_eq W 3 0 1 16 rfl rfl).trans (by omega)
  have k2 : fld W 9 4 = 0 := (fld_eq W 9 4 16 64 rfl rfl).trans (by omega)
  have od : fldBv 5 W 20 = d := fldBv_eq W 20 d (by norm_num; omega)
  have oa : fldBv 5 W 15 = a := fldBv_eq W 15 a (by norm_num; omega)
  have ob : fldBv 5 W 10 = b := fldBv_eq W 10 b (by norm_num; omega)
  rw [dec_26 W m]
  simp [decodeVfunc, chk, k1, k2, od, oa, ob]

theorem vcvt (d : VReg) (a : VReg) : Statement (.vcvt d a) := by
  intro _ _
  have hd := d.isLt
  have ha := a.isLt
  have hw : (encode (.vcvt d a)).toNat = 0x4E000000 + d.toNat * 1048576 + a.toNat * 32768 := encode_toNat _ _ rfl (by omega)
  generalize encode (.vcvt d a) = W at hw ⊢
  have m : fld W 31 25 = 39 := (fld_eq W 31 25 33554432 128 rfl rfl).trans (by omega)
  have k1 : fld W 2 0 = 0 := (fld_eq W 2 0 1 8 rfl rfl).trans (by omega)
  have k2 : fld W 14 3 = 0 := (fld_eq W 14 3 8 4096 rfl rfl).trans (by omega)
  have od : fldBv 5 W 20 = d := fldBv_eq W 20 d (by norm_num; omega)
  have oa : fldBv 5 W 15 = a := fldBv_eq W 15 a (by norm_num; omega)
  rw [dec_27 W m]
  simp [decodeVcvt, chk, k1, k2, od, oa]

theorem vquant (d : VReg) (a : VReg) : Statement (.vquant d a) := by
  intro _ _
  have hd := d.isLt
  have ha := a.isLt
  have hw : (encode (.vquant d a)).toNat = 0x4E000001 + d.toNat * 1048576 + a.toNat * 32768 := encode_toNat _ _ rfl (by omega)
  generalize encode (.vquant d a) = W at hw ⊢
  have m : fld W 31 25 = 39 := (fld_eq W 31 25 33554432 128 rfl rfl).trans (by omega)
  have k1 : fld W 2 0 = 1 := (fld_eq W 2 0 1 8 rfl rfl).trans (by omega)
  have k2 : fld W 14 3 = 0 := (fld_eq W 14 3 8 4096 rfl rfl).trans (by omega)
  have od : fldBv 5 W 20 = d := fldBv_eq W 20 d (by norm_num; omega)
  have oa : fldBv 5 W 15 = a := fldBv_eq W 15 a (by norm_num; omega)
  rw [dec_27 W m]
  simp [decodeVcvt, chk, k1, k2, od, oa]

theorem vhad (d : VReg) (a : VReg) (k : BitVec 5) : Statement (.vhad d a k) := by
  intro hwf _
  simp [WellFormed] at hwf
  have hd := d.isLt
  have ha := a.isLt
  have hk := k.isLt
  have hw : (encode (.vhad d a k)).toNat = 0x4E000002 + d.toNat * 1048576 + a.toNat * 32768 + k.toNat * 32 := encode_toNat _ _ rfl (by omega)
  generalize encode (.vhad d a k) = W at hw ⊢
  have m : fld W 31 25 = 39 := (fld_eq W 31 25 33554432 128 rfl rfl).trans (by omega)
  have k1 : fld W 2 0 = 2 := (fld_eq W 2 0 1 8 rfl rfl).trans (by omega)
  have k2 : fld W 14 10 = 0 := (fld_eq W 14 10 1024 32 rfl rfl).trans (by omega)
  have k3 : fld W 4 3 = 0 := (fld_eq W 4 3 8 4 rfl rfl).trans (by omega)
  have od : fldBv 5 W 20 = d := fldBv_eq W 20 d (by norm_num; omega)
  have oa : fldBv 5 W 15 = a := fldBv_eq W 15 a (by norm_num; omega)
  have ok : fldBv 5 W 5 = k := fldBv_eq W 5 k (by norm_num; omega)
  have k4 : fld W 9 5 ≤ 10 := by rw [fld_eq W 9 5 32 32 rfl rfl]; omega
  rw [dec_27 W m]
  simp [decodeVcvt, chk, k1, k2, k3, od, oa, ok, k4]

theorem vsclget (d : VReg) (a : VReg) : Statement (.vsclget d a) := by
  intro _ _
  have hd := d.isLt
  have ha := a.isLt
  have hw : (encode (.vsclget d a)).toNat = 0x4E000003 + d.toNat * 1048576 + a.toNat * 32768 := encode_toNat _ _ rfl (by omega)
  generalize encode (.vsclget d a) = W at hw ⊢
  have m : fld W 31 25 = 39 := (fld_eq W 31 25 33554432 128 rfl rfl).trans (by omega)
  have k1 : fld W 2 0 = 3 := (fld_eq W 2 0 1 8 rfl rfl).trans (by omega)
  have k2 : fld W 14 3 = 0 := (fld_eq W 14 3 8 4096 rfl rfl).trans (by omega)
  have od : fldBv 5 W 20 = d := fldBv_eq W 20 d (by norm_num; omega)
  have oa : fldBv 5 W 15 = a := fldBv_eq W 15 a (by norm_num; omega)
  rw [dec_27 W m]
  simp [decodeVcvt, chk, k1, k2, od, oa]

theorem vsclset (d : VReg) (a : VReg) : Statement (.vsclset d a) := by
  intro _ _
  have hd := d.isLt
  have ha := a.isLt
  have hw : (encode (.vsclset d a)).toNat = 0x4E000004 + d.toNat * 1048576 + a.toNat * 32768 := encode_toNat _ _ rfl (by omega)
  generalize encode (.vsclset d a) = W at hw ⊢
  have m : fld W 31 25 = 39 := (fld_eq W 31 25 33554432 128 rfl rfl).trans (by omega)
  have k1 : fld W 2 0 = 4 := (fld_eq W 2 0 1 8 rfl rfl).trans (by omega)
  have k2 : fld W 14 3 = 0 := (fld_eq W 14 3 8 4096 rfl rfl).trans (by omega)
  have od : fldBv 5 W 20 = d := fldBv_eq W 20 d (by norm_num; omega)
  have oa : fldBv 5 W 15 = a := fldBv_eq W 15 a (by norm_num; omega)
  rw [dec_27 W m]
  simp [decodeVcvt, chk, k1, k2, od, oa]

theorem vperm (d : VReg) (a : VReg) (b : VReg) : Statement (.vperm d a b) := by
  intro _ _
  have hd := d.isLt
  have ha := a.isLt
  have hb := b.isLt
  have hw : (encode (.vperm d a b)).toNat = 0x50000000 + d.toNat * 1048576 + a.toNat * 32768 + b.toNat * 1024 := encode_toNat _ _ rfl (by omega)
  generalize encode (.vperm d a b) = W at hw ⊢
  have m : fld W 31 25 = 40 := (fld_eq W 31 25 33554432 128 rfl rfl).trans (by omega)
  have k1 : fld W 3 0 = 0 := (fld_eq W 3 0 1 16 rfl rfl).trans (by omega)
  have k2 : fld W 9 4 = 0 := (fld_eq W 9 4 16 64 rfl rfl).trans (by omega)
  have od : fldBv 5 W 20 = d := fldBv_eq W 20 d (by norm_num; omega)
  have oa : fldBv 5 W 15 = a := fldBv_eq W 15 a (by norm_num; omega)
  have ob : fldBv 5 W 10 = b := fldBv_eq W 10 b (by norm_num; omega)
  rw [dec_28 W m]
  simp [decodeVperm, chk, k1, k2, od, oa, ob]

theorem vslideup (d : VReg) (a : VReg) (b : SReg) : Statement (.vslideup d a b) := by
  intro _ _
  have hd := d.isLt
  have ha := a.isLt
  have hb := b.isLt
  have hw : (encode (.vslideup d a b)).toNat = 0x50000001 + d.toNat * 1048576 + a.toNat * 32768 + b.toNat * 1024 := encode_toNat _ _ rfl (by omega)
  generalize encode (.vslideup d a b) = W at hw ⊢
  have m : fld W 31 25 = 40 := (fld_eq W 31 25 33554432 128 rfl rfl).trans (by omega)
  have k1 : fld W 3 0 = 1 := (fld_eq W 3 0 1 16 rfl rfl).trans (by omega)
  have k2 : fld W 9 4 = 0 := (fld_eq W 9 4 16 64 rfl rfl).trans (by omega)
  have od : fldBv 5 W 20 = d := fldBv_eq W 20 d (by norm_num; omega)
  have oa : fldBv 5 W 15 = a := fldBv_eq W 15 a (by norm_num; omega)
  have ob : fldBv 5 W 10 = b := fldBv_eq W 10 b (by norm_num; omega)
  rw [dec_28 W m]
  simp [decodeVperm, chk, k1, k2, od, oa, ob]

theorem vslidedn (d : VReg) (a : VReg) (b : SReg) : Statement (.vslidedn d a b) := by
  intro _ _
  have hd := d.isLt
  have ha := a.isLt
  have hb := b.isLt
  have hw : (encode (.vslidedn d a b)).toNat = 0x50000002 + d.toNat * 1048576 + a.toNat * 32768 + b.toNat * 1024 := encode_toNat _ _ rfl (by omega)
  generalize encode (.vslidedn d a b) = W at hw ⊢
  have m : fld W 31 25 = 40 := (fld_eq W 31 25 33554432 128 rfl rfl).trans (by omega)
  have k1 : fld W 3 0 = 2 := (fld_eq W 3 0 1 16 rfl rfl).trans (by omega)
  have k2 : fld W 9 4 = 0 := (fld_eq W 9 4 16 64 rfl rfl).trans (by omega)
  have od : fldBv 5 W 20 = d := fldBv_eq W 20 d (by norm_num; omega)
  have oa : fldBv 5 W 15 = a := fldBv_eq W 15 a (by norm_num; omega)
  have ob : fldBv 5 W 10 = b := fldBv_eq W 10 b (by norm_num; omega)
  rw [dec_28 W m]
  simp [decodeVperm, chk, k1, k2, od, oa, ob]

theorem vcompress (d : VReg) (a : VReg) (b : MReg) : Statement (.vcompress d a b) := by
  intro _ _
  have hd := d.isLt
  have ha := a.isLt
  have hb := b.isLt
  have hw : (encode (.vcompress d a b)).toNat = 0x50000003 + d.toNat * 1048576 + a.toNat * 32768 + b.toNat * 1024 := encode_toNat _ _ rfl (by omega)
  generalize encode (.vcompress d a b) = W at hw ⊢
  have m : fld W 31 25 = 40 := (fld_eq W 31 25 33554432 128 rfl rfl).trans (by omega)
  have k1 : fld W 3 0 = 3 := (fld_eq W 3 0 1 16 rfl rfl).trans (by omega)
  have k2 : fld W 9 4 = 0 := (fld_eq W 9 4 16 64 rfl rfl).trans (by omega)
  have k3 : low3 W 10 = true := decide_eq_true ((fld_eq W 14 13 8192 4 rfl rfl).trans (by omega))
  have od : fldBv 5 W 20 = d := fldBv_eq W 20 d (by norm_num; omega)
  have oa : fldBv 5 W 15 = a := fldBv_eq W 15 a (by norm_num; omega)
  have ob : fldBv 3 W 10 = b := fldBv_eq W 10 b (by norm_num; omega)
  rw [dec_28 W m]
  simp [decodeVperm, chk, k1, k2, k3, od, oa, ob]

theorem vexpand (d : VReg) (a : VReg) (b : MReg) : Statement (.vexpand d a b) := by
  intro _ _
  have hd := d.isLt
  have ha := a.isLt
  have hb := b.isLt
  have hw : (encode (.vexpand d a b)).toNat = 0x50000004 + d.toNat * 1048576 + a.toNat * 32768 + b.toNat * 1024 := encode_toNat _ _ rfl (by omega)
  generalize encode (.vexpand d a b) = W at hw ⊢
  have m : fld W 31 25 = 40 := (fld_eq W 31 25 33554432 128 rfl rfl).trans (by omega)
  have k1 : fld W 3 0 = 4 := (fld_eq W 3 0 1 16 rfl rfl).trans (by omega)
  have k2 : fld W 9 4 = 0 := (fld_eq W 9 4 16 64 rfl rfl).trans (by omega)
  have k3 : low3 W 10 = true := decide_eq_true ((fld_eq W 14 13 8192 4 rfl rfl).trans (by omega))
  have od : fldBv 5 W 20 = d := fldBv_eq W 20 d (by norm_num; omega)
  have oa : fldBv 5 W 15 = a := fldBv_eq W 15 a (by norm_num; omega)
  have ob : fldBv 3 W 10 = b := fldBv_eq W 10 b (by norm_num; omega)
  rw [dec_28 W m]
  simp [decodeVperm, chk, k1, k2, k3, od, oa, ob]

theorem vzip (d : VReg) (a : VReg) (b : VReg) : Statement (.vzip d a b) := by
  intro _ _
  have hd := d.isLt
  have ha := a.isLt
  have hb := b.isLt
  have hw : (encode (.vzip d a b)).toNat = 0x50000005 + d.toNat * 1048576 + a.toNat * 32768 + b.toNat * 1024 := encode_toNat _ _ rfl (by omega)
  generalize encode (.vzip d a b) = W at hw ⊢
  have m : fld W 31 25 = 40 := (fld_eq W 31 25 33554432 128 rfl rfl).trans (by omega)
  have k1 : fld W 3 0 = 5 := (fld_eq W 3 0 1 16 rfl rfl).trans (by omega)
  have k2 : fld W 9 4 = 0 := (fld_eq W 9 4 16 64 rfl rfl).trans (by omega)
  have od : fldBv 5 W 20 = d := fldBv_eq W 20 d (by norm_num; omega)
  have oa : fldBv 5 W 15 = a := fldBv_eq W 15 a (by norm_num; omega)
  have ob : fldBv 5 W 10 = b := fldBv_eq W 10 b (by norm_num; omega)
  rw [dec_28 W m]
  simp [decodeVperm, chk, k1, k2, od, oa, ob]

theorem vunzip (d : VReg) (a : VReg) (b : VReg) : Statement (.vunzip d a b) := by
  intro _ _
  have hd := d.isLt
  have ha := a.isLt
  have hb := b.isLt
  have hw : (encode (.vunzip d a b)).toNat = 0x50000006 + d.toNat * 1048576 + a.toNat * 32768 + b.toNat * 1024 := encode_toNat _ _ rfl (by omega)
  generalize encode (.vunzip d a b) = W at hw ⊢
  have m : fld W 31 25 = 40 := (fld_eq W 31 25 33554432 128 rfl rfl).trans (by omega)
  have k1 : fld W 3 0 = 6 := (fld_eq W 3 0 1 16 rfl rfl).trans (by omega)
  have k2 : fld W 9 4 = 0 := (fld_eq W 9 4 16 64 rfl rfl).trans (by omega)
  have od : fldBv 5 W 20 = d := fldBv_eq W 20 d (by norm_num; omega)
  have oa : fldBv 5 W 15 = a := fldBv_eq W 15 a (by norm_num; omega)
  have ob : fldBv 5 W 10 = b := fldBv_eq W 10 b (by norm_num; omega)
  rw [dec_28 W m]
  simp [decodeVperm, chk, k1, k2, od, oa, ob]

theorem vbcast (d : VReg) (a : SReg) : Statement (.vbcast d a) := by
  intro _ _
  have hd := d.isLt
  have ha := a.isLt
  have hw : (encode (.vbcast d a)).toNat = 0x50000007 + d.toNat * 1048576 + a.toNat * 32768 := encode_toNat _ _ rfl (by omega)
  generalize encode (.vbcast d a) = W at hw ⊢
  have m : fld W 31 25 = 40 := (fld_eq W 31 25 33554432 128 rfl rfl).trans (by omega)
  have k1 : fld W 3 0 = 7 := (fld_eq W 3 0 1 16 rfl rfl).trans (by omega)
  have k2 : fld W 14 4 = 0 := (fld_eq W 14 4 16 2048 rfl rfl).trans (by omega)
  have od : fldBv 5 W 20 = d := fldBv_eq W 20 d (by norm_num; omega)
  have oa : fldBv 5 W 15 = a := fldBv_eq W 15 a (by norm_num; omega)
  rw [dec_28 W m]
  simp [decodeVperm, chk, k1, k2, od, oa]

theorem vid (d : VReg) : Statement (.vid d) := by
  intro _ _
  have hd := d.isLt
  have hw : (encode (.vid d)).toNat = 0x50000008 + d.toNat * 1048576 := encode_toNat _ _ rfl (by omega)
  generalize encode (.vid d) = W at hw ⊢
  have m : fld W 31 25 = 40 := (fld_eq W 31 25 33554432 128 rfl rfl).trans (by omega)
  have k1 : fld W 3 0 = 8 := (fld_eq W 3 0 1 16 rfl rfl).trans (by omega)
  have k2 : fld W 19 4 = 0 := (fld_eq W 19 4 16 65536 rfl rfl).trans (by omega)
  have od : fldBv 5 W 20 = d := fldBv_eq W 20 d (by norm_num; omega)
  rw [dec_28 W m]
  simp [decodeVperm, chk, k1, k2, od]

theorem vext (d : SReg) (a : VReg) (b : SReg) : Statement (.vext d a b) := by
  intro _ _
  have hd := d.isLt
  have ha := a.isLt
  have hb := b.isLt
  have hw : (encode (.vext d a b)).toNat = 0x50000009 + d.toNat * 1048576 + a.toNat * 32768 + b.toNat * 1024 := encode_toNat _ _ rfl (by omega)
  generalize encode (.vext d a b) = W at hw ⊢
  have m : fld W 31 25 = 40 := (fld_eq W 31 25 33554432 128 rfl rfl).trans (by omega)
  have k1 : fld W 3 0 = 9 := (fld_eq W 3 0 1 16 rfl rfl).trans (by omega)
  have k2 : fld W 9 4 = 0 := (fld_eq W 9 4 16 64 rfl rfl).trans (by omega)
  have od : fldBv 5 W 20 = d := fldBv_eq W 20 d (by norm_num; omega)
  have oa : fldBv 5 W 15 = a := fldBv_eq W 15 a (by norm_num; omega)
  have ob : fldBv 5 W 10 = b := fldBv_eq W 10 b (by norm_num; omega)
  rw [dec_28 W m]
  simp [decodeVperm, chk, k1, k2, od, oa, ob]

theorem vins (d : VReg) (a : SReg) (b : SReg) : Statement (.vins d a b) := by
  intro _ _
  have hd := d.isLt
  have ha := a.isLt
  have hb := b.isLt
  have hw : (encode (.vins d a b)).toNat = 0x5000000A + d.toNat * 1048576 + a.toNat * 32768 + b.toNat * 1024 := encode_toNat _ _ rfl (by omega)
  generalize encode (.vins d a b) = W at hw ⊢
  have m : fld W 31 25 = 40 := (fld_eq W 31 25 33554432 128 rfl rfl).trans (by omega)
  have k1 : fld W 3 0 = 10 := (fld_eq W 3 0 1 16 rfl rfl).trans (by omega)
  have k2 : fld W 9 4 = 0 := (fld_eq W 9 4 16 64 rfl rfl).trans (by omega)
  have od : fldBv 5 W 20 = d := fldBv_eq W 20 d (by norm_num; omega)
  have oa : fldBv 5 W 15 = a := fldBv_eq W 15 a (by norm_num; omega)
  have ob : fldBv 5 W 10 = b := fldBv_eq W 10 b (by norm_num; omega)
  rw [dec_28 W m]
  simp [decodeVperm, chk, k1, k2, od, oa, ob]

theorem vmv (d : VReg) (a : VReg) : Statement (.vmv d a) := by
  intro _ _
  have hd := d.isLt
  have ha := a.isLt
  have hw : (encode (.vmv d a)).toNat = 0x5000000B + d.toNat * 1048576 + a.toNat * 32768 := encode_toNat _ _ rfl (by omega)
  generalize encode (.vmv d a) = W at hw ⊢
  have m : fld W 31 25 = 40 := (fld_eq W 31 25 33554432 128 rfl rfl).trans (by omega)
  have k1 : fld W 3 0 = 11 := (fld_eq W 3 0 1 16 rfl rfl).trans (by omega)
  have k2 : fld W 14 4 = 0 := (fld_eq W 14 4 16 2048 rfl rfl).trans (by omega)
  have od : fldBv 5 W 20 = d := fldBv_eq W 20 d (by norm_num; omega)
  have oa : fldBv 5 W 15 = a := fldBv_eq W 15 a (by norm_num; omega)
  rw [dec_28 W m]
  simp [decodeVperm, chk, k1, k2, od, oa]

theorem vredSum (d : VReg) (a : VReg) : Statement (.vredSum d a) := by
  intro _ _
  have hd := d.isLt
  have ha := a.isLt
  have hw : (encode (.vredSum d a)).toNat = 0x52000000 + d.toNat * 1048576 + a.toNat * 32768 := encode_toNat _ _ rfl (by omega)
  generalize encode (.vredSum d a) = W at hw ⊢
  have m : fld W 31 25 = 41 := (fld_eq W 31 25 33554432 128 rfl rfl).trans (by omega)
  have k1 : fld W 3 0 = 0 := (fld_eq W 3 0 1 16 rfl rfl).trans (by omega)
  have k2 : fld W 7 4 = 0 := (fld_eq W 7 4 16 16 rfl rfl).trans (by omega)
  have k3 : fld W 14 8 = 0 := (fld_eq W 14 8 256 128 rfl rfl).trans (by omega)
  have od : fldBv 5 W 20 = d := fldBv_eq W 20 d (by norm_num; omega)
  have oa : fldBv 5 W 15 = a := fldBv_eq W 15 a (by norm_num; omega)
  rw [dec_29 W m]
  simp [decodeVred, chk, k1, k2, k3, od, oa]

theorem vredMin (d : VReg) (a : VReg) : Statement (.vredMin d a) := by
  intro _ _
  have hd := d.isLt
  have ha := a.isLt
  have hw : (encode (.vredMin d a)).toNat = 0x52000010 + d.toNat * 1048576 + a.toNat * 32768 := encode_toNat _ _ rfl (by omega)
  generalize encode (.vredMin d a) = W at hw ⊢
  have m : fld W 31 25 = 41 := (fld_eq W 31 25 33554432 128 rfl rfl).trans (by omega)
  have k1 : fld W 3 0 = 0 := (fld_eq W 3 0 1 16 rfl rfl).trans (by omega)
  have k2 : fld W 7 4 = 1 := (fld_eq W 7 4 16 16 rfl rfl).trans (by omega)
  have k3 : fld W 14 8 = 0 := (fld_eq W 14 8 256 128 rfl rfl).trans (by omega)
  have od : fldBv 5 W 20 = d := fldBv_eq W 20 d (by norm_num; omega)
  have oa : fldBv 5 W 15 = a := fldBv_eq W 15 a (by norm_num; omega)
  rw [dec_29 W m]
  simp [decodeVred, chk, k1, k2, k3, od, oa]

theorem vredMax (d : VReg) (a : VReg) : Statement (.vredMax d a) := by
  intro _ _
  have hd := d.isLt
  have ha := a.isLt
  have hw : (encode (.vredMax d a)).toNat = 0x52000020 + d.toNat * 1048576 + a.toNat * 32768 := encode_toNat _ _ rfl (by omega)
  generalize encode (.vredMax d a) = W at hw ⊢
  have m : fld W 31 25 = 41 := (fld_eq W 31 25 33554432 128 rfl rfl).trans (by omega)
  have k1 : fld W 3 0 = 0 := (fld_eq W 3 0 1 16 rfl rfl).trans (by omega)
  have k2 : fld W 7 4 = 2 := (fld_eq W 7 4 16 16 rfl rfl).trans (by omega)
  have k3 : fld W 14 8 = 0 := (fld_eq W 14 8 256 128 rfl rfl).trans (by omega)
  have od : fldBv 5 W 20 = d := fldBv_eq W 20 d (by norm_num; omega)
  have oa : fldBv 5 W 15 = a := fldBv_eq W 15 a (by norm_num; omega)
  rw [dec_29 W m]
  simp [decodeVred, chk, k1, k2, k3, od, oa]

theorem vredAnd (d : VReg) (a : VReg) : Statement (.vredAnd d a) := by
  intro _ _
  have hd := d.isLt
  have ha := a.isLt
  have hw : (encode (.vredAnd d a)).toNat = 0x52000030 + d.toNat * 1048576 + a.toNat * 32768 := encode_toNat _ _ rfl (by omega)
  generalize encode (.vredAnd d a) = W at hw ⊢
  have m : fld W 31 25 = 41 := (fld_eq W 31 25 33554432 128 rfl rfl).trans (by omega)
  have k1 : fld W 3 0 = 0 := (fld_eq W 3 0 1 16 rfl rfl).trans (by omega)
  have k2 : fld W 7 4 = 3 := (fld_eq W 7 4 16 16 rfl rfl).trans (by omega)
  have k3 : fld W 14 8 = 0 := (fld_eq W 14 8 256 128 rfl rfl).trans (by omega)
  have od : fldBv 5 W 20 = d := fldBv_eq W 20 d (by norm_num; omega)
  have oa : fldBv 5 W 15 = a := fldBv_eq W 15 a (by norm_num; omega)
  rw [dec_29 W m]
  simp [decodeVred, chk, k1, k2, k3, od, oa]

theorem vredOr (d : VReg) (a : VReg) : Statement (.vredOr d a) := by
  intro _ _
  have hd := d.isLt
  have ha := a.isLt
  have hw : (encode (.vredOr d a)).toNat = 0x52000040 + d.toNat * 1048576 + a.toNat * 32768 := encode_toNat _ _ rfl (by omega)
  generalize encode (.vredOr d a) = W at hw ⊢
  have m : fld W 31 25 = 41 := (fld_eq W 31 25 33554432 128 rfl rfl).trans (by omega)
  have k1 : fld W 3 0 = 0 := (fld_eq W 3 0 1 16 rfl rfl).trans (by omega)
  have k2 : fld W 7 4 = 4 := (fld_eq W 7 4 16 16 rfl rfl).trans (by omega)
  have k3 : fld W 14 8 = 0 := (fld_eq W 14 8 256 128 rfl rfl).trans (by omega)
  have od : fldBv 5 W 20 = d := fldBv_eq W 20 d (by norm_num; omega)
  have oa : fldBv 5 W 15 = a := fldBv_eq W 15 a (by norm_num; omega)
  rw [dec_29 W m]
  simp [decodeVred, chk, k1, k2, k3, od, oa]

theorem vredXor (d : VReg) (a : VReg) : Statement (.vredXor d a) := by
  intro _ _
  have hd := d.isLt
  have ha := a.isLt
  have hw : (encode (.vredXor d a)).toNat = 0x52000050 + d.toNat * 1048576 + a.toNat * 32768 := encode_toNat _ _ rfl (by omega)
  generalize encode (.vredXor d a) = W at hw ⊢
  have m : fld W 31 25 = 41 := (fld_eq W 31 25 33554432 128 rfl rfl).trans (by omega)
  have k1 : fld W 3 0 = 0 := (fld_eq W 3 0 1 16 rfl rfl).trans (by omega)
  have k2 : fld W 7 4 = 5 := (fld_eq W 7 4 16 16 rfl rfl).trans (by omega)
  have k3 : fld W 14 8 = 0 := (fld_eq W 14 8 256 128 rfl rfl).trans (by omega)
  have od : fldBv 5 W 20 = d := fldBv_eq W 20 d (by norm_num; omega)
  have oa : fldBv 5 W 15 = a := fldBv_eq W 15 a (by norm_num; omega)
  rw [dec_29 W m]
  simp [decodeVred, chk, k1, k2, k3, od, oa]

theorem vscanSum (d : VReg) (a : VReg) : Statement (.vscanSum d a) := by
  intro _ _
  have hd := d.isLt
  have ha := a.isLt
  have hw : (encode (.vscanSum d a)).toNat = 0x52000001 + d.toNat * 1048576 + a.toNat * 32768 := encode_toNat _ _ rfl (by omega)
  generalize encode (.vscanSum d a) = W at hw ⊢
  have m : fld W 31 25 = 41 := (fld_eq W 31 25 33554432 128 rfl rfl).trans (by omega)
  have k1 : fld W 3 0 = 1 := (fld_eq W 3 0 1 16 rfl rfl).trans (by omega)
  have k2 : fld W 7 4 = 0 := (fld_eq W 7 4 16 16 rfl rfl).trans (by omega)
  have k3 : fld W 14 8 = 0 := (fld_eq W 14 8 256 128 rfl rfl).trans (by omega)
  have od : fldBv 5 W 20 = d := fldBv_eq W 20 d (by norm_num; omega)
  have oa : fldBv 5 W 15 = a := fldBv_eq W 15 a (by norm_num; omega)
  rw [dec_29 W m]
  simp [decodeVred, chk, k1, k2, k3, od, oa]

theorem vscanMin (d : VReg) (a : VReg) : Statement (.vscanMin d a) := by
  intro _ _
  have hd := d.isLt
  have ha := a.isLt
  have hw : (encode (.vscanMin d a)).toNat = 0x52000011 + d.toNat * 1048576 + a.toNat * 32768 := encode_toNat _ _ rfl (by omega)
  generalize encode (.vscanMin d a) = W at hw ⊢
  have m : fld W 31 25 = 41 := (fld_eq W 31 25 33554432 128 rfl rfl).trans (by omega)
  have k1 : fld W 3 0 = 1 := (fld_eq W 3 0 1 16 rfl rfl).trans (by omega)
  have k2 : fld W 7 4 = 1 := (fld_eq W 7 4 16 16 rfl rfl).trans (by omega)
  have k3 : fld W 14 8 = 0 := (fld_eq W 14 8 256 128 rfl rfl).trans (by omega)
  have od : fldBv 5 W 20 = d := fldBv_eq W 20 d (by norm_num; omega)
  have oa : fldBv 5 W 15 = a := fldBv_eq W 15 a (by norm_num; omega)
  rw [dec_29 W m]
  simp [decodeVred, chk, k1, k2, k3, od, oa]

theorem vscanMax (d : VReg) (a : VReg) : Statement (.vscanMax d a) := by
  intro _ _
  have hd := d.isLt
  have ha := a.isLt
  have hw : (encode (.vscanMax d a)).toNat = 0x52000021 + d.toNat * 1048576 + a.toNat * 32768 := encode_toNat _ _ rfl (by omega)
  generalize encode (.vscanMax d a) = W at hw ⊢
  have m : fld W 31 25 = 41 := (fld_eq W 31 25 33554432 128 rfl rfl).trans (by omega)
  have k1 : fld W 3 0 = 1 := (fld_eq W 3 0 1 16 rfl rfl).trans (by omega)
  have k2 : fld W 7 4 = 2 := (fld_eq W 7 4 16 16 rfl rfl).trans (by omega)
  have k3 : fld W 14 8 = 0 := (fld_eq W 14 8 256 128 rfl rfl).trans (by omega)
  have od : fldBv 5 W 20 = d := fldBv_eq W 20 d (by norm_num; omega)
  have oa : fldBv 5 W 15 = a := fldBv_eq W 15 a (by norm_num; omega)
  rw [dec_29 W m]
  simp [decodeVred, chk, k1, k2, k3, od, oa]

theorem vscanAnd (d : VReg) (a : VReg) : Statement (.vscanAnd d a) := by
  intro _ _
  have hd := d.isLt
  have ha := a.isLt
  have hw : (encode (.vscanAnd d a)).toNat = 0x52000031 + d.toNat * 1048576 + a.toNat * 32768 := encode_toNat _ _ rfl (by omega)
  generalize encode (.vscanAnd d a) = W at hw ⊢
  have m : fld W 31 25 = 41 := (fld_eq W 31 25 33554432 128 rfl rfl).trans (by omega)
  have k1 : fld W 3 0 = 1 := (fld_eq W 3 0 1 16 rfl rfl).trans (by omega)
  have k2 : fld W 7 4 = 3 := (fld_eq W 7 4 16 16 rfl rfl).trans (by omega)
  have k3 : fld W 14 8 = 0 := (fld_eq W 14 8 256 128 rfl rfl).trans (by omega)
  have od : fldBv 5 W 20 = d := fldBv_eq W 20 d (by norm_num; omega)
  have oa : fldBv 5 W 15 = a := fldBv_eq W 15 a (by norm_num; omega)
  rw [dec_29 W m]
  simp [decodeVred, chk, k1, k2, k3, od, oa]

theorem vscanOr (d : VReg) (a : VReg) : Statement (.vscanOr d a) := by
  intro _ _
  have hd := d.isLt
  have ha := a.isLt
  have hw : (encode (.vscanOr d a)).toNat = 0x52000041 + d.toNat * 1048576 + a.toNat * 32768 := encode_toNat _ _ rfl (by omega)
  generalize encode (.vscanOr d a) = W at hw ⊢
  have m : fld W 31 25 = 41 := (fld_eq W 31 25 33554432 128 rfl rfl).trans (by omega)
  have k1 : fld W 3 0 = 1 := (fld_eq W 3 0 1 16 rfl rfl).trans (by omega)
  have k2 : fld W 7 4 = 4 := (fld_eq W 7 4 16 16 rfl rfl).trans (by omega)
  have k3 : fld W 14 8 = 0 := (fld_eq W 14 8 256 128 rfl rfl).trans (by omega)
  have od : fldBv 5 W 20 = d := fldBv_eq W 20 d (by norm_num; omega)
  have oa : fldBv 5 W 15 = a := fldBv_eq W 15 a (by norm_num; omega)
  rw [dec_29 W m]
  simp [decodeVred, chk, k1, k2, k3, od, oa]

theorem vscanXor (d : VReg) (a : VReg) : Statement (.vscanXor d a) := by
  intro _ _
  have hd := d.isLt
  have ha := a.isLt
  have hw : (encode (.vscanXor d a)).toNat = 0x52000051 + d.toNat * 1048576 + a.toNat * 32768 := encode_toNat _ _ rfl (by omega)
  generalize encode (.vscanXor d a) = W at hw ⊢
  have m : fld W 31 25 = 41 := (fld_eq W 31 25 33554432 128 rfl rfl).trans (by omega)
  have k1 : fld W 3 0 = 1 := (fld_eq W 3 0 1 16 rfl rfl).trans (by omega)
  have k2 : fld W 7 4 = 5 := (fld_eq W 7 4 16 16 rfl rfl).trans (by omega)
  have k3 : fld W 14 8 = 0 := (fld_eq W 14 8 256 128 rfl rfl).trans (by omega)
  have od : fldBv 5 W 20 = d := fldBv_eq W 20 d (by norm_num; omega)
  have oa : fldBv 5 W 15 = a := fldBv_eq W 15 a (by norm_num; omega)
  rw [dec_29 W m]
  simp [decodeVred, chk, k1, k2, k3, od, oa]

theorem mand (d : MReg) (a : MReg) (b : MReg) : Statement (.mand d a b) := by
  intro _ _
  have hd := d.isLt
  have ha := a.isLt
  have hb := b.isLt
  have hw : (encode (.mand d a b)).toNat = 0x54000000 + d.toNat * 1048576 + a.toNat * 32768 + b.toNat * 1024 := encode_toNat _ _ rfl (by omega)
  generalize encode (.mand d a b) = W at hw ⊢
  have m : fld W 31 25 = 42 := (fld_eq W 31 25 33554432 128 rfl rfl).trans (by omega)
  have k1 : fld W 2 0 = 0 := (fld_eq W 2 0 1 8 rfl rfl).trans (by omega)
  have k2 : fld W 9 3 = 0 := (fld_eq W 9 3 8 128 rfl rfl).trans (by omega)
  have k3 : low3 W 20 = true := decide_eq_true ((fld_eq W 24 23 8388608 4 rfl rfl).trans (by omega))
  have k4 : low3 W 15 = true := decide_eq_true ((fld_eq W 19 18 262144 4 rfl rfl).trans (by omega))
  have k5 : low3 W 10 = true := decide_eq_true ((fld_eq W 14 13 8192 4 rfl rfl).trans (by omega))
  have od : fldBv 3 W 20 = d := fldBv_eq W 20 d (by norm_num; omega)
  have oa : fldBv 3 W 15 = a := fldBv_eq W 15 a (by norm_num; omega)
  have ob : fldBv 3 W 10 = b := fldBv_eq W 10 b (by norm_num; omega)
  rw [dec_2a W m]
  simp [decodeMask, chk, k1, k2, k3, k4, k5, od, oa, ob]

theorem mor (d : MReg) (a : MReg) (b : MReg) : Statement (.mor d a b) := by
  intro _ _
  have hd := d.isLt
  have ha := a.isLt
  have hb := b.isLt
  have hw : (encode (.mor d a b)).toNat = 0x54000001 + d.toNat * 1048576 + a.toNat * 32768 + b.toNat * 1024 := encode_toNat _ _ rfl (by omega)
  generalize encode (.mor d a b) = W at hw ⊢
  have m : fld W 31 25 = 42 := (fld_eq W 31 25 33554432 128 rfl rfl).trans (by omega)
  have k1 : fld W 2 0 = 1 := (fld_eq W 2 0 1 8 rfl rfl).trans (by omega)
  have k2 : fld W 9 3 = 0 := (fld_eq W 9 3 8 128 rfl rfl).trans (by omega)
  have k3 : low3 W 20 = true := decide_eq_true ((fld_eq W 24 23 8388608 4 rfl rfl).trans (by omega))
  have k4 : low3 W 15 = true := decide_eq_true ((fld_eq W 19 18 262144 4 rfl rfl).trans (by omega))
  have k5 : low3 W 10 = true := decide_eq_true ((fld_eq W 14 13 8192 4 rfl rfl).trans (by omega))
  have od : fldBv 3 W 20 = d := fldBv_eq W 20 d (by norm_num; omega)
  have oa : fldBv 3 W 15 = a := fldBv_eq W 15 a (by norm_num; omega)
  have ob : fldBv 3 W 10 = b := fldBv_eq W 10 b (by norm_num; omega)
  rw [dec_2a W m]
  simp [decodeMask, chk, k1, k2, k3, k4, k5, od, oa, ob]

theorem mxor (d : MReg) (a : MReg) (b : MReg) : Statement (.mxor d a b) := by
  intro _ _
  have hd := d.isLt
  have ha := a.isLt
  have hb := b.isLt
  have hw : (encode (.mxor d a b)).toNat = 0x54000002 + d.toNat * 1048576 + a.toNat * 32768 + b.toNat * 1024 := encode_toNat _ _ rfl (by omega)
  generalize encode (.mxor d a b) = W at hw ⊢
  have m : fld W 31 25 = 42 := (fld_eq W 31 25 33554432 128 rfl rfl).trans (by omega)
  have k1 : fld W 2 0 = 2 := (fld_eq W 2 0 1 8 rfl rfl).trans (by omega)
  have k2 : fld W 9 3 = 0 := (fld_eq W 9 3 8 128 rfl rfl).trans (by omega)
  have k3 : low3 W 20 = true := decide_eq_true ((fld_eq W 24 23 8388608 4 rfl rfl).trans (by omega))
  have k4 : low3 W 15 = true := decide_eq_true ((fld_eq W 19 18 262144 4 rfl rfl).trans (by omega))
  have k5 : low3 W 10 = true := decide_eq_true ((fld_eq W 14 13 8192 4 rfl rfl).trans (by omega))
  have od : fldBv 3 W 20 = d := fldBv_eq W 20 d (by norm_num; omega)
  have oa : fldBv 3 W 15 = a := fldBv_eq W 15 a (by norm_num; omega)
  have ob : fldBv 3 W 10 = b := fldBv_eq W 10 b (by norm_num; omega)
  rw [dec_2a W m]
  simp [decodeMask, chk, k1, k2, k3, k4, k5, od, oa, ob]

theorem mnot (d : MReg) (a : MReg) : Statement (.mnot d a) := by
  intro _ _
  have hd := d.isLt
  have ha := a.isLt
  have hw : (encode (.mnot d a)).toNat = 0x54000003 + d.toNat * 1048576 + a.toNat * 32768 := encode_toNat _ _ rfl (by omega)
  generalize encode (.mnot d a) = W at hw ⊢
  have m : fld W 31 25 = 42 := (fld_eq W 31 25 33554432 128 rfl rfl).trans (by omega)
  have k1 : fld W 2 0 = 3 := (fld_eq W 2 0 1 8 rfl rfl).trans (by omega)
  have k2 : fld W 14 3 = 0 := (fld_eq W 14 3 8 4096 rfl rfl).trans (by omega)
  have k3 : low3 W 20 = true := decide_eq_true ((fld_eq W 24 23 8388608 4 rfl rfl).trans (by omega))
  have k4 : low3 W 15 = true := decide_eq_true ((fld_eq W 19 18 262144 4 rfl rfl).trans (by omega))
  have od : fldBv 3 W 20 = d := fldBv_eq W 20 d (by norm_num; omega)
  have oa : fldBv 3 W 15 = a := fldBv_eq W 15 a (by norm_num; omega)
  rw [dec_2a W m]
  simp [decodeMask, chk, k1, k2, k3, k4, od, oa]

theorem mpop (d : SReg) (a : MReg) : Statement (.mpop d a) := by
  intro _ _
  have hd := d.isLt
  have ha := a.isLt
  have hw : (encode (.mpop d a)).toNat = 0x54000004 + d.toNat * 1048576 + a.toNat * 32768 := encode_toNat _ _ rfl (by omega)
  generalize encode (.mpop d a) = W at hw ⊢
  have m : fld W 31 25 = 42 := (fld_eq W 31 25 33554432 128 rfl rfl).trans (by omega)
  have k1 : fld W 2 0 = 4 := (fld_eq W 2 0 1 8 rfl rfl).trans (by omega)
  have k2 : fld W 14 3 = 0 := (fld_eq W 14 3 8 4096 rfl rfl).trans (by omega)
  have k3 : low3 W 15 = true := decide_eq_true ((fld_eq W 19 18 262144 4 rfl rfl).trans (by omega))
  have od : fldBv 5 W 20 = d := fldBv_eq W 20 d (by norm_num; omega)
  have oa : fldBv 3 W 15 = a := fldBv_eq W 15 a (by norm_num; omega)
  rw [dec_2a W m]
  simp [decodeMask, chk, k1, k2, k3, od, oa]

theorem mfirst (d : SReg) (a : MReg) : Statement (.mfirst d a) := by
  intro _ _
  have hd := d.isLt
  have ha := a.isLt
  have hw : (encode (.mfirst d a)).toNat = 0x54000005 + d.toNat * 1048576 + a.toNat * 32768 := encode_toNat _ _ rfl (by omega)
  generalize encode (.mfirst d a) = W at hw ⊢
  have m : fld W 31 25 = 42 := (fld_eq W 31 25 33554432 128 rfl rfl).trans (by omega)
  have k1 : fld W 2 0 = 5 := (fld_eq W 2 0 1 8 rfl rfl).trans (by omega)
  have k2 : fld W 14 3 = 0 := (fld_eq W 14 3 8 4096 rfl rfl).trans (by omega)
  have k3 : low3 W 15 = true := decide_eq_true ((fld_eq W 19 18 262144 4 rfl rfl).trans (by omega))
  have od : fldBv 5 W 20 = d := fldBv_eq W 20 d (by norm_num; omega)
  have oa : fldBv 3 W 15 = a := fldBv_eq W 15 a (by norm_num; omega)
  rw [dec_2a W m]
  simp [decodeMask, chk, k1, k2, k3, od, oa]

theorem mset (d : MReg) (a : SReg) : Statement (.mset d a) := by
  intro _ _
  have hd := d.isLt
  have ha := a.isLt
  have hw : (encode (.mset d a)).toNat = 0x54000006 + d.toNat * 1048576 + a.toNat * 32768 := encode_toNat _ _ rfl (by omega)
  generalize encode (.mset d a) = W at hw ⊢
  have m : fld W 31 25 = 42 := (fld_eq W 31 25 33554432 128 rfl rfl).trans (by omega)
  have k1 : fld W 2 0 = 6 := (fld_eq W 2 0 1 8 rfl rfl).trans (by omega)
  have k2 : fld W 14 3 = 0 := (fld_eq W 14 3 8 4096 rfl rfl).trans (by omega)
  have k3 : low3 W 20 = true := decide_eq_true ((fld_eq W 24 23 8388608 4 rfl rfl).trans (by omega))
  have od : fldBv 3 W 20 = d := fldBv_eq W 20 d (by norm_num; omega)
  have oa : fldBv 5 W 15 = a := fldBv_eq W 15 a (by norm_num; omega)
  rw [dec_2a W m]
  simp [decodeMask, chk, k1, k2, k3, od, oa]

theorem mmv (d : MReg) (a : MReg) : Statement (.mmv d a) := by
  intro _ _
  have hd := d.isLt
  have ha := a.isLt
  have hw : (encode (.mmv d a)).toNat = 0x54000007 + d.toNat * 1048576 + a.toNat * 32768 := encode_toNat _ _ rfl (by omega)
  generalize encode (.mmv d a) = W at hw ⊢
  have m : fld W 31 25 = 42 := (fld_eq W 31 25 33554432 128 rfl rfl).trans (by omega)
  have k1 : fld W 2 0 = 7 := (fld_eq W 2 0 1 8 rfl rfl).trans (by omega)
  have k2 : fld W 14 3 = 0 := (fld_eq W 14 3 8 4096 rfl rfl).trans (by omega)
  have k3 : low3 W 20 = true := decide_eq_true ((fld_eq W 24 23 8388608 4 rfl rfl).trans (by omega))
  have k4 : low3 W 15 = true := decide_eq_true ((fld_eq W 19 18 262144 4 rfl rfl).trans (by omega))
  have od : fldBv 3 W 20 = d := fldBv_eq W 20 d (by norm_num; omega)
  have oa : fldBv 3 W 15 = a := fldBv_eq W 15 a (by norm_num; omega)
  rw [dec_2a W m]
  simp [decodeMask, chk, k1, k2, k3, k4, od, oa]

theorem settle (a : VReg) : Statement (.settle a) := by
  intro _ _
  have ha := a.isLt
  have hw : (encode (.settle a)).toNat = 0x56000000 + a.toNat * 32768 := encode_toNat _ _ rfl (by omega)
  generalize encode (.settle a) = W at hw ⊢
  have m : fld W 31 25 = 43 := (fld_eq W 31 25 33554432 128 rfl rfl).trans (by omega)
  have k1 : fld W 1 0 = 0 := (fld_eq W 1 0 1 4 rfl rfl).trans (by omega)
  have k2 : fld W 9 9 = 0 := (fld_eq W 9 9 512 2 rfl rfl).trans (by omega)
  have k3 : fld W 2 2 = 0 := (fld_eq W 2 2 4 2 rfl rfl).trans (by omega)
  have k4 : fld W 24 20 = 0 := (fld_eq W 24 20 1048576 32 rfl rfl).trans (by omega)
  have k5 : fld W 14 10 = 0 := (fld_eq W 14 10 1024 32 rfl rfl).trans (by omega)
  have k6 : fld W 8 3 = 0 := (fld_eq W 8 3 8 64 rfl rfl).trans (by omega)
  have oa : fldBv 5 W 15 = a := fldBv_eq W 15 a (by norm_num; omega)
  rw [dec_2b W m]
  simp [decodePres, chk, k1, k2, k3, k4, k5, k6, oa]

theorem settleNf (a : VReg) : Statement (.settleNf a) := by
  intro _ _
  have ha := a.isLt
  have hw : (encode (.settleNf a)).toNat = 0x56000200 + a.toNat * 32768 := encode_toNat _ _ rfl (by omega)
  generalize encode (.settleNf a) = W at hw ⊢
  have m : fld W 31 25 = 43 := (fld_eq W 31 25 33554432 128 rfl rfl).trans (by omega)
  have k1 : fld W 1 0 = 0 := (fld_eq W 1 0 1 4 rfl rfl).trans (by omega)
  have k2 : fld W 9 9 = 1 := (fld_eq W 9 9 512 2 rfl rfl).trans (by omega)
  have k3 : fld W 2 2 = 0 := (fld_eq W 2 2 4 2 rfl rfl).trans (by omega)
  have k4 : fld W 24 20 = 0 := (fld_eq W 24 20 1048576 32 rfl rfl).trans (by omega)
  have k5 : fld W 14 10 = 0 := (fld_eq W 14 10 1024 32 rfl rfl).trans (by omega)
  have k6 : fld W 8 3 = 0 := (fld_eq W 8 3 8 64 rfl rfl).trans (by omega)
  have oa : fldBv 5 W 15 = a := fldBv_eq W 15 a (by norm_num; omega)
  rw [dec_2b W m]
  simp [decodePres, chk, k1, k2, k3, k4, k5, k6, oa]

theorem settleAll : Statement .settleAll := by
  intro _ _
  have hw : (encode .settleAll).toNat = 0x56000004 := encode_toNat _ _ rfl (by omega)
  generalize encode .settleAll = W at hw ⊢
  have m : fld W 31 25 = 43 := (fld_eq W 31 25 33554432 128 rfl rfl).trans (by omega)
  have k1 : fld W 1 0 = 0 := (fld_eq W 1 0 1 4 rfl rfl).trans (by omega)
  have k2 : fld W 9 9 = 0 := (fld_eq W 9 9 512 2 rfl rfl).trans (by omega)
  have k3 : fld W 2 2 = 1 := (fld_eq W 2 2 4 2 rfl rfl).trans (by omega)
  have k4 : fld W 24 10 = 0 := (fld_eq W 24 10 1024 32768 rfl rfl).trans (by omega)
  have k5 : fld W 8 3 = 0 := (fld_eq W 8 3 8 64 rfl rfl).trans (by omega)
  rw [dec_2b W m]
  simp [decodePres, chk, k1, k2, k3, k4, k5]

theorem settleNfAll : Statement .settleNfAll := by
  intro _ _
  have hw : (encode .settleNfAll).toNat = 0x56000204 := encode_toNat _ _ rfl (by omega)
  generalize encode .settleNfAll = W at hw ⊢
  have m : fld W 31 25 = 43 := (fld_eq W 31 25 33554432 128 rfl rfl).trans (by omega)
  have k1 : fld W 1 0 = 0 := (fld_eq W 1 0 1 4 rfl rfl).trans (by omega)
  have k2 : fld W 9 9 = 1 := (fld_eq W 9 9 512 2 rfl rfl).trans (by omega)
  have k3 : fld W 2 2 = 1 := (fld_eq W 2 2 4 2 rfl rfl).trans (by omega)
  have k4 : fld W 24 10 = 0 := (fld_eq W 24 10 1024 32768 rfl rfl).trans (by omega)
  have k5 : fld W 8 3 = 0 := (fld_eq W 8 3 8 64 rfl rfl).trans (by omega)
  rw [dec_2b W m]
  simp [decodePres, chk, k1, k2, k3, k4, k5]

theorem settleComplete x0 : Statement (.settleComplete x0) := fun _ h => absurd h (by simp [Instr.encoded])

theorem vpres (d : MReg) (a : VReg) : Statement (.vpres d a) := by
  intro _ _
  have hd := d.isLt
  have ha := a.isLt
  have hw : (encode (.vpres d a)).toNat = 0x56000001 + d.toNat * 1048576 + a.toNat * 32768 := encode_toNat _ _ rfl (by omega)
  generalize encode (.vpres d a) = W at hw ⊢
  have m : fld W 31 25 = 43 := (fld_eq W 31 25 33554432 128 rfl rfl).trans (by omega)
  have k1 : fld W 1 0 = 1 := (fld_eq W 1 0 1 4 rfl rfl).trans (by omega)
  have k2 : fld W 14 2 = 0 := (fld_eq W 14 2 4 8192 rfl rfl).trans (by omega)
  have k3 : low3 W 20 = true := decide_eq_true ((fld_eq W 24 23 8388608 4 rfl rfl).trans (by omega))
  have od : fldBv 3 W 20 = d := fldBv_eq W 20 d (by norm_num; omega)
  have oa : fldBv 5 W 15 = a := fldBv_eq W 15 a (by norm_num; omega)
  rw [dec_2b W m]
  simp [decodePres, chk, k1, k2, k3, od, oa]

theorem vfill (a : SReg) : Statement (.vfill a) := by
  intro _ _
  have ha := a.isLt
  have hw : (encode (.vfill a)).toNat = 0x56000002 + a.toNat * 32768 := encode_toNat _ _ rfl (by omega)
  generalize encode (.vfill a) = W at hw ⊢
  have m : fld W 31 25 = 43 := (fld_eq W 31 25 33554432 128 rfl rfl).trans (by omega)
  have k1 : fld W 1 0 = 2 := (fld_eq W 1 0 1 4 rfl rfl).trans (by omega)
  have k2 : fld W 24 20 = 0 := (fld_eq W 24 20 1048576 32 rfl rfl).trans (by omega)
  have k3 : fld W 14 2 = 0 := (fld_eq W 14 2 4 8192 rfl rfl).trans (by omega)
  have oa : fldBv 5 W 15 = a := fldBv_eq W 15 a (by norm_num; omega)
  rw [dec_2b W m]
  simp [decodePres, chk, k1, k2, k3, oa]

theorem thawTake x0 x1 : Statement (.thawTake x0 x1) := fun _ h => absurd h (by simp [Instr.encoded])

theorem thawTimeout x0 x1 : Statement (.thawTimeout x0 x1) := fun _ h => absurd h (by simp [Instr.encoded])

theorem vld (d : VReg) (a : SReg) (w : Bool) : Statement (.vld d a w) := by
  intro _ _
  have hd := d.isLt
  have ha := a.isLt
  have hw := Bool.toNat_le w
  have hw : (encode (.vld d a w)).toNat = 0x58000000 + d.toNat * 1048576 + a.toNat * 32768 + w.toNat * 512 := encode_toNat _ _ rfl (by omega)
  generalize encode (.vld d a w) = W at hw ⊢
  have m : fld W 31 25 = 44 := (fld_eq W 31 25 33554432 128 rfl rfl).trans (by omega)
  have k1 : fld W 1 0 = 0 := (fld_eq W 1 0 1 4 rfl rfl).trans (by omega)
  have k2 : fld W 14 10 = 0 := (fld_eq W 14 10 1024 32 rfl rfl).trans (by omega)
  have k3 : fld W 8 2 = 0 := (fld_eq W 8 2 4 128 rfl rfl).trans (by omega)
  have od : fldBv 5 W 20 = d := fldBv_eq W 20 d (by norm_num; omega)
  have oa : fldBv 5 W 15 = a := fldBv_eq W 15 a (by norm_num; omega)
  have ow : bit W 9 = w := bit_eq W 9 w (by norm_num; omega)
  rw [dec_2c W m]
  simp [decodeVld, chk, k1, k2, k3, od, oa, ow]

theorem vlds (d : VReg) (a : SReg) (b : SReg) (w : Bool) : Statement (.vlds d a b w) := by
  intro _ _
  have hd := d.isLt
  have ha := a.isLt
  have hb := b.isLt
  have hw := Bool.toNat_le w
  have hw : (encode (.vlds d a b w)).toNat = 0x58000001 + d.toNat * 1048576 + a.toNat * 32768 + b.toNat * 1024 + w.toNat * 512 := encode_toNat _ _ rfl (by omega)
  generalize encode (.vlds d a b w) = W at hw ⊢
  have m : fld W 31 25 = 44 := (fld_eq W 31 25 33554432 128 rfl rfl).trans (by omega)
  have k1 : fld W 1 0 = 1 := (fld_eq W 1 0 1 4 rfl rfl).trans (by omega)
  have k2 : fld W 8 2 = 0 := (fld_eq W 8 2 4 128 rfl rfl).trans (by omega)
  have od : fldBv 5 W 20 = d := fldBv_eq W 20 d (by norm_num; omega)
  have oa : fldBv 5 W 15 = a := fldBv_eq W 15 a (by norm_num; omega)
  have ob : fldBv 5 W 10 = b := fldBv_eq W 10 b (by norm_num; omega)
  have ow : bit W 9 = w := bit_eq W 9 w (by norm_num; omega)
  rw [dec_2c W m]
  simp [decodeVld, chk, k1, k2, od, oa, ob, ow]

theorem vwait (d : VReg) : Statement (.vwait d) := by
  intro _ _
  have hd := d.isLt
  have hw : (encode (.vwait d)).toNat = 0x58000002 + d.toNat * 1048576 := encode_toNat _ _ rfl (by omega)
  generalize encode (.vwait d) = W at hw ⊢
  have m : fld W 31 25 = 44 := (fld_eq W 31 25 33554432 128 rfl rfl).trans (by omega)
  have k1 : fld W 1 0 = 2 := (fld_eq W 1 0 1 4 rfl rfl).trans (by omega)
  have k2 : fld W 19 2 = 0 := (fld_eq W 19 2 4 262144 rfl rfl).trans (by omega)
  have od : fldBv 5 W 20 = d := fldBv_eq W 20 d (by norm_num; omega)
  rw [dec_2c W m]
  simp [decodeVld, chk, k1, k2, od]

theorem vst (d : VReg) (a : SReg) (u : Bool) : Statement (.vst d a u) := by
  intro _ _
  have hd := d.isLt
  have ha := a.isLt
  have hu := Bool.toNat_le u
  have hw : (encode (.vst d a u)).toNat = 0x5A000000 + d.toNat * 1048576 + a.toNat * 32768 + u.toNat * 256 := encode_toNat _ _ rfl (by omega)
  generalize encode (.vst d a u) = W at hw ⊢
  have m : fld W 31 25 = 45 := (fld_eq W 31 25 33554432 128 rfl rfl).trans (by omega)
  have k1 : fld W 0 0 = 0 := (fld_eq W 0 0 1 2 rfl rfl).trans (by omega)
  have k2 : fld W 14 9 = 0 := (fld_eq W 14 9 512 64 rfl rfl).trans (by omega)
  have k3 : fld W 7 1 = 0 := (fld_eq W 7 1 2 128 rfl rfl).trans (by omega)
  have od : fldBv 5 W 20 = d := fldBv_eq W 20 d (by norm_num; omega)
  have oa : fldBv 5 W 15 = a := fldBv_eq W 15 a (by norm_num; omega)
  have ou : bit W 8 = u := bit_eq W 8 u (by norm_num; omega)
  rw [dec_2d W m]
  simp [decodeVst, chk, k1, k2, k3, od, oa, ou]

theorem vsts (d : VReg) (a : SReg) (b : SReg) (u : Bool) : Statement (.vsts d a b u) := by
  intro _ _
  have hd := d.isLt
  have ha := a.isLt
  have hb := b.isLt
  have hu := Bool.toNat_le u
  have hw : (encode (.vsts d a b u)).toNat = 0x5A000001 + d.toNat * 1048576 + a.toNat * 32768 + b.toNat * 1024 + u.toNat * 256 := encode_toNat _ _ rfl (by omega)
  generalize encode (.vsts d a b u) = W at hw ⊢
  have m : fld W 31 25 = 45 := (fld_eq W 31 25 33554432 128 rfl rfl).trans (by omega)
  have k1 : fld W 0 0 = 1 := (fld_eq W 0 0 1 2 rfl rfl).trans (by omega)
  have k2 : fld W 9 9 = 0 := (fld_eq W 9 9 512 2 rfl rfl).trans (by omega)
  have k3 : fld W 7 1 = 0 := (fld_eq W 7 1 2 128 rfl rfl).trans (by omega)
  have od : fldBv 5 W 20 = d := fldBv_eq W 20 d (by norm_num; omega)
  have oa : fldBv 5 W 15 = a := fldBv_eq W 15 a (by norm_num; omega)
  have ob : fldBv 5 W 10 = b := fldBv_eq W 10 b (by norm_num; omega)
  have ou : bit W 8 = u := bit_eq W 8 u (by norm_num; omega)
  rw [dec_2d W m]
  simp [decodeVst, chk, k1, k2, k3, od, oa, ob, ou]

theorem vgat (d : VReg) (a : SReg) (b : VReg) (s : Bool) : Statement (.vgat d a b s) := by
  intro _ _
  have hd := d.isLt
  have ha := a.isLt
  have hb := b.isLt
  have hs := Bool.toNat_le s
  have hw : (encode (.vgat d a b s)).toNat = 0x5C000000 + d.toNat * 1048576 + a.toNat * 32768 + b.toNat * 1024 + s.toNat * 512 := encode_toNat _ _ rfl (by omega)
  generalize encode (.vgat d a b s) = W at hw ⊢
  have m : fld W 31 25 = 46 := (fld_eq W 31 25 33554432 128 rfl rfl).trans (by omega)
  have k1 : fld W 2 0 = 0 := (fld_eq W 2 0 1 8 rfl rfl).trans (by omega)
  have k2 : fld W 8 3 = 0 := (fld_eq W 8 3 8 64 rfl rfl).trans (by omega)
  have od : fldBv 5 W 20 = d := fldBv_eq W 20 d (by norm_num; omega)
  have oa : fldBv 5 W 15 = a := fldBv_eq W 15 a (by norm_num; omega)
  have ob : fldBv 5 W 10 = b := fldBv_eq W 10 b (by norm_num; omega)
  have os : bit W 9 = s := bit_eq W 9 s (by norm_num; omega)
  rw [dec_2e W m]
  simp [decodeVgs, chk, k1, k2, od, oa, ob, os]

theorem vsct (d : VReg) (a : SReg) (b : VReg) (u : Bool) : Statement (.vsct d a b u) := by
  intro _ _
  have hd := d.isLt
  have ha := a.isLt
  have hb := b.isLt
  have hu := Bool.toNat_le u
  have hw : (encode (.vsct d a b u)).toNat = 0x5C000001 + d.toNat * 1048576 + a.toNat * 32768 + b.toNat * 1024 + u.toNat * 256 := encode_toNat _ _ rfl (by omega)
  generalize encode (.vsct d a b u) = W at hw ⊢
  have m : fld W 31 25 = 46 := (fld_eq W 31 25 33554432 128 rfl rfl).trans (by omega)
  have k1 : fld W 2 0 = 1 := (fld_eq W 2 0 1 8 rfl rfl).trans (by omega)
  have k2 : fld W 9 9 = 0 := (fld_eq W 9 9 512 2 rfl rfl).trans (by omega)
  have k3 : fld W 7 3 = 0 := (fld_eq W 7 3 8 32 rfl rfl).trans (by omega)
  have od : fldBv 5 W 20 = d := fldBv_eq W 20 d (by norm_num; omega)
  have oa : fldBv 5 W 15 = a := fldBv_eq W 15 a (by norm_num; omega)
  have ob : fldBv 5 W 10 = b := fldBv_eq W 10 b (by norm_num; omega)
  have ou : bit W 8 = u := bit_eq W 8 u (by norm_num; omega)
  rw [dec_2e W m]
  simp [decodeVgs, chk, k1, k2, k3, od, oa, ob, ou]

theorem vscadd (d : VReg) (a : SReg) (b : VReg) (u : Bool) : Statement (.vscadd d a b u) := by
  intro _ _
  have hd := d.isLt
  have ha := a.isLt
  have hb := b.isLt
  have hu := Bool.toNat_le u
  have hw : (encode (.vscadd d a b u)).toNat = 0x5C000002 + d.toNat * 1048576 + a.toNat * 32768 + b.toNat * 1024 + u.toNat * 256 := encode_toNat _ _ rfl (by omega)
  generalize encode (.vscadd d a b u) = W at hw ⊢
  have m : fld W 31 25 = 46 := (fld_eq W 31 25 33554432 128 rfl rfl).trans (by omega)
  have k1 : fld W 2 0 = 2 := (fld_eq W 2 0 1 8 rfl rfl).trans (by omega)
  have k2 : fld W 9 9 = 0 := (fld_eq W 9 9 512 2 rfl rfl).trans (by omega)
  have k3 : fld W 7 3 = 0 := (fld_eq W 7 3 8 32 rfl rfl).trans (by omega)
  have od : fldBv 5 W 20 = d := fldBv_eq W 20 d (by norm_num; omega)
  have oa : fldBv 5 W 15 = a := fldBv_eq W 15 a (by norm_num; omega)
  have ob : fldBv 5 W 10 = b := fldBv_eq W 10 b (by norm_num; omega)
  have ou : bit W 8 = u := bit_eq W 8 u (by norm_num; omega)
  rw [dec_2e W m]
  simp [decodeVgs, chk, k1, k2, k3, od, oa, ob, ou]

theorem vfas (d : VReg) (a : SReg) (b : VReg) : Statement (.vfas d a b) := by
  intro _ _
  have hd := d.isLt
  have ha := a.isLt
  have hb := b.isLt
  have hw : (encode (.vfas d a b)).toNat = 0x5C000003 + d.toNat * 1048576 + a.toNat * 32768 + b.toNat * 1024 := encode_toNat _ _ rfl (by omega)
  generalize encode (.vfas d a b) = W at hw ⊢
  have m : fld W 31 25 = 46 := (fld_eq W 31 25 33554432 128 rfl rfl).trans (by omega)
  have k1 : fld W 2 0 = 3 := (fld_eq W 2 0 1 8 rfl rfl).trans (by omega)
  have k2 : fld W 9 3 = 0 := (fld_eq W 9 3 8 128 rfl rfl).trans (by omega)
  have od : fldBv 5 W 20 = d := fldBv_eq W 20 d (by norm_num; omega)
  have oa : fldBv 5 W 15 = a := fldBv_eq W 15 a (by norm_num; omega)
  have ob : fldBv 5 W 10 = b := fldBv_eq W 10 b (by norm_num; omega)
  rw [dec_2e W m]
  simp [decodeVgs, chk, k1, k2, od, oa, ob]

theorem vprobe (d : MReg) (a : SReg) (b : VReg) (s : Bool) : Statement (.vprobe d a b s) := by
  intro _ _
  have hd := d.isLt
  have ha := a.isLt
  have hb := b.isLt
  have hs := Bool.toNat_le s
  have hw : (encode (.vprobe d a b s)).toNat = 0x5C000004 + d.toNat * 1048576 + a.toNat * 32768 + b.toNat * 1024 + s.toNat * 512 := encode_toNat _ _ rfl (by omega)
  generalize encode (.vprobe d a b s) = W at hw ⊢
  have m : fld W 31 25 = 46 := (fld_eq W 31 25 33554432 128 rfl rfl).trans (by omega)
  have k1 : fld W 2 0 = 4 := (fld_eq W 2 0 1 8 rfl rfl).trans (by omega)
  have k2 : fld W 8 3 = 0 := (fld_eq W 8 3 8 64 rfl rfl).trans (by omega)
  have k3 : low3 W 20 = true := decide_eq_true ((fld_eq W 24 23 8388608 4 rfl rfl).trans (by omega))
  have od : fldBv 3 W 20 = d := fldBv_eq W 20 d (by norm_num; omega)
  have oa : fldBv 5 W 15 = a := fldBv_eq W 15 a (by norm_num; omega)
  have ob : fldBv 5 W 10 = b := fldBv_eq W 10 b (by norm_num; omega)
  have os : bit W 9 = s := bit_eq W 9 s (by norm_num; omega)
  rw [dec_2e W m]
  simp [decodeVgs, chk, k1, k2, k3, od, oa, ob, os]

theorem vldSc (d : VReg) (a : SReg) : Statement (.vldSc d a) := by
  intro _ _
  have hd := d.isLt
  have ha := a.isLt
  have hw : (encode (.vldSc d a)).toNat = 0x5E000000 + d.toNat * 1048576 + a.toNat * 32768 := encode_toNat _ _ rfl (by omega)
  generalize encode (.vldSc d a) = W at hw ⊢
  have m : fld W 31 25 = 47 := (fld_eq W 31 25 33554432 128 rfl rfl).trans (by omega)
  have k1 : fld W 0 0 = 0 := (fld_eq W 0 0 1 2 rfl rfl).trans (by omega)
  have k2 : fld W 14 1 = 0 := (fld_eq W 14 1 2 16384 rfl rfl).trans (by omega)
  have od : fldBv 5 W 20 = d := fldBv_eq W 20 d (by norm_num; omega)
  have oa : fldBv 5 W 15 = a := fldBv_eq W 15 a (by norm_num; omega)
  rw [dec_2f W m]
  simp [decodeVsc, chk, k1, k2, od, oa]

theorem vstSc (d : VReg) (a : SReg) : Statement (.vstSc d a) := by
  intro _ _
  have hd := d.isLt
  have ha := a.isLt
  have hw : (encode (.vstSc d a)).toNat = 0x5E000001 + d.toNat * 1048576 + a.toNat * 32768 := encode_toNat _ _ rfl (by omega)
  generalize encode (.vstSc d a) = W at hw ⊢
  have m : fld W 31 25 = 47 := (fld_eq W 31 25 33554432 128 rfl rfl).trans (by omega)
  have k1 : fld W 0 0 = 1 := (fld_eq W 0 0 1 2 rfl rfl).trans (by omega)
  have k2 : fld W 14 1 = 0 := (fld_eq W 14 1 2 16384 rfl rfl).trans (by omega)
  have od : fldBv 5 W 20 = d := fldBv_eq W 20 d (by norm_num; omega)
  have oa : fldBv 5 W 15 = a := fldBv_eq W 15 a (by norm_num; omega)
  rw [dec_2f W m]
  simp [decodeVsc, chk, k1, k2, od, oa]

theorem mma (d : AccReg) (a : VReg) (b : PairReg) (z : Bool) (g : BitVec 2) : Statement (.mma d a b z g) := by
  intro hwf _
  simp [WellFormed] at hwf
  have hd := d.isLt
  have ha := a.isLt
  have hb := b.isLt
  have hz := Bool.toNat_le z
  have hg := g.isLt
  have hb0 : b.toNat ≠ 0 := by
    intro h
    have h := BitVec.eq_of_toNat_eq (y := 0#4) h
    simp [h] at hwf
  have hw : (encode (.mma d a b z g)).toNat = 0x60000000 + d.toNat * 1048576 + a.toNat * 32768 + b.toNat * 2048 + z.toNat * 32 + g.toNat * 8 := encode_toNat _ _ rfl (by omega)
  generalize encode (.mma d a b z g) = W at hw ⊢
  have m : fld W 31 25 = 48 := (fld_eq W 31 25 33554432 128 rfl rfl).trans (by omega)
  have k1 : fld W 2 0 = 0 := (fld_eq W 2 0 1 8 rfl rfl).trans (by omega)
  have k2 : fld W 9 6 = 0 := (fld_eq W 9 6 64 16 rfl rfl).trans (by omega)
  have k3 : low3 W 20 = true := decide_eq_true ((fld_eq W 24 23 8388608 4 rfl rfl).trans (by omega))
  have k4 : pairOk W 10 = true := decide_eq_true ⟨(fld_eq W 10 10 1024 2 rfl rfl).trans (by omega), by rw [fld_eq W 14 11 2048 16 rfl rfl]; omega⟩
  have od : fldBv 3 W 20 = d := fldBv_eq W 20 d (by norm_num; omega)
  have oa : fldBv 5 W 15 = a := fldBv_eq W 15 a (by norm_num; omega)
  have ob : fldBv 4 W 11 = b := fldBv_eq W 11 b (by norm_num; omega)
  have oz : bit W 5 = z := bit_eq W 5 z (by norm_num; omega)
  have og : fldBv 2 W 3 = g := fldBv_eq W 3 g (by norm_num; omega)
  have k5 : grp W = true := by
    apply decide_eq_true
    rw [fld_eq W 19 15 32768 32 rfl rfl, fld_eq W 4 3 8 4 rfl rfl]
    have h1 : W.toNat / 32768 % 32 = a.toNat := by omega
    have h2 : W.toNat / 8 % 4 = g.toNat := by omega
    rw [h1, h2]; exact hwf.2
  rw [dec_30 W m]
  simp [decodeMma, chk, k1, k2, k3, k4, od, oa, ob, oz, og, k5]

theorem mmas (d : AccReg) (a : PairReg) (b : PairReg) (z : Bool) : Statement (.mmas d a b z) := by
  intro hwf _
  simp [WellFormed] at hwf
  have hd := d.isLt
  have ha := a.isLt
  have hb := b.isLt
  have hz := Bool.toNat_le z
  have ha0 : a.toNat ≠ 0 := by
    intro h
    have h := BitVec.eq_of_toNat_eq (y := 0#4) h
    simp [h] at hwf
  have hb0 : b.toNat ≠ 0 := by
    intro h
    have h := BitVec.eq_of_toNat_eq (y := 0#4) h
    simp [h] at hwf
  have hw : (encode (.mmas d a b z)).toNat = 0x60000001 + d.toNat * 1048576 + a.toNat * 65536 + b.toNat * 2048 + z.toNat * 32 := encode_toNat _ _ rfl (by omega)
  generalize encode (.mmas d a b z) = W at hw ⊢
  have m : fld W 31 25 = 48 := (fld_eq W 31 25 33554432 128 rfl rfl).trans (by omega)
  have k1 : fld W 2 0 = 1 := (fld_eq W 2 0 1 8 rfl rfl).trans (by omega)
  have k2 : fld W 9 6 = 0 := (fld_eq W 9 6 64 16 rfl rfl).trans (by omega)
  have k3 : fld W 4 3 = 0 := (fld_eq W 4 3 8 4 rfl rfl).trans (by omega)
  have k4 : low3 W 20 = true := decide_eq_true ((fld_eq W 24 23 8388608 4 rfl rfl).trans (by omega))
  have k5 : pairOk W 15 = true := decide_eq_true ⟨(fld_eq W 15 15 32768 2 rfl rfl).trans (by omega), by rw [fld_eq W 19 16 65536 16 rfl rfl]; omega⟩
  have k6 : pairOk W 10 = true := decide_eq_true ⟨(fld_eq W 10 10 1024 2 rfl rfl).trans (by omega), by rw [fld_eq W 14 11 2048 16 rfl rfl]; omega⟩
  have od : fldBv 3 W 20 = d := fldBv_eq W 20 d (by norm_num; omega)
  have oa : fldBv 4 W 16 = a := fldBv_eq W 16 a (by norm_num; omega)
  have ob : fldBv 4 W 11 = b := fldBv_eq W 11 b (by norm_num; omega)
  have oz : bit W 5 = z := bit_eq W 5 z (by norm_num; omega)
  rw [dec_30 W m]
  simp [decodeMma, chk, k1, k2, k3, k4, k5, k6, od, oa, ob, oz]

theorem mmasp (d : AccReg) (a : VReg) (b : PairReg) (z : Bool) (g : BitVec 2) : Statement (.mmasp d a b z g) := by
  intro hwf _
  simp [WellFormed] at hwf
  have hd := d.isLt
  have ha := a.isLt
  have hb := b.isLt
  have hz := Bool.toNat_le z
  have hg := g.isLt
  have hb0 : b.toNat ≠ 0 := by
    intro h
    have h := BitVec.eq_of_toNat_eq (y := 0#4) h
    simp [h] at hwf
  have hw : (encode (.mmasp d a b z g)).toNat = 0x60000002 + d.toNat * 1048576 + a.toNat * 32768 + b.toNat * 2048 + z.toNat * 32 + g.toNat * 8 := encode_toNat _ _ rfl (by omega)
  generalize encode (.mmasp d a b z g) = W at hw ⊢
  have m : fld W 31 25 = 48 := (fld_eq W 31 25 33554432 128 rfl rfl).trans (by omega)
  have k1 : fld W 2 0 = 2 := (fld_eq W 2 0 1 8 rfl rfl).trans (by omega)
  have k2 : fld W 9 6 = 0 := (fld_eq W 9 6 64 16 rfl rfl).trans (by omega)
  have k3 : low3 W 20 = true := decide_eq_true ((fld_eq W 24 23 8388608 4 rfl rfl).trans (by omega))
  have k4 : pairOk W 10 = true := decide_eq_true ⟨(fld_eq W 10 10 1024 2 rfl rfl).trans (by omega), by rw [fld_eq W 14 11 2048 16 rfl rfl]; omega⟩
  have od : fldBv 3 W 20 = d := fldBv_eq W 20 d (by norm_num; omega)
  have oa : fldBv 5 W 15 = a := fldBv_eq W 15 a (by norm_num; omega)
  have ob : fldBv 4 W 11 = b := fldBv_eq W 11 b (by norm_num; omega)
  have oz : bit W 5 = z := bit_eq W 5 z (by norm_num; omega)
  have og : fldBv 2 W 3 = g := fldBv_eq W 3 g (by norm_num; omega)
  have k5 : grp W = true := by
    apply decide_eq_true
    rw [fld_eq W 19 15 32768 32 rfl rfl, fld_eq W 4 3 8 4 rfl rfl]
    have h1 : W.toNat / 32768 % 32 = a.toNat := by omega
    have h2 : W.toNat / 8 % 4 = g.toNat := by omega
    rw [h1, h2]; exact hwf.2
  rw [dec_30 W m]
  simp [decodeMma, chk, k1, k2, k3, k4, od, oa, ob, oz, og, k5]

theorem maccZ (d : AccReg) : Statement (.maccZ d) := by
  intro _ _
  have hd := d.isLt
  have hw : (encode (.maccZ d)).toNat = 0x62000000 + d.toNat * 1048576 := encode_toNat _ _ rfl (by omega)
  generalize encode (.maccZ d) = W at hw ⊢
  have m : fld W 31 25 = 49 := (fld_eq W 31 25 33554432 128 rfl rfl).trans (by omega)
  have k1 : fld W 2 0 = 0 := (fld_eq W 2 0 1 8 rfl rfl).trans (by omega)
  have k2 : fld W 19 3 = 0 := (fld_eq W 19 3 8 131072 rfl rfl).trans (by omega)
  have k3 : low3 W 20 = true := decide_eq_true ((fld_eq W 24 23 8388608 4 rfl rfl).trans (by omega))
  have od : fldBv 3 W 20 = d := fldBv_eq W 20 d (by norm_num; omega)
  rw [dec_31 W m]
  simp [decodeMacc, chk, k1, k2, k3, od]

theorem maccRd (d : VReg) (a : AccReg) (b : SReg) : Statement (.maccRd d a b) := by
  intro _ _
  have hd := d.isLt
  have ha := a.isLt
  have hb := b.isLt
  have hw : (encode (.maccRd d a b)).toNat = 0x62000001 + d.toNat * 1048576 + a.toNat * 32768 + b.toNat * 1024 := encode_toNat _ _ rfl (by omega)
  generalize encode (.maccRd d a b) = W at hw ⊢
  have m : fld W 31 25 = 49 := (fld_eq W 31 25 33554432 128 rfl rfl).trans (by omega)
  have k1 : fld W 2 0 = 1 := (fld_eq W 2 0 1 8 rfl rfl).trans (by omega)
  have k2 : fld W 9 3 = 0 := (fld_eq W 9 3 8 128 rfl rfl).trans (by omega)
  have k3 : low3 W 15 = true := decide_eq_true ((fld_eq W 19 18 262144 4 rfl rfl).trans (by omega))
  have od : fldBv 5 W 20 = d := fldBv_eq W 20 d (by norm_num; omega)
  have oa : fldBv 3 W 15 = a := fldBv_eq W 15 a (by norm_num; omega)
  have ob : fldBv 5 W 10 = b := fldBv_eq W 10 b (by norm_num; omega)
  rw [dec_31 W m]
  simp [decodeMacc, chk, k1, k2, k3, od, oa, ob]

theorem maccWr (d : AccReg) (a : VReg) (b : SReg) : Statement (.maccWr d a b) := by
  intro _ _
  have hd := d.isLt
  have ha := a.isLt
  have hb := b.isLt
  have hw : (encode (.maccWr d a b)).toNat = 0x62000002 + d.toNat * 1048576 + a.toNat * 32768 + b.toNat * 1024 := encode_toNat _ _ rfl (by omega)
  generalize encode (.maccWr d a b) = W at hw ⊢
  have m : fld W 31 25 = 49 := (fld_eq W 31 25 33554432 128 rfl rfl).trans (by omega)
  have k1 : fld W 2 0 = 2 := (fld_eq W 2 0 1 8 rfl rfl).trans (by omega)
  have k2 : fld W 9 3 = 0 := (fld_eq W 9 3 8 128 rfl rfl).trans (by omega)
  have k3 : low3 W 20 = true := decide_eq_true ((fld_eq W 24 23 8388608 4 rfl rfl).trans (by omega))
  have od : fldBv 3 W 20 = d := fldBv_eq W 20 d (by norm_num; omega)
  have oa : fldBv 5 W 15 = a := fldBv_eq W 15 a (by norm_num; omega)
  have ob : fldBv 5 W 10 = b := fldBv_eq W 10 b (by norm_num; omega)
  rw [dec_31 W m]
  simp [decodeMacc, chk, k1, k2, k3, od, oa, ob]

theorem maccSt (d : AccReg) (a : SReg) (b : SReg) : Statement (.maccSt d a b) := by
  intro _ _
  have hd := d.isLt
  have ha := a.isLt
  have hb := b.isLt
  have hw : (encode (.maccSt d a b)).toNat = 0x62000003 + d.toNat * 1048576 + a.toNat * 32768 + b.toNat * 1024 := encode_toNat _ _ rfl (by omega)
  generalize encode (.maccSt d a b) = W at hw ⊢
  have m : fld W 31 25 = 49 := (fld_eq W 31 25 33554432 128 rfl rfl).trans (by omega)
  have k1 : fld W 2 0 = 3 := (fld_eq W 2 0 1 8 rfl rfl).trans (by omega)
  have k2 : fld W 3 3 = 0 := (fld_eq W 3 3 8 2 rfl rfl).trans (by omega)
  have k3 : fld W 9 4 = 0 := (fld_eq W 9 4 16 64 rfl rfl).trans (by omega)
  have k4 : low3 W 20 = true := decide_eq_true ((fld_eq W 24 23 8388608 4 rfl rfl).trans (by omega))
  have od : fldBv 3 W 20 = d := fldBv_eq W 20 d (by norm_num; omega)
  have oa : fldBv 5 W 15 = a := fldBv_eq W 15 a (by norm_num; omega)
  have ob : fldBv 5 W 10 = b := fldBv_eq W 10 b (by norm_num; omega)
  rw [dec_31 W m]
  simp [decodeMacc, chk, k1, k2, k3, k4, od, oa, ob]

theorem maccStX (d : AccReg) (a : SReg) (b : VReg) : Statement (.maccStX d a b) := by
  intro _ _
  have hd := d.isLt
  have ha := a.isLt
  have hb := b.isLt
  have hw : (encode (.maccStX d a b)).toNat = 0x6200000B + d.toNat * 1048576 + a.toNat * 32768 + b.toNat * 1024 := encode_toNat _ _ rfl (by omega)
  generalize encode (.maccStX d a b) = W at hw ⊢
  have m : fld W 31 25 = 49 := (fld_eq W 31 25 33554432 128 rfl rfl).trans (by omega)
  have k1 : fld W 2 0 = 3 := (fld_eq W 2 0 1 8 rfl rfl).trans (by omega)
  have k2 : fld W 3 3 = 1 := (fld_eq W 3 3 8 2 rfl rfl).trans (by omega)
  have k3 : fld W 9 4 = 0 := (fld_eq W 9 4 16 64 rfl rfl).trans (by omega)
  have k4 : low3 W 20 = true := decide_eq_true ((fld_eq W 24 23 8388608 4 rfl rfl).trans (by omega))
  have od : fldBv 3 W 20 = d := fldBv_eq W 20 d (by norm_num; omega)
  have oa : fldBv 5 W 15 = a := fldBv_eq W 15 a (by norm_num; omega)
  have ob : fldBv 5 W 10 = b := fldBv_eq W 10 b (by norm_num; omega)
  rw [dec_31 W m]
  simp [decodeMacc, chk, k1, k2, k3, k4, od, oa, ob]

theorem mtd (d : PairReg) (a : SReg) (b : SReg) : Statement (.mtd d a b) := by
  intro hwf _
  simp [WellFormed] at hwf
  have hd := d.isLt
  have ha := a.isLt
  have hb := b.isLt
  have hd0 : d.toNat ≠ 0 := by
    intro h
    have h := BitVec.eq_of_toNat_eq (y := 0#4) h
    simp [h] at hwf
  have hw : (encode (.mtd d a b)).toNat = 0x62000004 + d.toNat * 2097152 + a.toNat * 32768 + b.toNat * 1024 := encode_toNat _ _ rfl (by omega)
  generalize encode (.mtd d a b) = W at hw ⊢
  have m : fld W 31 25 = 49 := (fld_eq W 31 25 33554432 128 rfl rfl).trans (by omega)
  have k1 : fld W 2 0 = 4 := (fld_eq W 2 0 1 8 rfl rfl).trans (by omega)
  have k2 : fld W 9 3 = 0 := (fld_eq W 9 3 8 128 rfl rfl).trans (by omega)
  have k3 : pairOk W 20 = true := decide_eq_true ⟨(fld_eq W 20 20 1048576 2 rfl rfl).trans (by omega), by rw [fld_eq W 24 21 2097152 16 rfl rfl]; omega⟩
  have od : fldBv 4 W 21 = d := fldBv_eq W 21 d (by norm_num; omega)
  have oa : fldBv 5 W 15 = a := fldBv_eq W 15 a (by norm_num; omega)
  have ob : fldBv 5 W 10 = b := fldBv_eq W 10 b (by norm_num; omega)
  rw [dec_31 W m]
  simp [decodeMacc, chk, k1, k2, k3, od, oa, ob]

theorem svld (d : SvReg) (a : SReg) : Statement (.svld d a) := by
  intro _ _
  have hd := d.isLt
  have ha := a.isLt
  have hw : (encode (.svld d a)).toNat = 0x64000000 + d.toNat * 1048576 + a.toNat * 32768 := encode_toNat _ _ rfl (by omega)
  generalize encode (.svld d a) = W at hw ⊢
  have m : fld W 31 25 = 50 := (fld_eq W 31 25 33554432 128 rfl rfl).trans (by omega)
  have k1 : fld W 2 0 = 0 := (fld_eq W 2 0 1 8 rfl rfl).trans (by omega)
  have k2 : fld W 14 3 = 0 := (fld_eq W 14 3 8 4096 rfl rfl).trans (by omega)
  have k3 : low3 W 20 = true := decide_eq_true ((fld_eq W 24 23 8388608 4 rfl rfl).trans (by omega))
  have od : fldBv 3 W 20 = d := fldBv_eq W 20 d (by norm_num; omega)
  have oa : fldBv 5 W 15 = a := fldBv_eq W 15 a (by norm_num; omega)
  rw [dec_32 W m]
  simp [decodeSvec, chk, k1, k2, k3, od, oa]

theorem svst (d : SvReg) (a : SReg) : Statement (.svst d a) := by
  intro _ _
  have hd := d.isLt
  have ha := a.isLt
  have hw : (encode (.svst d a)).toNat = 0x64000001 + d.toNat * 1048576 + a.toNat * 32768 := encode_toNat _ _ rfl (by omega)
  generalize encode (.svst d a) = W at hw ⊢
  have m : fld W 31 25 = 50 := (fld_eq W 31 25 33554432 128 rfl rfl).trans (by omega)
  have k1 : fld W 2 0 = 1 := (fld_eq W 2 0 1 8 rfl rfl).trans (by omega)
  have k2 : fld W 14 3 = 0 := (fld_eq W 14 3 8 4096 rfl rfl).trans (by omega)
  have k3 : low3 W 20 = true := decide_eq_true ((fld_eq W 24 23 8388608 4 rfl rfl).trans (by omega))
  have od : fldBv 3 W 20 = d := fldBv_eq W 20 d (by norm_num; omega)
  have oa : fldBv 5 W 15 = a := fldBv_eq W 15 a (by norm_num; omega)
  rw [dec_32 W m]
  simp [decodeSvec, chk, k1, k2, k3, od, oa]

theorem svadd (d : SvReg) (a : SvReg) (b : SvReg) : Statement (.svadd d a b) := by
  intro _ _
  have hd := d.isLt
  have ha := a.isLt
  have hb := b.isLt
  have hw : (encode (.svadd d a b)).toNat = 0x64000002 + d.toNat * 1048576 + a.toNat * 32768 + b.toNat * 1024 := encode_toNat _ _ rfl (by omega)
  generalize encode (.svadd d a b) = W at hw ⊢
  have m : fld W 31 25 = 50 := (fld_eq W 31 25 33554432 128 rfl rfl).trans (by omega)
  have k1 : fld W 2 0 = 2 := (fld_eq W 2 0 1 8 rfl rfl).trans (by omega)
  have k2 : fld W 9 3 = 0 := (fld_eq W 9 3 8 128 rfl rfl).trans (by omega)
  have k3 : low3 W 20 = true := decide_eq_true ((fld_eq W 24 23 8388608 4 rfl rfl).trans (by omega))
  have k4 : low3 W 15 = true := decide_eq_true ((fld_eq W 19 18 262144 4 rfl rfl).trans (by omega))
  have k5 : low3 W 10 = true := decide_eq_true ((fld_eq W 14 13 8192 4 rfl rfl).trans (by omega))
  have od : fldBv 3 W 20 = d := fldBv_eq W 20 d (by norm_num; omega)
  have oa : fldBv 3 W 15 = a := fldBv_eq W 15 a (by norm_num; omega)
  have ob : fldBv 3 W 10 = b := fldBv_eq W 10 b (by norm_num; omega)
  rw [dec_32 W m]
  simp [decodeSvec, chk, k1, k2, k3, k4, k5, od, oa, ob]

theorem svmul (d : SvReg) (a : SvReg) (b : SvReg) : Statement (.svmul d a b) := by
  intro _ _
  have hd := d.isLt
  have ha := a.isLt
  have hb := b.isLt
  have hw : (encode (.svmul d a b)).toNat = 0x64000003 + d.toNat * 1048576 + a.toNat * 32768 + b.toNat * 1024 := encode_toNat _ _ rfl (by omega)
  generalize encode (.svmul d a b) = W at hw ⊢
  have m : fld W 31 25 = 50 := (fld_eq W 31 25 33554432 128 rfl rfl).trans (by omega)
  have k1 : fld W 2 0 = 3 := (fld_eq W 2 0 1 8 rfl rfl).trans (by omega)
  have k2 : fld W 9 3 = 0 := (fld_eq W 9 3 8 128 rfl rfl).trans (by omega)
  have k3 : low3 W 20 = true := decide_eq_true ((fld_eq W 24 23 8388608 4 rfl rfl).trans (by omega))
  have k4 : low3 W 15 = true := decide_eq_true ((fld_eq W 19 18 262144 4 rfl rfl).trans (by omega))
  have k5 : low3 W 10 = true := decide_eq_true ((fld_eq W 14 13 8192 4 rfl rfl).trans (by omega))
  have od : fldBv 3 W 20 = d := fldBv_eq W 20 d (by norm_num; omega)
  have oa : fldBv 3 W 15 = a := fldBv_eq W 15 a (by norm_num; omega)
  have ob : fldBv 3 W 10 = b := fldBv_eq W 10 b (by norm_num; omega)
  rw [dec_32 W m]
  simp [decodeSvec, chk, k1, k2, k3, k4, k5, od, oa, ob]

theorem svscale (d : SvReg) (a : SvReg) (b : SReg) : Statement (.svscale d a b) := by
  intro _ _
  have hd := d.isLt
  have ha := a.isLt
  have hb := b.isLt
  have hw : (encode (.svscale d a b)).toNat = 0x64000004 + d.toNat * 1048576 + a.toNat * 32768 + b.toNat * 1024 := encode_toNat _ _ rfl (by omega)
  generalize encode (.svscale d a b) = W at hw ⊢
  have m : fld W 31 25 = 50 := (fld_eq W 31 25 33554432 128 rfl rfl).trans (by omega)
  have k1 : fld W 2 0 = 4 := (fld_eq W 2 0 1 8 rfl rfl).trans (by omega)
  have k2 : fld W 9 3 = 0 := (fld_eq W 9 3 8 128 rfl rfl).trans (by omega)
  have k3 : low3 W 20 = true := decide_eq_true ((fld_eq W 24 23 8388608 4 rfl rfl).trans (by omega))
  have k4 : low3 W 15 = true := decide_eq_true ((fld_eq W 19 18 262144 4 rfl rfl).trans (by omega))
  have od : fldBv 3 W 20 = d := fldBv_eq W 20 d (by norm_num; omega)
  have oa : fldBv 3 W 15 = a := fldBv_eq W 15 a (by norm_num; omega)
  have ob : fldBv 5 W 10 = b := fldBv_eq W 10 b (by norm_num; omega)
  rw [dec_32 W m]
  simp [decodeSvec, chk, k1, k2, k3, k4, od, oa, ob]

theorem svcomp (d : SvReg) (a : VReg) : Statement (.svcomp d a) := by
  intro _ _
  have hd := d.isLt
  have ha := a.isLt
  have hw : (encode (.svcomp d a)).toNat = 0x64000005 + d.toNat * 1048576 + a.toNat * 32768 := encode_toNat _ _ rfl (by omega)
  generalize encode (.svcomp d a) = W at hw ⊢
  have m : fld W 31 25 = 50 := (fld_eq W 31 25 33554432 128 rfl rfl).trans (by omega)
  have k1 : fld W 2 0 = 5 := (fld_eq W 2 0 1 8 rfl rfl).trans (by omega)
  have k2 : fld W 14 3 = 0 := (fld_eq W 14 3 8 4096 rfl rfl).trans (by omega)
  have k3 : low3 W 20 = true := decide_eq_true ((fld_eq W 24 23 8388608 4 rfl rfl).trans (by omega))
  have od : fldBv 3 W 20 = d := fldBv_eq W 20 d (by norm_num; omega)
  have oa : fldBv 5 W 15 = a := fldBv_eq W 15 a (by norm_num; omega)
  rw [dec_32 W m]
  simp [decodeSvec, chk, k1, k2, k3, od, oa]

theorem svexp (d : VReg) (a : SvReg) : Statement (.svexp d a) := by
  intro _ _
  have hd := d.isLt
  have ha := a.isLt
  have hw : (encode (.svexp d a)).toNat = 0x64000006 + d.toNat * 1048576 + a.toNat * 32768 := encode_toNat _ _ rfl (by omega)
  generalize encode (.svexp d a) = W at hw ⊢
  have m : fld W 31 25 = 50 := (fld_eq W 31 25 33554432 128 rfl rfl).trans (by omega)
  have k1 : fld W 2 0 = 6 := (fld_eq W 2 0 1 8 rfl rfl).trans (by omega)
  have k2 : fld W 14 3 = 0 := (fld_eq W 14 3 8 4096 rfl rfl).trans (by omega)
  have k3 : low3 W 15 = true := decide_eq_true ((fld_eq W 19 18 262144 4 rfl rfl).trans (by omega))
  have od : fldBv 5 W 20 = d := fldBv_eq W 20 d (by norm_num; omega)
  have oa : fldBv 3 W 15 = a := fldBv_eq W 15 a (by norm_num; omega)
  rw [dec_32 W m]
  simp [decodeSvec, chk, k1, k2, k3, od, oa]

theorem svlen (d : SReg) (a : SvReg) : Statement (.svlen d a) := by
  intro _ _
  have hd := d.isLt
  have ha := a.isLt
  have hw : (encode (.svlen d a)).toNat = 0x64000007 + d.toNat * 1048576 + a.toNat * 32768 := encode_toNat _ _ rfl (by omega)
  generalize encode (.svlen d a) = W at hw ⊢
  have m : fld W 31 25 = 50 := (fld_eq W 31 25 33554432 128 rfl rfl).trans (by omega)
  have k1 : fld W 2 0 = 7 := (fld_eq W 2 0 1 8 rfl rfl).trans (by omega)
  have k2 : fld W 14 3 = 0 := (fld_eq W 14 3 8 4096 rfl rfl).trans (by omega)
  have k3 : low3 W 15 = true := decide_eq_true ((fld_eq W 19 18 262144 4 rfl rfl).trans (by omega))
  have od : fldBv 5 W 20 = d := fldBv_eq W 20 d (by norm_num; omega)
  have oa : fldBv 3 W 15 = a := fldBv_eq W 15 a (by norm_num; omega)
  rw [dec_32 W m]
  simp [decodeSvec, chk, k1, k2, k3, od, oa]

theorem mgopen (d : SReg) (a : SReg) : Statement (.mgopen d a) := by
  intro _ _
  have hd := d.isLt
  have ha := a.isLt
  have hw : (encode (.mgopen d a)).toNat = 0x66000000 + d.toNat * 1048576 + a.toNat * 32768 := encode_toNat _ _ rfl (by omega)
  generalize encode (.mgopen d a) = W at hw ⊢
  have m : fld W 31 25 = 51 := (fld_eq W 31 25 33554432 128 rfl rfl).trans (by omega)
  have k1 : fld W 2 0 = 0 := (fld_eq W 2 0 1 8 rfl rfl).trans (by omega)
  have k2 : fld W 3 3 = 0 := (fld_eq W 3 3 8 2 rfl rfl).trans (by omega)
  have k3 : fld W 14 4 = 0 := (fld_eq W 14 4 16 2048 rfl rfl).trans (by omega)
  have od : fldBv 5 W 20 = d := fldBv_eq W 20 d (by norm_num; omega)
  have oa : fldBv 5 W 15 = a := fldBv_eq W 15 a (by norm_num; omega)
  rw [dec_33 W m, show decodeMerge W = .ok (.mgopen d a) by simp [decodeMerge, chk, k1, k2, k3, od, oa]]; rfl

theorem mgopenCont (d : SReg) (a : SReg) : Statement (.mgopenCont d a) := by
  intro _ _
  have hd := d.isLt
  have ha := a.isLt
  have hw : (encode (.mgopenCont d a)).toNat = 0x66000008 + d.toNat * 1048576 + a.toNat * 32768 := encode_toNat _ _ rfl (by omega)
  generalize encode (.mgopenCont d a) = W at hw ⊢
  have m : fld W 31 25 = 51 := (fld_eq W 31 25 33554432 128 rfl rfl).trans (by omega)
  have k1 : fld W 2 0 = 0 := (fld_eq W 2 0 1 8 rfl rfl).trans (by omega)
  have k2 : fld W 3 3 = 1 := (fld_eq W 3 3 8 2 rfl rfl).trans (by omega)
  have k3 : fld W 14 4 = 0 := (fld_eq W 14 4 16 2048 rfl rfl).trans (by omega)
  have od : fldBv 5 W 20 = d := fldBv_eq W 20 d (by norm_num; omega)
  have oa : fldBv 5 W 15 = a := fldBv_eq W 15 a (by norm_num; omega)
  rw [dec_33 W m, show decodeMerge W = .ok (.mgopenCont d a) by simp [decodeMerge, chk, k1, k2, k3, od, oa]]; rfl

theorem mgopenGrant x0 : Statement (.mgopenGrant x0) := fun _ h => absurd h (by simp [Instr.encoded])

theorem mgpush (d : SReg) (a : SvReg) (b : SReg) (s : BitVec 4) : Statement (.mgpush d a b s) := by
  intro _ _
  have hd := d.isLt
  have ha := a.isLt
  have hb := b.isLt
  have hs := s.isLt
  have hw : (encode (.mgpush d a b s)).toNat = 0x66000001 + d.toNat * 1048576 + a.toNat * 32768 + b.toNat * 1024 + s.toNat * 16 := encode_toNat _ _ rfl (by omega)
  generalize encode (.mgpush d a b s) = W at hw ⊢
  have m : fld W 31 25 = 51 := (fld_eq W 31 25 33554432 128 rfl rfl).trans (by omega)
  have k1 : fld W 2 0 = 1 := (fld_eq W 2 0 1 8 rfl rfl).trans (by omega)
  have k2 : fld W 9 8 = 0 := (fld_eq W 9 8 256 4 rfl rfl).trans (by omega)
  have k3 : fld W 3 3 = 0 := (fld_eq W 3 3 8 2 rfl rfl).trans (by omega)
  have k4 : low3 W 15 = true := decide_eq_true ((fld_eq W 19 18 262144 4 rfl rfl).trans (by omega))
  have od : fldBv 5 W 20 = d := fldBv_eq W 20 d (by norm_num; omega)
  have oa : fldBv 3 W 15 = a := fldBv_eq W 15 a (by norm_num; omega)
  have ob : fldBv 5 W 10 = b := fldBv_eq W 10 b (by norm_num; omega)
  have os : fldBv 4 W 4 = s := fldBv_eq W 4 s (by norm_num; omega)
  rw [dec_33 W m, show decodeMerge W = .ok (.mgpush d a b s) by simp [decodeMerge, chk, k1, k2, k3, k4, od, oa, ob, os]]; rfl

theorem mgflush (d : SReg) : Statement (.mgflush d) := by
  intro _ _
  have hd := d.isLt
  have hw : (encode (.mgflush d)).toNat = 0x66000002 + d.toNat * 1048576 := encode_toNat _ _ rfl (by omega)
  generalize encode (.mgflush d) = W at hw ⊢
  have m : fld W 31 25 = 51 := (fld_eq W 31 25 33554432 128 rfl rfl).trans (by omega)
  have k1 : fld W 2 0 = 2 := (fld_eq W 2 0 1 8 rfl rfl).trans (by omega)
  have k2 : fld W 19 3 = 0 := (fld_eq W 19 3 8 131072 rfl rfl).trans (by omega)
  have od : fldBv 5 W 20 = d := fldBv_eq W 20 d (by norm_num; omega)
  rw [dec_33 W m, show decodeMerge W = .ok (.mgflush d) by simp [decodeMerge, chk, k1, k2, od]]; rfl

theorem mgpull (d : SReg) (a : SReg) : Statement (.mgpull d a) := by
  intro _ _
  have hd := d.isLt
  have ha := a.isLt
  have hw : (encode (.mgpull d a)).toNat = 0x66000003 + d.toNat * 1048576 + a.toNat * 32768 := encode_toNat _ _ rfl (by omega)
  generalize encode (.mgpull d a) = W at hw ⊢
  have m : fld W 31 25 = 51 := (fld_eq W 31 25 33554432 128 rfl rfl).trans (by omega)
  have k1 : fld W 2 0 = 3 := (fld_eq W 2 0 1 8 rfl rfl).trans (by omega)
  have k2 : fld W 3 3 = 0 := (fld_eq W 3 3 8 2 rfl rfl).trans (by omega)
  have k3 : fld W 14 4 = 0 := (fld_eq W 14 4 16 2048 rfl rfl).trans (by omega)
  have od : fldBv 5 W 20 = d := fldBv_eq W 20 d (by norm_num; omega)
  have oa : fldBv 5 W 15 = a := fldBv_eq W 15 a (by norm_num; omega)
  rw [dec_33 W m, show decodeMerge W = .ok (.mgpull d a) by simp [decodeMerge, chk, k1, k2, k3, od, oa]]; rfl

theorem mgpullSv (d : SvReg) (a : SReg) : Statement (.mgpullSv d a) := by
  intro _ _
  have hd := d.isLt
  have ha := a.isLt
  have hw : (encode (.mgpullSv d a)).toNat = 0x6600000B + d.toNat * 1048576 + a.toNat * 32768 := encode_toNat _ _ rfl (by omega)
  generalize encode (.mgpullSv d a) = W at hw ⊢
  have m : fld W 31 25 = 51 := (fld_eq W 31 25 33554432 128 rfl rfl).trans (by omega)
  have k1 : fld W 2 0 = 3 := (fld_eq W 2 0 1 8 rfl rfl).trans (by omega)
  have k2 : fld W 3 3 = 1 := (fld_eq W 3 3 8 2 rfl rfl).trans (by omega)
  have k3 : fld W 14 4 = 0 := (fld_eq W 14 4 16 2048 rfl rfl).trans (by omega)
  have k4 : low3 W 20 = true := decide_eq_true ((fld_eq W 24 23 8388608 4 rfl rfl).trans (by omega))
  have od : fldBv 3 W 20 = d := fldBv_eq W 20 d (by norm_num; omega)
  have oa : fldBv 5 W 15 = a := fldBv_eq W 15 a (by norm_num; omega)
  rw [dec_33 W m, show decodeMerge W = .ok (.mgpullSv d a) by simp [decodeMerge, chk, k1, k2, k3, k4, od, oa]]; rfl

theorem mgclose : Statement .mgclose := by
  intro _ _
  have hw : (encode .mgclose).toNat = 0x66000004 := encode_toNat _ _ rfl (by omega)
  generalize encode .mgclose = W at hw ⊢
  have m : fld W 31 25 = 51 := (fld_eq W 31 25 33554432 128 rfl rfl).trans (by omega)
  have k1 : fld W 2 0 = 4 := (fld_eq W 2 0 1 8 rfl rfl).trans (by omega)
  have k2 : fld W 24 3 = 0 := (fld_eq W 24 3 8 4194304 rfl rfl).trans (by omega)
  rw [dec_33 W m, show decodeMerge W = .ok .mgclose by simp [decodeMerge, chk, k1, k2]]; rfl

theorem mgstatRuns (d : SReg) : Statement (.mgstatRuns d) := by
  intro _ _
  have hd := d.isLt
  have hw : (encode (.mgstatRuns d)).toNat = 0x66000005 + d.toNat * 1048576 := encode_toNat _ _ rfl (by omega)
  generalize encode (.mgstatRuns d) = W at hw ⊢
  have m : fld W 31 25 = 51 := (fld_eq W 31 25 33554432 128 rfl rfl).trans (by omega)
  have k1 : fld W 2 0 = 5 := (fld_eq W 2 0 1 8 rfl rfl).trans (by omega)
  have k2 : fld W 9 8 = 0 := (fld_eq W 9 8 256 4 rfl rfl).trans (by omega)
  have k3 : fld W 19 10 = 0 := (fld_eq W 19 10 1024 1024 rfl rfl).trans (by omega)
  have k4 : fld W 7 3 = 0 := (fld_eq W 7 3 8 32 rfl rfl).trans (by omega)
  have od : fldBv 5 W 20 = d := fldBv_eq W 20 d (by norm_num; omega)
  rw [dec_33 W m, show decodeMerge W = .ok (.mgstatRuns d) by simp [decodeMerge, chk, k1, k2, k3, k4, od]]; rfl

theorem mgstatEntries (d : SReg) : Statement (.mgstatEntries d) := by
  intro _ _
  have hd := d.isLt
  have hw : (encode (.mgstatEntries d)).toNat = 0x66000105 + d.toNat * 1048576 := encode_toNat _ _ rfl (by omega)
  generalize encode (.mgstatEntries d) = W at hw ⊢
  have m : fld W 31 25 = 51 := (fld_eq W 31 25 33554432 128 rfl rfl).trans (by omega)
  have k1 : fld W 2 0 = 5 := (fld_eq W 2 0 1 8 rfl rfl).trans (by omega)
  have k2 : fld W 9 8 = 1 := (fld_eq W 9 8 256 4 rfl rfl).trans (by omega)
  have k3 : fld W 19 10 = 0 := (fld_eq W 19 10 1024 1024 rfl rfl).trans (by omega)
  have k4 : fld W 7 3 = 0 := (fld_eq W 7 3 8 32 rfl rfl).trans (by omega)
  have od : fldBv 5 W 20 = d := fldBv_eq W 20 d (by norm_num; omega)
  rw [dec_33 W m, show decodeMerge W = .ok (.mgstatEntries d) by simp [decodeMerge, chk, k1, k2, k3, k4, od]]; rfl

theorem mgstatStatus (d : SReg) : Statement (.mgstatStatus d) := by
  intro _ _
  have hd := d.isLt
  have hw : (encode (.mgstatStatus d)).toNat = 0x66000205 + d.toNat * 1048576 := encode_toNat _ _ rfl (by omega)
  generalize encode (.mgstatStatus d) = W at hw ⊢
  have m : fld W 31 25 = 51 := (fld_eq W 31 25 33554432 128 rfl rfl).trans (by omega)
  have k1 : fld W 2 0 = 5 := (fld_eq W 2 0 1 8 rfl rfl).trans (by omega)
  have k2 : fld W 9 8 = 2 := (fld_eq W 9 8 256 4 rfl rfl).trans (by omega)
  have k3 : fld W 19 10 = 0 := (fld_eq W 19 10 1024 1024 rfl rfl).trans (by omega)
  have k4 : fld W 7 3 = 0 := (fld_eq W 7 3 8 32 rfl rfl).trans (by omega)
  have od : fldBv 5 W 20 = d := fldBv_eq W 20 d (by norm_num; omega)
  rw [dec_33 W m, show decodeMerge W = .ok (.mgstatStatus d) by simp [decodeMerge, chk, k1, k2, k3, k4, od]]; rfl

theorem mergeBufferError x0 : Statement (.mergeBufferError x0) := fun _ h => absurd h (by simp [Instr.encoded])

theorem cpdim (d : SReg) (a : SReg) (b : SReg) (l : Level) : Statement (.cpdim d a b l) := by
  intro _ _
  have hd := d.isLt
  have ha := a.isLt
  have hb := b.isLt
  have hl := Level.code_lt l
  have hw : (encode (.cpdim d a b l)).toNat = 0x68000000 + d.toNat * 1048576 + a.toNat * 32768 + b.toNat * 1024 + l.code * 16 := encode_toNat _ _ rfl (by omega)
  generalize encode (.cpdim d a b l) = W at hw ⊢
  have m : fld W 31 25 = 52 := (fld_eq W 31 25 33554432 128 rfl rfl).trans (by omega)
  have k1 : fld W 2 0 = 0 := (fld_eq W 2 0 1 8 rfl rfl).trans (by omega)
  have k2 : fld W 9 7 = 0 := (fld_eq W 9 7 128 8 rfl rfl).trans (by omega)
  have k3 : fld W 3 3 = 0 := (fld_eq W 3 3 8 2 rfl rfl).trans (by omega)
  have od : fldBv 5 W 20 = d := fldBv_eq W 20 d (by norm_num; omega)
  have oa : fldBv 5 W 15 = a := fldBv_eq W 15 a (by norm_num; omega)
  have ob : fldBv 5 W 10 = b := fldBv_eq W 10 b (by norm_num; omega)
  have cl : fld W 6 4 = l.code := (fld_eq W 6 4 16 8 rfl rfl).trans (by omega)
  have ol : Level.ofCode (fld W 6 4) = l := by rw [cl]; exact Level.ofCode_code l
  have k4 : fld W 6 4 < 6 := by rw [fld_eq W 6 4 16 8 rfl rfl]; omega
  rw [dec_34 W m, show decodeCopy W = .ok (.cpdim d a b l) by simp [decodeCopy, chk, k1, k2, k3, od, oa, ob, ol, k4]]; rfl

theorem cpgo (d : SReg) (a : SReg) : Statement (.cpgo d a) := by
  intro _ _
  have hd := d.isLt
  have ha := a.isLt
  have hw : (encode (.cpgo d a)).toNat = 0x68000001 + d.toNat * 1048576 + a.toNat * 32768 := encode_toNat _ _ rfl (by omega)
  generalize encode (.cpgo d a) = W at hw ⊢
  have m : fld W 31 25 = 52 := (fld_eq W 31 25 33554432 128 rfl rfl).trans (by omega)
  have k1 : fld W 2 0 = 1 := (fld_eq W 2 0 1 8 rfl rfl).trans (by omega)
  have k2 : fld W 14 3 = 0 := (fld_eq W 14 3 8 4096 rfl rfl).trans (by omega)
  have od : fldBv 5 W 20 = d := fldBv_eq W 20 d (by norm_num; omega)
  have oa : fldBv 5 W 15 = a := fldBv_eq W 15 a (by norm_num; omega)
  rw [dec_34 W m, show decodeCopy W = .ok (.cpgo d a) by simp [decodeCopy, chk, k1, k2, od, oa]]; rfl

theorem cpgat (d : SReg) (a : SReg) : Statement (.cpgat d a) := by
  intro _ _
  have hd := d.isLt
  have ha := a.isLt
  have hw : (encode (.cpgat d a)).toNat = 0x68000002 + d.toNat * 1048576 + a.toNat * 32768 := encode_toNat _ _ rfl (by omega)
  generalize encode (.cpgat d a) = W at hw ⊢
  have m : fld W 31 25 = 52 := (fld_eq W 31 25 33554432 128 rfl rfl).trans (by omega)
  have k1 : fld W 2 0 = 2 := (fld_eq W 2 0 1 8 rfl rfl).trans (by omega)
  have k2 : fld W 14 3 = 0 := (fld_eq W 14 3 8 4096 rfl rfl).trans (by omega)
  have od : fldBv 5 W 20 = d := fldBv_eq W 20 d (by norm_num; omega)
  have oa : fldBv 5 W 15 = a := fldBv_eq W 15 a (by norm_num; omega)
  rw [dec_34 W m, show decodeCopy W = .ok (.cpgat d a) by simp [decodeCopy, chk, k1, k2, od, oa]]; rfl

theorem cpmc (d : SReg) (a : SReg) (b : SReg) : Statement (.cpmc d a b) := by
  intro _ _
  have hd := d.isLt
  have ha := a.isLt
  have hb := b.isLt
  have hw : (encode (.cpmc d a b)).toNat = 0x68000003 + d.toNat * 1048576 + a.toNat * 32768 + b.toNat * 1024 := encode_toNat _ _ rfl (by omega)
  generalize encode (.cpmc d a b) = W at hw ⊢
  have m : fld W 31 25 = 52 := (fld_eq W 31 25 33554432 128 rfl rfl).trans (by omega)
  have k1 : fld W 2 0 = 3 := (fld_eq W 2 0 1 8 rfl rfl).trans (by omega)
  have k2 : fld W 9 3 = 0 := (fld_eq W 9 3 8 128 rfl rfl).trans (by omega)
  have od : fldBv 5 W 20 = d := fldBv_eq W 20 d (by norm_num; omega)
  have oa : fldBv 5 W 15 = a := fldBv_eq W 15 a (by norm_num; omega)
  have ob : fldBv 5 W 10 = b := fldBv_eq W 10 b (by norm_num; omega)
  rw [dec_34 W m, show decodeCopy W = .ok (.cpmc d a b) by simp [decodeCopy, chk, k1, k2, od, oa, ob]]; rfl

theorem permit (a : SReg) (b : SReg) : Statement (.permit a b) := by
  intro _ _
  have ha := a.isLt
  have hb := b.isLt
  have hw : (encode (.permit a b)).toNat = 0x68000004 + a.toNat * 32768 + b.toNat * 1024 := encode_toNat _ _ rfl (by omega)
  generalize encode (.permit a b) = W at hw ⊢
  have m : fld W 31 25 = 52 := (fld_eq W 31 25 33554432 128 rfl rfl).trans (by omega)
  have k1 : fld W 2 0 = 4 := (fld_eq W 2 0 1 8 rfl rfl).trans (by omega)
  have k2 : fld W 24 20 = 0 := (fld_eq W 24 20 1048576 32 rfl rfl).trans (by omega)
  have k3 : fld W 9 3 = 0 := (fld_eq W 9 3 8 128 rfl rfl).trans (by omega)
  have oa : fldBv 5 W 15 = a := fldBv_eq W 15 a (by norm_num; omega)
  have ob : fldBv 5 W 10 = b := fldBv_eq W 10 b (by norm_num; omega)
  rw [dec_34 W m, show decodeCopy W = .ok (.permit a b) by simp [decodeCopy, chk, k1, k2, k3, oa, ob]]; rfl

theorem cpstat (d : SReg) (a : SReg) : Statement (.cpstat d a) := by
  intro _ _
  have hd := d.isLt
  have ha := a.isLt
  have hw : (encode (.cpstat d a)).toNat = 0x68000005 + d.toNat * 1048576 + a.toNat * 32768 := encode_toNat _ _ rfl (by omega)
  generalize encode (.cpstat d a) = W at hw ⊢
  have m : fld W 31 25 = 52 := (fld_eq W 31 25 33554432 128 rfl rfl).trans (by omega)
  have k1 : fld W 2 0 = 5 := (fld_eq W 2 0 1 8 rfl rfl).trans (by omega)
  have k2 : fld W 14 3 = 0 := (fld_eq W 14 3 8 4096 rfl rfl).trans (by omega)
  have od : fldBv 5 W 20 = d := fldBv_eq W 20 d (by norm_num; omega)
  have oa : fldBv 5 W 15 = a := fldBv_eq W 15 a (by norm_num; omega)
  rw [dec_34 W m, show decodeCopy W = .ok (.cpstat d a) by simp [decodeCopy, chk, k1, k2, od, oa]]; rfl

theorem copyQueueAdmit x0 : Statement (.copyQueueAdmit x0) := fun _ h => absurd h (by simp [Instr.encoded])

theorem copyStart x0 : Statement (.copyStart x0) := fun _ h => absurd h (by simp [Instr.encoded])

theorem slotPermitTake x0 : Statement (.slotPermitTake x0) := fun _ h => absurd h (by simp [Instr.encoded])

theorem transfer x0 x1 : Statement (.transfer x0 x1) := fun _ h => absurd h (by simp [Instr.encoded])

theorem gatherRow x0 x1 : Statement (.gatherRow x0 x1) := fun _ h => absurd h (by simp [Instr.encoded])

theorem copyStamp x0 : Statement (.copyStamp x0) := fun _ h => absurd h (by simp [Instr.encoded])

theorem copyFail x0 x1 x2 : Statement (.copyFail x0 x1 x2) := fun _ h => absurd h (by simp [Instr.encoded])

theorem launch (d : SReg) (a : SReg) : Statement (.launch d a) := by
  intro _ _
  have hd := d.isLt
  have ha := a.isLt
  have hw : (encode (.launch d a)).toNat = 0x6A000000 + d.toNat * 1048576 + a.toNat * 32768 := encode_toNat _ _ rfl (by omega)
  generalize encode (.launch d a) = W at hw ⊢
  have m : fld W 31 25 = 53 := (fld_eq W 31 25 33554432 128 rfl rfl).trans (by omega)
  have k1 : fld W 3 0 = 0 := (fld_eq W 3 0 1 16 rfl rfl).trans (by omega)
  have k2 : fld W 14 4 = 0 := (fld_eq W 14 4 16 2048 rfl rfl).trans (by omega)
  have od : fldBv 5 W 20 = d := fldBv_eq W 20 d (by norm_num; omega)
  have oa : fldBv 5 W 15 = a := fldBv_eq W 15 a (by norm_num; omega)
  rw [dec_35 W m, show decodeTask W = .ok (.launch d a) by simp [decodeTask, chk, k1, k2, od, oa]]; rfl

theorem launchAdmit x0 : Statement (.launchAdmit x0) := fun _ h => absurd h (by simp [Instr.encoded])

theorem pinPassResume x0 x1 : Statement (.pinPassResume x0 x1) := fun _ h => absurd h (by simp [Instr.encoded])

theorem gsub (d : SReg) (a : SReg) : Statement (.gsub d a) := by
  intro _ _
  have hd := d.isLt
  have ha := a.isLt
  have hw : (encode (.gsub d a)).toNat = 0x6A000001 + d.toNat * 1048576 + a.toNat * 32768 := encode_toNat _ _ rfl (by omega)
  generalize encode (.gsub d a) = W at hw ⊢
  have m : fld W 31 25 = 53 := (fld_eq W 31 25 33554432 128 rfl rfl).trans (by omega)
  have k1 : fld W 3 0 = 1 := (fld_eq W 3 0 1 16 rfl rfl).trans (by omega)
  have k2 : fld W 14 4 = 0 := (fld_eq W 14 4 16 2048 rfl rfl).trans (by omega)
  have od : fldBv 5 W 20 = d := fldBv_eq W 20 d (by norm_num; omega)
  have oa : fldBv 5 W 15 = a := fldBv_eq W 15 a (by norm_num; omega)
  rw [dec_35 W m, show decodeTask W = .ok (.gsub d a) by simp [decodeTask, chk, k1, k2, od, oa]]; rfl

theorem gsubAdmit x0 : Statement (.gsubAdmit x0) := fun _ h => absurd h (by simp [Instr.encoded])

theorem spawn (a : SReg) (b : SReg) : Statement (.spawn a b) := by
  intro _ _
  have ha := a.isLt
  have hb := b.isLt
  have hw : (encode (.spawn a b)).toNat = 0x6A000002 + a.toNat * 32768 + b.toNat * 1024 := encode_toNat _ _ rfl (by omega)
  generalize encode (.spawn a b) = W at hw ⊢
  have m : fld W 31 25 = 53 := (fld_eq W 31 25 33554432 128 rfl rfl).trans (by omega)
  have k1 : fld W 3 0 = 2 := (fld_eq W 3 0 1 16 rfl rfl).trans (by omega)
  have k2 : fld W 24 20 = 0 := (fld_eq W 24 20 1048576 32 rfl rfl).trans (by omega)
  have k3 : fld W 9 4 = 0 := (fld_eq W 9 4 16 64 rfl rfl).trans (by omega)
  have oa : fldBv 5 W 15 = a := fldBv_eq W 15 a (by norm_num; omega)
  have ob : fldBv 5 W 10 = b := fldBv_eq W 10 b (by norm_num; omega)
  rw [dec_35 W m, show decodeTask W = .ok (.spawn a b) by simp [decodeTask, chk, k1, k2, k3, oa, ob]]; rfl

theorem join (d : SReg) (a : SReg) : Statement (.join d a) := by
  intro _ _
  have hd := d.isLt
  have ha := a.isLt
  have hw : (encode (.join d a)).toNat = 0x6A000003 + d.toNat * 1048576 + a.toNat * 32768 := encode_toNat _ _ rfl (by omega)
  generalize encode (.join d a) = W at hw ⊢
  have m : fld W 31 25 = 53 := (fld_eq W 31 25 33554432 128 rfl rfl).trans (by omega)
  have k1 : fld W 3 0 = 3 := (fld_eq W 3 0 1 16 rfl rfl).trans (by omega)
  have k2 : fld W 14 4 = 0 := (fld_eq W 14 4 16 2048 rfl rfl).trans (by omega)
  have od : fldBv 5 W 20 = d := fldBv_eq W 20 d (by norm_num; omega)
  have oa : fldBv 5 W 15 = a := fldBv_eq W 15 a (by norm_num; omega)
  rw [dec_35 W m, show decodeTask W = .ok (.join d a) by simp [decodeTask, chk, k1, k2, od, oa]]; rfl

theorem joinWake x0 : Statement (.joinWake x0) := fun _ h => absurd h (by simp [Instr.encoded])

theorem yield : Statement .yield := by
  intro _ _
  have hw : (encode .yield).toNat = 0x6A000004 := encode_toNat _ _ rfl (by omega)
  generalize encode .yield = W at hw ⊢
  have m : fld W 31 25 = 53 := (fld_eq W 31 25 33554432 128 rfl rfl).trans (by omega)
  have k1 : fld W 3 0 = 4 := (fld_eq W 3 0 1 16 rfl rfl).trans (by omega)
  have k2 : fld W 24 4 = 0 := (fld_eq W 24 4 16 2097152 rfl rfl).trans (by omega)
  rw [dec_35 W m, show decodeTask W = .ok .yield by simp [decodeTask, chk, k1, k2]]; rfl

theorem park (d : SReg) (a : SReg) (b : SReg) : Statement (.park d a b) := by
  intro _ _
  have hd := d.isLt
  have ha := a.isLt
  have hb := b.isLt
  have hw : (encode (.park d a b)).toNat = 0x6A000005 + d.toNat * 1048576 + a.toNat * 32768 + b.toNat * 1024 := encode_toNat _ _ rfl (by omega)
  generalize encode (.park d a b) = W at hw ⊢
  have m : fld W 31 25 = 53 := (fld_eq W 31 25 33554432 128 rfl rfl).trans (by omega)
  have k1 : fld W 3 0 = 5 := (fld_eq W 3 0 1 16 rfl rfl).trans (by omega)
  have k2 : fld W 9 4 = 0 := (fld_eq W 9 4 16 64 rfl rfl).trans (by omega)
  have od : fldBv 5 W 20 = d := fldBv_eq W 20 d (by norm_num; omega)
  have oa : fldBv 5 W 15 = a := fldBv_eq W 15 a (by norm_num; omega)
  have ob : fldBv 5 W 10 = b := fldBv_eq W 10 b (by norm_num; omega)
  rw [dec_35 W m, show decodeTask W = .ok (.park d a b) by simp [decodeTask, chk, k1, k2, od, oa, ob]]; rfl

theorem tend : Statement .tend := by
  intro _ _
  have hw : (encode .tend).toNat = 0x6A000006 := encode_toNat _ _ rfl (by omega)
  generalize encode .tend = W at hw ⊢
  have m : fld W 31 25 = 53 := (fld_eq W 31 25 33554432 128 rfl rfl).trans (by omega)
  have k1 : fld W 3 0 = 6 := (fld_eq W 3 0 1 16 rfl rfl).trans (by omega)
  have k2 : fld W 24 4 = 0 := (fld_eq W 24 4 16 2097152 rfl rfl).trans (by omega)
  rw [dec_35 W m, show decodeTask W = .ok .tend by simp [decodeTask, chk, k1, k2]]; rfl

theorem tendComplete x0 : Statement (.tendComplete x0) := fun _ h => absurd h (by simp [Instr.encoded])

theorem prio (a : SReg) : Statement (.prio a) := by
  intro _ _
  have ha := a.isLt
  have hw : (encode (.prio a)).toNat = 0x6A000007 + a.toNat * 32768 := encode_toNat _ _ rfl (by omega)
  generalize encode (.prio a) = W at hw ⊢
  have m : fld W 31 25 = 53 := (fld_eq W 31 25 33554432 128 rfl rfl).trans (by omega)
  have k1 : fld W 3 0 = 7 := (fld_eq W 3 0 1 16 rfl rfl).trans (by omega)
  have k2 : fld W 24 20 = 0 := (fld_eq W 24 20 1048576 32 rfl rfl).trans (by omega)
  have k3 : fld W 14 4 = 0 := (fld_eq W 14 4 16 2048 rfl rfl).trans (by omega)
  have oa : fldBv 5 W 15 = a := fldBv_eq W 15 a (by norm_num; omega)
  rw [dec_35 W m, show decodeTask W = .ok (.prio a) by simp [decodeTask, chk, k1, k2, k3, oa]]; rfl

theorem wid (d : SReg) (l : Level) : Statement (.wid d l) := by
  intro _ _
  have hd := d.isLt
  have hl := Level.code_lt l
  have hw : (encode (.wid d l)).toNat = 0x6A000008 + d.toNat * 1048576 + l.code * 16 := encode_toNat _ _ rfl (by omega)
  generalize encode (.wid d l) = W at hw ⊢
  have m : fld W 31 25 = 53 := (fld_eq W 31 25 33554432 128 rfl rfl).trans (by omega)
  have k1 : fld W 3 0 = 8 := (fld_eq W 3 0 1 16 rfl rfl).trans (by omega)
  have k2 : fld W 19 7 = 0 := (fld_eq W 19 7 128 8192 rfl rfl).trans (by omega)
  have od : fldBv 5 W 20 = d := fldBv_eq W 20 d (by norm_num; omega)
  have cl : fld W 6 4 = l.code := (fld_eq W 6 4 16 8 rfl rfl).trans (by omega)
  have ol : Level.ofCode (fld W 6 4) = l := by rw [cl]; exact Level.ofCode_code l
  have k3 : fld W 6 4 < 6 := by rw [fld_eq W 6 4 16 8 rfl rfl]; omega
  rw [dec_35 W m, show decodeTask W = .ok (.wid d l) by simp [decodeTask, chk, k1, k2, od, ol, k3]]; rfl

theorem taskEnumerate x0 x1 : Statement (.taskEnumerate x0 x1) := fun _ h => absurd h (by simp [Instr.encoded])

theorem gangAdmit x0 x1 x2 : Statement (.gangAdmit x0 x1 x2) := fun _ h => absurd h (by simp [Instr.encoded])

theorem taskDispatch x0 : Statement (.taskDispatch x0) := fun _ h => absurd h (by simp [Instr.encoded])

theorem preempt x0 : Statement (.preempt x0) := fun _ h => absurd h (by simp [Instr.encoded])

theorem steal x0 x1 : Statement (.steal x0 x1) := fun _ h => absurd h (by simp [Instr.encoded])

theorem parkWake x0 : Statement (.parkWake x0) := fun _ h => absurd h (by simp [Instr.encoded])

theorem launchComplete x0 x1 : Statement (.launchComplete x0 x1) := fun _ h => absurd h (by simp [Instr.encoded])

theorem nodeFinish x0 x1 x2 : Statement (.nodeFinish x0 x1 x2) := fun _ h => absurd h (by simp [Instr.encoded])

theorem nodeFail x0 x1 x2 : Statement (.nodeFail x0 x1 x2) := fun _ h => absurd h (by simp [Instr.encoded])

theorem vaneArm (d : SReg) (a : SReg) (b : SReg) : Statement (.vaneArm d a b) := by
  intro _ _
  have hd := d.isLt
  have ha := a.isLt
  have hb := b.isLt
  have hw : (encode (.vaneArm d a b)).toNat = 0x6C000000 + d.toNat * 1048576 + a.toNat * 32768 + b.toNat * 1024 := encode_toNat _ _ rfl (by omega)
  generalize encode (.vaneArm d a b) = W at hw ⊢
  have m : fld W 31 25 = 54 := (fld_eq W 31 25 33554432 128 rfl rfl).trans (by omega)
  have k1 : fld W 2 0 = 0 := (fld_eq W 2 0 1 8 rfl rfl).trans (by omega)
  have k2 : fld W 9 3 = 0 := (fld_eq W 9 3 8 128 rfl rfl).trans (by omega)
  have od : fldBv 5 W 20 = d := fldBv_eq W 20 d (by norm_num; omega)
  have oa : fldBv 5 W 15 = a := fldBv_eq W 15 a (by norm_num; omega)
  have ob : fldBv 5 W 10 = b := fldBv_eq W 10 b (by norm_num; omega)
  rw [dec_36 W m, show decodeVane W = .ok (.vaneArm d a b) by simp [decodeVane, chk, k1, k2, od, oa, ob]]; rfl

theorem vaneArmCommit x0 : Statement (.vaneArmCommit x0) := fun _ h => absurd h (by simp [Instr.encoded])

theorem vret : Statement .vret := by
  intro _ _
  have hw : (encode .vret).toNat = 0x6C000001 := encode_toNat _ _ rfl (by omega)
  generalize encode .vret = W at hw ⊢
  have m : fld W 31 25 = 54 := (fld_eq W 31 25 33554432 128 rfl rfl).trans (by omega)
  have k1 : fld W 2 0 = 1 := (fld_eq W 2 0 1 8 rfl rfl).trans (by omega)
  have k2 : fld W 24 3 = 0 := (fld_eq W 24 3 8 4194304 rfl rfl).trans (by omega)
  rw [dec_36 W m, show decodeVane W = .ok .vret by simp [decodeVane, chk, k1, k2]]; rfl

theorem lull : Statement .lull := by
  intro _ _
  have hw : (encode .lull).toNat = 0x6C000002 := encode_toNat _ _ rfl (by omega)
  generalize encode .lull = W at hw ⊢
  have m : fld W 31 25 = 54 := (fld_eq W 31 25 33554432 128 rfl rfl).trans (by omega)
  have k1 : fld W 2 0 = 2 := (fld_eq W 2 0 1 8 rfl rfl).trans (by omega)
  have k2 : fld W 3 3 = 0 := (fld_eq W 3 3 8 2 rfl rfl).trans (by omega)
  have k3 : fld W 24 4 = 0 := (fld_eq W 24 4 16 2097152 rfl rfl).trans (by omega)
  rw [dec_36 W m, show decodeVane W = .ok .lull by simp [decodeVane, chk, k1, k2, k3]]; rfl

theorem lullN (a : SReg) : Statement (.lullN a) := by
  intro _ _
  have ha := a.isLt
  have hw : (encode (.lullN a)).toNat = 0x6C00000A + a.toNat * 32768 := encode_toNat _ _ rfl (by omega)
  generalize encode (.lullN a) = W at hw ⊢
  have m : fld W 31 25 = 54 := (fld_eq W 31 25 33554432 128 rfl rfl).trans (by omega)
  have k1 : fld W 2 0 = 2 := (fld_eq W 2 0 1 8 rfl rfl).trans (by omega)
  have k2 : fld W 3 3 = 1 := (fld_eq W 3 3 8 2 rfl rfl).trans (by omega)
  have k3 : fld W 24 20 = 0 := (fld_eq W 24 20 1048576 32 rfl rfl).trans (by omega)
  have k4 : fld W 14 4 = 0 := (fld_eq W 14 4 16 2048 rfl rfl).trans (by omega)
  have oa : fldBv 5 W 15 = a := fldBv_eq W 15 a (by norm_num; omega)
  rw [dec_36 W m, show decodeVane W = .ok (.lullN a) by simp [decodeVane, chk, k1, k2, k3, k4, oa]]; rfl

theorem vaneRd (d : SReg) (a : SReg) : Statement (.vaneRd d a) := by
  intro _ _
  have hd := d.isLt
  have ha := a.isLt
  have hw : (encode (.vaneRd d a)).toNat = 0x6C000003 + d.toNat * 1048576 + a.toNat * 32768 := encode_toNat _ _ rfl (by omega)
  generalize encode (.vaneRd d a) = W at hw ⊢
  have m : fld W 31 25 = 54 := (fld_eq W 31 25 33554432 128 rfl rfl).trans (by omega)
  have k1 : fld W 2 0 = 3 := (fld_eq W 2 0 1 8 rfl rfl).trans (by omega)
  have k2 : fld W 14 3 = 0 := (fld_eq W 14 3 8 4096 rfl rfl).trans (by omega)
  have od : fldBv 5 W 20 = d := fldBv_eq W 20 d (by norm_num; omega)
  have oa : fldBv 5 W 15 = a := fldBv_eq W 15 a (by norm_num; omega)
  rw [dec_36 W m, show decodeVane W = .ok (.vaneRd d a) by simp [decodeVane, chk, k1, k2, od, oa]]; rfl

theorem vaneDrop (a : SReg) (b : SReg) : Statement (.vaneDrop a b) := by
  intro _ _
  have ha := a.isLt
  have hb := b.isLt
  have hw : (encode (.vaneDrop a b)).toNat = 0x6C000004 + a.toNat * 32768 + b.toNat * 1024 := encode_toNat _ _ rfl (by omega)
  generalize encode (.vaneDrop a b) = W at hw ⊢
  have m : fld W 31 25 = 54 := (fld_eq W 31 25 33554432 128 rfl rfl).trans (by omega)
  have k1 : fld W 2 0 = 4 := (fld_eq W 2 0 1 8 rfl rfl).trans (by omega)
  have k2 : fld W 24 20 = 0 := (fld_eq W 24 20 1048576 32 rfl rfl).trans (by omega)
  have k3 : fld W 9 3 = 0 := (fld_eq W 9 3 8 128 rfl rfl).trans (by omega)
  have oa : fldBv 5 W 15 = a := fldBv_eq W 15 a (by norm_num; omega)
  have ob : fldBv 5 W 10 = b := fldBv_eq W 10 b (by norm_num; omega)
  rw [dec_36 W m, show decodeVane W = .ok (.vaneDrop a b) by simp [decodeVane, chk, k1, k2, k3, oa, ob]]; rfl

theorem flipMessage x0 : Statement (.flipMessage x0) := fun _ h => absurd h (by simp [Instr.encoded])

theorem idlePass x0 : Statement (.idlePass x0) := fun _ h => absurd h (by simp [Instr.encoded])

theorem edgeStoreError x0 x1 x2 x3 : Statement (.edgeStoreError x0 x1 x2 x3) := fun _ h => absurd h (by simp [Instr.encoded])

theorem rfence : Statement .rfence := by
  intro _ _
  have hw : (encode .rfence).toNat = 0x6E000000 := encode_toNat _ _ rfl (by omega)
  generalize encode .rfence = W at hw ⊢
  have m : fld W 31 25 = 55 := (fld_eq W 31 25 33554432 128 rfl rfl).trans (by omega)
  have k1 : fld W 2 0 = 0 := (fld_eq W 2 0 1 8 rfl rfl).trans (by omega)
  have k2 : fld W 24 3 = 0 := (fld_eq W 24 3 8 4194304 rfl rfl).trans (by omega)
  rw [dec_37 W m, show decodeRemote W = .ok .rfence by simp [decodeRemote, chk, k1, k2]]; rfl

theorem rwin (d : SReg) (a : SReg) : Statement (.rwin d a) := by
  intro _ _
  have hd := d.isLt
  have ha := a.isLt
  have hw : (encode (.rwin d a)).toNat = 0x6E000001 + d.toNat * 1048576 + a.toNat * 32768 := encode_toNat _ _ rfl (by omega)
  generalize encode (.rwin d a) = W at hw ⊢
  have m : fld W 31 25 = 55 := (fld_eq W 31 25 33554432 128 rfl rfl).trans (by omega)
  have k1 : fld W 2 0 = 1 := (fld_eq W 2 0 1 8 rfl rfl).trans (by omega)
  have k2 : fld W 14 3 = 0 := (fld_eq W 14 3 8 4096 rfl rfl).trans (by omega)
  have od : fldBv 5 W 20 = d := fldBv_eq W 20 d (by norm_num; omega)
  have oa : fldBv 5 W 15 = a := fldBv_eq W 15 a (by norm_num; omega)
  rw [dec_37 W m, show decodeRemote W = .ok (.rwin d a) by simp [decodeRemote, chk, k1, k2, od, oa]]; rfl

theorem rwinCloseComplete x0 : Statement (.rwinCloseComplete x0) := fun _ h => absurd h (by simp [Instr.encoded])

theorem illegalInstruction x0 : Statement (.illegalInstruction x0) := fun _ h => absurd h (by simp [Instr.encoded])

theorem queueDeadlock x0 : Statement (.queueDeadlock x0) := fun _ h => absurd h (by simp [Instr.encoded])

theorem interrupt x0 : Statement (.interrupt x0) := fun _ h => absurd h (by simp [Instr.encoded])

theorem wfiWake x0 : Statement (.wfiWake x0) := fun _ h => absurd h (by simp [Instr.encoded])

theorem haltWake : Statement (.haltWake) := fun _ h => absurd h (by simp [Instr.encoded])

theorem read x0 x1 x2 : Statement (.read x0 x1 x2) := fun _ h => absurd h (by simp [Instr.encoded])

theorem push x0 : Statement (.push x0) := fun _ h => absurd h (by simp [Instr.encoded])

theorem enterScalar x0 : Statement (.enterScalar x0) := fun _ h => absurd h (by simp [Instr.encoded])

theorem supply x0 x1 x2 : Statement (.supply x0 x1 x2) := fun _ h => absurd h (by simp [Instr.encoded])

theorem enterTrain x0 x1 x2 : Statement (.enterTrain x0 x1 x2) := fun _ h => absurd h (by simp [Instr.encoded])

theorem widen x0 : Statement (.widen x0) := fun _ h => absurd h (by simp [Instr.encoded])

theorem atomic x0 x1 x2 : Statement (.atomic x0 x1 x2) := fun _ h => absurd h (by simp [Instr.encoded])

theorem land x0 x1 x2 : Statement (.land x0 x1 x2) := fun _ h => absurd h (by simp [Instr.encoded])

theorem complete x0 : Statement (.complete x0) := fun _ h => absurd h (by simp [Instr.encoded])

theorem scAccess x0 : Statement (.scAccess x0) := fun _ h => absurd h (by simp [Instr.encoded])

theorem monitorRead x0 : Statement (.monitorRead x0) := fun _ h => absurd h (by simp [Instr.encoded])

theorem barArrive x0 : Statement (.barArrive x0) := fun _ h => absurd h (by simp [Instr.encoded])

theorem chunkDone x0 x1 : Statement (.chunkDone x0 x1) := fun _ h => absurd h (by simp [Instr.encoded])

theorem remoteEnter x0 x1 x2 x3 x4 : Statement (.remoteEnter x0 x1 x2 x3 x4) := fun _ h => absurd h (by simp [Instr.encoded])

theorem ack x0 x1 x2 : Statement (.ack x0 x1 x2) := fun _ h => absurd h (by simp [Instr.encoded])

theorem dataMessage x0 : Statement (.dataMessage x0) := fun _ h => absurd h (by simp [Instr.encoded])

theorem tailMessage x0 : Statement (.tailMessage x0) := fun _ h => absurd h (by simp [Instr.encoded])

theorem ackMessage x0 : Statement (.ackMessage x0) := fun _ h => absurd h (by simp [Instr.encoded])

theorem nackMessage x0 : Statement (.nackMessage x0) := fun _ h => absurd h (by simp [Instr.encoded])

theorem atomicRequest x0 : Statement (.atomicRequest x0) := fun _ h => absurd h (by simp [Instr.encoded])

theorem atomicResponse x0 : Statement (.atomicResponse x0) := fun _ h => absurd h (by simp [Instr.encoded])

theorem stampMessage x0 : Statement (.stampMessage x0) := fun _ h => absurd h (by simp [Instr.encoded])

theorem restartMessage x0 : Statement (.restartMessage x0) := fun _ h => absurd h (by simp [Instr.encoded])

theorem resendTimeout x0 x1 x2 : Statement (.resendTimeout x0 x1 x2) := fun _ h => absurd h (by simp [Instr.encoded])

theorem streamTimeout x0 x1 x2 : Statement (.streamTimeout x0 x1 x2) := fun _ h => absurd h (by simp [Instr.encoded])

theorem vdmapWrite x0 x1 : Statement (.vdmapWrite x0 x1) := fun _ h => absurd h (by simp [Instr.encoded])

theorem domainSwitch x0 : Statement (.domainSwitch x0) := fun _ h => absurd h (by simp [Instr.encoded])

theorem clockChange x0 : Statement (.clockChange x0) := fun _ h => absurd h (by simp [Instr.encoded])

theorem tctlWrite x0 x1 : Statement (.tctlWrite x0 x1) := fun _ h => absurd h (by simp [Instr.encoded])

theorem tctlApply x0 : Statement (.tctlApply x0) := fun _ h => absurd h (by simp [Instr.encoded])

theorem slewStep x0 : Statement (.slewStep x0) := fun _ h => absurd h (by simp [Instr.encoded])

theorem budgetInterval x0 : Statement (.budgetInterval x0) := fun _ h => absurd h (by simp [Instr.encoded])

theorem pmeasWindow x0 x1 : Statement (.pmeasWindow x0 x1) := fun _ h => absurd h (by simp [Instr.encoded])

theorem pbudWrite x0 x1 : Statement (.pbudWrite x0 x1) := fun _ h => absurd h (by simp [Instr.encoded])

theorem overcurrentTrip x0 : Statement (.overcurrentTrip x0) := fun _ h => absurd h (by simp [Instr.encoded])

theorem overcurrentClear x0 : Statement (.overcurrentClear x0) := fun _ h => absurd h (by simp [Instr.encoded])

theorem sensorSample x0 x1 : Statement (.sensorSample x0 x1) := fun _ h => absurd h (by simp [Instr.encoded])

theorem wdogWrite : Statement (.wdogWrite) := fun _ h => absurd h (by simp [Instr.encoded])

theorem watchdogWarning : Statement (.watchdogWarning) := fun _ h => absurd h (by simp [Instr.encoded])

theorem watchdogExpire : Statement (.watchdogExpire) := fun _ h => absurd h (by simp [Instr.encoded])

theorem mtickTick : Statement (.mtickTick) := fun _ h => absurd h (by simp [Instr.encoded])

theorem pctlWrite x0 : Statement (.pctlWrite x0) := fun _ h => absurd h (by simp [Instr.encoded])

theorem mInterrupt : Statement (.mInterrupt) := fun _ h => absurd h (by simp [Instr.encoded])

theorem pswWrite x0 : Statement (.pswWrite x0) := fun _ h => absurd h (by simp [Instr.encoded])

theorem pswaWrite x0 x1 : Statement (.pswaWrite x0 x1) := fun _ h => absurd h (by simp [Instr.encoded])

theorem energyWindow x0 x1 : Statement (.energyWindow x0 x1) := fun _ h => absurd h (by simp [Instr.encoded])

theorem hsemRead x0 : Statement (.hsemRead x0) := fun _ h => absurd h (by simp [Instr.encoded])

theorem hsemRelease x0 : Statement (.hsemRelease x0) := fun _ h => absurd h (by simp [Instr.encoded])

theorem hsemLapse : Statement (.hsemLapse) := fun _ h => absurd h (by simp [Instr.encoded])

theorem hostCsrAccess x0 x1 x2 x3 : Statement (.hostCsrAccess x0 x1 x2 x3) := fun _ h => absurd h (by simp [Instr.encoded])

theorem tenantCreate x0 x1 : Statement (.tenantCreate x0 x1) := fun _ h => absurd h (by simp [Instr.encoded])

theorem tenantReset x0 : Statement (.tenantReset x0) := fun _ h => absurd h (by simp [Instr.encoded])

theorem memoryWindowWrite x0 x1 x2 x3 : Statement (.memoryWindowWrite x0 x1 x2 x3) := fun _ h => absurd h (by simp [Instr.encoded])

theorem hinvWrite x0 : Statement (.hinvWrite x0) := fun _ h => absurd h (by simp [Instr.encoded])

theorem hinvDone : Statement (.hinvDone) := fun _ h => absurd h (by simp [Instr.encoded])

theorem rtbaseWrite x0 : Statement (.rtbaseWrite x0) := fun _ h => absurd h (by simp [Instr.encoded])

theorem migRetry x0 : Statement (.migRetry x0) := fun _ h => absurd h (by simp [Instr.encoded])

theorem cxlMemAccess x0 x1 x2 x3 : Statement (.cxlMemAccess x0 x1 x2 x3) := fun _ h => absurd h (by simp [Instr.encoded])

theorem spdmGetVersion x0 : Statement (.spdmGetVersion x0) := fun _ h => absurd h (by simp [Instr.encoded])

theorem spdmGetCapabilities x0 : Statement (.spdmGetCapabilities x0) := fun _ h => absurd h (by simp [Instr.encoded])

theorem spdmNegotiateAlgorithms x0 : Statement (.spdmNegotiateAlgorithms x0) := fun _ h => absurd h (by simp [Instr.encoded])

theorem spdmGetDigests x0 : Statement (.spdmGetDigests x0) := fun _ h => absurd h (by simp [Instr.encoded])

theorem spdmGetCertificate x0 x1 x2 x3 : Statement (.spdmGetCertificate x0 x1 x2 x3) := fun _ h => absurd h (by simp [Instr.encoded])

theorem spdmChallenge x0 x1 x2 : Statement (.spdmChallenge x0 x1 x2) := fun _ h => absurd h (by simp [Instr.encoded])

theorem spdmGetMeasurements x0 x1 : Statement (.spdmGetMeasurements x0 x1) := fun _ h => absurd h (by simp [Instr.encoded])

theorem spdmUnsupportedRequest x0 x1 : Statement (.spdmUnsupportedRequest x0 x1) := fun _ h => absurd h (by simp [Instr.encoded])

theorem uncorrectableError x0 : Statement (.uncorrectableError x0) := fun _ h => absurd h (by simp [Instr.encoded])

theorem internalStateError x0 : Statement (.internalStateError x0) := fun _ h => absurd h (by simp [Instr.encoded])

theorem clusterReset x0 : Statement (.clusterReset x0) := fun _ h => absurd h (by simp [Instr.encoded])

theorem clusterResetComplete x0 : Statement (.clusterResetComplete x0) := fun _ h => absurd h (by simp [Instr.encoded])

theorem warmReset : Statement (.warmReset) := fun _ h => absurd h (by simp [Instr.encoded])

theorem coldReset : Statement (.coldReset) := fun _ h => absurd h (by simp [Instr.encoded])

theorem stateDump x0 : Statement (.stateDump x0) := fun _ h => absurd h (by simp [Instr.encoded])

theorem stateDumpComplete : Statement (.stateDumpComplete) := fun _ h => absurd h (by simp [Instr.encoded])

theorem tenantResetComplete x0 : Statement (.tenantResetComplete x0) := fun _ h => absurd h (by simp [Instr.encoded])

theorem msixTableWrite x0 x1 x2 x3 x4 : Statement (.msixTableWrite x0 x1 x2 x3 x4) := fun _ h => absurd h (by simp [Instr.encoded])

end Sys2Proof.Laws.RoundTrip
end

