-- ==== Sys2Proof/Laws/Scalar.lean ====
section
/-! SUPPORT. What reading scalar operands can do. -/

namespace Sys2Proof.Machine

theorem portVals_dry {q : Queues} {rs : List SReg} {acc vs : List Word} {f : SReg → Word}
    (h : portVals q rs acc f = some vs) : dryPort q rs = none := by
  induction rs generalizing q acc with
  | nil => rfl
  | cons r rs ih =>
    unfold portVals at h
    unfold dryPort
    by_cases hp : isSPort r = true
    · rw [if_pos hp] at h ⊢
      cases hq : sQueue q r with
      | nil => rw [hq] at h; exact absurd h (by simp)
      | cons v w => rw [hq] at h; exact ih h
    · rw [if_neg hp] at h ⊢
      exact ih h

/-- Fields that a strand may use pass. -/
theorem portGate_of_may {s : State} {rs : List SReg} {dst : Option SReg} (w : Nat) (k : Out)
    (h : roleOf s s.cpu = .single ∨ (rs.all (mayRead (roleOf s s.cpu)) = true ∧ dst.all (mayWrite (roleOf s s.cpu)) = true)) :
    portGate s w rs dst k = k := by
  unfold portGate
  rcases h with h | ⟨h1, h2⟩
  · simp [h]
  · cases dst with
    | none => simp [h1]
    | some d => simp only [Option.all_some] at h2; simp [h1, h2]

/-- An instruction whose operands are readable goes on with their values. -/
theorem readS_of_readable {s : State} {rs : List SReg} {dst : Option SReg} {vs : List Word} (w : Nat) (k : List Word → Out)
    (h : readable s rs dst = some vs) : readS s w rs dst k = k vs := by
  unfold readable at h
  unfold readS
  split at h
  · exact absurd h (by simp)
  rename_i hp
  split at h
  · rename_i hr
    rw [portGate_of_may w _ (.inl hr)]
    split at h
    · rename_i hq; simp [hp, hr, hq]; simpa using congrArg k (Option.some.inj h)
    · exact absurd h (by simp)
  · rename_i hr
    split at h
    · rename_i hq
      have hd := portVals_dry h
      have hs : ((roleOf s s.cpu == Role.single) = true) = False := by simp [hr]
      simp only [Bool.and_eq_true, Option.isNone_iff_eq_none] at hq
      obtain ⟨⟨⟨h1, h2⟩, h3⟩, h4⟩ := hq
      rw [portGate_of_may w _ (.inr ⟨h1, h2⟩)]
      cases dst with
      | none => simp [hp, hs, hd, h4, h]
      | some d =>
        simp only [Option.all_some, Bool.or_eq_true, decide_eq_true_eq] at h2 h3
        have h5 : (isSPort d && decide (sDepth d ≤ (sQueue (queuesOf s) d).length)) = false := by
          rcases h3 with h3 | h3
          · simp at h3; simp [h3]
          · simp; intro _; omega
        have h6 : Option.filter (fun d => isSPort d && decide (sDepth d ≤ (sQueue (queuesOf s) d).length)) (some d) = none := by
          rw [Option.filter_some, h5]; rfl
        simp [hp, hs, hd, h4, h, h6]
    · exact absurd h (by simp)

end Sys2Proof.Machine
end

