-- ==== Sys2Proof/Laws/Step.lean ====
section
/-! SUPPORT. A step runs the instruction the decoder reads. -/

set_option Elab.async false

namespace Sys2Proof.Machine

/-- A late row's move is its instruction's meaning. -/
theorem runLate_eq (l : Late) (s : State) : runLate l s = exec l.instr s := by
  cases l <;> rfl

/-- A word that decodes runs as the instruction it decodes to; any other raises ILL (R58). -/
theorem issueWord_eq (w : IWord) (s : State) :
    issueWord w s = match decode w with
      | .ok i => exec i s
      | .error _ => ill s w.toNat := by
  unfold issueWord decode
  split
  · cases decodeLate w with
    | ok l => exact runLate_eq l s
    | error e => rfl
  · cases decodeLow w with
    | ok i => rfl
    | error e => rfl

end Sys2Proof.Machine
end

