-- ==== Sys2Proof/Tests/Slice0.lean ====
section
/-! SUPPORT. The tests: ill-formed terms refused, words of the spec decoded, a state for each statement that meets its hypotheses, and
single steps against examples of the spec and hand calculation. -/

set_option Elab.async false

open Sys2Proof Sys2Proof.Machine

namespace Sys2Proof.Tests

/-! ## States -/

/-- The management core at reset. -/
def core : State := State.reset

/-- Tenant 0's root task, at K on cluster 0. -/
def root : State := bringUp State.reset

/-- Scalar registers set. -/
def withS (s : State) (xs : List (SReg × Word)) : State := xs.foldl (fun s x => setSreg s x.1 x.2) s

/-- A vector value of elements xs of format f. -/
def vec (f : Nat) (xs : List Nat) : VVal :=
  { VVal.zero with tag := BitVec.ofNat 6 f, bits := BitVec.ofNat 8192 (xs.mapIdx (fun i x => x * 2 ^ (fmtWidth f * i))).sum }

/-- Vector registers set. -/
def withV (s : State) (xs : List (VReg × VVal)) : State := xs.foldl (fun s x => setVreg s x.1 x.2) s

/-- VL and MR set. -/
def withVl (s : State) (mr : BitVec 25) (n : Nat) : State := s.withCtl (fun c => { c with mr := mr, vl := n })

/-- Bytes of device memory set. -/
def withBytes (s : State) (pa : Nat) (bs : List Byte) : State := enterWide s (.dev pa) bs

/-- A trap handler for tenant 0, the level given, and the trap state after it. -/
def handled (s : State) : State := s.modTen 0 (fun t => { t with tvec := 0x20000 })
def atU (s : State) : State := s.withCtl (fun c => { c with level := .u })
def inHandler (s : State) : State := s.withTrap (fun t => { t with tstatus := 0x10 })

/-- The root task as a decoupled pair, its A strand or its E strand the cpu. -/
def pairA : State :=
  { root with tasks := root.tasks.map (fun t => { t with dual := true }),
              others := Strand.start (.task 0 true) 0 0 0x10000 .k :: root.others }
def pairE : State := pairA.focus (.task 0 true)

/-- The task as one of launch 1. -/
def launched : State := { root with tasks := root.tasks.map (fun t => { t with kind := .launched, lid := 1, leases := [⟨0x4000, 64, true, true, false, false⟩] }) }

/-- The same state after a stored condition or a pushed word. -/
def withQ (s : State) (f : Queues → Queues) : State := modQueues s f

/-- A diversion entry: an FP32 element of v1 of the root task, `vfma` of 1, 1 and 0. -/
def entry : DivEntry :=
  { id := 1, strand := .task 0 false, tenant := 0, dst := .reg 1, elem := 0, op := 0, fmt := 0, dfmt := 0, rm := 0, fz := false, sat := false,
    a := .val 0x3F800000, b := .val 0x3F800000, c := .val 0, replay := false, app := none, taken := false, live := 2 ^ 32 - 1, kept := [] }

/-- A thaw thread that serves it. -/
def thaw : State :=
  { (root.modCluster 0 (fun c => { c with div := [{ entry with taken := true }] })) with
      cpu := { Strand.start (.thaw 0 0) 0 0 0x10000 .u with serves := some 1 }, others := root.cpu :: root.others }

/-- The answer is a value, and the value satisfies p. -/
def okAnd {ε α : Type} (r : Except ε α) (p : α → Bool) : Bool := match r with | .ok x => p x | .error _ => false
/-- The answer is the cause c. -/
def stops {α : Type} (r : Except MStop α) (c : Nat) : Bool := match r with | .error (.cause x) => x == c | _ => false
/-- There is a value, and it satisfies p. -/
def someAnd {α : Type} (r : Option α) (p : α → Bool) : Bool := match r with | some x => p x | none => false

theorem root_id : root.cpu.id = .task 0 false := by decide
theorem root_not_thaw : ∀ c k, root.cpu.id ≠ .thaw c k := by rw [root_id]; intro c k h; cases h

/-! ## Ill-formed terms, one for each check, refused (R58 to R60) -/

theorem test_wf_slli : WellFormed (.slli 1 2 true 32) = false ∧ WellFormed (.slli 1 2 true 31) = true := by decide
theorem test_wf_srli : WellFormed (.srli 1 2 true 32) = false ∧ WellFormed (.srli 1 2 false 63) = true := by decide
theorem test_wf_srai : WellFormed (.srai 1 2 true 63) = false := by decide
theorem test_wf_fcvt : WellFormed (.fcvtFF 1 2 .f16 .f16) = false ∧ WellFormed (.fcvtFF 1 2 .f16 .bf16) = true := by decide
theorem test_wf_loops : WellFormed (.loop 0 1 0) = false ∧ WellFormed (.loopi 0 5 0) = false ∧ WellFormed (.vloop 1 1 0) = false := by decide
theorem test_wf_vhad : WellFormed (.vhad 1 2 11) = false ∧ WellFormed (.vhad 1 2 10) = true := by decide
theorem test_wf_mma : WellFormed (.mma 0 8 0 true 0) = false ∧ WellFormed (.mma 0 30 1 true 2) = false ∧ WellFormed (.mma 0 28 1 true 2) = true := by decide
theorem test_wf_mmasp : WellFormed (.mmasp 0 8 0 true 0) = false ∧ WellFormed (.mmasp 0 25 1 true 3) = false := by decide
theorem test_wf_mmas : WellFormed (.mmas 0 0 1 true) = false ∧ WellFormed (.mmas 0 1 0 true) = false := by decide
theorem test_wf_mtd : WellFormed (.mtd 0 1 2) = false := by decide

/-! ## Words of the spec -/

/-- Words of Tables 3.13 and 5.9. -/
theorem test_words_scalar_integer :
    decode 0x06308A00 = .ok (.add 3 1 2 true) ∧
    decode 0x10424003 = .ok (.srai 4 4 false 3) := by decide

/-- Words of Table 5.9. -/
theorem test_words_csr :
    decode 0x1E700001 = .ok (.csrr 7 1) := by decide

/-- Words of Table 5.9. -/
theorem test_words_floating_point :
    decode 0x20110C00 = .ok (.fadd 1 2 3 .f32) ∧
    decode 0x205301BA = .ok (.fcvtIF 5 6 .f64 .i32) ∧
    decode 0x22110C80 = .ok (.ffma 1 2 3 4 .f32) := by decide

/-- Words of Tables 3.13 and 5.9. -/
theorem test_words_control :
    decode 0x24117FFD = .ok (.beq 1 2 0x7FFD) ∧
    decode 0x34100503 = .ok (.loopi 0 5 3) ∧
    decode 0x35300000 = .ok (.lpclr 1) ∧
    decode 0x36018000 = .ok (.bqput 3) ∧
    decode 0x36107FFE = .ok (.bqb 0x7FFE) := by decide

/-- Words of Tables 3.13 and 5.9 and section 22. -/
theorem test_words_system :
    decode 0x04000000 = .ok .nop ∧
    decode 0x02008405 = .ok (.mode 0x8405) ∧
    decode 0x04000405 = .ok (.trap 5) ∧
    decode 0x04429800 = .ok (.tlbinvVa 4 5) ∧
    decode 0x04001C00 = .ok .tlbsync := by decide

/-- Words of Tables 3.13 and 5.9. -/
theorem test_words_load_store :
    decode 0x38613002 = .ok (.ldD 6 2 2) ∧
    decode 0x3A51A000 = .ok (.stW 5 3 0) := by decide

/-- Words of Tables 3.13 and 12.5. -/
theorem test_words_atomics :
    decode 0x3E311149 = .ok (.amoCas 3 2 4 .acq .d) ∧
    decode 0x3E110C00 = .ok (.amoAdd 1 2 3 .rlx .w) ∧
    decode 0x3E84AB08 = .ok (.amoSwap 8 9 10 .sc .w) ∧
    decode 0x3E531E8A = .ok (.amoFadd 5 6 7 .rel .f32) := by decide

/-- Words of Tables 3.13 and 6.10. -/
theorem test_words_setvl :
    decode 0x42404020 = .ok (.setvli 4 32) ∧
    decode 0x42218000 = .ok (.setvl 2 3) ∧
    decode 0x34228006 = .ok (.vloop 0 5 6) := by decide

/-- Words of Tables 3.13 and 6.10. -/
theorem test_words_vector_arithmetic :
    decode 0x44110E00 = .ok (.vadd 1 2 (.sca 3)) ∧
    decode 0x44110C33 = .ok (.vsgnjN 1 2 (.vec 3)) ∧
    decode 0x46110C80 = .ok (.vfma 1 2 3 4) ∧
    decode 0x48110C02 = .ok (.vcmpLt 1 2 (.vec 3)) ∧
    decode 0x4A531C40 = .ok (.vsel 5 6 7 2) ∧
    decode 0x4C208008 = .ok (.vrcp 2 1) ∧
    decode 0x4E840062 = .ok (.vhad 8 8 3) ∧
    decode 0x4E940001 = .ok (.vquant 9 8) := by decide

/-- Words of Tables 3.13 and 6.10. -/
theorem test_words_vector_movement :
    decode 0x50520009 = .ok (.vext 5 4 0) ∧
    decode 0x52418000 = .ok (.vredSum 4 3) ∧
    decode 0x52208020 = .ok (.vredMax 2 1) ∧
    decode 0x54310004 = .ok (.mpop 3 2) := by decide

/-- Words of section 7. -/
theorem test_words_presence :
    decode 0x56018000 = .ok (.settle 3) ∧
    decode 0x56018200 = .ok (.settleNf 3) ∧
    decode 0x56000004 = .ok .settleAll ∧
    decode 0x56000204 = .ok .settleNfAll ∧
    decode 0x56118001 = .ok (.vpres 1 3) ∧
    decode 0x56008002 = .ok (.vfill 1) := by decide

/-- Words of Table 6.10. -/
theorem test_words_vector_memory :
    decode 0x58108200 = .ok (.vld 1 1 true) ∧
    decode 0x5A219101 = .ok (.vsts 2 3 4 true) := by decide

/-- Words of Tables 3.13, 8.8 and 8.11. -/
theorem test_words_matrix :
    decode 0x60040820 = .ok (.mma 0 8 1 true 0) ∧
    decode 0x60009820 = .ok (.mma 0 1 3 true 0) ∧
    decode 0x60221821 = .ok (.mmas 2 2 3 true) ∧
    decode 0x6014281A = .ok (.mmasp 1 8 5 false 3) ∧
    decode 0x62300000 = .ok (.maccZ 3) ∧
    decode 0x62300001 = .ok (.maccRd 3 0 0) ∧
    decode 0x62121402 = .ok (.maccWr 1 4 5) ∧
    decode 0x62042403 = .ok (.maccSt 0 8 9) ∧
    decode 0x6204240B = .ok (.maccStX 0 8 9) ∧
    decode 0x62631C04 = .ok (.mtd 3 6 7) := by decide

/-- Words of Table 9.2. -/
theorem test_words_sparse :
    decode 0x64028000 = .ok (.svld 0 5) ∧
    decode 0x64230001 = .ok (.svst 2 6) ∧
    decode 0x64110C02 = .ok (.svadd 1 2 3) ∧
    decode 0x64408803 = .ok (.svmul 4 1 2) ∧
    decode 0x64109004 = .ok (.svscale 1 1 4) ∧
    decode 0x64018005 = .ok (.svcomp 0 3) ∧
    decode 0x64500006 = .ok (.svexp 5 0) ∧
    decode 0x64708007 = .ok (.svlen 7 1) := by decide

/-- Words of section 9. -/
theorem test_words_merge :
    decode 0x66310000 = .ok (.mgopen 3 2) ∧
    decode 0x66310008 = .ok (.mgopenCont 3 2) ∧
    decode 0x6623000B = .ok (.mgpullSv 2 6) ∧
    decode 0x66700005 = .ok (.mgstatRuns 7) ∧
    decode 0x66700105 = .ok (.mgstatEntries 7) ∧
    decode 0x66700205 = .ok (.mgstatStatus 7) := by decide

/-- Words of section 14. -/
theorem test_words_copy :
    decode 0x68519010 = .ok (.cpdim 5 3 4 .l1) ∧
    decode 0x68311003 = .ok (.cpmc 3 2 4) ∧
    decode 0x68010C04 = .ok (.permit 2 3) := by decide

/-- Words of section 17. -/
theorem test_words_tasks :
    decode 0x6A310000 = .ok (.launch 3 2) ∧
    decode 0x6A310001 = .ok (.gsub 3 2) ∧
    decode 0x6A021402 = .ok (.spawn 4 5) ∧
    decode 0x6A620003 = .ok (.join 6 4) ∧
    decode 0x6A000004 = .ok .yield ∧
    decode 0x6A410C05 = .ok (.park 4 2 3) ∧
    decode 0x6A000006 = .ok .tend ∧
    decode 0x6A028007 = .ok (.prio 5) ∧
    decode 0x6A700018 = .ok (.wid 7 .l1) := by decide

/-- Words of section 18. -/
theorem test_words_vanes :
    decode 0x6C321400 = .ok (.vaneArm 3 4 5) ∧
    decode 0x6C000001 = .ok .vret ∧
    decode 0x6C000002 = .ok .lull ∧
    decode 0x6C03000A = .ok (.lullN 6) ∧
    decode 0x6C740003 = .ok (.vaneRd 7 8) ∧
    decode 0x6C04A804 = .ok (.vaneDrop 9 10) := by decide

/-- Words of section 15. -/
theorem test_words_fabric :
    decode 0x6E000000 = .ok .rfence := by decide

/-- Words the spec gives as no instruction: of zeros, with reserved bits, and with a reserved field (R58, R59). -/
theorem test_words_refused :
    (decode 0x00000000).isOk = false ∧ (decode 0x52418080).isOk = false ∧ (decode 0x48808802).isOk = false := by decide

/-! ## What meets the hypotheses of each statement -/

theorem witness_AluResults : readable (withS root [(1, 0x80000000), (2, 0)]) [1, 2] (some 0) = some [0x80000000, 0] ∧
    readable core [0, 0] (some 3) = some [0, 0] ∧ readable pairA [1, 30] (some 31) = none := by decide +kernel

theorem witness_ImmediateAndBitResults :
    readable (withS root [(1, 5)]) [1, 0, 1] (some 2) = some [5, 0, 5] ∧ readable (withS root [(1, 5)]) [1] (some 0) = some [5] ∧
    (31 : BitVec 6).toNat < 32 ∧ readable root [] (some 2) = some [] ∧
    (let p := 0x80000000 % 2 ^ 32; p < 2 ^ (32 - 0) ∧ 2 ^ (32 - 0 - 1) ≤ p) ∧ (0 % 2 ^ 32 < 2 ^ (32 - 32)) ∧ (6 % 2 ^ 1 = 0 ∧ 6 / 2 ^ 1 % 2 = 1) ∧
    readable (withS root [(1, 0x12), (2, 0x804), (3, 0xFFFF)]) [1, 2, 3] (some 3) = some [0x12, 0x804, 0xFFFF] := by decide +kernel

theorem witness_FpResults : readable (withS root [(1, 0x7F800001)]) [1, 2] (some 3) = some [0x7F800001, 0] ∧
    readable core [1] (some 0) = some [0] ∧ FTy.f32 ≠ FTy.f64 ∧ readable core [1, 1, 1] (some 1) = some [0, 0, 0] := by decide +kernel

theorem witness_RoundingBounds : floatFmt 0 = some ffFP32 ∧ (5 : Nat) ≤ 5 ∧ (1 : Nat) ≠ 0 ∧
    (2 : Rat) ^ (-3 : Int) ≤ (1 : Nat) * (2 : Rat) ^ (-3 : Int) ∧ (1 : Nat) * (2 : Rat) ^ (-3 : Int) < (2 : Rat) ^ ((-3 : Int) + 1) ∧
    (rndQ ffFP32 0 false false false 1 1 (-3)).2 &&& .ofl = 0 :=
  ⟨by decide, by decide, by decide, by norm_num, by norm_num, by decide +kernel⟩

theorem witness_EndCheck :
    let c : Ctl := { Ctl.start 0x10000 .k with lp0 := ⟨1, 0x10000, 0x10000, false⟩, lp1 := ⟨2, 0x10000, 0x10000, false⟩ }
    let v : Ctl := { Ctl.start 0x10000 .k with vl := 32, lp0 := ⟨33, 0x10000, 0x10000, true⟩ }
    c.pc = 0x10000 ∧ v.pc = 0x10000 ∧
    (complete { root with cpu := { root.cpu with ctl := c } }).cpu.ctl.pc = 0x10000 ∧
    (complete { root with cpu := { root.cpu with ctl := v } }).cpu.ctl.vl = 1 := by decide +kernel

theorem witness_BranchResults : readable (withS root [(1, 7), (2, 7)]) [1, 2] none = some [7, 7] ∧ (7 : Word) = 7 ∧ (7 : Word).toInt ≤ (7 : Word).toInt ∧
    ¬ (7 : Word).toNat < (7 : Word).toNat ∧ readable (withS root [(1, 0x1000)]) [1] (some 0) = some [0x1000] ∧
    (BitVec.ofInt 64 ((0x1000 : Word).toInt + (2 : BitVec 15).toInt)).toNat % 4 ≠ 0 ∧
    (BitVec.ofInt 64 ((0x1000 : Word).toInt + (0x7FFC : BitVec 15).toInt)).toNat % 4 = 0 := by decide +kernel

theorem witness_LoopResults : readable (withS root [(1, 0)]) [1] none = some [0] ∧ readable (withS pairA [(1, 9)]) [1] none = some [9] ∧
    (0 : BitVec 12).toNat = 0 ∧ (5 : BitVec 12).toNat ≠ 0 := by decide +kernel

theorem witness_QueueBranches :
    roleOf pairA pairA.cpu = .a ∧ readable (withS pairA [(1, 2)]) [1] none = some [2] ∧
    (queuesOf (withQ pairA (fun q => { q with bq := List.replicate 63 true }))).bq.length < 64 ∧
    roleOf pairE pairE.cpu = .e ∧ (queuesOf (withQ pairE (fun q => { q with bq := [true] }))).bq = true :: [] ∧
    (queuesOf (withQ pairE (fun q => { q with bq := [false, true] }))).bq = false :: [true] ∧ (queuesOf pairE).bq = [] ∧
    roleOf root root.cpu ≠ .a ∧ roleOf root root.cpu ≠ .e := by decide +kernel

theorem witness_TrapAndReturn : (∀ c k, (handled root).cpu.id ≠ .thaw c k) ∧ (handled root).cpu.trap.tstatus.getLsbD 4 = false ∧
    tvecOf (handled root) (handled root).cpu ≠ 0 ∧ ((inHandler core).cpu.trap.tstatus.getLsbD 4 = true ∧ (inHandler core).cpu.id = .mgmt) ∧
    (tvecOf root root.cpu = 0 ∧ root.cpu.id = .task 0 false ∧ ∃ k, root.task? 0 = some k ∧ k.kind = .root ∧ rootTask? root k.tenant = some k) ∧
    (tvecOf launched launched.cpu = 0 ∧ ∃ k, launched.task? 0 = some k ∧ k.kind ≠ .root) ∧
    (handled root).cpu.ctl.level ≠ .u ∧ (atU root).cpu.ctl.level = .u ∧ (handled root).cpu.ctl.pc.toNat % 4 = 0 ∧
    (handled root).cpu.ctl.pc.toNat < 2 ^ 57 ∧ ((handled root).cpu.id = .mgmt → (handled root).cpu.ctl.level = .m) := by
  refine ⟨?_, by decide +kernel⟩
  have h : (handled root).cpu.id = .task 0 false := by decide +kernel
  rw [h]; intro c k e; cases e

/-- What a scalar access needs: its checks pass, and nothing is poisoned, deferred or pending there. -/
def plainAt (n : Nat) (k : XOk) : Bool :=
  !isRemote k.loc && !poisonedRead k.s k.s.cpu k.s.dev.nextUid k.loc n && !poisonedLast k.s k.s.cpu k.loc n && !mayDefer k.s 2 &&
  !k.s.cpu.mem.heldRead k.s.dev.nextUid k.loc n && (k.s.cpu.mem.earlyOf false 0 k.loc n).isNone

/-- A strand that goes past its next load or AMO. -/
def late (s : State) : State := s.withMem (fun m => { m with late := true })

theorem witness_LoadResults :
    readable (withS root [(1, 0x4010)]) [1] (some 2) = some [0x4010] ∧
    BitVec.ofInt 64 ((0x4010 : Word).toInt + (0xFFE : BitVec 12).toInt * (8 : Nat)) = 0x4000 ∧
    okAnd (checkAccess root 0x4000 8 true false) (plainAt 8) = true ∧ okAnd (checkAccess core 0x3FFF 1 true false) (plainAt 1) = true ∧
    okAnd (checkAccess (late root) 0x4000 8 true false) (fun k => mayDefer k.s 2) = true ∧
    readable { root with cpu := { root.cpu with regs := { root.cpu.regs with sPoison := 2 } } } [1] none = none ∧ roleOf root root.cpu = .single ∧ sPending root [1] = false ∧ stops (checkAccess root 0x40000000 4 true false) 0x06 = true ∧ (0x4001 : Word).toNat % 2 ≠ 0 ∧
    readable (withS root [(1, 0x4001)]) [1] none = some [0x4001] := by decide +kernel

/-- The root task with the translation that a load of 0x4000 cached. -/
def cached : State := match checkAccess (withS root [(1, 0x4000), (2, 0)]) 0x4000 8 true false with | .ok k => k.s | .error _ => root

/-- A page whose leaf has been cleared since a load cached its clean translation. -/
def recleared : State := { withBytes cached 0x3000 (leBytes 8 0) with tlb := cached.tlb.map (fun e => { e with dirty := false }) }

theorem witness_StoreResults :
    (match checkAccess recleared 0x4000 8 false true with | .error (.newer c) => c == 0x06 | _ => false) = true ∧
    readable (withS root [(1, 0x4010), (2, 9)]) [1, 2] none = some [0x4010, 9] ∧
    okAnd (checkAccess root 0x4010 8 false true) (plainAt 8) = true ∧
    okAnd (checkAccess { root with poison := [0x4010] } 0x4010 4 false true) (fun k => poisonedLast k.s k.s.cpu k.loc 4) = true ∧
    okAnd (checkAccess { root with poison := [0x4010] } 0x4010 8 false true) (fun k => poisonedLast k.s k.s.cpu k.loc 8) = true ∧
    stops (checkAccess root 0x40000000 4 false true) 0x06 = true ∧ (0x4011 : Word).toNat % 8 ≠ 0 ∧ root.cpu.mem.unacked < 64 := by decide +kernel

theorem witness_AmoResults : root.cpu.wait = none ∧ root.cpu.mem.late = false ∧ (late root).cpu.mem.late = true ∧
    readable (withS root [(1, 0x4010), (2, 9)]) [1, 2] (some 0) = some [0x4010, 9] ∧
    readable (withS root [(1, 0x4010), (2, 9), (3, 4)]) [1, 2, 3] (some 3) = some [0x4010, 9, 4] ∧
    okAnd (checkAccess root 0x4010 8 true true) (fun k => plainAt 8 k && amoReady k.s k.s.cpu k.s.dev.nextUid k.loc 8 .sc) = true ∧
    okAnd (checkAccess root 0x4010 4 true true) (fun k => plainAt 4 k && amoReady k.s k.s.cpu k.s.dev.nextUid k.loc 4 .rlx) = true ∧
    okAnd (checkAccess root 0x4010 2 true true) (fun k => plainAt 2 k && amoReady k.s k.s.cpu k.s.dev.nextUid k.loc 2 .rel) = true ∧
    okAnd (checkAccess (late root) 0x4010 8 true true) (fun k => mayDefer k.s 2 && !poisonedLast k.s k.s.cpu k.loc 8) = true ∧
    amoBytes IntSize.d.toAmo = 8 ∧ amoBytes IntSize.w.toAmo = 4 ∧ amoBytes FpSize.bf16.toAmo = 2 := by decide +kernel

/-- The root task with a scalar store in its buffer. -/
def storing : State := root.withMem (fun m => { m with ssb := [⟨.dev 0x4000, [1], 0, none, false⟩] })
/-- The root task with a monitor armed at 0x4000. -/
def armed : State := root.withExt (fun e => { e with monitor := some 0x4000 })
/-- The root task with a `bar.L` issued and arrived. -/
def barred (l n : Nat) : State := root.withExt (fun e => { e with barIssued := [barArrivedCode l], bars := e.bars.set l n })

/-- The same beside a second task of its group that has not arrived. -/
def barredFirst (l : Nat) : State :=
  { barred l 1 with tasks := launched.tasks ++ launched.tasks.map (fun t => { t with tid := 1 }), others := Strand.start (.task 1 false) 0 0 0x10000 .k :: root.others }

theorem witness_FencesMonitorsBarriers :
    ((root.withMem (fun m => { m with fences := [⟨0, true, .device⟩] })).cpu.mem.draining root.dev.nextUid = true) ∧
    (root.cpu.mem.draining root.dev.nextUid = false ∧ root.cpu.mem.loads = [] ∧ root.cpu.mem.amos = [] ∧ root.cpu.mem.rtrains = [] ∧ root.cpu.mem.pob = [] ∧ root.cpu.mem.ssb = [] ∧ root.log = []) ∧ storing.cpu.mem.ssb ≠ [] ∧
    vectorDone root root.cpu .system none = true ∧
    vectorDone root { root.cpu with mem := { root.cpu.mem with trains := [⟨1, true, none, [⟨0, .dev 0, [0], [0xFF], false, .store, none, false⟩]⟩] } } .strand none = false ∧
    readable (withS root [(1, 0x4000)]) [1] none = some [0x4000] ∧ okAnd (checkAccess root 0x4000 8 true false) (plainAt 8) = true ∧
    root.cpu.ext.monitor = none ∧ readable (withS armed [(1, 0)]) [1] (some 2) = some [0] ∧ armed.cpu.ext.monitor = some 0x4000 ∧
    okAnd (checkAccess (readAnew armed) 0x4000 8 true false)
      (fun k => plainAt 8 k && decide (leNat (scalarBytes k.s k.s.cpu k.loc 8) = 0) && decide ((0 : Word).toNat ≤ 0) && decide (0 < (1 : Word).toNat)) = true ∧
    taskOf core core.cpu = none ∧ someAnd (taskOf (barred 0 1) (barred 0 1).cpu) (fun t => barMet (barred 0 1) t 0 1 && barOpen (barred 0 1) t 0) = true ∧
    someAnd (taskOf (barredFirst 5) (barredFirst 5).cpu) (fun t => !barMet (barredFirst 5) t 5 1) = true ∧
    (barred 5 0).cpu.ext.barIssued.contains (barIssuedCode 5) = false ∧ (barredFirst 5).cpu.ext.barIssued.contains (barArrivedCode 5) = true ∧
    (root.withExt (fun e => { e with barIssued := [barDoneCode 2] })).cpu.ext.barIssued.contains (barDoneCode 2) = true := by decide +kernel

theorem witness_CsrResults :
    root.cpu.wait = none ∧ divDone root root.cpu = true ∧ root.cpu.mem.alus = [] ∧
    (roleOf pairA pairA.cpu ≠ .single ∧ mayWrite (roleOf pairA pairA.cpu) 30 = false) ∧
    readable root [] (some 2) = some [] ∧ readable (withS root [(1, 5)]) [1] (some 1) = some [5] ∧
    (0x10 / 256 ≤ root.cpu.ctl.level.rank ∧ csrAssigned 0x10 = true ∧ csrReadOnly 0x10 = false ∧ csrRejects root.cpu 0x10 5 = false) ∧
    (0x100 / 256 ≤ 3 ∧ (atU root).cpu.ctl.level.rank < 0x100 / 256) ∧ (3 < 0x400 / 256) ∧ csrAssigned 0xFF = false ∧
    (csrReadOnly 1 = true ∧ csrAssigned 1 = true) ∧ csrRejects root.cpu 0 0x3F = true ∧
    switchesIn core (csrPut core 0x220 0) 0 = [] ∧
    ((root.waitFor (.csrFlags .read 2 0 0x10)).cpu.wait = some (.csrFlags .read 2 0 0x10) ∧
      (root.waitFor (.csrFlags .read 2 0 0x10)).strand? (.task 0 false) = some (root.waitFor (.csrFlags .read 2 0 0x10)).cpu ∧ root.cpu.resid = .on) := by decide +kernel

theorem witness_SetvlGrants : isTask root = true ∧ readable (withS root [(1, 2 ^ 63)]) [1] (some 0) = some [0x8000000000000000] ∧
    readable root [] (some 2) = some [] := by decide +kernel

/-- The root task with two elements of FP32 1.0 in v1 and v2. -/
def vroot : State := withVl (withV root [(1, vec 0 [0x3F800000, 0x3F800000]), (2, vec 0 [0x3F800000, 0x40000000])]) 0 2

theorem witness_ChainingResults :
    (let x : VDesc := ⟨.arith 0, 3, 1, .vec 2, 0, none⟩
     chainRow (.vadd 3 1 (.vec 2)) = some x ∧
      someAnd (quietOps vroot (fnSrcs x) (.v 3) false) (fun vs => chainFits vroot x vs &&
        (List.range 2).all (fun j => !diverts (fnOp x.fn) (etOf vroot) false (chainArg vroot x vs 0 j) (chainArg vroot x vs 1 j) (chainArg vroot x vs 2 j))) = true) ∧
    destFree vroot 3 = true ∧ vstartOf vroot < fnCount (.arith 0) (vlOf vroot) ∧ pushes vroot 3 = false ∧
    (vroot.cluster vroot.cpu.cluster).div = [] ∧
    (let x : VDesc := ⟨.func 11, 30, 1, .sca 0, 0, none⟩
     let s := withVl (withV pairA [(1, vec 0 [0x3F800000])]) 0 1
     chainRow (.verf 30 1) = some x ∧ someAnd (quietOps s (fnSrcs x) (.v 30) false) (fun vs => chainFits s x vs) = true ∧
      pushes s 30 = true ∧ destFree s 30 = true ∧ vstartOf s = 0 ∧ s.cpu.staging = [] ∧ (vQueue (queuesOf s) 30).length < vDepth 30) ∧
    (let x : VDesc := ⟨.arith 0, 3, 1, .vec 2, 0, none⟩
     let u := vroot.waitFor (.micro x ⟨0, [], false⟩)
     u.strand? (.task 0 false) = some u.cpu ∧ u.focus (.task 0 false) = u ∧ u.cpu.resid = .on ∧ (2 : Nat) ≤ (0 / 32 + 1) * 32) := by decide +kernel

/-- The root task with a `vapply` function 0 at 0x8000: lower end 0, upper end infinity, a constant polynomial. -/
def applying : State :=
  withS ((withBytes vroot 0x8004 (leBytes 4 0x7F800000)).modTen 0 (fun t => { t with thawb := 0x8000, thawn := 1 })) [(5, 1), (6, 0)]

theorem witness_SelectAndApply :
    (let x : VDesc := { fn := .sel, d := 3, a := 1, b := .vec 2, c := 1, app := none }
     someAnd (quietOps vroot (fnSrcs x) (.v 3) false) (fun vs => chainFits vroot x vs) = true ∧ destFree vroot 3 = true ∧
      vstartOf vroot < vlOf vroot ∧ pushes vroot 3 = false) ∧
    (let x : VDesc := { fn := .apply, d := 3, a := 1, b := .sca 5, c := 0, app := none }
     let y : VDesc := { x with b := .sca 6 }
     someAnd (quietOps applying (fnSrcs x) (.v 3) false) (fun vs => chainFits applying x vs &&
       decide ((applying.ten 0).thawn ≤ (wordAt vs 1).toNat % 256)) = true ∧
     someAnd (quietOps applying (fnSrcs y) (.v 3) false) (fun vs => chainFits applying y vs && decide ((wordAt vs 1).toNat % 256 < (applying.ten 0).thawn) &&
       okAnd (readDesc applying 0x8000 8 []) (fun r => someAnd (vappOf 0 0x8000 r.1) (fun p =>
         someAnd (quietOps r.2 (fnSrcs y) (.v 3) false) (fun ws => decide (ws = vs)) && decide (r.2.cpu.ctl = applying.cpu.ctl) && destFree r.2 3 &&
         (List.range 2).all (fun j => (applyElem 0 false p.lo p.hi p.deg p.coef ((vecAt vs 0).el 32 j)).isSome)))) = true ∧
     applying.cpu.wait = none ∧ vstartOf applying = 0 ∧ 0 < vlOf applying) := by decide +kernel

theorem witness_IntegerElements : intFmt 0x1F = some (2, true) ∧ (3 : Nat) < 2 ^ 2 ∧ intFmt 0x23 = some (64, false) ∧ 2 ^ 64 - 1 < 2 ^ 64 := by decide

theorem witness_DestinationWrite : root.cpu.id = .task 0 false ∧ (root.task? 0).isSome = true ∧ 32 ∈ [1, 2, 4, 8, 16, 32, 64] ∧ (63 : Nat) < 64 ∧
    (∀ x ∈ [(0, 1), (255, 7)], ((x : Nat × Nat).1 + 1) * 32 ≤ 8192) ∧ (([(0, 1), (255, 7)] : List (Nat × Nat)).map (·.1)).Nodup := by decide +kernel

theorem witness_CompareResults :
    someAnd (quietOps vroot [.v 1, .v 2] .none true) (fun vs => (vecAt vs 0).fmt == etOf vroot && (vecAt vs 1).fmt == etOf vroot) = true ∧
    (isFA (etOf vroot) || isIA (etOf vroot)) = true ∧ 8 ≤ wOf vroot ∧ vlOf vroot ≤ vlmax (wOf vroot) ∧ vstartOf vroot < vlOf vroot ∧
    (quietOps vroot [.v 1, .s 3] .none true).isSome = true := by decide +kernel

theorem witness_ConversionResults :
    (quietOps vroot [.v 1] (.v 3) true = some [.v (vreg vroot 1)] ∧ destFree vroot 3 = true ∧ isScaled (etOf vroot) = false ∧ etOf vroot ≠ 0x25 ∧
      (vreg vroot 1).fmt < 0x25 ∧ vlOf vroot ≤ vlmax 32 ∧ vstartOf vroot < vlOf vroot) ∧
    (let s := withVl vroot 0x09 32
     isScaled (etOf s) = true ∧ (isFA (vreg s 1).fmt || isIA (vreg s 1).fmt) = true ∧ vlOf s ≤ vlmax (fmtWidth (vreg s 1).fmt) ∧ vlOf s ≤ vlmax (wOf s) ∧
      0 < vlOf s) ∧
    ((0 : BitVec 5).toNat ≤ 10 ∧ vlOf vroot % (2 * 2 ^ (0 : BitVec 5).toNat) = 0 ∧ (vreg vroot 1).fmt = etOf vroot) ∧
    (let s := withVl (withV root [(1, vec 0x13 [1, 2])]) 0x09 64
     quietOps s [.v 1] (.v 3) true = some [.v (vreg s 1)] ∧ isScaled (etOf s) = true ∧ (vreg s 1).fmt = 0x13 ∧ vlOf s ≤ vlmax 8 ∧ vlOf s ≤ vlmax (wOf s) ∧
      0 < vlOf s) := by decide +kernel

theorem witness_PermuteResults :
    let s := withVl (withV (withS vroot [(5, 1)]) [(4, vec 0x21 [1, 5])]) 0 2
    vlOf s ≤ vlmax (wOf s) ∧ 0 < vlOf s ∧ destFree s 3 = true ∧
    someAnd (quietOps s [.v 1, .v 4] (.v 3) true) (fun vs => (vecAt vs 0).fmt == etOf s && (vecAt vs 1).fmt == 0x21) = true ∧ vlOf s ≤ vlmax 32 ∧
    someAnd (quietOps s [.v 1, .v 2] (.v 3) true) (fun vs => (vecAt vs 0).fmt == etOf s && (vecAt vs 1).fmt == etOf s) = true ∧
    someAnd (quietOps s [.v 1, .s 5] (.v 3) true) (fun vs => (vecAt vs 0).fmt == etOf s) = true ∧
    someAnd (quietOps s [.v 1] (.v 3) true) (fun vs => (vecAt vs 0).fmt == etOf s) = true ∧
    (quietOps s [.s 5] (.v 3) true).isSome = true ∧ isScaled (etOf s) = false ∧
    (let t := withVl s 0x20 2; (quietOps t [] (.v 3) true) = some [] ∧ isIA (etOf t) = true ∧ vlOf t ≤ vlmax (wOf t)) ∧
    (quietOps s [.s 5, .s 5] (.v 1) true).isSome = true ∧ (vreg s 1).fmt = etOf s ∧ destFree s 1 = true ∧
    someAnd (quietOps s [.v 1, .s 5] (.s 6) true) (fun vs => (vecAt vs 0).fmt == etOf s) = true := by decide +kernel

theorem witness_ReductionAndMaskResults :
    (quietOps vroot [.v 1] (.v 3) true = some [.v (vreg vroot 1)] ∧ destFree vroot 3 = true ∧ (isFA (etOf vroot) || isIA (etOf vroot)) = true ∧
      8 ≤ wOf vroot ∧ (vreg vroot 1).fmt = etOf vroot ∧ vlOf vroot ≤ vlmax (wOf vroot) ∧ 0 < vlOf vroot ∧ vlOf vroot ≤ 2 ^ 1 ∧ 2 ^ 0 < vlOf vroot) ∧
    (let s := withVl (withV root [(1, vec 0x20 [6, 3])]) 0x20 1
     quietOps s [.v 1] (.v 3) true = some [.v (vreg s 1)] ∧ isIA (etOf s) = true ∧ (vreg s 1).fmt = etOf s ∧ 0 < vlOf s ∧ vlOf s ≤ 2 ^ 0) ∧
    isTask root = true ∧ root.cpu.regs.mPoison = 0 ∧ quietOps (withS root [(1, 3)]) [.s 1] .none true = some [.s 3] ∧
    quietOps vroot [] (.s 3) true = some [] := by decide +kernel

/-- A value with element 0 DIVERTED or FAULTED, or with a group that has not landed. -/
def slotted (st : Nat) : VVal := { vec 0 [0x7FC00000, 1] with pres := BitVec.ofNat 1024 st }

theorem witness_PresenceResults :
    (let s := withV root [(1, slotted pPending)]
     vreadable s [.v 1] .none true = some [.v (slotted pPending)] ∧ (slotted pPending).holes = true ∧ anyHoles s = true) ∧
    (let s := withV root [(1, slotted pFaulted)]
     vreadable s [.v 1] .none true = some [.v (slotted pFaulted)] ∧ (slotted pFaulted).holes = false ∧ (slotted pFaulted).landed = 0xFF ∧
      8 ≤ fmtWidth (slotted pFaulted).fmt ∧ (faultedRegs s).head? = some (1, 0) ∧
      (List.range 256).filter (fun j => (slotted pFaulted).pres ≠ 0 ∧ (slotted pFaulted).st 32 j = pFaulted) = [0]) ∧
    anyHoles root = false ∧ faultedRegs root = [] ∧ isTask root = true ∧
    (thaw.cpu.id = .thaw 0 0 ∧ thaw.cpu.serves = some 1 ∧ readable (withS thaw [(1, 5)]) [1] none = some [5] ∧
      (thaw.cluster 0).div.find? (fun e => e.id == 1) = some { entry with taken := true }) := by decide +kernel

theorem witness_VectorLoads :
    let s := withVl (withV (withS root [(1, 0x4000), (2, 4)]) [(4, vec 0x21 [0, 8])]) 0 2
    let go (mode : LeaseMode) (us : List VUnit) (s : State) : LRes := loadSide [] (loadElems mode us { s := s, got := [], side := [], stop := none })
    waitsLanded s = false ∧ vlOf s ≤ vlmax (wOf s) ∧ vstartOf s < vlOf s ∧ subByteBad s = false ∧ isScaled (etOf s) = false ∧ 8 ≤ wOf s ∧
    (quietOps s [.s 1] (.v 3) true).isSome = true ∧ (quietOps s [.s 1, .s 2] (.v 3) true).isSome = true ∧
    someAnd (quietOps s [.s 1, .v 4] (.v 3) true) (fun vs => isIdxTag (vecAt vs 1).fmt && decide (vlOf s ≤ vlmax (fmtWidth (vecAt vs 1).fmt))) = true ∧
    (go .lse (unitsAt 0x4000 32 [0, 1]) s).stop = none ∧ ((go .lse (unitsAt 0x4000 32 [0, 1]) s).got.length = 2) ∧
    (go .lse (unitsAt 0x4001 32 [0, 1]) s).stop = some (some 0, 0x4001, .cause 0x03) ∧
    (go .zero (unitsIdx 0x4000 (vec 0x21 [0, 8]) 32 [0, 1]) s).stop = none ∧
    vreadable s [.v 1] .none false = some [.v (vreg s 1)] ∧ (vreg s 1).landed = 0xFF ∧ { VVal.zero with landed := 0x7F }.landed ≠ 0xFF ∧
    goesPast root = false ∧ vreadable (root.waitFor (.landed 3 false)) [.s 1] (.v 3) true = some [.s 0] ∧ waitsLanded (root.waitFor (.landed 3 false)) = true := by decide +kernel

theorem witness_VectorStores :
    let s := withVl (withV (withS root [(1, 0x4000), (2, 4)]) [(3, vec 0 [7, 9]), (4, vec 0x21 [0, 8])]) 0 2
    let go (add : Bool) (us : List VUnit) : SRes := storeElems add (dataUnits (vec 0 [7, 9]) 32 us 2 []) { s := s, loc := [], rem := [], stop := none }
    vlOf s ≤ vlmax (wOf s) ∧ vstartOf s < vlOf s ∧ subByteBad s = false ∧
    someAnd (quietOps s [.s 1, .v 3] .none true) (fun vs => (vecAt vs 1).fmt == etOf s) = true ∧
    someAnd (quietOps s [.s 1, .s 2, .v 3] .none true) (fun vs => (vecAt vs 2).fmt == etOf s) = true ∧
    someAnd (quietOps s [.s 1, .v 4, .v 3] .none true) (fun vs => isIdxTag (vecAt vs 1).fmt && (vecAt vs 2).fmt == etOf s) = true ∧
    isAddFmt (etOf s) = true ∧ (go false (unitsAt 0x4000 32 [0, 1])).stop = none ∧ (go false (unitsAt 0x4000 32 [0, 1])).rem = [] ∧
    (go false (unitsAt 0x4000 32 [0, 1])).loc.length = 2 ∧ (go true (unitsIdx 0x4000 (vec 0x21 [0, 8]) 32 [0, 1])).stop = none ∧
    (go false (unitsAt 0x3FFFFFFC 32 [0, 1])).stop = some (1, 0x40000000, .cause 0x06) ∧ (go false (unitsAt 0x4000 32 [])).loc = [] := by decide +kernel

/-- A merge context of four rows, and the root task that has it bound. -/
def merging (st : MState) (out : Bool) : MergeCtx :=
  { addr := 0x5000, octet := 0, cap := 8, cmb := 0, out := out, spb := 0, spl := 0, rowp := 0x6000, cola := 0x7000, vala := 0x8000, nrows := 4, stat := 0,
    state := st, npush := 0, nnz := 0, p := 0, lastRow := 0, from0 := 0, spillPtr := 0, seqs := List.replicate 16 0,
    buf := [⟨1, 5, 0, 0, 0x3F800000⟩], runs := [] }
def bound (m : MergeCtx) : State :=
  let s := withS root [(1, 1), (2, 0x5000), (3, 4)]
  { s with cpu := { s.cpu with ext := { s.cpu.ext with merge := some m } }, dev := { s.dev with nets := [(0, ⟨some (.task 0 false), []⟩)] } }

/-- The root task beside vectors of one element of FP32, one of them an index. -/
theorem witness_AtomicVectorAccesses :
    (root.cpu.mem.late = false ∧ (late root).cpu.mem.late = true) ∧
    let s := withVl (withV (withS root [(1, 0x4000)]) [(3, vec 0 [7]), (4, vec 0 [0x3F800000]), (5, vec 0x21 [4])]) 0 1
    quietOps s [.s 1, .v 4] (.v 6) true = some [.s 0x4000, .v (vreg s 4)] ∧ isAddFmt (etOf s) = true ∧ (vreg s 4).fmt = etOf s ∧ vlOf s ≤ vlmax (wOf s) ∧
    okAnd (checkAccess s 0x4000 4 true true) (fun k => decide (k.loc = .dev 0x4000) && plainAt 4 k && atomicReady k.s k.s.cpu k.s.dev.nextUid k.loc 4 &&
      vectorClear k.s k.s.cpu k.s.dev.nextUid k.loc 4 && destFree (enter (readAnewAt k.s.fresh.2 true k.loc 4) k.loc [0, 0, 0, 0] s.cpu.id
        s.cpu.cluster .device (.train k.s.dev.nextUid 0 none) k.s.dev.nextUid) 6) = true ∧
    destFree s 6 = true ∧ (List.range (vlOf s)).filter (fun j => guardBit s (wOf s) j) ≠ [] ∧
    quietOps s [.s 1, .v 5] .none true = some [.s 0x4000, .v (vreg s 5)] ∧ isScaled (etOf s) = false ∧ 8 ≤ wOf s ∧ isIdxTag (vreg s 5).fmt = true ∧
    (unitsIdx 0x4000 (vreg s 5) (wOf s) (activeFrom s (wOf s) 0 (vlOf s))).all (fun u => !outsideLeases s u.va u.n) = true ∧
    (quietOps s [.s 1, .v 3] .none true).isSome = true ∧ (vreg s 3).fmt = etOf s ∧ (quietOps s [.s 1] (.v 6) true).isSome = true ∧
    pushes s 6 = false ∧ (vreg s 6).landed = 0xFF ∧ vstartOf s < vlOf s ∧ activeFrom s (wOf s) (vstartOf s) (vlOf s) = [0] ∧
    okAnd (checkAccess (setVstart s 0) 0x4000 4 false true) (fun k => plainAt 4 k && scReady k.s k.loc 4) = true ∧
    okAnd (checkAccess (setVstart s 0) 0x4000 4 true false) (fun k => plainAt 4 k && scReady k.s k.loc 4) = true ∧
    (let z := s.waitFor (.sc false 6 1)
     z.strand? (.task 0 false) = some z.cpu ∧ z.focus (.task 0 false) = z ∧ z.cpu.resid = .on ∧ z.cpu.wait = some (.sc false 6 1)) := by decide +kernel

/-- The root task with a tile pair in s4, s5: one FP32 row of one element at offset 0 of its scratchpad. -/
def tiled : State :=
  let s := withVl (withV (withS root [(4, 0x0000008000000), (5, 0x81), (1, 0), (2, 0x4000), (3, 0x2)]) [(8, vec 0 [0x3F800000]), (9, vec 0x22 [0])]) 0 1
  { s with tasks := s.tasks.map (fun t => { t with nacc := 1, accs := [Tile.zero], spadLen := 8192 }) }

/-- The pair of `tiled`, and one with a reserved bit set. -/
def pairOk : TilePair := ⟨0x0000008000000, 0x81⟩

theorem witness_MatrixMultiplies :
    (tiled.cpu.mem.late = false ∧ spadWritten tiled 0 = true) ∧
    isTask tiled = true ∧ (0 : AccReg).toNat < accCount tiled ∧ tiled.cpu.regs.mPoison = 0 ∧ roleOf tiled tiled.cpu = .single ∧
    vreadable tiled [Src.s (PairReg.lo 2), .s (PairReg.hi 2)] .none false = some [.s pairOk.w1, .s pairOk.w2] ∧ 0 < vlOf tiled ∧ 0 < pairOk.rows ∧
    etOf tiled ≤ 0x1F ∧ (∀ r, r < 2 ^ (0 : BitVec 2).toNat → (vreg tiled (BitVec.ofNat 5 ((8 : VReg).toNat + r))).fmt = etOf tiled ∧
      (vreg tiled (BitVec.ofNat 5 ((8 : VReg).toNat + r))).quiet = true) ∧ vlOf tiled ≤ vlmax (fmtWidth (etOf tiled)) ∧
    tileCheck pairOk .dense (vlOf tiled) (spadOf tiled).2 (etOf tiled) = 0 ∧ tilePoisoned tiled 0 pairOk none (vlOf tiled) = false ∧
    (accOf tiled 0).kind = .zero ∧ (accOf tiled 0).poison = 0 ∧
    (let p : TilePair := ⟨0x8000000, 0x81 + 0x1000000000000⟩; sparsityOf pairOk.spar = none ∧ tileCheck p .dense 1 8192 0 ≠ 0) ∧
    vreadable tiled [Src.s (PairReg.lo 2), .s (PairReg.hi 2), .s (PairReg.lo 2), .s (PairReg.hi 2)] .none false =
      some [.s pairOk.w1, .s pairOk.w2, .s pairOk.w1, .s pairOk.w2] ∧ 0 < pairOk.cols ∧
    tileCheck pairOk .dense pairOk.cols (spadOf tiled).2 pairOk.fmt = 0 ∧ vlOf (withVl tiled 0 0) = 0 ∧
    tileCheck pairOk .dense 2 (spadOf tiled).2 0 = 5 ∧
    (let s := setAcc tiled 0 { Tile.zero with kind := .int }
     (accOf s 0).kind ≠ .zero ∧ (accOf s 0).kind ≠ accClass (etOf s) pairOk.fmt ∧ tileCheck pairOk .dense (vlOf s) (spadOf s).2 (etOf s) = 0) := by decide +kernel

theorem witness_AccumulatorResults :
    isTask tiled = true ∧ (0 : AccReg).toNat < accCount tiled ∧
    vreadable (withS tiled [(1, 63)]) [.s 1] (.v 3) true = some [.s 63] ∧ (63 : Word).toNat < 64 ∧ (accOf tiled 0).poison = 0 ∧ destFree tiled 3 = true ∧
    vreadable (withS tiled [(1, 64)]) [.s 1] (.v 3) true = some [.s 64] ∧ 64 ≤ (64 : Word).toNat ∧
    vreadable tiled [.v 8, .s 1] .none false = some [.v (vreg tiled 8), .s 0] ∧ (vreg tiled 8).quiet = true ∧ (vreg tiled 8).fmt = 0x00 ∧
    (accOf tiled 0).kind = .zero ∧ isDrainFmt (etOf tiled) = true ∧ vlOf tiled ≤ 64 ∧ 8 ≤ wOf tiled ∧ tiled.cpu.regs.mPoison = 0 ∧
    vreadable tiled [.s 2, .s 3] .none false = some [.s 0x4000, .s 2] ∧ (2 : Word).toNat / 2 ^ 56 = 0 ∧ (2 : Word).getLsbD 7 = false ∧ (2 : Word).toNat % 128 ≤ 64 ∧
    (let us := ([(0, (0x4000 : Word)), (1, 0x4000)].flatMap (fun r => ((drainUnits 32 r.1 1 0).filter (fun js => guardBit tiled 32 (js.headD 0))).map
        (drainUnit tiled (accOf tiled 0) 32 r.1 r.2)))
     let r := storeElems false (us.map (·.1)) { s := tiled, loc := [], rem := [], stop := none }
     r.stop = none ∧ r.rem = [] ∧ r.loc.length = 2) ∧
    (let s := withV tiled [(9, vec 0x22 (List.replicate 64 (2 ^ 64 - 1)))]
     vreadable s [.s 2, .v 9] .none false = some [.s 0x4000, .v (vreg s 9)] ∧ (vreg s 9).quiet = true ∧ (vreg s 9).fmt = 0x22) ∧
    readable tiled [4, 5] none = some [pairOk.w1, pairOk.w2] ∧ tileCheck pairOk .build pairOk.cols (spadOf tiled).2 pairOk.fmt = 0 ∧
    tileCheck pairOk .build pairOk.cols 0 pairOk.fmt ≠ 0 := by decide +kernel

/-- The root task with two sparse values, and one whose `svld` has arrived. -/
def sparse : State :=
  let s := setSv (setSv (withV (withS root [(1, 0x4000), (2, 0)]) [(3, vec 0 [0x3F800000, 0])]) 1 ⟨[(1, 0x3F800000), (5, 0x40000000)], 0, false, 0⟩) 2 ⟨[(5, 0x3F800000)], 0, false, 0⟩
  withBytes (withVl s 0 2) 0x4000 (leBytes 8 1 ++ leBytes 4 7 ++ leBytes 4 0x3F800000)
def arriving (c0 c1 : Nat) (bad : Option Nat) : State :=
  (sparse.withMem (fun m => { m with sv := some ⟨0x4000, 2, [], BitVec.ofNat 16384 (c0 + c1 * 2 ^ 32), bad⟩ })).waitFor (.svld 1 1)

theorem witness_SparseResults :
    (okAnd (checkAccess sparse 0x4000 8 true false) (fun k => !olderRead k.s k.s.cpu [] 0 (probeRead k.loc 8 k.s.dev.nextUid)) = true) ∧
    isTask sparse = true ∧ sparse.cpu.regs.svPoison = 0 ∧ (svreg sparse 1).tag = (svreg sparse 2).tag ∧
    ((svreg sparse 1).pairs.map (·.1.toNat)).Pairwise (· < ·) ∧ ((svreg sparse 2).pairs.map (·.1.toNat)).Pairwise (· < ·) ∧
    readable sparse [2] none = some [0] ∧
    someAnd (quietOps sparse [.v 3] .none true) (fun vs => (vecAt vs 0).fmt == etOf sparse) = true ∧ isSvFmt (etOf sparse) = true ∧
    vlOf sparse ≤ vlmax (wOf sparse) ∧ 0 < vlOf sparse ∧ quietOps sparse [] (.v 3) true = some [] ∧ (svreg sparse 1).tag.toNat = etOf sparse ∧
    destFree sparse 3 = true ∧ readable sparse [] (some 0) = some [] ∧ readable sparse [1] none = some [0x4000] ∧ sparse.cpu.mem.sv = none ∧
    okAnd (checkAccess sparse 0x4000 8 true false) (fun k => !poisonedVec k.s k.s.cpu k.s.dev.nextUid k.loc 8 &&
      (let n := k.s.dev.nextUid
       let v := { k.s with dev := { k.s.dev with nextUid := n + 1 } }
       let h := BitVec.ofNat 64 (leNat (vectorBytes v v.cpu n k.loc 8))
       !svBadHeader h && decide (h.toNat % 512 = 1) && okAnd (svWords 0x4000 (List.range 2) v) (fun r => decide (r.1.length = 2)))) = true ∧
    svBadHeader 0x200 = true ∧
    readable (arriving 1 2 none) [1] none = some [0x4000] ∧ (arriving 1 2 none).cpu.wait = some (.svld 1 1) ∧
    someAnd (arriving 1 2 none).cpu.mem.sv (fun x => x.pend.isEmpty && x.bad.isNone && decide (x.hdr.toNat % 512 = 2) && decide (x.bits.toNat % 2 ^ 32 < x.bits.toNat / 2 ^ 32 % 2 ^ 32)) = true ∧
    someAnd (arriving 1 2 (some 3)).cpu.mem.sv (fun x => x.pend.isEmpty && decide (x.bad = some 3)) = true ∧
    someAnd (arriving 2 2 none).cpu.mem.sv (fun x => x.bad.isNone && decide (x.bits.toNat / 2 ^ 32 % 2 ^ 32 ≤ x.bits.toNat % 2 ^ 32)) = true ∧
    (let r := storeElems false (svUnits 0x4000 (svreg sparse 1)) { s := sparse, loc := [], rem := [], stop := none }
     sparse.cpu.wait = none ∧ r.stop = none ∧ r.rem = []) ∧
    (let s := sparse.waitFor (.svst 1 1 9); s.cpu.wait = some (.svst 1 1 9) ∧ s.cpu.mem.trains.all (fun t => t.id != 9) = true) := by decide +kernel

theorem witness_MergeResults :
    ((let s := setSv (bound (merging .opened false)) 1 ⟨[(5, 7)], 0, false, 0⟩; (svreg s 1).pairs = [(5, 7)]) ∧ (merging .opened false).buf = [⟨1, 5, 0, 0, 0x3F800000⟩] ∧
      (merging .opened false).buf.length < (merging .opened false).cap) ∧
    isTask (bound (merging .opened false)) = true ∧ readable (bound (merging .opened false)) [1] (some 4) = some [1] ∧
    (bound (merging .opened false)).cpu.ext.merge = some (merging .opened false) ∧
    (root.cpu.ext.merge = none ∧ (0x5001 : Word).toNat % 256 ≠ 0 ∧ readable root [] (some 1) = some []) ∧
    okAnd (readDwords root 0x5000 (List.range 32)) (fun r => (ctxOfRecord 0x5000 (root.cpu.cluster / 8) r.1).isNone) = true ∧
    (let s := withBytes (withBytes root 0x5000 (leBytes 8 (8 + 2 ^ 34))) 0x5030 (leBytes 8 4)
     okAnd (readDwords s 0x5000 (List.range 32)) (fun r => (ctxOfRecord 0x5000 (root.cpu.cluster / 8) r.1).isSome && (mergeNet r.2 0).bound.isNone && (netWaiters r.2 0).isEmpty)) = true ∧
    (let s := bound (merging .opened false)
     readable s [2] (some 4) = some [(merging .opened false).addr] ∧ okAnd (readDwords s 0x5000 [1, 2]) (fun r =>
       !badSpill (r.1.getD 0 0) (r.1.getD 1 0) && decide (r.1.length = 2) && decide (r.2.cpu.ext = s.cpu.ext)) = true ∧
     okAnd (closeLocs (merging .flushed false) (merging .flushed false).results s) (fun r => r.1.all (fun l => !isRemote l.1) && decide (r.2.cpu.id = s.cpu.id)) = true ∧
     (svreg s 1).tag.toNat = cmbTag (merging .opened false).cmb ∧ s.cpu.regs.svPoison = 0 ∧ (4 : Nat) ≤ (4 : Word).toNat ∧ (1 : Word).toNat < 4 ∧
     acceptAll 1 0 (svreg s 1).pairs (merging .opened false) = some (merging .opened false)) ∧
    acceptAll 1 0 ((List.range 9).map (fun i => (BitVec.ofNat 32 i, 0))) (merging .opened false) = none ∧
    (let s := bound (merging .flushed false)
     let m := merging .flushed false
     let r := storeElems false (pullRows m (rowKeys s m (runsIntact s) (mergedKeys m)) [0, 1, 2, 3] m.nnz).1 { s := s, loc := [], rem := [], stop := none }
     readable s [3] (some 4) = some [4] ∧ m.p ≤ (4 : Word).toNat ∧ (4 : Word).toNat ≤ m.nrows ∧ s.pauses = [] ∧ r.stop = none ∧ r.rem = [] ∧ r.loc ≠ []) ∧
    (let s := bound (merging .flushed true)
     let m := merging .flushed true
     readable s [1] none = some [1] ∧ (1 : Word).toNat < m.nrows ∧ m.lastRow ≤ (1 : Word).toNat ∧ m.p < (1 : Word).toNat ∧ runsIntact s = true) ∧
    (let s := (root.withDev (fun d => { d with nets := [(0, ⟨none, [.task 0 false]⟩)] })).waitFor (.mgopen 1 2 (merging .opened false))
     netWaiters s 0 = [.task 0 false] ∧ (mergeNet s 0).bound = none ∧ (s.focus (.task 0 false)).cpu.id = .task 0 false ∧
      (s.focus (.task 0 false)).cpu.wait = some (.mgopen 1 2 (merging .opened false)) ∧
      readable (s.focus (.task 0 false)) [2] (some 1) = some [0]) := by decide +kernel

/-- A copy record at 0x8000: one transfer of one FP32 element from 0x4000 to 0x4800; a stream block at 0x8100: no index. -/
def copying : State :=
  let s := withBytes (withS root [(1, 0x8000), (2, 1), (3, 2), (4, 1), (5, 0x8100)]) 0x8000 (leBytes 8 0x4000 ++ leBytes 8 0x4800 ++ List.replicate 16 0 ++ leBytes 8 (2 ^ 17))
  withBytes (withBytes s 0x8110 (leBytes 8 0x0110000000000000)) 0x8138 (leBytes 8 4)
def copyWords : List Word := [0x4000, 0x4800, 0, 0, 0x20000, 0, 0, 0]
/-- The copy it makes, its two pages pinned. -/
def copy0 : Copy :=
  { copyOfRecord root .go [] root.cpu.ext.dm.toList copyWords with
      uid := 5, id := 1, pins := [⟨0x4000, 4096, .dev 0x4000, 0⟩], moving := true }
def queued (c : Copy) : State := { root with copies := [c] }

theorem witness_CopyInstructions :
    isTask copying = true ∧ readable copying [2, 3, 4] none = some [1, 2, 1] ∧ (0x100000000 : Word).toNat ≤ 2 ^ 32 ∧ 2 ^ 32 < (0x100000001 : Word).toNat ∧
    readable copying [2] (some 6) = some [1] ∧ copying.cpu.ext.copies = [] ∧
    (let s := copying.withExt (fun e => { e with copies := [⟨1, 2, 3, 0x08, .failed⟩] })
     s.cpu.ext.copies = [⟨1, 2, 3, 0x08, .failed⟩] ∧ BitVec.ofNat 64 1 = (1 : Word)) ∧
    (let x : Word := BitVec.ofNat 64 (3 + 64 * 2 ^ 27)
     readable (withS root [(1, x), (2, 65535)]) [1, 2] none = some [x, 65535] ∧ x.toNat / 2 ^ 48 = 0 ∧ x.toNat / 2 ^ 27 % 2 ^ 21 % 64 = 0 ∧
      0 < x.toNat / 2 ^ 27 % 2 ^ 21 ∧ x.toNat / 2 ^ 6 % 2 ^ 21 % 64 = 0 ∧ x.toNat / 2 ^ 6 % 2 ^ 21 + x.toNat / 2 ^ 27 % 2 ^ 21 ≤ spadSize tiled ∧
      (tiled.cluster 0).slots.find? (fun q => q.num == x.toNat % 64) = none) ∧
    readable copying [1] (some 6) = some [0x8000] ∧ readable copying [1, 2] (some 6) = some [0x8000, 1] ∧ copying.cpu.wait = none ∧ (0x8000 : Word).toNat % 64 = 0 ∧
    okAnd (readDwords copying 0x8000 (List.range 8)) (fun r => decide (r.1 = copyWords) && writesDone r.2 r.2.cpu .cluster &&
      decide (copyCode false 0 r.2.cpu.ext.dm.toList r.1 = 0) && decide (copyCode true 1 r.2.cpu.ext.dm.toList r.1 = 6) &&
      (let c := copyOfRecord r.2 .go (targetsOf r.2 false 0) r.2.cpu.ext.dm.toList r.1
       okAnd (probeCopy (probeFor r.2) c r.2) (fun p => p.miss.isEmpty && decide (engineLoad p.s p.s.cpu.cluster < 64) &&
         p.s.copies.all (fun x => x.uid != p.s.dev.nextUid) && decide ({ c with pins := p.pins }.entered = 0)))) = true ∧
    writesDone storing storing.cpu .cluster = false ∧
    okAnd (readDwords copying 0x8100 (List.range 8)) (fun r => writesDone r.2 r.2.cpu .device && decide (streamCode 8192 r.1 = 0) &&
      okAnd (probeGather (probeFor r.2) (copyOfBlock r.2 r.1) r.1 r.2) (fun g => g.p.miss.isEmpty && g.c.gathers)) = true ∧
    (let s := copying.waitFor (.copyRoom 1 6 1 0 copy0)
     s.strand? (.task 0 false) = some s.cpu ∧ s.cpu.resid = .on ∧ s.cpu.wait = some (.copyRoom 1 6 1 0 copy0) ∧
      isTask (s.focus (.task 0 false)) = true ∧ readable (s.focus (.task 0 false)) [1] (some 6) = some [0x8000] ∧ engineLoad (s.focus (.task 0 false)) 0 < 64 ∧
      64 ≤ engineLoad { s with copies := List.replicate 64 copy0 } 0) := by decide +kernel

theorem witness_CopyMoves :
    (poisonedEnd (queued copy0) (.dev 0x4010) 8 = false) ∧
    (let c := { copy0 with moving := false }
     (queued c).copies.find? (fun y => y.cluster == 0 && !y.moving) = some c ∧ issues (queued c) 0 = true ∧ c.entered < c.total) ∧
    (let c := { copy0 with slot := some 3, targets := [0] }
     let s := (queued c).modCluster 0 (fun x => { x with slots := [⟨3, 1, 0, 0, 64, 1⟩] })
     s.copies.find? (fun y => y.uid == 5) = some c ∧ c.moving = true ∧ c.taken = false ∧ c.targets.Nodup ∧ c.entered < c.total ∧
      slotAt s c 0 = some ⟨3, 1, 0, 0, 64, 1⟩ ∧ (s.cluster 0).slots.all (fun y => y.num != 3 || y == ⟨3, 1, 0, 0, 64, 1⟩) = true ∧
      s.copies.all (fun y => !(y.moving && !y.taken && y.slot == c.slot && decide (y.uid < 5) && y.targets.any (fun t => c.targets.contains t))) = true) ∧
    (canMove (queued copy0) copy0 0 = true ∧ copy0.slot = none ∧ copy0.part 0 = none ∧ xferFault (queued copy0) copy0 0 = none ∧ dstLocs (queued copy0) copy0 0 = [(0x4800, .dev 0x4800, 4)] ∧
      overlaps (.dev 0x4800) 4 (.dev 0x4804) 1 = false) ∧
    (let s := { queued copy0 with poison := [0x4000] }; xferFault s copy0 0 = some 0x08 ∧ copy0.sta = 0 ∧
      (s.withExt (fun e => { e with copies := [⟨1, 0, 0, 0, .moving⟩] })).strand? copy0.owner = some (s.withExt (fun e => { e with copies := [⟨1, 0, 0, 0, .moving⟩] })).cpu) ∧
    (let c := { copy0 with mreg := some 7, made := [0], entered := 1 }
     (queued c).copies.find? (fun y => y.uid == 5) = some c ∧ chunkEntered c 0 = true ∧ 0 ∉ c.chunkDone ∧ takesBits (queued c) c = true ∧
      (queued c).strand? c.owner = some root.cpu) ∧
    (let c := { copy0 with entered := 1, sta := 0x4010, stv := 9 }
     (queued c).copies.find? (fun y => y.uid == 5) = some c ∧ c.done = false ∧ c.entered = c.total ∧ c.rtrains = [] ∧ c.sta ≠ 0 ∧ c.stampSeq = none ∧
      pinLoc c.pins c.sta.toNat = some (.dev 0x4010) ∧ poisonedAt (queued c) (.dev 0x4010) 8 = false) := by decide +kernel

/-- A device of id 1, a message to it from device 2, a train of the root task to it that is sent, and a stream from device 2. -/
def named : State := root.withH (fun h => { h with devid := 1 })
def msg (ty seq : Nat) : RMsg :=
  { ty := ty, seq := BitVec.ofNat 32 seq, sdev := 2, ddev := 1, sten := 0, win := 3, off := 0, ecnt := 0, stat := 0, ver := 1, data := [1, 2, 3, 4], op := 0, size := 4 }
def train (amo : Option (Nat × Nat × Word × Word)) : RTrain :=
  { id := 7, ddev := 2, win := 3, elems := [⟨0, [1], 0x4000, 1⟩], addFmt := none, sent := 1, closed := true, tailSent := true, seq := 4, ordered := true, vec := false,
    amo := amo, order := 0, train := 7, pc := 0x10000 }
def sentBy (q : RMsg) (amo : Option (Nat × Nat × Word × Word)) : State :=
  { (named.withMem (fun m => { m with rtrains := [train amo] })) with
      dev := { named.dev with tx := [⟨2, 3, 0, 1, 5, [q], 50000000, 20000⟩] } }
def sent (amo : Option (Nat × Nat × Word × Word)) : State := sentBy (msg 2 4) amo

theorem witness_RemoteAnswers :
    ((allTrains (sent none)).filter (fun q => q.1 == ⟨2, 3, 0⟩) = [(⟨2, 3, 0⟩, train none)] ∧ elemAt (train none).elems 0 = some ⟨0, [1], 0x4000, 1⟩ ∧
      (sent none).copies = [] ∧ (sent none).cpu.ext.rfail = none) ∧
    arrives (sent none) (msg 3 4) = true ∧ trainAt (arrived (sent none) (msg 3 4)) (answerKey (msg 3 4)) 4 = some (train none) ∧
    (txOf (sent none) (answerKey (msg 3 4))).unacked.findIdx? (fun q => q.seq.toNat == 4) = some 0 ∧
    (let m := { msg 4 4 with stat := 5 }
     arrives (sent none) m = true ∧ m.stat ≠ 6 ∧ (train none).amo = none ∧ (sent none).copies = [] ∧
      (sent none).strands.find? (fun x => x.mem.rtrains.any (fun y => y.id == 7)) = some (sent none).cpu ∧
      (sent none).strand? (sent none).cpu.id = some (sent none).cpu ∧ (sent none).cpu.ext.rfail = none) ∧
    (let s := (sent (some (0, 8, 1, 0))).waitFor (.remoteAmo ⟨0, .d, .rlx, 1, 2, 3⟩ 7)
     arrives s (msg 6 4) = true ∧ (msg 6 4).stat = 0 ∧ trainAt (arrived s (msg 6 4)) (answerKey (msg 6 4)) 4 = some (train (some (0, 8, 1, 0))) ∧
      s.strands.find? (fun x => x.mem.rtrains.any (fun y => y.id == 7)) = some s.cpu ∧ s.cpu.wait = some (.remoteAmo ⟨0, .d, .rlx, 1, 2, 3⟩ 7)) ∧
    (let m := { msg 4 4 with stat := 6 }
     arrives (sent none) m = true ∧ (txOf (sent none) (answerKey m)).unacked.any (fun q => q.ty == 8) = false ∧
      arrives (sentBy (msg 8 4) none) m = true ∧ (txOf (sentBy (msg 8 4) none) (answerKey m)).unacked.any (fun q => q.ty == 8) = true) ∧
    (∀ q ∈ (txOf (sent none) ⟨2, 3, 0⟩).unacked, q.ddev = (sent none).dev.h.devid) ∧
    (∀ q ∈ (txOf (sentBy { msg 2 4 with ddev := 2 } none) ⟨2, 3, 0⟩).unacked, q.ddev ≠ named.dev.h.devid) ∧
    (txOf (sent none) ⟨2, 3, 0⟩).unacked ≠ [] ∧ 20000 ≤ (txOf (sent none) ⟨2, 3, 0⟩).resendNs ∧ 50000000 ≤ (txOf (sent none) ⟨2, 3, 0⟩).idleNs := by decide +kernel

/-- A receive window over a page at 0x4000, and a stream from device 2 with what waits in it. -/
def window : RWin := { win := 3, sdev := 2, sten := 0, lbase := 0x4000, len := 4096, w := true, a := true, closing := false, pages := [⟨0x4000, 4096, .dev 0x4000, 0⟩] }
def stream (q : List RxItem) : RxStream := { sdev := 2, win := 3, sten := 0, epoch := 1, next := 4, queue := q, arrived := 0, refused := none, train := 0, entered := 0 }
def receiving (q : List RxItem) : State :=
  { (named.modTenX 0 (fun x => { x with rwins := [window] })) with dev := { named.dev with rx := [stream q] } }

theorem witness_RemoteReceipt :
    (poisonedEnd (receiving []) (.dev 0x4000) 8 = false) ∧
    arrives (receiving []) (msg 1 4) = true ∧ rxOf (receiving []) 2 3 0 = some (stream []) ∧ (stream []).next ≠ (msg 1 3).seq.toNat ∧
    (stream []).next = (msg 1 4).seq.toNat ∧ windowFor (receiving []) 2 3 0 = some (0, window) ∧ window.closing = false ∧ (stream []).refused = none ∧
    0 < (msg 1 4).size ∧ { msg 1 4 with off := 4092 }.off + (msg 1 4).data.length ≤ window.len ∧ window.w = true ∧ (stream []).queue = [] ∧
    (let m := { msg 5 4 with data := leBytes 16 1, size := 8 }
     arrives (receiving []) m = true ∧ atomicLoc (receiving []) m 8 = some (.dev 0x4000) ∧ poisonedAt (receiving []) (.dev 0x4000) 8 = false ∧
      settledAt (receiving []) (.dev 0x4000) 8 .device = true) ∧
    (let m := { msg 7 4 with data := leBytes 8 1, size := 8 }; arrives (receiving []) m = true ∧ atomicLoc (receiving []) m 8 = some (.dev 0x4000)) ∧
    (arrives named (msg 1 4) = true ∧ rxOf named 2 3 0 = none) ∧ arrives named (msg 8 0) = true ∧
    (arrives (receiving []) { msg 8 0 with op := 1 } = true ∧ (stream []).epoch = { msg 8 0 with op := 1 }.op ∧ (stream []).epoch ≠ (msg 8 0).op) ∧
    (let s := receiving [.elem 0 [1, 2, 3, 4] (some 0) true]
     rxOf s 2 3 0 = some (stream [.elem 0 [1, 2, 3, 4] (some 0) true]) ∧ windowLocs window 4 0 4 = [(.dev 0x4000, 4)] ∧
      poisonedAt s (.dev 0x4000) 4 = false ∧ settledAt s (.dev 0x4000) 4 .device = true ∧
      (memAddBytes 0 (lastBytes s (.dev 0x4000) 4) [1, 2, 3, 4]).length = 4) ∧
    rxOf (receiving [.tail 4 1 none]) 2 3 0 = some (stream [.tail 4 1 none]) ∧ rxOf (receiving [.tail 4 1 (some 0)]) 2 3 0 = some (stream [.tail 4 1 (some 0)]) := by
  decide +kernel

/-- A window record at 0x8000. -/
def winRec (w0 w1 w2 : Nat) : State := withBytes (withS root [(1, 0x8000)]) 0x8000 (leBytes 8 w0 ++ leBytes 8 w1 ++ leBytes 8 w2)

theorem witness_RemoteWindows :
    isTask root = true ∧ root.cpu.ctl.level ≠ .u ∧ root.cpu.wait = none ∧ readable (withS root [(1, 0x8001)]) [1] (some 2) = some [0x8001] ∧
    (0x8001 : Word).toNat % 64 ≠ 0 ∧ readable (winRec 0 0 0) [1] (some 2) = some [0x8000] ∧
    okAnd (readDwords (winRec 0 0 (2 ^ 32)) 0x8000 (List.range 8)) (fun r => decide ((r.1.getD 2 0).toNat / 2 ^ 32 ≠ 0)) = true ∧
    (let s := (winRec 0 0 (3 * 2 ^ 25)).modTenX 0 (fun x => { x with rwins := [window] })
     okAnd (readDwords s 0x8000 (List.range 8)) (fun r => decide ((r.1.getD 2 0).toNat / 2 ^ 31 % 2 = 0) && (r.1.drop 3).all (· == 0) &&
       decide ((r.2.tenX 0).rwins.find? (fun x => x.win == 3) = some window) && windowQuiet r.2 window) = true ∧
     windowQuiet { s with dev := { s.dev with rx := [stream [.tail 4 1 none]] } } window = false) ∧
    okAnd (readDwords (winRec 0x4001 4096 (2 ^ 31 + 2)) 0x8000 (List.range 8)) (fun r => decide ((r.1.getD 0 0).toNat % 4096 ≠ 0)) = true ∧
    okAnd (readDwords (winRec 0x4000 4096 (2 ^ 31 + 2)) 0x8000 (List.range 8)) (fun r => decide ((r.1.getD 2 0).toNat / 2 ^ 31 % 2 = 1) &&
      (r.2.tenX 0).rwins.isEmpty && (windowFor r.2 2 0 0).isNone &&
      okAnd (windowPages { ctxOf r.2 r.2.cpu with user := false } (migOver r.2.cpu) 1 0x4000 4096 [] r.2) (fun p => decide (p.1.length = 1))) = true ∧
    (let s := (root.modTenX 0 (fun x => { x with rwins := [window] })).waitFor (.rwinClose 2 1 3)
     s.strand? (.task 0 false) = some s.cpu ∧ s.cpu.resid = .on ∧ s.cpu.wait = some (.rwinClose 2 1 3) ∧
      ((s.focus (.task 0 false)).tenX 0).rwins.find? (fun y => y.win == 3) = some window ∧ windowQuiet (s.focus (.task 0 false)) window = true) ∧
    (sent none).cpu.mem.rtrains ≠ [] ∧ root.cpu.mem.rtrains = [] ∧ root.cpu.ext.rfail = none ∧
    (root.withExt (fun e => { e with rfail := some ⟨0x04, 0x4000, 0⟩ })).cpu.ext.rfail = some ⟨0x04, 0x4000, 0⟩ := by decide +kernel

/-- A launch of one task, its header all zeros: under way, with its pin pass done, and its task dispatched. -/
def launching : State := (startLaunch root ⟨0, 0, 0, 0, none⟩ 0xA000 (List.replicate 32 0)).1
def launch0 : Launch := { mkLaunch ⟨0, 0, 0, 0, none⟩ 1 0xA000 (List.replicate 32 0) with pin := .done }
def pinned (f : Launch → Launch) : State := { root with launches := [f launch0] }
/-- A frame pool for both dies. -/
def pooled (s : State) : State := s.withH (fun h => { h with csp0b := 0x1000000, csp0l := 0x1000000, csp1b := 0x2000000, csp1l := 0x1000000 })
/-- A second task of the tenant, of launch 1, ready. -/
def second : Task := { (launched.tasks.headD (rootRecord 0 0)) with tid := 1, state := .ready, prio := 64, started := false }
def secondStrand : Strand := { Strand.start (.task 1 false) 0 0 0x10000 .u with resid := .off }
def withSecond (s : State) (t : Task) : State := { s with tasks := s.tasks ++ [t], others := s.others ++ [secondStrand] }

theorem witness_Launching :
    (isTask root = true ∧ readable (withS root [(1, 0xA000)]) [1] (some 2) = some [0xA000] ∧ root.cpu.wait = none ∧ (0xA004 : Word).toNat % 64 ≠ 0) ∧
    okAnd (readDwords root 0xA000 (List.range 32)) (fun r => decide (launchCode (r.2.ten 0) r.1 = 0) && writesDone r.2 r.2.cpu .device &&
      decide (outstanding r.2 0 < 4096)) = true ∧
    launchCode (root.ten 0) ((List.replicate 32 (0 : Word)).set 14 1) = 1 ∧
    4096 ≤ outstanding { root with launches := List.replicate 4096 launch0 } 0 ∧
    (let s := (withS root [(1, 0xA000)]).waitFor (.launchLimit 2 1 (List.replicate 32 0))
     s.strand? (.task 0 false) = some s.cpu ∧ s.cpu.resid = .on ∧ s.cpu.wait = some (.launchLimit 2 1 (List.replicate 32 0)) ∧
      isTask (s.focus (.task 0 false)) = true ∧ readable (s.focus (.task 0 false)) [1] (some 2) = some [0xA000] ∧ writesDone s s.cpu .device = true ∧
      outstanding s 0 < 4096) ∧
    (let s := (pinned (fun l => { l with pin := .mig 0x10 63 0 [] })).withDev (fun d => { d with time := 1000 })
     someAnd (s.launch? 0 1) (fun l => decide (l.tenant = 0) && decide (l.lid = 1) && decide (l.pin = .mig 0x10 63 0 []) && rereads s 0 &&
       okAnd (pinLeases l.ctx [0x10] l.leases ⟨s, [], []⟩) (fun p => p.miss.isEmpty)) = true) ∧
    (let s := withBytes (pinned (fun l => { l with pin := .waiting 0 0, frec := 0x4000 })) 0x4010 [1]
     someAnd (s.launch? 0 1) (fun l => decide (l.pin = .waiting 0 0) && okAnd (watchWord s l.ctx (l.frec + 16) true) (fun r => decide (1 ≤ r.1) &&
       okAnd (pinLeases l.ctx [] l.leases ⟨r.2, [], []⟩) (fun p => p.miss.isEmpty))) = true) ∧
    (let s := pinned (fun l => { l with pin := .waiting 0 0, frec := 0x40000000 })
     someAnd (s.launch? 0 1) (fun l => decide (l.pin = .waiting 0 0) &&
       (match watchWord s l.ctx (l.frec + 16) true with | .error b => !b | .ok _ => false)) = true) ∧
    (let s := pinned id
     s.launch? 0 1 = some launch0 ∧ launch0.pin = .done ∧ launch0.skipped = [] ∧ launch0.created < launch0.total ∧ launch0.gangSize = none ∧
      memberLives s launch0 launch0.created = false ∧ freeRecords s launch0.die 1 = some [1]) ∧
    (let l := { launch0 with widw := BitVec.ofNat 64 (2 ^ 42 + 1), ext := [1, 0, 0, 0, 0, 0] }
     (root.launch? 0 1).isNone ∧ l.gangSize = some 2 ∧ freeRecords root l.die 2 = some [1, 2] ∧ l.pin = .done ∧ l.skipped = [] ∧ l.created < l.total) := by
  decide +kernel

/-- The launched task at U with its scratchpad full, beside a ready one of higher priority. -/
def crowded : State :=
  let s := withSecond (pooled launched) { second with spadLen := 0x200000, prio := 64 }
  { s with cpu := { s.cpu with ctl := { s.cpu.ctl with level := .u } }, tasks := s.tasks.map (fun t => if t.tid = 0 then { t with spadLen := 128, prio := 0 } else t) }

/-- The launched task parked with a watch on 0x4000. -/
def parked : State :=
  { launched with cpu := { launched.cpu with resid := .off },
                  tasks := launched.tasks.map (fun t => { t with state := .parked, watch := true, waddr := 0x4000, wval := 1 }) }

theorem witness_Scheduling :
    ((let s0 := (withSecond launched second).modTen 0 (fun t => { t with part0 := 0x101 })
      let s := { s0 with tasks := s0.tasks.map (fun t => { t with widw := 1 }) }
      someAnd (nextFor s 8) (fun t => t.gang.isNone && belongsElsewhere s t 8) = true ∧ someAnd (nextFor s 0) (fun t => t.gang.isNone && !belongsElsewhere s t 0) = true)) ∧
    someAnd (nextFor (withSecond launched second) 0) (fun t => t.tid == 1) = true ∧
    (let s := withSecond launched { second with gang := some 0, state := .waitgang }
     someAnd (placeGroup s (s.tasks.filter (fun t => t.tenant == 0 && t.lid == 1 && t.gang == some 0))) (fun ps => decide ((ps.map (·.1.tid)).Nodup) && !ps.isEmpty) = true) ∧
    (let s := withSecond launched { second with gang := some 0 }
     someAnd (nextFor s 0) (fun t => decide (t.gang = some 0) && someAnd (placeGroup s (groupOfTask s t)) (fun ps => decide ((ps.map (·.1.tid)).Nodup))) = true) ∧
    (let s := crowded
     someAnd (s.task? 0) (fun t => someAnd (s.tasks.find? (fun r => r.tid == 1)) (fun r => r.tenant == t.tenant && findsNone s r &&
       decide ((victimOf s r).map (·.tid) = some 0) && t.state == .running && groupReady s (groupOfTask s t) (fun _ => false) && framesOk s (groupOfTask s t) &&
       (groupOfTask s t).all (fun u => (strandsOf s u.tid).all (fun x => x.resid != .on || x.ctl.level == .u)))) = true) ∧
    (let s := pooled launched
     isTask s = true ∧ someAnd (taskOf s s.cpu) (fun t => t.state == .running && canSave s (groupOfTask s t)) = true) ∧
    someAnd (taskOf (storing) storing.cpu) (fun t => !canSave storing (groupOfTask storing t)) = true ∧
    (let s := pooled (withS launched [(1, 0x4000), (2, 9), (3, 0xFFFE)])
     s.cpu.resid = .on ∧ readable (withS s [(3, 0x1FFFE)]) [1, 2, 3] none = some [0x4000, 9, 0x1FFFE] ∧
      ((List.range 32).filter (fun i => i ≠ 0 ∧ (0x1FFFE : Word).getLsbD i)).length = 16 ∧
      someAnd (taskOf s s.cpu) (fun t => !t.dual && okAnd (checkAccess s 0x4000 8 true false) (fun k => saveReady k.s k.s.cpu && released k.s k.s.cpu &&
        groupReady k.s ((groupOfTask k.s t).filter (fun u => u.tid != t.tid)) (fun _ => false) &&
        framesOk k.s ((groupOfTask k.s t).filter (fun u => u.tid != t.tid)))) = true) ∧
    (someAnd (taskOf pairA pairA.cpu) (fun t => t.dual) = true ∧ [1, 2, 3].all (mayRead (roleOf pairA pairA.cpu)) = true ∧ pairA.cpu.resid = .on) ∧
    (let s := parked
     someAnd (s.task? 0) (fun t => t.state == .parked && t.watch && someAnd (parkCtx s t) (fun c =>
       okAnd (watchWord s c t.waddr false) (fun r => decide (r.1 < t.wval.toNat)) &&
       okAnd (watchWord (withBytes s 0x4000 [1]) c t.waddr false) (fun r => decide (t.wval.toNat ≤ r.1)))) = true) := by decide +kernel

/-- The root task with a steal entry, and one whose list is full. -/
def spawning (n : Nat) : State := (withS root [(1, 0x4000), (2, 0x10000)]).withExt (fun e => { e with steal := List.replicate n ⟨0x4000, 0x10000, 5⟩ })

theorem witness_TaskEnds :
    copiesOver launched (strandsOf launched 0) = true ∧ okAnd (closeAll ((strandsOf launched 0).map (·.id)) launched) (fun w => tendWaits w (strandsOf w 0)) = true ∧
    launched.cpu.ext.merge.isNone = true := by decide +kernel

theorem witness_SpawningAndTaskEnds :
    isTask (spawning 31) = true ∧ (taskOf (spawning 31) (spawning 31).cpu).isSome = true ∧ readable (spawning 31) [1, 2] none = some [0x4000, 0x10000] ∧
    (0x4004 : Word).toNat % 8 ≠ 0 ∧ ((0x4000 : Word).toNat % 8 = 0 ∧ (0x10002 : Word).toNat % 4 ≠ 0) ∧ 32 ≤ (spawning 32).cpu.ext.steal.length ∧
    (spawning 31).cpu.ext.steal.length < 32 ∧
    readable (spawning 1) [1] (some 3) = some [0x4000] ∧ (spawning 1).cpu.ext.steal.any (fun e => e.frame == 0x4000) = true ∧
    (spawning 0).cpu.ext.steal.any (fun e => e.frame == 0x4000) = false ∧
    okAnd (checkAccess (readAnew (spawning 0)) 0x4000 8 true false) (fun k => plainAt 8 k && decide (leNat (scalarBytes k.s k.s.cpu k.loc 8) = 0)) = true ∧
    (let s := withBytes (spawning 0) 0x4000 [2]
     okAnd (checkAccess (readAnew s) 0x4000 8 true false) (fun k => plainAt 8 k && decide (leNat (scalarBytes k.s k.s.cpu k.loc 8) = 2)) = true) ∧
    (let s := (spawning 1).waitFor (.join 3 1)
     s.strand? (.task 0 false) = some s.cpu ∧ s.cpu.resid = .on ∧ s.cpu.wait = some (.join 3 1)) ∧
    (let s := spawning 1
     s.strand? (.task 0 false) = some s.cpu ∧ s.cpu.ext.steal = [⟨0x4000, 0x10000, 5⟩] ∧ stealable s 0 s.cpu = true ∧ inPartition (s.ten 0) 0 = true ∧
      (s.cluster 0).resetting = false ∧ nextFor s 0 = none ∧ (residents s 0).foldl (fun n u => n + ctxNeed u) 0 < 16 ∧ s.cpu.cluster / 8 = 0 / 8 ∧
      freeRecords s 0 1 = some [1] ∧ s.strand? (.task 1 false) = none) ∧
    (roleOf pairA pairA.cpu = .a ∧ isTask pairA = true ∧ (taskOf pairA pairA.cpu).isSome = true) ∧
    (let s := launched
     roleOf s s.cpu ≠ .a ∧ (strandsOf s 0).all (fun x => (vvals s x).all (fun v => !v.holes) && x.mem.rtrains.isEmpty) = true ∧ hlfAll s = none ∧
      s.cpu.ext.rfail = none ∧ tendWaits s (strandsOf s 0) = true ∧ freeRecords s 0 0 = some [] ∧ someAnd (taskOf s s.cpu) (fun t => t.kind != .spawned) = true) ∧
    (let s := { root with tasks := root.tasks.map (fun t => { t with kind := .spawned, frame := 0x4000, leases := [⟨0x4000, 8, true, true, false, false⟩] }) }
     tendWaits s (strandsOf s 0) = true ∧ okAnd (checkAccess s 0x4000 8 false true) (fun k => !isRemote k.loc) = true ∧
      someAnd (taskOf s s.cpu) (fun t => t.kind == .spawned) = true) ∧
    (let s := launched.waitFor .tend; s.strand? (.task 0 false) = some s.cpu ∧ s.cpu.wait = some .tend) ∧
    (let l := { launch0 with created := 1 }
     launchOver (pinned (fun _ => l)) l = true ∧ (pinned (fun _ => l)).launch? 0 1 = some l ∧ launchOver (pinned id) launch0 = false) ∧
    (let s := atU (withS root [(1, 0), (2, 1)])
     readable s [1] none = some [0] ∧ readable s [2] none = some [1] ∧ s.cpu.ctl.level = .u ∧
      someAnd (taskOf { s with tasks := s.tasks.map (fun t => { t with prioc := 0 }) } s.cpu) (fun t => decide (t.prioc = 0)) = true) := by decide +kernel

/-- A graph header at 0x8000 with one monitor node at 0x8040. -/
def graphing : State :=
  withBytes (withS root [(1, 0x8000)]) 0x8000 (leBytes 8 0x8040 ++ leBytes 8 1 ++ List.replicate 48 0)

/-- A graph of two nodes, the first one over, or failing. -/
def node0 (st : NState) : Node := { kind := 3, pred := 0, succ := [1], addr := 0, p0 := 0x4000, p1 := 0, record := 1, struck := false, ref := 0, hold := 0, readAt := none, migPage := 0, migOver := [], state := st }
def node1 : Node := { node0 .waiting with pred := 1, succ := [], record := 2 }
def graph0 (ns : List Node) : Graph :=
  { gid := 1, tenant := 0, die := 0, cluster := 0, owner := .task 0 false, tid := some 0, user := false, root := true, nodes := ns, comp := 0, sta := 0, stv := 0,
    s1root := 0, asid := 0, leases := [], killed := false, finished := 0, faultSeq := 0, charges := Charges.zero }

theorem witness_Graphs :
    readable graphing [1] (some 2) = some [0x8000] ∧ graphing.cpu.wait = none ∧ (0x8000 : Word).toNat % 64 = 0 ∧
    okAnd (readDwords graphing 0x8000 (List.range 8)) (fun r => decide (r.1.getD 0 0 = 0x8040) && decide ((r.1.getD 1 0).toNat % 65536 = 1) &&
      okAnd (readDwords r.2 0x8040 (List.range 8)) (fun q => decide (graphCode r.1 (records q.1) ≠ 0))) = true ∧
    (let s := withBytes graphing 0x8040 [3]
     okAnd (readDwords s 0x8000 (List.range 8)) (fun r => okAnd (readDwords r.2 0x8040 (List.range 8)) (fun q => decide (graphCode r.1 (records q.1) = 0) &&
       decide (r.1.length = 8) && writesDone q.2 q.2.cpu .device && decide (freeRecords q.2 0 (records q.1).length = some [1]))) = true ∧
     (let t := s.waitFor (.gsubRecords 2 1 (List.replicate 8 0 ++ List.replicate 8 0))
      t.strand? (.task 0 false) = some t.cpu ∧ t.cpu.resid = .on ∧ t.cpu.wait = some (.gsubRecords 2 1 (List.replicate 8 0 ++ List.replicate 8 0)) ∧
       isTask (t.focus (.task 0 false)) = true ∧ readable (t.focus (.task 0 false)) [1] (some 2) = some [0x8000])) ∧
    (let g := graph0 [node0 .done, node1]
     let s := { root with graphs := [g] }
     s.graph? 0 1 = some g ∧ g.nodes[0]? = some (node0 .done) ∧ nodeDone s g (node0 .done) = true ∧ (finishNode g 0).nodes.all Node.over = false ∧
      (node0 .done).struck = false ∧ g.nodes[1]? = some node1) ∧
    (finishNode (graph0 [{ node0 .done with succ := [] }]) 0).nodes.all Node.over = true ∧
    (let s := { root with graphs := [graph0 [node0 .failing, node1]] }
     someAnd (s.graph? 0 1) (fun g => decide (g.nodes[0]? = some (node0 .failing)) && decide (1 ∈ reach g.nodes 0)) = true) := by decide +kernel

/-- The task as a member of vane group 1, with edge 7 from itself to member 1. -/
def edge7 : Edge := { die := 0, tenant := 0, group := 1, eid := 7, tile := 3, ma := 0, mb := 1, toB := true, gbase := 0, glen := 0 }
def member (firing : Bool) : State :=
  let s := pooled (withS launched [(1, 0x4000), (2, 0x100000001), (3, 65535), (4, 7), (5, 65536), (6, 8), (7, 65537)])
  { s with tasks := s.tasks.map (fun t => { t with vane := { VaneSt.start 1 with firing := firing } }), dev := { s.dev with edges := [edge7] } }
/-- An edge record at 0x4000: edge 9 from member 2 to member 3. -/
def record9 : State := withBytes (member true) 0x4010 (leBytes 8 (2 + 3 * 2 ^ 32) ++ leBytes 8 (9 + 2 ^ 32))

theorem witness_VaneResults :
    isTask record9 = true ∧ readable record9 [1, 2] (some 8) = some [0x4000, 0x100000001] ∧ record9.cpu.wait = none ∧
    ((0x100000001 : Word).toNat / 2 ^ 16 % 65536 = 0 ∧ (0x100000001 : Word).toNat / 2 ^ 42 = 0 ∧ (0x100000001 : Word).toNat % 65536 = 1 ∧
      (0x100000001 : Word).toNat / 2 ^ 32 % 1024 = 1) ∧
    okAnd (readDwords record9 0x4000 (List.range 4)) (fun r => !badRecords (edgeRecords r.1) ((edgeRecords r.1).map (edgeOf 0 0 0)) &&
      ((edgeRecords r.1).map (edgeOf 0 0 1)).all (fun e => (member? r.2 0 1 e.from).isNone) &&
      decide (armStatus r.2 0 1 0 ((edgeRecords r.1).map (edgeOf 0 0 1)) = 0)) = true ∧ (0x4000 : Word).toNat % 32 = 0 ∧
    armStatus (member true) 0 1 0 [edge7] = 4 ∧ armStatus (member true) 0 1 0 [{ edge7 with eid := 8, toB := false }] = 1 ∧
    (let s := record9.waitFor (.vaneArm 8 1 2 [0, 0, 0, 0])
     s.strand? (.task 0 false) = some s.cpu ∧ s.cpu.resid = .on ∧ s.cpu.wait = some (.vaneArm 8 1 2 [0, 0, 0, 0])) ∧
    (readable (withS (member true) [(2, 0x100000007)]) [2, 2] none = some [0x100000007, 0x100000007] ∧ readable (member true) [2, 3] none = some [0x100000001, 65535] ∧
      0 < (65535 : Word).toNat ∧ (65535 : Word).toNat ≤ 65536) ∧
    (let s := member true
     someAnd (taskOf s s.cpu) (fun t => decide (t.vane.group ≠ 0) && decide (t.state = .running) && canSave s [t]) = true ∧
      readable s [3] none = some [65535] ∧ (strandsOf s 0).all (fun x => (vvals s x).all (fun v => !v.holes) && x.mem.rtrains.isEmpty) = true ∧ someAnd (taskOf s s.cpu) (fun t => (hlfTend s t true).isNone) = true ∧
      s.cpu.ext.rfail = none ∧ copiesOver s (strandsOf s 0) = true ∧
      readable s [4] (some 8) = some [7] ∧ edge? s 0 1 7 = some edge7 ∧ readable s [6] (some 8) = some [8] ∧ edge? s 0 1 8 = none ∧
      readable s [5] (some 8) = some [65536] ∧ readable s [7] (some 8) = some [65537] ∧ edge7 ∈ s.dev.edges) ∧
    someAnd (taskOf root root.cpu) (fun t => decide (t.vane.group = 0)) = true ∧
    (let s := { root with dev := { root.dev with flips := [⟨0, 0, 1, 7, 0⟩, ⟨0, 0, 1, 8, 1⟩] } }
     s.dev.flips[1]? = some ⟨0, 0, 1, 8, 1⟩ ∧ (s.dev.flips.take 1).all (fun x => x.src != 1 && !(x.tenant == 0 && x.group == 1 && x.eid == 8)) = true) ∧
    (let s0 := member false
     let s := { s0 with dev := { s0.dev with edges := [{ edge7 with toB := false }] }, tasks := s0.tasks.map (fun t => { t with state := .ready, vane := { t.vane with ln := 1 } }) }
     someAnd (s.task? 0) (fun t => decide (t.state = .ready) && decide (t.vane.group ≠ 0) && !t.vane.firing && !t.vane.ending && decide (0 < t.vane.ln) && isClear s t &&
       !frozen s t) = true) := by decide +kernel

theorem witness_VaneDrop :
    (member true).cpu.wait = none ∧ (member true).cpu.tenant = 0 ∧
      (member true).dev.edges = [edge7] ∧ edge7.tenant = 0 ∧ edge7.group = 1 ∧ 1 ≤ edge7.eid ∧ edge7.eid < 65536 ∧
      ((member true).waitFor (.vaneDrop 2 3 8)).cpu.wait = some (.vaneDrop 2 3 8) ∧ edge7.eid < 8 ∧
      (let s := (member true).withDev (fun d => { d with edges := [edge7, { edge7 with eid := 9 }] })
       s.dev.edges.map (fun e => (e.tenant, e.group, e.eid)) = [(0, 1, 7), (0, 1, 9)]) := by decide +kernel

theorem witness_PowerSettings :
    ((0, 5) ∈ (core.withM (fun m => { m with vrAt := [(0, 5)] })).dev.m.vrAt ∧ core.dev.time < 5 + 100000 ∧ core.dev.m.vrAt = []) ∧
    (let s := core.modCluster 0 (fun k => { k with switching := true })
     (s.cluster 0).switching = true ∧ clusterQuiet s 0 = true ∧ clusterQuiet { storing with clusters := s.clusters } 0 = false) ∧
    (bitsOf 0x28007 23 21 ≠ 2 ∧ bitsOf 0x28007 17 12 = 40 ∧ bitsOf 0x28007 11 8 ≤ 12 ∧ bitsOf 0x28007 6 4 ≤ 4) ∧ 40 < bitsOf 0x29007 17 12 ∧
    (let e := (core.cluster 0).eff; let a := allowed core (core.cluster 0); e.vln ≤ a.vln ∧ a.lsu ≤ e.lsu ∧ a.iss ≤ e.iss ∧ e.frq ≤ a.frq) ∧
    ((core.cluster 0).held.vln < 1000 ∧ (core.cluster 0).held.lsu < 1000 ∧ (core.cluster 0).held.iss < 1000 ∧ (core.cluster 0).held.frq < 1000) ∧
    (let s := core.modCluster 0 (fun k => { k with held := { k.held with vln := 1000 } })
     (s.cluster 0).eff.vln ≤ (allowed s (s.cluster 0)).vln ∧ (allowed s (s.cluster 0)).lsu ≤ (s.cluster 0).eff.lsu ∧
      (allowed s (s.cluster 0)).iss ≤ (s.cluster 0).eff.iss ∧ (s.cluster 0).eff.frq ≤ (allowed s (s.cluster 0)).frq ∧ 1000 ≤ (s.cluster 0).held.vln) ∧
    ((core.tenX 0).budgetDue = false ∧ ((core.modTenX 0 (fun x => { x with budgetDue := true })).tenX 0).budgetDue = true) ∧
    ((core.tenX 0).window = none ∧ ((core.modTenX 0 (fun x => { x with window := some 5500000 })).tenX 0).window = some 5500000 ∧ core.dev.windows = [] ∧
      ((10 ^ 6 * 5 < 5500000 + 10 ^ 6 ∧ 5500000 < 10 ^ 6 * (5 + 1)) ∧ (10 ^ 6 * 6 < 5500000 + 10 ^ 6 ∧ 5500000 < 10 ^ 6 * (6 + 1)) ∧
        ¬ (10 ^ 6 * 4 < 5500000 + 10 ^ 6 ∧ 5500000 < 10 ^ 6 * (4 + 1)))) ∧
    (let s := core.withM (fun m => { m with sensors := [⟨3, true, 0, 0⟩] })
     s.dev.m.sensors.find? (fun x => x.num == 3) = some ⟨3, true, 0, 0⟩ ∧ s.dev.time < 0 + 100000 ∧ s.dev.m.sensors.find? (fun x => x.num == 4) = none) ∧
    (3 : Nat) < 4 ∧ (127 : Nat) < 128 ∧ (63 : Nat) < 64 := by decide +kernel

/-- The root task, whose one leaf of stage 2 migrates. -/
def migrating : State := withBytes root 0x3000 (leBytes 8 0x1CF)

theorem witness_PowerMonitors :
    core.dev.m.wdogOn = true ∧ core.dev.m.wdogWarned = false ∧ core.dev.m.wdogUs < 8000 ∧ 10000 ≤ (core.withM (fun m => { m with wdogUs := 10000 })).dev.m.wdogUs ∧
    (let m := (core.withM (fun m => { m with mtick := 5, tickUs := 5 })).dev.m; m.mtick ≠ 0 ∧ m.mtick.toNat ≤ m.tickUs) ∧
    (let z := ((core.withM (fun m => { m with mie := 1, tap := 1 })).withTrap (fun t => { t with tstatus := 1 })).focus .mgmt
     z.cpu.id = .mgmt ∧ z.cpu.resid = .on ∧ z.cpu.wait = none ∧ z.cpu.trap.tstatus.getLsbD 0 = true ∧ (mipBits z.dev.m).testBit 0 = true ∧ z.dev.m.mie.getLsbD 0 = true) ∧
    (let s := root.modTenX 0 (fun x => { x with pswDue := some 0 })
     (s.tenX 0).pswDue.isSome = true ∧ pswOpen s (s.tenX 0) = true ∧ (s.tenX 0).pswMig.1 = 0 ∧ (s.ten 0).pswa.toNat % 2 ^ 57 / 8 * 8 = 0) ∧
    (let s := (root.modTenX 0 (fun x => { x with pswDue := some 0 })).modTen 0 (fun t => { t with pswa := 0x4000 })
     (s.tenX 0).pswDue.isSome = true ∧ pswOpen s (s.tenX 0) = true ∧ (s.tenX 0).pswMig.1 = 0 ∧ (s.ten 0).pswa.toNat % 2 ^ 57 / 8 * 8 = 0x4000 ∧
      someAnd (rootCtx s 0) (fun c => okAnd (machineLoc s c 0x4000 true) (fun r => decide (r.1 = .dev 0x4000) && decide (r.2.ten 0 = s.ten 0))) = true ∧
      someAnd (rootCtx s 0) (fun c => match machineLoc s c 0x40000000 true with | .error b => !b | .ok _ => false) = true ∧
      (s.strands.map (·.id)).Nodup ∧ allClusters.all (fun c => (s.cluster c).left.isEmpty) = true) ∧
    (let s := migrating.modTenX 0 (fun x => { x with pswDue := some 0 })
     someAnd (rootCtx s 0) (fun c => match machineLoc s c 0x4000 true with | .error b => b | .ok _ => false) = true) ∧
    (let s := { root.withDev (fun d => { d with windows := [0] }) with cpu := { root.cpu with usage := { root.cpu.usage with issued := 3 } } }
     0 ∈ s.dev.windows ∧ 1 ∉ s.dev.windows ∧ (s.strands.map (·.id)).Nodup ∧ (s.cluster 0).vr = 0 ∧
      0 < ((s.strands.filter (fun x => x.cluster == 0 && x.resid == .on && (tidOf x.id).isSome)).map (·.usage.issued)).sum) := by decide +kernel

/-- That translation, with an invalidation of it begun. -/
def dyingOne : State := { cached with tlb := cached.tlb.map (fun e => { e with dying := true }), cpu := { cached.cpu with mem := { cached.cpu.mem with invs := cached.tlb.map (·.id) } } }

theorem witness_Invalidation :
    isTask cached = true ∧ cached.cpu.ctl.level ≠ .u ∧ scalarDone cached cached.cpu .device none = true ∧ cached.tlb.length = 1 ∧
    readable cached [1, 2] none = some [0x4000, 0] ∧ readable cached [2] none = some [0] ∧
    core.cpu.ctl.level = .m ∧ scalarDone core core.cpu .device none = true ∧ readable core [1, 2] none = some [0, 0] ∧ scalarDone storing storing.cpu .device none = false ∧ storing.cpu.ctl.level ≠ .u ∧
    root.cpu.mem.invs = [] ∧ dyingOne.cpu.mem.invs.any (fun i => !removed dyingOne i) = true ∧
    (let s := root.waitFor .tlbsync; s.strand? (.task 0 false) = some s.cpu ∧ s.cpu.resid = .on ∧ s.cpu.wait = some .tlbsync) ∧
    (let s := root.waitFor (.mig 4 0 0 []); s.strand? (.task 0 false) = some s.cpu ∧ issues s s.cpu.cluster = true ∧ s.cpu.wait = some (.mig 4 0 0 []) ∧ s.dev.time < 0 + 1000 ∧
      0 + 1000 ≤ (s.withDev (fun d => { d with time := 1000 })).dev.time) ∧
    (0x2000000000000000 : Word).toNat / 2 ^ 61 ≠ 0 ∧ (0x1FF0000000001000 : Word).toNat / 2 ^ 61 = 0 ∧ (0x1FF0000000001000 : Word).toNat % 4096 = 0 ∧
    core.dev.h.hinvs = [] ∧ (let s := cached.withH (fun h => { h with hinvs := cached.tlb.map (·.id) }); s.dev.h.hinvs.any (fun i => !removed s i)) = true := by decide +kernel

theorem witness_HostAccess :
    isTask root = true ∧ root.cpu.ctl.level ≠ .u ∧ writesDone root root.cpu .system = true ∧ writesDone storing storing.cpu .system = false ∧
    (let s := root.withDev (fun d => { d with msix := [⟨.hpb, 63, 0x100, 7, false, false⟩] })
     s.dev.msix.find? (fun e => e.port == .hpb && e.num == 64 * s.cpu.tenant + (63 : BitVec 6).toNat) = some ⟨.hpb, 63, 0x100, 7, false, false⟩) ∧
    (root.dev.msix.find? (fun e => e.port == .hpa && e.num == 0)).all (·.masked) = true ∧ (2047 : Nat) < 2048 ∧
    core.dev.h.hsem.owner = 0 ∧ core.dev.h.hsem.rem = 0 ∧
    (let s := core.withH (fun h => { h with hsem := { h.hsem with owner := 2, rem := 1 } }); s.dev.h.hsem.owner ≠ 0 ∧ s.dev.h.hsem.owner ≠ 1 ∧ s.dev.h.hsem.rem ≠ 0) ∧
    (0x200 + 0x200 / 8 < 0x300 ∧ csrAssigned (0x200 + 0x200 / 8) = true ∧ 0x200 + 0x200 / 8 ≠ 0x200) ∧ ¬ (0x200 + 0x800 / 8 < 0x300) ∧
    (31 : Nat) < 32 ∧ (15 : Nat) < 16 ∧
    (let s := core.withDev (fun d => { d with hdm := [(.hpa, 0x100000)] })
     s.dev.hdm.find? (fun x => x.1 == Port.hpa) = some (Port.hpa, 0x100000) ∧ 0x100000 ≤ 0x100004 ∧ 0x100004 + 60 ≤ 0x100000 + 64 * Config.deviceLines ∧ (hdmAddr (0x100004 - 0x100000)).isSome = true ∧
      (0x100004 - 0x100000) % 64 + 60 ≤ 64 ∧ (List.replicate 60 (0 : Byte)).length = 60 ∧ s.dev.hdm.find? (fun x => x.1 == Port.hpb) = none) ∧
    (mwRange (BitVec.ofNat 64 (0x200000 + 1), 0x200000) = some (0x200000, 0x200000, false) ∧
      root.tenants.any (fun u => u.en && u.num != 1 && u.mws.any (fun w => mwRange w == some (0, 0x40000000, false))) = true) := by decide +kernel

/-- A tenant with a partition that does not exist yet; one being reset. -/
def partitioned : State := core.modTen 3 (fun t => { t with part0 := 2 })

theorem witness_ResetsAndDump :
    (core.dev.offered = []) ∧
    ((partitioned.ten 3).en = false ∧ (partitioned.ten 3).part0 ≠ 0 ∧ (partitioned.tenX 3).resetting = false ∧ partitioned.tenants.all (fun u => !u.en) = true ∧
      firstCluster (partitioned.ten 3) = some 1 ∧ freeRecords partitioned 0 1 = some [0] ∧ partitioned.strand? (.task 0 false) = none) ∧
    ((core.ten 31).en = false ∧ (core.ten 31).part0 = 0 ∧ (core.ten 31).part1 = 0) ∧
    root.tenants.any (fun u => u.en && u.num != 1 && u.vmid == 1 % 256) = true ∧ (root.ten 0).en = true ∧
    (let s := core.modTenX 3 (fun x => { x with resetting := true }); (s.tenX 3).resetting = true ∧ posting s 3 = false ∧ s.log = [] ∧ s.dev.posts = []) ∧
    ((127 : Nat) < 128 ∧ (root.cluster 0).resetting = false ∧ (root.tasks.map (·.tid)).Nodup ∧ (residents root 0).length = 1) ∧
    (let s0 := root.modCluster 0 (fun c => { c with resetting := true })
     let s := { s0 with cpu := { s0.cpu with resid := .off } }
     (s.cluster 0).resetting = true ∧
      someAnd (s.task? 0) (fun k => decide (s.tasks.filter (fun t => t.kind == .root && t.state == .running &&
          (match s.strand? (.task t.tid false) with | some x => x.resid == .off && x.cluster == 0 | none => false)) = [k]) &&
        decide (rootTask? s k.tenant = some k)) = true ∧ (s.strand? (.task 0 false)).isSome = true) ∧
    core.tenants.all (fun x => !x.en) = true ∧
    (let v : Word := BitVec.ofNat 64 (65536 * 2 ^ 32)
     core.dev.h.dump = none ∧ v.toNat / 2 ^ 17 % 2 ^ 15 = 0 ∧ v.toNat / 2 ^ 49 = 0 ∧ v.toNat / 2 ^ 32 % 2 ^ 17 = 65536) ∧
    (0 : Word).toNat / 2 ^ 32 % 2 ^ 17 = 0 ∧
    (let s := root.withH (fun h => { h with dump := some (0, 0, 1) })
     s.dev.h.dump = some (0, 0, 1) ∧ someAnd (s.task? (65536 * 0 + 0 + 0)) (fun k => decide (k.vane.group = 0)) = true) := by decide +kernel

theorem witness_ErrorEvents :
    ((let s := { root with log := [⟨.dev 0x5008, [1], none, 0, .strand, .plain, 0, none, []⟩] }; s.log.any (fun r => decide (r.vis ≠ .system) && overlaps r.loc r.bytes.length (.dev 0x5000) 64) = true)) ∧
    (let s := (root.withTrap (fun t => { t with tstatus := 1 })).modTen 0 (fun t => { t with tie := 3, tipSoft := true })
     someAnd (rootTask? s 0) (fun t => decide (s.task? t.tid = some t) && decide (s.strand? (.task t.tid false) = some s.cpu)) = true ∧ s.cpu.resid = .on ∧
      s.cpu.wait = none ∧ s.cpu.trap.tstatus.getLsbD 0 = true ∧ (List.range 2).any (fun b => (tipBits (s.ten 0)).testBit b && (s.ten 0).tie.getLsbD b) = true) ∧
    (let s0 := pairA.waitFor (.queue 1 (2 ^ 24))
     let s := { s0 with others := s0.others.map (fun (x : Strand) => { x with wait := some (.queue 2 (2 ^ 24)) }) }
     s.strand? (.task 0 false) = some s.cpu ∧ s.cpu.resid = .on ∧ s.cpu.wait = some (.queue 1 (2 ^ 24)) ∧
      someAnd (s.strand? (.task 0 true)) (fun y => decide (y.wait = some (.queue 2 (2 ^ 24))) && decide (y.resid = .on)) = true) ∧
    (let s := bound (merging .opened false)
     s.strand? (.task 0 false) = some s.cpu ∧ s.cpu.ext.merge = some (merging .opened false)) ∧
    someAnd (launched.task? 0) (fun k => decide (k.kind ≠ .root) && decide (k.gang = none)) = true ∧
    (let e : ErrEnt := ⟨7, 1, 0, 0, 0, 0, 0, 0⟩
     let go (b : Word) (ws : List PWrite) : State := (root.modTen 0 (fun t => { t with errb := b })).withDev (fun d => { d with posts := [⟨ws, 0, none⟩] })
     (go 0x4003 [.ring 0 e [(.dev 0x5000, 64)], .message 0]).dev.posts[0]? = some ⟨[.ring 0 e [(.dev 0x5000, 64)], .message 0], 0, none⟩ ∧ root.log = [] ∧
      overlaps (.dev 0x5008) 1 (.dev 0x5000) 64 = true ∧
      ((go 0x4003 []).ten 0).errb.toNat % 2 ^ 57 / 64 * 64 = 0x4000 ∧ ((go 0 []).ten 0).errb.toNat % 2 ^ 57 / 64 * 64 = 0 ∧
      someAnd (rootCtx (go 0x4003 []) 0) (fun c => okAnd (machineLoc (go 0x4003 []) c.above 0x4000 true) (fun r => decide (r.1 = .dev 0x4000) && decide (r.2.dev.posts = (go 0x4003 []).dev.posts))) = true ∧
      (go 0x4003 [.count 0]).dev.posts[0]? = some ⟨[.count 0], 0, none⟩) := by decide +kernel

/-- An AMO of the dword at 0x4000 that a strand has gone past. -/
def pastAmo : PAmo := { ord := 1, reg := some 5, op := ⟨0, .d, .rlx, 5, 6, 7⟩, loc := .dev 0x4000, va := 0x4000, v := 1, cmp := 0 }

/-- A value with a read of 0x4000 outstanding, into its first element. -/
def awaited : VVal := { VVal.zero with landed := 0xFE, pend := [⟨.bits, 0, 32, .dev 0x4000, 0, 1, 2 ^ 32 - 1⟩] }

theorem witness_ReadsAndLanding :
    (({ root.cpu.mem with vfas := [⟨1, some 31, 0, .dev 0x4000, 0x4000, [(0, 0)]⟩] } : MemSt).fasHolds 31 0 = true) ∧
    (let s := withV root [(31, awaited)]
     s.strand? (.task 0 false) = some s.cpu ∧ valueAt s s.cpu 31 = some awaited ∧ (31 : Nat) < 100 ∧
      s.cpu.mem.fasHolds 31 0 = false ∧ someAnd awaited.pend[0]? (fun r => !olderRead s s.cpu awaited.pend 0 r && decide (r.pos + r.width ≤ 8192) && decide (r.dst = .bits)) = true ∧
      poisonedVec s s.cpu 1 (.dev 0x4000) 4 = false ∧ poisonedVec { s with poison := [0x4000] } s.cpu 1 (.dev 0x4000) 4 = true ∧
      awaited.pend.any (fun r => decide (r.dst = .bits) && decide (r.pos / 1024 = 0)) = true ∧ awaited.pend.all (fun r => decide (r.pos / 1024 ≠ 7)) = true) ∧
    (let go (reg : Option SReg) : State := root.withMem (fun m => { m with loads := [⟨reg, .dev 0x4000, 8, false, 3⟩] })
     (go (some 31)).strand? (.task 0 false) = some (go (some 31)).cpu ∧ (go none).cpu.mem.loads[0]? = some ⟨none, .dev 0x4000, 8, false, 3⟩ ∧
      (go (some 31)).cpu.mem.heldRead 3 (.dev 0x4000) 8 = false ∧
      ((go none).withMem (fun m => { m with amos := [pastAmo] })).cpu.mem.heldRead 3 (.dev 0x4000) 8 = true) ∧
    (let r : PendRead := ⟨.bits, 0, 32, .dev 0x4008, 0, 1, 2 ^ 32 - 1⟩
     let s := root.withMem (fun m => { m with sv := some ⟨0x4000, 1, [r], 0, none⟩ })
     s.cpu.mem.sv = some ⟨0x4000, 1, [r], 0, none⟩ ∧ olderRead s s.cpu [r] 0 r = false ∧ poisonedVec s s.cpu 1 (.dev 0x4008) 4 = false) := by decide +kernel

/-- The root task with one element of a train, supplied. -/
def training (op : ElemOp) : State := root.withMem (fun m => { m with trains := [⟨7, true, none, [⟨0, .dev 0x4000, [0, 0, 128, 63], [255, 255, 255, 255], true, op, none, false⟩]⟩] })

theorem witness_WritesEnter :
    (root.withMem (fun m => { m with pob := [⟨.dev 0x4000, [1], 0, none, false⟩] })).cpu.mem.pob = ⟨.dev 0x4000, [1], 0, none, false⟩ :: [] ∧
    (⟨.dev 0x4000, [1], 0, some 4, false⟩ : SEnt).src.isSome = true ∧
    storing.cpu.mem.ssb = ⟨.dev 0x4000, [1], 0, none, false⟩ :: [] ∧ storing.cpu.mem.heldStore ⟨.dev 0x4000, [1], 0, none, false⟩ = false ∧
    (storing.withMem (fun m => { m with amos := [{ pastAmo with ord := 0 }] })).cpu.mem.heldStore ⟨.dev 0x4000, [1], 1, none, false⟩ = true ∧
    someAnd (enterable (training .store) (.task 0 false) 7 0) (fun r => decide (r.2.2.op = .store) && decide (r.2.2.mask = List.replicate r.2.2.data.length 0xFF)) = true ∧
    someAnd (enterable (training (.add 0)) (.task 0 false) 7 0) (fun r => decide (r.2.2.op = .add 0) && atomicReady (training (.add 0)) r.1 r.2.1.id r.2.2.loc 4 &&
      stored (training (.add 0)) r.2.2.loc && decide ((memAddBytes 0 (lastBytes (training (.add 0)) r.2.2.loc 4) r.2.2.data).length = 4)) = true ∧
    (let w (v : Scope) : WRec := ⟨.dev 0x4000, [1], some (.task 0 false), 0, v, .plain, 0, none, []⟩
     (let s := { root with log := [w .strand] }; s.log[0]? = some (w .strand) ∧ mayWiden s 0 (w .strand) = true) ∧
     (let s := { root with log := [w .system] }; mayWiden s 0 (w .system) = false) ∧ (w .die).vis.code < (maxVis (w .die).loc).code) := by decide +kernel

theorem witness_WaitsEnd :
    (let at_ (w : Wait) : State := root.waitFor w
     [Wait.fence .acq .strand, .fence .sc .system, .vdrain .die, .rfence, .bar .l5, .settle (some 1) false, .settle (some 1) true, .settle none true, .settle none false,
       .vfas 1 2 3, .amo ⟨0, .d, .rlx, 1, 2, 3⟩].all (fun w => decide ((at_ w).strand? (.task 0 false) = some (at_ w).cpu) && decide ((at_ w).cpu.resid = .on)) = true) ∧
    vectorDone root root.cpu .die none = true ∧ openFence root root.cpu = none ∧ pastReady root root.cpu 7 = none ∧ pastFas root root.cpu 7 = none ∧ issues root 0 = true ∧
    issues (root.modCluster 0 (fun k => { k with switching := true })) 0 = false ∧
    (let s := root.withMem (fun m => { m with fences := [⟨3, false, .device⟩] }); openFence s s.cpu = some ⟨3, false, .device⟩) ∧
    (root.cpu.mem.draining root.dev.nextUid = false ∧ root.cpu.mem.loads = [] ∧ root.cpu.mem.amos = []) ∧ anyHoles root = false ∧ faultedRegs root = [] ∧ isTask root = true ∧ addable root (.task 0 false) 7 0 = none ∧
    (let s := (withS armed [(1, 0)]).waitFor (.mwait 2 1)
     s.cpu.wait = some (.mwait 2 1) ∧ readable s [1] (some 2) = some [0] ∧ s.cpu.ext.monitor = some 0x4000 ∧
      okAnd (checkAccess (readAnew s) 0x4000 8 true false) (fun k => plainAt 8 k && decide ((0 : Word).toNat ≤ leNat (scalarBytes k.s k.s.cpu k.loc 8))) = true) ∧
    (let s := root.withExt (fun e => { e with barIssued := [barIssuedCode 5] })
     s.strand? (.task 0 false) = some s.cpu ∧ (5 : Nat) < 6 ∧ s.cpu.ext.barIssued = [barIssuedCode 5] ∧ scalarDone s s.cpu .device none = true ∧ vectorDone s s.cpu .device none = true) ∧
    scalarDone storing storing.cpu .device none = false := by decide +kernel

theorem witness_ThawThreads :
    (let s := root.modCluster 0 (fun c => { c with div := [entry] })
     (3 : Nat) < 4 ∧ s.strand? (.thaw 0 3) = none ∧ issues s 0 = true ∧ (s.cluster 0).div.find? DivEntry.ready = some entry ∧ (builtin entry).isSome = true ∧
      s.strand? entry.strand = some root.cpu ∧ entry.dst = .reg 1) ∧
    (let s := { root.modCluster 0 (fun c => { c with div := [entry] }) with others := { Strand.start (.thaw 0 1) 0 0 0 .u with serves := some 1, resid := .off } :: root.others }
     s.cpu.id ≠ .thaw 0 1 ∧ someAnd (s.strand? (.thaw 0 1)) (fun x => x.resid == .off && x.serves == some entry.id) = true ∧ (s.cluster 0).div = [entry] ∧
      (builtin entry).isSome = true ∧ s.strand? entry.strand = some s.cpu ∧ entry.strand ≠ .thaw 0 1 ∧ entry.live = 2 ^ fmtWidth entry.dfmt - 1) ∧
    (let e := { entry with app := some ⟨0, 0x8000, 0, 0, 0, [], 0x9000⟩ }
     let s := root.modCluster 0 (fun c => { c with div := [e] })
     (s.cluster 0).div.find? DivEntry.ready = some e ∧ builtin e = none) ∧
    (root.cluster 0).div.find? DivEntry.ready = none ∧
    (thaw.strand? (.thaw 0 0) = some thaw.cpu ∧ thaw.cpu.serves = some 1 ∧ thaw.cpu.ctl.cycle.toNat < 2 ^ 20 ∧
      2 ^ 20 ≤ (thaw.withCtl (fun c => { c with cycle := 0x100000 })).cpu.ctl.cycle.toNat) := by decide +kernel

theorem witness_DecodeOfEncode : WellFormed (.mmasp 7 31 15 false 0) = true ∧ (Instr.mmasp 7 31 15 false 0).encoded = true := by decide

theorem witness_EncodeOfDecode : decode 0x3E311149 = .ok (.amoCas 3 2 4 .acq .d) := by decide

theorem witness_StepRunsDecoded :
    (root.stales = [] ∧ someAnd (root.strand? .mgmt) (fun x => x.resid == .on) = true ∧ root.strand? (.task 9 false) = none) ∧
    (let s := placeWord root 0x06308A00
     s.agenda = [] ∧ s.cpu.resid = .on ∧ issues s s.cpu.cluster = true ∧ s.cpu.wait = none ∧ interruptDue s s.cpu = none ∧ okAnd (checkFetch s) (fun k => decide ((fetchWord k).1 = 0x06308A00)) = true) ∧
    decode 0x06308A00 = .ok (.add 3 1 2 true) ∧ (decode 0).isOk = false ∧
    ({ core with agenda := [.event .mtickTick] }.agenda = .event .mtickTick :: [] ∧ Late.mtickTick.encoded = false ∧ onlyEffect .mtickTick = false) ∧
    ({ root with agenda := [.issue .mgmt] }.agenda = .issue .mgmt :: [] ∧ (root.strand? .mgmt).isSome = true) := by decide +kernel

/-- The outcome is a next state. -/
def isNext (o : Out) : Bool := match o with | .next _ => true | _ => false

theorem witness_StepKeepsMemory : MemInv root ∧ isNext (step (placeWord root 0x04000000)) = true ∧
    isNext (exec (.nop) root) = true := ⟨⟨by decide +kernel, by decide +kernel, by decide +kernel⟩, by decide +kernel, by decide +kernel⟩

theorem witness_RegisterFrame : integerForm (.add 3 1 2 true) = some ([1, 2], 3) ∧ floatForm (.ffma 3 1 2 1 .f64) = some ([1, 2, 1], 3) ∧
    WellFormed (.add 3 1 2 true) = true ∧ (readable root [1, 2] (some 3)).isSome = true ∧ root.cpu.ctl.lp0.lc = 0 ∧ root.cpu.ctl.lp1.lc = 0 := by decide +kernel

theorem witness_VectorFrame :
    let s := (handled vroot)
    chainRow (.vadd 3 1 (.vec 2)) = some ⟨.arith 0, 3, 1, .vec 2, 0, none⟩ ∧ isTask s = true ∧ s.cpu.trap.tstatus.getLsbD 4 = false ∧ tvecOf s s.cpu ≠ 0 ∧
    isNext (exec (.vadd 3 1 (.vec 2)) s) = true := by decide +kernel

theorem witness_LevelTraps : (atU root).cpu.ctl.level = .u ∧ isTask (atU root) = true ∧ root.cpu.ctl.level = .k ∧ root.cpu.ctl.level ≠ .m ∧ isTask core = false ∧
    (chainRow (.vneg 1 2)).isSome = true := by decide +kernel

/-! ## One step, against the spec's examples and hand calculation -/

/-- A scalar register, the flags, the pc, a CSR-like field and a byte after an outcome. -/
def sAfter (o : Out) (r : SReg) : Option Word := match o with | .next t => some (sreg t r) | _ => none
def flAfter (o : Out) : Option (BitVec 6) := match o with | .next t => some t.cpu.ctl.fflags | _ => none
def pcAfter (o : Out) : Option Word := match o with | .next t => some t.cpu.ctl.pc | _ => none
def vlAfter (o : Out) : Option Nat := match o with | .next t => some t.cpu.ctl.vl | _ => none
def elAfter (o : Out) (r : VReg) (w i : Nat) : Option Nat := match o with | .next t => some ((vreg t r).el w i) | _ => none
def mAfter (o : Out) (r : MReg) : Option Nat := match o with | .next t => some (mreg t r).toNat | _ => none
def seenAfter (o : Out) (pa : Nat) : Option Byte := match o with | .next t => some (byteSeen t (.dev pa)) | _ => none
def causeAfter (o : Out) : Option (Word × Word × Word) := match o with | .next t => some (t.cpu.trap.tcause, t.cpu.trap.tval, t.cpu.trap.tepc) | _ => none

/-- Hand calculation from R107: the sum wraps in 32 bits and is sign-extended. -/
theorem test_add_w_wraps : sAfter (exec (.add 3 1 2 true) (withS root [(1, 0x17FFFFFFF), (2, 1)])) 3 = some 0xFFFFFFFF80000000 := by decide +kernel
/-- R25: s0 reads zero. -/
theorem test_add_s0 : sAfter (exec (.addi 0 1 5) (withS root [(1, 7)])) 0 = some 0 := by decide +kernel
/-- R108: `div.w` of a negative number by zero gives the least integer. -/
theorem test_div_w_by_zero : sAfter (exec (.div 3 1 2 true) (withS root [(1, 0x80000000)])) 3 = some 0xFFFFFFFF80000000 := by decide +kernel
/-- R108: the remainder takes the dividend's sign. -/
theorem test_rem_sign : sAfter (exec (.rem 3 1 2 false) (withS root [(1, 0xFFFFFFFFFFFFFFF9), (2, 2)])) 3 = some 0xFFFFFFFFFFFFFFFF := by decide +kernel
theorem test_mulh : sAfter (exec (.mulh 3 1 2 false) (withS root [(1, 0xFFFFFFFFFFFFFFFF), (2, 2)])) 3 = some 0xFFFFFFFFFFFFFFFF := by decide +kernel
/-- R107: a shift amount is taken modulo the width. -/
theorem test_sll_count : sAfter (exec (.sll 3 1 2 false) (withS root [(1, 3), (2, 65)])) 3 = some 6 := by decide +kernel
/-- R110: the immediate of `sltiu` is sign-extended, that of `ori` zero-extended. -/
theorem test_sltiu : sAfter (exec (.sltiu 3 1 0x7FFF) (withS root [(1, 5)])) 3 = some 1 := by decide +kernel
theorem test_ori : sAfter (exec (.ori 3 1 0x7FFF) root) 3 = some 0x7FFF := by decide +kernel
/-- The example of section 5: field 4, length 8. -/
theorem test_bext : sAfter (exec (.bext 3 1 2 false) (withS root [(1, 0xABCD), (2, 0x804)])) 3 = some 0xBC := by decide +kernel
theorem test_bins : sAfter (exec (.bins 3 1 2 false) (withS root [(1, 0x12), (2, 0x804), (3, 0xFFFF)])) 3 = some 0xF12F := by decide +kernel
/-- R112: a field that is clipped to nothing. -/
theorem test_bext_clipped : sAfter (exec (.bext 3 1 2 true) (withS root [(1, 0xABCD), (2, 0x820)])) 3 = some 0 := by decide +kernel
theorem test_bswap_w : sAfter (exec (.bswap 3 1 true) (withS root [(1, 0x01020380)])) 3 = some 0xFFFFFFFF80030201 := by decide +kernel
/-- The example of R119: FP32 2^31 to INT32 saturates and raises NV. -/
theorem test_fcvt_saturates :
    sAfter (exec (.fcvtIF 3 1 .f32 .i32) (withS root [(1, 0x4F000000)])) 3 = some 0x7FFFFFFF ∧
    flAfter (exec (.fcvtIF 3 1 .f32 .i32) (withS root [(1, 0x4F000000)])) = some Flags.nv := by decide +kernel
/-- Hand calculation: 1 + 2^−24 is a tie, and goes to even. -/
theorem test_fadd_tie : sAfter (exec (.fadd 3 1 2 .f32) (withS root [(1, 0x3F800000), (2, 0x33800000)])) 3 = some 0x3F800000 := by decide +kernel
/-- Examples of section 4: FP32 0.1 to E4M3, and 465 to E4M3 in RNE. -/
theorem test_e4m3 : convElem 0x00 0x05 0 false false 0x3DCCCCCD .none = (0x1D, .nx) ∧ convElem 0x00 0x05 0 true false 0x43E88000 .none = (0x7E, .ofl ||| .nx) := by decide +kernel
/-- R121: a branch taken back 12 bytes (Table 3.13), and one not taken. -/
theorem test_beq : pcAfter (exec (.beq 1 2 0x7FFD) root) = some 0xFFF4 ∧ pcAfter (exec (.bne 1 2 0x7FFD) root) = some 0x10004 := by decide +kernel
/-- R122: `jalr` to an address that is no multiple of 4 raises ALN with it; with no handler the root task restarts (R428). -/
theorem test_jalr_misaligned : causeAfter (exec (.jalr 3 1 2) (handled (withS root [(1, 0x4000)]))) = some (3, 0x4002, 0x10000) := by decide +kernel
/-- R124: a `loop` of count 0 skips its body. -/
theorem test_loop_zero : pcAfter (exec (.loop 0 1 4) root) = some 0x10014 := by decide +kernel
/-- Table 5.8: `trap 5` traps after itself. -/
theorem test_trap : causeAfter (exec (.trap 5) (handled root)) = some (0x0B, 5, 0x10004) ∧ pcAfter (exec (.trap 5) (handled root)) = some 0x20000 := by decide +kernel
/-- R72: `tret` below K. -/
theorem test_tret_at_u : causeAfter (exec .tret (handled (atU root))) = some (4, 0x04000800, 0x10000) := by decide +kernel
/-- R132: `ld.w` sign-extends, and `st.b` stores one byte. -/
theorem test_ld_w : sAfter (exec (.ldW 3 1 1) (withBytes (withS root [(1, 0x4000)]) 0x4004 [1, 2, 3, 0x80])) 3 = some 0xFFFFFFFF80030201 := by decide +kernel
theorem test_st_b : seenAfter (exec (.stB 3 1 0xFFF) (withS root [(1, 0x4001), (3, 0x1FF)])) 0x4000 = some 0xFF ∧
    seenAfter (exec (.stB 3 1 0xFFF) (withS root [(1, 0x4001), (3, 0x1FF)])) 0x4001 = some 0 := by decide +kernel
/-- R257: a `cas` that finds another value stores nothing and returns it. -/
theorem test_cas_fails :
    sAfter (exec (.amoCas 3 1 2 .rlx .w) (withBytes (withS root [(1, 0x4000), (2, 9), (3, 4)]) 0x4000 [5])) 3 = some 5 ∧
    seenAfter (exec (.amoCas 3 1 2 .rlx .w) (withBytes (withS root [(1, 0x4000), (2, 9), (3, 4)]) 0x4000 [5])) 0x4000 = some 5 := by decide +kernel
theorem test_amo_min : seenAfter (exec (.amoMin 3 1 2 .rlx .w) (withBytes (withS root [(1, 0x4000), (2, 0xFFFFFFFF)]) 0x4000 [5])) 0x4000 = some 0xFF := by decide +kernel
/-- R143: a request above VLMAX is granted VLMAX, 256 elements of FP32. -/
theorem test_setvl_grant : vlAfter (exec (.setvl 3 1) (withS root [(1, 1000)])) = some 256 := by decide +kernel
/-- Hand calculation: 1 + 2, and an element at VL or above is undisturbed. -/
theorem test_vadd : elAfter (exec (.vadd 3 1 (.vec 2)) (withVl (withV vroot [(3, vec 0 [7, 7, 7])]) 0 2)) 3 32 1 = some 0x40400000 ∧
    elAfter (exec (.vadd 3 1 (.vec 2)) (withVl (withV vroot [(3, vec 0 [7, 7, 7])]) 0 2)) 3 32 2 = some 7 := by decide +kernel
/-- The example of section 6: 1.0 and four times 2^−24, as a tree and as a scan. -/
def tiny : State := withVl (withV root [(1, vec 0 [0x3F800000, 0x33800000, 0x33800000, 0x33800000, 0x33800000])]) 0 5
theorem test_vred_tree : elAfter (exec (.vredSum 3 1) tiny) 3 32 0 = some 0x3F800001 := by decide +kernel
theorem test_vscan : elAfter (exec (.vscanSum 3 1) tiny) 3 32 4 = some 0x3F800000 ∧ flAfter (exec (.vscanSum 3 1) tiny) = some Flags.nx := by decide +kernel
/-- R152: a compare with a NaN is false for `lt`, true for `un`. -/
theorem test_vcmp_nan :
    mAfter (exec (.vcmpLt 1 1 (.vec 2)) (withV vroot [(1, vec 0 [0x7FC00000, 0x3F800000])])) 1 = some 2 ∧
    mAfter (exec (.vcmpUn 1 1 (.vec 2)) (withV vroot [(1, vec 0 [0x7FC00000, 0x3F800000])])) 1 = some 1 := by decide +kernel
/-- R159: zip interleaves. -/
theorem test_vzip : elAfter (exec (.vzip 3 1 2) (withVl vroot 0 4)) 3 32 3 = some 0x40000000 := by decide +kernel
/-- R207: a dense product of 1 and 1 in FP32. -/
theorem test_mma :
    (match exec (.mma 0 8 2 true 0) { tiled with tasks := tiled.tasks.map (fun t => { t with spad := [(2, 0x80), (3, 0x3F)] }) } with
      | .next t => (accOf t 0).el 0 0 | _ => 0) = 0x3F800000 := by decide +kernel
/-- R227: `svadd` keeps the union, `svmul` the intersection. -/
theorem test_svadd : (match exec (.svadd 3 1 2) sparse with | .next t => (svreg t 3).pairs | _ => []) = [(1, 0x3F800000), (5, 0x40400000)] := by decide +kernel
theorem test_svmul : (match exec (.svmul 3 1 2) sparse with | .next t => (svreg t 3).pairs | _ => []) = [(5, 0x40000000)] := by decide +kernel
/-- R237: a push to a row past the last one answers 2. -/
theorem test_mgpush_row : sAfter (exec (.mgpush 4 1 3 0) (bound (merging .opened false))) 4 = some 2 := by decide +kernel
/-- R300: the first copy has id 1. -/
theorem test_cpgo_id : sAfter (exec (.cpgo 6 1) copying) 6 = some 1 := by decide +kernel
/-- Table 14.4: a reserved word that is not zero is code 1. -/
theorem test_cpgo_code : sAfter (exec (.cpgo 6 1) (withBytes copying 0x8038 [1])) 6 = some 0x8000000000000001 := by decide +kernel
/-- R337: the first launch has id 1. -/
theorem test_launch_id : sAfter (exec (.launch 2 1) (withS root [(1, 0xA000)])) 2 = some 1 := by decide +kernel
/-- R351: the list holds 32 entries; one more takes cause 0x0E with the frame. -/
theorem test_spawn_full : causeAfter (exec (.spawn 1 2) (handled (spawning 32))) = some (0x0E, 0x4000, 0x10000) := by decide +kernel
/-- R375: an armed edge at which the member is the end it points at. -/
theorem test_vane_rd : sAfter (exec (.vaneRd 8 4) (member true)) 8 = some 0x3000100000001 := by decide +kernel
/-- R113: CYCLE and VL are read, and a write of a read-only number is ILL. -/
theorem test_csrr_vl : sAfter (exec (.csrr 7 1) vroot) 7 = some 2 := by decide +kernel
theorem test_csrw_readonly : (causeAfter (exec (.csrw 7 1 1) (handled root))).map (·.1) = some 1 := by decide +kernel
/-- R389: the watchdog expires after 10 ms. -/
theorem test_watchdog : (match exec .watchdogExpire (core.withM (fun m => { m with wdogUs := 9999 })) with | .next t => t.dev.m.wdogExpired | _ => true) = false := by
  decide +kernel
/-- The step fetches the word, runs it, and goes on. -/
theorem test_step : (match step (root.withFetchWord 32 0x06308A00) with | .next t => t.cpu.ctl.pc | _ => 0) = 0x10004 := by decide +kernel
theorem test_step_from_reset : (match step (State.reset.withFetchWord 32 0x04000000) with | .next t => t.cpu.ctl.pc | _ => 0) = 0x10004 := by decide +kernel
/-- The examples of section 4: π in BF16x3 and BF16x2. -/
theorem test_split : convElem 0x00 0x1E 0 false false 0x40490FDB .none = (0x40493A7D36300000, 0) ∧
    convElem 0x00 0x1D 0 false false 0x40490FDB .none = (0x40493A7E, Flags.nx) := by decide +kernel
/-- The example of section 4: 10, −3, 1.25 and 0.3 as one QX4 block. -/
theorem test_qx4 : (let q := quantBlock 0x0F 0 false (([0x41200000, 0xC0400000, 0x3FA00000, 0x3E99999A] ++ List.replicate 28 0).map (quantVal 0x00 false))
    (q.1.take 4, q.2.1, q.2.2)) = ([8, 15, 4, 1], 0x7E, 0x5A) := by decide +kernel

end Sys2Proof.Tests
end

section
/-! The family of chapter 01 of the spec: reset values and the system instructions (R29, R58, R135, R136, R440). -/

namespace Sys2Proof.Machine

/-! ## Strands -/

/-- The strand that has been focused is the cpu. -/
theorem State.focus_cpu_of_strand? {s : State} {t : StrandId} {x : Strand} (h : s.strand? t = some x) : (s.focus t).cpu = x := by
  unfold State.strand? at h
  unfold State.focus
  split at h
  · rename_i he
    rw [if_pos he]
    exact Option.some.inj h
  · rename_i he
    rw [if_neg he, h]

/-- A strand that is found has the name it was looked up by. -/
theorem State.id_of_strand? {s : State} {t : StrandId} {x : Strand} (h : s.strand? t = some x) : x.id = t := by
  unfold State.strand? at h
  split at h
  · rename_i he
    rw [← Option.some.inj h, he]
  · simpa using List.find?_some h

/-- A waiting strand whose cluster issues runs on with what its wait stands for. -/
theorem resumeWait_of_wait {s : State} {t : StrandId} {x : Strand} {p : Wait → Option (State → Out)} {w : Wait} {k : State → Out}
    (hx : s.strand? t = some x) (hw : x.wait = some w) (hk : p w = some k) (hr : x.resid = .on) (hi : issues s x.cluster = true) :
    resumeWait s t p = k (s.focus t) := by
  unfold resumeWait
  simp [hx, hw, hk, hr, hi]

/-! ## Gates that let an instruction go on -/

theorem needLevel_of_le {s : State} {l : Lvl} (w : Nat) (k : Out) (h : l.rank ≤ s.cpu.ctl.level.rank) : needLevel s w l k = k :=
  if_neg (Nat.not_lt.mpr h)

theorem needLevel_of_lt {s : State} {l : Lvl} (w : Nat) (k : Out) (h : s.cpu.ctl.level.rank < l.rank) :
    needLevel s w l k = trap s Cause.prm (BitVec.ofNat 64 w) := if_pos h

theorem notThaw_of_ne {s : State} (w : Nat) (k : Out) (h : ∀ c n, s.cpu.id ≠ .thaw c n) : notThaw s w k = k := by
  unfold notThaw
  split
  · rename_i c n hc
    exact absurd hc (h c n)
  · rfl

/-- K is the lowest level but U. -/
theorem Lvl.k_le_of_ne_u {l : Lvl} (h : l ≠ .u) : Lvl.k.rank ≤ l.rank := by
  cases l with
  | u => exact absurd rfl h
  | k => decide
  | h => decide
  | m => decide

/-- M is the highest level. -/
theorem Lvl.lt_m_of_ne {l : Lvl} (h : l ≠ .m) : l.rank < Lvl.m.rank := by
  cases l with
  | m => exact absurd rfl h
  | u => decide
  | k => decide
  | h => decide

/-! ## Reset (R440) -/

theorem reset_ten (n : Nat) : State.reset.ten n = .fresh n := rfl
theorem reset_cluster (n : Nat) : State.reset.cluster n = .fresh n := rfl

/-- Device memory reads as zero after a cold reset. -/
theorem reset_lastBytes_dev (a : Nat) : lastBytes State.reset (.dev a) 1 = [0] := rfl

/-- Every scalar register is zero after a cold reset. -/
theorem reset_sreg (r : SReg) : sreg State.reset r = 0 := Vector.getElem_replicate ..

/-- Settles O52: each field is read off the reset state, and the memories list nothing. -/
theorem resetValues : Obligations.ResetValues :=
  ⟨rfl, rfl, rfl, rfl, rfl, rfl, rfl, rfl, rfl, rfl, rfl, reset_lastBytes_dev, fun tn => congrArg Tenant.en (reset_ten tn),
    fun c => by rw [reset_cluster]; exact ⟨rfl, rfl, rfl⟩, reset_sreg, reset_memInv⟩

/-! ## The mode word (R29, R135) -/

theorem mrOk_iff (v : Nat) : mrOk v = true ↔ v / 2 ^ 16 % 2 ^ 9 = 0 ∧ v / 1024 % 8 ≤ 5 ∧ v % 64 ≤ 0x25 := by
  simp [mrOk, and_assoc, Nat.lt_succ_iff]

/-- An image of 25 bits has no bits above bit 24. -/
theorem mrOk_iff_of_lt {v : Nat} (h : v < 2 ^ 25) : mrOk v = true ↔ v / 2 ^ 16 = 0 ∧ v / 1024 % 8 ≤ 5 ∧ v % 64 ≤ 0x25 := by
  rw [mrOk_iff, Nat.mod_eq_of_lt (by omega : v / 2 ^ 16 < 2 ^ 9)]

/-- Writing an image of 25 bits. -/
theorem setMr_toNat (s : State) (i : BitVec 25) : setMr s i.toNat = s.withCtl (fun c => { c with mr := i }) := by
  simp [setMr]

theorem encodeNat_mode (i : BitVec 25) : encodeNat (.mode i) = 0x02000000 + i.toNat :=
  congrArg (0x02000000 + ·) (Nat.mul_one _)

theorem execMode_eq (i : BitVec 25) (s : State) :
    (i.toNat / 2 ^ 16 = 0 ∧ i.toNat / 1024 % 8 ≤ 5 ∧ i.toNat % 64 ≤ 0x25 →
      execMode i s = .next (complete (s.withCtl (fun c => { c with mr := i })))) ∧
    (¬ (i.toNat / 2 ^ 16 = 0 ∧ i.toNat / 1024 % 8 ≤ 5 ∧ i.toNat % 64 ≤ 0x25) →
      execMode i s = .next (takeTrapAt s 0x01 (BitVec.ofNat 64 (0x02000000 + i.toNat)) s.cpu.ctl.pc)) := by
  rw [← mrOk_iff_of_lt i.isLt, ← setMr_toNat, ← encodeNat_mode]
  exact ⟨fun h => if_pos h, fun h => if_neg h⟩

theorem execMrWrite_eq (v : Word) (s : State) :
    (v.toNat / 2 ^ 16 % 2 ^ 9 = 0 ∧ v.toNat / 1024 % 8 ≤ 5 ∧ v.toNat % 64 ≤ 0x25 →
      execMrWrite v s = .next (complete (s.withCtl (fun c => { c with mr := v.setWidth 25 })))) ∧
    (¬ (v.toNat / 2 ^ 16 % 2 ^ 9 = 0 ∧ v.toNat / 1024 % 8 ≤ 5 ∧ v.toNat % 64 ≤ 0x25) →
      execMrWrite v s = .next (takeTrapAt s 0x01 v s.cpu.ctl.pc)) := by
  rw [← mrOk_iff, ← setMr_toNat, BitVec.toNat_setWidth]
  exact ⟨fun h => if_pos h, fun h => if_neg h⟩

/-! ## `trap`, `halt` and `wfi` (R136) -/

theorem execTrap_eq {s : State} (c : BitVec 10) (h : ∀ k n, s.cpu.id ≠ .thaw k n) :
    execTrap c s = .next (takeTrapAt (complete s) 0x0B (BitVec.ofNat 64 c.toNat) (complete s).cpu.ctl.pc) := by
  unfold execTrap
  rw [notThaw_of_ne _ _ h, BitVec.ofNat_toNat]
  rfl

/-- `halt` at M: it completes where an interrupt is pending, and else waits. -/
theorem execHalt_of_m {s : State} (h : s.cpu.ctl.level = .m) :
    execHalt s = if pendingFor s s.cpu then .next (complete s) else .next (s.waitFor .halt) :=
  needLevel_of_le _ _ (by rw [h])

/-- `wfi` at K or above: it completes where an interrupt is pending or where it had been pre-empted, and else waits. -/
theorem execWfi_of_ne_u {s : State} (ht : ∀ c k, s.cpu.id ≠ .thaw c k) (h : s.cpu.ctl.level ≠ .u) :
    execWfi s = if pendingFor s s.cpu || s.cpu.wait == some (.wfi true) then .next (complete s) else .next (s.waitFor (.wfi false)) := by
  unfold execWfi
  rw [notThaw_of_ne _ _ ht, needLevel_of_le _ _ (Lvl.k_le_of_ne_u h)]

theorem execHalt_below {s : State} (h : s.cpu.ctl.level ≠ .m) : execHalt s = .next (takeTrapAt s 0x04 0x04001000 s.cpu.ctl.pc) :=
  needLevel_of_lt _ _ (Lvl.lt_m_of_ne h)

theorem execWfi_of_u {s : State} (ht : ∀ c k, s.cpu.id ≠ .thaw c k) (h : s.cpu.ctl.level = .u) :
    execWfi s = .next (takeTrapAt s 0x04 0x04001400 s.cpu.ctl.pc) := by
  unfold execWfi
  rw [notThaw_of_ne _ _ ht, needLevel_of_lt _ _ (by rw [h]; decide)]
  rfl

/-- The wait of a `wfi` ends once an interrupt is pending. -/
theorem execWfiWake_of_pending {s : State} {t : StrandId} {x : Strand} {b : Bool} (hx : s.strand? t = some x) (hr : x.resid = .on)
    (hi : issues s x.cluster = true) (hp : pendingFor (s.focus t) (s.focus t).cpu = true) (hw : x.wait = some (.wfi b))
    (ht : ∀ c k, t ≠ .thaw c k) (hl : x.ctl.level ≠ .u) : execWfiWake t s = .next (complete (s.focus t)) := by
  have hc := State.focus_cpu_of_strand? hx
  rw [execWfiWake, resumeWait_of_wait hx hw rfl hr hi, execWfi_of_ne_u (by rwa [hc, State.id_of_strand? hx]) (by rwa [hc]), hp]
  rfl

/-- So does that of `halt`. -/
theorem execHaltWake_of_pending {s : State} {x : Strand} (hx : s.strand? .mgmt = some x) (hr : x.resid = .on)
    (hi : issues s x.cluster = true) (hp : pendingFor (s.focus .mgmt) (s.focus .mgmt).cpu = true) (hw : x.wait = some .halt)
    (hl : x.ctl.level = .m) : execHaltWake s = .next (complete (s.focus .mgmt)) := by
  have hc := State.focus_cpu_of_strand? hx
  rw [execHaltWake, resumeWait_of_wait hx hw rfl hr hi, execHalt_of_m (by rwa [hc]), hp]
  rfl

/-- Settles O10: by the equations of the meanings above, one for each instruction. -/
theorem systemInstructions : Obligations.SystemInstructions := by
  refine ⟨⟨fun s i => execMode_eq i s, fun s v => execMrWrite_eq v s, fun s => rfl⟩,
    ⟨fun s c h => execTrap_eq c h, fun s c => ?brk, fun s w => rfl⟩, fun s h => ⟨fun hp => ?_, fun hp => ?_⟩, fun s h => execHalt_below h,
    fun s ht h => ⟨fun hp => ?_, fun hw => ?_, fun hp hw => ?_⟩, fun s ht h => execWfi_of_u ht h, fun s t x hx hr hi hp => ⟨?_, ?_⟩⟩
  case brk =>
    rw [BitVec.ofNat_toNat]
    rfl
  · exact (execHalt_of_m h).trans (by rw [hp]; rfl)
  · exact (execHalt_of_m h).trans (by rw [hp]; rfl)
  · exact (execWfi_of_ne_u ht h).trans (by rw [hp]; rfl)
  · exact (execWfi_of_ne_u ht h).trans (by simp [hw])
  · exact (execWfi_of_ne_u ht h).trans (by simp [hp, hw])
  · rintro ⟨b, hw⟩ ht hl
    exact execWfiWake_of_pending hx hr hi hp hw ht hl
  · rintro hw rfl hl
    exact execHaltWake_of_pending hx hr hi hp hw hl

end Sys2Proof.Machine
end

section
/-! The CSR instructions (R30, R59, R98, R113): the checks in their order, and what a CSR instruction that passes them does. -/

namespace Sys2Proof.Machine

/-! ## The checks -/

/-- Whether the strand may read the ports among `rs` and write `d` (R17). -/
def portsOk (s : State) (rs : List SReg) (d : SReg) : Bool :=
  roleOf s s.cpu == .single || rs.all (mayRead (roleOf s s.cpu)) && mayWrite (roleOf s s.cpu) d

theorem portGate_of_portsOk {s : State} {rs : List SReg} {d : SReg} (w : Nat) (k : Out) (h : portsOk s rs d = true) :
    portGate s w rs (some d) k = k := by
  unfold portsOk at h
  exact portGate_of_may w k (by simpa using h)

theorem portGate_of_not_portsOk {s : State} {rs : List SReg} {d : SReg} (w : Nat) (k : Out) (h : portsOk s rs d = false) :
    portGate s w rs (some d) k = ill s w := by
  unfold portsOk at h
  unfold portGate
  rw [Bool.or_eq_false_iff] at h
  simp [bne, h]

/-- Operands that can be read name no port that the strand may not use. -/
theorem portsOk_of_readable {s : State} {rs : List SReg} {d : SReg} {vs : List Word} (h : readable s rs (some d) = some vs) :
    portsOk s rs d = true := by
  unfold readable at h
  unfold portsOk
  split at h
  · exact absurd h (by simp)
  · split at h
    · rename_i hr
      simp [hr]
    · split at h
      · rename_i hq
        simp only [Bool.and_eq_true, Option.all_some] at hq
        obtain ⟨⟨⟨hread, hwrite⟩, _⟩, _⟩ := hq
        simp [hread, hwrite]
      · exact absurd h (by simp)

theorem csrLevel_of_le {n : Nat} (h : n / 256 ≤ 3) : ∃ l, csrLevel n = some l ∧ l.rank = n / 256 := by
  unfold csrLevel
  generalize n / 256 = q at h
  interval_cases q
  · exact ⟨.u, rfl, rfl⟩
  · exact ⟨.k, rfl, rfl⟩
  · exact ⟨.h, rfl, rfl⟩
  · exact ⟨.m, rfl, rfl⟩

theorem csrLevel_of_gt {n : Nat} (h : 3 < n / 256) : csrLevel n = none := by
  obtain ⟨q, hq⟩ : ∃ q, n / 256 = q + 4 := ⟨n / 256 - 4, by omega⟩
  unfold csrLevel
  rw [hq]
  rfl

theorem Lvl.rank_le (l : Lvl) : l.rank ≤ 3 := by cases l <;> decide

theorem csrOp_isThaw_of_ne {i : StrandId} (h : ∀ c k, i ≠ .thaw c k) : csrOp.isThaw i = false := by
  cases i with
  | thaw c k => exact absurd rfl (h c k)
  | mgmt => rfl
  | task t e => rfl

/-- The sources of a CSR instruction. -/
def csrSrcs (op : CsrOp) (a : SReg) : List SReg := if op == .read then [] else [a]

section
variable {s : State} (word : Nat) (op : CsrOp) (d a : SReg) {n : CsrNum}
  (ht : ∀ c k, s.cpu.id ≠ .thaw c k) (hw : ∀ o e f m cs, s.cpu.wait ≠ some (.vdmap o e f m cs))

include hw in
/-- A port that the strand may not use that way: ILL, before any other check. -/
theorem csrOp_of_not_ports (hp : portsOk s (csrSrcs op a) d = false) : csrOp s word op d a n = ill s word := by
  unfold csrOp
  split
  · rename_i h
    exact absurd h (hw _ _ _ _ _)
  · exact portGate_of_not_portsOk _ _ hp

include hw in
/-- A number of no level: ILL. -/
theorem csrOp_of_no_level (hp : portsOk s (csrSrcs op a) d = true) (hl : 3 < n.toNat / 256) : csrOp s word op d a n = ill s word := by
  unfold csrOp
  split
  · rename_i h
    exact absurd h (hw _ _ _ _ _)
  · refine (portGate_of_portsOk word _ hp).trans ?_
    rw [csrLevel_of_gt hl]

include ht hw in
/-- A number above the strand's level: PRM, with the number. -/
theorem csrOp_of_above (hp : portsOk s (csrSrcs op a) d = true) (hl : n.toNat / 256 ≤ 3) (hr : s.cpu.ctl.level.rank < n.toNat / 256) :
    csrOp s word op d a n = trap s Cause.prm (BitVec.ofNat 64 n.toNat) := by
  obtain ⟨l, hl, hq⟩ := csrLevel_of_le hl
  unfold csrOp
  split
  · rename_i h
    exact absurd h (hw _ _ _ _ _)
  · refine (portGate_of_portsOk word _ hp).trans ?_
    simp [hl, hq, csrOp_isThaw_of_ne ht, hr]

include ht hw in
/-- An unassigned number at or below the level: ILL. -/
theorem csrOp_of_unassigned (hp : portsOk s (csrSrcs op a) d = true) (hr : n.toNat / 256 ≤ s.cpu.ctl.level.rank)
    (hn : csrAssigned n.toNat = false) : csrOp s word op d a n = ill s word := by
  obtain ⟨l, hl, hq⟩ := csrLevel_of_le (hr.trans (Lvl.rank_le _))
  unfold csrOp
  split
  · rename_i h
    exact absurd h (hw _ _ _ _ _)
  · refine (portGate_of_portsOk word _ hp).trans ?_
    simp [hl, hq, csrOp_isThaw_of_ne ht, Nat.not_lt.mpr hr, hn]

include ht hw in
/-- An assigned number at or below the level passes. -/
theorem csrOp_of_assigned (hp : portsOk s (csrSrcs op a) d = true) (hr : n.toNat / 256 ≤ s.cpu.ctl.level.rank)
    (hn : csrAssigned n.toNat = true) : csrOp s word op d a n = csrDo s word op d a n := by
  obtain ⟨l, hl, hq⟩ := csrLevel_of_le (hr.trans (Lvl.rank_le _))
  unfold csrOp
  split
  · rename_i h
    exact absurd h (hw _ _ _ _ _)
  · refine (portGate_of_portsOk word _ hp).trans ?_
    simp [hl, hq, csrOp_isThaw_of_ne ht, Nat.not_lt.mpr hr, hn]

include ht hw in
/-- The refusals of R17 and R30, in their order. -/
theorem csrOp_refusals :
    (portsOk s (csrSrcs op a) d = false → csrOp s word op d a n = ill s word) ∧
    (portsOk s (csrSrcs op a) d = true → n.toNat / 256 ≤ 3 → s.cpu.ctl.level.rank < n.toNat / 256 →
      csrOp s word op d a n = trap s Cause.prm (BitVec.ofNat 64 n.toNat)) ∧
    (portsOk s (csrSrcs op a) d = true → (3 < n.toNat / 256 ∨ n.toNat / 256 ≤ s.cpu.ctl.level.rank ∧ csrAssigned n.toNat = false) →
      csrOp s word op d a n = ill s word) := by
  refine ⟨csrOp_of_not_ports word op d a hw, csrOp_of_above word op d a ht hw, fun hp h => ?_⟩
  rcases h with h | ⟨h, hn⟩
  · exact csrOp_of_no_level word op d a hw hp h
  · exact csrOp_of_unassigned word op d a ht hw hp h hn

end

/-! ## What an instruction that passes them does -/

/-- FFLAGS stands: every earlier element of the strand is PRESENT or FAULTED (R98). -/
def flagsReady (s : State) (n : CsrNum) : Prop := n.toNat = 0x10 → divDone s s.cpu = true ∧ s.cpu.mem.alus = []

theorem flagsReady.no_wait {s : State} {n : CsrNum} (h : flagsReady s n) :
    (n.toNat == 0x10 && !(divDone s s.cpu && s.cpu.mem.alus.isEmpty)) = false := by
  by_cases hn : n.toNat = 0x10
  · obtain ⟨hd, ha⟩ := h hn
    simp [hd, ha]
  · simp [hn]

/-- What an instruction answers that writes v to register n and its old value to d: ILL where n is read-only or its map rejects v, and
else the write, where it is no warm reset and switches no regulator (R30, R59). -/
def writesCsr (s : State) (word : Nat) (d a : SReg) (n : CsrNum) (v : Word) (o : Out) : Prop :=
  (csrReadOnly n.toNat = true → o = ill s word) ∧
  (csrReadOnly n.toNat = false → csrRejects s.cpu n.toNat v = true → o = trap s Cause.ill v) ∧
  (csrReadOnly n.toNat = false → csrRejects s.cpu n.toNat v = false → (n.toNat ≠ 0x255 ∨ v ≠ 0x5752) →
    (0x220 ≤ n.toNat ∧ n.toNat ≤ 0x223 →
      switchesIn (csrRead s n.toNat).2 (csrPut (csrRead s n.toNat).2 n.toNat v) (n.toNat - 0x220) = []) →
    o = .next (retired (csrPut (csrRead s n.toNat).2 n.toNat v) [a] d (csrRead s n.toNat).1))

section
variable {s : State} (word : Nat) {d a : SReg} {n : CsrNum} (hf : flagsReady s n)

include hf in
/-- A read writes the register's value to d. -/
theorem csrDo_read (hr : readable s [] (some d) = some []) :
    csrDo s word .read d a n = .next (retired (csrRead s n.toNat).2 [] d (csrRead s n.toNat).1) := by
  unfold csrDo
  refine (readS_of_readable word _ hr).trans ?_
  rw [hf.no_wait]
  rfl

variable {x : Word} {op : CsrOp} (hop : op ≠ .read) (hr : readable s [a] (some d) = some [x])

include hf hop hr in
/-- The others, on an operand x. -/
theorem csrDo_write {v : Word} (hv : csrValue op (csrRead s n.toNat).1 x = v) : writesCsr s word d a n v (csrDo s word op d a n) := by
  have hb : (op == CsrOp.read) = false := beq_eq_false_iff_ne.mpr hop
  have hx : opd [x] 0 = x := rfl
  unfold csrDo writesCsr
  simp only [hb, Bool.false_eq_true, if_false]
  rw [readS_of_readable word _ hr]
  simp only [hf.no_wait, Bool.false_eq_true, if_false, hx, hv]
  refine ⟨fun h1 => if_pos h1, fun h1 h2 => ?_, fun h1 h2 h3 h4 => ?_⟩
  · rw [h1, h2]
    rfl
  · have hw : (n.toNat == 0x255 && decide (v = 0x5752)) = false := by
      rcases h3 with h3 | h3
      · simp [h3]
      · rw [decide_eq_false h3, Bool.and_false]
    have hs : (if 0x220 ≤ n.toNat && n.toNat ≤ 0x223 then
        switchesIn (csrRead s n.toNat).2 (csrPut (csrRead s n.toNat).2 n.toNat v) (n.toNat - 0x220) else []) = [] := by
      split
      · rename_i hn
        exact h4 (by simpa using hn)
      · rfl
    simp only [h1, h2, hw, Bool.false_eq_true, if_false, hs]
    rfl

end

/-- A read of an assigned number at or below the level. -/
theorem csrOp_read {s : State} (word : Nat) {d a : SReg} {n : CsrNum} (ht : ∀ c k, s.cpu.id ≠ .thaw c k)
    (hw : ∀ o e f m cs, s.cpu.wait ≠ some (.vdmap o e f m cs)) (hl : n.toNat / 256 ≤ s.cpu.ctl.level.rank)
    (hn : csrAssigned n.toNat = true) (hf : flagsReady s n) (hr : readable s [] (some d) = some []) :
    csrOp s word .read d a n = .next (retired (csrRead s n.toNat).2 [] d (csrRead s n.toNat).1) :=
  (csrOp_of_assigned word .read d a ht hw (portsOk_of_readable hr) hl hn).trans (csrDo_read word hf hr)

/-- A CSR instruction but a read, on an assigned number at or below the level. -/
theorem csrOp_write {s : State} (word : Nat) {op : CsrOp} {d a : SReg} {n : CsrNum} {x v : Word} (ht : ∀ c k, s.cpu.id ≠ .thaw c k)
    (hw : ∀ o e f m cs, s.cpu.wait ≠ some (.vdmap o e f m cs)) (hl : n.toNat / 256 ≤ s.cpu.ctl.level.rank)
    (hn : csrAssigned n.toNat = true) (hf : flagsReady s n) (hop : op ≠ .read) (hr : readable s [a] (some d) = some [x])
    (hv : csrValue op (csrRead s n.toNat).1 x = v) : writesCsr s word d a n v (csrOp s word op d a n) := by
  have hs : csrSrcs op a = [a] := if_neg (by simpa using hop)
  rw [csrOp_of_assigned word op d a ht hw (hs ▸ portsOk_of_readable hr) hl hn]
  exact csrDo_write word hf hop hr hv

/-! ## An access that waits on FFLAGS (R98) -/

theorem execFflagsAccess_of_wait {s : State} {t : StrandId} {x : Strand} {op : CsrOp} {d a : SReg} (hx : s.strand? t = some x)
    (hr : x.resid = .on) (hi : issues s x.cluster = true) (hw : x.wait = some (.csrFlags op d a 0x10)) :
    execFflagsAccess t s = csrAgain op d a 0x10 (s.focus t) := resumeWait_of_wait hx hw rfl hr hi

/-- Settles O15: the checks in their order, then what the instruction does with the register's value and its operand. -/
theorem csrResults : Obligations.CsrResults := by
  refine ⟨fun s d a n x ht hw hf => ⟨csrOp_refusals _ .read d 0 ht hw, csrOp_refusals _ .write d a ht hw, csrOp_refusals _ .set d a ht hw,
    csrOp_refusals _ .clear d a ht hw, fun hl hn => ⟨fun hr => ?_, fun hr => ⟨?_, ?_, ?_⟩⟩⟩, fun s t x op d a hx hr hi hw => ⟨?_, ?_⟩⟩
  · exact csrOp_read _ ht hw hl hn hf hr
  · exact csrOp_write _ ht hw hl hn hf nofun hr rfl
  · exact csrOp_write _ ht hw hl hn hf nofun hr rfl
  · exact csrOp_write _ ht hw hl hn hf nofun hr rfl
  · refine (execFflagsAccess_of_wait hx hr hi hw).trans ?_
    cases op <;> rfl
  · rintro rfl ht hd ha hrd
    have hc := State.focus_cpu_of_strand? hx
    refine (execFflagsAccess_of_wait hx hr hi hw).trans ?_
    refine (csrOp_read (n := 0x10) _ (by rwa [hc, State.id_of_strand? hx]) (by simp [hc, hw]) (Nat.zero_le _) (by decide)
      (fun _ => ⟨hd, by rw [hc, ha]⟩) hrd).trans ?_
    rw [BitVec.ofNat_toNat, ← hc]
    rfl

end Sys2Proof.Machine
end

section
/-! The end check, memory as a strand sees it, and the frame of an instruction that retires (R25, R125, R277). -/

namespace Sys2Proof.Machine

/-! ## The end check leaves -/

/-- The control registers that no end check changes. -/
def keptCtl (c c' : Ctl) : Prop :=
  c'.level = c.level ∧ c'.mr = c.mr ∧ c'.vstart = c.vstart ∧ c'.amoplace = c.amoplace ∧ c'.cycle = c.cycle ∧ c'.fflags = c.fflags

theorem keptCtl.refl (c : Ctl) : keptCtl c c := ⟨rfl, rfl, rfl, rfl, rfl, rfl⟩

theorem loopCheck_keptCtl (vlg n : Nat) (x : Word) (c : Ctl) : keptCtl c (loopCheck vlg n x c).1 := by
  unfold loopCheck
  by_cases hn : (n == 0) = true
  · simp only [hn, if_true]
    repeat' split
    all_goals exact .refl c
  · simp only [hn]
    repeat' split
    all_goals exact .refl c

theorem keptCtl.trans {a b c : Ctl} (h : keptCtl a b) (k : keptCtl b c) : keptCtl a c := by
  obtain ⟨h1, h2, h3, h4, h5, h6⟩ := h
  obtain ⟨k1, k2, k3, k4, k5, k6⟩ := k
  exact ⟨k1.trans h1, k2.trans h2, k3.trans h3, k4.trans h4, k5.trans h5, k6.trans h6⟩

theorem endCheck_keptCtl (vlg : Nat) (x : Word) (c : Ctl) : keptCtl c (endCheck vlg x c) := by
  have h0 := loopCheck_keptCtl vlg 0 x c
  unfold endCheck
  split
  · rename_i e
    rwa [e] at h0
  · rename_i c0 e
    rw [e] at h0
    have h1 := h0.trans (loopCheck_keptCtl vlg 1 x c0)
    split
    · rename_i e
      rwa [e] at h1
    · rename_i e
      rwa [e] at h1

/-- A loop whose count is 0 is no loop. -/
theorem loopCheck_of_idle {vlg n : Nat} {x : Word} {c : Ctl} (h0 : c.lp0.lc = 0) (h1 : c.lp1.lc = 0) :
    loopCheck vlg n x c = (c, none) := by
  unfold loopCheck
  by_cases hn : (n == 0) = true
  · simp [hn, h0]
  · simp [hn, h1]

/-- Without loops the strand goes on with the next word. -/
theorem endCheck_of_idle {vlg : Nat} {x : Word} {c : Ctl} (h0 : c.lp0.lc = 0) (h1 : c.lp1.lc = 0) :
    endCheck vlg x c = { c with pc := x + 4 } := by
  simp [endCheck, loopCheck_of_idle h0 h1]

/-! ## Memory as the strand sees it -/

/-- What a byte seen by the cpu depends on is the same in two states: the memories, the coherence order, the scratchpads, who the cpu is
and every strand's stores. -/
structure SameSight (s t : State) : Prop where
  memory : sameMemory s t
  dev : t.dev = s.dev
  clusters : t.clusters = s.clusters
  spads : ∀ n, (t.task? n).map (·.spad) = (s.task? n).map (·.spad)
  cpuId : t.cpu.id = s.cpu.id
  cpuServes : t.cpu.serves = s.cpu.serves
  cpuCluster : t.cpu.cluster = s.cpu.cluster
  cpuStores : t.cpu.mem.stores = s.cpu.mem.stores
  stores : ∀ u, (t.strand? u).map (·.mem.stores) = (s.strand? u).map (·.mem.stores)

theorem SameSight.refl (s : State) : SameSight s s := ⟨.rfl' s, rfl, rfl, fun _ => rfl, rfl, rfl, rfl, rfl, fun _ => rfl⟩

theorem SameSight.trans {a b c : State} (h : SameSight a b) (k : SameSight b c) : SameSight a c where
  memory := h.memory.trans' k.memory
  dev := k.dev.trans h.dev
  clusters := k.clusters.trans h.clusters
  spads n := (k.spads n).trans (h.spads n)
  cpuId := k.cpuId.trans h.cpuId
  cpuServes := k.cpuServes.trans h.cpuServes
  cpuCluster := k.cpuCluster.trans h.cpuCluster
  cpuStores := k.cpuStores.trans h.cpuStores
  stores u := (k.stores u).trans (h.stores u)

theorem SameSight.cluster {s t : State} (h : SameSight s t) (c : Nat) : t.cluster c = s.cluster c := by
  simp only [State.cluster, h.clusters]

theorem SameSight.vlgOf {s t : State} (h : SameSight s t) : vlgOf t = vlgOf s := by
  unfold Machine.vlgOf
  rw [h.cluster, h.cpuCluster]

theorem SameSight.actsFor {s t : State} (h : SameSight s t) : t.cpu.actsFor t = s.cpu.actsFor s := by
  unfold Strand.actsFor
  simp only [h.cpuId, h.cpuServes, h.cluster]

theorem SameSight.agent {s t : State} (h : SameSight s t) : t.cpu.agent t = s.cpu.agent s := by
  unfold Strand.agent
  rw [h.actsFor, h.cpuCluster]

theorem SameSight.memOf_stores {s t : State} (h : SameSight s t) : (memOf t t.cpu).stores = (memOf s s.cpu).stores := by
  unfold memOf
  rw [h.cpuId, h.actsFor]
  split
  · have e := h.stores (s.cpu.actsFor s)
    revert e
    cases t.strand? (s.cpu.actsFor s) with
    | none => cases s.strand? (s.cpu.actsFor s) with
      | none => exact fun _ => h.cpuStores
      | some y => exact nofun
    | some x => cases s.strand? (s.cpu.actsFor s) with
      | none => exact nofun
      | some y => exact Option.some.inj
  · exact h.cpuStores

theorem SameSight.baseByte {s t : State} (h : SameSight s t) (l : Loc) : baseByte t l = baseByte s l := by
  obtain ⟨hm, hh, hf, _, _⟩ := h.memory
  cases l with
  | dev a => simp only [Machine.baseByte, hm]
  | host a => simp only [Machine.baseByte, hh]
  | fw a => simp only [Machine.baseByte, hf]
  | spad n o =>
    have e := h.spads n
    revert e
    simp only [Machine.baseByte]
    cases t.task? n with
    | none => cases s.task? n with
      | none => exact fun _ => rfl
      | some y => exact nofun
    | some x => cases s.task? n with
      | none => exact nofun
      | some y => exact fun e => by simp [Option.some.inj e]
  | remote d w o => rfl
  | image a => simp only [Machine.baseByte, h.dev]

theorem SameSight.latest {s t : State} (h : SameSight s t) (p : WRec → Bool) (l : Loc) : latest p t l = latest p s l := by
  obtain ⟨_, _, _, hl, _⟩ := h.memory
  unfold Machine.latest
  rw [hl, h.baseByte]

/-- The cpu sees the same bytes. -/
theorem SameSight.byteSeen {s t : State} (h : SameSight s t) (l : Loc) : byteSeen t l = byteSeen s l := by
  unfold Machine.byteSeen scalarByte MemSt.ownByte MemSt.past
  rw [h.memOf_stores, h.cpuStores, h.agent, h.latest]

/-- A change of the cpu alone that keeps its name, its place and its stores. -/
theorem SameSight.ofCpu {s : State} {x : Strand} (hi : x.id = s.cpu.id) (hs : x.serves = s.cpu.serves) (hc : x.cluster = s.cpu.cluster)
    (hm : x.mem.stores = s.cpu.mem.stores) : SameSight s { s with cpu := x } where
  memory := ⟨rfl, rfl, rfl, rfl, rfl⟩
  dev := rfl
  clusters := rfl
  spads _ := rfl
  cpuId := hi
  cpuServes := hs
  cpuCluster := hc
  cpuStores := hm
  stores u := by
    unfold State.strand?
    simp only [hi]
    split
    · exact congrArg some hm
    · rfl

/-! ### Queues -/

/-- Looking for an element by what a change of one element keeps. -/
theorem find?_replaceFirst_map {α β : Type} {p q : α → Bool} {f : α → α} {g : α → β} (hq : ∀ x, q (f x) = q x) (hg : ∀ x, g (f x) = g x)
    (xs : List α) : ((replaceFirst p f xs).find? q).map g = (xs.find? q).map g := by
  induction xs with
  | nil => rfl
  | cons x xs ih =>
    unfold replaceFirst
    split
    · simp only [List.find?_cons, hq]
      cases q x with
      | true => exact congrArg some (hg x)
      | false => rfl
    · simp only [List.find?_cons]
      cases q x with
      | true => rfl
      | false => exact ih

/-- Looking for an element by what a change of every element keeps. -/
theorem find?_map_map {α β : Type} {q : α → Bool} {f : α → α} {g : α → β} (hq : ∀ x, q (f x) = q x) (hg : ∀ x, g (f x) = g x)
    (xs : List α) : ((xs.map f).find? q).map g = (xs.find? q).map g := by
  have hq : q ∘ f = q := funext hq
  have hg : g ∘ f = g := funext hg
  rw [List.find?_map, hq, Option.map_map, hg]

/-- What reads made early are forgotten, the stores stay. -/
theorem MemSt.forget_stores (m : MemSt) (p : EarlyRd → Bool) : (m.forget p).stores = m.stores := by
  unfold MemSt.forget
  split <;> rfl

theorem modTask_sameSight (s : State) (n : Nat) (f : Queues → Queues) :
    SameSight s (s.modTask n (fun t => { t with queues := f t.queues })) where
  memory := ⟨rfl, rfl, rfl, rfl, rfl⟩
  dev := rfl
  clusters := rfl
  spads _ := find?_replaceFirst_map (f := fun t => { t with queues := f t.queues }) (fun _ => rfl) (fun _ => rfl) s.tasks
  cpuId := rfl
  cpuServes := rfl
  cpuCluster := rfl
  cpuStores := rfl
  stores _ := rfl

theorem partnerAnew_sameSight (s : State) : SameSight s (partnerAnew s) where
  memory := ⟨rfl, rfl, rfl, rfl, rfl⟩
  dev := rfl
  clusters := rfl
  spads _ := rfl
  cpuId := rfl
  cpuServes := rfl
  cpuCluster := rfl
  cpuStores := rfl
  stores u := by
    unfold State.strand? partnerAnew
    simp only
    split
    · rfl
    · refine find?_map_map (fun x => ?_) (fun x => ?_) _
      · split <;> rfl
      · split
        · exact x.mem.forget_stores _
        · rfl

theorem modQueues_sameSight (s : State) (f : Queues → Queues) : SameSight s (modQueues s f) := by
  unfold modQueues
  split
  · exact (modTask_sameSight s _ f).trans (partnerAnew_sameSight _)
  · exact .refl s

/-- Popping ports changes the queues alone. -/
theorem popPorts_sameSight (s : State) (rs : List SReg) : SameSight s (popPorts s rs) := by
  unfold popPorts
  split
  · exact .refl s
  · refine List.foldlRecOn rs _ (SameSight.refl s) (fun t ht r _ => ?_)
    split
    · exact ht.trans (modQueues_sameSight t _)
    · exact ht

theorem popPorts_cpu (s : State) (rs : List SReg) : (popPorts s rs).cpu = s.cpu := by
  unfold popPorts
  split
  · rfl
  · refine List.foldlRecOn (motive := fun t : State => t.cpu = s.cpu) rs _ rfl (fun t ht r _ => ?_)
    split
    · exact (modQueues_cpu t _).trans ht
    · exact ht

/-! ### Writing a scalar register -/

theorem MemSt.unbind_stores (m : MemSt) (r : SReg) : (m.unbind r).stores = m.stores := by
  unfold MemSt.unbind
  split <;> rfl

theorem setSreg_sameSight (s : State) (r : SReg) (v : Word) : SameSight s (setSreg s r v) := by
  unfold setSreg
  split
  · exact .refl s
  · exact .ofCpu rfl rfl rfl (s.cpu.mem.unbind_stores r)

theorem writeS_sameSight (s : State) (d : SReg) (v : Word) : SameSight s (writeS s d v) := by
  unfold writeS
  split
  · exact setSreg_sameSight s d v
  · exact modQueues_sameSight s _

theorem setDep_sameSight (s : State) (d : SReg) (n : Nat) : SameSight s (setDep s d n) := by
  unfold setDep
  split
  · exact .refl s
  · exact .ofCpu rfl rfl rfl rfl

theorem complete_sameSight (s : State) : SameSight s (complete s) := .ofCpu rfl rfl rfl rfl

theorem accrue_sameSight (s : State) (f : Flags) : SameSight s (accrue s f) := .ofCpu rfl rfl rfl rfl

/-- An instruction that retires changes no byte that its strand sees. -/
theorem computed_sameSight (s : State) (rs : List SReg) (d : SReg) (v : Word) : SameSight s (computed s rs d v) :=
  (((popPorts_sameSight s rs).trans (writeS_sameSight _ d v)).trans (complete_sameSight _)).trans (setDep_sameSight _ d _)

/-! ## The frame of an instruction that retires -/

/-- One strand is another but for its scalar registers and its part of the ordering machine. -/
def scalarsOnly (x y : Strand) : Prop :=
  y = { x with regs := { x.regs with s := y.regs.s, sPoison := y.regs.sPoison }, mem := y.mem }

theorem scalarsOnly.refl (x : Strand) : scalarsOnly x x := rfl

theorem setSreg_scalarsOnly (s : State) (r : SReg) (v : Word) : scalarsOnly s.cpu (setSreg s r v).cpu := by
  unfold setSreg
  split
  · exact .refl _
  · rfl

theorem writeS_scalarsOnly (s : State) (d : SReg) (v : Word) : scalarsOnly s.cpu (writeS s d v).cpu := by
  unfold writeS
  split
  · exact setSreg_scalarsOnly s d v
  · rw [modQueues_cpu]
    exact .refl _

/-- A register other than the destination, and s0, keeps its value. -/
theorem sreg_writeS_of_ne {s : State} {d r : SReg} (v : Word) (h : r ≠ d ∨ r = 0) : sreg (writeS s d v) r = sreg s r := by
  unfold writeS
  split
  · rw [sreg_setSreg, if_neg]
    rintro ⟨rfl, h0⟩
    rcases h with h | h
    · exact h rfl
    · exact h0 h
  · unfold sreg
    rw [modQueues_cpu]

theorem setDep_ctl (s : State) (d : SReg) (n : Nat) : (setDep s d n).cpu.ctl = s.cpu.ctl := by
  unfold setDep
  split <;> rfl

theorem setDep_regs (s : State) (d : SReg) (n : Nat) : (setDep s d n).cpu.regs = s.cpu.regs := by
  unfold setDep
  split <;> rfl

theorem setDep_trap (s : State) (d : SReg) (n : Nat) : (setDep s d n).cpu.trap = s.cpu.trap := by
  unfold setDep
  split <;> rfl

theorem setDep_ext (s : State) (d : SReg) (n : Nat) : (setDep s d n).cpu.ext = s.cpu.ext := by
  unfold setDep
  split <;> rfl

section
variable (s : State) (rs : List SReg) (d : SReg) (v : Word)

/-- The control registers go through the end check alone. -/
theorem computed_ctl : (computed s rs d v).cpu.ctl = endCheck (vlgOf s) s.pc s.cpu.ctl := by
  have hs := (popPorts_sameSight s rs).trans (writeS_sameSight _ d v)
  have hw : (writeS (popPorts s rs) d v).cpu.ctl = s.cpu.ctl := by rw [writeS_scalarsOnly, popPorts_cpu]
  unfold computed retired
  rw [setDep_ctl]
  change endCheck (vlgOf (writeS (popPorts s rs) d v)) (writeS (popPorts s rs) d v).cpu.ctl.pc (writeS (popPorts s rs) d v).cpu.ctl = _
  rw [hs.vlgOf, hw]
  rfl

theorem computed_regs : (computed s rs d v).cpu.regs = (writeS (popPorts s rs) d v).cpu.regs := setDep_regs _ _ _

theorem computed_sreg_of_ne {r : SReg} (h : r ≠ d ∨ r = 0) : sreg (computed s rs d v) r = sreg s r := by
  have hw := sreg_writeS_of_ne (s := popPorts s rs) v h
  unfold sreg at hw ⊢
  rw [popPorts_cpu] at hw
  rw [computed_regs, hw]

theorem computed_v : (computed s rs d v).cpu.regs.v = s.cpu.regs.v := by rw [computed_regs, writeS_scalarsOnly, popPorts_cpu]

theorem computed_m : (computed s rs d v).cpu.regs.m = s.cpu.regs.m := by rw [computed_regs, writeS_scalarsOnly, popPorts_cpu]

theorem computed_sv : (computed s rs d v).cpu.regs.sv = s.cpu.regs.sv := by rw [computed_regs, writeS_scalarsOnly, popPorts_cpu]

theorem computed_trap : (computed s rs d v).cpu.trap = s.cpu.trap := by
  refine (setDep_trap _ _ _).trans ?_
  rw [retired, complete_trap, writeS_scalarsOnly, popPorts_cpu]

theorem computed_ext : (computed s rs d v).cpu.ext = s.cpu.ext := by
  refine (setDep_ext _ _ _).trans ?_
  rw [retired, complete_ext, writeS_scalarsOnly, popPorts_cpu]

end

end Sys2Proof.Machine
end

section
/-! What the integer and floating-point instructions compute and leave unchanged (R25, R97, R107, R116). -/

namespace Sys2Proof.Machine

/-! ## What they compute -/

/-- The instruction writes some value to d, from its sources alone. -/
def computes (s : State) (o : Out) (rs : List SReg) (d : SReg) : Prop := ∃ v, o = .next (computed s rs d v)

theorem readS_computes {s : State} {rs : List SReg} {d : SReg} {f : List Word → Word} (w : Nat)
    (h : (readable s rs (some d)).isSome = true) : computes s (readS s w rs (some d) (fun vs => retireOf s rs d (f vs))) rs d := by
  obtain ⟨vs, hr⟩ := Option.isSome_iff_exists.mp h
  rw [readS_of_readable w _ hr]
  exact ⟨_, rfl⟩

theorem scalar2_computes {s : State} {d a b : SReg} (w : Nat) (f : Word → Word → Word)
    (h : (readable s [a, b] (some d)).isSome = true) : computes s (scalar2 s w d a b f) [a, b] d := by
  unfold scalar2
  exact readS_computes w h

theorem scalar1_computes {s : State} {d a : SReg} (w : Nat) (f : Word → Word) (h : (readable s [a] (some d)).isSome = true) :
    computes s (scalar1 s w d a f) [a] d := by
  unfold scalar1
  exact readS_computes w h

/-- An integer instruction writes a value to its destination. -/
theorem integerForm_computes {s : State} {i : Instr} {rs : List SReg} {d : SReg} (hi : integerForm i = some (rs, d))
    (h : (readable s rs (some d)).isSome = true) : computes s (exec i s) rs d := by
  unfold integerForm at hi
  split at hi
  case h_40 => exact absurd hi nofun
  all_goals obtain ⟨rfl, rfl⟩ := Prod.mk.inj (Option.some.inj hi)
  all_goals simp only [exec_add, exec_sub, exec_mul, exec_mulh, exec_mulhu, exec_div, exec_divu, exec_rem, exec_remu, exec_and, exec_or,
    exec_xor, exec_sll, exec_srl, exec_sra, exec_slt, exec_sltu, exec_min, exec_max, exec_minu, exec_maxu, exec_sel, exec_addi,
    exec_andi, exec_ori, exec_xori, exec_slti, exec_sltiu, exec_slli, exec_srli, exec_srai, exec_lih, exec_lix, exec_clz, exec_ctz,
    exec_popc, exec_bswap, exec_bext, exec_bins]
  case h_22 | h_32 | h_33 | h_39 => exact readS_computes _ h
  case h_23 | h_24 | h_25 | h_26 | h_27 | h_28 | h_29 | h_30 | h_31 | h_34 | h_35 | h_36 | h_37 => exact scalar1_computes _ _ h
  all_goals exact scalar2_computes _ _ h

/-- A floating-point instruction does so after it has added its flags. -/
def computesF (s : State) (o : Out) (rs : List SReg) (d : SReg) : Prop := ∃ v fl, o = .next (computed (accrue s fl) rs d v)

theorem readS_computesF {s : State} {rs : List SReg} {d : SReg} {f : List Word → FRes} (w : Nat)
    (h : (readable s rs (some d)).isSome = true) : computesF s (readS s w rs (some d) (fun vs => retireF s rs d (f vs))) rs d := by
  obtain ⟨vs, hr⟩ := Option.isSome_iff_exists.mp h
  rw [readS_of_readable w _ hr]
  exact ⟨_, _, rfl⟩

theorem fpu2_computesF {s : State} {d a b : SReg} (w : Nat) (f : List Word → FRes)
    (h : (readable s [a, b] (some d)).isSome = true) : computesF s (fpu2 s w d a b f) [a, b] d := by
  unfold fpu2
  exact readS_computesF w h

theorem fpu1_computesF {s : State} {d a : SReg} (w : Nat) (f : Word → FRes) (h : (readable s [a] (some d)).isSome = true) :
    computesF s (fpu1 s w d a f) [a] d := by
  unfold fpu1
  exact readS_computesF w h

/-- `fcvt` between float types is well formed where they differ. -/
theorem wellFormed_fcvtFF (d a : SReg) (t u : FTy) : WellFormed (.fcvtFF d a t u) = decide (t ≠ u) := rfl

/-- A floating-point instruction writes a value to its destination. -/
theorem floatForm_computesF {s : State} {i : Instr} {rs : List SReg} {d : SReg} (hi : floatForm i = some (rs, d))
    (hw : WellFormed i = true) (h : (readable s rs (some d)).isSome = true) : computesF s (exec i s) rs d := by
  unfold floatForm at hi
  split at hi
  case h_22 => exact absurd hi nofun
  all_goals obtain ⟨rfl, rfl⟩ := Prod.mk.inj (Option.some.inj hi)
  all_goals simp only [exec_fadd, exec_fsub, exec_fmul, exec_fdiv, exec_fmin, exec_fmax, exec_feq, exec_flt, exec_fle, exec_fsgnj,
    exec_fsgnjN, exec_fsgnjX, exec_fsqrt, exec_fclass, exec_fcvtFF, exec_fcvtFI, exec_fcvtIF, exec_ffma, exec_ffms, exec_ffnma,
    exec_ffnms]
  case h_15 d a t u =>
    rw [wellFormed_fcvtFF, decide_eq_true_eq] at hw
    rw [execFcvtFF, if_neg hw]
    exact fpu1_computesF _ _ h
  case h_13 | h_14 | h_16 | h_17 => exact fpu1_computesF _ _ h
  case h_18 | h_19 | h_20 | h_21 => exact readS_computesF _ h
  all_goals exact fpu2_computesF _ _ h

/-- What an instruction leaves whose value is v, whose destination is d and whose flags are fl. -/
theorem computed_accrue_frame (s : State) (rs : List SReg) (d : SReg) (v : Word) (fl : Flags) :
    let t := computed (accrue s fl) rs d v
    (∀ r, r ≠ d ∨ r = 0 → sreg t r = sreg s r) ∧
    t.cpu.regs.v = s.cpu.regs.v ∧ t.cpu.regs.m = s.cpu.regs.m ∧ t.cpu.regs.sv = s.cpu.regs.sv ∧ t.cpu.trap = s.cpu.trap ∧
    t.cpu.ext = s.cpu.ext ∧ keptCtl (accrue s fl).cpu.ctl t.cpu.ctl ∧
    (s.cpu.ctl.lp0.lc = 0 → s.cpu.ctl.lp1.lc = 0 → t.cpu.ctl = { (accrue s fl).cpu.ctl with pc := s.cpu.ctl.pc + 4 }) ∧ SameSight s t := by
  refine ⟨fun r h => computed_sreg_of_ne _ rs d v h, computed_v .., computed_m .., computed_sv .., computed_trap .., computed_ext .., ?_,
    fun h0 h1 => ?_, (accrue_sameSight s fl).trans (computed_sameSight _ rs d v)⟩
  · rw [computed_ctl]
    exact endCheck_keptCtl ..
  · rw [computed_ctl]
    exact endCheck_of_idle h0 h1

/-- An integer or floating-point instruction writes a value to its destination and adds flags; an integer one adds none. -/
theorem form_computes {s : State} {i : Instr} {rs : List SReg} {d : SReg} (hi : integerForm i = some (rs, d) ∨ floatForm i = some (rs, d))
    (hw : WellFormed i = true) (h : (readable s rs (some d)).isSome = true) :
    ∃ v fl, exec i s = .next (computed (accrue s fl) rs d v) ∧ (floatForm i = none → fl = 0) := by
  rcases hi with hi | hi
  · obtain ⟨v, he⟩ := integerForm_computes hi h
    exact ⟨v, 0, by rw [accrue_zero, he], fun _ => rfl⟩
  · obtain ⟨v, fl, he⟩ := floatForm_computesF hi hw h
    exact ⟨v, fl, he, fun hn => absurd (hi.symm.trans hn) nofun⟩

/-- Settles O58: each such instruction writes a value to its destination, and what that leaves is said once. -/
theorem registerFrame : Obligations.RegisterFrame := by
  intro s i rs d hi hw h
  obtain ⟨v, fl, he, hfl⟩ := form_computes hi hw h
  obtain ⟨hr, hv, hm, hsv, ht, hx, ⟨hlevel, hmr, hvstart, hamo, hcycle, hflags⟩, hidle, hsight⟩ := computed_accrue_frame s rs d v fl
  obtain ⟨hmem, _, _, hlog, _⟩ := hsight.memory
  refine ⟨_, he, hr, hv, hm, hsv, ht, hx, hlevel, hmr, hvstart, hamo, hcycle, ?_, fun hn => ?_, fun h0 h1 => ?_, hmem, hlog, hsight.byteSeen⟩
  · rw [hflags]
    change (s.cpu.ctl.fflags ||| fl) &&& s.cpu.ctl.fflags = s.cpu.ctl.fflags
    ext j
    simp
    tauto
  · rw [hflags, hfl hn, accrue_zero]
  · rw [hidle h0 h1]
    exact ⟨rfl, rfl, rfl, rfl, rfl⟩

end Sys2Proof.Machine
end

section
/-! Reading back what an operation of the state has changed: a strand, a task, a tenant; and the end of coherence order (R274). -/

namespace Sys2Proof.Machine

/-! ## Lists that hold one element of each name -/

/-- Looking up what was changed by its name. -/
theorem find?_replaceFirst_self {α : Type} {p : α → Bool} {f : α → α} (hf : ∀ x, p x = true → p (f x) = true) (xs : List α) :
    (replaceFirst p f xs).find? p = (xs.find? p).map f := by
  induction xs with
  | nil => rfl
  | cons x xs ih =>
    unfold replaceFirst
    by_cases h : p x = true
    · simp [h, hf x h]
    · simp [h, ih]

/-- Looking up what was put in by its name. -/
theorem find?_upsert_self {α : Type} {p : α → Bool} {y : α} (hy : p y = true) (xs : List α) : (upsert p y xs).find? p = some y := by
  induction xs with
  | nil => simp [upsert, hy]
  | cons x xs ih =>
    unfold upsert
    by_cases h : p x = true
    · simp [h, hy]
    · simp [h, ih]

namespace State

/-- A strand after it has been changed. -/
theorem strand?_modStrand (s : State) (t : StrandId) {f : Strand → Strand} (hf : ∀ x, (f x).id = x.id) :
    (s.modStrand t f).strand? t = (s.strand? t).map f := by
  unfold modStrand strand?
  by_cases h : s.cpu.id = t
  · simp [h, hf]
  · simp only [h, if_false]
    exact find?_replaceFirst_self (fun x hx => by rwa [hf x]) _

theorem strand?_modStrand_of {s : State} {t : StrandId} {x : Strand} (h : s.strand? t = some x) {f : Strand → Strand}
    (hf : ∀ x, (f x).id = x.id) : (s.modStrand t f).strand? t = some (f x) := by
  rw [strand?_modStrand s t hf, h]
  rfl

/-- A task after it has been changed. -/
theorem task?_modTask (s : State) (n : Nat) {f : Task → Task} (hf : ∀ x, (f x).tid = x.tid) :
    (s.modTask n f).task? n = (s.task? n).map f :=
  find?_replaceFirst_self (fun x hx => by rwa [hf x]) _

theorem task?_modTask_of {s : State} {n : Nat} {k : Task} (h : s.task? n = some k) {f : Task → Task} (hf : ∀ x, (f x).tid = x.tid) :
    (s.modTask n f).task? n = some (f k) := by
  rw [task?_modTask s n hf, h]
  rfl

/-- A task that is found has the number it was looked up by. -/
theorem tid_of_task? {s : State} {n : Nat} {k : Task} (h : s.task? n = some k) : k.tid = n := by
  simpa using List.find?_some h

/-- A tenant has the number it is looked up by. -/
theorem ten_num (s : State) (n : Nat) : (s.ten n).num = n := by
  unfold ten
  cases h : s.tenants.find? (fun x => x.num == n) with
  | none => rfl
  | some x => simpa using List.find?_some h

/-- A tenant after it has been changed. -/
theorem ten_modTen (s : State) (n : Nat) {f : Tenant → Tenant} (hf : ∀ x, (f x).num = x.num) : (s.modTen n f).ten n = f (s.ten n) := by
  have hn : (f (s.ten n)).num = n := (hf _).trans (s.ten_num n)
  unfold modTen setTen ten at *
  rw [hn, find?_upsert_self (by simpa using hn)]
  rfl

end State

/-! ## The end of coherence order -/

/-- The byte of the latest write in a list, where one has it. -/
def lastIn (rs : List WRec) (l : Loc) (b : Option Byte) : Option Byte :=
  rs.foldl (fun acc r => match byteIn r.loc r.bytes l with | some b => some b | none => acc) b

/-- A byte at the end of coherence order. -/
def endByte (s : State) (l : Loc) : Byte := (lastIn s.log l none).getD (baseByte s l)

theorem lastIn_append (rs : List WRec) (r : WRec) (l : Loc) (b : Option Byte) :
    lastIn (rs ++ [r]) l b = match byteIn r.loc r.bytes l with | some b => some b | none => lastIn rs l b := by
  unfold lastIn
  rw [List.foldl_append]
  rfl

/-- Reading device memory at the end of coherence order is reading each byte there. -/
theorem lastBytes_dev (s : State) (a n : Nat) : lastBytes s (.dev a) n = (List.range n).map (fun i => endByte s (.dev (a + i))) := by
  unfold lastBytes bytesBy
  split
  · rename_i h
    rw [List.isEmpty_iff] at h
    simp only [endByte, h, lastIn, List.foldl_nil, Option.getD_none]
    exact Memory.read_eq s.mem a n
  · rfl

theorem byteIn_dev (a : Nat) (bs : List Byte) (x : Nat) : byteIn (.dev a) bs (.dev x) = if a ≤ x then bs[x - a]? else none := by
  by_cases h : a ≤ x
  · simp [byteIn, Loc.past, h]
  · simp [byteIn, Loc.past, h]

theorem poisonWords_mem (s : State) (l : Loc) (ws : List Nat) : (poisonWords s l ws).mem = s.mem := by
  unfold poisonWords
  split
  · rfl
  · cases l <;> rfl

/-- A write that settles gives its bytes to memory. -/
theorem baseByte_settleRec_dev (s : State) (r : WRec) (x : Nat) :
    baseByte (settleRec s r) (.dev x) = (byteIn r.loc r.bytes (.dev x)).getD (baseByte s (.dev x)) := by
  have hm : baseByte (settleRec s r) (.dev x) = baseByte (writeBase s r.loc r.bytes) (.dev x) :=
    congrArg (Memory.get · x) (poisonWords_mem _ _ _)
  rw [hm]
  cases r.loc with
  | dev a =>
    rw [baseByte_writeBase_dev, byteIn_dev]
    by_cases h : a ≤ x
    · by_cases hx : x < a + r.bytes.length
      · rw [if_pos ⟨h, hx⟩, if_pos h, List.getElem?_eq_getElem (by omega)]
        rfl
      · rw [if_neg (by omega), if_pos h, List.getElem?_eq_none (by omega)]
        rfl
    · rw [if_neg (by omega), if_neg h]
      rfl
  | host a => rfl
  | fw a => rfl
  | spad n o => rfl
  | remote d w o => rfl
  | image a => rfl

/-- What stands there before some writes is seen where none of them has the byte. -/
theorem lastIn_getD (rs : List WRec) (l : Loc) (b : Option Byte) (c : Byte) :
    (lastIn rs l b).getD c = (lastIn rs l none).getD (b.getD c) := by
  induction rs using List.reverseRecOn with
  | nil => rfl
  | append_singleton rs r ih =>
    rw [lastIn_append, lastIn_append]
    cases byteIn r.loc r.bytes l with
    | none => exact ih
    | some d => rfl

/-- Settling the head of coherence order changes no byte at its end. -/
theorem endByte_foldGo_dev (rs : List WRec) : ∀ (s : State) (x : Nat),
    endByte (foldGo rs s) (.dev x) = (lastIn rs (.dev x) none).getD (baseByte s (.dev x)) := by
  induction rs with
  | nil => exact fun s x => rfl
  | cons r rs ih =>
    intro s x
    unfold foldGo
    split
    · rw [ih, baseByte_settleRec_dev]
      have e : lastIn (r :: rs) (.dev x) none = lastIn rs (.dev x) (byteIn r.loc r.bytes (.dev x)) := by
        unfold lastIn
        rw [List.foldl_cons]
        cases byteIn r.loc r.bytes (.dev x) with
        | none => rfl
        | some b => rfl
      rw [e, lastIn_getD _ _ (byteIn r.loc r.bytes _)]
    · rfl

/-- A byte at the end of coherence order after a write has entered. -/
theorem endByte_enterWide_dev (s : State) (a : Nat) (bs : List Byte) (x : Nat) :
    endByte (enterWide s (.dev a) bs) (.dev x) = (byteIn (.dev a) bs (.dev x)).getD (endByte s (.dev x)) := by
  unfold enterWide enterDev enterFor enterRec foldLog
  rw [endByte_foldGo_dev]
  simp only [lastIn_append]
  cases byteIn (.dev a) bs (.dev x) with
  | none => rfl
  | some b => rfl

/-- What the machine writes stands at the end of coherence order. -/
theorem lastBytes_enterWide_dev (s : State) (a : Nat) (bs : List Byte) : lastBytes (enterWide s (.dev a) bs) (.dev a) bs.length = bs := by
  rw [lastBytes_dev]
  refine List.ext_getElem (by simp) (fun i _ h => ?_)
  rw [List.getElem_map, List.getElem_range, endByte_enterWide_dev, byteIn_dev, if_pos (Nat.le_add_right a i), Nat.add_sub_cancel_left,
    List.getElem?_eq_getElem h]
  rfl

/-! ## What a write that enters leaves unchanged -/

theorem writeBase_tenants (s : State) (l : Loc) (bs : List Byte) : (writeBase s l bs).tenants = s.tenants := by
  cases l <;> rfl

theorem writeBase_dev (s : State) (l : Loc) (bs : List Byte) : (writeBase s l bs).dev = s.dev := by
  cases l <;> rfl

theorem poisonWords_tenants (s : State) (l : Loc) (ws : List Nat) : (poisonWords s l ws).tenants = s.tenants := by
  unfold poisonWords
  split
  · rfl
  · cases l <;> rfl

theorem poisonWords_dev (s : State) (l : Loc) (ws : List Nat) : (poisonWords s l ws).dev = s.dev := by
  unfold poisonWords
  split
  · rfl
  · cases l <;> rfl

theorem foldGo_tenants_dev (rs : List WRec) : ∀ s : State, (foldGo rs s).tenants = s.tenants ∧ (foldGo rs s).dev = s.dev := by
  induction rs with
  | nil => exact fun s => ⟨rfl, rfl⟩
  | cons r rs ih =>
    intro s
    unfold foldGo
    split
    · obtain ⟨ht, hd⟩ := ih (settleRec s r)
      exact ⟨ht.trans ((poisonWords_tenants _ _ _).trans (writeBase_tenants _ _ _)),
        hd.trans ((poisonWords_dev _ _ _).trans (writeBase_dev _ _ _))⟩
    · exact ⟨rfl, rfl⟩

theorem enterWide_tenants (s : State) (l : Loc) (bs : List Byte) : (enterWide s l bs).tenants = s.tenants :=
  (foldGo_tenants_dev _ _).1

theorem enterWide_dev (s : State) (l : Loc) (bs : List Byte) : (enterWide s l bs).dev = s.dev := (foldGo_tenants_dev _ _).2

end Sys2Proof.Machine
end

section
/-! Uncorrectable errors (R434 to R436): what one counts, and what it poisons. -/

namespace Sys2Proof.Machine

/-! ## ECCC -/

theorem sat32_eq (n : Nat) : sat32 n = min n (2 ^ 32 - 1) := rfl

/-- A corrected error counts in the low half. -/
theorem countEcc_corrected (s : State) :
    (countEcc s true).dev.h.eccc.toNat % 2 ^ 32 = min (s.dev.h.eccc.toNat % 2 ^ 32 + 1) (2 ^ 32 - 1) ∧
    (countEcc s true).dev.h.eccc.toNat / 2 ^ 32 = s.dev.h.eccc.toNat / 2 ^ 32 := by
  have hv := s.dev.h.eccc.isLt
  have he : (countEcc s true).dev.h.eccc =
    BitVec.ofNat 64 (sat32 (bitsOf s.dev.h.eccc 31 0 + 1) + bitsOf s.dev.h.eccc 63 32 * 2 ^ 32) := rfl
  rw [he, sat32_eq, BitVec.toNat_ofNat]
  unfold bitsOf
  omega

/-- An uncorrected one counts in the high half. -/
theorem countEcc_uncorrected (s : State) :
    (countEcc s false).dev.h.eccc.toNat / 2 ^ 32 = min (s.dev.h.eccc.toNat / 2 ^ 32 + 1) (2 ^ 32 - 1) ∧
    (countEcc s false).dev.h.eccc.toNat % 2 ^ 32 = s.dev.h.eccc.toNat % 2 ^ 32 := by
  have hv := s.dev.h.eccc.isLt
  have he : (countEcc s false).dev.h.eccc =
    BitVec.ofNat 64 (bitsOf s.dev.h.eccc 31 0 + sat32 (bitsOf s.dev.h.eccc 63 32 + 1) * 2 ^ 32) := rfl
  rw [he, sat32_eq, BitVec.toNat_ofNat]
  unfold bitsOf
  omega

@[simp] theorem countEcc_cpu (s : State) (c : Bool) : (countEcc s c).cpu = s.cpu := rfl
@[simp] theorem countEcc_others (s : State) (c : Bool) : (countEcc s c).others = s.others := rfl
@[simp] theorem countEcc_tasks (s : State) (c : Bool) : (countEcc s c).tasks = s.tasks := rfl
@[simp] theorem countEcc_mem (s : State) (c : Bool) : (countEcc s c).mem = s.mem := rfl
@[simp] theorem countEcc_log (s : State) (c : Bool) : (countEcc s c).log = s.log := rfl
@[simp] theorem countEcc_poison (s : State) (c : Bool) : (countEcc s c).poison = s.poison := rfl
@[simp] theorem countEcc_hostPoison (s : State) (c : Bool) : (countEcc s c).hostPoison = s.hostPoison := rfl

@[simp] theorem countEcc_strand? (s : State) (c : Bool) (t : StrandId) : (countEcc s c).strand? t = s.strand? t := by
  unfold State.strand?
  rw [countEcc_cpu, countEcc_others]

@[simp] theorem countEcc_task? (s : State) (c : Bool) (n : Nat) : (countEcc s c).task? n = s.task? n := by
  unfold State.task?
  rw [countEcc_tasks]

/-! ## A word that an error strikes -/

theorem strikes_of_mem {ps : List Nat} {p a n : Nat} (h : p ∈ ps) (h1 : p < a + n) (h2 : a < p + 8) : strikes ps a n = true :=
  List.any_eq_true.mpr ⟨p, h, by simp [h1, h2]⟩

theorem mem_addPoison (ps : List Nat) (a : Nat) : a / 8 * 8 ∈ addPoison ps a := by
  unfold addPoison
  split
  · rename_i h
    exact List.contains_iff_mem.mp h
  · exact List.mem_append_right _ (List.mem_singleton.mpr rfl)

/-- The poisoned words of a space after one more has been added. -/
theorem mem_append_new (ps : List Nat) (w p : Nat) : p ∈ ps ++ [w].filter (fun w => !ps.contains w) ↔ p ∈ ps ∨ p = w := by
  by_cases h : w ∈ ps
  · simp only [List.mem_append, List.mem_filter, List.mem_singleton]
    constructor
    · rintro (hp | ⟨rfl, _⟩)
      · exact .inl hp
      · exact .inr rfl
    · rintro (hp | rfl)
      · exact .inl hp
      · exact .inl h
  · simp [h]

/-! ### Places of one space -/

theorem Loc.off_at' (a : Loc) (x : Nat) : (a.at' x).off = x := by cases a <;> rfl

theorem Loc.at'_at' (a : Loc) (x y : Nat) : (a.at' x).at' y = a.at' y := by cases a <;> rfl

theorem Loc.at'_off (a : Loc) : a.at' a.off = a := by cases a <;> rfl

theorem Loc.add_zero (a : Loc) : a.add 0 = a := by cases a <;> rfl

/-- How far one place of a space lies past another. -/
theorem Loc.past_at' (a : Loc) (x y : Nat) : (a.at' x).past (a.at' y) = if x ≤ y then some (y - x) else none := by
  cases a <;> simp [Loc.at', Loc.past]

/-- What lies past a place lies in its space. -/
theorem Loc.eq_at'_of_past {a b : Loc} {i : Nat} (h : a.past b = some i) : b = a.at' (a.off + i) := by
  have go {x y : Nat} (h : (if x ≤ y then some (y - x) else none) = some i) : y = x + i := by
    split at h
    · have := Option.some.inj h
      omega
    · exact absurd h nofun
  unfold Loc.past at h
  simp only at h
  split at h
  · exact congrArg Loc.dev (go h)
  · exact congrArg Loc.host (go h)
  · split at h
    · rename_i e
      rw [e, go h]
      rfl
    · exact absurd h nofun
  · exact congrArg Loc.fw (go h)
  · split at h
    · rename_i e
      rw [e.1, e.2, go h]
      rfl
    · exact absurd h nofun
  · exact congrArg Loc.image (go h)
  · exact absurd h nofun

/-- A write that has a byte shares the byte's aligned 8 bytes. -/
theorem overlaps_word_of_byteIn {r l : Loc} {bs : List Byte} (h : (byteIn r bs l).isSome = true) :
    overlaps r bs.length (l.at' (l.off / 8 * 8)) 8 = true := by
  unfold byteIn at h
  split at h
  · rename_i i hi
    have hl : i < bs.length := by
      by_contra hn
      simp [List.getElem?_eq_none (Nat.not_lt.mp hn)] at h
    have hw : l.at' (l.off / 8 * 8) = r.at' ((r.off + i) / 8 * 8) := by rw [Loc.eq_at'_of_past hi, Loc.off_at', Loc.at'_at']
    have h1 := Loc.past_at' r r.off ((r.off + i) / 8 * 8)
    have h2 := Loc.past_at' r ((r.off + i) / 8 * 8) r.off
    rw [Loc.at'_off] at h1 h2
    unfold overlaps
    rw [hw, h1, h2]
    by_cases hx : r.off ≤ (r.off + i) / 8 * 8
    · simp only [if_pos hx, Bool.or_eq_true, decide_eq_true_eq]
      omega
    · simp only [if_neg hx, if_pos (Nat.le_of_lt (Nat.not_le.mp hx)), Bool.false_or, decide_eq_true_eq]
      omega
  · exact absurd h nofun

/-! ### `strikeWord` -/

theorem strikeWord_mem (s : State) (l : Loc) : (strikeWord s l).mem = s.mem := poisonWords_mem s l _

/-- No byte of a write changes. -/
theorem strikeWord_log_bytes (s : State) (l : Loc) :
    (strikeWord s l).log.map (fun r => { r with bad := [] }) = s.log.map (fun r => { r with bad := [] }) := by
  unfold strikeWord
  simp only [List.map_map]
  refine List.map_congr_left (fun r _ => ?_)
  simp only [Function.comp_apply]
  split <;> rfl

theorem strikeWord_dev (s : State) (l : Loc) : (strikeWord s l).dev = s.dev := poisonWords_dev s l _

/-- Where the settled word is poisoned, a read at the end of coherence order meets poison: the latest write that has the byte has been
struck with it. -/
theorem strikeWord_poisonedEnd {s : State} {l : Loc} (h : poisonedAt (strikeWord s l) l 1 = true) :
    poisonedEnd (strikeWord s l) l 1 = true := by
  unfold poisonedEnd poisonSeen
  rw [h]
  simp only [Bool.true_or, Bool.true_and, List.range_one, List.any_cons, List.any_nil, Bool.or_false, Bool.not_false, Loc.add_zero]
  split
  · rename_i r hr
    have hm := List.mem_of_find?_eq_some hr
    have hb : (byteIn r.loc r.bytes l).isSome = true := by simpa using List.find?_some hr
    obtain ⟨q, _, rfl⟩ := List.mem_map.mp (List.mem_reverse.mp hm)
    have ho : overlaps q.loc q.bytes.length (l.at' (l.off / 8 * 8)) 8 = true := by
      refine overlaps_word_of_byteIn ?_
      split at hb <;> exact hb
    rw [if_pos ho]
    refine strikes_of_mem (mem_addPoison _ _) ?_ ?_
    · rw [Loc.off_at']
      omega
    · rw [Loc.off_at']
      omega
  · exact h

theorem strikeWord_poison (s : State) (pa p : Nat) : p ∈ (strikeWord s (.dev pa)).poison ↔ p ∈ s.poison ∨ p = pa / 8 * 8 :=
  mem_append_new s.poison (pa / 8 * 8) p

theorem strikeWord_hostPoison (s : State) (pa p : Nat) : p ∈ (strikeWord s (.host pa)).hostPoison ↔ p ∈ s.hostPoison ∨ p = pa / 8 * 8 :=
  mem_append_new s.hostPoison (pa / 8 * 8) p

/-- The word of a byte is among the poisoned words that reach the byte. -/
theorem strikes_word {ps : List Nat} {a : Nat} (h : a / 8 * 8 ∈ ps) : strikes ps a 1 = true := strikes_of_mem h (by omega) (by omega)

theorem strikeWord_poisonedAt_dev (s : State) (pa : Nat) : poisonedAt (strikeWord s (.dev pa)) (.dev pa) 1 = true :=
  strikes_word ((strikeWord_poison s pa _).mpr (.inr rfl))

theorem strikeWord_poisonedAt_host (s : State) (pa : Nat) : poisonedAt (strikeWord s (.host pa)) (.host pa) 1 = true :=
  strikes_word ((strikeWord_hostPoison s pa _).mpr (.inr rfl))

theorem strikeWord_poisonedAt_spad {s : State} {tid off : Nat} (h : (s.task? tid).isSome = true) :
    poisonedAt (strikeWord s (.spad tid off)) (.spad tid off) 1 = true := by
  obtain ⟨k, hk⟩ := Option.isSome_iff_exists.mp h
  have ht : (strikeWord s (.spad tid off)).task? tid =
      some { k with spadPoison := k.spadPoison ++ [off / 8 * 8].filter (fun w => !k.spadPoison.contains w) } := by
    exact State.task?_modTask_of hk (by exact fun _ => rfl)
  unfold poisonedAt
  simp only [ht]
  exact strikes_word ((mem_append_new _ _ _).mpr (.inr rfl))

/-! ## The place an error strikes -/

/-- Changing a strand leaves memory, coherence order and the device. -/
theorem modStrand_leaves (s : State) (u : StrandId) (f : Strand → Strand) :
    (s.modStrand u f).mem = s.mem ∧ (s.modStrand u f).log = s.log ∧ (s.modStrand u f).dev = s.dev :=
  ⟨State.modStrand_mem .., State.modStrand_log .., State.modStrand_dev ..⟩

/-- An error outside memory and scratchpads leaves coherence order whole. -/
def outsideMemory (e : ErrPlace) : Prop := (∀ pa, e ≠ .mem pa ∧ e ≠ .host pa) ∧ ∀ tid off, e ≠ .spad tid off

/-- Poison changes no byte of memory and of coherence order, and nothing of the device. -/
theorem poisonPlace_leaves (s : State) (e : ErrPlace) :
    (poisonPlace s e).mem = s.mem ∧
    (poisonPlace s e).log.map (fun r => { r with bad := [] }) = s.log.map (fun r => { r with bad := [] }) ∧
    (poisonPlace s e).dev = s.dev ∧ (outsideMemory e → (poisonPlace s e).log = s.log) := by
  have outside {t : State} (h : t.mem = s.mem ∧ t.log = s.log ∧ t.dev = s.dev) :
      t.mem = s.mem ∧ t.log.map (fun r => { r with bad := [] }) = s.log.map (fun r => { r with bad := [] }) ∧ t.dev = s.dev ∧
        (outsideMemory e → t.log = s.log) := by
    obtain ⟨hm, hl, hd⟩ := h
    exact ⟨hm, by rw [hl], hd, fun _ => hl⟩
  cases e with
  | corrected => exact outside ⟨rfl, rfl, rfl⟩
  | mem pa => exact ⟨strikeWord_mem .., strikeWord_log_bytes .., strikeWord_dev .., fun h => absurd rfl (h.1 pa).1⟩
  | host pa => exact ⟨strikeWord_mem .., strikeWord_log_bytes .., strikeWord_dev .., fun h => absurd rfl (h.1 pa).2⟩
  | spad tid off => exact ⟨strikeWord_mem .., strikeWord_log_bytes .., strikeWord_dev .., fun h => absurd rfl (h.2 tid off)⟩
  | sreg u r =>
    by_cases hr : r = 0
    · rw [poisonPlace, if_pos hr]
      exact outside ⟨rfl, rfl, rfl⟩
    · rw [poisonPlace, if_neg hr]
      exact outside (modStrand_leaves s u _)
  | vreg u r g => exact outside (modStrand_leaves s u _)
  | mreg u r =>
    by_cases hr : r = 0
    · rw [poisonPlace, if_pos hr]
      exact outside ⟨rfl, rfl, rfl⟩
    · rw [poisonPlace, if_neg hr]
      exact outside (modStrand_leaves s u _)
  | svreg u r g => exact outside (modStrand_leaves s u _)
  | acc tid tile row => exact outside ⟨rfl, rfl, rfl⟩

/-- The bits of a mask in which one more has been set. -/
theorem getLsbD_or_bit {n : Nat} (m : BitVec n) (k : Nat) {i : Nat} (hi : i < n) :
    (m ||| 1#n <<< k).getLsbD i = (m.getLsbD i || i == k) := by
  have hn : 0 < n := by omega
  have e : (1#n <<< k).getLsbD i = (i == k) := by
    rw [Bool.eq_iff_iff]
    simp [hi]
    omega
  rw [BitVec.getLsbD_or, e]

section
variable {s : State} {u : StrandId} {x : Strand} (hx : s.strand? u = some x)

include hx in
/-- A scalar register but s0 is poisoned. -/
theorem poisonPlace_sreg (r : BitVec 5) : ∃ y, (poisonPlace s (.sreg u r)).strand? u = some y ∧ y.regs.s = x.regs.s ∧
    ∀ i, i < 32 → y.regs.sPoison.getLsbD i = (x.regs.sPoison.getLsbD i || (i == r.toNat && r != 0)) := by
  by_cases hr : r = 0
  · rw [poisonPlace, if_pos hr]
    exact ⟨x, hx, rfl, by simp [hr]⟩
  · rw [poisonPlace, if_neg hr]
    refine ⟨_, State.strand?_modStrand_of hx (by exact fun _ => rfl), rfl, fun i hi => ?_⟩
    rw [getLsbD_or_bit _ _ hi, bne_iff_ne.mpr hr, Bool.and_true]

include hx in
/-- A mask register but m0 is poisoned. -/
theorem poisonPlace_mreg (r : BitVec 3) : ∃ y, (poisonPlace s (.mreg u r)).strand? u = some y ∧ y.regs.m = x.regs.m ∧
    ∀ i, i < 8 → y.regs.mPoison.getLsbD i = (x.regs.mPoison.getLsbD i || (i == r.toNat && r != 0)) := by
  by_cases hr : r = 0
  · rw [poisonPlace, if_pos hr]
    exact ⟨x, hx, rfl, by simp [hr]⟩
  · rw [poisonPlace, if_neg hr]
    refine ⟨_, State.strand?_modStrand_of hx (by exact fun _ => rfl), rfl, fun i hi => ?_⟩
    rw [getLsbD_or_bit _ _ hi, bne_iff_ne.mpr hr, Bool.and_true]

include hx in
/-- A group of a vector register is poisoned. -/
theorem poisonPlace_vreg (r : BitVec 5) (g : BitVec 3) : ∃ y, (poisonPlace s (.vreg u r g)).strand? u = some y ∧
    (y.regs.v[r.toNat]).poison.getLsbD g.toNat = true ∧ (y.regs.v[r.toNat]).bits = (x.regs.v[r.toNat]).bits := by
  refine ⟨_, State.strand?_modStrand_of hx (by exact fun _ => rfl), ?_, ?_⟩
  · rw [Vector.getElem_set_self, getLsbD_or_bit _ _ g.isLt]
    simp
  · rw [Vector.getElem_set_self]

include hx in
/-- A group of a sparse register is poisoned. -/
theorem poisonPlace_svreg (r : BitVec 3) (g : BitVec 4) : ∃ y, (poisonPlace s (.svreg u r g)).strand? u = some y ∧ y.regs.sv = x.regs.sv ∧
    ∀ i, i < 128 → y.regs.svPoison.getLsbD i = (x.regs.svPoison.getLsbD i || (i == 16 * r.toNat + g.toNat)) :=
  ⟨_, State.strand?_modStrand_of hx (by exact fun _ => rfl), rfl, fun _ hi => getLsbD_or_bit _ _ hi⟩

end

/-- A row of an accumulator tile is poisoned. -/
theorem poisonPlace_acc {s : State} {tid : Nat} {k : Task} (hk : s.task? tid = some k) (tile : BitVec 3) (row : BitVec 6) :
    ∃ q, (poisonPlace s (.acc tid tile row)).task? tid = some q ∧ ∀ i a, k.accs[i]? = some a → ∃ b, q.accs[i]? = some b ∧ b.bits = a.bits ∧
      ∀ j, j < 64 → b.poison.getLsbD j = (a.poison.getLsbD j || (i == tile.toNat && j == row.toNat)) := by
  refine ⟨_, State.task?_modTask_of hk (by exact fun _ => rfl), fun i a ha =>
    ⟨if i == tile.toNat then { a with poison := a.poison ||| (1#64 <<< row.toNat) } else a, ?_, ?_, fun j hj => ?_⟩⟩
  · rw [List.getElem?_mapIdx, ha]
    rfl
  · split <;> rfl
  · by_cases hi : (i == tile.toNat) = true
    · rw [if_pos hi, getLsbD_or_bit _ _ hj, hi, Bool.true_and]
    · rw [if_neg hi, Bool.eq_false_of_not_eq_true hi, Bool.false_and, Bool.or_false]

/-- What an uncorrectable error leaves of ECCC: one half counts it, and the other stays. -/
theorem uncorrectable_counts (s : State) (e : ErrPlace) :
    let v := (poisonPlace (countEcc s (e == .corrected)) e).dev.h.eccc.toNat
    let up (n : Nat) : Nat := min (n + 1) (2 ^ 32 - 1)
    if e = .corrected then v % 2 ^ 32 = up (s.dev.h.eccc.toNat % 2 ^ 32) ∧ v / 2 ^ 32 = s.dev.h.eccc.toNat / 2 ^ 32
    else v / 2 ^ 32 = up (s.dev.h.eccc.toNat / 2 ^ 32) ∧ v % 2 ^ 32 = s.dev.h.eccc.toNat % 2 ^ 32 := by
  obtain ⟨_, _, hd, _⟩ := poisonPlace_leaves (countEcc s (e == .corrected)) e
  rw [hd]
  by_cases he : e = .corrected
  · rw [if_pos he, beq_iff_eq.mpr he]
    exact countEcc_corrected s
  · rw [if_neg he, beq_eq_false_iff_ne.mpr he]
    exact countEcc_uncorrected s

end Sys2Proof.Machine
end

section
/-! Root interrupts, queue deadlock, errors in internal state, and the error ring (R18, R244, R431, R436, R437). -/

namespace Sys2Proof.Machine

/-! ## Interrupts (R431) -/

/-- The lowest bit set in a mask of 8. -/
theorem lowestBit_of_lowest {n b : Nat} (h8 : b < 8) (hb : n.testBit b = true) (hl : ∀ j, j < b → n.testBit j = false) : lowestBit n = b := by
  have h : (List.range 8).find? (fun i => n.testBit i) = some b :=
    List.find?_range_eq_some.mpr ⟨hb, List.mem_range.mpr h8, fun j hj => by simp [hl j hj]⟩
  unfold lowestBit
  rw [h]
  rfl

/-- A strand that acts for itself. -/
theorem taskOf_of_task {s : State} {x : Strand} {tid : Nat} {e : Bool} (h : x.id = .task tid e) : taskOf s x = s.task? tid := by
  unfold taskOf Strand.actsFor
  rw [h]

theorem kind_of_rootTask? {s : State} {tn : Nat} {t : Task} (h : rootTask? s tn = some t) : t.kind = .root := by
  have := List.find?_some h
  simp only [Bool.and_eq_true, beq_iff_eq] at this
  exact this.1

/-- A root task's lowest pending enabled interrupt is due. -/
theorem interruptDue_of_root {s : State} {x : Strand} {t : Task} {b : Nat} (hi : x.id = .task t.tid false) (ht : s.task? t.tid = some t)
    (hk : t.kind = .root) (he : x.trap.tstatus.getLsbD 0 = true) (hb : b < 2)
    (hd : (tipBits (s.ten x.tenant)).testBit b = true ∧ (s.ten x.tenant).tie.getLsbD b = true)
    (hl : ∀ j, j < b → ¬ ((tipBits (s.ten x.tenant)).testBit j = true ∧ (s.ten x.tenant).tie.getLsbD j = true)) :
    interruptDue s x = some b := by
  have bit (j : Nat) (hj : j < 2) : (tipBits (s.ten x.tenant) &&& (s.ten x.tenant).tie.toNat % 4).testBit j =
      ((tipBits (s.ten x.tenant)).testBit j && (s.ten x.tenant).tie.getLsbD j) := by
    rw [Nat.testBit_and, show 4 = 2 ^ 2 from rfl, Nat.testBit_mod_two_pow, BitVec.testBit_toNat]
    simp [hj]
  have hset : (tipBits (s.ten x.tenant) &&& (s.ten x.tenant).tie.toNat % 4).testBit b = true := by
    rw [bit b hb, hd.1, hd.2]
    rfl
  have hlow : lowestBit (tipBits (s.ten x.tenant) &&& (s.ten x.tenant).tie.toNat % 4) = b := by
    refine lowestBit_of_lowest (by omega) hset (fun j hj => ?_)
    rw [bit j (hj.trans hb)]
    simpa using hl j hj
  have hne : (tipBits (s.ten x.tenant) &&& (s.ten x.tenant).tie.toNat % 4 != 0) = true := by
    rw [bne_iff_ne]
    intro h0
    rw [h0, Nat.zero_testBit] at hset
    exact absurd hset nofun
  have hm : x.id ≠ .mgmt := by rw [hi]; exact nofun
  unfold interruptDue
  rw [he, if_neg (by decide), if_neg hm, taskOf_of_task hi, ht, hi]
  simp only [hk, beq_self_eq_true, Bool.true_and]
  rw [if_pos hne, hlow]

/-- The root task takes it at its next instruction. -/
theorem execInterrupt_of_due {s : State} {tn b : Nat} {t : Task} {x : Strand} (ht : rootTask? s tn = some t)
    (hx : s.strand? (.task t.tid false) = some x) (hr : x.resid = .on) (hw : x.wait = none) (hd : interruptDue s x = some b) :
    execInterrupt tn s = .next (takeTrapAt (s.focus x.id) 0x10 (BitVec.ofNat 64 b) x.ctl.pc) := by
  have hc : (s.focus x.id).cpu = x := by rw [State.id_of_strand? hx]; exact State.focus_cpu_of_strand? hx
  unfold execInterrupt
  simp only [ht, hx, hr, hw, hd, Option.isNone_none, beq_self_eq_true, Bool.and_self, if_true]
  unfold takeInterrupt State.pc
  rw [hc]
  rfl

/-! ## Queue deadlock (R18) -/

theorem blockedOn_of_queue {x : Strand} {c n : Nat} (hr : x.resid = .on) (hw : x.wait = some (.queue c n)) : blockedOn x = some (c, n) := by
  unfold blockedOn
  rw [hw, hr]
  rfl

/-- E traps once both strands have been blocked for 2^24 cycles. -/
theorem execQueueDeadlock_of_blocked {s : State} {tid c d n m : Nat} {x y : Strand} (hx : s.strand? (.task tid false) = some x)
    (hy : s.strand? (.task tid true) = some y) (hxr : x.resid = .on) (hyr : y.resid = .on) (hxw : x.wait = some (.queue d n))
    (hyw : y.wait = some (.queue c m)) :
    execQueueDeadlock tid s = if 2 ^ 24 ≤ n ∧ 2 ^ 24 ≤ m then
      .next (takeTrapAt (s.focus (.task tid true)) 0x09 (BitVec.ofNat 64 c) y.ctl.pc) else .next s := by
  have hc := State.focus_cpu_of_strand? hy
  unfold execQueueDeadlock
  rw [hx, hy, Option.bind_some, Option.bind_some, blockedOn_of_queue hxr hxw, blockedOn_of_queue hyr hyw]
  simp only [State.pc, hc, Bool.and_eq_true, decide_eq_true_eq]
  rfl

/-! ## Merge buffers (R244) -/

/-- An entry that is to be written changes no strand and no register. -/
theorem ringWrite_leaves (s : State) (tn : Nat) (e : ErrEnt) (after : List (Loc × Nat)) :
    (ringWrite s tn e after).cpu = s.cpu ∧ (ringWrite s tn e after).others = s.others ∧ (ringWrite s tn e after).tasks = s.tasks ∧
    (ringWrite s tn e after).dev.h = s.dev.h := by
  unfold ringWrite post
  split
  · exact ⟨rfl, rfl, rfl, rfl⟩
  · split <;> exact ⟨rfl, rfl, rfl, rfl⟩

theorem ringWrite_strand? (s : State) (tn : Nat) (e : ErrEnt) (after : List (Loc × Nat)) (t : StrandId) :
    (ringWrite s tn e after).strand? t = s.strand? t := by
  obtain ⟨hc, ho, _, _⟩ := ringWrite_leaves s tn e after
  unfold State.strand?
  rw [hc, ho]

/-- A merge context that an error has struck: it has failed, and its entries are gone. -/
def MergeCtx.struck (m : MergeCtx) : MergeCtx := { m with state := .failed, stat := Mst.mge, buf := [] }

/-- A strand with another merge context. -/
def Strand.withMerge (m : MergeCtx) (x : Strand) : Strand := { x with ext := { x.ext with merge := some m } }

/-- The context fails, and an error entry is to be written. -/
theorem failMerge_of_merge {s : State} {t : StrandId} {x : Strand} {m : MergeCtx} (hx : s.strand? t = some x) (hm : x.ext.merge = some m) :
    ∃ e after, failMerge s t =
      some (ringWrite (s.modStrand t (Strand.withMerge m.struck)) x.tenant e after) := by
  unfold failMerge
  rw [hx]
  simp only
  rw [hm]
  exact ⟨_, _, rfl⟩

theorem execMergeBufferError_of_merge {s : State} {t : StrandId} {x : Strand} {m : MergeCtx} (hx : s.strand? t = some x)
    (hm : x.ext.merge = some m) :
    ∃ u y, execMergeBufferError t s = .next u ∧ u.strand? t = some y ∧
      y.ext.merge = some { m with state := .failed, stat := Mst.mge, buf := [] } ∧
      u.dev.h.eccc.toNat / 2 ^ 32 = min (s.dev.h.eccc.toNat / 2 ^ 32 + 1) (2 ^ 32 - 1) := by
  have hc : (countEcc s false).strand? t = some x := by rwa [countEcc_strand?]
  obtain ⟨e, after, hu⟩ := failMerge_of_merge hc hm
  obtain ⟨_, _, _, hh⟩ := ringWrite_leaves
    ((countEcc s false).modStrand t (Strand.withMerge m.struck)) x.tenant e after
  refine ⟨_, _, ?_, (ringWrite_strand? _ x.tenant e after t).trans
    (State.strand?_modStrand_of hc (f := Strand.withMerge m.struck) (fun _ => rfl)), rfl, ?_⟩
  · unfold execMergeBufferError
    rw [hu]
    rfl
  · rw [hh, State.modStrand_dev]
    exact (countEcc_uncorrected s).1

/-! ## Task records (R436) -/

theorem task?_none_of_leave {s : State} {tid : Nat} (c : Prop) [Decidable c] (h : s.task? tid = none) :
    (if c then s.leave else s).task? tid = none := by
  split
  · unfold State.task? at *
    rwa [State.leave_tasks]
  · exact h

/-- A task that has ended has no record. -/
theorem endTask_task? (s : State) (tid status cause val : Nat) : (endTask s tid status cause val).task? tid = none := by
  unfold endTask
  split
  · assumption
  · refine task?_none_of_leave _ (List.find?_eq_none.mpr (fun x hx => ?_))
    simpa using (List.mem_filter.mp hx).2

/-- An error in the record of a task of no gang ends it. -/
theorem taskRecordError_ends {s : State} {tid : Nat} (f : Bool) {k : Task} (hk : s.task? tid = some k) (hr : k.kind ≠ .root)
    (hg : k.gang = none) : ∃ u, execInternalStateError (.taskRecord tid f) s = .next u ∧ u.task? tid = none := by
  have hc : (countEcc s false).task? tid = some k := by rwa [countEcc_task?]
  have hb : (k.kind == TKind.root) = false := beq_eq_false_iff_ne.mpr hr
  refine ⟨loseTask (countEcc s false) k f, ?_, ?_⟩
  · unfold execInternalStateError
    simp only [hc, hb, Bool.false_eq_true, if_false]
  · unfold loseTask groupOfTask
    simp only [hg, List.foldl_cons, List.foldl_nil, State.tid_of_task? hk]
    unfold State.task?
    rw [(ringWrite_leaves ..).2.2.1]
    exact endTask_task? ..

/-! ## The error ring (R437) -/

/-- Where a tenant's error ring lies, how many entries it holds, and whether it takes no more (or there is none). -/
def ringBase (t : Tenant) : Nat := t.errb.toNat % 2 ^ 57 / 64 * 64
def ringSize (t : Tenant) : Nat := 2 ^ (t.errb.toNat % 32)
def ringFull (t : Tenant) : Prop :=
  ringBase t = 0 ∨ (t.errh.toNat % 2 ^ 32 + 2 ^ 32 - t.errt.toNat % 2 ^ 32) % 2 ^ 32 = ringSize t

theorem bitsOf_low (v : Word) (n : Nat) : bitsOf v n 0 = v.toNat % 2 ^ (n + 1) := by
  unfold bitsOf
  rw [Nat.pow_zero, Nat.div_one, Nat.sub_zero]

theorem bitsOf_high (v : Word) : bitsOf v 63 32 = v.toNat / 2 ^ 32 := by
  have hv := v.isLt
  unfold bitsOf
  omega

theorem bitsOf_errb (v : Word) : bitsOf v 56 6 * 64 = v.toNat % 2 ^ 57 / 64 * 64 := by
  unfold bitsOf
  omega

theorem ringSlot_of_full {t : Tenant} (h : ringFull t) : ringSlot t = none := by
  unfold ringFull ringBase ringSize at h
  unfold ringSlot
  simp only [bitsOf_errb, bitsOf_low]
  rw [if_pos]
  simpa using h

theorem ringSlot_of_room {t : Tenant} (h : ¬ ringFull t) :
    ringSlot t = some (BitVec.ofNat 64 (ringBase t + 64 * (t.errh.toNat % 2 ^ 32 % ringSize t))) := by
  unfold ringFull ringBase ringSize at h
  unfold ringSlot
  simp only [bitsOf_errb, bitsOf_low]
  rw [if_neg]
  · rfl
  · simpa using h

/-- An entry holds 64 bytes. -/
theorem ErrEnt.length_bytes (e : ErrEnt) : e.bytes.length = 64 := by
  simp [ErrEnt.bytes, leBytes]

/-- A dropped entry counts in the high half of ERRH. -/
theorem ringDrop_errh (s : State) (tn : Nat) :
    ((ringDrop s tn).ten tn).errh.toNat % 2 ^ 32 = (s.ten tn).errh.toNat % 2 ^ 32 ∧
    ((ringDrop s tn).ten tn).errh.toNat / 2 ^ 32 = ((s.ten tn).errh.toNat / 2 ^ 32 + 1) % 2 ^ 32 := by
  unfold ringDrop
  rw [State.ten_modTen]
  · simp only [bitsOf_low, bitsOf_high, BitVec.toNat_ofNat]
    omega
  · exact fun _ => rfl

/-- A written one counts in the low half. -/
theorem ringCount_errh (s : State) (tn : Nat) :
    ((ringCount s tn).ten tn).errh.toNat % 2 ^ 32 = ((s.ten tn).errh.toNat % 2 ^ 32 + 1) % 2 ^ 32 ∧
    ((ringCount s tn).ten tn).errh.toNat / 2 ^ 32 = (s.ten tn).errh.toNat / 2 ^ 32 := by
  have hv := (s.ten tn).errh.isLt
  unfold ringCount
  rw [State.ten_modTen]
  · simp only [bitsOf_low, bitsOf_high, BitVec.toNat_ofNat]
    omega
  · exact fun _ => rfl

/-- A list of writes whose first is `w`, none of them tried yet. -/
def freshPost (w : PWrite) (ws : List PWrite) : Post := ⟨w :: ws, 0, none⟩

/-- A list of writes gives way to what follows its first write. -/
def nextPost (s : State) (k : Nat) (ws : List PWrite) : State :=
  s.withDev (fun d => { d with posts := d.posts.set k ⟨ws, 0, none⟩ })

section
variable {s : State} {k : Nat} {w : PWrite} {ws : List PWrite} (hp : s.dev.posts[k]? = some (freshPost w ws))

include hp in
/-- An entry whose record has not reached system visibility waits. -/
theorem retryPost_of_held (h : heldRing s w = true) : retryPost s k = s := by
  unfold retryPost
  rw [hp]
  simp only [freshPost, Post.ready, h]
  rfl

include hp in
/-- Any other write is made, and what is left of the list follows. -/
theorem retryPost_of_made (h : heldRing s w = false) {u : State} {next : List PWrite} (hm : postOne s w = some (u, next))
    (hn : next ++ ws ≠ []) : retryPost s k = nextPost u k (next ++ ws) := by
  have he : (next ++ ws).isEmpty = false := by simpa using hn
  unfold retryPost
  rw [hp]
  simp only [freshPost, Post.ready, h, hm, he]
  rfl

include hp in
/-- What is left then stands where the list stood. -/
theorem nextPost_getElem? {u : State} (hu : u.dev.posts = s.dev.posts) (next : List PWrite) :
    (nextPost u k next).dev.posts[k]? = some ⟨next, 0, none⟩ := by
  have hk : k < s.dev.posts.length := by
    by_contra h
    rw [List.getElem?_eq_none (Nat.not_lt.mp h)] at hp
    exact absurd hp nofun
  change (u.dev.posts.set k ⟨next, 0, none⟩)[k]? = _
  rw [List.getElem?_set_self (by rwa [hu])]

end

/-- Whether the record that an entry names has not reached system visibility. -/
theorem heldRing_iff (s : State) (tn : Nat) (e : ErrEnt) (after : List (Loc × Nat)) :
    heldRing s (.ring tn e after) = true ↔
      ∃ p ∈ after, ∃ r ∈ s.log, r.vis ≠ .system ∧ overlaps r.loc r.bytes.length p.1 p.2 = true := by
  simp [heldRing]

/-- What an entry whose record is visible becomes where the ring has room and its page can be written: its bytes stand there. -/
theorem postRing_of_room {s u : State} {k tn a : Nat} {e : ErrEnt} {after : List (Loc × Nat)} {ws : List PWrite} {c : XCtx}
    (hp : s.dev.posts[k]? = some (freshPost (.ring tn e after) ws)) (hh : heldRing s (.ring tn e after) = false)
    (hf : ¬ ringFull (s.ten tn)) (hc : rootCtx s tn = some c)
    (hl : machineLoc s c.above (BitVec.ofNat 64 (ringBase (s.ten tn) + 64 * ((s.ten tn).errh.toNat % 2 ^ 32 % ringSize (s.ten tn)))) true =
      .ok (.dev a, u)) (hu : u.dev.posts = s.dev.posts) :
    let t := retryPost s k
    lastBytes t (.dev a) 64 = e.bytes ∧ t.ten tn = u.ten tn ∧ t.dev.posts[k]? = some ⟨.count tn :: ws, 0, none⟩ := by
  have hm : postOne s (.ring tn e after) = some (enterWide u (.dev a) e.bytes, [.count tn]) := by
    unfold postOne
    simp only [ringSlot_of_room hf, hc, hl]
  rw [retryPost_of_made hp hh hm (by simp)]
  refine ⟨?_, ?_, ?_⟩
  · have hb := lastBytes_enterWide_dev u a e.bytes
    rw [e.length_bytes] at hb
    exact hb
  · exact congrArg (fun ts => (ts.find? (fun x => x.num == tn)).getD (Tenant.fresh tn)) (enterWide_tenants u (.dev a) e.bytes)
  · exact nextPost_getElem? hp (by rw [enterWide_dev, hu]) _

/-- Where the ring is full, or there is none, it is dropped and counted. -/
theorem postRing_of_full {s : State} {k tn : Nat} {e : ErrEnt} {after : List (Loc × Nat)} {ws : List PWrite}
    (hp : s.dev.posts[k]? = some (freshPost (.ring tn e after) ws)) (hh : heldRing s (.ring tn e after) = false)
    (hf : ringFull (s.ten tn)) (hw : ws ≠ []) :
    let t := retryPost s k
    t.mem = s.mem ∧ t.log = s.log ∧ t.dev.posts[k]? = some ⟨ws, 0, none⟩ ∧
      (t.ten tn).errh.toNat % 2 ^ 32 = (s.ten tn).errh.toNat % 2 ^ 32 ∧
      (t.ten tn).errh.toNat / 2 ^ 32 = ((s.ten tn).errh.toNat / 2 ^ 32 + 1) % 2 ^ 32 := by
  have hm : postOne s (.ring tn e after) = some (ringDrop s tn, []) := by
    unfold postOne
    simp only [ringSlot_of_full hf]
  obtain ⟨hlo, hhi⟩ := ringDrop_errh s tn
  rw [retryPost_of_made hp hh hm (by simpa using hw)]
  exact ⟨rfl, rfl, nextPost_getElem? hp rfl _, hlo, hhi⟩

/-- An entry that has been written is counted. -/
theorem postCount {s : State} {k tn : Nat} {ws : List PWrite} (hp : s.dev.posts[k]? = some (freshPost (.count tn) ws)) :
    let t := retryPost s k
    t.dev.posts[k]? = some ⟨.message tn :: ws, 0, none⟩ ∧ t.mem = s.mem ∧
      (t.ten tn).errh.toNat % 2 ^ 32 = ((s.ten tn).errh.toNat % 2 ^ 32 + 1) % 2 ^ 32 ∧
      (t.ten tn).errh.toNat / 2 ^ 32 = (s.ten tn).errh.toNat / 2 ^ 32 := by
  have hm : postOne s (.count tn) = some (ringCount s tn, [.message tn]) := rfl
  obtain ⟨hlo, hhi⟩ := ringCount_errh s tn
  rw [retryPost_of_made hp rfl hm (by simp)]
  exact ⟨nextPost_getElem? hp rfl _, rfl, hlo, hhi⟩

/-! ## The obligation -/

/-- Settles O47: event by event, by the lemmas above on what each event does. -/
theorem errorEvents : Obligations.ErrorEvents := by
  refine ⟨?interrupts, ?deadlock, fun s e => ⟨poisonPlace (countEcc s (e == .corrected)) e, rfl, ?mem, ?bytes, ?log, ?counts, ?place⟩,
    fun s t x m hx hm => execMergeBufferError_of_merge hx hm, fun s tid f k hk hr hg => taskRecordError_ends f hk hr hg, fun s c d => rfl,
    fun s t => rfl, ?ring⟩
  case interrupts =>
    intro s tn b t x ht htask hx hr hw he hb due hd hl
    exact execInterrupt_of_due ht hx hr hw
      (interruptDue_of_root (State.id_of_strand? hx) htask (kind_of_rootTask? ht) he hb hd hl)
  case deadlock =>
    intro s tid c d n m x y hx hy hxr hyr hxw hyw
    rw [exec_queueDeadlock, execQueueDeadlock_of_blocked hx hy hxr hyr hxw hyw]
    exact ⟨fun h1 h2 => if_pos ⟨h1, h2⟩, fun h => if_neg (by omega)⟩
  case mem => exact (poisonPlace_leaves _ e).1.trans (countEcc_mem ..)
  case bytes => exact (poisonPlace_leaves _ e).2.1.trans (by rw [countEcc_log])
  case log => exact fun hm hs => ((poisonPlace_leaves _ e).2.2.2 ⟨hm, hs⟩).trans (countEcc_log ..)
  case counts =>
    have h := uncorrectable_counts s e
    by_cases he : e = .corrected
    · rw [if_pos he] at h ⊢
      subst he
      exact ⟨h.1, h.2, countEcc_cpu .., countEcc_poison ..⟩
    · rw [if_neg he] at h ⊢
      exact h
  case place =>
    generalize (e == .corrected) = c
    cases e with
    | corrected => trivial
    | mem pa =>
      have h := strikeWord_poisonedAt_dev (countEcc s c) pa
      refine ⟨h, strikeWord_poisonedEnd h, fun p hp => ?_⟩
      rw [← countEcc_poison s c]
      exact (strikeWord_poison _ pa p).mp hp
    | host pa =>
      have h := strikeWord_poisonedAt_host (countEcc s c) pa
      refine ⟨h, strikeWord_poisonedEnd h, fun p hp => ?_⟩
      rw [← countEcc_hostPoison s c]
      exact (strikeWord_hostPoison _ pa p).mp hp
    | spad tid off =>
      intro ht
      have h := strikeWord_poisonedAt_spad (s := countEcc s c) (off := off) (by rwa [countEcc_task?])
      exact ⟨h, strikeWord_poisonedEnd h⟩
    | sreg u r => exact fun x hx => poisonPlace_sreg (by rwa [countEcc_strand?]) r
    | vreg u r g => exact fun x hx => poisonPlace_vreg (by rwa [countEcc_strand?]) r g
    | mreg u r => exact fun x hx => poisonPlace_mreg (by rwa [countEcc_strand?]) r
    | svreg u r g => exact fun x hx => poisonPlace_svreg (by rwa [countEcc_strand?]) r g
    | acc tid tile row => exact fun k hk => poisonPlace_acc (by rwa [countEcc_task?]) tile row
  case ring =>
    intro s k tn e after ws base size lo full left held
    refine ⟨fun hp hh => ?_, fun hp hw hh => ⟨fun hf c a u hc hl hu => ?_, fun hf => ?_⟩, fun hp => ?_⟩
    · exact congrArg Host.Outcome.next (retryPost_of_held hp ((heldRing_iff s tn e after).mpr hh))
    · have hh : heldRing s (.ring tn e after) = false := by rwa [← Bool.not_eq_true, heldRing_iff]
      exact ⟨_, rfl, postRing_of_room hp hh hf hc hl hu⟩
    · have hh : heldRing s (.ring tn e after) = false := by rwa [← Bool.not_eq_true, heldRing_iff]
      exact ⟨_, rfl, postRing_of_full hp hh hf hw⟩
    · exact ⟨_, rfl, postCount hp⟩

end Sys2Proof.Machine
end

section
/-! What a chaining vector instruction leaves unchanged, whatever it does (R26, R147, R151, R192). -/

namespace Sys2Proof.Machine

/-! ## The frame -/

/-- Two states that agree on everything a chaining instruction with destination d leaves, but for the queues of its task. -/
structure VKeep (d : VReg) (s t : State) : Prop where
  scalars : t.cpu.regs.s = s.cpu.regs.s
  masks : t.cpu.regs.m = s.cpu.regs.m
  sparse : t.cpu.regs.sv = s.cpu.regs.sv
  vectors : ∀ v : VReg, v ≠ d → vreg t v = vreg s v
  mem : t.mem = s.mem
  hostMem : t.hostMem = s.hostMem
  fwMem : t.fwMem = s.fwMem
  log : t.log = s.log
  id : t.cpu.id = s.cpu.id
  tenant : t.cpu.tenant = s.cpu.tenant
  trap : t.cpu.trap = s.cpu.trap
  tenants : t.tenants = s.tenants

theorem VKeep.refl (d : VReg) (s : State) : VKeep d s s :=
  ⟨rfl, rfl, rfl, fun _ _ => rfl, rfl, rfl, rfl, rfl, rfl, rfl, rfl, rfl⟩

theorem VKeep.trans {d : VReg} {a b c : State} (h : VKeep d a b) (k : VKeep d b c) : VKeep d a c where
  scalars := k.scalars.trans h.scalars
  masks := k.masks.trans h.masks
  sparse := k.sparse.trans h.sparse
  vectors v hv := (k.vectors v hv).trans (h.vectors v hv)
  mem := k.mem.trans h.mem
  hostMem := k.hostMem.trans h.hostMem
  fwMem := k.fwMem.trans h.fwMem
  log := k.log.trans h.log
  id := k.id.trans h.id
  tenant := k.tenant.trans h.tenant
  trap := k.trap.trans h.trap
  tenants := k.tenants.trans h.tenants

/-- A strand without ports leaves the tasks as well. -/
structure VFrame (d : VReg) (s t : State) : Prop extends VKeep d s t where
  tasks : NoPorts s → t.tasks = s.tasks

theorem VFrame.refl (d : VReg) (s : State) : VFrame d s s := ⟨.refl d s, fun _ => rfl⟩

/-- A strand without ports stays one. -/
theorem VFrame.noPorts {d : VReg} {s t : State} (h : VFrame d s t) (hn : NoPorts s) : NoPorts t := by
  have ht := h.tasks hn
  unfold NoPorts roleOf State.task? at *
  rw [ht, h.id]
  exact hn

theorem VFrame.trans {d : VReg} {a b c : State} (h : VFrame d a b) (k : VFrame d b c) : VFrame d a c where
  toVKeep := h.toVKeep.trans k.toVKeep
  tasks hn := (k.tasks (h.noPorts hn)).trans (h.tasks hn)

/-- A change of the cpu strand that leaves its registers, its name and its trap state. -/
theorem VFrame.ofCpu {d : VReg} {s : State} {x : Strand} (hr : x.regs = s.cpu.regs) (hi : x.id = s.cpu.id) (hn : x.tenant = s.cpu.tenant)
    (ht : x.trap = s.cpu.trap) : VFrame d s { s with cpu := x } :=
  ⟨⟨congrArg (·.s) hr, congrArg (·.m) hr, congrArg (·.sv) hr, fun v _ => congrArg (fun f => f.v[v.toNat]) hr, rfl, rfl, rfl, rfl, hi, hn, ht,
    rfl⟩, fun _ => rfl⟩

/-- A change of the clusters. -/
theorem VFrame.ofClusters {d : VReg} {s : State} (cs : List Cluster) : VFrame d s { s with clusters := cs } :=
  ⟨⟨rfl, rfl, rfl, fun _ _ => rfl, rfl, rfl, rfl, rfl, rfl, rfl, rfl, rfl⟩, fun _ => rfl⟩

/-- A change of the device. -/
theorem VFrame.ofDev {d : VReg} {s : State} (x : Dev) : VFrame d s { s with dev := x } :=
  ⟨⟨rfl, rfl, rfl, fun _ _ => rfl, rfl, rfl, rfl, rfl, rfl, rfl, rfl, rfl⟩, fun _ => rfl⟩

section
variable (d : VReg) (s : State)

theorem waitFor_vframe (w : Wait) : VFrame d s (s.waitFor w) := .ofCpu rfl rfl rfl rfl
theorem setVstart_vframe (n : Nat) : VFrame d s (setVstart s n) := .ofCpu rfl rfl rfl rfl
theorem complete_vframe : VFrame d s (complete s) := .ofCpu rfl rfl rfl rfl
theorem accrue_vframe (f : Flags) : VFrame d s (accrue s f) := .ofCpu rfl rfl rfl rfl
theorem setStaged_vframe (v : VVal) : VFrame d s (setStaged s v) := .ofCpu rfl rfl rfl rfl
theorem dropStaged_vframe : VFrame d s (dropStaged s) := .ofCpu rfl rfl rfl rfl
theorem withUsage_vframe (u : Strand → Usage) : VFrame d s (s.withCpu (fun x => { x with usage := u x })) := .ofCpu rfl rfl rfl rfl
theorem modCluster_vframe (c : Nat) (f : Cluster → Cluster) : VFrame d s (s.modCluster c f) := .ofClusters _
theorem loseEls_vframe (dst : DDst) (w : Nat) (is : List Nat) : VFrame d s (loseEls s dst w is) := modCluster_vframe d s _ _
theorem joinDiv_vframe : VFrame d s (joinDiv s) := modCluster_vframe d s _ _
theorem fresh_vframe : VFrame d s s.fresh.2 := .ofDev _
theorem blankImage_vframe (tag : Nat) : VFrame d s (blankImage s tag).2 := .ofDev _

theorem leaveDiv_vframe : VFrame d s (leaveDiv s) := by
  unfold leaveDiv
  split
  · exact modCluster_vframe d s _ _
  · exact .refl d s

/-- An entry of the diversion queue. -/
theorem addEntry_vframe (k : Chain) (dst : DDst) (i : Nat) (replay : Bool) (os : List DOp) : VFrame d s (addEntry s k dst i replay os) := by
  unfold addEntry
  exact (fresh_vframe d s).trans (modCluster_vframe d _ _ _)

/-- The destination register itself. -/
theorem setVreg_vframe (v : VVal) : VFrame d s (setVreg s d v) := by
  refine ⟨⟨rfl, rfl, rfl, fun q hq => ?_, rfl, rfl, rfl, rfl, rfl, rfl, rfl, rfl⟩, fun _ => rfl⟩
  exact Vector.getElem_set_ne d.isLt q.isLt (fun h => hq (BitVec.eq_of_toNat_eq h.symm))

theorem claim_vframe (w : Nat) (is : List Nat) : VFrame d s (claim s d w is) := by
  unfold claim
  simp only
  split
  · exact .refl d s
  · split
    · exact loseEls_vframe d s _ _ _
    · exact (loseEls_vframe d s _ _ _).trans (setVreg_vframe d _ _)

theorem beginStaged_vframe (v : VVal) : VFrame d s (beginStaged s v) := by
  unfold beginStaged
  simp only
  split
  · exact (modCluster_vframe d s _ _).trans (setStaged_vframe d _ v)
  · exact setStaged_vframe d s v

theorem keepAside_vframe (r : VReg) : VFrame d s (keepAside s r) := by
  unfold keepAside
  simp only
  split
  · exact beginStaged_vframe d s _
  · exact (beginStaged_vframe d s _).trans (modCluster_vframe d _ _ _)

end

/-! ## Queues -/

theorem modQueues_vkeep (d : VReg) (s : State) (f : Queues → Queues) : VKeep d s (modQueues s f) := by
  unfold modQueues
  split
  · exact ⟨rfl, rfl, rfl, fun _ _ => rfl, rfl, rfl, rfl, rfl, rfl, rfl, rfl, rfl⟩
  · exact .refl d s

/-- Only a strand with ports pops. -/
theorem popOps_vframe (d : VReg) (s : State) (rs : List Src) : VFrame d s (popOps s rs) := by
  unfold popOps
  split
  · exact .refl d s
  · rename_i hr
    refine ⟨?_, fun hn => absurd (beq_iff_eq.mpr hn) hr⟩
    refine List.foldlRecOn rs _ (VKeep.refl d s) (fun t ht x _ => ?_)
    cases x with
    | s r =>
      simp only
      split
      · exact ht.trans (modQueues_vkeep d t _)
      · exact ht
    | v r =>
      simp only
      split
      · exact ht.trans (modQueues_vkeep d t _)
      · exact ht

/-- Only a strand with ports pushes. -/
theorem pushV_vframe {d : VReg} {s : State} (h : pushes s d = true) (v : VVal) : VFrame d s (pushV s d v) := by
  unfold pushes at h
  rw [Bool.and_eq_true, bne_iff_ne] at h
  exact ⟨(dropStaged_vframe d s).toVKeep.trans (modQueues_vkeep d _ _), fun hn => absurd hn h.1⟩

theorem chainDone_vframe (d : VReg) (s : State) (rs : List Src) : VFrame d s (chainDone s rs) :=
  (((popOps_vframe d s rs).trans (setVstart_vframe d _ 0)).trans (complete_vframe d _)).trans (withUsage_vframe d _ _)

/-! ## Issue -/

/-- The micro-operation of a group. -/
theorem issueGroup_vframe {s t : State} {k : Chain} {d : VReg} {base lo : Nat} {behind : Bool}
    (h : issueGroup s k d base lo behind = .done t) : VFrame d s t := by
  unfold issueGroup at h
  extract_lets is ps div need port dst s1 s2 s3 old xs v s4 at h
  have h1 : VFrame d s s1 := withUsage_vframe d s _
  have h2 : VFrame d s1 s2 := by
    unfold s2
    split
    · split
      · exact .refl d s1
      · exact loseEls_vframe d s1 _ _ _
    · exact claim_vframe d s1 _ _
  have h3 : VFrame d s2 s3 := by
    refine List.foldlRecOn ps _ (VFrame.refl d s2) (fun t ht p _ => ?_)
    split
    · exact ht.trans (addEntry_vframe d t ..)
    · exact ht
  have h4 : VFrame d s3 s4 := by
    unfold s4
    split
    · exact setStaged_vframe d s3 v
    · exact setVreg_vframe d s3 v
  split at h
  · exact absurd h nofun
  split at h
  · exact absurd h nofun
  split at h
  · exact absurd h nofun
  split at h
  · exact absurd h nofun
  obtain rfl := GroupOut.done.inj h
  exact (((h1.trans h2).trans h3).trans h4).trans (accrue_vframe d s4 _)

/-- A pass over the groups. -/
theorem scanGroups_vframe (k : Chain) (d : VReg) (base : Nat) (gs : List Nat) :
    ∀ (budget : Nat) (r : Scan), VFrame d r.s (scanGroups k d base gs budget r).s := by
  induction gs with
  | nil => exact fun _ r => .refl d r.s
  | cons lo gs ih =>
    intro budget r
    unfold scanGroups
    split
    · exact ih budget r
    · split
      · exact .refl d r.s
      · split
        · exact .refl d r.s
        · split
          · exact .refl d r.s
          · exact ih _ { r with left := r.left ++ [lo], full := true }
          · rename_i t ht
            exact (issueGroup_vframe ht).trans (ih _ { r with s := t, ahead := r.ahead ++ [lo] })

/-! ## How an instruction can end -/

/-- It goes on, waits or completes in a state that keeps the frame, or traps in one. -/
inductive VEnds (d : VReg) (s : State) : Out → Prop where
  | next {t : State} (h : VFrame d s t) : VEnds d s (.next t)
  | trap {t : State} (cause : Nat) (tval : Word) (h : VFrame d s t) : VEnds d s (trap t cause tval)

theorem VEnds.after {d : VReg} {s u : State} {o : Out} (h : VFrame d s u) (k : VEnds d u o) : VEnds d s o := by
  cases k with
  | next k => exact .next (h.trans k)
  | trap c v k => exact .trap c v (h.trans k)

/-- The instruction waits where it began. -/
theorem VEnds.wait (d : VReg) (s : State) (w : Wait) : VEnds d s (.next (s.waitFor w)) := .next (waitFor_vframe d s w)

/-- It traps where it began. -/
theorem VEnds.traps (d : VReg) (s : State) (cause : Nat) (tval : Word) : VEnds d s (Machine.trap s cause tval) := .trap cause tval (.refl d s)

theorem waitQueue_vends (d : VReg) (s : State) (code : Nat) : VEnds d s (waitQueue s code) := by
  obtain ⟨c, n, h⟩ := waitQueue_waits s code
  rw [h]
  exact .wait d s _

theorem readOps_vends {d : VReg} {s : State} {k : List SVal → Out} (w : Nat) (rs : List Src) (dst : Dst) (room : Bool)
    (h : ∀ vs, VEnds d s (k vs)) : VEnds d s (readOps s w rs dst room k) := by
  rcases readOps_cases s w rs dst room k with ⟨x, e⟩ | ⟨v, e⟩ | e | ⟨vs, e⟩ <;> rw [e]
  · exact .wait d s x
  · exact .traps d s _ v
  · exact .traps d s _ _
  · exact h vs

theorem needM_vends {d : VReg} {s : State} {k : Out} (ms : List MReg) (h : VEnds d s k) : VEnds d s (needM s ms k) := by
  rcases needM_cases s ms k with ⟨v, e⟩ | e <;> rw [e]
  · exact .traps d s _ v
  · exact h

theorem fmtGate_vends {d : VReg} {s : State} {k : Out} (ok : Bool) (tags : List (Nat × Nat × Nat)) (widths : List (Nat × Nat))
    (h : VEnds d s k) : VEnds d s (fmtGate s ok tags widths k) := by
  rcases fmtGate_cases s ok tags widths k with ⟨t, e⟩ | e <;> rw [e]
  · exact .traps d s _ _
  · exact h

theorem taskOnly_vends {d : VReg} {s : State} {k : Out} (w : Nat) (h : VEnds d s k) : VEnds d s (taskOnly s w k) := by
  unfold taskOnly
  split
  · exact h
  · exact .traps d s _ _

/-! ## Chaining instructions -/

theorem chainEnd_vends (s : State) (x : VDesc) (p : MicroSt) (rs : List Src) (n : Nat) : VEnds x.d s (chainEnd s x p rs n) := by
  unfold chainEnd
  split
  · rename_i hp
    split
    · exact .next (chainDone_vframe _ _ _)
    · split
      · exact .next ((setVstart_vframe _ _ _).trans (waitFor_vframe _ _ _))
      · split
        · exact (waitQueue_vends _ _ _).after (setVstart_vframe _ _ _)
        · exact .next ((pushV_vframe hp _).trans (chainDone_vframe _ _ _))
  · split
    · exact .next ((dropStaged_vframe _ _).trans (chainDone_vframe _ _ _))
    · exact .next (chainDone_vframe _ _ _)

theorem issueGroups_vends (s : State) (k : Chain) (x : VDesc) (rs : List Src) (p : MicroSt) (budget : Nat) :
    VEnds x.d s (issueGroups s k x rs p budget) := by
  unfold issueGroups
  extract_lets r
  have hr : VFrame x.d s r.s := scanGroups_vframe k x.d p.base _ budget { s := s, left := [], full := false, ahead := p.ahead }
  refine VEnds.after hr ?_
  split
  · exact (chainEnd_vends _ _ _ _ _).after (leaveDiv_vframe _ _)
  · split
    · exact .trap _ _ ((leaveDiv_vframe _ _).trans (setVstart_vframe _ _ _))
    · refine .next (VFrame.trans ?_ ((setVstart_vframe _ _ _).trans (waitFor_vframe _ _ _)))
      split
      · exact joinDiv_vframe _ _
      · exact leaveDiv_vframe _ _

theorem chainRun_vends (s : State) (k : Chain) (x : VDesc) (rs : List Src) (budget : Nat) : VEnds x.d s (chainRun s k x rs budget) := by
  unfold chainRun
  extract_lets lo p
  split
  · split
    · exact chainEnd_vends _ _ _ _ _
    · exact .next ((setVstart_vframe _ _ _).trans (complete_vframe _ _))
  · split
    · rename_i going u _ _
      refine (issueGroups_vends _ _ _ _ _ _).after ?_
      unfold u
      split
      · exact .refl _ _
      · exact (blankImage_vframe _ s k.tag).trans (beginStaged_vframe _ _ _)
    · split
      · split
        · exact issueGroups_vends _ _ _ _ _ _
        · split
          · exact .wait _ _ _
          · split
            · exact .traps _ _ _ _
            · exact (issueGroups_vends _ _ _ _ _ _).after (keepAside_vframe _ _ _)
      · exact issueGroups_vends _ _ _ _ _ _

theorem chain_vends (s : State) (w : Nat) (x : VDesc) (budget : Nat) : VEnds x.d s (chain s w x budget) := by
  refine taskOnly_vends w (readOps_vends w _ _ _ (fun vs => ?_))
  refine fmtGate_vends _ _ _ ?_
  split
  · exact .traps _ _ _ _
  · exact needM_vends _ (chainRun_vends _ _ _ _ _)

/-- A chaining instruction reads its operands and issues its groups. -/
theorem exec_chainRow {i : Instr} {x : VDesc} (h : chainRow i = some x) (s : State) : exec i s = chain s (encodeNat i) x allGroups := by
  unfold chainRow at h
  split at h
  case h_39 => exact absurd h nofun
  all_goals
    obtain rfl := Option.some.inj h
    rfl

/-- The strand of a task outside its handler, whose tenant has a vector: where a trap is taken, and what it leaves. -/
theorem takeTrapAt_of_vkeep {d : VReg} {s t : State} (h : VKeep d s t) (ht : isTask s = true) (hi : s.cpu.trap.tstatus.getLsbD 4 = false)
    (hv : tvecOf s s.cpu ≠ 0) (c : Nat) (v p : Word) :
    takeTrapAt t c v p = { t with cpu := enterHandler t.cpu (tvecOf t t.cpu) c v p } := by
  have htv : tvecOf t t.cpu = tvecOf s s.cpu := by
    unfold tvecOf State.ten
    rw [h.id, h.trap, h.tenant, h.tenants]
  refine takeTrapAt_enters c v p (fun a k => ?_) (by rwa [h.trap]) (by rwa [htv])
  rw [h.id]
  intro he
  unfold isTask at ht
  rw [he] at ht
  exact absurd ht nofun

/-- Settles O59: whichever way such an instruction ends, it has gone through states that keep the frame, and a trap it takes
changes the trap state and the control registers alone. -/
theorem vectorFrame : Obligations.VectorFrame := by
  intro s t i x hx ht hi hv he
  have hends := chain_vends s (encodeNat i) x allGroups
  rw [← exec_chainRow hx, he] at hends
  generalize ho : Host.Outcome.next t = o at hends
  cases hends with
  | next h =>
    obtain rfl := Host.Outcome.next.inj ho
    exact ⟨h.scalars, h.masks, h.sparse, h.vectors, h.mem, h.hostMem, h.fwMem, h.log, h.tasks⟩
  | @trap u c v h =>
    obtain rfl := Host.Outcome.next.inj ho
    rw [takeTrapAt_of_vkeep h.toVKeep ht hi hv]
    exact ⟨h.scalars, h.masks, h.sparse, h.vectors, h.mem, h.hostMem, h.fwMem, h.log, h.tasks⟩

end Sys2Proof.Machine
end

section
/-! Decoding the word of an instruction (R57 to R60, Table 3.13). -/

namespace Sys2Proof.Laws.RoundTrip
/-- Every instruction: the case of each constructor, in their order. -/
theorem statement (i : Instr) : Statement i :=
  Instr.rec (motive := Statement)
    mode trap brk tlbinvVa tlbinvAsid tlbinvIpa intr add sub mul mulh mulhu div divu rem remu and or xor sll srl sra slt sltu min
    max minu maxu addi andi ori xori slli srli srai slti sltiu lih lix sel clz ctz popc bext bins bswap csrr csrw csrs csrc fadd
    fsub fmul fdiv fsqrt fmin fmax feq flt fle fclass fcvtFF fcvtFI fcvtIF fsgnj fsgnjN fsgnjX ffma ffms ffnma ffnms beq bne blt
    bge bltu bgeu jal jalr loop loopi vloop lpclr bqput bqb ldB ldH ldW ldD ldBu ldHu ldWu stB stH stW stD prefR prefW prefS
    amoAdd amoAnd amoOr amoXor amoMin amoMax amoMinu amoMaxu amoSwap amoCas amoFadd fenceAcq fenceRel fenceAr fenceSc vdrain mmon
    mwait bar setvl setvli vadd vsub vmul vmulh vdiv vmin vmax vabs vneg vand vor vxor vnot vsll vsrl vsra vdot4 vaddw vclass
    vsgnj vsgnjN vsgnjX vfma vfms vfnma vfnms vcmpEq vcmpNe vcmpLt vcmpLe vcmpGt vcmpGe vcmpUn vcmpOrd vsel vexp vexp2 vlog vlog2
    vsin vcos vtanh vsigm vrcp vsqrt vrsqrt verf vapply vcvt vquant vhad vsclget vsclset vperm vslideup vslidedn vcompress vexpand
    vzip vunzip vbcast vid vext vins vmv vredSum vredMin vredMax vredAnd vredOr vredXor vscanSum vscanMin vscanMax vscanAnd
    vscanOr vscanXor mand mor mxor mnot mpop mfirst mset mmv settle settleNf vpres vfill vld vlds vwait vst vsts vgat vsct vscadd
    vfas vprobe vldSc vstSc mma mmas mmasp maccZ maccRd maccWr maccSt maccStX mtd svld svst svadd svmul svscale svcomp svexp svlen
    nop tret halt wfi tlbinvVmid tlbsync tlbsyncComplete mrWrite fflagsAccess microOpIssue settleAll settleNfAll settleComplete
    thawTake thawTimeout mgopen mgopenCont mgopenGrant mgpush mgflush mgpull mgpullSv mgclose mgstatRuns mgstatEntries
    mgstatStatus mergeBufferError cpdim cpgo cpgat cpmc permit cpstat copyQueueAdmit copyStart slotPermitTake transfer gatherRow
    copyStamp copyFail launch launchAdmit pinPassResume gsub gsubAdmit spawn join joinWake yield park tend tendComplete prio wid
    taskEnumerate gangAdmit taskDispatch preempt steal parkWake launchComplete nodeFinish nodeFail vaneArm vaneArmCommit vret lull
    lullN vaneRd vaneDrop flipMessage idlePass edgeStoreError rfence rwin rwinCloseComplete illegalInstruction queueDeadlock
    interrupt wfiWake haltWake read push enterScalar supply enterTrain widen atomic land complete scAccess monitorRead barArrive
    chunkDone remoteEnter ack dataMessage tailMessage ackMessage nackMessage atomicRequest atomicResponse stampMessage
    restartMessage resendTimeout streamTimeout vdmapWrite domainSwitch clockChange tctlWrite tctlApply slewStep budgetInterval
    pmeasWindow pbudWrite overcurrentTrip overcurrentClear sensorSample wdogWrite watchdogWarning watchdogExpire mtickTick
    pctlWrite mInterrupt pswWrite pswaWrite energyWindow hsemRead hsemRelease hsemLapse hostCsrAccess tenantCreate tenantReset
    memoryWindowWrite hinvWrite hinvDone rtbaseWrite migRetry cxlMemAccess spdmGetVersion spdmGetCapabilities
    spdmNegotiateAlgorithms spdmGetDigests spdmGetCertificate spdmChallenge spdmGetMeasurements spdmUnsupportedRequest
    uncorrectableError internalStateError clusterReset clusterResetComplete warmReset coldReset stateDump stateDumpComplete
    tenantResetComplete msixTableWrite i

/-- Settles O54, constructor by constructor: each field of the word holds what the encoder put there. -/
theorem decodeOfEncode : Obligations.DecodeOfEncode := statement


/-- Settles O53: the ten words of Table 3.13 are those of their instructions, so O54 decodes them; the other three are refused by a bad
major opcode, a reserved bit and a mask register above m7. -/
theorem exampleWords : Obligations.ExampleWords :=
  ⟨decodeOfEncode .nop rfl rfl, decodeOfEncode (.mode 0x8405) rfl rfl, decodeOfEncode (.setvli 4 32) rfl rfl,
    decodeOfEncode (.vadd 1 2 (.sca 3)) rfl rfl, decodeOfEncode (.vredSum 4 3) rfl rfl, decodeOfEncode (.vext 5 4 0) rfl rfl,
    decodeOfEncode (.stW 5 3 0) rfl rfl, decodeOfEncode (.amoCas 3 2 4 .acq .d) rfl rfl, decodeOfEncode (.mma 0 8 1 true 0) rfl rfl,
    decodeOfEncode (.beq 1 2 0x7FFD) rfl rfl, rfl, rfl, rfl⟩
end Sys2Proof.Laws.RoundTrip
end

section
/-! Encoding what a word decodes to (R58, R59): no bit of a word that decodes is ignored. -/

namespace Sys2Proof

-- One at a time: `readsBack_row` finds its side conditions' tactics in this file, and so each use of it waits for all proofs before.
set_option Elab.async false

variable {α : Type} {w : IWord}

/-! ## The fields of a word -/

/-- A cut at bit `lo` divides the low bits of a word into two fields. -/
theorem fld_cut (w : IWord) {hi lo : Nat} (h : lo ≤ hi) (h0 : lo ≠ 0) : fld w hi 0 = fld w hi lo * 2 ^ lo + fld w (lo - 1) 0 := by
  unfold fld
  rw [show lo - 1 + 1 - 0 = lo by omega, show hi + 1 - 0 = (hi + 1 - lo) + lo by omega, Nat.pow_add', Nat.pow_zero, Nat.div_one,
    Nat.mod_mul, Nat.mul_comm, Nat.add_comm]

theorem fld_word (w : IWord) : fld w 31 0 = w.toNat := by
  rw [fld, Nat.pow_zero, Nat.div_one]
  exact Nat.mod_eq_of_lt w.isLt

theorem fld_lt (w : IWord) (hi lo : Nat) : fld w hi lo < 2 ^ (hi + 1 - lo) := Nat.mod_lt _ (Nat.two_pow_pos _)

/-- The fields into which cuts at the bits `cuts` divide bits `hi` to 0, each shifted to its place, in sum. -/
def fieldSum (w : IWord) (hi : Nat) : List Nat → Nat
  | [] => fld w hi 0
  | c :: cs => fld w hi c * 2 ^ c + fieldSum w (c - 1) cs

@[simp] theorem fieldSum_nil (hi : Nat) : fieldSum w hi [] = fld w hi 0 := rfl

@[simp] theorem fieldSum_cons (hi c : Nat) (cs : List Nat) : fieldSum w hi (c :: cs) = fld w hi c * 2 ^ c + fieldSum w (c - 1) cs := rfl

/-- The cuts descend, from `hi` at most to above bit 0. -/
def descend (hi : Nat) : List Nat → Bool
  | [] => true
  | c :: cs => decide (c ≤ hi ∧ c ≠ 0) && descend (c - 1) cs

theorem fieldSum_eq (cuts : List Nat) {hi : Nat} (h : descend hi cuts = true) : fieldSum w hi cuts = fld w hi 0 := by
  induction cuts generalizing hi with
  | nil => rfl
  | cons c cs ih =>
    obtain ⟨⟨hc, h0⟩, hcs⟩ : (c ≤ hi ∧ c ≠ 0) ∧ descend (c - 1) cs = true := by simpa [descend] using h
    rw [fieldSum_cons, ih hcs, fld_cut w hc h0]

/-! ## Operands as fields -/

@[simp] theorem fldBv_toNat {n : Nat} (lo : Nat) (h : n ≠ 0) : (fldBv n w lo).toNat = fld w (lo + n - 1) lo := by
  rw [fld, show lo + n - 1 + 1 - lo = n by omega]
  exact BitVec.toNat_ofNat _ _

@[simp] theorem bit_toNat (i : Nat) : (bit w i).toNat = fld w i i := by
  unfold bit fld
  rw [Nat.add_sub_cancel_left]
  rcases Nat.mod_two_eq_zero_or_one (w.toNat / 2 ^ i) with h | h <;> simp [h]

@[simp] theorem vOperand_flag : (vOperand w).flag.toNat = fld w 9 9 := by
  rw [← bit_toNat]
  unfold vOperand
  cases bit w 9 <;> rfl

@[simp] theorem vOperand_reg : (vOperand w).reg.toNat = fld w 14 10 := by
  unfold vOperand
  cases bit w 9 <;> exact fldBv_toNat 10 (by decide)

theorem FTy.code_ofCode_min (n : Nat) : (FTy.ofCode n).code = min n 3 := by
  rcases n with _ | _ | _ | _ <;> simp [FTy.ofCode, FTy.code]

theorem ITy.code_ofCode_min (n : Nat) : (ITy.ofCode n).code = min n 3 := by
  rcases n with _ | _ | _ | _ <;> simp [ITy.ofCode, ITy.code]

theorem AmoOrder.code_ofCode_min (n : Nat) : (AmoOrder.ofCode n).code = min n 3 := by
  rcases n with _ | _ | _ | _ <;> simp [AmoOrder.ofCode, AmoOrder.code]

theorem AmoSize.code_ofCode_min (n : Nat) : (AmoSize.ofCode n).code = min n 3 := by
  rcases n with _ | _ | _ | _ <;> simp [AmoSize.ofCode, AmoSize.code]

theorem IntSize.code_ofCode_min (n : Nat) : (IntSize.ofCode n).code = min n 1 := by
  rcases n with _ | _ <;> simp [IntSize.ofCode, IntSize.code]

theorem FpSize.code_ofCode_min (n : Nat) : (FpSize.ofCode n).code = min n 1 := by
  rcases n with _ | _ <;> simp [FpSize.ofCode, FpSize.code]

@[simp] theorem Scope.code_ofCode_min (n : Nat) : (Scope.ofCode n).code = min n 5 := by
  rcases n with _ | _ | _ | _ | _ | _ <;> simp [Scope.ofCode, Scope.code]

@[simp] theorem Level.code_ofCode_min (n : Nat) : (Level.ofCode n).code = min n 5 := by
  rcases n with _ | _ | _ | _ | _ | _ <;> simp [Level.ofCode, Level.code]

theorem min_fld (w : IWord) (lo : Nat) : min (fld w (lo + 1) lo) 3 = fld w (lo + 1) lo :=
  Nat.min_eq_left (Nat.le_of_lt_succ (by have h := fld_lt w (lo + 1) lo; rwa [show lo + 1 + 1 - lo = 2 by omega] at h))

theorem min_bit (w : IWord) (i : Nat) : min (fld w i i) 1 = fld w i i :=
  Nat.min_eq_left (Nat.le_of_lt_succ (by simpa using fld_lt w i i))

@[simp] theorem FTy.code_ofCode_fld (lo : Nat) : (FTy.ofCode (fld w (lo + 1) lo)).code = fld w (lo + 1) lo :=
  (FTy.code_ofCode_min _).trans (min_fld w lo)

@[simp] theorem ITy.code_ofCode_fld (lo : Nat) : (ITy.ofCode (fld w (lo + 1) lo)).code = fld w (lo + 1) lo :=
  (ITy.code_ofCode_min _).trans (min_fld w lo)

@[simp] theorem AmoOrder.code_ofCode_fld (lo : Nat) : (AmoOrder.ofCode (fld w (lo + 1) lo)).code = fld w (lo + 1) lo :=
  (AmoOrder.code_ofCode_min _).trans (min_fld w lo)

@[simp] theorem AmoSize.code_ofCode_fld (lo : Nat) : (AmoSize.ofCode (fld w (lo + 1) lo)).code = fld w (lo + 1) lo :=
  (AmoSize.code_ofCode_min _).trans (min_fld w lo)

@[simp] theorem IntSize.code_ofCode_bit (i : Nat) : (IntSize.ofCode (fld w i i)).code = fld w i i :=
  (IntSize.code_ofCode_min _).trans (min_bit w i)

@[simp] theorem FpSize.code_ofCode_bit (i : Nat) : (FpSize.ofCode (fld w i i)).code = fld w i i :=
  (FpSize.code_ofCode_min _).trans (min_bit w i)

/-! ## The checks of register fields -/

@[simp] theorem low3_iff (lo : Nat) : low3 w lo = true ↔ fld w (lo + 4) (lo + 3) = 0 := decide_eq_true_iff
@[simp] theorem pairOk_iff (lo : Nat) : pairOk w lo = true ↔ fld w lo lo = 0 ∧ fld w (lo + 4) (lo + 1) ≠ 0 := decide_eq_true_iff
@[simp] theorem grp_iff : grp w = true ↔ fld w 19 15 + 2 ^ fld w 4 3 ≤ 32 := decide_eq_true_iff

/-! ## Reading back -/

/-- Whatever `r` reads from the word `w`, `f` makes it a well-formed instruction with an encoding, whose word is `w`. -/
def ReadsBack (f : α → Instr) (w : IWord) (r : Except DecodeError α) : Prop :=
  ∀ x, r = .ok x → encodeNat (f x) = w.toNat ∧ WellFormed (f x) = true ∧ (f x).encoded = true

theorem readsBack_error (f : α → Instr) (w : IWord) (e : DecodeError) : ReadsBack f w (.error e) := nofun

theorem chk_ok {modifier : Bool} {zeros : List (Nat × Nat)} {regs : List Bool} {x y : α} (h : chk w modifier zeros regs x = .ok y) :
    x = y ∧ modifier = true ∧ (∀ p ∈ zeros, fld w p.1 p.2 = 0) ∧ ∀ b ∈ regs, b = true := by
  unfold chk at h
  split at h
  · cases h
  split at h
  · cases h
  split at h
  · cases h
  cases h
  simp_all

/-- A row whose fields the bits `cuts` divide reads back where its checks make the word of what it reads the sum of the fields:
with the operands written as fields, that is linear in the fields, of which the checks and the case at hand give the others. -/
theorem readsBack_row {f : α → Instr} {modifier : Bool} {zeros : List (Nat × Nat)} {regs : List Bool} {x : α} (cuts : List Nat)
    (wf : modifier = true → (∀ b ∈ regs, b = true) → WellFormed (f x) = true := by intros; rfl)
    (word : modifier = true → (∀ p ∈ zeros, fld w p.1 p.2 = 0) → (∀ b ∈ regs, b = true) →
      encodeNat (f x) = fieldSum w 31 cuts := by
        intro guard zero reg
        dsimp only [encodeNat, id, Late.instr]
        simp at guard zero reg ⊢
        omega)
    (cut : descend 31 cuts = true := by rfl) (enc : (f x).encoded = true := by rfl) : ReadsBack f w (chk w modifier zeros regs x) := by
  intro y hy
  obtain ⟨rfl, hm, hz, hr⟩ := chk_ok hy
  exact ⟨by rw [word hm hz hr, fieldSum_eq cuts cut, fld_word], wf hm hr, enc⟩

/-! ## Well-formedness from the checks -/

theorem fldBv_ne_zero {n lo : Nat} (hn : n ≠ 0) (h : fld w (lo + n - 1) lo ≠ 0) : fldBv n w lo ≠ 0 := fun e => h <| by
  rw [← fldBv_toNat lo hn, e]
  rfl

/-- The shift count of a `.w` form, bit 5 clear, is below 32 (Table 3.4). -/
theorem shiftCount_wf (guard : decide (fld w 12 12 = 0 ∨ fld w 5 5 = 0) = true) :
    decide (bit w 12 = false ∨ (fldBv 6 w 0).toNat < 32) = true := by
  refine decide_eq_true ((of_decide_eq_true guard).imp (fun h => ?_) fun h => ?_)
  · rwa [← bit_toNat, Bool.toNat_eq_zero] at h
  · rw [fldBv_toNat 0 (by decide)]
    unfold fld at h ⊢
    omega

theorem ofCode_ne (guard : decide (fld w 9 8 ≠ fld w 1 0) = true) : decide (FTy.ofCode (fld w 9 8) ≠ FTy.ofCode (fld w 1 0)) = true :=
  decide_eq_true fun e => of_decide_eq_true guard <| by simpa using congrArg FTy.code e

/-- The pair and the vector group of a matrix multiply (R60). -/
theorem group_wf {b : Bool} (reg : ∀ c ∈ [b, pairOk w 10, grp w], c = true) :
    decide (fldBv 4 w 11 ≠ 0 ∧ (fldBv 5 w 15).toNat + 2 ^ (fldBv 2 w 3).toNat ≤ 32) = true := by
  simp at reg
  exact decide_eq_true ⟨fldBv_ne_zero (by decide) reg.2.1.2, by simpa using reg.2.2⟩

/-! ## Each major opcode (Tables 3.3 to 3.11) -/

theorem decodeSys_readsBack (major : fld w 31 25 = 2) : ReadsBack id w (decodeSys w) := by
  unfold decodeSys
  split
  case h_10 => exact readsBack_error _ _ _
  case h_7 =>
    split
    case h_5 => exact readsBack_error _ _ _
    case h_3 => exact readsBack_row [25, 15, 10]
    all_goals exact readsBack_row [25, 20, 15, 10]
  case h_9 => exact readsBack_row [25, 15, 10, 7, 6]
  all_goals exact readsBack_row [25, 15, 10]

theorem decodeAlu_readsBack (major : fld w 31 25 = 3) : ReadsBack id w (decodeAlu w) := by
  unfold decodeAlu
  split
  case h_22 => exact readsBack_error _ _ _
  all_goals exact readsBack_row [25, 20, 15, 10, 9, 5]

theorem decodeShifti_readsBack (major : fld w 31 25 = 8) : ReadsBack id w (decodeShifti w) := by
  unfold decodeShifti
  split
  case h_4 => exact readsBack_error _ _ _
  all_goals exact readsBack_row [25, 20, 15, 13, 12, 6] (wf := fun guard _ => shiftCount_wf guard)

theorem decodeBits_readsBack (major : fld w 31 25 = 14) : ReadsBack id w (decodeBits w) := by
  unfold decodeBits
  split
  case h_7 => exact readsBack_error _ _ _
  all_goals exact readsBack_row [25, 20, 15, 10, 9, 3]

theorem decodeCsr_readsBack (major : fld w 31 25 = 15) : ReadsBack id w (decodeCsr w) := by
  unfold decodeCsr
  split
  case h_5 => exact readsBack_error _ _ _
  all_goals exact readsBack_row [25, 20, 15, 12]

theorem decodeFpu_readsBack (major : fld w 31 25 = 16) : ReadsBack id w (decodeFpu w) := by
  unfold decodeFpu
  split
  case h_14 => exact readsBack_error _ _ _
  case h_12 =>
    split
    case h_4 => exact readsBack_error _ _ _
    case h_1 => exact readsBack_row [25, 20, 15, 10, 8, 4, 2] (wf := fun guard _ => ofCode_ne guard)
    all_goals exact readsBack_row [25, 20, 15, 10, 8, 4, 2]
  case h_13 =>
    split
    case h_4 => exact readsBack_error _ _ _
    all_goals exact readsBack_row [25, 20, 15, 10, 8, 4]
  all_goals exact readsBack_row [25, 20, 15, 10, 8, 4]

theorem decodeFfma_readsBack (major : fld w 31 25 = 17) : ReadsBack id w (decodeFfma w) := by
  unfold decodeFfma
  split
  case h_5 => exact readsBack_error _ _ _
  all_goals exact readsBack_row [25, 20, 15, 10, 5, 4, 2]

theorem decodeLoop_readsBack (major : fld w 31 25 = 26) : ReadsBack id w (decodeLoop w) := by
  unfold decodeLoop
  split
  case h_5 => exact readsBack_error _ _ _
  case h_1 | h_3 =>
    exact readsBack_row [25, 24, 20, 15] (wf := fun guard _ => decide_eq_true (fldBv_ne_zero (by decide) (of_decide_eq_true guard)))
  case h_2 =>
    exact readsBack_row [25, 24, 20, 8] (wf := fun guard _ => decide_eq_true (fldBv_ne_zero (by decide) (of_decide_eq_true guard)))
  case h_4 => exact readsBack_row [25, 24, 20]

theorem decodeQbr_readsBack (major : fld w 31 25 = 27) : ReadsBack id w (decodeQbr w) := by
  unfold decodeQbr
  split
  case h_3 => exact readsBack_error _ _ _
  all_goals exact readsBack_row [25, 20, 15]

theorem decodeLd_readsBack (major : fld w 31 25 = 28) : ReadsBack id w (decodeLd w) := by
  unfold decodeLd
  split
  case h_8 => exact readsBack_error _ _ _
  all_goals exact readsBack_row [25, 20, 15, 12]

theorem decodeSt_readsBack (major : fld w 31 25 = 29) : ReadsBack id w (decodeSt w) := by
  unfold decodeSt
  split
  case h_5 => exact readsBack_error _ _ _
  all_goals exact readsBack_row [25, 20, 15, 12]

theorem decodePref_readsBack (major : fld w 31 25 = 30) : ReadsBack id w (decodePref w) := by
  unfold decodePref
  split
  case h_4 => exact readsBack_error _ _ _
  all_goals exact readsBack_row [25, 20, 15, 12]

theorem decodeAmo_readsBack (major : fld w 31 25 = 31) : ReadsBack id w (decodeAmo w) := by
  unfold decodeAmo
  split
  case h_12 => exact readsBack_error _ _ _
  case h_11 =>
    split
    · exact readsBack_row [25, 20, 15, 10, 8, 7, 6]
    · exact readsBack_error _ _ _
  case h_9 | h_10 => exact readsBack_row [25, 20, 15, 10, 8, 6]
  all_goals exact readsBack_row [25, 20, 15, 10, 8, 7, 6]

theorem decodeSync_readsBack (major : fld w 31 25 = 32) : ReadsBack id w (decodeSync w) := by
  unfold decodeSync
  split
  case h_6 => exact readsBack_error _ _ _
  case h_1 =>
    split
    case h_5 => exact readsBack_error _ _ _
    all_goals exact readsBack_row [25, 10, 7, 4]
  case h_2 | h_5 => exact readsBack_row [25, 7, 4]
  all_goals exact readsBack_row [25, 20, 15, 4]

theorem decodeSetvl_readsBack (major : fld w 31 25 = 33) : ReadsBack id w (decodeSetvl w) := by
  unfold decodeSetvl
  split
  case h_3 => exact readsBack_error _ _ _
  all_goals exact readsBack_row [25, 20, 15, 14]

theorem decodeVarith_readsBack (major : fld w 31 25 = 34) : ReadsBack id w (decodeVarith w) := by
  unfold decodeVarith
  split
  case h_21 => exact readsBack_error _ _ _
  case h_20 =>
    split
    case h_4 => exact readsBack_error _ _ _
    all_goals exact readsBack_row [25, 20, 15, 10, 9, 7, 5]
  case h_8 | h_9 | h_13 | h_19 => exact readsBack_row [25, 20, 15, 5]
  all_goals exact readsBack_row [25, 20, 15, 10, 9, 5]

theorem decodeVfma_readsBack (major : fld w 31 25 = 35) : ReadsBack id w (decodeVfma w) := by
  unfold decodeVfma
  split
  case h_5 => exact readsBack_error _ _ _
  all_goals exact readsBack_row [25, 20, 15, 10, 5, 2]

theorem decodeVcmp_readsBack (major : fld w 31 25 = 36) : ReadsBack id w (decodeVcmp w) := by
  unfold decodeVcmp
  split
  case h_9 => exact readsBack_error _ _ _
  all_goals exact readsBack_row [25, 23, 20, 15, 10, 9, 3]

theorem decodeVfunc_readsBack (major : fld w 31 25 = 38) : ReadsBack id w (decodeVfunc w) := by
  unfold decodeVfunc
  split
  case h_14 => exact readsBack_error _ _ _
  case h_13 => exact readsBack_row [25, 20, 15, 10, 4]
  all_goals exact readsBack_row [25, 20, 15, 4]

theorem decodeVcvt_readsBack (major : fld w 31 25 = 39) : ReadsBack id w (decodeVcvt w) := by
  unfold decodeVcvt
  split
  case h_6 => exact readsBack_error _ _ _
  case h_3 => exact readsBack_row [25, 20, 15, 10, 5, 3] (wf := fun guard _ => by simpa [WellFormed] using guard)
  all_goals exact readsBack_row [25, 20, 15, 3]

theorem decodeVperm_readsBack (major : fld w 31 25 = 40) : ReadsBack id w (decodeVperm w) := by
  unfold decodeVperm
  split
  case h_13 => exact readsBack_error _ _ _
  case h_9 => exact readsBack_row [25, 20, 4]
  case h_4 | h_5 => exact readsBack_row [25, 20, 15, 13, 10, 4]
  case h_8 | h_12 => exact readsBack_row [25, 20, 15, 4]
  all_goals exact readsBack_row [25, 20, 15, 10, 4]

theorem decodeVred_readsBack (major : fld w 31 25 = 41) : ReadsBack id w (decodeVred w) := by
  unfold decodeVred
  split
  case h_3 => exact readsBack_error _ _ _
  case h_1 =>
    split
    case h_7 => exact readsBack_error _ _ _
    all_goals exact readsBack_row [25, 20, 15, 8, 4]
  case h_2 =>
    split
    case h_7 => exact readsBack_error _ _ _
    all_goals exact readsBack_row [25, 20, 15, 8, 4]

theorem decodeMask_readsBack (major : fld w 31 25 = 42) : ReadsBack id w (decodeMask w) := by
  unfold decodeMask
  split
  case h_9 => exact readsBack_error _ _ _
  case h_7 => exact readsBack_row [25, 23, 20, 15, 3]
  case h_4 | h_8 => exact readsBack_row [25, 23, 20, 18, 15, 3]
  case h_5 | h_6 => exact readsBack_row [25, 20, 18, 15, 3]
  all_goals exact readsBack_row [25, 23, 20, 18, 15, 13, 10, 3]

theorem decodePres_readsBack (major : fld w 31 25 = 43) : ReadsBack id w (decodePres w) := by
  unfold decodePres
  split
  case h_4 => exact readsBack_error _ _ _
  case h_1 =>
    split
    case h_5 => exact readsBack_error _ _ _
    case h_1 | h_2 => exact readsBack_row [25, 20, 15, 10, 9, 3, 2]
    all_goals exact readsBack_row [25, 10, 9, 3, 2]
  case h_2 => exact readsBack_row [25, 23, 20, 15, 2]
  case h_3 => exact readsBack_row [25, 20, 15, 2]

theorem decodeVld_readsBack (major : fld w 31 25 = 44) : ReadsBack id w (decodeVld w) := by
  unfold decodeVld
  split
  case h_4 => exact readsBack_error _ _ _
  case h_3 => exact readsBack_row [25, 20, 2]
  all_goals exact readsBack_row [25, 20, 15, 10, 9, 2]

theorem decodeVst_readsBack (major : fld w 31 25 = 45) : ReadsBack id w (decodeVst w) := by
  unfold decodeVst
  split
  case h_3 => exact readsBack_error _ _ _
  case h_1 => exact readsBack_row [25, 20, 15, 9, 8, 1]
  case h_2 => exact readsBack_row [25, 20, 15, 10, 9, 8, 1]

theorem decodeVgs_readsBack (major : fld w 31 25 = 46) : ReadsBack id w (decodeVgs w) := by
  unfold decodeVgs
  split
  case h_6 => exact readsBack_error _ _ _
  case h_1 => exact readsBack_row [25, 20, 15, 10, 9, 3]
  case h_4 => exact readsBack_row [25, 20, 15, 10, 3]
  case h_5 => exact readsBack_row [25, 23, 20, 15, 10, 9, 3]
  all_goals exact readsBack_row [25, 20, 15, 10, 9, 8, 3]

theorem decodeVsc_readsBack (major : fld w 31 25 = 47) : ReadsBack id w (decodeVsc w) := by
  unfold decodeVsc
  split
  case h_3 => exact readsBack_error _ _ _
  all_goals exact readsBack_row [25, 20, 15, 1]

theorem decodeMma_readsBack (major : fld w 31 25 = 48) : ReadsBack id w (decodeMma w) := by
  unfold decodeMma
  split
  case h_4 => exact readsBack_error _ _ _
  case h_2 =>
    refine readsBack_row [25, 23, 20, 16, 15, 11, 10, 6, 5, 3] (wf := fun _ reg => ?_)
    simp at reg
    exact decide_eq_true ⟨fldBv_ne_zero (by decide) reg.2.1.2, fldBv_ne_zero (by decide) reg.2.2.2⟩
  all_goals exact readsBack_row [25, 23, 20, 15, 11, 10, 6, 5, 3] (wf := fun _ reg => group_wf reg)

theorem decodeMacc_readsBack (major : fld w 31 25 = 49) : ReadsBack id w (decodeMacc w) := by
  unfold decodeMacc
  split
  case h_6 => exact readsBack_error _ _ _
  case h_4 =>
    split
    case h_3 => exact readsBack_error _ _ _
    all_goals exact readsBack_row [25, 23, 20, 15, 10, 4, 3]
  case h_1 => exact readsBack_row [25, 23, 20, 3]
  case h_2 => exact readsBack_row [25, 20, 18, 15, 10, 3]
  case h_3 => exact readsBack_row [25, 23, 20, 15, 10, 3]
  case h_5 =>
    refine readsBack_row [25, 21, 20, 15, 10, 3] (wf := fun _ reg => ?_)
    simp at reg
    exact decide_eq_true (fldBv_ne_zero (by decide) reg.2)

theorem decodeSvec_readsBack (major : fld w 31 25 = 50) : ReadsBack id w (decodeSvec w) := by
  unfold decodeSvec
  split
  case h_9 => exact readsBack_error _ _ _
  case h_5 => exact readsBack_row [25, 23, 20, 18, 15, 10, 3]
  case h_3 | h_4 => exact readsBack_row [25, 23, 20, 18, 15, 13, 10, 3]
  case h_7 | h_8 => exact readsBack_row [25, 20, 18, 15, 3]
  all_goals exact readsBack_row [25, 23, 20, 15, 3]

theorem decodeMerge_readsBack (major : fld w 31 25 = 51) : ReadsBack Late.instr w (decodeMerge w) := by
  unfold decodeMerge
  split
  case h_7 => exact readsBack_error _ _ _
  case h_1 =>
    split
    case h_3 => exact readsBack_error _ _ _
    all_goals exact readsBack_row [25, 20, 15, 4, 3]
  case h_4 =>
    split
    case h_3 => exact readsBack_error _ _ _
    case h_1 => exact readsBack_row [25, 20, 15, 4, 3]
    case h_2 => exact readsBack_row [25, 23, 20, 15, 4, 3]
  case h_6 =>
    split
    case h_4 => exact readsBack_error _ _ _
    all_goals exact readsBack_row [25, 20, 10, 8, 3]
  case h_2 => exact readsBack_row [25, 20, 18, 15, 10, 8, 4, 3]
  case h_3 => exact readsBack_row [25, 20, 3]
  case h_5 => exact readsBack_row [25, 3]

theorem decodeCopy_readsBack (major : fld w 31 25 = 52) : ReadsBack Late.instr w (decodeCopy w) := by
  unfold decodeCopy
  split
  case h_7 => exact readsBack_error _ _ _
  case h_1 => exact readsBack_row [25, 20, 15, 10, 7, 4, 3]
  case h_4 | h_5 => exact readsBack_row [25, 20, 15, 10, 3]
  all_goals exact readsBack_row [25, 20, 15, 3]

theorem decodeTask_readsBack (major : fld w 31 25 = 53) : ReadsBack Late.instr w (decodeTask w) := by
  unfold decodeTask
  split
  case h_10 => exact readsBack_error _ _ _
  case h_9 => exact readsBack_row [25, 20, 7, 4]
  case h_3 | h_6 => exact readsBack_row [25, 20, 15, 10, 4]
  case h_5 | h_7 => exact readsBack_row [25, 4]
  all_goals exact readsBack_row [25, 20, 15, 4]

theorem decodeVane_readsBack (major : fld w 31 25 = 54) : ReadsBack Late.instr w (decodeVane w) := by
  unfold decodeVane
  split
  case h_6 => exact readsBack_error _ _ _
  case h_3 =>
    split
    case h_3 => exact readsBack_error _ _ _
    case h_1 => exact readsBack_row [25, 4, 3]
    case h_2 => exact readsBack_row [25, 20, 15, 4, 3]
  case h_2 => exact readsBack_row [25, 3]
  case h_4 => exact readsBack_row [25, 20, 15, 3]
  all_goals exact readsBack_row [25, 20, 15, 10, 3]

theorem decodeRemote_readsBack (major : fld w 31 25 = 55) : ReadsBack Late.instr w (decodeRemote w) := by
  unfold decodeRemote
  split
  case h_3 => exact readsBack_error _ _ _
  case h_1 => exact readsBack_row [25, 3]
  case h_2 => exact readsBack_row [25, 20, 15, 3]
/-! ## The decoder -/

theorem decodeLow_readsBack : ReadsBack id w (decodeLow w) := by
  unfold decodeLow
  split
  case h_51 => exact readsBack_error _ _ _
  case h_1 | h_24 => exact readsBack_row [25]
  case h_4 | h_5 | h_6 | h_7 | h_9 | h_10 | h_18 | h_19 | h_20 | h_21 | h_22 | h_23 | h_25 => exact readsBack_row [25, 20, 15]
  case h_11 | h_12 => exact readsBack_row [25, 20]
  case h_13 => exact readsBack_row [25, 20, 15, 10, 5]
  case h_37 => exact readsBack_row [25, 20, 15, 10, 8, 5]
  exacts [decodeSys_readsBack ‹_›, decodeAlu_readsBack ‹_›, decodeShifti_readsBack ‹_›, decodeBits_readsBack ‹_›,
    decodeCsr_readsBack ‹_›, decodeFpu_readsBack ‹_›, decodeFfma_readsBack ‹_›, decodeLoop_readsBack ‹_›,
    decodeQbr_readsBack ‹_›, decodeLd_readsBack ‹_›, decodeSt_readsBack ‹_›, decodePref_readsBack ‹_›,
    decodeAmo_readsBack ‹_›, decodeSync_readsBack ‹_›, decodeSetvl_readsBack ‹_›, decodeVarith_readsBack ‹_›,
    decodeVfma_readsBack ‹_›, decodeVcmp_readsBack ‹_›, decodeVfunc_readsBack ‹_›, decodeVcvt_readsBack ‹_›,
    decodeVperm_readsBack ‹_›, decodeVred_readsBack ‹_›, decodeMask_readsBack ‹_›, decodePres_readsBack ‹_›,
    decodeVld_readsBack ‹_›, decodeVst_readsBack ‹_›, decodeVgs_readsBack ‹_›, decodeVsc_readsBack ‹_›,
    decodeMma_readsBack ‹_›, decodeMacc_readsBack ‹_›, decodeSvec_readsBack ‹_›]

theorem decodeLate_readsBack : ReadsBack Late.instr w (decodeLate w) := by
  unfold decodeLate
  split
  case h_6 => exact readsBack_error _ _ _
  exacts [decodeMerge_readsBack ‹_›, decodeCopy_readsBack ‹_›, decodeTask_readsBack ‹_›, decodeVane_readsBack ‹_›, decodeRemote_readsBack ‹_›]

theorem decode_readsBack : ReadsBack id w (decode w) := by
  intro i h
  unfold decode at h
  split at h
  · cases hl : decodeLate w with
    | error e => rw [hl] at h; cases h
    | ok l =>
      rw [hl] at h
      cases h
      exact decodeLate_readsBack l hl
  · exact decodeLow_readsBack i h

/-- Settles O55: the fields of a row the decoder accepts tile its word, and each is an operand, what selects the row, or zero. -/
theorem encodeOfDecode : Obligations.EncodeOfDecode := fun w i h => by
  obtain ⟨hn, hw, he⟩ := decode_readsBack i h
  refine ⟨?_, hw, he⟩
  simp only [id] at hn
  rw [encode, hn, BitVec.ofNat_toNat, BitVec.setWidth_eq]

end Sys2Proof
end

section
/-! What a step runs (R57, R58, R73). -/

namespace Sys2Proof.Machine

/-- A word that decodes runs as its instruction. -/
theorem issueWord_of_ok {w : IWord} {i : Instr} (h : decode w = .ok i) (s : State) : issueWord w s = exec i s := by
  rw [issueWord_eq, h]

/-- A word that does not raises ILL, with the word in TVAL (R58). -/
theorem issueWord_of_error {w : IWord} {e : DecodeError} (h : decode w = .error e) (s : State) :
    issueWord w s = .next (takeTrapAt s 0x01 (w.setWidth 64) s.cpu.ctl.pc) := by
  rw [issueWord_eq, h]
  simp only [ill, trap, BitVec.ofNat_toNat]
  rfl

/-- A strand that may issue, waits for nothing and is due no interrupt runs the word that its fetch reads. -/
theorem issue_of_fetch {s u : State} {k : XOk} {w : IWord} (hon : s.cpu.resid = .on) (his : issues s s.cpu.cluster = true)
    (hw : s.cpu.wait = none) (hi : interruptDue s s.cpu = none) (hf : checkFetch s = .ok k) (hk : fetchWord k = (w, u)) :
    issue s = andThen (issueWord w u) (keepWord s.cpu.id (some w)) := by
  have hm : mayIssue s = true := by simp [mayIssue, hon, his, hw]
  simp [issue, hm, hw, hi, hf, hk]

/-- A fetch that no move has handed a word reads what memory shows. -/
theorem fetchWord_fst {k : XOk} (h : ∀ e ∈ k.s.stales, e.use = true → e.strand ≠ k.s.cpu.id) : (fetchWord k).1 = shownWord k.s k.loc := by
  have hn : k.s.stales.find? (fun e => e.use && e.strand == k.s.cpu.id && e.loc == k.loc) = none := by
    rw [List.find?_eq_none]
    intro e he
    have := h e he
    grind
  simp only [fetchWord, hn]

theorem step_of_nil {s : State} (h : s.agenda = []) : step s = andThen (issue s) follow := by simp only [step, h]

theorem step_of_cons {s : State} {m : Move} {ms : List Move} (h : s.agenda = m :: ms) :
    step s = andThen (runMove m { s with agenda := ms }) (fun s => pump (runAlus s)) := by simp only [step, h]

theorem runMove_event {l : Late} (he : l.encoded = false) (ho : onlyEffect l = false) (s : State) :
    runMove (.event l) s = exec l.instr s := by
  simp only [runMove, he, ho]
  exact runLate_eq l s

theorem runMove_issue_of_on {s : State} {t : StrandId} {x : Strand} (h : s.strand? t = some x) (hr : x.resid = .on) :
    runMove (.issue t) s = issue (s.focus t) := by
  simp [runMove, h, hr]

theorem runMove_issue_of_off {s : State} {t : StrandId} (h : ∀ x, s.strand? t = some x → x.resid ≠ .on) : runMove (.issue t) s = .next s := by
  cases hx : s.strand? t with
  | none => simp [runMove, hx]
  | some x => simp [runMove, hx, h x hx]

/-- Settles O56: each way a step begins, by what the step, the move and the issue do there. -/
theorem stepRunsDecoded : Obligations.StepRunsDecoded := by
  refine ⟨fun s u k w ha hon his hw hi hf hk => ?_, fun s l ms ha he ho => ?_, fun s t ms ha => ⟨fun x hx hr => ?_, fun hn => ?_⟩⟩
  · have hs : step s = andThen (andThen (issueWord w u) (keepWord s.cpu.id (some w))) follow := by
      rw [step_of_nil ha, issue_of_fetch hon his hw hi hf hk]
    refine ⟨fun h => ?_, fun i hd => ?_, fun e hd => ?_⟩
    · rw [← fetchWord_fst h, hk]
    · rw [hs, issueWord_of_ok hd]
    · rw [hs, issueWord_of_error hd]
  · rw [step_of_cons ha, runMove_event he ho]
  · rw [step_of_cons ha, runMove_issue_of_on (s := { s with agenda := ms }) hx hr]
  · rw [step_of_cons ha, runMove_issue_of_off (s := { s with agenda := ms }) hn]
    rfl
end Sys2Proof.Machine
end

section
/-! The gates that raise PRM and ILL (R72, R182, R446). -/

namespace Sys2Proof.Machine

/-- The strand may use the ports that the fields `rs` and `dst` name, each as the instruction does (R17). -/
def MayUse (s : State) (rs : List SReg) (dst : Option SReg) : Prop :=
  NoPorts s ∨ ((∀ r ∈ rs, mayRead (roleOf s s.cpu) r = true) ∧ ∀ r, dst = some r → mayWrite (roleOf s s.cpu) r = true)

theorem mayUse_iff {s : State} {rs : List SReg} {dst : Option SReg} : MayUse s rs dst ↔
    roleOf s s.cpu = .single ∨ (rs.all (mayRead (roleOf s s.cpu)) = true ∧ dst.all (mayWrite (roleOf s s.cpu)) = true) := by
  cases dst <;> simp [MayUse, NoPorts]

theorem portGate_of_not_mayUse {s : State} {rs : List SReg} {dst : Option SReg} (w : Nat) (k : Out) (h : ¬ MayUse s rs dst) :
    portGate s w rs dst k = ill s w := by
  obtain ⟨hr, hp⟩ := not_or.mp (mt mayUse_iff.mpr h)
  rw [← Bool.and_eq_true] at hp
  unfold portGate
  cases dst with
  | none => exact if_pos (by simpa [hr] using hp)
  | some d => exact if_pos (by rw [Bool.and_eq_true, bne_iff_ne, Bool.not_eq_true']; exact ⟨hr, Bool.eq_false_iff.mpr hp⟩)

/-- The ports are looked at before the level: PRM below it, but ILL where a field names a port that the strand may not use. -/
theorem portGate_needLevel {s : State} {l : Lvl} (w : Nat) (rs : List SReg) (dst : Option SReg) (k : Out)
    {_ : Decidable (MayUse s rs dst)} (h : s.cpu.ctl.level.rank < l.rank) : portGate s w rs dst (needLevel s w l k) =
      .next (takeTrapAt s (if MayUse s rs dst then 0x04 else 0x01) (BitVec.ofNat 64 w) s.cpu.ctl.pc) := by
  split
  case isTrue hm => exact (portGate_of_may w _ (mayUse_iff.mp hm)).trans (needLevel_of_lt w k h)
  case isFalse hm => exact portGate_of_not_mayUse w _ hm

theorem tlbinv_below {s : State} {l : Lvl} (w kind : Nat) (d a : SReg) (rs : List SReg) {_ : Decidable (MayUse s rs none)}
    (h : s.cpu.ctl.level.rank < l.rank) :
    tlbinv s w kind l d a rs =
      .next (takeTrapAt s (if MayUse s rs none then 0x04 else 0x01) (BitVec.ofNat 64 w) s.cpu.ctl.pc) :=
  portGate_needLevel w rs none _ h

/-- `tlbinvVmid` names no register, and so no port. -/
theorem execTlbinvVmid_below {s : State} (h : s.cpu.ctl.level.rank < Lvl.k.rank) :
    execTlbinvVmid s = .next (takeTrapAt s 0x04 (BitVec.ofNat 64 (encodeNat .tlbinvVmid)) s.cpu.ctl.pc) := by
  have hm : MayUse s [] none := .inr ⟨fun _ h => absurd h List.not_mem_nil, fun _ h => absurd h (by simp)⟩
  unfold execTlbinvVmid tlbinv
  rw [portGate_of_may _ _ (mayUse_iff.mp hm), needLevel_of_lt _ _ h]
  rfl

theorem Late.word_rwin (d a : SReg) : Late.word (.rwin d a) = encodeNat (.rwin d a) := rfl

theorem execRwin_below {s : State} (d a : SReg) {_ : Decidable (MayUse s [a] (some d))} (ht : isTask s = true) (h : s.cpu.ctl.level.rank < Lvl.k.rank) :
    execRwin d a s = .next (takeTrapAt s (if MayUse s [a] (some d) then 0x04 else 0x01)
      (BitVec.ofNat 64 (encodeNat (.rwin d a))) s.cpu.ctl.pc) := by
  rw [execRwin, taskOnly_of_isTask _ _ ht, portGate_needLevel _ _ _ _ h, Late.word_rwin]

/-- Settles O60: each instruction comes to the gate that its level or its context closes. -/
theorem levelTraps : Obligations.LevelTraps := by
  refine ⟨fun s d a p v h => ?_, fun s d a h => ?_, fun s h => execHalt_below h, fun s i x hx ht => ?_⟩
  · have hk : s.cpu.ctl.level.rank < Lvl.k.rank := by rw [h]; decide
    exact ⟨needLevel_of_lt _ _ hk, needLevel_of_lt _ _ hk, execTlbinvVmid_below hk, needLevel_of_lt _ _ hk, fun ht => execWfi_of_u ht h,
      tlbinv_below (encodeNat (.tlbinvVa d a)) 0 d a [a, d] hk, tlbinv_below (encodeNat (.tlbinvAsid d)) 1 d 0 [d] hk, fun ht => execRwin_below d a ht hk⟩
  · have hh : s.cpu.ctl.level.rank < Lvl.h.rank := by rcases h with h | h <;> rw [h] <;> decide
    exact tlbinv_below (encodeNat (.tlbinvIpa d a)) 3 d a [a, d] hh
  · exact (exec_chainRow hx s).trans (taskOnly_of_not_isTask _ _ ht)
end Sys2Proof.Machine
end

section
/-! How the waits of a strand end (R187, R260, R283 to R287, R380). -/

namespace Sys2Proof.Machine

/-! ## Waits that end as an instruction -/

/-- On a cluster that does not issue no wait ends (R380). -/
theorem resumeWait_of_not_issues {s : State} {t : StrandId} {x : Strand} (p : Wait → Option (State → Out)) (hx : s.strand? t = some x)
    (hi : issues s x.cluster = false) : resumeWait s t p = .next s := by
  unfold resumeWait
  rw [hx]
  cases h : x.wait.bind p with
  | none => simp [h]
  | some k => simp [h, hi]

/-- Whether the fence or `vdrain` the cpu waits in may complete, in the words of R284. -/
theorem fenceReady_wait (s : State) (k : FenceKind) (sc : Scope) : fenceReady s s.cpu k sc none = true ↔
    s.cpu.mem.draining s.dev.nextUid = false ∧
      ((k = .acq ∧ s.cpu.mem.loads = [] ∧ s.cpu.mem.amos = []) ∨ (k ≠ .acq ∧ scalarDone s s.cpu sc none = true)) := by
  cases k <;> simp [fenceReady, readsDone]

theorem fence_of_not_ready {s : State} {k : FenceKind} {sc : Scope} (h : ¬ fenceReady s s.cpu k sc none = true) :
    fence s k sc = .next (s.waitFor (.fence k sc)) := if_pos (by simpa using h)

theorem fence_of_ready {s : State} {k : FenceKind} {sc : Scope} : fenceReady s s.cpu k sc none = true →
    fence s k sc = .next (complete (match k with
      | .acq => dropStale s sc | .rel => s | .ar => dropStale s sc | .sc => drawTicket (dropStale s sc))) := by
  intro h
  refine (if_neg (by simp [h])).trans ?_
  cases k <;> rfl

/-! ## Complete (R284) -/

section
variable {s : State} {t : StrandId} {x : Strand}

/-- A fence or `vdrain` that the strand has gone past leaves its list. -/
theorem execComplete_of_some {f : PFence} (hx : s.strand? t = some x) (ho : openFence s x = some f) :
    ∃ u y, execComplete t s = .next u ∧ u.strand? t = some y ∧ y.ctl = x.ctl ∧ y.regs = x.regs ∧
      y.mem.fences = x.mem.fences.filter (fun g => g.ord != f.ord) := by
  refine ⟨_, _, ?_, State.strand?_modStrand_of hx
    (f := fun x => { x with mem := { x.mem with fences := x.mem.fences.filter (fun g => g.ord != f.ord) } }) (fun _ => rfl), rfl, rfl, rfl⟩
  unfold execComplete
  rw [hx, Option.bind_some, ho]

/-- What of `complete` ends a wait. -/
def completes : Wait → Option (State → Out)
  | .fence k sc => some (fun s => fence s k sc)
  | .vdrain sc => some (execVdrain sc)
  | .mwait d a => some (execMwait d a)
  | .bar l => some (execBar l)
  | .rfence => some execRfence
  | _ => none

theorem execComplete_of_none (hx : s.strand? t = some x) (ho : openFence s x = none) : execComplete t s = resumeWait s t completes := by
  unfold execComplete
  rw [hx, Option.bind_some, ho]
  congr 1

/-- Else the wait ends as its instruction runs on. -/
theorem execComplete_of_wait {w : Wait} {k : State → Out} (hx : s.strand? t = some x) (hr : x.resid = .on) (hi : issues s x.cluster = true)
    (ho : openFence s x = none) (hw : x.wait = some w) (hk : completes w = some k) : execComplete t s = k (s.focus t) :=
  (execComplete_of_none hx ho).trans (resumeWait_of_wait hx hw hk hr hi)

end

/-! ## Monitor reads (R286) -/
/-- `mwait` completes where the word that it reads is at least its operand. -/
theorem execMwait_of_reached {s : State} {d a : SReg} {v va : Word} {k : XOk} (ht : ∀ c n, s.cpu.id ≠ .thaw c n)
    (hv : readable s [a] (some d) = some [v]) (hm : s.cpu.ext.monitor = some va) (hk : checkAccess (readAnew s) va 8 true false = .ok k)
    (hp : poisonedRead k.s k.s.cpu k.s.dev.nextUid k.loc 8 = false) (hh : k.s.cpu.mem.heldRead k.s.dev.nextUid k.loc 8 = false)
    (hle : v.toNat ≤ leNat (scalarBytes k.s k.s.cpu k.loc 8)) :
    execMwait d a s = .next (retired k.s [a] d (BitVec.ofNat 64 (leNat (scalarBytes k.s k.s.cpu k.loc 8)))) := by
  unfold execMwait
  rw [notThaw_of_ne _ _ ht, readS_of_readable _ _ hv]
  have hle' : (opd [v] 0).toNat ≤ leNat (scalarBytes k.s k.s.cpu k.loc 8) := hle
  simp only [hm, hk, hp, hh, hle', if_true]
  rfl

/-! ## Settling over every register (R187) -/

theorem execSettleAll_of_holes {s : State} (ht : isTask s = true) (h : anyHoles s = true) :
    execSettleAll s = .next (s.waitFor (.settle none false)) :=
  (taskOnly_of_isTask _ _ ht).trans (if_pos h)

theorem execSettleAll_of_settled {s : State} (ht : isTask s = true) (h : anyHoles s = false) (hf : faultedRegs s = []) :
    execSettleAll s = .next (vdone s []) := by
  refine (taskOnly_of_isTask _ _ ht).trans ?_
  simp [h, hlfAll, hf]

/-! ## Atomic moves of what a strand waits in (R283) -/

/-- What of `atomic` ends a wait. -/
def moves : Wait → Option (State → Out)
  | .amo r => some (fun s => amoAgain s r)
  | .vfas d a b => some (execVfas d a b)
  | _ => none

/-- Where neither an addition nor an access that the strand has gone past is named, the move is that of the wait. -/
theorem execAtomic_of_wait {s : State} {t : StrandId} {x : Strand} {tr n : Nat} {w : Wait} {k : State → Out} (hx : s.strand? t = some x)
    (hr : x.resid = .on) (hi : issues s x.cluster = true) (hadd : addable s t tr n = none) (hamo : pastReady s x tr = none)
    (hfas : pastFas s x tr = none) (hw : x.wait = some w) (hk : moves w = some k) : execAtomic t tr n s = k (s.focus t) := by
  have he : execAtomic t tr n s = resumeWait s t moves := by
    unfold execAtomic
    simp only [hadd, hx, Option.bind_some, hamo, hfas, Option.map_none]
    congr 1
  exact he.trans (resumeWait_of_wait hx hw hk hr hi)

/-! ## The arrival of a `bar` (R287) -/

/-- A level whose `bar` has not issued, or whose earlier accesses are not over, arrives nowhere. -/
theorem barArrive_of_not {s : State} {x : Strand} {l : Nat}
    (h : ¬ (barIssuedCode l ∈ x.ext.barIssued ∧ scalarDone s x .device none = true ∧ vectorDone s x .device none = true)) :
    barArrive s x l = s := if_neg (by simpa [and_assoc] using h)

/-- A strand whose `bar` of level l has arrived. -/
def arrivedAt (l : Nat) (x : Strand) : Strand :=
  { x with ext := { x.ext with
    bars := x.ext.bars.set l (x.ext.bars.getD l 0 + 1),
    barIssued := (x.ext.barIssued.filter (· != barIssuedCode l)) ++ [barArrivedCode l] } }

theorem barArrive_of_ready {s : State} {x : Strand} {l : Nat} (h : barIssuedCode l ∈ x.ext.barIssued)
    (hs : scalarDone s x .device none = true) (hv : vectorDone s x .device none = true) :
    barArrive s x l = s.modStrand x.id (arrivedAt l) := if_pos (by simp [h, hs, hv])

/-- The arrivals of a strand at some levels, in their order. -/
def arrivals (t : StrandId) (ls : List Nat) (s : State) : State :=
  ls.foldl (fun s l => match s.strand? t with | some x => barArrive s x l | none => s) s

theorem execBarArrive_eq (t : StrandId) (s : State) : execBarArrive t s = .next (arrivals t (List.range 6) s) := rfl

theorem arrivals_cons {s : State} {t : StrandId} {x : Strand} (h : s.strand? t = some x) (l : Nat) (ls : List Nat) :
    arrivals t (l :: ls) s = arrivals t ls (barArrive s x l) := by
  simp only [arrivals, List.foldl_cons, h]

/-- Levels at which the strand makes no arrival change nothing. -/
theorem arrivals_of_not {s : State} {t : StrandId} {x : Strand} (h : s.strand? t = some x) (ls : List Nat)
    (hn : ∀ l ∈ ls, ¬ (barIssuedCode l ∈ x.ext.barIssued ∧ scalarDone s x .device none = true ∧ vectorDone s x .device none = true)) :
    arrivals t ls s = s := by
  induction ls with
  | nil => rfl
  | cons l ls ih =>
    rw [arrivals_cons h, barArrive_of_not (hn l List.mem_cons_self)]
    exact ih (fun k hk => hn k (List.mem_cons_of_mem _ hk))

theorem arrivals_append (t : StrandId) (ks ls : List Nat) (s : State) : arrivals t (ks ++ ls) s = arrivals t ls (arrivals t ks s) :=
  List.foldl_append

/-- The levels 0 to 5 are those below l, l, and those above it. -/
theorem range_six_split {l : Nat} (h : l < 6) : List.range 6 = List.range l ++ l :: List.range' (l + 1) (5 - l) := by
  interval_cases l <;> rfl

/-- A strand with one issued `bar` arrives at its level, and there only. -/
theorem arrivals_of_issued {s : State} {t : StrandId} {x : Strand} {l : Nat} (hx : s.strand? t = some x) (hl : l < 6)
    (hb : x.ext.barIssued = [barIssuedCode l]) (hs : scalarDone s x .device none = true) (hv : vectorDone s x .device none = true) :
    arrivals t (List.range 6) s = s.modStrand t (arrivedAt l) := by
  have hy := State.strand?_modStrand_of hx (f := arrivedAt l) (fun _ => rfl)
  rw [range_six_split hl, arrivals_append, arrivals_of_not hx, arrivals_cons hx, barArrive_of_ready (by simp [hb]) hs hv, State.id_of_strand? hx,
    arrivals_of_not hy]
  · intro k hk h
    have := h.1
    simp [arrivedAt, hb, barIssuedCode, barArrivedCode] at this hk
    omega
  · intro k hk h
    have := h.1
    simp [hb, barIssuedCode] at this hk
    omega

theorem barIssued_arrivedAt {x : Strand} {l : Nat} (hb : x.ext.barIssued = [barIssuedCode l]) :
    (arrivedAt l x).ext.barIssued = [barArrivedCode l] := by
  simp [arrivedAt, hb]

/-- Settles O50: each event runs its strand on with what the wait stands for. -/
theorem waitsEnd : Obligations.WaitsEnd := by
  refine ⟨fun s t x hx hr hi => ?_, fun s t x hx hi ho => ?_, fun s t x l hx hl hb => ?_⟩
  · have hc := State.focus_cpu_of_strand? hx
    refine ⟨fun f ho => execComplete_of_some hx ho, fun ho => ?_, fun d a hw => ?_, fun v hw => resumeWait_of_wait hx hw rfl hr hi,
      fun v hw => resumeWait_of_wait hx hw rfl hr hi, fun hw => resumeWait_of_wait hx hw rfl hr hi, fun hw ht => ?_,
      fun tr n hadd hamo hfas => ⟨fun d a b hw => execAtomic_of_wait hx hr hi hadd hamo hfas hw rfl,
        fun r hw => execAtomic_of_wait hx hr hi hadd hamo hfas hw rfl⟩⟩
    · refine ⟨fun k sc hw => ?_, fun sc hw => ?_, fun hw => execComplete_of_wait hx hr hi ho hw rfl,
        fun l hw => execComplete_of_wait hx hr hi ho hw rfl, fun d a hw => execComplete_of_wait hx hr hi ho hw rfl⟩
      · have he : exec (.complete t) s = fence (s.focus t) k sc := execComplete_of_wait hx hr hi ho hw rfl
        have hf := fenceReady_wait (s.focus t) k sc
        rw [hc] at hf ⊢
        exact ⟨fun hn => he.trans (fence_of_not_ready (by rwa [hc, hf])), fun hg => he.trans (fence_of_ready (by rwa [hc, hf]))⟩
      · have he : exec (.complete t) s = execVdrain sc (s.focus t) := execComplete_of_wait hx hr hi ho hw rfl
        exact ⟨fun hv => he.trans (if_pos hv), fun hv => he.trans (if_neg (by simp [hv]))⟩
    · have he : exec (.monitorRead t) s = execMwait d a (s.focus t) := resumeWait_of_wait hx hw rfl hr hi
      refine ⟨he, fun v va k ht hv hm hk hp hh hle => he.trans (execMwait_of_reached ?_ hv (by rwa [hc]) hk hp hh hle)⟩
      rwa [hc, State.id_of_strand? hx]
    · have he : exec (.settleComplete t) s = execSettleAll (s.focus t) := resumeWait_of_wait hx hw rfl hr hi
      exact ⟨fun hh hf => he.trans (execSettleAll_of_settled ht hh hf), fun hh => he.trans (execSettleAll_of_holes ht hh)⟩
  · exact ⟨(execComplete_of_none hx ho).trans (resumeWait_of_not_issues _ hx hi), resumeWait_of_not_issues _ hx hi,
      resumeWait_of_not_issues _ hx hi, resumeWait_of_not_issues _ hx hi⟩
  · refine ⟨fun hn => ?_, fun ⟨hs, hv⟩ => ?_⟩
    · exact congrArg Host.Outcome.next (arrivals_of_not hx _ fun _ _ h => hn h.2)
    · exact ⟨_, _, congrArg Host.Outcome.next (arrivals_of_issued hx hl hb hs hv), State.strand?_modStrand_of hx (f := arrivedAt l) (fun _ => rfl),
        barIssued_arrivedAt hb, rfl⟩
end Sys2Proof.Machine
end

section
/-! Rounding to a float format (R90): the magnitude that `stepMag` gives, and what a layout of Table 4.2 makes of it. -/

namespace Sys2Proof.Machine

/-! ## step (R90) on a magnitude -/

/-- What the modes ask of a magnitude y for the exact magnitude x of a value of sign `neg`, in units (R90). -/
structure Rounds (rm : RM) (neg : Bool) (x y : Rat) : Prop where
  near : |y - x| < 1
  nearest : rm = 0 ∨ rm = 4 → 2 * |y - x| ≤ 1
  zero : rm = 1 → y ≤ x
  down : rm = 2 → if neg then x ≤ y else y ≤ x
  up : rm = 3 → if neg then y ≤ x else x ≤ y

/-- The exact magnitude itself suits every mode. -/
theorem Rounds.exact (rm : RM) (neg : Bool) (x : Rat) : Rounds rm neg x x := by
  constructor <;> simp

/-- The next magnitude below suits a mode that does not round away from zero here and, to nearest, is not nearer to the other one. -/
theorem Rounds.below {rm : RM} {neg : Bool} {x y : Rat} (h0 : y ≤ x) (h1 : x < y + 1) (hn : rm = 0 ∨ rm = 4 → 2 * (x - y) ≤ 1)
    (hd : rm = 2 → neg = false) (hu : rm = 3 → neg = true) : Rounds rm neg x y := by
  have e : |y - x| = x - y := by rw [abs_sub_comm, abs_of_nonneg (by linarith)]
  exact ⟨by rw [e]; linarith, by rwa [e], fun _ => h0, fun h => by simpa [hd h], fun h => by simpa [hu h]⟩

/-- So with the next one above. -/
theorem Rounds.above {rm : RM} {neg : Bool} {x y : Rat} (h0 : x ≤ y) (h1 : y < x + 1) (hn : rm = 0 ∨ rm = 4 → 2 * (y - x) ≤ 1)
    (hz : rm ≠ 1) (hd : rm = 2 → neg = true) (hu : rm = 3 → neg = false) : Rounds rm neg x y := by
  have e : |y - x| = y - x := abs_of_nonneg (by linarith)
  exact ⟨by rw [e]; linarith, by rwa [e], fun h => absurd h hz, fun h => by simpa [hd h], fun h => by simpa [hu h]⟩

/-- What `stepMag` answers: the quotient where nothing remains, and else the quotient or the next magnitude as the mode has it. -/
theorem stepMag_cases {rm : RM} (neg : Bool) (n r d : Nat) (hrm : rm ≤ 5) :
    r = 0 ∧ stepMag rm neg n r d = n ∨
    r ≠ 0 ∧ stepMag rm neg n r d = n ∧ (rm = 0 ∨ rm = 4 → 2 * r ≤ d) ∧ (rm = 2 → neg = false) ∧ (rm = 3 → neg = true) ∨
    r ≠ 0 ∧ stepMag rm neg n r d = n + 1 ∧ (rm = 0 ∨ rm = 4 → d ≤ 2 * r) ∧ rm ≠ 1 ∧ (rm = 2 → neg = true) ∧
      (rm = 3 → neg = false) := by
  unfold stepMag
  interval_cases rm <;> grind

/-- It stays between the quotient and the next magnitude. -/
theorem stepMag_bounds (rm : RM) (neg : Bool) (n r d : Nat) : n ≤ stepMag rm neg n r d ∧ stepMag rm neg n r d ≤ n + 1 := by
  unfold stepMag
  grind

/-- With a remainder r below d, the magnitude rounds n + r/d. -/
theorem stepMag_rounds {rm : RM} (neg : Bool) (n : Nat) {r d : Nat} (hrm : rm ≤ 5) (hr : r < d) :
    Rounds rm neg (n + r / d) (stepMag rm neg n r d) := by
  have hd : (0 : Rat) < d := by exact_mod_cast (Nat.zero_le r).trans_lt hr
  have h0 : (0 : Rat) ≤ r / d := by positivity
  have h1 : (r : Rat) / d < 1 := (div_lt_one hd).mpr (by exact_mod_cast hr)
  rcases stepMag_cases neg n r d hrm with ⟨hz, hy⟩ | ⟨-, hy, hn, hdn, hup⟩ | ⟨hr0, hy, hn, hz, hdn, hup⟩
  · rw [hy, hz]
    simpa using Rounds.exact rm neg n
  · have half (h : 2 * r ≤ d) : 2 * ((r : Rat) / d) ≤ 1 := by
      rw [← mul_div_assoc]
      exact div_le_one_of_le₀ (by exact_mod_cast h) hd.le
    rw [hy]
    exact .below (by linarith) (by linarith) (fun h => by linarith [half (hn h)]) hdn hup
  · have half (h : d ≤ 2 * r) : 1 ≤ 2 * ((r : Rat) / d) := by
      rw [← mul_div_assoc, le_div_iff₀ hd, one_mul]
      exact_mod_cast h
    have hpos : (0 : Rat) < r / d := div_pos (by exact_mod_cast Nat.pos_of_ne_zero hr0) hd
    rw [hy, Nat.cast_succ]
    exact .above (by linarith) (by linarith) (fun h => by linarith [half (hn h)]) hz hdn hup

/-- It is the exact magnitude where nothing remains, and only there. -/
theorem stepMag_eq_iff {rm : RM} (neg : Bool) (n : Nat) {r d : Nat} (hrm : rm ≤ 5) (hr : r < d) :
    (stepMag rm neg n r d : Rat) = n + r / d ↔ r = 0 := by
  have hd : (0 : Rat) < d := by exact_mod_cast (Nat.zero_le r).trans_lt hr
  have h1 : (r : Rat) / d < 1 := (div_lt_one hd).mpr (by exact_mod_cast hr)
  rcases stepMag_cases neg n r d hrm with ⟨hz, hy⟩ | ⟨hr0, hy, -⟩ | ⟨hr0, hy, -⟩
  · rw [hy]
    simp [hz]
  · simp [hy, hd.ne']
  · rw [hy, Nat.cast_succ]
    exact ⟨fun h => by linarith, fun h => absurd h hr0⟩

/-! ## Layouts -/

/-- What the layouts of Table 4.2 have in common: the codes up to that of the largest finite magnitude fit, and none of them is an
infinity or a NaN. -/
structure FF.Sound (F : FF) : Prop where
  fits : F.maxB < 2 ^ (F.mb + F.eb)
  noInf : F.ieee = true → F.maxB < (2 ^ F.eb - 1) * 2 ^ F.mb
  noNan : F.topNan = true → F.maxB < 2 ^ (F.mb + F.eb) - 1

theorem floatFmt_sound {f : Nat} {F : FF} (h : floatFmt f = some F) : F.Sound := by
  unfold floatFmt at h
  split at h
  case h_11 => exact absurd h (by simp)
  all_goals
    obtain rfl := Option.some.inj h
    constructor <;> norm_num

/-- A finite magnitude is no infinity's. -/
theorem FF.Sound.not_inf {F : FF} (hF : F.Sound) {mag : Nat} (h : mag ≤ F.maxB) :
    (F.ieee && mag / 2 ^ F.mb == 2 ^ F.eb - 1) = false := by
  rw [Bool.and_eq_false_imp]
  intro hi
  rw [beq_eq_false_iff_ne]
  intro e
  have hle := Nat.div_mul_le_self mag (2 ^ F.mb)
  rw [e] at hle
  have := hF.noInf hi
  omega

/-- Nor the lone NaN's of E4M3. -/
theorem FF.Sound.not_nan {F : FF} (hF : F.Sound) {mag : Nat} (h : mag ≤ F.maxB) :
    (F.topNan && mag / 2 ^ F.mb == 2 ^ F.eb - 1 && mag % 2 ^ F.mb == 2 ^ F.mb - 1) = false := by
  rw [Bool.and_assoc, Bool.and_eq_false_imp]
  intro ht
  have hne := hF.noNan ht
  rw [← Bool.not_eq_true, Bool.and_eq_true, beq_iff_eq, beq_iff_eq]
  rintro ⟨e1, e2⟩
  have hq := Nat.div_add_mod mag (2 ^ F.mb)
  rw [e1, e2, Nat.mul_sub_one, ← pow_add] at hq
  have := Nat.pow_le_pow_right (n := 2) two_pos (Nat.le_add_right F.mb F.eb)
  have := Nat.two_pow_pos F.mb
  omega

/-- A packed code without the ignored bits below it. -/
theorem packF_div (F : FF) (neg : Bool) (mag : Nat) :
    packF F neg mag / 2 ^ F.shift = (if neg then 2 ^ (F.mb + F.eb) else 0) + mag := Nat.mul_div_cancel _ (Nat.two_pow_pos _)

/-- A finite magnitude that is packed is read back: its exponent field and its mantissa field. -/
theorem decodeF_packF {F : FF} (hF : F.Sound) (neg : Bool) {mag : Nat} (h : mag ≤ F.maxB) : decodeF F (packF F neg mag) =
    if mag / 2 ^ F.mb = 0 then .fin neg (mag % 2 ^ F.mb) (F.emin - F.mb)
    else .fin neg (2 ^ F.mb + mag % 2 ^ F.mb) ((mag / 2 ^ F.mb : Nat) - F.bias - F.mb) := by
  have hlt : mag < 2 ^ F.mb * 2 ^ F.eb := by have := hF.fits; rw [pow_add] at this; omega
  have hm : ((if neg then 2 ^ (F.mb + F.eb) else 0) + mag) % 2 ^ F.mb = mag % 2 ^ F.mb := by
    cases neg <;> simp [pow_add]
  have he : ((if neg then 2 ^ (F.mb + F.eb) else 0) + mag) / 2 ^ F.mb % 2 ^ F.eb = mag / 2 ^ F.mb := by
    have := Nat.div_lt_of_lt_mul hlt
    cases neg <;> simp [pow_add, Nat.add_div_of_dvd_right, Nat.mod_eq_of_lt this]
  have hs : decide (((if neg then 2 ^ (F.mb + F.eb) else 0) + mag) / 2 ^ (F.mb + F.eb) % 2 = 1) = neg := by
    rw [← pow_add] at hlt
    cases neg <;> simp [Nat.div_eq_of_lt hlt, Nat.add_div_left]
  unfold decodeF
  simp only [packF_div, hm, he, hs, hF.not_inf h, hF.not_nan h, Bool.false_eq_true, if_false, beq_iff_eq]

/-- A magnitude of y beyond b binades, y normal where there are any, reads as y units of the exponent that b names (R79, R90). -/
theorem decodeF_packF_units {F : FF} (hF : F.Sound) (neg : Bool) {b y : Nat} (hb : b = 0 ∨ 2 ^ F.mb ≤ y) (hy : y ≤ 2 * 2 ^ F.mb)
    (h : b * 2 ^ F.mb + y ≤ F.maxB) : ∃ (n : Nat) (k : Int), decodeF F (packF F neg (b * 2 ^ F.mb + y)) = .fin neg n k ∧
      (n : Rat) * 2 ^ k = y * 2 ^ (b + F.emin - F.mb) := by
  have hA := Nat.two_pow_pos F.mb
  rw [decodeF_packF hF neg h]
  rcases lt_or_ge y (2 ^ F.mb) with h1 | h1
  · obtain rfl := hb.resolve_right (by omega)
    exact ⟨y, F.emin - F.mb, by simp [Nat.div_eq_of_lt h1, Nat.mod_eq_of_lt h1], by simp⟩
  · obtain ⟨r, rfl⟩ := Nat.exists_eq_add_of_le h1
    rcases lt_or_ge r (2 ^ F.mb) with h2 | h2
    · have e : b * 2 ^ F.mb + (2 ^ F.mb + r) = r + 2 ^ F.mb * (b + 1) := by ring
      refine ⟨2 ^ F.mb + r, b + F.emin - F.mb, ?_, rfl⟩
      rw [e, Nat.add_mul_div_left _ _ hA, Nat.add_mul_mod_self_left, Nat.div_eq_of_lt h2, Nat.mod_eq_of_lt h2, if_neg (by omega)]
      congr 1
      unfold FF.emin
      omega
    · obtain rfl : r = 2 ^ F.mb := by omega
      have e : b * 2 ^ F.mb + (2 ^ F.mb + 2 ^ F.mb) = 2 ^ F.mb * (b + 2) := by ring
      refine ⟨2 ^ F.mb, b + F.emin - F.mb + 1, ?_, ?_⟩
      · rw [e, Nat.mul_div_cancel_left _ hA, Nat.mul_mod_right, if_neg (by omega)]
        congr 1
        unfold FF.emin
        omega
      · rw [zpow_add_one₀ two_ne_zero]
        push_cast
        ring

/-! ## The exact value in units -/

theorem flog2_one {m : Nat} (hm : m ≠ 0) : flog2 m 1 = m.log2 := by
  unfold flog2
  rw [show Nat.log2 1 = 0 by decide]
  simp [Nat.log2_self_le hm]

/-- The binade of a nonzero value is unique. -/
theorem log2_add_eq {m : Nat} {e l : Int} (hm : m ≠ 0) (h0 : (2 : Rat) ^ l ≤ m * (2 : Rat) ^ e) (h1 : m * (2 : Rat) ^ e < (2 : Rat) ^ (l + 1)) :
    (m.log2 : Int) + e = l := by
  have k0 : (2 : Rat) ^ (m.log2 : Int) ≤ m := by exact_mod_cast Nat.log2_self_le hm
  have k1 : (m : Rat) < (2 : Rat) ^ ((m.log2 : Int) + 1) := by exact_mod_cast Nat.lt_log2_self
  have he : (0 : Rat) < 2 ^ e := by positivity
  have i0 := (mul_le_mul_of_nonneg_right k0 he.le).trans_lt h1
  have i1 := h0.trans_lt (mul_lt_mul_of_pos_right k1 he)
  rw [← zpow_add₀ two_ne_zero, zpow_lt_zpow_iff_right₀ one_lt_two] at i0 i1
  omega

/-- The unit in which `rndQ` rounds a value of binade l (R90). -/
def FF.unit (F : FF) (l : Int) : Int := (if l < F.emin then F.emin else l) - F.mb

/-- m × 2^k as a quotient of naturals. -/
def scaledNum (m : Nat) (k : Int) : Nat := if 0 ≤ k then m * 2 ^ k.toNat else m
def scaledDen (k : Int) : Nat := if 0 ≤ k then 1 else 1 * 2 ^ (-k).toNat

theorem scaledDen_pos (k : Int) : 0 < scaledDen k := by
  unfold scaledDen
  split <;> positivity

theorem scaledNum_div_scaledDen (m : Nat) (k : Int) : (scaledNum m k : Rat) / scaledDen k = m * 2 ^ k := by
  unfold scaledNum scaledDen
  split
  · rename_i h
    lift k to Nat using h
    simp
  · rename_i h
    obtain ⟨j, rfl⟩ : ∃ j : Nat, k = -j := ⟨(-k).toNat, by omega⟩
    simp [div_eq_mul_inv]

/-- m × 2^k rounded to a natural number. -/
def roundedUnits (rm : RM) (neg : Bool) (m : Nat) (k : Int) : Nat :=
  stepMag rm neg (scaledNum m k / scaledDen k) (scaledNum m k % scaledDen k) (scaledDen k)

/-- Whether m × 2^k is a natural number. -/
def inUnits (m : Nat) (k : Int) : Bool := scaledNum m k % scaledDen k == 0

section
variable {rm : RM} (neg : Bool) (m : Nat) (k : Int)

theorem quotient_add_remainder :
    ((scaledNum m k / scaledDen k : Nat) : Rat) + (scaledNum m k % scaledDen k : Nat) / scaledDen k = m * 2 ^ k := by
  have hd : (scaledDen k : Rat) ≠ 0 := by exact_mod_cast (scaledDen_pos k).ne'
  rw [← scaledNum_div_scaledDen, eq_div_iff hd, add_mul, div_mul_cancel₀ _ hd]
  exact_mod_cast Nat.div_add_mod' _ _

theorem roundedUnits_rounds (hrm : rm ≤ 5) : Rounds rm neg (m * 2 ^ k) (roundedUnits rm neg m k) := by
  rw [← quotient_add_remainder]
  exact stepMag_rounds neg _ hrm (Nat.mod_lt _ (scaledDen_pos k))

theorem roundedUnits_eq_iff (hrm : rm ≤ 5) : (roundedUnits rm neg m k : Rat) = m * 2 ^ k ↔ inUnits m k = true := by
  rw [← quotient_add_remainder, inUnits, beq_iff_eq]
  exact stepMag_eq_iff neg _ hrm (Nat.mod_lt _ (scaledDen_pos k))

variable {m k}

/-- Rounding does not leave the range between two natural numbers. -/
theorem le_roundedUnits {a : Nat} (h : (a : Rat) ≤ m * 2 ^ k) : a ≤ roundedUnits rm neg m k := by
  have ha : a ≤ scaledNum m k / scaledDen k := by
    rw [← scaledNum_div_scaledDen, le_div_iff₀ (by exact_mod_cast scaledDen_pos k)] at h
    exact (Nat.le_div_iff_mul_le (scaledDen_pos k)).mpr (by exact_mod_cast h)
  exact ha.trans (stepMag_bounds ..).1

theorem roundedUnits_le {a : Nat} (h : m * (2 : Rat) ^ k < a) : roundedUnits rm neg m k ≤ a := by
  have ha : scaledNum m k / scaledDen k < a := by
    rw [← scaledNum_div_scaledDen, div_lt_iff₀ (by exact_mod_cast scaledDen_pos k)] at h
    exact Nat.div_lt_of_lt_mul (by rw [mul_comm]; exact_mod_cast h)
  exact (stepMag_bounds ..).2.trans ha

end

/-! ## `rndQ` (R90) -/

/-- The normal binades below that of the value. -/
def FF.binade (F : FF) (l : Int) : Nat := (F.unit l + F.mb + F.bias - 1).toNat

theorem FF.binade_of_lt {F : FF} {l : Int} (h : l < F.emin) : F.binade l = 0 := by
  unfold binade unit
  rw [if_pos h]
  unfold FF.emin
  omega

theorem FF.binade_add (F : FF) (l : Int) : F.binade l + F.emin - F.mb = F.unit l := by
  unfold binade unit FF.emin
  split <;> omega

/-- The flags of a result that does not overflow. -/
def roundFlags (F : FF) (m : Nat) (l k : Int) : Flags := if inUnits m k then 0 else if l < F.emin then .nx ||| .uf else .nx

theorem roundFlags_nx (F : FF) (m : Nat) (l k : Int) : roundFlags F m l k &&& .nx ≠ 0 ↔ ¬ inUnits m k = true := by
  unfold roundFlags
  split
  · simp_all
  · rename_i h
    split
    · exact iff_of_true (by decide) h
    · exact iff_of_true (by decide) h

theorem roundFlags_uf (F : FF) (m : Nat) (l k : Int) : roundFlags F m l k &&& .uf ≠ 0 ↔ ¬ inUnits m k = true ∧ l < F.emin := by
  unfold roundFlags
  split
  · simp_all
  · rename_i h
    split
    · rename_i h'
      exact iff_of_true (by decide) ⟨h, h'⟩
    · rename_i h'
      exact iff_of_false (by decide) (fun k => h' k.2)

/-- An overflow shows in the flags. -/
theorem ofl_of_overflow : ∀ fl : Flags, (fl ||| .ofl ||| .nx) &&& .ofl ≠ 0 := by decide

section
variable {F : FF} {rm : RM} {neg : Bool} {m : Nat} {e l : Int}

/-- Without overflow: the rounded units, above the binades below, are packed. -/
theorem rndQ_of_fits (hm : m ≠ 0) (hl : (m.log2 : Int) + e = l) (ho : (rndQ F rm false false neg m 1 e).2 &&& .ofl = 0) :
    F.binade l * 2 ^ F.mb + roundedUnits rm neg m (e - F.unit l) ≤ F.maxB ∧
    rndQ F rm false false neg m 1 e =
      (packF F neg (F.binade l * 2 ^ F.mb + roundedUnits rm neg m (e - F.unit l)), roundFlags F m l (e - F.unit l)) := by
  have hr : rndQ F rm false false neg m 1 e =
      if F.maxB < F.binade l * 2 ^ F.mb + roundedUnits rm neg m (e - F.unit l) then
        (overF F rm false neg, roundFlags F m l (e - F.unit l) ||| .ofl ||| .nx)
      else (packF F neg (F.binade l * 2 ^ F.mb + roundedUnits rm neg m (e - F.unit l)), roundFlags F m l (e - F.unit l)) := by
    unfold rndQ
    rw [flog2_one hm, hl]
    rfl
  rw [hr] at ho ⊢
  split at ho
  · exact absurd ho (ofl_of_overflow _)
  · rename_i h
    exact ⟨Nat.le_of_not_lt h, if_neg h⟩

variable (hm : m ≠ 0) (h0 : (2 : Rat) ^ l ≤ m * (2 : Rat) ^ e) (h1 : m * (2 : Rat) ^ e < (2 : Rat) ^ (l + 1))

/-- The exact magnitude in units. -/
theorem mul_zpow_sub_unit (F : FF) (m : Nat) (e l : Int) : (m : Rat) * 2 ^ (e - F.unit l) * 2 ^ F.unit l = m * 2 ^ e := by
  rw [mul_assoc, ← zpow_add₀ two_ne_zero, sub_add_cancel]

include h0 in
/-- A value of a normal binade has at least as many units as there are mantissas. -/
theorem le_roundedUnits_of_normal (hl : F.emin ≤ l) : 2 ^ F.mb ≤ roundedUnits rm neg m (e - F.unit l) := by
  refine le_roundedUnits neg (le_of_mul_le_mul_right ?_ (zpow_pos two_pos (F.unit l) : (0 : Rat) < _))
  rw [mul_zpow_sub_unit, FF.unit, if_neg (not_lt.mpr hl)]
  push_cast
  rwa [← zpow_natCast, ← zpow_add₀ two_ne_zero, add_sub_cancel]

include h1 in
/-- No value has more than twice as many. -/
theorem roundedUnits_le_double : roundedUnits rm neg m (e - F.unit l) ≤ 2 * 2 ^ F.mb := by
  refine roundedUnits_le neg (lt_of_mul_lt_mul_right ?_ (zpow_pos two_pos (F.unit l) : (0 : Rat) < _).le)
  rw [mul_zpow_sub_unit, ← pow_succ']
  push_cast
  rw [← zpow_natCast, ← zpow_add₀ two_ne_zero]
  refine h1.trans_le (zpow_le_zpow_right₀ one_le_two ?_)
  unfold FF.unit
  push_cast
  split <;> omega

include hm h0 h1 in
/-- Without overflow, the result reads as the rounded units. -/
theorem rndQ_reads (hF : F.Sound) (ho : (rndQ F rm false false neg m 1 e).2 &&& .ofl = 0) :
    (∃ (n : Nat) (k : Int), decodeF F (rndQ F rm false false neg m 1 e).1 = .fin neg n k ∧
      (n : Rat) * 2 ^ k = roundedUnits rm neg m (e - F.unit l) * 2 ^ F.unit l) ∧
    (rndQ F rm false false neg m 1 e).2 = roundFlags F m l (e - F.unit l) := by
  obtain ⟨hfit, hr⟩ := rndQ_of_fits hm (log2_add_eq hm h0 h1) ho
  have hb : F.binade l = 0 ∨ 2 ^ F.mb ≤ roundedUnits rm neg m (e - F.unit l) :=
    (lt_or_ge l F.emin).imp FF.binade_of_lt (le_roundedUnits_of_normal h0)
  have hv := decodeF_packF_units hF neg hb (roundedUnits_le_double h1) hfit
  rw [F.binade_add] at hv
  rw [hr]
  exact ⟨hv, rfl⟩

end

/-! ## Signed values -/

/-- The value of sign `neg` and magnitude x units u. -/
def signedUnits (neg : Bool) (x u : Rat) : Rat := (if neg then -1 else 1) * (x * u)

section
variable {neg : Bool} {x y u : Rat} (hu : 0 < u)

include hu in
theorem abs_signedUnits_sub : |signedUnits neg y u - signedUnits neg x u| = |y - x| * u := by
  have e : signedUnits neg y u - signedUnits neg x u = (if neg then -1 else 1) * ((y - x) * u) := by unfold signedUnits; ring
  rw [e, abs_mul, abs_mul, abs_of_pos hu]
  cases neg <;> simp

include hu in
theorem signedUnits_inj : signedUnits neg y u = signedUnits neg x u ↔ y = x := by
  rw [← sub_eq_zero, ← abs_eq_zero, abs_signedUnits_sub hu, mul_eq_zero, or_iff_left hu.ne', abs_eq_zero, sub_eq_zero]

include hu in
theorem signedUnits_le : signedUnits neg y u ≤ signedUnits neg x u ↔ if neg then x ≤ y else y ≤ x := by
  cases neg <;> simp [signedUnits, hu]

include hu in
theorem abs_signedUnits_le (hx : 0 ≤ x) (hy : 0 ≤ y) : |signedUnits neg y u| ≤ |signedUnits neg x u| ↔ y ≤ x := by
  cases neg <;> simp [signedUnits, abs_mul, abs_of_nonneg hx, abs_of_nonneg hy, abs_of_pos hu, hu]

end

/-- Settles O4: the result is the exact magnitude in units, rounded to a natural number as the mode asks, with its sign. -/
theorem roundingBounds : Obligations.RoundingBounds := by
  unfold Obligations.RoundingBounds
  intro f rm F neg m e l hF hrm hm h0 h1 r q x ho
  obtain ⟨⟨n, k, hd, hv⟩, hfl⟩ := rndQ_reads hm h0 h1 (floatFmt_sound hF) ho
  refine ⟨neg, n, k, hd, rfl, ?_⟩
  have hu : (0 : Rat) < 2 ^ q := zpow_pos two_pos _
  have hR := roundedUnits_rounds neg m (e - F.unit l) hrm
  have hE := roundedUnits_eq_iff neg m (e - F.unit l) hrm
  have hx : x = signedUnits neg (m * 2 ^ (e - F.unit l)) (2 ^ q) := by
    unfold signedUnits
    exact (mul_assoc _ _ _).trans (congrArg _ (mul_zpow_sub_unit F m e l).symm)
  have hy : (if neg then -1 else 1) * (n : Rat) * 2 ^ k = signedUnits neg (roundedUnits rm neg m (e - F.unit l)) (2 ^ q) := by
    unfold signedUnits
    exact (mul_assoc _ _ _).trans (congrArg _ hv)
  have hfl : r.2 = _ := hfl
  have h0x : (0 : Rat) ≤ m * 2 ^ (e - F.unit l) := by positivity
  simp only [hx, hy, hfl, abs_signedUnits_sub hu, signedUnits_le hu, ne_eq, signedUnits_inj hu, abs_signedUnits_le hu h0x (Nat.cast_nonneg _)]
  refine ⟨?_, ?_, hR.zero, hR.down, hR.up, ?_, ?_⟩
  · exact (mul_lt_iff_lt_one_left hu).mpr hR.near
  · intro h
    rw [← mul_assoc]
    exact mul_le_of_le_one_left hu.le (hR.nearest h)
  · rw [hE]
    exact roundFlags_nx ..
  · rw [hE]
    exact roundFlags_uf ..

end Sys2Proof.Machine
end

section
/-! Integer elements (R95, R147, R149 to R151): the exact value, wrapped or clamped. -/

namespace Sys2Proof.Machine

/-! ## Values, bits and ranges of an integer format -/

/-- An integer format has a width, and is no float format. -/
theorem intFmt_spec {f w : Nat} {sg : Bool} (h : intFmt f = some (w, sg)) : 0 < w ∧ floatFmt f = none := by
  unfold intFmt at h
  split at h
  case h_12 => exact absurd h (by simp)
  all_goals
    obtain ⟨rfl, rfl⟩ := Prod.mk.inj (Option.some.inj h)
    exact ⟨by decide, rfl⟩

theorem intVal_eq {w x : Nat} (hw : 0 < w) (sg : Bool) (hx : x < 2 ^ w) : intVal w sg x = if sg then (BitVec.ofNat w x).toInt else x := by
  have h2 : 2 ^ w = 2 * 2 ^ (w - 1) := by rw [← pow_succ', Nat.sub_add_cancel hw]
  unfold intVal
  rw [BitVec.toInt_eq_toNat_cond, BitVec.toNat_ofNat, Nat.mod_eq_of_lt hx]
  cases sg with
  | false => rfl
  | true =>
    simp only [Bool.true_and, decide_eq_true_eq, if_true]
    split
    · rw [if_neg (by omega)]
      push_cast
      rfl
    · rw [if_pos (by omega)]

theorem intBits_eq (w : Nat) (v : Int) : intBits w v = (BitVec.ofInt w v).toNat := by
  rw [BitVec.toNat_ofInt]
  simp [intBits]

/-- The low bits of an element's value are the element. -/
theorem intBits_intVal (w : Nat) (sg : Bool) (x : Nat) : intBits w (intVal w sg x) = x % 2 ^ w := by
  have h : (x % 2 ^ w : Nat) % (2 ^ w : Int) = (x % 2 ^ w : Nat) := by exact_mod_cast Nat.mod_mod _ _
  unfold intBits intVal
  simp only
  split
  · rw [Int.sub_emod_right, h, Int.toNat_natCast]
  · rw [h, Int.toNat_natCast]

/-- The value is zero for the element zero alone. -/
theorem intVal_eq_zero_iff {w x : Nat} (sg : Bool) (hx : x < 2 ^ w) : intVal w sg x = 0 ↔ x = 0 := by
  refine ⟨fun h => ?_, fun h => ?_⟩
  · have := intBits_intVal w sg x
    rw [h, Nat.mod_eq_of_lt hx] at this
    simpa [intBits] using this.symm
  · simp [h, intVal]

theorem wrapSat_eq (w : Nat) (sg sat : Bool) (v : Int) : wrapSat w sg sat v =
    if sat then (intBits w (max (intRange w sg).1 (min (intRange w sg).2 v)), if (intRange w sg).1 ≤ v ∧ v ≤ (intRange w sg).2 then 0 else .sa)
    else (intBits w v, 0) := by
  have hr : (intRange w sg).1 ≤ (intRange w sg).2 := by
    have : (0 : Int) < 2 ^ (w - 1) := by positivity
    have : (0 : Int) < 2 ^ w := by positivity
    unfold intRange
    split <;> simp only <;> omega
  unfold wrapSat
  grind

/-! ## The operations -/

theorem elemOp_fma {op : Nat} (h : 21 ≤ op ∧ op ≤ 24) (f : Nat) (rm : RM) (fz sat : Bool) (a b c : Nat) :
    elemOp op f rm fz sat a b c = fmaElem f rm fz sat (op - 21) a b c := by
  unfold elemOp
  rw [if_neg (by simp; omega), if_neg (by simp; omega), if_neg (by simp; omega), if_pos (by simpa using h)]

section
variable {f w : Nat} {sg : Bool} (hi : intFmt f = some (w, sg)) (rm : RM) (fz sat : Bool) (a b c : Nat)

include hi in
theorem elemOp_of_int {op : Nat} (h : op ≤ 16) : elemOp op f rm fz sat a b c = arithI w sg sat (op - 1) a b := by
  unfold elemOp
  rw [(intFmt_spec hi).2, hi, if_neg (by simp; omega), if_neg (by simp; omega), if_neg (by simp; omega), if_neg (by simp; omega)]

include hi in
theorem fmaElem_of_int (k : Nat) : fmaElem f rm fz sat k a b c = wrapSat w sg sat
    ((if 2 ≤ k then -(intVal w sg a * intVal w sg b) else intVal w sg a * intVal w sg b) +
      if k % 2 == 1 then -intVal w sg c else intVal w sg c) := by
  unfold fmaElem
  rw [(intFmt_spec hi).2, hi]

end

/-- The lesser of two elements is one of them. -/
theorem intBits_min {w a b : Nat} (sg : Bool) (ha : a < 2 ^ w) (hb : b < 2 ^ w) :
    intBits w (min (intVal w sg a) (intVal w sg b)) = if intVal w sg b < intVal w sg a then b else a := by
  rw [min_def, apply_ite (intBits w), intBits_intVal, intBits_intVal, Nat.mod_eq_of_lt ha, Nat.mod_eq_of_lt hb]
  grind

theorem intBits_max {w a b : Nat} (sg : Bool) (ha : a < 2 ^ w) (hb : b < 2 ^ w) :
    intBits w (max (intVal w sg a) (intVal w sg b)) = if intVal w sg a < intVal w sg b then b else a := by
  rw [max_def', apply_ite (intBits w), intBits_intVal, intBits_intVal, Nat.mod_eq_of_lt ha, Nat.mod_eq_of_lt hb]
  grind

/-- The quotient by zero is the end of the range on the dividend's side (Table 6.3). -/
theorem divI_eq (w : Nat) (sg sat : Bool) (x y : Int) : divI w sg sat x y =
    if y = 0 then (intBits w (if sg = true ∧ x < 0 then (intRange w sg).1 else (intRange w sg).2), 0) else wrapSat w sg sat (x.tdiv y) := by
  unfold divI
  grind

end Sys2Proof.Machine
end

section
/-! Elements of a register value, and what the write of a destination does to them (R17, R23, R27, R139). -/

namespace Sys2Proof.Machine

/-! ## Elements of a bit vector -/

section
variable {n : Nat} (bits : BitVec n) (w : Nat)

theorem testBit_getEl (i k : Nat) : (getEl n bits w i).testBit k = (decide (k < w) && bits.getLsbD (w * i + k)) := by
  unfold getEl
  rw [Nat.testBit_mod_two_pow, Nat.testBit_div_two_pow, Nat.add_comm]
  rfl

/-- A field of w bits at p replaced by x, as three fields one above the other. -/
theorem replace_field (b p w x : Nat) : b - b / 2 ^ p % 2 ^ w * 2 ^ p + x * 2 ^ p = 2 ^ p * (2 ^ w * (b / 2 ^ p / 2 ^ w) + x) + b % 2 ^ p := by
  have hb : b = 2 ^ p * (2 ^ w * (b / 2 ^ p / 2 ^ w)) + b % 2 ^ p + b / 2 ^ p % 2 ^ w * 2 ^ p := by
    conv_lhs => rw [← Nat.div_add_mod b (2 ^ p), ← Nat.div_add_mod (b / 2 ^ p) (2 ^ w)]
    ring
  rw [Nat.sub_eq_of_eq_add hb]
  ring

/-- The bits of element i are those of x, and every other bit stays. -/
theorem getLsbD_setEl (i x k : Nat) : (setEl n bits w i x).getLsbD k =
    (decide (k < n) && if w * i ≤ k ∧ k < w * i + w then x.testBit (k - w * i) else bits.getLsbD k) := by
  have hlt : bits.toNat % 2 ^ (w * i) < 2 ^ (w * i) := Nat.mod_lt _ (Nat.two_pow_pos _)
  have hx : x % 2 ^ w < 2 ^ w := Nat.mod_lt _ (Nat.two_pow_pos _)
  unfold setEl
  rw [BitVec.getLsbD_ofNat, replace_field, Nat.testBit_two_pow_mul_add _ hlt, Nat.testBit_two_pow_mul_add _ hx, Nat.testBit_mod_two_pow,
    Nat.testBit_mod_two_pow, Nat.testBit_div_two_pow, Nat.testBit_div_two_pow]
  congr 1
  rcases lt_or_ge k (w * i) with h | h
  · simp [h, Nat.not_le.mpr h, BitVec.testBit_toNat]
  · rcases lt_or_ge k (w * i + w) with h' | h'
    · simp [h, h', Nat.not_lt.mpr h, show k - w * i < w by omega]
    · simp [Nat.not_lt.mpr h, Nat.not_lt.mpr h', show ¬ k - w * i < w by omega, BitVec.testBit_toNat,
        show k - w * i - w + w + w * i = k by omega]

variable {w}

/-- A written element reads back, as far as it lies in the vector. -/
theorem getEl_setEl_self {i : Nat} (x : Nat) (h : (i + 1) * w ≤ n) : getEl n (setEl n bits w i x) w i = x % 2 ^ w := by
  apply Nat.eq_of_testBit_eq
  intro k
  rw [testBit_getEl, getLsbD_setEl, Nat.testBit_mod_two_pow]
  by_cases hk : k < w
  · have hn : w * i + k < n := by rw [Nat.add_mul, Nat.mul_comm, Nat.one_mul] at h; omega
    simp [hk, hn]
  · simp [hk]

/-- A zero reads back anywhere. -/
theorem getEl_setEl_zero (i : Nat) : getEl n (setEl n bits w i 0) w i = 0 := by
  apply Nat.eq_of_testBit_eq
  intro k
  rw [testBit_getEl, getLsbD_setEl]
  by_cases hk : k < w <;> simp [hk]

/-- The other elements stay. -/
theorem getEl_setEl_ne {i j : Nat} (x : Nat) (h : j ≠ i) : getEl n (setEl n bits w i x) w j = getEl n bits w j := by
  apply Nat.eq_of_testBit_eq
  intro k
  rw [testBit_getEl, testBit_getEl, getLsbD_setEl]
  by_cases hk : k < w
  · have ho : ¬ (w * i ≤ w * j + k ∧ w * j + k < w * i + w) := by
      rintro ⟨h1, h2⟩
      have e1 : (w * j + k) / w = j := by rw [Nat.mul_add_div (by omega), Nat.div_eq_of_lt hk, Nat.add_zero]
      have e2 : (w * j + k) / w = i := Nat.div_eq_of_lt_le (by rwa [Nat.mul_comm])
        (by rwa [Nat.add_one_mul, Nat.mul_comm i])
      exact h (e1.symm.trans e2)
    rw [if_neg ho]
    by_cases hn : w * j + k < n
    · simp [hn]
    · rw [BitVec.getLsbD_of_ge bits _ (Nat.le_of_not_lt hn)]
      simp
  · simp [hk]

end

/-! ## Elements of a value -/

theorem VVal.put_bits (v : VVal) (w i x p : Nat) : (v.put w i x p).bits = setEl 8192 v.bits w i x := by
  unfold VVal.put VVal.setSt
  split <;> rfl

/-- Every slot of element i is PRESENT. -/
def VVal.slotsPresent (v : VVal) (w i : Nat) : Prop := ∀ k, k < w / 16 → getEl 1024 v.pres 2 (w * i / 16 + k) = pPresent

/-- A value with the elements `xs` written, PRESENT, one after the other. -/
def VVal.puts (v : VVal) (w : Nat) (xs : List (Nat × Nat)) : VVal := xs.foldl (fun v x => v.put w x.1 x.2 pPresent) v

@[simp] theorem VVal.puts_nil (v : VVal) (w : Nat) : v.puts w [] = v := rfl
@[simp] theorem VVal.puts_cons (v : VVal) (w : Nat) (x : Nat × Nat) (xs : List (Nat × Nat)) :
    v.puts w (x :: xs) = (v.put w x.1 x.2 pPresent).puts w xs := rfl

/-- Elements that are not written keep their bits. -/
theorem VVal.el_puts_of_not_mem {w i : Nat} {xs : List (Nat × Nat)} (h : i ∉ xs.map (·.1)) (v : VVal) : (v.puts w xs).el w i = v.el w i := by
  induction xs generalizing v with
  | nil => rfl
  | cons x xs ih =>
    rw [List.map_cons, List.mem_cons, not_or] at h
    obtain ⟨hx, hxs⟩ := h
    rw [puts_cons, ih hxs]
    unfold VVal.el
    rw [put_bits, getEl_setEl_ne _ _ hx]

/-- Elements that are written, all different, take theirs. -/
theorem VVal.el_puts_of_mem {w : Nat} {xs : List (Nat × Nat)} (hn : (xs.map (·.1)).Nodup) {x : Nat × Nat} (hx : x ∈ xs)
    (hw : (x.1 + 1) * w ≤ 8192) (v : VVal) : (v.puts w xs).el w x.1 = x.2 % 2 ^ w := by
  induction xs generalizing v with
  | nil => exact absurd hx List.not_mem_nil
  | cons y ys ih =>
    rw [List.map_cons, List.nodup_cons] at hn
    obtain ⟨hy, hys⟩ := hn
    rw [puts_cons]
    rcases List.mem_cons.mp hx with rfl | hx
    · rw [el_puts_of_not_mem hy]
      unfold VVal.el
      rw [put_bits, getEl_setEl_self _ _ hw]
    · exact ih hys hx _

/-- Slots set PRESENT, one after the other. -/
theorem getEl_presents (ks : List Nat) (f : Nat → Nat) {q : Nat} (m : BitVec 1024) (h : getEl 1024 m 2 q = 0 ∨ ∃ k ∈ ks, f k = q) :
    getEl 1024 (ks.foldl (fun m k => setEl 1024 m 2 (f k) pPresent) m) 2 q = 0 := by
  induction ks generalizing m with
  | nil => simpa using h
  | cons k ks ih =>
    refine ih _ ?_
    by_cases hk : f k = q
    · subst hk
      exact .inl (getEl_setEl_zero m _)
    · simp only
      rw [getEl_setEl_ne _ _ (Ne.symm hk)]
      exact h.imp_right (fun ⟨j, hj, e⟩ => ⟨j, (List.mem_cons.mp hj).resolve_left (fun hjk => hk (hjk ▸ e)), e⟩)

theorem VVal.slotsPresent_put {v : VVal} {w i j : Nat} (x : Nat) (h : v.slotsPresent w i ∨ j = i) : (v.put w j x pPresent).slotsPresent w i := by
  intro k hk
  unfold VVal.put VVal.setSt
  rw [if_neg (by omega)]
  refine getEl_presents _ (fun k => w * j / 16 + k) _ (h.imp (fun h => h k hk) ?_)
  rintro rfl
  exact ⟨k, List.mem_range.mpr hk, rfl⟩

theorem VVal.slotsPresent_puts {w i : Nat} {xs : List (Nat × Nat)} (v : VVal) (h : v.slotsPresent w i ∨ i ∈ xs.map (·.1)) :
    (v.puts w xs).slotsPresent w i := by
  induction xs generalizing v with
  | nil => simpa using h
  | cons x xs ih =>
    refine ih _ ?_
    by_cases hx : x.1 = i
    · exact .inl (slotsPresent_put x.2 (.inr hx))
    · exact h.imp (fun h => slotsPresent_put x.2 (.inl h)) (fun h => (List.mem_cons.mp h).resolve_left (Ne.symm hx))

theorem VVal.st_of_slotsPresent {v : VVal} {w i : Nat} (h : v.slotsPresent w i) : v.st w i = pPresent := by
  unfold VVal.st
  have hs : ∀ p ∈ (List.range (w / 16)).map (fun k => getEl 1024 v.pres 2 (w * i / 16 + k)), p = pPresent := by
    rintro p hp
    obtain ⟨k, hk, rfl⟩ := List.mem_map.mp hp
    exact h k (List.mem_range.mp hk)
  split
  · rfl
  · generalize (List.range (w / 16)).map _ = ps at hs ⊢
    have hf : ps.find? (fun p => p == pPending || p == pDependent) = none := List.find?_eq_none.mpr (fun p hp => by rw [hs p hp]; decide)
    have hc : ps.contains pFaulted = false := by
      rw [List.contains_eq_mem, decide_eq_false_iff_not]
      exact fun hp => absurd (hs _ hp) (by decide)
    simp only [hf, hc]
    rfl

/-! ## `VVal.write` -/

/-- The triples of an instruction's PRESENT results. -/
def presents (xs : List (Nat × Nat)) : List (Nat × Nat × Nat) := xs.map (fun x => (x.1, x.2, pPresent))

section
variable (o : VVal) (w tag : Nat) (xs : List (Nat × Nat)) (x y : BitVec 512)

theorem VVal.write_bits : (o.write w tag (presents xs) x y).bits = (o.puts w xs).bits := by
  unfold VVal.write presents VVal.puts
  rw [List.foldl_map]

theorem VVal.write_pres : (o.write w tag (presents xs) x y).pres = (o.puts w xs).pres := by
  unfold VVal.write presents VVal.puts
  rw [List.foldl_map]

theorem VVal.write_fmt (h : tag < 64) : (o.write w tag (presents xs) x y).fmt = tag := BitVec.toNat_ofNat .. |>.trans (Nat.mod_eq_of_lt h)

theorem VVal.write_el (i : Nat) : (o.write w tag (presents xs) x y).el w i = (o.puts w xs).el w i :=
  congrArg (fun b => getEl 8192 b w i) (VVal.write_bits ..)

/-- The elements that are written are PRESENT. -/
theorem VVal.write_st {i : Nat} (h : i ∈ xs.map (·.1)) : (o.write w tag (presents xs) x y).st w i = pPresent := by
  refine VVal.st_of_slotsPresent (fun k hk => ?_)
  rw [VVal.write_pres]
  exact VVal.slotsPresent_puts o (.inr h) k hk

end

/-! ## Destinations -/

theorem vreg_setVreg_self (s : State) (d : VReg) (v : VVal) : vreg (setVreg s d v) d = v := Vector.getElem_set_self ..

/-- A claim changes states of elements, and no bits. -/
theorem vreg_claim_bits (s : State) (d : VReg) (w : Nat) (is : List Nat) : (vreg (claim s d w is) d).bits = (vreg s d).bits := by
  unfold claim
  simp only
  split
  · rfl
  · split
    · rfl
    · rw [vreg_setVreg_self]

theorem vQueue_setVQueue_self (q : Queues) (d : VReg) (xs : List VVal) : vQueue (setVQueue q d xs) d = xs := by
  unfold vQueue setVQueue
  grind

/-- The queues of a task's strand after they have been changed. -/
theorem queuesOf_modQueues {s : State} {tid : Nat} {e : Bool} {k : Task} (hi : s.cpu.id = .task tid e) (hk : s.task? tid = some k)
    (f : Queues → Queues) : queuesOf (modQueues s f) = f (queuesOf s) := by
  have ht : tidOf s.cpu.id = some tid := by rw [hi]; rfl
  have hm : (modQueues s f).task? tid = some { k with queues := f k.queues } := by
    unfold modQueues
    rw [ht]
    exact State.task?_modTask_of hk (fun _ => rfl)
  unfold queuesOf
  rw [modQueues_cpu, ht]
  simp only [hm, hk]
  rfl

/-- The strand's control registers are the same, and so is its part of memory, but for what its vector registers depend on (R275). -/
def sameRun (s t : State) : Prop := t.cpu.ctl = s.cpu.ctl ∧ t.cpu.mem = { s.cpu.mem with vdep := t.cpu.mem.vdep }

theorem sameRun.trans {a b c : State} (h : sameRun a b) (k : sameRun b c) : sameRun a c := by
  obtain ⟨h1, h2⟩ := h
  obtain ⟨k1, k2⟩ := k
  exact ⟨k1.trans h1, by rw [k2, h2]⟩

theorem setVreg_sameRun (s : State) (d : VReg) (v : VVal) : sameRun s (setVreg s d v) := ⟨rfl, rfl⟩

theorem claim_sameRun (s : State) (d : VReg) (w : Nat) (is : List Nat) : sameRun s (claim s d w is) := by
  unfold claim
  simp only
  split
  · exact ⟨rfl, rfl⟩
  · split
    · exact ⟨rfl, rfl⟩
    · exact sameRun.trans (b := loseEls _ _ _ _) ⟨rfl, rfl⟩ (setVreg_sameRun ..)

/-- The value that a register takes. -/
def putReg (s : State) (d : VReg) (w tag : Nat) (xs : List (Nat × Nat)) (side : VVal → BitVec 512 × BitVec 512) : VVal :=
  let o := vreg (claim s d w (xs.map (·.1))) d
  o.write w tag (presents xs) (side o).1 (side o).2

/-- The entry that a port takes. -/
def putEntry (s : State) (w tag : Nat) (xs : List (Nat × Nat)) (side : VVal → BitVec 512 × BitVec 512) : VVal :=
  let o := (blankImage s tag).1
  o.write w tag (presents xs) (side o).1 (side o).2

section
variable {s : State} {d : VReg} (w tag : Nat) (xs : List (Nat × Nat)) (side : VVal → BitVec 512 × BitVec 512)

theorem putV_of_register (h : pushes s d = false) :
    putV s d w tag (presents xs) side = setVreg (claim s d w (xs.map (·.1))) d (putReg s d w tag xs side) := by
  have hm : (presents xs).map (·.1) = xs.map (·.1) := List.map_map ..
  unfold putV
  rw [h, hm]
  rfl

theorem putV_of_port (h : pushes s d = true) :
    putV s d w tag (presents xs) side = pushV (blankImage s tag).2 d (putEntry s w tag xs side) := if_pos h

theorem pushV_cpu (s : State) (d : VReg) (v : VVal) : (pushV s d v).cpu = (dropStaged s).cpu := modQueues_cpu ..

/-- A push appends the entry to its queue. -/
theorem vQueue_putV {tid : Nat} {e : Bool} {k : Task} (hi : s.cpu.id = .task tid e) (hk : s.task? tid = some k) (h : pushes s d = true) :
    vQueue (queuesOf (putV s d w tag (presents xs) side)) d = vQueue (queuesOf s) d ++ [putEntry s w tag xs side] := by
  have hi' : (dropStaged (blankImage s tag).2).cpu.id = .task tid e := hi
  have hk' : (dropStaged (blankImage s tag).2).task? tid = some k := hk
  rw [putV_of_port _ _ _ _ h, pushV, queuesOf_modQueues hi' hk', vQueue_setVQueue_self]
  rfl

/-- Where the result stands. -/
theorem resultAt_putV {tid : Nat} {e : Bool} {k : Task} (hi : s.cpu.id = .task tid e) (hk : s.task? tid = some k) :
    resultAt s (putV s d w tag (presents xs) side) d = if pushes s d then putEntry s w tag xs side else putReg s d w tag xs side := by
  unfold resultAt
  split
  · rename_i h
    rw [vQueue_putV _ _ _ _ hi hk h]
    exact List.getLastD_concat ..
  · rename_i h
    rw [putV_of_register _ _ _ _ (Bool.eq_false_of_not_eq_true h), vreg_setVreg_self]

/-- It is a write of the elements over some older value. -/
theorem resultAt_putV_write {tid : Nat} {e : Bool} {k : Task} (hi : s.cpu.id = .task tid e) (hk : s.task? tid = some k) :
    ∃ (o : VVal) (x y : BitVec 512), resultAt s (putV s d w tag (presents xs) side) d = o.write w tag (presents xs) x y := by
  rw [resultAt_putV _ _ _ _ hi hk]
  split
  · exact ⟨_, _, _, rfl⟩
  · exact ⟨_, _, _, rfl⟩

/-- Elements of a register that are not written keep their bits. -/
theorem putV_el_of_not_mem (h : pushes s d = false) {i : Nat} (hi : i ∉ xs.map (·.1)) :
    (vreg (putV s d w tag (presents xs) side) d).el w i = (vreg s d).el w i := by
  rw [putV_of_register _ _ _ _ h, vreg_setVreg_self, putReg, VVal.write_el, VVal.el_puts_of_not_mem hi]
  exact congrArg (fun b => getEl 8192 b w i) (vreg_claim_bits s d w _)

/-- A push changes no register. -/
theorem putV_cpu_of_port (h : pushes s d = true) : (putV s d w tag (presents xs) side).cpu = (dropStaged s).cpu := by
  rw [putV_of_port _ _ _ _ h, pushV_cpu]
  rfl

theorem putV_vframe : VFrame d s (putV s d w tag (presents xs) side) := by
  cases h : pushes s d with
  | false =>
    rw [putV_of_register _ _ _ _ h]
    exact (claim_vframe d s w _).trans (setVreg_vframe d _ _)
  | true =>
    have h' : pushes (blankImage s tag).2 d = true := h
    rw [putV_of_port _ _ _ _ h]
    exact (blankImage_vframe d s tag).trans (pushV_vframe h' _)

theorem putV_sameRun : sameRun s (putV s d w tag (presents xs) side) := by
  cases h : pushes s d with
  | false =>
    rw [putV_of_register _ _ _ _ h]
    exact (claim_sameRun ..).trans (setVreg_sameRun ..)
  | true =>
    unfold sameRun
    rw [putV_cpu_of_port _ _ _ _ h]
    exact ⟨rfl, rfl⟩

theorem putV_vreg {r : VReg} (h : pushes s d = true ∨ r ≠ d) : vreg (putV s d w tag (presents xs) side) r = vreg s r := by
  rcases h with h | h
  · unfold vreg
    rw [putV_cpu_of_port _ _ _ _ h]
    rfl
  · exact (putV_vframe w tag xs side).vectors r h

end

/-- Settles O19: an integer operation is its exact value narrowed, or the bits themselves; and a write of a destination puts the elements
over the value before it, in the register or a new entry. -/
theorem integerElements : Obligations.IntegerElements := by
  refine ⟨fun f w rm sg fz sat a b c hi ha hb hc => ?results, fun s d w tag xs side tid e tk hid htk _ htag hxs hn => ?write⟩
  case results =>
    intro val lo top bits narrow gives
    have hw := (intFmt_spec hi).1
    have hval {x : Nat} (hx : x < 2 ^ w) : val x = intVal w sg x := (intVal_eq hw sg hx).symm
    have hbits (v : Int) : bits v = intBits w v := (intBits_eq w v).symm
    have hr : intRange w sg = (lo, top) := by cases sg <;> rfl
    have hn (v : Int) : narrow v = wrapSat w sg sat v := by rw [wrapSat_eq, hr, ← hbits, ← hbits]
    have ha' := Nat.mod_eq_of_lt ha
    have hb' := Nat.mod_eq_of_lt hb
    have arith {op : Nat} {r : FRes} (h : op ≤ 16) (e : arithI w sg sat (op - 1) a b = r) : gives op r :=
      (elemOp_of_int hi rm fz sat a b c h).trans e
    have fma {op : Nat} (h : 21 ≤ op ∧ op ≤ 24) : gives op _ := (elemOp_fma h f rm fz sat a b c).trans (fmaElem_of_int hi rm fz sat a b c _)
    simp only [hn, hval ha, hval hb, hval hc, hbits]
    refine ⟨arith (by decide) rfl, arith (by decide) rfl, arith (by decide) rfl, arith (by decide) rfl, arith (by decide) ?div,
      arith (by decide) ?min, arith (by decide) ?max, arith (by decide) ?abs, arith (by decide) rfl, arith (by decide) ?and,
      arith (by decide) ?or, arith (by decide) ?xor, arith (by decide) ?not, arith (by decide) ?sll, arith (by decide) ?srl,
      arith (by decide) ?sra, fma (by decide), fma (by decide), fma (by decide), fma (by decide)⟩
    case div => exact (divI_eq ..).trans (by simp only [intVal_eq_zero_iff sg hb, hr])
    case min => simp [intBits_min sg ha hb, arithI, ha', hb']
    case max => simp [intBits_max sg ha hb, arithI, ha', hb']
    case abs => rw [Int.abs_eq_natAbs]; rfl
    case and => simp [arithI, ha', hb']
    case or => simp [arithI, ha', hb']
    case xor => simp [arithI, ha', hb']
    case not => simp [arithI, ha']
    case sll => simp [arithI, ha']
    case srl => simp [arithI, ha']
    case sra => simp [arithI, intVal_eq hw true ha]
  case write =>
    intro t
    obtain ⟨o, x, y, hr⟩ := resultAt_putV_write (d := d) w tag xs side hid htk
    have hf : VFrame d s t := putV_vframe w tag xs side
    obtain ⟨hctl, hmem⟩ : sameRun s t := putV_sameRun w tag xs side
    have hr : resultAt s t d = o.write w tag (presents xs) x y := hr
    rw [hr]
    refine ⟨fun z hz => ⟨?_, VVal.write_st _ _ _ _ _ _ (List.mem_map_of_mem hz)⟩, VVal.write_fmt _ _ _ _ _ _ htag,
      fun h i _ hi => putV_el_of_not_mem w tag xs side h hi, fun r h => putV_vreg w tag xs side h, fun h => ?_, hf.scalars, hf.masks, hctl,
      hf.trap, hmem, hf.mem, hf.log⟩
    · rw [VVal.write_el]
      exact VVal.el_puts_of_mem hn hz (hxs z hz) o
    · rw [← hr]
      refine (vQueue_putV w tag xs side hid htk h).trans (congrArg (fun v => _ ++ [v]) ?_)
      exact ((resultAt_putV w tag xs side hid htk).trans (if_pos h)).symm

end Sys2Proof.Machine
end

section
/-! Reductions and scans (R101, R162), and the mask instructions (R163). -/

namespace Sys2Proof.Machine

/-! ## The tree of R101 -/

/-- The number of levels of the tree over n elements. -/
theorem clog2_eq {n k : Nat} (h : n ≤ 2 ^ k) (hk : k = 0 ∨ 2 ^ (k - 1) < n) : clog2 n = k := by
  have hp := Nat.two_pow_pos (k - 1)
  unfold clog2
  split
  · rcases hk with rfl | hk
    · rfl
    · omega
  · rename_i hn
    obtain ⟨j, rfl⟩ : ∃ j, k = j + 1 := Nat.exists_eq_succ_of_ne_zero (by rintro rfl; exact hn h)
    rw [(Nat.log2_eq_iff (by omega)).mpr ⟨?_, ?_⟩]
    · have := hk.resolve_left (by omega)
      simp at this
      omega
    · omega

/-- The flags that accrue while level h of a tree is made from the level above it. -/
def levelFlags (g : Nat → Nat → FRes) (xs : List Nat) (h : Nat) (f : Flags) : Flags :=
  (List.zipWith (fun x y => (g x y).2) (xs.take (2 ^ h)) (xs.drop (2 ^ h))).foldl (· ||| ·) f

theorem levelFlags_or (g : Nat → Nat → FRes) (xs : List Nat) (h : Nat) (a f : Flags) :
    levelFlags g xs h (a ||| f) = a ||| levelFlags g xs h f := List.foldl_assoc ..

/-- A tree whose levels are `lv`. -/
theorem redTree_eq (g : Nat → Nat → FRes) (lv : Nat → List Nat) (k : Nat)
    (h : ∀ h, h < k → lv h = List.zipWith (fun x y => (g x y).1) ((lv (h + 1)).take (2 ^ h)) ((lv (h + 1)).drop (2 ^ h))) :
    redTree g k (lv k) = ((lv 0).getD 0 0, (List.range k).foldl (fun f h => levelFlags g (lv (h + 1)) h f) 0) := by
  induction k with
  | zero => cases lv 0 <;> simp [redTree]
  | succ k ih =>
    rw [redTree, List.map_zipWith, ← h k k.lt_succ_self, ih fun j hj => h j (hj.trans k.lt_succ_self), List.range_succ, List.foldl_append]
    unfold levelFlags
    simp only [List.foldl_cons, List.foldl_nil]
    rw [← List.map_zipWith (g := g) (f := (·.2)), List.foldl_map]

/-- Flags that stand before stay. -/
theorem foldl_levelFlags_or (g : Nat → Nat → FRes) (lv : Nat → List Nat) (hs : List Nat) (a : Flags) :
    hs.foldl (fun f h => levelFlags g (lv (h + 1)) h f) a = a ||| hs.foldl (fun f h => levelFlags g (lv (h + 1)) h f) 0 := by
  have h := List.foldl_hom (a ||| ·) (g₁ := fun f h => levelFlags g (lv (h + 1)) h f) (g₂ := fun f h => levelFlags g (lv (h + 1)) h f)
    (l := hs) (init := 0) (fun f h => levelFlags_or ..)
  rwa [show a ||| (0 : Flags) = a from BitVec.or_zero] at h

/-! ## The scan -/

/-- The results and flags of a scan from r i on. -/
theorem scanGo_eq (g : Nat → Nat → FRes) (r : Nat → Nat) (ys : List Nat) : ∀ (i : Nat) (fl : Flags) (acc : List Nat),
    (∀ j, j < ys.length → r (i + j + 1) = (g (r (i + j)) (ys.getD j 0)).1) →
    scanGo g ys (r i) fl acc = (acc.reverse ++ (List.range ys.length).map (fun j => r (i + j + 1)),
      (List.range ys.length).foldl (fun f j => f ||| (g (r (i + j)) (ys.getD j 0)).2) fl) := by
  induction ys with
  | nil => intro i fl acc _; simp [scanGo]
  | cons y ys ih =>
    intro i fl acc h
    have h0 : r (i + 1) = (g (r i) y).1 := h 0 (Nat.succ_pos _)
    have hs : ∀ j, i + 1 + j = i + (j + 1) := by omega
    rw [scanGo, ← h0, ih (i + 1) _ _ fun j hj => by rw [hs]; exact h (j + 1) (Nat.succ_lt_succ hj)]
    rw [List.length_cons, List.range_succ_eq_map]
    simp [hs, List.foldl_map]

/-- The first result and those after it. -/
theorem map_range_succ (r : Nat → Nat) (n : Nat) : (List.range (n + 1)).map r = r 0 :: (List.range n).map (fun j => r (j + 1)) := by
  rw [List.range_succ_eq_map, List.map_cons, List.map_map]
  rfl

/-- The results that a scan writes: those of active elements, at their places. -/
theorem scanned_active (s : State) (w : Nat) (r : Nat → Nat) :
    (((List.range (vlOf s)).map r).mapIdx (fun i e => (i, e, pPresent))).filter (fun x => active s w x.1) =
      ((List.range (vlOf s)).filter (fun j => guardBit s w j)).map (fun j => (j, r j, pPresent)) := by
  have hm : ((List.range (vlOf s)).map r).mapIdx (fun i e => (i, e, pPresent)) = (List.range (vlOf s)).map (fun j => (j, r j, pPresent)) := by
    apply List.ext_getElem <;> simp
  rw [hm, List.filter_map]
  congr 1
  apply List.filter_congr
  intro j hj
  simp [active, List.mem_range.mp hj]

/-! ## Operands -/

theorem readElem_of_float {f : Nat} {F : FF} (h : floatFmt f = some F) (fz : Bool) (x : Nat) :
    readElem f fz x = (if (readF F fz x).isNan then qnanF F else readBits F fz x, if (readF F fz x).isSig then .nv else 0) := by
  unfold readElem sigFl
  simp [h]

theorem readElem_of_not_float {f : Nat} (h : floatFmt f = none) (fz : Bool) (x : Nat) : readElem f fz x = (x, 0) := by
  unfold readElem
  rw [h]

/-- The function of R147 that an operator applies. -/
def redFn (op : Nat) : Nat := match op with | 0 => 1 | 1 => 6 | 2 => 7 | 3 => 10 | 4 => 11 | _ => 12

/-- A step of a reduction gives what the vector instruction of the same name gives. -/
theorem redElem_eq (op f : Nat) (rm : RM) (sat fz : Bool) (a b : Nat) : redElem op f rm sat fz a b = elemOp (redFn op) f rm fz sat a b 0 := by
  rcases op with _ | _ | _ | _ | _ | op <;> rfl

/-- A quiet source of a reduction or scan whose formats fit, and a destination that is free. -/
structure Reducible (s : State) (op : Nat) (d a : VReg) (v : VVal) : Prop where
  quiet : quietOps s [.v a] (.v d) true = some [.v v]
  free : destFree s d = true
  format : (if op ≤ 2 then (isFA (etOf s) || isIA (etOf s)) else isIA (etOf s)) = true
  width : 8 ≤ wOf s
  tag : v.fmt = etOf s
  fits : vlOf s ≤ vlmax (wOf s)
  some : 0 < vlOf s

/-- What the elements below VL read as, and the flags of each (R80, R81, R92); inactive ones are the identity (R162). -/
def redOperands (s : State) (op : Nat) (v : VVal) : List FRes :=
  (List.range (vlOf s)).map (fun j => readElem (etOf s) (fzOn s) (if guardBit s (wOf s) j then v.el (wOf s) j else identOf op (etOf s)))

theorem length_redOperands (s : State) (op : Nat) (v : VVal) : (redOperands s op v).length = vlOf s := by simp [redOperands]

/-- The flags that reading the operands raises. -/
def readFlags (xs : List FRes) : Flags := xs.foldl (fun f x => f ||| x.2) 0

/-- The operator of a reduction or scan, in the modes of MR. -/
def redStep (s : State) (op x y : Nat) : FRes := redElem op (etOf s) (rmOn s) (satOn s) (fzOn s) x y

section
variable {s : State} {op : Nat} {d a : VReg} {v : VVal} (h : Reducible s op d a v)

include h in
theorem redPrep_of_reducible (k : List Nat → Flags → Out) :
    redPrep s op d a v k = k ((redOperands s op v).map (·.1)) (readFlags (redOperands s op v)) := by
  obtain ⟨_, hm, _, hq⟩ := quietOps_spec h.quiet
  have hv : v.quiet = true := hq (.v v) List.mem_cons_self
  have hw : decide (8 ≤ wOf s) = true := decide_eq_true h.width
  have hact : (List.range (vlOf s)).map (fun i => readElem (etOf s) (fzOn s) (if active s (wOf s) i then v.el (wOf s) i else identOf op (etOf s))) =
      redOperands s op v := List.map_congr_left fun j hj => by simp [active, List.mem_range.mp hj]
  unfold redPrep
  simp only [hw, Bool.and_true, hact]
  rw [fmtGate_of_fits _ h.format (by simpa using h.tag) (by simpa using h.fits), needV_of_quiet _ (by simpa using ⟨hv, fun _ => groupsOf_lt⟩),
    needM_of_clean _ _ hm]
  rfl

include h in
/-- A reduction with levels `lv`, from the padded operands down to one element. -/
theorem vred_of_reducible (word : Nat) {k : Nat} (hn : vlOf s ≤ 2 ^ k) (hk : k = 0 ∨ 2 ^ (k - 1) < vlOf s) (lv : Nat → List Nat)
    (htop : lv k = (redOperands s op v).map (·.1) ++ List.replicate (2 ^ k - vlOf s) (identOf op (etOf s)))
    (hlv : ∀ h, h < k → lv h =
      List.zipWith (fun x y => (redStep s op x y).1) ((lv (h + 1)).take (2 ^ h)) ((lv (h + 1)).drop (2 ^ h))) :
    vred s word op d a = .next (vdone (putV
      (accrue s ((List.range k).foldl (fun f h => levelFlags (redStep s op) (lv (h + 1)) h f) (readFlags (redOperands s op v))))
      d (wOf s) (etOf s) [(0, (lv 0).getD 0 0, pPresent)] noSide) [.v a]) := by
  have htree := redTree_eq (redStep s op) lv k hlv
  rw [htop] at htree
  refine (whole_of_quiet _ _ h.quiet).trans ((redPrep_of_reducible h _).trans ?_)
  simp only
  rw [writeVl_of_destFree h.free (.inl h.some), if_neg h.some.ne', List.length_map, length_redOperands, clog2_eq hn hk,
    foldl_levelFlags_or, show redElem op (etOf s) (rmOn s) (satOn s) (fzOn s) = redStep s op from rfl, htree]

include h in
/-- A scan whose results are r. -/
theorem vscan_of_reducible (word : Nat) (r : Nat → Nat) (h0 : r 0 = ((redOperands s op v).map (·.1)).getD 0 0)
    (hr : ∀ j, r (j + 1) = (redStep s op (r j) (((redOperands s op v).map (·.1)).getD (j + 1) 0)).1) :
    vscan s word op d a = .next (vdone (putV
      (accrue s ((List.range (vlOf s - 1)).foldl (fun f j => f ||| (redStep s op (r j) (((redOperands s op v).map (·.1)).getD (j + 1) 0)).2)
        (readFlags (redOperands s op v))))
      d (wOf s) (etOf s) (((List.range (vlOf s)).filter (fun j => guardBit s (wOf s) j)).map (fun j => (j, r j, pPresent))) noSide) [.v a]) := by
  refine (whole_of_quiet _ _ h.quiet).trans ((redPrep_of_reducible h _).trans ?_)
  have hlen : ((redOperands s op v).map (·.1)).length = vlOf s := by rw [List.length_map, length_redOperands]
  have hpos : 0 < ((redOperands s op v).map (·.1)).length := by rw [hlen]; exact h.some
  generalize (redOperands s op v).map (·.1) = xs at h0 hr hpos hlen ⊢
  cases xs with
  | nil => exact absurd hpos (Nat.lt_irrefl 0)
  | cons x ys =>
    have h0 : r 0 = x := h0
    have hlen : ys.length + 1 = vlOf s := hlen
    have hmap : x :: (List.range ys.length).map (fun j => r (j + 1)) = (List.range (vlOf s)).map r := by rw [← hlen, map_range_succ, h0]
    have hscan := scanGo_eq (redStep s op) r ys 0 (readFlags (redOperands s op v)) [x] (fun j _ => by simpa using hr j)
    simp only [h0, Nat.zero_add] at hscan
    simp only
    rw [writeVl_of_destFree h.free (.inl h.some), show redElem op (etOf s) (rmOn s) (satOn s) (fzOn s) = redStep s op from rfl, hscan,
      List.reverse_singleton, List.singleton_append, hmap, scanned_active, show vlOf s - 1 = ys.length by omega]
    rfl

end

/-! ## Mask registers -/

theorem mreg_setMreg_self (s : State) (d : MReg) (v : BitVec 1024) : mreg (setMreg s d v) d = if d = 0 then BitVec.allOnes 1024 else v := by
  unfold mreg setMreg
  split
  · rfl
  · exact Vector.getElem_set_self ..

theorem mreg_setMreg_ne (s : State) {d r : MReg} (v : BitVec 1024) (h : r ≠ d) : mreg (setMreg s d v) r = mreg s r := by
  unfold mreg setMreg
  split
  · rfl
  · split
    · rfl
    · exact Vector.getElem_set_ne d.isLt r.isLt (fun e => h (BitVec.eq_of_toNat_eq e.symm))

/-- Beside the mask registers, a write of one leaves the strand as it is. -/
theorem setMreg_leaves (s : State) (d : MReg) (v : BitVec 1024) : (setMreg s d v).cpu.ctl = s.cpu.ctl ∧
    (setMreg s d v).cpu.regs.s = s.cpu.regs.s ∧ (setMreg s d v).cpu.regs.v = s.cpu.regs.v ∧
    (setMreg s d v).mem = s.mem ∧ vlgOf (setMreg s d v) = vlgOf s := by
  unfold setMreg
  split <;> exact ⟨rfl, rfl, rfl, rfl, rfl⟩

/-! ## The end of a vector instruction -/

/-- Popping ports changes the queues, and nothing else. -/
theorem popOps_induction {p : State → Prop} {s : State} (rs : List Src) (h0 : p s) (hq : ∀ t f, p t → p (modQueues t f)) : p (popOps s rs) := by
  unfold popOps
  split
  · exact h0
  · refine List.foldlRecOn rs _ h0 (fun t ht x _ => ?_)
    cases x with
    | s r =>
      simp only
      split
      · exact hq t _ ht
      · exact ht
    | v r =>
      simp only
      split
      · exact hq t _ ht
      · exact ht

theorem popOps_cpu (s : State) (rs : List Src) : (popOps s rs).cpu = s.cpu :=
  popOps_induction (p := fun t => t.cpu = s.cpu) rs rfl fun t f h => (modQueues_cpu t f).trans h

theorem popOps_sameSight (s : State) (rs : List Src) : SameSight s (popOps s rs) :=
  popOps_induction rs (.refl s) fun t f h => h.trans (modQueues_sameSight t f)

/-- The control registers at the end depend on those before it and on VLG alone. -/
theorem complete_ctl_congr {s t : State} (hc : t.cpu.ctl = s.cpu.ctl) (hv : vlgOf t = vlgOf s) :
    (complete (setVstart t 0)).cpu.ctl = (complete (setVstart s 0)).cpu.ctl := by
  change endCheck (vlgOf t) t.cpu.ctl.pc { t.cpu.ctl with vstart := 0 } = endCheck (vlgOf s) s.cpu.ctl.pc { s.cpu.ctl with vstart := 0 }
  rw [hc, hv]

theorem vdone_ctl (s : State) (rs : List Src) : (vdone s rs).cpu.ctl = (complete (setVstart s 0)).cpu.ctl :=
  complete_ctl_congr (by rw [popOps_cpu]) (popOps_sameSight s rs).vlgOf

theorem vdone_regs (s : State) (rs : List Src) : (vdone s rs).cpu.regs = s.cpu.regs := by
  change (popOps s rs).cpu.regs = _
  rw [popOps_cpu]

theorem mreg_vdone (s : State) (rs : List Src) (r : MReg) : mreg (vdone s rs) r = mreg s r := by
  unfold mreg
  rw [vdone_regs]

theorem vdone_setMreg_ctl (s : State) (d : MReg) (v : BitVec 1024) (rs : List Src) :
    (vdone (setMreg s d v) rs).cpu.ctl = (complete (setVstart s 0)).cpu.ctl := by
  obtain ⟨hc, _, _, _, hv⟩ := setMreg_leaves s d v
  exact (vdone_ctl _ rs).trans (complete_ctl_congr hc hv)

theorem mreg_vdone_setMreg_self (s : State) (d : MReg) (v : BitVec 1024) (rs : List Src) {j : Nat} (hj : j < 1024) :
    (mreg (vdone (setMreg s d v) rs) d).getLsbD j = if d = 0 then true else v.getLsbD j := by
  rw [mreg_vdone, mreg_setMreg_self]
  split
  · rw [BitVec.getLsbD_allOnes, decide_eq_true hj]
  · rfl

/-! ## The mask instructions -/

/-- What an instruction that writes mask d from f does (R163). -/
def WritesMask (s : State) (d : MReg) (f : Nat → Bool) (o : Out) : Prop := ∃ t, o = .next t ∧
  (∀ j, j < 1024 → (mreg t d).getLsbD j = if d = 0 then true else f j) ∧ (∀ r, r ≠ d → mreg t r = mreg s r) ∧
  t.cpu.ctl = (complete (setVstart s 0)).cpu.ctl ∧ t.cpu.wait = none ∧ t.cpu.regs.s = s.cpu.regs.s ∧
  t.cpu.regs.v = s.cpu.regs.v ∧ t.mem = s.mem

theorem maskOp_writesMask {s : State} (ht : isTask s = true) (hp : s.cpu.regs.mPoison = 0) (word : Nat) (ms : List MReg) (d : MReg)
    {v : BitVec 1024} {f : Nat → Bool} (hf : ∀ j, j < 1024 → v.getLsbD j = f j) : WritesMask s d f (maskOp s word ms d v) := by
  obtain ⟨_, hs, hv, hm, _⟩ := setMreg_leaves s d v
  unfold maskOp
  rw [taskOnly_of_isTask _ _ ht, needM_of_clean _ _ hp]
  refine ⟨_, rfl, fun j hj => ?_, fun r hr => ?_, vdone_setMreg_ctl .., rfl, ?_, ?_, ?_⟩
  · rw [mreg_vdone_setMreg_self _ _ _ _ hj, hf j hj]
  · rw [mreg_vdone, mreg_setMreg_ne _ _ hr]
  · rw [vdone_regs, hs]
  · rw [vdone_regs, hv]
  · exact ((vdone_sameMemory _ _).1).trans hm

/-- The mask of the lowest n bits. -/
theorem getLsbD_lowest (n : Nat) {j : Nat} (hj : j < 1024) : (BitVec.ofNat 1024 (2 ^ Nat.min n 1024 - 1)).getLsbD j = decide (j < n) := by
  rw [BitVec.getLsbD_ofNat, Nat.testBit_two_pow_sub_one]
  simp [hj]

theorem execMpop_of_quiet {s : State} {d : SReg} {a : MReg} (h : quietOps s [] (.s d) true = some []) :
    execMpop d a s = .next (vdone (writeS s d (BitVec.ofNat 64 (setBits (mreg s a) (maskBits s)).length)) []) := by
  obtain ⟨_, hm, _, _⟩ := quietOps_spec h
  exact (whole_of_quiet _ _ h).trans (needM_of_clean _ _ hm)

theorem execMfirst_of_quiet {s : State} {d : SReg} {a : MReg} (h : quietOps s [] (.s d) true = some []) :
    execMfirst d a s = .next (vdone (writeS s d (match (setBits (mreg s a) (maskBits s)).head? with
      | some i => BitVec.ofNat 64 i
      | none => BitVec.allOnes 64)) []) := by
  obtain ⟨_, hm, _, _⟩ := quietOps_spec h
  exact (whole_of_quiet _ _ h).trans (needM_of_clean _ _ hm)

/-- Settles O23: the tree and the scan of the model are those of R101, and the mask instructions write what R163 gives. -/
theorem reductionAndMaskResults : Obligations.ReductionAndMaskResults := by
  refine ⟨fun s d a v op hq hfree => ?reduce, fun s d a b ht hp => ?masks, fun s d a v hq => ?set, fun s d a hq => ?count⟩
  case reduce =>
    intro m et w n hformat hw htag hfits hn id step read rd xs fl0 reduces scans
    have hR : Reducible s op d a v := ⟨hq, hfree, hformat, hw, htag, hfits, hn⟩
    have hstep : redStep s op = step := funext fun x => funext fun y => redElem_eq ..
    have hread (x : Nat) : readElem et (fzOn s) x = read x := by
      cases hF : floatFmt et with
      | none => simp only [readElem_of_not_float hF, read, hF]
      | some F => simp only [readElem_of_float hF, read, hF]; rfl
    have hrd : redOperands s op v = rd := List.map_congr_left fun j _ => hread _
    have reduction {i : Instr} {word : Nat} (hi : exec i s = vred s word op d a) : reduces i := by
      intro k hk hk' lv htop hlv fl
      have := vred_of_reducible hR word hk hk' lv (by rw [hrd]; exact htop) (by rw [hstep]; exact hlv)
      rw [hstep, hrd] at this
      exact hi.trans this
    have scan {i : Instr} {word : Nat} (hi : exec i s = vscan s word op d a) : scans i := by
      intro r h0 hr fl
      have := vscan_of_reducible hR word r (by rw [hrd]; exact h0) (by rw [hstep, hrd]; exact hr)
      rw [hstep, hrd] at this
      exact hi.trans this
    have both {k u u' : Nat} {i j : Instr} (hi : exec i s = vred s u k d a) (hj : exec j s = vscan s u' k d a) (h : op = k) :
        reduces i ∧ scans j := ⟨reduction (by rw [h]; exact hi), scan (by rw [h]; exact hj)⟩
    exact ⟨both rfl rfl, both rfl rfl, both rfl rfl, both rfl rfl, both rfl rfl, both rfl rfl⟩
  case masks =>
    intro writes x y
    have written {i : Instr} {word : Nat} {ms : List MReg} {v : BitVec 1024} {f : Nat → Bool} (hi : exec i s = maskOp s word ms d v)
        (hf : ∀ j, j < 1024 → v.getLsbD j = f j) : writes i f := by
      have := maskOp_writesMask ht hp word ms d hf
      rwa [← hi] at this
    exact ⟨written rfl fun j _ => BitVec.getLsbD_and, written rfl fun j _ => BitVec.getLsbD_or, written rfl fun j _ => BitVec.getLsbD_xor,
      written rfl fun j hj => by rw [BitVec.getLsbD_not, decide_eq_true hj, Bool.true_and], written rfl fun _ _ => rfl⟩
  case set =>
    refine ⟨_, whole_of_quiet _ _ hq, fun j hj => ?_, vdone_setMreg_ctl ..⟩
    rw [mreg_vdone_setMreg_self _ _ _ _ hj, getLsbD_lowest _ hj]
    by_cases h : d = 0 <;> simp [h, wordAt, SVal.word]
  case count =>
    intro n set
    have hset : setBits (mreg s a) (maskBits s) = set := rfl
    have hfirst := execMfirst_of_quiet (a := a) hq
    rw [hset] at hfirst
    refine ⟨execMpop_of_quiet hq, fun h => ?_, fun j js h => ?_⟩
    · rw [h] at hfirst
      exact hfirst
    · rw [h] at hfirst
      exact hfirst

end Sys2Proof.Machine
end

section
/-! The integer instructions on operands that can be read (R106 to R112). -/

namespace Sys2Proof.Machine

/-! ## Instructions of one and two sources -/

theorem toNat_eq_zero_iff (x : Word) : x.toNat = 0 ↔ x = 0 := BitVec.toNat_inj (y := 0)

/-- An instruction whose operands can be read completes with the value its meaning computes from theirs. -/
theorem readS_retires {s : State} {rs : List SReg} {d : SReg} {vs : List Word} {f : List Word → Word} {v : Word} (word : Nat)
    (h : readable s rs (some d) = some vs) (hf : f vs = v) :
    readS s word rs (some d) (fun vs => retireOf s rs d (f vs)) = .next (computed s rs d v) := by
  rw [readS_of_readable word _ h, hf]
  rfl

theorem scalar2_retires {s : State} {d a b : SReg} {x y v : Word} {f : Word → Word → Word} (word : Nat)
    (h : readable s [a, b] (some d) = some [x, y]) (hf : f x y = v) : scalar2 s word d a b f = .next (computed s [a, b] d v) := by
  unfold scalar2
  exact readS_retires word h hf

theorem scalar1_retires {s : State} {d a : SReg} {x v : Word} {f : Word → Word} (word : Nat)
    (h : readable s [a] (some d) = some [x]) (hf : f x = v) : scalar1 s word d a f = .next (computed s [a] d v) := by
  unfold scalar1
  exact readS_retires word h hf

/-- An operation named twice gives one result at either width. -/
theorem scalar2_atWidth {s : State} {d a b : SReg} {x y : Word} {f g : (n : Nat) → BitVec n → BitVec n → BitVec n} (word : Nat)
    (w : Bool) (h : readable s [a, b] (some d) = some [x, y]) (hfg : ∀ n (p q : BitVec n), f n p q = g n p q) :
    scalar2 s word d a b (atWidth w f) =
      .next (computed s [a, b] d (if w then (g 32 (x.setWidth 32) (y.setWidth 32)).signExtend 64 else g 64 x y)) := by
  refine scalar2_retires word h ?_
  rw [atWidth, hfg, hfg]

/-! ## The register-register operations (Table 5.1) -/

namespace Alu
variable (n : Nat) (p q : BitVec n)

theorem add_eq : add n p q = BitVec.ofNat n (p.toNat + q.toNat) := by
  simp [add, BitVec.ofNat_add]

theorem sub_eq : sub n p q = BitVec.ofInt n (p.toInt - q.toInt) := by
  rw [sub, Int.sub_eq_add_neg, BitVec.ofInt_add, BitVec.ofInt_neg, BitVec.ofInt_toInt, BitVec.ofInt_toInt, BitVec.sub_eq_add_neg]

theorem mul_eq : mul n p q = BitVec.ofInt n (p.toInt * q.toInt) := by
  rw [mul, BitVec.ofInt_mul, BitVec.ofInt_toInt, BitVec.ofInt_toInt]

theorem mulh_eq : mulh n p q = BitVec.ofInt n ((p.toInt * q.toInt) >>> n) := by
  rw [mulh, Int.shiftRight_eq_div_pow]
  push_cast
  rfl

theorem mulhu_eq : mulhu n p q = BitVec.ofNat n ((p.toNat * q.toNat) >>> n) := by
  rw [mulhu, Nat.shiftRight_eq_div_pow]

/-- The greatest and the least value of n bits, as a division by zero gives them (R108). -/
theorem ofInt_intMax : BitVec.ofInt n (2 ^ (n - 1) - 1) = BitVec.intMax n := by
  rw [← BitVec.toInt_intMax, BitVec.ofInt_toInt]

theorem ofInt_intMin : BitVec.ofInt n (-(2 ^ (n - 1))) = BitVec.intMin n := by
  have h : BitVec.ofInt n (2 ^ (n - 1)) = BitVec.intMin n := by
    apply BitVec.eq_of_toNat_eq
    rw [BitVec.toNat_intMin, BitVec.toNat_ofInt]
    norm_cast
  rw [BitVec.ofInt_neg, h, BitVec.neg_intMin]

theorem div_eq : div n p q =
    if q = 0 then (if p.msb then BitVec.intMin n else BitVec.intMax n) else BitVec.ofInt n (p.toInt.tdiv q.toInt) := by
  simp only [div, ofInt_intMax, ofInt_intMin, BitVec.msb_eq_toInt, decide_eq_true_eq, ← not_lt, ite_not]

theorem rem_eq : rem n p q = if q = 0 then p else BitVec.ofInt n (p.toInt.tmod q.toInt) := by
  rw [rem, Int.tmod_def]

theorem remu_eq : remu n p q = if q = 0 then p else BitVec.ofNat n (p.toNat % q.toNat) := by
  rw [remu, Nat.mod_def]

theorem sll_eq : sll n p q = BitVec.ofNat n (p.toNat * 2 ^ (q.toNat % n)) := by
  apply BitVec.eq_of_toNat_eq
  rw [sll, BitVec.toNat_shiftLeft, Nat.shiftLeft_eq, BitVec.toNat_ofNat]

theorem srl_eq : srl n p q = BitVec.ofNat n (p.toNat / 2 ^ (q.toNat % n)) := by
  apply BitVec.eq_of_toNat_eq
  rw [srl, BitVec.toNat_ushiftRight, Nat.shiftRight_eq_div_pow, BitVec.toNat_ofNat,
    Nat.mod_eq_of_lt (Nat.lt_of_le_of_lt (Nat.div_le_self ..) p.isLt)]

theorem sra_eq : sra n p q = BitVec.ofInt n (p.toInt / 2 ^ (q.toNat % n)) := by
  rw [sra, BitVec.sshiftRight, Int.shiftRight_eq_div_pow]
  push_cast
  rfl

theorem slt_eq : slt n p q = BitVec.ofNat n (if p.toInt < q.toInt then 1 else 0) := by
  simp only [slt, BitVec.slt_iff_toInt_lt]
  split <;> rfl

theorem sltu_eq : sltu n p q = BitVec.ofNat n (if p.toNat < q.toNat then 1 else 0) := by
  simp only [sltu, BitVec.ult_iff_toNat_lt]
  split <;> rfl

theorem min_eq : min n p q = BitVec.ofInt n (Min.min p.toInt q.toInt) := by
  simp only [min, BitVec.slt_iff_toInt_lt]
  split
  · rw [min_eq_right (by omega), BitVec.ofInt_toInt]
  · rw [min_eq_left (by omega), BitVec.ofInt_toInt]

theorem max_eq : max n p q = BitVec.ofInt n (Max.max p.toInt q.toInt) := by
  simp only [max, BitVec.slt_iff_toInt_lt]
  split
  · rw [max_eq_right (by omega), BitVec.ofInt_toInt]
  · rw [max_eq_left (by omega), BitVec.ofInt_toInt]

theorem minu_eq : minu n p q = BitVec.ofNat n (Min.min p.toNat q.toNat) := by
  simp only [minu, BitVec.ult_iff_toNat_lt]
  split
  · rw [min_eq_right (by omega), BitVec.ofNat_toNat, BitVec.setWidth_eq]
  · rw [min_eq_left (by omega), BitVec.ofNat_toNat, BitVec.setWidth_eq]

theorem maxu_eq : maxu n p q = BitVec.ofNat n (Max.max p.toNat q.toNat) := by
  simp only [maxu, BitVec.ult_iff_toNat_lt]
  split
  · rw [max_eq_right (by omega), BitVec.ofNat_toNat, BitVec.setWidth_eq]
  · rw [max_eq_left (by omega), BitVec.ofNat_toNat, BitVec.setWidth_eq]

theorem divu_eq : divu n p q = if q = 0 then BitVec.allOnes n else BitVec.ofNat n (p.toNat / q.toNat) := rfl
theorem and_eq : and n p q = p &&& q := rfl
theorem or_eq : or n p q = p ||| q := rfl
theorem xor_eq : xor n p q = p ^^^ q := rfl

end Alu

/-- Settles O1: each operation of the model is Table 5.1's at every width. -/
theorem aluResults : Obligations.AluResults := by
  intro s d a b w x y h
  simp only [exec_add, exec_sub, exec_mul, exec_mulh, exec_mulhu, exec_div, exec_divu, exec_rem, exec_remu, exec_and, exec_or, exec_xor,
    exec_sll, exec_srl, exec_sra, exec_slt, exec_sltu, exec_min, exec_max, exec_minu, exec_maxu]
  exact ⟨(scalar2_atWidth _ w h Alu.add_eq :), (scalar2_atWidth _ w h Alu.sub_eq :), (scalar2_atWidth _ w h Alu.mul_eq :),
    (scalar2_atWidth _ w h Alu.mulh_eq :), (scalar2_atWidth _ w h Alu.mulhu_eq :), (scalar2_atWidth _ w h Alu.div_eq :),
    (scalar2_atWidth _ w h Alu.divu_eq :), (scalar2_atWidth _ w h Alu.rem_eq :), (scalar2_atWidth _ w h Alu.remu_eq :),
    (scalar2_atWidth _ w h Alu.and_eq :), (scalar2_atWidth _ w h Alu.or_eq :), (scalar2_atWidth _ w h Alu.xor_eq :),
    (scalar2_atWidth _ w h Alu.sll_eq :), (scalar2_atWidth _ w h Alu.srl_eq :), (scalar2_atWidth _ w h Alu.sra_eq :),
    (scalar2_atWidth _ w h Alu.slt_eq :), (scalar2_atWidth _ w h Alu.sltu_eq :), (scalar2_atWidth _ w h Alu.min_eq :),
    (scalar2_atWidth _ w h Alu.max_eq :), (scalar2_atWidth _ w h Alu.minu_eq :), (scalar2_atWidth _ w h Alu.maxu_eq :)⟩

end Sys2Proof.Machine
end

section
/-! The immediate instructions and the bit instructions (R109 to R112). -/

namespace Sys2Proof.Machine

/-! ## Immediates (Table 5.2) -/

/-- A sign-extended immediate holds the immediate's value. -/
theorem sext15_eq (i : BitVec 15) : sext15 i = BitVec.ofInt 64 i.toInt := rfl

theorem sext15_toInt (i : BitVec 15) : (sext15 i).toInt = i.toInt := BitVec.toInt_signExtend_of_le (by decide)

theorem add_sext15 (x : Word) (i : BitVec 15) : x + sext15 i = BitVec.ofInt 64 (x.toInt + i.toInt) := by
  rw [BitVec.ofInt_add, BitVec.ofInt_toInt, sext15_eq]

/-- A flag of a comparison, as a word. -/
theorem flag_eq (n : Nat) (p : Prop) [Decidable p] : (if p then 1 else 0 : BitVec n) = BitVec.ofNat n (if p then 1 else 0) := by
  split <;> rfl

theorem slt_sext15 (x : Word) (i : BitVec 15) :
    (if x.slt (sext15 i) then 1 else 0 : Word) = BitVec.ofNat 64 (if x.toInt < i.toInt then 1 else 0) := by
  simp only [flag_eq, BitVec.slt_iff_toInt_lt, sext15_toInt]

theorem ult_sext15 (x : Word) (i : BitVec 15) :
    (if x.ult (sext15 i) then 1 else 0 : Word) = BitVec.ofNat 64 (if x.toNat < (BitVec.ofInt 64 i.toInt).toNat then 1 else 0) := by
  simp only [flag_eq, BitVec.ult_iff_toNat_lt, sext15_eq]

/-- The value of `lih` before it is sign-extended: the immediate above 12 zeros. -/
theorem setWidth_shiftLeft_eq_append (i : BitVec 20) : i.setWidth 32 <<< 12 = i ++ 0#12 := by
  apply BitVec.eq_of_toNat_eq
  have := i.isLt
  rw [BitVec.toNat_append, BitVec.toNat_shiftLeft, BitVec.toNat_setWidth, BitVec.toNat_ofNat, Nat.zero_mod, Nat.or_zero, Nat.shiftLeft_eq,
    Nat.shiftLeft_eq]
  omega

theorem shiftLeft_add_setWidth (x : Word) (i : BitVec 20) : x <<< 20 + i.setWidth 64 = BitVec.ofNat 64 (x.toNat * 2 ^ 20 + i.toNat) := by
  apply BitVec.eq_of_toNat_eq
  have := i.isLt
  rw [BitVec.toNat_add, BitVec.toNat_shiftLeft, BitVec.toNat_setWidth, BitVec.toNat_ofNat, Nat.shiftLeft_eq]
  omega

/-! ## Shifts by an immediate -/

/-- The amount of a shift by an immediate. -/
theorem shiftAmount_eq (n : BitVec 6) : (n.setWidth 64).toNat % 64 = n.toNat := by
  rw [BitVec.toNat_setWidth]
  omega

theorem shiftAmount_eq_of_lt {n : BitVec 6} (h : n.toNat < 32) : ((n.setWidth 64).setWidth 32).toNat % 32 = n.toNat := by
  rw [BitVec.toNat_setWidth, BitVec.toNat_setWidth]
  omega

theorem atWidth_sll (x : Word) (n : BitVec 6) :
    atWidth false Alu.sll x (n.setWidth 64) = BitVec.ofNat 64 (x.toNat * 2 ^ n.toNat) ∧
    (n.toNat < 32 → atWidth true Alu.sll x (n.setWidth 64) = (BitVec.ofNat 32 (x.toNat * 2 ^ n.toNat)).signExtend 64) := by
  refine ⟨?_, fun h => congrArg (BitVec.signExtend 64) ?_⟩
  · exact (Alu.sll_eq 64 x _).trans (by rw [shiftAmount_eq])
  · rw [Alu.sll_eq, shiftAmount_eq_of_lt h, BitVec.ofNat_mul, BitVec.ofNat_mul, BitVec.toNat_setWidth]
    congr 1
    apply BitVec.eq_of_toNat_eq
    simp

theorem atWidth_srl (x : Word) (n : BitVec 6) :
    atWidth false Alu.srl x (n.setWidth 64) = BitVec.ofNat 64 (x.toNat / 2 ^ n.toNat) ∧
    (n.toNat < 32 → atWidth true Alu.srl x (n.setWidth 64) = (BitVec.ofNat 32 (x.toNat % 2 ^ 32 / 2 ^ n.toNat)).signExtend 64) := by
  refine ⟨?_, fun h => congrArg (BitVec.signExtend 64) ?_⟩
  · exact (Alu.srl_eq 64 x _).trans (by rw [shiftAmount_eq])
  · rw [Alu.srl_eq, shiftAmount_eq_of_lt h, BitVec.toNat_setWidth]

theorem atWidth_sra (x : Word) (n : BitVec 6) :
    atWidth false Alu.sra x (n.setWidth 64) = BitVec.ofInt 64 (x.toInt / 2 ^ n.toNat) ∧
    (n.toNat < 32 → atWidth true Alu.sra x (n.setWidth 64) = (BitVec.ofInt 32 ((x.setWidth 32).toInt / 2 ^ n.toNat)).signExtend 64) := by
  refine ⟨?_, fun h => congrArg (BitVec.signExtend 64) ?_⟩
  · exact (Alu.sra_eq 64 x _).trans (by rw [shiftAmount_eq])
  · rw [Alu.sra_eq, shiftAmount_eq_of_lt h]

/-! ## Counts and byte order (Table 5.3) -/

namespace Alu
variable {n : Nat} (a : BitVec n)

/-- k leading zeros: the value lies below 2^(n − k) and, but for 0, not below half of that. -/
theorem clz_eq {k : Nat} (hk : k ≤ n) (hlt : a.toNat < 2 ^ (n - k)) (hge : k = n ∨ 2 ^ (n - k - 1) ≤ a.toNat) :
    clz n a = BitVec.ofNat n k := by
  unfold clz
  congr 1
  by_cases h : a = 0
  · rw [if_pos h]
    rcases hge with hge | hge
    · exact hge.symm
    · simp [h] at hge
  · rw [if_neg h]
    have h0 : a.toNat ≠ 0 := fun e => h (BitVec.eq_of_toNat_eq e)
    have hn : k ≠ n := by
      rintro rfl
      rw [Nat.sub_self] at hlt
      omega
    have hlog : a.toNat.log2 = n - k - 1 := by
      rw [Nat.log2_eq_iff h0]
      exact ⟨hge.resolve_left hn, by rwa [show n - k - 1 + 1 = n - k by omega]⟩
    omega

theorem getLsbD_eq_decide (i : Nat) : a.getLsbD i = decide (a.toNat / 2 ^ i % 2 = 1) := Nat.testBit_eq_decide_div_mod_eq

/-- k trailing zeros: 2^k divides the value and, but for 0, 2^(k + 1) does not. -/
theorem ctz_eq {k : Nat} (hk : k ≤ n) (hz : a.toNat % 2 ^ k = 0) (hone : k = n ∨ a.toNat / 2 ^ k % 2 = 1) :
    ctz n a = BitVec.ofNat n k := by
  have hlow (i : Nat) (hi : i < k) : a.getLsbD i = false := by
    have hbit := congrArg (fun m => Nat.testBit m i) hz
    change a.toNat.testBit i = false
    simpa [Nat.testBit_mod_two_pow, hi] using hbit
  unfold ctz
  congr 1
  rcases Nat.lt_or_ge k n with h | h
  · have hf : (List.range n).find? (fun i => a.getLsbD i) = some k := by
      rw [List.find?_range_eq_some]
      refine ⟨?_, List.mem_range.mpr h, fun i hi => by simp [hlow i hi]⟩
      rw [getLsbD_eq_decide, decide_eq_true_eq]
      exact hone.resolve_left (by omega)
    rw [hf]
    rfl
  · have hf : (List.range n).find? (fun i => a.getLsbD i) = none := by
      rw [List.find?_eq_none]
      intro i hi
      have := List.mem_range.mp hi
      simp [hlow i (by omega)]
    rw [hf]
    exact (Nat.le_antisymm hk h).symm

theorem popc_eq : popc n a = BitVec.ofNat n ((List.range n).filter (fun i => a.toNat / 2 ^ i % 2 = 1)).length := by
  unfold popc
  rw [List.countP_eq_length_filter]
  simp only [getLsbD_eq_decide]

/-- The bytes of a number in reverse order, as a number. -/
theorem leNat_reverse_leBytes (m v : Nat) :
    leNat (leBytes m v).reverse = ((List.range m).map (fun i => v / 2 ^ (8 * i) % 256 * 2 ^ (8 * m - 8 - 8 * i))).sum := by
  induction m with
  | zero => rfl
  | succ m ih =>
    have hstep : ((List.range m).map (fun i => v / 2 ^ (8 * i) % 256 * 2 ^ (8 * (m + 1) - 8 - 8 * i))).sum =
        256 * ((List.range m).map (fun i => v / 2 ^ (8 * i) % 256 * 2 ^ (8 * m - 8 - 8 * i))).sum := by
      rw [← List.sum_map_mul_left]
      refine congrArg List.sum (List.map_congr_left (fun i hi => ?_))
      have := List.mem_range.mp hi
      rw [show 8 * (m + 1) - 8 - 8 * i = (8 * m - 8 - 8 * i) + 8 by omega, Nat.pow_add]
      ring
    have hbytes : leBytes (m + 1) v = leBytes m v ++ [BitVec.ofNat 8 (v / 2 ^ (8 * m))] := by
      simp [leBytes, List.range_succ]
    rw [hbytes, List.reverse_append, List.range_succ, List.map_append, List.sum_append, hstep, ← ih]
    simp [leNat, show 8 * (m + 1) - 8 - 8 * m = 0 by omega]
    ring

/-! ## Fields (R112) -/

/-- Where the field of a descriptor begins and ends. -/
theorem fieldOf_eq (n : Nat) (b : Word) :
    fieldOf n b = (b.toNat % 64, Min.min (b.toNat % 64 + b.toNat / 256 % 128) n) := by
  simp [fieldOf, bitsOf]

theorem bext_eq (b : Word) :
    let lo := b.toNat % 64
    let hi := Min.min (lo + b.toNat / 256 % 128) n
    bext n a b = BitVec.ofNat n (if lo < hi then a.toNat / 2 ^ lo % 2 ^ (hi - lo) else 0) := by
  intro lo hi
  unfold bext
  rw [fieldOf_eq]
  change (if hi ≤ lo then 0 else BitVec.ofNat n (a.toNat / 2 ^ lo % 2 ^ (hi - lo))) = _
  by_cases h : hi ≤ lo
  · rw [if_pos h, if_neg (Nat.not_lt.mpr h)]
    rfl
  · rw [if_neg h, if_pos (Nat.lt_of_not_le h)]

/-- The bits of a value in which m bits from p are those of x. -/
theorem getLsbD_replaceBits (p m x : Nat) {i : Nat} (hi : i < n) :
    (BitVec.ofNat n (a.toNat - a.toNat / 2 ^ p % 2 ^ m * 2 ^ p + x % 2 ^ m * 2 ^ p)).getLsbD i =
      if p ≤ i ∧ i < p + m then x.testBit (i - p) else a.getLsbD i := by
  have hlow : a.toNat % 2 ^ p < 2 ^ p := Nat.mod_lt _ (Nat.two_pow_pos _)
  have hfield : x % 2 ^ m < 2 ^ m := Nat.mod_lt _ (Nat.two_pow_pos _)
  rw [BitVec.getLsbD_ofNat, replace_field, Nat.testBit_two_pow_mul_add _ hlow, Nat.testBit_two_pow_mul_add _ hfield,
    Nat.testBit_mod_two_pow, Nat.testBit_mod_two_pow, Nat.testBit_div_two_pow, Nat.testBit_div_two_pow]
  change _ = if p ≤ i ∧ i < p + m then x.testBit (i - p) else a.toNat.testBit i
  by_cases hp : i < p
  · simp [hi, hp, Nat.not_le.mpr hp]
  · by_cases hm : i < p + m
    · simp [hi, hp, hm, Nat.le_of_not_lt hp, show i - p < m by omega]
    · simp [hi, hp, hm, show ¬ i - p < m by omega, show i - p - m + m + p = i by omega]

/-- The field takes the low bits of a, and every other bit is d's. -/
theorem getLsbD_bins (d a : BitVec n) (b : Word) {i : Nat} (hn : i < n) :
    let lo := b.toNat % 64
    let hi := Min.min (lo + b.toNat / 256 % 128) n
    (bins n d a b).getLsbD i = if lo ≤ i ∧ i < hi then a.getLsbD (i - lo) else d.getLsbD i := by
  intro lo hi
  unfold bins
  rw [fieldOf_eq]
  change BitVec.getLsbD (if hi ≤ lo then d
    else BitVec.ofNat n (d.toNat - d.toNat / 2 ^ lo % 2 ^ (hi - lo) * 2 ^ lo + a.toNat % 2 ^ (hi - lo) * 2 ^ lo)) i = _
  by_cases h : hi ≤ lo
  · rw [if_pos h, if_neg (by omega)]
  · rw [if_neg h, getLsbD_replaceBits d lo (hi - lo) a.toNat hn, Nat.add_sub_cancel' (Nat.le_of_not_le h)]
    rfl

theorem bswap_eq (h : 8 ∣ n) :
    bswap n a = BitVec.ofNat n ((List.range (n / 8)).map (fun i => a.toNat / 2 ^ (8 * i) % 256 * 2 ^ (n - 8 - 8 * i))).sum := by
  rw [bswap, leNat_reverse_leBytes, Nat.mul_div_cancel' h]

end Alu

/-! ## Results at either width -/

/-- An operation on one operand, by its value at the width of the form. -/
theorem atWidth1_eq {f : (n : Nat) → BitVec n → BitVec n} {x : Word} {v : Nat} (w : Bool)
    (hf : f (if w then 32 else 64) (x.setWidth (if w then 32 else 64)) = BitVec.ofNat (if w then 32 else 64) v) :
    atWidth1 w f x = if w then (BitVec.ofNat 32 v).signExtend 64 else BitVec.ofNat 64 v := by
  cases w with
  | true => exact congrArg (BitVec.signExtend 64) hf
  | false =>
    rw [if_neg Bool.false_ne_true, BitVec.setWidth_eq] at hf
    exact hf

/-- The low bits of a result, which the sign extension of a 32-bit form leaves. -/
theorem getLsbD_atWidth (w : Bool) (f : (n : Nat) → BitVec n → BitVec n → BitVec n) (x y : Word) {i : Nat}
    (hi : i < if w then 32 else 64) :
    (atWidth w f x y).getLsbD i =
      (f (if w then 32 else 64) (x.setWidth (if w then 32 else 64)) (y.setWidth (if w then 32 else 64))).getLsbD i := by
  cases w with
  | true =>
    have h32 : i < 32 := hi
    change BitVec.getLsbD (BitVec.signExtend 64 _) i = _
    rw [BitVec.getLsbD_signExtend, if_pos h32, decide_eq_true (by omega : i < 64)]
    rfl
  | false => simp [atWidth]

/-- The high half of a 32-bit form's result repeats the sign. -/
theorem getLsbD_atWidth_high (f : (n : Nat) → BitVec n → BitVec n → BitVec n) (x y : Word) {i : Nat} (h32 : 32 ≤ i) (h64 : i < 64) :
    (atWidth true f x y).getLsbD i = (atWidth true f x y).getLsbD 31 := by
  change BitVec.getLsbD (BitVec.signExtend 64 _) i = BitVec.getLsbD (BitVec.signExtend 64 _) 31
  rw [BitVec.getLsbD_signExtend, BitVec.getLsbD_signExtend, if_neg (Nat.not_lt.mpr h32), decide_eq_true h64,
    BitVec.msb_eq_getLsbD_last]
  rfl

/-- `sel` with operands that can be read. -/
theorem execSel_of_readable {s : State} {d a b c : SReg} {x y z : Word} (h : readable s [a, b, c] (some d) = some [x, y, z]) :
    execSel d a b c s = .next (computed s [a, b, c] d (if z.toNat = 0 then y else x)) := by
  refine readS_retires _ h ?_
  change (if z ≠ 0 then x else y) = _
  simp only [ne_eq, ite_not, toNat_eq_zero_iff]

/-- `bins` with operands that can be read. -/
theorem execBins_of_readable {s : State} {d a b : SReg} {x y z : Word} (w : Bool) (h : readable s [a, b, d] (some d) = some [x, y, z]) :
    execBins d a b w s = .next (computed s [a, b, d] d (atWidth w (fun n p q => Alu.bins n p q y) z x)) := readS_retires _ h rfl

/-- Settles O2: each operation of the model has the value the statement gives, at the width of the form. -/
theorem immediateAndBitResults : Obligations.ImmediateAndBitResults := by
  refine ⟨⟨fun s d a b c x y z h => (exec_sel ..).trans (execSel_of_readable h), ?imm, ?shift, ?lih, ?lix⟩, ?one, ?bext, ?bins⟩
  case imm =>
    intro s d a i x h
    exact ⟨(exec_addi ..).trans (scalar1_retires _ h (add_sext15 x i)), (exec_andi ..).trans (scalar1_retires _ h rfl),
      (exec_ori ..).trans (scalar1_retires _ h (by rw [BitVec.ofNat_toNat])),
      (exec_xori ..).trans (scalar1_retires _ h (by rw [BitVec.ofNat_toNat])),
      (exec_slti ..).trans (scalar1_retires _ h (slt_sext15 x i)), (exec_sltiu ..).trans (scalar1_retires _ h (ult_sext15 x i))⟩
  case shift =>
    intro s d a n x h
    exact ⟨(exec_slli ..).trans (scalar1_retires _ h (atWidth_sll x n).1), (exec_srli ..).trans (scalar1_retires _ h (atWidth_srl x n).1),
      (exec_srai ..).trans (scalar1_retires _ h (atWidth_sra x n).1), fun hn => ⟨
      (exec_slli ..).trans (scalar1_retires _ h ((atWidth_sll x n).2 hn)),
      (exec_srli ..).trans (scalar1_retires _ h ((atWidth_srl x n).2 hn)),
      (exec_srai ..).trans (scalar1_retires _ h ((atWidth_sra x n).2 hn))⟩⟩
  case lih =>
    intro s d i h
    exact (exec_lih ..).trans (readS_retires _ h (congrArg (BitVec.signExtend 64) (setWidth_shiftLeft_eq_append i)))
  case lix =>
    intro s d i x h
    exact (exec_lix ..).trans (readS_retires _ h (shiftLeft_add_setWidth x i))
  case one =>
    intro s d a w x h n p ends gives
    have hp : (x.setWidth n).toNat = p := BitVec.toNat_setWidth ..
    refine ⟨fun k hk hlt hge => ?_, fun k hk hz hone => ?_, ?_, ?_⟩
    · rw [← hp] at hlt hge
      exact (exec_clz ..).trans (scalar1_retires _ h (atWidth1_eq w (Alu.clz_eq _ hk hlt hge)) :)
    · rw [← hp] at hz hone
      exact (exec_ctz ..).trans (scalar1_retires _ h (atWidth1_eq w (Alu.ctz_eq _ hk hz hone)) :)
    · rw [← hp]
      exact (exec_popc ..).trans (scalar1_retires _ h (atWidth1_eq w (Alu.popc_eq _)) :)
    · rw [← hp]
      exact (exec_bswap ..).trans (scalar1_retires _ h (atWidth1_eq w (Alu.bswap_eq _ (by cases w <;> decide))) :)
  case bext =>
    intro s d a b w x y h n lo hi
    refine (exec_bext ..).trans (scalar2_retires _ h (atWidth1_eq w ?_))
    rw [← BitVec.toNat_setWidth]
    exact Alu.bext_eq _ y
  case bins =>
    intro s d a b w x y z h n lo hi
    refine ⟨_, (exec_bins ..).trans (execBins_of_readable w h), fun i hn => ?_, fun hw i h32 h64 => ?_⟩
    · rw [getLsbD_atWidth w _ _ _ hn, Alu.getLsbD_bins _ _ _ hn]
      rw [BitVec.getLsbD_setWidth, BitVec.getLsbD_setWidth, decide_eq_true hn, decide_eq_true (by omega : i - y.toNat % 64 < n)]
      rfl
    · subst hw
      exact getLsbD_atWidth_high _ _ _ h32 h64

end Sys2Proof.Machine
end

section
/-! A floating-point instruction and the reads that its result depends on (R116, R275). -/

namespace Sys2Proof.Machine

/-- A strand without ports has none after a change that leaves its name and the tasks. -/
theorem NoPorts.congr {s t : State} (h : NoPorts s) (hi : t.cpu.id = s.cpu.id) (ht : t.tasks = s.tasks) : NoPorts t := by
  unfold NoPorts roleOf State.task? at *
  rwa [hi, ht]

section
variable {s : State} {d : SReg} (h : NoPorts s)
include h

theorem depOf_singleton (d : SReg) : depOf s [d] = s.cpu.mem.dep[d.toNat]'(d.isLt) := by
  have hr : roleOf s s.cpu = .single := h
  simp [depOf, hr]

/-- A register that is written depends on every read that has performed. -/
theorem depOf_retired (hd : d ≠ 0) (rs : List SReg) (v : Word) : depOf (retired s rs d v) [d] = s.dev.nextUid := by
  have he : retired s rs d v = complete (setSreg s d v) := by rw [retired, popPorts_noPorts h, writeS_noPorts h]
  rw [he, setSreg, if_neg hd]
  refine (depOf_singleton ?_ d).trans ?_
  · exact h.congr rfl rfl
  · exact Vector.getElem_set_self ..

/-- One that is computed depends on what its sources depend on. -/
theorem depOf_computed (hd : d ≠ 0) (rs : List SReg) (v : Word) : depOf (computed s rs d v) [d] = depOf s rs := by
  have he : retired s rs d v = complete (setSreg s d v) := by rw [retired, popPorts_noPorts h, writeS_noPorts h]
  rw [computed, he, setSreg, setDep, if_neg hd, if_neg hd]
  refine (depOf_singleton ?_ d).trans ?_
  · exact h.congr rfl rfl
  · exact Vector.getElem_set_self ..

end

/-- Refutes O3: after `fadd s3, s1, s2` on the reset state, s3 depends on no read, as s1 and s2 do (R275), where the statement's `retired`
has it depend on every read that has performed. -/
theorem not_fpResults : ¬ Obligations.FpResults := by
  rintro ⟨h, -, -⟩
  obtain ⟨hadd, -⟩ := h State.reset 3 1 2 .f32 0 0 rfl
  obtain ⟨v, fl, he⟩ := floatForm_computesF (s := State.reset) (i := .fadd 3 1 2 .f32) rfl rfl rfl
  have hs := congrArg (depOf · [3]) (Host.Outcome.next.inj (he.symm.trans hadd))
  have hn (f : Flags) : NoPorts (accrue State.reset f) := rfl
  simp only [depOf_computed (hn _) (by decide : (3 : SReg) ≠ 0), depOf_retired (hn _) (by decide : (3 : SReg) ≠ 0)] at hs
  exact absurd (show (0 : Nat) = 1 from hs) (by decide)

end Sys2Proof.Machine
end

section
/-! The loop-end check, branches, hardware loops and queue branches (R121 to R130, R144). -/

namespace Sys2Proof.Machine

/-! ## The end check (R125, R144) -/

/-- Loop n, and its replacement. -/
def Ctl.lp (c : Ctl) (n : Nat) : LoopReg := if n == 0 then c.lp0 else c.lp1
def Ctl.setLp (c : Ctl) (n : Nat) (l : LoopReg) : Ctl := if n == 0 then { c with lp0 := l } else { c with lp1 := l }

theorem Ctl.setLp_lp (c : Ctl) (n : Nat) : c.setLp n (c.lp n) = c := by
  unfold setLp lp
  split <;> rfl

namespace LoopReg

/-- An instruction at x ends the body of the loop, and the loop is active. -/
def endsAt (l : LoopReg) (x : Word) : Bool := l.lc != 0 && l.le == x
/-- The count after one more pass, of vl elements where the loop strips. -/
def left (l : LoopReg) (vl : Nat) : Word := if l.vl then BitVec.ofNat 64 (l.lc.toNat - vl) else l.lc - 1
/-- The loop goes round. -/
def goesOn (l : LoopReg) (x : Word) (vl : Nat) : Bool := l.endsAt x && l.left vl != 0
/-- The loop after the check. -/
def checked (l : LoopReg) (x : Word) (vl : Nat) : LoopReg := if l.endsAt x then { l with lc := l.left vl } else l

end LoopReg

/-- Where a strip loop goes round, the next strip begins: SC moves past the last one, and VL is the grant of the elements left. -/
def Ctl.nextStrip (c : Ctl) (vlg : Nat) (strip : Bool) (left : Word) : Ctl :=
  if strip then { c with sc := c.sc + BitVec.ofNat 64 c.vl, vl := grant vlg left.toNat (fmtWidth (mrEt c.mr)) } else c

/-- A difference of counts fits in a word. -/
theorem ofNat_sub_toNat (x : Word) (k : Nat) : (BitVec.ofNat 64 (x.toNat - k)).toNat = x.toNat - k := by
  rw [BitVec.toNat_ofNat]
  have := x.isLt
  omega

theorem ofNat_sub_bne (x : Word) (k : Nat) : (BitVec.ofNat 64 (x.toNat - k) != 0) = (x.toNat - k != 0) := by
  rw [bne, bne, Bool.not_inj_iff, Bool.eq_iff_iff, beq_iff_eq, beq_iff_eq, ← BitVec.toNat_inj, ofNat_sub_toNat]
  rfl

/-- One loop's part of the check, for a loop whose body ends here. -/
theorem loopCheck_of_endsAt {vlg n : Nat} {x : Word} {c : Ctl} (he : (c.lp n).endsAt x = true) :
    loopCheck vlg n x c = if (c.lp n).left c.vl != 0
      then ((c.setLp n { c.lp n with lc := (c.lp n).left c.vl }).nextStrip vlg (c.lp n).vl ((c.lp n).left c.vl), some (c.lp n).ls)
      else (c.setLp n { c.lp n with lc := (c.lp n).left c.vl }, none) := by
  refine (if_pos he).trans ?_
  unfold Ctl.nextStrip LoopReg.left
  by_cases hv : (c.lp n).vl = true
  · simp only [if_pos hv, ofNat_sub_bne, ofNat_sub_toNat]
    exact if_pos hv
  · simp only [if_neg hv]
    exact (if_neg hv).trans (apply_ite (Prod.mk _) ..)

/-- One loop's part of the check. -/
theorem loopCheck_eq (vlg n : Nat) (x : Word) (c : Ctl) :
    loopCheck vlg n x c = if (c.lp n).goesOn x c.vl
      then ((c.setLp n ((c.lp n).checked x c.vl)).nextStrip vlg (c.lp n).vl ((c.lp n).left c.vl), some (c.lp n).ls)
      else (c.setLp n ((c.lp n).checked x c.vl), none) := by
  unfold LoopReg.goesOn LoopReg.checked
  by_cases he : (c.lp n).endsAt x = true
  · rw [loopCheck_of_endsAt he, he, Bool.true_and]
    rfl
  · rw [if_neg he, Ctl.setLp_lp, Bool.eq_false_iff.mpr he]
    exact if_neg he

/-- Both loops' parts, and where the strand goes on. -/
theorem endCheck_eq (vlg : Nat) (x : Word) (c : Ctl) :
    endCheck vlg x c =
      if c.lp0.goesOn x c.vl then
        { ({ c with lp0 := c.lp0.checked x c.vl } : Ctl).nextStrip vlg c.lp0.vl (c.lp0.left c.vl) with pc := c.lp0.ls }
      else if c.lp1.goesOn x c.vl then
        { ({ c with lp0 := c.lp0.checked x c.vl, lp1 := c.lp1.checked x c.vl } : Ctl).nextStrip vlg c.lp1.vl (c.lp1.left c.vl)
          with pc := c.lp1.ls }
      else { c with lp0 := c.lp0.checked x c.vl, lp1 := c.lp1.checked x c.vl, pc := x + 4 } := by
  unfold endCheck
  rw [loopCheck_eq]
  by_cases h0 : c.lp0.goesOn x c.vl = true
  · rw [if_pos h0, if_pos (by exact h0)]
    rfl
  · rw [if_neg h0, if_neg (by exact h0)]
    change (match loopCheck vlg 1 x { c with lp0 := c.lp0.checked x c.vl } with
      | (c, some t) => { c with pc := t }
      | (c, none) => { c with pc := x + 4 }) = _
    rw [loopCheck_eq]
    by_cases h1 : c.lp1.goesOn x c.vl = true
    · rw [if_pos h1, if_pos (by exact h1)]
      rfl
    · rw [if_neg h1, if_neg (by exact h1)]
      rfl

/-- What the check leaves of SC and VL where loop l goes round. -/
def strips (vlg : Nat) (c : Ctl) (l : LoopReg) (t : Ctl) : Prop :=
  if l.vl then t.sc = c.sc + BitVec.ofNat 64 c.vl ∧ t.vl = grant vlg (l.left c.vl).toNat (fmtWidth (mrEt c.mr))
  else t.sc = c.sc ∧ t.vl = c.vl

theorem strips_nextStrip (vlg : Nat) (c c' : Ctl) (l : LoopReg) (pc : Word) (hsc : c'.sc = c.sc) (hvl : c'.vl = c.vl)
    (hmr : c'.mr = c.mr) :
    strips vlg c l { c'.nextStrip vlg l.vl (l.left c.vl) with pc := pc } := by
  unfold strips Ctl.nextStrip
  by_cases h : l.vl = true
  · simp only [h, if_true, hsc, hvl, hmr, and_self]
  · simp [h, hsc, hvl]

theorem nextStrip_loops (c : Ctl) (vlg : Nat) (b : Bool) (x : Word) :
    (c.nextStrip vlg b x).lp0 = c.lp0 ∧ (c.nextStrip vlg b x).lp1 = c.lp1 := by
  unfold Ctl.nextStrip
  split <;> exact ⟨rfl, rfl⟩

/-- What the check leaves, loop 0 first. -/
theorem endCheck_results (vlg : Nat) (x : Word) (c : Ctl) :
    (endCheck vlg x c).lp0 = c.lp0.checked x c.vl ∧
    (if c.lp0.goesOn x c.vl then
      (endCheck vlg x c).pc = c.lp0.ls ∧ (endCheck vlg x c).lp1 = c.lp1 ∧ strips vlg c c.lp0 (endCheck vlg x c)
     else (endCheck vlg x c).lp1 = c.lp1.checked x c.vl ∧
      if c.lp1.goesOn x c.vl then (endCheck vlg x c).pc = c.lp1.ls ∧ strips vlg c c.lp1 (endCheck vlg x c)
      else (endCheck vlg x c).pc = x + 4 ∧ (endCheck vlg x c).sc = c.sc ∧ (endCheck vlg x c).vl = c.vl) := by
  rw [endCheck_eq]
  by_cases h0 : c.lp0.goesOn x c.vl = true
  · rw [if_pos h0, if_pos h0]
    obtain ⟨hlp0, hlp1⟩ := nextStrip_loops { c with lp0 := c.lp0.checked x c.vl } vlg c.lp0.vl (c.lp0.left c.vl)
    exact ⟨hlp0, rfl, hlp1, strips_nextStrip _ _ _ _ _ rfl rfl rfl⟩
  · rw [if_neg h0, if_neg h0]
    by_cases h1 : c.lp1.goesOn x c.vl = true
    · rw [if_pos h1, if_pos h1]
      obtain ⟨hlp0, hlp1⟩ :=
        nextStrip_loops { c with lp0 := c.lp0.checked x c.vl, lp1 := c.lp1.checked x c.vl } vlg c.lp1.vl (c.lp1.left c.vl)
      exact ⟨hlp0, hlp1, rfl, strips_nextStrip _ _ _ _ _ rfl rfl rfl⟩
    · rw [if_neg h1, if_neg h1]
      exact ⟨rfl, rfl, rfl, rfl, rfl⟩

/-! ## Branches and jumps (R121, R122, R126) -/

/-- The target of a branch: the offset counts words. -/
theorem pcPlus_eq {n : Nat} (s : State) (o : BitVec n) : pcPlus s o = s.cpu.ctl.pc + BitVec.ofInt 64 (4 * o.toInt) := by
  rw [BitVec.ofInt_mul, BitVec.mul_comm]
  rfl

/-- A branch is taken where its test holds, and completes where it fails. -/
theorem branch_of_readable {s : State} {i : Instr} {a b : SReg} {o : BitVec 15} {x y : Word} {p : Word → Word → Bool}
    {q : Prop} {word : Nat} (hi : exec i s = branch s word a b o p) (h : readable s [a, b] none = some [x, y]) (hp : p x y = true ↔ q) :
    (q → exec i s = .next (branchTo (popPorts s [a, b]) (s.cpu.ctl.pc + BitVec.ofInt 64 (4 * o.toInt)))) ∧
    (¬ q → exec i s = .next (retired0 s [a, b])) := by
  rw [hi, ← hp, ← pcPlus_eq s o]
  unfold branch
  rw [readS_of_readable word _ h]
  exact ⟨fun ht => if_pos ht, fun hf => if_neg hf⟩

theorem not_slt_iff (x y : Word) : (!x.slt y) = true ↔ y.toInt ≤ x.toInt := by
  rw [Bool.not_eq_true', ← Bool.not_eq_true, BitVec.slt_iff_toInt_lt, not_lt]

theorem not_ult_iff (x y : Word) : (!x.ult y) = true ↔ y.toNat ≤ x.toNat := by
  rw [Bool.not_eq_true', ← Bool.not_eq_true, BitVec.ult_iff_toNat_lt, not_lt]

theorem execJalr_of_readable {s : State} {d a : SReg} {x : Word} (i : BitVec 15) (h : readable s [a] (some d) = some [x]) :
    execJalr d a i s = if (BitVec.ofInt 64 (x.toInt + i.toInt)).toNat % 4 ≠ 0
      then .next (takeTrapAt s 0x03 (BitVec.ofInt 64 (x.toInt + i.toInt)) s.cpu.ctl.pc)
      else .next (completeAt (writeS (popPorts s [a]) d (s.cpu.ctl.pc + 4)) (BitVec.ofInt 64 (x.toInt + i.toInt))) := by
  unfold execJalr
  rw [readS_of_readable _ _ h, ← add_sext15]
  rfl

/-- A taken branch ends a loop that it leaves, and no other. -/
theorem leaveLoop_eq (x t : Word) (l : LoopReg) :
    leaveLoop x t l = { l with lc := if decide (l.lc.toNat ≠ 0 ∧ l.ls.toNat ≤ x.toNat ∧ x.toNat ≤ l.le.toNat ∧
      (t.toNat < l.ls.toNat ∨ l.le.toNat < t.toNat)) then 0 else l.lc } := by
  have hlc : (l.lc != 0) = decide (l.lc.toNat ≠ 0) := by
    rw [Bool.eq_iff_iff, bne_iff_ne, decide_eq_true_eq, ne_eq, ne_eq, toNat_eq_zero_iff]
  unfold leaveLoop
  rw [hlc, ← Bool.decide_and, ← Bool.decide_and]
  simp only [and_assoc, decide_eq_true_eq]
  split <;> rfl

/-- Settles O6: a branch by its test, a jump by its target, and the loops by the place of the target. -/
theorem branchResults : Obligations.BranchResults := by
  refine ⟨⟨fun s a b o x y h => ?branches, fun s o => ?jal, fun s d a i x h => ⟨fun ht => ?_, fun ht => ?_⟩⟩,
    fun s t => ⟨?loops, rfl, rfl⟩⟩
  case branches =>
    exact ⟨branch_of_readable (exec_beq a b o s) h beq_iff_eq, branch_of_readable (exec_bne a b o s) h bne_iff_ne,
      branch_of_readable (exec_blt a b o s) h BitVec.slt_iff_toInt_lt, branch_of_readable (exec_bge a b o s) h (not_slt_iff x y),
      branch_of_readable (exec_bltu a b o s) h BitVec.ult_iff_toNat_lt, branch_of_readable (exec_bgeu a b o s) h (not_ult_iff x y)⟩
  case jal => exact (exec_jal ..).trans (by rw [execJal, pcPlus_eq]; rfl)
  · exact (exec_jalr ..).trans ((execJalr_of_readable i h).trans (if_neg (not_not.mpr ht)))
  · exact (exec_jalr ..).trans ((execJalr_of_readable i h).trans (if_pos ht))
  case loops =>
    exact congrArg₂ (fun l m => ({ s.cpu.ctl with pc := t, lp0 := l, lp1 := m } : Ctl)) (leaveLoop_eq ..) (leaveLoop_eq ..)

/-! ## Hardware loops (R124, R127, R128, R144) -/

theorem setLoop_mr (s : State) (n : BitVec 1) (l : LoopReg) : (setLoop s n l).cpu.ctl.mr = s.cpu.ctl.mr := by
  unfold setLoop
  rw [State.withCtl_cpu_ctl]
  split <;> rfl

/-- Popping ports leaves the pc. -/
theorem popPorts_pc (s : State) (rs : List SReg) : (popPorts s rs).cpu.ctl.pc = s.cpu.ctl.pc := by rw [popPorts_cpu]

/-- `loop` skips the body where the count is 0; else the end check of the instruction itself follows. -/
theorem execLoop_of_readable {s : State} {a : SReg} {x : Word} (n : BitVec 1) (e : BitVec 15) (h : readable s [a] none = some [x]) :
    let le := s.cpu.ctl.pc + BitVec.ofNat 64 (4 * e.toNat)
    let t := setLoop (popPorts s [a]) n { lc := x, ls := s.cpu.ctl.pc + 4, le := le, vl := false }
    execLoop n a e s = if x = 0 then .next (completeAt t (le + 4)) else .next (complete t) := by
  intro le t
  unfold execLoop
  rw [readS_of_readable _ _ h]
  unfold loopStart State.pc
  rw [popPorts_pc]
  exact apply_ite Host.Outcome.next ..

/-- `loopi` does the same with its own count. -/
theorem execLoopi_eq (n : BitVec 1) (c : BitVec 12) (e : BitVec 8) (s : State) :
    let le := s.cpu.ctl.pc + BitVec.ofNat 64 (4 * e.toNat)
    let t := setLoop s n { lc := BitVec.ofNat 64 c.toNat, ls := s.cpu.ctl.pc + 4, le := le, vl := false }
    execLoopi n c e s = if c.toNat = 0 then .next (completeAt t (le + 4)) else .next (complete t) := by
  intro le t
  have hc : BitVec.ofNat 64 c.toNat = 0 ↔ c.toNat = 0 := by
    rw [← toNat_eq_zero_iff, BitVec.toNat_ofNat, Nat.mod_eq_of_lt (by omega)]
  unfold execLoopi loopStart
  simp only [← BitVec.ofNat_toNat, hc, apply_ite Host.Outcome.next]
  rfl

/-- `vloop` sets its loop and VSTART, and, where the count is not zero, the first strip. -/
theorem execVloop_of_readable {s : State} {a : SReg} {x : Word} (n : BitVec 1) (e : BitVec 15) (h : readable s [a] none = some [x]) :
    let le := s.cpu.ctl.pc + BitVec.ofNat 64 (4 * e.toNat)
    let t := setLoop (popPorts s [a]) n { lc := x, ls := s.cpu.ctl.pc + 4, le := le, vl := true }
    execVloop n a e s = if x = 0 then .next (completeAt (t.withCtl (fun c => { c with vstart := 0 })) (le + 4))
      else .next (complete (t.withCtl (fun c =>
        { c with vstart := 0, sc := 0, vl := grant (vlgOf s) x.toNat (fmtWidth (mrEt s.cpu.ctl.mr)) }))) := by
  intro le t
  have hmr : t.cpu.ctl.mr = s.cpu.ctl.mr := by rw [setLoop_mr, popPorts_cpu]
  unfold execVloop
  rw [readS_of_readable _ _ h, ← hmr, ← (popPorts_sameSight s [a]).vlgOf]
  dsimp only [State.pc]
  rw [popPorts_pc]
  rfl

/-- Settles O7: by the equations of the meanings, a zero count and another apart. -/
theorem loopResults : Obligations.LoopResults := by
  refine ⟨fun s n a e x h => ⟨fun hx => ?_, fun hx => ?_, fun hx => ?_, fun hx => ?_⟩, fun s n c e => ⟨fun hc => ?_, fun hc => ?_⟩,
    fun s n => exec_lpclr n s⟩
  · exact (exec_loop ..).trans ((execLoop_of_readable n e h).trans (if_neg hx))
  · exact (exec_loop ..).trans ((execLoop_of_readable n e h).trans (if_pos hx))
  · exact (exec_vloop ..).trans ((execVloop_of_readable n e h).trans (if_neg hx))
  · exact (exec_vloop ..).trans ((execVloop_of_readable n e h).trans (if_pos hx))
  · exact (exec_loopi ..).trans ((execLoopi_eq n c e s).trans (if_neg hc))
  · exact (exec_loopi ..).trans ((execLoopi_eq n c e s).trans (if_pos hc))

/-! ## Queue branches (R130) -/

/-- `bqput` pushes where bq has room, and else waits. -/
theorem execBqput_of_readable {s : State} {a : SReg} {x : Word} (hr : roleOf s s.cpu = .a) (h : readable s [a] none = some [x]) :
    execBqput a s = if 64 ≤ (queuesOf s).bq.length then waitQueue s 0x40
      else .next (complete (modQueues (popPorts s [a]) (fun q => { q with bq := q.bq ++ [decide (x.toNat ≠ 0)] }))) := by
  simp only [ne_eq, toNat_eq_zero_iff]
  unfold execBqput
  rw [if_neg (not_not.mpr hr), readS_of_readable _ _ h]
  rfl

theorem execBqb_of_e {s : State} (o : BitVec 15) (hr : roleOf s s.cpu = .e) :
    execBqb o s = match (queuesOf s).bq with
      | [] => waitQueue s 0x40
      | b :: bs => if b then .next (branchTo (modQueues s (fun q => { q with bq := bs })) (pcPlus s o))
        else .next (complete (modQueues s (fun q => { q with bq := bs }))) := by
  unfold execBqb
  rw [if_neg (not_not.mpr hr)]
  rfl

/-- Settles O8: a strand of the right role by the state of bq, and any other by the gate. -/
theorem queueBranches : Obligations.QueueBranches := by
  refine ⟨fun s a x hr h => ⟨fun hroom => ?_, fun hfull => ?_⟩, fun s o bs hr => ⟨fun hq => ?_, fun hq => ?_, fun hq => ?_⟩,
    fun s a o => ⟨fun hr => ?_, fun hr => ?_⟩⟩
  · exact (exec_bqput ..).trans ((execBqput_of_readable hr h).trans (if_neg (Nat.not_le.mpr hroom)))
  · exact (exec_bqput ..).trans ((execBqput_of_readable hr h).trans (if_pos hfull))
  · refine (exec_bqb ..).trans ((execBqb_of_e o hr).trans ?_)
    rw [hq, modQueues_cpu, ← pcPlus_eq]
    rfl
  · exact (exec_bqb ..).trans ((execBqb_of_e o hr).trans (by rw [hq]; rfl))
  · exact (exec_bqb ..).trans ((execBqb_of_e o hr).trans (by rw [hq]))
  · exact (exec_bqput ..).trans (if_pos hr)
  · exact (exec_bqb ..).trans (if_pos hr)

end Sys2Proof.Machine
end

section
/-! The end check as the statement has it; its theorem shares the name of the model's function, and so stands in a namespace of its own. -/

namespace Sys2Proof.Laws

open Machine

/-- Settles O5: the check of each loop is one function of it, and nothing but the loops, the pc, SC and VL is touched. -/
theorem endCheck : Obligations.EndCheck := by
  intro s x c hx
  subst hx
  obtain ⟨hlevel, hmr, hvstart, hamo, _, hflags⟩ := endCheck_keptCtl (vlgOf s) c.pc c
  obtain ⟨hlp0, hrest⟩ := endCheck_results (vlgOf s) c.pc c
  exact ⟨hlp0, hrest, hlevel, hmr, hvstart, hflags, hamo⟩

end Sys2Proof.Laws
end

section
/-! Scalar loads (R131 to R134, R275). -/

namespace Sys2Proof.Machine

/-- The address of a scalar access whose address register holds x (R131). -/
def vaOf (x : Word) (o : BitVec 12) (n : Nat) : Word := BitVec.ofInt 64 (x.toInt + o.toInt * n)

theorem ldAddr_eq (x : Word) (o : BitVec 12) (n : Nat) : ldAddr x o n = vaOf x o n := by
  rw [vaOf, BitVec.ofInt_add, BitVec.ofInt_mul, BitVec.ofInt_toInt, BitVec.ofInt_natCast]
  rfl

/-- A load whose address passes the checks, which nothing holds and which meets no poison completes with the bytes it finds. -/
theorem load_of_performs {s : State} {d a : SReg} {o : BitVec 12} {n : Nat} {x : Word} {k : XOk} (word : Nat) (signed : Bool)
    (h : readable s [a] (some d) = some [x]) (hk : checkAccess s (vaOf x o n) n true false = .ok k) (hd : mayDefer k.s d = false)
    (hh : (memOf k.s k.s.cpu).heldRead (placeOf k.s k.s.cpu) k.loc n = false)
    (hp : k.s.cpu.mem.earlyOf false (depOf k.s [a]) k.loc n = none → poisonedRead k.s k.s.cpu (placeOf k.s k.s.cpu) k.loc n = false) :
    load s word d a o n signed =
      .next (retired (readAnewAt k.s false k.loc n) [a] d (loaded signed (loadBytes k.s a k.loc n))) := by
  have hclean : ((k.s.cpu.mem.earlyOf false (depOf k.s [a]) k.loc n).isNone &&
      poisonedRead k.s k.s.cpu (placeOf k.s k.s.cpu) k.loc n) = false := by
    cases he : k.s.cpu.mem.earlyOf false (depOf k.s [a]) k.loc n with
    | none => exact hp he
    | some bs => rfl
  rw [← ldAddr_eq] at hk
  unfold load
  rw [readS_of_readable word _ h]
  change (match checkAccess s (ldAddr x o n) n true false with | .error e => _ | .ok k => _) = _
  rw [hk]
  simp only [hd, hh, loadNow, hclean]
  rfl

/-- On a strand without ports, a register that an instruction has written holds the value. -/
theorem sreg_retired {s : State} (h : NoPorts s) {d : SReg} (hd : d ≠ 0) (rs : List SReg) (v : Word) : sreg (retired s rs d v) d = v := by
  change sreg (writeS (popPorts s rs) d v) d = v
  rw [popPorts_noPorts h, writeS_noPorts h, sreg_setSreg, if_pos ⟨rfl, hd⟩]

/-- The reset state, but for an entry of a read that the management core made early: one byte at address 0, for which two bytes stand. The
move that makes such entries (`readEarly`) puts in as many bytes as the size says, so no run comes to this state. -/
def forgedRead : State :=
  State.reset.withMem (fun m => { m with early := [{ vec := false, loc := .fw 0, n := 1, bytes := [0xFF, 0], time := 0 }] })

/-- Refutes O11: the statement cuts the bytes read early to the load's size, and the model takes all that the entry holds. With an entry
of two bytes for a load of one, `ld.b` gives 255 where the statement has −1. The statement is of every
state, and nothing in it ties the number of bytes of an entry to its size. -/
theorem not_loadResults : ¬ Obligations.LoadResults := by
  rintro ⟨h, -⟩
  obtain ⟨⟨hok, -⟩, -⟩ := h forgedRead 3 1 0 0 rfl
  obtain ⟨hnow, -⟩ := hok ⟨.fw 0, forgedRead, 0, 0, 1⟩ rfl
  have hmodel := load_of_performs (s := forgedRead) (d := 3) (a := 1) (o := 0) (n := 1) (x := 0) (k := ⟨.fw 0, forgedRead, 0, 0, 1⟩)
    (encodeNat (.ldB 3 1 0)) true rfl rfl rfl rfl nofun
  have hstate := Host.Outcome.next.inj (hmodel.symm.trans (hnow rfl rfl nofun))
  have hvalue := congrArg (sreg · 3) hstate
  simp only [sreg_retired (show NoPorts (readAnewAt forgedRead false (.fw 0) 1) from rfl) (by decide : (3 : SReg) ≠ 0)] at hvalue
  exact absurd hvalue (by decide)

end Sys2Proof.Machine
end

section
/-! Scalar stores (R131 to R133, R277, R417, R435). -/

namespace Sys2Proof.Machine

/-! ## A translation leaves the cpu -/

/-- What answers past a check has passed it. -/
theorem ok_of_check {ε α : Type} {p : Prop} [Decidable p] {e : ε} {r : Except ε α} {x : α} (h : (if p then .error e else r) = .ok x) :
    r = .ok x := by
  split at h
  · exact absurd h nofun
  · exact h

theorem writeBase_cpu (s : State) (l : Loc) (bs : List Byte) : (writeBase s l bs).cpu = s.cpu := by cases l <;> rfl

theorem poisonWords_cpu (s : State) (l : Loc) (ws : List Nat) : (poisonWords s l ws).cpu = s.cpu := by
  unfold poisonWords
  split
  · rfl
  · cases l <;> rfl

theorem foldGo_cpu (rs : List WRec) : ∀ s : State, (foldGo rs s).cpu = s.cpu := by
  induction rs with
  | nil => exact fun s => rfl
  | cons r rs ih =>
    intro s
    unfold foldGo
    split
    · exact (ih (settleRec s r)).trans ((poisonWords_cpu _ _ _).trans (writeBase_cpu _ _ _))
    · rfl

theorem enterDev_cpu (s : State) (l : Loc) (bs : List Byte) (v : Scope) (t : WTag) : (enterDev s l bs v t).cpu = s.cpu := foldGo_cpu _ _

theorem setPteBits_cpu {s t : State} {bits : Word} {l : Option Leaf} (h : setPteBits s bits l = some t) : t.cpu = s.cpu := by
  unfold setPteBits at h
  split at h
  · exact Option.some.inj h ▸ rfl
  · split at h
    · exact Option.some.inj h ▸ rfl
    · split at h
      · exact Option.some.inj h ▸ enterDev_cpu ..
      · exact absurd h nofun

theorem entId_cpu (s : State) (e : TlbEnt) : (entId s e).2.cpu = s.cpu := by
  unfold entId
  split <;> rfl

theorem useEnt_state {s : State} {c : XCtx} {e : TlbEnt} {va : Nat} {r w x : Bool} {k : XOk} (h : useEnt s c e va r w x = .ok k) :
    k.s = s := by
  unfold useEnt at h
  split at h
  · exact absurd h nofun
  · simp only at h
    split at h
    · split at h
      · exact Except.ok.inj h ▸ rfl
      · exact absurd h nofun
    · split at h
      · exact Except.ok.inj h ▸ rfl
      · exact absurd h nofun
    · exact Except.ok.inj h ▸ rfl

theorem walk_cpu {s : State} {c : XCtx} {va : Nat} {r w x touch : Bool} {k : XOk} (h : walk s c va r w x touch = .ok k) :
    k.s.cpu = s.cpu := by
  unfold walk at h
  extract_lets t s2 done at h
  have hdone {e : TlbEnt} {l1 l2 : Option Leaf} (hd : done e l1 l2 = .ok k) : k.s.cpu = s.cpu := by
    simp only [done] at hd
    split at hd
    · exact absurd hd nofun
    · rename_i k' hk'
      have hs := (congrArg State.cpu (useEnt_state hk')).trans (entId_cpu s e)
      split at hd
      · exact Except.ok.inj hd ▸ hs
      · split at hd
        · rename_i u hu
          obtain ⟨v, hv, hu⟩ := Option.bind_eq_some_iff.mp hu
          exact Except.ok.inj hd ▸ (setPteBits_cpu hu).trans ((setPteBits_cpu hv).trans (entId_cpu s e))
        · exact absurd hd nofun
  clear_value done
  split at h
  · have h := ok_of_check h
    split at h
    · exact absurd h nofun
    · exact hdone (ok_of_check h)
  · split at h
    · exact absurd h nofun
    · have h := ok_of_check h
      simp only at h
      split at h
      · exact hdone h
      · split at h
        · exact absurd h nofun
        · exact hdone (ok_of_check h)

theorem translate_cpu {s : State} {c : XCtx} {va : Word} {r w x touch : Bool} {k : XOk} (h : translate s c va r w x touch = .ok k) :
    k.s.cpu = s.cpu := by
  unfold translate at h
  have h := ok_of_check h
  split at h
  · split at h
    · split at h
      · exact Except.ok.inj (ok_of_check (ok_of_check h)) ▸ rfl
      · exact absurd h nofun
    · exact absurd h nofun
  · split at h
    · exact Except.ok.inj (ok_of_check h) ▸ rfl
    · simp only at h
      split at h
      · split at h
        · exact congrArg State.cpu (useEnt_state h)
        · exact walk_cpu h
      · split at h
        · rename_i hw
          exact Except.ok.inj h ▸ walk_cpu hw
        · exact absurd (ok_of_check h) nofun

/-- The checks of an access leave the cpu as it was. -/
theorem checkAccess_cpu {s : State} {va : Word} {n : Nat} {r w : Bool} {k : XOk} (h : checkAccess s va n r w = .ok k) :
    k.s.cpu = s.cpu := by
  unfold checkAccess at h
  have h := ok_of_check h
  split at h
  · split at h
    · rename_i hk
      unfold translateFw at hk
      split at hk
      · exact Except.ok.inj h ▸ Except.ok.inj hk ▸ rfl
      · exact absurd hk nofun
    · exact absurd h nofun
  · split at h
    · exact absurd h nofun
    · rename_i hk
      exact Except.ok.inj (ok_of_check (ok_of_check (ok_of_check h))) ▸ translate_cpu hk

/-! ## What a store answers -/

/-- A misaligned access raises ALN. -/
theorem checkAccess_misaligned {s : State} {va : Word} {n : Nat} (r w : Bool) (h : va.toNat % n ≠ 0) :
    checkAccess s va n r w = .error (.cause Cause.aln) := if_pos (bne_iff_ne.mpr h)

section
variable {s : State} {d a : SReg} {o : BitVec 12} {n : Nat} {x y : Word} {i : Instr} {word : Nat}
  (hi : exec i s = store s word d a o n) (ht : ∀ c k, s.cpu.id ≠ .thaw c k) (h : readable s [a, d] none = some [x, y])
include hi ht h

/-- A store that fails a check stops there. -/
theorem store_of_error {e : MStop} (he : checkAccess s (vaOf x o n) n false true = .error e) : exec i s = stopAt s (vaOf x o n) e := by
  rw [← ldAddr_eq] at he ⊢
  rw [hi, store, notThaw_of_ne _ _ ht, readS_of_readable _ _ h]
  change (match checkAccess s (ldAddr x o n) n false true with | .error e => _ | .ok k => _) = _
  rw [he]
  rfl

/-- One that passes them meets poison, waits for a train or enters the buffer. -/
theorem store_of_ok {k : XOk} (hk : checkAccess s (vaOf x o n) n false true = .ok k) :
    exec i s =
      if decide (n < 8) && poisonedLast k.s k.s.cpu k.loc n then trap s Cause.ecc (vaOf x o n)
      else if trainsFull s k.loc then .next (s.waitFor .trains)
      else .next (retired0 (putStore k.s k.loc (leBytes n y.toNat) (vaOf x o n)) [a, d]) := by
  rw [← ldAddr_eq] at hk ⊢
  rw [hi, store, notThaw_of_ne _ _ ht, readS_of_readable _ _ h]
  change (match checkAccess s (ldAddr x o n) n false true with | .error e => _ | .ok k => _) = _
  rw [hk]
  rfl

/-- A store that meets no poison and finds room for its train completes. -/
theorem store_completes {k : XOk} (hk : checkAccess s (vaOf x o n) n false true = .ok k)
    (hp : poisonedLast k.s k.s.cpu k.loc n = false ∨ n = 8) (hr : isRemote k.loc = true → s.cpu.mem.unacked < 64) :
    exec i s = .next (retired0 (putStore k.s k.loc (leBytes n y.toNat) (vaOf x o n)) [a, d]) := by
  have hclean : ¬ (decide (n < 8) && poisonedLast k.s k.s.cpu k.loc n) = true := by
    rcases hp with hp | rfl
    · simp [hp]
    · simp
  have hroom : ¬ trainsFull s k.loc = true := by
    unfold trainsFull
    split
    · rename_i hl
      rw [hl] at hr
      simpa using hr rfl
    · exact Bool.false_ne_true
  rw [store_of_ok hi ht h hk, if_neg hclean, if_neg hroom]

/-- The answers of R131, R132, R417 and R435. -/
theorem store_results :
    (∀ k, checkAccess s (vaOf x o n) n false true = .ok k → (poisonedLast k.s k.s.cpu k.loc n = false ∨ n = 8) →
      (isRemote k.loc = true → s.cpu.mem.unacked < 64) →
      exec i s = .next (retired0 (putStore k.s k.loc (leBytes n y.toNat) (vaOf x o n)) [a, d])) ∧
    (∀ k, checkAccess s (vaOf x o n) n false true = .ok k → poisonedLast k.s k.s.cpu k.loc n = true → n < 8 →
      exec i s = .next (takeTrapAt s 0x08 (vaOf x o n) s.cpu.ctl.pc)) ∧
    (∀ c, checkAccess s (vaOf x o n) n false true = .error (.cause c) → exec i s = .next (takeTrapAt s c (vaOf x o n) s.cpu.ctl.pc)) ∧
    (∀ c, checkAccess s (vaOf x o n) n false true = .error (.newer c) →
      exec i s = .next (takeTrapAt (refuse s (ctxOf s s.cpu) (vaOf x o n)) c (vaOf x o n) s.cpu.ctl.pc)) ∧
    ((vaOf x o n).toNat % n ≠ 0 → exec i s = .next (takeTrapAt s 0x03 (vaOf x o n) s.cpu.ctl.pc)) := by
  refine ⟨fun k hk hp hr => store_completes hi ht h hk hp hr, fun k hk hp hn => ?_, fun c hc => store_of_error hi ht h hc,
    fun c hc => store_of_error hi ht h hc, fun hm => store_of_error hi ht h (checkAccess_misaligned _ _ hm)⟩
  exact (store_of_ok hi ht h hk).trans (if_pos (by simp [hn, hp]))

end

/-! ## What a store leaves (R131, R133, R277) -/

theorem Loc.past_add (l : Loc) (j : Nat) : l.past (l.add j) = some j := by cases l <;> simp [Loc.past, Loc.add]

theorem Loc.at'_off_add (l : Loc) (j : Nat) : l.at' (l.off + j) = l.add j := by cases l <;> rfl

/-- The bytes of a stored word, each at its place. -/
theorem byteIn_leBytes_add (l : Loc) (v : Nat) {n j : Nat} (hj : j < n) :
    byteIn l (leBytes n v) (l.add j) = some (BitVec.ofNat 8 (v / 256 ^ j)) := by
  unfold byteIn
  rw [Loc.past_add, show 256 ^ j = 2 ^ (8 * j) by rw [Nat.pow_mul]]
  simp [leBytes, hj]

theorem byteIn_leBytes_of_ne (l l' : Loc) (v : Nat) {n : Nat} (h : ∀ j, j < n → l' ≠ l.add j) : byteIn l (leBytes n v) l' = none := by
  unfold byteIn
  split
  · rename_i j hj
    have hn : ¬ j < n := fun hlt => h j hlt ((Loc.eq_at'_of_past hj).trans (l.at'_off_add j))
    simp [leBytes, hn]
  · rfl

/-- The byte that the latest of some stores has there. -/
def newestByte (es : List SEnt) (l : Loc) : Option Byte :=
  es.foldl (fun acc e => match byteIn e.loc e.data l with | some b => some b | none => acc) none

theorem newestByte_append (es : List SEnt) (e : SEnt) (l : Loc) :
    newestByte (es ++ [e]) l = (byteIn e.loc e.data l).or (newestByte es l) := by
  unfold newestByte
  rw [List.foldl_append, List.foldl_cons, List.foldl_nil]
  cases byteIn e.loc e.data l <;> rfl

/-- Every store of the strand lies before `past`. -/
theorem ord_lt_foldl_max (es : List SEnt) : ∀ n : Nat, n ≤ es.foldl (fun n e => Nat.max n (e.ord + 1)) n ∧
    ∀ e ∈ es, e.ord < es.foldl (fun n e => Nat.max n (e.ord + 1)) n := by
  induction es with
  | nil => exact fun n => ⟨Nat.le_refl n, nofun⟩
  | cons e es ih =>
    intro n
    obtain ⟨hle, hlt⟩ := ih (Nat.max n (e.ord + 1))
    have hmax : n ≤ Nat.max n (e.ord + 1) ∧ e.ord + 1 ≤ Nat.max n (e.ord + 1) := ⟨Nat.le_max_left .., Nat.le_max_right ..⟩
    refine ⟨hmax.1.trans hle, fun e' he' => ?_⟩
    rcases List.mem_cons.mp he' with rfl | he'
    · exact hmax.2.trans hle
    · exact hlt e' he'

/-- After all its stores a strand sees the latest of them. -/
theorem ownByte_past (m : MemSt) (l : Loc) : m.ownByte m.past l = newestByte m.stores l := by
  have hord := (ord_lt_foldl_max m.stores 0).2
  unfold MemSt.ownByte newestByte
  exact List.foldl_ext _ _ none (fun acc e he => if_pos (hord e he))

/-- What a strand that is no thaw thread sees of a byte: its own latest store, or what memory shows it. -/
theorem byteSeen_eq {s : State} (ht : ∀ c k, s.cpu.id ≠ .thaw c k) (l : Loc) :
    byteSeen s l = (newestByte s.cpu.mem.stores l).getD (latest (visible (s.cpu.agent s)) s l) := by
  have hm : memOf s s.cpu = s.cpu.mem := by
    unfold memOf
    split
    · rename_i c k hc
      exact absurd hc (ht c k)
    · rfl
  unfold byteSeen scalarByte
  rw [hm, ownByte_past]

/-- A store to a place that is not remote is an entry of the buffer. -/
theorem putStore_of_local {s : State} {l : Loc} (hl : isRemote l = false) (bs : List Byte) (va : Word) :
    putStore s l bs va = ((readAnewAt s false l bs.length).fresh.2).withMem (fun m =>
      { m with pob := m.pob ++ [{ loc := l, data := bs, ord := s.dev.nextUid, src := none, bad := false }] }) := by
  cases l with
  | remote d w o => exact absurd hl nofun
  | dev a => rfl
  | host a => rfl
  | spad t o => rfl
  | fw a => rfl
  | image a => rfl

theorem byteSeen_putStore {s : State} {l : Loc} (ht : ∀ c k, s.cpu.id ≠ .thaw c k) (hl : isRemote l = false) (bs : List Byte) (va : Word)
    (l' : Loc) : byteSeen (putStore s l bs va) l' = (byteIn l bs l').getD (byteSeen s l') := by
  rw [putStore_of_local hl, byteSeen_eq (by exact ht), byteSeen_eq ht]
  have hstores : (((readAnewAt s false l bs.length).fresh.2).withMem (fun m =>
      { m with pob := m.pob ++ [{ loc := l, data := bs, ord := s.dev.nextUid, src := none, bad := false }] })).cpu.mem.stores =
      s.cpu.mem.stores ++ [{ loc := l, data := bs, ord := s.dev.nextUid, src := none, bad := false }] := by
    rw [← s.cpu.mem.forget_stores (fun e => e.vec == false && overlaps l bs.length e.loc e.n)]
    exact (List.append_assoc ..).symm
  rw [hstores, newestByte_append, Option.getD_or]
  rfl

theorem retired0_sameSight (s : State) (rs : List SReg) : SameSight s (retired0 s rs) :=
  (popPorts_sameSight s rs).trans (complete_sameSight _)

theorem retired0_regs (s : State) (rs : List SReg) : (retired0 s rs).cpu.regs = s.cpu.regs := by
  rw [retired0, complete_regs, popPorts_cpu]

theorem retired0_trap (s : State) (rs : List SReg) : (retired0 s rs).cpu.trap = s.cpu.trap := by
  rw [retired0, complete_trap, popPorts_cpu]

/-- The frame of a store that has entered the buffer. -/
theorem retired0_putStore_frame {s : State} {l : Loc} (ht : ∀ c k, s.cpu.id ≠ .thaw c k) (hl : isRemote l = false) (v n : Nat) (va : Word)
    (rs : List SReg) :
    let t := retired0 (putStore s l (leBytes n v) va) rs
    (∀ j, j < n → byteSeen t (l.add j) = BitVec.ofNat 8 (v / 256 ^ j)) ∧
    (∀ l', (∀ j, j < n → l' ≠ l.add j) → byteSeen t l' = byteSeen s l') ∧
    t.cpu.regs = s.cpu.regs ∧ t.cpu.trap = s.cpu.trap ∧ t.mem = s.mem ∧ t.hostMem = s.hostMem ∧ t.log = s.log := by
  intro t
  have hsight : SameSight (putStore s l (leBytes n v) va) t := retired0_sameSight _ rs
  have hseen (l' : Loc) : byteSeen t l' = (byteIn l (leBytes n v) l').getD (byteSeen s l') :=
    (hsight.byteSeen l').trans (byteSeen_putStore ht hl _ va l')
  have hregs : t.cpu.regs = (putStore s l (leBytes n v) va).cpu.regs := retired0_regs _ rs
  have htrap : t.cpu.trap = (putStore s l (leBytes n v) va).cpu.trap := retired0_trap _ rs
  obtain ⟨hmem, hhost, _, hlog, _⟩ := hsight.memory
  rw [putStore_of_local hl] at hregs htrap hmem hhost hlog
  refine ⟨fun j hj => ?_, fun l' hne => ?_, hregs, htrap, hmem, hhost, hlog⟩
  · rw [hseen, byteIn_leBytes_add l v hj]
    rfl
  · rw [hseen, byteIn_leBytes_of_ne l l' v hne]
    rfl

/-- Settles O12: the answers by the checks, and the frame by the entry that the store leaves in the buffer. -/
theorem storeResults : Obligations.StoreResults := by
  refine ⟨fun s d a o x y ht h => ⟨?_, ?_, ?_, ?_⟩, fun s d a o x y n i k hi ht h hk hl hp => ?_⟩
  · exact store_results (exec_stB ..) ht h
  · exact store_results (exec_stH ..) ht h
  · exact store_results (exec_stW ..) ht h
  · exact store_results (exec_stD ..) ht h
  · have hw : ∃ word, exec i s = store s word d a o n := by
      rcases hi with ⟨rfl, rfl⟩ | ⟨rfl, rfl⟩ | ⟨rfl, rfl⟩ | ⟨rfl, rfl⟩
      · exact ⟨_, exec_stB ..⟩
      · exact ⟨_, exec_stH ..⟩
      · exact ⟨_, exec_stW ..⟩
      · exact ⟨_, exec_stD ..⟩
    obtain ⟨word, hw⟩ := hw
    have hr : isRemote k.loc = true → s.cpu.mem.unacked < 64 := fun hr => absurd (hl.symm.trans hr) nofun
    exact ⟨_, store_completes hw ht h hk hp hr, retired0_putStore_frame (by rwa [checkAccess_cpu hk]) hl y.toNat n _ [a, d]⟩

end Sys2Proof.Machine
end

section
/-! The vector length (R143). -/

namespace Sys2Proof.Machine

/-- A request is granted, VSTART is 0, and d takes the grant. -/
theorem setVl_retires {s : State} {rs : List SReg} {d : SReg} {vs : List Word} {f : List Word → Nat} {req : Nat} (word : Nat)
    (ht : isTask s = true) (h : readable s rs (some d) = some vs) (hf : f vs = req) :
    taskOnly s word (readS s word rs (some d) fun vs => retire (setVl s (f vs)).2 rs d (BitVec.ofNat 64 (setVl s (f vs)).1)) =
      .next (retired (s.withCtl (fun c => { c with vl := grant (vlgOf s) req (wOf s), vstart := 0 })) rs d
        (BitVec.ofNat 64 (grant (vlgOf s) req (wOf s)))) := by
  rw [taskOnly_of_isTask _ _ ht, readS_of_readable _ _ h, hf]
  rfl

/-- Settles O16: the grant of the request, to VL and to d. -/
theorem setvlGrants : Obligations.SetvlGrants :=
  ⟨fun _ _ _ _ ht h => setVl_retires (f := fun vs => (opd vs 0).toNat) _ ht h rfl,
   fun _ _ i ht h => setVl_retires (f := fun _ => i.toNat) _ ht h rfl⟩

end Sys2Proof.Machine
end

section
/-! Compares (R152), and how the flags of a vector instruction stand at its end. -/

namespace Sys2Proof.Machine

/-! ## Flags and the end of a vector instruction -/

/-- The end check neither reads nor changes the flags. -/
theorem endCheck_fflags (vlg : Nat) (x : Word) (c : Ctl) (f : Flags) :
    endCheck vlg x { c with fflags := f } = { endCheck vlg x c with fflags := f } := by
  rw [endCheck_eq, endCheck_eq]
  unfold Ctl.nextStrip
  repeat' split
  all_goals rfl

/-- The control registers at the end, where only the flags have changed. -/
theorem complete_ctl_of_flags {s t : State} {f : Flags} (hc : t.cpu.ctl = { s.cpu.ctl with fflags := f }) (hv : vlgOf t = vlgOf s) :
    (complete (setVstart t 0)).cpu.ctl = { (complete (setVstart s 0)).cpu.ctl with fflags := f } := by
  change endCheck (vlgOf t) t.cpu.ctl.pc { t.cpu.ctl with vstart := 0 } = _
  rw [hc, hv]
  exact endCheck_fflags _ _ { s.cpu.ctl with vstart := 0 } f

/-- At the end VSTART is 0. -/
theorem complete_vstart (s : State) : (complete (setVstart s 0)).cpu.ctl.vstart = 0 := by
  obtain ⟨_, _, h, _⟩ := endCheck_keptCtl (vlgOf s) s.pc (setVstart s 0).cpu.ctl
  exact h

/-- A chaining instruction ends as any vector instruction does, but for what it counts. -/
theorem chainDone_cpu (s : State) (rs : List Src) : (chainDone s rs).cpu = { (vdone s rs).cpu with usage := s.cpu.usage } := rfl

theorem chainDone_ctl (s : State) (rs : List Src) : (chainDone s rs).cpu.ctl = (complete (setVstart s 0)).cpu.ctl := vdone_ctl s rs

theorem chainDone_regs (s : State) (rs : List Src) : (chainDone s rs).cpu.regs = s.cpu.regs := vdone_regs s rs

theorem chainDone_sameMemory (s : State) (rs : List Src) : sameMemory s (chainDone s rs) := vdone_sameMemory s rs

/-- Flags gathered one by one, from some flags on. -/
theorem foldl_or_flags {α : Type} (g : α → Flags) (xs : List α) (f : Flags) :
    xs.foldl (fun f x => f ||| g x) f = f ||| xs.foldl (fun f x => f ||| g x) 0 := by
  have h := List.foldl_assoc (op := fun a b : Flags => a ||| b) (l := xs.map g) (a₁ := f) (a₂ := 0)
  rwa [List.foldl_map, List.foldl_map, show f ||| (0 : Flags) = f from BitVec.or_zero] at h

/-! ## Mask bits -/

/-- Bits set or cleared one by one: those named take their values, and the others stay. -/
theorem getLsbD_maskPut (m : BitVec 1024) (js : List Nat) (f : Nat → Bool) {j : Nat} (hj : j < 1024) :
    (maskPut m (js.map (fun i => (i, f i)))).getLsbD j = if j ∈ js then f j else m.getLsbD j := by
  unfold maskPut
  rw [BitVec.getLsbD_ofNat, decide_eq_true hj, Bool.true_and]
  have key (n : Nat) : ((js.map (fun i => (i, f i))).foldl (fun n x => if n.testBit x.1 == x.2 then n else n ^^^ 2 ^ x.1) n).testBit j =
      if j ∈ js then f j else n.testBit j := by
    induction js generalizing n with
    | nil => simp
    | cons i is ih =>
      rw [List.map_cons, List.foldl_cons, ih]
      by_cases hm : j ∈ is
      · rw [if_pos hm, if_pos (List.mem_cons_of_mem _ hm)]
      · rw [if_neg hm]
        by_cases he : j = i
        · subst he
          rw [if_pos (List.mem_cons_self ..)]
          split
          · rename_i h
            exact beq_iff_eq.mp h
          · rename_i h
            rw [Nat.testBit_xor, Nat.testBit_two_pow_self]
            revert h
            cases n.testBit j <;> cases f j <;> simp
        · rw [if_neg (fun h => (List.mem_cons.mp h).elim he hm)]
          split
          · rfl
          · rw [Nat.testBit_xor, Nat.testBit_two_pow_of_ne (Ne.symm he), Bool.xor_false]
  exact key m.toNat

/-! ## Compares -/

/-- The source fields of a compare. -/
def cmpSrcs (a : VReg) (b : VOperand) : List Src := [.v a, match b with | .vec r => Src.v r | .sca r => .s r]

/-- What one active element of a compare gives. -/
def cmpAt (s : State) (c : Nat) (b : VOperand) (vs : List SVal) (j : Nat) : Bool × Flags :=
  cmpElem (etOf s) (fzOn s) c ((vecAt vs 0).el (wOf s) j) (bAt b vs (wOf s) j)

/-- The state in which a compare of elements js has completed. -/
def compared (s : State) (c : Nat) (d : MReg) (a : VReg) (b : VOperand) (vs : List SVal) (js : List Nat) : State :=
  chainDone (setMreg (accrue (countMicro s (wOf s) js.length) (js.foldl (fun f j => f ||| (cmpAt s c b vs j).2) 0)) d
    (maskPut (mreg s d) (js.map (fun j => (j, (cmpAt s c b vs j).1))))) (cmpSrcs a b)

section
variable {s : State} {d : MReg} {a : VReg} {b : VOperand} {vs : List SVal}

/-- A compare of quiet sources of fitting formats completes. -/
theorem vcmp_of_quiet (word c : Nat) (h : quietOps s (cmpSrcs a b) .none true = some vs) (hf : (isFA (etOf s) || isIA (etOf s)) = true)
    (hw : 8 ≤ wOf s) (ha : (vecAt vs 0).fmt = etOf s) (hb : b.flag = false → (vecAt vs 1).fmt = etOf s) (hn : vlOf s ≤ vlmax (wOf s))
    (hlo : vstartOf s < vlOf s) :
    vcmp s word c d a b = .next (compared s c d a b vs (activeFrom s (wOf s) (vstartOf s) (vlOf s))) := by
  obtain ⟨_, hm, _, hq⟩ := quietOps_spec h
  have hsrc (r : VReg) (i : Nat) : (vecAt vs i).quiet = true ∧ ∀ g ∈ groupsOf (wOf s) (vstartOf s) (vlOf s), g < 8 :=
    ⟨vecAt_quiet hq i, fun _ => groupsOf_lt⟩
  have hadm : ((isFA (etOf s) || isIA (etOf s)) && decide (8 ≤ wOf s)) = true := by rw [hf, decide_eq_true hw]; rfl
  refine (whole_of_quiet _ _ h).trans ?_
  cases b with
  | vec r =>
    refine (fmtGate_of_fits _ hadm (by simp [ha, hb rfl]) (by simp [hn])).trans ?_
    simp only [if_neg (Nat.not_le.mpr hlo)]
    refine (needV_of_quiet _ (by simp only [List.map_cons, List.map_nil, List.forall_mem_cons]; exact ⟨hsrc a 0, hsrc r 1, by simp⟩)).trans ?_
    refine (needM_of_clean _ _ hm).trans ?_
    simp only [List.map_map, List.length_map, List.foldl_map]
    rfl
  | sca r =>
    refine (fmtGate_of_fits _ hadm (by simp [ha]) (by simp [hn])).trans ?_
    simp only [if_neg (Nat.not_le.mpr hlo)]
    refine (needV_of_quiet _ (by simp only [List.map_nil, List.forall_mem_cons]; exact ⟨hsrc a 0, by simp⟩)).trans ?_
    refine (needM_of_clean _ _ hm).trans ?_
    simp only [List.map_map, List.length_map, List.foldl_map]
    rfl

end

/-- The outcome of condition c on integers (R152). -/
def cmpHolds (c : Nat) (x y : Int) : Prop := match c with
  | 0 => x = y | 1 => x ≠ y | 2 => x < y | 3 => x ≤ y | 4 => x > y | 5 => x ≥ y | 6 => False | _ => True

/-- Integers compare by value, without flags. -/
theorem cmpElem_of_int {f w : Nat} {sg : Bool} (h : intFmt f = some (w, sg)) (fz : Bool) (c x y : Nat) :
    ((cmpElem f fz c x y).1 = true ↔ cmpHolds c (intVal w sg x) (intVal w sg y)) ∧ (cmpElem f fz c x y).2 = 0 := by
  unfold cmpElem cmpHolds
  rw [(intFmt_spec h).2, h]
  refine ⟨?_, rfl⟩
  simp only
  split <;> simp

/-- What a compare leaves. -/
theorem compared_spec (s : State) (c : Nat) (d : MReg) (a : VReg) (b : VOperand) (vs : List SVal) (js : List Nat) :
    let t := compared s c d a b vs js
    (∀ j, j < 1024 → (mreg t d).getLsbD j = if d ≠ 0 ∧ j ∈ js then (cmpAt s c b vs j).1 else (mreg s d).getLsbD j) ∧
    t.cpu.ctl = { (complete (setVstart s 0)).cpu.ctl with fflags := js.foldl (fun f j => f ||| (cmpAt s c b vs j).2) s.cpu.ctl.fflags } ∧
    t.cpu.regs.s = s.cpu.regs.s ∧ t.cpu.regs.v = s.cpu.regs.v ∧ (∀ r, r ≠ d → mreg t r = mreg s r) ∧ t.mem = s.mem ∧ t.log = s.log := by
  intro t
  generalize hm : maskPut (mreg s d) (js.map (fun j => (j, (cmpAt s c b vs j).1))) = m
  generalize hu : accrue (countMicro s (wOf s) js.length) (js.foldl (fun f j => f ||| (cmpAt s c b vs j).2) 0) = u
  have ht : t = chainDone (setMreg u d m) (cmpSrcs a b) := by rw [← hm, ← hu]; rfl
  have hmreg (r : MReg) : mreg t r = mreg (setMreg u d m) r := by
    unfold mreg
    rw [ht, chainDone_regs]
  have hum (r : MReg) : mreg u r = mreg s r := by rw [← hu]; rfl
  obtain ⟨hctl, hs, hv, _, hvlg⟩ := setMreg_leaves u d m
  have hmem := chainDone_sameMemory (setMreg u d m) (cmpSrcs a b)
  obtain ⟨humem, _, _, hulog, _⟩ : sameMemory s (setMreg u d m) := by
    rw [← hu]
    unfold setMreg
    split <;> exact ⟨rfl, rfl, rfl, rfl, rfl⟩
  obtain ⟨htmem, _, _, htlog, _⟩ := hmem
  refine ⟨fun j hj => ?_, ?_, ?_, ?_, fun r hr => ?_, by rw [ht, htmem, humem], by rw [ht, htlog, hulog]⟩
  · rw [hmreg, mreg_setMreg_self]
    by_cases hd : d = 0
    · subst hd
      simp [mreg, hj]
    · rw [if_neg hd, ← hm, getLsbD_maskPut _ _ _ hj]
      simp only [ne_eq, hd, not_false_eq_true, true_and]
  · rw [ht, chainDone_ctl]
    refine complete_ctl_of_flags ?_ ?_
    · rw [hctl, ← hu, foldl_or_flags (fun j => (cmpAt s c b vs j).2) js s.cpu.ctl.fflags]
      rfl
    · rw [hvlg, ← hu]
      rfl
  · rw [ht, chainDone_regs, hs, ← hu]
    rfl
  · rw [ht, chainDone_regs, hv, ← hu]
    rfl
  · rw [hmreg, mreg_setMreg_ne _ _ hr, hum]

/-- Settles O20: a compare puts the outcomes of the active elements into its mask, by the one way all eight compares go. -/
theorem compareResults : Obligations.CompareResults := by
  intro s d a b vs et w hq hf hw ha hb hn hlo js av bv gives
  have hjs : activeFrom s w (vstartOf s) (vlOf s) = js := activeFrom_eq s w _
  have hq' : quietOps s (cmpSrcs a b) .none true = some vs := by cases b <;> exact hq
  have hbv (j : Nat) : bAt b vs w j = bv j := by cases b <;> rfl
  have compare {i : Instr} {word : Nat} (c : Nat) {p : Int → Int → Prop} (hi : exec i s = vcmp s word c d a b)
      (hp : ∀ x y, cmpHolds c x y ↔ p x y) : gives i c p := by
    have he := hi.trans (vcmp_of_quiet word c hq' hf hw ha hb hn hlo)
    rw [hjs] at he
    obtain ⟨hmask, hctl, hs, hv, hother, hmem, hlog⟩ := compared_spec s c d a b vs js
    have hat (j : Nat) : cmpAt s c b vs j = cmpElem et (mrFz s.cpu.ctl.mr) c (av j) (bv j) := by rw [← hbv]; rfl
    simp only [hat] at hmask hctl
    refine ⟨_, he, hmask, by rw [hctl], by rw [hctl], by rw [hctl]; exact complete_vstart s, rfl, hs, hv, hother, hmem, hlog, fun sg hsg x y => ?_⟩
    obtain ⟨hval, hfl⟩ := cmpElem_of_int hsg (mrFz s.cpu.ctl.mr) c x y
    exact ⟨hval.trans (hp _ _), hfl⟩
  exact ⟨compare 0 rfl fun _ _ => Iff.rfl, compare 1 rfl fun _ _ => Iff.rfl, compare 2 rfl fun _ _ => Iff.rfl,
    compare 3 rfl fun _ _ => Iff.rfl, compare 4 rfl fun _ _ => Iff.rfl, compare 5 rfl fun _ _ => Iff.rfl,
    compare 6 rfl fun _ _ => Iff.rfl, compare 7 rfl fun _ _ => Iff.rfl⟩

end Sys2Proof.Machine
end

section
/-! Conversions, quantisation, the Hadamard stage and sidecar access (R154 to R158). -/

namespace Sys2Proof.Machine

/-- A free destination keeps no instruction waiting. -/
theorem destWaits_of_destFree {s : State} {d : VReg} (h : destFree s d = true) (w : Nat) (is : List Nat) :
    (!pushes s d && destWaits (vreg s d) w is) = false := by
  unfold destFree at h
  cases hp : pushes s d with
  | true => rfl
  | false =>
    rw [hp, Bool.false_or, beq_iff_eq] at h
    rw [destWaits_of_landed h]
    rfl

/-- Elements whose results raise no flags. -/
theorem foldl_no_flags (xs : List (Nat × FRes)) (h : ∀ x ∈ xs, x.2.2 = 0) (f : Flags) : xs.foldl (fun f x => f ||| x.2.2) f = f := by
  induction xs with
  | nil => rfl
  | cons x xs ih =>
    rw [List.foldl_cons, h x (List.mem_cons_self ..), show f ||| (0 : Flags) = f from BitVec.or_zero]
    exact ih fun y hy => h y (List.mem_cons_of_mem _ hy)

/-- Codes without flags, as the elements that are written. -/
theorem codes_present (cs : List Nat) : (cs.mapIdx (fun j c => (j, c, (0 : Flags)))).map (fun x => (x.1, x.2.1, pPresent)) =
    cs.mapIdx (fun j c => (j, c, pPresent)) := List.ext_getElem (by simp) (by simp)

/-- A sum or difference is the lanes' addition or subtraction. -/
theorem sumElem_eq (f : Nat) (rm : RM) (sat fz sub : Bool) (x y : Nat) : sumElem f rm sat fz sub x y = elemOp (if sub then 2 else 1) f rm fz sat x y 0 := by
  unfold sumElem elemOp
  cases sub <;> rfl

section
variable {s : State} {d a : VReg} {v : VVal} (h : quietOps s [.v a] (.v d) true = some [.v v])
include h

/-- The value of a quiet source field. -/
theorem quiet_of_quietOps : v.quiet = true := (quietOps_spec h).2.2.2 _ (List.mem_singleton_self _)

/-- Elements lo up to VL of a quiet source of width w are ready. -/
theorem needV_of_source (w lo : Nat) (k : Out) : needV s [(a, v, groupsOf w lo (vlOf s))] k = k :=
  needV_of_quiet k (by simp only [List.forall_mem_singleton]; exact ⟨quiet_of_quietOps h, fun _ => groupsOf_lt⟩)

/-- The scale data of a quiet source have landed. -/
theorem sclLanded_of_quiet : sclLanded v = true := by
  obtain ⟨h1, h2, _, _⟩ := VVal.quiet_spec (quiet_of_quietOps h)
  unfold sclLanded sideReady
  rw [h1, h2]
  rfl

variable (hfree : destFree s d = true)
include hfree

/-- `vcvt` between formats without scales. -/
theorem execVcvt_of_quiet (het : isScaled (etOf s) = false ∧ etOf s ≠ 0x25) (hf : v.fmt < 0x25) (hs : vlOf s ≤ vlmax (fmtWidth v.fmt))
    (hn : vlOf s ≤ vlmax (wOf s)) (hlo : vstartOf s < vlOf s) :
    let xs := (activeFrom s (wOf s) (vstartOf s) (vlOf s)).map (fun j =>
      (j, convElem v.fmt (etOf s) (rmOn s) (satOn s) (fzOn s) (v.el (fmtWidth v.fmt) j) (sclOf v j)))
    execVcvt d a s = .next (chainDone (putV (accrue (countMicro s (wOf s) xs.length) (xs.foldl (fun f x => f ||| x.2.2) 0)) d (wOf s) (etOf s)
      (xs.map (fun x => (x.1, x.2.1, pPresent))) noSide) [.v a]) := by
  intro xs
  obtain ⟨_, hm, _, _⟩ := quietOps_spec h
  refine (whole_of_quiet _ _ h).trans ?_
  change (if (isScaled (etOf s) || etOf s == 0x25) = true then _ else if (v.fmt == 0x25 || decide (0x26 ≤ v.fmt)) = true then _ else _) = _
  rw [if_neg (by simp [het]), if_neg (by simp; omega)]
  refine (fmtGate_of_fits _ rfl (by simp) (by simp only [List.forall_mem_cons]; exact ⟨hs, hn, by simp⟩)).trans ?_
  simp only [if_neg (Nat.not_le.mpr hlo)]
  refine (needV_of_source h _ _ _).trans ((needM_of_clean _ _ hm).trans ?_)
  exact if_neg (Bool.eq_false_iff.mp (destWaits_of_destFree hfree ..))

/-- `vquant` of a float or integer source. -/
theorem execVquant_of_quiet (het : isScaled (etOf s) = true) (hf : (isFA v.fmt || isIA v.fmt) = true)
    (hs : vlOf s ≤ vlmax (fmtWidth v.fmt)) (hn : vlOf s ≤ vlmax (wOf s)) (h0 : 0 < vlOf s ∨ pushes s d = true) :
    let q := quantAll (etOf s) (rmOn s) (satOn s) ((List.range (vlmax (wOf s))).map (fun j =>
      if j < vlOf s then quantVal v.fmt (fzOn s) (v.el (fmtWidth v.fmt) j) else .zero))
    execVquant d a s = .next (vdone (putV (accrue s q.2.2.2) d (wOf s) (etOf s) (q.1.mapIdx (fun j c => (j, c, pPresent)))
      (fun _ => (q.2.1, q.2.2.1))) [.v a]) := by
  intro q
  refine (whole_of_quiet _ _ h).trans ?_
  change (if (!isScaled (etOf s)) = true then _ else if (!(isFA v.fmt || isIA v.fmt)) = true then _ else _) = _
  rw [if_neg (by simp [het]), if_neg (by rw [hf]; simp)]
  refine (fmtGate_of_fits _ rfl (by simp) (by simp only [List.forall_mem_cons]; exact ⟨hs, hn, by simp⟩)).trans ?_
  exact (needV_of_source h _ _ _).trans (writeVl_of_destFree hfree h0 ..)

/-- `vhad`: sums below, differences above, at distance 2^k (R156). -/
theorem execVhad_of_quiet (k : BitVec 5) (hf : (isFA (etOf s) || isIA (etOf s)) = true) (ht : v.fmt = etOf s) (hn : vlOf s ≤ vlmax (wOf s))
    (hk : vlOf s % (2 * 2 ^ k.toNat) = 0) (h0 : 0 < vlOf s ∨ pushes s d = true) :
    let xs := (List.range (vlOf s)).map (fun j =>
      if j / 2 ^ k.toNat % 2 == 0 then (j, sumElem (etOf s) (rmOn s) (satOn s) (fzOn s) false (v.el (wOf s) j) (v.el (wOf s) (j + 2 ^ k.toNat)))
      else (j, sumElem (etOf s) (rmOn s) (satOn s) (fzOn s) true (v.el (wOf s) (j - 2 ^ k.toNat)) (v.el (wOf s) j)))
    execVhad d a k s = .next (vdone (putV (accrue s (xs.foldl (fun f x => f ||| x.2.2) 0)) d (wOf s) (etOf s)
      (xs.map (fun x => (x.1, x.2.1, pPresent))) noSide) [.v a]) := by
  intro xs
  refine (whole_of_quiet _ _ h).trans ?_
  refine (fmtGate_of_fits _ hf (by simp only [List.forall_mem_singleton]; exact ht) (by simp only [List.forall_mem_cons]; exact ⟨hn, hn, by simp⟩)).trans ?_
  rw [if_neg (not_not.mpr hk)]
  exact (needV_of_source h _ _ _).trans (writeVl_of_destFree hfree h0 ..)

/-- `vsclget`: the bytes of both sidecars. -/
theorem execVsclget_of_quiet : execVsclget d a s = .next (vdone (putV (accrue s 0) d 8 0x13 ((List.range 1024).map (fun j =>
    (j, (v.scale.toNat + v.special.toNat * 2 ^ 512) / 2 ^ (8 * j) % 256, pPresent))) noSide) [.v a]) := by
  refine (whole_of_quiet _ _ h).trans ?_
  change (if (!sclLanded v) = true then _ else match vPoisoned v [0, 1] with | some g => _ | none => _) = _
  rw [if_neg (by rw [sclLanded_of_quiet h]; simp), vPoisoned_of_quiet (quiet_of_quietOps h)]
  exact writeV_of_destFree hfree ..

/-- `vsclset`: the lowest bytes of the source are the sidecars. -/
theorem execVsclset_of_quiet (het : isScaled (etOf s) = true) (ht : v.fmt = 0x13) (h8 : vlOf s ≤ vlmax 8) (hn : vlOf s ≤ vlmax (wOf s))
    (h0 : 0 < vlOf s ∨ pushes s d = true) : execVsclset d a s = .next (vdone (putV (accrue s 0) d 8 (etOf s) []
      (fun _ => (BitVec.ofNat 512 v.bits.toNat, BitVec.ofNat 512 (v.bits.toNat / 2 ^ 512)))) [.v a]) := by
  refine (whole_of_quiet _ _ h).trans ?_
  refine (fmtGate_of_fits _ het (by simp only [List.forall_mem_singleton]; exact ht) (by simp only [List.forall_mem_cons]; exact ⟨h8, hn, by simp⟩)).trans ?_
  change (if (!sclLanded v) = true then _ else match vPoisoned v [0, 1] with | some g => _ | none => _) = _
  rw [if_neg (by rw [sclLanded_of_quiet h]; simp), vPoisoned_of_quiet (quiet_of_quietOps h)]
  exact writeVl_of_destFree hfree h0 ..

end

/-- A byte of two numbers, the first of m bytes and the second above it. -/
theorem byte_of_concat {m x : Nat} (hx : x < 2 ^ (8 * m)) (y j : Nat) : (x + y * 2 ^ (8 * m)) / 2 ^ (8 * j) % 256 =
    if j < m then x / 2 ^ (8 * j) % 256 else y / 2 ^ (8 * (j - m)) % 256 := by
  split
  · rw [show 8 * m = 8 * j + (8 + 8 * (m - j - 1)) by omega, Nat.pow_add, Nat.pow_add,
      show y * (2 ^ (8 * j) * (2 ^ 8 * 2 ^ (8 * (m - j - 1)))) = 2 ^ (8 * j) * (256 * (y * 2 ^ (8 * (m - j - 1)))) by ring,
      Nat.add_mul_div_left _ _ (Nat.two_pow_pos _), Nat.add_mul_mod_self_left]
  · rw [show 8 * j = 8 * m + 8 * (j - m) by omega, Nat.pow_add, ← Nat.div_div_eq_div_mul, Nat.add_mul_div_right _ _ (Nat.two_pow_pos _),
      Nat.div_eq_of_lt hx, Nat.zero_add]

/-- A byte of the two sidecars. -/
theorem sidecar_byte (x y : BitVec 512) (j : Nat) : (x.toNat + y.toNat * 2 ^ 512) / 2 ^ (8 * j) % 256 =
    if j < 64 then x.toNat / 2 ^ (8 * j) % 256 else if j < 128 then y.toNat / 2 ^ (8 * (j - 64)) % 256 else 0 := by
  have he : (2 : Nat) ^ 512 = 2 ^ (8 * 64) := congrArg (2 ^ ·) rfl
  rw [he, byte_of_concat (x.toNat_lt_twoPow_of_le (by decide))]
  split
  · rfl
  · split
    · rfl
    · rw [Nat.div_eq_of_lt (y.toNat_lt_twoPow_of_le (by omega))]

/-- Settles O21: each conversion by what it does on a quiet source. -/
theorem conversionResults : Obligations.ConversionResults := by
  intro s d a v h hfree m et w n ws ends
  have ends_of {i : Instr} {w tag : Nat} {xs : List (Nat × FRes)} {ys : List (Nat × Nat × Nat)} {side : VVal → BitVec 512 × BitVec 512}
      {fl fl' : Flags} (hy : xs.map (fun x => (x.1, x.2.1, pPresent)) = ys) (hf : xs.foldl (fun f x => f ||| x.2.2) fl = fl')
      (he : exec i s = .next (vdone (putV (accrue s fl') d w tag ys side) [.v a])) : ends i w tag xs side fl := by
    subst hy hf
    exact he
  refine ⟨fun he he' hf hs hn hlo => ?cvt, fun he hf hs hn h0 => ?quant, fun k _ hf ht hn hk h0 => ?had, ?get, fun he ht h8 hn h0 => ?set⟩
  case cvt =>
    rw [← activeFrom_eq]
    exact execVcvt_of_quiet h hfree ⟨he, he'⟩ hf hs hn hlo
  case quant =>
    refine ends_of (codes_present _) (foldl_no_flags _ (fun x hx => ?_) _) (execVquant_of_quiet h hfree he hf hs hn h0)
    obtain ⟨j, _, rfl⟩ := List.mem_mapIdx.mp hx
    rfl
  case had =>
    have he := execVhad_of_quiet h hfree k hf ht hn hk h0
    simp only [sumElem_eq, ← apply_ite (Prod.mk _), beq_iff_eq] at he
    exact ends_of rfl rfl he
  case get =>
    refine ends_of (List.map_map ..) (foldl_no_flags _ (fun x hx => ?_) _) ((execVsclget_of_quiet h hfree).trans ?_)
    · obtain ⟨j, _, rfl⟩ := List.mem_map.mp hx
      rfl
    · simp only [sidecar_byte]
      rfl
  case set => exact ends_of rfl rfl (execVsclset_of_quiet h hfree he ht h8 hn h0)

end Sys2Proof.Machine
end

section
/-! Permutes, broadcasts and element moves (R159 to R161). -/

namespace Sys2Proof.Machine

section
variable {s : State} {d : VReg} {rs : List Src} {vs : List SVal}

/-- A whole instruction that writes elements to a free destination, without flags. -/
theorem writeVl_quietly (hfree : destFree s d = true) (h0 : 0 < vlOf s ∨ pushes s d = true) (rs : List Src) (w tag : Nat)
    (xs : List (Nat × Nat × Nat)) (side : VVal → BitVec 512 × BitVec 512) :
    writeVl s rs d w tag xs side 0 = .next (vdone (putV s d w tag xs side) rs) := by
  rw [writeVl_of_destFree hfree h0, accrue_zero]

/-- An element below VLMAX lies in the register whole. -/
theorem span_of_lt_vlmax {w j : Nat} (h : j < vlmax w) : (j + 1) * w ≤ 8192 := Nat.mul_le_of_le_div w (j + 1) 8192 h

/-- It lies in one of the eight groups. -/
theorem group_lt_of_lt_vlmax {w j : Nat} (h : j < vlmax w) : w * j / 1024 < 8 := by
  have hs := span_of_lt_vlmax h
  have hw : w ≠ 0 := fun e => absurd h (by rw [e, vlmax, Nat.div_zero]; exact Nat.not_lt_zero j)
  rw [Nat.add_mul, Nat.one_mul, Nat.mul_comm] at hs
  omega

/-- What lets a permute go on: VL fits, there is something to write, the destination is free. -/
structure Permutes (s : State) (d : VReg) : Prop where
  fits : vlOf s ≤ vlmax (wOf s)
  some : 0 < vlOf s ∨ pushes s d = true
  free : destFree s d = true

/-- Sources that are quiet and have the tag ET. -/
def sourcesFit (s : State) (ns : List (VReg × VVal)) : Prop := ∀ n ∈ ns, n.2.quiet = true ∧ n.2.fmt = etOf s

/-- A permute of such sources writes the elements that it moves. -/
theorem permute_of_quiet (hp : Permutes s d) (hm : s.cpu.regs.mPoison = 0) {ns : List (VReg × VVal)} (hns : sourcesFit s ns) (rs : List Src)
    (masks : List MReg) (mv : Nat → List (Nat × Nat × Nat)) :
    permute s rs d ns masks mv = .next (vdone (putV s d (wOf s) (etOf s) (mv (wOf s))
      (fun _ => (((ns.head?.map (·.2)).getD VVal.zero).scale, ((ns.head?.map (·.2)).getD VVal.zero).special))) rs) := by
  refine (fmtGate_of_fits _ rfl ?_ ?_).trans ((needV_of_quiet _ ?_).trans ((needM_of_clean _ _ hm).trans (writeVl_quietly hp.free hp.some ..)))
  · simp only [List.forall_mem_map]
    exact fun n hn => (hns n hn).2
  · simp only [List.forall_mem_append, List.forall_mem_map, List.forall_mem_singleton]
    exact ⟨fun _ _ => hp.fits, hp.fits⟩
  · simp only [List.forall_mem_map]
    exact fun n hn => ⟨(hns n hn).1, fun _ => groupsOf_lt⟩

end

/-- Settles O22: each permute by the elements it moves, and the moves of single elements and whole values by their gates. -/
theorem permuteResults : Obligations.PermuteResults := by
  intro s d vs et w n av bv js from_ ends keeps fits hn h0 hfree
  have hp : Permutes s d := ⟨hn, h0, hfree⟩
  have hjs : activeFrom s w 0 (vlOf s) = js := activeFrom_zero s w
  have moves {i : Instr} {rs : List Src} {ns : List (VReg × VVal)} {masks : List MReg} {mv : Nat → List (Nat × Nat × Nat)}
      {xs : List (Nat × Nat × Nat)} {word : Nat} {k : List SVal → Out} (hq : quietOps s rs (.v d) true = some vs)
      (hi : exec i s = whole s word rs (.v d) k) (hk : k vs = permute s rs d ns masks mv) (hns : sourcesFit s ns)
      (ha : (ns.head?.map (·.2)).getD VVal.zero = av) (hx : mv w = xs) : ends i rs xs keeps := by
    obtain ⟨_, hm, _, _⟩ := quietOps_spec hq
    have := permute_of_quiet hp hm hns rs masks mv
    rw [ha, hx] at this
    exact hi.trans ((whole_of_quiet _ _ hq).trans (hk.trans this))
  refine ⟨fun a b hq ha => ⟨fun wb hwb hnb => ?perm, fun hb => ?zips⟩, fun a b hq ha => ?slides, fun a b hq ha => ?chosen, fun a hq het => ?bcast,
    fun hq het => ?vid, fun a b hq hd => ?vins, fun a hq => ?vmv, fun e a b hq ha => ?vext⟩
  case perm =>
    obtain ⟨_, hm, _, hv⟩ := quietOps_spec hq
    have hw : fmtWidth bv.fmt = wb := by rcases hwb with ⟨h, rfl⟩ | ⟨h, rfl⟩ <;> rw [h] <;> rfl
    have htag : (bv.fmt != 0x11 && bv.fmt != 0x21) = false := by rcases hwb with ⟨h, _⟩ | ⟨h, _⟩ <;> rw [h] <;> rfl
    refine (exec_vperm ..).trans ((whole_of_quiet _ _ hq).trans ?_)
    change (if (av.fmt != et) = true then _ else if (bv.fmt != 0x11 && bv.fmt != 0x21) = true then _ else _) = _
    rw [if_neg (by simpa using ha), if_neg (by rw [htag]; simp)]
    refine (fmtGate_of_fits _ rfl (by simp) ?_).trans ((needV_of_quiet _ ?_).trans ((needM_of_clean _ _ hm).trans ?_))
    · simp only [List.forall_mem_cons]
      exact ⟨hn, by rw [hw]; exact hnb, hn, by simp⟩
    · simp only [List.forall_mem_cons]
      exact ⟨⟨vecAt_quiet hv 0, fun _ => groupsOf_lt⟩, ⟨vecAt_quiet hv 1, fun _ => groupsOf_lt⟩, by simp⟩
    · rw [hjs, hw]
      exact writeVl_quietly hfree h0 ..
  case zips =>
    obtain ⟨_, _, _, hv⟩ := quietOps_spec hq
    have hns : sourcesFit s [(a, av), (b, bv)] := by
      simp only [sourcesFit, List.forall_mem_cons]
      exact ⟨⟨vecAt_quiet hv 0, ha⟩, ⟨vecAt_quiet hv 1, hb⟩, by simp⟩
    refine ⟨moves hq (exec_vzip ..) rfl hns rfl ?_, moves hq (exec_vunzip ..) rfl hns rfl ?_⟩
    · rw [hjs]
      refine List.map_congr_left fun j _ => congrArg (Prod.mk j) ?_
      rcases Nat.mod_two_eq_zero_or_one j with h | h <;> rw [h] <;> rfl
    · rw [hjs]
      rfl
  case slides =>
    obtain ⟨_, _, _, hv⟩ := quietOps_spec hq
    have hns : sourcesFit s [(a, av)] := by
      simp only [sourcesFit, List.forall_mem_singleton]
      exact ⟨vecAt_quiet hv 0, ha⟩
    exact ⟨moves hq (exec_vslideup ..) rfl hns rfl (by rw [hjs]; rfl), moves hq (exec_vslidedn ..) rfl hns rfl (by rw [hjs]; rfl)⟩
  case chosen =>
    obtain ⟨_, _, _, hv⟩ := quietOps_spec hq
    have hns : sourcesFit s [(a, av)] := by
      simp only [sourcesFit, List.forall_mem_singleton]
      exact ⟨vecAt_quiet hv 0, ha⟩
    exact ⟨moves hq (exec_vcompress ..) rfl hns rfl rfl, moves hq (exec_vexpand ..) rfl hns rfl rfl⟩
  case bcast =>
    obtain ⟨_, hm, _, _⟩ := quietOps_spec hq
    refine (exec_vbcast ..).trans ((whole_of_quiet _ _ hq).trans ((fmtGate_of_fits _ (by rw [show isScaled (etOf s) = false from het]; rfl) (by simp) ?_).trans
      ((needM_of_clean _ _ hm).trans ?_)))
    · simp only [List.forall_mem_singleton]
      exact hn
    · rw [hjs]
      exact writeVl_quietly hfree h0 ..
  case vid =>
    obtain ⟨_, hm, _, _⟩ := quietOps_spec hq
    refine (exec_vid ..).trans ((whole_of_quiet _ _ hq).trans ((fmtGate_of_fits _ het (by simp) ?_).trans ((needM_of_clean _ _ hm).trans ?_)))
    · simp only [List.forall_mem_singleton]
      exact hn
    · rw [hjs]
      exact writeVl_quietly hfree h0 ..
  case vins =>
    refine (exec_vins ..).trans ((whole_of_quiet _ _ hq).trans ((fmtGate_of_fits _ rfl ?_ (by simp)).trans ?_))
    · rcases hd with h | ⟨h, _⟩
      · simp [h]
      · split
        · simp
        · simp only [List.forall_mem_singleton]
          exact h
    · have hside : (!pushes s d && !sideReady (vreg s d)) = false := by
        rcases hd with h | ⟨_, h⟩ <;> simp [h]
      rw [if_neg (Bool.eq_false_iff.mp hside), writeV_of_destFree hfree, accrue_zero]
      rfl
  case vmv =>
    obtain ⟨_, _, _, hv⟩ := quietOps_spec hq
    refine (exec_vmv ..).trans ((whole_of_quiet _ _ hq).trans ((needV_of_quiet _ ?_).trans ?_))
    · simp only [List.forall_mem_singleton]
      exact ⟨vecAt_quiet hv 0, fun _ => List.mem_range.mp⟩
    · exact (apply_ite (fun t => Host.Outcome.next (vdone t [.v a])) _ _ _).symm
  case vext =>
    intro j
    obtain ⟨_, _, _, hv⟩ := quietOps_spec hq
    have hav : av.quiet = true := vecAt_quiet hv 0
    obtain ⟨_, hland, hpres, _⟩ := VVal.quiet_spec hav
    refine (exec_vext ..).trans ((whole_of_quiet _ _ hq).trans ((fmtGate_of_fits _ rfl ?_ (by simp)).trans ?_))
    · simp only [List.forall_mem_singleton]
      exact ha
    · by_cases hj : vlmax w ≤ j
      · simp only [if_pos hj]
        exact if_pos hj
      · have hg : ((!av.landed.getLsbD (w * j / 1024)) || (av.pres != 0 && av.holeIn (w * j / 1024))) = false := by
          rw [hland, landed_all (group_lt_of_lt_vlmax (Nat.lt_of_not_le hj)), hpres]
          simp
        simp only [if_neg hj]
        refine (if_neg hj).trans ((if_neg (Bool.eq_false_iff.mp hg)).trans ?_)
        rw [vPoisoned_of_quiet hav]
        refine congrArg (fun v => Host.Outcome.next (vdone (writeS s e v) [.v a, .s b])) ?_
        rcases intFmt et with _ | ⟨_, _ | _⟩
        · rfl
        · rfl
        · rfl

end Sys2Proof.Machine
end

section
/-! What the checks of an access leave unchanged when they set A and D bits and cache a translation (R413): all of the cpu, the clusters and the
queues. -/

namespace Sys2Proof.Machine

/-! ## The frame -/

/-- A state that writes of the machine itself have made from another: the cpu, the clusters and the tasks' queues are as they were. -/
structure Aside (s t : State) : Prop where
  cpu : t.cpu = s.cpu
  clusters : t.clusters = s.clusters
  queues : ∀ n, (t.task? n).map (fun k => (k.dual, k.queues)) = (s.task? n).map (fun k => (k.dual, k.queues))

theorem Aside.refl (s : State) : Aside s s := ⟨rfl, rfl, fun _ => rfl⟩

theorem Aside.trans {a b c : State} (h : Aside a b) (k : Aside b c) : Aside a c :=
  ⟨k.cpu.trans h.cpu, k.clusters.trans h.clusters, fun n => (k.queues n).trans (h.queues n)⟩

theorem Aside.vlgOf {s t : State} (h : Aside s t) : vlgOf t = vlgOf s := by
  unfold Machine.vlgOf State.cluster
  rw [h.cpu, h.clusters]

theorem Aside.roleOf {s t : State} (h : Aside s t) (x : Strand) : roleOf t x = roleOf s x := by
  unfold Machine.roleOf
  split
  · rename_i n e _
    have hq := h.queues n
    revert hq
    cases t.task? n with
    | none => cases s.task? n with
      | none => exact fun _ => rfl
      | some y => exact nofun
    | some x => cases s.task? n with
      | none => exact nofun
      | some y => exact fun hq => by simp only [(Prod.mk.inj (Option.some.inj hq)).1]
  · rfl

theorem Aside.pushes {s t : State} (h : Aside s t) (d : VReg) : pushes t d = pushes s d := by
  unfold Machine.pushes
  rw [h.roleOf, h.cpu]

/-! ## Writes of the machine -/

theorem modTask_aside (s : State) (n : Nat) {f : Task → Task} (ht : ∀ k, (f k).tid = k.tid) (hd : ∀ k, (f k).dual = k.dual)
    (hq : ∀ k, (f k).queues = k.queues) : Aside s (s.modTask n f) :=
  ⟨rfl, rfl, fun m => find?_replaceFirst_map (q := fun k => k.tid == m) (fun k => by rw [ht]) (fun k => by rw [hd, hq]) s.tasks⟩

theorem writeBase_aside (s : State) (l : Loc) (bs : List Byte) : Aside s (writeBase s l bs) := by
  cases l with
  | spad n o => exact modTask_aside s n (fun _ => rfl) (fun _ => rfl) (fun _ => rfl)
  | dev a => exact ⟨rfl, rfl, fun _ => rfl⟩
  | host a => exact ⟨rfl, rfl, fun _ => rfl⟩
  | fw a => exact ⟨rfl, rfl, fun _ => rfl⟩
  | remote d w o => exact .refl s
  | image a => exact .refl s

theorem poisonWords_aside (s : State) (l : Loc) (ws : List Nat) : Aside s (poisonWords s l ws) := by
  unfold poisonWords
  split
  · exact .refl s
  · cases l with
    | spad n o => exact modTask_aside s n (fun _ => rfl) (fun _ => rfl) (fun _ => rfl)
    | dev a => exact ⟨rfl, rfl, fun _ => rfl⟩
    | host a => exact ⟨rfl, rfl, fun _ => rfl⟩
    | fw a => exact .refl s
    | remote d w o => exact .refl s
    | image a => exact .refl s

theorem foldGo_aside (rs : List WRec) : ∀ s : State, Aside s (foldGo rs s) := by
  induction rs with
  | nil => exact fun s => ⟨rfl, rfl, fun _ => rfl⟩
  | cons r rs ih =>
    intro s
    unfold foldGo
    split
    · exact (writeBase_aside s r.loc r.bytes).trans ((poisonWords_aside _ r.loc r.bad).trans (ih _))
    · exact ⟨rfl, rfl, fun _ => rfl⟩

theorem enterDev_aside (s : State) (l : Loc) (bs : List Byte) (v : Scope) (g : WTag) : Aside s (enterDev s l bs v g) := by
  unfold enterDev enterFor enterRec foldLog
  refine Aside.trans ?_ (foldGo_aside _ _)
  exact ⟨rfl, rfl, fun _ => rfl⟩

/-! ## Translations -/

theorem setPteBits_aside {s t : State} {bits : Word} {l : Option Leaf} (h : setPteBits s bits l = some t) : Aside s t := by
  unfold setPteBits at h
  split at h
  · exact Option.some.inj h ▸ .refl s
  · split at h
    · exact Option.some.inj h ▸ .refl s
    · split at h
      · exact Option.some.inj h ▸ enterDev_aside ..
      · exact absurd h nofun

theorem entId_aside (s : State) (e : TlbEnt) : Aside s (entId s e).2 := by
  unfold entId
  split
  · exact .refl s
  · exact ⟨rfl, rfl, fun _ => rfl⟩

theorem cacheEnt_aside (s : State) (c : XCtx) (e : TlbEnt) : Aside s (cacheEnt s c e) := ⟨rfl, rfl, fun _ => rfl⟩

theorem walk_aside {s : State} {c : XCtx} {va : Nat} {r w x touch : Bool} {k : XOk} (h : walk s c va r w x touch = .ok k) : Aside s k.s := by
  unfold walk at h
  extract_lets t s2 done at h
  have hdone {e : TlbEnt} {l1 l2 : Option Leaf} (hd : done e l1 l2 = .ok k) : Aside s k.s := by
    simp only [done] at hd
    split at hd
    · exact absurd hd nofun
    · rename_i k' hk'
      split at hd
      · exact Except.ok.inj hd ▸ useEnt_state hk' ▸ entId_aside s e
      · split at hd
        · rename_i u hu
          obtain ⟨v, hv, hu⟩ := Option.bind_eq_some_iff.mp hu
          exact Except.ok.inj hd ▸ (entId_aside s e).trans ((setPteBits_aside hv).trans ((setPteBits_aside hu).trans (cacheEnt_aside u c _)))
        · exact absurd hd nofun
  clear_value done
  split at h
  · have h := ok_of_check h
    split at h
    · exact absurd h nofun
    · exact hdone (ok_of_check h)
  · split at h
    · exact absurd h nofun
    · have h := ok_of_check h
      simp only at h
      split at h
      · exact hdone h
      · split at h
        · exact absurd h nofun
        · exact hdone (ok_of_check h)

theorem translate_aside {s : State} {c : XCtx} {va : Word} {r w x touch : Bool} {k : XOk} (h : translate s c va r w x touch = .ok k) :
    Aside s k.s := by
  unfold translate at h
  have h := ok_of_check h
  split at h
  · split at h
    · split at h
      · exact Except.ok.inj (ok_of_check (ok_of_check h)) ▸ .refl s
      · exact absurd h nofun
    · exact absurd h nofun
  · split at h
    · exact Except.ok.inj (ok_of_check h) ▸ .refl s
    · simp only at h
      split at h
      · split at h
        · rw [useEnt_state h]
          exact .refl s
        · exact walk_aside h
      · split at h
        · rename_i hw
          exact Except.ok.inj h ▸ walk_aside hw
        · exact absurd (ok_of_check h) nofun

/-- The checks of an access. -/
theorem checkAccess_aside {s : State} {va : Word} {n : Nat} {r w : Bool} {k : XOk} (h : checkAccess s va n r w = .ok k) : Aside s k.s := by
  unfold checkAccess at h
  have h := ok_of_check h
  split at h
  · split at h
    · rename_i hk
      unfold translateFw at hk
      split at hk
      · exact Except.ok.inj h ▸ Except.ok.inj hk ▸ .refl s
      · exact absurd hk nofun
    · exact absurd h nofun
  · split at h
    · exact absurd h nofun
    · rename_i hk
      exact Except.ok.inj (ok_of_check (ok_of_check (ok_of_check h))) ▸ translate_aside hk

/-! ## The checks of vector loads and stores -/

theorem loadElems_aside (mode : LeaseMode) (us : List VUnit) : ∀ r : LRes, Aside r.s (loadElems mode us r).s := by
  induction us with
  | nil => exact fun r => .refl r.s
  | cons u us ih =>
    intro r
    unfold loadElems
    split
    · rename_i k hk
      exact (checkAccess_aside hk).trans (ih { r with s := k.s, got := r.got ++ [(u, some k.loc)] })
    · split
      · exact ih { r with got := r.got ++ [(u, none)] }
      · exact .refl r.s
      · exact .refl r.s

theorem loadSide_aside (us : List (Bool × Nat × Word)) : ∀ r : LRes, Aside r.s (loadSide us r).s := by
  induction us with
  | nil => exact fun r => .refl r.s
  | cons u us ih =>
    intro r
    obtain ⟨sp, k, va⟩ := u
    unfold loadSide
    split
    · exact .refl r.s
    · split
      · rename_i x hx
        exact (checkAccess_aside hx).trans (ih { r with s := x.s, side := r.side ++ [(sp, k, x.loc)] })
      · exact .refl r.s

/-- What the checks of a store make of its first unit: they stop there, or go on with it as a remote element or a local one. -/
theorem storeElems_cons (adds : Bool) (u : SUnit) (us : List SUnit) (r : SRes) :
    (∃ e, storeElems adds (u :: us) r = { r with stop := some (u.el, u.va, e) }) ∨
    ∃ k, checkAccess r.s u.va u.data.length false true = .ok k ∧
      ((∃ x, storeElems adds (u :: us) r = storeElems adds us { r with s := k.s, rem := r.rem ++ [x] }) ∨
       storeElems adds (u :: us) r = storeElems adds us { r with s := k.s, loc := r.loc ++ [(k.loc, u.data, u.mask, u.src)] }) := by
  rw [storeElems]
  split
  · exact .inl ⟨_, rfl⟩
  · rename_i k hk
    simp only
    split
    · exact .inl ⟨_, rfl⟩
    · split
      · split
        · exact .inl ⟨_, rfl⟩
        · exact .inr ⟨k, hk, .inl ⟨_, rfl⟩⟩
      · split
        · exact .inl ⟨_, rfl⟩
        · exact .inr ⟨k, hk, .inr rfl⟩

theorem storeElems_aside (adds : Bool) (us : List SUnit) : ∀ r : SRes, Aside r.s (storeElems adds us r).s := by
  induction us with
  | nil => exact fun r => .refl r.s
  | cons u us ih =>
    intro r
    rcases storeElems_cons adds u us r with ⟨e, h⟩ | ⟨k, hk, ⟨x, h⟩ | h⟩
    · rw [h]
      exact .refl r.s
    · rw [h]
      exact (checkAccess_aside hk).trans (ih { r with s := k.s, rem := r.rem ++ [x] })
    · rw [h]
      exact (checkAccess_aside hk).trans (ih { r with s := k.s, loc := r.loc ++ [(k.loc, u.data, u.mask, u.src)] })

/-- A store whose checks all pass has an element for each unit. -/
theorem storeElems_length (adds : Bool) (us : List SUnit) : ∀ r : SRes, (storeElems adds us r).stop = none →
    (storeElems adds us r).loc.length + (storeElems adds us r).rem.length = r.loc.length + r.rem.length + us.length := by
  induction us with
  | nil => exact fun r _ => rfl
  | cons u us ih =>
    intro r hs
    rcases storeElems_cons adds u us r with ⟨e, h⟩ | ⟨k, _, ⟨x, h⟩ | h⟩
    · rw [h] at hs
      exact absurd hs nofun
    · rw [h] at hs ⊢
      simp only [ih _ hs, List.length_append, List.length_cons, List.length_nil]
      omega
    · rw [h] at hs ⊢
      simp only [ih _ hs, List.length_append, List.length_cons, List.length_nil]
      omega

/-- What a local element still waits for is what its unit waited for. -/
theorem storeElems_src {adds : Bool} {p : Option ESrc → Prop} {us : List SUnit} (hus : ∀ u ∈ us, p u.src) :
    ∀ {r : SRes}, (∀ x ∈ r.loc, p x.2.2.2) → ∀ x ∈ (storeElems adds us r).loc, p x.2.2.2 := by
  induction us with
  | nil => exact fun h => h
  | cons u us ih =>
    intro r hr
    have ih {r : SRes} := ih (fun v hv => hus v (List.mem_cons_of_mem u hv)) (r := r)
    rcases storeElems_cons adds u us r with ⟨e, h⟩ | ⟨k, _, ⟨x, h⟩ | h⟩
    · rw [h]
      exact hr
    · rw [h]
      exact ih hr
    · rw [h]
      refine ih (List.forall_mem_append.mpr ⟨hr, ?_⟩)
      simp only [List.forall_mem_singleton]
      exact hus u (List.mem_cons_self ..)

end Sys2Proof.Machine
end

section
/-! Sparse registers (R222 to R231): the merge of two ascending lists, moves between dense and sparse, and register images. -/

namespace Sys2Proof.Machine

/-! ## combine (R227) -/

/-- The coordinates of a list of pairs ascend. -/
def Ascends {α : Type} (xs : List (BitVec 32 × α)) : Prop := (xs.map (·.1.toNat)).Pairwise (· < ·)

theorem ascends_cons {α : Type} {x : BitVec 32 × α} {xs : List (BitVec 32 × α)} :
    Ascends (x :: xs) ↔ (∀ y ∈ xs, x.1.toNat < y.1.toNat) ∧ Ascends xs := by
  unfold Ascends
  rw [List.map_cons, List.pairwise_cons, List.forall_mem_map]

/-- A coordinate below all of a list has no pair in it. -/
theorem not_mem_of_below {α : Type} {c : BitVec 32} {xs : List (BitVec 32 × α)} (h : ∀ y ∈ xs, c.toNat < y.1.toNat) (p : α) : (c, p) ∉ xs :=
  fun hm => Nat.lt_irrefl _ (h _ hm)

/-- The value v that the combination of two lists has at coordinate c. -/
def Combined (op : Nat → Nat → FRes) (union : Bool) (as bs : List (BitVec 32 × BitVec 32)) (c : BitVec 32) (v : Nat) : Prop :=
  (∃ p q, (c, p) ∈ as ∧ (c, q) ∈ bs ∧ v = (op p.toNat q.toNat).1) ∨
  (union = true ∧ ((∃ p, (c, p) ∈ as ∧ (∀ q, (c, q) ∉ bs) ∧ v = p.toNat) ∨ (∃ q, (c, q) ∈ bs ∧ (∀ p, (c, p) ∉ as) ∧ v = q.toNat)))

section
variable {op : Nat → Nat → FRes} {union : Bool} {as bs : List (BitVec 32 × BitVec 32)} {x c p q : BitVec 32} {v : Nat}
  (ha : ∀ p, (x, p) ∉ as) (hb : ∀ q, (x, q) ∉ bs)
include ha hb

/-- A coordinate of the first list alone. -/
theorem combined_left :
    Combined op union ((x, p) :: as) bs c v ↔ (union = true ∧ c = x ∧ v = p.toNat) ∨ Combined op union as bs c v := by
  by_cases hc : c = x
  · subst hc
    simp [Combined, ha, hb]
  · simp [Combined, hc]

/-- A coordinate of the second list alone. -/
theorem combined_right :
    Combined op union as ((x, q) :: bs) c v ↔ (union = true ∧ c = x ∧ v = q.toNat) ∨ Combined op union as bs c v := by
  by_cases hc : c = x
  · subst hc
    simp [Combined, ha, hb]
  · simp [Combined, hc]

/-- A coordinate of both lists. -/
theorem combined_both :
    Combined op union ((x, p) :: as) ((x, q) :: bs) c v ↔ (c = x ∧ v = (op p.toNat q.toNat).1) ∨ Combined op union as bs c v := by
  by_cases hc : c = x
  · subst hc
    simp [Combined, ha, hb]
  · simp [Combined, hc]

end

section
variable (op : Nat → Nat → FRes) (union : Bool)

theorem svMerge_nil_left (n : Nat) (bs : List (BitVec 32 × BitVec 32)) :
    (svMerge op union (n + 1) [] bs).1 = if union then bs.map (fun p => (p.1, p.2.toNat)) else [] := by simp only [svMerge]

theorem svMerge_nil_right (n : Nat) (as : List (BitVec 32 × BitVec 32)) :
    (svMerge op union (n + 1) as []).1 = if union then as.map (fun p => (p.1, p.2.toNat)) else [] := by
  cases as <;> simp only [svMerge, List.map_nil, ite_self]

theorem mem_svMerge {n : Nat} {as bs : List (BitVec 32 × BitVec 32)} (hn : as.length + bs.length < n) (ha : Ascends as) (hb : Ascends bs)
    (c : BitVec 32) (v : Nat) : (c, v) ∈ (svMerge op union n as bs).1 ↔ Combined op union as bs c v := by
  induction n generalizing as bs with
  | zero => exact absurd hn (Nat.not_lt_zero _)
  | succ n ih =>
    match as, bs with
    | [], bs =>
      rw [svMerge_nil_left]
      cases union <;> simp [Combined, eq_comm]
    | as, [] =>
      rw [svMerge_nil_right]
      cases union <;> simp [Combined, eq_comm]
    | (x, p) :: as, (y, q) :: bs =>
      rw [List.length_cons, List.length_cons] at hn
      obtain ⟨hax, has⟩ := ascends_cons.mp ha
      obtain ⟨hbx, hbs⟩ := ascends_cons.mp hb
      unfold svMerge
      by_cases he : x = y
      · subst he
        simp only [beq_self_eq_true, if_true, List.mem_cons, Prod.mk.injEq, ih (by omega) has hbs]
        exact (combined_both (not_mem_of_below hax) (not_mem_of_below hbx)).symm
      · simp only [beq_iff_eq, he, if_false]
        by_cases hl : x.toNat < y.toNat
        · have hxb : ∀ z ∈ (y, q) :: bs, x.toNat < z.1.toNat := List.forall_mem_cons.mpr ⟨hl, fun z hz => hl.trans (hbx z hz)⟩
          have hi := ih (as := as) (bs := (y, q) :: bs) (by rw [List.length_cons]; omega) has hb
          rw [if_pos hl, combined_left (not_mem_of_below hax) (not_mem_of_below hxb), ← hi]
          cases union <;> simp
        · have hl : y.toNat < x.toNat := Nat.lt_of_le_of_ne (Nat.not_lt.mp hl) fun e => he (BitVec.eq_of_toNat_eq e.symm)
          have hya : ∀ z ∈ (x, p) :: as, y.toNat < z.1.toNat := List.forall_mem_cons.mpr ⟨hl, fun z hz => hl.trans (hax z hz)⟩
          have hi := ih (as := (x, p) :: as) (bs := bs) (by rw [List.length_cons]; omega) ha hbs
          rw [if_neg (by assumption), combined_right (not_mem_of_below hya) (not_mem_of_below hbx), ← hi]
          cases union <;> simp

/-- A coordinate below both lists is below their combination. -/
theorem below_svMerge {n : Nat} {as bs : List (BitVec 32 × BitVec 32)} (hn : as.length + bs.length < n) (ha : Ascends as) (hb : Ascends bs)
    {x : BitVec 32} (hx : ∀ z ∈ as, x.toNat < z.1.toNat) (hy : ∀ z ∈ bs, x.toNat < z.1.toNat) :
    ∀ z ∈ (svMerge op union n as bs).1, x.toNat < z.1.toNat := by
  rintro ⟨c, v⟩ hz
  rcases (mem_svMerge op union hn ha hb c v).mp hz with ⟨p, q, hp, _, _⟩ | ⟨_, ⟨p, hp, _, _⟩ | ⟨q, hq, _, _⟩⟩
  · exact hx _ hp
  · exact hx _ hp
  · exact hy _ hq

theorem ascends_svMerge {n : Nat} {as bs : List (BitVec 32 × BitVec 32)} (hn : as.length + bs.length < n) (ha : Ascends as) (hb : Ascends bs) :
    Ascends (svMerge op union n as bs).1 := by
  have one (xs : List (BitVec 32 × BitVec 32)) (h : Ascends xs) : Ascends (if union then xs.map (fun p => (p.1, p.2.toNat)) else []) := by
    cases union with
    | false => exact List.Pairwise.nil
    | true =>
      unfold Ascends
      rw [if_pos rfl, List.map_map]
      exact h
  induction n generalizing as bs with
  | zero => exact absurd hn (Nat.not_lt_zero _)
  | succ n ih =>
    match as, bs with
    | [], bs =>
      rw [svMerge_nil_left]
      exact one bs hb
    | as, [] =>
      rw [svMerge_nil_right]
      exact one as ha
    | (x, p) :: as, (y, q) :: bs =>
      rw [List.length_cons, List.length_cons] at hn
      obtain ⟨hax, has⟩ := ascends_cons.mp ha
      obtain ⟨hbx, hbs⟩ := ascends_cons.mp hb
      unfold svMerge
      by_cases he : x = y
      · subst he
        simp only [beq_self_eq_true, if_true]
        exact ascends_cons.mpr ⟨below_svMerge op union (by omega) has hbs hax hbx, ih (by omega) has hbs⟩
      · simp only [beq_iff_eq, he, if_false]
        by_cases hl : x.toNat < y.toNat
        · have hxb : ∀ z ∈ (y, q) :: bs, x.toNat < z.1.toNat := List.forall_mem_cons.mpr ⟨hl, fun z hz => hl.trans (hbx z hz)⟩
          have hlen : as.length + ((y, q) :: bs).length < n := by rw [List.length_cons]; omega
          rw [if_pos hl]
          cases union with
          | false => exact ih hlen has hb
          | true => exact ascends_cons.mpr ⟨below_svMerge op true hlen has hb hax hxb, ih hlen has hb⟩
        · have hl' : y.toNat < x.toNat := Nat.lt_of_le_of_ne (Nat.not_lt.mp hl) fun e => he (BitVec.eq_of_toNat_eq e.symm)
          have hya : ∀ z ∈ (x, p) :: as, y.toNat < z.1.toNat := List.forall_mem_cons.mpr ⟨hl', fun z hz => hl'.trans (hax z hz)⟩
          have hlen : ((x, p) :: as).length + bs.length < n := by rw [List.length_cons]; omega
          rw [if_neg hl]
          cases union with
          | false => exact ih hlen ha hbs
          | true => exact ascends_cons.mpr ⟨below_svMerge op true hlen ha hbs hya hbx, ih hlen ha hbs⟩

end

/-! ## The instructions on clean registers -/

theorem needSv_of_clean {s : State} (rs : List SvReg) (k : Out) (h : s.cpu.regs.svPoison = 0) : needSv s rs k = k := by
  unfold needSv
  rw [if_pos h]

/-- The pairs of a union or an intersection. -/
def combinedPairs (s : State) (union : Bool) (x y : SvVal) : List (BitVec 32 × BitVec 32) :=
  (svMerge (svOp s (!union) x.tag.toNat) union (x.pairs.length + y.pairs.length + 1) x.pairs y.pairs).1.map
    (fun p => (p.1, svSlot x.tag.toNat p.2))

theorem ascends_combinedPairs (s : State) (union : Bool) {x y : SvVal} (hx : Ascends x.pairs) (hy : Ascends y.pairs) :
    Ascends (combinedPairs s union x y) := by
  have := ascends_svMerge (svOp s (!union) x.tag.toNat) union (Nat.lt_succ_self _) hx hy
  unfold Ascends combinedPairs
  rw [List.map_map]
  exact this

theorem mem_combinedPairs (s : State) (union : Bool) {x y : SvVal} (hx : Ascends x.pairs) (hy : Ascends y.pairs) (c v : BitVec 32) :
    (c, v) ∈ combinedPairs s union x y ↔ ∃ u, Combined (svOp s (!union) x.tag.toNat) union x.pairs y.pairs c u ∧ v = svSlot x.tag.toNat u := by
  unfold combinedPairs
  rw [List.mem_map]
  constructor
  · rintro ⟨⟨c', u⟩, hm, he⟩
    obtain ⟨rfl, rfl⟩ := Prod.mk.inj he
    exact ⟨u, (mem_svMerge _ _ (Nat.lt_succ_self _) hx hy _ _).mp hm, rfl⟩
  · rintro ⟨u, hu, rfl⟩
    exact ⟨(c, u), (mem_svMerge _ _ (Nat.lt_succ_self _) hx hy _ _).mpr hu, rfl⟩

/-- The union or intersection of clean registers of one format. -/
theorem svCombine_of_clean {s : State} (word : Nat) (union : Bool) {d a b : SvReg} (ht : isTask s = true) (hp : s.cpu.regs.svPoison = 0)
    (htag : (svreg s a).tag = (svreg s b).tag) : ∃ fl, svCombine s word union d a b = .next (vdone (setSv (accrue s fl) d
      (svResult (svreg s a).tag.toNat (combinedPairs s union (svreg s a) (svreg s b)) (svStops (svreg s a) ++ svStops (svreg s b)))) []) := by
  refine ⟨_, (taskOnly_of_isTask _ _ ht).trans ((needSv_of_clean _ _ hp).trans (if_neg ?_))⟩
  rw [htag]
  simp

/-- A value of a sparse register times a scalar. -/
def scaled (s : State) (x : SvVal) (y : Word) (p : BitVec 32 × BitVec 32) : FRes :=
  svOp s true x.tag.toNat p.2.toNat (y.toNat % 2 ^ fmtWidth x.tag.toNat)

/-- `svscale`: each pair's value times the scalar. -/
theorem execSvscale_of_clean {s : State} {d a : SvReg} {b : SReg} {y : Word} (ht : isTask s = true) (hp : s.cpu.regs.svPoison = 0)
    (hr : readable s [b] none = some [y]) : let x := svreg s a
    execSvscale d a b s = .next (vdone (setSv (accrue s (x.pairs.foldl (fun f p => f ||| (scaled s x y p).2) 0)) d
      { x with pairs := x.pairs.map (fun p => (p.1, svSlot x.tag.toNat (scaled s x y p).1)) }) [.s b]) := by
  intro x
  refine (taskOnly_of_isTask _ _ ht).trans ((readS_of_readable _ _ hr).trans ((needSv_of_clean _ _ hp).trans ?_))
  simp only [List.map_map, List.foldl_map]
  rfl

/-- `svcomp`: the active elements that are not zero. -/
theorem execSvcomp_of_quiet {s : State} {d : SvReg} {a : VReg} {vs : List SVal} (hq : quietOps s [.v a] .none true = some vs)
    (hf : isSvFmt (etOf s) = true) (ha : (vecAt vs 0).fmt = etOf s) (hn : vlOf s ≤ vlmax (wOf s)) (h0 : 0 < vlOf s) :
    execSvcomp d a s = .next (vdone (setSv s d (svResult (etOf s) (((activeFrom s (wOf s) 0 (vlOf s)).filter (fun i =>
      svNonzero (etOf s) ((vecAt vs 0).el (wOf s) i))).map (fun i =>
        (BitVec.ofNat 32 i, svSlot (etOf s) ((vecAt vs 0).el (wOf s) i)))) [])) [.v a]) := by
  obtain ⟨_, hm, _, hv⟩ := quietOps_spec hq
  refine (whole_of_quiet _ _ hq).trans ((fmtGate_of_fits _ hf ?_ ?_).trans ((needV_of_quiet _ ?_).trans ((needM_of_clean _ _ hm).trans ?_)))
  · simp only [List.forall_mem_singleton]
    exact ha
  · simp only [List.forall_mem_singleton]
    exact hn
  · simp only [List.forall_mem_singleton]
    exact ⟨vecAt_quiet hv 0, fun _ => groupsOf_lt⟩
  · exact if_neg (by simpa using h0.ne')

/-- `svexp`: the pair of each active element, or zero. -/
theorem execSvexp_of_clean {s : State} {d : VReg} {a : SvReg} (hq : quietOps s [] (.v d) true = some []) (hp : s.cpu.regs.svPoison = 0)
    (htag : (svreg s a).tag.toNat = etOf s) (hn : vlOf s ≤ vlmax (wOf s)) (h0 : 0 < vlOf s) (hfree : destFree s d = true) :
    execSvexp d a s = .next (vdone (putV (accrue s 0) d (wOf s) (etOf s) ((activeFrom s (wOf s) 0 (vlOf s)).map (fun i =>
      (i, (match (svreg s a).pairs.find? (fun p => p.1.toNat == i) with | some p => p.2.toNat % 2 ^ wOf s | none => 0), pPresent)))
      noSide) []) := by
  obtain ⟨_, hm, _, _⟩ := quietOps_spec hq
  refine (whole_of_quiet _ _ hq).trans ((if_neg (by simp [htag])).trans ((fmtGate_of_fits _ rfl (by simp) ?_).trans
    ((needSv_of_clean _ _ hp).trans ((needM_of_clean _ _ hm).trans (writeVl_of_destFree hfree (.inl h0) ..)))))
  simp only [List.forall_mem_singleton]
  exact hn

theorem execSvlen_of_clean {s : State} {d : SReg} {a : SvReg} (ht : isTask s = true) (hp : s.cpu.regs.svPoison = 0)
    (hr : readable s [] (some d) = some []) : execSvlen d a s = .next (vdone (writeS s d (svStatus (svreg s a))) []) :=
  (taskOnly_of_isTask _ _ ht).trans ((readS_of_readable _ _ hr).trans (needSv_of_clean _ _ hp))

/-! ## Register images (R226) -/

theorem length_svWords {va : Word} {is : List Nat} : ∀ {s t : State} {ls : List Loc}, svWords va is s = .ok (ls, t) → ls.length = is.length := by
  induction is with
  | nil =>
    intro s t ls h
    obtain ⟨rfl, _⟩ := Prod.mk.inj (Except.ok.inj h)
    rfl
  | cons i is ih =>
    intro s t ls h
    simp only [svWords] at h
    split at h
    · exact absurd h nofun
    · split at h
      · exact absurd h nofun
      · rename_i hw
        obtain ⟨rfl, _⟩ := Prod.mk.inj (Except.ok.inj h)
        rw [List.length_cons, List.length_cons, ih hw]

/-- The image that `svld` begins to read: its checks have passed, its words are to come. -/
def begunLoad (va h : Word) (n : Nat) (ls : List Loc) : SvLoad :=
  { va := va, hdr := h, bits := 0, bad := none, pend := ls.mapIdx (fun i l => freshRead .bits (32 * i) 32 l 0 n) }

/-- Word i of an image that has been read. -/
def SvLoad.word (x : SvLoad) (i : Nat) : Nat := x.bits.toNat / 2 ^ (32 * i) % 2 ^ 32

/-- The coordinates of the image. -/
def SvLoad.coords (x : SvLoad) : List Nat := (List.range (x.hdr.toNat % 512)).map x.word

theorem SvLoad.getD_coords (x : SvLoad) {i : Nat} (h : i < x.hdr.toNat % 512) : x.coords.getD i 0 = x.word i := by
  unfold SvLoad.coords
  rw [List.getD_eq_getElem _ _ (by simpa using h)]
  simp

/-- The value of a register whose image has been read. -/
def SvLoad.value (x : SvLoad) : SvVal :=
  { pairs := (List.range (x.hdr.toNat % 512)).map (fun i =>
      (BitVec.ofNat 32 (x.word i), svSlot (x.hdr.toNat / 2 ^ 16 % 64) (x.word (x.hdr.toNat % 512 + i)))),
    tag := BitVec.ofNat 6 (x.hdr.toNat / 2 ^ 16 % 64), ov := x.hdr.getLsbD 15, stop := BitVec.ofNat 32 (x.hdr.toNat / 2 ^ 32) }

/-- What an image that has arrived becomes (R226, R435). -/
theorem svldDone_eq (s : State) (d : SvReg) (a : SReg) (x : SvLoad) :
    let z := s.withMem (fun m => { m with sv := none })
    svldDone s d a x = match x.bad, svDescends x.coords with
      | some k, _ => trap z Cause.ecc (x.va + BitVec.ofNat 64 (8 + 4 * k))
      | none, some i => fmtTrap z (0x10000 + i)
      | none, none => .next (vdone (setSv z d x.value) [.s a]) := by
  intro z
  have hn : bitsOf x.hdr 8 0 = x.hdr.toNat % 512 := bitsOf_low x.hdr 8
  have hstop : bitsOf x.hdr 63 32 = x.hdr.toNat / 2 ^ 32 := Nat.mod_eq_of_lt (by have := x.hdr.isLt; omega)
  have hps : (x.coords.mapIdx fun i c => (BitVec.ofNat 32 c, svSlot (x.hdr.toNat / 2 ^ 16 % 64) (x.word (x.hdr.toNat % 512 + i)))) =
      x.value.pairs := List.ext_getElem (by simp [SvLoad.coords, SvLoad.value]) (by simp [SvLoad.coords, SvLoad.value])
  have key : svldDone s d a x = match x.bad, svDescends x.coords with
      | some k, _ => trap z Cause.ecc (x.va + BitVec.ofNat 64 (8 + 4 * k))
      | none, some i => fmtTrap z (0x10000 + i)
      | none, none => .next (vdone (setSv z d { x.value with pairs := x.coords.mapIdx fun i c =>
          (BitVec.ofNat 32 c, svSlot (x.hdr.toNat / 2 ^ 16 % 64) (x.word (x.hdr.toNat % 512 + i))) }) [.s a]) := by
    unfold svldDone
    rw [hn, hstop]
    rfl
  rw [key, hps]

/-- Coordinates that ascend. -/
theorem svDescends_of_ascends {cs : List Nat} (h : ∀ i, i < cs.length → i = 0 ∨ cs.getD (i - 1) 0 < cs.getD i 0) : svDescends cs = none := by
  unfold svDescends
  rw [List.find?_eq_none]
  intro i hi
  have := h i (List.mem_range.mp hi)
  simp only [Bool.and_eq_true, decide_eq_true_eq]
  omega

/-- The lowest coordinate that does not. -/
theorem svDescends_of_lowest {cs : List Nat} {i : Nat} (hi : i < cs.length) (h0 : 0 < i) (hd : cs.getD i 0 ≤ cs.getD (i - 1) 0)
    (hl : ∀ j, 0 < j → j < i → cs.getD (j - 1) 0 < cs.getD j 0) : svDescends cs = some i := by
  unfold svDescends
  rw [List.find?_range_eq_some]
  refine ⟨by rw [decide_eq_true h0, decide_eq_true hd]; rfl, List.mem_range.mpr hi, fun j hj => ?_⟩
  have := hl j
  simp only [Bool.not_eq_true', Bool.and_eq_false_iff, decide_eq_false_iff_not]
  omega

/-- An image with pairs has words to read. -/
theorem begunLoad_waits {va h : Word} {n : Nat} {v u : State} {ls : List Loc} (h0 : 0 < h.toNat % 512)
    (hw : svWords va (List.range (2 * (h.toNat % 512))) v = .ok (ls, u)) : (begunLoad va h n ls).pend.isEmpty = false := by
  have hl := length_svWords hw
  rw [List.length_range] at hl
  cases ls with
  | nil =>
    rw [List.length_nil] at hl
    omega
  | cons l ls => simp [begunLoad]

/-- The header of an image, as the state that has read it holds it. -/
def imageHeader (k : XOk) : Word := BitVec.ofNat 64 (leNat (vectorBytes k.s.fresh.2 k.s.fresh.2.cpu k.s.dev.nextUid k.loc 8))

section
variable {s : State} {d : SvReg} {a : SReg} {va : Word} (ht : isTask s = true) (hr : readable s [a] none = some [va])
include ht hr

/-- `svld` with no image in progress, once its header can be read and is not poisoned (R226). -/
theorem execSvld_of_header {k : XOk} (hsv : s.cpu.mem.sv = none) (hk : checkAccess s va 8 true false = .ok k)
    (hold : olderRead k.s k.s.cpu [] 0 (probeRead k.loc 8 k.s.dev.nextUid) = false)
    (hclean : poisonedVec k.s k.s.cpu k.s.dev.nextUid k.loc 8 = false) :
    execSvld d a s = if svBadHeader (imageHeader k) = true then fmtTrap s 0x3B
      else match svWords va (List.range (2 * ((imageHeader k).toNat % 512))) k.s.fresh.2 with
        | .error (a, e) => stopAt s a e
        | .ok (ls, u) =>
          let x := begunLoad va (imageHeader k) k.s.dev.nextUid ls
          if x.pend.isEmpty then svldDone u d a x else .next ((u.withMem (fun m => { m with sv := some x })).waitFor (.svld d a)) := by
  have hb : bitsOf (imageHeader k) 8 0 = (imageHeader k).toNat % 512 := bitsOf_low _ 8
  refine (taskOnly_of_isTask _ _ ht).trans ((readS_of_readable _ _ hr).trans ?_)
  simp only [hsv]
  split
  · rename_i he
    exact absurd he nofun
  · change (match checkAccess s va 8 true false with | .error e => _ | .ok k => _) = _
    rw [hk]
    change (if olderRead k.s k.s.cpu [] 0 (probeRead k.loc 8 k.s.dev.nextUid) = true then _ else
      if poisonedVec k.s k.s.cpu k.s.dev.nextUid k.loc 8 = true then _ else _) = _
    rw [hold, hclean, ← hb]
    rfl

theorem execSvld_of_badHeader {k : XOk} (hsv : s.cpu.mem.sv = none) (hk : checkAccess s va 8 true false = .ok k)
    (hold : olderRead k.s k.s.cpu [] 0 (probeRead k.loc 8 k.s.dev.nextUid) = false)
    (hclean : poisonedVec k.s k.s.cpu k.s.dev.nextUid k.loc 8 = false) (hb : svBadHeader (imageHeader k) = true) :
    execSvld d a s = fmtTrap s 0x3B :=
  (execSvld_of_header ht hr hsv hk hold hclean).trans (if_pos hb)

theorem execSvld_waits {k : XOk} {ls : List Loc} {u : State} (hsv : s.cpu.mem.sv = none) (hk : checkAccess s va 8 true false = .ok k)
    (hold : olderRead k.s k.s.cpu [] 0 (probeRead k.loc 8 k.s.dev.nextUid) = false)
    (hclean : poisonedVec k.s k.s.cpu k.s.dev.nextUid k.loc 8 = false) (hb : svBadHeader (imageHeader k) = false)
    (h0 : 0 < (imageHeader k).toNat % 512) (hw : svWords va (List.range (2 * ((imageHeader k).toNat % 512))) k.s.fresh.2 = .ok (ls, u)) :
    execSvld d a s = .next ((u.withMem (fun m => { m with sv := some (begunLoad va (imageHeader k) k.s.dev.nextUid ls) })).waitFor
      (.svld d a)) := by
  rw [execSvld_of_header ht hr hsv hk hold hclean, hb, hw]
  exact if_neg (Bool.eq_false_iff.mp (begunLoad_waits h0 hw))

end

/-- Forgetting reads made early changes those alone. -/
theorem forget_eq (m : MemSt) (p : EarlyRd → Bool) : ∃ es, m.forget p = { m with early := es } := by
  unfold MemSt.forget
  split
  · exact ⟨m.early, rfl⟩
  · exact ⟨_, rfl⟩

theorem readAnewUnits_eq (s : State) (ls : List (Loc × Nat)) :
    ∃ es, readAnewUnits s ls = s.withMem (fun m => { m with early := es }) := by
  unfold readAnewUnits
  split
  · exact ⟨s.cpu.mem.early, rfl⟩
  · refine List.foldlRecOn (motive := fun t => ∃ es, t = s.withMem (fun m => { m with early := es })) ls _ ⟨s.cpu.mem.early, rfl⟩ ?_
    rintro t ⟨es, rfl⟩ l -
    obtain ⟨fs, hf⟩ := forget_eq { s.cpu.mem with early := es } (fun e => e.vec == true && overlaps l.1 l.2 e.loc e.n)
    refine ⟨fs, ?_⟩
    change State.withMem s (fun m => MemSt.forget { s.cpu.mem with early := es } _) = _
    rw [hf]
    rfl

/-- `svld` once its image has been read (R226). -/
theorem execSvld_of_arrived {s : State} {d e : SvReg} {a c : SReg} {va : Word} {x : SvLoad} (ht : isTask s = true)
    (hr : readable s [a] none = some [va]) (hw : s.cpu.wait = some (.svld e c)) (hx : s.cpu.mem.sv = some x) (hp : x.pend = []) :
    execSvld d a s = svldDone s d a x := by
  refine (taskOnly_of_isTask _ _ ht).trans ((readS_of_readable _ _ hr).trans ?_)
  simp only [hw, hx, hp]
  rfl

theorem svUnits_src {va : Word} {v : SvVal} : ∀ u ∈ svUnits va v, u.src = none := by
  unfold svUnits
  simp only [List.forall_mem_cons, List.forall_mem_append, List.mem_mapIdx]
  refine ⟨trivial, ?_, ?_⟩
  · rintro u ⟨i, h, rfl⟩
    rfl
  · rintro u ⟨i, h, rfl⟩
    rfl

/-- An ordered train of stores. -/
def storeTrain (id : Nat) (xs : List (Loc × List Byte × List Byte × Option ESrc)) : Train :=
  { id := id, ordered := true, prior := none, elems := xs.mapIdx (fun n x => ⟨n, x.1, x.2.1, x.2.2.1, false, .store, none, false⟩) }

/-- The state in which an ordered train of stores has been added. -/
theorem newTrain_state (s : State) {xs : List (Loc × List Byte × List Byte × Option ESrc)} (hx : xs ≠ []) :
    ∃ es, (newTrain s xs).1 = s.fresh.2.withMem (fun m => { m with early := es, trains := m.trains ++ [storeTrain (newTrain s xs).2 xs] }) := by
  obtain ⟨es, he⟩ := readAnewUnits_eq s (xs.map (fun x => (x.1, x.2.1.length)))
  refine ⟨es, ?_⟩
  have hn : xs.isEmpty = false := by simpa using hx
  unfold newTrain
  simp only [he, hn]
  rfl

theorem newTrain_ctl (s : State) {xs : List (Loc × List Byte × List Byte × Option ESrc)} (hx : xs ≠ []) :
    (closeTrains (newTrain s xs).1).cpu.ctl = s.cpu.ctl := by
  obtain ⟨es, he⟩ := newTrain_state s hx
  rw [he]
  rfl

theorem newTrain_trains (s : State) {xs : List (Loc × List Byte × List Byte × Option ESrc)} (hx : xs ≠ []) :
    (closeTrains (newTrain s xs).1).cpu.mem.trains = s.cpu.mem.trains ++ [storeTrain (newTrain s xs).2 xs] := by
  obtain ⟨es, he⟩ := newTrain_state s hx
  rw [he]
  rfl

/-- `svst` of a clean register, begun (R226). -/
theorem execSvst_begins {s : State} {d : SvReg} {a : SReg} {va : Word} (ht : isTask s = true) (hr : readable s [a] none = some [va])
    (hw : ∀ e c j, s.cpu.wait ≠ some (.svst e c j)) (hp : s.cpu.regs.svPoison = 0) :
    let r := storeElems false (svUnits va (svreg s d)) { s := s, loc := [], rem := [], stop := none }
    r.stop = none → r.rem = [] →
    execSvst d a s = .next ((closeTrains (newTrain r.s r.loc).1).waitFor (.svst d a (newTrain r.s r.loc).2)) := by
  intro r hs hm
  have h : execSvst d a s = needSv s [d] (if needsRoom r.s r.rem then .next (s.waitFor .trains) else
      match r.stop with
      | some (_, va, e) => stopAt (closeTrains (newTrain (addRemote r.s true none r.rem) r.loc).1) va e
      | none => .next ((closeTrains (newTrain (addRemote r.s true none r.rem) r.loc).1).waitFor
          (.svst d a (newTrain (addRemote r.s true none r.rem) r.loc).2))) := by
    refine (taskOnly_of_isTask _ _ ht).trans ((readS_of_readable _ _ hr).trans ?_)
    split
    · next e c j he => exact absurd he (hw e c j)
    · rfl
  rw [h, needSv_of_clean _ _ hp, hs, hm]
  rfl

/-- `svst` once its train has entered. -/
theorem execSvst_of_entered {s : State} {d e : SvReg} {a c : SReg} {va : Word} {id : Nat} (ht : isTask s = true)
    (hr : readable s [a] none = some [va]) (hw : s.cpu.wait = some (.svst e c id))
    (hg : s.cpu.mem.trains.all (fun t => t.id != id) = true) : execSvst d a s = .next (vdone s [.s a]) := by
  have hn : s.cpu.mem.trains.any (fun t => t.id == id) = false := by
    rw [List.any_eq_not_all_not, Bool.not_eq_false']
    exact hg
  refine (taskOnly_of_isTask _ _ ht).trans ((readS_of_readable _ _ hr).trans ?_)
  simp only [hw, hn]
  rfl

/-- The train that `svst` begins. -/
theorem execSvst_train {s : State} {d : SvReg} {a : SReg} {va : Word} (ht : isTask s = true) (hr : readable s [a] none = some [va])
    (hw : ∀ e c j, s.cpu.wait ≠ some (.svst e c j)) (hp : s.cpu.regs.svPoison = 0) :
    let r := storeElems false (svUnits va (svreg s d)) { s := s, loc := [], rem := [], stop := none }
    r.stop = none → r.rem = [] → ∃ (t : State) (y : Train), execSvst d a s = .next t ∧ t.cpu.wait = some (.svst d a y.id) ∧
      t.cpu.ctl = s.cpu.ctl ∧ t.cpu.mem.trains = s.cpu.mem.trains ++ [y] ∧ y.ordered = true ∧
      y.elems = r.loc.mapIdx (fun i x => ⟨i, x.1, x.2.1, x.2.2.1, false, .store, none, false⟩) := by
  intro r hs hm
  have hlen : r.loc.length + r.rem.length = 0 + (svUnits va (svreg s d)).length := storeElems_length _ _ _ hs
  have hne : r.loc ≠ [] := by
    intro he
    rw [he, hm] at hlen
    exact absurd hlen (by simp [svUnits])
  have hcpu : r.s.cpu = s.cpu := (storeElems_aside false (svUnits va (svreg s d)) ⟨s, [], [], none⟩).cpu
  refine ⟨_, storeTrain _ r.loc, execSvst_begins ht hr hw hp hs hm, rfl, (newTrain_ctl r.s hne).trans (congrArg Strand.ctl hcpu), ?_, rfl, rfl⟩
  exact (newTrain_trains r.s hne).trans (congrArg (fun c : Strand => c.mem.trains ++ _) hcpu)

/-- Settles O30: combine, the moves and `svlen` as whole instructions; `svld` from its header to its words, and `svst` through its train. -/
theorem sparseResults : Obligations.SparseResults := by
  unfold Obligations.SparseResults
  refine ⟨⟨?_, ?_, ?_, ?_, ?_⟩, ?_, ?_, ?_⟩
  · intro s d a b mul ht hp x y t ascending htag hx hy
    obtain ⟨fl, hc⟩ := svCombine_of_clean (encodeNat (if mul then .svmul d a b else .svadd d a b)) (!mul) (d := d) ht hp htag
    refine ⟨combinedPairs s (!mul) x y, fl, ?_, ascends_combinedPairs s (!mul) hx hy, fun c v => ?_⟩
    · cases mul <;> exact hc
    · rw [mem_combinedPairs s _ hx hy]
      unfold Combined
      rw [Bool.not_not, Bool.not_eq_true']
      constructor
      · rintro ⟨u, ⟨p, q, h1, h2, rfl⟩ | ⟨h, ⟨p, h1, h2, rfl⟩ | ⟨q, h1, h2, rfl⟩⟩, rfl⟩
        · exact .inl ⟨p, q, h1, h2, rfl⟩
        · exact .inr ⟨h, .inl ⟨p, h1, h2, rfl⟩⟩
        · exact .inr ⟨h, .inr ⟨q, h1, h2, rfl⟩⟩
      · rintro (⟨p, q, h1, h2, rfl⟩ | ⟨h, ⟨p, h1, h2, rfl⟩ | ⟨q, h1, h2, rfl⟩⟩)
        · exact ⟨_, .inl ⟨p, q, h1, h2, rfl⟩, rfl⟩
        · exact ⟨_, .inr ⟨h, .inl ⟨p, h1, h2, rfl⟩⟩, rfl⟩
        · exact ⟨_, .inr ⟨h, .inr ⟨q, h1, h2, rfl⟩⟩, rfl⟩
  · intro s d a b y ht hp hr
    exact ⟨_, execSvscale_of_clean ht hp hr⟩
  · intro s d a vs hq hf ha hn h0
    exact execSvcomp_of_quiet hq hf ha hn h0
  · intro s d a hq hp htag hn h0 hfree
    exact execSvexp_of_clean hq hp htag hn h0 hfree
  · intro s d a ht hp hr
    exact execSvlen_of_clean ht hp hr
  · intro s d a va k ls u ht hr hsv hk n hold hclean v h
    refine ⟨execSvld_of_badHeader ht hr hsv hk hold hclean, fun hb h0 hw => ?_⟩
    exact ⟨_, execSvld_waits ht hr hsv hk hold hclean hb h0 hw, rfl, rfl, rfl, rfl, begunLoad va h n ls, rfl, rfl, rfl⟩
  · intro s d e a c va x ht hr hw hx hp n word tag pairs z
    have he : exec (.svld d a) s = _ := (execSvld_of_arrived ht hr hw hx hp).trans (svldDone_eq s d a x)
    have hlen : x.coords.length = n := by simp [SvLoad.coords, n]
    refine ⟨fun i hb => ?_, fun hb hall => ?_, fun i hb h0 hi hd hl => ?_⟩
    · rw [he, hb]
      rfl
    · have hasc : svDescends x.coords = none := svDescends_of_ascends fun i hi => by
        rw [hlen] at hi
        rw [x.getD_coords hi, x.getD_coords (lt_of_le_of_lt (Nat.sub_le i 1) hi)]
        exact of_decide_eq_true (List.all_eq_true.mp hall i (List.mem_range.mpr hi))
      rw [he, hb, hasc]
      rfl
    · have hdesc : svDescends x.coords = some i := svDescends_of_lowest (hlen ▸ hi) h0
        (by rw [x.getD_coords hi, x.getD_coords (lt_of_le_of_lt (Nat.sub_le i 1) hi)]; exact hd)
        (fun j hj hji => by
          have hjn : j < n := hji.trans hi
          rw [x.getD_coords hjn, x.getD_coords (lt_of_le_of_lt (Nat.sub_le j 1) hjn)]
          exact hl j hj hji)
      rw [he, hb, hdesc]
      rfl
  · intro s d a va ht hr
    exact ⟨fun hw hp => execSvst_train ht hr hw hp, fun e c id hw hg => execSvst_of_entered ht hr hw hg⟩

end Sys2Proof.Machine
end

section
/-! Stores and scatters of registers (R169, R264 to R267, R281): quiet data is all taken at once, so the train that is added is the checks'. -/

namespace Sys2Proof.Machine

/-! ## Units -/

/-- The elements of some units are among the given ones. -/
def UnitsOf (js : List Nat) (us : List VUnit) : Prop := ∀ u ∈ us, ∀ i ∈ u.els, i ∈ js

theorem mem_byteGroups {w : Nat} {is : List Nat} : ∀ es ∈ byteGroups w is, ∀ i ∈ es, i ∈ is := by
  induction is with
  | nil => exact fun es h => absurd h List.not_mem_nil
  | cons x xs ih =>
    have tail {es : List Nat} (h : es ∈ byteGroups w xs) : ∀ i ∈ es, i ∈ x :: xs := fun i hi => List.mem_cons_of_mem x (ih es h i hi)
    intro es h
    rw [byteGroups] at h
    split at h
    · rename_i j js gs hg
      rw [hg] at tail
      split at h
      · rcases List.mem_cons.mp h with rfl | h
        · exact List.forall_mem_cons.mpr ⟨List.mem_cons_self, tail List.mem_cons_self⟩
        · exact tail (List.mem_cons_of_mem _ h)
      · rcases List.mem_cons.mp h with rfl | h
        · exact List.forall_mem_singleton.mpr List.mem_cons_self
        · exact tail h
    · rcases List.mem_cons.mp h with rfl | h
      · exact List.forall_mem_singleton.mpr List.mem_cons_self
      · exact tail h

/-- A unit for each element. -/
theorem unitsOf_map {js : List Nat} {f : Nat → VUnit} (h : ∀ i, (f i).els = [i]) : UnitsOf js (js.map f) := by
  intro u hu i hi
  obtain ⟨j, hj, rfl⟩ := List.mem_map.mp hu
  rw [h, List.mem_singleton] at hi
  exact hi ▸ hj

theorem unitsOf_unitsAt (base : Word) (w : Nat) (js : List Nat) : UnitsOf js (unitsAt base w js) := by
  unfold unitsAt
  split
  · exact unitsOf_map fun i => rfl
  · intro u hu
    obtain ⟨es, he, rfl⟩ := List.mem_map.mp hu
    exact mem_byteGroups es he

theorem unitsOf_unitsBy (base stride : Word) (w : Nat) (js : List Nat) : UnitsOf js (unitsBy base stride w js) := unitsOf_map fun _ => rfl

theorem unitsOf_unitsIdx (base : Word) (ix : VVal) (w : Nat) (js : List Nat) : UnitsOf js (unitsIdx base ix w js) := unitsOf_map fun _ => rfl

/-! ## Quiet data -/

/-- What a unit of quiet data waits for is ready. -/
theorem ready_of_quiet {v : VVal} {w : Nat} {x : ESrc} (hv : v.quiet = true) (h : ∀ i ∈ x.els, i < vlmax w) : x.ready v w = true := by
  have hg : ∀ g ∈ elemGroups w x.els, g < 8 := by
    intro g hg
    obtain ⟨i, hi, rfl⟩ := List.mem_map.mp (List.mem_eraseDups.mp hg)
    exact group_lt_of_lt_vlmax (h i hi)
  unfold ESrc.ready
  rw [vReady_of_quiet hv hg, vPoisoned_of_quiet hv]
  rfl

theorem dataUnits_src {v : VVal} {w vl : Nat} {us : List VUnit} {side : List (Bool × Nat × Word)} (hv : v.quiet = true)
    (h : ∀ u ∈ us, ∀ i ∈ u.els, i < vlmax w) : ∀ u ∈ dataUnits v w us vl side, u.src = none := by
  unfold dataUnits
  simp only [List.forall_mem_append, List.forall_mem_map]
  exact ⟨fun u hu => if_pos (ready_of_quiet hv (h u hu)), fun x _ => if_pos (ready_of_quiet hv (by simp))⟩

/-- The checks of units that wait for nothing. -/
theorem storeChecks_of_ready {s : State} {adds : Bool} {us : List SUnit} (h : ∀ u ∈ us, u.src = none) :
    storeChecks s adds us = storeElems adds us { s := s, loc := [], rem := [], stop := none } := by
  have hn : us.find? (fun u => u.src.isSome) = none := List.find?_eq_none.mpr fun u hu => by simp [h u hu]
  unfold storeChecks
  simp only [hn, ite_self]

theorem storeFinish_of_ready {s : State} {rs : List Src} {d : VReg} {v : VVal} {ordered : Bool} {op : ElemOp} {r : SRes} (hm : r.rem = [])
    (hl : ∀ x ∈ r.loc, x.2.2.2 = none) :
    storeFinish s rs d v ordered op r = storeEnd (addTrain r.s ordered op r.loc).1 rs ordered (addTrain r.s ordered op r.loc).2 r.stop := by
  have hall : r.loc.all (fun x => x.2.2.2.isNone) = true := List.all_eq_true.mpr fun x hx => by rw [hl x hx]; rfl
  unfold storeFinish
  rw [hm, hall]
  rfl

/-! ## The train -/

/-- The train that a store adds. -/
def addedTrain (s : State) (ordered : Bool) (op : ElemOp) (xs : List (Loc × List Byte × List Byte × Option ESrc)) : Train :=
  { id := s.dev.nextUid, ordered := ordered, prior := if ordered then contOf s else none,
    elems := xs.mapIdx (fun k y => ⟨k, y.1, y.2.1, y.2.2.1, false, op, y.2.2.2, false⟩) }

/-- An added train changes the trains and the reads made early alone. -/
theorem addTrain_state (s : State) (ordered : Bool) (op : ElemOp) (xs : List (Loc × List Byte × List Byte × Option ESrc)) :
    ∃ es ts uid, (addTrain s ordered op xs).1 = { s.withMem (fun m => { m with early := es, trains := ts }) with dev := { s.dev with nextUid := uid } } ∧
      (xs = [] → ts = s.cpu.mem.trains) ∧
      (xs ≠ [] → ∃ x : Train, ts = s.cpu.mem.trains ++ [x] ∧ x.ordered = ordered ∧
        x.elems = xs.mapIdx (fun k y => ⟨k, y.1, y.2.1, y.2.2.1, false, op, y.2.2.2, false⟩)) := by
  by_cases hx : xs = []
  · exact ⟨s.cpu.mem.early, s.cpu.mem.trains, s.dev.nextUid, by rw [hx]; rfl, fun _ => rfl, fun h => absurd hx h⟩
  · obtain ⟨es, he⟩ := readAnewUnits_eq s (xs.map (fun x => (x.1, x.2.1.length)))
    have hn : xs.isEmpty = false := by simpa using hx
    refine ⟨es, s.cpu.mem.trains ++ [addedTrain s ordered op xs], s.dev.nextUid + 1, ?_, fun h => absurd h hx, fun _ => ⟨_, rfl, rfl, rfl⟩⟩
    unfold addTrain
    simp only [he, hn]
    rfl

theorem vdone_trap (s : State) (rs : List Src) : (vdone s rs).cpu.trap = s.cpu.trap := by
  change (popOps s rs).cpu.trap = _
  rw [popOps_cpu]

theorem vdone_trains (s : State) (rs : List Src) : (vdone s rs).cpu.mem.trains = s.cpu.mem.trains := by
  change (popOps s rs).cpu.mem.trains = _
  rw [popOps_cpu]

/-- A store whose checks gave r completes with its train, or stops where they stopped. -/
structure Stores (s : State) (u : Bool) (op : ElemOp) (r : SRes) (o : Out) : Prop where
  done : r.stop = none → ∃ t, o = .next t ∧ t.mem = r.s.mem ∧ t.log = r.s.log ∧ t.cpu.trap = s.cpu.trap ∧ t.cpu.wait = none ∧
    t.cpu.regs = s.cpu.regs ∧ t.cpu.ctl = (complete (setVstart s 0)).cpu.ctl ∧ (r.loc = [] → t.cpu.mem.trains = s.cpu.mem.trains) ∧
    (r.loc ≠ [] → ∃ x : Train, t.cpu.mem.trains = s.cpu.mem.trains ++ [x] ∧ x.ordered = !u ∧
      x.elems = r.loc.mapIdx (fun k y => ⟨k, y.1, y.2.1, y.2.2.1, false, op, y.2.2.2, false⟩))
  stop : ∀ j va c, r.stop = some (j, va, .cause c) →
    ∃ z, o = .next (takeTrapAt z c va s.cpu.ctl.pc) ∧ z.cpu.ctl.vstart = BitVec.ofNat 64 j

theorem storeEnd_stores {s : State} {r : SRes} (h : Aside s r.s) (rs : List Src) (u : Bool) (op : ElemOp) :
    Stores s u op r (storeEnd (addTrain r.s (!u) op r.loc).1 rs (!u) (addTrain r.s (!u) op r.loc).2 r.stop) := by
  obtain ⟨es, ts, uid, hs, hn, hc⟩ := addTrain_state r.s (!u) op r.loc
  rw [h.cpu] at hn hc
  rw [hs]
  refine ⟨fun hstop => ?_, fun j va c hstop => ?_⟩
  · rw [hstop]
    have hctl : r.s.cpu.ctl = s.cpu.ctl := congrArg Strand.ctl h.cpu
    have hregs : r.s.cpu.regs = s.cpu.regs := congrArg Strand.regs h.cpu
    have htrap : r.s.cpu.trap = s.cpu.trap := congrArg Strand.trap h.cpu
    exact ⟨_, rfl, (vdone_sameMemory _ rs).1, (vdone_sameMemory _ rs).2.2.2.1, (vdone_trap _ rs).trans htrap, rfl, (vdone_regs _ rs).trans hregs,
      (vdone_ctl _ rs).trans (complete_ctl_congr hctl h.vlgOf), fun hl => (vdone_trains _ rs).trans (hn hl),
      fun hl => (hc hl).imp fun x hx => ⟨(vdone_trains _ rs).trans hx.1, hx.2⟩⟩
  · rw [hstop, ← h.cpu]
    exact ⟨setVstart (setCont _ _) j, rfl, rfl⟩

/-! ## The instructions on quiet operands -/

/-- The checks of the units of a register. -/
def storeRes (s : State) (adds : Bool) (v : VVal) (us : List VUnit) (side : List (Bool × Nat × Word)) : SRes :=
  storeElems adds (dataUnits v (wOf s) us (vlOf s) side) { s := s, loc := [], rem := [], stop := none }

/-- The active elements that are left. -/
def activeLeft (s : State) : List Nat := activeFrom s (wOf s) (vstartOf s) (vlOf s)

theorem lt_of_mem_activeLeft {s : State} {i : Nat} (h : i ∈ activeLeft s) : i < vlOf s := by
  unfold activeLeft at h
  rw [activeFrom_eq] at h
  exact List.mem_range.mp (List.mem_filter.mp h).1

/-- A quiet index vector is read to its end. -/
theorem idxReach_of_quiet {s : State} {v : VVal} (hv : v.quiet = true) : idxReach s v (vstartOf s) = vlOf s := by
  have hnone : (groupsOf (fmtWidth v.fmt) (vstartOf s) (vlOf s)).find? (fun g => !(vReady v [g] && (vPoisoned v [g]).isNone)) = none := by
    refine List.find?_eq_none.mpr fun g hg => ?_
    rw [vReady_of_quiet hv (List.forall_mem_singleton.mpr (groupsOf_lt hg)), vPoisoned_of_quiet hv]
    decide
  unfold idxReach
  simp only [hnone]

/-- An instruction that has come to VL does not stop there. -/
theorem orElse_reachStop (s : State) (x : Option (Nat × Word × MStop)) : x.orElse (fun _ => reachStop s (vlOf s)) = x := by
  have hnone : reachStop s (vlOf s) = none := if_neg (Nat.lt_irrefl _)
  rw [hnone]
  cases x <;> rfl

section
variable {s : State} {vs : List SVal} (hn : vlOf s ≤ vlmax (wOf s)) (hl : vstartOf s < vlOf s)
  (hw : ∀ r w id x, s.cpu.wait ≠ some (.supply r w id x))
include hn

/-- A store of quiet data whose checks meet no remote element. -/
theorem storeFinish_stores {rs : List Src} {d : VReg} {v : VVal} (hv : v.quiet = true) {us : List VUnit} (hus : UnitsOf (activeLeft s) us)
    (side : List (Bool × Nat × Word)) (u : Bool) (op : ElemOp) (hm : (storeRes s (op != .store) v us side).rem = []) :
    Stores s u op (storeRes s (op != .store) v us side)
      (storeFinish s rs d v (!u) op (storeChecks s (op != .store) (dataUnits v (wOf s) us (vlOf s) side))) := by
  have hsrc := dataUnits_src (vl := vlOf s) (side := side) hv fun x hx i hi => (lt_of_mem_activeLeft (hus x hx i hi)).trans_le hn
  have hloc : ∀ x ∈ (storeRes s (op != .store) v us side).loc, x.2.2.2 = none :=
    storeElems_src (p := fun x => x = none) (r := ⟨s, [], [], none⟩) hsrc fun _ hx => absurd hx List.not_mem_nil
  rw [storeChecks_of_ready hsrc]
  exact (storeFinish_of_ready hm hloc) ▸ storeEnd_stores (storeElems_aside _ _ ⟨s, [], [], none⟩) rs u op

include hl hw

theorem vstore_stores {rs : List Src} {d : VReg} {u strided : Bool} {units : List SVal → List Nat → List VUnit} {word : Nat}
    (hsub : subByteBad s = false) (hq : quietOps s (rs ++ [.v d]) .none true = some vs) (hf : (vecAt vs rs.length).fmt = etOf s)
    (hp : strided = true → plainByte (etOf s) = true) (hus : UnitsOf (activeLeft s) (units vs (activeLeft s))) :
    let side := if strided then [] else sideUnits (wordAt vs 0) (etOf s) (wOf s) (vlOf s)
    (storeRes s false (vecAt vs rs.length) (units vs (activeLeft s)) side).rem = [] →
    Stores s u .store (storeRes s false (vecAt vs rs.length) (units vs (activeLeft s)) side) (vstore s word rs d u strided units) := by
  intro side hm
  obtain ⟨_, hclean, _, hv⟩ := quietOps_spec hq
  have hgo : vstore s word rs d u strided units = storeFinish s (rs ++ [.v d]) d (vecAt vs rs.length) (!u) .store
      (storeChecks s false (dataUnits (vecAt vs rs.length) (wOf s) (units vs (activeLeft s)) (vlOf s) side)) := by
    refine (whole_of_quiet _ _ hq).trans ?_
    split
    · next r w id x he => exact absurd he (hw r w id x)
    · refine (fmtGate_of_fits _ rfl ?_ ?_).trans ((if_neg ?_).trans ((if_neg ?_).trans ((if_neg ?_).trans (needM_of_clean _ _ hclean))))
      · simp only [List.forall_mem_singleton]
        exact hf
      · simp only [List.forall_mem_singleton]
        exact hn
      · rw [Bool.and_eq_true, Bool.not_eq_true']
        exact fun h => absurd (hp h.1) (by rw [h.2]; exact Bool.false_ne_true)
      · rw [hsub]
        exact Bool.false_ne_true
      · exact Nat.not_le.mpr hl
  rw [hgo]
  exact storeFinish_stores hn (vecAt_quiet hv _) hus side u .store hm

theorem vscatter_stores {d : VReg} {a : SReg} {b : VReg} {u ok : Bool} {op : ElemOp} {word : Nat} (hok : ok = true)
    (hq : quietOps s [.s a, .v b, .v d] .none true = some vs) (hi : isIdxTag (vecAt vs 1).fmt = true)
    (hni : vlOf s ≤ vlmax (fmtWidth (vecAt vs 1).fmt)) (hf : (vecAt vs 2).fmt = etOf s) :
    let us := unitsIdx (wordAt vs 0) (vecAt vs 1) (wOf s) (activeLeft s)
    (storeRes s (op != .store) (vecAt vs 2) us []).rem = [] →
    Stores s u op (storeRes s (op != .store) (vecAt vs 2) us []) (vscatter s word d a b (!u) ok op) := by
  intro us hm
  obtain ⟨_, hclean, _, hv⟩ := quietOps_spec hq
  have hreach : idxReach s (vecAt vs 1) (vstartOf s) = vlOf s := idxReach_of_quiet (vecAt_quiet hv 1)
  have hgo : vscatter s word d a b (!u) ok op = storeFinish s [.s a, .v b, .v d] d (vecAt vs 2) (!u) op
      (storeChecks s (op != .store) (dataUnits (vecAt vs 2) (wOf s) us (vlOf s) [])) := by
    refine (whole_of_quiet _ _ hq).trans ?_
    split
    · next r w id x he => exact absurd he (hw r w id x)
    · simp only [hreach]
      refine (if_neg (by rw [hok]; decide)).trans ((if_neg (by rw [hi]; decide)).trans ((fmtGate_of_fits _ rfl ?_ ?_).trans ((if_neg ?_).trans
        ((needV_of_quiet _ ?_).trans ((needM_of_clean _ _ hclean).trans ?_)))))
      · exact List.forall_mem_singleton.mpr hf
      · exact List.forall_mem_cons.mpr ⟨hni, List.forall_mem_singleton.mpr hn⟩
      · exact Nat.not_le.mpr hl
      · exact List.forall_mem_singleton.mpr ⟨vecAt_quiet hv 1, fun g hg => by split at hg <;> exact groupsOf_lt hg⟩
      · exact congrArg (fun x => storeFinish s _ d _ (!u) op { storeChecks s _ _ with stop := x }) (orElse_reachStop s _)
  rw [hgo]
  exact storeFinish_stores hn (vecAt_quiet hv _) (unitsOf_unitsIdx _ _ _ _) [] u op hm

end

/-- A format that is not scaled, of whole bytes. -/
theorem plainByte_iff {f : Nat} : plainByte f = true ↔ isScaled f = false ∧ 8 ≤ fmtWidth f := by
  unfold plainByte
  rw [Bool.and_eq_true, Bool.not_eq_true', decide_eq_true_eq]

/-- Settles O26: the checks of quiet data, carried out as one train. -/
theorem vectorStores : Obligations.VectorStores := by
  unfold Obligations.VectorStores
  intro s d vs hn hl hsub hw w n js stores
  have parts {u : Bool} {op : ElemOp} {r : SRes} {o : Out} (h : r.rem = [] → Stores s u op r o) :=
    And.intro (fun (hs : r.stop = none) (hm : r.rem = []) => (h hm).done hs)
      (fun j va c (hs : r.stop = some (j, va, .cause c)) (hm : r.rem = []) => (h hm).stop j va c hs)
  refine ⟨fun a u hq hf => ?_, fun a b u hsc h8 hq hf => ?_, fun a b u hi hni => ⟨fun hsc h8 hq hf => ?_, fun hadd hq hf => ?_⟩⟩
  · exact parts (vstore_stores (rs := [.s a]) (strided := false) (units := fun vs is => unitsAt (wordAt vs 0) (wOf s) is) hn hl hw hsub hq hf
      (fun h => absurd h Bool.false_ne_true) (unitsOf_unitsAt _ _ _))
  · exact parts (vstore_stores (rs := [.s a, .s b]) (strided := true) (units := fun vs is => unitsBy (wordAt vs 0) (wordAt vs 1) (wOf s) is) hn hl hw
      hsub hq hf (fun _ => plainByte_iff.mpr ⟨hsc, h8⟩) (unitsOf_unitsBy _ _ _ _))
  · exact parts (vscatter_stores (op := .store) hn hl hw (plainByte_iff.mpr ⟨hsc, h8⟩) hq hi hni hf)
  · exact parts (vscatter_stores (op := .add (etOf s)) hn hl hw hadd hq hi hni hf)

end Sys2Proof.Machine
end

section
/-! The steps by which a vector instruction writes its destination: none changes the control registers, VLG or the queues before it pushes
and pops. -/

namespace Sys2Proof.Machine

/-! ## What the steps keep -/

/-- The cpu strand's control registers and wait, the VLG of its cluster and the queues of the tasks are the same. -/
structure Calm (s t : State) : Prop where
  id : t.cpu.id = s.cpu.id
  cluster : t.cpu.cluster = s.cpu.cluster
  ctl : t.cpu.ctl = s.cpu.ctl
  wait : t.cpu.wait = s.cpu.wait
  vlg : vlgOf t = vlgOf s
  queues : ∀ n, (t.task? n).map (fun k => (k.dual, k.queues)) = (s.task? n).map (fun k => (k.dual, k.queues))

theorem Calm.refl (s : State) : Calm s s := ⟨rfl, rfl, rfl, rfl, rfl, fun _ => rfl⟩

theorem Calm.trans {a b c : State} (h : Calm a b) (k : Calm b c) : Calm a c :=
  ⟨k.id.trans h.id, k.cluster.trans h.cluster, k.ctl.trans h.ctl, k.wait.trans h.wait, k.vlg.trans h.vlg, fun n => (k.queues n).trans (h.queues n)⟩

theorem Aside.calm {s t : State} (h : Aside s t) : Calm s t :=
  ⟨congrArg Strand.id h.cpu, congrArg Strand.cluster h.cpu, congrArg Strand.ctl h.cpu, congrArg Strand.wait h.cpu, h.vlgOf, h.queues⟩

section
variable {s t : State} (h : Calm s t)
include h

theorem Calm.roleOf : roleOf t t.cpu = roleOf s s.cpu := by
  unfold Machine.roleOf
  rw [h.id]
  split
  · rename_i n e _
    have hq := h.queues n
    revert hq
    cases t.task? n <;> cases s.task? n
    · exact fun _ => rfl
    · exact nofun
    · exact nofun
    · exact fun hq => by simp only [(Prod.mk.inj (Option.some.inj hq)).1]
  · rfl

theorem Calm.pushes (d : VReg) : pushes t d = pushes s d := by
  unfold Machine.pushes
  rw [h.roleOf]

theorem Calm.queuesOf : queuesOf t = queuesOf s := by
  unfold Machine.queuesOf
  rw [h.id]
  split
  · rename_i n _
    have hq := congrArg (Option.map Prod.snd) (h.queues n)
    rw [Option.map_map, Option.map_map] at hq
    exact congrArg (fun q => q.getD Queues.zero) hq
  · rfl

theorem Calm.pc : t.pc = s.pc := congrArg Ctl.pc h.ctl

theorem Calm.done_ctl : (complete (setVstart t 0)).cpu.ctl = (complete (setVstart s 0)).cpu.ctl := complete_ctl_congr h.ctl h.vlg

theorem Calm.accrue (f : Flags) : Calm (accrue s f) (accrue t f) where
  id := h.id
  cluster := h.cluster
  ctl := congrArg (fun c : Ctl => { c with fflags := c.fflags ||| f }) h.ctl
  wait := h.wait
  vlg := h.vlg
  queues := h.queues

end

section
variable (s : State)

/-- A change of the cpu strand that leaves its name, its cluster, its control registers and its wait. -/
theorem Calm.ofCpu {s : State} {x : Strand} (hi : x.id = s.cpu.id) (hc : x.cluster = s.cpu.cluster) (hk : x.ctl = s.cpu.ctl)
    (hw : x.wait = s.cpu.wait) : Calm s { s with cpu := x } :=
  ⟨hi, hc, hk, hw, congrArg (fun c => 32 * ((s.cluster c).eff.vln + 1)) hc, fun _ => rfl⟩

theorem Calm.ofDev (x : Dev) : Calm s { s with dev := x } := ⟨rfl, rfl, rfl, rfl, rfl, fun _ => rfl⟩
theorem withMem_calm (f : MemSt → MemSt) : Calm s (s.withMem f) := .ofCpu rfl rfl rfl rfl
theorem setVreg_calm (d : VReg) (v : VVal) : Calm s (setVreg s d v) := .ofCpu rfl rfl rfl rfl
theorem setStaged_calm (v : VVal) : Calm s (setStaged s v) := .ofCpu rfl rfl rfl rfl
theorem dropStaged_calm : Calm s (dropStaged s) := .ofCpu rfl rfl rfl rfl
theorem withUsage_calm (u : Strand → Usage) : Calm s (s.withCpu (fun x => { x with usage := u x })) := .ofCpu rfl rfl rfl rfl
theorem fresh_calm : Calm s s.fresh.2 := Calm.ofDev s _
theorem blankImage_calm (tag : Nat) : Calm s (blankImage s tag).2 := Calm.ofDev s _

theorem cluster_num (c : Nat) : (s.cluster c).num = c := by
  unfold State.cluster
  cases h : s.clusters.find? (fun x => x.num == c) with
  | none => rfl
  | some k => exact beq_iff_eq.mp (List.find?_some (p := fun x : Cluster => x.num == c) h)

/-- A change of the cpu's cluster that leaves its number and its effective settings. -/
theorem modCluster_calm {f : Cluster → Cluster} (hn : ∀ k, (f k).num = k.num) (he : ∀ k, (f k).eff = k.eff) :
    Calm s (s.modCluster s.cpu.cluster f) where
  id := rfl
  cluster := rfl
  ctl := rfl
  wait := rfl
  vlg := by
    have hnum : (f (s.cluster s.cpu.cluster)).num = s.cpu.cluster := (hn _).trans (cluster_num s _)
    have hc : (s.modCluster s.cpu.cluster f).cluster s.cpu.cluster = f (s.cluster s.cpu.cluster) := by
      unfold State.modCluster State.setCluster
      rw [State.cluster, hnum]
      exact congrArg (fun o : Option Cluster => o.getD _)
        (find?_upsert_self (p := fun x : Cluster => x.num == s.cpu.cluster) (beq_iff_eq.mpr hnum) s.clusters)
    unfold vlgOf
    rw [State.modCluster_cpu, hc, he]
  queues _ := rfl

theorem loseEls_calm (dst : DDst) (w : Nat) (is : List Nat) : Calm s (loseEls s dst w is) := modCluster_calm s (fun _ => rfl) fun _ => rfl

theorem claim_calm (d : VReg) (w : Nat) (is : List Nat) : Calm s (claim s d w is) := by
  unfold claim
  simp only
  split
  · exact .refl s
  · split
    · exact loseEls_calm s _ w is
    · exact (loseEls_calm s _ w is).trans (setVreg_calm _ d _)

theorem beginStaged_calm (v : VVal) : Calm s (beginStaged s v) := by
  unfold beginStaged
  simp only
  split
  · exact (modCluster_calm s (by exact fun _ => rfl) (by exact fun _ => rfl)).trans (setStaged_calm _ v)
  · exact setStaged_calm s v

theorem keepAside_calm (r : VReg) : Calm s (keepAside s r) := by
  unfold keepAside
  simp only
  split
  · exact beginStaged_calm s _
  · exact (beginStaged_calm s _).trans (modCluster_calm _ (by exact fun _ => rfl) (by exact fun _ => rfl))

theorem leaveDiv_calm : Calm s (leaveDiv s) := by
  unfold leaveDiv
  split
  · exact modCluster_calm s (fun _ => rfl) fun _ => rfl
  · exact .refl s

theorem readAnewUnits_calm (ls : List (Loc × Nat)) : Calm s (readAnewUnits s ls) := by
  obtain ⟨es, h⟩ := readAnewUnits_eq s ls
  rw [h]
  exact withMem_calm s _

theorem readAnewUnits_vframe (d : VReg) (ls : List (Loc × Nat)) : VFrame d s (readAnewUnits s ls) := by
  obtain ⟨es, h⟩ := readAnewUnits_eq s ls
  rw [h]
  exact .ofCpu rfl rfl rfl rfl

/-! ## The value kept aside -/

theorem staged_setStaged (v : VVal) : staged (setStaged s v) = some v := by
  have hnone : (s.cpu.staging.filter (fun x => x.1 != s.pc)).find? (fun x => x.1 == s.pc) = none := List.find?_eq_none.mpr fun x hx => by
    simpa using (List.mem_filter.mp hx).2
  change (((s.cpu.staging.filter (fun x => x.1 != s.pc) ++ [(s.pc, v)]).find? (fun x => x.1 == s.pc)).map (·.2)) = some v
  rw [List.find?_append, hnone]
  simp

theorem staged_beginStaged (v : VVal) : staged (beginStaged s v) = some v := by
  unfold beginStaged
  simp only
  split <;> exact staged_setStaged _ v

/-! ## Pushes and pops -/

theorem isVPort_iff {r : VReg} : isVPort r = true ↔ r = 28 ∨ r = 29 ∨ r = 30 ∨ r = 31 := by
  revert r
  decide

/-- The queue of a port after another port's has been replaced. -/
theorem vQueue_setVQueue_ne {q : Queues} {d r : VReg} (hd : isVPort d = true) (hr : isVPort r = true) (hne : r ≠ d) (xs : List VVal) :
    vQueue (setVQueue q r xs) d = vQueue q d := by
  rw [isVPort_iff] at hd hr
  unfold vQueue setVQueue
  grind

theorem vQueue_setSQueue (q : Queues) (d : VReg) (r : SReg) (xs : List Word) : vQueue (setSQueue q r xs) d = vQueue q d := by
  unfold setSQueue
  split
  · rfl
  · split <;> rfl

/-- A port that a strand's role may write is not one that it may read. -/
theorem ne_of_mayRead_mayWrite {ro : Role} {d r : VReg} (h0 : ro ≠ .single) (hr : vMayRead ro r = true) (hw : vMayWrite ro d = true)
    (hd : isVPort d = true) : r ≠ d := by
  rintro rfl
  cases ro with
  | single => exact h0 rfl
  | a => simp_all [vMayRead, vMayWrite]
  | e => simp_all [vMayRead, vMayWrite]

theorem vQueue_modQueues {d : VReg} {f : Queues → Queues} (hf : ∀ q, vQueue (f q) d = vQueue q d) :
    vQueue (queuesOf (modQueues s f)) d = vQueue (queuesOf s) d := by
  unfold queuesOf
  rw [modQueues_cpu]
  cases ht : tidOf s.cpu.id with
  | none =>
    rfl
  | some n =>
    have hm : (modQueues s f).task? n = (s.task? n).map (fun k => { k with queues := f k.queues }) := by
      unfold modQueues
      rw [ht]
      exact State.task?_modTask s n (fun _ => rfl)
    simp only [hm]
    cases s.task? n with
    | none => rfl
    | some k => exact hf k.queues

/-- Reading the operands pops no queue that the destination pushes onto. -/
theorem vQueue_popOps {rs : List Src} {d : VReg} (hd : isVPort d = true) (hne : ∀ r, .v r ∈ rs → r ≠ d) :
    vQueue (queuesOf (popOps s rs)) d = vQueue (queuesOf s) d := by
  unfold popOps
  split
  · rfl
  · refine List.foldlRecOn (motive := fun t => vQueue (queuesOf t) d = vQueue (queuesOf s) d) rs _ rfl (fun t ht x hx => ?_)
    cases x with
    | s r =>
      simp only
      split
      · exact (vQueue_modQueues t fun q => vQueue_setSQueue ..).trans ht
      · exact ht
    | v r =>
      simp only
      split
      · next hr => exact (vQueue_modQueues t fun q => vQueue_setVQueue_ne hd hr (hne r hx) _).trans ht
      · exact ht

/-- A strand that pushes onto a port is one of a task's pair. -/
theorem task_of_pushes {d : VReg} (h : pushes s d = true) :
    ∃ tid e k, s.cpu.id = .task tid e ∧ s.task? tid = some k ∧ roleOf s s.cpu ≠ .single ∧ isVPort d = true := by
  unfold pushes at h
  rw [Bool.and_eq_true, bne_iff_ne] at h
  obtain ⟨hr, hd⟩ := h
  have hr' := hr
  unfold roleOf at hr'
  split at hr'
  · split at hr'
    · next hi _ k hk => exact ⟨_, _, k, hi, hk, hr, hd⟩
    · exact absurd rfl hr'
  · exact absurd rfl hr'

/-- The destination port of readable operands is none of them. -/
theorem ne_port_of_vreadable {rs : List Src} {d : VReg} {room : Bool} {vs : List SVal} (h : vreadable s rs (.v d) room = some vs)
    (hp : pushes s d = true) : ∀ r, .v r ∈ rs → r ≠ d := by
  obtain ⟨_, _, _, _, _, hr, hd⟩ := task_of_pushes s hp
  unfold vreadable at h
  split at h
  · exact absurd h nofun
  · split at h
    · next hs => exact absurd (beq_iff_eq.mp hs) hr
    · split at h
      · next hm =>
        simp only [Bool.and_eq_true, List.all_eq_true] at hm
        obtain ⟨⟨hread, hwrite⟩, _⟩ := hm
        exact fun r hx => ne_of_mayRead_mayWrite hr (hread _ hx) hwrite hd
      · exact absurd h nofun

/-- What an instruction pushed stands last in the queue, once it has popped its operands. -/
theorem resultAt_pushV {s t : State} {d : VReg} {rs : List Src} {vs : List SVal} {room : Bool} (h : vreadable s rs (.v d) room = some vs)
    (hp : pushes s d = true) (hpt : pushes t d = true) (v : VVal) : resultAt s (vdone (pushV t d v) rs) d = v := by
  obtain ⟨n, e, k, hi, hk, _, hd⟩ := task_of_pushes t hpt
  have hq : queuesOf (vdone (pushV t d v) rs) = queuesOf (popOps (pushV t d v) rs) := rfl
  have hm : queuesOf (pushV t d v) = _ := queuesOf_modQueues (s := dropStaged t) hi hk _
  unfold resultAt
  rw [if_pos hp, hq, vQueue_popOps _ hd (ne_port_of_vreadable s h hp), hm, vQueue_setVQueue_self]
  exact List.getLastD_concat ..

/-- A register keeps its value through the end of the instruction that wrote it. -/
theorem vreg_vdone (rs : List Src) (d : VReg) : vreg (vdone s rs) d = vreg s d := by
  unfold vreg
  rw [vdone_regs]

end

end Sys2Proof.Machine
end

section
/-! Vector loads (R164 to R168, R265, R275, R282): the value that a load makes of its checks, and what becomes of it. -/

namespace Sys2Proof.Machine

/-! ## Reads that leave an element -/

theorem keptBits_lt {width m : Nat} (old x : Nat) (hm : m < 2 ^ width) : (old &&& (2 ^ width - 1 - m)) ||| (x &&& m) < 2 ^ width :=
  Nat.or_lt_two_pow (Nat.lt_of_le_of_lt Nat.and_le_right (by omega)) (Nat.lt_of_le_of_lt Nat.and_le_right hm)

theorem testBit_keptBits {width m : Nat} (old x : Nat) (hm : m < 2 ^ width) (k : Nat) :
    ((old &&& (2 ^ width - 1 - m)) ||| (x &&& m)).testBit k = if m.testBit k then x.testBit k else decide (k < width) && old.testBit k := by
  rw [show 2 ^ width - 1 - m = 2 ^ width - (m + 1) by omega, Nat.testBit_or, Nat.testBit_and, Nat.testBit_and, Nat.testBit_two_pow_sub_succ hm]
  cases m.testBit k <;> simp [Bool.and_comm]

/-- Bits that a read does not own stay. -/
theorem getLsbD_putBits_of_not_live {n : Nat} (b : BitVec n) {pos width live k : Nat} (x : Nat)
    (h : pos ≤ k → k < pos + width → live.testBit (k - pos) = false) : (putBits n b pos width live x).getLsbD k = b.getLsbD k := by
  by_cases hn : k < n
  · have hlt : b.toNat % 2 ^ pos < 2 ^ pos := Nat.mod_lt _ (Nat.two_pow_pos _)
    have hm : live % 2 ^ width < 2 ^ width := Nat.mod_lt _ (Nat.two_pow_pos _)
    have hy := keptBits_lt (b.toNat / 2 ^ pos % 2 ^ width) x hm
    unfold putBits
    simp only
    rw [BitVec.getLsbD_ofNat, replace_field, Nat.testBit_two_pow_mul_add _ hlt, Nat.testBit_two_pow_mul_add _ hy, testBit_keptBits _ _ hm,
      Nat.testBit_mod_two_pow, Nat.testBit_mod_two_pow, Nat.testBit_div_two_pow, Nat.testBit_div_two_pow, Nat.testBit_mod_two_pow,
      Nat.testBit_div_two_pow]
    rcases lt_or_ge k pos with h1 | h1
    · simp [h1, hn, BitVec.testBit_toNat]
    · rcases lt_or_ge k (pos + width) with h2 | h2
      · simp [hn, Nat.not_lt.mpr h1, show k - pos < width by omega, h h1 h2, BitVec.testBit_toNat, show k - pos + pos = k by omega]
      · simp [hn, Nat.not_lt.mpr h1, show ¬ k - pos < width by omega, BitVec.testBit_toNat, show k - pos - width + width + pos = k by omega]
  · rw [BitVec.getLsbD_of_ge _ _ (Nat.le_of_not_lt hn), BitVec.getLsbD_of_ge _ _ (Nat.le_of_not_lt hn)]

/-- A read owns no bit of element j. -/
def PendRead.misses (p : PendRead) (w j : Nat) : Prop :=
  p.dst = .bits → ∀ k, w * j ≤ k → k < w * j + w → p.pos ≤ k → k < p.pos + p.width → p.live.testBit (k - p.pos) = false

theorem takeRead_el {v : VVal} {p : PendRead} {w j : Nat} (h : p.misses w j) (x : Nat) (bad : Bool) : (takeRead v p x bad).el w j = v.el w j := by
  apply Nat.eq_of_testBit_eq
  intro k
  unfold VVal.el
  rw [testBit_getEl, testBit_getEl]
  by_cases hk : k < w
  · congr 1
    cases hd : p.dst with
    | bits =>
      have hb : (takeRead v p x bad).bits = putBits 8192 v.bits p.pos p.width p.live x := by simp only [takeRead, hd]
      rw [hb]
      exact getLsbD_putBits_of_not_live _ _ fun h1 h2 => h hd _ (by omega) (by omega) h1 h2
    | scale => simp only [takeRead, hd]
    | special => simp only [takeRead, hd]
  · simp [hk]

theorem takeRead_tag (v : VVal) (p : PendRead) (x : Nat) (bad : Bool) : (takeRead v p x bad).tag = v.tag := by
  unfold takeRead
  cases p.dst <;> rfl

theorem takeRead_pend (v : VVal) (p : PendRead) (x : Nat) (bad : Bool) : (takeRead v p x bad).pend = v.pend.erase p := by
  unfold takeRead
  cases p.dst <;> rfl

/-- The bits from lo up to hi. -/
theorem testBit_run {lo hi k : Nat} (h1 : lo ≤ k) (h2 : k < hi) : (2 ^ hi - 2 ^ lo).testBit k = true := by
  have he : 2 ^ hi - 2 ^ lo = 2 ^ lo * (2 ^ (hi - lo) - 1) := by
    rw [Nat.mul_sub, ← Nat.pow_add, Nat.add_sub_cancel' (h1.trans h2.le), Nat.mul_one]
  rw [he, Nat.testBit_two_pow_mul, Nat.testBit_two_pow_sub_one]
  simp only [Bool.and_eq_true, decide_eq_true_eq]
  omega

/-- What an element covers of a field is cleared from the bits that are left of it. -/
theorem testBit_cleared {w pos n j k : Nat} (h1 : w * j ≤ k) (h2 : k < w * j + w) (h3 : pos ≤ k) (h4 : k < pos + n) (live : Nat) :
    (if w * j < pos + n && pos < w * (j + 1) then
      live &&& (2 ^ n - 1 - (2 ^ Nat.min (w * (j + 1) - pos) n - 2 ^ (w * j - pos))) else live).testBit (k - pos) = false := by
  have hw : w * (j + 1) = w * j + w := Nat.mul_succ w j
  have hc : (decide (w * j < pos + n) && decide (pos < w * (j + 1))) = true := by
    rw [Bool.and_eq_true, decide_eq_true_eq, decide_eq_true_eq]
    omega
  rw [if_pos hc, Nat.testBit_and]
  have hlo : w * j - pos ≤ k - pos := by omega
  have hhi : k - pos < Nat.min (w * (j + 1) - pos) n := Nat.lt_min.mpr ⟨by omega, by omega⟩
  have hle : 2 ^ Nat.min (w * (j + 1) - pos) n ≤ 2 ^ n := Nat.pow_le_pow_right (by decide) (Nat.min_le_right _ _)
  have hn := Nat.two_pow_pos n
  have hrun := testBit_run hlo hhi
  have hpos := Nat.two_pow_pos (w * j - pos)
  rw [show ∀ x, 2 ^ n - 1 - x = 2 ^ n - (x + 1) by intro x; omega, Nat.testBit_two_pow_sub_succ (by omega), hrun]
  simp

/-- What is left of a field covers none of the elements. -/
theorem testBit_uncovered {w pos n j : Nat} {is : List Nat} (hj : j ∈ is) {k : Nat} (h1 : w * j ≤ k) (h2 : k < w * j + w) (h3 : pos ≤ k)
    (h4 : k < pos + n) : ∀ live, (uncovered w is pos n live).testBit (k - pos) = false := by
  have gone (m : Nat) (is : List Nat) (hm : m.testBit (k - pos) = false) : (uncovered w is pos n m).testBit (k - pos) = false := by
    refine List.foldlRecOn (motive := fun m : Nat => m.testBit (k - pos) = false) is _ hm (fun m hm i _ => ?_)
    simp only
    split
    · rw [Nat.testBit_and, hm, Bool.false_and]
    · exact hm
  induction is with
  | nil => exact absurd hj List.not_mem_nil
  | cons i is ih =>
    intro live
    rcases List.mem_cons.mp hj with rfl | hj
    · exact gone _ is (testBit_cleared h1 h2 h3 h4 live)
    · exact ih hj _

theorem misses_of_stillPending {w j : Nat} {is : List Nat} {ps : List PendRead} (hj : j ∈ is) : ∀ p ∈ stillPending w is ps, p.misses w j := by
  intro p hp hd k h1 h2 h3 h4
  obtain ⟨q, _, hq⟩ := List.mem_filterMap.mp hp
  split at hq
  · simp only at hq
    split at hq
    · exact absurd hq nofun
    · obtain rfl := Option.some.inj hq
      exact testBit_uncovered hj h1 h2 h3 h4 _
  · obtain rfl := Option.some.inj hq
    rename_i hne
    exact absurd hd (hne)

/-- A read of a whole element owns no bit of another. -/
theorem misses_of_ne {w i j n : Nat} (hn : n = w / 8) (hij : i ≠ j) (l : Loc) (b ord : Nat) :
    (freshRead .bits (i * w) (8 * n) l b ord).misses w j := by
  intro _ k h1 h2 h3 h4
  exfalso
  have h4 : k < i * w + 8 * n := h4
  have h3 : i * w ≤ k := h3
  have hk : k < i * w + w := by omega
  have e1 : k / w = j := Nat.div_eq_of_lt_le (by rwa [Nat.mul_comm]) (by rwa [Nat.add_one_mul, Nat.mul_comm])
  have e2 : k / w = i := Nat.div_eq_of_lt_le h3 (by rwa [Nat.add_one_mul])
  exact hij (e2.symm.trans e1)

/-! ## The checks -/

/-- The units that have been checked come first among all. -/
theorem loadElems_got (mode : LeaseMode) (us : List VUnit) : ∀ r : LRes, ∃ vs, vs <+: us ∧ (loadElems mode us r).got.map (·.1) = r.got.map (·.1) ++ vs := by
  induction us with
  | nil => exact fun r => ⟨[], List.prefix_refl _, (List.append_nil _).symm⟩
  | cons u us ih =>
    intro r
    have go {r' : LRes} {x : Option Loc} (hg : r'.got = r.got ++ [(u, x)]) :
        ∃ vs, vs <+: u :: us ∧ (loadElems mode us r').got.map (·.1) = r.got.map (·.1) ++ vs := by
      obtain ⟨vs, hp, he⟩ := ih r'
      refine ⟨u :: vs, List.cons_prefix_cons.mpr ⟨rfl, hp⟩, ?_⟩
      rw [he, hg, List.map_append, List.append_assoc]
      rfl
    unfold loadElems
    split
    · exact go rfl
    · split
      · exact go rfl
      · exact ⟨[], List.nil_prefix, (List.append_nil _).symm⟩
      · exact ⟨[], List.nil_prefix, (List.append_nil _).symm⟩

/-- Only a plain gather reads +0 outside its leases. -/
theorem loadElems_none {mode : LeaseMode} (hm : mode ≠ .zero) (us : List VUnit) :
    ∀ r : LRes, (∀ g ∈ r.got, g.2 ≠ none) → ∀ g ∈ (loadElems mode us r).got, g.2 ≠ none := by
  induction us with
  | nil => exact fun r h => h
  | cons u us ih =>
    intro r h
    unfold loadElems
    split
    · refine ih _ (List.forall_mem_append.mpr ⟨h, List.forall_mem_singleton.mpr (Option.some_ne_none _)⟩)
    · split
      · exact absurd rfl hm
      · exact h
      · exact h

theorem loadSide_got (us : List (Bool × Nat × Word)) : ∀ r : LRes, (loadSide us r).got = r.got := by
  induction us with
  | nil => exact fun r => rfl
  | cons u us ih =>
    intro r
    unfold loadSide
    split
    · rfl
    · split
      · exact ih _
      · rfl

/-! ## The value -/

/-- The elements that a load moves. -/
def LRes.els (r : LRes) : List Nat := r.got.flatMap (fun g => g.1.els)

/-- The reads of its elements. -/
def LRes.reads (r : LRes) (w ord : Nat) : List PendRead := r.got.flatMap (fun g => match g.2 with | some l => unitReads w ord g.1 l | none => [])

/-- The elements whose address lies outside every lease. -/
def LRes.zeros (r : LRes) : List Nat := r.got.filterMap (fun g => if g.2.isNone then g.1.els.head? else none)

theorem mem_reads {r : LRes} {w ord : Nat} {u : VUnit} {l : Loc} (h : (u, some l) ∈ r.got) : ∀ p ∈ unitReads w ord u l, p ∈ r.reads w ord :=
  fun _ hp => List.mem_flatMap.mpr ⟨_, h, hp⟩

theorem loadValue_pend (o : VVal) (w tag ord : Nat) (r : LRes) : ∀ p ∈ r.reads w ord, p ∈ (loadValue o w tag ord r).pend :=
  fun _ hp => List.mem_append_left _ (List.mem_append_right _ hp)

/-- The reads of a load are what is left of older ones, those of its elements and those of its scale bytes. -/
theorem pend_loadValue {o : VVal} {w tag ord : Nat} {r : LRes} {p : PendRead} (h : p ∈ (loadValue o w tag ord r).pend) :
    (∃ ps, p ∈ stillPending w r.els ps) ∨ p ∈ r.reads w ord ∨ p.dst ≠ .bits := by
  rcases List.mem_append.mp h with h | h
  · rcases List.mem_append.mp h with h | h
    · exact .inl ⟨_, (List.mem_filter.mp h).1⟩
    · exact .inr (.inl h)
  · obtain ⟨x, _, rfl⟩ := List.mem_map.mp h
    refine .inr (.inr ?_)
    change (if x.1 = true then PendDst.special else PendDst.scale) ≠ .bits
    split <;> exact nofun

/-- An element outside every lease is +0. -/
theorem loadValue_el_zero (o : VVal) (w tag ord : Nat) {r : LRes} {j : Nat} (hj : j ∈ r.els) (hz : j ∈ r.zeros) :
    (loadValue o w tag ord r).el w j = 0 := by
  have hc : r.zeros.contains j = true := List.contains_iff_mem.mpr hz
  have key : ∀ (is : List Nat) (v : VVal), v.el w j = 0 ∨ j ∈ is →
      (is.foldl (fun (v : VVal) i => v.put w i (if r.zeros.contains i then 0 else v.el w i) pPresent) v).el w j = 0 := by
    intro is
    induction is with
    | nil => exact fun v h => h.resolve_right List.not_mem_nil
    | cons i is ih =>
      intro v h
      refine ih _ ?_
      by_cases hi : i = j
      · subst hi
        left
        unfold VVal.el
        rw [VVal.put_bits, if_pos hc]
        exact getEl_setEl_zero _ i
      · rcases h with h | h
        · left
          unfold VVal.el at *
          rw [VVal.put_bits, getEl_setEl_ne _ _ (Ne.symm hi)]
          exact h
        · exact .inr ((List.mem_cons.mp h).resolve_left (Ne.symm hi))
  exact key r.els o (.inr hj)

/-! ## Reads made early -/

/-- What holds of a value, and of it after any of its reads of this access has performed, holds after those made early. -/
theorem takeEarly_induction {m : MemSt} {dep ord : Nat} {v : VVal} {p : VVal → Prop} (h0 : p v)
    (hs : ∀ u, ∀ r ∈ v.pend, (m.earlyOf true dep r.loc r.bytes).isSome = true → ∀ x, p u → p (takeRead u r x false)) :
    p (takeEarly m dep ord v) := by
  unfold takeEarly
  split
  · exact h0
  · refine List.foldlRecOn v.pend _ h0 (fun u hu r hr => ?_)
    split
    · exact hu
    · split
      · next bs hb => exact hs u r hr (by rw [hb]; rfl) _ hu
      · exact hu

/-- The value with the reads made early performed, unless the load is guarded. -/
def earlyTaken (s : State) (rs : List Src) (ord : Nat) (v : VVal) : VVal :=
  if mrGm s.cpu.ctl.mr = 0 then takeEarly s.cpu.mem (depOfSrcs s rs) ord v else v

theorem earlyTaken_tag (s : State) (rs : List Src) (ord : Nat) (v : VVal) : (earlyTaken s rs ord v).tag = v.tag := by
  unfold earlyTaken
  split
  · exact takeEarly_induction (p := fun u => u.tag = v.tag) rfl fun u r _ _ x hu => (takeRead_tag u r x false).trans hu
  · rfl

theorem earlyTaken_el {s : State} {rs : List Src} {ord w j : Nat} {v : VVal} (h : ∀ p ∈ v.pend, p.misses w j) :
    (earlyTaken s rs ord v).el w j = v.el w j := by
  unfold earlyTaken
  split
  · exact takeEarly_induction (p := fun u => u.el w j = v.el w j) rfl fun u r hr _ x hu => (takeRead_el (h r hr) x false).trans hu
  · rfl

/-- A read is still outstanding, or has been made early. -/
theorem earlyTaken_pend (s : State) (rs : List Src) (ord : Nat) {v : VVal} {p : PendRead} (hp : p ∈ v.pend) :
    p ∈ (earlyTaken s rs ord v).pend ∨ (mrGm s.cpu.ctl.mr = 0 ∧ (s.cpu.mem.earlyOf true (depOfSrcs s rs) p.loc p.bytes).isSome = true) := by
  unfold earlyTaken
  split
  · next hg =>
    by_cases he : (s.cpu.mem.earlyOf true (depOfSrcs s rs) p.loc p.bytes).isSome = true
    · exact .inr ⟨hg, he⟩
    · refine .inl (takeEarly_induction (p := fun u => p ∈ u.pend) hp fun u r _ hr x hu => ?_)
      rw [takeRead_pend]
      exact (List.mem_erase_of_ne fun e => he (by rw [e]; exact hr)).mpr hu
  · exact .inl hp

/-- A whole element whose address lies outside every lease is +0, whatever was read early. -/
theorem earlyTaken_zero (s : State) (rs : List Src) (o : VVal) {w : Nat} (tag ord : Nat) {r : LRes} {js : List Nat} {f : Nat → VUnit} (h8 : 8 ≤ w)
    (hels : ∀ i, (f i).els = [i]) (hbytes : ∀ i, (f i).n = w / 8) (hn : js.Nodup) (hg : r.got.map (·.1) <+: js.map f) :
    ∀ u, (u, none) ∈ r.got → ∀ j ∈ u.els, (earlyTaken s rs ord (loadValue o w tag ord r)).el w j = 0 := by
  have hf : Function.Injective f := fun a b e => by
    have := congrArg VUnit.els e
    rw [hels, hels] at this
    exact (List.cons.inj this).1
  have hnd : (r.got.map (·.1)).Nodup := (hn.map hf).sublist hg.sublist
  have unit {g : VUnit × Option Loc} (h : g ∈ r.got) : ∃ i, f i = g.1 := by
    obtain ⟨i, _, hi⟩ := List.mem_map.mp (hg.subset (List.mem_map_of_mem h))
    exact ⟨i, hi⟩
  intro u hu j hj
  obtain ⟨i, rfl⟩ := unit hu
  rw [hels, List.mem_singleton] at hj
  subst hj
  have hmem : j ∈ r.els := List.mem_flatMap.mpr ⟨_, hu, by rw [hels]; exact List.mem_singleton_self j⟩
  have hzero : j ∈ r.zeros := List.mem_filterMap.mpr ⟨_, hu, by simp [hels]⟩
  rw [earlyTaken_el, loadValue_el_zero o w tag ord hmem hzero]
  intro p hp
  rcases pend_loadValue hp with ⟨ps, hp⟩ | hp | hp
  · exact misses_of_stillPending hmem p hp
  · obtain ⟨⟨u, x⟩, hx, hp⟩ := List.mem_flatMap.mp hp
    obtain ⟨i, rfl⟩ := unit hx
    cases x with
    | none => exact absurd hp List.not_mem_nil
    | some l =>
      have hij : i ≠ j := by
        rintro rfl
        exact absurd (List.inj_on_of_nodup_map hnd hu hx rfl) nofun
      unfold unitReads at hp
      simp only [h8, decide_true, Bool.true_or, if_true, List.mem_singleton, hels] at hp
      subst hp
      exact misses_of_ne (hbytes i) hij l 0 ord
  · exact fun h => absurd h hp

/-! ## The result of the checks, carried out -/

/-- A state in which a load has put its value v. -/
structure Holds (d : VReg) (s t : State) (v : VVal) : Prop where
  calm : Calm s t
  entry : pushes s d = true → staged t = some v
  reg : pushes s d = false → vreg t d = v

theorem Holds.watched {d : VReg} {s t : State} {v : VVal} (h : Holds d s t v) : watched t d = v := by
  unfold Machine.watched
  rw [h.calm.pushes]
  cases hp : pushes s d with
  | true => exact congrArg (fun o => o.getD VVal.zero) (h.entry hp)
  | false => exact h.reg hp

theorem loadBase_calm (s : State) (d : VReg) (tag : Nat) : Calm s (loadBase s d tag).2 := by
  unfold loadBase
  split
  · split
    · split
      · exact blankImage_calm s tag
      · exact .refl s
    · exact blankImage_calm s tag
  · exact .refl s

theorem loadBase_vframe (s : State) (d : VReg) (tag : Nat) : VFrame d s (loadBase s d tag).2 := by
  unfold loadBase
  split
  · split
    · split
      · exact blankImage_vframe d s tag
      · exact .refl d s
    · exact blankImage_vframe d s tag
  · exact .refl d s

theorem putLoad_vframe (s : State) (d : VReg) (v : VVal) : VFrame d s (putLoad s d v) := by
  unfold putLoad
  split
  · split
    · exact beginStaged_vframe d s v
    · exact setStaged_vframe d s v
  · exact setVreg_vframe d s v

theorem putLoad_holds (s : State) (d : VReg) (v : VVal) : Holds d s (putLoad s d v) v := by
  unfold putLoad
  cases hp : pushes s d with
  | false => exact ⟨setVreg_calm s d v, fun h => absurd (hp.symm.trans h) Bool.false_ne_true, fun _ => vreg_setVreg_self s d v⟩
  | true =>
    rw [if_pos rfl]
    split
    · exact ⟨beginStaged_calm s v, fun _ => staged_beginStaged s v, fun h => absurd (h.symm.trans hp) Bool.false_ne_true⟩
    · exact ⟨setStaged_calm s v, fun _ => staged_setStaged s v, fun h => absurd (h.symm.trans hp) Bool.false_ne_true⟩

theorem Holds.readAnew {d : VReg} {s t : State} {v : VVal} (h : Holds d s t v) (ls : List (Loc × Nat)) : Holds d s (readAnewUnits t ls) v := by
  have hc := h.calm.trans (readAnewUnits_calm t ls)
  obtain ⟨es, he⟩ := readAnewUnits_eq t ls
  rw [he] at hc ⊢
  exact ⟨hc, h.entry, h.reg⟩

theorem Holds.after {d : VReg} {s t u : State} {v : VVal} (hc : Calm s t) (h : Holds d t u v) : Holds d s u v :=
  ⟨hc.trans h.calm, fun hp => h.entry ((hc.pushes d).trans hp), fun hp => h.reg ((hc.pushes d).trans hp)⟩

/-- The result of a load's checks, carried out: a state that holds the value, from which the load stops, waits or completes. -/
theorem loadFinish_eq (s : State) (rs : List Src) (d : VReg) (wait : Bool) (r : LRes) :
    ∃ t o, VFrame d r.s t ∧ Holds d r.s t (earlyTaken s rs r.s.dev.nextUid (loadValue o (wOf s) (etOf s) r.s.dev.nextUid r)) ∧
      loadFinish s rs d wait r = match r.stop with
        | some (i, va, e) => stopAt (setVstart t (i.getD (vlOf s))) va e
        | none => if wait then waitLanded t rs d else loadDone t rs d := by
  let s1 := if pushes r.s.fresh.2 d then r.s.fresh.2 else claim r.s.fresh.2 d (wOf s) r.els
  have hc1 : Calm r.s s1 := by
    unfold s1
    split
    · exact fresh_calm r.s
    · exact (fresh_calm r.s).trans (claim_calm _ d _ _)
  have hf1 : VFrame d r.s s1 := by
    unfold s1
    split
    · exact fresh_vframe d r.s
    · exact (fresh_vframe d r.s).trans (claim_vframe d _ _ _)
  exact ⟨_, (loadBase s1 d (etOf s)).1, (hf1.trans (loadBase_vframe s1 d _)).trans ((putLoad_vframe _ d _).trans (readAnewUnits_vframe _ d _)),
    ((putLoad_holds _ d _).readAnew _).after (hc1.trans (loadBase_calm s1 d _)), rfl⟩

/-- A load whose checks gave r completes or waits with its reads outstanding, or stops where they stopped. -/
structure Loads (s : State) (rs : List Src) (d : VReg) (wait : Bool) (r : LRes) (o : Out) : Prop where
  done : r.stop = none → ∃ t v, o = .next t ∧ t.mem = r.s.mem ∧ t.log = r.s.log ∧ t.cpu.regs.s = s.cpu.regs.s ∧ t.cpu.trap = s.cpu.trap ∧
    v.fmt = etOf s ∧
    (∃ ord, ∀ u l, (u, some l) ∈ r.got → ∀ p ∈ unitReads (wOf s) ord u l,
      p ∈ v.pend ∨ (mrGm s.cpu.ctl.mr = 0 ∧ (s.cpu.mem.earlyOf true (depOfSrcs s rs) p.loc p.bytes).isSome = true)) ∧
    (8 ≤ wOf s → ∀ u, (u, none) ∈ r.got → ∀ j ∈ u.els, v.el (wOf s) j = 0) ∧
    if wait = true ∧ v.landed ≠ 0xFF then t.cpu.wait = some (.landed d false) ∧ t.cpu.ctl.pc = s.cpu.ctl.pc ∧ v = watched t d
    else t.cpu.wait = none ∧ t.cpu.ctl = (complete (setVstart s 0)).cpu.ctl ∧ v = resultAt s t d
  stop : ∀ j va c, r.stop = some (some j, va, .cause c) →
    ∃ u, o = .next (takeTrapAt u c va s.cpu.ctl.pc) ∧ u.cpu.ctl.vstart = BitVec.ofNat 64 j

theorem etOf_lt (s : State) : etOf s < 64 := Nat.mod_lt _ (by decide)

theorem loadDone_eq {s t : State} {rs : List Src} {d : VReg} {v : VVal} (h : Holds d s t v) :
    loadDone t rs d = .next (vdone (if pushes s d then pushV t d v else t) rs) := by
  unfold loadDone
  rw [h.calm.pushes]
  cases hp : pushes s d with
  | true => simp only [if_true, h.entry hp]
  | false => rfl

/-- A load completes in a state that keeps the frame, with its value in its place. -/
theorem loadDone_result {s t : State} {rs : List Src} {d : VReg} {v : VVal} {vs : List SVal} {room : Bool}
    (hr : vreadable s rs (.v d) room = some vs) (h : Holds d s t v) :
    ∃ u, loadDone t rs d = .next u ∧ VFrame d t u ∧ u.cpu.wait = none ∧ u.cpu.ctl = (complete (setVstart s 0)).cpu.ctl ∧ v = resultAt s u d := by
  have hend (u : State) : VFrame d u (vdone u rs) := (popOps_vframe d u rs).trans ((setVstart_vframe d _ 0).trans (complete_vframe d _))
  refine ⟨_, loadDone_eq h, ?_⟩
  cases hp : pushes s d with
  | true =>
    rw [if_pos rfl]
    refine ⟨(pushV_vframe ((h.calm.pushes d).trans hp) v).trans (hend _), rfl, ?_, (resultAt_pushV hr hp ((h.calm.pushes d).trans hp) v).symm⟩
    rw [vdone_ctl]
    exact complete_ctl_congr ((congrArg Strand.ctl (pushV_cpu t d v)).trans h.calm.ctl)
      ((modQueues_sameSight (dropStaged t) _).vlgOf.trans ((dropStaged_calm t).vlg.trans h.calm.vlg))
  | false =>
    rw [if_neg Bool.false_ne_true]
    refine ⟨hend t, rfl, (vdone_ctl t rs).trans h.calm.done_ctl, ?_⟩
    unfold resultAt
    rw [hp, if_neg Bool.false_ne_true, vreg_vdone]
    exact (h.reg hp).symm

theorem goesPast_of_not_landed {s : State} (h : waitsLanded s = false) : goesPast s = false := by
  unfold waitsLanded at h
  unfold goesPast
  split
  · next e => simp only [e, Bool.true_eq_false] at h
  · rfl

theorem loadFinish_loads {s : State} {rs : List Src} {d : VReg} {vs : List SVal} (wait : Bool) {r : LRes}
    (hr : vreadable s rs (.v d) true = some vs) (ha : Aside s r.s) (hw : waitsLanded s = false)
    (hz : ∀ o ord, 8 ≤ wOf s → ∀ u, (u, none) ∈ r.got → ∀ j ∈ u.els, (earlyTaken s rs ord (loadValue o (wOf s) (etOf s) ord r)).el (wOf s) j = 0) :
    Loads s rs d wait r (loadFinish s rs d wait r) := by
  obtain ⟨t, o, hf, hold, he⟩ := loadFinish_eq s rs d wait r
  have hin := hold.after ha.calm
  have hfmt : (earlyTaken s rs r.s.dev.nextUid (loadValue o (wOf s) (etOf s) r.s.dev.nextUid r)).fmt = etOf s := by
    unfold VVal.fmt
    rw [earlyTaken_tag]
    exact (BitVec.toNat_ofNat ..).trans (Nat.mod_eq_of_lt (etOf_lt s))
  have hpend : ∀ u l, (u, some l) ∈ r.got → ∀ p ∈ unitReads (wOf s) r.s.dev.nextUid u l, _ :=
    fun u l h p hp => earlyTaken_pend s rs r.s.dev.nextUid (loadValue_pend o (wOf s) (etOf s) _ r p (mem_reads h p hp))
  have hzero := hz o r.s.dev.nextUid
  generalize earlyTaken s rs r.s.dev.nextUid (loadValue o (wOf s) (etOf s) r.s.dev.nextUid r) = v at *
  have hregs : r.s.cpu.regs.s = s.cpu.regs.s := congrArg (fun c : Strand => c.regs.s) ha.cpu
  have htrap : r.s.cpu.trap = s.cpu.trap := congrArg Strand.trap ha.cpu
  rw [he]
  refine ⟨fun hs => ?_, fun j va c hs => ?_⟩
  · rw [hs]
    by_cases hl : wait = true ∧ v.landed ≠ 0xFF
    · obtain ⟨rfl, hl⟩ := hl
      have hgo : waitLanded t rs d = .next (t.waitFor (.landed d false)) := by
        have hg : goesPast t = false := by
          unfold goesPast
          rw [hin.calm.wait]
          exact goesPast_of_not_landed hw
        have hne : (v.landed == 0xFF) = false := beq_eq_false_iff_ne.mpr hl
        unfold waitLanded
        rw [hin.watched, hg, hne]
        rfl
      refine ⟨_, v, hgo, hf.mem, hf.log, hf.scalars.trans hregs, hf.trap.trans htrap, hfmt, ⟨_, hpend⟩, hzero, ?_⟩
      rw [if_pos ⟨rfl, hl⟩]
      exact ⟨rfl, hin.calm.pc, hin.watched.symm⟩
    · have hgo : (if wait = true then waitLanded t rs d else loadDone t rs d) = loadDone t rs d := by
        split
        · next hwt =>
          have hv : v.landed = 0xFF := by_contra fun h => hl ⟨hwt, h⟩
          unfold waitLanded
          rw [hin.watched, hv]
          rfl
        · rfl
      obtain ⟨u, hu, hfu, hwu, hcu, hv⟩ := loadDone_result hr hin
      have hfu := hf.trans hfu
      refine ⟨u, v, hgo.trans hu, hfu.mem, hfu.log, hfu.scalars.trans hregs, hfu.trap.trans htrap, hfmt, ⟨_, hpend⟩, hzero, ?_⟩
      rw [if_neg hl]
      exact ⟨hwu, hcu, hv⟩
  · rw [hs]
    refine ⟨setVstart t j, ?_, rfl⟩
    have hpc : t.cpu.ctl.pc = s.cpu.ctl.pc := hin.calm.pc
    rw [← hpc]
    rfl

/-! ## The instructions -/

/-- What the checks of a load give. -/
def loadRes (s : State) (mode : LeaseMode) (us : List VUnit) (side : List (Bool × Nat × Word)) : LRes :=
  loadSide side (loadElems mode us { s := s, got := [], side := [], stop := none })

theorem loadRes_aside (s : State) (mode : LeaseMode) (us : List VUnit) (side : List (Bool × Nat × Word)) : Aside s (loadRes s mode us side).s :=
  (loadElems_aside mode us ⟨s, [], [], none⟩).trans (loadSide_aside _ _)

theorem loadRes_none {s : State} {mode : LeaseMode} (hm : mode ≠ .zero) (us : List VUnit) (side : List (Bool × Nat × Word)) (u : VUnit) :
    (u, none) ∉ (loadRes s mode us side).got := by
  unfold loadRes
  rw [loadSide_got]
  exact fun h => loadElems_none hm us ⟨s, [], [], none⟩ (fun _ h => absurd h List.not_mem_nil) _ h rfl

theorem activeLeft_nodup (s : State) : (activeLeft s).Nodup := by
  unfold activeLeft
  rw [activeFrom_eq]
  exact List.nodup_range.filter _

section
variable {s : State} {vs : List SVal} (hw : waitsLanded s = false) (hn : vlOf s ≤ vlmax (wOf s)) (hl : vstartOf s < vlOf s)
include hw hn hl

theorem vload_loads {rs : List Src} {d : VReg} {wait strided : Bool} {units : List SVal → List Nat → List VUnit} {word : Nat}
    (hsub : subByteBad s = false) (hq : quietOps s rs (.v d) true = some vs) (hp : strided = true → plainByte (etOf s) = true) :
    let side := if strided then [] else sideUnits (wordAt vs 0) (etOf s) (wOf s) (vlOf s)
    Loads s rs d wait (loadRes s .lse (units vs (activeLeft s)) side) (vload s word rs d wait strided units) := by
  intro side
  obtain ⟨_, hclean, hr, _⟩ := quietOps_spec hq
  have hgo : vload s word rs d wait strided units = loadFinish s rs d wait (loadRes s .lse (units vs (activeLeft s)) side) := by
    refine (whole_of_quiet _ _ hq).trans ((if_neg (by rw [hw]; exact Bool.false_ne_true)).trans ((fmtGate_of_fits _ rfl ?_ ?_).trans
      ((if_neg ?_).trans ((if_neg (by rw [hsub]; exact Bool.false_ne_true)).trans ((if_neg (Nat.not_le.mpr hl)).trans
      ((needM_of_clean _ _ hclean).trans ?_))))))
    · exact fun _ h => absurd h List.not_mem_nil
    · exact List.forall_mem_singleton.mpr hn
    · rw [Bool.and_eq_true, Bool.not_eq_true']
      exact fun h => absurd (hp h.1) (by rw [h.2]; exact Bool.false_ne_true)
    · cases strided <;> rfl
  rw [hgo]
  exact loadFinish_loads wait hr (loadRes_aside ..) hw fun _ _ _ u hu => absurd hu (loadRes_none (mode := .lse) (by decide) _ _ u)

theorem execVgat_loads {d : VReg} {a : SReg} {b : VReg} {strict : Bool} (hp : plainByte (etOf s) = true)
    (hq : quietOps s [.s a, .v b] (.v d) true = some vs) (hi : isIdxTag (vecAt vs 1).fmt = true)
    (hni : vlOf s ≤ vlmax (fmtWidth (vecAt vs 1).fmt)) :
    Loads s [.s a, .v b] d false (loadRes s (if strict then .bnd else .zero) (unitsIdx (wordAt vs 0) (vecAt vs 1) (wOf s) (activeLeft s)) [])
      (execVgat d a b strict s) := by
  obtain ⟨_, hclean, hr, hv⟩ := quietOps_spec hq
  have hreach : (if b == d then vlOf s else idxReach s (vecAt vs 1) (vstartOf s)) = vlOf s := by
    rw [idxReach_of_quiet (vecAt_quiet hv 1), ite_self]
  have hnone : reachStop s (vlOf s) = none := if_neg (Nat.lt_irrefl _)
  have hgo : execVgat d a b strict s = loadFinish s [.s a, .v b] d false
      (loadRes s (if strict then .bnd else .zero) (unitsIdx (wordAt vs 0) (vecAt vs 1) (wOf s) (activeLeft s)) []) := by
    refine (whole_of_quiet _ _ hq).trans ?_
    simp only [hreach, hnone]
    refine (if_neg (by rw [hp]; decide)).trans ((if_neg (by rw [hi]; decide)).trans ((fmtGate_of_fits _ rfl ?_ ?_).trans
      ((if_neg (Nat.not_le.mpr hl)).trans ((needV_of_quiet _ ?_).trans ((needM_of_clean _ _ hclean).trans ?_)))))
    · exact fun _ h => absurd h List.not_mem_nil
    · exact List.forall_mem_cons.mpr ⟨hni, List.forall_mem_singleton.mpr hn⟩
    · exact List.forall_mem_singleton.mpr ⟨vecAt_quiet hv 1, fun g hg => by split at hg <;> exact groupsOf_lt hg⟩
    · have horElse (x : Option (Option Nat × Word × MStop)) : x.orElse (fun _ => none) = x := by cases x <;> rfl
      exact congrArg (fun x => loadFinish s _ d false { loadElems _ _ _ with stop := x }) (horElse _)
  rw [hgo]
  refine loadFinish_loads false hr (loadRes_aside ..) hw fun o ord h8 => earlyTaken_zero s _ o (etOf s) ord h8
    (f := fun i => { els := [i], va := wordAt vs 0 + idxOf (vecAt vs 1) i * BitVec.ofNat 64 (wOf s / 8), n := wOf s / 8 })
    (fun _ => rfl) (fun _ => rfl) (activeLeft_nodup s) ?_
  unfold loadRes
  rw [loadSide_got]
  obtain ⟨vs', hpre, he⟩ := loadElems_got (if strict then .bnd else .zero) (unitsIdx (wordAt vs 0) (vecAt vs 1) (wOf s) (activeLeft s)) ⟨s, [], [], none⟩
  rw [he]
  exact hpre

end

theorem execVwait_of_readable {s : State} {d : VReg} {v : VVal} (ht : isTask s = true) (hr : vreadable s [.v d] .none false = some [.v v]) :
    execVwait d s = if v.landed == 0xFF || goesPast s then .next (complete s) else .next (s.waitFor (.landed d false)) :=
  (taskOnly_of_isTask _ _ ht).trans (readOps_of_vreadable _ _ hr)

/-- A `.wait` load that waits completes once its register has landed. -/
theorem execVld_of_landed {s : State} {d : VReg} {a : SReg} {x : Word} (ht : isTask s = true)
    (hr : vreadable s [.s a] (.v d) true = some [.s x]) (hw : waitsLanded s = true) (hp : pushes s d = false) (hl : (vreg s d).landed = 0xFF) :
    execVld d a true s = .next (vdone s [.s a]) := by
  have hwatch : watched s d = vreg s d := by
    unfold watched
    rw [hp]
    rfl
  refine (taskOnly_of_isTask _ _ ht).trans ((readOps_of_vreadable _ _ hr).trans ((if_pos hw).trans ?_))
  unfold waitLanded loadDone
  rw [hwatch, hl, hp]
  rfl

/-- Settles O25: the checks of a load on quiet operands, carried out, and the wait for landed groups. -/
theorem vectorLoads : Obligations.VectorLoads := by
  unfold Obligations.VectorLoads
  refine ⟨fun s d vs hw hn hl hsub => ?_, fun s d v ht hr => ⟨fun h => ?_, fun h hg => ?_⟩,
    fun s d a x ht hr hw hp hl => execVld_of_landed ht hr hw hp hl⟩
  · have parts {rs : List Src} {wait : Bool} {r : LRes} {o : Out} (h : Loads s rs d wait r o) := And.intro h.done h.stop
    refine ⟨fun a wait hq => ?_, fun a b wait hsc h8 hq => ?_, fun a b strict hsc h8 hi hni hq => ?_⟩
    · exact parts (vload_loads (strided := false) (units := fun vs is => unitsAt (wordAt vs 0) (wOf s) is) hw hn hl hsub hq
        (fun h => absurd h Bool.false_ne_true))
    · exact parts (vload_loads (strided := true) (units := fun vs is => unitsBy (wordAt vs 0) (wordAt vs 1) (wOf s) is) hw hn hl hsub hq
        (fun _ => plainByte_iff.mpr ⟨hsc, h8⟩))
    · exact parts (execVgat_loads hw hn hl (plainByte_iff.mpr ⟨hsc, h8⟩) hq hi hni)
  · refine (execVwait_of_readable ht hr).trans (if_pos ?_)
    rw [Bool.or_eq_true, beq_iff_eq]
    exact h
  · refine (execVwait_of_readable ht hr).trans (if_neg ?_)
    rw [Bool.or_eq_true, beq_iff_eq, hg]
    exact fun e => e.elim h Bool.false_ne_true

end Sys2Proof.Machine
end

section
/-! Chaining vector instructions on quiet sources (R138 to R151, R173, R179): what their element groups write, and how they end. -/

namespace Sys2Proof.Machine

/-! ## Values with elements written -/

theorem fmtWidth_slots (f : Nat) : fmtWidth f < 16 ∨ fmtWidth f % 16 = 0 := by
  unfold fmtWidth
  split <;> decide

theorem vlmax_fmtWidth (f : Nat) : vlmax (fmtWidth f) = 8 * epg (fmtWidth f) := by
  unfold fmtWidth vlmax epg
  split <;> decide

theorem epg_fmtWidth_pos (f : Nat) : 0 < epg (fmtWidth f) := by
  unfold fmtWidth epg
  split <;> decide

theorem getEl_zero (n w i : Nat) : getEl n 0 w i = 0 := by
  unfold getEl
  rw [BitVec.ofNat_eq_ofNat, BitVec.toNat_ofNat, Nat.zero_mod, Nat.zero_div, Nat.zero_mod]

theorem VVal.el_zero (w i : Nat) : VVal.zero.el w i = 0 := getEl_zero 8192 w i

/-- The state of an element is that of its slots. -/
theorem VVal.st_congr {u v : VVal} {w j : Nat} (h : ∀ k, k < w / 16 → getEl 1024 u.pres 2 (w * j / 16 + k) = getEl 1024 v.pres 2 (w * j / 16 + k)) :
    u.st w j = v.st w j := by
  have zero {x : VVal} (hx : x.pres = 0) : x.slotsPresent w j := by
    intro k _
    rw [hx]
    exact getEl_zero 1024 2 _
  by_cases hw : w < 16
  · unfold VVal.st
    simp [hw]
  by_cases hu : u.pres = 0
  · have hv : v.slotsPresent w j := fun k hk => (h k hk).symm.trans (zero hu k hk)
    rw [st_of_slotsPresent (zero hu), st_of_slotsPresent hv]
  by_cases hv : v.pres = 0
  · have hu : u.slotsPresent w j := fun k hk => (h k hk).trans (zero hv k hk)
    rw [st_of_slotsPresent (zero hv), st_of_slotsPresent hu]
  · have he : (List.range (w / 16)).map (fun k => getEl 1024 u.pres 2 (w * j / 16 + k)) =
        (List.range (w / 16)).map (fun k => getEl 1024 v.pres 2 (w * j / 16 + k)) :=
      List.map_congr_left fun k hk => h k (List.mem_range.mp hk)
    have gate {x : VVal} (hx : ¬x.pres = 0) : (decide (w < 16) || x.pres == 0) = false := by
      rw [Bool.or_eq_false_iff, decide_eq_false_iff_not, beq_eq_false_iff_ne]
      exact ⟨hw, hx⟩
    unfold VVal.st
    rw [he, gate hu, gate hv]

/-- A slot that none of the given ones is stays. -/
theorem getEl_foldl_setEl_of_ne (ks : List Nat) {f : Nat → Nat} {q : Nat} (p : Nat) (h : ∀ k ∈ ks, q ≠ f k) (m : BitVec 1024) :
    getEl 1024 (ks.foldl (fun m k => setEl 1024 m 2 (f k) p) m) 2 q = getEl 1024 m 2 q := by
  induction ks generalizing m with
  | nil => rfl
  | cons k ks ih =>
    obtain ⟨hk, hks⟩ := List.forall_mem_cons.mp h
    exact (ih hks _).trans (getEl_setEl_ne _ _ hk)

/-- An element narrower than a slot has no state of its own. -/
theorem VVal.st_narrow (v : VVal) {w : Nat} (hw : w < 16) (j : Nat) : v.st w j = pPresent := by
  unfold VVal.st
  rw [decide_eq_true hw]
  rfl

theorem VVal.put_landed (v : VVal) (w i x p : Nat) : (v.put w i x p).landed = v.landed := by
  unfold VVal.put VVal.setSt
  split <;> rfl

/-- The slots of the other elements stay when one is written. -/
theorem slot_put_of_ne {v : VVal} {w i j k : Nat} (hw : w < 16 ∨ w % 16 = 0) (hij : j ≠ i) (hk : k < w / 16) (x p : Nat) :
    getEl 1024 (v.put w i x p).pres 2 (w * j / 16 + k) = getEl 1024 v.pres 2 (w * j / 16 + k) := by
  unfold VVal.put VVal.setSt
  split
  · rfl
  · next h16 =>
    refine getEl_foldl_setEl_of_ne _ p (fun l hl => ?_) v.pres
    obtain ⟨q, rfl⟩ : ∃ q, w = 16 * q := ⟨w / 16, by omega⟩
    rw [List.mem_range, Nat.mul_div_cancel_left _ (by decide)] at hl
    rw [Nat.mul_div_cancel_left _ (by decide)] at hk
    rw [Nat.mul_assoc, Nat.mul_assoc, Nat.mul_div_cancel_left _ (by decide), Nat.mul_div_cancel_left _ (by decide)]
    intro e
    have ej : (q * j + k) / q = j := by rw [Nat.mul_add_div (by omega), Nat.div_eq_of_lt hk, Nat.add_zero]
    have ei : (q * i + l) / q = i := by rw [Nat.mul_add_div (by omega), Nat.div_eq_of_lt hl, Nat.add_zero]
    exact hij (ej.symm.trans (e ▸ ei))

/-- A slot set PRESENT where all are leaves them so. -/
theorem setEl_zero_present (i : Nat) : setEl 1024 0 2 i pPresent = 0 := by
  apply BitVec.eq_of_getLsbD_eq
  intro k _
  rw [getLsbD_setEl]
  simp [pPresent]

theorem pres_put_of_zero {v : VVal} (h : v.pres = 0) (w i x : Nat) : (v.put w i x pPresent).pres = 0 := by
  unfold VVal.put VVal.setSt
  split
  · exact h
  · refine List.foldlRecOn (motive := fun m => m = 0) _ _ h (fun m hm k _ => ?_)
    rw [hm]
    exact setEl_zero_present _

/-- v is o with elements `is`, of width w, PRESENT with the values f, and every other element as it was. -/
structure VVal.Wrote (o v : VVal) (w : Nat) (is : List Nat) (f : Nat → Nat) : Prop where
  mem : ∀ j ∈ is, v.el w j = f j % 2 ^ w ∧ v.st w j = pPresent
  kept : ∀ j, j ∉ is → v.el w j = o.el w j ∧ v.st w j = o.st w j
  landed : o.landed = 0xFF → v.landed = 0xFF
  pres : o.pres = 0 → v.pres = 0

theorem VVal.Wrote.refl (o : VVal) (w : Nat) (f : Nat → Nat) : Wrote o o w [] f :=
  ⟨fun _ h => absurd h List.not_mem_nil, fun _ _ => ⟨rfl, rfl⟩, fun h => h, fun h => h⟩

theorem VVal.Wrote.trans {o v u : VVal} {w : Nat} {is js : List Nat} {f : Nat → Nat} (h : Wrote o v w is f) (k : Wrote v u w js f) :
    Wrote o u w (is ++ js) f where
  mem j hj := by
    by_cases hjs : j ∈ js
    · exact k.mem j hjs
    · rw [(k.kept j hjs).1, (k.kept j hjs).2]
      exact h.mem j ((List.mem_append.mp hj).resolve_right hjs)
  kept j hj := by
    rw [List.mem_append, not_or] at hj
    obtain ⟨hi, hj⟩ := hj
    exact ⟨(k.kept j hj).1.trans (h.kept j hi).1, (k.kept j hj).2.trans (h.kept j hi).2⟩
  landed e := k.landed (h.landed e)
  pres e := k.pres (h.pres e)

/-- Elements put PRESENT, one after the other. -/
theorem VVal.puts_wrote (o : VVal) {w : Nat} {is : List Nat} (f : Nat → Nat) (hw : w < 16 ∨ w % 16 = 0) (hn : is.Nodup)
    (hl : ∀ j ∈ is, (j + 1) * w ≤ 8192) :
    (∀ j ∈ is, (o.puts w (is.map fun i => (i, f i))).el w j = f j % 2 ^ w ∧ (o.puts w (is.map fun i => (i, f i))).st w j = pPresent) ∧
      (∀ j, j ∉ is → (o.puts w (is.map fun i => (i, f i))).el w j = o.el w j ∧ (o.puts w (is.map fun i => (i, f i))).st w j = o.st w j) := by
  have hm : (is.map fun i => (i, f i)).map (·.1) = is := by rw [List.map_map]; exact List.map_id is
  refine ⟨fun j hj => ⟨?_, ?_⟩, fun j hj => ⟨VVal.el_puts_of_not_mem (by rwa [hm]) o, ?_⟩⟩
  · exact VVal.el_puts_of_mem (by rwa [hm]) (List.mem_map_of_mem (f := fun i => (i, f i)) hj) (hl j hj) o
  · exact VVal.st_of_slotsPresent (VVal.slotsPresent_puts o (.inr (by rwa [hm])))
  · refine VVal.st_congr fun k hk => ?_
    clear hn hl hm
    induction is generalizing o with
    | nil => rfl
    | cons i is ih =>
      rw [List.mem_cons, not_or] at hj
      obtain ⟨hji, hj⟩ := hj
      exact (ih _ hj).trans (slot_put_of_ne hw hji hk _ _)

/-- A write of PRESENT elements to a value. -/
theorem VVal.write_wrote (o : VVal) {w : Nat} (tag : Nat) {is : List Nat} (f : Nat → Nat) (x y : BitVec 512) (hw : w < 16 ∨ w % 16 = 0)
    (hn : is.Nodup) (hl : ∀ j ∈ is, (j + 1) * w ≤ 8192) : Wrote o (o.write w tag (presents (is.map fun i => (i, f i))) x y) w is f := by
  obtain ⟨hmem, hkept⟩ := VVal.puts_wrote o f hw hn hl
  have hst (j : Nat) : (o.write w tag (presents (is.map fun i => (i, f i))) x y).st w j = (o.puts w (is.map fun i => (i, f i))).st w j :=
    VVal.st_congr fun k _ => by rw [VVal.write_pres]
  refine ⟨fun j hj => ?_, fun j hj => ?_, fun h => ?_, fun h => ?_⟩
  · rw [hst, VVal.write_el]
    exact hmem j hj
  · rw [hst, VVal.write_el]
    exact hkept j hj
  · refine List.foldlRecOn (motive := fun m => m = 0xFF) _ _ ?_ (fun m hm g _ => ?_)
    · exact List.foldlRecOn (motive := fun v : VVal => v.landed = 0xFF) _ _ h (fun v hv z _ => (VVal.put_landed v w z.1 z.2.1 z.2.2).trans hv)
    · rw [hm]
      exact BitVec.allOnes_or
  · rw [VVal.write_pres]
    refine List.foldlRecOn (motive := fun v : VVal => v.pres = 0) _ _ h (fun v hv z _ => pres_put_of_zero hv w z.1 z.2)

/-- A claim changes no element of the width it is made in. -/
theorem claim_wrote (s : State) (d : VReg) {w : Nat} (is : List Nat) (f : Nat → Nat) : VVal.Wrote (vreg s d) (vreg (claim s d w is) d) w [] f := by
  unfold claim
  simp only
  split
  · exact .refl _ w f
  · next hp =>
    split
    · exact .refl _ w f
    · next hw =>
      rw [vreg_setVreg_self]
      refine ⟨fun _ h => absurd h List.not_mem_nil, fun j _ => ⟨rfl, ?_⟩, fun h => h, fun h => absurd (beq_iff_eq.mpr h) hp⟩
      rw [VVal.st_narrow _ (Nat.not_le.mp hw), VVal.st_narrow _ (Nat.not_le.mp hw)]

end Sys2Proof.Machine
end

section
/-! Chaining vector instructions on quiet sources (R138 to R151, R173, R179): the plan of an element, the issue of a group and of all the
groups, and the end. -/

namespace Sys2Proof.Machine

/-! ## The plan of an element -/

/-- The value of a source's element i. -/
def COpd.at (o : COpd) (i : Nat) : Nat :=
  match o with
  | .vec _ v w => v.el w i
  | .sca x => x

/-- A quiet source, whose first n elements lie in a register. -/
def COpd.clear (n : Nat) : COpd → Prop
  | .vec _ v w => v.quiet = true ∧ ∀ i < n, w * i / 1024 < 8
  | .sca _ => True

/-- Operand j of element i of some sources. -/
def argAt (os : List COpd) (j i : Nat) : Nat := match os[j]? with | some o => o.at i | none => 0

/-- The result of element i, from its sources' values. -/
def laneAt (k : Chain) (i : Nat) : Option FRes :=
  laneElem k (argAt (usedSrcs k i) 0 i) (argAt (usedSrcs k i) 1 i) (argAt (usedSrcs k i) 2 i)

theorem esrc_of_quiet {s : State} {r w i : Nat} {v : VVal} (hv : v.quiet = true) (hg : w * i / 1024 < 8) : esrc s r v w i = .ok (v.el w i) := by
  obtain ⟨_, hl, hp, _⟩ := VVal.quiet_spec hv
  have hst : v.st w i = pPresent := VVal.st_of_slotsPresent fun k _ => by rw [hp]; exact getEl_zero 1024 2 _
  unfold esrc
  rw [hl, landed_all hg, hp, getEl_zero, hst]
  rw [if_neg (by decide)]
  split <;> rfl

theorem readOpd_of_clear {s : State} {n i : Nat} {o : COpd} (h : o.clear n) (hi : i < n) : readOpd s i o = .ok (o.at i) := by
  cases o with
  | vec r v w => exact esrc_of_quiet h.1 (h.2 i hi)
  | sca x => rfl

theorem mem_usedSrcs {k : Chain} {i : Nat} {o : COpd} (h : o ∈ usedSrcs k i) : o ∈ k.srcs := by
  unfold usedSrcs at h
  split at h
  · split at h
    · exact List.mem_of_mem_take h
    · exact List.mem_of_mem_drop (List.mem_of_mem_take h)
  · exact h

/-- An element whose sources are PRESENT and that no lane diverts. -/
theorem planElem_of_clear {s : State} {k : Chain} {n i : Nat} {r : FRes} (hs : ∀ o ∈ k.srcs, o.clear n) (hi : i < n)
    (hr : laneAt k i = some r) : planElem s k i = .done r.1 pPresent r.2 := by
  have hes : (usedSrcs k i).map (readOpd s i) = (usedSrcs k i).map (fun o => .ok (o.at i)) :=
    List.map_congr_left fun o ho => readOpd_of_clear (hs o (mem_usedSrcs ho)) hi
  have hat (j : Nat) : (match ((usedSrcs k i).map (fun o => ElSrc.ok (o.at i)))[j]? with | some (.ok x) => x | _ => 0) =
      argAt (usedSrcs k i) j i := by
    unfold argAt
    rw [List.getElem?_map]
    cases (usedSrcs k i)[j]? <;> rfl
  have hwait : ((usedSrcs k i).map (fun o => ElSrc.ok (o.at i))).any (fun e => e == .wait) = false := by
    rw [List.any_map]
    exact List.any_eq_false.mpr fun o _ => by simp
  have hopen : ((usedSrcs k i).map (fun o => ElSrc.ok (o.at i))).any ElSrc.open' = false := by
    rw [List.any_map]
    exact List.any_eq_false.mpr fun o _ => by simp [ElSrc.open']
  have hbad : ((usedSrcs k i).zip ((usedSrcs k i).map (fun o => ElSrc.ok (o.at i)))).findSome? (fun e => match e.2 with
      | .bad x c => some (faultBits k.tag (e.1.width k) x c) | _ => none) = none := by
    rw [List.findSome?_eq_none_iff]
    rintro ⟨o, e⟩ he
    obtain ⟨o', _, rfl⟩ := List.mem_map.mp (List.of_mem_zip he).2
    rfl
  unfold planElem
  unfold laneAt at hr
  simp only [hes, hwait, hopen, Bool.false_eq_true, if_false]
  generalize hb : List.findSome? _ _ = b
  obtain rfl : b = none := hb.symm.trans hbad
  generalize hl : laneElem k _ _ _ = l
  obtain rfl : l = some r := hl.symm.trans ((congr (congr (congrArg (laneElem k) (hat 0)) (hat 1)) (hat 2)).trans hr)
  rfl

/-! ## The issue of a group -/

/-- The flags of some elements. -/
def flagsOf (f : Nat → FRes) (is : List Nat) : Flags := is.foldl (fun a j => a ||| (f j).2) 0

/-- A state with the micro-operations of a group counted. -/
def counted (s : State) (k : Chain) (base lo : Nat) : State :=
  s.withCpu (fun x => { x with usage := x.usage.counts (microOps s k base lo ((lo / k.per + 1) * k.per)) })

/-- A state in which the elements of a group belong to older entries no more. -/
def claimed (s : State) (k : Chain) (d : VReg) (base lo : Nat) : State :=
  if pushes s d then
    if ((staged s).map (·.pres)).getD 0 == 0 then counted s k base lo
    else loseEls (counted s k base lo) (.staging s.pc) k.w (groupElems s k lo)
  else claim (counted s k base lo) d k.w (groupElems s k lo)

/-- The value that a group's results make of another. -/
def groupWrite (s : State) (k : Chain) (lo : Nat) (f : Nat → FRes) (o : VVal) : VVal :=
  o.write k.w k.tag (presents ((groupElems s k lo).map fun i => (i, (f i).1))) 0 0

/-- A group all of whose elements have their results issues: the destination takes them. -/
theorem issueGroup_of_done {s : State} {k : Chain} {d : VReg} (base lo : Nat) {f : Nat → FRes} (hfree : destFree s d = true)
    (hp : ∀ i ∈ groupElems s k lo, planElem s k i = .done (f i).1 pPresent (f i).2) :
    let s2 := claimed s k d base lo
    issueGroup s k d base lo false = .done (accrue (if pushes s d then setStaged s2 (groupWrite s k lo f ((staged s2).getD VVal.zero))
      else setVreg s2 d (groupWrite s k lo f (vreg s2 d))) (flagsOf f (groupElems s k lo))) := by
  intro s2
  have hps : (groupElems s k lo).map (fun i => (i, planElem s k i)) = (groupElems s k lo).map (fun i => (i, .done (f i).1 pPresent (f i).2)) :=
    List.map_congr_left fun i hi => congrArg (Prod.mk i) (hp i hi)
  have hstall : (groupElems s k lo).any (fun i => EPlan.done (f i).1 pPresent (f i).2 == EPlan.stall) = false :=
    List.any_eq_false.mpr fun _ _ => by simp
  have hnone : (groupElems s k lo).any (fun _ => false) = false := List.any_eq_false.mpr fun _ _ => Bool.false_ne_true
  have hzero : (groupElems s k lo).countP (fun _ => false) = 0 := List.countP_eq_zero.mpr fun _ _ => Bool.false_ne_true
  unfold issueGroup
  simp only [hps, destWaits_of_destFree hfree, List.any_map, List.countP_map, List.foldl_map, List.map_map, Function.comp_def, List.foldl_fixed,
    hstall, hnone, hzero]
  unfold s2 claimed groupWrite presents flagsOf
  rw [List.map_map]
  cases hpush : pushes s d <;> rfl

section
variable (s : State) (k : Chain) (d : VReg) (base lo : Nat)

theorem claimed_calm : Calm s (claimed s k d base lo) := by
  have hc : Calm s (counted s k base lo) := withUsage_calm s _
  unfold claimed
  split
  · split
    · exact hc
    · exact hc.trans (loseEls_calm _ _ _ _)
  · exact hc.trans (claim_calm _ d _ _)

theorem claimed_vframe : VFrame d s (claimed s k d base lo) := by
  have hf : VFrame d s (counted s k base lo) := withUsage_vframe d s _
  unfold claimed
  split
  · split
    · exact hf
    · exact hf.trans (loseEls_vframe d _ _ _ _)
  · exact hf.trans (claim_vframe d _ _ _)

theorem claimed_sameRun : sameRun s (claimed s k d base lo) := by
  unfold claimed
  split
  · split <;> exact ⟨rfl, rfl⟩
  · exact (sameRun.trans (b := counted s k base lo) ⟨rfl, rfl⟩ (claim_sameRun _ d _ _))

/-- A port's instruction claims no register, and what it builds stays. -/
theorem claimed_of_port (hp : pushes s d = true) :
    (claimed s k d base lo).cpu.regs = s.cpu.regs ∧ staged (claimed s k d base lo) = staged s := by
  unfold claimed
  rw [if_pos hp]
  split <;> exact ⟨rfl, rfl⟩

theorem claimed_of_register (hp : pushes s d = false) (f : Nat → Nat) :
    VVal.Wrote (vreg s d) (vreg (claimed s k d base lo) d) k.w [] f := by
  unfold claimed
  rw [hp]
  exact claim_wrote (counted s k base lo) d _ f

end

/-- A strand's part of memory that differs in what its vector registers depend on alone (R275). -/
theorem dependences_trans {a b c : MemSt} (h : b = { a with vdep := b.vdep }) (k : c = { b with vdep := c.vdep }) : c = { a with vdep := c.vdep } := by
  rw [k, h]

theorem watched_of_port {s : State} {d : VReg} (h : pushes s d = true) : watched s d = (staged s).getD VVal.zero := if_pos h

theorem watched_of_register {s : State} {d : VReg} (h : pushes s d = false) : watched s d = vreg s d := if_neg (by rw [h]; exact Bool.false_ne_true)

/-! ## Groups that have issued -/

/-- The active elements of some groups. -/
def groupsEls (s : State) (k : Chain) (gs : List Nat) : List Nat := gs.flatMap (groupElems s k)

/-- t is s after the groups gs have issued: the destination holds their results, and nothing else has changed but the flags. -/
structure Issued (s : State) (k : Chain) (d : VReg) (f : Nat → FRes) (gs : List Nat) (t : State) : Prop where
  calm : Calm (accrue s (flagsOf f (groupsEls s k gs))) t
  frame : VFrame d s t
  mem : t.cpu.mem = { s.cpu.mem with vdep := t.cpu.mem.vdep }
  regs : pushes s d = true → t.cpu.regs = s.cpu.regs
  entry : pushes s d = true → (staged s).isSome = true → (staged t).isSome = true
  wrote : VVal.Wrote (watched s d) (watched t d) k.w (groupsEls s k gs) (fun j => (f j).1)
  fmt : gs ≠ [] → (watched t d).fmt = k.tag

theorem flagsOf_append (f : Nat → FRes) (xs ys : List Nat) : flagsOf f (xs ++ ys) = flagsOf f xs ||| flagsOf f ys := by
  unfold flagsOf
  rw [List.foldl_append, foldl_or_flags]

theorem accrue_accrue (s : State) (f g : Flags) : accrue (accrue s f) g = accrue s (f ||| g) := by
  change s.withCtl (fun c => { c with fflags := c.fflags ||| f ||| g }) = s.withCtl (fun c => { c with fflags := c.fflags ||| (f ||| g) })
  simp only [BitVec.or_assoc]

theorem Issued.refl (s : State) (k : Chain) (d : VReg) (f : Nat → FRes) : Issued s k d f [] s := by
  refine ⟨?_, .refl d s, rfl, fun _ => rfl, fun _ h => h, .refl _ _ _, fun h => absurd rfl h⟩
  have : accrue s (flagsOf f (groupsEls s k [])) = s := accrue_zero s
  rw [this]
  exact .refl s

/-- The active elements depend on the masks and on MR alone. -/
theorem Issued.els {s t : State} {k : Chain} {d : VReg} {f : Nat → FRes} {gs : List Nat} (h : Issued s k d f gs t) (lo : Nat) :
    groupElems t k lo = groupElems s k lo := by
  have hm : t.cpu.regs.m = s.cpu.regs.m := h.frame.masks
  have hc : t.cpu.ctl.mr = (accrue s (flagsOf f (groupsEls s k gs))).cpu.ctl.mr := congrArg Ctl.mr h.calm.ctl
  have hg : chainActive t k = chainActive s k := by
    funext i
    unfold chainActive guardBit guardReg mreg
    rw [hm, hc]
    rfl
  unfold groupElems
  rw [hg]

theorem leaveDiv_cpu (s : State) : (leaveDiv s).cpu = s.cpu := by
  unfold leaveDiv
  split <;> rfl

/-- A strand that no longer waits for entries. -/
theorem Issued.leaveDiv {s t : State} {k : Chain} {d : VReg} {f : Nat → FRes} {gs : List Nat} (h : Issued s k d f gs t) :
    Issued s k d f gs (leaveDiv t) := by
  have hc := leaveDiv_calm t
  have hcpu := leaveDiv_cpu t
  have hwatch : watched (Machine.leaveDiv t) d = watched t d := by
    unfold watched staged vreg State.pc
    rw [hc.pushes, hcpu]
  refine ⟨h.calm.trans hc, h.frame.trans (leaveDiv_vframe d t), ?_, fun hp => ?_, fun hp hs => ?_, ?_, fun hg => ?_⟩
  · rw [hcpu]
    exact h.mem
  · rw [hcpu]
    exact h.regs hp
  · unfold staged State.pc
    rw [hcpu]
    exact h.entry hp hs
  · rw [hwatch]
    exact h.wrote
  · rw [hwatch]
    exact h.fmt hg

theorem Issued.port {s t : State} {k : Chain} {d : VReg} {f : Nat → FRes} {gs : List Nat} (h : Issued s k d f gs t) :
    pushes t d = pushes s d := h.calm.pushes d

theorem Issued.free {s t : State} {k : Chain} {d : VReg} {f : Nat → FRes} {gs : List Nat} (h : Issued s k d f gs t)
    (hfree : destFree s d = true) : destFree t d = true := by
  unfold destFree at *
  rw [h.port]
  cases hp : pushes s d with
  | true => rfl
  | false =>
    have hl := h.wrote.landed
    unfold watched at hl
    rw [h.port, hp, if_neg Bool.false_ne_true, if_neg Bool.false_ne_true] at hl
    rw [hp, Bool.false_or, beq_iff_eq] at hfree
    rw [Bool.false_or, beq_iff_eq]
    exact hl hfree

/-- The elements of a group are active ones below n, all different. -/
theorem mem_groupElems {s : State} {k : Chain} {lo j : Nat} :
    j ∈ groupElems s k lo ↔ lo ≤ j ∧ j < k.n ∧ j < (lo / k.per + 1) * k.per ∧ chainActive s k j = true := by
  unfold groupElems
  simp only [List.mem_filter, List.mem_map, List.mem_range]
  have hmin : ∀ x, x < Nat.min k.n ((lo / k.per + 1) * k.per) ↔ x < k.n ∧ x < (lo / k.per + 1) * k.per := fun x => Nat.lt_min
  constructor
  · rintro ⟨⟨i, hi, rfl⟩, ha⟩
    obtain ⟨h1, h2⟩ := (hmin (i + lo)).mp (by omega)
    exact ⟨Nat.le_add_left lo i, h1, h2, ha⟩
  · rintro ⟨h0, h1, h2, ha⟩
    have := (hmin j).mpr ⟨h1, h2⟩
    exact ⟨⟨j - lo, by omega, by omega⟩, ha⟩

theorem groupElems_nodup (s : State) (k : Chain) (lo : Nat) : (groupElems s k lo).Nodup :=
  (List.nodup_range.map fun _ _ h => Nat.add_right_cancel h).filter _

/-- No source of a clear instruction is poisoned. -/
theorem poisonFrom_of_clear {k : Chain} (hs : ∀ o ∈ k.srcs, o.clear k.n) (lo hi : Nat) : poisonFrom k lo hi = none := by
  unfold poisonFrom
  rw [List.findSome?_eq_none_iff]
  intro o ho
  cases o with
  | vec r v w =>
    simp only [vPoisoned_of_quiet (hs _ ho).1, Option.map_none]
  | sca x => rfl

/-! ## Where groups begin -/

/-- A later group begins at a multiple of the group's size. -/
theorem mem_groupStarts {k : Chain} {lo x : Nat} :
    x ∈ groupStarts k lo ↔ x = lo ∨ (∃ g, g < 8 ∧ x = (lo / k.per + 1 + g) * k.per) ∧ x < k.n := by
  unfold groupStarts
  rw [List.mem_cons, List.mem_filter, decide_eq_true_eq, List.mem_map]
  simp only [List.mem_range, eq_comm (a := x)]

/-- The last group is the only one left. -/
theorem groupStarts_of_last {k : Chain} {lo : Nat} (hn : k.n ≤ (lo / k.per + 1) * k.per) : groupStarts k lo = [lo] := by
  unfold groupStarts
  rw [List.filter_eq_nil_iff.mpr]
  intro x hx
  obtain ⟨g, _, rfl⟩ := List.mem_map.mp hx
  have : (lo / k.per + 1) * k.per ≤ (lo / k.per + 1 + g) * k.per := Nat.mul_le_mul_right _ (Nat.le_add_right _ g)
  rw [decide_eq_true_eq]
  omega

/-- At most eight groups are left of a register. -/
theorem length_groupStarts {k : Chain} {lo : Nat} (hn : k.n ≤ 8 * k.per) : (groupStarts k lo).length ≤ 8 := by
  have hlast : decide ((lo / k.per + 1 + 7) * k.per < k.n) = false := by
    rw [decide_eq_false_iff_not, Nat.not_lt]
    exact hn.trans (Nat.mul_le_mul_right _ (by generalize lo / k.per = q; omega))
  unfold groupStarts
  rw [List.length_cons, List.range_succ, List.map_append, List.filter_append, List.length_append, List.map_singleton, List.filter_singleton, hlast]
  have := List.length_filter_le (fun x => decide (x < k.n)) ((List.range 7).map (fun g => (lo / k.per + 1 + g) * k.per))
  rw [List.length_map, List.length_range] at this
  exact Nat.succ_le_succ this

section
variable {k : Chain} {lo : Nat} (hper : 0 < k.per)
include hper

theorem lt_nextStart : lo < (lo / k.per + 1) * k.per := by
  rw [Nat.mul_comm]
  exact Nat.lt_mul_div_succ lo hper

theorem groupStarts_nodup : (groupStarts k lo).Nodup := by
  refine List.nodup_cons.mpr ⟨fun h => ?_, (List.nodup_range.map fun a b h => ?_).filter _⟩
  · obtain ⟨g, _, hg⟩ := List.mem_map.mp (List.mem_filter.mp h).1
    have := lt_nextStart (lo := lo) hper
    have : (lo / k.per + 1) * k.per ≤ (lo / k.per + 1 + g) * k.per := Nat.mul_le_mul_right _ (Nat.le_add_right _ g)
    omega
  · exact Nat.add_left_cancel (Nat.eq_of_mul_eq_mul_right hper h)

/-- The groups hold the active elements from lo up to n. -/
theorem mem_groupsEls {s : State} {j : Nat} (hn : k.n ≤ 8 * k.per) :
    j ∈ groupsEls s k (groupStarts k lo) ↔ lo ≤ j ∧ j < k.n ∧ chainActive s k j = true := by
  unfold groupsEls
  rw [List.mem_flatMap]
  constructor
  · rintro ⟨x, hx, hj⟩
    obtain ⟨h1, h2, _, ha⟩ := mem_groupElems.mp hj
    refine ⟨?_, h2, ha⟩
    rcases mem_groupStarts.mp hx with rfl | ⟨⟨g, _, rfl⟩, _⟩
    · exact h1
    · have := lt_nextStart (lo := lo) hper
      have : (lo / k.per + 1) * k.per ≤ (lo / k.per + 1 + g) * k.per := Nat.mul_le_mul_right _ (Nat.le_add_right _ g)
      omega
  · rintro ⟨h1, h2, ha⟩
    by_cases hj : j < (lo / k.per + 1) * k.per
    · exact ⟨lo, mem_groupStarts.mpr (.inl rfl), mem_groupElems.mpr ⟨h1, h2, hj, ha⟩⟩
    · have hq : lo / k.per + 1 ≤ j / k.per := (Nat.le_div_iff_mul_le hper).mpr (Nat.le_of_not_lt hj)
      have hq8 : j / k.per < 8 := (Nat.div_lt_iff_lt_mul hper).mpr (h2.trans_le hn)
      have hle : j / k.per * k.per ≤ j := Nat.div_mul_le_self j k.per
      refine ⟨j / k.per * k.per, mem_groupStarts.mpr (.inr ⟨⟨j / k.per - (lo / k.per + 1), (Nat.sub_le _ _).trans_lt hq8, ?_⟩, hle.trans_lt h2⟩), mem_groupElems.mpr ⟨hle, h2, ?_, ha⟩⟩
      · rw [Nat.add_sub_cancel' hq]
      · rw [Nat.mul_div_cancel _ hper]
        exact lt_nextStart hper

end

section
variable {s : State} {k : Chain} {d : VReg} {f : Nat → FRes} (hfree : destFree s d = true) (htag : k.tag < 64) (hw : k.w < 16 ∨ k.w % 16 = 0)
  (hn : ∀ j < k.n, (j + 1) * k.w ≤ 8192)
include hfree htag hw hn

theorem Issued.step {gs : List Nat} {t : State} (h : Issued s k d f gs t) (base lo : Nat)
    (hp : ∀ i ∈ groupElems s k lo, planElem t k i = .done (f i).1 pPresent (f i).2) :
    ∃ u, issueGroup t k d base lo false = .done u ∧ Issued s k d f (gs ++ [lo]) u := by
  have hels := h.els lo
  have hgo := issueGroup_of_done base lo (h.free hfree) (f := f) (by rwa [hels])
  have hflags : flagsOf f (groupsEls s k (gs ++ [lo])) = flagsOf f (groupsEls s k gs) ||| flagsOf f (groupElems s k lo) := by
    unfold groupsEls
    rw [List.flatMap_append, flagsOf_append, List.flatMap_singleton]
  have hcalm {u : State} (hu : Calm (claimed t k d base lo) u) :
      Calm (accrue s (flagsOf f (groupsEls s k (gs ++ [lo])))) (accrue u (flagsOf f (groupElems s k lo))) := by
    rw [hflags, ← accrue_accrue]
    exact ((h.calm.trans (claimed_calm t k d base lo)).trans hu).accrue _
  have hframe := h.frame.trans (claimed_vframe t k d base lo)
  obtain ⟨_, hrun⟩ := claimed_sameRun t k d base lo
  have hmem : (claimed t k d base lo).cpu.mem = { s.cpu.mem with vdep := (claimed t k d base lo).cpu.mem.vdep } :=
    dependences_trans h.mem hrun
  have hwrite (o : VVal) : VVal.Wrote o (groupWrite t k lo f o) k.w (groupElems s k lo) (fun j => (f j).1) := by
    unfold groupWrite
    rw [hels]
    exact VVal.write_wrote o k.tag _ 0 0 hw (groupElems_nodup s k lo) fun j hj => hn j (mem_groupElems.mp hj).2.1
  have hfmt (o : VVal) : (groupWrite t k lo f o).fmt = k.tag := VVal.write_fmt _ _ _ _ _ _ htag
  have hconcat : groupsEls s k (gs ++ [lo]) = groupsEls s k gs ++ groupElems s k lo := by
    unfold groupsEls
    rw [List.flatMap_append, List.flatMap_singleton]
  rw [hels, h.port] at hgo
  refine ⟨_, hgo, ?_⟩
  cases hpush : pushes s d with
  | true =>
    have hpt : pushes t d = true := h.port.trans hpush
    obtain ⟨hregs, hstaged⟩ := claimed_of_port t k d base lo hpt
    have hc := hcalm (setStaged_calm (claimed t k d base lo) (groupWrite t k lo f ((staged (claimed t k d base lo)).getD VVal.zero)))
    rw [if_pos rfl]
    have hnow : watched (accrue (setStaged (claimed t k d base lo) (groupWrite t k lo f ((staged (claimed t k d base lo)).getD VVal.zero)))
        (flagsOf f (groupElems s k lo))) d = groupWrite t k lo f (watched t d) := by
      rw [watched_of_port ((hc.pushes d).trans hpush), watched_of_port hpt, ← hstaged]
      exact congrArg (fun o => o.getD VVal.zero) (staged_setStaged (claimed t k d base lo) _)
    refine ⟨hc, hframe.trans ((setStaged_vframe d _ _).trans (accrue_vframe d _ _)), hmem, fun _ => hregs.trans (h.regs hpush),
      fun _ _ => congrArg Option.isSome (staged_setStaged (claimed t k d base lo) _), ?_, fun _ => ?_⟩
    · rw [hnow, hconcat]
      exact h.wrote.trans (hwrite _)
    · rw [hnow]
      exact hfmt _
  | false =>
    have hpt : pushes t d = false := h.port.trans hpush
    have hc := hcalm (setVreg_calm (claimed t k d base lo) d (groupWrite t k lo f (vreg (claimed t k d base lo) d)))
    rw [if_neg Bool.false_ne_true]
    have hnow : watched (accrue (setVreg (claimed t k d base lo) d (groupWrite t k lo f (vreg (claimed t k d base lo) d)))
        (flagsOf f (groupElems s k lo))) d = groupWrite t k lo f (vreg (claimed t k d base lo) d) := by
      rw [watched_of_register ((hc.pushes d).trans hpush)]
      exact vreg_setVreg_self (claimed t k d base lo) d _
    have hclaim := claimed_of_register t k d base lo hpt (fun j => (f j).1)
    rw [← watched_of_register hpt] at hclaim
    refine ⟨hc, hframe.trans ((setVreg_vframe d _ _).trans (accrue_vframe d _ _)), ?_, fun h => absurd (hpush.symm.trans h) Bool.false_ne_true,
      fun h => absurd (hpush.symm.trans h) Bool.false_ne_true, ?_, fun _ => ?_⟩
    · exact dependences_trans hmem rfl
    · rw [hnow, hconcat]
      exact h.wrote.trans (hclaim.trans (hwrite _))
    · rw [hnow]
      exact hfmt _

/-- All the groups of an instruction on clear sources issue, one after the other. -/
theorem Issued.scan (base : Nat) (hs : ∀ o ∈ k.srcs, o.clear k.n) (gs : List Nat) (hf : ∀ i ∈ groupsEls s k gs, laneAt k i = some (f i)) :
    ∀ (budget : Nat) (r : Scan), gs.length ≤ budget → (r.ahead ++ gs).Nodup → r.full = false → Issued s k d f r.ahead r.s →
      (scanGroups k d base gs budget r).left = r.left ∧ Issued s k d f (r.ahead ++ gs) (scanGroups k d base gs budget r).s := by
  induction gs with
  | nil =>
    intro budget r _ _ _ h
    rw [List.append_nil]
    exact ⟨rfl, h⟩
  | cons lo gs ih =>
    intro budget r hb hd hfull h
    have hnot : r.ahead.contains lo = false := by
      rw [List.contains_eq_mem, decide_eq_false_iff_not]
      exact fun hm => (List.nodup_append.mp hd).2.2 lo hm lo List.mem_cons_self rfl
    have hpoison : groupPoison k r.ahead lo = none := by
      unfold groupPoison
      rw [poisonFrom_of_clear hs, ite_self]
    obtain ⟨u, hu, hi⟩ := h.step hfree htag hw hn base lo fun i hi =>
      planElem_of_clear hs (mem_groupElems.mp hi).2.1 (hf i (List.mem_append_left _ hi))
    cases budget with
    | zero => exact absurd hb (Nat.not_succ_le_zero _)
    | succ b =>
      unfold scanGroups
      rw [hnot, if_neg Bool.false_ne_true]
      simp only [hpoison, hfull, hu, Option.isSome_none, Bool.false_eq_true, if_false]
      have happ : r.ahead ++ lo :: gs = r.ahead ++ [lo] ++ gs := by simp
      rw [happ] at hd ⊢
      exact ih (fun i hi => hf i (List.mem_append_right _ hi)) b { r with s := u, full := false, ahead := r.ahead ++ [lo] } (Nat.le_of_succ_le_succ hb) hd rfl hi

/-- An instruction on clear sources issues all its groups, and comes to its end. -/
theorem issueGroups_of_clear {x : VDesc} (hd : x.d = d) (hs : ∀ o ∈ k.srcs, o.clear k.n) (hper : 0 < k.per)
    (hf : ∀ i ∈ groupsEls s k (groupStarts k (vstartOf s)), laneAt k i = some (f i)) (rs : List Src) {p : MicroSt} (hp : p.ahead = []) {budget : Nat}
    (hb : (groupStarts k (vstartOf s)).length ≤ budget) :
    ∃ t, Issued s k d f (groupStarts k (vstartOf s)) t ∧ issueGroups s k x rs p budget = chainEnd t x p rs k.n := by
  subst hd
  have h := Issued.scan hfree htag hw hn p.base hs (groupStarts k (vstartOf s)) hf budget { s := s, left := [], full := false, ahead := [] } hb
    (groupStarts_nodup hper) rfl (.refl s k x.d f)
  obtain ⟨hleft, hi⟩ := h
  refine ⟨_, hi.leaveDiv, ?_⟩
  unfold issueGroups
  rw [hp]
  simp only [hleft]

end

/-! ## The end of an instruction -/

theorem getLsbD_flagsOf (f : Nat → FRes) (is : List Nat) (b : Nat) : (flagsOf f is).getLsbD b = is.any (fun j => (f j).2.getLsbD b) := by
  induction is with
  | nil => exact BitVec.getLsbD_zero
  | cons i is ih =>
    have h := flagsOf_append f [i] is
    rw [List.singleton_append] at h
    rw [h, BitVec.getLsbD_or, ih, List.any_cons]
    exact congrArg (· || _) (congrArg (BitVec.getLsbD · b) (BitVec.zero_or (x := (f i).2)))

/-- The flags depend on which elements there are alone. -/
theorem flagsOf_congr {f : Nat → FRes} {is js : List Nat} (h : ∀ j, j ∈ is ↔ j ∈ js) : flagsOf f is = flagsOf f js := by
  apply BitVec.eq_of_getLsbD_eq
  intro b _
  rw [getLsbD_flagsOf, getLsbD_flagsOf, Bool.eq_iff_iff, List.any_eq_true, List.any_eq_true]
  exact exists_congr fun j => and_congr_left' (h j)

/-- A chaining instruction that began in s has completed in t: each active element below n has its result, and nothing else has changed. -/
structure Chained (s : State) (d : VReg) (tag w n : Nat) (act : Nat → Bool) (f : Nat → FRes) (t : State) : Prop where
  result : ∀ j, act j = true → (resultAt s t d).el w j = (f j).1 % 2 ^ w ∧ (resultAt s t d).st w j = pPresent
  fmt : (resultAt s t d).fmt = tag
  kept : pushes s d = false → ∀ j, act j = false → (vreg t d).el w j = (vreg s d).el w j ∧ (vreg t d).st w j = (vreg s d).st w j
  ctl : t.cpu.ctl = { (complete (setVstart s 0)).cpu.ctl with
    fflags := ((List.range n).filter act).foldl (fun a j => a ||| (f j).2) s.cpu.ctl.fflags }
  wait : t.cpu.wait = none
  frame : VFrame d s t
  others : pushes s d = true → ∀ r, vreg t r = vreg s r
  mem : t.cpu.mem = { s.cpu.mem with vdep := t.cpu.mem.vdep }

/-- What an instruction may do before its first group issues. -/
structure Begun (s s0 : State) (d : VReg) : Prop where
  calm : Calm s s0
  frame : VFrame d s s0
  regs : s0.cpu.regs = s.cpu.regs
  mem : s0.cpu.mem = s.cpu.mem

theorem Begun.vreg {s s0 : State} {d : VReg} (h : Begun s s0 d) (r : VReg) : vreg s0 r = vreg s r := by
  unfold Machine.vreg
  rw [h.regs]

theorem chainDone_vreg (s : State) (rs : List Src) (r : VReg) : vreg (chainDone s rs) r = vreg s r := vreg_vdone s rs r

/-- A completing instruction changes the strand's part of memory no further. -/
theorem Issued.done_mem {s s0 t u : State} {k : Chain} {d : VReg} {f : Nat → FRes} {gs : List Nat} (hb : Begun s s0 d) (h : Issued s0 k d f gs t)
    (hm : u.cpu.mem = t.cpu.mem) (rs : List Src) :
    (chainDone u rs).cpu.mem = { s.cpu.mem with vdep := (chainDone u rs).cpu.mem.vdep } := by
  have hd : (chainDone u rs).cpu.mem = u.cpu.mem := by
    change (popOps u rs).cpu.mem = _
    rw [popOps_cpu]
  rw [hd, hm, ← hb.mem]
  exact h.mem

section
variable {s s0 t : State} {k : Chain} {x : VDesc} {f : Nat → FRes} {gs : List Nat} {act : Nat → Bool} (hb : Begun s s0 x.d)
  (h : Issued s0 k x.d f gs t) (hact : ∀ j, j ∈ groupsEls s0 k gs ↔ act j = true) (hn : ∀ j, act j = true → j < k.n)
include hb h hact hn

/-- The control registers at the end: the flags of the active elements have been counted. -/
theorem Issued.done_ctl {u : State} (hc : u.cpu.ctl = t.cpu.ctl) (hv : vlgOf u = vlgOf t) (rs : List Src) :
    (chainDone u rs).cpu.ctl = { (complete (setVstart s 0)).cpu.ctl with
      fflags := ((List.range k.n).filter act).foldl (fun a j => a ||| (f j).2) s.cpu.ctl.fflags } := by
  have hflags : flagsOf f (groupsEls s0 k gs) = flagsOf f ((List.range k.n).filter act) := flagsOf_congr fun j => by
    rw [hact, List.mem_filter, List.mem_range]
    exact ⟨fun ha => ⟨hn j ha, ha⟩, fun ha => ha.2⟩
  rw [chainDone_ctl, foldl_or_flags (fun j => (f j).2)]
  change _ = { (complete (setVstart s 0)).cpu.ctl with fflags := s.cpu.ctl.fflags ||| flagsOf f ((List.range k.n).filter act) }
  refine complete_ctl_of_flags ?_ (hv.trans (h.calm.vlg.trans hb.calm.vlg))
  rw [hc, h.calm.ctl, ← hflags]
  rw [← hb.calm.ctl]
  rfl

variable (hgs : gs ≠ [])
include hgs

/-- An instruction with a register for its destination completes when all its groups have issued. -/
theorem chainEnd_of_register (hp : pushes s x.d = false) (p : MicroSt) (rs : List Src) (n : Nat) :
    ∃ u, chainEnd t x p rs n = .next u ∧ Chained s x.d k.tag k.w k.n act f u := by
  have hp0 : pushes s0 x.d = false := (hb.calm.pushes _).trans hp
  have hpt : pushes t x.d = false := h.port.trans hp0
  have hcpu (v : State) (hv : v = if p.kept then dropStaged t else t) : Calm t v ∧ VFrame x.d t v ∧ vreg v x.d = vreg t x.d ∧ v.cpu.mem = t.cpu.mem := by
    subst hv
    split
    · exact ⟨dropStaged_calm t, dropStaged_vframe x.d t, rfl, rfl⟩
    · exact ⟨.refl t, .refl x.d t, rfl, rfl⟩
  obtain ⟨hcalm, hframe, hreg, hmem⟩ := hcpu _ rfl
  have hgo : chainEnd t x p rs n = .next (chainDone (if p.kept then dropStaged t else t) rs) := by
    unfold chainEnd
    rw [hpt]
    rfl
  refine ⟨_, hgo, ?_⟩
  generalize (if p.kept then dropStaged t else t) = v at *
  have hval : vreg (chainDone v rs) x.d = watched t x.d := by
    rw [chainDone_vreg, hreg, watched_of_register hpt]
  have hres : resultAt s (chainDone v rs) x.d = watched t x.d := by
    unfold resultAt
    rw [hp, if_neg Bool.false_ne_true, hval]
  have hold : watched s0 x.d = vreg s x.d := (watched_of_register hp0).trans (hb.vreg x.d)
  refine ⟨fun j hj => ?_, ?_, fun _ j hj => ?_, h.done_ctl hb hact hn hcalm.ctl hcalm.vlg rs, rfl,
    ((hb.frame.trans h.frame).trans hframe).trans (chainDone_vframe _ v rs), fun hpt => absurd (hp.symm.trans hpt) Bool.false_ne_true, ?_⟩
  · rw [hres]
    exact h.wrote.mem j ((hact j).mpr hj)
  · rw [hres]
    exact h.fmt hgs
  · rw [hval, ← hold]
    exact h.wrote.kept j fun hm => by rw [(hact j).mp hm] at hj; exact absurd hj (by decide)
  · exact h.done_mem hb hmem rs

/-- One with a port for its destination pushes its entry, which holds no hole, once its groups have issued. -/
theorem chainEnd_of_port (hp : pushes s x.d = true) {vs : List SVal} {rs : List Src} {room : Bool} (hr : vreadable s rs (.v x.d) room = some vs)
    (hstaged : (staged s0).isSome = true) (hpres : (watched s0 x.d).pres = 0) (hroom : (vQueue (queuesOf s) x.d).length < vDepth x.d)
    (p : MicroSt) (n : Nat) : ∃ u, chainEnd t x p rs n = .next u ∧ Chained s x.d k.tag k.w k.n act f u := by
  have hp0 : pushes s0 x.d = true := (hb.calm.pushes _).trans hp
  have hpt : pushes t x.d = true := h.port.trans hp0
  obtain ⟨v, hv⟩ := Option.isSome_iff_exists.mp (h.entry hp0 hstaged)
  have hw : watched t x.d = v := by rw [watched_of_port hpt, hv]; rfl
  have hholes : v.holes = false := by
    unfold VVal.holes
    rw [← hw, h.wrote.pres hpres, bne_self_eq_false, Bool.false_and]
  have hq : queuesOf t = queuesOf s := Eq.trans (b := queuesOf (accrue s0 (flagsOf f (groupsEls s0 k gs)))) h.calm.queuesOf hb.calm.queuesOf
  have hfull : dstFull (queuesOf t) (.v x.d) = none := by
    rw [hq]
    refine if_neg ?_
    rw [Bool.and_eq_true, decide_eq_true_eq]
    exact fun hd => absurd hd.2 (Nat.not_le.mpr hroom)
  have hgo : chainEnd t x p rs n = .next (chainDone (pushV t x.d v) rs) := by
    unfold chainEnd
    rw [hpt]
    simp only [hv, hholes, hfull]
    rfl
  refine ⟨_, hgo, ?_⟩
  have hres : resultAt s (chainDone (pushV t x.d v) rs) x.d = watched t x.d := by
    rw [hw]
    exact resultAt_pushV hr hp hpt v
  have hctl : (pushV t x.d v).cpu.ctl = (dropStaged t).cpu.ctl := congrArg Strand.ctl (pushV_cpu t x.d v)
  have hmem : (pushV t x.d v).cpu.mem = (dropStaged t).cpu.mem := congrArg Strand.mem (pushV_cpu t x.d v)
  have hregs : (pushV t x.d v).cpu.regs = (dropStaged t).cpu.regs := congrArg Strand.regs (pushV_cpu t x.d v)
  refine ⟨fun j hj => ?_, ?_, fun hpf => absurd (hp.symm.trans hpf) (by decide), h.done_ctl hb hact hn hctl ?_ rs, rfl,
    ((hb.frame.trans h.frame).trans (pushV_vframe hpt v)).trans (chainDone_vframe _ _ rs), fun _ r => ?_, ?_⟩
  · rw [hres]
    exact h.wrote.mem j ((hact j).mpr hj)
  · rw [hres]
    exact h.fmt hgs
  · exact (modQueues_sameSight (dropStaged t) _).vlgOf.trans (dropStaged_calm t).vlg
  · rw [chainDone_vreg]
    unfold vreg
    rw [hregs, show (dropStaged t).cpu.regs = s.cpu.regs from (h.regs hp0).trans hb.regs]
  · exact h.done_mem hb hmem rs

end

/-! ## The run of an instruction -/

theorem beginStaged_regs (s : State) (v : VVal) : (beginStaged s v).cpu.regs = s.cpu.regs := by
  unfold beginStaged
  simp only
  split <;> rfl

theorem beginStaged_mem (s : State) (v : VVal) : (beginStaged s v).cpu.mem = s.cpu.mem := by
  unfold beginStaged
  simp only
  split <;> rfl

theorem Begun.refl (s : State) (d : VReg) : Begun s s d := ⟨.refl s, .refl d s, rfl, rfl⟩

/-- An instruction that pushes begins an entry. -/
theorem begun_entry (s : State) (d : VReg) (tag : Nat) : Begun s (beginStaged (blankImage s tag).2 (blankImage s tag).1) d :=
  ⟨(blankImage_calm s tag).trans (beginStaged_calm _ _), (blankImage_vframe d s tag).trans (beginStaged_vframe d _ _),
    beginStaged_regs _ _, beginStaged_mem _ _⟩

/-- An instruction whose source it overwrites keeps that aside. -/
theorem begun_keepAside (s : State) (d : VReg) : Begun s (keepAside s d) d := by
  refine ⟨keepAside_calm s d, keepAside_vframe d s d, ?_, ?_⟩
  · unfold keepAside
    simp only
    split
    · exact beginStaged_regs s _
    · exact beginStaged_regs s _
  · unfold keepAside
    simp only
    split
    · exact beginStaged_mem s _
    · exact beginStaged_mem s _

theorem Begun.chainActive {s s0 : State} {d : VReg} (h : Begun s s0 d) (k : Chain) : chainActive s0 k = chainActive s k := by
  funext i
  unfold Machine.chainActive guardBit guardReg mreg
  rw [h.regs, h.calm.ctl]

theorem Begun.vstart {s s0 : State} {d : VReg} (h : Begun s s0 d) : vstartOf s0 = vstartOf s := congrArg (fun c : Ctl => c.vstart.toNat) h.calm.ctl

theorem Begun.free {s s0 : State} {d : VReg} (h : Begun s s0 d) (hf : destFree s d = true) : destFree s0 d = true := by
  unfold destFree at *
  rw [h.calm.pushes, h.vreg]
  exact hf

/-- The elements that an instruction gives results to. -/
def acts (s : State) (k : Chain) (j : Nat) : Bool := decide (vstartOf s ≤ j ∧ j < k.n) && chainActive s k j

/-- An instruction whose operands, formats and sources are as they should be, and none of whose lanes diverts. -/
structure Runs (s : State) (k : Chain) (x : VDesc) (f : Nat → FRes) : Prop where
  free : destFree s x.d = true
  tag : k.tag < 64
  slots : k.w < 16 ∨ k.w % 16 = 0
  span : ∀ j < k.n, (j + 1) * k.w ≤ 8192
  clear : ∀ o ∈ k.srcs, o.clear k.n
  per : 0 < k.per
  groups : k.n ≤ 8 * k.per
  start : vstartOf s < k.n
  lanes : ∀ j, acts s k j = true → laneAt k j = some (f j)

/-- The groups of an instruction that has begun issue, and it ends. -/
theorem Runs.issue {s s0 : State} {k : Chain} {x : VDesc} {f : Nat → FRes} (h : Runs s k x f) (hb : Begun s s0 x.d) (rs : List Src) {p : MicroSt}
    (hp : p.ahead = []) {budget : Nat} (hbud : (groupStarts k (vstartOf s)).length ≤ budget) :
    ∃ t gs, Issued s0 k x.d f gs t ∧ gs ≠ [] ∧ (∀ j, j ∈ groupsEls s0 k gs ↔ acts s k j = true) ∧
      issueGroups s0 k x rs p budget = chainEnd t x p rs k.n := by
  have hact (j : Nat) : j ∈ groupsEls s0 k (groupStarts k (vstartOf s0)) ↔ acts s k j = true := by
    rw [mem_groupsEls h.per h.groups, hb.chainActive, hb.vstart]
    unfold acts
    rw [Bool.and_eq_true, decide_eq_true_eq, and_assoc]
  obtain ⟨t, ht, he⟩ := issueGroups_of_clear (hb.free h.free) h.tag h.slots h.span (x := x) rfl h.clear h.per
    (fun i hi => h.lanes i ((hact i).mp hi)) rs hp (budget := budget) (by rwa [hb.vstart])
  exact ⟨t, _, ht, List.cons_ne_nil _ _, hact, he⟩

theorem Runs.lt_of_acts {s : State} {k : Chain} {j : Nat} (h : acts s k j = true) : j < k.n :=
  (of_decide_eq_true ((Bool.and_eq_true _ _).mp h).1).2

/-- A source with the register that the destination overwrites read from the value v kept aside, without its poison. -/
def COpd.aside (d : VReg) (v : VVal) : COpd → COpd
  | .vec r u w => if r == d.toNat then .vec keptSrc { v with poison := 0 } w else .vec r { u with poison := 0 } w
  | .sca x => .sca x

theorem srcs_reading (k : Chain) (d : VReg) (v : VVal) : (k.reading d v).read.srcs = k.srcs.map (COpd.aside d v) := by
  unfold Chain.read Chain.reading
  rw [List.map_map]
  refine List.map_congr_left fun o _ => ?_
  cases o with
  | vec r u w =>
    cases hr : r == d.toNat <;> simp only [COpd.aside, Function.comp_apply, hr, Bool.false_eq_true, if_false, if_true]
  | sca x => rfl

section
variable {k : Chain} {d : VReg} {v : VVal} (h : ∀ r u w, .vec r u w ∈ k.srcs → r = d.toNat → u = v)
include h

/-- The kept value has the elements of the source. -/
theorem aside_at {o : COpd} (ho : o ∈ k.srcs) (i : Nat) : (o.aside d v).at i = o.at i := by
  cases o with
  | vec r u w =>
    simp only [COpd.aside]
    split
    · next hr =>
      rw [h r u w ho (beq_iff_eq.mp hr)]
      rfl
    · rfl
  | sca x => rfl

theorem aside_clear {n : Nat} (hs : ∀ o ∈ k.srcs, o.clear n) {o : COpd} (ho : o ∈ k.srcs) : (o.aside d v).clear n := by
  have hq {u : VVal} (hu : u.quiet = true) : ({ u with poison := 0 } : VVal).quiet = true := by
    unfold VVal.quiet at hu ⊢
    rw [Bool.and_eq_true] at hu ⊢
    obtain ⟨hrest, _⟩ := hu
    exact ⟨hrest, beq_self_eq_true _⟩
  cases o with
  | vec r u w =>
    obtain ⟨hu, hg⟩ := hs _ ho
    simp only [COpd.aside]
    split
    · next hr =>
      rw [← h r u w ho (beq_iff_eq.mp hr)]
      exact ⟨hq hu, hg⟩
    · exact ⟨hq hu, hg⟩
  | sca x => exact True.intro

theorem laneAt_reading (i : Nat) : laneAt (k.reading d v).read i = laneAt k i := by
  have hused : usedSrcs (k.reading d v).read i = (usedSrcs k i).map (COpd.aside d v) := by
    have hm : (k.reading d v).read.mask = k.mask := rfl
    have hw : (k.reading d v).read.w = k.w := rfl
    unfold usedSrcs
    rw [srcs_reading, hm, hw]
    split
    · split
      · rw [List.map_take]
      · rw [List.map_take, List.map_drop]
    · rfl
  have harg (j : Nat) : argAt (usedSrcs (k.reading d v).read i) j i = argAt (usedSrcs k i) j i := by
    unfold argAt
    rw [hused, List.getElem?_map]
    cases ho : (usedSrcs k i)[j]? with
    | none => rfl
    | some o => exact aside_at h (mem_usedSrcs (List.mem_of_getElem? ho)) i
  unfold laneAt
  rw [harg, harg, harg]
  rfl

end

theorem Runs.reading {s : State} {k : Chain} {x : VDesc} {f : Nat → FRes} {v : VVal} (h : Runs s k x f)
    (hv : ∀ r u w, .vec r u w ∈ k.srcs → r = x.d.toNat → u = v) : Runs s (k.reading x.d v).read x f where
  free := h.free
  tag := h.tag
  slots := h.slots
  span := h.span
  clear o ho := by
    rw [srcs_reading] at ho
    obtain ⟨p, hp, rfl⟩ := List.mem_map.mp ho
    exact aside_clear hv h.clear hp
  per := h.per
  groups := h.groups
  start := h.start
  lanes j hj := (laneAt_reading hv j).trans (h.lanes j hj)

/-- The sources of a clear instruction have landed. -/
theorem landed_of_clear {k : Chain} (hs : ∀ o ∈ k.srcs, o.clear k.n) (lo : Nat) : k.landed lo = true := by
  unfold Chain.landed
  rw [List.all_eq_true]
  intro o ho
  cases o with
  | vec r v w =>
    obtain ⟨hp, hl, _⟩ := VVal.quiet_spec (hs _ ho).1
    simp only [sideReady, hp, hl, List.all_nil, Bool.true_and, List.all_eq_true]
    exact fun g hg => landed_all (groupsOf_lt hg)
  | sca x => rfl

section
variable {s : State} {k : Chain} {x : VDesc} {f : Nat → FRes} {vs : List SVal} {rs : List Src} {room : Bool} {budget : Nat} (h : Runs s k x f)
  (hbud : (groupStarts k (vstartOf s)).length ≤ budget) (hahead : (microSt s).ahead = [])
include h hbud hahead

theorem chainRun_of_port (hr : vreadable s rs (.v x.d) room = some vs) (hp : pushes s x.d = true) (hnone : staged s = none)
    (hroom : (vQueue (queuesOf s) x.d).length < vDepth x.d) :
    ∃ u, chainRun s k x rs budget = .next u ∧ Chained s x.d k.tag k.w k.n (acts s k) f u := by
  have hb := begun_entry s x.d k.tag
  obtain ⟨t, gs, ht, hgs, hact, he⟩ := h.issue hb rs hahead hbud
  have hst : staged (beginStaged (blankImage s k.tag).2 (blankImage s k.tag).1) = some (blankImage s k.tag).1 := staged_beginStaged _ _
  have hw : watched (beginStaged (blankImage s k.tag).2 (blankImage s k.tag).1) x.d = (blankImage s k.tag).1 := by
    rw [watched_of_port ((hb.calm.pushes _).trans hp), hst]
    rfl
  obtain ⟨u, hu, hc⟩ := chainEnd_of_port hb ht hact (fun _ => Runs.lt_of_acts) hgs hp hr (by rw [hst]; rfl) (by rw [hw]; rfl) hroom (microSt s) k.n
  refine ⟨u, ?_, hc⟩
  unfold chainRun
  simp only
  rw [if_neg (Nat.not_le.mpr h.start), if_pos hp, hnone]
  exact he.trans hu

/-- An instruction with a register for its destination. One that overwrites a source of another width reads that as it stood before. -/
theorem chainRun_of_register (hp : pushes s x.d = false) (hkept : (microSt s).kept = false)
    (hover : overlapsSrc s k x.d = true → (vreg s x.d).quiet = true ∧ ∀ r v w, .vec r v w ∈ k.srcs → r = x.d.toNat → v = vreg s x.d) :
    ∃ u, chainRun s k x rs budget = .next u ∧ Chained s x.d k.tag k.w k.n (acts s k) f u := by
  unfold chainRun
  simp only
  rw [if_neg (Nat.not_le.mpr h.start), if_neg (by rw [hp]; exact Bool.false_ne_true)]
  cases ho : overlapsSrc s k x.d with
  | false =>
    obtain ⟨t, gs, ht, hgs, hact, he⟩ := h.issue (.refl s x.d) rs hahead hbud
    obtain ⟨u, hu, hc⟩ := chainEnd_of_register (.refl s x.d) ht hact (fun _ => Runs.lt_of_acts) hgs hp (microSt s) rs k.n
    exact ⟨u, he.trans hu, hc⟩
  | true =>
    obtain ⟨hq, hv⟩ := hover ho
    obtain ⟨hpend, hl, _⟩ := VVal.quiet_spec hq
    obtain ⟨t, gs, ht, hgs, hact, he⟩ := (h.reading hv).issue (begun_keepAside s x.d) rs (p := { microSt s with kept := true }) hahead hbud
    obtain ⟨u, hu, hc⟩ := chainEnd_of_register (begun_keepAside s x.d) ht hact (fun _ => Runs.lt_of_acts) hgs hp { microSt s with kept := true } rs k.n
    refine ⟨u, ?_, hc⟩
    have hready : (!k.landed (vstartOf s) || !(vreg s x.d).pend.isEmpty || (vreg s x.d).landed != 0xFF) = false := by
      rw [landed_of_clear h.clear, hpend, hl]
      rfl
    have hpoison : chainPoison k (vstartOf s) = none := poisonFrom_of_clear h.clear _ _
    simp only [hkept, hready, hpoison, Bool.false_eq_true, if_true, if_false]
    exact he.trans hu

end

end Sys2Proof.Machine
end

section
/-! Settles O17: the chaining instructions with their operands read, and their lanes (R138 to R151, R179, R192). -/

namespace Sys2Proof.Machine

/-! ## Operands read -/

/-- A function with a third source. -/
def isFma : VFn → Bool
  | .fma _ => true
  | _ => false

/-- The width of the first and third source, and of the second. -/
def srcWidth (fn : VFn) (et : Nat) : Nat := if fn = .arith 16 then 32 else fmtWidth et
def srcWidthB (fn : VFn) (et : Nat) : Nat := if fn = .arith 16 then 32 else (chainB fn et).1

/-- The second source. -/
def srcB (x : VDesc) (et : Nat) (vs : List SVal) : List COpd :=
  if fnUsesB x.fn && x.fn != .apply then
    [match x.b with
      | .vec r => .vec r.toNat (vecAt vs 1) (srcWidthB x.fn et)
      | .sca _ => .sca ((wordAt vs 1).toNat % 2 ^ srcWidthB x.fn et)]
  else []

/-- The third. -/
def srcC (x : VDesc) (et : Nat) (vs : List SVal) : List COpd :=
  if isFma x.fn then [.vec x.c.toNat (vecAt vs 2) (fmtWidth et)]
  else if x.fn = .arith 16 then [.vec x.d.toNat (vecAt vs 2) 32]
  else []

/-- A chaining instruction with the operands vs. -/
def capture (s : State) (x : VDesc) (vs : List SVal) : Chain where
  op := fnOp x.fn
  et := etOf s
  tag := fnTag x.fn (etOf s)
  w := fmtWidth (fnTag x.fn (etOf s))
  n := fnCount x.fn (vlOf s)
  per := if x.fn = .arith 16 then 32 else epg (wOf s)
  rm := mrRm s.cpu.ctl.mr
  fz := mrFz s.cpu.ctl.mr
  sat := mrSat s.cpu.ctl.mr
  srcs := .vec x.a.toNat (vecAt vs 0) (srcWidth x.fn (etOf s)) :: (srcB x (etOf s) vs ++ srcC x (etOf s) vs)
  mask := if x.fn = .sel then some (mreg s (x.c.setWidth 3)) else none
  app := x.app

theorem of_not_or {a b : Bool} (h : (!a || b) = true) (ha : a = true) : b = true := by
  subst ha
  exact h

/-- The parts of fitting formats. -/
theorem chainFits_spec {s : State} {x : VDesc} {vs : List SVal} (h : chainFits s x vs = true) :
    fnAdmits x.fn (etOf s) = true ∧ (vecAt vs 0).fmt = etOf s ∧
      (fnUsesB x.fn = true → x.fn ≠ .apply → x.b.flag = false → (vecAt vs 1).fmt = (chainB x.fn (etOf s)).2 ∧ vlOf s ≤ vlmax (chainB x.fn (etOf s)).1) ∧
      (isFma x.fn = true → (vecAt vs 2).fmt = etOf s) ∧ (x.fn = .arith 16 → (vecAt vs 2).fmt = 0x20 ∧ vlOf s % 4 = 0) ∧
      vlOf s ≤ vlmax (fmtWidth (etOf s)) ∧ (x.fn ≠ .arith 16 → vlOf s ≤ vlmax (fmtWidth (fnTag x.fn (etOf s)))) := by
  have h : (fnAdmits x.fn (etOf s) && (vecAt vs 0).fmt == etOf s &&
      (!(fnUsesB x.fn && x.fn != .apply && !x.b.flag) || (vecAt vs 1).fmt == (chainB x.fn (etOf s)).2) && (!isFma x.fn || (vecAt vs 2).fmt == etOf s) &&
      (!(x.fn == .arith 16) || ((vecAt vs 2).fmt == 0x20 && vlOf s % 4 == 0)) && decide (vlOf s ≤ vlmax (fmtWidth (etOf s))) &&
      (!(fnUsesB x.fn && x.fn != .apply && !x.b.flag) || decide (vlOf s ≤ vlmax (chainB x.fn (etOf s)).1)) &&
      (x.fn == .arith 16 || decide (vlOf s ≤ vlmax (fmtWidth (fnTag x.fn (etOf s)))))) = true := h
  simp only [Bool.and_eq_true] at h
  obtain ⟨⟨⟨⟨⟨⟨⟨hadm, ha⟩, hb⟩, hc⟩, hd⟩, hn⟩, hnb⟩, hw⟩ := h
  refine ⟨hadm, beq_iff_eq.mp ha, fun h1 h2 h3 => ?_, fun h1 => beq_iff_eq.mp (of_not_or hc h1), fun h1 => ?_, of_decide_eq_true hn, fun h1 => ?_⟩
  · have hvec : (fnUsesB x.fn && x.fn != .apply && !x.b.flag) = true := by
      rw [h1, h3, bne_iff_ne.mpr h2]
      rfl
    exact ⟨beq_iff_eq.mp (of_not_or hb hvec), of_decide_eq_true (of_not_or hnb hvec)⟩
  · obtain ⟨htag, hmod⟩ := (Bool.and_eq_true _ _).mp (of_not_or hd (beq_iff_eq.mpr h1))
    exact ⟨beq_iff_eq.mp htag, beq_iff_eq.mp hmod⟩
  · exact of_decide_eq_true (((Bool.or_eq_true _ _).mp hw).resolve_left fun h2 => h1 (beq_iff_eq.mp h2))

theorem chainB_of_wide (et : Nat) : chainB (.arith 17) et = (fmtWidth (fnTag (.arith 17) et), fnTag (.arith 17) et) := rfl

theorem chainB_of_ne {fn : VFn} (h : fn ≠ .arith 17) (et : Nat) : chainB fn et = (fmtWidth et, et) := by
  unfold chainB
  split
  · exact absurd rfl h
  · rfl

theorem forall_mem_ite_singleton {α : Type} {c : Prop} [Decidable c] {y : α} {p : α → Prop} : (∀ t ∈ (if c then [y] else []), p t) ↔ (c → p y) := by
  split
  · next h => simp [h]
  · next h => simp [h]

theorem chain_of_fits {s : State} {x : VDesc} {vs : List SVal} (word budget : Nat) (hq : quietOps s (fnSrcs x) (.v x.d) false = some vs)
    (hf : chainFits s x vs = true) : chain s word x budget = chainRun s (capture s x vs) x (fnSrcs x) budget := by
  obtain ⟨ht, hm, hr, hv⟩ := quietOps_spec hq
  obtain ⟨hadm, ha, hb, hc, hd, hn, hw⟩ := chainFits_spec hf
  have hvec (h : (fnUsesB x.fn && x.fn != .apply && !x.b.flag) = true) := by
    simp only [Bool.and_eq_true, bne_iff_ne, Bool.not_eq_true'] at h
    obtain ⟨⟨h1, h2⟩, h3⟩ := h
    exact hb h1 h2 h3
  refine (taskOnly_of_isTask _ _ ht).trans ((readOps_of_vreadable _ _ hr).trans ((fmtGate_of_fits _ hadm ?_ ?_).trans ((if_neg ?_).trans
    ((needM_of_clean _ _ hm).trans ?_))))
  · simp only [List.forall_mem_append, List.forall_mem_singleton]
    refine ⟨⟨⟨ha, forall_mem_ite_singleton.mpr fun h => ?_⟩, forall_mem_ite_singleton.mpr hc⟩, forall_mem_ite_singleton.mpr fun h => (hd (beq_iff_eq.mp h)).1⟩
    rw [(hvec h).1]
    split
    · next hx => rw [hx, chainB_of_wide]
    · next hx => rw [chainB_of_ne hx]
  · simp only [List.forall_mem_append, List.forall_mem_singleton]
    refine ⟨⟨hn, forall_mem_ite_singleton.mpr fun h => ?_⟩, ?_⟩
    · refine (hvec h).2.trans_eq (congrArg vlmax ?_)
      split
      · next hx => rw [hx, chainB_of_wide]
      · next hx => rw [chainB_of_ne hx]; rfl
    · split
      · exact fun _ h => absurd h List.not_mem_nil
      · next h => exact List.forall_mem_singleton.mpr (hw fun e => h (beq_iff_eq.mpr e))
  · rw [Bool.and_eq_true, decide_eq_true_eq, beq_iff_eq]
    exact fun h => h.2 (hd h.1).2
  · refine congrArg (fun k => chainRun s k x (fnSrcs x) budget) ?_
    obtain ⟨fn, d, a, b, c, app⟩ := x
    cases fn with
    | arith f =>
      by_cases h16 : f = 16
      · subst h16
        cases b <;> rfl
      · by_cases h17 : f = 17
        · subst h17
          cases b <;> rfl
        · unfold capture srcB srcC srcWidth srcWidthB chainB isFma
          simp only [beq_iff_eq, VFn.arith.injEq, h16, ↓reduceIte, Bool.or_eq_true, Bool.not_eq_eq_eq_not, Bool.not_true, reduceCtorEq, or_false, h17,
            imp_self, List.cons_append, List.nil_append, Bool.false_eq_true, List.append_nil, Bool.and_eq_true, bne_iff_ne, ne_eq, not_false_eq_true,
            and_true, Chain.mk.injEq, List.cons.injEq, COpd.vec.injEq, true_and, and_self]
          refine ⟨rfl, ?_⟩
          cases fnUsesB (.arith f) <;> cases b <;> rfl
    | sgnj n => cases b <;> rfl
    | fma n => cases b <;> rfl
    | sel => cases b <;> rfl
    | func n => cases b <;> rfl
    | apply => cases b <;> rfl

/-! ## Captured instructions -/

theorem wideFmt_lt {f g : Nat} (h : wideFmt f = some g) : g < 64 := by
  unfold wideFmt at h
  split at h <;> simp only [Option.some.injEq, reduceCtorEq] at h <;> omega

theorem fnTag_lt (fn : VFn) {et : Nat} (h : et < 64) : fnTag fn et < 64 := by
  unfold fnTag
  split
  · decide
  · cases hw : wideFmt et with
    | none => exact h
    | some g => exact wideFmt_lt hw
  · unfold classFmt
    split
    · decide
    · split <;> decide
  · exact h

theorem fnOp_eq_dot {fn : VFn} : fnOp fn = 17 ↔ fn = .arith 16 := by
  cases fn with
  | arith f => simp [fnOp]
  | sgnj k =>
    simp only [fnOp, reduceCtorEq, iff_false]
    split <;> omega
  | fma k =>
    simp only [fnOp, reduceCtorEq, iff_false]
    omega
  | sel => decide
  | func f =>
    simp only [fnOp, reduceCtorEq, iff_false]
    omega
  | apply => decide

theorem fnCount_of_ne {fn : VFn} (h : fn ≠ .arith 16) (vl : Nat) : fnCount fn vl = vl := by
  unfold fnCount
  split
  · exact absurd rfl h
  · rfl

section
variable {s : State} {x : VDesc} {vs : List SVal} (hf : chainFits s x vs = true)
include hf

/-- `vdot4`'s elements are 32-bit, at most 256. -/
theorem fnCount_dot_le (hd : x.fn = .arith 16) : fnCount x.fn (vlOf s) ≤ 256 := by
  obtain ⟨hadm, _, _, _, _, hn, _⟩ := chainFits_spec hf
  rw [hd] at hadm ⊢
  have h8 : fmtWidth (etOf s) = 8 := by
    simp only [fnAdmits, beq_self_eq_true, if_true, Bool.or_eq_true, beq_iff_eq] at hadm
    rcases hadm with h | h <;> rw [h] <;> rfl
  rw [h8] at hn
  change vlOf s / 4 ≤ 256
  have : vlmax 8 = 1024 := rfl
  omega

/-- The elements of a source lie in its register. -/
theorem srcWidth_group {i : Nat} (hi : i < fnCount x.fn (vlOf s)) : srcWidth x.fn (etOf s) * i / 1024 < 8 := by
  obtain ⟨_, _, _, _, _, hn, _⟩ := chainFits_spec hf
  unfold srcWidth
  split
  · next hd =>
    have := fnCount_dot_le hf hd
    omega
  · next hd =>
    rw [fnCount_of_ne hd] at hi
    exact group_lt_of_lt_vlmax (hi.trans_le hn)

theorem srcB_clear (hv : ∀ v ∈ vs, v.quiet = true) : ∀ o ∈ srcB x (etOf s) vs, o.clear (fnCount x.fn (vlOf s)) := by
  obtain ⟨_, _, hb, _, _, _, _⟩ := chainFits_spec hf
  unfold srcB
  refine forall_mem_ite_singleton.mpr fun h => ?_
  rw [Bool.and_eq_true, bne_iff_ne] at h
  obtain ⟨huses, happly⟩ := h
  split
  · next r hr =>
    refine ⟨vecAt_quiet hv 1, fun i hi => ?_⟩
    unfold srcWidthB
    split
    · next hd =>
      have := fnCount_dot_le hf hd
      omega
    · next hd =>
      rw [fnCount_of_ne hd] at hi
      exact group_lt_of_lt_vlmax (hi.trans_le (hb huses happly (by rw [hr]; rfl)).2)
  · exact True.intro

theorem srcC_clear (hv : ∀ v ∈ vs, v.quiet = true) : ∀ o ∈ srcC x (etOf s) vs, o.clear (fnCount x.fn (vlOf s)) := by
  have hgroup := @srcWidth_group s x vs hf
  unfold srcWidth at hgroup
  unfold srcC
  split
  · next hfma =>
    have hd : x.fn ≠ .arith 16 := fun e => by rw [e] at hfma; exact absurd hfma (by decide)
    rw [if_neg hd] at hgroup
    exact List.forall_mem_singleton.mpr ⟨vecAt_quiet hv 2, fun i hi => hgroup hi⟩
  · split
    · next hd =>
      rw [if_pos hd] at hgroup
      exact List.forall_mem_singleton.mpr ⟨vecAt_quiet hv 2, fun i hi => hgroup hi⟩
    · exact fun _ h => absurd h List.not_mem_nil

/-- A captured instruction on quiet sources of fitting formats, with its lanes' results. -/
theorem capture_runs {f : Nat → FRes} (hv : ∀ v ∈ vs, v.quiet = true) (hfree : destFree s x.d = true)
    (hlo : vstartOf s < fnCount x.fn (vlOf s)) (hl : ∀ j, acts s (capture s x vs) j = true → laneAt (capture s x vs) j = some (f j)) :
    Runs s (capture s x vs) x f := by
  obtain ⟨_, _, _, _, _, hn, hw⟩ := chainFits_spec hf
  refine ⟨hfree, fnTag_lt x.fn (etOf_lt s), fmtWidth_slots _, fun j hj => ?_, ?_, ?_, ?_, hlo, hl⟩
  · change j < fnCount x.fn (vlOf s) at hj
    by_cases hd : x.fn = .arith 16
    · have h256 := fnCount_dot_le hf hd
      have h32 : (capture s x vs).w = 32 := by
        change fmtWidth (fnTag x.fn (etOf s)) = 32
        rw [hd]
        rfl
      rw [h32]
      omega
    · rw [fnCount_of_ne hd] at hj
      exact span_of_lt_vlmax (hj.trans_le (hw hd))
  · refine List.forall_mem_cons.mpr ⟨⟨vecAt_quiet hv 0, fun i hi => srcWidth_group hf hi⟩, ?_⟩
    exact List.forall_mem_append.mpr ⟨srcB_clear hf hv, srcC_clear hf hv⟩
  · change 0 < if x.fn = .arith 16 then 32 else epg (wOf s)
    split
    · decide
    · exact epg_fmtWidth_pos _
  · change fnCount x.fn (vlOf s) ≤ 8 * if x.fn = .arith 16 then 32 else epg (wOf s)
    split
    · next hd => exact fnCount_dot_le hf hd
    · next hd =>
      rw [fnCount_of_ne hd]
      exact hn.trans_eq (vlmax_fmtWidth _)

end

/-! ## Operands of an element -/

theorem length_srcVals (s : State) : ∀ (rs : List Src) (q : Queues) (vs : List SVal), srcVals s q rs = .ok vs → vs.length = rs.length := by
  intro rs
  induction rs with
  | nil =>
    intro q vs h
    obtain rfl := Except.ok.inj h
    rfl
  | cons r rs ih =>
    intro q vs h
    have one {q' : Queues} {y : SVal} (h : (match srcVals s q' rs with | .ok vs => Except.ok (y :: vs) | .error e => .error e) = .ok vs) :
        vs.length = (r :: rs).length := by
      split at h
      · next ws hw =>
        obtain rfl := Except.ok.inj h
        exact congrArg (· + 1) (ih _ _ hw)
      · exact absurd h nofun
    cases r with
    | s r =>
      unfold srcVals at h
      split at h
      · split at h
        · exact absurd h nofun
        · exact one h
      · exact one h
    | v r =>
      unfold srcVals at h
      split at h
      · split at h
        · exact absurd h nofun
        · exact one h
      · exact one h

theorem length_of_vreadable {s : State} {rs : List Src} {dst : Dst} {room : Bool} {vs : List SVal} (h : vreadable s rs dst room = some vs) :
    vs.length = rs.length := by
  unfold vreadable at h
  split at h
  · exact absurd h nofun
  · split at h
    · obtain rfl := Option.some.inj h
      exact List.length_map ..
    · split at h
      · split at h
        · next hv =>
          obtain rfl := Option.some.inj h
          exact length_srcVals s _ _ _ hv
        · exact absurd h nofun
      · exact absurd h nofun

theorem vecAt_of_length_le {vs : List SVal} {i : Nat} (h : vs.length ≤ i) : vecAt vs i = VVal.zero := by
  unfold vecAt
  rw [List.getD_eq_default _ _ h]
  rfl

section
variable {s : State} {x : VDesc} {vs : List SVal} (i : Nat)

theorem argAt_zero : argAt (capture s x vs).srcs 0 i = chainArg s x vs 0 i := by
  unfold chainArg
  simp only [Nat.zero_ne_one, false_and, if_false]
  rfl

/-- A function that does not read field b has one source. -/
theorem srcC_of_not_usesB (h : fnUsesB x.fn = false) (et : Nat) : srcC x et vs = [] := by
  unfold srcC
  cases hx : x.fn with
  | arith f =>
    rw [hx] at h
    have : f ≠ 16 := by
      rintro rfl
      exact absurd h (by decide)
    simp [isFma, this]
  | fma n =>
    rw [hx] at h
    exact absurd h (by simp [fnUsesB])
  | sgnj n => rfl
  | sel => rfl
  | func n => rfl
  | apply => rfl

theorem argAt_one (ha : x.fn ≠ .apply) : argAt (capture s x vs).srcs 1 i = chainArg s x vs 1 i := by
  change argAt (_ :: (srcB x (etOf s) vs ++ srcC x (etOf s) vs)) 1 i = _
  cases hu : fnUsesB x.fn with
  | false =>
    have hB : srcB x (etOf s) vs = [] := by
      unfold srcB
      rw [hu]
      rfl
    rw [hB, srcC_of_not_usesB hu]
    unfold chainArg
    rw [hu]
    rfl
  | true =>
    have hB : (fnUsesB x.fn && x.fn != .apply) = true := by rw [hu, bne_iff_ne.mpr ha]; rfl
    unfold srcB chainArg
    rw [if_pos hB, hu]
    cases hb : x.b with
    | vec r =>
      simp [argAt, COpd.at, VOperand.flag, srcWidthB]
    | sca r =>
      simp [argAt, COpd.at, VOperand.flag, srcWidthB]

theorem length_fnSrcs_le (hf : isFma x.fn = false) (hd : x.fn ≠ .arith 16) : (fnSrcs x).length ≤ 2 := by
  have hthird : (match x.fn with | .fma _ => [Src.v x.c] | .arith 16 => [.v x.d] | _ => []) = [] := by
    split
    · next h =>
      rw [h] at hf
      exact absurd (show true = false from hf) (by decide)
    · next h => exact absurd h hd
    · rfl
  have hsecond : (if fnUsesB x.fn then [match x.b with | .vec r => Src.v r | .sca r => .s r] else []).length ≤ 1 := by
    split <;> simp
  have he : fnSrcs x = [.v x.a] ++ (if fnUsesB x.fn then [match x.b with | .vec r => Src.v r | .sca r => .s r] else []) ++
      (match x.fn with | .fma _ => [Src.v x.c] | .arith 16 => [.v x.d] | _ => []) := rfl
  rw [he, hthird, List.append_nil, List.length_append, List.length_singleton]
  omega

theorem usesB_of_third (h : isFma x.fn = true ∨ x.fn = .arith 16) : (fnUsesB x.fn && x.fn != .apply) = true := by
  rcases h with h | h
  · cases hx : x.fn with
    | fma n => rfl
    | arith f => rw [hx] at h; exact absurd h (by simp [isFma])
    | sgnj n => rw [hx] at h; exact absurd h (by simp [isFma])
    | sel => rw [hx] at h; exact absurd h (by simp [isFma])
    | func n => rw [hx] at h; exact absurd h (by simp [isFma])
    | apply => rw [hx] at h; exact absurd h (by simp [isFma])
  · rw [h]
    rfl

theorem argAt_two (hlen : vs.length = (fnSrcs x).length) : argAt (capture s x vs).srcs 2 i = chainArg s x vs 2 i := by
  change argAt (_ :: (srcB x (etOf s) vs ++ srcC x (etOf s) vs)) 2 i = _
  have harg : chainArg s x vs 2 i = (vecAt vs 2).el (srcWidth x.fn (etOf s)) i := by
    unfold chainArg srcWidth
    simp
  rw [harg]
  by_cases h3 : isFma x.fn = true ∨ x.fn = .arith 16
  · unfold srcB
    rw [if_pos (usesB_of_third h3)]
    unfold srcC srcWidth
    by_cases hd : x.fn = .arith 16
    · rw [hd]
      rfl
    · rw [if_pos (h3.resolve_right hd), if_neg hd]
      rfl
  · rw [not_or, Bool.not_eq_true] at h3
    obtain ⟨hf, hd⟩ := h3
    have hC : srcC x (etOf s) vs = [] := by
      unfold srcC
      rw [hf, if_neg hd]
      rfl
    have hlen2 : (srcB x (etOf s) vs).length ≤ 1 := by
      unfold srcB
      split <;> simp
    rw [hC, List.append_nil, vecAt_of_length_le (hlen.trans_le (length_fnSrcs_le hf hd)), VVal.el_zero]
    unfold argAt
    rw [List.getElem?_eq_none (by rw [List.length_cons]; omega)]

/-- The lane of an instruction that is neither `vsel` nor `vapply`, on operands that it does not divert. -/
theorem laneAt_capture (hsel : x.fn ≠ .sel) (ha : x.fn ≠ .apply) (happ : x.app = none) (hlen : vs.length = (fnSrcs x).length)
    (hdiv : diverts (fnOp x.fn) (etOf s) (mrFz s.cpu.ctl.mr) (chainArg s x vs 0 i) (chainArg s x vs 1 i) (chainArg s x vs 2 i) = false) :
    laneAt (capture s x vs) i = some (elemOp (fnOp x.fn) (etOf s) (mrRm s.cpu.ctl.mr) (mrFz s.cpu.ctl.mr) (mrSat s.cpu.ctl.mr)
      (chainArg s x vs 0 i) (chainArg s x vs 1 i) (chainArg s x vs 2 i)) := by
  have hmask : (capture s x vs).mask = none := if_neg hsel
  have hused : usedSrcs (capture s x vs) i = (capture s x vs).srcs := by
    unfold usedSrcs
    rw [hmask]
  have happ' : (capture s x vs).app = none := happ
  unfold laneAt laneElem
  rw [hused, argAt_zero, argAt_one i ha, argAt_two i hlen, happ']
  exact if_neg (Bool.eq_false_iff.mp hdiv)

end

/-! ## A source that is the destination -/

theorem vecAt_cons_zero (v : VVal) (vs : List SVal) : vecAt (.v v :: vs) 0 = v := rfl

theorem vecAt_cons_succ (y : SVal) (vs : List SVal) (i : Nat) : vecAt (y :: vs) (i + 1) = vecAt vs i := by
  unfold vecAt
  rw [List.getD_cons_succ]

/-- A field that names a register reads it. -/
theorem vecAt_of_srcVals {s : State} {r : VReg} (hp : isVPort r = false) : ∀ (rs : List Src) (q : Queues) (vs : List SVal) (i : Nat),
    srcVals s q rs = .ok vs → rs[i]? = some (.v r) → vecAt vs i = vreg s r := by
  intro rs
  induction rs with
  | nil => exact fun q vs i _ h => absurd h nofun
  | cons y rs ih =>
    intro q vs i h hi
    have rest {q' : Queues} {z : SVal} {j : Nat} (hj : i = j + 1)
        (h : (match srcVals s q' rs with | .ok vs => Except.ok (z :: vs) | .error e => .error e) = .ok vs) : vecAt vs i = vreg s r := by
      subst hj
      split at h
      · next ws hw =>
        obtain rfl := Except.ok.inj h
        rw [vecAt_cons_succ]
        exact ih _ _ j hw hi
      · exact absurd h nofun
    cases i with
    | zero =>
      obtain rfl := Option.some.inj hi
      unfold srcVals at h
      rw [hp, if_neg Bool.false_ne_true] at h
      split at h
      · obtain rfl := Except.ok.inj h
        rfl
      · exact absurd h nofun
    | succ j =>
      cases y with
      | s r' =>
        unfold srcVals at h
        split at h
        · split at h
          · exact absurd h nofun
          · exact rest rfl h
        · exact rest rfl h
      | v r' =>
        unfold srcVals at h
        split at h
        · split at h
          · exact absurd h nofun
          · exact rest rfl h
        · exact rest rfl h

theorem vecAt_of_vreadable {s : State} {rs : List Src} {dst : Dst} {room : Bool} {vs : List SVal} {i : Nat} {r : VReg}
    (h : vreadable s rs dst room = some vs) (hi : rs[i]? = some (.v r)) (hp : pushes s r = false) : vecAt vs i = vreg s r := by
  unfold pushes at hp
  unfold vreadable at h
  split at h
  · exact absurd h nofun
  · split at h
    · obtain rfl := Option.some.inj h
      unfold vecAt
      rw [List.getD_eq_getElem?_getD, List.getElem?_map, hi]
      rfl
    · next hr =>
      have hport : isVPort r = false := by
        rw [bne, Bool.not_eq_true _ |>.mp hr] at hp
        exact hp
      split at h
      · split at h
        · next hv =>
          obtain rfl := Option.some.inj h
          exact vecAt_of_srcVals hport _ _ _ i hv hi
        · exact absurd h nofun
      · exact absurd h nofun

/-- The vector sources of a captured instruction are those of its fields. -/
theorem mem_capture_srcs {s : State} {x : VDesc} {vs : List SVal} {r w : Nat} {v : VVal} (h : .vec r v w ∈ (capture s x vs).srcs) :
    ∃ i y, (fnSrcs x)[i]? = some (.v y) ∧ r = y.toNat ∧ v = vecAt vs i := by
  rcases List.mem_cons.mp h with h | h
  · obtain ⟨rfl, rfl, rfl⟩ := COpd.vec.inj h
    exact ⟨0, x.a, rfl, rfl, rfl⟩
  · rcases List.mem_append.mp h with h | h
    · unfold srcB at h
      split at h
      · next hu =>
        obtain ⟨huses, _⟩ := (Bool.and_eq_true _ _).mp hu
        rw [List.mem_singleton] at h
        split at h
        · next y hy =>
          obtain ⟨rfl, rfl, rfl⟩ := COpd.vec.inj h
          refine ⟨1, y, ?_, rfl, rfl⟩
          unfold fnSrcs
          rw [huses, hy]
          rfl
        · exact absurd h nofun
      · exact absurd h List.not_mem_nil
    · unfold srcC at h
      split at h
      · next hf =>
        obtain ⟨rfl, rfl, rfl⟩ := COpd.vec.inj (List.mem_singleton.mp h)
        refine ⟨2, x.c, ?_, rfl, rfl⟩
        unfold isFma at hf
        split at hf
        · next hx =>
          unfold fnSrcs
          rw [hx]
          rfl
        · exact absurd hf Bool.false_ne_true
      · split at h
        · next hx =>
          obtain ⟨rfl, rfl, rfl⟩ := COpd.vec.inj (List.mem_singleton.mp h)
          refine ⟨2, x.d, ?_, rfl, rfl⟩
          unfold fnSrcs
          rw [hx]
          rfl
        · exact absurd h List.not_mem_nil

/-- A source that the destination overwrites is the destination as it stands. -/
theorem overlap_of_register {s : State} {x : VDesc} {vs : List SVal} {dst : Dst} {room : Bool} {n : Nat}
    (hr : vreadable s (fnSrcs x) dst room = some vs) (hp : pushes s x.d = false) (hs : ∀ o ∈ (capture s x vs).srcs, o.clear n)
    (ho : overlapsSrc s (capture s x vs) x.d = true) :
    (vreg s x.d).quiet = true ∧ ∀ r v w, .vec r v w ∈ (capture s x vs).srcs → r = x.d.toNat → v = vreg s x.d := by
  have hval (r : Nat) (v : VVal) (w : Nat) (hm : .vec r v w ∈ (capture s x vs).srcs) (hrd : r = x.d.toNat) : v = vreg s x.d := by
    obtain ⟨i, y, hi, hy, hv⟩ := mem_capture_srcs hm
    obtain rfl : y = x.d := BitVec.eq_of_toNat_eq (hy.symm.trans hrd)
    exact hv.trans (vecAt_of_vreadable hr hi hp)
  refine ⟨?_, hval⟩
  unfold overlapsSrc at ho
  rw [Bool.and_eq_true, List.any_eq_true] at ho
  obtain ⟨_, o, hm, ho⟩ := ho
  cases o with
  | vec r v w =>
    rw [Bool.and_eq_true, beq_iff_eq] at ho
    rw [← hval r v w hm ho.1]
    exact (hs _ hm).1
  | sca y => exact absurd ho Bool.false_ne_true

/-! ## Chaining instructions -/

/-- A destination port that an instruction begins an entry for, with room in its queue. -/
def PortFree (s : State) (d : VReg) : Prop :=
  pushes s d = true → vstartOf s = 0 ∧ staged s = none ∧ (vQueue (queuesOf s) d).length < vDepth d

theorem acts_capture (s : State) (x : VDesc) (vs : List SVal) (j : Nat) : acts s (capture s x vs) j =
    (decide (vstartOf s ≤ j ∧ j < fnCount x.fn (vlOf s)) && guardBit s (if x.fn = .arith 16 then 32 else fmtWidth (etOf s)) j) := by
  have hw : (if (fnOp x.fn == 17) = true then 32 else fmtWidth (etOf s)) = if x.fn = .arith 16 then 32 else fmtWidth (etOf s) :=
    if_congr (beq_iff_eq.trans fnOp_eq_dot) rfl rfl
  exact congrArg (fun w => decide (vstartOf s ≤ j ∧ j < fnCount x.fn (vlOf s)) && guardBit s w j) hw

/-- A chaining instruction on quiet sources of fitting formats, none of whose lanes diverts, completes. -/
theorem chain_chained {s : State} {x : VDesc} {vs : List SVal} {f : Nat → FRes} (word : Nat) {budget : Nat}
    (hq : quietOps s (fnSrcs x) (.v x.d) false = some vs) (hf : chainFits s x vs = true) (hfree : destFree s x.d = true)
    (hlo : vstartOf s < fnCount x.fn (vlOf s)) (hport : PortFree s x.d)
    (hl : ∀ j, acts s (capture s x vs) j = true → laneAt (capture s x vs) j = some (f j))
    (hbud : (groupStarts (capture s x vs) (vstartOf s)).length ≤ budget) (hahead : (microSt s).ahead = []) (hkept : (microSt s).kept = false) :
    ∃ u, chain s word x budget = .next u ∧ Chained s x.d (fnTag x.fn (etOf s)) (fmtWidth (fnTag x.fn (etOf s))) (fnCount x.fn (vlOf s))
      (acts s (capture s x vs)) f u := by
  obtain ⟨_, _, hr, hv⟩ := quietOps_spec hq
  have hruns := capture_runs hf hv hfree hlo hl
  rw [chain_of_fits word budget hq hf]
  cases hp : pushes s x.d with
  | true =>
    obtain ⟨_, hnone, hroom⟩ := hport hp
    exact chainRun_of_port hruns hbud hahead hr hp hnone hroom
  | false => exact chainRun_of_register hruns hbud hahead hp hkept fun ho => overlap_of_register hr hp hruns.clear ho

theorem chainRow_spec {i : Instr} {x : VDesc} (h : chainRow i = some x) : x.fn ≠ .sel ∧ x.fn ≠ .apply ∧ x.app = none := by
  unfold chainRow at h
  split at h
  case h_39 => exact absurd h nofun
  all_goals
    obtain rfl := Option.some.inj h
    exact ⟨nofun, nofun, rfl⟩

theorem microSt_of_no_micro {s : State} (h : ∀ y p, s.cpu.wait ≠ some (.micro y p)) : microSt s = { base := vstartOf s, ahead := [], kept := false } := by
  unfold microSt
  split
  · next y p he => exact absurd he (h y p)
  · rfl

theorem microSt_of_micro {s : State} {y : VDesc} {p : MicroSt} (h : s.cpu.wait = some (.micro y p)) : microSt s = p := by
  unfold microSt
  rw [h]

/-- So does one that does not wait yet: it issues all its groups. -/
theorem chain_chained_whole {s : State} {x : VDesc} {vs : List SVal} {f : Nat → FRes} (word : Nat)
    (hq : quietOps s (fnSrcs x) (.v x.d) false = some vs) (hf : chainFits s x vs = true) (hfree : destFree s x.d = true)
    (hlo : vstartOf s < fnCount x.fn (vlOf s)) (hport : PortFree s x.d)
    (hl : ∀ j, acts s (capture s x vs) j = true → laneAt (capture s x vs) j = some (f j)) (hw : ∀ y p, s.cpu.wait ≠ some (.micro y p)) :
    ∃ u, chain s word x allGroups = .next u ∧ Chained s x.d (fnTag x.fn (etOf s)) (fmtWidth (fnTag x.fn (etOf s))) (fnCount x.fn (vlOf s))
      (acts s (capture s x vs)) f u := by
  have hm := microSt_of_no_micro hw
  exact chain_chained word hq hf hfree hlo hport hl (length_groupStarts (capture_runs hf (quietOps_spec hq).2.2.2 hfree hlo hl).groups)
    (by rw [hm]) (by rw [hm])

theorem issues_focus (s : State) (t : StrandId) (c : Nat) : issues (s.focus t) c = issues s c := by
  unfold issues State.cluster
  rw [State.focus_clusters]

/-- A waiting instruction's next micro-operation runs the instruction on, for one more element group. -/
theorem execMicroOpIssue_of_wait {u s : State} {y : StrandId} {x : VDesc} {p : MicroSt} (hy : u.strand? y = some s.cpu) (hu : u.focus y = s)
    (hres : s.cpu.resid = .on) (hw : s.cpu.wait = some (.micro x p)) (hiss : issues s s.cpu.cluster = true) :
    execMicroOpIssue y u = chain s 0 x 1 := by
  have hiu : issues u s.cpu.cluster = true := by rw [← issues_focus u y, hu]; exact hiss
  refine (resumeWait_of_wait (k := fun s => if issues s s.cpu.cluster then chain s 0 x 1 else .next s) hy hw rfl hres hiu).trans ?_
  simp only [hu, hiss, if_true]

/-- Settles O17: a captured instruction issues its groups, and ends; so does the last micro-operation of one that waited. -/
theorem chainingResults : Obligations.ChainingResults := by
  unfold Obligations.ChainingResults
  intro s i x vs hrow hq hf hfree m et tag w n lo act arg res hlo hport hdiv concl per
  obtain ⟨hsel, happly, happ⟩ := chainRow_spec hrow
  obtain ⟨_, _, hr, _⟩ := quietOps_spec hq
  have hact : acts s (capture s x vs) = act := funext fun j => acts_capture s x vs j
  have hlanes : ∀ j, acts s (capture s x vs) j = true → laneAt (capture s x vs) j = some (res j) := fun j hj =>
    laneAt_capture j hsel happly happ (length_of_vreadable hr) (hdiv j (by rwa [← hact]))
  have hconcl {o : Out} (h : ∃ u, o = .next u ∧ Chained s x.d tag w n (acts s (capture s x vs)) res u) : concl o := by
    obtain ⟨t, ho, h⟩ := h
    rw [hact] at h
    refine ⟨t, ho, h.result, h.fmt, fun hp j hj _ => h.kept hp j hj, h.ctl, h.wait, h.frame.scalars, h.frame.masks, h.frame.sparse, fun r hr => ?_,
      h.frame.trap, h.mem, h.frame.mem, h.frame.hostMem, h.frame.log⟩
    exact hr.elim (fun hp => h.others hp r) (h.frame.vectors r)
  refine ⟨fun hw => ?_, fun u y p hy hu hres hw hahead hkept hiss hlast => ?_⟩
  · rw [exec_chainRow hrow]
    exact hconcl (chain_chained_whole _ hq hf hfree hlo hport hlanes hw)
  · have hm := microSt_of_micro hw
    have hgo : exec (.microOpIssue y) u = chain s 0 x 1 := execMicroOpIssue_of_wait hy hu hres hw hiss
    rw [hgo]
    exact hconcl (chain_chained _ hq hf hfree hlo hport hlanes (by rw [groupStarts_of_last hlast]; exact Nat.le_refl 1) (by rw [hm]; exact hahead)
      (by rw [hm]; exact hkept))

end Sys2Proof.Machine
end

section
/-! Settles O18: selection by mask bits and the user's polynomials (R153, R184, R194 to R196). -/

namespace Sys2Proof.Machine

/-- An element is the rest of itself modulo its width. -/
theorem VVal.el_mod (v : VVal) (w i : Nat) : v.el w i % 2 ^ w = v.el w i := Nat.mod_mod ..

theorem foldl_zero_flags {f : Nat → FRes} (h : ∀ j, (f j).2 = 0) (is : List Nat) (a : Flags) : is.foldl (fun a j => a ||| (f j).2) a = a := by
  induction is with
  | nil => rfl
  | cons i is ih =>
    rw [List.foldl_cons, h i, show a ||| (0 : Flags) = a from BitVec.or_zero]
    exact ih

/-- Where no flag accrues, an instruction's end leaves the flags it found. -/
theorem Chained.ctl_of_no_flags {s t : State} {d : VReg} {tag w n : Nat} {act : Nat → Bool} {f : Nat → FRes} (h : Chained s d tag w n act f t)
    (hf : ∀ j, (f j).2 = 0) : t.cpu.ctl = (complete (setVstart s 0)).cpu.ctl := by
  rw [h.ctl, foldl_zero_flags hf]
  exact (complete_ctl_of_flags (s := s) (t := s) rfl rfl).symm

/-- Of an instruction that counts elements of the source's width, the elements from VSTART on that are active. -/
theorem acts_iff_active {s : State} {x : VDesc} (hx : x.fn ≠ .arith 16) (vs : List SVal) (j : Nat) :
    acts s (capture s x vs) j = true ↔ vstartOf s ≤ j ∧ active s (wOf s) j = true := by
  rw [acts_capture, if_neg hx, fnCount_of_ne hx]
  unfold active
  rw [Bool.and_eq_true, decide_eq_true_eq, Bool.and_eq_true, decide_eq_true_eq, and_assoc]
  rfl

/-! ## vsel -/

/-- `vsel` of vector registers. -/
def selDesc (d a b : VReg) (c : MReg) : VDesc := { fn := .sel, d := d, a := a, b := .vec b, c := c.setWidth 5, app := none }

theorem selDesc_mask (d a b : VReg) (c : MReg) : (selDesc d a b c).c.setWidth 3 = c := BitVec.setWidth_setWidth_of_le c (by decide)

/-- Moves never divert. -/
theorem diverts_sel (f : Nat) (fz : Bool) (a b c : Nat) : diverts 25 f fz a b c = false := by
  unfold diverts
  rw [Bool.and_eq_false_iff]
  refine .inr ?_
  split
  · unfold divertsF
    exact ite_self _
  · rfl

/-- The element that `vsel` picks. -/
def selected (s : State) (x : VDesc) (c : MReg) (vs : List SVal) (j : Nat) : Nat :=
  if (mreg s c).getLsbD (maskIdx (wOf s) j) then chainArg s x vs 0 j else chainArg s x vs 1 j

theorem selected_mod (s : State) (d a b : VReg) (c : MReg) (vs : List SVal) (j : Nat) :
    selected s (selDesc d a b c) c vs j % 2 ^ wOf s = selected s (selDesc d a b c) c vs j := by
  unfold selected
  split
  · exact VVal.el_mod ..
  · exact VVal.el_mod ..

/-- The source that the mask bit names is the only one used. -/
theorem argAt_usedSrcs_sel (s : State) (d a b : VReg) (c : MReg) (vs : List SVal) (j : Nat) :
    argAt (usedSrcs (capture s (selDesc d a b c) vs) j) 0 j = selected s (selDesc d a b c) c vs j := by
  have hmask : (capture s (selDesc d a b c) vs).mask = some (mreg s c) := by
    change some (mreg s ((selDesc d a b c).c.setWidth 3)) = _
    rw [selDesc_mask]
  unfold usedSrcs selected
  rw [hmask]
  change argAt (if (mreg s c).getLsbD (maskIdx (wOf s) j) = true then _ else _) 0 j = _
  split
  · rfl
  · rfl

theorem laneAt_sel (s : State) (d a b : VReg) (c : MReg) (vs : List SVal) (j : Nat) :
    laneAt (capture s (selDesc d a b c) vs) j = some (selected s (selDesc d a b c) c vs j, 0) := by
  unfold laneAt
  rw [argAt_usedSrcs_sel]
  refine (if_neg (Bool.eq_false_iff.mp (diverts_sel ..))).trans (congrArg (fun v => some (v, 0)) ?_)
  exact selected_mod s d a b c vs j

theorem vsel_selects {s : State} {d a b : VReg} {c : MReg} {vs : List SVal} (hq : quietOps s (fnSrcs (selDesc d a b c)) (.v d) false = some vs)
    (hf : chainFits s (selDesc d a b c) vs = true) (hfree : destFree s d = true) (hlo : vstartOf s < vlOf s) (hport : PortFree s d)
    (hw : ∀ y p, s.cpu.wait ≠ some (.micro y p)) :
    ∃ t, exec (.vsel d a b c) s = .next t ∧ t.cpu.ctl = (complete (setVstart s 0)).cpu.ctl ∧
      Chained s d (etOf s) (wOf s) (vlOf s) (acts s (capture s (selDesc d a b c) vs)) (fun j => (selected s (selDesc d a b c) c vs j, 0)) t := by
  obtain ⟨t, ht, h⟩ := chain_chained_whole (encodeNat (.vsel d a b c)) hq hf hfree hlo hport (fun j _ => laneAt_sel s d a b c vs j) hw
  exact ⟨t, ht, h.ctl_of_no_flags fun _ => rfl, h⟩

/-! ## vapply -/

theorem readDesc_aside {va : Word} {n : Nat} {acc : List Byte} {s : State} {bs : List Byte} {u : State} (h : readDesc s va n acc = .ok (bs, u)) :
    Aside s u := by
  induction n generalizing va acc s with
  | zero =>
    obtain ⟨-, rfl⟩ := Prod.mk.inj (Except.ok.inj h)
    exact .refl s
  | succ n ih =>
    unfold readDesc at h
    split at h
    · exact absurd h nofun
    · next k hk =>
      split at h
      · exact absurd h nofun
      · exact (checkAccess_aside hk).trans (ih h)

/-- `vapply` of a vector register; the descriptor once read. -/
def applyDesc (d a : VReg) (b : SReg) (p : Option VApp) : VDesc := { fn := .apply, d := d, a := a, b := .sca b, c := 0, app := p }

theorem laneAt_apply (s : State) (d a : VReg) (b : SReg) (p : VApp) (vs : List SVal) (j : Nat) :
    laneAt (capture s (applyDesc d a b (some p)) vs) j =
      applyElem (etOf s) (mrFz s.cpu.ctl.mr) p.lo p.hi p.deg p.coef ((vecAt vs 0).el (wOf s) j) := rfl

/-- The descriptor that the scalar operand names, and its address. -/
def descId (vs : List SVal) : Nat := (wordAt vs 1).toNat % 256
def descAddr (s : State) (vs : List SVal) : Word := BitVec.ofNat 64 (bitsOf (s.ten s.cpu.tenant).thawb 63 6 * 64 + 64 * descId vs)

/-- `vapply` with its operands read and its formats fitting. -/
def applyRun (s : State) (d a : VReg) (b : SReg) (vs : List SVal) : Out :=
  if (s.ten s.cpu.tenant).thawn ≤ descId vs then fmtTrap s b.toNat
  else match readDesc s (descAddr s vs) 8 [] with
    | .error (v, e) => stopAt s v e
    | .ok (bs, u) => match vappOf (descId vs) (descAddr s vs) bs with
      | none => fmtTrap s b.toNat
      | some p => chain u (encodeNat (.vapply d a b)) (applyDesc d a b (some p)) allGroups

theorem applyRun_of_descriptor {s u : State} {d a : VReg} {b : SReg} {vs : List SVal} {bs : List Byte} {p : VApp}
    (hid : descId vs < (s.ten s.cpu.tenant).thawn) (hr : readDesc s (descAddr s vs) 8 [] = .ok (bs, u))
    (hp : vappOf (descId vs) (descAddr s vs) bs = some p) :
    applyRun s d a b vs = chain u (encodeNat (.vapply d a b)) (applyDesc d a b (some p)) allGroups := by
  unfold applyRun
  rw [if_neg (Nat.not_le.mpr hid), hr]
  simp only [hp]

theorem exec_vapply_of_fits {s : State} {d a : VReg} {b : SReg} {vs : List SVal}
    (hq : quietOps s (fnSrcs (applyDesc d a b none)) (.v d) false = some vs) (hf : chainFits s (applyDesc d a b none) vs = true)
    (hw : ∀ y p, s.cpu.wait ≠ some (.micro y p)) : exec (.vapply d a b) s = applyRun s d a b vs := by
  obtain ⟨ht, _, hr, _⟩ := quietOps_spec hq
  obtain ⟨hadm, ha, _, _, _, hn, _⟩ := chainFits_spec hf
  have hrun (k : Out) : fmtGate s (fnAdmits .apply (etOf s)) [(a.toNat, (vecAt vs 0).fmt, etOf s)] [(a.toNat, wOf s), (d.toNat, wOf s)] k = k :=
    fmtGate_of_fits k hadm (List.forall_mem_singleton.mpr ha) (List.forall_mem_cons.mpr ⟨hn, List.forall_mem_singleton.mpr hn⟩)
  change execVapply d a b s = _
  unfold execVapply
  split
  · next y p he => exact absurd he (hw y p)
  · exact (taskOnly_of_isTask _ _ ht).trans ((readOps_of_vreadable _ _ hr).trans (hrun _))

/-- The chaining part of `vapply`: every active element lies in the descriptor's interval. -/
theorem chain_apply {u : State} {d a : VReg} {b : SReg} {vs : List SVal} {p : VApp} (word : Nat)
    (hq : quietOps u (fnSrcs (applyDesc d a b (some p))) (.v d) false = some vs) (hf : chainFits u (applyDesc d a b (some p)) vs = true)
    (hfree : destFree u d = true) (hlo : vstartOf u < vlOf u) (hport : PortFree u d) (hw : ∀ y p, u.cpu.wait ≠ some (.micro y p))
    (hin : ∀ j, active u (wOf u) j = true → (laneAt (capture u (applyDesc d a b (some p)) vs) j).isSome = true) :
    ∃ z, chain u word (applyDesc d a b (some p)) allGroups = .next z ∧
      Chained u d (etOf u) (wOf u) (vlOf u) (acts u (capture u (applyDesc d a b (some p)) vs))
        (fun j => (laneAt (capture u (applyDesc d a b (some p)) vs) j).getD (0, 0)) z := by
  refine chain_chained_whole word hq hf hfree hlo hport (fun j hj => ?_) hw
  obtain ⟨r, hr⟩ := Option.isSome_iff_exists.mp (hin j ((acts_iff_active (x := applyDesc d a b (some p)) nofun vs j).mp hj).2)
  rw [hr]
  rfl

/-- Formats that fit still fit where the control registers are the same. -/
theorem chainFits_of_ctl {s u : State} {d a : VReg} {b : SReg} {vs : List SVal} (h : u.cpu.ctl = s.cpu.ctl) (p q : Option VApp)
    (hf : chainFits s (applyDesc d a b p) vs = true) : chainFits u (applyDesc d a b q) vs = true := by
  unfold chainFits etOf vlOf at hf ⊢
  rw [h]
  exact hf

/-- Settles O18: `vsel` uses one source for each element; `vapply` runs as a chaining instruction with the descriptor's polynomial. -/
theorem selectAndApply : Obligations.SelectAndApply := by
  unfold Obligations.SelectAndApply
  refine ⟨fun s d a b c vs => ?_, fun s d a b vs => ?_⟩
  · intro x hq hf hfree hlo hport hw w
    obtain ⟨t, ht, hctl, h⟩ := vsel_selects hq hf hfree hlo hport hw
    refine ⟨t, ht, hctl, h.wait, h.frame.mem, h.frame.log, h.fmt, fun j hj ha => ?_⟩
    exact (h.result j ((acts_iff_active (x := selDesc d a b c) nofun vs j).mpr ⟨hj, ha⟩)).1.trans (selected_mod s d a b c vs j)
  · intro x t hq hf hw fid va
    refine ⟨fun hid => (exec_vapply_of_fits hq hf hw).trans (if_pos hid), ?_⟩
    intro bs u p hid hr hp hqu hctl hwait hpush hstaged hlo hvl hfree hroom w hin
    have hel : etOf u = etOf s := congrArg (fun c : Ctl => mrEt c.mr) hctl
    have hvs : vstartOf u = 0 := (congrArg (fun c : Ctl => c.vstart.toNat) hctl).trans hlo
    have hvlu : vlOf u = vlOf s := congrArg Ctl.vl hctl
    have hlane (j : Nat) : laneAt (capture u (applyDesc d a b (some p)) vs) j =
        applyElem (etOf s) (mrFz s.cpu.ctl.mr) p.lo p.hi p.deg p.coef ((vecAt vs 0).el w j) := by
      rw [laneAt_apply, hctl, wOf, hel]
      rfl
    have hwu : wOf u = w := congrArg fmtWidth hel
    obtain ⟨z, hz, h⟩ := chain_apply (encodeNat (.vapply d a b)) hqu (chainFits_of_ctl hctl none (some p) hf) hfree (by omega)
      (fun h => ⟨hvs, hstaged, hroom (hpush ▸ h)⟩) (fun y q => hwait ▸ hw y q) (fun j hj => by rw [hlane]; exact hin j (hwu ▸ hj))
    refine ⟨z, (exec_vapply_of_fits hq hf hw).trans ((applyRun_of_descriptor hid hr hp).trans hz), ?_, ?_, h.wait, fun j r ha he => ?_⟩
    · rw [h.ctl, complete_ctl_congr hctl (readDesc_aside hr).vlgOf]
    · rw [h.ctl]
      exact complete_vstart u
    · have hres := (h.result j ((acts_iff_active (x := applyDesc d a b (some p)) nofun vs j).mpr ⟨by omega, hwu ▸ ha⟩)).1
      rw [hlane, he, hwu] at hres
      exact hres

end Sys2Proof.Machine
end

section
/-! Settles O24: `settle` in its four forms, `vpres`, and where `vfill` is allowed (R182, R187, R188, R191). -/

namespace Sys2Proof.Machine

/-- A whole instruction on operands that can be read, PRESENT or not, goes on with their values. -/
theorem whole_of_vreadable {s : State} {rs : List Src} {dst : Dst} {vs : List SVal} (word : Nat) (k : List SVal → Out) (ht : isTask s = true)
    (h : vreadable s rs dst true = some vs) : whole s word rs dst k = k vs := by
  unfold whole
  rw [taskOnly_of_isTask _ _ ht, readOps_of_vreadable _ _ h]

/-- The mask with the bits `js` set. -/
theorem getLsbD_maskPut_true (js : List Nat) {j : Nat} (hj : j < 1024) :
    (maskPut 0 (js.map (fun i => (i, true)))).getLsbD j = decide (j ∈ js) := by
  rw [getLsbD_maskPut 0 js (fun _ => true) hj, BitVec.ofNat_eq_ofNat, BitVec.getLsbD_zero]
  by_cases h : j ∈ js <;> simp [h]

/-- What an instruction leaves that sets the bits `js` of mask d and clears the others. -/
theorem vdone_setMreg_maskPut {s : State} {d : MReg} (hd : d ≠ 0) (js : List Nat) (rs : List Src) {o : Out}
    (ho : o = .next (vdone (setMreg s d (maskPut 0 (js.map (fun i => (i, true))))) rs)) :
    ∃ t, o = .next t ∧ t.cpu.ctl = (complete (setVstart s 0)).cpu.ctl ∧ ∀ j, j < 1024 → (mreg t d).getLsbD j = decide (j ∈ js) :=
  ⟨_, ho, vdone_setMreg_ctl .., fun j hj => by rw [mreg_vdone_setMreg_self _ _ _ _ hj, if_neg hd, getLsbD_maskPut_true js hj]⟩

/-! ## One register -/

theorem faultedEls_eq (v : VVal) :
    faultedEls v = (List.range (vlmax (fmtWidth v.fmt))).filter (fun j => v.pres ≠ 0 ∧ v.st (fmtWidth v.fmt) j = pFaulted) := by
  unfold faultedEls
  split
  · next h => simp [beq_iff_eq.mp h]
  · next h =>
    have hp : v.pres ≠ 0 := fun e => h (beq_iff_eq.mpr e)
    refine List.filter_congr fun j _ => ?_
    rw [Bool.eq_iff_iff, beq_iff_eq, decide_eq_true_eq]
    exact ⟨fun hf => ⟨hp, hf⟩, And.right⟩

section
variable {s : State} {a : VReg} {v : VVal} (word : Nat) (ht : isTask s = true) (hv : vreadable s [.v a] .none true = some [.v v])
include ht hv

theorem settleOne_of_holes (nf : Bool) (hh : v.holes = true) : settleOne s word a nf = .next (s.waitFor (.settle (some a) nf)) :=
  (whole_of_vreadable _ _ ht hv).trans (if_pos hh)

theorem settleOne_nf (hh : v.holes = false) : settleOne s word a true =
    .next (vdone (setMreg s 7 (maskPut 0 ((faultedEls v).map (fun i => (i, true))))) [.v a]) :=
  (whole_of_vreadable _ _ ht hv).trans (if_neg (by simpa [vecAt, SVal.vec] using hh))

theorem settleOne_of_settled (hh : v.holes = false) (hf : faultedEls v = []) : settleOne s word a false = .next (vdone s [.v a]) := by
  refine (whole_of_vreadable _ _ ht hv).trans ?_
  simp [vecAt, SVal.vec, hh, hf]

/-- Where a register has no holes, HLF names its lowest FAULTED element. -/
theorem settleOne_of_faulted (hh : v.holes = false) {j : Nat} {js : List Nat} (hf : faultedEls v = j :: js) :
    settleOne s word a false = trap s Cause.hlf (BitVec.ofNat 64 j) := by
  refine (whole_of_vreadable _ _ ht hv).trans ?_
  simp [vecAt, SVal.vec, hh, hf]

theorem execVpres_of_landed (d : MReg) (hl : v.landed = 0xFF) : execVpres d a s = .next (vdone (setMreg s d (presMask v)) [.v a]) :=
  (whole_of_vreadable _ _ ht hv).trans (if_neg (by simp [vecAt, SVal.vec, hl]))

end

/-- The elements that `vpres` reports where each has a mask bit of its own. -/
theorem presMask_of_wide {v : VVal} (hw : 8 ≤ fmtWidth v.fmt) : presMask v = maskPut 0 (((List.range 1024).filter (fun j =>
    decide (j < vlmax (fmtWidth v.fmt)) && v.st (fmtWidth v.fmt) j == pPresent)).map (fun j => (j, true))) := by
  simp only [presMask, hw, if_true]

/-! ## Every register -/

section
variable {s : State} (word : Nat) (ht : isTask s = true)
include ht

theorem settleEvery_of_holes (nf : Bool) (h : anyHoles s = true) : settleEvery s word nf = .next (s.waitFor (.settle none nf)) :=
  (taskOnly_of_isTask _ _ ht).trans (if_pos h)

theorem settleEvery_nf (h : anyHoles s = false) : settleEvery s word true =
    .next (vdone (setMreg s 7 (maskPut 0 (((faultedRegs s).map (·.1)).map (fun r => (r, true))))) []) := by
  rw [List.map_map]
  exact (taskOnly_of_isTask _ _ ht).trans (if_neg (by simp [h]))

/-- Where no register has holes, HLF names the lowest register with a FAULTED element, and its lowest one. -/
theorem settleEvery_of_faulted (h : anyHoles s = false) {r j : Nat} {rest : List (Nat × Nat)} (hf : faultedRegs s = (r, j) :: rest) :
    settleEvery s word false = trap s Cause.hlf (BitVec.ofNat 64 (r * 65536 + j)) := by
  refine (taskOnly_of_isTask _ _ ht).trans ?_
  simp [h, hlfAll, hf]

end

/-! ## `vfill` -/

/-- In thaw context `vfill` fills the entry that its thread serves, and the thread is idle again (R191). -/
theorem execVfill_of_serves {s : State} {a : SReg} {c k id : Nat} {x : Word} {e : DivEntry} (hi : s.cpu.id = .thaw c k) (hs : s.cpu.serves = some id)
    (hr : readable s [a] none = some [x]) (he : (s.cluster c).div.find? (fun e => e.id == id) = some e) :
    execVfill a s = .next (endThaw (resolveFaulted (fillEntry s c e x.toNat s.cpu.ctl.fflags) c)) := by
  unfold execVfill
  simp only [hi, hs]
  rw [readS_of_readable _ _ hr]
  simp only [he]
  rfl

/-- Elsewhere it is ILL (Table 3.12). -/
theorem execVfill_of_not_thaw {s : State} (a : SReg) (h : ∀ c k, s.cpu.id ≠ .thaw c k) : execVfill a s = ill s (encodeNat (.vfill a)) := by
  unfold execVfill
  split
  · next c k _ hi _ => exact absurd hi (h c k)
  · rfl

/-- Settles O24: each form reads its register, or every one, and answers by its holes and its FAULTED elements. -/
theorem presenceResults : Obligations.PresenceResults := by
  refine ⟨fun s a v ht hv => ?one, fun s ht => ?every, fun s a c k id x e hi hs hr he => execVfill_of_serves hi hs hr he,
    fun s a h => execVfill_of_not_thaw a h⟩
  case one =>
    intro fs
    have hfs : faultedEls v = fs := faultedEls_eq v
    refine ⟨fun hh => ⟨settleOne_of_holes _ ht hv _ hh, settleOne_of_holes _ ht hv _ hh⟩, fun hh => ?_, fun hl d hd hw => ?_⟩
    · exact ⟨fun h => settleOne_of_settled _ ht hv hh (hfs.trans h), fun j js h => settleOne_of_faulted _ ht hv hh (hfs.trans h),
        vdone_setMreg_maskPut (by decide) fs _ (hfs ▸ settleOne_nf _ ht hv hh)⟩
    · obtain ⟨t, h, hctl, hbits⟩ := vdone_setMreg_maskPut hd _ _ (presMask_of_wide hw ▸ execVpres_of_landed ht hv d hl)
      refine ⟨t, h, hctl, fun j hj => (hbits j hj).trans ?_⟩
      simp [hj]
  case every =>
    refine ⟨fun h => ⟨settleEvery_of_holes _ ht _ h, settleEvery_of_holes _ ht _ h⟩, fun h =>
      ⟨execSettleAll_of_settled ht h, fun r j rest hf => settleEvery_of_faulted _ ht h hf, ?_⟩⟩
    obtain ⟨t, he, hctl, hbits⟩ := vdone_setMreg_maskPut (by decide) _ _ (settleEvery_nf (encodeNat .settleNfAll) ht h)
    refine ⟨t, he, hctl, fun j hj => (hbits j hj).trans ?_⟩
    rw [Bool.eq_iff_iff]
    simp

end Sys2Proof.Machine
end

section
/-! Settles O51: thaw threads take entries, fill them, begin user handlers and time out (R180 to R183, R196). -/

namespace Sys2Proof.Machine

/-! ## The state's parts -/

/-- A cluster after it has been changed. -/
theorem State.cluster_modCluster (s : State) (c : Nat) (f : Cluster → Cluster) (hf : ∀ k, (f k).num = k.num) :
    (s.modCluster c f).cluster c = f (s.cluster c) := by
  have hn : (f (s.cluster c)).num = c := (hf _).trans (cluster_num s c)
  unfold State.modCluster State.setCluster
  rw [State.cluster, hn]
  exact congrArg (fun o : Option Cluster => o.getD _) (find?_upsert_self (p := fun x : Cluster => x.num == c) (beq_iff_eq.mpr hn) s.clusters)

/-- The diversion queue of a cluster after it has been changed. -/
theorem State.div_modCluster (s : State) (c : Nat) (f : List DivEntry → List DivEntry) :
    ((s.modCluster c (fun k => { k with div := f k.div })).cluster c).div = f (s.cluster c).div :=
  congrArg Cluster.div (State.cluster_modCluster s c (fun k => { k with div := f k.div }) fun _ => rfl)

theorem State.strand?_eq_none_iff {s : State} {t : StrandId} :
    s.strand? t = none ↔ s.cpu.id ≠ t ∧ s.others.find? (fun x => x.id == t) = none := by
  unfold State.strand?
  split
  · next h => simp [h]
  · next h => simp [h]

/-- Changing strands brings none of another name. -/
theorem State.strand?_modStrand_none {s : State} {t : StrandId} (u : StrandId) {f : Strand → Strand} (hf : ∀ x, (f x).id = x.id)
    (h : s.strand? t = none) : (s.modStrand u f).strand? t = none := by
  obtain ⟨hc, ho⟩ := State.strand?_eq_none_iff.mp h
  rw [State.strand?_eq_none_iff]
  unfold State.modStrand
  split
  · exact ⟨(hf _).trans_ne hc, ho⟩
  · have hmap := find?_replaceFirst_map (p := fun x => x.id == u) (q := fun x => x.id == t) (fun x => by rw [hf]) hf s.others
    rw [ho] at hmap
    exact ⟨hc, Option.map_eq_none_iff.mp hmap⟩

/-- A strand that begins. -/
def State.joinedBy (s : State) (x : Strand) : State := { s with others := s.others ++ [x] }

theorem State.strand?_joinedBy {s : State} {x : Strand} (h : s.strand? x.id = none) : (s.joinedBy x).strand? x.id = some x := by
  obtain ⟨hc, ho⟩ := State.strand?_eq_none_iff.mp h
  unfold State.strand? State.joinedBy
  simp [hc, ho]

/-- The strands without those of one name, of which the cpu is none. -/
def State.without (s : State) (t : StrandId) : State := { s with others := s.others.filter (fun y => y.id != t) }

theorem State.strand?_without_self {s : State} {t : StrandId} (h : s.cpu.id ≠ t) : (s.without t).strand? t = none := by
  refine State.strand?_eq_none_iff.mpr ⟨h, List.find?_eq_none.mpr fun x hx => ?_⟩
  simpa using (List.mem_filter.mp hx).2

theorem State.strand?_without_ne (s : State) {t u : StrandId} (h : u ≠ t) : (s.without t).strand? u = s.strand? u := by
  unfold State.strand? State.without
  congr 1
  rw [List.find?_filter]
  congr 1
  funext x
  by_cases hx : x.id = u <;> simp [hx, h]

/-! ## Taking an entry (R180, R181) -/

/-- The entry of a number is served; the others stay. -/
def DivEntry.takeOf (id : Nat) (d : DivEntry) : DivEntry := if d.id == id then { d with taken := true } else d

theorem DivEntry.takeOf_id (id : Nat) (d : DivEntry) : (d.takeOf id).id = d.id := by
  unfold DivEntry.takeOf
  split <;> rfl

theorem find?_map_takeOf (id : Nat) (ds : List DivEntry) :
    (ds.map (DivEntry.takeOf id)).find? (fun d => d.id == id) = (ds.find? (fun d => d.id == id)).map (fun d => { d with taken := true }) := by
  rw [List.find?_map, show (fun d : DivEntry => d.id == id) ∘ DivEntry.takeOf id = fun d => d.id == id from
    funext fun d => congrArg (· == id) (d.takeOf_id id)]
  cases h : ds.find? (fun d => d.id == id) with
  | none => rfl
  | some d => exact congrArg some (if_pos (List.find?_some (p := fun d : DivEntry => d.id == id) h))

/-- The state in which thread x serves entry e of cluster c. -/
def takenBy (s : State) (c : Nat) (e : DivEntry) (x : Strand) : State :=
  (s.modCluster c (fun k => { k with div := k.div.map (DivEntry.takeOf e.id) })).joinedBy x

theorem takenBy_strand? {s : State} {t : StrandId} {x : Strand} (c : Nat) (e : DivEntry) (hx : x.id = t) (h : s.strand? t = none) :
    (takenBy s c e x).strand? t = some x := by
  subst hx
  exact State.strand?_joinedBy (s := s.modCluster c _) h

theorem takenBy_div (s : State) (c : Nat) (e : DivEntry) (x : Strand) : ((takenBy s c e x).cluster c).div.find? (fun d => d.id == e.id) =
    ((s.cluster c).div.find? (fun d => d.id == e.id)).map (fun d => { d with taken := true }) := by
  rw [← find?_map_takeOf]
  exact congrArg (List.find? _) (State.div_modCluster s c (List.map (DivEntry.takeOf e.id)))

section
variable {s : State} {c k : Nat} {e : DivEntry} (hk : k < 4) (hs : s.strand? (.thaw c k) = none) (hi : issues s c = true)
  (he : (s.cluster c).div.find? DivEntry.ready = some e)
include hk hs hi he

/-- A built-in handler takes the oldest ready entry. -/
theorem execThawTake_of_builtin {r : FRes} (hb : builtin e = some r) :
    execThawTake c k s = .next (takenBy s c e (builtinThread c k e)) := by
  have hk : ¬ thawThreads ≤ k := Nat.not_le.mpr hk
  unfold execThawTake
  simp only [hk, hs, hi, he, hb]
  rfl

/-- Where there is none the user's handler begins. -/
theorem execThawTake_of_user {p : VApp} (hb : builtin e = none) (ha : e.app = some p) :
    execThawTake c k s = .next (takenBy s c e (thawStrand c k e p.hpc p.addr)) := by
  have hk : ¬ thawThreads ≤ k := Nat.not_le.mpr hk
  unfold execThawTake
  simp only [hk, hs, hi, he, hb, ha]
  rfl

end

theorem execThawTake_of_none {s : State} {c : Nat} (k : Nat) (h : (s.cluster c).div.find? DivEntry.ready = none) :
    execThawTake c k s = .next s := by
  unfold execThawTake
  rw [h]
  exact ite_self _

/-- A user handler begins at its HPC, with its operands, the info word and the descriptor's address in s1 to s5 (R181). -/
theorem thawStrand_begins (c k : Nat) (e : DivEntry) (hpc desc : Word) : let y := thawStrand c k e hpc desc
    y.ctl.pc = hpc ∧ y.ctl.level = .u ∧ y.ctl.cycle = 0 ∧ y.regs.s[1] = e.a.bits ∧ y.regs.s[2] = e.b.bits ∧ y.regs.s[3] = e.c.bits ∧
      y.regs.s[4] = BitVec.ofNat 64 e.info ∧ y.regs.s[5] = desc := by
  simp [thawStrand, Strand.start, Ctl.start]

/-! ## Filling an element (R177) -/

section
variable (v : VVal) {e : DivEntry} (b p : Nat)

/-- An element that is left whole takes the bits of its entry. -/
theorem VVal.fill_el_self (hl : e.live = 2 ^ fmtWidth e.dfmt - 1) (hw : (e.elem + 1) * fmtWidth e.dfmt ≤ 8192) :
    (v.fill e e.live b p).el (fmtWidth e.dfmt) e.elem = b % 2 ^ fmtWidth e.dfmt := by
  refine (getEl_setEl_self v.bits _ hw).trans ?_
  rw [hl, Nat.sub_self, Nat.and_zero, Nat.zero_or, Nat.and_two_pow_sub_one_eq_mod, Nat.mod_mod]

/-- The other elements stay. -/
theorem VVal.fill_el_ne (live : Nat) {j : Nat} (h : j ≠ e.elem) : (v.fill e live b p).el (fmtWidth e.dfmt) j = v.el (fmtWidth e.dfmt) j :=
  getEl_setEl_ne v.bits _ h

/-- A slot of a whole element has bits left. -/
theorem slot_live {w k : Nat} (hk : k < w / 16) : (2 ^ w - 1) / 2 ^ (16 * k) % 65536 ≠ 0 := by
  intro h
  have hw : 16 * k < w := by omega
  have hbit : ((2 ^ w - 1) / 2 ^ (16 * k) % 2 ^ 16).testBit 0 = true := by
    rw [Nat.testBit_mod_two_pow, Nat.testBit_div_two_pow, Nat.testBit_two_pow_sub_one]
    simp [hw]
  rw [show 2 ^ 16 = 65536 from rfl, h] at hbit
  exact absurd hbit (by decide)

theorem VVal.fill_st (hl : e.live = 2 ^ fmtWidth e.dfmt - 1) : (v.fill e e.live b pPresent).st (fmtWidth e.dfmt) e.elem = pPresent := by
  refine VVal.st_of_slotsPresent fun k hk => ?_
  refine getEl_presents _ (fun k => fmtWidth e.dfmt * e.elem / 16 + k) v.pres (.inr ⟨k, List.mem_filter.mpr ⟨List.mem_range.mpr hk, ?_⟩, rfl⟩)
  rw [hl]
  exact bne_iff_ne.mpr (slot_live hk)

end

/-! ## The end of an entry -/

section
variable (x : Strand) (e : DivEntry) (b p : Nat)

/-- Writing an entry's element changes the register that holds it, and the values kept aside. -/
theorem writeDst_leaves : (writeDst x e b p).id = x.id ∧ (writeDst x e b p).ctl = x.ctl := by
  unfold writeDst
  cases e.dst <;> simp only <;> split <;> exact ⟨rfl, rfl⟩

theorem writeDst_reg {v : Nat} (hd : e.dst = .reg v) :
    (writeDst x e b p).regs.v = x.regs.v.setIfInBounds v ((x.regs.v.getD v .zero).fill e e.live b p) := by
  unfold writeDst
  simp only [hd]
  split <;> rfl

/-- The register of an entry, of the 32, after its element has been written. -/
theorem writeDst_getD {v : Nat} (hd : e.dst = .reg v) (hv : v < 32) :
    (writeDst x e b p).regs.v.toList.getD v .zero = (x.regs.v.toList.getD v .zero).fill e e.live b p := by
  rw [writeDst_reg x e b p hd]
  simp [hv, List.getD_eq_getElem?_getD, Vector.getD]

end

/-- The entries without e, of which those that wait for it take its result. -/
def freedOf (e : DivEntry) (r : DOp) (ds : List DivEntry) : List DivEntry := (ds.filter (fun d => d.id != e.id)).map (fun d =>
  { d with a := d.a.resolve e.id r, b := d.b.resolve e.id r, c := d.c.resolve e.id r })

theorem freedOf_single (e : DivEntry) (r : DOp) : freedOf e r [e] = [] := by simp [freedOf]

section
variable {s : State} (c : Nat) {e : DivEntry} (b : Nat) (fl : Flags)

theorem fillEntry_div : ((fillEntry s c e b fl).cluster c).div =
    freedOf e (.val (BitVec.ofNat 64 (b % 2 ^ fmtWidth e.dfmt))) (s.cluster c).div := by
  refine (State.div_modCluster _ c (freedOf e _)).trans ?_
  rw [State.cluster, State.modStrand_clusters]
  rfl

theorem fillEntry_div_of_single (hd : (s.cluster c).div = [e]) : ((fillEntry s c e b fl).cluster c).div = [] := by
  rw [fillEntry_div, hd, freedOf_single]

theorem fillEntry_strand?_none {t : StrandId} (h : s.strand? t = none) : (fillEntry s c e b fl).strand? t = none :=
  State.strand?_modStrand_none e.strand (fun x => (writeDst_leaves x e _ _).1) h

/-- The strand of an entry takes its flags, and its element. -/
theorem fillEntry_strand? {x : Strand} (h : s.strand? e.strand = some x) : ∃ y, (fillEntry s c e b fl).strand? e.strand = some y ∧
    y.ctl.fflags = x.ctl.fflags ||| fl ∧ y.regs = (writeDst x e (b % 2 ^ fmtWidth e.dfmt) pPresent).regs :=
  ⟨_, State.strand?_modStrand_of h (fun x => (writeDst_leaves x e _ _).1), by simp only [(writeDst_leaves x e _ _).2], rfl⟩

end

theorem resolveFaulted_of_nil {s : State} {c : Nat} (h : (s.cluster c).div = []) : resolveFaulted s c = s := by
  unfold resolveFaulted
  rw [h]
  rfl

/-- A built-in handler fills the entry it serves, and its thread is idle again (R183). -/
theorem builtinFill_of_serves {s : State} {c k : Nat} {th : Strand} {e : DivEntry} {b : Nat} {fl : Flags} (ht : s.strand? (.thaw c k) = some th)
    (hr : th.resid = .off) (hs : th.serves = some e.id) (hd : (s.cluster c).div = [e]) (hb : builtin e = some (b, fl)) :
    builtinFill c k s = fillEntry (s.without (.thaw c k)) c e b fl := by
  have hgo : builtinFill c k s = resolveFaulted (fillEntry (s.without (.thaw c k)) c e b fl) c := by
    unfold builtinFill
    simp only [ht, hr, hs, hd, hb, State.id_of_strand? ht, BEq.rfl, if_true, Option.bind_some, List.find?_cons_of_pos]
    rfl
  exact hgo.trans (resolveFaulted_of_nil (fillEntry_div_of_single (s := s.without (.thaw c k)) c b fl hd))

/-! ## Running out of time (R182) -/

section
variable {s : State} {c k i : Nat} {x : Strand} (hx : s.strand? (.thaw c k) = some x) (hs : x.serves = some i)
include hx hs

theorem execThawTimeout_of_late (hr : x.resid = .on) (h : 2 ^ 20 ≤ x.ctl.cycle.toNat) :
    execThawTimeout c k s = .next (faultEntry s c i Cause.tmo) := by
  unfold execThawTimeout
  simp only [hx, hs]
  exact if_pos (by rw [hr, decide_eq_true h]; rfl)

theorem execThawTimeout_of_lt (h : x.ctl.cycle.toNat < 2 ^ 20) : execThawTimeout c k s = .next s := by
  unfold execThawTimeout
  simp only [hx, hs]
  exact if_neg (by rw [decide_eq_false (Nat.not_le.mpr h), Bool.and_false]; decide)

end

end Sys2Proof.Machine

/-! The theorem shares the name of the model's number of thaw threads, and so stands in a namespace of its own. -/

namespace Sys2Proof.Laws

open Machine

/-- Settles O51: what each event of a thaw thread makes of its entry, its strand and the entry's strand. -/
theorem thawThreads : Obligations.ThawThreads := by
  refine ⟨fun s c k e hk hs hi he => ⟨fun r hb => ?builtin, fun p hb ha => ?user⟩, fun s c k b fl e th x hc ht hr hsv hd hb hx hne => ?fill,
    fun s c k h => execThawTake_of_none k h,
    fun s c k i x hx hs => ⟨execThawTimeout_of_late hx hs, execThawTimeout_of_lt hx hs⟩⟩
  case builtin =>
    exact ⟨_, _, execThawTake_of_builtin hk hs hi he hb, takenBy_strand? c e rfl hs, rfl, rfl, takenBy_div s c e _⟩
  case user =>
    exact ⟨_, _, execThawTake_of_user hk hs hi he hb ha, takenBy_strand? c e rfl hs, rfl, thawStrand_begins c k e p.hpc p.addr⟩
  case fill =>
    intro t w
    have ht : t = fillEntry (s.without (.thaw c k)) c e b fl := builtinFill_of_serves ht hr hsv hd hb
    obtain ⟨y, hy, hfl, hregs⟩ := fillEntry_strand? c b fl ((s.strand?_without_ne hne).trans hx)
    rw [ht]
    refine ⟨fillEntry_div_of_single c b fl hd, fillEntry_strand?_none c b fl (State.strand?_without_self hc), y, hy, hfl, fun v hv h32 hl _ hin => ?_⟩
    intro z
    have hz : z = (x.regs.v.toList.getD v .zero).fill e e.live (b % 2 ^ w) pPresent :=
      (congrArg (fun r : RegFile => r.v.toList.getD v .zero) hregs).trans (writeDst_getD x e _ _ hv h32)
    rw [hz]
    exact ⟨(VVal.fill_el_self _ _ _ hl hin).trans (Nat.mod_mod ..), VVal.fill_st _ _ hl, fun j hj => VVal.fill_el_ne _ _ _ _ hj⟩

end Sys2Proof.Laws
end

section
/-! Accumulator tiles as elements (R197 to R199), and the gates of the matrix instructions on operands that pass them. -/

namespace Sys2Proof.Machine

/-! ## Elements of a row -/

/-- A row that has been packed above which other columns stand: element by element. -/
theorem packEls_above (w q j : Nat) (xs : List Nat) : (packEls w xs + q * 2 ^ (w * xs.length)) / 2 ^ (w * j) % 2 ^ w =
    if j < xs.length then xs.getD j 0 % 2 ^ w else q / 2 ^ (w * (j - xs.length)) % 2 ^ w := by
  induction xs generalizing j with
  | nil => simp [packEls]
  | cons x xs ih =>
    have hsplit : packEls w (x :: xs) + q * 2 ^ (w * (x :: xs).length) =
        x % 2 ^ w + 2 ^ w * (packEls w xs + q * 2 ^ (w * xs.length)) := by
      rw [packEls, List.length_cons, Nat.mul_succ, pow_add]
      ring
    rw [hsplit]
    cases j with
    | zero => simp
    | succ j =>
      rw [Nat.mul_succ, Nat.add_comm (w * j), pow_add, ← Nat.div_div_eq_div_mul, Nat.add_mul_div_left _ _ (Nat.two_pow_pos w),
        Nat.div_eq_of_lt (Nat.mod_lt _ (Nat.two_pow_pos w)), Nat.zero_add, ih]
      simp

/-- A packed row alone. -/
theorem packEls_el (w j : Nat) (xs : List Nat) (h : j < xs.length) : packEls w xs / 2 ^ (w * j) % 2 ^ w = xs.getD j 0 % 2 ^ w := by
  have := packEls_above w 0 j xs
  rwa [Nat.zero_mul, Nat.add_zero, if_pos h] at this

/-! ## Rows of a tile -/

/-- A low field of a number does not see the bits above. -/
theorem mod_two_pow_field {a b c : Nat} (x : Nat) (h : b + c ≤ a) : x % 2 ^ a / 2 ^ b % 2 ^ c = x / 2 ^ b % 2 ^ c := by
  apply Nat.eq_of_testBit_eq
  intro k
  rw [Nat.testBit_mod_two_pow, Nat.testBit_mod_two_pow, Nat.testBit_div_two_pow, Nat.testBit_div_two_pow, Nat.testBit_mod_two_pow]
  by_cases hk : k < c
  · simp [show k + b < a by omega]
  · simp [hk]

/-- An element of the row that is replaced. -/
theorem Tile.el_setRow_self (t : Tile) {r j : Nat} (x : Nat) (hr : r < 64) (hj : j < 64) :
    (t.setRow r x).el r j = x / 2 ^ (32 * j) % 2 ^ 32 := by
  have hrow : (t.setRow r x).row r = x % 2 ^ 2048 := getEl_setEl_self _ x (by omega)
  unfold Tile.el
  rw [hrow, mod_two_pow_field x (by omega)]

/-- The other rows stay. -/
theorem Tile.el_setRow_ne (t : Tile) {r i : Nat} (x j : Nat) (h : i ≠ r) : (t.setRow r x).el i j = t.el i j := by
  have hrow : (t.setRow r x).row i = t.row i := getEl_setEl_ne _ x h
  unfold Tile.el
  rw [hrow]

/-- A matrix instruction contributes NX, OF and NV alone (R98). -/
theorem matFlags_and (fl : Flags) : matFlags fl &&& 0x2A = 0 := by
  unfold matFlags
  rw [BitVec.and_assoc]
  exact BitVec.and_zero

/-! ## Gates that let an instruction go on -/

section
variable {s : State} (word : Nat) (k : Out)

theorem needAcc_of_granted {d : AccReg} (h : d.toNat < accCount s) : needAcc s word d k = k := if_pos h

theorem needPairs_of_low {ps : List Nat} (h : roleOf s s.cpu = .single ∨ ∀ p ∈ ps, p ≤ 13) : needPairs s word ps k = k := by
  refine if_neg fun hc => ?_
  obtain ⟨hr, hp⟩ := Bool.and_eq_true_iff.mp hc
  obtain ⟨p, hm, hp⟩ := List.any_eq_true.mp hp
  rcases h with h | h
  · rw [h] at hr
    exact absurd hr (by decide)
  · exact absurd (of_decide_eq_true hp) (Nat.not_lt.mpr (h p hm))

theorem needGroup_of_low {a : VReg} {g : Nat} (h : roleOf s s.cpu = .single ∨ a.toNat + g ≤ 28) : needGroup s word a g k = k := by
  refine if_neg fun hc => ?_
  obtain ⟨hr, hp⟩ := Bool.and_eq_true_iff.mp hc
  rcases h with h | h
  · rw [h] at hr
    exact absurd hr (by decide)
  · exact absurd (of_decide_eq_true hp) (by omega)

theorem needRows_of_clean (n : AccReg) {t : Tile} {rows : List Nat} (h : rows = [] ∨ t.poison = 0) : needRows s n t rows k = k := by
  have hnone : t.poisoned rows = none := by
    unfold Tile.poisoned
    rcases h with h | h
    · rw [h]
      exact ite_self _
    · exact if_pos h
  unfold needRows
  rw [hnone]

/-- A tile of the class, or one whose elements are not read, takes the products. -/
theorem kindGate_of_fits {d : AccReg} {z : Bool} {cls : TileKind} (h : z = true ∨ (accOf s d).kind = .zero ∨ (accOf s d).kind = cls) :
    kindGate s d z cls k = k := by
  refine if_neg ?_
  rcases h with h | h | h <;> simp [h]

theorem kindGate_of_other {d : AccReg} {cls : TileKind} (hz : (accOf s d).kind ≠ .zero) (hc : (accOf s d).kind ≠ cls) :
    kindGate s d false cls k = fmtTrap s 0x3E := by
  refine if_pos ?_
  simp [hz, hc]

end

end Sys2Proof.Machine
end

section
/-! The matrix multiplies (R205 to R213, R99): the sums of one element, the rows of the new tile, and the order of the checks. -/

namespace Sys2Proof.Machine

/-! ## The new tile (R207) -/

/-- Element (r, n) of a multiply: the block sums from the old element, or from +0 where that is not read. -/
def mulElem (t : Tile) (cls : TileKind) (z sat : Bool) (l k r n : Nat) (ra rb : List MVal) : Nat × Flags :=
  let start := if z || t.kind == .zero then 0 else t.el r n
  let blks := chunks l (cdiv k l) (ra.zip rb)
  match cls with
  | .int => maccInt sat blks start 0
  | _ => maccFp blks start 0

/-- The new elements of row r. -/
def mulRow (t : Tile) (cls : TileKind) (z sat : Bool) (l k : Nat) (b : List (List MVal)) (r : Nat) (ra : List MVal) : List (Nat × Flags) :=
  b.mapIdx (fun j rb => mulElem t cls z sat l k r j ra rb)

/-- A row takes its new elements in columns 0 to n − 1, and its flags are gathered. -/
def putRow (n : Nat) (q : Tile × Flags) (row : Nat × List (Nat × Flags)) : Tile × Flags :=
  let x := q.1
  let old := x.row row.1
  let y := x.setRow row.1 (packEls 32 (row.2.map (·.1)) + old / 2 ^ (32 * n) * 2 ^ (32 * n))
  (if n == 64 then { y with poison := y.poison &&& ~~~(1#64 <<< row.1) } else y, row.2.foldl (fun f e => f ||| e.2) q.2)

/-- The rows of a multiply, put one after the other. -/
def mulRows (t : Tile) (cls : TileKind) (z sat : Bool) (l k : Nat) (a b : List (List MVal)) (fl : Flags) : Tile × Flags :=
  (a.mapIdx (fun r ra => (r, mulRow t cls z sat l k b r ra))).foldl (putRow b.length) (t, fl)

theorem matmul_eq (t : Tile) (cls : TileKind) (z sat : Bool) (l k : Nat) (a b : List (List MVal)) :
    let go := mulRows t cls z sat l k a b ((a ++ b).foldl (fun f r => r.foldl (fun f x => f ||| x.fl) f) 0)
    matmul t cls z sat l k a b = ({ go.1 with kind := cls }, matFlags go.2) := rfl

theorem mulElem_eq (t : Tile) (cls : TileKind) (z sat : Bool) (l k r n : Nat) (ra rb : List MVal) :
    mulElem t cls z sat l k r n ra rb =
      let from0 := if z = true ∨ t.kind = .zero then 0 else t.el r n
      let blocks := chunks l (cdiv k l) (ra.zip rb)
      if cls = .int then maccInt sat blocks from0 0 else maccFp blocks from0 0 := by
  unfold mulElem
  simp only [Bool.or_eq_true, beq_iff_eq]
  cases cls <;> rfl

/-- One row's elements are new up to column n − 1, and all others stay. -/
theorem putRow_el (q : Tile × Flags) {r : Nat} (es : List (Nat × Flags)) (hr : r < 64) (i : Nat) {j : Nat} (hj : j < 64) :
    (putRow es.length q (r, es)).1.el i j = if i = r ∧ j < es.length then (es.getD j (0, 0)).1 % 2 ^ 32 else q.1.el i j := by
  have hpoison (y : Tile) : (if es.length == 64 then { y with poison := y.poison &&& ~~~(1#64 <<< r) } else y).el i j = y.el i j :=
    apply_ite (fun y : Tile => y.el i j) _ _ _ |>.trans (ite_self _)
  refine (hpoison _).trans ?_
  by_cases hi : i = r
  · subst hi
    rw [Tile.el_setRow_self _ _ hr hj]
    have habove := packEls_above 32 (q.1.row i / 2 ^ (32 * es.length)) j (es.map (·.1))
    rw [List.length_map] at habove
    rw [habove]
    by_cases hn : j < es.length
    · simp [hn]
    · rw [if_neg hn, if_neg (fun h => hn h.2), Nat.div_div_eq_div_mul, ← pow_add, ← Nat.mul_add, Nat.add_sub_cancel' (Nat.le_of_not_lt hn)]
      rfl
  · rw [Tile.el_setRow_ne _ _ _ hi, if_neg (fun h => hi h.1)]

/-- The elements of the rows that have been put are the sums, and all others stay. -/
theorem mulRows_el (t : Tile) (cls : TileKind) (z sat : Bool) (l k : Nat) (a b : List (List MVal)) (fl : Flags) (ha : a.length ≤ 64)
    (r : Nat) {j : Nat} (hj : j < 64) : (mulRows t cls z sat l k a b fl).1.el r j =
      if r < a.length ∧ j < b.length then (mulElem t cls z sat l k r j (a.getD r []) (b.getD j [])).1 % 2 ^ 32 else t.el r j := by
  induction a using List.reverseRecOn with
  | nil => simp [mulRows]
  | append_singleton a ra ih =>
    rw [List.length_append, List.length_singleton] at ha
    have hlast : mulRows t cls z sat l k (a ++ [ra]) b fl =
        putRow b.length (mulRows t cls z sat l k a b fl) (a.length, mulRow t cls z sat l k b a.length ra) := by
      unfold mulRows
      rw [List.mapIdx_concat, List.foldl_append]
      rfl
    have hput := putRow_el (mulRows t cls z sat l k a b fl) (mulRow t cls z sat l k b a.length ra) (show a.length < 64 by omega) r hj
    rw [show (mulRow t cls z sat l k b a.length ra).length = b.length from List.length_mapIdx] at hput
    rw [hlast, hput, ih (by omega), List.length_append, List.length_singleton]
    by_cases hn : j < b.length
    · rcases Nat.lt_trichotomy r a.length with hr | rfl | hr
      · simp [hn, hr, Nat.ne_of_lt hr, show r < a.length + 1 by omega]
      · simp [hn, mulRow]
      · simp [Nat.ne_of_gt hr, show ¬ r < a.length by omega, show ¬ r < a.length + 1 by omega]
    · simp [hn]

/-- What a multiply makes of a tile: the sums in its rows and columns, the class as kind, and the flags of R98. -/
theorem matmul_result (t : Tile) (cls : TileKind) (z sat : Bool) (l k : Nat) (a b : List (List MVal)) (ha : a.length ≤ 64) :
    (matmul t cls z sat l k a b).1.kind = cls ∧ (matmul t cls z sat l k a b).2 &&& 0x2A = 0 ∧
    ∀ r j, r < 64 → j < 64 → (matmul t cls z sat l k a b).1.el r j =
      if r < a.length ∧ j < b.length then (mulElem t cls z sat l k r j (a.getD r []) (b.getD j [])).1 % 2 ^ 32 else t.el r j := by
  rw [matmul_eq]
  exact ⟨rfl, matFlags_and _, fun r j _ hj => mulRows_el t cls z sat l k a b _ ha r hj⟩

/-! ## The order of the checks -/

/-- A multiply with its data at hand and nothing poisoned takes the products. -/
theorem multiply_of_ready {s : State} {rs : List Src} {d : AccReg} {z : Bool} {fa : Nat} {pb : TilePair} {m k : Nat} {sp : Option Sparsity}
    {poisonedA : Bool} {tid : Nat} {rowsA : List (List MVal)} (hl : s.cpu.mem.late = false) (hw : spadWritten s tid = true)
    (ha : poisonedA = false) (hb : tilePoisoned s tid pb sp k = false) (hp : z = true ∨ (accOf s d).poison = 0) :
    let r := matmul (accOf s d) (accClass fa pb.fmt) z (mrSat s.cpu.ctl.mr) (blockLen fa pb.fmt) k rowsA
      (tileRows s (depOfSrcs s rs) tid pb sp k)
    multiply s rs d z fa pb m k sp poisonedA tid rowsA = .next (vdone (setAcc (accrue s r.2) d r.1) rs) := by
  have hrows : (if z then [] else List.range m) = [] ∨ (accOf s d).poison = 0 := hp.imp_left fun h => if_pos h
  unfold multiply
  refine (if_neg (by rw [hl, hw]; decide)).trans ((if_neg (by rw [ha, hb]; decide)).trans (needRows_of_clean _ d hrows))

theorem tileCheck_rows {p : TilePair} {use : TileUse} {k alloc other : Nat} (h : tileCheck p use k alloc other = 0) : p.rows ≤ 64 := by
  unfold tileCheck at h
  grind

/-! ## The forms on operands that pass (R205) -/

/-- The rows of a vector group as a multiply reads them: inactive elements are +0 (R207). -/
def groupRows (s : State) (a : VReg) (m : Nat) : List (List MVal) :=
  (List.range m).map (fun r =>
    let v := vreg s (BitVec.ofNat 5 (a.toNat + r))
    (List.range (vlOf s)).map (fun i => if active s (wOf s) i then mval (etOf s) (v.el (wOf s) i) (sclOf v i) else MVal.zero))

section
variable {s : State} {d : AccReg} {z : Bool} (ht : isTask s = true) (hd : d.toNat < accCount s)
include ht hd

section
variable {a : VReg} {b : PairReg} {g : BitVec 2} (hport : roleOf s s.cpu = .single ∨ (b.toNat ≤ 13 ∧ a.toNat + 2 ^ g.toNat ≤ 28))
include hport

/-- With VL 0 the forms on vectors do nothing (R206). -/
theorem mmaForm_of_vl_zero (word : Nat) (sparse : Bool) (hk : vlOf s = 0) : mmaForm s word sparse d a b z g = .next (complete s) := by
  unfold mmaForm
  rw [taskOnly_of_isTask _ _ ht, needAcc_of_granted _ _ hd, needPairs_of_low _ _ (hport.imp_right fun h => by simpa using h.1),
    needGroup_of_low _ _ (hport.imp_right And.right)]
  exact if_pos (beq_iff_eq.mpr hk)

/-- Vectors that fit, and are quiet: the pair's checks, then the tile's kind, then the sums. -/
theorem mmaForm_of_quiet (word : Nat) (sparse : Bool) {w1 w2 : Word}
    (hr : vreadable s [.s (PairReg.lo b), .s (PairReg.hi b)] .none false = some [.s w1, .s w2]) (hk : 0 < vlOf s)
    (hrows : 0 < (TilePair.mk w1 w2).rows) (het : etOf s ≤ 0x1F)
    (hv : ∀ r, r < 2 ^ g.toNat → (vreg s (BitVec.ofNat 5 (a.toNat + r))).fmt = etOf s ∧ (vreg s (BitVec.ofNat 5 (a.toNat + r))).quiet = true)
    (hn : vlOf s ≤ vlmax (wOf s)) :
    let p : TilePair := ⟨w1, w2⟩
    let c := tileCheck p (if sparse then .sparse else .dense) (vlOf s) (spadOf s).2 (etOf s)
    mmaForm s word sparse d a b z g =
      if c ≠ 0 then tileTrap s c (PairReg.lo b).toNat
      else kindGate s d z (accClass (etOf s) p.fmt) (needM s [guardReg s] (
        multiply s [.s (PairReg.lo b), .s (PairReg.hi b)] d z (etOf s) p (2 ^ g.toNat) (vlOf s) (if sparse then sparsityOf p.spar else none)
          false (spadOf s).1 (groupRows s a (2 ^ g.toNat)))) := by
  intro p c
  have hregs {q : VReg → Prop} (h : ∀ r, r < 2 ^ g.toNat → q (BitVec.ofNat 5 (a.toNat + r))) :
      ∀ r ∈ (List.range (2 ^ g.toNat)).map (fun i => BitVec.ofNat 5 (a.toNat + i)), q r :=
    List.forall_mem_map.mpr fun i hi => h i (List.mem_range.mp hi)
  unfold mmaForm
  rw [taskOnly_of_isTask _ _ ht, needAcc_of_granted _ _ hd, needPairs_of_low _ _ (hport.imp_right fun h => by simpa using h.1),
    needGroup_of_low _ _ (hport.imp_right And.right)]
  refine (if_neg (by simpa using Nat.ne_of_gt hk)).trans ((readOps_of_vreadable _ _ hr).trans
    ((if_neg (fun h => Nat.ne_of_gt hrows (beq_iff_eq.mp h))).trans ((fmtGate_of_fits _ (decide_eq_true het) ?_ ?_).trans ?_)))
  · exact List.forall_mem_map.mpr (hregs fun r hr => (hv r hr).1)
  · exact List.forall_mem_map.mpr (hregs (q := fun _ => _) fun _ _ => hn)
  · by_cases hc : c = 0
    · rw [if_neg (not_not.mpr hc)]
      refine (if_neg (fun h => bne_iff_ne.mp h hc)).trans (congrArg (kindGate s d z _) ((needV_of_quiet _ ?_).trans ?_))
      · exact List.forall_mem_map.mpr (hregs fun r hr => ⟨(hv r hr).2, fun _ => groupsOf_lt⟩)
      · unfold groupRows
        rw [List.map_map]
        rfl
    · rw [if_pos hc]
      exact if_pos (bne_iff_ne.mpr hc)

end

/-- Two tiles that pass their checks: the accumulator's kind, then the sums. -/
theorem execMmas_of_checks {a b : PairReg} (hport : roleOf s s.cpu = .single ∨ (a.toNat ≤ 13 ∧ b.toNat ≤ 13)) {w1 w2 w3 w4 : Word}
    (hr : vreadable s [.s (PairReg.lo a), .s (PairReg.hi a), .s (PairReg.lo b), .s (PairReg.hi b)] .none false =
      some [.s w1, .s w2, .s w3, .s w4])
    (hm : 0 < (TilePair.mk w1 w2).rows) (hk : 0 < (TilePair.mk w1 w2).cols) (hn : 0 < (TilePair.mk w3 w4).rows) :
    let p : TilePair := ⟨w1, w2⟩
    let q : TilePair := ⟨w3, w4⟩
    let rs := [Src.s (PairReg.lo a), .s (PairReg.hi a), .s (PairReg.lo b), .s (PairReg.hi b)]
    tileCheck p .dense p.cols (spadOf s).2 q.fmt = 0 → tileCheck q .dense p.cols (spadOf s).2 p.fmt = 0 →
    execMmas d a b z s = kindGate s d z (accClass p.fmt q.fmt) (multiply s rs d z p.fmt q p.rows p.cols none
      (tilePoisoned s (spadOf s).1 p none p.cols) (spadOf s).1 (tileRows s (depOfSrcs s rs) (spadOf s).1 p none p.cols)) := by
  intro p q rs hp hq
  have hsome : ¬ (p.rows == 0 || p.cols == 0 || q.rows == 0) = true := by
    simpa using ⟨⟨Nat.ne_of_gt hm, Nat.ne_of_gt hk⟩, Nat.ne_of_gt hn⟩
  unfold execMmas
  rw [taskOnly_of_isTask _ _ ht, needAcc_of_granted _ _ hd, needPairs_of_low _ _ (hport.imp_right fun h => by simpa using h)]
  exact (readOps_of_vreadable _ _ hr).trans ((if_neg hsome).trans ((if_neg (fun h => bne_iff_ne.mp h hp)).trans (if_neg (fun h => bne_iff_ne.mp h hq))))

end

/-! ## The obligation -/

/-- A multiply of rows `ra` by rows `rb` that comes to its sums has the results that R207 gives. -/
theorem multiplies_of_sums {s : State} {d : AccReg} {z : Bool} {o : Out} {rs : List Src} {fa fb m n k : Nat} {ra rb : List (List MVal)}
    (hm : ra.length = m) (hn : rb.length = n) (hle : m ≤ 64)
    (ho : let r := matmul (accOf s d) (accClass fa fb) z (mrSat s.cpu.ctl.mr) (blockLen fa fb) k ra rb
      o = .next (vdone (setAcc (accrue s r.2) d r.1) rs)) :
    ∃ x fl, o = .next (vdone (setAcc (accrue s fl) d x) rs) ∧ x.kind = accClass fa fb ∧ fl &&& 0x2A = 0 ∧
      ∀ r j, r < 64 → j < 64 → x.el r j =
        if r < m ∧ j < n then
          let blocks := chunks (blockLen fa fb) (cdiv k (blockLen fa fb)) ((ra.getD r []).zip (rb.getD j []))
          let from0 := if z = true ∨ (accOf s d).kind = .zero then 0 else (accOf s d).el r j
          (if accClass fa fb = .int then maccInt (mrSat s.cpu.ctl.mr) blocks from0 0 else maccFp blocks from0 0).1 % 2 ^ 32
        else (accOf s d).el r j := by
  subst hm hn
  obtain ⟨hkind, hflags, hel⟩ := matmul_result (accOf s d) (accClass fa fb) z (mrSat s.cpu.ctl.mr) (blockLen fa fb) k ra rb hle
  refine ⟨_, _, ho, hkind, hflags, fun r j hr hj => ?_⟩
  rw [hel r j hr hj, mulElem_eq]

/-- Settles O28: the checks in their order, then the sums row by row. -/
theorem matrixMultiplies : Obligations.MatrixMultiplies := by
  unfold Obligations.MatrixMultiplies
  refine ⟨fun s d z ht hd hpoison => ?products, fun s d a b z g ht hd hport => ⟨?nothing, ?traps⟩⟩
  case products =>
    intro t tid alloc multiplies
    constructor
    · intro a b g w1 w2 sparse m p rs v k f sp hport hr hk hrows het hv hn hc hclean hkind hacc hlate hspad
      have hle : m ≤ 64 := (Nat.pow_le_pow_right (by decide) (Nat.le_of_lt_succ g.isLt)).trans (by decide)
      refine multiplies_of_sums (by simp) (by simp [tileRows]) hle ?_
      have hgo (word : Nat) := (mmaForm_of_quiet ht hd hport (z := z) word sparse hr hk hrows het hv hn).trans
        ((if_neg (not_not.mpr hc)).trans ((kindGate_of_fits _ hkind).trans ((needM_of_clean _ _ hpoison).trans
          (multiply_of_ready hlate hspad rfl hclean hacc))))
      cases sparse with
      | false => exact (exec_mma ..).trans (hgo _)
      | true => exact (exec_mmasp ..).trans (hgo _)
    · intro a b w1 w2 w3 w4 p q rs hport hr hm hk hn hp hq hpclean hqclean hkind hacc hlate hspad
      refine multiplies_of_sums (by simp [tileRows]) (by simp [tileRows]) (tileCheck_rows hp) ?_
      exact (exec_mmas ..).trans ((execMmas_of_checks ht hd hport hr hm hk hn hp hq).trans
        ((kindGate_of_fits _ hkind).trans (multiply_of_ready hlate hspad hpclean hqclean hacc)))
  case nothing =>
    exact fun hk => ⟨(exec_mma ..).trans (mmaForm_of_vl_zero ht hd hport _ _ hk), (exec_mmasp ..).trans (mmaForm_of_vl_zero ht hd hport _ _ hk)⟩
  case traps =>
    intro w1 w2 p v c hr hk hrows het hv hn
    have hgo (z : Bool) := (exec_mma ..).trans (mmaForm_of_quiet ht hd hport (z := z) (encodeNat (.mma d a b z g)) false hr hk hrows het hv hn)
    exact ⟨fun hc => (hgo z).trans (if_pos hc), fun hc _ hz hcls => (hgo false).trans ((if_neg (not_not.mpr hc)).trans (kindGate_of_other _ hz hcls))⟩

end Sys2Proof.Machine
end

section
/-! Which operations leave the accumulator tiles of every task as they are: the checks of an access, popping ports and stores. -/

namespace Sys2Proof.Machine

/-! ## Tiles -/

/-- The accumulator tiles of the tasks. -/
def tiles (s : State) : List (Nat × List Tile) := s.tasks.map (fun k => (k.tid, k.accs))

/-- Tile n of a task among them. -/
def tileAt (ts : List (Nat × List Tile)) (tid : Option Nat) (n : Nat) : Tile :=
  ((tid.bind (fun i => ts.find? (fun x => x.1 == i))).map (fun x => x.2.getD n Tile.zero)).getD Tile.zero

/-- An accumulator is one of the tiles of the cpu's task. -/
theorem accOf_eq (s : State) (n : AccReg) : accOf s n = tileAt (tiles s) (tidOf s.cpu.id) n.toNat := by
  unfold accOf tileAt
  cases tidOf s.cpu.id with
  | none => rfl
  | some tid =>
    have hfind : (tiles s).find? (fun x => x.1 == tid) = (s.task? tid).map (fun k => (k.tid, k.accs)) := List.find?_map ..
    rw [Option.bind_some, hfind]
    dsimp only
    cases s.task? tid <;> rfl

theorem accOf_congr {s t : State} (hi : t.cpu.id = s.cpu.id) (h : tiles t = tiles s) (n : AccReg) : accOf t n = accOf s n := by
  rw [accOf_eq, accOf_eq, hi, h]

/-- A change of a task beside its tiles. -/
theorem tiles_modTask (s : State) (n : Nat) {f : Task → Task} (ht : ∀ k, (f k).tid = k.tid) (ha : ∀ k, (f k).accs = k.accs) :
    tiles (s.modTask n f) = tiles s := by
  have hlist (ks : List Task) : (replaceFirst (fun k => k.tid == n) f ks).map (fun k => (k.tid, k.accs)) = ks.map (fun k => (k.tid, k.accs)) := by
    induction ks with
    | nil => rfl
    | cons k ks ih =>
      unfold replaceFirst
      split
      · rw [List.map_cons, List.map_cons, ht, ha]
      · rw [List.map_cons, List.map_cons, ih]
  exact hlist s.tasks

/-! ## Writes of the machine -/

theorem tiles_writeBase (s : State) (l : Loc) (bs : List Byte) : tiles (writeBase s l bs) = tiles s := by
  cases l with
  | spad n o => exact tiles_modTask s n (fun _ => rfl) (fun _ => rfl)
  | _ => rfl

theorem tiles_poisonWords (s : State) (l : Loc) (ws : List Nat) : tiles (poisonWords s l ws) = tiles s := by
  unfold poisonWords
  split
  · rfl
  · cases l with
    | spad n o => exact tiles_modTask s n (fun _ => rfl) (fun _ => rfl)
    | _ => rfl

theorem tiles_foldGo (rs : List WRec) : ∀ s : State, tiles (foldGo rs s) = tiles s := by
  induction rs with
  | nil => exact fun s => rfl
  | cons r rs ih =>
    intro s
    unfold foldGo
    split
    · exact (ih _).trans ((tiles_poisonWords _ r.loc r.bad).trans (tiles_writeBase s r.loc r.bytes))
    · rfl

theorem tiles_enterDev (s : State) (l : Loc) (bs : List Byte) (v : Scope) (g : WTag) : tiles (enterDev s l bs v g) = tiles s := tiles_foldGo _ _

/-! ## The checks of an access -/

section
/-! What holds of a state and is kept by the steps that a translation is made of (A and D bits entered, a number drawn, an entry cached; R413)
holds at its end. -/

variable {p : State → Prop} (henter : ∀ t l bs v g, p t → p (enterDev t l bs v g)) (hid : ∀ t e, p t → p (entId t e).2)
  (hcache : ∀ t c e, p t → p (cacheEnt t c e))
include henter

theorem setPteBits_induction {s t : State} {bits : Word} {l : Option Leaf} (h : setPteBits s bits l = some t) (h0 : p s) : p t := by
  unfold setPteBits at h
  split at h
  · exact Option.some.inj h ▸ h0
  · split at h
    · exact Option.some.inj h ▸ h0
    · split at h
      · exact Option.some.inj h ▸ henter _ _ _ _ _ h0
      · exact absurd h nofun

include hid hcache

theorem walk_induction {s : State} {c : XCtx} {va : Nat} {r w x touch : Bool} {k : XOk} (h : walk s c va r w x touch = .ok k) (h0 : p s) :
    p k.s := by
  unfold walk at h
  extract_lets t s2 done at h
  have hdone {e : TlbEnt} {l1 l2 : Option Leaf} (hd : done e l1 l2 = .ok k) : p k.s := by
    simp only [done] at hd
    split at hd
    · exact absurd hd nofun
    · rename_i k' hk'
      split at hd
      · exact Except.ok.inj hd ▸ useEnt_state hk' ▸ hid s e h0
      · split at hd
        · rename_i u hu
          obtain ⟨v, hv, hu⟩ := Option.bind_eq_some_iff.mp hu
          exact Except.ok.inj hd ▸ hcache u c _ (setPteBits_induction henter hu (setPteBits_induction henter hv (hid s e h0)))
        · exact absurd hd nofun
  clear_value done
  split at h
  · have h := ok_of_check h
    split at h
    · exact absurd h nofun
    · exact hdone (ok_of_check h)
  · split at h
    · exact absurd h nofun
    · have h := ok_of_check h
      simp only at h
      split at h
      · exact hdone h
      · split at h
        · exact absurd h nofun
        · exact hdone (ok_of_check h)

theorem translate_induction {s : State} {c : XCtx} {va : Word} {r w x touch : Bool} {k : XOk} (h : translate s c va r w x touch = .ok k)
    (h0 : p s) : p k.s := by
  unfold translate at h
  have h := ok_of_check h
  split at h
  · split at h
    · split at h
      · exact Except.ok.inj (ok_of_check (ok_of_check h)) ▸ h0
      · exact absurd h nofun
    · exact absurd h nofun
  · split at h
    · exact Except.ok.inj (ok_of_check h) ▸ h0
    · simp only at h
      split at h
      · split at h
        · exact useEnt_state h ▸ h0
        · exact walk_induction henter hid hcache h h0
      · split at h
        · rename_i hw
          exact Except.ok.inj h ▸ walk_induction henter hid hcache hw h0
        · exact absurd (ok_of_check h) nofun

theorem checkAccess_induction {s : State} {va : Word} {n : Nat} {r w : Bool} {k : XOk} (h : checkAccess s va n r w = .ok k) (h0 : p s) :
    p k.s := by
  unfold checkAccess at h
  have h := ok_of_check h
  split at h
  · split at h
    · rename_i hk
      unfold translateFw at hk
      split at hk
      · exact Except.ok.inj h ▸ Except.ok.inj hk ▸ h0
      · exact absurd hk nofun
    · exact absurd h nofun
  · split at h
    · exact absurd h nofun
    · rename_i hk
      exact Except.ok.inj (ok_of_check (ok_of_check (ok_of_check h))) ▸ translate_induction henter hid hcache hk h0

end

theorem tiles_entId (s : State) (e : TlbEnt) : tiles (entId s e).2 = tiles s := by
  unfold entId
  split <;> rfl

theorem tiles_checkAccess {s : State} {va : Word} {n : Nat} {r w : Bool} {k : XOk} (h : checkAccess s va n r w = .ok k) :
    tiles k.s = tiles s :=
  checkAccess_induction (p := fun t => tiles t = tiles s) (fun t l bs v g => (tiles_enterDev t l bs v g).trans)
    (fun t e => (tiles_entId t e).trans) (fun _ _ _ ht => ht) h rfl

theorem tiles_storeElems (adds : Bool) (us : List SUnit) : ∀ r : SRes, tiles (storeElems adds us r).s = tiles r.s := by
  induction us with
  | nil => exact fun r => rfl
  | cons u us ih =>
    intro r
    rcases storeElems_cons adds u us r with ⟨e, h⟩ | ⟨k, hk, ⟨x, h⟩ | h⟩
    · rw [h]
    · rw [h, ih, tiles_checkAccess hk]
    · rw [h, ih, tiles_checkAccess hk]

/-! ## The end of a vector instruction -/

theorem tiles_modQueues (s : State) (f : Queues → Queues) : tiles (modQueues s f) = tiles s := by
  unfold modQueues
  split
  · exact tiles_modTask s _ (fun _ => rfl) (fun _ => rfl)
  · rfl

theorem tiles_vdone (s : State) (rs : List Src) : tiles (vdone s rs) = tiles s :=
  popOps_induction (p := fun t => tiles t = tiles s) rs rfl fun t f h => (tiles_modQueues t f).trans h

end Sys2Proof.Machine
end

section
/-! Moving rows of accumulators (R214, R215), draining them (R216 to R219) and building tile descriptors (R204). -/

namespace Sys2Proof.Machine

/-- An accumulator instruction on operands that can be read goes on with their values. -/
theorem accOps_of_vreadable {s : State} {n : AccReg} {rs : List Src} {dst : Dst} {room : Bool} {vs : List SVal} (word : Nat) (k : List SVal → Out)
    (ht : isTask s = true) (hn : n.toNat < accCount s) (hr : vreadable s rs dst room = some vs) :
    taskOnly s word (needAcc s word n (readOps s word rs dst room k)) = k vs := by
  rw [taskOnly_of_isTask _ _ ht, needAcc_of_granted _ _ hn, readOps_of_vreadable _ _ hr]

/-! ## Rows (R215) -/

section
variable {s : State} (ht : isTask s = true)
include ht

section
variable {d : VReg} {a : AccReg} {b : SReg} {x : Word} (ha : a.toNat < accCount s) (hr : vreadable s [.s b] (.v d) true = some [.s x])
include ha hr

theorem execMaccRd_of_row (hx : x.toNat < 64) (hp : (accOf s a).poison = 0) (hd : destFree s d = true) :
    execMaccRd d a b s = .next (vdone (putV (accrue s 0) d 32 (if (accOf s a).kind = .int then 0x20 else 0x00)
      ((List.range 256).map (fun j => (j, if j < 64 then (accOf s a).el x.toNat j else 0, pPresent))) (fun _ => (0, 0))) [.s b]) := by
  have htag : (if (accOf s a).kind == .int then 0x20 else 0x00) = if (accOf s a).kind = .int then 0x20 else 0x00 := by simp only [beq_iff_eq]
  rw [← htag]
  exact (accOps_of_vreadable _ _ ht ha hr).trans ((if_neg (Nat.not_le.mpr hx)).trans ((needRows_of_clean _ _ (.inr hp)).trans
    (writeV_of_destFree hd _ _ _ _ _ _)))

theorem execMaccRd_of_beyond (hx : 64 ≤ x.toNat) : execMaccRd d a b s = fmtTrap s b.toNat :=
  (accOps_of_vreadable _ _ ht ha hr).trans (if_pos hx)

end

section
variable {d : AccReg} {a : VReg} {b : SReg} {v : VVal} {x : Word} (hd : d.toNat < accCount s)
  (hr : vreadable s [.v a, .s b] .none false = some [.v v, .s x])
include hd hr

theorem execMaccWr_of_badTag (h0 : v.fmt ≠ 0x00) (h1 : v.fmt ≠ 0x20) : execMaccWr d a b s = fmtTrap s a.toNat :=
  (accOps_of_vreadable _ _ ht hd hr).trans (if_pos (by simp [vecAt, SVal.vec, h0, h1]))

section
variable (hf : v.fmt = 0x00 ∨ v.fmt = 0x20)
include hf

theorem execMaccWr_of_beyond (hx : 64 ≤ x.toNat) : execMaccWr d a b s = fmtTrap s b.toNat :=
  (accOps_of_vreadable _ _ ht hd hr).trans ((if_neg (by rcases hf with h | h <;> simp [vecAt, SVal.vec, h])).trans (if_pos hx))

/-- The row takes the 64 elements, and the tile the kind of the source. -/
theorem execMaccWr_of_row (hx : x.toNat < 64) (hv : v.quiet = true) :
    let kind : TileKind := if v.fmt = 0x00 then .fp else .int
    ((accOf s d).kind = .zero ∨ (accOf s d).kind = kind) →
    ∃ t, execMaccWr d a b s = .next (vdone (setAcc s d t) [.v a, .s b]) ∧ t.kind = kind ∧
      ∀ r j, r < 64 → j < 64 → t.el r j = if r = x.toNat then v.el 32 j else (accOf s d).el r j := by
  intro kind hk
  have hkind : (if v.fmt == 0x00 then TileKind.fp else .int) = kind := by simp only [beq_iff_eq, kind]
  have hfits : ¬ ((accOf s d).kind != .zero && (accOf s d).kind != (if v.fmt == 0x00 then TileKind.fp else .int)) = true := by
    rw [hkind]
    rcases hk with h | h <;> simp [h]
  refine ⟨_, (accOps_of_vreadable _ _ ht hd hr).trans ((if_neg (by rcases hf with h | h <;> simp [vecAt, SVal.vec, h])).trans
    ((if_neg (Nat.not_le.mpr hx)).trans ((if_neg hfits).trans (needV_of_quiet _ ?_)))), hkind, fun r j hrow hj => ?_⟩
  · refine List.forall_mem_singleton.mpr ⟨hv, fun g hg => ?_⟩
    fin_cases hg <;> decide
  · change ((accOf s d).setRow x.toNat (packEls 32 ((List.range 64).map (v.el 32)))).el r j = _
    by_cases h : r = x.toNat
    · rw [h, if_pos rfl, Tile.el_setRow_self _ _ hx hj, packEls_el 32 j _ (by simpa using hj)]
      simp [hj, VVal.el, getEl]
    · rw [if_neg h, Tile.el_setRow_ne _ _ _ h]

end
end

/-! ## Tile descriptors (R204) -/

theorem execMtd_of_readable {d : PairReg} {a b : SReg} {x y : Word} (hport : roleOf s s.cpu = .single ∨ d.toNat ≤ 13)
    (hr : readable s [a, b] none = some [x, y]) :
    let c := tileCheck ⟨x, y⟩ .build (TilePair.mk x y).cols (spadOf s).2 (TilePair.mk x y).fmt
    execMtd d a b s = .next (complete (setSreg (setSreg (popPorts s [a, b]) (PairReg.lo d) (if c = 0 then x else 0))
      (PairReg.hi d) (if c = 0 then y else BitVec.ofNat 64 (2 ^ 63 + c)))) := by
  intro c
  unfold execMtd
  rw [taskOnly_of_isTask _ _ ht, needPairs_of_low _ _ (hport.imp_right fun h => by simpa using h), readS_of_readable _ _ hr]
  simp only [beq_iff_eq]
  rfl

end

/-! ## Drains (R216 to R219) -/

/-- The elements that a drain of some rows stores, with their flags. -/
def drained (s : State) (d : AccReg) (rows : List (Nat × Word)) : List (SUnit × Flags) :=
  (rows.filter (fun r => vstartOf s < 64 * (r.1 + 1))).flatMap (fun r =>
    ((drainUnits (wOf s) r.1 (vlOf s) (vstartOf s)).filter (fun js => guardBit s (wOf s) (js.headD 0))).map
      (drainUnit s (accOf s d) (wOf s) r.1 r.2))

/-- The checks of their stores. -/
def drainRes (s : State) (d : AccReg) (rows : List (Nat × Word)) : SRes :=
  storeElems false ((drained s d rows).map (·.1)) { s := s, loc := [], rem := [], stop := none }

/-- The flags of their conversions (R98). -/
def drainFlags (s : State) (d : AccReg) (rows : List (Nat × Word)) : Flags :=
  matFlags ((drained s d rows).foldl (fun f u => if u.1.el < 4096 then f ||| u.2 else f) 0)

/-- A drained element waits for no data. -/
theorem drainUnit_src (s : State) (t : Tile) (w r : Nat) (row : Word) (js : List Nat) : (drainUnit s t w r row js).1.src = none := by
  unfold drainUnit
  simp only
  split <;> rfl

theorem drained_src (s : State) (d : AccReg) (rows : List (Nat × Word)) : ∀ u ∈ (drained s d rows).map (·.1), u.src = none := by
  simp only [drained, List.forall_mem_map, List.mem_flatMap]
  rintro u ⟨r, -, hu⟩
  obtain ⟨js, -, rfl⟩ := List.mem_map.mp hu
  exact drainUnit_src ..

/-- A drain whose checks gave r completes with its train, and leaves the registers and the tile. -/
def Drains (s : State) (d : AccReg) (r : SRes) (o : Out) : Prop :=
  r.stop = none → r.rem = [] → ∃ z, o = .next z ∧ z.mem = r.s.mem ∧ z.log = r.s.log ∧ z.cpu.regs = s.cpu.regs ∧
    z.cpu.trap = s.cpu.trap ∧ z.cpu.wait = none ∧ accOf z d = accOf s d ∧
    (∃ fl, z.cpu.ctl = { (complete (setVstart s 0)).cpu.ctl with fflags := s.cpu.ctl.fflags ||| fl } ∧ fl &&& 0x2A = 0) ∧
    (r.loc = [] → z.cpu.mem.trains = s.cpu.mem.trains) ∧
    (r.loc ≠ [] → ∃ x : Train, z.cpu.mem.trains = s.cpu.mem.trains ++ [x] ∧ x.ordered = true ∧
      x.elems = r.loc.mapIdx (fun k y => ⟨k, y.1, y.2.1, y.2.2.1, false, .store, y.2.2.2, false⟩))

theorem Aside.accrue {s t : State} (h : Aside s t) (fl : Flags) : Aside (accrue s fl) (accrue t fl) :=
  ⟨congrArg (fun x : Strand => { x with ctl := { x.ctl with fflags := x.ctl.fflags ||| fl } }) h.cpu, h.clusters, h.queues⟩

theorem vdone_cpu_id (s : State) (rs : List Src) : (vdone s rs).cpu.id = s.cpu.id := by
  change (popOps s rs).cpu.id = _
  rw [popOps_cpu]

/-- The end of a store that went to its end leaves the accumulators. -/
theorem accOf_of_storeEnd {s z : State} {rs : List Src} {xs : List (Loc × List Byte × List Byte × Option ESrc)} {ordered : Bool} {op : ElemOp}
    (h : storeEnd (addTrain s ordered op xs).1 rs ordered (addTrain s ordered op xs).2 none = .next z) (d : AccReg) : accOf z d = accOf s d := by
  obtain ⟨es, ts, uid, hs, _⟩ := addTrain_state s ordered op xs
  rw [hs] at h
  obtain rfl := Host.Outcome.next.inj h
  exact accOf_congr (vdone_cpu_id ..) (tiles_vdone ..) d

section
variable {s : State} {d : AccReg} (hm : s.cpu.regs.mPoison = 0) (hp : (accOf s d).poison = 0)
include hm hp

/-- Where nothing is poisoned and every check passes, the elements are stored and the flags of the conversions accrue. -/
theorem drain_of_clean (rs : List Src) {rows : List (Nat × Word)} (hs : (drainRes s d rows).stop = none) : drain s rs d rows =
    storeFinish s rs 0 VVal.zero true .store
      { drainRes s d rows with s := accrue (drainRes s d rows).s (drainFlags s d rows), stop := none } := by
  refine (needM_of_clean _ _ hm).trans ((needRows_of_clean _ d (.inr hp)).trans ?_)
  unfold drainRes drained at hs
  simp only [hs]
  rfl

theorem drain_drains (rs : List Src) (rows : List (Nat × Word)) : Drains s d (drainRes s d rows) (drain s rs d rows) := by
  intro hs hrem
  have hloc : ∀ x ∈ (drainRes s d rows).loc, x.2.2.2 = none :=
    storeElems_src (p := fun x => x = none) (r := ⟨s, [], [], none⟩) (drained_src s d rows) fun _ hx => absurd hx List.not_mem_nil
  have haside : Aside s (drainRes s d rows).s := storeElems_aside _ _ ⟨s, [], [], none⟩
  have hend := (drain_of_clean hm hp rs hs).trans (storeFinish_of_ready hrem hloc)
  obtain ⟨z, hz, hmem, hlog, htrap, hwait, hregs, hctl, hnil, htrain⟩ := (storeEnd_stores
    (r := { drainRes s d rows with s := accrue (drainRes s d rows).s (drainFlags s d rows), stop := none }) (haside.accrue _) rs false .store).done rfl
  have hacc : accOf z d = accOf s d := (accOf_of_storeEnd hz d).trans
    (accOf_congr (congrArg Strand.id haside.cpu) (tiles_storeElems _ _ ⟨s, [], [], none⟩) d)
  exact ⟨z, hend.trans hz, hmem, hlog, hregs, htrap, hwait, hacc, ⟨_, hctl.trans (complete_ctl_of_flags rfl rfl), matFlags_and _⟩, hnil, htrain⟩

end

/-! ## The two drains -/

/-- The limits on VL (R217). -/
theorem drainGate_of_fits {s : State} {d : AccReg} (k : Out) (hl : vlOf s ≤ 64) (he : 8 ≤ wOf s ∨ vlOf s % 2 = 0) : drainGate s d k = k := by
  refine if_neg ?_
  simp only [Bool.or_eq_true, Bool.and_eq_true, decide_eq_true_eq, bne_iff_ne]
  omega

/-- The fields of a drain descriptor that R216 allows (Table 8.9). -/
theorem descriptor_ok {desc : Word} (h1 : desc.toNat / 2 ^ 56 = 0) (h2 : desc.getLsbD 7 = false) (h3 : desc.toNat % 128 ≤ 64) :
    ¬ (bitsOf desc 63 56 != 0 || bitsOf desc 7 7 != 0 || 64 < bitsOf desc 6 0) = true := by
  have hhigh : bitsOf desc 63 56 = 0 := by
    unfold bitsOf
    rw [h1]
    rfl
  have hbit : bitsOf desc 7 7 = 0 := by
    have := Nat.testBit_eq_decide_div_mod_eq (x := desc.toNat) (i := 7)
    rw [BitVec.testBit_toNat, h2] at this
    have := of_decide_eq_false this.symm
    unfold bitsOf
    omega
  rw [hhigh, hbit, bitsOf_low]
  simpa using h3

/-- The stride is the signed field of 48 bits (Table 8.9). -/
theorem stride_eq (desc : Word) :
    BitVec.ofInt 64 (intVal 48 true (bitsOf desc 55 8)) = (BitVec.ofNat 48 (desc.toNat / 256)).signExtend 64 := by
  have hfield : BitVec.ofNat 48 (bitsOf desc 55 8) = BitVec.ofNat 48 (desc.toNat / 256) := by
    apply BitVec.eq_of_toNat_eq
    simp [bitsOf]
  rw [intVal_eq (x := bitsOf desc 55 8) (by decide) true (Nat.mod_lt _ (by decide)), hfield]
  rfl

section
variable {s : State} {d : AccReg} {va : Word} (ht : isTask s = true) (hd : d.toNat < accCount s) (het : isDrainFmt (etOf s) = true)
  (hl : vlOf s ≤ 64) (he : 8 ≤ wOf s ∨ vlOf s % 2 = 0)
include ht hd het hl he

/-- The rows of `macc.st` are a stride apart. -/
theorem execMaccSt_of_descriptor {a b : SReg} {desc : Word} (hr : vreadable s [.s a, .s b] .none false = some [.s va, .s desc])
    (h1 : desc.toNat / 2 ^ 56 = 0) (h2 : desc.getLsbD 7 = false) (h3 : desc.toNat % 128 ≤ 64) :
    execMaccSt d a b s = drain s [.s a, .s b] d ((List.range (desc.toNat % 128)).map (fun r =>
      (r, va + BitVec.ofNat 64 r * (BitVec.ofNat 48 (desc.toNat / 256)).signExtend 64))) := by
  rw [← stride_eq, show desc.toNat % 128 = bitsOf desc 6 0 from (bitsOf_low desc 6).symm]
  exact (accOps_of_vreadable _ _ ht hd hr).trans ((if_neg (by rw [het]; decide)).trans ((drainGate_of_fits _ hl he).trans
    (if_neg (descriptor_ok h1 h2 h3))))

/-- Those of `macc.st.x` are at the offsets, and one with an offset of all ones is skipped. -/
theorem execMaccStX_of_quiet {a : SReg} {b : VReg} {v : VVal} (hr : vreadable s [.s a, .v b] .none false = some [.s va, .v v])
    (hv : v.quiet = true) (hf : v.fmt = 0x22 ∨ v.fmt = 0x23) :
    execMaccStX d a b s = drain s [.s a, .v b] d (((List.range 64).filter (fun r => v.el 64 r ≠ 2 ^ 64 - 1)).map (fun r =>
      (r, va + BitVec.ofNat 64 (v.el 64 r)))) := by
  refine (accOps_of_vreadable _ _ ht hd hr).trans ((if_neg (by rw [het]; decide)).trans ((if_neg ?_).trans ((drainGate_of_fits _ hl he).trans
    ((needV_of_quiet _ ?_).trans (congrArg (drain s _ d) ?_)))))
  · rcases hf with h | h <;> simp [vecAt, SVal.vec, h]
  · refine List.forall_mem_singleton.mpr ⟨hv, fun g hg => ?_⟩
    fin_cases hg <;> decide
  · rw [List.filter_map, List.map_map]
    refine congrArg (List.map _) (List.filter_congr fun r _ => ?_)
    exact (decide_not ..).symm

end

/-! ## The obligation -/

/-- Settles O29: the gates of each instruction, then its effect; a drain is the train of its checks. -/
theorem accumulatorResults : Obligations.AccumulatorResults := by
  unfold Obligations.AccumulatorResults
  refine ⟨⟨fun s d ht hd => ?zero, fun s d a b x ht ha hr => ⟨fun hx hp hf => ?read, fun hx => ?readBeyond⟩,
    fun s d a b v x ht hd hr => ⟨fun hx hv hf => ?write, fun h0 h1 => ?badTag, fun hf hx => ?writeBeyond⟩⟩,
    fun s d va ht hd het hl he hm hp => ⟨fun a b desc hr h1 h2 h3 => ?strided, fun a b v hr hv hf => ?indexed⟩,
    fun s d a b x y ht hport hr => (exec_mtd ..).trans (execMtd_of_readable ht hport hr)⟩
  case zero => exact (exec_maccZ ..).trans ((taskOnly_of_isTask _ _ ht).trans (needAcc_of_granted _ _ hd))
  case read => exact (exec_maccRd ..).trans (execMaccRd_of_row ht ha hr hx hp hf)
  case readBeyond => exact (exec_maccRd ..).trans (execMaccRd_of_beyond ht ha hr hx)
  case write =>
    intro kind hk
    rw [exec_maccWr]
    exact execMaccWr_of_row ht hd hr hf hx hv hk
  case badTag => exact (exec_maccWr ..).trans (execMaccWr_of_badTag ht hd hr h0 h1)
  case writeBeyond => exact (exec_maccWr ..).trans (execMaccWr_of_beyond ht hd hr hf hx)
  case strided =>
    intro hs hrem
    rw [exec_maccSt, execMaccSt_of_descriptor ht hd het hl he hr h1 h2 h3]
    exact drain_drains hm hp _ _ hs hrem
  case indexed =>
    intro hs hrem
    rw [exec_maccStX, execMaccStX_of_quiet ht hd het hl he hr hv hf]
    exact drain_drains hm hp _ _ hs hrem

end Sys2Proof.Machine
end

section
/-! Merge contexts (R233 to R243): the network of an octet, accepting pairs, the counters, pulling rows and closing. -/

namespace Sys2Proof.Machine

/-! ## The bound context -/

/-- A merge instruction other than `mgopen`, on operands that can be read and with a context bound, goes on with both (R235). -/
theorem mergeOps_of_bound {s : State} {rs : List SReg} {dst : Option SReg} {vs : List Word} {m : MergeCtx} (word : Nat)
    (k : List Word → MergeCtx → Out) (ht : isTask s = true) (hr : readable s rs dst = some vs) (hm : s.cpu.ext.merge = some m) :
    taskOnly s word (readS s word rs dst (fun vs => needCtx s (k vs))) = k vs m := by
  rw [taskOnly_of_isTask _ _ ht, readS_of_readable _ _ hr, needCtx, hm]

theorem needCtx_of_unbound {s : State} (k : MergeCtx → Out) (hm : s.cpu.ext.merge = none) : needCtx s k = fmtTrap s 0x3D := by
  rw [needCtx, hm]

/-- A change of the bound context replaces it. -/
theorem modMerge_of_bound {s : State} {m : MergeCtx} (f : MergeCtx → MergeCtx) (hm : s.cpu.ext.merge = some m) :
    modMerge s f = s.withExt (fun x => { x with merge := some (f m) }) := by
  change s.withExt (fun _ => { s.cpu.ext with merge := s.cpu.ext.merge.map f }) = _
  rw [hm]
  rfl

/-- A nonzero status is kept in STAT and reported in d (R234). -/
theorem mergeStat_of_bound {s : State} {m : MergeCtx} (rs : List SReg) (d : SReg) {c : Nat} (hc : c ≠ 0) (hm : s.cpu.ext.merge = some m) :
    mergeStat s rs d c = .next (retired (s.withExt (fun x => { x with merge := some { m with stat := c } })) rs d (BitVec.ofNat 64 c)) := by
  have hnote : noteStat s c = s.withExt (fun x => { x with merge := some { m with stat := c } }) :=
    (if_neg (by simpa using hc)).trans (modMerge_of_bound (fun m => { m with stat := c }) hm)
  rw [mergeStat, hnote]
  rfl

/-! ## The network of an octet (R239) -/

theorem mergeNet_setNet (s : State) (o : Nat) (n : MergeNet) : mergeNet (setNet s o n) o = n := by
  simp [mergeNet, setNet, find?_upsert_self]

/-- A context lies in the octet whose cluster has read its record. -/
theorem octet_of_ctxOfRecord {va : Word} {o : Nat} {ws : List Word} {m : MergeCtx} (h : ctxOfRecord va o ws = some m) : m.octet = o := by
  unfold ctxOfRecord at h
  simp only at h
  split at h
  · exact absurd h nofun
  · exact Option.some.inj h ▸ rfl

/-- A strand binds a free network for which none waits before it. -/
theorem mgopenBind_of_free {s : State} {m : MergeCtx} (d a : SReg) (hb : (mergeNet s m.octet).bound = none)
    (hq : ∀ t ∈ (netWaiters s m.octet).head?, t = s.cpu.id) :
    mgopenBind s d a m = .next (retired (openArea ((setNet s m.octet
      { bound := some s.cpu.id, waiters := (netWaiters s m.octet).filter (fun t => t != s.cpu.id) }).withExt
      (fun x => { x with merge := some m })) s.cpu m.spb m.spl) [a] d 0) := by
  refine if_pos ?_
  rw [hb]
  cases h : netWaiters s m.octet with
  | nil => rfl
  | cons t ts => simp [hq t (by simp [h])]

section
variable {s : State} {d a : SReg} {va : Word} (ht : isTask s = true) (hr : readable s [a] (some d) = some [va])
include ht hr

/-- `mgopen` of a strand that does not wait for the network yet. -/
theorem execMgopen_begins (hw : ∀ e c n, s.cpu.wait ≠ some (.mgopen e c n)) :
    execMgopen d a s = if s.cpu.ext.merge.isSome then mergeStat s [a] d Mst.busy
      else if va.toNat % 256 != 0 then trap s Cause.aln va
      else match readDwords s va (List.range 32) with
        | .error (x, e) => stopAt s x e
        | .ok (ws, u) => match ctxOfRecord va (s.cpu.cluster / 8) ws with
          | none => retire u [a] d 6
          | some m => mgopenBind u d a m := by
  unfold execMgopen
  rw [taskOnly_of_isTask _ _ ht, readS_of_readable _ _ hr]
  split
  · rename_i e c n he
    exact absurd he (hw e c n)
  · rfl

/-- `mgopen` of a strand that waits for the network, with the context it has read. -/
theorem execMgopen_of_waiting {e c : SReg} {m : MergeCtx} (hw : s.cpu.wait = some (.mgopen e c m)) :
    execMgopen d a s = mgopenBind s d a m := by
  unfold execMgopen
  rw [taskOnly_of_isTask _ _ ht, readS_of_readable _ _ hr, hw]

/-- `mgopen` whose record has been read. -/
theorem execMgopen_of_read {ws : List Word} {u : State} (hw : ∀ e c n, s.cpu.wait ≠ some (.mgopen e c n)) (hm : s.cpu.ext.merge = none)
    (hva : va.toNat % 256 = 0) (hread : readDwords s va (List.range 32) = .ok (ws, u)) :
    execMgopen d a s = match ctxOfRecord va (s.cpu.cluster / 8) ws with
      | none => retire u [a] d 6
      | some m => mgopenBind u d a m := by
  rw [execMgopen_begins ht hr hw, hm, hva, hread]
  rfl

/-- `mgopen.cont` of an open context takes the spill area it has read (R239). -/
theorem execMgopenCont_of_open {m : MergeCtx} {spb spl : Word} {u : State} (hm : s.cpu.ext.merge = some m) (hopen : m.state = .opened)
    (haddr : va = m.addr) (hread : readDwords s m.addr [1, 2] = .ok ([spb, spl], u)) (hbad : badSpill spb spl = false)
    (hext : u.cpu.ext = s.cpu.ext) :
    execMgopenCont d a s = .next (retired (openArea (u.withExt (fun y => { y with
      merge := some { m with spb := spb.toNat, spl := spl.toNat, spillPtr := spb.toNat } })) u.cpu spb.toNat spl.toNat) [a] d 0) := by
  have hmu : u.cpu.ext.merge = some m := by rw [hext, hm]
  unfold execMgopenCont
  rw [mergeOps_of_bound _ _ ht hr hm]
  have haddr : opd [va] 0 = m.addr := haddr
  refine (if_neg (by rw [hopen]; decide)).trans ((if_neg (by rw [hopen, haddr]; simp)).trans ?_)
  rw [hread]
  refine (if_neg (Bool.eq_false_iff.mp hbad)).trans ?_
  rw [modMerge_of_bound _ hmu]
  rfl

end

/-- The network goes to the first strand that waits for it, whose `mgopen` goes on. -/
theorem execMgopenGrant_of_free {s : State} {o : Nat} {t : StrandId} {ts : List StrandId} {d a : SReg} {m : MergeCtx}
    (hq : netWaiters s o = t :: ts) (hb : (mergeNet s o).bound = none) (hi : (s.focus t).cpu.id = t)
    (hw : (s.focus t).cpu.wait = some (.mgopen d a m)) : execMgopenGrant o s = execMgopen d a (s.focus t) := by
  unfold execMgopenGrant
  simp [hq, hb, hw, hi]

/-! ## `mgflush` and the counters (R240, R243) -/

section
variable {s : State} {d : SReg} {m : MergeCtx} (ht : isTask s = true) (hr : readable s [] (some d) = some []) (hm : s.cpu.ext.merge = some m)
include ht hr hm

theorem execMgflush_of_open (hopen : m.state = .opened) :
    execMgflush d s = .next (retired (s.withExt (fun y => { y with merge := some { m with state := .flushed } })) [] d 0) := by
  unfold execMgflush
  rw [mergeOps_of_bound _ _ ht hr hm, hopen]
  simp only [modMerge_of_bound _ hm]
  rfl

theorem mgstat_of_bound (word : Nat) (f : MergeCtx → Nat) : mgstat s word d f = .next (retired s [] d (BitVec.ofNat 64 (f m))) :=
  mergeOps_of_bound word (fun _ m => retire s [] d (BitVec.ofNat 64 (f m))) ht hr hm

end

theorem execMgflush_of_unbound {s : State} {d : SReg} (ht : isTask s = true) (hm : s.cpu.ext.merge = none)
    (hr : readable s [] (some d) = some []) : execMgflush d s = fmtTrap s 0x3D :=
  (taskOnly_of_isTask _ _ ht).trans ((readS_of_readable _ _ hr).trans (needCtx_of_unbound _ hm))

/-! ## Accepting pairs (R236 to R238) -/

/-- The first element that satisfies p is replaced where it stands. -/
theorem replaceFirst_append_cons {α : Type} {p : α → Bool} (f : α → α) {pre post : List α} {e : α} (hpre : ∀ y ∈ pre, p y = false)
    (he : p e = true) : replaceFirst p f (pre ++ e :: post) = pre ++ f e :: post := by
  induction pre with
  | nil => exact if_pos he
  | cons y pre ih =>
    obtain ⟨hy, hpre⟩ := List.forall_mem_cons.mp hpre
    rw [List.cons_append, replaceFirst, hy, ih hpre]
    rfl

/-- An entry of the key and stream. -/
def MEntry.sameKey (row coord strm : Nat) (e : MEntry) : Bool := e.row == row && e.coord == coord && e.strm == strm

theorem sameKey_iff {row coord strm : Nat} {e : MEntry} : e.sameKey row coord strm = true ↔ e.row = row ∧ e.coord = coord ∧ e.strm = strm := by
  simp [MEntry.sameKey, and_assoc]

section
variable {m m1 : MergeCtx} {row strm : Nat}

/-- A context in which a pair has been counted. -/
def MergeCtx.counted (m : MergeCtx) (strm : Nat) : MergeCtx :=
  { m with seqs := m.seqs.set strm (m.seqs.getD strm 0 + 1), npush := m.npush + 1 }

/-- The entry a pair makes. -/
def MergeCtx.entryOf (m : MergeCtx) (row strm : Nat) (p : BitVec 32 × BitVec 32) : MEntry :=
  ⟨row, p.1.toNat, strm, m.seqs.getD strm 0, mergeVal m.cmb p.2⟩

/-- Accepting a pair counts it in its stream and in NPUSH. -/
theorem acceptPair_counts {p : BitVec 32 × BitVec 32} (h : acceptPair m row strm p = some m1) :
    m1.npush = m.npush + 1 ∧ m1.seqs = m.seqs.set strm (m.seqs.getD strm 0 + 1) := by
  unfold acceptPair at h
  simp only at h
  split at h
  · exact Option.some.inj h ▸ ⟨rfl, rfl⟩
  · split at h
    · exact Option.some.inj h ▸ ⟨rfl, rfl⟩
    · split at h
      · exact absurd h nofun
      · exact Option.some.inj h ▸ ⟨rfl, rfl⟩

/-- A pair whose key the buffer holds in its stream is added to that entry. -/
theorem acceptPair_of_held {p : BitVec 32 × BitVec 32} {pre post : List MEntry} {e : MEntry} (hbuf : m.buf = pre ++ e :: post)
    (he : e.sameKey row p.1.toNat strm = true) (hpre : ∀ y ∈ pre, y.sameKey row p.1.toNat strm = false) :
    acceptPair m row strm p =
      some { m.counted strm with buf := pre ++ { e with val := mergeAdd m.cmb e.val (mergeVal m.cmb p.2) } :: post } := by
  have hany : m.buf.any (MEntry.sameKey row p.1.toNat strm) = true := List.any_eq_true.mpr ⟨e, by simp [hbuf], he⟩
  refine (if_pos hany).trans (congrArg (fun b => some { m.counted strm with buf := b }) ?_)
  rw [hbuf]
  exact replaceFirst_append_cons _ hpre he

/-- Any other pair makes a new entry where there is room. -/
theorem acceptPair_of_new {p : BitVec 32 × BitVec 32} (hbuf : ∀ y ∈ m.buf, y.sameKey row p.1.toNat strm = false)
    (hroom : m.buf.length < m.cap) : acceptPair m row strm p = some { m.counted strm with buf := m.buf ++ [m.entryOf row strm p] } := by
  have hany : ¬ m.buf.any (MEntry.sameKey row p.1.toNat strm) = true := by
    rw [List.any_eq_true]
    rintro ⟨y, hy, he⟩
    exact Bool.false_ne_true ((hbuf y hy).symm.trans he)
  exact (if_neg hany).trans (if_pos hroom)

theorem acceptAll_singleton (p : BitVec 32 × BitVec 32) : acceptAll row strm [p] m = acceptPair m row strm p := by
  rw [acceptAll]
  cases acceptPair m row strm p <;> rfl

/-- An accepted batch has been counted pair by pair. -/
theorem acceptAll_counts {ps : List (BitVec 32 × BitVec 32)} (h : acceptAll row strm ps m = some m1) :
    m1.npush = m.npush + ps.length ∧ (strm < m.seqs.length → m1.seqs.getD strm 0 = m.seqs.getD strm 0 + ps.length) := by
  induction ps generalizing m with
  | nil => exact Option.some.inj h ▸ ⟨rfl, fun _ => rfl⟩
  | cons p ps ih =>
    rw [acceptAll] at h
    split at h
    · rename_i m2 h2
      obtain ⟨hpush, hseqs⟩ := acceptPair_counts h2
      obtain ⟨ihpush, ihseqs⟩ := ih h
      refine ⟨by rw [ihpush, hpush, List.length_cons]; omega, fun hlt => ?_⟩
      have hself : m2.seqs.getD strm 0 = m.seqs.getD strm 0 + 1 := by
        rw [hseqs, List.getD_eq_getElem?_getD, List.getElem?_set_self hlt, Option.getD_some]
      rw [ihseqs (by rwa [hseqs, List.length_set]), hself, List.length_cons]
      omega
    · exact absurd h nofun

end

section
variable {s : State} {d b : SReg} {a : SvReg} {st : BitVec 4} {x : Word} {m : MergeCtx} (ht : isTask s = true)
  (hr : readable s [b] (some d) = some [x]) (hm : s.cpu.ext.merge = some m) (hp : s.cpu.regs.svPoison = 0)
  (htag : (svreg s a).tag.toNat = cmbTag m.cmb) (hopen : m.state = .opened)
include ht hr hm hp htag hopen

/-- `mgpush` into an open context of a clean register with the tag that its combine takes: the status tests, and then the batch. -/
theorem execMgpush_of_open : execMgpush d a b st s =
    if m.nrows ≤ x.toNat then mergeStat s [b] d Mst.badRow
    else if 2 ^ 28 < m.seqs.getD st.toNat 0 + (svreg s a).pairs.length then mergeStat s [b] d Mst.seqFull
    else match acceptAll x.toNat st.toNat (svreg s a).pairs m with
      | none => mergeStat s [b] d Mst.spillFull
      | some m1 => match checkRuns (m1.runs.drop m.runs.length) s with
        | .error (x, e) => stopAt s x e
        | .ok (rs, s1) => retire (modMerge (spillRuns s1 m.runs.length rs) (fun _ => m1)) [b] d 0 := by
  unfold execMgpush
  rw [mergeOps_of_bound _ _ ht hr hm, needSv_of_clean _ _ hp]
  refine (if_neg (by simpa using htag)).trans (if_neg ?_)
  simp [hopen]

theorem execMgpush_of_beyond (hx : m.nrows ≤ x.toNat) :
    execMgpush d a b st s = .next (retired (s.withExt (fun y => { y with merge := some { m with stat := 2 } })) [b] d 2) :=
  (execMgpush_of_open ht hr hm hp htag hopen).trans ((if_pos hx).trans (mergeStat_of_bound [b] d (by decide) hm))

section
variable (hx : x.toNat < m.nrows) (hseq : m.seqs.getD st.toNat 0 + (svreg s a).pairs.length ≤ 2 ^ 28)
include hx hseq

theorem execMgpush_of_refused (h : acceptAll x.toNat st.toNat (svreg s a).pairs m = none) :
    execMgpush d a b st s = .next (retired (s.withExt (fun y => { y with merge := some { m with stat := 1 } })) [b] d 1) := by
  rw [execMgpush_of_open ht hr hm hp htag hopen, if_neg (Nat.not_le.mpr hx), if_neg (Nat.not_lt.mpr hseq), h]
  exact mergeStat_of_bound [b] d (by decide) hm

/-- A batch that needs no spill. -/
theorem execMgpush_of_accepted {m1 : MergeCtx} (h : acceptAll x.toNat st.toNat (svreg s a).pairs m = some m1) (hruns : m1.runs = m.runs) :
    execMgpush d a b st s = .next (retired (s.withExt (fun y => { y with merge := some m1 })) [b] d 0) := by
  rw [execMgpush_of_open ht hr hm hp htag hopen, if_neg (Nat.not_le.mpr hx), if_neg (Nat.not_lt.mpr hseq), h]
  simp only [hruns, List.drop_length]
  change retire (modMerge s fun _ => m1) [b] d 0 = _
  rw [modMerge_of_bound _ hm]
  rfl

end
end

/-! ## What an instruction that retires leaves -/

section
variable (s : State) (rs : List SReg) (d : SReg) (v : Word)

theorem retired_ctl : (retired s rs d v).cpu.ctl = (complete s).cpu.ctl := (setDep_ctl _ _ _).symm.trans (computed_ctl s rs d v)

theorem retired_ext : (retired s rs d v).cpu.ext = s.cpu.ext := (setDep_ext _ _ _).symm.trans (computed_ext s rs d v)

theorem MemSt.unbind_trains (m : MemSt) (r : SReg) : (m.unbind r).trains = m.trains := by
  unfold MemSt.unbind
  split <;> rfl

theorem writeS_trains : (writeS s d v).cpu.mem.trains = s.cpu.mem.trains := by
  unfold writeS
  split
  · unfold setSreg
    split
    · rfl
    · exact s.cpu.mem.unbind_trains d
  · rw [modQueues_cpu]

theorem retired_trains : (retired s rs d v).cpu.mem.trains = s.cpu.mem.trains := by
  rw [retired, complete_cpu_mem, writeS_trains, popPorts_cpu]

end

theorem retired0_ctl (s : State) (rs : List SReg) : (retired0 s rs).cpu.ctl = (complete s).cpu.ctl := by
  change endCheck (vlgOf (popPorts s rs)) (popPorts s rs).cpu.ctl.pc (popPorts s rs).cpu.ctl = _
  rw [(popPorts_sameSight s rs).vlgOf, popPorts_cpu]
  rfl

/-- The destination of a strand without ports holds the result. -/
theorem sreg_retired_self {s : State} (h : NoPorts s) (rs : List SReg) {d : SReg} (hd : d ≠ 0) (v : Word) : sreg (retired s rs d v) d = v := by
  rw [retired, popPorts_noPorts h, writeS_noPorts h]
  exact (sreg_setSreg s d d v).trans (if_pos ⟨rfl, hd⟩)

/-- The end check depends on the control registers and VLG alone. -/
theorem Calm.complete_ctl {s t : State} (h : Calm s t) : (complete t).cpu.ctl = (complete s).cpu.ctl := by
  change endCheck (vlgOf t) t.cpu.ctl.pc t.cpu.ctl = endCheck (vlgOf s) s.cpu.ctl.pc s.cpu.ctl
  rw [h.ctl, h.vlg]

theorem withExt_calm (s : State) (f : Extra → Extra) : Calm s (s.withExt f) := .ofCpu rfl rfl rfl rfl

theorem Calm.noPorts {s t : State} (h : Calm s t) (hs : NoPorts s) : NoPorts t := h.roleOf.trans hs

/-! ## `mgpull` (R241) -/

/-- Starting a train changes the trains, the reads made early and the next number alone. -/
theorem newTrain_eq (s : State) (xs : List (Loc × List Byte × List Byte × Option ESrc)) :
    ∃ es ts, (newTrain s xs).1 = s.fresh.2.withMem (fun m => { m with early := es, trains := ts }) := by
  by_cases hx : xs = []
  · have hread : readAnewUnits s [] = s := ite_self s
    refine ⟨s.cpu.mem.early, s.cpu.mem.trains, ?_⟩
    rw [hx]
    exact congrArg (fun t => t.fresh.2) hread
  · obtain ⟨es, he⟩ := newTrain_state s hx
    exact ⟨es, _, he⟩

/-- The state in which the stores of the rows pulled have been started. -/
def pulled (r : SRes) (i : StrandId) : State :=
  let s1 := closeTrains (newTrain r.s r.loc).1
  { s1 with pauses := s1.pauses.filter (fun x => x.1 != i) }

/-- Starting them leaves all of the strand but its part in memory ordering. -/
theorem pulled_calm (r : SRes) (i : StrandId) : Calm r.s (pulled r i) ∧ (pulled r i).cpu.ext = r.s.cpu.ext ∧ (pulled r i).mem = r.s.mem := by
  obtain ⟨es, ts, he⟩ := newTrain_eq r.s r.loc
  unfold pulled
  rw [he]
  exact ⟨⟨rfl, rfl, rfl, rfl, rfl, fun _ => rfl⟩, rfl, rfl⟩

/-- They are one ordered train. -/
theorem pulled_trains {r : SRes} (i : StrandId) (hl : r.loc ≠ []) :
    ∃ y : Train, (pulled r i).cpu.mem.trains = r.s.cpu.mem.trains ++ [y] ∧ y.ordered = true ∧
      y.elems = r.loc.mapIdx (fun i z => ⟨i, z.1, z.2.1, z.2.2.1, false, .store, none, false⟩) :=
  ⟨storeTrain _ r.loc, newTrain_trains r.s hl, rfl, rfl⟩

theorem svreg_setSv_self (s : State) (d : SvReg) (v : SvVal) : svreg (setSv s d v) d = v := Vector.getElem_set_self _

/-- A context after a row of it has gone to a sparse register. -/
def MergeCtx.pulledRow (m : MergeCtx) (r : Nat) (v : SvVal) : MergeCtx :=
  { m with p := if v.ov then r else r + 1, from0 := if v.ov then v.stop.toNat else 0, lastRow := r, nnz := m.nnz + v.pairs.length }

/-- A whole row in a sparse register. -/
def rowValue (m : MergeCtx) (r : Nat) : SvVal :=
  svResult (if m.cmb = 1 then 0x20 else 0x00) (((mergedKeys m).filter (fun k => k.1 = r)).map (fun k => (BitVec.ofNat 32 k.2.1, k.2.2))) []

/-- The rows from p on, below l. -/
def MergeCtx.rowsTo (m : MergeCtx) (l : Nat) : List Nat := (List.range (l - m.p)).map (fun i => m.p + i)

/-- The stores of the rows below l, with NNZ after them. -/
def pullOut (s : State) (m : MergeCtx) (l : Nat) : List SUnit × List (Nat × Nat) × Nat :=
  pullRows m (rowKeys s m (runsIntact s) (mergedKeys m)) (m.rowsTo l) m.nnz

/-- The checks of those stores. -/
def pullRes (s : State) (m : MergeCtx) (l : Nat) : SRes := storeElems false (pullOut s m l).1 { s := s, loc := [], rem := [], stop := none }

section
variable {s : State} {a : SReg} {x : Word} {m : MergeCtx} (ht : isTask s = true) (hm : s.cpu.ext.merge = some m) (hf : m.state = .flushed)
include ht hm hf

/-- `mgpull` up to l, where no pre-emption comes and every check passes. -/
theorem execMgpull_of_clear {d : SReg} (hr : readable s [a] (some d) = some [x]) (hout : m.out = false) (hlo : m.p ≤ x.toNat)
    (hhi : x.toNat ≤ m.nrows) (hpause : s.pauses = []) (hstop : (pullRes s m x.toNat).stop = none) (hrem : (pullRes s m x.toNat).rem = []) :
    execMgpull d a s = .next (retired ((pulled (pullRes s m x.toNat) s.cpu.id).withExt (fun y => { y with
      merge := some { m with p := x.toNat, nnz := (pullOut s m x.toNat).2.2 } })) [a] d x) := by
  have hcpu : (pullRes s m x.toNat).s.cpu = s.cpu := (storeElems_aside false _ ⟨s, [], [], none⟩).cpu
  have hbound : (pulled (pullRes s m x.toNat) s.cpu.id).cpu.ext.merge = some m := by rw [(pulled_calm _ _).2.1, hcpu, hm]
  have hpause : pauseOf s = none := by
    unfold pauseOf
    rw [hpause]
    rfl
  unfold execMgpull
  rw [mergeOps_of_bound _ _ ht hr hm]
  refine (if_neg (by rw [hf]; decide)).trans ((if_neg (by rw [hf, hout]; decide)).trans ((if_neg ?_).trans ?_))
  · simp only [opd, List.getD_cons_zero, Bool.or_eq_true, decide_eq_true_eq]
    omega
  · simp only [hpause, opd, List.getD_cons_zero]
    rw [← MergeCtx.rowsTo, ← pullOut, ← pullRes, hrem, hstop]
    change retire (modMerge (pulled (pullRes s m x.toNat) s.cpu.id) _) [a] d (BitVec.ofNat 64 x.toNat) = _
    rw [modMerge_of_bound _ hbound, BitVec.ofNat_toNat, BitVec.setWidth_eq]
    rfl

/-- `mgpull` stores its rows as one ordered train and reports the row position. -/
theorem execMgpull_pulls {d : SReg} (hr : readable s [a] (some d) = some [x]) (hout : m.out = false) (hlo : m.p ≤ x.toNat)
    (hhi : x.toNat ≤ m.nrows) (hpause : s.pauses = []) (hstop : (pullRes s m x.toNat).stop = none) (hrem : (pullRes s m x.toNat).rem = []) :
    ∃ t, execMgpull d a s = .next t ∧ t.cpu.ctl.pc = (complete s).cpu.ctl.pc ∧ t.cpu.wait = none ∧ t.mem = (pullRes s m x.toNat).s.mem ∧
      t.cpu.ext.merge = some { m with p := x.toNat, nnz := (pullOut s m x.toNat).2.2 } ∧
      (NoPorts s → d ≠ 0 → sreg t d = x) ∧
      ((pullRes s m x.toNat).loc ≠ [] → ∃ y : Train, t.cpu.mem.trains = s.cpu.mem.trains ++ [y] ∧ y.ordered = true ∧
        y.elems = (pullRes s m x.toNat).loc.mapIdx (fun i z => ⟨i, z.1, z.2.1, z.2.2.1, false, .store, none, false⟩)) := by
  have haside : Aside s (pullRes s m x.toNat).s := storeElems_aside false _ ⟨s, [], [], none⟩
  obtain ⟨hcalm, -, hmem⟩ := pulled_calm (pullRes s m x.toNat) s.cpu.id
  have hfrom (f : Extra → Extra) : Calm s ((pulled (pullRes s m x.toNat) s.cpu.id).withExt f) :=
    haside.calm.trans (hcalm.trans (withExt_calm _ f))
  refine ⟨_, execMgpull_of_clear ht hm hf hr hout hlo hhi hpause hstop hrem, ?_, rfl, ?_, ?_, fun hn hd => ?_, fun hl => ?_⟩
  · exact congrArg Ctl.pc ((retired_ctl ..).trans (hfrom _).complete_ctl)
  · exact (retired_sameMemory ..).1.trans hmem
  · rw [retired_ext]
    rfl
  · exact sreg_retired_self ((hfrom _).noPorts hn) [a] hd x
  · obtain ⟨y, hy, hordered, helems⟩ := pulled_trains s.cpu.id hl
    have hs : (pullRes s m x.toNat).s.cpu.mem.trains = s.cpu.mem.trains := by rw [haside.cpu]
    exact ⟨y, (retired_trains ..).trans (hy.trans (by rw [hs])), hordered, helems⟩

/-- `mgpull.sv` of a row that no earlier one has begun gives all of its pairs. -/
theorem execMgpullSv_of_row {d : SvReg} (hr : readable s [a] none = some [x]) (hout : m.out = true) (hx : x.toNat < m.nrows)
    (hlast : m.lastRow ≤ x.toNat) (hp : m.p < x.toNat) (hintact : runsIntact s = true) :
    execMgpullSv d a s = .next (retired0 (setSv (s.withExt (fun y => { y with merge := some (m.pulledRow x.toNat (rowValue m x.toNat)) })) d
      (rowValue m x.toNat)) [a]) := by
  have hkeys : (rowKeys s m (runsIntact s) (mergedKeys m) x.toNat).filter (fun k => 0 ≤ k.1) =
      ((mergedKeys m).filter (fun k => k.1 = x.toNat)).map (·.2) := by
    rw [rowKeys, hintact, if_pos rfl, List.filter_eq_self.mpr fun _ _ => decide_eq_true (Nat.zero_le _)]
    rfl
  have hne : (x.toNat == m.p) = false := beq_eq_false_iff_ne.mpr hp.ne'
  have hgo : ¬ (!m.out || m.state != .flushed || decide (m.nrows ≤ x.toNat) || decide (x.toNat < m.lastRow)) = true := by
    rw [hout, hf, decide_eq_false (Nat.not_le.mpr hx), decide_eq_false (Nat.not_lt.mpr hlast)]
    decide
  unfold execMgpullSv
  rw [mergeOps_of_bound _ _ ht hr hm]
  refine (if_neg (by rw [hf]; decide)).trans ((if_neg hgo).trans ?_)
  simp only [opd, List.getD_cons_zero, hne, Bool.false_eq_true, if_false, if_neg (Nat.not_lt.mpr hp.le), hkeys, List.map_map,
    modMerge_of_bound _ hm, beq_iff_eq]
  rfl

end

/-! ## `mgclose` (R242) -/

/-- Local scalar stores have joined the buffer, in order, and the rest of the strand is as it was. -/
structure Stored (s t : State) (xs : List (Loc × List Byte)) : Prop where
  calm : Calm s t
  regs : t.cpu.regs = s.cpu.regs
  pob : t.cpu.mem.pob.map (fun e => (e.loc, e.data)) = s.cpu.mem.pob.map (fun e => (e.loc, e.data)) ++ xs

theorem putStore_stored {s : State} {l : Loc} (hl : isRemote l = false) (bs : List Byte) (va : Word) :
    Stored s (putStore s l bs va) [(l, bs)] := by
  obtain ⟨es, he⟩ := forget_eq s.cpu.mem (fun e => e.vec == false && overlaps l bs.length e.loc e.n)
  have hpob : (s.cpu.mem.forget (fun e => e.vec == false && overlaps l bs.length e.loc e.n)).pob = s.cpu.mem.pob := by rw [he]
  rw [putStore_of_local hl]
  refine ⟨⟨rfl, rfl, rfl, rfl, rfl, fun _ => rfl⟩, rfl, List.map_append.trans ?_⟩
  exact congrArg (fun p : List SEnt => p.map (fun e => (e.loc, e.data)) ++ [(l, bs)]) hpob

theorem putStores_stored {ls : List (Loc × Nat × Word)} (hl : ∀ l ∈ ls, isRemote l.1 = false) : ∀ s : State,
    Stored s (ls.foldl (fun s l => putStore s l.1 (leBytes 8 l.2.1) l.2.2) s) (ls.map (fun l => (l.1, leBytes 8 l.2.1))) := by
  induction ls with
  | nil => exact fun s => ⟨.refl s, rfl, (List.append_nil _).symm⟩
  | cons l ls ih =>
    intro s
    obtain ⟨hl, hls⟩ := List.forall_mem_cons.mp hl
    obtain ⟨hcalm, hregs, hpob⟩ := putStore_stored (s := s) hl (leBytes 8 l.2.1) l.2.2
    obtain ⟨ihcalm, ihregs, ihpob⟩ := ih hls (putStore s l.1 (leBytes 8 l.2.1) l.2.2)
    refine ⟨hcalm.trans ihcalm, ihregs.trans hregs, ihpob.trans ?_⟩
    rw [hpob, List.append_assoc]
    rfl

/-- A close whose result words are local needs no room for remote trains. -/
theorem closeStores_of_local {s u : State} {m : MergeCtx} {ls : List (Loc × Nat × Word)} (h : closeLocs m m.results s = .ok (ls, u))
    (hl : ∀ l ∈ ls, isRemote l.1 = false) : let z := ls.foldl (fun s l => putStore s l.1 (leBytes 8 l.2.1) l.2.2) u
    closeStores s m = .ok (some (unbindMerge z z.cpu m)) := by
  intro z
  have hnone : ls.filter (fun l => isRemote l.1) = [] := List.filter_eq_nil_iff.mpr fun l hm => by rw [hl l hm]; decide
  have hroom : noRoom u (ls.filter (fun l => isRemote l.1)).length = false := by
    rw [hnone]
    rfl
  unfold closeStores
  rw [h]
  exact if_neg (Bool.eq_false_iff.mp hroom)

/-- The cpu gives its network back. -/
theorem unbindMerge_cpu (s : State) (m : MergeCtx) :
    unbindMerge s s.cpu m = (setNet (closeAreas s s.cpu.id) m.octet { mergeNet s m.octet with bound := none }).withCpu
      (fun y => { y with ext := { y.ext with merge := none } }) := State.modStrand_self ..

/-- `mgclose` of a context whose result words are local: they join the buffer, and the network and the spill areas are free. -/
theorem execMgclose_of_local {s u : State} {m : MergeCtx} {ls : List (Loc × Nat × Word)} (ht : isTask s = true)
    (hm : s.cpu.ext.merge = some m) (h : closeLocs m m.results s = .ok (ls, u)) (hl : ∀ l ∈ ls, isRemote l.1 = false) :
    ∃ t, execMgclose s = .next t ∧ t.cpu.ext.merge = none ∧ (mergeNet t m.octet).bound = none ∧ t.cpu.wait = none ∧
      (∀ p ∈ t.spills, p.owner ≠ u.cpu.id) ∧ t.cpu.ctl.pc = (complete u).cpu.ctl.pc ∧ t.cpu.regs = u.cpu.regs ∧
      t.cpu.mem.pob.map (fun e => (e.loc, e.data)) = u.cpu.mem.pob.map (fun e => (e.loc, e.data)) ++ ls.map (fun l => (l.1, leBytes 8 l.2.1)) := by
  obtain ⟨hcalm, hregs, hpob⟩ := putStores_stored hl u
  generalize hz : ls.foldl (fun s l => putStore s l.1 (leBytes 8 l.2.1) l.2.2) u = z at hcalm hregs hpob
  have hexec : execMgclose s = .next (complete (unbindMerge z z.cpu m)) := by
    unfold execMgclose
    rw [taskOnly_of_isTask _ _ ht, needCtx, hm]
    simp only [closeStores_of_local h hl, hz]
  rw [unbindMerge_cpu] at hexec
  refine ⟨_, hexec, rfl, ?_, rfl, fun p hp => ?_, congrArg Ctl.pc hcalm.complete_ctl, hregs, hpob⟩
  · exact congrArg MergeNet.bound (mergeNet_setNet (closeAreas z z.cpu.id) m.octet _)
  · have := (List.mem_filter.mp hp).2
    rw [← hcalm.id]
    exact bne_iff_ne.mp this

/-! ## The obligation -/

/-- Settles O31: the tests of each instruction in their order, then what it does to the network, the buffer, the strand's stores and d. -/
theorem mergeResults : Obligations.MergeResults := by
  unfold Obligations.MergeResults
  refine ⟨⟨fun s d a va ht hr hw => ⟨fun hb => ?busy, fun hm hva => ?misaligned,
      fun ws u hm hva hread => ⟨fun hbad => ?badRecord, fun m hc hb hq => ?binds⟩⟩,
    fun s d a x m ht hm => ⟨fun hr hopen hx spb spl u hread hbad hext => ?cont, fun hr => ⟨fun hopen => ?flush, ?runs, ?entries, ?status⟩,
      fun ls u hc hl hi => ?close⟩,
    fun s d ht hm hr => ?unbound,
    fun s o t ts d a m hq hb hi hw => ⟨?grant, fun va us ht hr ho hb' hq' => ?grantBinds⟩⟩,
    fun s d b a st x m ht hr hm hp htag hopen => ⟨fun hx => ?badRow,
      fun hx hseq => ⟨fun h => ?refused, fun m1 h hruns => ?accepted, fun p hpairs => ?one⟩⟩,
    fun s d a x m ht hr hm hf hout hlo hhi hpause => ?pull,
    fun s d a x m ht hr hm hf hout hx hlast hp hintact => ?pullSv⟩
  case busy => exact (exec_mgopen ..).trans ((execMgopen_begins ht hr hw).trans (if_pos hb))
  case misaligned =>
    rw [exec_mgopen, execMgopen_begins ht hr hw, hm]
    exact if_pos (bne_iff_ne.mpr hva)
  case badRecord =>
    rw [exec_mgopen, execMgopen_of_read ht hr hw hm hva hread, hbad]
    rfl
  case binds =>
    have ho := octet_of_ctxOfRecord hc
    rw [exec_mgopen, execMgopen_of_read ht hr hw hm hva hread, hc]
    refine (mgopenBind_of_free d a (by rw [ho, hb]) (by simp [ho, hq])).trans ?_
    rw [ho, hq]
    rfl
  case cont => exact (exec_mgopenCont ..).trans (execMgopenCont_of_open ht hr hm hopen hx hread hbad hext)
  case flush => exact (exec_mgflush ..).trans (execMgflush_of_open ht hr hm hopen)
  case runs => exact (exec_mgstatRuns ..).trans (mgstat_of_bound ht hr hm _ _)
  case entries => exact (exec_mgstatEntries ..).trans (mgstat_of_bound ht hr hm _ _)
  case status => exact (exec_mgstatStatus ..).trans (mgstat_of_bound ht hr hm _ _)
  case close =>
    rw [exec_mgclose, ← hi]
    exact execMgclose_of_local ht hm hc fun l hmem => by simpa using List.all_eq_true.mp hl l hmem
  case unbound => exact (exec_mgflush ..).trans (execMgflush_of_unbound ht hm hr)
  case grant => exact (exec_mgopenGrant ..).trans (execMgopenGrant_of_free hq hb hi hw)
  case grantBinds =>
    subst ho
    rw [exec_mgopenGrant, execMgopenGrant_of_free hq hb hi hw, execMgopen_of_waiting ht hr hw]
    refine (mgopenBind_of_free d a hb' (by simp [hq', hi])).trans ?_
    rw [hq', hi, List.filter_cons_of_neg (by simp)]
  case badRow => exact (exec_mgpush ..).trans (execMgpush_of_beyond ht hr hm hp htag hopen hx)
  case refused => exact (exec_mgpush ..).trans (execMgpush_of_refused ht hr hm hp htag hopen hx hseq h)
  case accepted =>
    obtain ⟨hpush, hseqs⟩ := acceptAll_counts h
    exact ⟨(exec_mgpush ..).trans (execMgpush_of_accepted ht hr hm hp htag hopen hx hseq h hruns), hpush, hseqs⟩
  case one =>
    intro v same goes
    have hv : mergeVal m.cmb p.2 = v := by simp only [mergeVal, beq_iff_eq, v]
    have hgoes {m1 : MergeCtx} (h : acceptPair m x.toNat st.toNat p = some m1) (hruns : m1.runs = m.runs) : goes m1.buf :=
      ⟨m1, rfl, hruns, (exec_mgpush ..).trans (execMgpush_of_accepted ht hr hm hp htag hopen hx hseq
        (by rw [hpairs, acceptAll_singleton, h]) hruns)⟩
    have hother {y : MEntry} (h : ¬ same y) : y.sameKey x.toNat p.1.toNat st.toNat = false := Bool.eq_false_iff.mpr fun he => h (sameKey_iff.mp he)
    rw [← hv]
    exact ⟨fun pre e post hbuf he hpre => hgoes (acceptPair_of_held hbuf (sameKey_iff.mpr he) fun y hy => hother (hpre y hy)) rfl,
      fun hnew hroom => hgoes (acceptPair_of_new (fun y hy => hother (hnew y hy)) hroom) rfl⟩
  case pull =>
    intro rows out r hstop hrem
    rw [exec_mgpull]
    exact execMgpull_pulls ht hm hf hr hout hlo hhi hpause hstop hrem
  case pullSv =>
    refine ⟨_, (exec_mgpullSv ..).trans (execMgpullSv_of_row ht hm hf hr hout hx hlast hp hintact), ?_, rfl, (retired0_sameMemory ..).1, ?_⟩
    · exact congrArg Ctl.pc (retired0_ctl ..)
    · unfold svreg
      rw [retired0_regs]
      exact svreg_setSv_self ..

end Sys2Proof.Machine
end

section
/-! Fences, `vdrain`, monitors and barriers (R259 to R263, R284 to R287). -/

namespace Sys2Proof.Machine

/-! ## Fences (R284) -/

/-- When every scalar access of a strand is over at a scope, in the words of R284. -/
theorem scalarDone_none_iff (s : State) (x : Strand) (sc : Scope) : scalarDone s x sc none = true ↔
    (x.mem.loads = [] ∧ x.mem.amos = []) ∧ x.mem.pob = [] ∧ x.mem.ssb = [] ∧
      (∀ r ∈ s.log, r.owner = some x.id → r.tag = .plain → visAtLeast r.loc r.vis sc = true) ∧
      (sc = .system → ∀ t ∈ x.mem.rtrains, t.vec = true) := by
  have hempty {α : Type} (xs : List α) : xs.all (fun _ => false) = true ↔ xs = [] := by cases xs <;> simp
  have hstores : x.mem.stores = [] ↔ x.mem.ssb = [] ∧ x.mem.pob = [] := List.append_eq_nil_iff
  have hlog : s.log.all (fun r => !(r.owner == some x.id && r.tag == .plain && true) || visAtLeast r.loc r.vis sc) = true ↔
      ∀ r ∈ s.log, r.owner = some x.id → r.tag = .plain → visAtLeast r.loc r.vis sc = true := by
    simp only [List.all_eq_true, Bool.or_eq_true, Bool.and_true, Bool.not_eq_true', Bool.and_eq_false_iff, beq_eq_false_iff_ne, ne_eq]
    exact forall₂_congr fun r _ => by tauto
  have htrains : (sc != .system || x.mem.rtrains.all (fun t => t.vec || false)) = true ↔
      (sc = .system → ∀ t ∈ x.mem.rtrains, t.vec = true) := by
    simp only [Bool.or_eq_true, bne_iff_ne, Bool.or_false, List.all_eq_true]
    tauto
  unfold scalarDone
  simp only [isBefore, Bool.not_true, Bool.and_eq_true, hempty, hstores, hlog, htrains]
  tauto

/-- The condition of a fence that orders earlier writes as well. -/
theorem fenceReady_iff {s : State} {k : FenceKind} (sc : Scope) (hk : k ≠ .acq) : fenceReady s s.cpu k sc none = true ↔
    (s.cpu.mem.draining s.dev.nextUid = false ∧ s.cpu.mem.loads = [] ∧ s.cpu.mem.amos = []) ∧ s.cpu.mem.pob = [] ∧ s.cpu.mem.ssb = [] ∧
      (∀ r ∈ s.log, r.owner = some s.cpu.id → r.tag = .plain → visAtLeast r.loc r.vis sc = true) ∧
      (sc = .system → ∀ t ∈ s.cpu.mem.rtrains, t.vec = true) := by
  rw [fenceReady_wait, scalarDone_none_iff]
  tauto

/-- The condition of an acquiring fence. -/
theorem fenceReady_acq_iff (s : State) (sc : Scope) : fenceReady s s.cpu .acq sc none = true ↔
    s.cpu.mem.draining s.dev.nextUid = false ∧ s.cpu.mem.loads = [] ∧ s.cpu.mem.amos = [] := by
  rw [fenceReady_wait]
  simp

/-- A fence instruction completes once its condition holds, and waits until then. -/
theorem fence_goes {s : State} {k : FenceKind} {sc : Scope} {p : Prop} {i : Instr} {word : Nat} (hi : exec i s = notThaw s word (fence s k sc))
    (ht : ∀ c k, s.cpu.id ≠ .thaw c k) (hp : fenceReady s s.cpu k sc none = true ↔ p) :
    (p → exec i s = .next (complete (match (generalizing := false) k with
      | .acq => dropStale s sc | .rel => s | .ar => dropStale s sc | .sc => drawTicket (dropStale s sc)))) ∧
    (¬ p → exec i s = .next (s.waitFor (.fence k sc))) := by
  rw [hi, notThaw_of_ne _ _ ht, ← hp]
  exact ⟨fence_of_ready, fence_of_not_ready⟩

/-! ## Monitors (R261, R262) -/

section
variable {s : State} {d a : SReg} {x : Word} (ht : ∀ c k, s.cpu.id ≠ .thaw c k)
include ht

theorem execMmon_of_ok {k : XOk} (hr : readable s [a] none = some [x]) (hk : checkAccess s x 8 true false = .ok k) :
    execMmon a s = .next (retired0 (k.s.withExt (fun e => { e with monitor := some x })) [a]) := by
  unfold execMmon
  rw [notThaw_of_ne _ _ ht, readS_of_readable _ _ hr]
  change (match checkAccess s x 8 true false with | .error e => _ | .ok k => _) = _
  rw [hk]
  rfl

variable (hr : readable s [a] (some d) = some [x])
include hr

/-- Where no monitor is armed, `mwait` waits for an earlier `vdrain` alone. -/
theorem execMwait_of_unarmed (hm : s.cpu.ext.monitor = none) : execMwait d a s =
    if s.cpu.mem.draining s.dev.nextUid then .next (s.waitFor (.mwait d a)) else .next (retired s [a] d 0) := by
  unfold execMwait
  rw [notThaw_of_ne _ _ ht, readS_of_readable _ _ hr, hm]
  rfl

/-- `mwait` waits while the word that it reads is below its operand. -/
theorem execMwait_of_below {va : Word} {k : XOk} (hm : s.cpu.ext.monitor = some va) (hk : checkAccess (readAnew s) va 8 true false = .ok k)
    (hh : k.s.cpu.mem.heldRead k.s.dev.nextUid k.loc 8 = false) (hp : poisonedRead k.s k.s.cpu k.s.dev.nextUid k.loc 8 = false)
    (hlt : leNat (scalarBytes k.s k.s.cpu k.loc 8) < x.toNat) : execMwait d a s = .next (k.s.waitFor (.mwait d a)) := by
  have hlt' : ¬ (opd [x] 0).toNat ≤ leNat (scalarBytes k.s k.s.cpu k.loc 8) := Nat.not_le.mpr hlt
  unfold execMwait
  rw [notThaw_of_ne _ _ ht, readS_of_readable _ _ hr]
  simp only [hm, hk, hp, hh, hlt', if_false, Bool.false_eq_true]

end

/-! ## Barriers (R263, R287) -/

/-- The state in which a `bar` of level l that is complete lets the strand go on. -/
def barLeft (l : Nat) (u : State) : State :=
  (dropStale u .device).withExt (fun x => { x with barIssued := x.barIssued.filter (· != barDoneCode l) })

/-- Whether the barrier at level l of a task may complete: every member has arrived as often as the cpu strand, and none holds a `vdrain`. -/
def barMeets (s : State) (t : Task) (l : Nat) : Bool := barMet s t l (s.cpu.ext.bars.getD l 0) && barOpen s t l

/-- The members that have arrived at level l. -/
def barArrived (s : State) (t : Task) (l : Nat) : List StrandId :=
  ((barStrands s t l).filter (fun x => x.ext.barIssued.contains (barArrivedCode l))).map (·.id)

/-- What the completion of a barrier does to each strand: one of the members that waits in it, other than the cpu, goes on; the cpu's own `bar`
is complete. -/
structure BarLeaves (s : State) (l : Nat) (ids : List StrandId) (f : Strand → Strand) : Prop where
  id : ∀ x, (f x).id = x.id
  cpu : s.cpu.id ∈ ids → barDoneCode l ∈ (f s.cpu).ext.barIssued
  waiting : ∀ x k, x.id ∈ ids → x.wait = some (.bar k) → k.code = l → x.id ≠ s.cpu.id →
    (f x).wait = none ∧ (f x).regs = x.regs ∧ (f x).ctl = endCheck (32 * ((s.cluster x.cluster).eff.vln + 1)) x.ctl.pc x.ctl

/-- A barrier that completes changes the strands, each by itself, and the instruction words that they may still fetch. -/
theorem barRelease_leaves (s : State) (t : Task) (l : Nat) : ∃ f, BarLeaves s l (barArrived s t l) f ∧ (barRelease s t l).cpu = f s.cpu ∧
    (barRelease s t l).others = s.others.map f := by
  refine ⟨_, ⟨fun x => ?_, fun hc => ?_, fun x k hx hw hl hne => ?_⟩, rfl, rfl⟩
  · simp only
    split
    · rfl
    · split
      · split <;> rfl
      · rfl
  · have hc : (barArrived s t l).contains s.cpu.id = true := List.contains_iff_mem.mpr hc
    unfold barArrived at hc
    simp only [hc, beq_self_eq_true, Bool.or_true, Bool.not_true, Bool.false_eq_true, if_false, if_true]
    split <;> exact List.mem_append_right _ (List.mem_singleton_self _)
  · have hx : (barArrived s t l).contains x.id = true := List.contains_iff_mem.mpr hx
    unfold barArrived at hx
    simp only [hx, hw, hl, beq_eq_false_iff_ne.mpr hne, bne_self_eq_false, Bool.or_false, Bool.not_true, Bool.false_eq_true, if_false]
    exact ⟨rfl, rfl, rfl⟩

/-- Another strand is found where the others are. -/
theorem State.strand?_of_ne {s : State} {u : StrandId} (h : u ≠ s.cpu.id) : s.strand? u = s.others.find? (fun x => x.id == u) :=
  if_neg (Ne.symm h)

theorem State.find?_map_of_id {f : Strand → Strand} (hf : ∀ x, (f x).id = x.id) (xs : List Strand) (u : StrandId) :
    (xs.map f).find? (fun x => x.id == u) = (xs.find? (fun x => x.id == u)).map f := by
  rw [List.find?_map]
  simp only [Function.comp_def, hf]

/-- A strand that is no thaw thread belongs to the task that its name says. -/
theorem task?_of_taskOf {s : State} {t : Task} (ht : ∀ c k, s.cpu.id ≠ .thaw c k) (h : taskOf s s.cpu = some t) :
    tidOf s.cpu.id = some t.tid ∧ s.task? t.tid = some t := by
  have hfor : s.cpu.actsFor s = s.cpu.id := by
    unfold Strand.actsFor
    split
    · rename_i c k _ hc _
      exact absurd hc (ht c k)
    · rfl
  unfold taskOf at h
  rw [hfor] at h
  split at h
  · rename_i tid e he
    have hid := State.tid_of_task? h
    subst hid
    exact ⟨by rw [he]; rfl, h⟩
  · exact absurd h nofun

/-- The strand itself is one of its group. -/
theorem cpu_mem_barStrands {s : State} {t : Task} (l : Nat) (ht : ∀ c k, s.cpu.id ≠ .thaw c k) (h : taskOf s s.cpu = some t) :
    s.cpu ∈ barStrands s t l := by
  obtain ⟨hid, htask⟩ := task?_of_taskOf ht h
  refine List.mem_filter.mpr ⟨List.mem_cons_self .., ?_⟩
  simp only [hid, htask, beq_self_eq_true, Bool.true_or]

theorem mem_barArrived {s : State} {t : Task} {l : Nat} {x : Strand} (hx : x ∈ barStrands s t l)
    (ha : x.ext.barIssued.contains (barArrivedCode l) = true) : x.id ∈ barArrived s t l :=
  List.mem_map_of_mem (List.mem_filter.mpr ⟨hx, ha⟩)

theorem execBar_of_no_group {s : State} (l : Level) (ht : ∀ c k, s.cpu.id ≠ .thaw c k) (h : taskOf s s.cpu = none) :
    execBar l s = .next (complete (dropStale s .device)) := by
  unfold execBar
  rw [notThaw_of_ne _ _ ht, h]

section
variable {s : State} {l : Level} {t : Task} (ht : ∀ c k, s.cpu.id ≠ .thaw c k) (hk : taskOf s s.cpu = some t)
  (hi : s.cpu.ext.barIssued.contains (barIssuedCode l.code) = false)
include ht hk hi

/-- A `bar` that has issued and arrived, or is complete, counts no arrival: it completes, or waits. -/
theorem execBar_of_arrived
    (h : (s.cpu.ext.barIssued.contains (barArrivedCode l.code) || s.cpu.ext.barIssued.contains (barDoneCode l.code)) = true) :
    execBar l s =
      let s3 := if s.cpu.ext.barIssued.contains (barArrivedCode l.code) && barMeets s t l.code then barRelease s t l.code else s
      if s3.cpu.ext.barIssued.contains (barDoneCode l.code) then .next (complete (barLeft l.code s3)) else .next (s3.waitFor (.bar l)) := by
  have hheld : [barIssuedCode l.code, barArrivedCode l.code, barDoneCode l.code].any s.cpu.ext.barIssued.contains = true := by
    simpa only [List.any_cons, List.any_nil, Bool.or_false, hi, Bool.false_or] using h
  have hstay : barArrive s s.cpu l.code = s := barArrive_of_not fun hn => Bool.false_ne_true (hi.symm.trans (List.contains_iff_mem.mpr hn.1))
  unfold execBar
  rw [notThaw_of_ne _ _ ht, hk]
  simp only [hheld, if_true, hstay]
  unfold barMeets
  rw [← Bool.and_assoc]
  rfl

/-- A `bar` that completed while its strand stood elsewhere completes. -/
theorem execBar_of_done (hd : s.cpu.ext.barIssued.contains (barDoneCode l.code) = true)
    (ha : s.cpu.ext.barIssued.contains (barArrivedCode l.code) = false) : execBar l s = .next (complete (barLeft l.code s)) := by
  rw [execBar_of_arrived ht hk hi (by rw [hd, Bool.or_true])]
  simp only [ha, hd, Bool.false_and, Bool.false_eq_true, if_false, if_true]

variable (ha : s.cpu.ext.barIssued.contains (barArrivedCode l.code) = true)
include ha

/-- One that has arrived waits for the other members. -/
theorem execBar_of_unmet (hd : s.cpu.ext.barIssued.contains (barDoneCode l.code) = false) (hm : barMeets s t l.code = false) :
    execBar l s = .next (s.waitFor (.bar l)) := by
  rw [execBar_of_arrived ht hk hi (by rw [ha, Bool.true_or])]
  simp only [hm, hd, Bool.and_false, Bool.false_eq_true, if_false]

/-- Once they have all arrived it completes. -/
theorem execBar_of_met (hm : barMeets s t l.code = true) : execBar l s = .next (complete (barLeft l.code (barRelease s t l.code))) := by
  obtain ⟨f, hf, hcpu, _⟩ := barRelease_leaves s t l.code
  have hdone : (barRelease s t l.code).cpu.ext.barIssued.contains (barDoneCode l.code) = true := by
    rw [hcpu, List.contains_iff_mem]
    exact hf.cpu (mem_barArrived (cpu_mem_barStrands l.code ht hk) ha)
  rw [execBar_of_arrived ht hk hi (by rw [ha, Bool.true_or])]
  simp only [ha, hm, Bool.and_self, if_true, hdone]

end

/-- A member that waits in a barrier goes on in the step that completes it. -/
theorem strand?_barRelease {s : State} {t : Task} {l : Level} {u : StrandId} {x : Strand} (hx : s.strand? u = some x) (hu : u ≠ s.cpu.id)
    (hmem : x ∈ barStrands s t l.code) (hw : x.wait = some (.bar l)) (ha : x.ext.barIssued.contains (barArrivedCode l.code) = true) :
    ∃ y, (complete (barLeft l.code (barRelease s t l.code))).strand? u = some y ∧ y.wait = none ∧ y.regs = x.regs ∧
      y.ctl = endCheck (32 * ((s.cluster x.cluster).eff.vln + 1)) x.ctl.pc x.ctl := by
  obtain ⟨f, hf, hcpu, hothers⟩ := barRelease_leaves s t l.code
  have hid := State.id_of_strand? hx
  refine ⟨f x, ?_, hf.waiting x l (mem_barArrived hmem ha) hw rfl (by rwa [hid])⟩
  have hcid : (complete (barLeft l.code (barRelease s t l.code))).cpu.id = s.cpu.id := (congrArg Strand.id hcpu).trans (hf.id _)
  have hoth : (complete (barLeft l.code (barRelease s t l.code))).others = s.others.map f := hothers
  rw [State.strand?_of_ne (by rwa [hcid]), hoth, State.find?_map_of_id hf.id, ← State.strand?_of_ne hu, hx]
  rfl

/-- Settles O14: fences by their condition in the words of R284, `mwait` by what it reads, and `bar` by what its strand holds of the
barrier. -/
theorem fencesMonitorsBarriers : Obligations.FencesMonitorsBarriers := by
  refine ⟨⟨fun s sc ht => ?fences, fun s sc => ?vdrain⟩, fun s a x k ht hr hk => ?mmon, fun s d a x ht hr => ?mwait, fun s l ht => ?bar⟩
  case fences =>
    exact ⟨fence_goes (exec_fenceAcq ..) ht (fenceReady_acq_iff s sc), fence_goes (exec_fenceRel ..) ht (fenceReady_iff sc nofun),
      fence_goes (exec_fenceAr ..) ht (fenceReady_iff sc nofun), fence_goes (exec_fenceSc ..) ht (fenceReady_iff sc nofun)⟩
  case vdrain => exact ⟨fun h => (exec_vdrain ..).trans (if_pos h), fun h => (exec_vdrain ..).trans (if_neg (by simp [h]))⟩
  case mmon => exact (exec_mmon ..).trans (execMmon_of_ok ht hr hk)
  case mwait =>
    rw [exec_mwait]
    refine ⟨fun hm hd => ?_, fun hm hd => ?_, fun va k hm hk hh hp => ⟨execMwait_of_reached ht hr hm hk hp hh, execMwait_of_below ht hr hm hk hh hp⟩⟩
    · rw [execMwait_of_unarmed ht hr hm, hd]
      rfl
    · rw [execMwait_of_unarmed ht hr hm, hd]
      rfl
  case bar =>
    rw [exec_bar]
    exact ⟨execBar_of_no_group l ht, fun t hk hi => ⟨execBar_of_done ht hk hi, fun hd ha =>
      ⟨fun hm => ⟨execBar_of_met ht hk hi ha hm, fun u x hx hu hmem hw hx' => strand?_barRelease hx hu hmem hw hx'⟩,
        execBar_of_unmet ht hk hi ha hd⟩⟩⟩

end Sys2Proof.Machine
end

section
/-! `vfas`, `vprobe` and the sequentially consistent vector accesses (R268 to R271, R279, R283, R285). -/

namespace Sys2Proof.Machine

/-! ## Writes that enter, and the checks of an access -/

theorem enter_aside (s : State) (l : Loc) (bs : List Byte) (t : StrandId) (c : Nat) (v : Scope) (g : WTag) (n : Nat) :
    Aside s (enter s l bs t c v g n) := by
  unfold enter enterRec foldLog
  refine Aside.trans ?_ (foldGo_aside _ _)
  exact ⟨rfl, rfl, fun _ => rfl⟩

theorem enter_dev (s : State) (l : Loc) (bs : List Byte) (t : StrandId) (c : Nat) (v : Scope) (g : WTag) (n : Nat) :
    (enter s l bs t c v g n).dev = s.dev := (foldGo_tenants_dev _ _).2

/-- The checks of an access draw no ticket. -/
theorem checkAccess_tseq {s : State} {va : Word} {n : Nat} {r w : Bool} {k : XOk} (h : checkAccess s va n r w = .ok k) :
    k.s.dev.tseq = s.dev.tseq := by
  refine checkAccess_induction (p := fun t => t.dev.tseq = s.dev.tseq) (fun t l bs v g ht => ?_) (fun t e ht => ?_) (fun _ _ _ ht => ht) h rfl
  · exact (congrArg Dev.tseq (foldGo_tenants_dev _ _).2).trans ht
  · unfold entId
    split <;> exact ht

theorem claim_dev (s : State) (d : VReg) (w : Nat) (is : List Nat) : (claim s d w is).dev = s.dev := by
  unfold claim
  simp only
  split
  · rfl
  · split <;> rfl

theorem vdone_dev (s : State) (rs : List Src) : (vdone s rs).dev = s.dev := (popOps_sameSight s rs).dev

theorem vdone_tlb (s : State) (rs : List Src) : (vdone s rs).tlb = s.tlb :=
  popOps_induction (p := fun t => t.tlb = s.tlb) rs rfl fun t f h => by
    unfold modQueues
    split <;> exact h

theorem setMreg_tlb (s : State) (d : MReg) (v : BitVec 1024) : (setMreg s d v).tlb = s.tlb := by
  unfold setMreg
  split <;> rfl

theorem setMreg_log (s : State) (d : MReg) (v : BitVec 1024) : (setMreg s d v).log = s.log := by
  unfold setMreg
  split <;> rfl

/-! ## `vfas` (R268) -/

/-- The prefixes of a `vfas`: each element takes the word as those before it have left it. -/
theorem fasGo_eq (f : Nat) (e : Nat → Nat) (js : List Nat) : ∀ (p : Nat → Nat) (acc : List (Nat × Nat)),
    (∀ m, m < js.length → p (m + 1) = memAdd f (p m) (e (js.getD m 0))) →
    fasGo f (js.map (fun i => (i, e i))) (p 0) acc = (acc.reverse ++ js.mapIdx (fun m j => (j, p m)), p js.length) := by
  induction js with
  | nil => exact fun p acc _ => by simp [fasGo]
  | cons j js ih =>
    intro p acc hp
    have h0 : memAdd f (p 0) (e j) = p 1 := (hp 0 (Nat.zero_lt_succ _)).symm
    rw [List.map_cons, fasGo, h0, ih (fun m => p (m + 1)) _ fun m hm => hp (m + 1) (Nat.succ_lt_succ hm), List.mapIdx_cons]
    simp

/-- A `vfas` that the strand goes past completes; it is kept with its elements, and no byte of memory changes yet (R279). -/
theorem vfasLater_leaves (s : State) (rs : List Src) (d : VReg) (l : Loc) (va : Word) (els : List (Nat × Nat)) :
    ∃ t x, vfasLater s rs d l va els = .next t ∧ t.cpu.mem.vfas = s.cpu.mem.vfas ++ [x] ∧ x.d = some d ∧ x.loc = l ∧ x.els = els ∧
      t.cpu.ctl = (complete (setVstart s 0)).cpu.ctl ∧ t.mem = s.mem ∧ t.log = s.log := by
  obtain ⟨es, he⟩ := forget_eq s.cpu.mem (fun e => e.vec == true && overlaps l (wOf s / 8) e.loc e.n)
  generalize hs1 : (readAnewAt s true l (wOf s / 8)).fresh.2 = s1
  generalize hs2 : claim s1 d (wOf s) (els.map (·.1)) = s2
  have hcalm : Calm s s2 := by
    rw [← hs2, ← hs1]
    exact (withMem_calm s _).trans ((fresh_calm _).trans (claim_calm _ d _ _))
  have hmem1 : s1.cpu.mem = { s.cpu.mem with early := es } := by rw [← hs1]; exact he
  have hsame1 : s1.mem = s.mem ∧ s1.log = s.log := by rw [← hs1]; exact ⟨rfl, rfl⟩
  have hmem2 : s2.cpu.mem = { s1.cpu.mem with vdep := s2.cpu.mem.vdep } := by rw [← hs2]; exact (claim_sameRun s1 d _ _).2
  have hsame2 : s2.mem = s1.mem ∧ s2.log = s1.log := by
    rw [← hs2]
    obtain ⟨hm, _, _, hlog, _⟩ := claim_sameMemory s1 d (wOf s) (els.map (·.1))
    exact ⟨hm, hlog⟩
  obtain ⟨x, v, ⟨hd, hloc, hels⟩, hout⟩ : ∃ (x : PVfas) (v : VVal), (x.d = some d ∧ x.loc = l ∧ x.els = els) ∧ vfasLater s rs d l va els =
      .next (vdone ((setVreg s2 d v).withMem (fun m => { m with vfas := m.vfas ++ [x], late := false })) rs) := by
    subst hs2 hs1
    exact ⟨_, _, ⟨rfl, rfl, rfl⟩, rfl⟩
  have hvfas : s2.cpu.mem.vfas = s.cpu.mem.vfas := by rw [hmem2, hmem1]
  have hcpu := popOps_cpu ((setVreg s2 d v).withMem (fun m => { m with vfas := m.vfas ++ [x], late := false })) rs
  exact ⟨_, x, hout, (congrArg (fun c : Strand => c.mem.vfas) hcpu).trans (congrArg (· ++ [x]) hvfas), hd, hloc, hels,
    (vdone_ctl _ _).trans (Calm.done_ctl (hcalm.trans ((setVreg_calm _ d v).trans (withMem_calm _ _)))),
    (vdone_sameMemory _ rs).1.trans (hsame2.1.trans hsame1.1), (vdone_sameMemory _ rs).2.2.2.1.trans (hsame2.2.trans hsame1.2)⟩

section
variable {s : State} {d : VReg} {a : SReg} {b : VReg} {va : Word} {v : VVal} {k : XOk} {pa : Nat}
  (hq : quietOps s [.s a, .v b] (.v d) true = some [.s va, .v v]) (hadd : isAddFmt (etOf s) = true) (hf : v.fmt = etOf s)
  (hn : vlOf s ≤ vlmax (wOf s)) (hk : checkAccess s va (wOf s / 8) true true = .ok k) (hl : k.loc = .dev pa)
  (hp : poisonedLast k.s k.s.cpu k.loc (wOf s / 8) = false) (hd : destFree s d = true)
include hq hadd hf hn hk hl hp hd

/-- A `vfas` at a clean word of device memory is put off, waits for older accesses to the word, or makes its move. -/
theorem execVfas_of_ok : execVfas d a b s =
    let w := wOf s
    let js := activeFrom s w 0 (vlOf s)
    let els := js.map (fun j => (j, v.el w j))
    let r := fasGo (etOf s) els (leNat (hide k.s k.loc (lastBytes k.s k.loc (w / 8)))) []
    let u := enter (readAnewAt k.s.fresh.2 true k.loc (w / 8)) k.loc (leBytes (w / 8) r.2) s.cpu.id s.cpu.cluster .device
      (.train k.s.dev.nextUid 0 none) k.s.dev.nextUid
    if k.s.cpu.mem.late && !pushes s d && !js.isEmpty then vfasLater k.s [.s a, .v b] d k.loc va els
    else if !atomicReady k.s k.s.cpu k.s.dev.nextUid k.loc (w / 8) || !vectorClear k.s k.s.cpu k.s.dev.nextUid k.loc (w / 8) then
      .next (s.waitFor (.vfas d a b))
    else writeVl (if js.isEmpty then k.s else u) [.s a, .v b] d w (etOf s) (r.1.map (fun x => (x.1, x.2, pPresent))) noSide 0 := by
  obtain ⟨_, hclean, _, hv⟩ := quietOps_spec hq
  have hfree : (!pushes s d && destWaits (vreg s d) (wOf s) (activeFrom s (wOf s) 0 (vlOf s))) = false := destWaits_of_destFree hd ..
  refine (whole_of_quiet _ _ hq).trans ((fmtGate_of_fits _ hadd ?_ ?_).trans ((needV_of_quiet _ ?_).trans ((needM_of_clean _ _ hclean).trans ?_)))
  · exact List.forall_mem_singleton.mpr hf
  · exact List.forall_mem_cons.mpr ⟨hn, List.forall_mem_singleton.mpr hn⟩
  · exact List.forall_mem_singleton.mpr ⟨vecAt_quiet hv 1, fun g => groupsOf_lt⟩
  · change (match checkAccess s va (wOf s / 8) true true with | .error e => _ | .ok k => _) = _
    rw [hk]
    rw [hl] at hp
    simp only [hl, hfree, hp, Bool.not_false, Bool.and_true, Bool.false_eq_true, if_false, Option.isNone_none, Bool.true_and, Option.map_none,
      Option.getD_none]
    rfl

/-- Where it is put off it completes, and its elements are kept to be added later (R279). -/
theorem execVfas_put_off (hlate : k.s.cpu.mem.late = true) (hpush : pushes s d = false) (hne : activeFrom s (wOf s) 0 (vlOf s) ≠ []) :
    execVfas d a b s = vfasLater k.s [.s a, .v b] d k.loc va ((activeFrom s (wOf s) 0 (vlOf s)).map (fun j => (j, v.el (wOf s) j))) := by
  refine (execVfas_of_ok hq hadd hf hn hk hl hp hd).trans (if_pos ?_)
  rw [hlate, hpush, List.isEmpty_eq_false_iff.mpr hne]
  rfl

/-- Where it makes its move at once, every element takes the word as those before it have left it. -/
theorem execVfas_moves (hlate : k.s.cpu.mem.late = false) (hatomic : atomicReady k.s k.s.cpu k.s.dev.nextUid k.loc (wOf s / 8) = true)
    (hclear : vectorClear k.s k.s.cpu k.s.dev.nextUid k.loc (wOf s / 8) = true) {js : List Nat} (hjs : activeFrom s (wOf s) 0 (vlOf s) = js)
    (hne : js ≠ []) {p : Nat → Nat} (h0 : p 0 = leNat (hide k.s k.loc (lastBytes k.s k.loc (wOf s / 8))))
    (hs : ∀ m, m < js.length → p (m + 1) = memAdd (etOf s) (p m) (v.el (wOf s) (js.getD m 0))) {u : State}
    (hu : u = enter (readAnewAt k.s.fresh.2 true k.loc (wOf s / 8)) k.loc (leBytes (wOf s / 8) (p js.length)) s.cpu.id s.cpu.cluster .device
      (.train k.s.dev.nextUid 0 none) k.s.dev.nextUid) (hdu : destFree u d = true) :
    execVfas d a b s = .next (vdone (putV (accrue u 0) d (wOf s) (etOf s) (js.mapIdx (fun m j => (j, p m, pPresent))) noSide) [.s a, .v b]) := by
  have hempty : js.isEmpty = false := List.isEmpty_eq_false_iff.mpr hne
  have hvl : 0 < vlOf u := by
    have hcpu : u.cpu = (readAnewAt k.s.fresh.2 true k.loc (wOf s / 8)).cpu := by rw [hu]; exact (enter_aside ..).cpu
    have hkvl : vlOf u = vlOf s := congrArg (fun c : Ctl => c.vl) (by rw [hcpu, ← checkAccess_cpu hk]; rfl)
    obtain ⟨j, hj⟩ := List.exists_mem_of_ne_nil _ hne
    rw [← hjs, activeFrom_eq] at hj
    rw [hkvl]
    exact Nat.zero_lt_of_lt (List.mem_range.mp (List.mem_filter.mp hj).1)
  have hfas := fasGo_eq (etOf s) (v.el (wOf s)) js p [] hs
  have hmap : (js.mapIdx (fun m j => (j, p m))).map (fun x => (x.1, x.2, pPresent)) = js.mapIdx (fun m j => (j, p m, pPresent)) :=
     List.ext_getElem (by simp) fun m _ _ => by simp
  rw [execVfas_of_ok hq hadd hf hn hk hl hp hd]
  simp only [hjs, hlate, hatomic, hclear, ← h0, hfas, hempty, List.reverse_nil, List.nil_append, hmap, ← hu, Bool.false_and, Bool.not_true,
    Bool.or_self, Bool.false_eq_true, if_false]
  exact writeVl_of_destFree hdu (.inl hvl) ..

end

/-! ## `vprobe` (R269) -/

theorem execVprobe_of_quiet {s : State} {d : MReg} {a : SReg} {b : VReg} {strict : Bool} {va : Word} {v : VVal}
    (hq : quietOps s [.s a, .v b] .none true = some [.s va, .v v]) (hplain : plainByte (etOf s) = true) (hi : isIdxTag v.fmt = true)
    (hn : vlOf s ≤ vlmax (wOf s)) (hni : vlOf s ≤ vlmax (fmtWidth v.fmt))
    (hb : strict = true → (unitsIdx va v (wOf s) (activeFrom s (wOf s) 0 (vlOf s))).all (fun u => !outsideLeases s u.va u.n) = true) :
    execVprobe d a b strict s = .next (vdone (setMreg s d (maskPut 0
      ((((unitsIdx va v (wOf s) (activeFrom s (wOf s) 0 (vlOf s))).filter (fun u => probeOk s u.va u.n)).map (fun u => u.els.headD 0)).map
        (fun i => (i, true))))) [.s a, .v b]) := by
  obtain ⟨_, hclean, _, hv⟩ := quietOps_spec hq
  have hnone : (if strict then (unitsIdx va v (wOf s) (activeFrom s (wOf s) 0 (vlOf s))).find? (fun u => outsideLeases s u.va u.n) else none) =
      none := by
    split
    · next hs => exact List.find?_eq_none.mpr fun u hu => by simpa using List.all_eq_true.mp (hb hs) u hu
    · rfl
  refine (whole_of_quiet _ _ hq).trans ((if_neg (by rw [hplain]; decide)).trans ((if_neg ?_).trans ((fmtGate_of_fits _ rfl (fun _ h => absurd h List.not_mem_nil) ?_).trans
    ((if_neg (Nat.not_lt.mpr hn)).trans ((needV_of_quiet _ ?_).trans ((needM_of_clean _ _ hclean).trans ?_))))))
  · change ¬ (!isIdxTag v.fmt) = true
    rw [hi]
    decide
  · exact List.forall_mem_singleton.mpr hni
  · exact List.forall_mem_singleton.mpr ⟨vecAt_quiet hv 1, fun g => groupsOf_lt⟩
  · rw [List.map_map]
    change (match (if strict then (unitsIdx va v (wOf s) (activeFrom s (wOf s) 0 (vlOf s))).find? (fun u => outsideLeases s u.va u.n) else none) with
      | some u => _ | none => _) = _
    rw [hnone]
    rfl

/-! ## Sequentially consistent accesses (R270, R271, R285) -/

/-- The state in which an SC access makes its move: a ticket is drawn, and what was read early is read anew. -/
def scTurn (s : State) : State := (drawTicket (readAnew s)).fresh.2

theorem scTurn_calm (s : State) : Calm s (scTurn s) :=
  ((withMem_calm s _).trans (Calm.ofDev _ _)).trans (fresh_calm _)

/-- The sources of an SC access. -/
def scSrcs (store : Bool) (d : VReg) (a : SReg) : List Src := if store then [.s a, .v d] else [.s a]

/-- One element that may not move yet waits, and one that may moves. -/
theorem scGo_of_ok {s : State} {d : VReg} {a : SReg} {v : VVal} {w j : Nat} {ad : Word} {k : XOk} (store : Bool) (rs : List Src)
    (hk : checkAccess (setVstart s j) ad (w / 8) (!store) store = .ok k) (hl : isRemote k.loc = false)
    (hp : poisonedLast k.s k.s.cpu k.loc (w / 8) = false) :
    scGo store rs d a v w 1 [{ els := [j], va := ad, n := w / 8 }] s =
      if !scReady k.s k.loc (w / 8) then .next ((setVstart s j).waitFor (.sc store d a))
      else scGo store rs d a v w 0 [] (if store then enter (scTurn k.s) k.loc (leBytes (w / 8) (v.el w j)) s.cpu.id s.cpu.cluster .device
        (.train k.s.dev.nextUid 0 none) k.s.dev.nextUid else scLoad (scTurn k.s) d w j k.loc) := by
  have hcpu : k.s.cpu = (setVstart s j).cpu := checkAccess_cpu hk
  have hid : (scTurn k.s).cpu.id = s.cpu.id := (congrArg Strand.id hcpu :)
  have hcl : (scTurn k.s).cpu.cluster = s.cpu.cluster := (congrArg Strand.cluster hcpu :)
  rw [← hid, ← hcl]
  unfold scGo
  simp only [List.headD_cons, hk]
  split
  · next hr =>
    rw [hr] at hl
    exact absurd hl nofun
  · simp only [hp, Bool.and_false, Bool.false_eq_true, if_false]
    cases store <;> rfl

section
variable {s : State} {d : VReg} {a : SReg} {vs : List SVal} {j : Nat} {store : Bool}
  (hq : quietOps s (scSrcs store d a) (if store then .none else .v d) true = some vs) (hplain : plainByte (etOf s) = true)
  (hf : store = true → (vecAt vs 1).fmt = etOf s) (hd : store = false → pushes s d = false ∧ (vreg s d).landed = 0xFF)
  (hn : vlOf s ≤ vlmax (wOf s)) (hlo : vstartOf s < vlOf s) (hj : activeFrom s (wOf s) (vstartOf s) (vlOf s) = [j])
include hq hplain hf hd hn hlo hj

/-- With one element left, the gates let the access go on with it. -/
theorem scAccess_of_quiet (word : Nat) : scAccess s word store d a 1 = scGo store (scSrcs store d a) d a (vecAt vs 1) (wOf s) 1
    [{ els := [j], va := wordAt vs 0 + BitVec.ofNat 64 (j * wOf s / 8), n := wOf s / 8 }] s := by
  obtain ⟨_, hclean, _, hv⟩ := quietOps_spec hq
  have h8 := (plainByte_iff.mp hplain).2
  have hunits : unitsAt (wordAt vs 0) (wOf s) [j] =
      [{ els := [j], va := wordAt vs 0 + BitVec.ofNat 64 (j * wOf s / 8), n := wOf s / 8 }] := if_pos h8
  refine (whole_of_quiet _ _ hq).trans ((fmtGate_of_fits _ hplain ?_ ?_).trans ((if_neg (Nat.not_le.mpr hlo)).trans ((needV_of_quiet _ ?_).trans
    ((needM_of_clean _ _ hclean).trans ?_))))
  · cases store with
    | true => exact List.forall_mem_singleton.mpr (hf rfl)
    | false => exact fun _ h => absurd h List.not_mem_nil
  · exact List.forall_mem_singleton.mpr hn
  · cases store with
    | true => exact List.forall_mem_singleton.mpr ⟨vecAt_quiet hv 1, fun g => groupsOf_lt⟩
    | false => exact fun _ h => absurd h List.not_mem_nil
  · simp only [hj, hunits]
    cases store with
    | true => rfl
    | false =>
      obtain ⟨hpush, hland⟩ := hd rfl
      have hwaits := destWaits_of_landed hland (wOf s) [j]
      simp only [loadBase, hpush, hwaits, Bool.not_false, Bool.true_and, Bool.and_false, Bool.false_eq_true, if_false]
      rfl

variable {k : XOk} (hk : checkAccess (setVstart s j) (wordAt vs 0 + BitVec.ofNat 64 (j * wOf s / 8)) (wOf s / 8) (!store) store = .ok k)
  (hl : isRemote k.loc = false) (hp : poisonedLast k.s k.s.cpu k.loc (wOf s / 8) = false)
include hk hl hp

/-- Where the access may not take place yet, the strand waits at its element. -/
theorem scAccess_waits (word : Nat) (hready : scReady k.s k.loc (wOf s / 8) = false) :
    scAccess s word store d a 1 = .next ((setVstart s j).waitFor (.sc store d a)) := by
  rw [scAccess_of_quiet hq hplain hf hd hn hlo hj word, scGo_of_ok store _ hk hl hp, hready]
  rfl

/-- Where it may, it makes its move. -/
theorem scAccess_moves (word : Nat) (hready : scReady k.s k.loc (wOf s / 8) = true) :
    scAccess s word store d a 1 = scGo store (scSrcs store d a) d a (vecAt vs 1) (wOf s) 0 []
      (if store then enter (scTurn k.s) k.loc (leBytes (wOf s / 8) ((vecAt vs 1).el (wOf s) j)) s.cpu.id s.cpu.cluster .device
        (.train k.s.dev.nextUid 0 none) k.s.dev.nextUid else scLoad (scTurn k.s) d (wOf s) j k.loc) := by
  rw [scAccess_of_quiet hq hplain hf hd hn hlo hj word, scGo_of_ok store _ hk hl hp, hready]
  rfl

end

/-- The control registers at the end of an instruction whose steps changed VSTART alone among them. -/
theorem vdone_ctl_of_calm {s t : State} {j : Nat} (h : Calm (setVstart s j) t) (rs : List Src) :
    (vdone t rs).cpu.ctl = (complete (setVstart s 0)).cpu.ctl := (vdone_ctl t rs).trans h.done_ctl

/-- A store of one element ends once it has entered. -/
theorem scGo_stored (rs : List Src) (d : VReg) (a : SReg) (v : VVal) (w : Nat) (s : State) :
    scGo true rs d a v w 0 [] s = .next (vdone s rs) := by
  unfold scGo
  rfl

/-- A load of one element ends once its register has landed. -/
theorem scGo_loaded {s : State} {d : VReg} (rs : List Src) (a : SReg) (v : VVal) (w : Nat) (hpush : pushes s d = false)
    (hland : (vreg s d).landed = 0xFF) : scGo false rs d a v w 0 [] s = .next (vdone s rs) := by
  unfold scGo
  simp only [watched_of_register hpush, hland, loadDone, hpush, bne_self_eq_false, Bool.false_eq_true, if_false]

/-- What the move of a load leaves: its element in the register, and everything else as it was. -/
theorem scLoad_leaves {s : State} {d : VReg} {w j : Nat} (l : Loc) (hpush : pushes s d = false) (hland : (vreg s d).landed = 0xFF)
    (hw : w < 16 ∨ w % 16 = 0) (hj : (j + 1) * w ≤ 8192) :
    let t := scLoad s d w j l
    Calm s t ∧ (t.mem = s.mem ∧ t.log = s.log ∧ t.dev = s.dev) ∧ (vreg t d).landed = 0xFF ∧ (vreg t d).fmt = etOf s ∧
      (vreg t d).el w j = leNat (hide s l (lastBytes s l (w / 8))) % 2 ^ w := by
  intro t
  let x := leNat (hide s l (lastBytes s l (w / 8)))
  let c := claim s d w [j]
  have ht : t = setVreg c d ((vreg c d).write w (etOf c) (presents ([j].map fun i => (i, x))) 0 0) := if_neg (by rw [hpush]; decide)
  have hcalm : Calm s c := claim_calm s d w [j]
  have hframe : VFrame d s c := claim_vframe d s w [j]
  have het : etOf c = etOf s := congrArg (fun r : Ctl => mrEt r.mr) hcalm.ctl
  have hwrote := VVal.write_wrote (vreg c d) (etOf c) (is := [j]) (fun _ => x) 0 0 hw (List.nodup_singleton j) (List.forall_mem_singleton.mpr hj)
  rw [ht, vreg_setVreg_self]
  exact ⟨hcalm.trans (setVreg_calm c d _), ⟨hframe.mem, hframe.log, claim_dev s d w [j]⟩,
    hwrote.landed ((claim_wrote s d [j] fun _ => x).landed hland), (VVal.write_fmt _ _ _ _ _ _ (etOf_lt c)).trans het,
    (hwrote.mem j (List.mem_singleton_self j)).1⟩

/-- Settles O27: `vfas` by its prefixes, `vprobe` by the units that pass, and an SC access, as the instruction or as the event, by its one
move. -/
theorem atomicVectorAccesses : Obligations.AtomicVectorAccesses := by
  refine ⟨⟨fun s d a b va v k pa hq hadd hf hn hk hl hp hd => ?fas, fun s d a b strict va v hq hsc h8 hi hn hni => ?probe⟩,
    fun s d a va vs j k store => ?sc⟩
  case fas =>
    intro w js
    have hjs : activeFrom s w 0 (vlOf s) = js := activeFrom_zero s w
    rw [exec_vfas, ← hjs]
    refine ⟨fun hlate hpush hne => ?_, fun hlate hatomic hclear p h0 hs hne u hu hdu => ?_⟩
    · rw [execVfas_put_off hq hadd hf hn hk hl hp hd hlate hpush hne]
      exact vfasLater_leaves ..
    · exact execVfas_moves hq hadd hf hn hk hl hp hd hlate hatomic hclear rfl hne h0 hs hu hdu
  case probe =>
    intro w us hb
    obtain ⟨_, hs, hv, hm, _⟩ := setMreg_leaves s d (maskPut 0 ((((us.filter (fun u => probeOk s u.va u.n)).map (fun u => u.els.headD 0)).map
      (fun i => (i, true)))))
    refine ⟨_, (exec_vprobe ..).trans (execVprobe_of_quiet hq (plainByte_iff.mpr ⟨hsc, h8⟩) hi hn hni hb), vdone_setMreg_ctl .., rfl, ?_, ?_, ?_, ?_, ?_,
      fun j hj => ?_⟩
    · exact (vdone_sameMemory _ _).1.trans hm
    · exact (vdone_sameMemory _ _).2.2.2.1.trans (setMreg_log ..)
    · exact (vdone_tlb _ _).trans (setMreg_tlb ..)
    · exact (congrArg RegFile.s (vdone_regs _ _)).trans hs
    · exact (congrArg RegFile.v (vdone_regs _ _)).trans hv
    · rw [mreg_vdone_setMreg_self _ _ _ _ hj, getLsbD_maskPut_true _ hj]
      by_cases h0 : d = 0
      · simp [h0]
      · rw [if_neg h0, decide_eq_false h0, Bool.false_or, Bool.eq_iff_iff]
        simp only [decide_eq_true_eq, List.mem_map, List.mem_filter, List.any_eq_true, Bool.and_eq_true, beq_iff_eq]
        exact exists_congr fun u => by tauto
  case sc =>
    intro w i ad u hq hva hsc h8 hf hd hn hlo hj hk hl hp e concl
    subst hva
    have hplain : plainByte (etOf s) = true := plainByte_iff.mpr ⟨hsc, h8⟩
    have hjn : j < vlOf s := by
      have hmem : j ∈ activeFrom s w (vstartOf s) (vlOf s) := by rw [hj]; exact List.mem_singleton_self j
      rw [activeFrom_eq] at hmem
      exact List.mem_range.mp (List.mem_filter.mp hmem).1
    have hcalm : Calm (setVstart s j) (scTurn k.s) := (checkAccess_aside hk).calm.trans (scTurn_calm k.s)
    have hregs : (scTurn k.s).cpu.regs = s.cpu.regs := (congrArg (fun x : Strand => x.regs) (checkAccess_cpu hk) :)
    have htseq : (scTurn k.s).dev.tseq = s.dev.tseq + 1 := (congrArg (· + 1) (checkAccess_tseq hk) :)
    have hgo (word : Nat) : concl (scAccess s word store d a 1) := by
      refine ⟨fun hready => ?_, scAccess_waits hq hplain hf hd hn hlo hj hk hl hp word⟩
      rw [scAccess_moves hq hplain hf hd hn hlo hj hk hl hp word hready]
      cases store with
      | true =>
        have haside := enter_aside (scTurn k.s) k.loc (leBytes (w / 8) ((vecAt vs 1).el w j)) s.cpu.id s.cpu.cluster .device
          (.train k.s.dev.nextUid 0 none) k.s.dev.nextUid
        refine ⟨_, scGo_stored .., vdone_ctl_of_calm (hcalm.trans haside.calm) _, rfl, ?_, ?_, ?_, ?_⟩
        · exact (congrArg Dev.tseq ((vdone_dev _ _).trans (enter_dev ..))).trans htseq
        · exact (vdone_regs _ _).trans ((congrArg (fun x : Strand => x.regs) haside.cpu).trans hregs)
        · exact (vdone_sameMemory _ _).1
        · exact (vdone_sameMemory _ _).2.2.2.1
      | false =>
        obtain ⟨hpush, hland⟩ := hd rfl
        have hpush1 : pushes (scTurn k.s) d = false := (hcalm.pushes d).trans hpush
        have hreg : vreg (scTurn k.s) d = vreg s d := congrArg (fun r : RegFile => r.v[d.toNat]) hregs
        obtain ⟨hc, ⟨hm, hlog, hdev⟩, hlanded, hfmt, hel⟩ := scLoad_leaves k.loc hpush1 (by rw [hreg]; exact hland) (fmtWidth_slots (etOf s))
          (span_of_lt_vlmax (Nat.lt_of_lt_of_le hjn hn))
        have het : etOf (scTurn k.s) = etOf s := (congrArg (fun r : Ctl => mrEt r.mr) hcalm.ctl :)
        refine ⟨_, scGo_loaded _ a _ _ ((hc.pushes d).trans hpush1) hlanded, vdone_ctl_of_calm (hcalm.trans hc) _, rfl, ?_, ?_, ?_, ?_, ?_⟩
        · exact (congrArg Dev.tseq ((vdone_dev _ _).trans hdev)).trans htseq
        · exact (vdone_sameMemory _ _).1.trans hm
        · exact (vdone_sameMemory _ _).2.2.2.1.trans hlog
        · exact (congrArg VVal.fmt (vreg_vdone _ _ d)).trans (hfmt.trans het)
        · exact (congrArg (fun v : VVal => v.el w j) (vreg_vdone _ _ d)).trans hel
    refine ⟨?_, fun z y hy hz hr hi hw => ?_⟩
    · cases store with
      | true => exact hgo _
      | false => exact hgo _
    · have he : exec (.scAccess y) z = scAccess s 0 store d a 1 := (resumeWait_of_wait hy hw rfl hr hi).trans (by rw [hz])
      rw [he]
      exact hgo 0

end Sys2Proof.Machine
end

section
/-! Atomic memory operations (R257, R258, R279, R283). What `Obligations.AmoResults` says of them holds exactly where `SpillsSteady` does
(`amoResults_iff`), and that is a fact about an opaque value (R238), so it is neither proved nor refuted here. -/

namespace Sys2Proof.Machine

/-! ## The move -/

/-- The state in which an AMO reads and writes: it has its place in program order, and kind sc has drawn its ticket. -/
def amoTurn (s : State) (o : AmoOrder) : State := if o = .sc then drawTicket s.fresh.2 else s.fresh.2

theorem lastBytes_amoTurn (s : State) (o : AmoOrder) (l : Loc) (n : Nat) : lastBytes (amoTurn s o) l n = lastBytes s l n := by
  unfold amoTurn
  split <;> cases l <;> rfl

/-- An operand cut to the size of the access. -/
theorem operand_mod {y : Word} (n : Nat) : (BitVec.ofNat 64 (y.toNat % 2 ^ n)).toNat % 2 ^ n = y.toNat % 2 ^ n := by
  rw [BitVec.toNat_ofNat, Nat.mod_eq_of_lt (Nat.lt_of_le_of_lt (Nat.mod_le ..) y.isLt), Nat.mod_mod]

section
variable {s : State} {r : AmoOp} {vs : List Word} {k : XOk} (ht : ∀ c k, s.cpu.id ≠ .thaw c k) (hw : ∀ q j, s.cpu.wait ≠ some (.remoteAmo q j))
  (hr : readable s (amoReads r) (some r.d) = some vs) (hk : checkAccess s (opd vs 0) (amoBytes r.size) true true = .ok k)
  (hl : isRemote k.loc = false) (hp : poisonedLast k.s k.s.cpu k.loc (amoBytes r.size) = false)
include ht hw hr hk hl hp

/-- An AMO of a clean word of this device waits for its turn, is put off, waits for its condition, or makes its move. -/
theorem amo_of_ok (word : Nat) : amo s word r =
    let v := BitVec.ofNat 64 ((opd vs 1).toNat % 2 ^ (8 * amoBytes r.size))
    let cmp := BitVec.ofNat 64 ((opd vs 2).toNat % 2 ^ (8 * amoBytes r.size))
    let move := amoMove (amoTurn k.s r.order) k.s.cpu k.s.dev.nextUid r k.loc v cmp
    if k.s.cpu.mem.late && (r.order == .acq || r.order == .sc) then .next ((s.withMem (fun m => { m with late := false })).waitFor (.amo r))
    else if (r.order == .rlx || r.order == .rel) && mayDefer k.s r.d then amoLater k.s r k.loc (opd vs 0) v cmp
    else if !amoReady k.s k.s.cpu k.s.dev.nextUid k.loc (amoBytes r.size) r.order then .next (s.waitFor (.amo r))
    else .next (retired (amoOrdered (readAnewAt move.2 false k.loc (amoBytes r.size)) r.order) (amoReads r) r.d (amoResult r.size move.1)) := by
  unfold amo
  rw [notThaw_of_ne _ _ ht, readS_of_readable _ _ hr]
  simp only [hk]
  split
  · next hloc =>
    rw [hloc] at hl
    exact absurd hl nofun
  · simp only [Option.isNone_none, Bool.true_and, hp, Bool.not_false, Bool.and_true, Bool.false_eq_true, if_false]
    rfl

/-- It makes its move at once where its condition holds and it is not put off. -/
theorem amo_performs (word : Nat) (hnow : ¬ (mayDefer k.s r.d = true ∧ (r.order = .rlx ∨ r.order = .rel)))
    (hready : amoReady k.s k.s.cpu k.s.dev.nextUid k.loc (amoBytes r.size) r.order = true)
    (hturn : k.s.cpu.mem.late = false ∨ r.order = .rlx ∨ r.order = .rel) :
    let move := amoMove (amoTurn k.s r.order) k.s.cpu k.s.dev.nextUid r k.loc (BitVec.ofNat 64 ((opd vs 1).toNat % 2 ^ (8 * amoBytes r.size)))
      (BitVec.ofNat 64 ((opd vs 2).toNat % 2 ^ (8 * amoBytes r.size)))
    amo s word r =
      .next (retired (amoOrdered (readAnewAt move.2 false k.loc (amoBytes r.size)) r.order) (amoReads r) r.d (amoResult r.size move.1)) := by
  have hlate : (k.s.cpu.mem.late && (r.order == .acq || r.order == .sc)) = false := by
    rcases hturn with h | h | h <;> rw [h] <;> simp
  have hdefer : ((r.order == .rlx || r.order == .rel) && mayDefer k.s r.d) = false := by
    rw [Bool.eq_false_iff]
    intro h
    simp only [Bool.and_eq_true, Bool.or_eq_true, beq_iff_eq] at h
    exact hnow h.symm
  rw [amo_of_ok ht hw hr hk hl hp word]
  simp only [hlate, hdefer, hready, Bool.not_true, Bool.false_eq_true, if_false]

/-- A relaxed or releasing one may be put off (R279). -/
theorem amo_put_off (word : Nat) (hlater : mayDefer k.s r.d = true ∧ (r.order = .rlx ∨ r.order = .rel)) :
    amo s word r = amoLater k.s r k.loc (opd vs 0) (BitVec.ofNat 64 ((opd vs 1).toNat % 2 ^ (8 * amoBytes r.size)))
      (BitVec.ofNat 64 ((opd vs 2).toNat % 2 ^ (8 * amoBytes r.size))) := by
  obtain ⟨hdefer, ho⟩ := hlater
  rw [amo_of_ok ht hw hr hk hl hp word]
  rcases ho with ho | ho <;> simp [ho, hdefer]

end

/-! ## An AMO that is put off -/

theorem MemSt.unbind_amos (m : MemSt) (d : SReg) :
    (m.unbind d).amos = m.amos.map (fun x => { x with reg := if x.reg = some d then none else x.reg }) := by
  unfold MemSt.unbind
  split
  · next h =>
    simp only [Bool.and_eq_true, List.isEmpty_iff] at h
    rw [h.1.2]
    rfl
  · rfl

/-- What it holds of later entries is in the strand's part of memory alone. -/
theorem relFence_leaves (s : State) (o : AmoOrder) (l : Loc) :
    (relFence s o l).cpu.ctl = s.cpu.ctl ∧ (relFence s o l).cpu.regs = s.cpu.regs ∧ (relFence s o l).log = s.log ∧
      vlgOf (relFence s o l) = vlgOf s ∧ (relFence s o l).cpu.mem.amos = s.cpu.mem.amos := by
  unfold relFence
  split <;> exact ⟨rfl, rfl, rfl, rfl, rfl⟩

theorem readAnewAt_amos (s : State) (vec : Bool) (l : Loc) (n : Nat) : (readAnewAt s vec l n).cpu.mem.amos = s.cpu.mem.amos := by
  obtain ⟨es, he⟩ := forget_eq s.cpu.mem (fun e => e.vec == vec && overlaps l n e.loc e.n)
  exact (congrArg MemSt.amos he :)

/-- It completes, its register waits, and nothing is read or written yet. -/
theorem amoLater_leaves (s : State) (r : AmoOp) (l : Loc) (va v cmp : Word) : ∃ t p, amoLater s r l va v cmp = .next t ∧
    t.cpu.ctl = (complete s).cpu.ctl ∧ t.cpu.regs = s.cpu.regs ∧ t.log = s.log ∧ t.cpu.mem.amos = (s.cpu.mem.unbind r.d).amos ++ [p] ∧
    p.reg = (if r.d = 0 then none else some r.d) ∧ p.loc = l := by
  generalize hs1 : (readAnewAt (relFence s r.order l) false l (amoBytes r.size)).fresh.2 = s1
  have h1 : s1.cpu.ctl = s.cpu.ctl ∧ s1.cpu.regs = s.cpu.regs ∧ s1.log = s.log ∧ vlgOf s1 = vlgOf s ∧ s1.cpu.mem.amos = s.cpu.mem.amos := by
    obtain ⟨hctl, hregs, hlog, hvlg, hamos⟩ := relFence_leaves s r.order l
    rw [← hs1]
    exact ⟨hctl, hregs, hlog, hvlg, (readAnewAt_amos _ false l _).trans hamos⟩
  obtain ⟨hctl, hregs, hlog, hvlg, hamos⟩ := h1
  obtain ⟨p, ⟨hreg, hloc⟩, hout⟩ : ∃ p : PAmo, (p.reg = (if r.d = 0 then none else some r.d) ∧ p.loc = l) ∧ amoLater s r l va v cmp =
      .next (complete ((popPorts s1 (amoReads r)).withMem (fun m => { m.unbind r.d with amos := (m.unbind r.d).amos ++ [p], late := false }))) := by
    subst hs1
    exact ⟨_, ⟨rfl, rfl⟩, rfl⟩
  have hsight := popPorts_sameSight s1 (amoReads r)
  have hcpu := popPorts_cpu s1 (amoReads r)
  refine ⟨_, p, hout, ?_, (congrArg Strand.regs hcpu).trans hregs, hsight.memory.2.2.2.1.trans hlog, ?_, hreg, hloc⟩
  · change endCheck (vlgOf (popPorts s1 (amoReads r))) (popPorts s1 (amoReads r)).cpu.ctl.pc (popPorts s1 (amoReads r)).cpu.ctl =
      endCheck (vlgOf s) s.cpu.ctl.pc s.cpu.ctl
    rw [hsight.vlgOf, hcpu, hvlg, hctl]
  · change ((popPorts s1 (amoReads r)).cpu.mem.unbind r.d).amos ++ [p] = _
    rw [hcpu, MemSt.unbind_amos, MemSt.unbind_amos, hamos]

/-! ## The results of each AMO -/

/-- Signed values of the size of an access. -/
theorem intVal_signed {w : Nat} (hw : 0 < w) (x : Nat) : intVal w true x = (BitVec.ofNat w x).toInt := by
  have hx : intVal w true x = intVal w true (x % 2 ^ w) := by simp only [intVal, Nat.mod_mod]
  rw [hx, intVal_eq hw true (Nat.mod_lt _ (Nat.two_pow_pos w)), if_pos rfl]
  congr 1
  exact BitVec.eq_of_toNat_eq (by simp)

theorem amoBytes_pos (z : AmoSize) : 0 < 8 * amoBytes z := by cases z <;> decide

theorem amoResult_intSize (g : IntSize) (old : Nat) : amoResult g.toAmo old =
    if amoBytes g.toAmo = 4 then (BitVec.ofNat 32 old).signExtend 64 else BitVec.ofNat 64 old := by
  cases g <;> rfl

theorem amoResult_amoSize (g : AmoSize) (old : Nat) :
    amoResult g old = if g = .w then (BitVec.ofNat 32 old).signExtend 64 else BitVec.ofNat 64 old := by
  cases g <;> rfl

theorem amoResult_fpSize (g : FpSize) (old : Nat) : amoResult g.toAmo old = BitVec.ofNat 64 old := by
  cases g <;> rfl

/-- The state after the move of an AMO: its new value, if there is one, has entered. -/
def amoEntered (s u : State) (x : Strand) (l : Loc) (n : Nat) : Option Nat → State
  | some m => enter u l (leBytes n m) x.id x.cluster (amoScope l) .plain s.dev.nextUid
  | none => u

/-- What an AMO that passed its checks leaves: `res` in d, and `new` in memory where there is a new value. -/
def AmoLeaves (s : State) (k : XOk) (d : SReg) (o : AmoOrder) (n : Nat) (rs : List SReg) (i : Instr) (res : Word) (new : Option Nat) : Prop :=
  (¬ (mayDefer k.s d = true ∧ (o = .rlx ∨ o = .rel)) →
    (amoReady k.s k.s.cpu k.s.dev.nextUid k.loc n o = true ∧ (k.s.cpu.mem.late = false ∨ o = .rlx ∨ o = .rel)) →
    exec i s = .next (retired (amoOrdered (readAnewAt (amoEntered k.s (amoTurn k.s o) s.cpu k.loc n new) false k.loc n) o) rs d res)) ∧
  (mayDefer k.s d = true ∧ (o = .rlx ∨ o = .rel) → ∃ t p, exec i s = .next t ∧ t.cpu.ctl = (complete k.s).cpu.ctl ∧
    t.cpu.regs = k.s.cpu.regs ∧ t.log = k.s.log ∧ t.cpu.mem.amos = (k.s.cpu.mem.unbind d).amos ++ [p] ∧
    p.reg = (if d = 0 then none else some d) ∧ p.loc = k.loc)

/-! ## The bytes of a spill area (R238) -/

/-- The bytes of a spill area that a reader is given do not change as numbers are drawn. Nothing says whether they do: `Config.spillByte` is
opaque. -/
def SpillsSteady : Prop := ∀ draw n i, Config.spillByte draw (n + 1) i = Config.spillByte draw n i

/-- Then an AMO is given the bytes that stood there before it took its place in program order. -/
theorem hide_amoTurn (h : SpillsSteady) (s : State) (o : AmoOrder) (l : Loc) (bs : List Byte) : hide (amoTurn s o) l bs = hide s l bs := by
  have hbyte (draw n i : Nat) : Config.spillByte draw (n + 1) i = Config.spillByte draw n i := h draw n i
  have hspill (l : Loc) : spillAt (amoTurn s o) l = spillAt s l := by
    unfold amoTurn spillAt
    split <;> simp only [drawTicket, State.fresh, State.withDev, hbyte]
  have hspills : (amoTurn s o).spills = s.spills := by
    unfold amoTurn
    split <;> rfl
  unfold hide
  simp only [hspills, hspill]

section
variable {s : State} {r : AmoOp} {x y : Word} {vs : List Word} {k : XOk} {n old v : Nat} (ht : ∀ c k, s.cpu.id ≠ .thaw c k)
  (hw : ∀ q j, s.cpu.wait ≠ some (.remoteAmo q j)) (hk : checkAccess s x n true true = .ok k) (hl : isRemote k.loc = false)
  (hp : poisonedLast k.s k.s.cpu k.loc n = false) (hold : leNat (hide k.s k.loc (lastBytes k.s k.loc n)) = old)
  (hv : y.toNat % 2 ^ (8 * n) = v) (hsteady : SpillsSteady)
include ht hw hk hl hp hold hv hsteady

/-- An AMO that makes its move at once takes the old bytes, and its new value enters; one that is put off completes. -/
theorem amo_leaves {i : Instr} {word : Nat} (hi : exec i s = amo s word r) (hn : amoBytes r.size = n)
    (hr : readable s (amoReads r) (some r.d) = some vs) (hx : opd vs 0 = x) (hy : opd vs 1 = y) {new : Option Nat}
    (hnew : amoNew r.op n old v ((opd vs 2).toNat % 2 ^ (8 * n)) = new) :
    AmoLeaves s k r.d r.order n (amoReads r) i (amoResult r.size old) new := by
  subst hx hy hn hv
  unfold AmoLeaves
  rw [hi]
  refine ⟨fun hnow ⟨hready, hturn⟩ => ?_, fun hlater => ?_⟩
  · have hold' : leNat (hide (amoTurn k.s r.order) k.loc (lastBytes (amoTurn k.s r.order) k.loc (amoBytes r.size))) = old := by
      rw [lastBytes_amoTurn, hide_amoTurn hsteady, hold]
    rw [amo_performs ht hw hr hk hl hp word hnow hready hturn]
    unfold amoMove
    simp only [hold', operand_mod, hnew, checkAccess_cpu hk]
    cases new <;> rfl
  · rw [amo_put_off ht hw hr hk hl hp word hlater]
    exact amoLater_leaves ..

end

/-- Where the bytes of a spill area do not change as numbers are drawn, the results of the AMOs are those that the obligation states. -/
theorem amoResults_of_steady (h : SpillsSteady) : Obligations.AmoResults := by
  intro s d a b o x y z k n ht hw hk hl hp later ready old v u signed leaves
  have hleaves {rs : List SReg} {i : Instr} {res : Word} {new : Option Nat} (ha : AmoLeaves s k d o n rs i res new) : leaves rs i res new := by
    cases new <;> exact ha
  have hold : leNat (hide k.s k.loc (lastBytes k.s k.loc n)) = old := rfl
  have hv : y.toNat % 2 ^ (8 * n) = v := rfl
  have hs (i : Nat) : signed i = (BitVec.ofNat (8 * n) i).toInt := rfl
  clear_value leaves old v signed
  have go {r : AmoOp} {vs : List Word} {word : Nat} {i : Instr} := amo_leaves (r := r) (vs := vs) (word := word) (i := i) ht hw hk hl hp hold hv h
  refine ⟨fun hr => ⟨fun g hg => ?int, fun g hg => ?swap, fun g hg => ?fadd⟩, fun hr g hg => ?cas⟩
  case int =>
    intro r gives
    have hr4 : amoResult g.toAmo old = r := (amoResult_intSize g old).trans (by rw [hg])
    have hpos : 0 < 8 * n := hg ▸ amoBytes_pos g.toAmo
    have hlt (i j : Nat) : (signed i < signed j) = (intVal (8 * n) true i < intVal (8 * n) true j) := by
      rw [hs, hs, intVal_signed hpos, intVal_signed hpos]
    have goes {op new word : Nat} {i : Instr} (hi : exec i s = amo s word ⟨op, g.toAmo, o, d, a, b⟩) (hop : (op == 9) = false)
        (hnew : amoNew op n old v (0 % 2 ^ (8 * n)) = some new) : gives i new := by
      have hreads : amoReads ⟨op, g.toAmo, o, d, a, b⟩ = [a, b] := if_neg (by rw [hop]; decide)
      have hall := go (vs := [x, y]) hi hg (by rw [hreads]; exact hr) rfl rfl hnew
      rw [hreads, hr4] at hall
      exact hleaves hall
    refine ⟨goes (exec_amoAdd ..) rfl rfl, goes (exec_amoAnd ..) rfl rfl, goes (exec_amoOr ..) rfl rfl, goes (exec_amoXor ..) rfl rfl,
      goes (exec_amoMin ..) rfl ?_, goes (exec_amoMax ..) rfl ?_, goes (exec_amoMinu ..) rfl ?_, goes (exec_amoMaxu ..) rfl ?_⟩
    · simp only [hlt]
      rfl
    · simp only [hlt]
      rfl
    · exact congrArg some (min_def_lt v old).symm
    · exact congrArg some ((max_def_lt old v).symm.trans (max_comm old v))
  case swap =>
    have hall := go (exec_amoSwap d a b o g s) hg hr rfl rfl rfl
    rw [amoResult_amoSize] at hall
    exact hleaves hall
  case fadd =>
    intro F
    have hadd : amoNew 10 n old v (0 % 2 ^ (8 * n)) = some (addF F 0 false (decodeF F old) (decodeF F v)).1 := by
      simp only [amoNew, addAt, beq_iff_eq, F]
    have hall := go (exec_amoFadd d a b o g s) hg hr rfl rfl hadd
    rw [amoResult_fpSize] at hall
    exact hleaves hall
  case cas =>
    have hcas : amoNew 9 n old v (z.toNat % 2 ^ (8 * n)) = if old = z.toNat % 2 ^ (8 * n) then some v else none := by
      simp only [amoNew, beq_iff_eq]
    have hall := go (exec_amoCas d a b o g s) hg hr rfl rfl hcas
    rw [amoResult_amoSize] at hall
    exact hleaves hall

/-! ## The obligation and `SpillsSteady` -/

/-- The management core at reset, where one spill area stands in its own memory and n numbers have been drawn. -/
def spilled (draw n i : Nat) : State :=
  { State.reset with
    spills := [{ owner := .mgmt, base := 0, len := 0, parts := [(i, .fw 0, 8)], draw := draw, live := true, broken := false }]
    dev := { Dev.reset with nextUid := n } }

/-- The first byte that a reader is given there. -/
theorem hide_spilled (s : State) (draw n i : Nat) (hs : s.spills = (spilled draw n i).spills) (hn : s.dev.nextUid = n) (b : Byte) (bs : List Byte) :
    leNat (hide s (.fw 0) (b :: bs)) % 256 = (Config.spillByte draw n i).toNat := by
  have hb : spillAt s ((Loc.fw 0).add 0) = some (Config.spillByte draw n i) := by
    unfold spillAt
    rw [hs, hn]
    rfl
  unfold hide
  rw [hs, List.mapIdx_cons, hb]
  change ((Config.spillByte draw n i).toNat + 256 * _) % 256 = _
  rw [Nat.add_mul_mod_self_left, Nat.mod_eq_of_lt (Config.spillByte draw n i).isLt]

/-- The strand sees no ports after the write of an AMO of the management core. -/
theorem noPorts_entered {u : State} (h : u.cpu.id = .mgmt) (l : Loc) (bs : List Byte) (t : StrandId) (c : Nat) (v : Scope) (g : WTag) (m n : Nat) :
    NoPorts (readAnewAt (enter u l bs t c v g m) false l n) := by
  have hid : (readAnewAt (enter u l bs t c v g m) false l n).cpu.id = .mgmt := (congrArg Strand.id (enter_aside u l bs t c v g m).cpu :).trans h
  unfold NoPorts roleOf
  rw [hid]

/-- The obligation says that an AMO is given the bytes that stood there before it took its place in program order, and the model gives it those
after: the two agree where the bytes of a spill area do not change as numbers are drawn, and there alone. -/
theorem amoResults_iff : Obligations.AmoResults ↔ SpillsSteady := by
  refine ⟨fun h draw n i => ?_, amoResults_of_steady⟩
  generalize hs : spilled draw n i = s
  have ht : ∀ c k, s.cpu.id ≠ .thaw c k := by subst hs; exact nofun
  have hw : ∀ q j, s.cpu.wait ≠ some (.remoteAmo q j) := by subst hs; exact nofun
  have hk : checkAccess s 0 8 true true = .ok ⟨.fw 0, s, 0, 0, 1⟩ := by subst hs; rfl
  have hr : readable s [1, 2] (some 3) = some [0, 0] := by subst hs; rfl
  have hp : poisonedLast s s.cpu (.fw 0) 8 = false := by subst hs; rfl
  have hready : amoReady s s.cpu s.dev.nextUid (.fw 0) 8 .rlx = true := by subst hs; rfl
  have hnow : ¬ (mayDefer s 3 = true ∧ (AmoOrder.rlx = .rlx ∨ AmoOrder.rlx = .rel)) := by subst hs; exact fun h => Bool.false_ne_true h.1
  have hid : s.fresh.2.cpu.id = .mgmt := by subst hs; rfl
  have hbytes : lastBytes s (.fw 0) 8 = 0 :: List.replicate 7 0 := by subst hs; rfl
  have hstated := (((h s 3 1 2 .rlx 0 0 0 _ 8 ht hw hk rfl hp).1 hr).2.1 .d rfl).1 hnow ⟨hready, .inr (.inl rfl)⟩
  have hmodel := amo_performs (r := ⟨8, .d, .rlx, 3, 1, 2⟩) ht hw hr hk rfl hp (encodeNat (.amoSwap 3 1 2 .rlx .d)) hnow hready (.inr (.inl rfl))
  have hsame := congrArg (fun u : State => sreg u 3) (Host.Outcome.next.inj (hmodel.symm.trans hstated))
  have hold : BitVec.ofNat 64 (leNat (hide s.fresh.2 (.fw 0) (lastBytes s.fresh.2 (.fw 0) 8))) =
      BitVec.ofNat 64 (leNat (hide s (.fw 0) (lastBytes s (.fw 0) 8))) :=
    (sreg_retired (noPorts_entered hid ..) (by decide) ..).symm.trans (hsame.trans (sreg_retired (noPorts_entered hid ..) (by decide) ..))
  have hlast : lastBytes s.fresh.2 (.fw 0) 8 = lastBytes s (.fw 0) 8 := rfl
  rw [hlast, hbytes] at hold
  have hbyte : ((Config.spillByte draw (n + 1) i).toNat : Nat) = (Config.spillByte draw n i).toNat := by
    rw [← hide_spilled s.fresh.2 draw (n + 1) i (by subst hs; rfl) (by subst hs; rfl), ← hide_spilled s draw n i (by subst hs; rfl) (by subst hs; rfl)]
    have hmod := congrArg (fun v : Word => v.toNat % 256) hold
    simpa only [BitVec.toNat_ofNat, Nat.mod_mod_of_dvd _ (show 256 ∣ 2 ^ 64 by decide)] using hmod
  exact BitVec.eq_of_toNat_eq hbyte

end Sys2Proof.Machine
end

section
/-! ## The canonical form of the memories, and the outcomes of instructions

`MemInv` says only something of the memories, so an operation that leaves them as they are keeps it by `h` itself. An
instruction or a step answers an outcome; `NextInv` says of it what `MemInv` says of a state. Each operation of the model has one
lemma here, in the order of the model's own text, which follows the operation's branches and cites the lemmas of what it calls. -/

namespace Sys2Proof.Machine

-- One at a time: the lemmas are many and small, and a thread for each would take more memory than they do.
set_option Elab.async false

variable {s : State}

/-- Canonical form is a property of the three memories. -/
theorem MemInv.of_memories {t : State} (h : MemInv s) (hm : t.mem = s.mem) (hh : t.hostMem = s.hostMem) (hf : t.fwMem = s.fwMem) :
    MemInv t := by
  unfold MemInv
  rw [hm, hh, hf]
  exact h

/-- The state that an outcome goes on with, if any, keeps the memories in canonical form. -/
def NextInv (o : Out) : Prop := ∀ t, o = .next t → MemInv t

theorem NextInv.next {t : State} (h : MemInv t) : NextInv (.next t) := fun _ e => Host.Outcome.next.inj e ▸ h

theorem NextInv.fault {f : Fault} : NextInv (.fault f) := fun _ e => by cases e

theorem NextInv.refused {r : Refusal} : NextInv (.refused r) := fun _ e => by cases e

theorem foldl_memInv {α : Type} {f : State → α → State} (hf : ∀ s a, MemInv s → MemInv (f s a)) (xs : List α) (h : MemInv s) :
    MemInv (xs.foldl f s) :=
  List.foldlRecOn xs f h (fun s hs a _ => hf s a hs)

theorem getD_memInv {o : Option State} (ho : ∀ t, o = some t → MemInv t) (h : MemInv s) : MemInv (o.getD s) := by
  cases o with
  | none => exact h
  | some t => exact ho t rfl

end Sys2Proof.Machine
end

section
/-! ## The canonical form of the memories: the operations of the state, the accesses and the traps (R274) -/

namespace Sys2Proof.Machine

-- One at a time: the lemmas are many and small, and a thread for each would take more memory than they do.
set_option Elab.async false

variable {s : State}

theorem State.withCpu_memInv {f} (h : MemInv s) : MemInv (State.withCpu s f) :=
  h

theorem State.withCtl_memInv {f} (h : MemInv s) : MemInv (State.withCtl s f) :=
  h

theorem State.withRegs_memInv {f} (h : MemInv s) : MemInv (State.withRegs s f) :=
  h

theorem State.withTrap_memInv {f} (h : MemInv s) : MemInv (State.withTrap s f) :=
  h

theorem State.withExt_memInv {f} (h : MemInv s) : MemInv (State.withExt s f) :=
  h

theorem State.withMem_memInv {f} (h : MemInv s) : MemInv (State.withMem s f) :=
  h

theorem State.withDev_memInv {f} (h : MemInv s) : MemInv (State.withDev s f) :=
  h

theorem State.withH_memInv {f} (h : MemInv s) : MemInv (State.withH s f) :=
  h

theorem State.withM_memInv {f} (h : MemInv s) : MemInv (State.withM s f) :=
  h

theorem State.waitFor_memInv {w} (h : MemInv s) : MemInv (State.waitFor s w) :=
  h

theorem fresh_memInv (h : MemInv s) : MemInv s.fresh.2 := h

theorem freeWord_memInv (h : MemInv s) : MemInv s.freeWord.2 := h

theorem State.modStrand_memInv {t f} (h : MemInv s) : MemInv (State.modStrand s t f) := by
  unfold State.modStrand
  split <;> exact h

theorem State.modStrands_memInv {f} (h : MemInv s) : MemInv (State.modStrands s f) :=
  h

theorem State.focus_memInv {t} (h : MemInv s) : MemInv (State.focus s t) := by
  unfold State.focus
  split
  · exact h
  · split
    · dsimp only
      exact h
    · exact h

theorem State.leave_memInv (h : MemInv s) : MemInv (State.leave s) := by
  unfold State.leave
  split <;> exact h

theorem State.setTask_memInv {t} (h : MemInv s) : MemInv (State.setTask s t) :=
  h

theorem State.modTask_memInv {tid f} (h : MemInv s) : MemInv (State.modTask s tid f) :=
  h

theorem State.modLaunch_memInv {tn lid f} (h : MemInv s) : MemInv (State.modLaunch s tn lid f) :=
  h

theorem State.modGraph_memInv {tn gid f} (h : MemInv s) : MemInv (State.modGraph s tn gid f) :=
  h

theorem State.setCluster_memInv {c} (h : MemInv s) : MemInv (State.setCluster s c) :=
  h

theorem State.modCluster_memInv {c f} (h : MemInv s) : MemInv (State.modCluster s c f) :=
  State.setCluster_memInv h

theorem State.setTen_memInv {t} (h : MemInv s) : MemInv (State.setTen s t) :=
  h

theorem State.modTen_memInv {n f} (h : MemInv s) : MemInv (State.modTen s n f) :=
  State.setTen_memInv h

theorem State.setTenX_memInv {t} (h : MemInv s) : MemInv (State.setTenX s t) :=
  h

theorem State.modTenX_memInv {n f} (h : MemInv s) : MemInv (State.modTenX s n f) :=
  State.setTenX_memInv h

theorem readAnew_memInv (h : MemInv s) : MemInv (readAnew s) :=
  State.withMem_memInv h

theorem readAnewAt_memInv {vec l n} (h : MemInv s) : MemInv (readAnewAt s vec l n) :=
  State.withMem_memInv h

theorem noteWrite_memInv {l n owner cluster} (h : MemInv s) : MemInv (noteWrite s l n owner cluster) :=
  h

theorem enterRec_memInv {r} (h : MemInv s) : MemInv (enterRec s r) := by
  unfold enterRec
  dsimp only
  exact foldLog_memInv _ h

theorem enterFor_memInv {l bs vis tag ended} (h : MemInv s) : MemInv (enterFor s l bs vis tag ended) :=
  enterRec_memInv h

theorem enterBad_memInv {l n bad} (h : MemInv s) : MemInv (enterBad s l n bad) := by
  unfold enterBad
  split
  · exact h
  · split
    · split
      · exact h
      · exact poisonWords_memInv _ _ _ h
    · exact poisonWords_memInv _ _ _ h

theorem entId_memInv {e} (h : MemInv s) : MemInv (entId s e).2 := by
  unfold entId
  split <;> exact h

theorem cacheEnt_memInv {c e} (h : MemInv s) : MemInv (cacheEnt s c e) := by
  unfold cacheEnt
  dsimp only
  exact h

theorem translate_memInv {c va r w x touch} {k : XOk} (hk : translate s c va r w x touch = .ok k) (h : MemInv s) : MemInv k.s :=
  translate_induction (fun t l bs v g => enterDev_memInv t l bs v g) (fun _ _ => entId_memInv) (fun _ _ _ ht => ht) hk h

theorem refuse_memInv {c va} (h : MemInv s) : MemInv (refuse s c va) := by
  unfold refuse
  dsimp only
  exact h

theorem fresher_memInv {c va f} (h : MemInv s) : MemInv (fresher s c va f).2 := by
  unfold fresher
  split
  · exact refuse_memInv h
  · exact h

theorem waitMig_memInv {va} (h : MemInv s) : MemInv (waitMig s va) := by
  unfold waitMig
  split
  · split
    · exact h
    · exact State.waitFor_memInv h
  · exact State.waitFor_memInv h

theorem checkAccess_memInv {va n r w} {k : XOk} (hk : checkAccess s va n r w = .ok k) (h : MemInv s) : MemInv k.s :=
  checkAccess_induction (fun t l bs v g => enterDev_memInv t l bs v g) (fun _ _ => entId_memInv) (fun _ _ _ ht => ht) hk h

theorem msixFire_memInv {p num} (h : MemInv s) : MemInv (msixFire s p num) := by
  unfold msixFire
  split
  · split <;> exact State.withDev_memInv h
  · exact State.withDev_memInv h

theorem machineLoc_memInv {c va w x} (hx : machineLoc s c va w = .ok x) (h : MemInv s) : MemInv x.2 := by
  unfold machineLoc at hx
  grind [→ translate_memInv]

theorem ringDrop_memInv {tn} (h : MemInv s) : MemInv (ringDrop s tn) :=
  State.modTen_memInv h

theorem ringCount_memInv {tn} (h : MemInv s) : MemInv (ringCount s tn) :=
  State.modTen_memInv h

theorem ringMessage_memInv {tn} (h : MemInv s) : MemInv (ringMessage s tn) := by
  unfold ringMessage
  dsimp only
  split
  · exact msixFire_memInv h
  · exact h

theorem dropWrite_memInv {c va} (h : MemInv s) : MemInv (dropWrite s c va) := by
  unfold dropWrite
  split
  · exact refuse_memInv h
  · exact h

theorem postOne_memInv {w x} (hx : postOne s w = some x) (h : MemInv s) : MemInv x.1 := by
  unfold postOne at hx
  grind [→ machineLoc_memInv, enterWide_memInv, dropWrite_memInv, ringDrop_memInv, ringCount_memInv, ringMessage_memInv, enterDev_memInv,
    State.modGraph_memInv]

theorem postDrop_memInv {w} (h : MemInv s) : MemInv (postDrop s w) := by
  unfold postDrop
  split
  · exact ringDrop_memInv h
  · exact h

theorem post_memInv {ws} (h : MemInv s) : MemInv (post s ws) := by
  unfold post
  split
  · exact h
  · exact State.withDev_memInv h

theorem retryPost_memInv {k} (h : MemInv s) : MemInv (retryPost s k) := by
  unfold retryPost
  split
  · exact h
  · split
    · exact h
    · split
      · exact h
      · split
        · rename_i hx
          exact State.withDev_memInv (postOne_memInv hx h)
        · grind [State.withDev_memInv, postDrop_memInv]

theorem flushPosts_memInv (h : MemInv s) : MemInv (flushPosts s) := by
  unfold flushPosts
  refine State.withDev_memInv (foldl_memInv (fun s w hs => ?_) _ h)
  cases hx : postOne s w with
  | none => exact hs
  | some x => exact postOne_memInv hx hs

theorem ringWrite_memInv {tn e after} (h : MemInv s) : MemInv (ringWrite s tn e after) := by
  unfold ringWrite
  split
  · exact State.withDev_memInv h
  · exact post_memInv h

theorem dropRing_memInv {tn} (h : MemInv s) : MemInv (dropRing s tn) :=
  State.withDev_memInv h

theorem clearRing_memInv {tn} (h : MemInv s) : MemInv (clearRing s tn) :=
  State.modTen_memInv (dropRing_memInv h)

theorem setNet_memInv {o n} (h : MemInv s) : MemInv (setNet s o n) :=
  State.withDev_memInv h

theorem engineWrite_memInv {x l bs} (h : MemInv s) : MemInv (engineWrite s x l bs) :=
  enter_memInv _ _ _ _ _ _ _ _ h

theorem openArea_memInv {x base len} (h : MemInv s) : MemInv (openArea s x base len) := by
  unfold openArea
  grind [MemInv, fresh_memInv]

theorem extendArea_memInv {x} (h : MemInv s) : MemInv (extendArea s x) := by
  unfold extendArea
  dsimp only
  exact h

theorem closeAreas_memInv {t} (h : MemInv s) : MemInv (closeAreas s t) :=
  h

theorem spillWrite_memInv {x l bs} (h : MemInv s) : MemInv (spillWrite s x l bs) := by
  unfold spillWrite
  dsimp only
  exact MemInv.of_memories (engineWrite_memInv h) rfl rfl rfl

theorem resultLocs_memInv {x m rs} {r} (hr : resultLocs x m rs s = some r) (h : MemInv s) : MemInv r.2 := by
  induction rs generalizing s r with
  | nil => grind [resultLocs]
  | cons q qs ih =>
    unfold resultLocs at hr
    grind [→ machineLoc_memInv, Option.map_eq_some_iff]

theorem unbindMerge_memInv {x m} (h : MemInv s) : MemInv (unbindMerge s x m) :=
  State.modStrand_memInv (setNet_memInv (closeAreas_memInv h))

theorem closeMerge_memInv {x} (h : MemInv s) : MemInv (closeMerge s x) := by
  unfold closeMerge
  grind [enter_memInv, post_memInv, → resultLocs_memInv, unbindMerge_memInv, foldl_memInv]

theorem failOne_memInv {c cause n} (h : MemInv s) : MemInv (failOne s c cause n) := by
  unfold failOne
  grind [MemInv, freeWord_memInv, State.modGraph_memInv, State.modStrand_memInv]

theorem failCopy_memInv {uid cause n} (h : MemInv s) : MemInv (failCopy s uid cause n) := by
  unfold failCopy
  split
  · exact h
  · dsimp only
    exact foldl_memInv (fun _ _ => failOne_memInv) _ (failOne_memInv h)

theorem failTaskCopies_memInv {tid cause} (h : MemInv s) : MemInv (failTaskCopies s tid cause) := by
  unfold failTaskCopies
  grind [MemInv, failCopy_memInv, foldl_memInv]

theorem freeSlots_memInv {t} (h : MemInv s) : MemInv (freeSlots s t) := by
  unfold freeSlots
  grind [MemInv, failCopy_memInv, foldl_memInv]

theorem dropWhere_memInv {p} (h : MemInv s) : MemInv (dropWhere s p) := by
  unfold dropWhere
  dsimp only
  exact State.withDev_memInv h

theorem dropEdges_memInv {t} (h : MemInv s) : MemInv (dropEdges s t) := by
  unfold dropEdges
  split
  · exact h
  · dsimp only
    exact dropWhere_memInv h

theorem leaveWindow_memInv {x} (h : MemInv s) : MemInv (leaveWindow s x) := by
  unfold leaveWindow
  split
  · split
    · exact h
    · dsimp only
      exact State.modStrand_memInv h
  · exact h

theorem retireIds_memInv {tid} (h : MemInv s) : MemInv (retireIds s tid) := by
  unfold retireIds
  grind [MemInv, fresh_memInv]

theorem chargeLaunch_memInv {t us} (h : MemInv s) : MemInv (chargeLaunch s t us) :=
  State.modLaunch_memInv h

theorem releaseTask_memInv {t copyCause} (h : MemInv s) : MemInv (releaseTask s t copyCause) := by
  unfold releaseTask
  dsimp only
  refine freeSlots_memInv ?_
  refine dropEdges_memInv ?_
  split
  · exact failTaskCopies_memInv (MemInv.of_memories (foldl_memInv (fun _ _ => closeMerge_memInv) _ h) rfl rfl rfl)
  · exact MemInv.of_memories (foldl_memInv (fun _ _ => closeMerge_memInv) _ h) rfl rfl rfl

theorem disown_memInv {t} (h : MemInv s) : MemInv (disown s t) := by
  unfold disown
  dsimp only
  exact foldLog_memInv _ h

theorem orphan_memInv {tid} (h : MemInv s) : MemInv (orphan s tid) := by
  unfold orphan
  dsimp only
  exact h

theorem endTask_memInv {tid status copyCause frameVal} (h : MemInv s) : MemInv (endTask s tid status copyCause frameVal) := by
  unfold endTask
  grind [MemInv, orphan_memInv, disown_memInv, releaseTask_memInv, chargeLaunch_memInv, retireIds_memInv, leaveWindow_memInv, post_memInv,
    State.modLaunch_memInv, State.leave_memInv, foldl_memInv]

theorem restartRoot_memInv {tn code cause} (h : MemInv s) : MemInv (restartRoot s tn code cause) := by
  unfold restartRoot
  split
  · exact h
  · dsimp only
    exact State.modStrand_memInv (State.setTask_memInv (MemInv.of_memories (releaseTask_memInv h) rfl rfl rfl))

theorem endLse_memInv {tid pc va} (h : MemInv s) : MemInv (endLse s tid pc va) := by
  unfold endLse
  split
  · exact h
  · dsimp only
    exact ringWrite_memInv (endTask_memInv h)

theorem doubleFault_memInv {x cause tval tepc} (h : MemInv s) : MemInv (doubleFault s x cause tval tepc) := by
  unfold doubleFault
  split
  · exact State.modStrand_memInv h
  · split
    · split
      · exact restartRoot_memInv h
      · dsimp only
        exact ringWrite_memInv (endTask_memInv h)
    · exact h
  · exact h

end Sys2Proof.Machine
end

section
/-! ## The canonical form of the memories: translation, the life of strands, tasks and tenants, the ring of interrupts -/

namespace Sys2Proof.Machine

-- One at a time: the lemmas are many and small, and a thread for each would take more memory than they do.
set_option Elab.async false

variable {s : State}

theorem finishEntry_memInv {c e b r p fl} (h : MemInv s) : MemInv (finishEntry s c e b r p fl) := by
  unfold finishEntry
  dsimp only
  exact State.modCluster_memInv (State.modStrand_memInv h)

theorem fillEntry_memInv {c e b fl} (h : MemInv s) : MemInv (fillEntry s c e b fl) := by
  unfold fillEntry
  dsimp only
  exact finishEntry_memInv h

theorem faultEntryWith_memInv {c e b cause} (h : MemInv s) : MemInv (faultEntryWith s c e b cause) :=
  finishEntry_memInv h

theorem resolveGo_memInv {c n} (h : MemInv s) : MemInv (resolveGo c n s) := by
  induction n generalizing s with
  | zero => exact h
  | succ n ih =>
    unfold resolveGo
    grind [faultEntryWith_memInv]

theorem resolveFaulted_memInv {c} (h : MemInv s) : MemInv (resolveFaulted s c) :=
  resolveGo_memInv h

theorem faultEntry_memInv {c id cause} (h : MemInv s) : MemInv (faultEntry s c id cause) := by
  unfold faultEntry
  dsimp only
  split
  · split
    · split
      · exact State.leave_memInv (MemInv.of_memories (resolveFaulted_memInv (faultEntryWith_memInv h)) rfl rfl rfl)
      · exact MemInv.of_memories (resolveFaulted_memInv (faultEntryWith_memInv h)) rfl rfl rfl
    · split
      · exact State.leave_memInv (MemInv.of_memories (resolveFaulted_memInv (faultEntryWith_memInv h)) rfl rfl rfl)
      · exact MemInv.of_memories (resolveFaulted_memInv (faultEntryWith_memInv h)) rfl rfl rfl
  · split
    · split
      · exact State.leave_memInv (MemInv.of_memories h rfl rfl rfl)
      · exact MemInv.of_memories h rfl rfl rfl
    · split
      · exact State.leave_memInv (MemInv.of_memories h rfl rfl rfl)
      · exact MemInv.of_memories h rfl rfl rfl

theorem takeTrapAt_memInv {cause tval tepc} (h : MemInv s) : MemInv (takeTrapAt s cause tval tepc) := by
  unfold takeTrapAt
  split
  · exact faultEntry_memInv h
  · exact h
  · split
    · exact doubleFault_memInv h
    · exact h

theorem trap_nextInv {cause tval} (h : MemInv s) : NextInv (trap s cause tval) :=
  .next (takeTrapAt_memInv h)

theorem ill_nextInv {w} (h : MemInv s) : NextInv (ill s w) :=
  trap_nextInv h

theorem fmtTrap_nextInv {tval} (h : MemInv s) : NextInv (fmtTrap s tval) :=
  trap_nextInv h

theorem leaseEnd_memInv {va} (h : MemInv s) : MemInv (leaseEnd s va) := by
  unfold leaseEnd
  split
  · exact faultEntry_memInv h
  · exact endLse_memInv h
  · exact h

theorem stopAt_nextInv {va w} (h : MemInv s) : NextInv (stopAt s va w) := by
  unfold stopAt
  split
  · exact trap_nextInv h
  · exact trap_nextInv (refuse_memInv h)
  · exact .next (leaseEnd_memInv h)
  · exact .next (State.waitFor_memInv h)
  · exact .next (waitMig_memInv h)

theorem needLevel_nextInv {w l k} (h : MemInv s) (hk : NextInv k) : NextInv (needLevel s w l k) := by
  unfold needLevel
  split
  · exact trap_nextInv h
  · exact hk

theorem notThaw_nextInv {w k} (h : MemInv s) (hk : NextInv k) : NextInv (notThaw s w k) := by
  unfold notThaw
  split
  · exact ill_nextInv h
  · exact hk

theorem taskOnly_nextInv {w k} (h : MemInv s) (hk : NextInv k) : NextInv (taskOnly s w k) := by
  unfold taskOnly
  split
  · exact hk
  · exact ill_nextInv h

theorem complete_memInv (h : MemInv s) : MemInv (complete s) :=
  h

theorem completeAt_memInv {t} (h : MemInv s) : MemInv (completeAt s t) :=
  h

theorem branchTo_memInv {t} (h : MemInv s) : MemInv (branchTo s t) :=
  completeAt_memInv (State.withCtl_memInv h)

theorem accrue_memInv {fl} (h : MemInv s) : MemInv (accrue s fl) :=
  State.withCtl_memInv h

theorem setSreg_memInv {r v} (h : MemInv s) : MemInv (setSreg s r v) := by
  unfold setSreg
  split
  · exact h
  · exact State.withRegs_memInv (State.withMem_memInv h)

theorem partnerAnew_memInv (h : MemInv s) : MemInv (partnerAnew s) := by
  unfold partnerAnew
  dsimp only
  exact h

theorem modQueues_memInv {f} (h : MemInv s) : MemInv (modQueues s f) := by
  unfold modQueues
  split
  · exact partnerAnew_memInv (State.modTask_memInv h)
  · exact h

theorem waitQueue_nextInv {code} (h : MemInv s) : NextInv (waitQueue s code) := by
  unfold waitQueue
  split <;> exact .next (State.waitFor_memInv h)

theorem portGate_nextInv {w rs dst k} (h : MemInv s) (hk : NextInv k) : NextInv (portGate s w rs dst k) := by
  unfold portGate
  dsimp only
  split
  · split
    · exact ill_nextInv h
    · exact hk
  · split
    · exact ill_nextInv h
    · exact hk

theorem readS_nextInv {w rs dst k} (h : MemInv s) (hk : ∀ vs, NextInv (k vs)) : NextInv (readS s w rs dst k) := by
  unfold readS
  refine portGate_nextInv h ?_
  split
  · exact .next (State.waitFor_memInv h)
  · split
    · split
      · exact trap_nextInv h
      · exact hk _
    · dsimp only
      split
      · exact waitQueue_nextInv h
      · split
        · exact waitQueue_nextInv h
        · split
          · exact trap_nextInv h
          · exact hk _

theorem popPorts_memInv {rs} (h : MemInv s) : MemInv (popPorts s rs) := by
  unfold popPorts
  split
  · exact h
  · refine foldl_memInv (fun _ _ hx => ?_) _ h
    split
    · exact modQueues_memInv hx
    · exact hx

theorem writeS_memInv {d v} (h : MemInv s) : MemInv (writeS s d v) := by
  unfold writeS
  split
  · exact setSreg_memInv h
  · exact modQueues_memInv h

theorem retire_nextInv {rs d v} (h : MemInv s) : NextInv (retire s rs d v) :=
  .next (complete_memInv (writeS_memInv (popPorts_memInv h)))

theorem setDep_memInv {d n} (h : MemInv s) : MemInv (setDep s d n) := by
  unfold setDep
  split
  · exact h
  · exact State.withMem_memInv h

theorem retireOf_nextInv {rs d v} (h : MemInv s) : NextInv (retireOf s rs d v) :=
  .next (setDep_memInv (complete_memInv (writeS_memInv (popPorts_memInv h))))

theorem retire0_nextInv {rs} (h : MemInv s) : NextInv (retire0 s rs) :=
  .next (complete_memInv (popPorts_memInv h))

theorem scalar2_nextInv {word d a b f} (h : MemInv s) : NextInv (scalar2 s word d a b f) :=
  readS_nextInv h (fun _ => retireOf_nextInv h)

theorem scalar1_nextInv {word d a f} (h : MemInv s) : NextInv (scalar1 s word d a f) :=
  readS_nextInv h (fun _ => retireOf_nextInv h)

theorem branch_nextInv {word a b o p} (h : MemInv s) : NextInv (branch s word a b o p) := by
  unfold branch
  refine readS_nextInv h (fun _ => ?_)
  split
  · exact .next (branchTo_memInv (popPorts_memInv h))
  · exact retire0_nextInv h

theorem execJalr_nextInv {d a i} (h : MemInv s) : NextInv (execJalr d a i s) := by
  unfold execJalr
  refine readS_nextInv h (fun _ => ?_)
  dsimp only
  split
  · exact trap_nextInv h
  · exact .next (completeAt_memInv (writeS_memInv (popPorts_memInv h)))

theorem setLoop_memInv {n l} (h : MemInv s) : MemInv (setLoop s n l) :=
  State.withCtl_memInv h

theorem loopStart_memInv {n count endoff} (h : MemInv s) : MemInv (loopStart s n count endoff) := by
  unfold loopStart
  dsimp only
  split
  · exact completeAt_memInv (setLoop_memInv h)
  · exact complete_memInv (setLoop_memInv h)

theorem execVloop_nextInv {n a e} (h : MemInv s) : NextInv (execVloop n a e s) := by
  unfold execVloop
  refine readS_nextInv h (fun _ => ?_)
  dsimp only
  split
  · exact .next (completeAt_memInv (State.withCtl_memInv (setLoop_memInv (popPorts_memInv h))))
  · exact .next (complete_memInv (State.withCtl_memInv (State.withCtl_memInv (setLoop_memInv (popPorts_memInv h)))))

theorem execBqput_nextInv {a} (h : MemInv s) : NextInv (execBqput a s) := by
  unfold execBqput
  split
  · exact ill_nextInv h
  · refine readS_nextInv h (fun _ => ?_)
    split
    · exact waitQueue_nextInv h
    · exact .next (complete_memInv (modQueues_memInv (popPorts_memInv h)))

theorem execBqb_nextInv {o} (h : MemInv s) : NextInv (execBqb o s) := by
  unfold execBqb
  split
  · exact ill_nextInv h
  · split
    · exact waitQueue_nextInv h
    · dsimp only
      split
      · exact .next (branchTo_memInv (modQueues_memInv h))
      · exact .next (complete_memInv (modQueues_memInv h))

theorem setMr_memInv {v} (h : MemInv s) : MemInv (setMr s v) :=
  State.withCtl_memInv h

theorem execMode_nextInv {i} (h : MemInv s) : NextInv (execMode i s) := by
  unfold execMode
  split
  · exact .next (complete_memInv (setMr_memInv h))
  · exact ill_nextInv h

theorem execMrWrite_nextInv {v} (h : MemInv s) : NextInv (execMrWrite v s) := by
  unfold execMrWrite
  split
  · exact .next (complete_memInv (setMr_memInv h))
  · exact trap_nextInv h

theorem takeInterrupt_memInv {b} (h : MemInv s) : MemInv (takeInterrupt s b) :=
  takeTrapAt_memInv h

theorem execHalt_nextInv (h : MemInv s) : NextInv (execHalt s) := by
  unfold execHalt
  refine needLevel_nextInv h ?_
  split
  · exact .next (complete_memInv h)
  · exact .next (State.waitFor_memInv h)

theorem execWfi_nextInv (h : MemInv s) : NextInv (execWfi s) := by
  unfold execWfi
  refine notThaw_nextInv h ?_
  refine needLevel_nextInv h ?_
  split
  · exact .next (complete_memInv h)
  · exact .next (State.waitFor_memInv h)

theorem loadLater_nextInv {rs d l n signed} (h : MemInv s) : NextInv (loadLater s rs d l n signed) := by
  unfold loadLater
  dsimp only [State.fresh]
  exact .next (complete_memInv (State.withMem_memInv (popPorts_memInv (State.withDev_memInv (readAnewAt_memInv h)))))

theorem loadNow_nextInv {d a va l n signed} (h : MemInv s) : NextInv (loadNow s d a va l n signed) := by
  unfold loadNow
  split
  · exact trap_nextInv h
  · exact retire_nextInv (readAnewAt_memInv h)

theorem load_nextInv {word d a o n signed} (h : MemInv s) : NextInv (load s word d a o n signed) := by
  unfold load
  refine readS_nextInv h (fun _ => ?_)
  dsimp only
  split
  · exact stopAt_nextInv h
  · split
    · exact loadLater_nextInv (checkAccess_memInv ‹_› h)
    · split
      · exact .next (State.waitFor_memInv h)
      · exact loadNow_nextInv (checkAccess_memInv ‹_› h)

theorem startTrain_memInv {d win elems addFmt closed vec ordered amo part} (h : MemInv s) :
    MemInv (startTrain s d win elems addFmt closed vec ordered amo part) := by
  unfold startTrain
  dsimp only [State.fresh]
  exact State.withMem_memInv (State.withDev_memInv h)

theorem putStore_memInv {loc bs va} (h : MemInv s) : MemInv (putStore s loc bs va) := by
  unfold putStore
  split
  · exact startTrain_memInv h
  · dsimp only [State.fresh]
    exact State.withMem_memInv (State.withDev_memInv (readAnewAt_memInv h))

theorem putLate_memInv {l n src} (h : MemInv s) : MemInv (putLate s l n src) := by
  unfold putLate
  dsimp only [State.fresh]
  exact State.withMem_memInv (State.withDev_memInv (readAnewAt_memInv h))

theorem store_nextInv {word d a o n} (h : MemInv s) : NextInv (store s word d a o n) := by
  unfold store
  refine notThaw_nextInv h ?_
  refine readS_nextInv h (fun _ => ?_)
  dsimp only
  split
  · exact stopAt_nextInv h
  · split
    · exact trap_nextInv h
    · split
      · exact .next (State.waitFor_memInv h)
      · exact retire0_nextInv (putStore_memInv (checkAccess_memInv ‹_› h))

theorem prefetch_nextInv {word a} (h : MemInv s) : NextInv (prefetch s word a) := by
  unfold prefetch
  refine portGate_nextInv h ?_
  split
  · exact .next (State.waitFor_memInv h)
  · split
    · exact retire0_nextInv h
    · split
      · exact waitQueue_nextInv h
      · exact retire0_nextInv h

theorem drawTicket_memInv (h : MemInv s) : MemInv (drawTicket s) :=
  State.withDev_memInv h

theorem amoOrdered_memInv {w} (h : MemInv s) : MemInv (amoOrdered s w) := by
  unfold amoOrdered
  split
  · exact readAnew_memInv h
  · exact readAnew_memInv h
  · exact h

theorem amoMove_memInv {x ord r loc v cmp} (h : MemInv s) : MemInv (amoMove s x ord r loc v cmp).2 := by
  unfold amoMove
  grind [enter_memInv]

theorem amoOne_memInv {x ord r loc v cmp sum} (h : MemInv s) : MemInv (amoOne s x ord r loc v cmp sum).2 := by
  unfold amoOne
  split
  · exact enter_memInv _ _ _ _ _ _ _ _ h
  · exact amoMove_memInv h

theorem relFence_memInv {o loc} (h : MemInv s) : MemInv (relFence s o loc) := by
  unfold relFence
  split
  · dsimp only [State.fresh]
    exact State.withMem_memInv (State.withDev_memInv h)
  · exact h

theorem amoLater_nextInv {r loc va v cmp} (h : MemInv s) : NextInv (amoLater s r loc va v cmp) := by
  unfold amoLater
  dsimp only [State.fresh]
  exact .next (complete_memInv (State.withMem_memInv (popPorts_memInv (State.withDev_memInv (readAnewAt_memInv (relFence_memInv h))))))

theorem amo_nextInv {word r sum} (h : MemInv s) : NextInv (amo s word r sum) := by
  unfold amo
  refine notThaw_nextInv h (readS_nextInv h fun vs => ?_)
  dsimp only
  split
  · exact .next h
  · split
    · exact stopAt_nextInv h
    · rename_i k hk
      have hks := checkAccess_memInv hk h
      split
      · grind [NextInv, startTrain_memInv, State.waitFor_memInv]
      · have hord := fresh_memInv hks
        grind [NextInv, State.waitFor_memInv, State.withMem_memInv, amoLater_nextInv, trap_nextInv, retire_nextInv, amoOrdered_memInv,
          readAnewAt_memInv,
          amoOne_memInv, drawTicket_memInv, fresh_memInv]

theorem amoAgain_nextInv {r} (h : MemInv s) : NextInv (amoAgain s r) :=
  amo_nextInv h

theorem dropStale_memInv {sc} (h : MemInv s) : MemInv (dropStale s sc) :=
  readAnew_memInv h

theorem fence_nextInv {k sc} (h : MemInv s) : NextInv (fence s k sc) := by
  unfold fence
  split
  · exact .next (State.waitFor_memInv h)
  · refine .next ?_
    refine complete_memInv ?_
    split
    · exact h
    · exact drawTicket_memInv (dropStale_memInv h)
    · exact dropStale_memInv h

theorem goPast_memInv {drain sc} (h : MemInv s) : MemInv (goPast s drain sc) := by
  unfold goPast
  dsimp only [State.fresh]
  refine complete_memInv ?_
  refine State.withMem_memInv ?_
  refine State.withDev_memInv ?_
  split
  · exact State.withMem_memInv h
  · exact h

theorem execVdrain_nextInv {sc} (h : MemInv s) : NextInv (execVdrain sc s) := by
  unfold execVdrain
  split
  · exact .next (complete_memInv (State.withMem_memInv h))
  · exact .next (State.waitFor_memInv h)

theorem execMmon_nextInv {a} (h : MemInv s) : NextInv (execMmon a s) := by
  unfold execMmon
  refine notThaw_nextInv h ?_
  refine readS_nextInv h (fun _ => ?_)
  dsimp only
  split
  · exact stopAt_nextInv h
  · exact retire0_nextInv (State.withExt_memInv (checkAccess_memInv ‹_› h))

theorem execMwait_nextInv {d a} (h : MemInv s) : NextInv (execMwait d a s) := by
  unfold execMwait
  grind [NextInv, notThaw_nextInv, readS_nextInv, State.waitFor_memInv, retire_nextInv, → checkAccess_memInv, readAnew_memInv,
    stopAt_nextInv, trap_nextInv]

theorem barArrive_memInv {x l} (h : MemInv s) : MemInv (barArrive s x l) := by
  unfold barArrive
  split
  · exact State.modStrand_memInv h
  · exact h

theorem barRelease_memInv {t l} (h : MemInv s) : MemInv (barRelease s t l) := by
  unfold barRelease
  dsimp only
  exact h

theorem execBar_nextInv {l} (h : MemInv s) : NextInv (execBar l s) := by
  unfold execBar
  grind [NextInv, notThaw_nextInv, complete_memInv, dropStale_memInv, State.withExt_memInv, barArrive_memInv, barRelease_memInv,
    State.waitFor_memInv]

end Sys2Proof.Machine
end

section
/-! ## The canonical form of the memories: operands, the scalar forms and the control of a strand -/

namespace Sys2Proof.Machine

-- One at a time: the lemmas are many and small, and a thread for each would take more memory than they do.
set_option Elab.async false

variable {s : State}

theorem setVreg_memInv {r v} (h : MemInv s) : MemInv (setVreg s r v) :=
  State.withRegs_memInv (State.withMem_memInv h)

theorem setMreg_memInv {r v} (h : MemInv s) : MemInv (setMreg s r v) := by
  unfold setMreg
  split
  · exact h
  · exact State.withRegs_memInv h

theorem setVstart_memInv {n} (h : MemInv s) : MemInv (setVstart s n) :=
  State.withCtl_memInv h

theorem fmtGate_nextInv {admits tags widths k} (h : MemInv s) (hk : NextInv k) : NextInv (fmtGate s admits tags widths k) := by
  unfold fmtGate
  split
  · exact fmtTrap_nextInv h
  · exact hk

theorem readOps_nextInv {word rs dst room k} (h : MemInv s) (hk : ∀ vs, NextInv (k vs)) : NextInv (readOps s word rs dst room k) := by
  rcases readOps_cases s word rs dst room k with ⟨x, e⟩ | ⟨v, e⟩ | e | ⟨vs, e⟩ <;> rw [e]
  · exact .next h
  · exact trap_nextInv h
  · exact ill_nextInv h
  · exact hk vs

theorem popOps_memInv {rs} (h : MemInv s) : MemInv (popOps s rs) := by
  unfold popOps
  grind [modQueues_memInv, foldl_memInv]

theorem needV_nextInv {ns k} (h : MemInv s) (hk : NextInv k) : NextInv (needV s ns k) := by
  unfold needV
  split
  · split
    · exact trap_nextInv h
    · exact hk
  · exact .next (State.waitFor_memInv h)

theorem needM_nextInv {ms k} (h : MemInv s) (hk : NextInv k) : NextInv (needM s ms k) := by
  unfold needM
  split
  · exact trap_nextInv h
  · exact hk

theorem loseEls_memInv {dst w is} (h : MemInv s) : MemInv (loseEls s dst w is) :=
  State.modCluster_memInv h

theorem claim_memInv {d w is} (h : MemInv s) : MemInv (claim s d w is) := by
  unfold claim
  dsimp only
  split
  · exact h
  · split
    · exact loseEls_memInv h
    · exact setVreg_memInv (loseEls_memInv h)

theorem setStaged_memInv {v} (h : MemInv s) : MemInv (setStaged s v) :=
  h

theorem dropStaged_memInv (h : MemInv s) : MemInv (dropStaged s) :=
  h

theorem beginStaged_memInv {v} (h : MemInv s) : MemInv (beginStaged s v) := by
  unfold beginStaged
  dsimp only
  refine setStaged_memInv ?_
  split
  · exact State.modCluster_memInv h
  · exact h

theorem keepAside_memInv {d} (h : MemInv s) : MemInv (keepAside s d) := by
  unfold keepAside
  dsimp only
  split
  · exact beginStaged_memInv h
  · exact State.modCluster_memInv (beginStaged_memInv h)

theorem blankImage_memInv {tag} (h : MemInv s) : MemInv (blankImage s tag).2 := h

theorem pushV_memInv {d v} (h : MemInv s) : MemInv (pushV s d v) :=
  modQueues_memInv (dropStaged_memInv h)

theorem putV_memInv {d w tag xs side} (h : MemInv s) : MemInv (putV s d w tag xs side) := by
  unfold putV
  grind [blankImage_memInv, pushV_memInv, claim_memInv, setVreg_memInv]

theorem vdone_memInv {rs} (h : MemInv s) : MemInv (vdone s rs) :=
  complete_memInv (setVstart_memInv (popOps_memInv h))

theorem writeV_nextInv {rs d w tag xs side fl} (h : MemInv s) : NextInv (writeV s rs d w tag xs side fl) := by
  unfold writeV
  split
  · exact .next (State.waitFor_memInv h)
  · exact .next (vdone_memInv (putV_memInv (accrue_memInv h)))

theorem writeSv_nextInv {rs d v} (h : MemInv s) : NextInv (writeSv s rs d v) :=
  .next (vdone_memInv (writeS_memInv h))

theorem joinDiv_memInv (h : MemInv s) : MemInv (joinDiv s) :=
  State.modCluster_memInv h

theorem leaveDiv_memInv (h : MemInv s) : MemInv (leaveDiv s) := by
  unfold leaveDiv
  split
  · exact State.modCluster_memInv h
  · exact h

theorem addEntry_memInv {k dst i replay os} (h : MemInv s) : MemInv (addEntry s k dst i replay os) := by
  unfold addEntry
  dsimp only [State.fresh]
  exact State.modCluster_memInv (State.withDev_memInv h)

theorem issueGroup_memInv {k d base lo behind t} (ht : issueGroup s k d base lo behind = .done t) (h : MemInv s) : MemInv t :=
  have hv := issueGroup_vframe ht
  ⟨hv.mem ▸ h.1, hv.hostMem ▸ h.2.1, hv.fwMem ▸ h.2.2⟩

theorem chainDone_memInv {rs} (h : MemInv s) : MemInv (chainDone s rs) :=
  State.withCpu_memInv (vdone_memInv h)

theorem chainEnd_nextInv {desc p rs n} (h : MemInv s) : NextInv (chainEnd s desc p rs n) := by
  unfold chainEnd
  split
  · split
    · exact .next (chainDone_memInv h)
    · split
      · exact .next (State.waitFor_memInv (setVstart_memInv h))
      · split
        · exact waitQueue_nextInv (setVstart_memInv h)
        · exact .next (chainDone_memInv (pushV_memInv h))
  · refine .next ?_
    refine chainDone_memInv ?_
    split
    · exact dropStaged_memInv h
    · exact h

theorem scanGroups_memInv {k d base gs budget} {r : Scan} (h : MemInv r.s) : MemInv (scanGroups k d base gs budget r).s :=
  have hv := scanGroups_vframe k d base gs budget r
  ⟨hv.mem ▸ h.1, hv.hostMem ▸ h.2.1, hv.fwMem ▸ h.2.2⟩

theorem issueGroups_nextInv {k desc rs p budget} (h : MemInv s) : NextInv (issueGroups s k desc rs p budget) := by
  unfold issueGroups
  dsimp only
  split
  · exact chainEnd_nextInv (leaveDiv_memInv (scanGroups_memInv h))
  · split
    · exact trap_nextInv (setVstart_memInv (leaveDiv_memInv (scanGroups_memInv h)))
    · refine .next ?_
      refine State.waitFor_memInv ?_
      refine setVstart_memInv ?_
      split
      · exact joinDiv_memInv (scanGroups_memInv h)
      · exact leaveDiv_memInv (scanGroups_memInv h)

theorem chainRun_nextInv {k desc rs budget} (h : MemInv s) : NextInv (chainRun s k desc rs budget) := by
  unfold chainRun
  grind [NextInv, chainEnd_nextInv, complete_memInv, setVstart_memInv, blankImage_memInv, beginStaged_memInv, issueGroups_nextInv,
    State.waitFor_memInv, trap_nextInv, keepAside_memInv]

theorem chain_nextInv {word x budget} (h : MemInv s) : NextInv (chain s word x budget) := by
  unfold chain
  refine taskOnly_nextInv h ?_
  refine readOps_nextInv h (fun _ => ?_)
  dsimp only
  refine fmtGate_nextInv h ?_
  split
  · exact fmtTrap_nextInv h
  · exact needM_nextInv h (chainRun_nextInv h)

theorem varith_nextInv {word f d a b} (h : MemInv s) : NextInv (varith s word f d a b) :=
  chain_nextInv h

theorem readDesc_memInv {va n acc r} (hr : readDesc s va n acc = .ok r) (h : MemInv s) : MemInv r.2 := by
  induction n generalizing s va acc with
  | zero => grind [readDesc]
  | succ n ih =>
    unfold readDesc at hr
    grind [→ checkAccess_memInv]

theorem execVapply_nextInv {d a b} (h : MemInv s) : NextInv (execVapply d a b s) := by
  unfold execVapply
  grind [chain_nextInv, taskOnly_nextInv, readOps_nextInv, fmtGate_nextInv, fmtTrap_nextInv, → readDesc_memInv, stopAt_nextInv]

theorem setVl_memInv {req} (h : MemInv s) : MemInv (setVl s req).2 := h

theorem execSetvl_nextInv {d a} (h : MemInv s) : NextInv (execSetvl d a s) := by
  unfold execSetvl
  dsimp only
  exact taskOnly_nextInv h (readS_nextInv h (fun _ => retire_nextInv (setVl_memInv h)))

theorem execSetvli_nextInv {d i} (h : MemInv s) : NextInv (execSetvli d i s) := by
  unfold execSetvli
  dsimp only
  exact taskOnly_nextInv h (readS_nextInv h (fun _ => retire_nextInv (setVl_memInv h)))

theorem whole_nextInv {word rs dst k} (h : MemInv s) (hk : ∀ vs, NextInv (k vs)) : NextInv (whole s word rs dst k) :=
  taskOnly_nextInv h (readOps_nextInv h hk)

theorem writeVl_nextInv {rs d w tag xs side fl} (h : MemInv s) : NextInv (writeVl s rs d w tag xs side fl) := by
  unfold writeVl
  split
  · exact .next (vdone_memInv h)
  · exact writeV_nextInv h

theorem countMicro_memInv {w n} (h : MemInv s) : MemInv (countMicro s w n) := by
  unfold countMicro
  dsimp only
  exact State.withCpu_memInv h

theorem vcmp_nextInv {word c d a b} (h : MemInv s) : NextInv (vcmp s word c d a b) := by
  unfold vcmp
  dsimp only
  refine whole_nextInv h (fun _ => ?_)
  refine fmtGate_nextInv h ?_
  split
  · exact .next (complete_memInv (setVstart_memInv h))
  · exact needV_nextInv h (needM_nextInv h (.next (chainDone_memInv (setMreg_memInv (accrue_memInv (countMicro_memInv h))))))

theorem execVcvt_nextInv {d a} (h : MemInv s) : NextInv (execVcvt d a s) := by
  unfold execVcvt
  grind [NextInv, whole_nextInv, fmtTrap_nextInv, fmtGate_nextInv, complete_memInv, setVstart_memInv, needV_nextInv, needM_nextInv,
    State.waitFor_memInv, chainDone_memInv, putV_memInv, accrue_memInv, countMicro_memInv]

theorem execVquant_nextInv {d a} (h : MemInv s) : NextInv (execVquant d a s) := by
  unfold execVquant
  refine whole_nextInv h (fun _ => ?_)
  dsimp only
  split
  · exact fmtTrap_nextInv h
  · split
    · exact fmtTrap_nextInv h
    · exact fmtGate_nextInv h (needV_nextInv h (writeVl_nextInv h))

theorem execVhad_nextInv {d a k} (h : MemInv s) : NextInv (execVhad d a k s) := by
  unfold execVhad
  refine whole_nextInv h (fun _ => ?_)
  dsimp only
  refine fmtGate_nextInv h ?_
  split
  · exact fmtTrap_nextInv h
  · exact needV_nextInv h (writeVl_nextInv h)

theorem execVsclget_nextInv {d a} (h : MemInv s) : NextInv (execVsclget d a s) := by
  unfold execVsclget
  refine whole_nextInv h (fun _ => ?_)
  dsimp only
  split
  · exact .next (State.waitFor_memInv h)
  · split
    · exact trap_nextInv h
    · exact writeV_nextInv h

theorem execVsclset_nextInv {d a} (h : MemInv s) : NextInv (execVsclset d a s) := by
  unfold execVsclset
  refine whole_nextInv h (fun _ => ?_)
  dsimp only
  refine fmtGate_nextInv h ?_
  split
  · exact .next (State.waitFor_memInv h)
  · split
    · exact trap_nextInv h
    · exact writeVl_nextInv h

theorem permute_nextInv {rs d ns masks mv} (h : MemInv s) : NextInv (permute s rs d ns masks mv) := by
  unfold permute
  dsimp only
  exact fmtGate_nextInv h (needV_nextInv h (needM_nextInv h (writeVl_nextInv h)))

theorem execVperm_nextInv {d a b} (h : MemInv s) : NextInv (execVperm d a b s) := by
  unfold execVperm
  dsimp only
  refine whole_nextInv h (fun _ => ?_)
  split
  · exact fmtTrap_nextInv h
  · split
    · exact fmtTrap_nextInv h
    · exact fmtGate_nextInv h (needV_nextInv h (needM_nextInv h (writeVl_nextInv h)))

theorem execVslideup_nextInv {d a b} (h : MemInv s) : NextInv (execVslideup d a b s) := by
  unfold execVslideup
  dsimp only
  exact whole_nextInv h (fun _ => permute_nextInv h)

theorem execVslidedn_nextInv {d a b} (h : MemInv s) : NextInv (execVslidedn d a b s) := by
  unfold execVslidedn
  dsimp only
  exact whole_nextInv h (fun _ => permute_nextInv h)

theorem execVcompress_nextInv {d a b} (h : MemInv s) : NextInv (execVcompress d a b s) := by
  unfold execVcompress
  dsimp only
  exact whole_nextInv h (fun _ => permute_nextInv h)

theorem execVexpand_nextInv {d a b} (h : MemInv s) : NextInv (execVexpand d a b s) := by
  unfold execVexpand
  dsimp only
  exact whole_nextInv h (fun _ => permute_nextInv h)

theorem execVzip_nextInv {d a b} (h : MemInv s) : NextInv (execVzip d a b s) := by
  unfold execVzip
  dsimp only
  exact whole_nextInv h (fun _ => permute_nextInv h)

theorem execVunzip_nextInv {d a b} (h : MemInv s) : NextInv (execVunzip d a b s) := by
  unfold execVunzip
  dsimp only
  exact whole_nextInv h (fun _ => permute_nextInv h)

theorem execVext_nextInv {d a b} (h : MemInv s) : NextInv (execVext d a b s) := by
  unfold execVext
  dsimp only
  refine whole_nextInv h (fun _ => ?_)
  refine fmtGate_nextInv h ?_
  split
  · exact writeSv_nextInv h
  · split
    · exact .next (State.waitFor_memInv h)
    · split
      · exact trap_nextInv h
      · exact writeSv_nextInv h

theorem execVins_nextInv {d a b} (h : MemInv s) : NextInv (execVins d a b s) := by
  unfold execVins
  dsimp only
  refine whole_nextInv h (fun _ => ?_)
  refine fmtGate_nextInv h ?_
  split
  · exact .next (State.waitFor_memInv h)
  · exact writeV_nextInv h

theorem execVmv_nextInv {d a} (h : MemInv s) : NextInv (execVmv d a s) := by
  unfold execVmv
  refine whole_nextInv h (fun _ => ?_)
  dsimp only
  refine needV_nextInv h ?_
  split
  · exact .next (vdone_memInv (pushV_memInv h))
  · exact .next (vdone_memInv (setVreg_memInv (claim_memInv h)))

theorem redPrep_nextInv {op d a av k} (h : MemInv s) (hk : ∀ xs fl, NextInv (k xs fl)) : NextInv (redPrep s op d a av k) := by
  unfold redPrep
  exact fmtGate_nextInv h (needV_nextInv h (needM_nextInv h (hk _ _)))

theorem vred_nextInv {word op d a} (h : MemInv s) : NextInv (vred s word op d a) := by
  unfold vred
  exact whole_nextInv h fun _ => redPrep_nextInv h fun _ _ => writeVl_nextInv h

theorem vscan_nextInv {word op d a} (h : MemInv s) : NextInv (vscan s word op d a) := by
  unfold vscan
  exact whole_nextInv h fun _ => redPrep_nextInv h fun _ _ => writeVl_nextInv h

theorem maskOp_nextInv {word ms d v} (h : MemInv s) : NextInv (maskOp s word ms d v) :=
  taskOnly_nextInv h (needM_nextInv h (.next (vdone_memInv (setMreg_memInv h))))

theorem settleOne_nextInv {word a nf} (h : MemInv s) : NextInv (settleOne s word a nf) := by
  unfold settleOne
  refine whole_nextInv h (fun _ => ?_)
  dsimp only
  split
  · exact .next (State.waitFor_memInv h)
  · split
    · exact .next (vdone_memInv (setMreg_memInv h))
    · split
      · exact trap_nextInv h
      · exact .next (vdone_memInv h)

theorem settleEvery_nextInv {word nf} (h : MemInv s) : NextInv (settleEvery s word nf) := by
  unfold settleEvery
  refine taskOnly_nextInv h ?_
  split
  · exact .next (State.waitFor_memInv h)
  · split
    · exact .next (vdone_memInv (setMreg_memInv h))
    · split
      · exact trap_nextInv h
      · exact .next (vdone_memInv h)

theorem execSettle_nextInv {a} (h : MemInv s) : NextInv (execSettle a s) :=
  settleOne_nextInv h

theorem execSettleNf_nextInv {a} (h : MemInv s) : NextInv (execSettleNf a s) :=
  settleOne_nextInv h

theorem execSettleAll_nextInv (h : MemInv s) : NextInv (execSettleAll s) :=
  settleEvery_nextInv h

theorem execSettleNfAll_nextInv (h : MemInv s) : NextInv (execSettleNfAll s) :=
  settleEvery_nextInv h

theorem execVpres_nextInv {d a} (h : MemInv s) : NextInv (execVpres d a s) := by
  unfold execVpres
  refine whole_nextInv h (fun _ => ?_)
  dsimp only
  split
  · exact .next (State.waitFor_memInv h)
  · exact .next (vdone_memInv (setMreg_memInv h))

theorem endThaw_memInv (h : MemInv s) : MemInv (endThaw s) :=
  State.leave_memInv h

theorem execVfill_nextInv {a} (h : MemInv s) : NextInv (execVfill a s) := by
  unfold execVfill
  dsimp only
  split
  · refine readS_nextInv h (fun _ => ?_)
    split
    · exact .next (endThaw_memInv (resolveFaulted_memInv (fillEntry_memInv h)))
    · exact .next (endThaw_memInv h)
  · exact ill_nextInv h

end Sys2Proof.Machine
end

section
/-! ## The canonical form of the memories: vector computation, vector loads and stores -/

namespace Sys2Proof.Machine

-- One at a time: the lemmas are many and small, and a thread for each would take more memory than they do.
set_option Elab.async false

variable {s : State}

theorem loadElems_memInv {mode us} {r : LRes} (h : MemInv r.s) : MemInv (loadElems mode us r).s := by
  induction us generalizing r with
  | nil => exact h
  | cons u us ih =>
    unfold loadElems
    grind [→ checkAccess_memInv]

theorem loadSide_memInv {us} {r : LRes} (h : MemInv r.s) : MemInv (loadSide us r).s := by
  induction us generalizing r with
  | nil => exact h
  | cons u us ih =>
    unfold loadSide
    grind [→ checkAccess_memInv]

theorem loadBase_memInv {d tag} (h : MemInv s) : MemInv (loadBase s d tag).2 := by
  unfold loadBase
  split
  · split
    · split
      · exact blankImage_memInv h
      · exact h
    · exact blankImage_memInv h
  · exact h

theorem putLoad_memInv {d v} (h : MemInv s) : MemInv (putLoad s d v) := by
  unfold putLoad
  split
  · split
    · exact beginStaged_memInv h
    · exact setStaged_memInv h
  · exact setVreg_memInv h

theorem readAnewUnits_memInv {ls} (h : MemInv s) : MemInv (readAnewUnits s ls) := by
  unfold readAnewUnits
  split
  · exact h
  · exact foldl_memInv (fun _ _ => readAnewAt_memInv) _ h

theorem loadDone_nextInv {rs d} (h : MemInv s) : NextInv (loadDone s rs d) := by
  unfold loadDone
  split
  · split
    · exact .next (vdone_memInv (pushV_memInv h))
    · exact .next (vdone_memInv h)
  · exact .next (vdone_memInv h)

theorem waitLanded_nextInv {rs d} (h : MemInv s) : NextInv (waitLanded s rs d) := by
  unfold waitLanded
  split
  · exact loadDone_nextInv h
  · exact .next (State.waitFor_memInv h)

theorem loadFinish_nextInv {rs d wait} {r : LRes} (hr : MemInv r.s) : NextInv (loadFinish s rs d wait r) := by
  unfold loadFinish
  grind [fresh_memInv, loadBase_memInv, claim_memInv, readAnewUnits_memInv, putLoad_memInv, stopAt_nextInv, setVstart_memInv,
    waitLanded_nextInv, loadDone_nextInv]

theorem loadIdle_nextInv {rs d} (h : MemInv s) : NextInv (loadIdle s rs d) := by
  unfold loadIdle
  split
  · exact loadDone_nextInv h
  · exact .next (complete_memInv (setVstart_memInv h))

theorem vload_nextInv {word rs d wait strided units} (h : MemInv s) : NextInv (vload s word rs d wait strided units) := by
  unfold vload
  grind [whole_nextInv, waitLanded_nextInv, fmtGate_nextInv, fmtTrap_nextInv, loadIdle_nextInv, needM_nextInv, loadElems_memInv,
    loadSide_memInv, loadFinish_nextInv]

theorem execVwait_nextInv {d} (h : MemInv s) : NextInv (execVwait d s) := by
  unfold execVwait
  refine taskOnly_nextInv h ?_
  refine readOps_nextInv h (fun _ => ?_)
  split
  · exact .next (complete_memInv h)
  · exact .next (State.waitFor_memInv h)

theorem storeElems_memInv {adds us} {r : SRes} (h : MemInv r.s) : MemInv (storeElems adds us r).s := by
  induction us generalizing r with
  | nil => exact h
  | cons u us ih =>
    rcases storeElems_cons adds u us r with ⟨e, he⟩ | ⟨k, hk, ⟨x, he⟩ | he⟩ <;> rw [he]
    · exact h
    · exact ih (checkAccess_memInv hk h)
    · exact ih (checkAccess_memInv hk h)

theorem addRemote_memInv {ordered addFmt xs} (h : MemInv s) : MemInv (addRemote s ordered addFmt xs) := by
  unfold addRemote
  dsimp only
  refine foldl_memInv (fun _ _ hx => ?_) _ h
  split
  · exact State.withMem_memInv hx
  · exact startTrain_memInv hx

theorem closeTrains_memInv (h : MemInv s) : MemInv (closeTrains s) :=
  State.withMem_memInv h

theorem setCont_memInv {id} (h : MemInv s) : MemInv (setCont s id) :=
  State.withMem_memInv h

theorem addTrain_memInv {ordered op xs} (h : MemInv s) : MemInv (addTrain s ordered op xs).1 := by
  unfold addTrain
  split
  · exact h
  · exact State.withMem_memInv (fresh_memInv (readAnewUnits_memInv h))

theorem storeEnd_nextInv {rs ordered id stop} (h : MemInv s) : NextInv (storeEnd s rs ordered id stop) := by
  unfold storeEnd
  split
  · exact stopAt_nextInv (setVstart_memInv (setCont_memInv h))
  · exact .next (vdone_memInv (closeTrains_memInv (setCont_memInv h)))

theorem modTrain_memInv {id f} (h : MemInv s) : MemInv (modTrain s id f) :=
  State.withMem_memInv h

theorem storeWait_nextInv {rs d v w ordered id stop} (h : MemInv s) : NextInv (storeWait s rs d v w ordered id stop) := by
  unfold storeWait
  dsimp only
  split
  · exact .next (State.waitFor_memInv h)
  · split
    · exact trap_nextInv (setVstart_memInv (setCont_memInv (modTrain_memInv h)))
    · exact storeEnd_nextInv (modTrain_memInv h)

theorem storeChecks_memInv {adds us} (h : MemInv s) : MemInv (storeChecks s adds us).s := by
  unfold storeChecks
  grind [storeElems_memInv]

theorem storeFinish_nextInv {rs d v ordered op} {r : SRes} (h : MemInv s) (hr : MemInv r.s) :
    NextInv (storeFinish s rs d v ordered op r) := by
  unfold storeFinish
  grind [NextInv.next, State.waitFor_memInv, addTrain_memInv, addRemote_memInv, storeEnd_nextInv, storeWait_nextInv]

theorem storeIdle_nextInv (h : MemInv s) : NextInv (storeIdle s) :=
  .next (complete_memInv (setVstart_memInv (closeTrains_memInv (setCont_memInv h))))

theorem vstore_nextInv {word rs d u strided units} (h : MemInv s) : NextInv (vstore s word rs d u strided units) := by
  unfold vstore
  refine whole_nextInv h (fun _ => ?_)
  dsimp only
  split
  · exact storeWait_nextInv h
  · refine fmtGate_nextInv h ?_
    split
    · exact fmtTrap_nextInv h
    · split
      · exact fmtTrap_nextInv h
      · split
        · exact storeIdle_nextInv h
        · exact needM_nextInv h (storeFinish_nextInv h (storeChecks_memInv h))

theorem idxGate_nextInv {ok b bv data d k} (h : MemInv s) (hk : NextInv k) : NextInv (idxGate s ok b bv data d k) := by
  unfold idxGate
  split
  · exact fmtTrap_nextInv h
  · split
    · exact fmtTrap_nextInv h
    · exact fmtGate_nextInv h hk

theorem execVgat_nextInv {d a b st} (h : MemInv s) : NextInv (execVgat d a b st s) := by
  unfold execVgat
  grind [whole_nextInv, idxGate_nextInv, loadIdle_nextInv, needV_nextInv, needM_nextInv, loadElems_memInv, loadFinish_nextInv]

theorem vscatter_nextInv {word d a b ordered ok op} (h : MemInv s) : NextInv (vscatter s word d a b ordered ok op) := by
  unfold vscatter
  grind [whole_nextInv, storeWait_nextInv, idxGate_nextInv, storeIdle_nextInv, needV_nextInv, needM_nextInv, storeChecks_memInv,
    storeFinish_nextInv]

theorem vfasLater_nextInv {rs d loc va els} (h : MemInv s) : NextInv (vfasLater s rs d loc va els) := by
  unfold vfasLater
  dsimp only
  exact .next (vdone_memInv (State.withMem_memInv (setVreg_memInv (claim_memInv (fresh_memInv (readAnewAt_memInv h))))))

theorem vfas_nextInv {d a b sum} (h : MemInv s) : NextInv (vfas s d a b sum) := by
  unfold vfas
  refine whole_nextInv h fun vs => fmtGate_nextInv h (needV_nextInv h (needM_nextInv h ?_))
  split
  · exact stopAt_nextInv h
  · rename_i k hk
    have hks := checkAccess_memInv hk h
    grind [NextInv.next, State.waitFor_memInv, vfasLater_nextInv, trap_nextInv, writeVl_nextInv, enter_memInv, readAnewAt_memInv,
      fresh_memInv]

theorem execVfas_nextInv {d a b} (h : MemInv s) : NextInv (execVfas d a b s) :=
  vfas_nextInv h

theorem execVprobe_nextInv {d a b st} (h : MemInv s) : NextInv (execVprobe d a b st s) := by
  unfold execVprobe
  dsimp only
  refine whole_nextInv h (fun _ => ?_)
  refine idxGate_nextInv h ?_
  split
  · exact fmtTrap_nextInv h
  · refine needV_nextInv h ?_
    refine needM_nextInv h ?_
    split
    · exact trap_nextInv h
    · exact .next (vdone_memInv (setMreg_memInv h))

theorem scLoad_memInv {d w i l} (h : MemInv s) : MemInv (scLoad s d w i l) := by
  unfold scLoad
  dsimp only
  split
  · exact setStaged_memInv h
  · exact setVreg_memInv (claim_memInv h)

theorem scGo_nextInv {store rs d a v w budget us} (h : MemInv s) : NextInv (scGo store rs d a v w budget us s) := by
  induction us generalizing budget s with
  | nil =>
    unfold scGo
    grind [NextInv.next, vdone_memInv, State.waitFor_memInv, setVstart_memInv, loadDone_nextInv]
  | cons u us ih =>
    cases budget with
    | zero => exact .next h
    | succ n =>
      unfold scGo
      have hv := setVstart_memInv (n := u.els.headD 0) h
      grind [NextInv.next, → checkAccess_memInv, stopAt_nextInv, State.waitFor_memInv, trap_nextInv, fresh_memInv, drawTicket_memInv,
        readAnew_memInv,
        enter_memInv, scLoad_memInv]

theorem scAccess_nextInv {word store d a budget} (h : MemInv s) : NextInv (scAccess s word store d a budget) := by
  unfold scAccess
  grind [NextInv, whole_nextInv, fmtGate_nextInv, complete_memInv, setVstart_memInv, State.waitFor_memInv, loadDone_nextInv,
    loadIdle_nextInv, needV_nextInv, needM_nextInv, loadBase_memInv, beginStaged_memInv, setStaged_memInv, scGo_nextInv]

theorem setAcc_memInv {n x} (h : MemInv s) : MemInv (setAcc s n x) := by
  unfold setAcc
  split
  · exact State.modTask_memInv h
  · exact h

theorem needAcc_nextInv {word n k} (h : MemInv s) (hk : NextInv k) : NextInv (needAcc s word n k) := by
  unfold needAcc
  split
  · exact hk
  · exact ill_nextInv h

theorem needRows_nextInv {n t rows k} (h : MemInv s) (hk : NextInv k) : NextInv (needRows s n t rows k) := by
  unfold needRows
  split
  · exact trap_nextInv h
  · exact hk

theorem tileTrap_nextInv {code reg} (h : MemInv s) : NextInv (tileTrap s code reg) :=
  fmtTrap_nextInv h

theorem kindGate_nextInv {d z cls k} (h : MemInv s) (hk : NextInv k) : NextInv (kindGate s d z cls k) := by
  unfold kindGate
  dsimp only
  split
  · exact fmtTrap_nextInv h
  · exact hk

theorem multiply_nextInv {rs d z fa pb m k sp poisonedA tid rowsA} (h : MemInv s) :
    NextInv (multiply s rs d z fa pb m k sp poisonedA tid rowsA) := by
  unfold multiply
  dsimp only
  split
  · exact .next (State.waitFor_memInv (State.withMem_memInv h))
  · split
    · exact trap_nextInv (freeWord_memInv h)
    · exact needRows_nextInv h (.next (vdone_memInv (setAcc_memInv (accrue_memInv h))))

theorem needPairs_nextInv {word ps k} (h : MemInv s) (hk : NextInv k) : NextInv (needPairs s word ps k) := by
  unfold needPairs
  split
  · exact ill_nextInv h
  · exact hk

theorem needGroup_nextInv {word a g k} (h : MemInv s) (hk : NextInv k) : NextInv (needGroup s word a g k) := by
  unfold needGroup
  split
  · exact ill_nextInv h
  · exact hk

theorem mmaForm_nextInv {word sparse d a b z g} (h : MemInv s) : NextInv (mmaForm s word sparse d a b z g) := by
  unfold mmaForm
  grind [NextInv, taskOnly_nextInv, needAcc_nextInv, needPairs_nextInv, needGroup_nextInv, complete_memInv, readOps_nextInv,
    fmtGate_nextInv, tileTrap_nextInv, kindGate_nextInv, needV_nextInv, needM_nextInv, multiply_nextInv]

theorem execMmas_nextInv {d a b z} (h : MemInv s) : NextInv (execMmas d a b z s) := by
  unfold execMmas
  grind [NextInv, taskOnly_nextInv, needAcc_nextInv, needPairs_nextInv, readOps_nextInv, complete_memInv, tileTrap_nextInv,
    kindGate_nextInv, multiply_nextInv]

theorem execMaccZ_nextInv {d} (h : MemInv s) : NextInv (execMaccZ d s) := by
  unfold execMaccZ
  dsimp only
  exact taskOnly_nextInv h (needAcc_nextInv h (.next (complete_memInv (setAcc_memInv h))))

theorem execMaccRd_nextInv {d a b} (h : MemInv s) : NextInv (execMaccRd d a b s) := by
  unfold execMaccRd
  dsimp only
  refine taskOnly_nextInv h ?_
  refine needAcc_nextInv h ?_
  refine readOps_nextInv h (fun _ => ?_)
  split
  · exact fmtTrap_nextInv h
  · exact needRows_nextInv h (writeV_nextInv h)

theorem execMaccWr_nextInv {d a b} (h : MemInv s) : NextInv (execMaccWr d a b s) := by
  unfold execMaccWr
  grind [NextInv, taskOnly_nextInv, needAcc_nextInv, readOps_nextInv, fmtTrap_nextInv, needV_nextInv, vdone_memInv, setAcc_memInv]

theorem drain_nextInv {rs d rows} (h : MemInv s) : NextInv (drain s rs d rows) := by
  unfold drain
  dsimp only
  refine needM_nextInv h ?_
  refine needRows_nextInv h ?_
  refine storeFinish_nextInv h ?_
  refine accrue_memInv ?_
  split
  · exact refuse_memInv (storeElems_memInv h)
  · exact storeElems_memInv h

theorem drainGate_nextInv {d k} (h : MemInv s) (hk : NextInv k) : NextInv (drainGate s d k) := by
  unfold drainGate
  split
  · exact fmtTrap_nextInv h
  · exact hk

theorem execMaccSt_nextInv {d a b} (h : MemInv s) : NextInv (execMaccSt d a b s) := by
  unfold execMaccSt
  dsimp only
  refine taskOnly_nextInv h ?_
  refine needAcc_nextInv h ?_
  refine readOps_nextInv h (fun _ => ?_)
  split
  · exact fmtTrap_nextInv h
  · refine drainGate_nextInv h ?_
    split
    · exact fmtTrap_nextInv h
    · exact drain_nextInv h

theorem execMaccStX_nextInv {d a b} (h : MemInv s) : NextInv (execMaccStX d a b s) := by
  unfold execMaccStX
  dsimp only
  refine taskOnly_nextInv h ?_
  refine needAcc_nextInv h ?_
  refine readOps_nextInv h (fun _ => ?_)
  split
  · exact fmtTrap_nextInv h
  · split
    · exact fmtTrap_nextInv h
    · exact drainGate_nextInv h (needV_nextInv h (drain_nextInv h))

theorem execMtd_nextInv {d a b} (h : MemInv s) : NextInv (execMtd d a b s) := by
  unfold execMtd
  dsimp only
  refine taskOnly_nextInv h ?_
  exact needPairs_nextInv h (readS_nextInv h (fun _ => .next (complete_memInv (setSreg_memInv (setSreg_memInv (popPorts_memInv h))))))

theorem setSv_memInv {r v} (h : MemInv s) : MemInv (setSv s r v) :=
  State.withRegs_memInv h

theorem needSv_nextInv {rs k} (h : MemInv s) (hk : NextInv k) : NextInv (needSv s rs k) := by
  unfold needSv
  split
  · exact trap_nextInv h
  · exact hk

theorem svWords_memInv {va is r} (hr : svWords va is s = .ok r) (h : MemInv s) : MemInv r.2 := by
  induction is generalizing s r with
  | nil => grind [svWords]
  | cons i is ih =>
    unfold svWords at hr
    grind [→ checkAccess_memInv]

theorem svldDone_nextInv {d a x} (h : MemInv s) : NextInv (svldDone s d a x) := by
  unfold svldDone
  dsimp only
  split
  · exact trap_nextInv (State.withMem_memInv h)
  · exact fmtTrap_nextInv (State.withMem_memInv h)
  · exact .next (vdone_memInv (setSv_memInv (State.withMem_memInv h)))

theorem execSvld_nextInv {d a} (h : MemInv s) : NextInv (execSvld d a s) := by
  unfold execSvld
  refine taskOnly_nextInv h (readS_nextInv h fun vs => ?_)
  grind [NextInv.next, → checkAccess_memInv, → svWords_memInv, stopAt_nextInv, State.waitFor_memInv, trap_nextInv, fmtTrap_nextInv,
    fresh_memInv,
    svldDone_nextInv, State.withMem_memInv]

theorem newTrain_memInv {xs} (h : MemInv s) : MemInv (newTrain s xs).1 := by
  unfold newTrain
  grind [fresh_memInv, readAnewUnits_memInv, State.withMem_memInv]

theorem execSvst_nextInv {d a} (h : MemInv s) : NextInv (execSvst d a s) := by
  unfold execSvst
  dsimp only
  refine taskOnly_nextInv h ?_
  refine readS_nextInv h (fun _ => ?_)
  split
  · split
    · exact .next h
    · exact .next (vdone_memInv h)
  · refine needSv_nextInv h ?_
    split
    · exact .next (State.waitFor_memInv h)
    · split
      · exact stopAt_nextInv (closeTrains_memInv (newTrain_memInv (addRemote_memInv (storeElems_memInv h))))
      · exact .next (State.waitFor_memInv (closeTrains_memInv (newTrain_memInv (addRemote_memInv (storeElems_memInv h)))))

theorem svCombine_nextInv {word union d a b} (h : MemInv s) : NextInv (svCombine s word union d a b) := by
  unfold svCombine
  refine taskOnly_nextInv h ?_
  refine needSv_nextInv h ?_
  dsimp only
  split
  · exact fmtTrap_nextInv h
  · exact .next (vdone_memInv (setSv_memInv (accrue_memInv h)))

theorem execSvscale_nextInv {d a b} (h : MemInv s) : NextInv (execSvscale d a b s) := by
  unfold execSvscale
  dsimp only
  exact taskOnly_nextInv h (readS_nextInv h (fun _ => needSv_nextInv h (.next (vdone_memInv (setSv_memInv (accrue_memInv h))))))

theorem execSvcomp_nextInv {d a} (h : MemInv s) : NextInv (execSvcomp d a s) := by
  unfold execSvcomp
  refine whole_nextInv h (fun _ => ?_)
  dsimp only
  refine fmtGate_nextInv h ?_
  refine needV_nextInv h ?_
  refine needM_nextInv h ?_
  split
  · exact .next (vdone_memInv h)
  · exact .next (vdone_memInv (setSv_memInv h))

theorem execSvexp_nextInv {d a} (h : MemInv s) : NextInv (execSvexp d a s) := by
  unfold execSvexp
  refine whole_nextInv h (fun _ => ?_)
  dsimp only
  split
  · exact fmtTrap_nextInv h
  · exact fmtGate_nextInv h (needSv_nextInv h (needM_nextInv h (writeVl_nextInv h)))

theorem execSvlen_nextInv {d a} (h : MemInv s) : NextInv (execSvlen d a s) := by
  unfold execSvlen
  dsimp only
  exact taskOnly_nextInv h (readS_nextInv h (fun _ => needSv_nextInv h (writeSv_nextInv h)))

theorem modMerge_memInv {f} (h : MemInv s) : MemInv (modMerge s f) :=
  State.withExt_memInv h

theorem noteStat_memInv {c} (h : MemInv s) : MemInv (noteStat s c) := by
  unfold noteStat
  split
  · exact h
  · exact modMerge_memInv h

theorem mergeStat_nextInv {rs d c} (h : MemInv s) : NextInv (mergeStat s rs d c) :=
  retire_nextInv (noteStat_memInv h)

theorem needCtx_nextInv {k} (h : MemInv s) (hk : ∀ vs, NextInv (k vs)) : NextInv (needCtx s k) := by
  unfold needCtx
  split
  · exact hk _
  · exact fmtTrap_nextInv h

theorem readDwords_memInv {va is r} (hr : readDwords s va is = .ok r) (h : MemInv s) : MemInv r.2 := by
  induction is generalizing s r with
  | nil => grind [readDwords]
  | cons i is ih =>
    unfold readDwords at hr
    grind [→ checkAccess_memInv, readAnewAt_memInv]

theorem mgopenBind_nextInv {d a m} (h : MemInv s) : NextInv (mgopenBind s d a m) := by
  unfold mgopenBind
  dsimp only
  split
  · exact retire_nextInv (openArea_memInv (State.withExt_memInv (setNet_memInv h)))
  · exact .next (State.waitFor_memInv (setNet_memInv h))

theorem execMgopen_nextInv {d a} (h : MemInv s) : NextInv (execMgopen d a s) := by
  unfold execMgopen
  grind [taskOnly_nextInv, readS_nextInv, mgopenBind_nextInv, mergeStat_nextInv, trap_nextInv, → readDwords_memInv, stopAt_nextInv,
    retire_nextInv]

theorem execMgopenCont_nextInv {d a} (h : MemInv s) : NextInv (execMgopenCont d a s) := by
  unfold execMgopenCont
  grind [taskOnly_nextInv, readS_nextInv, needCtx_nextInv, mergeStat_nextInv, → readDwords_memInv, stopAt_nextInv, retire_nextInv,
    openArea_memInv, modMerge_memInv]

theorem spillLocs_memInv {as r} (hr : spillLocs as s = .ok r) (h : MemInv s) : MemInv r.2 := by
  induction as generalizing s r with
  | nil => grind [spillLocs]
  | cons a as ih =>
    unfold spillLocs at hr
    grind [→ checkAccess_memInv]

theorem writeRuns_memInv {k xs} (h : MemInv s) : MemInv (writeRuns k xs s) := by
  induction xs generalizing k s with
  | nil => exact h
  | cons x xs ih => exact ih (foldl_memInv (fun _ _ => spillWrite_memInv) _ h)

theorem spillRuns_memInv {k rs} (h : MemInv s) : MemInv (spillRuns s k rs) := by
  unfold spillRuns
  split
  · exact h
  · exact writeRuns_memInv (extendArea_memInv h)

theorem checkRuns_memInv {rs r} (hr : checkRuns rs s = .ok r) (h : MemInv s) : MemInv r.2 := by
  induction rs generalizing s r with
  | nil => grind [checkRuns]
  | cons q qs ih =>
    unfold checkRuns at hr
    grind [→ spillLocs_memInv]

theorem execMgpush_nextInv {d a b st} (h : MemInv s) : NextInv (execMgpush d a b st s) := by
  unfold execMgpush
  refine taskOnly_nextInv h (readS_nextInv h fun vs => needCtx_nextInv h fun m => needSv_nextInv h ?_)
  grind [→ checkRuns_memInv, fmtTrap_nextInv, mergeStat_nextInv, stopAt_nextInv, retire_nextInv, modMerge_memInv, spillRuns_memInv]

theorem execMgflush_nextInv {d} (h : MemInv s) : NextInv (execMgflush d s) := by
  unfold execMgflush
  grind [taskOnly_nextInv, readS_nextInv, needCtx_nextInv, retire_nextInv, modMerge_memInv, mergeStat_nextInv]

theorem execMgpull_nextInv {d a} (h : MemInv s) : NextInv (execMgpull d a s) := by
  unfold execMgpull
  grind [MemInv, NextInv, taskOnly_nextInv, readS_nextInv, needCtx_nextInv, retire_nextInv, noteStat_memInv, storeElems_memInv,
    State.waitFor_memInv, closeTrains_memInv, newTrain_memInv, addRemote_memInv, stopAt_nextInv, modMerge_memInv]

theorem execMgpullSv_nextInv {d a} (h : MemInv s) : NextInv (execMgpullSv d a s) := by
  unfold execMgpullSv
  dsimp only
  refine taskOnly_nextInv h ?_
  refine readS_nextInv h (fun _ => ?_)
  refine needCtx_nextInv h (fun _ => ?_)
  split
  · exact trap_nextInv h
  · split
    · exact fmtTrap_nextInv h
    · exact .next (complete_memInv (popPorts_memInv (setSv_memInv (modMerge_memInv h))))

theorem closeLocs_memInv {m rs r} (hr : closeLocs m rs s = .ok r) (h : MemInv s) : MemInv r.2 := by
  induction rs generalizing s r with
  | nil => grind [closeLocs]
  | cons q qs ih =>
    unfold closeLocs at hr
    grind [→ checkAccess_memInv]

theorem closeStores_memInv {m t} (ht : closeStores s m = .ok (some t)) (h : MemInv s) : MemInv t := by
  unfold closeStores at ht
  grind [→ closeLocs_memInv, foldl_memInv, putStore_memInv, unbindMerge_memInv]

theorem execMgclose_nextInv (h : MemInv s) : NextInv (execMgclose s) := by
  unfold execMgclose
  dsimp only
  refine taskOnly_nextInv h ?_
  refine needCtx_nextInv h (fun _ => ?_)
  split
  · exact stopAt_nextInv h
  · exact .next (State.waitFor_memInv h)
  · exact .next (complete_memInv (closeStores_memInv ‹_› h))

theorem mgstat_nextInv {word d f} (h : MemInv s) : NextInv (mgstat s word d f) :=
  taskOnly_nextInv h (readS_nextInv h (fun _ => needCtx_nextInv h (fun _ => retire_nextInv h)))

theorem execMgopenGrant_nextInv {o} (h : MemInv s) : NextInv (execMgopenGrant o s) := by
  unfold execMgopenGrant
  split
  · exact .next h
  · split
    · exact .next h
    · dsimp only
      split
      · split
        · exact execMgopen_nextInv (State.focus_memInv h)
        · exact .next h
      · exact .next h

end Sys2Proof.Machine
end

section
/-! ## The canonical form of the memories: matrix multiplies, the merge unit and the scratchpads -/

namespace Sys2Proof.Machine

-- One at a time: the lemmas are many and small, and a thread for each would take more memory than they do.
set_option Elab.async false

variable {s : State}

theorem markPsw_memInv {c} (h : MemInv s) : MemInv (markPsw s c) :=
  h

theorem refreshOne_memInv {old n} (h : MemInv s) : MemInv (refreshOne old s n) := by
  unfold refreshOne
  dsimp only
  split
  · exact markPsw_memInv (State.setCluster_memInv h)
  · exact State.setCluster_memInv h

theorem change_memInv {ns f} (hf : MemInv (f s)) : MemInv (change s ns f) :=
  foldl_memInv (fun _ _ => refreshOne_memInv) _ hf

theorem vdmapPut_memInv {n v} (h : MemInv s) : MemInv (vdmapPut s n v) := by
  unfold vdmapPut
  dsimp only
  refine foldl_memInv (fun _ _ hx => ?_) _ (State.withH_memInv h)
  split
  · exact State.modCluster_memInv hx
  · exact hx

theorem execVdmapWrite_nextInv {n v} (h : MemInv s) : NextInv (execVdmapWrite n v s) := by
  unfold execVdmapWrite
  refine .next ?_
  split
  · exact vdmapPut_memInv h
  · exact h

theorem execTctlWrite_nextInv {c v} (h : MemInv s) : NextInv (execTctlWrite c v s) := by
  unfold execTctlWrite
  refine .next ?_
  split
  · exact h
  · exact State.modCluster_memInv h

theorem execSlewStep_nextInv {c} (h : MemInv s) : NextInv (execSlewStep c s) := by
  unfold execSlewStep
  split
  · exact .next h
  · refine .next ?_
    refine change_memInv ?_
    dsimp only
    exact State.setCluster_memInv h

theorem execBudgetInterval_nextInv {tn} (h : MemInv s) : NextInv (execBudgetInterval tn s) := by
  unfold execBudgetInterval
  split
  · exact .next h
  · exact .next (change_memInv (State.modTenX_memInv h))

theorem execPmeasWindow_nextInv {tn watts} (h : MemInv s) : NextInv (execPmeasWindow tn watts s) := by
  unfold execPmeasWindow
  split
  · exact .next h
  · split
    · exact .next (State.modTenX_memInv h)
    · exact .next h

theorem execPbudWrite_nextInv {tn watts} (h : MemInv s) : NextInv (execPbudWrite tn watts s) :=
  .next (change_memInv (State.modTenX_memInv h))

theorem execOvercurrentTrip_nextInv {vr} (h : MemInv s) : NextInv (execOvercurrentTrip vr s) := by
  unfold execOvercurrentTrip
  refine .next ?_
  refine change_memInv ?_
  dsimp only
  exact foldl_memInv (fun _ _ e => State.modCluster_memInv e) _ (State.withM_memInv h)

theorem execOvercurrentClear_nextInv {vr} (h : MemInv s) : NextInv (execOvercurrentClear vr s) := by
  unfold execOvercurrentClear
  refine .next ?_
  split
  · exact h
  · refine change_memInv ?_
    dsimp only
    exact foldl_memInv (fun _ _ e => State.modCluster_memInv e) _ (State.withM_memInv h)

theorem execSensorSample_nextInv {k temp} (h : MemInv s) : NextInv (execSensorSample k temp s) := by
  unfold execSensorSample
  split
  · exact .next h
  · refine .next ?_
    refine change_memInv ?_
    dsimp only
    split
    · exact foldl_memInv (fun _ _ e => State.modCluster_memInv e) _ (State.withM_memInv h)
    · split
      · exact foldl_memInv (fun _ _ e => State.modCluster_memInv e) _ (State.withM_memInv h)
      · exact State.withM_memInv h

theorem execWdogWrite_nextInv (h : MemInv s) : NextInv (execWdogWrite s) :=
  .next (change_memInv (State.withM_memInv h))

theorem execWatchdogWarning_nextInv (h : MemInv s) : NextInv (execWatchdogWarning s) := by
  unfold execWatchdogWarning
  refine .next ?_
  split
  · exact State.withM_memInv h
  · exact h

theorem execWatchdogExpire_nextInv (h : MemInv s) : NextInv (execWatchdogExpire s) := by
  unfold execWatchdogExpire
  refine .next ?_
  split
  · exact change_memInv (State.withM_memInv h)
  · exact h

theorem execMtickTick_nextInv (h : MemInv s) : NextInv (execMtickTick s) := by
  unfold execMtickTick
  dsimp only
  refine .next ?_
  split
  · exact State.withM_memInv h
  · exact h

theorem execPctlWrite_nextInv {v} (h : MemInv s) : NextInv (execPctlWrite v s) :=
  .next (change_memInv (State.withM_memInv h))

theorem execMInterrupt_nextInv (h : MemInv s) : NextInv (execMInterrupt s) := by
  unfold execMInterrupt
  dsimp only
  split
  · split
    · exact .next (takeInterrupt_memInv (State.focus_memInv h))
    · exact .next h
  · exact .next h

theorem execPswWrite_nextInv {tn} (h : MemInv s) : NextInv (execPswWrite tn s) := by
  unfold execPswWrite
  grind [NextInv, State.modTenX_memInv, State.modTen_memInv, → machineLoc_memInv, enterWide_memInv]

theorem execPswaWrite_nextInv {tn v} (h : MemInv s) : NextInv (execPswaWrite tn v s) :=
  .next (State.modTen_memInv h)

theorem shareEnergy_memInv {c nj} (h : MemInv s) : MemInv (shareEnergy s c nj) := by
  unfold shareEnergy
  dsimp only
  split
  · refine State.modStrands_memInv ?_
    refine foldl_memInv (fun _ _ hx => ?_) _ h
    split
    · exact State.modStrand_memInv (State.modTenX_memInv hx)
    · exact State.modLaunch_memInv (State.modTenX_memInv hx)
  · refine State.modCluster_memInv ?_
    refine State.modStrands_memInv ?_
    refine foldl_memInv (fun _ _ hx => ?_) _ h
    split
    · exact State.modStrand_memInv (State.modTenX_memInv hx)
    · exact State.modLaunch_memInv (State.modTenX_memInv hx)

theorem execEnergyWindow_nextInv {vr nj} (h : MemInv s) : NextInv (execEnergyWindow vr nj s) := by
  unfold execEnergyWindow
  split
  · exact .next h
  · dsimp only
    exact .next (State.withDev_memInv (foldl_memInv (fun _ _ => shareEnergy_memInv) _ h))

theorem saveTask_memInv {st t} (h : MemInv s) : MemInv (saveTask s st t) := by
  unfold saveTask
  dsimp only
  exact State.modStrands_memInv (foldl_memInv (fun _ _ => leaveWindow_memInv) _ (State.modTask_memInv h))

theorem toTail_memInv {ts} (h : MemInv s) : MemInv (toTail s ts) := by
  unfold toTail
  dsimp only
  exact h

theorem toHead_memInv {ts} (h : MemInv s) : MemInv (toHead s ts) := by
  unfold toHead
  dsimp only
  exact h

theorem saveGroup_memInv {ts head} (h : MemInv s) : MemInv (saveGroup s ts head) := by
  unfold saveGroup
  dsimp only
  split
  · exact toHead_memInv (foldl_memInv (fun _ _ => saveTask_memInv) _ h)
  · exact toTail_memInv (foldl_memInv (fun _ _ => saveTask_memInv) _ h)

theorem execCpdim_nextInv {d a b l} (h : MemInv s) : NextInv (execCpdim d a b l s) := by
  unfold execCpdim
  dsimp only
  refine taskOnly_nextInv h ?_
  refine readS_nextInv h (fun _ => ?_)
  split
  · exact fmtTrap_nextInv h
  · exact retire0_nextInv (State.withExt_memInv h)

/-- The state that a pass of probes leaves, whether it passes or stops, keeps the memories in canonical form. -/
def PassInv {α : Type} (f : α → State) : Passed α → Prop
  | .ok a => MemInv (f a)
  | .error e => MemInv e.2

theorem Probe.page_passInv {p : Probe} {a reason} (h : MemInv p.s) : PassInv Probe.s (p.page a reason) := by
  unfold Probe.page
  grind [PassInv]

theorem probeBytes_passInv {f u fuel va n} {p : Probe} (h : MemInv p.s) : PassInv Probe.s (probeBytes f u fuel va n p) := by
  induction fuel generalizing va n p with
  | zero => exact h
  | succ fuel ih =>
    unfold probeBytes
    split
    · exact h
    · dsimp only
      split
      · rename_i e _
        have hf := fresher_memInv (c := f.ctx) (va := va) (f := e) h
        grind [PassInv, Probe.page_passInv]
      · rename_i k hk
        have hks := translate_memInv hk h
        grind [PassInv, Probe.page_passInv]

theorem probeRuns_passInv {f rs} {p : Probe} (h : MemInv p.s) : PassInv Probe.s (probeRuns f rs p) := by
  induction rs generalizing p with
  | nil => exact h
  | cons r rs ih =>
    unfold probeRuns
    grind [PassInv, probeBytes_passInv]

theorem probeXfers_passInv {f c k n} {p : Probe} (h : MemInv p.s) : PassInv Probe.s (probeXfers f c k n p) := by
  induction k generalizing n p with
  | zero => exact h
  | succ k ih =>
    unfold probeXfers
    grind [PassInv, probeBytes_passInv, probeRuns_passInv]

theorem probeStamp_passInv {f c} {p : Probe} (h : MemInv p.s) : PassInv Probe.s (probeStamp f c p) := by
  unfold probeStamp
  split
  · exact h
  · exact probeBytes_passInv h

theorem probeRows_passInv {f ws k e} {g : GProbe} (h : MemInv g.p.s) : PassInv (fun g => g.p.s) (probeRows f ws k e g) := by
  induction k generalizing e g with
  | zero => exact h
  | succ k ih =>
    unfold probeRows readIndex
    grind [PassInv, probeBytes_passInv]

theorem probeCopy_passInv {f c} (h : MemInv s) : PassInv Probe.s (probeCopy f c s) := by
  have hx : PassInv Probe.s (probeXfers f c c.total 0 (.start s)) := probeXfers_passInv h
  unfold probeCopy
  grind [PassInv, probeStamp_passInv]

theorem probeGather_passInv {f c ws} (h : MemInv s) : PassInv (fun g => g.p.s) (probeGather f c ws s) := by
  have hx : PassInv (fun g => g.p.s) (probeRows f ws (bitsOf (ws.getD 7 0) 26 16) 0 { p := .start s, c := c, emask := [] }) :=
    probeRows_passInv h
  unfold probeGather
  grind [PassInv, probeStamp_passInv]

theorem map_eq_ok {ε α β : Type} {f : α → β} {x : Except ε α} {b : β} (h : x.map f = .ok b) : ∃ a, x = .ok a ∧ f a = b := by
  cases x with
  | error e => exact absurd h nofun
  | ok a => exact ⟨a, rfl, Except.ok.inj h⟩

theorem recordWrites_memInv {frec bs is r} (hr : recordWrites frec bs is s = .ok r) (h : MemInv s) : MemInv r.2 := by
  induction is generalizing s r with
  | nil => grind [recordWrites]
  | cons i is ih =>
    unfold recordWrites at hr
    dsimp only at hr
    split at hr
    · exact absurd hr nofun
    · rename_i k hk
      have hw (l : Loc) := engineWrite_memInv (x := k.s.cpu) (l := l) (bs := (bs.drop (64 * i)).take 64) (checkAccess_memInv hk h)
      split at hr
      · exact absurd hr nofun
      · obtain ⟨q, hq, rfl⟩ := map_eq_ok hr
        exact (ih hq (hw _) : MemInv q.2)

theorem onMisses_nextInv {frec kind miss emask} (h : MemInv s) : NextInv (onMisses s frec kind miss emask) := by
  unfold onMisses
  grind [NextInv, trap_nextInv, → recordWrites_memInv, stopAt_nextInv, State.withExt_memInv, State.waitFor_memInv, ringWrite_memInv]

theorem onStop_nextInv {rs d} {e : PStop × State} (h : MemInv e.2) : NextInv (onStop rs d e) := by
  unfold onStop
  grind [trap_nextInv, NextInv.next, leaseEnd_memInv, stopAt_nextInv, retire_nextInv]

theorem modCopy_memInv {uid f} (h : MemInv s) : MemInv (modCopy s uid f) :=
  h

theorem setStat_memInv {c st} (h : MemInv s) : MemInv (setStat s c st) := by
  unfold setStat
  split
  · exact h
  · dsimp only
    exact State.modStrand_memInv h

theorem finishCopy_memInv {uid stamped} (h : MemInv s) : MemInv (finishCopy s uid stamped) := by
  unfold finishCopy
  split
  · split
    · dsimp only
      split
      · exact modCopy_memInv (setStat_memInv h)
      · exact MemInv.of_memories (setStat_memInv h) rfl rfl rfl
    · exact h
  · exact h

theorem joinCopy_nextInv {rs d c} (h : MemInv s) : NextInv (joinCopy s rs d c) := by
  unfold joinCopy
  grind [MemInv, NextInv, fresh_memInv, State.withExt_memInv, retire_nextInv, finishCopy_memInv]

theorem copyProbe_nextInv {f rs d a b set ws} (h : MemInv s) : NextInv (copyProbe s f rs d a b set ws) := by
  unfold copyProbe
  grind [PassInv, NextInv.next, probeGather_passInv, probeCopy_passInv, onStop_nextInv, onMisses_nextInv, State.waitFor_memInv,
    joinCopy_nextInv]

theorem copyGate_nextInv {f rs d a b set ws} (h : MemInv s) : NextInv (copyGate s f rs d a b set ws) := by
  unfold copyGate
  split
  · exact copyProbe_nextInv h
  · exact .next (State.waitFor_memInv h)

theorem startCopy_nextInv {word f d a b} (h : MemInv s) : NextInv (startCopy s word f d a b) := by
  unfold startCopy
  grind [NextInv, taskOnly_nextInv, readS_nextInv, State.waitFor_memInv, joinCopy_nextInv, copyGate_nextInv, trap_nextInv,
    → readDwords_memInv, stopAt_nextInv, retire_nextInv]

theorem execCpstat_nextInv {d a} (h : MemInv s) : NextInv (execCpstat d a s) := by
  unfold execCpstat
  dsimp only
  exact taskOnly_nextInv h (readS_nextInv h (fun _ => retire_nextInv h))

theorem execPermit_nextInv {a b} (h : MemInv s) : NextInv (execPermit a b s) := by
  unfold execPermit
  grind [taskOnly_nextInv, readS_nextInv, fmtTrap_nextInv, fresh_memInv, retire0_nextInv, State.modCluster_memInv]

theorem execSlotPermitTake_nextInv {u} (h : MemInv s) : NextInv (execSlotPermitTake u s) := by
  unfold execSlotPermitTake
  split
  · dsimp only
    split
    · exact .next (finishCopy_memInv (setStat_memInv (modCopy_memInv (foldl_memInv (fun _ _ e => State.modCluster_memInv e) _ h))))
    · exact .next h
  · exact .next h

theorem execCopyStart_nextInv {c} (h : MemInv s) : NextInv (execCopyStart c s) := by
  unfold execCopyStart
  split
  · dsimp only
    refine .next ?_
    refine finishCopy_memInv ?_
    split
    · exact setStat_memInv (modCopy_memInv h)
    · exact modCopy_memInv h
  · exact .next h

theorem execCopyQueueAdmit_nextInv {t} (h : MemInv s) : NextInv (execCopyQueueAdmit t s) := by
  unfold execCopyQueueAdmit
  grind [NextInv, startCopy_nextInv, State.focus_memInv]

theorem copyTrains_memInv {n c rem} (h : MemInv s) : MemInv (copyTrains s n c rem) := by
  unfold copyTrains
  dsimp only
  exact foldl_memInv (fun _ _ e => modCopy_memInv (fresh_memInv e)) _ h

theorem xferEntered_memInv {uid} (h : MemInv s) : MemInv (xferEntered s uid) := by
  unfold xferEntered
  dsimp only
  split
  · exact finishCopy_memInv (setStat_memInv (modCopy_memInv h))
  · exact modCopy_memInv h

theorem putRuns_memInv {c xs bs rem} (h : MemInv s) : MemInv (putRuns c xs bs s rem).1 := by
  induction xs generalizing bs s rem with
  | nil => exact h
  | cons x xs ih =>
    unfold putRuns
    grind [enter_memInv]

theorem putByte_memInv {c n t k b r} (hr : putByte s c n t k b = some r) (h : MemInv s) : MemInv r := by
  unfold putByte at hr
  grind [enter_memInv, Option.map_eq_some_iff]

theorem putSlots_memInv {c n img} (h : MemInv s) : MemInv (putSlots s c n img) := by
  refine foldl_memInv (fun s x hs => ?_) _ h
  dsimp only
  split
  · grind [enter_memInv]
  · refine foldl_memInv (fun s k hs => ?_) _ hs
    cases hp : putByte s c n x.1 k (img.getD k 0) with
    | none => exact hs
    | some t => exact putByte_memInv hp hs

theorem makeXfer_memInv {c n} (h : MemInv s) : MemInv (makeXfer s c n) := by
  unfold makeXfer
  split
  · exact failCopy_memInv h
  · dsimp only
    split
    · exact xferEntered_memInv (putSlots_memInv (modCopy_memInv h))
    · split
      · exact xferEntered_memInv (putRuns_memInv (modCopy_memInv h))
      · exact copyTrains_memInv (putRuns_memInv (modCopy_memInv h))

theorem grabByte_memInv {u n i} (h : MemInv s) : MemInv (grabByte u n i s) := by
  unfold grabByte
  split
  · dsimp only
    split
    · split
      · exact modCopy_memInv h
      · exact h
    · exact h
  · exact h

theorem enterByte_memInv {u n t k} (h : MemInv s) : MemInv (enterByte u n t k s) := by
  unfold enterByte
  split
  · split
    · split
      · split
        · exact modCopy_memInv (putByte_memInv ‹_› h)
        · exact h
      · exact h
    · exact h
  · exact h

theorem execTransfer_nextInv {u n} (h : MemInv s) : NextInv (execTransfer u n s) := by
  unfold execTransfer
  split
  · refine .next ?_
    split
    · exact makeXfer_memInv h
    · exact h
  · exact .next h

theorem execGatherRow_nextInv {u e} (h : MemInv s) : NextInv (execGatherRow u e s) := by
  unfold execGatherRow
  split
  · refine .next ?_
    split
    · exact makeXfer_memInv h
    · exact h
  · exact .next h

theorem execCopyFail_nextInv {u cause n} (h : MemInv s) : NextInv (execCopyFail u cause n s) := by
  unfold execCopyFail
  split
  · refine .next ?_
    split
    · exact failCopy_memInv h
    · exact h
  · exact .next h

theorem execChunkDone_nextInv {u j} (h : MemInv s) : NextInv (execChunkDone u j s) := by
  unfold execChunkDone
  split
  · rename_i c _
    split
    · split
      · have hbits (f : Strand → Strand) : MemInv (if takesBits s c then s.modStrand c.owner f else s) :=
          iteInduction (fun _ => State.modStrand_memInv h) fun _ => h
        dsimp only
        exact .next (iteInduction (fun _ => MemInv.of_memories (hbits _) rfl rfl rfl) fun _ => modCopy_memInv (hbits _))
      · exact .next h
    · exact .next h
  · exact .next h

theorem copyStamp_nextInv {send u} (hs : ∀ c p, MemInv (send s c p)) (h : MemInv s) : NextInv (copyStamp send u s) := by
  unfold copyStamp
  split
  · split
    · split
      · refine .next ?_
        split
        · exact h
        · exact hs _ _
      · split
        · exact .next (failCopy_memInv h)
        · dsimp only
          exact .next (finishCopy_memInv (enter_memInv _ _ _ _ _ _ _ _ h))
      · exact .next h
    · exact .next h
  · exact .next h

end Sys2Proof.Machine
end

section
/-! ## The canonical form of the memories: copies, permits and accesses to remote memory -/

namespace Sys2Proof.Machine

-- One at a time: the lemmas are many and small, and a thread for each would take more memory than they do.
set_option Elab.async false

variable {s : State}

theorem setTx_memInv {t} (h : MemInv s) : MemInv (setTx s t) :=
  State.withDev_memInv h

theorem emit_memInv {m} (h : MemInv s) : MemInv (emit s m) :=
  State.withDev_memInv h

theorem sendMsg_memInv {k ty off data ecnt op size} (h : MemInv s) : MemInv (sendMsg s k ty off data ecnt op size).1 :=
  emit_memInv (setTx_memInv h)

theorem sendTrain_memInv {k t} (h : MemInv s) : MemInv (sendTrain s k t).1 := by
  unfold sendTrain
  split
  · exact sendMsg_memInv h
  · have hf := foldl_memInv (f := fun s (r : Nat × List Byte × Nat × Nat) =>
        (sendMsg s k 1 r.1 r.2.1 0 (elemOpCode t r.2.2.2) r.2.2.1).1)
      (fun _ _ => sendMsg_memInv) (packRuns (t.elems.drop t.sent)) h
    dsimp only
    split
    · exact sendMsg_memInv hf
    · exact hf

theorem modRTrain_memInv {id f} (h : MemInv s) : MemInv (modRTrain s id f) := by
  unfold modRTrain
  dsimp only
  exact h

theorem dropTrain_memInv {id} (h : MemInv s) : MemInv (dropTrain s id) := by
  unfold dropTrain
  dsimp only
  exact h

theorem failTrain_memInv {t cause i} (h : MemInv s) : MemInv (failTrain s t cause i) := by
  unfold failTrain
  dsimp only
  split
  · exact failCopy_memInv h
  · split
    · split
      · split
        · exact takeTrapAt_memInv (State.focus_memInv (dropTrain_memInv h))
        · exact dropTrain_memInv h
      · exact dropTrain_memInv h
      · exact State.modStrand_memInv (dropTrain_memInv h)
    · exact h

theorem pumpOne_memInv {k id} (h : MemInv s) : MemInv (pumpOne s k id) := by
  unfold pumpOne
  dsimp only
  split
  · split
    · split
      · exact failTrain_memInv h
      · exact h
    · split
      · exact modRTrain_memInv (sendTrain_memInv h)
      · exact h
  · exact h

theorem pump_memInv (h : MemInv s) : MemInv (pump s) := by
  unfold pump
  split
  · exact h
  · exact foldl_memInv (fun _ _ => pumpOne_memInv) _ h

theorem execCopyStamp_nextInv {u} (h : MemInv s) : NextInv (execCopyStamp u s) := by
  unfold execCopyStamp
  grind [copyStamp_nextInv, failCopy_memInv, sendMsg_memInv, modCopy_memInv]

theorem arrived_memInv {m} (h : MemInv s) : MemInv (arrived s m) := by
  unfold arrived
  split
  · exact State.withDev_memInv h
  · exact h

theorem ackUpTo_memInv {k seq} (h : MemInv s) : MemInv (ackUpTo s k seq) := by
  unfold ackUpTo
  dsimp only
  split
  · exact setTx_memInv h
  · exact h

theorem ackTrain_memInv {t} (h : MemInv s) : MemInv (ackTrain s t) := by
  unfold ackTrain
  split
  · dsimp only
    split
    · exact dropTrain_memInv h
    · exact xferEntered_memInv (dropTrain_memInv h)
  · exact dropTrain_memInv h

theorem execAckMessage_nextInv {m} (h : MemInv s) : NextInv (execAckMessage m s) := by
  unfold execAckMessage
  split
  · exact .next h
  · dsimp only
    split
    · exact .next (ackUpTo_memInv (ackTrain_memInv (arrived_memInv h)))
    · split
      · exact .next (finishCopy_memInv (ackUpTo_memInv (arrived_memInv h)))
      · exact .next (ackUpTo_memInv (arrived_memInv h))

theorem restartStream_memInv {k} (h : MemInv s) : MemInv (restartStream s k) := by
  unfold restartStream
  grind [MemInv, setTx_memInv, sendMsg_memInv, modRTrain_memInv, foldl_memInv]

theorem execNackMessage_nextInv {m} (h : MemInv s) : NextInv (execNackMessage m s) := by
  unfold execNackMessage
  split
  · exact .next h
  · dsimp only
    split
    · refine .next ?_
      split
      · exact arrived_memInv h
      · exact restartStream_memInv (arrived_memInv h)
    · split
      · exact .next (failTrain_memInv (ackUpTo_memInv (arrived_memInv h)))
      · split
        · exact .next (failCopy_memInv (ackUpTo_memInv (arrived_memInv h)))
        · exact .next (arrived_memInv h)

theorem execAtomicResponse_nextInv {m} (h : MemInv s) : NextInv (execAtomicResponse m s) := by
  unfold execAtomicResponse
  grind [NextInv, arrived_memInv, ackUpTo_memInv, failTrain_memInv, dropTrain_memInv, drawTicket_memInv, retire_nextInv, amoOrdered_memInv,
    State.focus_memInv]

theorem execResendTimeout_nextInv {ddev win sten} (h : MemInv s) : NextInv (execResendTimeout ddev win sten s) := by
  unfold execResendTimeout
  dsimp only
  refine .next ?_
  split
  · exact h
  · exact foldl_memInv (fun _ _ => emit_memInv) _ (setTx_memInv h)

theorem execStreamTimeout_nextInv {ddev win sten} (h : MemInv s) : NextInv (execStreamTimeout ddev win sten s) := by
  unfold execStreamTimeout
  dsimp only
  split
  · exact .next h
  · refine .next ?_
    refine restartStream_memInv ?_
    refine foldl_memInv (fun _ _ => failCopy_memInv) _ ?_
    refine foldl_memInv (fun _ _ hx => ?_) _ h
    split
    · exact failTrain_memInv hx
    · exact hx

theorem setRx_memInv {r} (h : MemInv s) : MemInv (setRx s r) :=
  State.withDev_memInv h

theorem answer_memInv {m ty ecnt stat data} (h : MemInv s) : MemInv (answer s m ty ecnt stat data) :=
  emit_memInv h

theorem inTurn_nextInv {m ty k} (h : MemInv s) (hk : ∀ s r, MemInv s → NextInv (k s r)) : NextInv (inTurn s m ty k) := by
  unfold inTurn
  split
  · exact .next h
  · split
    · exact .next (answer_memInv (arrived_memInv h))
    · split
      · exact hk _ _ h
      · exact .next (arrived_memInv h)

theorem execDataMessage_nextInv {m} (h : MemInv s) : NextInv (execDataMessage m s) := by
  unfold execDataMessage
  refine inTurn_nextInv h (fun _ _ hx => ?_)
  dsimp only
  exact .next (setRx_memInv (arrived_memInv hx))

theorem putRemote_memInv {ls data tag} (h : MemInv s) : MemInv (putRemote s ls data tag) :=
  List.foldlRecOn (motive := fun a : State × List Byte => MemInv a.1) ls _ h (fun _ ha _ _ => enterDev_memInv _ _ _ _ _ ha)

theorem execRemoteEnter_nextInv {sdev win sten off data} (h : MemInv s) : NextInv (execRemoteEnter sdev win sten off data s) := by
  unfold execRemoteEnter
  grind [NextInv, setRx_memInv, putRemote_memInv]

theorem execAck_nextInv {sdev win sten} (h : MemInv s) : NextInv (execAck sdev win sten s) := by
  unfold execAck
  grind [NextInv, fresh_memInv, setRx_memInv, answer_memInv]

theorem remoteAtomic_memInv {r m l sum} (h : MemInv s) : MemInv (remoteAtomic s r m l sum) := by
  unfold remoteAtomic
  dsimp only
  refine answer_memInv ?_
  refine setRx_memInv ?_
  refine arrived_memInv ?_
  split
  · exact enterDev_memInv _ _ _ _ _ h
  · exact h

theorem execAtomicRequest_nextInv {m} (h : MemInv s) : NextInv (execAtomicRequest m s) := by
  unfold execAtomicRequest
  refine inTurn_nextInv h (fun _ _ hx => ?_)
  split
  · exact .next hx
  · split
    · exact .next (answer_memInv (setRx_memInv (arrived_memInv hx)))
    · split
      · exact .next (answer_memInv (setRx_memInv (arrived_memInv hx)))
      · split
        · exact .next hx
        · exact .next (remoteAtomic_memInv hx)

theorem execStampMessage_nextInv {m} (h : MemInv s) : NextInv (execStampMessage m s) := by
  unfold execStampMessage
  refine inTurn_nextInv h (fun _ _ hx => ?_)
  split
  · exact .next hx
  · split
    · exact .next (answer_memInv (setRx_memInv (arrived_memInv hx)))
    · split
      · exact .next (answer_memInv (setRx_memInv (arrived_memInv hx)))
      · split
        · exact .next hx
        · dsimp only
          exact .next (answer_memInv (setRx_memInv (arrived_memInv (enterDev_memInv _ _ _ _ _ hx))))

theorem execRestartMessage_nextInv {m} (h : MemInv s) : NextInv (execRestartMessage m s) := by
  unfold execRestartMessage
  split
  · exact .next h
  · split
    · split
      · refine .next (arrived_memInv h)
      · dsimp only [State.fresh]
        refine .next (answer_memInv (setRx_memInv (State.withDev_memInv (arrived_memInv h))))
    · split
      · refine .next (arrived_memInv h)
      · dsimp only [State.fresh]
        refine .next (answer_memInv (setRx_memInv (State.withDev_memInv (arrived_memInv h))))

theorem windowPages_memInv {c vain fuel va n ps r} (hr : windowPages c vain fuel va n ps s = .ok r) (h : MemInv s) : MemInv r.2 := by
  induction fuel generalizing va n ps s with
  | zero => grind [windowPages]
  | succ fuel ih =>
    unfold windowPages at hr
    grind [→ translate_memInv]

theorem dropWindow_memInv {tn win} (h : MemInv s) : MemInv (dropWindow s tn win) := by
  unfold dropWindow
  dsimp only
  exact State.withDev_memInv (State.modTenX_memInv h)

theorem openWindow_nextInv {d a ws} (h : MemInv s) : NextInv (openWindow s d a ws) := by
  unfold openWindow
  grind [retire_nextInv, → windowPages_memInv, stopAt_nextInv, State.modTenX_memInv, State.withDev_memInv]

theorem closeWindow_nextInv {d a win} (h : MemInv s) : NextInv (closeWindow s d a win) := by
  unfold closeWindow
  split
  · split
    · exact retire_nextInv (dropWindow_memInv h)
    · dsimp only
      exact .next (State.waitFor_memInv (State.modTenX_memInv h))
  · exact retire_nextInv h

theorem execRwin_nextInv {d a} (h : MemInv s) : NextInv (execRwin d a s) := by
  refine taskOnly_nextInv h (portGate_nextInv h (needLevel_nextInv h (readS_nextInv h fun vs => ?_)))
  grind [closeWindow_nextInv, trap_nextInv, → readDwords_memInv, stopAt_nextInv, retire_nextInv, openWindow_nextInv]

theorem execRwinCloseComplete_nextInv {t} (h : MemInv s) : NextInv (execRwinCloseComplete t s) := by
  unfold execRwinCloseComplete
  grind [NextInv, closeWindow_nextInv, State.focus_memInv]

theorem rfailTrap_nextInv {k} (h : MemInv s) (hk : NextInv k) : NextInv (rfailTrap s k) := by
  unfold rfailTrap
  split
  · exact .next (takeTrapAt_memInv (State.withExt_memInv h))
  · exact hk

theorem execRfence_nextInv (h : MemInv s) : NextInv (execRfence s) := by
  unfold execRfence
  refine taskOnly_nextInv h ?_
  split
  · exact rfailTrap_nextInv h (.next (complete_memInv (readAnew_memInv h)))
  · exact .next (State.waitFor_memInv h)

theorem Pins.missed_memInv {p : Pins} {page reason} (h : MemInv p.s) : MemInv (p.missed page reason).s := h

theorem pinBytes_memInv {c vain l fuel a n} {p q : Pins} (hq : pinBytes c vain l fuel a n p = .ok q) (h : MemInv p.s) : MemInv q.s := by
  induction fuel generalizing a n p with
  | zero => grind [pinBytes]
  | succ fuel ih =>
    unfold pinBytes at hq
    grind [→ translate_memInv, Pins.missed_memInv]

theorem pinLeases_memInv {c vain ls} {p q : Pins} (hq : pinLeases c vain ls p = .ok q) (h : MemInv p.s) : MemInv q.s := by
  induction ls generalizing p with
  | nil => grind [pinLeases]
  | cons l ls ih =>
    unfold pinLeases at hq
    grind [→ pinBytes_memInv]

theorem writeParts_memInv {c va bs is t} (ht : writeParts c va bs is s = .ok t) (h : MemInv s) : MemInv t := by
  induction is generalizing s with
  | nil => grind [writeParts]
  | cons i is ih =>
    unfold writeParts at ht
    grind [→ machineLoc_memInv, enterWide_memInv]

theorem faultEntryFree_memInv {tn lid frec} (h : MemInv s) : MemInv (faultEntryFree s tn lid frec) := by
  unfold faultEntryFree
  dsimp only [State.freeWord]
  exact ringWrite_memInv (State.withDev_memInv (State.withDev_memInv h))

theorem pinFail_memInv {l} (h : MemInv s) : MemInv (pinFail s l) :=
  State.modLaunch_memInv h

theorem setPin_memInv {l p} (h : MemInv s) : MemInv (setPin s l p) :=
  State.modLaunch_memInv h

theorem pinRecord_memInv {l miss tries} (h : MemInv s) : MemInv (pinRecord s l miss tries) := by
  unfold pinRecord
  split
  · split
    · exact setPin_memInv h
    · exact pinFail_memInv h
  · dsimp only
    exact faultEntryFree_memInv (State.modLaunch_memInv (writeParts_memInv ‹_› h))

theorem pinPass_memInv {l last vain} (h : MemInv s) : MemInv (pinPass s l last vain) := by
  unfold pinPass
  dsimp only
  split
  · exact setPin_memInv h
  · split
    · exact State.modLaunch_memInv (pinLeases_memInv ‹_› h)
    · split
      · exact pinFail_memInv (pinLeases_memInv ‹_› h)
      · exact pinRecord_memInv (pinLeases_memInv ‹_› h)

theorem watchWord_memInv {c va w r} (hr : watchWord s c va w = .ok r) (h : MemInv s) : MemInv r.2 := by
  unfold watchWord at hr
  grind [→ machineLoc_memInv]

theorem execPinPassResume_nextInv {tn lid} (h : MemInv s) : NextInv (execPinPassResume tn lid s) := by
  unfold execPinPassResume
  grind [NextInv, pinPass_memInv, pinRecord_memInv, → watchWord_memInv, setPin_memInv, pinFail_memInv]

theorem startLaunch_memInv {p header ws} (h : MemInv s) : MemInv (startLaunch s p header ws).1 := pinPass_memInv h

theorem launchGate_nextInv {d a va ws} (h : MemInv s) : NextInv (launchGate s d a va ws) := by
  unfold launchGate
  split
  · dsimp only
    exact retire_nextInv (startLaunch_memInv h)
  · exact .next (State.waitFor_memInv h)

theorem execLaunch_nextInv {d a} (h : MemInv s) : NextInv (execLaunch d a s) := by
  unfold execLaunch
  grind [taskOnly_nextInv, readS_nextInv, launchGate_nextInv, trap_nextInv, → readDwords_memInv, stopAt_nextInv, retire_nextInv]

theorem resumeWait_nextInv {t p} (h : MemInv s) (hp : ∀ w k, p w = some k → ∀ s, MemInv s → NextInv (k s)) :
    NextInv (resumeWait s t p) := by
  unfold resumeWait
  grind [NextInv.next, State.focus_memInv, Option.bind_eq_some_iff]

theorem execLaunchAdmit_nextInv {t} (h : MemInv s) : NextInv (execLaunchAdmit t s) := by
  refine resumeWait_nextInv h fun w k hp s hs => ?_
  split at hp <;> cases hp
  exact execLaunch_nextInv hs

theorem addTask_memInv {t epa epe} (h : MemInv s) : MemInv (addTask s t epa epe) := by
  unfold addTask
  dsimp only
  exact h

theorem addTasks_memInv {l gang xs} (h : MemInv s) : MemInv (addTasks l gang xs s) := by
  induction xs generalizing s with
  | nil => exact h
  | cons x xs ih => exact ih (addTask_memInv h)

theorem execTaskEnumerate_nextInv {tn lid} (h : MemInv s) : NextInv (execTaskEnumerate tn lid s) := by
  unfold execTaskEnumerate
  grind [NextInv, State.modLaunch_memInv, addTasks_memInv]

theorem dispatchTask_memInv {t c} (h : MemInv s) : MemInv (dispatchTask s t c) := by
  unfold dispatchTask
  grind [MemInv, fresh_memInv, State.modStrands_memInv, State.modTask_memInv]

theorem execTaskDispatch_nextInv {c} (h : MemInv s) : NextInv (execTaskDispatch c s) := by
  unfold execTaskDispatch
  grind [NextInv, State.withDev_memInv, dispatchTask_memInv, foldl_memInv]

theorem execGangAdmit_nextInv {tn lid g} (h : MemInv s) : NextInv (execGangAdmit tn lid g s) := by
  unfold execGangAdmit
  dsimp only
  split
  · exact .next (foldl_memInv (fun _ _ => dispatchTask_memInv) _ h)
  · exact .next h

theorem execPreempt_nextInv {tid} (h : MemInv s) : NextInv (execPreempt tid s) := by
  unfold execPreempt
  split
  · exact .next h
  · dsimp only
    split
    · exact .next (saveGroup_memInv h)
    · exact .next h

theorem withTask_nextInv {word k} (h : MemInv s) (hk : ∀ vs, NextInv (k vs)) : NextInv (withTask s word k) := by
  unfold withTask
  refine taskOnly_nextInv h ?_
  split
  · exact hk _
  · exact ill_nextInv h

theorem execYield_nextInv (h : MemInv s) : NextInv (execYield s) := by
  unfold execYield
  refine withTask_nextInv h (fun _ => ?_)
  dsimp only
  split
  · exact .next (saveGroup_memInv (complete_memInv h))
  · exact .next (State.waitFor_memInv h)

theorem parkGroup_memInv {t f} (h : MemInv s) : MemInv (parkGroup s t f) := by
  unfold parkGroup
  dsimp only
  exact State.modTask_memInv (foldl_memInv (fun _ _ => saveTask_memInv) _ h)

theorem execPark_nextInv {d a b} (h : MemInv s) : NextInv (execPark d a b s) := by
  unfold execPark
  grind [NextInv, withTask_nextInv, portGate_nextInv, fmtTrap_nextInv, readS_nextInv, trap_nextInv, → checkAccess_memInv, stopAt_nextInv,
    parkGroup_memInv, complete_memInv, State.withCpu_memInv, leaveWindow_memInv, State.waitFor_memInv]

theorem engineParkStep_memInv {addr} (h : MemInv s) : MemInv (engineParkStep s addr) := by
  unfold engineParkStep
  split
  · exact h
  · dsimp only
    split
    · exact State.modTask_memInv (foldl_memInv (fun _ _ => saveTask_memInv) _ h)
    · exact h

theorem execParkWake_nextInv {tid} (h : MemInv s) : NextInv (execParkWake tid s) := by
  unfold execParkWake
  split
  · exact .next h
  · split
    · exact .next h
    · split
      · rename_i hv
        obtain ⟨c, _, hc⟩ := Option.map_eq_some_iff.mp hv
        split
        · exact .next (toTail_memInv (foldl_memInv (fun _ _ => State.modTask_memInv) _ (watchWord_memInv hc h)))
        · exact .next h
      · exact .next h

theorem execSpawn_nextInv {a b} (h : MemInv s) : NextInv (execSpawn a b s) := by
  unfold execSpawn
  dsimp only
  refine withTask_nextInv h (fun _ => ?_)
  refine readS_nextInv h (fun _ => ?_)
  split
  · exact trap_nextInv h
  · split
    · exact trap_nextInv h
    · split
      · exact trap_nextInv h
      · exact retire0_nextInv (State.withExt_memInv h)

theorem execJoin_nextInv {d a} (h : MemInv s) : NextInv (execJoin d a s) := by
  unfold execJoin
  grind [NextInv, withTask_nextInv, readS_nextInv, trap_nextInv, retire_nextInv, State.withExt_memInv, → checkAccess_memInv,
    readAnew_memInv, stopAt_nextInv, State.waitFor_memInv, dropStale_memInv]

theorem execJoinWake_nextInv {t} (h : MemInv s) : NextInv (execJoinWake t s) := by
  refine resumeWait_nextInv h fun w k hp s hs => ?_
  split at hp <;> cases hp
  exact execJoin_nextInv hs

theorem materialise_memInv {v x e tid} (h : MemInv s) : MemInv (materialise s v x e tid) := by
  unfold materialise
  dsimp only
  exact State.modLaunch_memInv (State.modStrand_memInv (addTask_memInv h))

theorem execSteal_nextInv {c t} (h : MemInv s) : NextInv (execSteal c t s) := by
  unfold execSteal
  split
  · exact .next h
  · dsimp only
    split
    · split
      · split
        · exact .next (materialise_memInv (State.modStrand_memInv h))
        · exact .next h
      · exact .next h
    · exact .next h

theorem materialiseAll_memInv {v xs tids} (h : MemInv s) : MemInv (materialiseAll s v xs tids) := by
  induction xs generalizing s tids with
  | nil => exact h
  | cons x xs ih =>
    cases tids with
    | nil => exact h
    | cons tid tids => exact ih (materialise_memInv h)

theorem closeAll_nextInv {ts o} (ho : closeAll ts s = .error o) (h : MemInv s) : NextInv o := by
  induction ts generalizing s with
  | nil => grind [closeAll]
  | cons t ts ih =>
    unfold closeAll at ho
    grind [→ closeStores_memInv, stopAt_nextInv, NextInv.next, State.waitFor_memInv, State.focus_memInv, State.withCpu_memInv]

theorem closeAll_memInv {ts t} (ht : closeAll ts s = .ok t) (h : MemInv s) : MemInv t := by
  induction ts generalizing s with
  | nil => grind [closeAll]
  | cons t ts ih =>
    unfold closeAll at ht
    grind [→ closeStores_memInv, State.focus_memInv, State.withCpu_memInv]

theorem tendEnd_nextInv {t xs} (h : MemInv s) : NextInv (tendEnd s t xs) := by
  unfold tendEnd
  grind [NextInv, State.waitFor_memInv, materialiseAll_memInv, endTask_memInv, → checkAccess_memInv, stopAt_nextInv, leaseEnd_memInv,
    enterFor_memInv]

theorem settleEnd_nextInv {t xs queues w k} (h : MemInv s) (hk : NextInv k) : NextInv (settleEnd s t xs queues w k) := by
  unfold settleEnd
  split
  · exact .next (State.waitFor_memInv h)
  · split
    · exact trap_nextInv h
    · split
      · exact .next (State.waitFor_memInv h)
      · exact rfailTrap_nextInv h hk

theorem execTend_nextInv (h : MemInv s) : NextInv (execTend s) := by
  unfold execTend
  grind [NextInv, → closeAll_nextInv, withTask_nextInv, settleEnd_nextInv, State.withCpu_memInv, leaveWindow_memInv, State.waitFor_memInv,
    → closeAll_memInv, tendEnd_nextInv]

theorem execTendComplete_nextInv {t} (h : MemInv s) : NextInv (execTendComplete t s) := by
  refine resumeWait_nextInv h fun w k hp s hs => ?_
  split at hp <;> cases hp
  exact execTend_nextInv hs

theorem execPrio_nextInv {a} (h : MemInv s) : NextInv (execPrio a s) := by
  unfold execPrio
  dsimp only
  refine withTask_nextInv h (fun _ => ?_)
  refine readS_nextInv h (fun _ => ?_)
  split
  · split
    · exact fmtTrap_nextInv h
    · exact retire0_nextInv (State.modTask_memInv h)
  · split
    · exact fmtTrap_nextInv h
    · exact retire0_nextInv (State.modTask_memInv h)

theorem execWid_nextInv {d l} (h : MemInv s) : NextInv (execWid d l s) := by
  unfold execWid
  dsimp only
  exact withTask_nextInv h (fun _ => readS_nextInv h (fun _ => retire_nextInv h))

theorem announce_memInv {c comp sta stv bs next} (h : MemInv s) : MemInv (announce s c comp sta stv bs next) :=
  post_memInv h

theorem widenAll_memInv {p} (h : MemInv s) : MemInv (widenAll s p) :=
  foldLog_memInv _ h

theorem completeLaunch_memInv {l} (h : MemInv s) : MemInv (completeLaunch s l) := by
  unfold completeLaunch
  dsimp only
  split
  · exact MemInv.of_memories (announce_memInv (widenAll_memInv h)) rfl rfl rfl
  · exact State.modGraph_memInv (MemInv.of_memories (announce_memInv (widenAll_memInv h)) rfl rfl rfl)

theorem execLaunchComplete_nextInv {tn lid} (h : MemInv s) : NextInv (execLaunchComplete tn lid s) := by
  unfold execLaunchComplete
  split
  · refine .next ?_
    split
    · exact completeLaunch_memInv h
    · exact h
  · exact .next h

end Sys2Proof.Machine
end

section
/-! ## The canonical form of the memories: tasks, graphs, launches and power -/

namespace Sys2Proof.Machine

-- One at a time: the lemmas are many and small, and a thread for each would take more memory than they do.
set_option Elab.async false

variable {s : State}

theorem gsubGate_nextInv {d a ws} (h : MemInv s) : NextInv (gsubGate s d a ws) := by
  unfold gsubGate
  dsimp only
  split
  · exact .next (State.waitFor_memInv h)
  · exact retire_nextInv h

theorem execGsub_nextInv {d a} (h : MemInv s) : NextInv (execGsub d a s) := by
  refine taskOnly_nextInv h (readS_nextInv h fun vs => ?_)
  grind [gsubGate_nextInv, trap_nextInv, → readDwords_memInv, stopAt_nextInv, retire_nextInv]

theorem execGsubAdmit_nextInv {t} (h : MemInv s) : NextInv (execGsubAdmit t s) := by
  refine resumeWait_nextInv h fun w k hp s hs => ?_
  split at hp <;> cases hp
  exact execGsub_nextInv hs

theorem nodeAccess_memInv {g va n w} {k : XOk} (hk : nodeAccess s g va n w = .ok k) (h : MemInv s) : MemInv k.s := by
  unfold nodeAccess at hk
  grind [→ translate_memInv]

theorem nodeWords_memInv {g va is r} (hr : nodeWords g va is s = .ok r) (h : MemInv s) : MemInv r.2 := by
  induction is generalizing s r with
  | nil => grind [nodeWords]
  | cons i is ih =>
    unfold nodeWords at hr
    grind [→ nodeAccess_memInv]

theorem nodeRecord_memInv {g va bs is t} (ht : nodeRecord g va bs is s = .ok t) (h : MemInv s) : MemInv t := by
  induction is generalizing s with
  | nil => grind [nodeRecord]
  | cons i is ih =>
    unfold nodeRecord at ht
    grind [→ nodeAccess_memInv, enterWide_memInv]

theorem modNode_memInv {g i f} (h : MemInv s) : MemInv (modNode s g i f) :=
  State.modGraph_memInv h

theorem setNode_memInv {g i st} (h : MemInv s) : MemInv (setNode s g i st) :=
  modNode_memInv h

theorem nodeRetry_memInv {g i n va} (h : MemInv s) : MemInv (nodeRetry s g i n va) := by
  unfold nodeRetry
  split
  · exact setNode_memInv h
  · exact modNode_memInv h

theorem nodeStop_memInv {g i n w} (h : MemInv s) : MemInv (nodeStop s g i n w) := by
  unfold nodeStop
  split
  · exact nodeRetry_memInv h
  · exact h
  · exact setNode_memInv h

theorem startLaunchNode_memInv {g i n} (h : MemInv s) : MemInv (startLaunchNode s g i n) := by
  unfold startLaunchNode
  grind [setNode_memInv, → nodeWords_memInv, nodeStop_memInv, startLaunch_memInv, modNode_memInv]

theorem nodeFaultEntry_memInv {g frec} (h : MemInv s) : MemInv (nodeFaultEntry s g frec) := by
  unfold nodeFaultEntry
  dsimp only [State.freeWord]
  exact ringWrite_memInv (State.withDev_memInv h)

theorem nodeMisses_memInv {g i n frec miss} (h : MemInv s) : MemInv (nodeMisses s g i n frec miss) := by
  unfold nodeMisses
  split
  · exact setNode_memInv h
  · split
    · exact nodeStop_memInv h
    · dsimp only
      exact nodeFaultEntry_memInv (modNode_memInv (State.modGraph_memInv (nodeRecord_memInv ‹_› h)))

theorem probeNode_memInv {g i n dims ws} (h : MemInv s) : MemInv (probeNode s g i n dims ws) := by
  unfold probeNode
  refine iteInduction (fun _ => setNode_memInv h) (fun _ => ?_)
  extract_lets c
  have hp := probeCopy_passInv (f := { ctx := g.ctx, leases := g.bound, member := none, vain := n.vain }) (c := c) h
  clear_value c
  generalize probeCopy _ c s = r at hp ⊢
  match r, hp with
  | .error (.mig va, t), hp => exact nodeRetry_memInv hp
  | .error (.held, t), hp => exact hp
  | .error (.trap _ _, t), hp => exact setNode_memInv hp
  | .error (.lease _, t), hp => exact setNode_memInv hp
  | .error (.tooMany, t), hp => exact setNode_memInv hp
  | .ok p, hp =>
    refine iteInduction (fun _ => nodeMisses_memInv hp) (fun _ => iteInduction (fun _ => h) (fun _ => ?_))
    exact finishCopy_memInv (modNode_memInv hp)

theorem startCopyNode_memInv {g i n} (h : MemInv s) : MemInv (startCopyNode s g i n) := by
  unfold startCopyNode
  grind [setNode_memInv, → nodeWords_memInv, nodeStop_memInv, probeNode_memInv]

theorem resumeNode_memInv {g i n} (h : MemInv s) : MemInv (resumeNode s g i n) := by
  unfold resumeNode
  grind [→ watchWord_memInv, modNode_memInv]

theorem stampWord_memInv {g i n r} (hr : stampWord s g i n = .ok r) (h : MemInv s) : MemInv r.2 := by
  unfold stampWord at hr
  grind [→ nodeAccess_memInv]

theorem stampWord_error_memInv {g i n t} (ht : stampWord s g i n = .error t) (h : MemInv s) : MemInv t := by
  unfold stampWord at ht
  grind [nodeStop_memInv]

theorem startNode_memInv {tn gid i} (h : MemInv s) : MemInv (startNode s tn gid i) := by
  unfold startNode
  grind [resumeNode_memInv, startLaunchNode_memInv, startCopyNode_memInv, → stampWord_memInv, → stampWord_error_memInv, modNode_memInv,
    setNode_memInv,
    msixFire_memInv]

theorem graphCheck_memInv {tn gid} (h : MemInv s) : MemInv (graphCheck s tn gid) := by
  unfold graphCheck
  split
  · exact h
  · split
    · exact h
    · dsimp only
      exact MemInv.of_memories (announce_memInv (widenAll_memInv h)) rfl rfl rfl

theorem execNodeFinish_nextInv {tn gid i} (h : MemInv s) : NextInv (execNodeFinish tn gid i s) := by
  unfold execNodeFinish
  split
  · exact .next h
  · split
    · refine .next ?_
      split
      · exact graphCheck_memInv (State.modGraph_memInv h)
      · exact h
    · exact .next h

theorem stampReread_memInv {g i n} (h : MemInv s) : MemInv (stampReread s g i n) := by
  unfold stampReread
  grind [→ stampWord_error_memInv, modNode_memInv]

theorem execNodeFail_nextInv {tn gid i} (h : MemInv s) : NextInv (execNodeFail tn gid i s) := by
  unfold execNodeFail
  split
  · exact .next h
  · split
    · split
      · exact .next (graphCheck_memInv (State.modGraph_memInv (setNode_memInv h)))
      · exact .next (stampReread_memInv h)
    · exact .next h

theorem killGraph_memInv {g i} (h : MemInv s) : MemInv (killGraph s g i).1 := graphCheck_memInv (State.modGraph_memInv h)

theorem rejoin_memInv {tn g es} (h : MemInv s) : MemInv (rejoin s tn g es) := by
  unfold rejoin
  split <;> exact h

theorem armGate_nextInv {d a b spec ws} (h : MemInv s) : NextInv (armGate s d a b spec ws) := by
  unfold armGate
  dsimp only
  split
  · exact .next (State.waitFor_memInv h)
  · refine retire_nextInv ?_
    split
    · exact rejoin_memInv (State.withDev_memInv h)
    · exact h

theorem execVaneArm_nextInv {d a b} (h : MemInv s) : NextInv (execVaneArm d a b s) := by
  refine taskOnly_nextInv h (readS_nextInv h fun vs => ?_)
  grind [armGate_nextInv, trap_nextInv, → readDwords_memInv, stopAt_nextInv, retire_nextInv]

theorem execVaneArmCommit_nextInv {t} (h : MemInv s) : NextInv (execVaneArmCommit t s) := by
  refine resumeWait_nextInv h fun w k hp s hs => ?_
  split at hp <;> cases hp
  exact execVaneArm_nextInv hs

theorem execVaneDrop_nextInv {a b} (h : MemInv s) : NextInv (execVaneDrop a b s) := by
  unfold execVaneDrop
  dsimp only
  refine taskOnly_nextInv h ?_
  refine readS_nextInv h (fun _ => ?_)
  split
  · exact fmtTrap_nextInv h
  · split
    · exact fmtTrap_nextInv h
    · split
      · exact retire0_nextInv h
      · split
        · exact retire0_nextInv (dropWhere_memInv h)
        · exact .next (State.waitFor_memInv (dropWhere_memInv h))

theorem flipEdge_memInv {t eid} (h : MemInv s) : MemInv (flipEdge s t eid) := by
  unfold flipEdge
  split
  · exact h
  · split
    · exact h
    · dsimp only
      split
      · split
        · exact State.withDev_memInv (State.withDev_memInv h)
        · exact State.withDev_memInv h
      · split
        · exact State.withDev_memInv (State.withDev_memInv h)
        · exact State.withDev_memInv h

theorem endFiring_memInv {tid} (h : MemInv s) : MemInv (endFiring s tid) :=
  State.modTask_memInv h

theorem closeFiring_memInv {tid} (h : MemInv s) : MemInv (closeFiring s tid) := by
  unfold closeFiring
  split
  · split
    · exact endFiring_memInv h
    · exact h
  · exact h

theorem flipStep_memInv {tid} (h : MemInv s) : MemInv (flipStep s tid) := by
  unfold flipStep
  split
  · exact h
  · split
    · exact h
    · split
      · split
        · exact closeFiring_memInv (State.modTask_memInv h)
        · exact h
      · split
        · exact endFiring_memInv h
        · exact closeFiring_memInv (State.modTask_memInv (flipEdge_memInv h))

theorem endOfFiring_nextInv {word k rs a} (h : MemInv s) : NextInv (endOfFiring s word k rs a) := by
  unfold endOfFiring
  grind [NextInv, withTask_nextInv, ill_nextInv, readS_nextInv, fmtTrap_nextInv, State.modTask_memInv, settleEnd_nextInv, saveGroup_memInv,
    complete_memInv, popPorts_memInv, State.waitFor_memInv]

theorem execFlipMessage_nextInv {k} (h : MemInv s) : NextInv (execFlipMessage k s) := by
  unfold execFlipMessage
  split
  · dsimp only
    refine .next ?_
    split
    · exact h
    · exact State.withDev_memInv h
  · exact .next h

theorem execIdlePass_nextInv {tid} (h : MemInv s) : NextInv (execIdlePass tid s) := by
  unfold execIdlePass
  split
  · split
    · dsimp only
      exact .next (foldl_memInv (fun _ _ => flipEdge_memInv) _ (State.modTask_memInv h))
    · exact .next h
  · exact .next h

theorem countEcc_memInv {corrected} (h : MemInv s) : MemInv (countEcc s corrected) :=
  State.withH_memInv h

theorem freezeGroup_memInv {tn g} (h : MemInv s) : MemInv (freezeGroup s tn g) := by
  unfold freezeGroup
  dsimp only [State.freeWord]
  exact ringWrite_memInv (State.modTenX_memInv (State.withDev_memInv (State.withDev_memInv h)))

theorem execEdgeStoreError_nextInv {die tn g eid} (h : MemInv s) : NextInv (execEdgeStoreError die tn g eid s) := by
  unfold execEdgeStoreError
  refine .next ?_
  split
  · exact freezeGroup_memInv (countEcc_memInv h)
  · exact h

theorem execVaneRd_nextInv {d a} (h : MemInv s) : NextInv (execVaneRd d a s) := by
  unfold execVaneRd
  dsimp only
  refine withTask_nextInv h (fun _ => ?_)
  split
  · exact ill_nextInv h
  · refine readS_nextInv h (fun _ => ?_)
    split
    · exact retire_nextInv h
    · split
      · exact retire_nextInv h
      · exact fmtTrap_nextInv h

theorem evict_memInv {i} (h : MemInv s) : MemInv (evict s i) := by
  unfold evict
  dsimp only
  exact h

theorem dropAt_memInv {i c} (h : MemInv s) : MemInv (dropAt s i c) := by
  unfold dropAt
  dsimp only
  exact h

theorem startInv_memInv {p} (h : MemInv s) : MemInv (startInv s p).1 := h

theorem tlbinv_nextInv {word kind l d a rs} (h : MemInv s) : NextInv (tlbinv s word kind l d a rs) := by
  unfold tlbinv
  refine portGate_nextInv h ?_
  refine needLevel_nextInv h ?_
  refine readS_nextInv h (fun _ => ?_)
  split
  · split
    · refine .next (State.waitFor_memInv h)
    · dsimp only
      refine retire0_nextInv (State.withMem_memInv (startInv_memInv h))

theorem execTlbsync_nextInv (h : MemInv s) : NextInv (execTlbsync s) := by
  unfold execTlbsync
  refine needLevel_nextInv h ?_
  split
  · exact .next (complete_memInv (State.withMem_memInv h))
  · exact .next (State.waitFor_memInv h)

theorem execTlbsyncComplete_nextInv {t} (h : MemInv s) : NextInv (execTlbsyncComplete t s) := by
  refine resumeWait_nextInv h fun w k hp s hs => ?_
  split at hp <;> cases hp
  exact execTlbsync_nextInv hs

theorem execMigRetry_nextInv {t} (h : MemInv s) : NextInv (execMigRetry t s) := by
  unfold execMigRetry
  split
  · refine .next ?_
    split
    · exact State.modStrand_memInv h
    · exact h
  · exact .next h

theorem execHinvWrite_nextInv {v} (h : MemInv s) : NextInv (execHinvWrite v s) := by
  unfold execHinvWrite
  split
  · exact .next h
  · dsimp only
    exact .next (State.withH_memInv (startInv_memInv h))

theorem execHinvDone_nextInv (h : MemInv s) : NextInv (execHinvDone s) := by
  unfold execHinvDone
  refine .next ?_
  split
  · exact State.withH_memInv h
  · exact h

theorem execIntr_nextInv {p v} (h : MemInv s) : NextInv (execIntr p v s) := by
  unfold execIntr
  dsimp only
  refine needLevel_nextInv h ?_
  split
  · exact .next (State.waitFor_memInv h)
  · split
    · exact .next (complete_memInv h)
    · exact .next (complete_memInv (msixFire_memInv h))

theorem execMsixTableWrite_nextInv {p n addr data mask} (h : MemInv s) : NextInv (execMsixTableWrite p n addr data mask s) := by
  unfold execMsixTableWrite
  split
  · exact .next h
  · dsimp only
    refine .next ?_
    split
    · split
      · exact State.withDev_memInv (State.withDev_memInv h)
      · exact State.withDev_memInv h
    · split
      · exact State.withDev_memInv (State.withDev_memInv h)
      · exact State.withDev_memInv h

theorem answerHost_memInv {p v} (h : MemInv s) : MemInv (answerHost s p v) :=
  State.withDev_memInv h

theorem withHsem_memInv {f} (h : MemInv s) : MemInv (withHsem s f) :=
  State.withH_memInv h

theorem execHsemRead_nextInv {p} (h : MemInv s) : NextInv (execHsemRead p s) := by
  unfold execHsemRead
  dsimp only
  refine .next ?_
  refine answerHost_memInv ?_
  split
  · exact withHsem_memInv h
  · exact h

theorem discard_memInv {p} (h : MemInv s) : MemInv (discard s p) :=
  withHsem_memInv h

theorem execHsemRelease_nextInv {p} (h : MemInv s) : NextInv (execHsemRelease p s) := by
  unfold execHsemRelease
  refine .next ?_
  split
  · exact withHsem_memInv h
  · exact h

theorem execHsemLapse_nextInv (h : MemInv s) : NextInv (execHsemLapse s) := by
  unfold execHsemLapse
  refine .next ?_
  split
  · exact withHsem_memInv h
  · exact h

theorem execMemoryWindowWrite_nextInv {tn k len v} (h : MemInv s) : NextInv (execMemoryWindowWrite tn k len v s) := by
  unfold execMemoryWindowWrite
  dsimp only
  split
  · exact .next h
  · split
    · split
      · exact .next h
      · exact .next (State.modTen_memInv h)
    · split
      · exact .next h
      · exact .next (State.modTen_memInv h)

theorem execRtbaseWrite_nextInv {v} (h : MemInv s) : NextInv (execRtbaseWrite v s) := by
  unfold execRtbaseWrite
  dsimp only
  exact .next (State.withDev_memInv (State.withH_memInv h))

theorem execHdm_nextInv {p base} (h : MemInv s) : NextInv (execHdm p base s) :=
  .next (State.withDev_memInv h)

theorem putParts_memInv {ps bs} (h : MemInv s) : MemInv (putParts ps bs s) := by
  induction ps generalizing bs s with
  | nil => exact h
  | cons p ps ih => exact ih (enterWide_memInv _ _ _ h)

theorem execCxlMemAccess_nextInv {p hpa len data} (h : MemInv s) : NextInv (execCxlMemAccess p hpa len data s) := by
  unfold execCxlMemAccess
  split
  · exact .next h
  · split
    · exact .next (putParts_memInv h)
    · exact .next (State.withDev_memInv h)

theorem execImage_nextInv {i} (h : MemInv s) : NextInv (execImage i s) :=
  .next (State.withDev_memInv h)

theorem spdm_nextInv {p code facts params} (h : MemInv s) : NextInv (spdm s p code facts params) :=
  .next (State.withDev_memInv h)

theorem spdmError_nextInv {p code data} (h : MemInv s) : NextInv (spdmError s p code data) :=
  .next (State.withDev_memInv h)

theorem spdmSlot_nextInv {p code slot facts params} (h : MemInv s) : NextInv (spdmSlot s p code slot facts params) := by
  unfold spdmSlot
  split
  · exact spdm_nextInv h
  · exact spdmError_nextInv h

theorem execSpdmGetMeasurements_nextInv {p idx} (h : MemInv s) : NextInv (execSpdmGetMeasurements p idx s) := by
  unfold execSpdmGetMeasurements
  split
  · exact spdm_nextInv h
  · exact spdmError_nextInv h

theorem startTenant_memInv {tn} (h : MemInv s) : MemInv (startTenant s tn) := by
  unfold startTenant
  grind [MemInv, change_memInv, State.modTen_memInv, dispatchTask_memInv]

theorem createTenant_memInv {tn vmid} (h : MemInv s) : MemInv (createTenant s tn vmid) := by
  unfold createTenant
  dsimp only
  split
  · exact State.modTen_memInv (clearRing_memInv h)
  · exact startTenant_memInv (State.modTen_memInv (clearRing_memInv h))

theorem execTenantCreate_nextInv {tn vmid} (h : MemInv s) : NextInv (execTenantCreate tn vmid s) := by
  unfold execTenantCreate
  refine .next ?_
  split
  · exact h
  · exact createTenant_memInv h

theorem execWfiWake_nextInv {t} (h : MemInv s) : NextInv (execWfiWake t s) := by
  refine resumeWait_nextInv h fun w k hp s hs => ?_
  split at hp <;> cases hp
  exact execWfi_nextInv hs

theorem execHaltWake_nextInv (h : MemInv s) : NextInv (execHaltWake s) := by
  refine resumeWait_nextInv h fun w k hp s hs => ?_
  split at hp <;> cases hp
  exact execHalt_nextInv hs

theorem execInterrupt_nextInv {tn} (h : MemInv s) : NextInv (execInterrupt tn s) := by
  unfold execInterrupt
  split
  · exact .next h
  · split
    · exact .next h
    · split
      · split
        · exact .next (takeInterrupt_memInv (State.focus_memInv h))
        · exact .next h
      · exact .next h

theorem execQueueDeadlock_nextInv {tid} (h : MemInv s) : NextInv (execQueueDeadlock tid s) := by
  unfold execQueueDeadlock
  split
  · split
    · dsimp only
      exact .next (takeTrapAt_memInv (State.focus_memInv h))
    · exact .next h
  · exact .next h

theorem strikeWord_memInv {l} (h : MemInv s) : MemInv (strikeWord s l) := by
  unfold strikeWord
  dsimp only
  exact MemInv.of_memories (poisonWords_memInv _ _ _ h) rfl rfl rfl

theorem poisonPlace_memInv {e} (h : MemInv s) : MemInv (poisonPlace s e) := by
  unfold poisonPlace
  dsimp only
  split
  · exact h
  · exact strikeWord_memInv h
  · exact strikeWord_memInv h
  · exact strikeWord_memInv h
  · split
    · exact h
    · exact State.modStrand_memInv h
  · exact State.modStrand_memInv h
  · split
    · exact h
    · exact State.modStrand_memInv h
  · exact State.modStrand_memInv h
  · exact State.modTask_memInv h

theorem failMerge_memInv {t r} (hr : failMerge s t = some r) (h : MemInv s) : MemInv r := by
  unfold failMerge at hr
  grind [ringWrite_memInv, State.modStrand_memInv]

theorem execMergeBufferError_nextInv {t} (h : MemInv s) : NextInv (execMergeBufferError t s) := by
  unfold execMergeBufferError
  have hc : MemInv (countEcc s false) := countEcc_memInv h
  refine .next ?_
  cases hf : failMerge (countEcc s false) t with
  | none => exact h
  | some r => exact failMerge_memInv hf hc

theorem loseTask_memInv {t frameToo} (h : MemInv s) : MemInv (loseTask s t frameToo) := by
  unfold loseTask
  dsimp only
  exact ringWrite_memInv (foldl_memInv (fun _ _ => endTask_memInv) _ h)

theorem rootLost_memInv {t clu cause} (h : MemInv s) : MemInv (rootLost s t clu cause) :=
  ringWrite_memInv h

theorem strikeRoot_memInv {t} (h : MemInv s) : MemInv (strikeRoot s t) := by
  unfold strikeRoot
  dsimp only
  split
  · exact h
  · exact rootLost_memInv (restartRoot_memInv h)

theorem execInternalStateError_nextInv {e s0} (h : MemInv s0) : NextInv (execInternalStateError e s0) := by
  unfold execInternalStateError
  grind [NextInv, countEcc_memInv, strikeRoot_memInv, loseTask_memInv, killGraph_memInv, ringWrite_memInv, faultEntry_memInv,
    execMergeBufferError_nextInv, execEdgeStoreError_nextInv]

theorem execClusterReset_nextInv {c} (h : MemInv s) : NextInv (execClusterReset c s) := by
  unfold execClusterReset
  split
  · exact .next h
  · dsimp only
    exact .next (foldl_memInv (fun _ _ e => State.modStrand_memInv (releaseTask_memInv e)) _
      (foldl_memInv (fun _ _ => endTask_memInv) _ (State.withH_memInv (State.modCluster_memInv h))))

theorem restartStopped_memInv {c t} (h : MemInv s) : MemInv (restartStopped c s t) := by
  unfold restartStopped
  dsimp only [State.freeWord]
  split
  · split
    · exact dispatchTask_memInv (rootLost_memInv (restartRoot_memInv (State.withDev_memInv h)))
    · exact rootLost_memInv (restartRoot_memInv (State.withDev_memInv h))
  · exact rootLost_memInv (restartRoot_memInv (State.withDev_memInv h))

theorem execClusterResetComplete_nextInv {c} (h : MemInv s) : NextInv (execClusterResetComplete c s) := by
  unfold execClusterResetComplete
  split
  · exact .next h
  · dsimp only
    exact .next (foldl_memInv (fun _ _ => restartStopped_memInv) _ (State.withH_memInv (State.modCluster_memInv h)))

theorem killLaunch_memInv {l} (h : MemInv s) : MemInv (killLaunch s l) := by
  unfold killLaunch
  dsimp only
  exact completeLaunch_memInv h

theorem endGraph_memInv {g} (h : MemInv s) : MemInv (endGraph s g) := by
  unfold endGraph
  dsimp only
  exact graphCheck_memInv (State.modGraph_memInv h)

theorem endWork_memInv {tn} (h : MemInv s) : MemInv (endWork s tn) := by
  unfold endWork
  dsimp only
  exact foldl_memInv (fun _ _ => endGraph_memInv) _ (foldl_memInv (fun _ _ => killLaunch_memInv) _
    (foldl_memInv (fun _ _ => failCopy_memInv) _ (foldl_memInv (fun _ _ => endTask_memInv) _ h)))

theorem execTenantReset_nextInv {tn} (h : MemInv s) : NextInv (execTenantReset tn s) := by
  unfold execTenantReset
  split
  · exact .next h
  · dsimp only
    refine .next ?_
    refine clearRing_memInv ?_
    exact State.modTenX_memInv (dropWhere_memInv (foldl_memInv (fun _ _ => dropWindow_memInv) _
      (endWork_memInv (change_memInv (State.modTenX_memInv (State.modTen_memInv h))))))

theorem Memory.filter_wf {m : List Host.Cell} (p : Host.Cell → Bool) (h : Memory.wf m = true) : Memory.wf (m.filter p) = true := by
  rw [Memory.wf_iff] at h ⊢
  exact ⟨fun c hc => h.1 c (List.mem_of_mem_filter hc), h.2.filter p⟩

theorem zeroRange_memInv {base len} (h : MemInv s) : MemInv (zeroRange s base len) := ⟨Memory.filter_wf _ h.1, h.2⟩

theorem execTenantResetComplete_nextInv {tn} (h : MemInv s) : NextInv (execTenantResetComplete tn s) := by
  unfold execTenantResetComplete
  split
  · exact .next h
  · dsimp only
    refine .next ?_
    refine State.modTenX_memInv ?_
    refine foldl_memInv (fun _ _ hx => ?_) _ h
    split
    · exact hx
    · exact zeroRange_memInv hx

theorem bootFirmware_wf {d fw start} (h : Memory.wf fw = true) : Memory.wf (bootFirmware d fw start).1 = true := by
  unfold bootFirmware
  split
  · exact Memory.write_wf _ _ _ rfl
  · exact h

theorem reboot_memInv {d fw start} (hw : Memory.wf fw = true) (h : MemInv s) :
    MemInv (reboot s d fw start) := ⟨rfl, h.2.1, bootFirmware_wf hw⟩

theorem execWarmReset_nextInv {s0} (h : MemInv s0) : NextInv (execWarmReset s0) := by
  unfold execWarmReset
  grind [MemInv, NextInv, settleLog_memInv, flushPosts_memInv, endWork_memInv, reboot_memInv, foldl_memInv]

theorem execColdReset_nextInv (h : MemInv s) : NextInv (execColdReset s) := .next (reboot_memInv rfl (settleLog_memInv s h))

theorem execStateDump_nextInv {v} (h : MemInv s) : NextInv (execStateDump v s) := by
  unfold execStateDump
  refine .next ?_
  split
  · exact h
  · exact State.withH_memInv h

theorem taskImage_memInv {t} (h : MemInv s) : MemInv (taskImage s t).2 := by
  unfold taskImage
  dsimp only
  split <;> exact h

theorem nodeImage_memInv {g n} (h : MemInv s) : MemInv (nodeImage s g n).2 := by
  unfold nodeImage
  exact freeWord_memInv (freeWord_memInv (freeWord_memInv (freeWord_memInv h)))

theorem recordImage_memInv {k} (h : MemInv s) : MemInv (recordImage s k).2 := by
  unfold recordImage
  split
  · exact taskImage_memInv h
  · split
    · exact nodeImage_memInv h
    · exact h

theorem dumpGo_memInv {pa die first is} (h : MemInv s) : MemInv (dumpGo pa die first is s) := by
  induction is generalizing s with
  | nil => exact h
  | cons i is ih => exact ih (enterWide_memInv _ _ _ (recordImage_memInv h))

theorem execStateDumpComplete_nextInv (h : MemInv s) : NextInv (execStateDumpComplete s) := by
  unfold execStateDumpComplete
  split
  · exact .next h
  · exact .next (State.withH_memInv (dumpGo_memInv h))

end Sys2Proof.Machine
end

section
/-! ## The canonical form of the memories: control registers, errors and the moves of ordering -/

namespace Sys2Proof.Machine

-- One at a time: the lemmas are many and small, and a thread for each would take more memory than they do.
set_option Elab.async false

variable {s : State}

theorem nextOf_memInv {o} (hk : NextInv o) (h : MemInv s) : MemInv (nextOf o s) := by
  cases o with
  | next t => exact hk t rfl
  | fault f => exact h
  | refused r => exact h

theorem taskCsr_memInv {f} (h : MemInv s) : MemInv (taskCsr s f).2 := by
  unfold taskCsr
  split <;> exact h

theorem readU_memInv {n} (h : MemInv s) : MemInv (readU s n).2 := by
  unfold readU
  grind [taskCsr_memInv, freeWord_memInv]

theorem writeU_memInv {n v} (h : MemInv s) : MemInv (writeU s n v) := by
  unfold writeU
  dsimp only
  split
  · exact setMr_memInv h
  · exact State.withCtl_memInv h
  · exact State.withCtl_memInv h
  · exact State.withCtl_memInv h
  · exact State.withCtl_memInv h
  · exact State.withCtl_memInv h
  · exact State.withCtl_memInv h
  · exact State.withCtl_memInv h
  · exact State.withCtl_memInv h
  · exact State.withCtl_memInv h
  · exact h

theorem readK_memInv {n} (h : MemInv s) : MemInv (readK s n).2 := by
  unfold readK
  grind [freeWord_memInv]

theorem writeK_memInv {n v} (h : MemInv s) : MemInv (writeK s n v) := by
  unfold writeK
  grind [State.modTen_memInv, State.withTrap_memInv, nextOf_memInv, execPswaWrite_nextInv]

theorem writeTcfg_memInv {tn v} (h : MemInv s) : MemInv (writeTcfg s tn v) := by
  unfold writeTcfg
  dsimp only
  split
  · split
    · exact h
    · exact nextOf_memInv (execTenantReset_nextInv h) h
  · split
    · exact nextOf_memInv (execTenantCreate_nextInv h) h
    · exact State.modTen_memInv h

theorem writeH_memInv {n v} (h : MemInv s) : MemInv (writeH s n v) := by
  unfold writeH
  grind [State.modTen_memInv, withHsem_memInv, State.withH_memInv, writeTcfg_memInv, nextOf_memInv, execMemoryWindowWrite_nextInv,
    execHinvWrite_nextInv, execPbudWrite_nextInv, execVdmapWrite_nextInv, execRtbaseWrite_nextInv, execClusterReset_nextInv,
    execWarmReset_nextInv, execStateDump_nextInv]

theorem execHostCsrAccess_nextInv {p off size wr} (h : MemInv s) : NextInv (execHostCsrAccess p off size wr s) := by
  unfold execHostCsrAccess
  dsimp only
  split
  · split
    · exact .next (answerHost_memInv h)
    · split
      · exact execHsemRead_nextInv h
      · exact .next (answerHost_memInv h)
  · split
    · exact .next h
    · split
      · split
        · exact execHsemRelease_nextInv (writeH_memInv h)
        · exact .next (writeH_memInv h)
      · split
        · exact .next (discard_memInv h)
        · exact .next (writeH_memInv h)

theorem writeM_memInv {n v} (h : MemInv s) : MemInv (writeM s n v) := by
  unfold writeM
  dsimp only
  split
  · exact State.withM_memInv h
  · exact nextOf_memInv (execTctlWrite_nextInv h) h
  · exact change_memInv (State.modCluster_memInv h)
  · exact State.withM_memInv h
  · exact State.withM_memInv h
  · exact State.withM_memInv h
  · exact State.withM_memInv h
  · exact State.withM_memInv h
  · exact nextOf_memInv (execWdogWrite_nextInv h) h
  · exact nextOf_memInv (execPctlWrite_nextInv h) h
  · exact h

theorem csrRead_memInv {n} (h : MemInv s) : MemInv (csrRead s n).2 := by
  unfold csrRead
  split
  · exact readU_memInv h
  · exact readK_memInv h
  · exact h
  · exact h

theorem csrPut_memInv {n v} (h : MemInv s) : MemInv (csrPut s n v) := by
  unfold csrPut
  split
  · exact writeU_memInv h
  · exact writeK_memInv h
  · exact writeH_memInv h
  · exact writeM_memInv h

theorem csrDo_nextInv {word op d a num} (h : MemInv s) : NextInv (csrDo s word op d a num) := by
  unfold csrDo
  refine readS_nextInv h fun vs => ?_
  grind [NextInv.next, State.waitFor_memInv, csrRead_memInv, retire_nextInv, ill_nextInv, trap_nextInv, execWarmReset_nextInv,
    csrPut_memInv, popPorts_memInv,
    writeS_memInv]

theorem csrOp_nextInv {word op d a num} (h : MemInv s) : NextInv (csrOp s word op d a num) := by
  unfold csrOp
  dsimp only
  split
  · split
    · exact .next (State.waitFor_memInv h)
    · exact .next (complete_memInv h)
  · refine portGate_nextInv h ?_
    split
    · exact ill_nextInv h
    · split
      · exact ill_nextInv h
      · split
        · exact trap_nextInv h
        · split
          · exact ill_nextInv h
          · exact csrDo_nextInv h

theorem execCsrr_nextInv {d n} (h : MemInv s) : NextInv (execCsrr d n s) :=
  csrOp_nextInv h

theorem execCsrw_nextInv {d a n} (h : MemInv s) : NextInv (execCsrw d a n s) :=
  csrOp_nextInv h

theorem execCsrs_nextInv {d a n} (h : MemInv s) : NextInv (execCsrs d a n s) :=
  csrOp_nextInv h

theorem execCsrc_nextInv {d a n} (h : MemInv s) : NextInv (execCsrc d a n s) :=
  csrOp_nextInv h

theorem csrAgain_nextInv {op d a n} (h : MemInv s) : NextInv (csrAgain op d a n s) := by
  unfold csrAgain
  split
  · exact execCsrr_nextInv h
  · exact execCsrw_nextInv h
  · exact execCsrs_nextInv h
  · exact execCsrc_nextInv h

theorem execFflagsAccess_nextInv {t} (h : MemInv s) : NextInv (execFflagsAccess t s) := by
  refine resumeWait_nextInv h fun w k hp s hs => ?_
  split at hp <;> cases hp
  exact csrAgain_nextInv hs

theorem retireF_nextInv {rs d r} (h : MemInv s) : NextInv (retireF s rs d r) :=
  retireOf_nextInv (accrue_memInv h)

theorem fpu2_nextInv {word d a b f} (h : MemInv s) : NextInv (fpu2 s word d a b f) :=
  readS_nextInv h (fun _ => retireF_nextInv h)

theorem fpu1_nextInv {word d a f} (h : MemInv s) : NextInv (fpu1 s word d a f) :=
  readS_nextInv h (fun _ => retireF_nextInv h)

theorem execFcvtFF_nextInv {d a t src} (h : MemInv s) : NextInv (execFcvtFF d a t src s) := by
  unfold execFcvtFF
  split
  · exact ill_nextInv h
  · exact fpu1_nextInv h

theorem setValueAt_memInv {x p v} (h : MemInv s) : MemInv (setValueAt s x p v) := by
  unfold setValueAt
  split
  · exact State.modStrand_memInv h
  · split
    · exact State.modStrand_memInv h
    · split
      · exact State.modTask_memInv h
      · exact h

theorem forgetAt_memInv {x vec l n} (h : MemInv s) : MemInv (forgetAt s x vec l n) := by
  unfold forgetAt
  split
  · exact h
  · exact State.modStrand_memInv h

theorem readVector_memInv {x p k} (h : MemInv s) : MemInv (readVector s x p k) := by
  unfold readVector
  split
  · split
    · split
      · exact h
      · exact forgetAt_memInv (setValueAt_memInv h)
    · exact h
  · exact h

theorem readImage_memInv {x k} (h : MemInv s) : MemInv (readImage s x k) := by
  unfold readImage
  split
  · split
    · split
      · exact h
      · dsimp only
        exact forgetAt_memInv (State.modStrand_memInv h)
    · exact h
  · exact h

theorem arrive_memInv {t reg ord v bad} (h : MemInv s) : MemInv (arrive s t reg ord v bad) := by
  unfold arrive
  dsimp only
  exact State.modStrand_memInv h

theorem readScalar_memInv {x k} (h : MemInv s) : MemInv (readScalar s x k) := by
  unfold readScalar
  split
  · split
    · exact h
    · dsimp only
      exact arrive_memInv (forgetAt_memInv (State.modStrand_memInv h))
  · exact h

theorem execRead_nextInv {t p k} (h : MemInv s) : NextInv (execRead t p k s) := by
  unfold execRead
  split
  · refine .next ?_
    split
    · exact readImage_memInv h
    · split
      · exact readScalar_memInv h
      · exact readVector_memInv h
  · exact .next h

theorem execLand_nextInv {t p g} (h : MemInv s) : NextInv (execLand t p g s) := by
  unfold execLand
  split
  · split
    · split
      · exact .next h
      · exact .next (setValueAt_memInv h)
    · exact .next h
  · exact .next h

theorem execPush_nextInv {t} (h : MemInv s) : NextInv (execPush t s) :=
  .next (State.modStrand_memInv h)

theorem execEnterScalar_nextInv {t} (h : MemInv s) : NextInv (execEnterScalar t s) := by
  unfold execEnterScalar
  grind [NextInv, State.modStrand_memInv, enterBad_memInv, enter_memInv]

theorem supplyElems_memInv {x tr p} (h : MemInv s) : MemInv (supplyElems s x tr p) := by
  unfold supplyElems
  dsimp only
  exact State.modStrand_memInv h

theorem execSupply_nextInv {t tr n} (h : MemInv s) : NextInv (execSupply t tr n s) := by
  unfold execSupply
  split
  · exact .next (supplyElems_memInv h)
  · exact .next h

theorem leaveTrain_memInv {t tr n} (h : MemInv s) : MemInv (leaveTrain s t tr n) :=
  State.modStrand_memInv h

theorem elemTag_memInv {u n} (h : MemInv s) : MemInv (elemTag s u n).2 := by
  unfold elemTag
  split <;> exact h

theorem execEnterTrain_nextInv {t tr n} (h : MemInv s) : NextInv (execEnterTrain t tr n s) := by
  unfold execEnterTrain
  split
  · split
    · dsimp only
      exact .next (enterBad_memInv (enter_memInv _ _ _ _ _ _ _ _ (elemTag_memInv (leaveTrain_memInv h))))
    · exact .next h
  · exact .next h

theorem execWiden_nextInv {k} (h : MemInv s) : NextInv (execWiden k s) := by
  unfold execWiden
  split
  · split
    · exact .next (foldLog_memInv _ h)
    · exact .next h
  · exact .next h

theorem addOne_memInv {t x u e bs} (h : MemInv s) : MemInv (addOne s t x u e bs) := by
  unfold addOne
  grind [elemTag_memInv, leaveTrain_memInv, enterBad_memInv, enter_memInv]

theorem pastOne_memInv {x p sum} (h : MemInv s) : MemInv (pastOne s x p sum) := by
  unfold pastOne
  dsimp only
  refine arrive_memInv ?_
  split
  · exact forgetAt_memInv (State.modStrand_memInv h)
  · exact amoOne_memInv (forgetAt_memInv (State.modStrand_memInv h))

theorem fasOne_memInv {x p sum} (h : MemInv s) : MemInv (fasOne s x p sum) := by
  unfold fasOne
  dsimp only
  split
  · exact forgetAt_memInv (State.modStrand_memInv h)
  · exact enter_memInv _ _ _ _ _ _ _ _ (forgetAt_memInv (State.modStrand_memInv h))

theorem execAtomic_nextInv {t tr n} (h : MemInv s) : NextInv (execAtomic t tr n s) := by
  unfold execAtomic
  split
  · exact .next (addOne_memInv h)
  · split
    · exact .next (pastOne_memInv h)
    · split
      · exact .next (fasOne_memInv h)
      · refine resumeWait_nextInv h fun w k hp s hs => ?_
        split at hp <;> cases hp
        · exact amoAgain_nextInv hs
        · exact execVfas_nextInv hs

theorem addOf_memInv {a old new} (h : MemInv s) : MemInv (addOf s a old new) := by
  unfold addOf
  grind [addOne_memInv, pastOne_memInv, fasOne_memInv, nextOf_memInv, amo_nextInv, State.focus_memInv, vfas_nextInv, setRx_memInv,
    putRemote_memInv, remoteAtomic_memInv, enterDev_memInv]

theorem addsGo_memInv {l f new as t} (ht : addsGo l f new as s = some t) (h : MemInv s) : MemInv t := by
  induction as generalizing s with
  | nil => grind [addsGo]
  | cons a as ih =>
    unfold addsGo at ht
    grind [addOf_memInv]

theorem combineAdds_memInv {es tree} (h : MemInv s) : MemInv (combineAdds es tree s) := by
  unfold combineAdds
  split
  · exact h
  · split
    · exact h
    · split
      · exact h
      · dsimp only
        split
        · exact h
        · exact getD_memInv (fun _ ht => addsGo_memInv ht h) h

theorem execComplete_nextInv {t} (h : MemInv s) : NextInv (execComplete t s) := by
  unfold execComplete
  split
  · exact .next (State.modStrand_memInv h)
  · refine resumeWait_nextInv h fun w k hp s hs => ?_
    split at hp <;> cases hp
    · exact fence_nextInv hs
    · exact execVdrain_nextInv hs
    · exact execMwait_nextInv hs
    · exact execBar_nextInv hs
    · exact execRfence_nextInv hs

theorem execScAccess_nextInv {t} (h : MemInv s) : NextInv (execScAccess t s) := by
  refine resumeWait_nextInv h fun w k hp s hs => ?_
  split at hp <;> cases hp
  exact scAccess_nextInv hs

theorem execMonitorRead_nextInv {t} (h : MemInv s) : NextInv (execMonitorRead t s) := by
  refine resumeWait_nextInv h fun w k hp s hs => ?_
  split at hp <;> cases hp
  exact execMwait_nextInv hs

theorem execBarArrive_nextInv {t} (h : MemInv s) : NextInv (execBarArrive t s) := by
  unfold execBarArrive
  refine .next ?_
  refine foldl_memInv (fun _ _ hx => ?_) _ h
  split
  · exact barArrive_memInv hx
  · exact hx

theorem execMicroOpIssue_nextInv {t} (h : MemInv s) : NextInv (execMicroOpIssue t s) := by
  refine resumeWait_nextInv h fun w k hp s hs => ?_
  split at hp <;> cases hp
  grind [chain_nextInv, NextInv.next]

theorem execSettleComplete_nextInv {t} (h : MemInv s) : NextInv (execSettleComplete t s) := by
  refine resumeWait_nextInv h fun w k hp s hs => ?_
  split at hp <;> cases hp
  · exact execSettle_nextInv hs
  · exact execSettleNf_nextInv hs
  · exact execSettleAll_nextInv hs
  · exact execSettleNfAll_nextInv hs

theorem execThawTake_nextInv {c k} (h : MemInv s) : NextInv (execThawTake c k s) := by
  unfold execThawTake
  split
  · exact .next h
  · split
    · exact .next h
    · dsimp only
      split <;> exact .next h

theorem builtinFill_memInv {c k} (h : MemInv s) : MemInv (builtinFill c k s) := by
  unfold builtinFill
  split
  · split
    · split
      · exact resolveFaulted_memInv (fillEntry_memInv h)
      · exact h
    · exact h
  · exact h

theorem execThawTimeout_nextInv {c k} (h : MemInv s) : NextInv (execThawTimeout c k s) := by
  unfold execThawTimeout
  grind [NextInv, faultEntry_memInv]

theorem execDomainSwitch_nextInv {c} (h : MemInv s) : NextInv (execDomainSwitch c s) := by
  unfold execDomainSwitch
  split
  · dsimp only
    exact .next (change_memInv (State.modCluster_memInv h))
  · exact .next h

end Sys2Proof.Machine
end

section
/-! ## The canonical form of the memories: every instruction and every later entry (R274) -/

namespace Sys2Proof.Machine

-- One at a time: the lemmas are many and small, and a thread for each would take more memory than they do.
set_option Elab.async false

variable {s : State}

theorem exec_nextInv (i : Instr) (h : MemInv s) : NextInv (exec i s) := by
  cases i with
  | mode => exact execMode_nextInv h
  | trap => exact notThaw_nextInv h (.next (takeTrapAt_memInv (complete_memInv h)))
  | brk => exact trap_nextInv h
  | tlbinvVa | tlbinvAsid | tlbinvIpa => exact tlbinv_nextInv h
  | intr => exact execIntr_nextInv h
  | add | sub | mul | mulh | mulhu | div | divu | rem | remu | and | or | xor | sll | srl | sra | slt | sltu | min | max | minu | maxu =>
    exact scalar2_nextInv h
  | addi => show NextInv (execAddi _ _ _ s); exact scalar1_nextInv h
  | andi => show NextInv (execAndi _ _ _ s); exact scalar1_nextInv h
  | ori => show NextInv (execOri _ _ _ s); exact scalar1_nextInv h
  | xori => show NextInv (execXori _ _ _ s); exact scalar1_nextInv h
  | slli => show NextInv (execSlli _ _ _ _ s); exact scalar1_nextInv h
  | srli => show NextInv (execSrli _ _ _ _ s); exact scalar1_nextInv h
  | srai => show NextInv (execSrai _ _ _ _ s); exact scalar1_nextInv h
  | slti => show NextInv (execSlti _ _ _ s); exact scalar1_nextInv h
  | sltiu => show NextInv (execSltiu _ _ _ s); exact scalar1_nextInv h
  | lih => show NextInv (execLih _ _ s); exact readS_nextInv h (fun _ => retireOf_nextInv h)
  | lix => show NextInv (execLix _ _ s); exact readS_nextInv h (fun _ => retireOf_nextInv h)
  | sel => show NextInv (execSel _ _ _ _ s); exact readS_nextInv h (fun _ => retireOf_nextInv h)
  | clz | ctz | popc => exact scalar1_nextInv h
  | bext => show NextInv (execBext _ _ _ _ s); exact scalar2_nextInv h
  | bins => show NextInv (execBins _ _ _ _ s); exact readS_nextInv h (fun _ => retireOf_nextInv h)
  | bswap => exact scalar1_nextInv h
  | csrr => exact execCsrr_nextInv h
  | csrw => exact execCsrw_nextInv h
  | csrs => exact execCsrs_nextInv h
  | csrc => exact execCsrc_nextInv h
  | fadd => show NextInv (execFadd _ _ _ _ s); exact fpu2_nextInv h
  | fsub => show NextInv (execFsub _ _ _ _ s); exact fpu2_nextInv h
  | fmul => show NextInv (execFmul _ _ _ _ s); exact fpu2_nextInv h
  | fdiv => show NextInv (execFdiv _ _ _ _ s); exact fpu2_nextInv h
  | fsqrt => show NextInv (execFsqrt _ _ _ s); exact fpu1_nextInv h
  | fmin => show NextInv (execFmin _ _ _ _ s); exact fpu2_nextInv h
  | fmax => show NextInv (execFmax _ _ _ _ s); exact fpu2_nextInv h
  | feq | flt | fle => exact fpu2_nextInv h
  | fclass => show NextInv (execFclass _ _ _ s); exact fpu1_nextInv h
  | fcvtFF => exact execFcvtFF_nextInv h
  | fcvtFI => show NextInv (execFcvtFI _ _ _ _ s); exact fpu1_nextInv h
  | fcvtIF => show NextInv (execFcvtIF _ _ _ _ s); exact fpu1_nextInv h
  | fsgnj => show NextInv (execFsgnj _ _ _ _ s); exact fpu2_nextInv h
  | fsgnjN => show NextInv (execFsgnjN _ _ _ _ s); exact fpu2_nextInv h
  | fsgnjX => show NextInv (execFsgnjX _ _ _ _ s); exact fpu2_nextInv h
  | ffma => show NextInv (execFfma _ _ _ _ _ s); exact readS_nextInv h (fun _ => retireF_nextInv h)
  | ffms => show NextInv (execFfms _ _ _ _ _ s); exact readS_nextInv h (fun _ => retireF_nextInv h)
  | ffnma => show NextInv (execFfnma _ _ _ _ _ s); exact readS_nextInv h (fun _ => retireF_nextInv h)
  | ffnms => show NextInv (execFfnms _ _ _ _ _ s); exact readS_nextInv h (fun _ => retireF_nextInv h)
  | beq | bne | blt => exact branch_nextInv h
  | bge => show NextInv (execBge _ _ _ s); exact branch_nextInv h
  | bltu => exact branch_nextInv h
  | bgeu => show NextInv (execBgeu _ _ _ s); exact branch_nextInv h
  | jal => exact .next (completeAt_memInv (setSreg_memInv h))
  | jalr => exact execJalr_nextInv h
  | loop => show NextInv (execLoop _ _ _ s); exact readS_nextInv h (fun _ => .next (loopStart_memInv (popPorts_memInv h)))
  | loopi => exact .next (loopStart_memInv h)
  | vloop => exact execVloop_nextInv h
  | lpclr => exact .next (complete_memInv (setLoop_memInv h))
  | bqput => exact execBqput_nextInv h
  | bqb => exact execBqb_nextInv h
  | ldB | ldH | ldW | ldD | ldBu | ldHu | ldWu => exact load_nextInv h
  | stB | stH | stW | stD => exact store_nextInv h
  | prefR | prefW | prefS => exact prefetch_nextInv h
  | amoAdd | amoAnd | amoOr | amoXor | amoMin | amoMax | amoMinu | amoMaxu | amoSwap | amoCas | amoFadd => exact amo_nextInv h
  | fenceAcq | fenceRel | fenceAr | fenceSc => exact notThaw_nextInv h (fence_nextInv h)
  | vdrain => exact execVdrain_nextInv h
  | mmon => exact execMmon_nextInv h
  | mwait => exact execMwait_nextInv h
  | bar => exact execBar_nextInv h
  | setvl => exact execSetvl_nextInv h
  | setvli => exact execSetvli_nextInv h
  | vadd | vsub | vmul | vmulh | vdiv | vmin | vmax | vabs | vneg | vand | vor | vxor | vnot | vsll | vsrl | vsra | vdot4 | vaddw
  | vclass => exact varith_nextInv h
  | vsgnj | vsgnjN | vsgnjX | vfma | vfms | vfnma | vfnms => exact chain_nextInv h
  | vcmpEq | vcmpNe | vcmpLt | vcmpLe | vcmpGt | vcmpGe | vcmpUn | vcmpOrd => exact vcmp_nextInv h
  | vsel | vexp | vexp2 | vlog | vlog2 | vsin | vcos | vtanh | vsigm | vrcp | vsqrt | vrsqrt | verf => exact chain_nextInv h
  | vapply => exact execVapply_nextInv h
  | vcvt => exact execVcvt_nextInv h
  | vquant => exact execVquant_nextInv h
  | vhad => exact execVhad_nextInv h
  | vsclget => exact execVsclget_nextInv h
  | vsclset => exact execVsclset_nextInv h
  | vperm => exact execVperm_nextInv h
  | vslideup => exact execVslideup_nextInv h
  | vslidedn => exact execVslidedn_nextInv h
  | vcompress => exact execVcompress_nextInv h
  | vexpand => exact execVexpand_nextInv h
  | vzip => exact execVzip_nextInv h
  | vunzip => exact execVunzip_nextInv h
  | vbcast | vid => exact whole_nextInv h (fun _ => fmtGate_nextInv h (needM_nextInv h (writeVl_nextInv h)))
  | vext => exact execVext_nextInv h
  | vins => exact execVins_nextInv h
  | vmv => exact execVmv_nextInv h
  | vredSum | vredMin | vredMax | vredAnd | vredOr | vredXor => exact vred_nextInv h
  | vscanSum | vscanMin | vscanMax | vscanAnd | vscanOr | vscanXor => exact vscan_nextInv h
  | mand | mor | mxor | mnot => exact maskOp_nextInv h
  | mpop | mfirst => exact whole_nextInv h (fun _ => needM_nextInv h (writeSv_nextInv h))
  | mset => exact whole_nextInv h (fun _ => .next (vdone_memInv (setMreg_memInv h)))
  | mmv => exact maskOp_nextInv h
  | settle => exact execSettle_nextInv h
  | settleNf => exact execSettleNf_nextInv h
  | vpres => exact execVpres_nextInv h
  | vfill => exact execVfill_nextInv h
  | vld | vlds => exact vload_nextInv h
  | vwait => exact execVwait_nextInv h
  | vst | vsts => exact vstore_nextInv h
  | vgat => exact execVgat_nextInv h
  | vsct | vscadd => exact vscatter_nextInv h
  | vfas => exact execVfas_nextInv h
  | vprobe => exact execVprobe_nextInv h
  | vldSc | vstSc => exact scAccess_nextInv h
  | mma => exact mmaForm_nextInv h
  | mmas => exact execMmas_nextInv h
  | mmasp => exact mmaForm_nextInv h
  | maccZ => exact execMaccZ_nextInv h
  | maccRd => exact execMaccRd_nextInv h
  | maccWr => exact execMaccWr_nextInv h
  | maccSt => exact execMaccSt_nextInv h
  | maccStX => exact execMaccStX_nextInv h
  | mtd => exact execMtd_nextInv h
  | svld => exact execSvld_nextInv h
  | svst => exact execSvst_nextInv h
  | svadd | svmul => exact svCombine_nextInv h
  | svscale => exact execSvscale_nextInv h
  | svcomp => exact execSvcomp_nextInv h
  | svexp => exact execSvexp_nextInv h
  | svlen => exact execSvlen_nextInv h
  | nop => exact .next (complete_memInv h)
  | tret => exact needLevel_nextInv h (.next h)
  | halt => exact execHalt_nextInv h
  | wfi => exact execWfi_nextInv h
  | tlbinvVmid => exact tlbinv_nextInv h
  | tlbsync => exact execTlbsync_nextInv h
  | tlbsyncComplete => exact execTlbsyncComplete_nextInv h
  | mrWrite => exact execMrWrite_nextInv h
  | fflagsAccess => exact execFflagsAccess_nextInv h
  | microOpIssue => exact execMicroOpIssue_nextInv h
  | settleAll => exact execSettleAll_nextInv h
  | settleNfAll => exact execSettleNfAll_nextInv h
  | settleComplete => exact execSettleComplete_nextInv h
  | thawTake => exact execThawTake_nextInv h
  | thawTimeout => exact execThawTimeout_nextInv h
  | mgopen => exact execMgopen_nextInv h
  | mgopenCont => exact execMgopenCont_nextInv h
  | mgopenGrant => exact execMgopenGrant_nextInv h
  | mgpush => exact execMgpush_nextInv h
  | mgflush => exact execMgflush_nextInv h
  | mgpull => exact execMgpull_nextInv h
  | mgpullSv => exact execMgpullSv_nextInv h
  | mgclose => exact execMgclose_nextInv h
  | mgstatRuns | mgstatEntries | mgstatStatus => exact mgstat_nextInv h
  | mergeBufferError => exact execMergeBufferError_nextInv h
  | cpdim => exact execCpdim_nextInv h
  | cpgo | cpgat | cpmc => exact startCopy_nextInv h
  | permit => exact execPermit_nextInv h
  | cpstat => exact execCpstat_nextInv h
  | copyQueueAdmit => exact execCopyQueueAdmit_nextInv h
  | copyStart => exact execCopyStart_nextInv h
  | slotPermitTake => exact execSlotPermitTake_nextInv h
  | transfer => exact execTransfer_nextInv h
  | gatherRow => exact execGatherRow_nextInv h
  | copyStamp => exact execCopyStamp_nextInv h
  | copyFail => exact execCopyFail_nextInv h
  | launch => exact execLaunch_nextInv h
  | launchAdmit => exact execLaunchAdmit_nextInv h
  | pinPassResume => exact execPinPassResume_nextInv h
  | gsub => exact execGsub_nextInv h
  | gsubAdmit => exact execGsubAdmit_nextInv h
  | spawn => exact execSpawn_nextInv h
  | join => exact execJoin_nextInv h
  | joinWake => exact execJoinWake_nextInv h
  | yield => exact execYield_nextInv h
  | park => exact execPark_nextInv h
  | tend => exact execTend_nextInv h
  | tendComplete => exact execTendComplete_nextInv h
  | prio => exact execPrio_nextInv h
  | wid => exact execWid_nextInv h
  | taskEnumerate => exact execTaskEnumerate_nextInv h
  | gangAdmit => exact execGangAdmit_nextInv h
  | taskDispatch => exact execTaskDispatch_nextInv h
  | preempt => exact execPreempt_nextInv h
  | steal => exact execSteal_nextInv h
  | parkWake => exact execParkWake_nextInv h
  | launchComplete => exact execLaunchComplete_nextInv h
  | nodeFinish => exact execNodeFinish_nextInv h
  | nodeFail => exact execNodeFail_nextInv h
  | vaneArm => exact execVaneArm_nextInv h
  | vaneArmCommit => exact execVaneArmCommit_nextInv h
  | vret | lull | lullN => exact endOfFiring_nextInv h
  | vaneRd => exact execVaneRd_nextInv h
  | vaneDrop => exact execVaneDrop_nextInv h
  | flipMessage => exact execFlipMessage_nextInv h
  | idlePass => exact execIdlePass_nextInv h
  | edgeStoreError => exact execEdgeStoreError_nextInv h
  | rfence => exact execRfence_nextInv h
  | rwin => exact execRwin_nextInv h
  | rwinCloseComplete => exact execRwinCloseComplete_nextInv h
  | illegalInstruction => exact ill_nextInv h
  | queueDeadlock => exact execQueueDeadlock_nextInv h
  | interrupt => exact execInterrupt_nextInv h
  | wfiWake => exact execWfiWake_nextInv h
  | haltWake => exact execHaltWake_nextInv h
  | read => exact execRead_nextInv h
  | push => exact execPush_nextInv h
  | enterScalar => exact execEnterScalar_nextInv h
  | supply => exact execSupply_nextInv h
  | enterTrain => exact execEnterTrain_nextInv h
  | widen => exact execWiden_nextInv h
  | atomic => exact execAtomic_nextInv h
  | land => exact execLand_nextInv h
  | complete => exact execComplete_nextInv h
  | scAccess => exact execScAccess_nextInv h
  | monitorRead => exact execMonitorRead_nextInv h
  | barArrive => exact execBarArrive_nextInv h
  | chunkDone => exact execChunkDone_nextInv h
  | remoteEnter => exact execRemoteEnter_nextInv h
  | ack => exact execAck_nextInv h
  | dataMessage => exact execDataMessage_nextInv h
  | tailMessage => show NextInv (execTailMessage _ s); exact inTurn_nextInv h (fun _ _ e => .next (setRx_memInv (arrived_memInv e)))
  | ackMessage => exact execAckMessage_nextInv h
  | nackMessage => exact execNackMessage_nextInv h
  | atomicRequest => exact execAtomicRequest_nextInv h
  | atomicResponse => exact execAtomicResponse_nextInv h
  | stampMessage => exact execStampMessage_nextInv h
  | restartMessage => exact execRestartMessage_nextInv h
  | resendTimeout => exact execResendTimeout_nextInv h
  | streamTimeout => exact execStreamTimeout_nextInv h
  | vdmapWrite => exact execVdmapWrite_nextInv h
  | domainSwitch => exact execDomainSwitch_nextInv h
  | clockChange => exact .next (State.modCluster_memInv h)
  | tctlWrite => exact execTctlWrite_nextInv h
  | tctlApply => exact .next (change_memInv (State.modCluster_memInv h))
  | slewStep => exact execSlewStep_nextInv h
  | budgetInterval => exact execBudgetInterval_nextInv h
  | pmeasWindow => exact execPmeasWindow_nextInv h
  | pbudWrite => exact execPbudWrite_nextInv h
  | overcurrentTrip => exact execOvercurrentTrip_nextInv h
  | overcurrentClear => exact execOvercurrentClear_nextInv h
  | sensorSample => exact execSensorSample_nextInv h
  | wdogWrite => exact execWdogWrite_nextInv h
  | watchdogWarning => exact execWatchdogWarning_nextInv h
  | watchdogExpire => exact execWatchdogExpire_nextInv h
  | mtickTick => exact execMtickTick_nextInv h
  | pctlWrite => exact execPctlWrite_nextInv h
  | mInterrupt => exact execMInterrupt_nextInv h
  | pswWrite => exact execPswWrite_nextInv h
  | pswaWrite => exact execPswaWrite_nextInv h
  | energyWindow => exact execEnergyWindow_nextInv h
  | hsemRead => exact execHsemRead_nextInv h
  | hsemRelease => exact execHsemRelease_nextInv h
  | hsemLapse => exact execHsemLapse_nextInv h
  | hostCsrAccess => exact execHostCsrAccess_nextInv h
  | tenantCreate => exact execTenantCreate_nextInv h
  | tenantReset => exact execTenantReset_nextInv h
  | memoryWindowWrite => exact execMemoryWindowWrite_nextInv h
  | hinvWrite => exact execHinvWrite_nextInv h
  | hinvDone => exact execHinvDone_nextInv h
  | rtbaseWrite => exact execRtbaseWrite_nextInv h
  | migRetry => exact execMigRetry_nextInv h
  | cxlMemAccess => exact execCxlMemAccess_nextInv h
  | spdmGetVersion | spdmGetCapabilities | spdmNegotiateAlgorithms | spdmGetDigests => exact spdm_nextInv h
  | spdmGetCertificate | spdmChallenge => exact spdmSlot_nextInv h
  | spdmGetMeasurements => exact execSpdmGetMeasurements_nextInv h
  | spdmUnsupportedRequest => exact spdmError_nextInv h
  | uncorrectableError => exact .next (poisonPlace_memInv (countEcc_memInv h))
  | internalStateError => exact execInternalStateError_nextInv h
  | clusterReset => exact execClusterReset_nextInv h
  | clusterResetComplete => exact execClusterResetComplete_nextInv h
  | warmReset => exact execWarmReset_nextInv h
  | coldReset => exact execColdReset_nextInv h
  | stateDump => exact execStateDump_nextInv h
  | stateDumpComplete => exact execStateDumpComplete_nextInv h
  | tenantResetComplete => exact execTenantResetComplete_nextInv h
  | msixTableWrite => exact execMsixTableWrite_nextInv h

theorem runLate_nextInv {l} (h : MemInv s) : NextInv (runLate l s) := runLate_eq l s ▸ exec_nextInv l.instr h

end Sys2Proof.Machine
end

section
/-! ## The canonical form of the memories: the steps of the machine (R274, R440) -/

namespace Sys2Proof.Machine

-- One at a time: the lemmas are many and small, and a thread for each would take more memory than they do.
set_option Elab.async false

variable {s : State}

theorem checkFetch_memInv {k : XOk} (hk : checkFetch s = .ok k) (h : MemInv s) : MemInv k.s := by
  unfold checkFetch translateFw at hk
  grind [→ translate_memInv]

theorem fetchWord_memInv {k : XOk} (h : MemInv k.s) : MemInv (fetchWord k).2 := by
  unfold fetchWord
  dsimp only
  split <;> exact iteInduction (fun _ => readAnew_memInv h) fun _ => h

theorem takeUp_memInv {t pc} (h : MemInv s) : MemInv (takeUp s t pc) := by
  unfold takeUp
  split
  · exact h
  · dsimp only
    exact h

theorem handWord_memInv {t pc k} (h : MemInv s) : MemInv (handWord s t pc k) := by
  unfold handWord
  split
  · exact h
  · dsimp only
    exact h

theorem issueWord_nextInv {w} (h : MemInv s) : NextInv (issueWord w s) := by
  unfold issueWord
  split
  · split
    · exact runLate_nextInv h
    · exact ill_nextInv h
  · split
    · exact exec_nextInv _ h
    · exact ill_nextInv h

theorem andThen_nextInv {o f} (ho : NextInv o) (hf : ∀ t, MemInv t → MemInv (f t)) : NextInv (andThen o f) := by
  cases o with
  | next t => exact .next (hf t (ho t rfl))
  | fault x => exact .fault
  | refused x => exact .refused

theorem keepWord_memInv {t w} (h : MemInv s) : MemInv (keepWord t w s) := by
  unfold keepWord
  split
  · exact State.withCpu_memInv h
  · exact h

theorem issue_nextInv (h : MemInv s) : NextInv (issue s) := by
  unfold issue
  split
  · exact .next h
  · split
    · exact .next (engineParkStep_memInv h)
    · split
      · exact .next (takeInterrupt_memInv h)
      · split
        · exact andThen_nextInv (issueWord_nextInv h) fun _ => keepWord_memInv
        · split
          · exact andThen_nextInv (stopAt_nextInv h) fun _ => keepWord_memInv
          · rename_i k hk
            exact andThen_nextInv (issueWord_nextInv (fetchWord_memInv (checkFetch_memInv hk h))) fun _ => keepWord_memInv

theorem putAside_memInv (h : MemInv s) : MemInv (putAside s) := by
  unfold putAside
  split
  · exact h
  · dsimp only
    split
    · exact h
    · exact complete_memInv (State.withMem_memInv (fresh_memInv h))

theorem runAlu_memInv {t p vs} (h : MemInv s) : MemInv (runAlu s t p vs) := by
  unfold runAlu
  split
  · dsimp only
    exact arrive_memInv (State.modStrand_memInv h)

theorem runAlusOf_memInv {t n} (h : MemInv s) : MemInv (runAlusOf t n s) := by
  induction n generalizing s with
  | zero => exact h
  | succ n ih =>
    unfold runAlusOf
    split
    · exact ih (runAlu_memInv h)
    · exact h

theorem runAlus_memInv (h : MemInv s) : MemInv (runAlus s) := by
  unfold runAlus
  refine foldl_memInv (fun _ _ hx => ?_) _ h
  split
  · exact hx
  · exact runAlusOf_memInv hx

theorem storePast_memInv {t} (ht : storePast s = some t) (h : MemInv s) : MemInv t := by
  unfold storePast at ht
  grind [→ checkAccess_memInv, complete_memInv, putLate_memInv]

theorem supplyPast_memInv {d w id} (h : MemInv s) : MemInv (supplyPast s d w id) := by
  unfold supplyPast
  dsimp only
  split
  · exact h
  · split
    · exact h
    · exact State.withMem_memInv (vdone_memInv (closeTrains_memInv (setCont_memInv h)))

theorem deferPast_nextInv (h : MemInv s) : NextInv (deferPast s) := by
  have hi : NextInv (issue (s.withMem (fun m => { m with late := true }))) := issue_nextInv h
  unfold deferPast
  split
  · rename_i t ht
    have ht := hi t ht
    exact .next (iteInduction (fun _ => State.modStrand_memInv ht) fun _ => h)
  · exact hi

theorem goOn_nextInv (h : MemInv s) : NextInv (goOn s) := by
  unfold goOn
  split
  · exact .next h
  · split
    · exact .next (goPast_memInv h)
    · exact .next (goPast_memInv h)
    · exact issue_nextInv (State.waitFor_memInv h)
    · exact .next (supplyPast_memInv h)
    · exact deferPast_nextInv h
    · exact deferPast_nextInv h
    · split
      · exact .next (putAside_memInv h)
      · split
        · exact .next (storePast_memInv ‹_› h)
        · exact deferPast_nextInv h
    · exact .next h

theorem performReads_memInv {x} (h : MemInv s) : MemInv (performReads s x) := by
  unfold performReads
  dsimp only
  split
  · refine foldl_memInv (fun _ _ hx => ?_) _ ?_
    · split
      · exact readImage_memInv hx
      · exact hx
    · split
      · exact State.modTask_memInv (State.modStrand_memInv h)
      · exact State.modStrand_memInv h
  · split
    · exact State.modTask_memInv (State.modStrand_memInv h)
    · exact State.modStrand_memInv h

theorem scalarMove_memInv {x t} (ht : scalarMove s x = some t) (h : MemInv s) : MemInv t := by
  unfold scalarMove at ht
  grind [readScalar_memInv, pastOne_memInv, fasOne_memInv, nextOf_memInv, execPush_nextInv, execEnterScalar_nextInv, execComplete_nextInv,
    Option.map_eq_some_iff]

theorem scalarMoves_memInv {t n} (h : MemInv s) : MemInv (scalarMoves t n s) := by
  induction n generalizing s with
  | zero => exact h
  | succ n ih =>
    unfold scalarMoves
    split
    · rename_i u hu
      obtain ⟨x, _, hx⟩ := Option.bind_eq_some_iff.mp hu
      exact ih (settleLog_memInv _ (runAlus_memInv (scalarMove_memInv hx h)))
    · exact h

theorem trainMoves_memInv {x} (h : MemInv s) : MemInv (trainMoves s x) := by
  unfold trainMoves
  refine foldl_memInv (fun _ _ hx => ?_) _ h
  dsimp only
  refine foldl_memInv (fun _ _ hx => ?_) _ (supplyElems_memInv hx)
  refine settleLog_memInv _ ?_
  split
  · exact addOne_memInv hx
  · exact nextOf_memInv (execEnterTrain_nextInv hx) hx

theorem settleStrand_memInv {t n} (h : MemInv s) : MemInv (settleStrand t n s) := by
  induction n generalizing s with
  | zero => exact h
  | succ n ih =>
    unfold settleStrand
    grind [scalarMoves_memInv, performReads_memInv, trainMoves_memInv]

theorem settle_memInv (h : MemInv s) : MemInv (settle s) := by
  unfold settle
  dsimp only
  split
  · refine foldl_memInv (fun _ _ hx => ?_) _ (runAlus_memInv (settleLog_memInv _ h))
    split
    · exact settleStrand_memInv hx
    · exact hx
  · refine foldl_memInv (fun _ _ => evict_memInv) _ ?_
    refine foldl_memInv (fun _ _ hx => ?_) _ (runAlus_memInv (settleLog_memInv _ h))
    split
    · exact settleStrand_memInv hx
    · exact hx

theorem meterWindow_memInv {vr} (h : MemInv s) : MemInv (meterWindow vr s) := by
  unfold meterWindow
  dsimp only [State.freeWord]
  exact nextOf_memInv (execEnergyWindow_nextInv (State.withDev_memInv h)) (State.withDev_memInv h)

theorem ownMoves_memInv {f t} (hf : f ∈ ownMoves s) (ht : MemInv t) : MemInv (f t) := by
  simp only [ownMoves, List.mem_append, List.mem_map, List.mem_flatMap, List.mem_filterMap] at hf
  obtain (((⟨u, _, rfl⟩ | ⟨g, _, n, _, rfl⟩) | ⟨x, _, hx⟩) | ⟨k, _, rfl⟩) | ⟨w, _, rfl⟩ := hf
  · exact flipStep_memInv ht
  · exact startNode_memInv ht
  · split at hx <;> cases hx
    exact builtinFill_memInv ht
  · exact retryPost_memInv ht
  · exact meterWindow_memInv ht

theorem sampleSensor_memInv {k} (h : MemInv s) : MemInv (sampleSensor s k) := by
  unfold sampleSensor
  dsimp only [State.freeWord]
  exact nextOf_memInv (execSensorSample_nextInv (State.withDev_memInv h)) (State.withDev_memInv h)

theorem tryLate_memInv {l t} (ht : tryLate s l = some t) (h : MemInv s) : MemInv t := by
  have hl := runLate_nextInv (l := l) h
  unfold tryLate at ht
  split at ht
  · rename_i u hu
    split at ht
    · exact absurd ht nofun
    · exact Option.some.inj ht ▸ hl u hu
  · exact absurd ht nofun

theorem background_memInv (h : MemInv s) : MemInv (background s) := by
  unfold background
  split
  · exact h
  · split
    · exact sampleSensor_memInv h
    · split
      · rename_i hu
        obtain ⟨l, _, hl⟩ := List.exists_of_findSome?_eq_some hu
        exact tryLate_memInv hl h
      · refine getD_memInv (fun t ht => ?_) h
        obtain ⟨f, hf, hfs⟩ := List.exists_of_findSome?_eq_some ht
        grind [ownMoves_memInv hf h]

theorem rotate_memInv (h : MemInv s) : MemInv (rotate s) := by
  unfold rotate
  split
  · exact h
  · split
    · exact State.focus_memInv h
    · exact h

theorem follow_memInv (h : MemInv s) : MemInv (follow s) :=
  rotate_memInv (pump_memInv (settle_memInv (background_memInv (settle_memInv h))))

theorem endPeriods_memInv {now} (h : MemInv s) : MemInv (endPeriods s now) := by
  unfold endPeriods
  grind [State.withDev_memInv, State.modTenX_memInv, foldl_memInv]

theorem spend_memInv {ns} (h : MemInv s) : MemInv (spend ns s) := by
  unfold spend
  dsimp only
  split
  · exact State.withDev_memInv (State.withH_memInv (State.withM_memInv h))
  · exact endPeriods_memInv (State.withDev_memInv (State.withH_memInv (State.withM_memInv h)))

theorem elapse_memInv {ns} (h : MemInv s) : MemInv (elapse ns s) :=
  spend_memInv h

theorem readEarly_memInv {t vec l n} (h : MemInv s) : MemInv (readEarly s t vec l n) := by
  unfold readEarly
  split
  · exact h
  · split
    · exact h
    · dsimp only
      exact State.modStrand_memInv (fresh_memInv h)

theorem runMove_nextInv {m} (h : MemInv s) : NextInv (runMove m s) := by
  cases m with
  | event l =>
    simp only [runMove]
    split
    · exact .fault
    · exact runLate_nextInv h
  | issue t =>
    simp only [runMove]
    split
    · split
      · exact issue_nextInv (State.focus_memInv h)
      · exact .next h
    · exact .next h
  | pass t =>
    simp only [runMove]
    split
    · split
      · exact goOn_nextInv (State.focus_memInv h)
      · exact .next h
    · exact .next h
  | elapse ns => exact .next (elapse_memInv h)
  | stale t pc => exact .next (takeUp_memInv h)
  | hand t pc k => exact .next (handWord_memInv h)
  | evict i => exact .next (evict_memInv h)
  | miss i c => exact .next (dropAt_memInv h)
  | pause t n => exact .next h
  | late t => exact .next (State.modStrand_memInv h)
  | early t vec l n => exact .next (readEarly_memInv h)
  | combine es tree => exact .next (combineAdds_memInv h)
  | post k => exact .next (retryPost_memInv h)
  | flip tid => exact .next (flipStep_memInv h)
  | start tn gid i => exact .next (startNode_memInv h)
  | grab u n i => exact .next (grabByte_memInv h)
  | put u n t k => exact .next (enterByte_memInv h)
  | fill c k => exact .next (builtinFill_memInv h)
  | hdm p base => exact execHdm_nextInv h
  | image i => exact execImage_nextInv h

theorem step_nextInv (h : MemInv s) : NextInv (step s) := by
  unfold step
  split
  · exact andThen_nextInv (issue_nextInv h) fun _ => follow_memInv
  · exact andThen_nextInv (runMove_nextInv h) fun _ ht => pump_memInv (runAlus_memInv ht)

/-- Settles O57: an invariant of every instruction of the table (`exec`) and of every step of the machine (`step`), assembled from one lemma
for each operation that they go through. -/
theorem stepKeepsMemory : Obligations.StepKeepsMemory :=
  ⟨fun i _ t h e => exec_nextInv i h t e, fun _ t h e => step_nextInv h t e⟩

end Sys2Proof.Machine
end

section
/-! Reads of vector values, of scalar loads and of an `svld`'s image perform, and groups land (R275, R277, R282). -/

namespace Sys2Proof.Machine

/-! ## The bits of a read -/

/-- A read puts the bits that it owns in their place. -/
theorem getLsbD_putBits_of_live {n : Nat} (b : BitVec n) {pos width live i : Nat} (x : Nat) (hi : i < width) (hn : pos + width ≤ n)
    (h : live.testBit i = true) : (putBits n b pos width live x).getLsbD (pos + i) = x.testBit i := by
  have hlt : b.toNat % 2 ^ pos < 2 ^ pos := Nat.mod_lt _ (Nat.two_pow_pos _)
  have hm : live % 2 ^ width < 2 ^ width := Nat.mod_lt _ (Nat.two_pow_pos _)
  have hy := keptBits_lt (b.toNat / 2 ^ pos % 2 ^ width) x hm
  unfold putBits
  simp only
  rw [BitVec.getLsbD_ofNat, replace_field, Nat.testBit_two_pow_mul_add _ hlt, Nat.testBit_two_pow_mul_add _ hy, testBit_keptBits _ _ hm,
    Nat.testBit_mod_two_pow]
  simp [hi, h, show pos + i < n by omega]

/-- The bits of a value after a read of `width` bits at `pos` has put there what `live` names of `y`, from bit `src` on. -/
theorem getLsbD_putBits {n : Nat} (b : BitVec n) {pos width : Nat} (live y src : Nat) (hn : pos + width ≤ n) :
    (∀ i, i < width → (putBits n b pos width live (y / 2 ^ src % 2 ^ width)).getLsbD (pos + i) =
      if live.testBit i then y.testBit (src + i) else b.getLsbD (pos + i)) ∧
    ∀ i, i < pos ∨ pos + width ≤ i → (putBits n b pos width live (y / 2 ^ src % 2 ^ width)).getLsbD i = b.getLsbD i := by
  refine ⟨fun i hi => ?_, fun i hi => getLsbD_putBits_of_not_live _ _ fun h1 h2 => by omega⟩
  split
  · next h =>
    rw [getLsbD_putBits_of_live _ _ hi hn h, Nat.testBit_mod_two_pow, Nat.testBit_div_two_pow, Nat.add_comm i]
    simp [hi]
  · next h =>
    refine getLsbD_putBits_of_not_live _ _ fun _ _ => ?_
    rw [Nat.add_sub_cancel_left]
    exact Bool.eq_false_iff.mpr h

/-! ## Values in their places -/

/-- The vector queues one after the other, as the place numbers count their entries. -/
def vEntries (q : Queues) : List VVal := q.vq0 ++ q.vq1 ++ q.vq2 ++ q.vq3

theorem vEntries_setQueueEntry (q : Queues) (n : Nat) (v : VVal) : vEntries (setQueueEntry q n v) = (vEntries q).set n v := by
  unfold setQueueEntry vEntries
  simp only
  split_ifs with h0 h1 h2 <;> simp [List.set_append] <;> grind

theorem queueEntry_setQueueEntry {q : Queues} {n : Nat} {w : VVal} (h : queueEntry q n = some w) (v : VVal) :
    queueEntry (setQueueEntry q n v) n = some v := by
  obtain ⟨hn, _⟩ := List.getElem?_eq_some_iff.mp h
  change (vEntries (setQueueEntry q n v))[n]? = some v
  rw [vEntries_setQueueEntry]
  exact List.getElem?_set_self hn

/-- Replacing an entry changes the length of no queue. -/
theorem setQueueEntry_lengths (q : Queues) (n : Nat) (v : VVal) :
    (setQueueEntry q n v).vq0.length = q.vq0.length ∧ (setQueueEntry q n v).vq1.length = q.vq1.length ∧
      (setQueueEntry q n v).vq2.length = q.vq2.length := by
  unfold setQueueEntry
  simp only
  split_ifs <;> simp

/-- The queues that a strand names after its task has been changed. -/
theorem strandQueues_modTask {s : State} {x : Strand} {tid : Nat} {k : Task} (hi : tidOf x.id = some tid) (hk : s.task? tid = some k)
    (f : Queues → Queues) : strandQueues (s.modTask tid (fun t => { t with queues := f t.queues })) x = f k.queues := by
  unfold strandQueues
  rw [hi, Option.bind_some, State.task?_modTask_of hk (by exact fun _ => rfl)]

theorem strandQueues_of_task {s : State} {x : Strand} {tid : Nat} {k : Task} (hi : tidOf x.id = some tid) (hk : s.task? tid = some k) :
    strandQueues s x = k.queues := by
  unfold strandQueues
  rw [hi, Option.bind_some, hk]

/-- A strand that finds an entry in a vector queue is one of a task. -/
theorem exists_task_of_queueEntry {s : State} {x : Strand} {n : Nat} {v : VVal} (h : queueEntry (strandQueues s x) n = some v) :
    ∃ tid k, tidOf x.id = some tid ∧ s.task? tid = some k := by
  cases hk : (tidOf x.id).bind s.task? with
  | none =>
    unfold strandQueues at h
    rw [hk] at h
    exact absurd h nofun
  | some k =>
    obtain ⟨tid, hi, hk⟩ := Option.bind_eq_some_iff.mp hk
    exact ⟨tid, k, hi, hk⟩

/-- Only the lengths of the queues say which entries a strand has pushed. -/
theorem pushedBy_modTask {s : State} {x : Strand} {tid : Nat} {k : Task} (hi : tidOf x.id = some tid) (hk : s.task? tid = some k)
    (m n : Nat) (v : VVal) :
    pushedBy (s.modTask tid (fun t => { t with queues := setQueueEntry t.queues m v })) x n = pushedBy s x n := by
  obtain ⟨h0, h1, h2⟩ := setQueueEntry_lengths k.queues m v
  unfold pushedBy
  rw [strandQueues_modTask hi hk (fun q => setQueueEntry q m v), strandQueues_of_task hi hk]
  simp only [h0, h1, h2]

/-- What is put in a place that held a value stands there. -/
theorem valueAt_setValueAt {s : State} {u : StrandId} {x : Strand} {p : Nat} {w : VVal} (hx : s.strand? u = some x) (hp : p < placeSv)
    (hw : valueAt s x p = some w) (v : VVal) :
    ∃ y, (setValueAt s x p v).strand? u = some y ∧ valueAt (setValueAt s x p v) y p = some v := by
  have hid := State.id_of_strand? hx
  have hst : ¬ placeStaging ≤ p := Nat.not_le.mpr (Nat.lt_trans hp (by decide))
  unfold setValueAt
  by_cases h : p < placeQueue
  · rw [if_pos h, hid]
    refine ⟨_, State.strand?_modStrand_of hx fun _ => rfl, ?_⟩
    unfold valueAt
    rw [if_pos h]
    have hp32 : p < 32 := h
    simp [hp32]
  · unfold valueAt at hw
    rw [if_neg h, if_neg hst] at hw
    obtain ⟨hpush, hw⟩ := Option.ite_none_right_eq_some.mp hw
    obtain ⟨tid, k, hi, hk⟩ := exists_task_of_queueEntry hw
    rw [strandQueues_of_task hi hk] at hw
    rw [if_neg h, if_neg hst, hi]
    refine ⟨x, hx, ?_⟩
    unfold valueAt
    rw [if_neg h, if_neg hst]
    simp only
    rw [pushedBy_modTask hi hk, if_pos hpush, strandQueues_modTask hi hk (fun q => setQueueEntry q _ v)]
    exact queueEntry_setQueueEntry hw v

/-- Reading anew at some bytes changes what the strand has read early, and that alone. -/
theorem forgetAt_leaves {s : State} {x y : Strand} (hy : s.strand? x.id = some y) (vec : Bool) (l : Loc) (n : Nat) :
    (forgetAt s x vec l n).tasks = s.tasks ∧
      ∃ es, (forgetAt s x vec l n).strand? x.id = some { y with mem := { y.mem with early := es } } := by
  unfold forgetAt
  split
  · exact ⟨rfl, y.mem.early, hy⟩
  · obtain ⟨es, he⟩ := forget_eq y.mem (fun e => e.vec == vec && overlaps l n e.loc e.n)
    refine ⟨State.modStrand_tasks .., es, ?_⟩
    rw [State.strand?_modStrand_of hy (by exact fun _ => rfl), he]

/-- No value of a strand lies in what it keeps of its accesses. -/
theorem valueAt_withMem {s t : State} (h : t.tasks = s.tasks) (x : Strand) (m : MemSt) (p : Nat) :
    valueAt t { x with mem := m } p = valueAt s x p := by
  unfold valueAt pushedBy strandQueues State.task?
  rw [h]

/-! ## Reads -/

theorem valueAt_forgetAt_setValueAt {s : State} {u : StrandId} {x : Strand} {p : Nat} {w : VVal} (hx : s.strand? u = some x) (hp : p < placeSv)
    (hw : valueAt s x p = some w) (v : VVal) (vec : Bool) (l : Loc) (n : Nat) :
    ∃ y, (forgetAt (setValueAt s x p v) x vec l n).strand? u = some y ∧ valueAt (forgetAt (setValueAt s x p v) x vec l n) y p = some v := by
  have hid := State.id_of_strand? hx
  obtain ⟨y, hy, hv⟩ := valueAt_setValueAt hx hp hw v
  rw [← hid] at hy ⊢
  obtain ⟨htasks, es, he⟩ := forgetAt_leaves hy vec l n
  exact ⟨_, he, (valueAt_withMem htasks _ _ _).trans hv⟩

theorem execRead_vector {s : State} {u : StrandId} {p k : Nat} {x : Strand} {v : VVal} {r : PendRead} (hx : s.strand? u = some x) (hp : p < placeSv)
    (hv : valueAt s x p = some v) (hr : v.pend[k]? = some r) (hold : olderRead s x v.pend k r = false) :
    exec (.read u p k) s =
      .next (forgetAt (setValueAt s x p (takeRead v r (pendBits s x r) (poisonedVec s x r.ord r.loc r.bytes))) x true r.loc r.bytes) := by
  have h0 : p ≠ placeSv := Nat.ne_of_lt hp
  have h1 : p ≠ placeLoads := Nat.ne_of_lt (Nat.lt_trans hp (by decide))
  rw [exec_read]
  unfold execRead readVector
  simp only [hx, hv, hr, hold, if_neg h0, if_neg h1, Bool.false_eq_true, if_false]

theorem takeRead_bits {v : VVal} {r : PendRead} (h : r.dst = .bits) (x : Nat) (bad : Bool) :
    (takeRead v r x bad).bits = putBits 8192 v.bits r.pos r.width r.live x ∧ (takeRead v r x bad).pend = v.pend.erase r ∧
      (takeRead v r x bad).landed = v.landed ∧
      (takeRead v r x bad).poison = if bad then v.poison ||| (1#8 <<< (r.pos / 1024)) else v.poison := by
  unfold takeRead readGroups
  rw [h]
  exact ⟨rfl, rfl, rfl, rfl⟩

theorem execRead_load_of_held {s : State} {u : StrandId} {k : Nat} {x : Strand} {r : SRead} (hx : s.strand? u = some x)
    (hr : x.mem.loads[k]? = some r) (hh : x.mem.heldRead r.ord r.loc r.n = true) : exec (.read u placeLoads k) s = .next s := by
  rw [exec_read]
  unfold execRead readScalar
  simp only [hx, hr, hh, if_true]
  rfl

/-- A scalar register with its poison, and the others, after one has been written. -/
theorem RegFile.set_leaves (f : RegFile) (r : SReg) (v : Word) (bad : Bool) :
    (f.s.set r.toNat v r.isLt)[r.toNat] = v ∧
    (if bad then f.sPoison ||| (1#32 <<< r.toNat) else f.sPoison &&& ~~~(1#32 <<< r.toNat)).getLsbD r.toNat = bad ∧
    ∀ j, j ≠ r.toNat → (f.s.set r.toNat v r.isLt).toList.getD j 0 = f.s.toList.getD j 0 ∧
      (if bad then f.sPoison ||| (1#32 <<< r.toNat) else f.sPoison &&& ~~~(1#32 <<< r.toNat)).getLsbD j = f.sPoison.getLsbD j := by
  have hr : r.toNat < 32 := r.isLt
  refine ⟨Vector.getElem_set_self .., ?_, fun j hj => ⟨?_, ?_⟩⟩
  · cases bad <;> simp [hr]
  · simp [Vector.toList_set, List.getD_eq_getElem?_getD, Ne.symm hj]
  · have hbit : (1#32 <<< r.toNat).getLsbD j = false := by
      simp only [BitVec.getLsbD_shiftLeft, BitVec.getLsbD_one]
      grind
    cases bad
    · rw [if_neg Bool.false_ne_true, BitVec.getLsbD_and, BitVec.getLsbD_not, hbit]
      by_cases h32 : j < 32
      · simp [h32]
      · simp [BitVec.getLsbD_of_ge _ _ (Nat.le_of_not_lt h32)]
    · rw [if_pos rfl, BitVec.getLsbD_or, hbit, Bool.or_false]

/-- The value of an entry arrives in the register that waits for it, and no other changes. -/
theorem arrive_leaves {s : State} {u : StrandId} {x : Strand} (hx : s.strand? u = some x) (reg : Option SReg) (ord : Nat) (v : Word) (bad : Bool) :
    ∃ y, (arrive s u reg ord v bad).strand? u = some y ∧ y.mem.loads = x.mem.loads ∧ y.ctl = x.ctl ∧ (reg = none → y.regs = x.regs) ∧
      ∀ q, reg = some q → y.regs.s[q.toNat] = v ∧ y.regs.sPoison.getLsbD q.toNat = bad ∧
        ∀ j, j ≠ q.toNat → y.regs.s.toList.getD j 0 = x.regs.s.toList.getD j 0 ∧ y.regs.sPoison.getLsbD j = x.regs.sPoison.getLsbD j := by
  unfold arrive
  cases reg with
  | none =>
    refine ⟨_, State.strand?_modStrand_of hx fun y => ?_, ?_⟩ <;> dsimp only <;> split
    · rfl
    · rfl
    · exact ⟨rfl, rfl, fun _ => rfl, nofun⟩
    · exact ⟨rfl, rfl, fun _ => rfl, nofun⟩
  | some r =>
    refine ⟨_, State.strand?_modStrand_of hx fun y => ?_, ?_⟩ <;> dsimp only <;> split
    · rfl
    · rfl
    · exact ⟨rfl, rfl, nofun, fun q hq => Option.some.inj hq ▸ x.regs.set_leaves r v bad⟩
    · exact ⟨rfl, rfl, nofun, fun q hq => Option.some.inj hq ▸ x.regs.set_leaves r v bad⟩

/-- A deferred scalar load performs. -/
theorem execRead_load {s : State} {u : StrandId} {k : Nat} {x : Strand} {r : SRead} (hx : s.strand? u = some x)
    (hr : x.mem.loads[k]? = some r) (hh : x.mem.heldRead r.ord r.loc r.n = false) :
    ∃ z, z.mem.loads = x.mem.loads.eraseIdx k ∧ z.ctl = x.ctl ∧ z.regs = x.regs ∧ ∃ t, t.strand? u = some z ∧
      exec (.read u placeLoads k) s = .next (arrive t u r.reg r.ord (loaded r.signed (scalarBytesAt s x r.ord r.loc r.n))
        (poisonedRead s x r.ord r.loc r.n)) := by
  have hid := State.id_of_strand? hx
  have hy : (s.modStrand u (fun y => { y with mem := { y.mem with loads := y.mem.loads.eraseIdx k } })).strand? u = _ :=
    State.strand?_modStrand_of hx (by exact fun _ => rfl)
  rw [← hid] at hy
  obtain ⟨_, es, he⟩ := forgetAt_leaves hy false r.loc r.n
  rw [hid] at he
  refine ⟨_, ?_, ?_, ?_, _, he, ?_⟩
  · rfl
  · rfl
  · rfl
  · rw [exec_read]
    unfold execRead readScalar
    simp only [hx, hr, hh, Bool.false_eq_true, if_false, hid]
    rfl

theorem execRead_image {s : State} {u : StrandId} {k : Nat} {x : Strand} {l : SvLoad} {r : PendRead} (hx : s.strand? u = some x)
    (hl : x.mem.sv = some l) (hr : l.pend[k]? = some r) (hold : olderRead s x l.pend k r = false)
    (hp : poisonedVec s x r.ord r.loc r.bytes = false) :
    ∃ t y, exec (.read u placeSv k) s = .next t ∧ t.strand? u = some y ∧
      y.mem.sv = some { l with bits := putBits 16384 l.bits r.pos r.width r.live (pendBits s x r), pend := l.pend.eraseIdx k } := by
  have hid := State.id_of_strand? hx
  have hy : (s.modStrand u (fun y => { y with mem := { y.mem with sv := some { l with
      bits := putBits 16384 l.bits r.pos r.width r.live (pendBits s x r), pend := l.pend.eraseIdx k } } })).strand? u = _ :=
    State.strand?_modStrand_of hx (by exact fun _ => rfl)
  rw [← hid] at hy
  obtain ⟨_, es, he⟩ := forgetAt_leaves hy true r.loc r.bytes
  rw [hid] at he
  refine ⟨_, _, ?_, he, rfl⟩
  rw [exec_read]
  unfold execRead readImage
  simp only [hx, hl, hr, hold, hp, Bool.false_eq_true, if_false, if_true, hid]

/-! ## Landing -/

theorem execLand_of_held {s : State} {u : StrandId} {p g : Nat} {x : Strand} {v : VVal} (hx : s.strand? u = some x) (hv : valueAt s x p = some v)
    (h : (∃ r ∈ v.pend, r.dst = .bits ∧ r.pos / 1024 = g) ∨ x.mem.fasHolds p g = true) : exec (.land u p g) s = .next s := by
  have hheld : (v.pend.any (fun r => r.dst == .bits && r.pos / 1024 == g) || x.mem.fasHolds p g) = true := by
    simpa [List.any_eq_true] using h
  rw [exec_land]
  unfold execLand
  simp only [hx, hv, hheld, if_true]

theorem execLand_lands {s : State} {u : StrandId} {p g : Nat} {x : Strand} {v : VVal} (hx : s.strand? u = some x) (hv : valueAt s x p = some v)
    (h : ∀ r ∈ v.pend, r.dst = .bits → r.pos / 1024 ≠ g) (hf : x.mem.fasHolds p g = false) :
    exec (.land u p g) s = .next (setValueAt s x p { v with landed := v.landed ||| (1#8 <<< g) }) := by
  have hheld : (v.pend.any (fun r => r.dst == .bits && r.pos / 1024 == g) || x.mem.fasHolds p g) = false := by
    simpa [hf] using h
  rw [exec_land]
  unfold execLand
  simp only [hx, hv, hheld, Bool.false_eq_true, if_false]

/-- Settles O48: a read of a value in its place, of a scalar load and of an image, and landing. -/
theorem readsAndLanding : Obligations.ReadsAndLanding := by
  refine ⟨fun s u p k x v r hx hp hv hr hold hn hdst => ?vector, fun s u k x r hx hr => ⟨execRead_load_of_held hx hr, fun hh => ?scalar⟩,
    fun s u k x l r hx hl hr hold hpoison hn => ?image, fun s u p g x v hx hp hv hg => ⟨execLand_of_held hx hv, fun h hf => ?land⟩⟩
  case vector =>
    obtain ⟨y, hy, hw⟩ := valueAt_forgetAt_setValueAt hx hp hv (takeRead v r (pendBits s x r) (poisonedVec s x r.ord r.loc r.bytes)) true r.loc
      r.bytes
    obtain ⟨hbits, hpend, hland, hpoison⟩ := takeRead_bits (v := v) hdst (pendBits s x r) (poisonedVec s x r.ord r.loc r.bytes)
    obtain ⟨hin, hout⟩ := getLsbD_putBits v.bits r.live (leNat (vectorBytes s x r.ord r.loc r.bytes)) r.srcBit hn
    refine ⟨_, y, _, execRead_vector hx hp hv hr hold, hy, hw, hpend, hland, ?_, ?_, fun h => ?_, fun h hpos => ?_⟩
    · rw [hbits]
      exact hin
    · rw [hbits]
      exact hout
    · rw [hpoison, h]
      rfl
    · rw [hpoison, h, if_pos rfl, BitVec.getLsbD_or]
      simp [show r.pos / 1024 < 8 by omega]
  case scalar =>
    obtain ⟨z, hloads, hctl, hregs, t, hz, ht⟩ := execRead_load hx hr hh
    obtain ⟨y, hy, hyl, hyc, hyn, hyr⟩ := arrive_leaves hz r.reg r.ord (loaded r.signed (scalarBytesAt s x r.ord r.loc r.n))
      (poisonedRead s x r.ord r.loc r.n)
    rw [hregs] at hyn hyr
    exact ⟨_, y, ht, hy, hyl.trans hloads, hyc.trans hctl, hyn, hyr⟩
  case image =>
    obtain ⟨t, y, ht, hy, hm⟩ := execRead_image hx hl hr hold hpoison
    obtain ⟨hin, hout⟩ := getLsbD_putBits l.bits r.live (leNat (vectorBytes s x r.ord r.loc r.bytes)) r.srcBit hn
    exact ⟨t, y, _, ht, hy, hm, rfl, rfl, rfl, hin, hout⟩
  case land =>
    obtain ⟨y, hy, hw⟩ := valueAt_setValueAt hx hp hv { v with landed := v.landed ||| (1#8 <<< g) }
    refine ⟨_, y, _, execLand_lands hx hv h hf, hy, hw, rfl, fun i hi => ?_⟩
    simp only [BitVec.getLsbD_or, BitVec.getLsbD_shiftLeft, BitVec.getLsbD_one]
    grind

end Sys2Proof.Machine
end

section
/-! Writes: the store buffer, trains, additions, and widening (R276, R278, R280, R281, R283). -/

namespace Sys2Proof.Machine

/-! ## The end of coherence order, at every location -/

/-- A byte of a write of bytes `bs` at `a`, in its space. -/
theorem writtenByte_eq (a : Nat) (bs : List Byte) (x : Nat) (c : Byte) :
    (if a ≤ x ∧ x < a + bs.length then (bs[x - a]?).getD 0 else c) = (if a ≤ x then bs[x - a]? else none).getD c := by
  by_cases h : a ≤ x
  · by_cases hx : x < a + bs.length
    · rw [if_pos ⟨h, hx⟩, if_pos h, List.getElem?_eq_getElem (by omega)]
      rfl
    · rw [if_neg (by omega), if_pos h, List.getElem?_eq_none (by omega)]
      rfl
  · rw [if_neg (by omega), if_neg h]
    rfl

/-- Looking up what was not changed. -/
theorem find?_replaceFirst_of_ne {α : Type} {p q : α → Bool} {f : α → α} (hpq : ∀ x, p x = true → q x = false) (hq : ∀ x, q (f x) = q x)
    (xs : List α) : (replaceFirst p f xs).find? q = xs.find? q := by
  induction xs with
  | nil => rfl
  | cons x xs ih =>
    unfold replaceFirst
    split
    · next h => rw [List.find?_cons, List.find?_cons, hq, hpq x h]
    · rw [List.find?_cons, List.find?_cons, ih]

theorem State.task?_modTask_of_ne (s : State) {m n : Nat} (hmn : m ≠ n) {f : Task → Task} (hf : ∀ k, (f k).tid = k.tid) :
    (s.modTask n f).task? m = s.task? m :=
  find?_replaceFirst_of_ne (fun x hx => by grind) (fun x => by rw [hf]) s.tasks

/-- A byte of a scratchpad allocation; it reads as 0 where there is no such task. -/
theorem baseByte_spad (s : State) (n o : Nat) : baseByte s (.spad n o) = ((s.task? n).map (fun k => Memory.get k.spad o)).getD 0 := by
  cases h : s.task? n <;> simp [baseByte, h]

theorem byteIn_spad (n a : Nat) (bs : List Byte) (m x : Nat) :
    byteIn (.spad n a) bs (.spad m x) = if n = m then if a ≤ x then bs[x - a]? else none else none := by
  by_cases hn : n = m
  · by_cases h : a ≤ x <;> simp [byteIn, Loc.past, hn, h]
  · simp [byteIn, Loc.past, hn]

/-- A settled byte after a write of settled memory. -/
theorem baseByte_writeBase {s : State} {l : Loc} (h : stored s l = true) (k : Loc) (bs : List Byte) :
    baseByte (writeBase s k bs) l = (byteIn k bs l).getD (baseByte s l) := by
  cases l with
  | dev x => cases k with
    | dev a =>
      rw [baseByte_writeBase_dev, writtenByte_eq, byteIn_dev]
    | _ => rfl
  | host x => cases k with
    | host a =>
      rw [baseByte_writeBase_host, writtenByte_eq]
      by_cases h : a ≤ x <;> simp [byteIn, Loc.past, h]
    | _ => rfl
  | fw x => cases k with
    | fw a =>
      rw [baseByte_writeBase_fw, writtenByte_eq]
      by_cases h : a ≤ x <;> simp [byteIn, Loc.past, h]
    | _ => rfl
  | spad m x => cases k with
    | spad n a =>
      rw [baseByte_spad, baseByte_spad, byteIn_spad]
      by_cases hn : n = m
      · obtain ⟨t, ht⟩ := Option.isSome_iff_exists.mp h
        rw [hn, show writeBase s (.spad m a) bs = s.modTask m _ from rfl, State.task?_modTask_of ht (by exact fun _ => rfl), ht, if_pos rfl]
        exact (Memory.get_write ..).trans (writtenByte_eq ..)
      · rw [show writeBase s (.spad n a) bs = s.modTask n _ from rfl, State.task?_modTask_of_ne s (Ne.symm hn) (by exact fun _ => rfl), if_neg hn]
        rfl
    | _ => rfl
  | remote d w o => exact absurd h nofun
  | image a => exact absurd h nofun

/-- Poison changes no byte. -/
theorem baseByte_poisonWords (s : State) (k : Loc) (ws : List Nat) (l : Loc) : baseByte (poisonWords s k ws) l = baseByte s l := by
  unfold poisonWords
  split
  · rfl
  · cases k with
    | spad n o => cases l with
      | spad m x =>
        have hmap := find?_replaceFirst_map (p := fun k => k.tid == n) (q := fun k => k.tid == m) (g := fun k => Memory.get k.spad x)
          (f := fun k => { k with spadPoison := k.spadPoison ++ ws.filter (fun w => !k.spadPoison.contains w) }) (fun _ => rfl) (fun _ => rfl) s.tasks
        rw [baseByte_spad, baseByte_spad]
        exact congrArg (Option.getD · 0) hmap
      | _ => rfl
    | dev a => cases l <;> rfl
    | host a => cases l <;> rfl
    | fw a => rfl
    | remote d w o => rfl
    | image a => rfl

theorem stored_of_aside {s t : State} (h : Aside s t) (l : Loc) : stored t l = stored s l := by
  cases l with
  | spad n o =>
    have hsome := congrArg Option.isSome (h.queues n)
    rwa [Option.isSome_map, Option.isSome_map] at hsome
  | _ => rfl

/-- A write that settles gives its bytes to the memory that it is of. -/
theorem baseByte_settleRec {s : State} {l : Loc} (h : stored s l = true) (r : WRec) :
    baseByte (settleRec s r) l = (byteIn r.loc r.bytes l).getD (baseByte s l) :=
  (baseByte_poisonWords ..).trans (baseByte_writeBase h ..)

theorem settleRec_aside (s : State) (r : WRec) : Aside s (settleRec s r) :=
  (writeBase_aside s r.loc r.bytes).trans (poisonWords_aside _ r.loc r.bad)

theorem lastIn_cons (r : WRec) (rs : List WRec) (l : Loc) : lastIn (r :: rs) l none = lastIn rs l (byteIn r.loc r.bytes l) := by
  unfold lastIn
  rw [List.foldl_cons]
  cases byteIn r.loc r.bytes l <;> rfl

/-- Settling the head of coherence order changes no byte at its end. -/
theorem endByte_foldGo (rs : List WRec) : ∀ {s : State} {l : Loc}, stored s l = true →
    endByte (foldGo rs s) l = (lastIn rs l none).getD (baseByte s l) := by
  induction rs with
  | nil => exact fun _ => rfl
  | cons r rs ih =>
    intro s l h
    unfold foldGo
    split
    · rw [ih ((stored_of_aside (settleRec_aside s r) l).trans h), baseByte_settleRec h, lastIn_cons, lastIn_getD _ _ (byteIn r.loc r.bytes _)]
    · rfl

/-- Bytes at the end of coherence order are read one by one. -/
theorem lastBytes_eq (s : State) (l : Loc) (n : Nat) : lastBytes s l n = (List.range n).map (fun i => endByte s (l.add i)) := by
  unfold lastBytes bytesBy
  split
  · next h =>
    rw [List.isEmpty_iff] at h
    simp only [endByte, h, lastIn, List.foldl_nil, Option.getD_none]
    cases l with
    | dev a => exact Memory.read_eq ..
    | host a => exact Memory.read_eq ..
    | fw a => exact Memory.read_eq ..
    | spad t o =>
      unfold baseBytes
      cases ht : s.task? t with
      | none => simp [baseByte, Loc.add, ht, List.map_const']
      | some k => simp [baseByte, Loc.add, ht, Memory.read_eq]
    | remote d w o => rfl
    | image a => rfl
  · rfl


/-! ## Writes that enter -/

/-- A write that is not at its widest visibility stays at the end of coherence order. -/
theorem foldGo_log_append {r : WRec} (hr : visAtLeast r.loc r.vis (maxVis r.loc) = false) (rs : List WRec) :
    ∀ s : State, ∃ qs, (foldGo (rs ++ [r]) s).log = qs ++ [r] := by
  induction rs with
  | nil =>
    intro s
    refine ⟨[], ?_⟩
    rw [List.nil_append, foldGo, if_neg (by simp [hr])]
  | cons q rs ih =>
    intro s
    rw [List.cons_append, foldGo]
    split
    · exact ih _
    · exact ⟨q :: rs, rfl⟩

/-- What enters is settled with what stands before it; it takes the poison of the words that it covers in part, and memory is as it was. -/
theorem enterRec_eq (s : State) (r : WRec) : ∃ q u, (q.loc = r.loc ∧ q.bytes = r.bytes ∧ q.vis = r.vis) ∧
    enterRec s r = foldGo (s.log ++ [q]) u ∧ ∀ l, stored u l = stored s l ∧ baseByte u l = baseByte s l :=
  let q := { r with bad := partlyBad s r.loc r.bytes.length ++ r.bad }
  ⟨q, { noteWrite s r.loc r.bytes.length r.owner r.cluster with log := s.log ++ [q] }, ⟨rfl, rfl, rfl⟩, rfl, fun _ => ⟨rfl, rfl⟩⟩

/-- A byte at the end of coherence order after a write has entered there: the write has not settled, or the device holds the byte. -/
theorem endByte_enterRec {s : State} {r : WRec} {l : Loc} {b : Byte} (hb : byteIn r.loc r.bytes l = some b)
    (h : visAtLeast r.loc r.vis (maxVis r.loc) = false ∨ stored s l = true) : endByte (enterRec s r) l = b := by
  obtain ⟨q, u, ⟨hloc, hbytes, hvis⟩, he, hu⟩ := enterRec_eq s r
  rw [← hloc, ← hbytes] at hb
  rw [he]
  rcases h with h | h
  · rw [← hloc, ← hvis] at h
    obtain ⟨qs, hq⟩ := foldGo_log_append h s.log u
    rw [endByte, hq, lastIn_append, hb]
    rfl
  · rw [endByte_foldGo _ ((hu l).1.trans h), lastIn_append, hb]
    rfl

/-- The bytes of a write that has entered stand at the end of coherence order. -/
theorem lastBytes_enter {s : State} {l : Loc} {v : Scope} (h : visAtLeast l v (maxVis l) = false ∨ stored s l = true) (bs : List Byte)
    (u : StrandId) (c : Nat) (g : WTag) (n : Nat) : lastBytes (enter s l bs u c v g n) l bs.length = bs := by
  rw [lastBytes_eq]
  refine List.ext_getElem (by simp) fun i _ hi => ?_
  rw [List.getElem_map, List.getElem_range]
  refine endByte_enterRec ?_ (h.imp_right fun h => ?_)
  · simp [byteIn, Loc.past_add, List.getElem?_eq_getElem hi]
  · cases l <;> exact h

/-- Poison that a write takes along changes no byte. -/
theorem lastBytes_enterBad (s : State) (k : Loc) (n : Nat) (bad : Bool) (l : Loc) (m : Nat) :
    lastBytes (enterBad s k n bad) l m = lastBytes s l m := by
  have hpoison : lastBytes (poisonWords s k (wordsOf k n)) l m = lastBytes s l m := by
    have hlog : (poisonWords s k (wordsOf k n)).log = s.log := by
      unfold poisonWords
      split
      · rfl
      · cases k <;> rfl
    simp only [lastBytes_eq, endByte, hlog, baseByte_poisonWords]
  unfold enterBad
  split
  · rfl
  · split
    · next r rs hlog =>
      split
      · rw [lastBytes_eq, lastBytes_eq]
        refine List.map_congr_left fun i _ => ?_
        have hs : s.log = rs.reverse ++ [r] := by rw [← List.reverse_cons, ← hlog, List.reverse_reverse]
        unfold endByte
        rw [hs, List.reverse_cons, lastIn_append, lastIn_append]
        rfl
      · exact hpoison
    · exact hpoison

/-! ### The strands that stay as they are -/

theorem writeBase_others (s : State) (l : Loc) (bs : List Byte) : (writeBase s l bs).others = s.others := by cases l <;> rfl

theorem poisonWords_others (s : State) (l : Loc) (ws : List Nat) : (poisonWords s l ws).others = s.others := by
  unfold poisonWords
  split
  · rfl
  · cases l <;> rfl

theorem foldGo_others (rs : List WRec) : ∀ s : State, (foldGo rs s).others = s.others := by
  induction rs with
  | nil => exact fun _ => rfl
  | cons r rs ih =>
    intro s
    unfold foldGo
    split
    · exact (ih _).trans ((poisonWords_others ..).trans (writeBase_others ..))
    · rfl

/-- What a strand is depends on the strands alone. -/
theorem State.strand?_congr {s t : State} (hc : t.cpu = s.cpu) (ho : t.others = s.others) (u : StrandId) : t.strand? u = s.strand? u := by
  unfold State.strand?
  rw [hc, ho]

theorem enter_strand? (s : State) (l : Loc) (bs : List Byte) (t : StrandId) (c : Nat) (v : Scope) (g : WTag) (n : Nat) (u : StrandId) :
    (enter s l bs t c v g n).strand? u = s.strand? u :=
  State.strand?_congr (enter_aside ..).cpu (foldGo_others ..) u

theorem enterBad_strand? (s : State) (l : Loc) (n : Nat) (bad : Bool) (u : StrandId) : (enterBad s l n bad).strand? u = s.strand? u := by
  have hpoison : (poisonWords s l (wordsOf l n)).strand? u = s.strand? u :=
    State.strand?_congr (poisonWords_aside ..).cpu (poisonWords_others ..) u
  unfold enterBad
  split
  · rfl
  · split
    · split
      · rfl
      · exact hpoison
    · exact hpoison

/-- A write of a strand that has entered: its bytes stand at the end of coherence order, and the strands are as they were. -/
theorem enterBad_enter {s : State} {l : Loc} {v : Scope} (h : visAtLeast l v (maxVis l) = false ∨ stored s l = true) (bs : List Byte)
    (u : StrandId) (c : Nat) (g : WTag) (n k : Nat) (bad : Bool) :
    lastBytes (enterBad (enter s l bs u c v g n) l k bad) l bs.length = bs ∧
      ∀ w, (enterBad (enter s l bs u c v g n) l k bad).strand? w = s.strand? w :=
  ⟨(lastBytes_enterBad ..).trans (lastBytes_enter h bs u c g n), fun _ => (enterBad_strand? ..).trans (enter_strand? ..)⟩

/-- A write that its own strand alone sees is settled nowhere. -/
theorem strand_not_widest (l : Loc) : visAtLeast l .strand (maxVis l) = false := by cases l <;> rfl

/-! ## Scalar stores -/

theorem execPush_of_waiting {s : State} {u : StrandId} {x : Strand} {e : SEnt} {es : List SEnt} (hx : s.strand? u = some x)
    (hp : x.mem.pob = e :: es) (he : e.src.isSome = true) :
    ∃ t, exec (.push u) s = .next t ∧ t.strand? u = some x := by
  refine ⟨_, rfl, ?_⟩
  rw [State.strand?_modStrand_of hx fun y => ?_]
  · simp only [hp, he, if_true]
  · split
    · split <;> rfl
    · rfl

theorem execPush_of_data {s : State} {u : StrandId} {x : Strand} {e : SEnt} {es : List SEnt} (hx : s.strand? u = some x)
    (hp : x.mem.pob = e :: es) (he : e.src = none) :
    ∃ t, exec (.push u) s = .next t ∧ t.strand? u = some { x with mem := { x.mem with pob := es, ssb := x.mem.ssb ++ [e] } } ∧
      t.mem = s.mem ∧ t.log = s.log := by
  refine ⟨_, rfl, ?_, State.modStrand_mem .., State.modStrand_log ..⟩
  rw [State.strand?_modStrand_of hx fun y => ?_]
  · simp only [hp, he, Option.isSome_none, Bool.false_eq_true, if_false]
  · split
    · split <;> rfl
    · rfl

theorem execEnterScalar_of_held {s : State} {u : StrandId} {x : Strand} {e : SEnt} {es : List SEnt} (hx : s.strand? u = some x)
    (hs : x.mem.ssb = e :: es) (hh : x.mem.heldStore e = true) : exec (.enterScalar u) s = .next s := by
  rw [exec_enterScalar, execEnterScalar]
  simp only [hx, hs, hh, if_true]

theorem execEnterScalar_enters {s : State} {u : StrandId} {x : Strand} {e : SEnt} {es : List SEnt} (hx : s.strand? u = some x)
    (hs : x.mem.ssb = e :: es) (hh : x.mem.heldStore e = false) :
    ∃ t, exec (.enterScalar u) s = .next t ∧ t.strand? u = some { x with mem := { x.mem with ssb := es } } ∧
      lastBytes t e.loc e.data.length = e.data := by
  obtain ⟨hlast, hstrand⟩ := enterBad_enter (s := s.modStrand u (fun y => { y with mem := { y.mem with ssb := es } }))
    (.inl (strand_not_widest e.loc)) e.data u x.cluster .plain e.ord e.data.length e.bad
  refine ⟨_, ?_, (hstrand u).trans (State.strand?_modStrand_of hx fun _ => rfl), hlast⟩
  rw [exec_enterScalar, execEnterScalar]
  simp only [hx, hs, hh, Bool.false_eq_true, if_false]

/-! ## Trains -/

/-- An element whose data stands ready is supplied. -/
theorem TElem.supply_supplied {e : TElem} {v : Option (VVal × Nat × Bool)}
    (h : e.src = none ∨ ∃ q a d b, e.src = some q ∧ v = some (a, d, b) ∧ vReady a (elemGroups d q.els) = true ∧
      (b = false → vPoisoned a (elemGroups d q.els) = none)) : (e.supply v).supplied = true := by
  unfold TElem.supply
  obtain h | ⟨q, a, d, b, hq, rfl, hready, hclean⟩ := h
  · rw [h]
  · rw [hq]
    simp only [hready, Bool.not_true, Bool.false_eq_true, if_false]
    split
    · rfl
    · next hp =>
      cases b with
      | true => rfl
      | false => exact absurd (by rw [hclean rfl]; rfl) hp

theorem TElem.supply_n (e : TElem) (v : Option (VVal × Nat × Bool)) : (e.supply v).n = e.n := by
  have hcapture (a : VVal) (d : Nat) : (e.capture a d).n = e.n := by
    unfold TElem.capture
    split <;> rfl
  unfold TElem.supply
  split
  · rfl
  · dsimp only
    split
    · rfl
    · split
      · exact hcapture ..
      · split
        · exact hcapture ..
        · rfl
  · rfl

theorem execSupply_leaves {s : State} {u : StrandId} {tr n : Nat} {x : Strand} (hx : s.strand? u = some x) :
    ∃ t y, exec (.supply u tr n) s = .next t ∧ t.strand? u = some y ∧ t.mem = s.mem ∧ t.log = s.log ∧
      y.mem.trains = x.mem.trains.map (fun w => if w.id == tr then
        { w with elems := w.elems.map (fun e => if e.n == n then e.supply (supplyOf s x tr) else e) } else w) := by
  obtain rfl := State.id_of_strand? hx
  refine ⟨supplyElems s x tr (fun e => e.n == n), _, ?_, State.strand?_modStrand_of hx fun _ => rfl, State.modStrand_mem ..,
    State.modStrand_log .., rfl⟩
  rw [exec_supply, execSupply]
  simp only [hx]

/-- What may enter is an element of the train that it is looked up in. -/
theorem enterable_spec {s : State} {u : StrandId} {tr n : Nat} {x : Strand} {w : Train} {e : TElem} (h : enterable s u tr n = some (x, w, e)) :
    s.strand? u = some x ∧ w.id = tr ∧ e.n = n := by
  unfold enterable at h
  split at h
  · rename_i hx
    split at h
    · rename_i hw
      split at h
      · rename_i he
        obtain ⟨_, h⟩ := Option.ite_none_right_eq_some.mp h
        obtain ⟨rfl, rfl, rfl⟩ := h
        exact ⟨hx, by simpa using List.find?_some hw, by simpa using List.find?_some he⟩
      · exact absurd h nofun
    · exact absurd h nofun
  · exact absurd h nofun

/-- The strand holds no element n of train tr any more. -/
theorem leaveTrain_strand? {s : State} {u : StrandId} {x : Strand} (hx : s.strand? u = some x) (tr n : Nat) :
    ∃ y, (leaveTrain s u tr n).strand? u = some y ∧ ∀ v ∈ y.mem.trains, v.id = tr → ∀ q ∈ v.elems, q.n ≠ n := by
  refine ⟨_, State.strand?_modStrand_of hx fun _ => rfl, fun v hv hid q hq => ?_⟩
  obtain ⟨w, _, rfl⟩ := List.mem_map.mp (List.mem_filter.mp hv).1
  split at hq
  · simpa using (List.mem_filter.mp hq).2
  · next h =>
    rw [if_neg h] at hid
    exact absurd (by simpa using hid) h

/-- Drawing the tag of an element changes no strand and no task. -/
theorem elemTag_leaves (s : State) (w : Train) (n : Nat) (u : StrandId) (l : Loc) :
    (elemTag s w n).2.strand? u = s.strand? u ∧ stored (elemTag s w n).2 l = stored s l := by
  unfold elemTag
  split
  · exact ⟨rfl, rfl⟩
  · exact ⟨rfl, rfl⟩

theorem stored_leaveTrain (s : State) (u : StrandId) (tr n : Nat) (l : Loc) : stored (leaveTrain s u tr n) l = stored s l := by
  unfold stored leaveTrain State.task?
  rw [State.modStrand_tasks]

/-- An element that leaves its train enters memory with some bytes. -/
theorem element_enters {s : State} {u : StrandId} {tr n : Nat} {x : Strand} {w : Train} {e : TElem} (h : enterable s u tr n = some (x, w, e))
    {v : Scope} (hv : visAtLeast e.loc v (maxVis e.loc) = false ∨ stored s e.loc = true) (bs : List Byte) (g : WTag) :
    let t := enterBad (enter (elemTag (leaveTrain s u tr n) w n).2 e.loc bs u x.cluster v g w.id) e.loc bs.length e.bad
    lastBytes t e.loc bs.length = bs ∧ ∃ y, t.strand? u = some y ∧ ∀ v ∈ y.mem.trains, v.id = tr → ∀ q ∈ v.elems, q.n ≠ n := by
  obtain ⟨hx, _, _⟩ := enterable_spec h
  obtain ⟨y, hy, hgone⟩ := leaveTrain_strand? hx tr n
  obtain ⟨htag, hst⟩ := elemTag_leaves (leaveTrain s u tr n) w n u e.loc
  obtain ⟨hlast, hstrand⟩ := enterBad_enter (s := (elemTag (leaveTrain s u tr n) w n).2)
    (hv.imp_right fun h => hst.trans ((stored_leaveTrain ..).trans h)) bs u x.cluster g w.id bs.length e.bad
  exact ⟨hlast, y, (hstrand u).trans (htag.trans hy), hgone⟩

theorem execEnterTrain_of_enterable {s : State} {u : StrandId} {tr n : Nat} {x : Strand} {w : Train} {e : TElem}
    (h : enterable s u tr n = some (x, w, e)) (ho : e.op = .store) (hm : e.mask = List.replicate e.data.length 0xFF) :
    exec (.enterTrain u tr n) s = .next (enterBad (enter (elemTag (leaveTrain s u tr n) w n).2 e.loc e.data u x.cluster .strand
      (elemTag (leaveTrain s u tr n) w n).1 w.id) e.loc e.data.length e.bad) := by
  have hbs : elemBytes memAddBytes s e = e.data := by
    unfold elemBytes
    simp only [ho, hm]
    rw [if_pos (by simp)]
  rw [exec_enterTrain, execEnterTrain]
  simp only [h, ho, hbs, beq_self_eq_true, if_true]

theorem execAtomic_of_addable {s : State} {u : StrandId} {tr n f : Nat} {x : Strand} {w : Train} {e : TElem}
    (h : enterable s u tr n = some (x, w, e)) (ho : e.op = .add f) (hr : atomicReady s x w.id e.loc e.data.length = true) {bs : List Byte}
    (hbs : memAddBytes f (lastBytes s e.loc e.data.length) e.data = bs) :
    exec (.atomic u tr n) s = .next (enterBad (enter (elemTag (leaveTrain s u tr n) w n).2 e.loc bs u x.cluster (amoScope e.loc)
      (elemTag (leaveTrain s u tr n) w n).1 w.id) e.loc bs.length e.bad) := by
  obtain ⟨_, hid, hn⟩ := enterable_spec h
  have hadd : addable s u tr n = some (x, w, e, f) := by
    unfold addable
    simp only [h, ho, hr, if_true]
  have hel : elemBytes memAddBytes s e = bs := by
    unfold elemBytes
    simp only [ho, hbs]
  rw [exec_atomic, execAtomic]
  simp only [hadd, hel, addOne, hid, hn]

/-! ## Widening -/

/-- Widening a write changes no byte at the end of coherence order. -/
theorem lastIn_set {rs : List WRec} {k : Nat} {r q : WRec} (hr : rs[k]? = some r) (hq : q.loc = r.loc ∧ q.bytes = r.bytes)
    (l : Loc) (b : Option Byte) :
    lastIn (rs.set k q) l b = lastIn rs l b := by
  induction rs generalizing k b with
  | nil => rfl
  | cons p rs ih =>
    cases k with
    | zero =>
      obtain rfl : p = r := by simpa using hr
      unfold lastIn
      rw [List.set_cons_zero, List.foldl_cons, List.foldl_cons, hq.1, hq.2]
    | succ k =>
      exact ih (by simpa using hr) _

theorem foldGo_log_length (rs : List WRec) : ∀ s : State, (foldGo rs s).log.length ≤ rs.length := by
  induction rs with
  | nil => exact fun _ => Nat.le_refl _
  | cons r rs ih =>
    intro s
    unfold foldGo
    split
    · exact Nat.le_succ_of_le (ih _)
    · exact Nat.le_refl _

theorem execWiden_of_may {s : State} {k : Nat} {r : WRec} (hr : s.log[k]? = some r) (h : mayWiden s k r = true) :
    ∃ t, exec (.widen k) s = .next t ∧ t.cpu = s.cpu ∧ t.log.length ≤ s.log.length ∧
      ∀ l, stored s l = true → lastBytes t l 1 = lastBytes s l 1 := by
  refine ⟨foldLog { s with log := s.log.set k { r with vis := scopeNext r.vis } }, ?_, (foldGo_aside _ _).cpu,
    (foldGo_log_length _ _).trans (Nat.le_of_eq List.length_set), fun l hl => ?_⟩
  · rw [exec_widen, execWiden]
    simp only [hr, h, if_true]
  · rw [lastBytes_eq, lastBytes_eq]
    refine List.map_congr_left fun i _ => (endByte_foldGo _ ?_).trans ?_
    · cases l <;> exact hl
    · rw [lastIn_set (q := { r with vis := scopeNext r.vis }) hr ⟨rfl, rfl⟩]
      rfl

theorem execWiden_of_not {s : State} {k : Nat} {r : WRec} (hr : s.log[k]? = some r) (h : mayWiden s k r = false) : exec (.widen k) s = .next s := by
  rw [exec_widen, execWiden]
  simp only [hr, h, Bool.false_eq_true, if_false]

theorem mayWiden_plain {s : State} {k : Nat} {r : WRec} (ht : r.tag = .plain) (hv : r.vis ≠ .system) (hm : r.vis.code < (maxVis r.loc).code) :
    mayWiden s k r = true := by
  unfold mayWiden
  simp [ht, hv, hm]

/-- Settles O49: the scalar store through its buffer, the elements of a train, an addition, and widening. -/
theorem writesEnter : Obligations.WritesEnter := by
  refine ⟨fun s u x e es hx => ⟨fun hp he => ?waiting, fun hp he => ?push, execEnterScalar_of_held hx, fun hs hh => ?scalar⟩,
    fun s u tr n x hx => ?supply, fun s u tr n x w e h => ⟨fun ho hm => ?store, fun f ho hr hl hn => ?add⟩,
    fun s k r hr => ⟨execWiden_of_not hr, mayWiden_plain, fun h => ?widen⟩⟩
  case waiting =>
    obtain ⟨t, ht, hy⟩ := execPush_of_waiting hx hp he
    exact ⟨t, x, ht, hy, rfl, rfl⟩
  case push =>
    obtain ⟨t, ht, hy, hm, hl⟩ := execPush_of_data hx hp he
    exact ⟨t, _, ht, hy, rfl, rfl, hm, hl⟩
  case scalar =>
    obtain ⟨t, ht, hy, hl⟩ := execEnterScalar_enters hx hs hh
    exact ⟨t, _, ht, hy, rfl, rfl, hl⟩
  case supply =>
    obtain ⟨t, y, ht, hy, hm, hl, htrains⟩ := execSupply_leaves (tr := tr) (n := n) hx
    refine ⟨t, y, ht, hy, ?_, hm, hl, fun hready w hw hid e he hen => ?_⟩
    · rw [htrains, List.map_map]
      exact List.map_congr_left fun w _ => by dsimp only [Function.comp]; split <;> rfl
    · rw [htrains] at hw
      obtain ⟨v, hv, rfl⟩ := List.mem_map.mp hw
      split at he
      · next htr =>
        obtain ⟨q, hq, rfl⟩ := List.mem_map.mp he
        have hqn : q.n = n := by
          split at hen
          · exact (q.supply_n _).symm.trans hen
          · exact hen
        rw [if_pos (by simpa using hqn)]
        exact TElem.supply_supplied (hready v hv (by simpa using htr) q hq hqn)
      · next htr =>
        rw [if_neg htr] at hid
        exact absurd (by simpa using hid) htr
  case store =>
    obtain ⟨hlast, hgone⟩ := element_enters h (.inl (strand_not_widest e.loc)) e.data (elemTag (leaveTrain s u tr n) w n).1
    exact ⟨_, execEnterTrain_of_enterable h ho hm, hlast, hgone⟩
  case add =>
    generalize hbs : memAddBytes f (lastBytes s e.loc e.data.length) e.data = bs at hn ⊢
    obtain ⟨hlast, hgone⟩ := element_enters h (.inr hl) (v := amoScope e.loc) bs (elemTag (leaveTrain s u tr n) w n).1
    exact ⟨_, execAtomic_of_addable h ho hr hbs, hn ▸ hlast, hgone⟩
  case widen =>
    obtain ⟨t, ht, hcpu, hlen, hlast⟩ := execWiden_of_may hr h
    refine ⟨t, ht, hcpu, hlen, fun l hl => hlast l ?_⟩
    cases l with
    | dev a | host a | fw a => rfl
    | spad n o | remote d w o | image a => exact absurd hl id

end Sys2Proof.Machine
end
